-- ==== Sys2Proof/Word.lean ====
section
/-! DEFINITION. The word types of Eppor (00 R3, R4): bytes, words, dwords and quads as bit vectors. -/

namespace Sys2Proof

/-- 8 bits, the unit of memory (00 R3). -/
abbrev Byte := BitVec 8
/-- 16 bits. -/
abbrev Half := BitVec 16
/-- 32 bits, one register (04 R75). -/
abbrev Word := BitVec 32
/-- 64 bits, a register pair (04 R75). -/
abbrev DWord := BitVec 64
/-- 128 bits, a register quad (04 R75). -/
abbrev Quad := BitVec 128

/-- The low word of a dword. -/
def DWord.lo (x : DWord) : Word := x.extractLsb' 0 32
/-- The high word of a dword. -/
def DWord.hi (x : DWord) : Word := x.extractLsb' 32 32
/-- The dword of a high and a low word. -/
def DWord.mk2 (hi lo : Word) : DWord := hi ++ lo

end Sys2Proof
end

