-- ==== Sys2Proof/Syntax.lean ====
section
/-! DEFINITION. The instructions and events of the Marinafel M8: one constructor of `Instr` for each row of
spec/opcode_table.json, over the operand forms of chapter 05. -/

namespace Sys2Proof

/-- Operation types, 05 Table 5.7. -/
inductive Ty where
  | i32 | n32 | i64 | n64 | i16 | n16 | i8 | n8 | f32 | f16 | bf16 | e4m3 | e5m2 | q4 | e3m2 | e2m3
  | b32 | b64 | b128
  deriving DecidableEq, Repr

/-- Rounding codes, 05 Table 5.8; `dyn` reads DRM of the lane's `%fpctl`. -/
inductive Rm where
  | rne | rz | ru | rd | rna | dyn
  deriving DecidableEq, Repr

/-- Scopes, 05 Table 5.8. -/
inductive Scope where
  | th | wv | wg | gn | ch | pk | sy
  deriving DecidableEq, Repr

/-- An operand: a register of one of the four files, zero, `%lane`, the literal, a special register, an
immediate (05 Tables 5.3, 5.5, 5.6), or no operand in a field the instruction does not use (05 R109). -/
inductive Opd where
  | none
  | v (i : BitVec 8)
  | k (i : BitVec 3)
  | h (i : BitVec 1)
  | zero
  | lane
  | lit
  | sreg (n : BitVec 4)
  | imm (x : BitVec 6)
  | pred (i : BitVec 3) (inv : Bool)
  deriving DecidableEq, Repr

/-- The operands of a base form (05 Table 5.2): `lit` is the literal when LEN is 01. -/
structure BaseArgs where
  d : Opd
  a : Opd
  b : Opd
  ea : Bool
  eb : Bool
  xb : BitVec 2
  lit : Option DWord
  deriving DecidableEq, Repr

/-- The operands of an extended form (05 Table 5.4): `lit` is the literal when LEN is 11. -/
structure ExtArgs where
  d : Opd
  a : Opd
  b : Opd
  c : Opd
  ea : Bool
  eb : Bool
  ec : Bool
  ty : Ty
  rm : Rm
  sc : Scope
  md : BitVec 6
  aux : BitVec 8
  x18 : BitVec 18
  xb : BitVec 2
  lit : Option DWord
  deriving DecidableEq, Repr

/-- Where the extended `JOIN` takes its meeting address from (02 Table 2.6). -/
inductive JoinTarget where
  | keep
  | off (x : BitVec 18)
  | lit (x : DWord)
  deriving DecidableEq, Repr

/-- The instructions (rows 0 to 224 of the opcode table, three of them events of the core) and the events of the
module (rows 225 to 316).  An event names the part it happens in: chip, stack, core, wave and so on, by number;
a message names the sending and the receiving chip. -/
inductive Instr where
  /-- NOP (R451). Base word with no effect that takes an issue opportunity and consumes a guard bit. -/
  | nop
  /-- BR (R388). Branches every thread of the issuing group to PC plus a signed 20-bit word offset. -/
  | br (off : BitVec 20)
  /-- BR_LIT (R387). Branches every thread of the group to a 64-bit literal absolute target. -/
  | brLit (target : DWord)
  /-- BRP (R388). Branches each lane whose predicate XOR SENSE is true, by a signed 16-bit word offset. -/
  | brp (p : BitVec 3) (sense : Bool) (off : BitVec 16)
  /-- BRP_LIT (R387). Branches each lane whose predicate XOR SENSE is true, to a literal absolute target. -/
  | brpLit (p : BitVec 3) (sense : Bool) (target : DWord)
  /-- BRX (R388). Branches each lane to the 64-bit target held in a register pair, with bits [1:0] cleared. -/
  | brx (f : BaseArgs)
  /-- CALL (R393). Writes the return address to k6.d and branches by a signed 20-bit word offset. -/
  | call (off : BitVec 20)
  /-- CALL_LIT (R393). Writes the return address to k6.d and branches to a literal absolute target. -/
  | callLit (target : DWord)
  /-- RET (R466). Branches every thread to the 64-bit address held in the named pair. -/
  | ret (f : BaseArgs)
  /-- JOIN (R35). Base form: sets each thread's meeting address from a 14-bit offset and returns the old %meet to a pair. -/
  | join (d : Opd) (off : BitVec 14)
  /-- JOIN_LIT (R35). Base form with a literal target: sets each thread's meeting address to the literal. -/
  | joinLit (d : Opd) (target : DWord)
  /-- JOIN_EXT (R35). Extended form: sets %meet and, with .rgn, commits the idempotent region; .keep leaves %meet unchanged. -/
  | joinExt (d : Opd) (rgn : Bool) (target : JoinTarget)
  /-- EXIT (R407). Makes each active thread Exited, commits the region and may trigger the release rule. -/
  | exit
  /-- PBLK (R113). Sets each thread's guard state so that it covers the next one to eight instructions. -/
  | pblk (inv : Bool) (pred cnt : BitVec 3) (pat : BitVec 8)
  /-- YIELD (R505). Lets other Deferred or Held groups of the wave issue, by the choice of R31. -/
  | yield
  /-- SLEEP (R488). Base form: makes the wave not ready for a number of its core's clocks. -/
  | sleep (f : BaseArgs)
  /-- SLEEP_EXT (R488). Extended form of SLEEP, which may take an immediate count. -/
  | sleepExt (f : ExtArgs)
  /-- SLEEP_END (R488). The sleep count expires and the wave becomes ready again. -/
  | sleepEnd (wave : Nat)
  /-- TRAP (R497). Raises the precise TRAP cause with ADDRLO equal to CODE. -/
  | trap (code : BitVec 18)
  /-- RTE (R316). Ends the handler, restores set-aside state, resumes lanes and lifts the halt. -/
  | rte
  /-- BRK (R390). Raises the precise BRK trap with ADDRLO equal to CODE. -/
  | brk (code : BitVec 18)
  /-- MONA (R446). Adds the 128-byte line holding each lane's address to the wave's monitor set and registers it at its watcher. -/
  | mona (f : ExtArgs)
  /-- MWAIT (R448). Waits until the monitor set fires or the timeout passes, then returns a status and clears the set. -/
  | mwait (f : ExtArgs)
  /-- MWAIT_WAKE (R448). The fired flag wakes the wave's Waiting threads, which become Deferred with status 1. -/
  | mwaitWake (wave : Nat)
  /-- MONITOR_TIMEOUT_EXPIRY (R318). An MWAIT timeout expires: the threads get status 2, or MONITOR_TIMEOUT is raised when the
  destination is zero. -/
  | monitorTimeoutExpiry (wave : Nat)
  /-- LAUNCH (R432). Links a launch record into a region's list with a strong CAS on LTAIL and then a strong store or exchange. -/
  | launch (f : ExtArgs)
  /-- IADD (R427). Base form: wrapping integer add at .i32. -/
  | iadd (f : BaseArgs)
  /-- IADD_EXT (R427). Extended form: wrapping integer add at a typed width. -/
  | iaddExt (f : ExtArgs)
  /-- ISUB (R427). Base form: wrapping integer subtract. -/
  | isub (f : BaseArgs)
  /-- ISUB_EXT (R427). Extended form: wrapping integer subtract. -/
  | isubExt (f : ExtArgs)
  /-- IMUL (R427). Base form: low word of the integer product. -/
  | imul (f : BaseArgs)
  /-- IMUL_EXT (R427). Extended form: low part of the integer product. -/
  | imulExt (f : ExtArgs)
  /-- IMULH (R427). Base form: high word of the signed 64-bit product. -/
  | imulh (f : BaseArgs)
  /-- IMULH_EXT (R427). Extended form: high half of the signed or natural product. -/
  | imulhExt (f : ExtArgs)
  /-- IMAD (R427). Base form: a·b + c, with c read from and the result written to D. -/
  | imad (f : BaseArgs)
  /-- IMAD_EXT (R427). Extended form: wrapping a·b + c with c in C9. -/
  | imadExt (f : ExtArgs)
  /-- IMIN (R427). Base form: smaller of two signed words. -/
  | imin (f : BaseArgs)
  /-- IMIN_EXT (R427). Extended form: typed integer minimum. -/
  | iminExt (f : ExtArgs)
  /-- IMAX (R427). Base form: larger of two signed words. -/
  | imax (f : BaseArgs)
  /-- IMAX_EXT (R427). Extended form: typed integer maximum. -/
  | imaxExt (f : ExtArgs)
  /-- IABS (R427). Base form: absolute value modulo 2^32. -/
  | iabs (f : BaseArgs)
  /-- IABS_EXT (R427). Extended form: typed absolute value. -/
  | iabsExt (f : ExtArgs)
  /-- AND (R375). Base form: bitwise AND at .b32. -/
  | and (f : BaseArgs)
  /-- AND_EXT (R375). Extended form: bitwise AND at 32, 64 or 128 bits. -/
  | andExt (f : ExtArgs)
  /-- OR (R452). Base form: bitwise OR. -/
  | or (f : BaseArgs)
  /-- OR_EXT (R452). Extended form: bitwise OR. -/
  | orExt (f : ExtArgs)
  /-- XOR (R504). Base form: bitwise exclusive OR. -/
  | xor (f : BaseArgs)
  /-- XOR_EXT (R504). Extended form: bitwise exclusive OR. -/
  | xorExt (f : ExtArgs)
  /-- NOT (R452). Base form: bitwise complement. -/
  | not (f : BaseArgs)
  /-- NOT_EXT (R452). Extended form: bitwise complement. -/
  | notExt (f : ExtArgs)
  /-- SHL (R485). Base form: logical shift left. -/
  | shl (f : BaseArgs)
  /-- SHL_EXT (R485). Extended form: logical shift left. -/
  | shlExt (f : ExtArgs)
  /-- SHR (R485). Base form: logical shift right. -/
  | shr (f : BaseArgs)
  /-- SHR_EXT (R485). Extended form: logical shift right. -/
  | shrExt (f : ExtArgs)
  /-- SHA (R485). Base form: arithmetic shift right. -/
  | sha (f : BaseArgs)
  /-- SHA_EXT (R485). Extended form: arithmetic shift right. -/
  | shaExt (f : ExtArgs)
  /-- ROT (R452). Base form: rotate left. -/
  | rot (f : BaseArgs)
  /-- ROT_EXT (R452). Extended form: rotate left. -/
  | rotExt (f : ExtArgs)
  /-- POPC (R452). Base form: population count. -/
  | popc (f : BaseArgs)
  /-- POPC_EXT (R452). Extended form: population count of 32 or 64 bits. -/
  | popcExt (f : ExtArgs)
  /-- CLZ (R395). Base form: count of leading zeros. -/
  | clz (f : BaseArgs)
  /-- CLZ_EXT (R395). Extended form: count of leading zeros of 32 or 64 bits. -/
  | clzExt (f : ExtArgs)
  /-- BREV (R389). Base form: bit reversal. -/
  | brev (f : BaseArgs)
  /-- BREV_EXT (R389). Extended form: bit reversal of 32 or 64 bits. -/
  | brevExt (f : ExtArgs)
  /-- BFX (R386). Extracts a bit field, with sign or zero extension. -/
  | bfx (f : ExtArgs)
  /-- BFI (R386). Inserts a bit field into a base value. -/
  | bfi (f : ExtArgs)
  /-- ICMP (R428). Base form: integer compare to a predicate, with the condition in XB. -/
  | icmp (f : BaseArgs)
  /-- ICMP_EXT (R428). Extended form: typed integer compare to a predicate. -/
  | icmpExt (f : ExtArgs)
  /-- SEL (R484). Base form: selects A or B by predicate p0-p3, named in XB. -/
  | sel (f : BaseArgs)
  /-- SEL_EXT (R484). Extended form: selects A or B by a possibly inverted predicate. -/
  | selExt (f : ExtArgs)
  /-- LEA (R438). Computes base + (index << sh) + offset modulo 2^64. -/
  | lea (f : ExtArgs)
  /-- IADDS (R427). Base form: saturating add. -/
  | iadds (f : BaseArgs)
  /-- IADDS_EXT (R427). Extended form: typed saturating add. -/
  | iaddsExt (f : ExtArgs)
  /-- IDIV (R427). Base form: long-latency truncating divide, with divide-by-zero handling. -/
  | idiv (f : BaseArgs)
  /-- IDIV_EXT (R427). Extended form: typed long-latency divide. -/
  | idivExt (f : ExtArgs)
  /-- IREM (R427). Base form: long-latency remainder with the sign of the dividend. -/
  | irem (f : BaseArgs)
  /-- IREM_EXT (R427). Extended form: typed long-latency remainder. -/
  | iremExt (f : ExtArgs)
  /-- MOV (R449). Base form: copies a 32-bit operand bit for bit. -/
  | mov (f : BaseArgs)
  /-- MOV_EXT (R449). Extended form: copies 32, 64 or 128 bits. -/
  | movExt (f : ExtArgs)
  /-- MOVI (R450). Writes a 64-bit literal to a pair. -/
  | movi (f : BaseArgs)
  /-- SRD (R490). Base form: reads a special register by number. -/
  | srd (f : BaseArgs)
  /-- SRD_EXT (R490). Extended form: reads a special register named in X18. -/
  | srdExt (f : ExtArgs)
  /-- SWR (R490). Base form: writes %meet, %fpctl or %fpflags, checking DRM first. -/
  | swr (f : BaseArgs)
  /-- SWR_EXT (R490). Extended form: writes a special register named in X18. -/
  | swrExt (f : ExtArgs)
  /-- PMOV (R459). Base form: moves between predicates and registers, with the mode in XB. -/
  | pmov (f : BaseArgs)
  /-- PMOV_EXT (R459). Extended form: moves between predicates and registers, with the mode in MOD. -/
  | pmovExt (f : ExtArgs)
  /-- PLOG (R458). Combines two possibly inverted predicates with AND, OR, XOR or ANDN. -/
  | plog (f : BaseArgs)
  /-- FADD (R409). Base form: f32 add with RNE. -/
  | fadd (f : BaseArgs)
  /-- FADD_EXT (R409). Extended form: typed floating add with a rounding mode. -/
  | faddExt (f : ExtArgs)
  /-- FSUB (R409). Base form: f32 subtract. -/
  | fsub (f : BaseArgs)
  /-- FSUB_EXT (R409). Extended form: typed floating subtract. -/
  | fsubExt (f : ExtArgs)
  /-- FMUL (R409). Base form: f32 multiply. -/
  | fmul (f : BaseArgs)
  /-- FMUL_EXT (R409). Extended form: typed floating multiply. -/
  | fmulExt (f : ExtArgs)
  /-- FFMA (R409). Base form: fused multiply-add, with c read from and the result written to D. -/
  | ffma (f : BaseArgs)
  /-- FFMA_EXT (R409). Extended form: fused multiply-add with c in C9. -/
  | ffmaExt (f : ExtArgs)
  /-- FMIN (R415). Base form: IEEE minimum, or minimumNumber with .num. -/
  | fmin (f : BaseArgs)
  /-- FMIN_EXT (R415). Extended form: typed floating minimum. -/
  | fminExt (f : ExtArgs)
  /-- FMAX (R415). Base form: IEEE maximum, or maximumNumber with .num. -/
  | fmax (f : BaseArgs)
  /-- FMAX_EXT (R415). Extended form: typed floating maximum. -/
  | fmaxExt (f : ExtArgs)
  /-- FCMP (R412). Base form: floating compare to a predicate. -/
  | fcmp (f : BaseArgs)
  /-- FCMP_EXT (R412). Extended form: typed floating compare to a predicate. -/
  | fcmpExt (f : ExtArgs)
  /-- FRCP (R409). Base form: long-latency correctly rounded reciprocal. -/
  | frcp (f : BaseArgs)
  /-- FRCP_EXT (R409). Extended form: typed reciprocal. -/
  | frcpExt (f : ExtArgs)
  /-- FRSQ (R409). Base form: long-latency reciprocal square root. -/
  | frsq (f : BaseArgs)
  /-- FRSQ_EXT (R409). Extended form: typed reciprocal square root. -/
  | frsqExt (f : ExtArgs)
  /-- FSQRT (R409). Base form: long-latency square root. -/
  | fsqrt (f : BaseArgs)
  /-- FSQRT_EXT (R409). Extended form: typed square root. -/
  | fsqrtExt (f : ExtArgs)
  /-- FEXP2 (R409). Base form: long-latency 2^a. -/
  | fexp2 (f : BaseArgs)
  /-- FEXP2_EXT (R409). Extended form: typed 2^a. -/
  | fexp2Ext (f : ExtArgs)
  /-- FLOG2 (R409). Base form: long-latency log2 a. -/
  | flog2 (f : BaseArgs)
  /-- FLOG2_EXT (R409). Extended form: typed log2 a. -/
  | flog2Ext (f : ExtArgs)
  /-- FSIN (R409). Base form: long-latency sine. -/
  | fsin (f : BaseArgs)
  /-- FSIN_EXT (R409). Extended form: typed sine. -/
  | fsinExt (f : ExtArgs)
  /-- FCOS (R409). Base form: long-latency cosine. -/
  | fcos (f : BaseArgs)
  /-- FCOS_EXT (R409). Extended form: typed cosine. -/
  | fcosExt (f : ExtArgs)
  /-- FDIV (R409). Base form: long-latency floating divide. -/
  | fdiv (f : BaseArgs)
  /-- FDIV_EXT (R409). Extended form: typed floating divide. -/
  | fdivExt (f : ExtArgs)
  /-- FRND (R409). Base form: rounds to an integral value with RNE. -/
  | frnd (f : BaseArgs)
  /-- FRND_EXT (R409). Extended form: rounds to an integral value in the mode given. -/
  | frndExt (f : ExtArgs)
  /-- FCLS (R411). Base form: writes a one-hot class mask of a floating value. -/
  | fcls (f : BaseArgs)
  /-- FCLS_EXT (R411). Extended form: typed classification. -/
  | fclsExt (f : ExtArgs)
  /-- FSCL (R409). Base form: a·2^n with one rounding. -/
  | fscl (f : BaseArgs)
  /-- FSCL_EXT (R409). Extended form: typed a·2^n. -/
  | fsclExt (f : ExtArgs)
  /-- FDOT2 (R413). Two-element f16 or bf16 dot product plus an f32 addend, rounded once. -/
  | fdot2 (f : ExtArgs)
  /-- FDOT4 (R413). Four-element e4m3 or e5m2 dot product plus an f32 addend, rounded once. -/
  | fdot4 (f : ExtArgs)
  /-- FMXI (R416). Keeps the (value, index) pair that wins under the maximum order of Better. -/
  | fmxi (f : ExtArgs)
  /-- FMNI (R416). Keeps the (value, index) pair that wins under the minimum order of Better. -/
  | fmni (f : ExtArgs)
  /-- CVT (R401). Converts one value between integer and floating types, with optional saturation. -/
  | cvt (f : ExtArgs)
  /-- CVTPK (R403). Converts f32 sources to a narrow format and packs them. -/
  | cvtpk (f : ExtArgs)
  /-- UNPK (R500). Unpacks narrow-format elements to exact f32 values. -/
  | unpk (f : ExtArgs)
  /-- QSCL (R463). Encodes or decodes one element under a block head's format and scale. -/
  | qscl (f : ExtArgs)
  /-- HDMK (R424). Makes a block head from a largest magnitude, or pairs two heads. -/
  | hdmk (f : ExtArgs)
  /-- CMPRS (R397). Keeps the two largest-magnitude elements of each group of four, or returns their indices. -/
  | cmprs (f : ExtArgs)
  /-- SHFL (R487). Base form: exchanges values between lanes, with the mode in XB. -/
  | shfl (f : BaseArgs)
  /-- SHFL_EXT (R487). Extended form: lane exchange at 32 or 64 bits. -/
  | shflExt (f : ExtArgs)
  /-- VOTE (R501). Base form: any, all, eq or ballot over the active lanes' predicates. -/
  | vote (f : BaseArgs)
  /-- VOTE_EXT (R501). Extended form: vote with the mode in MOD. -/
  | voteExt (f : ExtArgs)
  /-- REDL (R465). Reduces the active lanes' values by a fixed tree and writes the result to every active lane. -/
  | redl (f : ExtArgs)
  /-- SCANL (R481). Computes an inclusive scan over the active lanes by a fixed network. -/
  | scanl (f : ExtArgs)
  /-- MATCH (R443). Writes masks of the active lanes that hold equal values. -/
  | matchLanes (f : ExtArgs)
  /-- ELECT (R406). Base form: writes 1 in the lowest active lane and 0 in the others. -/
  | elect (f : BaseArgs)
  /-- ELECT_EXT (R406). Extended form of ELECT, reaching v48-v255. -/
  | electExt (f : ExtArgs)
  /-- LD (R435). Loads from global memory per lane, optionally as an acquire. -/
  | ld (f : ExtArgs)
  /-- ST (R492). Stores per lane through the write queue, held while the region is open, optionally as a release. -/
  | st (f : ExtArgs)
  /-- LDL (R436). Loads from scratchpad, waiting on empty lines or segments in T. -/
  | ldl (f : ExtArgs)
  /-- STL (R493). Stores to scratchpad and sets the touched lines full. -/
  | stl (f : ExtArgs)
  /-- ATOM (R378). Performs an atomic read-modify-write at the home, one entry per 64-byte block. -/
  | atom (f : ExtArgs)
  /-- ATOML (R380). Performs an atomic in the scratchpad that holds the byte. -/
  | atoml (f : ExtArgs)
  /-- SATOM (R479). Sends one strong atomic request per lane to the Col for a slot. -/
  | satom (f : ExtArgs)
  /-- SST (R479). Sends one strong store request per lane. -/
  | sst (f : ExtArgs)
  /-- SLD (R479). Sends one strong load request per lane and returns the value at its slot. -/
  | sld (f : ExtArgs)
  /-- FENCE_ACQ (R197). Acquire fence: makes earlier reads acquires and invalidates L1 lines. -/
  | fenceAcq (f : ExtArgs)
  /-- FENCE_REL (R197). Release fence: waits per Table 9.3 and signs the wave's later stores. -/
  | fenceRel (f : ExtArgs)
  /-- FENCE_AR (R197). Acquire and release fence. -/
  | fenceAr (f : ExtArgs)
  /-- WFENCE (R502). Commits the region and waits until the wave's entries and SEGU/WBR are complete. -/
  | wfence (f : ExtArgs)
  /-- RFENCE (R220). Waits until every member has applied the chip's replicated updates accepted before it. -/
  | rfence (f : ExtArgs)
  /-- PREF (R460). Requests a line into L1 or the home stack cache, dropped silently on failure. -/
  | pref (f : ExtArgs)
  /-- DISC_LINE (R405). Removes the issuing core's L1 line that holds each lane's address. -/
  | discLine (f : ExtArgs)
  /-- DISC_ALL (R405). Removes every line of the issuing core's L1. -/
  | discAll (f : ExtArgs)
  /-- WBR (R483). Writes back an owned segment's dirty lines and keeps it in O. -/
  | wbr (f : ExtArgs)
  /-- SEGB (R483). Binds an own segment to a 4 KiB region in shared or owned mode and sends the fill. -/
  | segb (f : ExtArgs)
  /-- SEGU (R483). Unbinds a segment with a clean or dirty notice. -/
  | segu (f : ExtArgs)
  /-- PTST (R260). Strong store of a 64-bit page-table entry, one request per lane. -/
  | ptst (f : ExtArgs)
  /-- PTLD (R261). Reads a page-table word from the local replica. -/
  | ptld (f : ExtArgs)
  /-- TLBI_PAGE (R262). Removes the translation of one page per lane. -/
  | tlbiPage (f : ExtArgs)
  /-- TLBI_ASID (R262). Removes every non-global translation of one ASID. -/
  | tlbiAsid (f : ExtArgs)
  /-- TLBI_ALL (R262). Removes every translation. -/
  | tlbiAll (f : ExtArgs)
  /-- XFENCE_PT (R263). Waits until every member has applied the wave's earlier PTST grants. -/
  | xfencePt (f : ExtArgs)
  /-- XFENCE_INV (R263). Waits until the wave's earlier TLBIs have completed everywhere. -/
  | xfenceInv (f : ExtArgs)
  /-- XFENCE_AD (R263). Waits until A/D updates caused by the wave have been applied by every member. -/
  | xfenceAd (f : ExtArgs)
  /-- XFENCE_ALL (R263). Waits for all three XFENCE conditions. -/
  | xfenceAll (f : ExtArgs)
  /-- MIGR (R268). Moves a page to a new physical page through a moving state, unmap completion, copy and remap. -/
  | migr (f : ExtArgs)
  /-- MIGR_EVAC (R269). Evacuates a page from a retired channel, refusing writes at the old home once the copy begins. -/
  | migrEvac (f : ExtArgs)
  /-- BVER (R392). Strongly stores a new buffer version for a buffer-table entry. -/
  | bver (f : ExtArgs)
  /-- CPY (R399). Starts a per-lane copy between global memory and scratchpad. -/
  | cpy (f : ExtArgs)
  /-- TCPY (R494). Reads a tensor descriptor and starts a multi-dimensional copy. -/
  | tcpy (f : ExtArgs)
  /-- KICK (R430). Writes the kick register to start a scratchpad request list. -/
  | kick (f : ExtArgs)
  /-- BARI (R383). Starts a barrier-object phase with pending bytes and arrivals. -/
  | bari (f : ExtArgs)
  /-- BARA (R383). Arrives at a barrier object as a gang-scope release, adding bytes. -/
  | bara (f : ExtArgs)
  /-- BARW (R383). Waits for a barrier object's phase to change, then returns the status as an acquire. -/
  | barw (f : ExtArgs)
  /-- BART (R383). Reads a barrier object's status without waiting. -/
  | bart (f : ExtArgs)
  /-- LEMP (R439). Sets empty every scratchpad line touched by a range. -/
  | lemp (f : ExtArgs)
  /-- LWT (R439). Waits until every line touched by a range is full. -/
  | lwt (f : ExtArgs)
  /-- GSUB (R421). Submits a dependence graph and launches its root nodes. -/
  | gsub (f : ExtArgs)
  /-- CFENCE_DONE (R288). Waits until every copy and graph of the wave has retired. -/
  | cfenceDone (f : ExtArgs)
  /-- CFENCE_READ (R288). Waits until every source byte and record of those copies has been read. -/
  | cfenceRead (f : ExtArgs)
  /-- OCLM (R454). Claims the lowest run of free operand slots. -/
  | oclm (f : ExtArgs)
  /-- OREL (R454). Releases operand slots once no accepted task names them. -/
  | orel (f : ExtArgs)
  /-- OFILL (R295). Fills an operand slot's data and heads from memory or scratchpad. -/
  | ofill (f : ExtArgs)
  /-- OFILL_OUT (R295). Writes an operand slot's data, and optionally its heads, out to memory or scratchpad. -/
  | ofillOut (f : ExtArgs)
  /-- OSTR_OPEN (R304). Opens a named operand stream over a ring of claimed slots. -/
  | ostrOpen (f : ExtArgs)
  /-- OSTR_POST (R304). Waits as OPF does and posts the next n stream entries. -/
  | ostrPost (f : ExtArgs)
  /-- OSTR_CLOSE (R305). Stops further posts to a stream. -/
  | ostrClose (f : ExtArgs)
  /-- OSUB (R304). Subscribes the workgroup to a named stream and returns a handle. -/
  | osub (f : ExtArgs)
  /-- OSUB_DROP (R304). Ends a subscription, counting its unread entries as consumed. -/
  | osubDrop (f : ExtArgs)
  /-- ACLM (R370). Claims the lowest run of free accumulator slots. -/
  | aclm (f : ExtArgs)
  /-- AREL (R370). Releases accumulator slots once no incomplete task uses them. -/
  | arel (f : ExtArgs)
  /-- AINI (R372). Sets an accumulator slot's mode and initial value and clears its mask and status. -/
  | aini (f : ExtArgs)
  /-- ALD (R374). Reads and converts one accumulator element, or its status. -/
  | ald (f : ExtArgs)
  /-- OPF (R296). Commits the region and waits for earlier fills, as a workgroup-scope release. -/
  | opf
  /-- TTSK (R298). Creates or joins a tile task from a scratchpad record. -/
  | ttsk (f : ExtArgs)
  /-- TWAIT (R306). Waits until a task, or all of the wave's tasks, complete, then returns the status. -/
  | twait (f : ExtArgs)
  /-- HNDW (R425). Waits until a hand-off word equals i, reading it at its home as an acquire. -/
  | hndw (f : ExtArgs)
  /-- HNDP (R425). Releases, then writes i+1 to the hand-off word. -/
  | hndp (f : ExtArgs)
  /-- BAR (R381). Arrives at the workgroup barrier as a release and blocks until the phase completes. -/
  | bar
  /-- GBAR (R418). Arrives at the gang barrier with a signature and blocks until the phase completes. -/
  | gbar
  /-- TOKW (R334). Waits until the wave holds the commit token of an ordered launch. -/
  | tokw
  /-- TOKP (R334). Releases and passes the commit token to the next wave. -/
  | tokp
  /-- RSEND (R471). Releases, then appends one routing token per lane to the core's send list. -/
  | rsend (f : ExtArgs)
  /-- RFLSH_GO (R474). Sends every send list that holds a token of the wave. -/
  | rflshGo (f : ExtArgs)
  /-- RFLSH_WAIT (R474). Sends the lists and waits until each of the wave's tokens is delivered or refused. -/
  | rflshWait (f : ExtArgs)
  /-- RPOLL_OPEN (R475). Opens an inbox ring of the issuing chip. -/
  | rpollOpen (f : ExtArgs)
  /-- RPOLL_CNT (R476). Returns LANDED as a package-scope acquire. -/
  | rpollCnt (f : ExtArgs)
  /-- RPOLL_FREE (R476). Advances FREED after the wave's earlier accesses complete. -/
  | rpollFree (f : ExtArgs)
  /-- RPOLL_CLOSE (R475). Closes an inbox. -/
  | rpollClose (f : ExtArgs)
  /-- RPOLL_SENT (R475). Returns the wave's DELIVERED count. -/
  | rpollSent (f : ExtArgs)
  /-- RPOLL_REFD (R475). Returns the wave's REFUSED count. -/
  | rpollRefd (f : ExtArgs)
  /-- FREC (R417). Reads a field of the lane or wave fault record. -/
  | frec (f : ExtArgs)
  /-- LFIX (R441). Writes a value to each parked lane's recorded destination and unparks the lane. -/
  | lfix (f : ExtArgs)
  /-- PERF_READ (R457). Reads one of the core's performance counters. -/
  | perfRead (f : ExtArgs)
  /-- PERF_CLR (R457). Clears every counter of the core. -/
  | perfClr (f : ExtArgs)
  /-- HCAP_CFG (R351). Configures and clears a health monitor. -/
  | hcapCfg (f : ExtArgs)
  /-- HCAP_RD (R351). Reads a health monitor's minimum, maximum, count, configuration or bin. -/
  | hcapRd (f : ExtArgs)
  /-- HCAP_CLR (R351). Clears a health monitor. -/
  | hcapClr (f : ExtArgs)
  /-- DGST (R345). Folds a SHAKE256 hash of each lane's value into a 256-bit digest word at its home. -/
  | dgst (f : ExtArgs)
  /-- ASYNC_TRAP_DELIVERY (R309). A pending class A event traps the wave at its next issue opportunity. -/
  | asyncTrapDelivery (wave : Nat)
  /-- HANDLER_WATCHDOG (R317). A handler reaches 65,536 instructions without RTE and the gang is killed. -/
  | handlerWatchdog (wave : Nat)
  /-- WRITE_BACKPRESSURE (R182). A write stall reaches WSTALL with WBPT set and the wave traps. -/
  | writeBackpressure (wave : Nat)
  /-- PAGE_REQUEST_RESPONSE (R320). System software writes RESP and the waiters retranslate or trap. -/
  | pageRequestResponse (chip entry : Nat) (resp : Word)
  /-- PRHEAD_WRITE (R320). A write to PRHEAD recomputes the chip's count of unread page requests. -/
  | prheadWrite (chip : Nat) (value : DWord)
  /-- PRLEN_WRITE (R320). A write to PRLEN stores a legal length or 0. -/
  | prlenWrite (chip : Nat) (value : DWord)
  /-- KLAUNCH_WRITE (R328). Kills every resident gang of the named launch on this chip. -/
  | klaunchWrite (chip : Nat) (value : DWord)
  /-- CAMPION_PLACEMENT (R60). Campion walks the region tree and places, restores or pre-empts a gang on a quad. -/
  | campionPlacement (chip : Nat)
  /-- CONTEXT_SAVE (R323). Once the victim's handlers have reached RTE, evicted waves stop and take the CONTEXT save trap. -/
  | contextSave (gang : Nat)
  /-- SWAP_OUT (R67). A gang that has waited SWAPT clocks is evicted and re-queued with its wake condition. -/
  | swapOut (gang : Nat)
  /-- WORKGROUP_EXIT (R327). Frees the workgroup's resources once its tasks, copies, strong requests and windows have finished. -/
  | workgroupExit (wg : Nat)
  /-- GANG_RETIRE (R65). Clears the placement entry and adds 1 to RETG. -/
  | gangRetire (gang : Nat)
  /-- LAUNCH_DONE (R58). After all the launch's effects have finished, Campion strongly adds 1 to DONE. -/
  | launchDone (chip record : Nat)
  /-- WRITE_LANE_GRANT (R180). The stack's write scheduler grants one 64-byte block per slot. -/
  | writeLaneGrant (stack : Nat)
  /-- WCAP_WINDOW (R181). A new 4,096-clock window resets the WCAP counts. -/
  | wcapWindow (stack : Nat)
  /-- WQ_ENTRY_PERFORM (R176). A store or atomic entry is accepted at its home and freed. -/
  | wqEntryPerform (core entry : Nat)
  /-- LOAD_RETURN (R78). A long-latency result arrives, is written and marks its destination full. -/
  | loadReturn (wave load : Nat)
  /-- HCAP_LEVEL_SAMPLE (R351). A level source is sampled once per PERIOD. -/
  | hcapLevelSample (core monitor : Nat) (level : Word)
  /-- WINDOW_FILL_REQUEST (R241). A fill request reaches the home directory and is served through the region queue. -/
  | windowFillRequest (core seg : Nat)
  /-- WINDOW_FILL_DATA (R238). A window line arrives and is set full; the last line enters the bound mode. -/
  | windowFillData (core seg line : Nat)
  /-- WINDOW_NOTICE (R242). A clean or dirty notice reaches the home and updates the entry. -/
  | windowNotice (core seg : Nat)
  /-- WINDOW_INV (R239). An INV makes the holder empty its shared segment with a refetch due, or answer GONE. -/
  | windowInv (core seg : Nat)
  /-- WINDOW_RECALL (R239). A RECALL makes the holder write back its dirty bytes and enter T with a refetch due. -/
  | windowRecall (core seg : Nat)
  /-- WINDOW_GONE (R242). A GONE reaches the home as a reply or is discarded. -/
  | windowGone (core seg : Nat)
  /-- WINDOW_NOTICE_ACK (R238). The home's acknowledgement returns an owned segment to I. -/
  | windowNoticeAck (core seg : Nat)
  /-- HOST_LINE_FILL (R249). A host line arrives through the directory chip and is cached in S or E. -/
  | hostLineFill (chip line : Nat)
  /-- SNP_DATA (R249). A host SnpData moves the line to S and returns its data. -/
  | snpData (chip line : Nat)
  /-- SNP_INV (R249). A host SnpInv invalidates the line, returning dirty data first. -/
  | snpInv (chip line : Nat)
  /-- SNP_CUR (R249). A host SnpCur returns current data without a state change. -/
  | snpCur (chip line : Nat)
  /-- HDM_READ (R355). A host read of the HDM range is served at the home or the port's replica; `own`: for ownership. -/
  | hdmRead (chip block : Nat) (own : Bool)
  /-- HDM_WRITE (R355). A host write of the HDM range is performed, becomes a weak update, or is dropped. -/
  | hdmWrite (chip block : Nat) (mask : DWord) (data : List Byte)
  /-- BIRSP (R356). The host's BIRsp lets the waiting write proceed. -/
  | birsp (chip block : Nat)
  /-- UPDATE_PACKET (R211). An update packet arrives and is held until Ready. -/
  | updatePacket (src dst : Nat)
  /-- GRANT_PACKET (R219). A grant packet from the Col arrives and is held in causal order. -/
  | grantPacket (src dst : Nat)
  /-- WRAP_PACKET (R223). A WRAP packet arrives; applying it resets applied[s] and sends WRAPACK. -/
  | wrapPacket (src dst : Nat)
  /-- PACKET_APPLY (R211). The receive engine applies a ready packet, updates sectors and applied[s], and completes granted operations. -/
  | packetApply (chip : Nat)
  /-- REQ_MESSAGE (R216). A strong request reaches every member and is kept pending. -/
  | reqMessage (src dst : Nat)
  /-- COL_GRANT (R218). The Col grants a grantable request the next slot and sends the grant. -/
  | colGrant (chip : Nat)
  /-- ACK_MESSAGE (R221). An ACK carries the sender's applied vector and frees retained packets. -/
  | ackMessage (src dst : Nat)
  /-- ACK_TIMER (R221). 256 clocks pass with an unacknowledged applied packet and an ACK is sent. -/
  | ackTimer (chip : Nat)
  /-- WRAPACK_MESSAGE (R223). A WRAPACK is counted for epoch tracking. -/
  | wrapackMessage (src dst : Nat)
  /-- COUNTER_WRAP (R223). After the ACKs, the chip sends WRAP and restarts its sequence numbers at 1. -/
  | counterWrap (chip : Nat)
  /-- LINK_CRC_ERROR (R208). A flit fails its CRC and the receiver asks for a resend. -/
  | linkCrcError (src dst : Nat)
  /-- ACK_TIMEOUT (R222). A sent packet stays unacknowledged for ACKLIM clocks. -/
  | ackTimeout (chip : Nat)
  /-- HOLD_TIMEOUT (R225). A packet has been held HOLDMAX clocks and the chip excludes itself. -/
  | holdTimeout (chip : Nat)
  /-- PROPOSE_MESSAGE (R226). A PROPOSE is received; once all are in, the agreed set is computed and STATE is sent. -/
  | proposeMessage (src dst : Nat)
  /-- STATE_MESSAGE (R226). The coordinator collects STATE from every survivor. -/
  | stateMessage (src dst : Nat)
  /-- INSTALL_MESSAGE (R227). INSTALL makes survivors apply kept packets, zero departed counts and adopt the view. -/
  | installMessage (src dst : Nat)
  /-- VIEW_PHASE_TIMEOUT (R226). A view-change phase lasts beyond ACKLIM and the change restarts. -/
  | viewPhaseTimeout (chip : Nat)
  /-- JOIN_MESSAGE (R231). A rejoining chip's JOIN makes it a listener. -/
  | joinMessage (src dst : Nat)
  /-- LISTEN_MESSAGE (R231). A LISTEN gives the listener a member's s0. -/
  | listenMessage (src dst : Nat)
  /-- DONOR_COPY (R231). The donor copies its replica and tags to the listener once it has applied up to each s0. -/
  | donorCopy (chip : Nat)
  /-- RJOIN_WRITE (R231). A write of 1 to RJOIN on a chip in OUT starts a rejoin. -/
  | rjoinWrite (chip : Nat) (value : DWord)
  /-- LAGMAX_WRITE (R234). A write to LAGMAX is clamped to 65,536. -/
  | lagmaxWrite (chip : Nat) (value : DWord)
  /-- HOLDMAX_WRITE (R234). A write of 0 to HOLDMAX stores 1. -/
  | holdmaxWrite (chip : Nat) (value : DWord)
  /-- ACKLIM_WRITE (R234). A write of 0 to ACKLIM stores 1. -/
  | acklimWrite (chip : Nat) (value : DWord)
  /-- RSEGSZ_WRITE (R235). Sets the replicated segment size on every member, clamped, and ignored while a region is active. -/
  | rsegszWrite (chip : Nat) (value : DWord)
  /-- ROOTRCB_WRITE (R367). Sets the root RCB on every member, ignored while a region is active. -/
  | rootrcbWrite (chip : Nat) (value : DWord)
  /-- COPY_TRANSFER (R275). A copy transfer writes its bytes and updates the barrier object and line states. -/
  | copyTransfer (core copy : Nat)
  /-- KICK_RECORD_START (R282). The engine reads the next request record and starts it as a copy when a slot frees. -/
  | kickRecordStart (core : Nat)
  /-- GRAPH_NODE_RETIRE (R289). A node retires, successors are decremented and launched, and the graph barrier may update. -/
  | graphNodeRetire (core graph node : Nat)
  /-- ETH_FRAME_RX (R359). A received frame enters the port's receive queue, or is dropped. -/
  | ethFrameRx (port : Nat) (frame : List Byte)
  /-- TASK_DISPATCH (R300). Yarrow gives a qualifying task to a free tile engine. -/
  | taskDispatch (cluster : Nat)
  /-- TILE_STEP (R301). An engine finishes one K-tile step of a task and accumulates into the slot. -/
  | tileStep (cluster task : Nat)
  /-- SEND_LIST_FLUSH (R472). A send list whose oldest token has waited 2,048 clocks is sent. -/
  | sendListFlush (core chip : Nat)
  /-- TOKEN_ARRIVAL (R473). A routing token lands in an inbox slot, is forwarded or is refused. -/
  | tokenArrival (chip : Nat)
  /-- TOKEN_ACKNOWLEDGE (R473). An acknowledgement reaches the sending core, which adds 1 to DELIVERED. -/
  | tokenAcknowledge (wave : Nat)
  /-- TOKEN_REFUSAL (R473). A refusal reaches the sending core, which adds 1 to REFUSED. -/
  | tokenRefusal (wave : Nat)
  /-- FENCED_WRITE (R352). Writing 1 to a FENCED bit returns its core to service. -/
  | fencedWrite (chip : Nat) (value : DWord)
  /-- HSGO_WRITE (R357). Sends one strong request from the host mailbox, or refuses it. -/
  | hsgoWrite (chip : Nat) (value : DWord)
  /-- AREQ_WRITE (R361). Starts building a signed attestation report. -/
  | areqWrite (chip : Nat) (value : DWord)
  /-- ATTEST_REPORT_READY (R361). The report is signed and ASTAT becomes 2. -/
  | attestReportReady (chip : Nat)
  /-- KEYCMD_DRAW (R362). Draws a fresh key for a KEYID from 1 to 255 on every chip. -/
  | keycmdDraw (chip : Nat) (value : DWord)
  /-- KEYCMD_ERASE (R362). Erases the key of a KEYID from 1 to 255. -/
  | keycmdErase (chip : Nat) (value : DWord)
  /-- KEYCMD_INVALID (R362). Any other key command has no effect and is logged. -/
  | keycmdInvalid (chip : Nat) (value : DWord)
  /-- FIXCLK_SET (R365). Enters fixed-clock mode at 540 MHz on every member. -/
  | fixclkSet (chip : Nat)
  /-- FIXCLK_CLEAR (R365). Leaves fixed-clock mode. -/
  | fixclkClear (chip : Nat)
  /-- RSTCTL_WARM (R363). Starts a warm reset that drains replication and keeps memory. -/
  | rstctlWarm (chip : Nat)
  /-- WARM_DRAIN_COMPLETE (R363). Retained packets are acknowledged and counts, view and tenure restart. -/
  | warmDrainComplete (chip : Nat)
  /-- WARM_DRAIN_TIMEOUT (R363). A chip not drained within ACKLIM is isolated before self-refresh. -/
  | warmDrainTimeout (chip : Nat)
  /-- RSTCTL_ISOLATE (R363). Isolates this chip with a view change that excludes it. -/
  | rstctlIsolate (chip : Nat)
  /-- CHIP_FAULT_LASTING (R363). A lasting chip fault isolates the chip. -/
  | chipFaultLasting (chip : Nat)
  /-- COLD_RESET (R360). Power-on or the reset pin resets the chip, and the root of trust verifies and starts firmware. -/
  | coldReset (chip : Nat)
  /-- CXL_LINK_RESET (R363). PERST# or a link reset resets one CXL link only. -/
  | cxlLinkReset (chip : Nat)
  /-- THERMAL_95C (R365). A die at 95 °C in fixed-clock mode lowers its clock and sets FIXLOST. -/
  | thermal95c (chip : Nat)
  /-- THERMAL_105C (R365). A die at 105 °C is isolated and powered down. -/
  | thermal105c (chip : Nat)
  /-- REGISTER_WRITE (R5). A write to a register with no behaviour of its own updates it by its access code. -/
  | registerWrite (chip offset : Nat) (value : DWord)
  /-- REPL_JOIN (R231). Once the donor's copy has completed and the listener has caught up, a view change of kind REPL_JOIN admits
  the rejoining chip with its counts reset. -/
  | replJoin (chip : Nat)
  /-- CHANNEL_RETIREMENT (R269). A memory channel is retired after a lasting fault, which triggers window refetches and makes its
  pages subject to evacuation. -/
  | channelRetirement (stack channel : Nat)
  /-- CORE_CLOCK_STEP (R365). Outside fixed-clock mode the chip lowers or raises its core clock in 25 MHz steps under PCAP or as
  temperature demands, which changes CLKMHZ. -/
  | coreClockStep (chip mhz : Nat)
  /-- IDLE_SLOT_CLOCK (R350). On a clock in which an issue slot issues nothing, every lane of that slot is counted as idle in the
  lane-cycle record. -/
  | idleSlotClock (core slot : Nat)
  /-- RESEND_REQUEST (R208). A link receiver's resend request reaches the sender, which sends the failed flit and every later flit
  again in their original order. -/
  | resendRequest (src dst : Nat)
  deriving DecidableEq, Repr

end Sys2Proof
end

