-- ==== Sys2Proof/Machine/Encoding.lean ====
section
/-! DEFINITION. The field rules of every opcode (05 R99 to R116, 06 R118 to R130): what each operand field holds,
which types, scopes, rounding codes and sub-operations the opcode takes, and the codes themselves. -/

namespace Sys2Proof

/-- Operand width: one register, a pair or a quad (04 R75). -/
inductive Width where
  | w32 | w64 | w128
  deriving DecidableEq, Repr

/-- How an immediate code is read (05 R105): as an integer, converted to a floating type, or ILL. -/
inductive ImmRule where
  | int | f32 | f16 | bf16 | ill
  deriving DecidableEq, Repr

/-- What an operand field of an opcode holds. -/
inductive FieldKind where
  /-- not used: must hold 0 (05 R109) -/
  | unused
  /-- a source of a width -/
  | src (w : Width) (imm : ImmRule)
  /-- a source pair in the main or the `k` file (05 R111, 16 R345) -/
  | pairReg
  /-- the zero code only (14 R295: `OFILL` with an inline head) -/
  | zeroOnly
  /-- a destination of a width in any file -/
  | dst (w : Width)
  /-- the destination of a long-latency producer: main file or zero (06 R122) -/
  | dstLL (w : Width)
  /-- third source and destination in one (05 R101) -/
  | srcDst (w : Width)
  /-- `JOIN`'s destination: an even main-file register or zero (02 R36) -/
  | joinDst
  /-- a predicate number -/
  | pred
  /-- a predicate number with an inversion bit -/
  | predInv
  /-- the number of a special register that `SRD` reads (04 Table 4.3) -/
  | sregR
  /-- the number of a special register that `SWR` writes -/
  | sregW
  deriving DecidableEq, Repr

/-- The rules of a base form (05 R99 to R101); `xbFree` says the entry assigns XB. -/
structure BaseSpec where
  d : FieldKind
  a : FieldKind
  b : FieldKind
  deriving DecidableEq, Repr

/-- The rules of an extended form (05 R102 to R109): operand fields, whether RM is read, which scopes. -/
structure ExtSpec where
  d : FieldKind
  a : FieldKind
  b : FieldKind
  c : FieldKind
  rm : Bool
  scopes : List Scope
  deriving DecidableEq, Repr

/-! ### Codes of types, scopes, rounding modes -/

/-- 05 Table 5.7. -/
def Ty.code : Ty → BitVec 5
  | .i32 => 0 | .n32 => 1 | .i64 => 2 | .n64 => 3 | .i16 => 4 | .n16 => 5 | .i8 => 6 | .n8 => 7
  | .f32 => 8 | .f16 => 9 | .bf16 => 10 | .e4m3 => 11 | .e5m2 => 12 | .q4 => 13 | .e3m2 => 14 | .e2m3 => 15
  | .b32 => 16 | .b64 => 17 | .b128 => 18

/-- 05 Table 5.7; codes 19 to 31 are ILL. -/
def Ty.ofCode (c : BitVec 5) : Option Ty :=
  match c.toNat with
  | 0 => some .i32 | 1 => some .n32 | 2 => some .i64 | 3 => some .n64 | 4 => some .i16 | 5 => some .n16
  | 6 => some .i8 | 7 => some .n8 | 8 => some .f32 | 9 => some .f16 | 10 => some .bf16 | 11 => some .e4m3
  | 12 => some .e5m2 | 13 => some .q4 | 14 => some .e3m2 | 15 => some .e2m3 | 16 => some .b32 | 17 => some .b64
  | 18 => some .b128 | _ => none

/-- 05 Table 5.8. -/
def Rm.code : Rm → BitVec 3
  | .rne => 0 | .rz => 1 | .ru => 2 | .rd => 3 | .rna => 4 | .dyn => 7

/-- 05 Table 5.8; codes 5 and 6 are ILL. -/
def Rm.ofCode (c : BitVec 3) : Option Rm :=
  match c.toNat with
  | 0 => some .rne | 1 => some .rz | 2 => some .ru | 3 => some .rd | 4 => some .rna | 7 => some .dyn | _ => none

/-- 05 Table 5.8. -/
def Scope.code : Scope → BitVec 3
  | .th => 0 | .wv => 1 | .wg => 2 | .gn => 3 | .ch => 4 | .pk => 5 | .sy => 6

/-- 05 Table 5.8; code 7 is ILL. -/
def Scope.ofCode (c : BitVec 3) : Option Scope :=
  match c.toNat with
  | 0 => some .th | 1 => some .wv | 2 => some .wg | 3 => some .gn | 4 => some .ch | 5 => some .pk
  | 6 => some .sy | _ => none

/-- The width of the operands of a type (04 R75): narrow types fill one register. -/
def Ty.width : Ty → Width
  | .i64 | .n64 | .b64 => .w64
  | .b128 => .w128
  | _ => .w32

/-- Bits of a type's value. -/
def Ty.bits : Ty → Nat
  | .i32 | .n32 | .f32 | .b32 => 32
  | .i64 | .n64 | .b64 => 64
  | .i16 | .n16 | .f16 | .bf16 => 16
  | .i8 | .n8 | .e4m3 | .e5m2 => 8
  | .q4 => 4
  | .e3m2 | .e2m3 => 6
  | .b128 => 128

/-- The signed integer types. -/
def Ty.signed : Ty → Bool
  | .i32 | .i64 | .i16 | .i8 => true
  | _ => false

/-- The integer types (codes 0 to 7). -/
def Ty.isInt : Ty → Bool
  | .i32 | .n32 | .i64 | .n64 | .i16 | .n16 | .i8 | .n8 => true
  | _ => false

/-- How an immediate is read at a type (05 R105). -/
def Ty.imm : Ty → ImmRule
  | .f32 => .f32 | .f16 => .f16 | .bf16 => .bf16
  | .e4m3 | .e5m2 | .q4 | .e3m2 | .e2m3 => .ill
  | _ => .int

/-! ### Operand codes -/

/-- The 6-bit code of an operand (05 Table 5.3); a predicate and its inversion in [3:0], a special register by its
number. -/
def Opd.code6 : Opd → BitVec 6
  | .none => 0
  | .h i => i.setWidth 6
  | .k i => 2 + i.setWidth 6
  | .zero => 10
  | .lane => 11
  | .lit => 12
  | .v i => 16 + i.setWidth 6
  | .pred i inv => (if inv then 8 else 0) + i.setWidth 6
  | .sreg n => n.setWidth 6
  | .imm x => x

/-- The 9-bit code of an operand (05 Tables 5.5, 5.6). -/
def Opd.code9 : Opd → BitVec 9
  | .none => 0
  | .v i => i.setWidth 9
  | .k i => 0x100 + i.setWidth 9
  | .h i => 0x140 + i.setWidth 9
  | .zero => 0x180
  | .lane => 0x181
  | .lit => 0x182
  | .sreg n => 0x190 + n.setWidth 9
  | .imm x => 0x1C0 + x.setWidth 9
  | .pred i inv => (if inv then 8 else 0) + i.setWidth 9

/-- A 6-bit code read as a register, zero, `%lane` or the literal (05 Table 5.3). -/
def Opd.of6 (c : BitVec 6) : Option Opd :=
  let n := c.toNat
  if n < 2 then some (.h (BitVec.ofNat 1 n))
  else if n < 10 then some (.k (BitVec.ofNat 3 (n - 2)))
  else if n = 10 then some .zero
  else if n = 11 then some .lane
  else if n = 12 then some .lit
  else if n < 16 then none
  else some (.v (BitVec.ofNat 8 (n - 16)))

/-- A 9-bit code read as a register, special source or immediate (05 Tables 5.5, 5.6). -/
def Opd.of9 (c : BitVec 9) : Option Opd :=
  let n := c.toNat
  if n < 0x100 then some (.v (BitVec.ofNat 8 n))
  else if n < 0x108 then some (.k (BitVec.ofNat 3 (n - 0x100)))
  else if n < 0x140 then none
  else if n < 0x142 then some (.h (BitVec.ofNat 1 (n - 0x140)))
  else if n < 0x180 then none
  else if n = 0x180 then some .zero
  else if n = 0x181 then some .lane
  else if n = 0x182 then some .lit
  else if n < 0x190 then none
  else if n < 0x1A0 then some (.sreg (BitVec.ofNat 4 (n - 0x190)))
  else if n < 0x1C0 then none
  else some (.imm (BitVec.ofNat 6 (n - 0x1C0)))

/-- A predicate field with an inversion bit: [2:0] the number, [3] the inversion, the rest 0. -/
def Opd.ofPred (n : Nat) : Option Opd :=
  if n < 8 then some (.pred (BitVec.ofNat 3 n) false)
  else if n < 16 then some (.pred (BitVec.ofNat 3 (n - 8)) true)
  else none

/-- A special register number 0 to 15 (04 Table 4.3). -/
def Opd.ofSreg (n : Nat) : Option Opd := if n < 16 then some (.sreg (BitVec.ofNat 4 n)) else none

/-- A base operand field read as its kind says. -/
def FieldKind.read6 (k : FieldKind) (c : BitVec 6) : Option Opd :=
  match k with
  | .unused => if c = 0 then some .none else none
  | .pred | .predInv => Opd.ofPred c.toNat
  | .sregR | .sregW => Opd.ofSreg c.toNat
  | _ => Opd.of6 c

/-- An extended operand field read as its kind says. -/
def FieldKind.read9 (k : FieldKind) (c : BitVec 9) : Option Opd :=
  match k with
  | .unused => if c = 0 then some .none else none
  | .pred | .predInv => Opd.ofPred c.toNat
  | .sregR | .sregW => none
  | _ => Opd.of9 c

/-! ### Legality of an operand in a field -/

/-- Special registers of 64 bits (04 Table 4.3): `%meet`, `%clk`, `%trappc`. -/
def sregWide (n : BitVec 4) : Bool := n = 9 || n = 12 || n = 15

/-- Special registers that `SWR` writes (04 Table 4.3): `%meet`, `%fpctl`, `%fpflags`. -/
def sregRW (n : BitVec 4) : Bool := n = 9 || n = 10 || n = 11

/-- The registers of an operand stand at an index its width allows (04 R76). -/
def Opd.aligned (w : Width) : Opd → Bool
  | .v i => match w with
    | .w32 => true
    | .w64 => i.toNat % 2 = 0
    | .w128 => i.toNat % 4 = 0
  | .k i => match w with
    | .w32 => true
    | .w64 => i.toNat % 2 = 0
    | .w128 => false
  | .h i => match w with
    | .w32 => true
    | .w64 => i = 0
    | .w128 => false
  | _ => true

/-- An operand is legal in a field of a kind (05 R100 to R106, 04 R76). `base` says the form is a base form, whose
codes reach `v0` to `v47` and neither immediates nor special registers. -/
def FieldKind.ok (base : Bool) (k : FieldKind) (o : Opd) : Bool :=
  match k, o with
  | .unused, .none => true
  | .src w _, .v i => (!base || i.toNat < 48) && Opd.aligned w (.v i)
  | .src w _, .k i => Opd.aligned w (.k i)
  | .src w _, .h i => Opd.aligned w (.h i)
  | .src _ _, .zero => true
  | .src w _, .lane => w ≠ .w128
  | .src w _, .lit => w ≠ .w128
  | .src w _, .sreg _ => !base && w ≠ .w128
  | .src _ r, .imm _ => !base && r ≠ .ill
  | .pairReg, .v i => (!base || i.toNat < 48) && i.toNat % 2 = 0
  | .pairReg, .k i => i.toNat % 2 = 0
  | .zeroOnly, .zero => true
  | .dst w, .v i => (!base || i.toNat < 48) && Opd.aligned w (.v i)
  | .dst w, .k i => Opd.aligned w (.k i)
  | .dst w, .h i => Opd.aligned w (.h i)
  | .dst _, .zero => true
  | .dstLL w, .v i => (!base || i.toNat < 48) && Opd.aligned w (.v i)
  | .dstLL _, .zero => true
  | .srcDst w, .v i => (!base || i.toNat < 48) && Opd.aligned w (.v i)
  | .srcDst w, .k i => Opd.aligned w (.k i)
  | .srcDst w, .h i => Opd.aligned w (.h i)
  | .srcDst _, .zero => true
  | .joinDst, .v i => (!base || i.toNat < 48) && i.toNat % 2 = 0
  | .joinDst, .zero => true
  | .pred, .pred _ inv => !inv
  | .predInv, .pred _ _ => true
  | .sregR, .sreg _ => true
  | .sregW, .sreg n => sregRW n
  | _, _ => false

/-- An E bit may be 1 only on a main-file source (05 R100, R103). -/
def FieldKind.eOk (k : FieldKind) (o : Opd) (e : Bool) : Bool :=
  !e || match k, o with
    | .src _ _, .v _ => true
    | .pairReg, .v _ => true
    | _, _ => false

/-- The operand names the literal. -/
def Opd.isLit (o : Opd) : Bool := o = .lit

/-! ### The rules of each opcode -/

/-- A source of width `w` with integer immediates. -/
abbrev FieldKind.s (w : Width) : FieldKind := .src w .int
/-- A 32-bit integer source. -/
abbrev FieldKind.s32 : FieldKind := .src .w32 .int
/-- A 64-bit integer source. -/
abbrev FieldKind.s64 : FieldKind := .src .w64 .int
/-- A source at a type. -/
abbrev FieldKind.st (t : Ty) : FieldKind := .src t.width t.imm

/-- The base forms (05 R99 to R101, and the entry of each opcode).  `xb` is the XB field, `d` and `a` the raw D
and A fields, on which the rules of `SRD`, `SWR` and `PMOV` depend.  `none`: not a base form of this layout, or a
value of XB that the opcode does not assign. -/
def baseSpec (op : Nat) (xb : BitVec 2) (d a : BitVec 6) : Option BaseSpec :=
  let bin (w : Width) (r : ImmRule) (ll : Bool) : BaseSpec :=
    { d := if ll then .dstLL w else .dst w, a := .src w r, b := .src w r }
  let un (w : Width) (r : ImmRule) (ll : Bool) : BaseSpec :=
    { d := if ll then .dstLL w else .dst w, a := .src w r, b := .unused }
  let none' : BaseSpec := { d := .unused, a := .unused, b := .unused }
  let x0 (s : BaseSpec) : Option BaseSpec := if xb = 0 then some s else none
  match op with
  | 0x00 | 0x07 | 0x09 | 0x0C | 0xB1 | 0xB8 | 0xB9 | 0xBA | 0xBB => x0 none'
  | 0x03 | 0x05 => x0 { d := .unused, a := .pairReg, b := .unused }
  | 0x0A => x0 { d := .unused, a := .s32, b := .unused }
  | 0x20 | 0x21 | 0x22 | 0x23 | 0x25 | 0x26 | 0x38 => x0 (bin .w32 .int false)
  | 0x24 => x0 { d := .srcDst .w32, a := .s32, b := .s32 }
  | 0x27 => x0 (un .w32 .int false)
  | 0x28 | 0x29 | 0x2A | 0x2C | 0x2D | 0x2E | 0x2F => x0 (bin .w32 .int false)
  | 0x2B | 0x30 | 0x31 | 0x32 => x0 (un .w32 .int false)
  | 0x35 | 0x4E => some { d := .pred, a := .s32, b := .s32 }
  | 0x36 => some (bin .w32 .int false)
  | 0x39 | 0x3A => x0 (bin .w32 .int true)
  | 0x40 => x0 (un .w32 .int false)
  | 0x41 => x0 { d := .dst .w64, a := .unused, b := .unused }
  | 0x42 => x0 { d := .dst (if a.toNat < 16 && sregWide (a.setWidth 4) then .w64 else .w32), a := .sregR, b := .unused }
  | 0x43 => x0 { d := .sregW, a := .s (if d.toNat < 16 && sregWide (d.setWidth 4) then .w64 else .w32), b := .unused }
  | 0x44 =>
    match xb.toNat with
    | 0 => some { d := .pred, a := .s32, b := .unused }
    | 1 => some { d := .dst .w32, a := .pred, b := .unused }
    | 2 => some { d := .dst .w32, a := .unused, b := .unused }
    | _ => some { d := .unused, a := .s32, b := .unused }
  | 0x45 => some { d := .pred, a := .predInv, b := .predInv }
  | 0x48 | 0x49 | 0x4A => x0 (bin .w32 .f32 false)
  | 0x4B => x0 { d := .srcDst .w32, a := .src .w32 .f32, b := .src .w32 .f32 }
  | 0x4C | 0x4D => if xb.toNat < 2 then some (bin .w32 .f32 false) else none
  | 0x4F | 0x50 | 0x51 | 0x52 | 0x53 | 0x54 | 0x55 => x0 (un .w32 .f32 true)
  | 0x56 => x0 (bin .w32 .f32 true)
  | 0x57 | 0x58 => x0 (un .w32 .f32 false)
  | 0x59 => x0 { d := .dst .w32, a := .src .w32 .f32, b := .s32 }
  | 0x70 => some (bin .w32 .int false)
  | 0x71 => some { d := if xb = 2 then .dst .w32 else .pred, a := .predInv, b := .unused }
  | 0x75 => x0 { d := .dst .w32, a := .unused, b := .unused }
  | _ => none

/-- The floating types of `FADD` and its like (19 R408). -/
def Ty.isF3 : Ty → Bool
  | .f32 | .f16 | .bf16 => true
  | _ => false

/-- The types of the bitwise operations (18 R375): 32, 64 or, where `q` says so, 128 bits. -/
def Ty.isB (q : Bool) : Ty → Bool
  | .b32 | .b64 => true
  | .b128 => q
  | _ => false

/-- The types of loads and stores (20 Table 20.5). -/
def Ty.isMem : Ty → Bool
  | .i8 | .i16 | .n8 | .n16 | .f16 | .bf16 | .i32 | .n32 | .f32 | .b32 | .i64 | .n64 | .b64 | .b128 => true
  | _ => false

/-- The types of `.and`, `.or`, `.xor` and `.exch` (06 Table 6.4). -/
def Ty.isBit : Ty → Bool
  | .b32 | .b64 | .i32 | .n32 | .i64 | .n64 => true
  | _ => false

/-- The types of `.add`, `.min` and `.max` (06 Table 6.4). -/
def Ty.isWide4 : Ty → Bool
  | .i32 | .n32 | .i64 | .n64 => true
  | _ => false

/-- The width of an atomic's operands (18 Table 18.2), or `none` where Table 6.4 does not allow the type. -/
def atomWidth (md : Nat) (ty : Ty) : Option Width :=
  match md with
  | 0 | 1 | 2 => if ty.isWide4 then some ty.width else none
  | 3 | 4 | 5 | 6 => if ty.isBit then some ty.width else none
  | 7 => if ty.isBit || ty = .b128 then some ty.width else none
  | 8 => if ty.isF3 then some .w32 else none
  | 9 | 10 => if ty = .f32 || ty = .f16 then some .w64 else none
  | _ => none

/-- The width of the operands of `REDL` and `SCANL` (21 R464), or `none` where the type is not accepted. -/
def laneWidth (md : Nat) (ty : Ty) : Option Width :=
  match md with
  | 0 | 1 | 2 => if ty.isWide4 then some ty.width else none
  | 3 | 4 | 5 => if ty.isBit then some ty.width else none
  | 6 => if ty.isF3 then some .w32 else none
  | 7 => if ty = .f32 || ty = .f16 then some .w64 else none
  | _ => none

/-- Every scope. -/
def Scope.all : List Scope := [.th, .wv, .wg, .gn, .ch, .pk, .sy]

/-- The extended forms (05 R102 to R109, and the entry of each opcode).  `none`: not an extended form, or a value of
MOD, TY, XB, X18 or AUX8 that the opcode does not accept.  `c` is the raw C9 field, on which `OFILL` depends. -/
def extSpec (op : Nat) (f : ExtArgs) : Option ExtSpec :=
  let md := f.md.toNat
  let ty := f.ty
  let w := ty.width
  let u : FieldKind := .unused
  let mk (ok : Bool) (d a b c : FieldKind) : Option ExtSpec :=
    if ok then some { d, a, b, c, rm := false, scopes := [.th] } else none
  let mkRm (ok : Bool) (d a b c : FieldKind) : Option ExtSpec :=
    if ok then some { d, a, b, c, rm := true, scopes := [.th] } else none
  let m0 := f.md = 0
  let t0 := ty = .i32
  let q0 := f.aux = 0
  let x0 := f.x18 = 0
  let b0 := f.xb = 0
  /- nothing assigned but operands -/
  let plain := m0 && q0 && x0 && b0
  let plainT0 := plain && t0
  let modT0 (n : Nat) := md < n && q0 && x0 && b0 && t0
  match op with
  | 0x0A => mk plainT0 u .s32 u u
  | 0x0E => mk (m0 && q0 && b0 && t0) u .s64 u u
  | 0x0F => mk plainT0 (.dst .w32) .s32 u u
  | 0x10 => mk plainT0 u .s64 .s64 u
  | 0x20 | 0x21 | 0x22 | 0x23 | 0x25 | 0x26 | 0x38 => mk (plain && ty.isInt) (.dst w) (.s w) (.s w) u
  | 0x24 => mk (plain && ty.isInt) (.dst w) (.s w) (.s w) (.s w)
  | 0x27 => mk (plain && ty.isInt) (.dst w) (.s w) u u
  | 0x28 | 0x29 | 0x2A => mk (plain && ty.isB true) (.dst w) (.s w) (.s w) u
  | 0x2B => mk (plain && ty.isB true) (.dst w) (.s w) u u
  | 0x2C | 0x2D | 0x2F => mk (plain && ty.isB false) (.dst w) (.s w) .s32 u
  | 0x2E => mk (plain && (ty = .i32 || ty = .i64)) (.dst w) (.s w) .s32 u
  | 0x30 | 0x31 => mk (plain && ty.isB false) (.dst .w32) (.s w) u u
  | 0x32 => mk (plain && ty.isB false) (.dst w) (.s w) u u
  | 0x33 => mk (plain && ty.isWide4) (.dst w) (.s w) .s32 u
  | 0x34 => mk (plain && ty.isB false) (.dst w) (.s w) (.s w) .s32
  | 0x35 => mk (md < 6 && q0 && x0 && b0 && ty.isInt) .pred (.s w) (.s w) u
  | 0x36 => mk (plain && ty.isB true) (.dst w) (.s w) (.s w) .predInv
  | 0x37 => mk (m0 && b0 && ty.isWide4 && f.aux.toNat < 8) (.dst .w64) .s64 (.s w) u
  | 0x39 | 0x3A => mk (plain && ty.isInt) (.dstLL w) (.s w) (.s w) u
  | 0x40 => mk (plain && ty.isB true) (.dst w) (.s w) u u
  | 0x42 => mk (m0 && q0 && b0 && t0 && f.x18.toNat < 16)
      (.dst (if sregWide (f.x18.setWidth 4) then .w64 else .w32)) u u u
  | 0x43 => mk (m0 && q0 && b0 && t0 && f.x18.toNat < 16 && sregRW (f.x18.setWidth 4))
      u (.s (if sregWide (f.x18.setWidth 4) then .w64 else .w32)) u u
  | 0x44 =>
    if q0 && x0 && b0 && t0 then
      match md with
      | 0 => mk true .pred .s32 u u
      | 1 => mk true (.dst .w32) .pred u u
      | 2 => mk true (.dst .w32) u u u
      | 3 => mk true u .s32 u u
      | _ => none
    else none
  | 0x48 | 0x49 | 0x4A => mkRm (plain && ty.isF3) (.dst w) (.st ty) (.st ty) u
  | 0x4B => mkRm (plain && ty.isF3) (.dst w) (.st ty) (.st ty) (.st ty)
  | 0x4C | 0x4D => mk (md < 2 && q0 && x0 && b0 && ty.isF3) (.dst w) (.st ty) (.st ty) u
  | 0x4E => mk (md < 8 && q0 && x0 && b0 && ty.isF3) .pred (.st ty) (.st ty) u
  | 0x4F | 0x50 | 0x51 | 0x52 | 0x53 | 0x54 | 0x55 => mkRm (plain && ty.isF3) (.dstLL w) (.st ty) u u
  | 0x56 => mkRm (plain && ty.isF3) (.dstLL w) (.st ty) (.st ty) u
  | 0x57 => mkRm (plain && ty.isF3) (.dst w) (.st ty) u u
  | 0x58 => mk (plain && ty.isF3) (.dst .w32) (.st ty) u u
  | 0x59 => mkRm (plain && ty.isF3) (.dst w) (.st ty) .s32 u
  | 0x5A => mkRm (plain && (ty = .f16 || ty = .bf16)) (.dst .w32) (.st ty) (.st ty) (.src .w32 .f32)
  | 0x5B => mkRm (plain && (ty = .e4m3 || ty = .e5m2)) (.dst .w32) (.st ty) (.st ty) (.src .w32 .f32)
  | 0x5C | 0x5D => mk (md < 2 && q0 && x0 && b0 && (ty = .f32 || ty = .f16)) (.dst .w64) .s64 .s64 u
  | 0x68 =>
    match Ty.ofCode (f.aux.setWidth 5) with
    | some sty => mkRm (x0 && b0 && f.aux.toNat < 13 && ty.code.toNat < 13
        && (md = 0 || (md = 1 && ty.isInt && sty.isInt))) (.dst w) (.st sty) u u
    | none => none
  | 0x69 =>
    if plain && 9 ≤ ty.code.toNat && ty.code.toNat ≤ 15 then
      if ty = .f16 || ty = .bf16 then mkRm true (.dst .w32) (.src .w32 .f32) (.src .w32 .f32) u
      else mkRm true (.dst .w32) (.src .w64 .f32) (.src .w64 .f32) (if ty = .q4 then .s32 else u)
    else none
  | 0x6A => mk (plain && 9 ≤ ty.code.toNat && ty.code.toNat ≤ 15)
      (.dst (if ty = .f16 || ty = .bf16 then .w64 else .w128)) (.src .w32 ty.imm) u (if ty = .q4 then .s32 else u)
  | 0x6B => mkRm (md < 2 && q0 && x0 && b0 && t0) (.dst .w32) (if md = 0 then .src .w32 .f32 else .s32) .s32 u
  | 0x6C =>
    if q0 && x0 && b0 then
      if md = 0 then
        mk (ty = .i8 || ty = .f32 || ty = .f16 || ty = .bf16 || ty = .e4m3 || ty = .e5m2 || ty = .q4)
          (.dst .w32) (.src .w32 .f32) (if ty = .q4 then .s32 else u) u
      else mk (md = 1 && t0) (.dst .w32) .s32 .s32 u
    else none
  | 0x6D =>
    if md < 2 && q0 && x0 && b0 then
      let aw : Option Width := match ty with
        | .f32 => some .w128
        | .f16 | .bf16 => some .w64
        | .e4m3 | .e5m2 | .q4 => some .w32
        | _ => none
      match aw with
      | some aw => mk true (.dst (if ty = .f32 && md = 0 then .w64 else .w32)) (.src aw ty.imm)
          (if ty = .q4 then .s32 else u) u
      | none => none
    else none
  | 0x70 => mk (md < 4 && q0 && x0 && b0 && ty.isB false) (.dst w) (.s w) .s32 u
  | 0x71 => mk (modT0 4) (if md = 2 then .dst .w32 else .pred) .predInv u u
  | 0x72 | 0x73 =>
    match laneWidth md ty with
    | some w' =>
      if x0 && b0 && (if md = 7 then f.aux.toNat < 2 else q0) then
        if md = 6 then mkRm true (.dst w') (.st ty) u u
        else mk true (.dst w') (.s w') u u
      else none
    | none => none
  | 0x74 => mk (md < 2 && q0 && x0 && b0 && ty.isB false) (.dst .w32) (.s w) u u
  | 0x75 => mk plainT0 (.dst .w32) u u u
  | 0x78 =>
    if m0 && q0 && ty.isMem && f.xb.toNat < 2 then
      some { d := .dstLL w, a := .s64, b := u, c := u, rm := false, scopes := if b0 then [.th] else Scope.all }
    else none
  | 0x7A =>
    if m0 && q0 && ty.isMem && f.xb.toNat < 2 then
      some { d := .dstLL w, a := .s32, b := u, c := u, rm := false,
             scopes := if b0 then [.th] else [.th, .wv, .wg, .gn] }
    else none
  | 0x79 =>
    if m0 && q0 && ty.isMem && (b0 || f.xb = 2) then
      some { d := u, a := .s64, b := .st ty, c := u, rm := false, scopes := if b0 then [.th] else Scope.all }
    else none
  | 0x7B =>
    if m0 && q0 && ty.isMem && (b0 || f.xb = 2) then
      some { d := u, a := .s32, b := .st ty, c := u, rm := false,
             scopes := if b0 then [.th] else [.th, .wv, .wg, .gn] }
    else none
  | 0x7C | 0x7D =>
    match atomWidth md ty with
    | some w' =>
      if (if md = 9 || md = 10 then f.aux.toNat < 2 else q0) then
        some { d := .dstLL w', a := if op = 0x7C then .s64 else .s32,
               b := .src w' (if md = 8 then ty.imm else .int),
               c := if md = 7 then .s w' else u, rm := md = 8,
               scopes := if op = 0x7C then Scope.all else [.th, .wv, .wg, .gn] }
      else none
    | none => none
  | 0x7E =>
    match atomWidth md ty with
    | some w' =>
      if md < 8 && q0 then
        some { d := .dstLL w', a := .s64, b := .s w', c := if md = 7 then .s w' else u, rm := false,
               scopes := [.pk, .sy] }
      else none
    | none => none
  | 0x7F =>
    if m0 && q0 && (b0 || f.xb = 2) && (ty = .i32 || ty = .n32 || ty = .i64 || ty = .n64 || ty.isB true) then
      some { d := u, a := .s64, b := .s w, c := u, rm := false, scopes := [.pk, .sy] }
    else none
  | 0x80 =>
    if m0 && q0 && f.xb.toNat < 2 && (ty = .i32 || ty = .n32 || ty = .i64 || ty = .n64 || ty.isB true) then
      some { d := .dstLL w, a := .s64, b := u, c := u, rm := false, scopes := [.pk, .sy] }
    else none
  | 0x81 => if modT0 3 then some { d := u, a := u, b := u, c := u, rm := false, scopes := Scope.all } else none
  | 0x82 | 0x83 => mk plainT0 u u u u
  | 0x84 => mk (md < 2 && q0 && b0 && t0) u .s64 u u
  | 0x85 => if md = 0 then mk (q0 && b0 && t0) u .s64 u u else mk (modT0 2) u u u u
  | 0x86 | 0x88 => mk plainT0 u .s32 u u
  | 0x87 => mk (modT0 2) u .s32 .s64 u
  | 0x90 => mk (m0 && q0 && b0 && t0) u .s64 .s64 u
  | 0x91 => mk (m0 && q0 && b0 && t0) (.dstLL .w64) .s64 u u
  | 0x92 =>
    if modT0 3 then
      some { d := u, a := if md = 0 then .s64 else u, b := if md = 2 then u else .s32, c := u, rm := false,
             scopes := [.ch, .pk] }
    else none
  | 0x93 => mk (modT0 4) u u u u
  | 0x94 => mk (m0 && x0 && b0 && t0 && f.aux.toNat < 2) u .s64 .s64 .s32
  | 0x95 => mk plainT0 u .s32 .s32 u
  | 0x98 => mk (md < 4 && b0 && t0 && (q0 || (f.aux = 1 && x0)))
      u (if md = 0 || md = 3 then .s32 else .s64) (if md = 1 || md = 3 then .s32 else .s64) .s32
  | 0x99 => mk (modT0 2) u (if md = 0 then .s64 else .s32) u u
  | 0x9A => mk plainT0 u .s32 .s32 u
  | 0x9B => mk plainT0 u .s32 .s64 .s32
  | 0x9C => mk plainT0 u .s32 .s64 u
  | 0x9D => mk plainT0 (.dst .w32) .s32 .s32 u
  | 0x9E => mk plainT0 (.dst .w32) .s32 u u
  | 0x9F | 0xA0 => mk plainT0 u .s32 .s32 u
  | 0xA1 => mk (m0 && b0 && t0 && (q0 || (f.aux = 1 && x0))) u .s64 .s32 u
  | 0xA2 => mk (modT0 2) u u u u
  | 0xA8 | 0xAD => mk plainT0 (.dst .w32) .s32 u u
  | 0xA9 | 0xAE => mk plainT0 u .s32 .s32 u
  | 0xAA => mk (md < 4 && q0 && b0 && t0 && (x0 || (md < 2 && f.x18.toNat < 0x10000)))
      u .s32 (if md = 0 || md = 2 then .s64 else .s32)
      (if !x0 then .zeroOnly else if md = 0 || md = 2 then .s64 else .s32)
  | 0xAB => mk (modT0 3) (.dst .w32) .s32 (if md = 2 then u else .s32) u
  | 0xAC => mk (modT0 2) (if md = 0 then .dst .w32 else u) .s32 u u
  | 0xAF => mk (q0 && x0 && b0 && ((md = 0 && t0) || (md = 1 && ty = .f32))) u .s32 (.st ty) u
  | 0xB0 =>
    if q0 && x0 && b0 then
      if md = 0 && (ty.isF3 || t0) then mkRm true (.dstLL .w32) .s32 .s32 u
      else if md = 0 && ty = .b128 then mk true (.dstLL .w128) .s32 .s32 u
      else mk (md = 1 && ty = .b32) (.dstLL .w32) .s32 .s32 u
    else none
  | 0xB2 | 0xB3 => mk plainT0 (.dst .w32) .s32 u u
  | 0xB4 | 0xB5 => mk plainT0 u .s64 .s32 u
  | 0xC0 => mk plainT0 u (.s .w128) .s64 u
  | 0xC1 => mk (modT0 2) u u u u
  | 0xC2 =>
    if q0 && x0 && b0 && t0 then
      match md with
      | 0 => mk true (.dstLL .w32) .s32 .s64 .s32
      | 1 | 3 => mk true (.dstLL .w32) .s32 u u
      | 2 => mk true (.dstLL .w32) .s32 .s32 u
      | 4 | 5 => mk true (.dstLL .w32) u u u
      | _ => none
    else none
  | 0xC8 => mk (m0 && q0 && b0 && t0 && f.x18.toNat < 8) (.dst (if f.x18 = 2 then .w64 else .w32)) u u u
  | 0xC9 => mk (plain && ty.isB true) u (.s w) u u
  | 0xCA => if md = 0 then mk (q0 && b0 && t0) (.dst .w64) u u u else mk (modT0 2) u u u u
  | 0xCB => mk (modT0 3) (if md = 2 then u else .dst .w32) .s32 (if md = 2 then u else .s32) u
  | 0xCC => mk (m0 && q0 && b0 && ty.isB true) u .pairReg (.s w) u
  | _ => none

/-- A base form obeys its opcode's rules (05 R116). -/
def baseOk (op : Nat) (f : BaseArgs) : Bool :=
  match baseSpec op f.xb f.d.code6 f.a.code6 with
  | none => false
  | some s =>
    s.d.ok true f.d && s.a.ok true f.a && s.b.ok true f.b && s.a.eOk f.a f.ea && s.b.eOk f.b f.eb &&
      (if op = 0x41 then f.lit.isSome else f.lit.isSome == (f.a.isLit || f.b.isLit))

/-- An extended form obeys its opcode's rules (05 R116). -/
def extOk (op : Nat) (f : ExtArgs) : Bool :=
  match extSpec op f with
  | none => false
  | some s =>
    s.d.ok false f.d && s.a.ok false f.a && s.b.ok false f.b && s.c.ok false f.c &&
      s.a.eOk f.a f.ea && s.b.eOk f.b f.eb && s.c.eOk f.c f.ec &&
      (s.rm || f.rm = .rne) && s.scopes.contains f.sc &&
      (f.lit.isSome == (f.a.isLit || f.b.isLit || f.c.isLit))

end Sys2Proof
end

