-- ==== Sys2Proof/Machine/Forms.lean ====
section
/-! DEFINITION. The layout of each instruction (05 R97 to R112): which opcode and which of the layouts of chapter 05
a constructor of `Instr` is encoded in, and back. -/

namespace Sys2Proof

/-- The layouts of chapter 05: base word (Table 5.2), extended form (Table 5.4), branches (Table 5.9), `PBLK`
(Table 5.10), `JOIN` (02 Tables 2.5, 2.6), and the 18-bit code of `TRAP` and `BRK`. -/
inductive Form where
  | base (op : Nat) (f : BaseArgs)
  | ext (op : Nat) (f : ExtArgs)
  | br (op : Nat) (off : BitVec 20)
  | brLit (op : Nat) (target : DWord)
  | brp (p : BitVec 3) (sense : Bool) (off : BitVec 16)
  | brpLit (p : BitVec 3) (sense : Bool) (target : DWord)
  | join (d : Opd) (off : BitVec 14)
  | joinLit (d : Opd) (target : DWord)
  | joinExt (d : Opd) (rgn : Bool) (target : JoinTarget)
  | pblk (inv : Bool) (pred cnt : BitVec 3) (pat : BitVec 8)
  | code (op : Nat) (c : BitVec 18)
  | event
  deriving DecidableEq, Repr

/-- A base word whose fields other than OP are all 0. -/
def BaseArgs.empty : BaseArgs :=
  { d := .none, a := .none, b := .none, ea := false, eb := false, xb := 0, lit := none }

/-- The layout and the fields of each instruction; events have no encoding. -/
def Instr.form : Instr → Form
  | .nop => .base 0x00 .empty
  | .br off => .br 0x01 off
  | .brLit target => .brLit 0x01 target
  | .brp p sense off => .brp p sense off
  | .brpLit p sense target => .brpLit p sense target
  | .brx f => .base 0x03 f
  | .call off => .br 0x04 off
  | .callLit target => .brLit 0x04 target
  | .ret f => .base 0x05 f
  | .join d off => .join d off
  | .joinLit d target => .joinLit d target
  | .joinExt d rgn target => .joinExt d rgn target
  | .exit => .base 0x07 .empty
  | .pblk inv pred cnt pat => .pblk inv pred cnt pat
  | .yield => .base 0x09 .empty
  | .sleep f => .base 0x0a f
  | .sleepExt f => .ext 0x0a f
  | .sleepEnd _ => .event
  | .trap code => .code 0x0b code
  | .rte => .base 0x0c .empty
  | .brk code => .code 0x0d code
  | .mona f => .ext 0x0e f
  | .mwait f => .ext 0x0f f
  | .mwaitWake _ => .event
  | .monitorTimeoutExpiry _ => .event
  | .launch f => .ext 0x10 f
  | .iadd f => .base 0x20 f
  | .iaddExt f => .ext 0x20 f
  | .isub f => .base 0x21 f
  | .isubExt f => .ext 0x21 f
  | .imul f => .base 0x22 f
  | .imulExt f => .ext 0x22 f
  | .imulh f => .base 0x23 f
  | .imulhExt f => .ext 0x23 f
  | .imad f => .base 0x24 f
  | .imadExt f => .ext 0x24 f
  | .imin f => .base 0x25 f
  | .iminExt f => .ext 0x25 f
  | .imax f => .base 0x26 f
  | .imaxExt f => .ext 0x26 f
  | .iabs f => .base 0x27 f
  | .iabsExt f => .ext 0x27 f
  | .and f => .base 0x28 f
  | .andExt f => .ext 0x28 f
  | .or f => .base 0x29 f
  | .orExt f => .ext 0x29 f
  | .xor f => .base 0x2a f
  | .xorExt f => .ext 0x2a f
  | .not f => .base 0x2b f
  | .notExt f => .ext 0x2b f
  | .shl f => .base 0x2c f
  | .shlExt f => .ext 0x2c f
  | .shr f => .base 0x2d f
  | .shrExt f => .ext 0x2d f
  | .sha f => .base 0x2e f
  | .shaExt f => .ext 0x2e f
  | .rot f => .base 0x2f f
  | .rotExt f => .ext 0x2f f
  | .popc f => .base 0x30 f
  | .popcExt f => .ext 0x30 f
  | .clz f => .base 0x31 f
  | .clzExt f => .ext 0x31 f
  | .brev f => .base 0x32 f
  | .brevExt f => .ext 0x32 f
  | .bfx f => .ext 0x33 f
  | .bfi f => .ext 0x34 f
  | .icmp f => .base 0x35 f
  | .icmpExt f => .ext 0x35 f
  | .sel f => .base 0x36 f
  | .selExt f => .ext 0x36 f
  | .lea f => .ext 0x37 f
  | .iadds f => .base 0x38 f
  | .iaddsExt f => .ext 0x38 f
  | .idiv f => .base 0x39 f
  | .idivExt f => .ext 0x39 f
  | .irem f => .base 0x3a f
  | .iremExt f => .ext 0x3a f
  | .mov f => .base 0x40 f
  | .movExt f => .ext 0x40 f
  | .movi f => .base 0x41 f
  | .srd f => .base 0x42 f
  | .srdExt f => .ext 0x42 f
  | .swr f => .base 0x43 f
  | .swrExt f => .ext 0x43 f
  | .pmov f => .base 0x44 f
  | .pmovExt f => .ext 0x44 f
  | .plog f => .base 0x45 f
  | .fadd f => .base 0x48 f
  | .faddExt f => .ext 0x48 f
  | .fsub f => .base 0x49 f
  | .fsubExt f => .ext 0x49 f
  | .fmul f => .base 0x4a f
  | .fmulExt f => .ext 0x4a f
  | .ffma f => .base 0x4b f
  | .ffmaExt f => .ext 0x4b f
  | .fmin f => .base 0x4c f
  | .fminExt f => .ext 0x4c f
  | .fmax f => .base 0x4d f
  | .fmaxExt f => .ext 0x4d f
  | .fcmp f => .base 0x4e f
  | .fcmpExt f => .ext 0x4e f
  | .frcp f => .base 0x4f f
  | .frcpExt f => .ext 0x4f f
  | .frsq f => .base 0x50 f
  | .frsqExt f => .ext 0x50 f
  | .fsqrt f => .base 0x51 f
  | .fsqrtExt f => .ext 0x51 f
  | .fexp2 f => .base 0x52 f
  | .fexp2Ext f => .ext 0x52 f
  | .flog2 f => .base 0x53 f
  | .flog2Ext f => .ext 0x53 f
  | .fsin f => .base 0x54 f
  | .fsinExt f => .ext 0x54 f
  | .fcos f => .base 0x55 f
  | .fcosExt f => .ext 0x55 f
  | .fdiv f => .base 0x56 f
  | .fdivExt f => .ext 0x56 f
  | .frnd f => .base 0x57 f
  | .frndExt f => .ext 0x57 f
  | .fcls f => .base 0x58 f
  | .fclsExt f => .ext 0x58 f
  | .fscl f => .base 0x59 f
  | .fsclExt f => .ext 0x59 f
  | .fdot2 f => .ext 0x5a f
  | .fdot4 f => .ext 0x5b f
  | .fmxi f => .ext 0x5c f
  | .fmni f => .ext 0x5d f
  | .cvt f => .ext 0x68 f
  | .cvtpk f => .ext 0x69 f
  | .unpk f => .ext 0x6a f
  | .qscl f => .ext 0x6b f
  | .hdmk f => .ext 0x6c f
  | .cmprs f => .ext 0x6d f
  | .shfl f => .base 0x70 f
  | .shflExt f => .ext 0x70 f
  | .vote f => .base 0x71 f
  | .voteExt f => .ext 0x71 f
  | .redl f => .ext 0x72 f
  | .scanl f => .ext 0x73 f
  | .matchLanes f => .ext 0x74 f
  | .elect f => .base 0x75 f
  | .electExt f => .ext 0x75 f
  | .ld f => .ext 0x78 f
  | .st f => .ext 0x79 f
  | .ldl f => .ext 0x7a f
  | .stl f => .ext 0x7b f
  | .atom f => .ext 0x7c f
  | .atoml f => .ext 0x7d f
  | .satom f => .ext 0x7e f
  | .sst f => .ext 0x7f f
  | .sld f => .ext 0x80 f
  | .fenceAcq f => .ext 0x81 f
  | .fenceRel f => .ext 0x81 f
  | .fenceAr f => .ext 0x81 f
  | .wfence f => .ext 0x82 f
  | .rfence f => .ext 0x83 f
  | .pref f => .ext 0x84 f
  | .discLine f => .ext 0x85 f
  | .discAll f => .ext 0x85 f
  | .wbr f => .ext 0x86 f
  | .segb f => .ext 0x87 f
  | .segu f => .ext 0x88 f
  | .ptst f => .ext 0x90 f
  | .ptld f => .ext 0x91 f
  | .tlbiPage f => .ext 0x92 f
  | .tlbiAsid f => .ext 0x92 f
  | .tlbiAll f => .ext 0x92 f
  | .xfencePt f => .ext 0x93 f
  | .xfenceInv f => .ext 0x93 f
  | .xfenceAd f => .ext 0x93 f
  | .xfenceAll f => .ext 0x93 f
  | .migr f => .ext 0x94 f
  | .migrEvac f => .ext 0x94 f
  | .bver f => .ext 0x95 f
  | .cpy f => .ext 0x98 f
  | .tcpy f => .ext 0x99 f
  | .kick f => .ext 0x9a f
  | .bari f => .ext 0x9b f
  | .bara f => .ext 0x9c f
  | .barw f => .ext 0x9d f
  | .bart f => .ext 0x9e f
  | .lemp f => .ext 0x9f f
  | .lwt f => .ext 0xa0 f
  | .gsub f => .ext 0xa1 f
  | .cfenceDone f => .ext 0xa2 f
  | .cfenceRead f => .ext 0xa2 f
  | .oclm f => .ext 0xa8 f
  | .orel f => .ext 0xa9 f
  | .ofill f => .ext 0xaa f
  | .ofillOut f => .ext 0xaa f
  | .ostrOpen f => .ext 0xab f
  | .ostrPost f => .ext 0xab f
  | .ostrClose f => .ext 0xab f
  | .osub f => .ext 0xac f
  | .osubDrop f => .ext 0xac f
  | .aclm f => .ext 0xad f
  | .arel f => .ext 0xae f
  | .aini f => .ext 0xaf f
  | .ald f => .ext 0xb0 f
  | .opf => .base 0xb1 .empty
  | .ttsk f => .ext 0xb2 f
  | .twait f => .ext 0xb3 f
  | .hndw f => .ext 0xb4 f
  | .hndp f => .ext 0xb5 f
  | .bar => .base 0xb8 .empty
  | .gbar => .base 0xb9 .empty
  | .tokw => .base 0xba .empty
  | .tokp => .base 0xbb .empty
  | .rsend f => .ext 0xc0 f
  | .rflshGo f => .ext 0xc1 f
  | .rflshWait f => .ext 0xc1 f
  | .rpollOpen f => .ext 0xc2 f
  | .rpollCnt f => .ext 0xc2 f
  | .rpollFree f => .ext 0xc2 f
  | .rpollClose f => .ext 0xc2 f
  | .rpollSent f => .ext 0xc2 f
  | .rpollRefd f => .ext 0xc2 f
  | .frec f => .ext 0xc8 f
  | .lfix f => .ext 0xc9 f
  | .perfRead f => .ext 0xca f
  | .perfClr f => .ext 0xca f
  | .hcapCfg f => .ext 0xcb f
  | .hcapRd f => .ext 0xcb f
  | .hcapClr f => .ext 0xcb f
  | .dgst f => .ext 0xcc f
  | .asyncTrapDelivery _ => .event
  | .handlerWatchdog _ => .event
  | .writeBackpressure _ => .event
  | .pageRequestResponse _ _ _ => .event
  | .prheadWrite _ _ => .event
  | .prlenWrite _ _ => .event
  | .klaunchWrite _ _ => .event
  | .campionPlacement _ => .event
  | .contextSave _ => .event
  | .swapOut _ => .event
  | .workgroupExit _ => .event
  | .gangRetire _ => .event
  | .launchDone _ _ => .event
  | .writeLaneGrant _ => .event
  | .wcapWindow _ => .event
  | .wqEntryPerform _ _ => .event
  | .loadReturn _ _ => .event
  | .hcapLevelSample _ _ _ => .event
  | .windowFillRequest _ _ => .event
  | .windowFillData _ _ _ => .event
  | .windowNotice _ _ => .event
  | .windowInv _ _ => .event
  | .windowRecall _ _ => .event
  | .windowGone _ _ => .event
  | .windowNoticeAck _ _ => .event
  | .hostLineFill _ _ => .event
  | .snpData _ _ => .event
  | .snpInv _ _ => .event
  | .snpCur _ _ => .event
  | .hdmRead _ _ _ => .event
  | .hdmWrite _ _ _ _ => .event
  | .birsp _ _ => .event
  | .updatePacket _ _ => .event
  | .grantPacket _ _ => .event
  | .wrapPacket _ _ => .event
  | .packetApply _ => .event
  | .reqMessage _ _ => .event
  | .colGrant _ => .event
  | .ackMessage _ _ => .event
  | .ackTimer _ => .event
  | .wrapackMessage _ _ => .event
  | .counterWrap _ => .event
  | .linkCrcError _ _ => .event
  | .ackTimeout _ => .event
  | .holdTimeout _ => .event
  | .proposeMessage _ _ => .event
  | .stateMessage _ _ => .event
  | .installMessage _ _ => .event
  | .viewPhaseTimeout _ => .event
  | .joinMessage _ _ => .event
  | .listenMessage _ _ => .event
  | .donorCopy _ => .event
  | .rjoinWrite _ _ => .event
  | .lagmaxWrite _ _ => .event
  | .holdmaxWrite _ _ => .event
  | .acklimWrite _ _ => .event
  | .rsegszWrite _ _ => .event
  | .rootrcbWrite _ _ => .event
  | .copyTransfer _ _ => .event
  | .kickRecordStart _ => .event
  | .graphNodeRetire _ _ _ => .event
  | .ethFrameRx _ _ => .event
  | .taskDispatch _ => .event
  | .tileStep _ _ => .event
  | .sendListFlush _ _ => .event
  | .tokenArrival _ => .event
  | .tokenAcknowledge _ => .event
  | .tokenRefusal _ => .event
  | .fencedWrite _ _ => .event
  | .hsgoWrite _ _ => .event
  | .areqWrite _ _ => .event
  | .attestReportReady _ => .event
  | .keycmdDraw _ _ => .event
  | .keycmdErase _ _ => .event
  | .keycmdInvalid _ _ => .event
  | .fixclkSet _ => .event
  | .fixclkClear _ => .event
  | .rstctlWarm _ => .event
  | .warmDrainComplete _ => .event
  | .warmDrainTimeout _ => .event
  | .rstctlIsolate _ => .event
  | .chipFaultLasting _ => .event
  | .coldReset _ => .event
  | .cxlLinkReset _ => .event
  | .thermal95c _ => .event
  | .thermal105c _ => .event
  | .registerWrite _ _ _ => .event
  | .replJoin _ => .event
  | .channelRetirement _ _ => .event
  | .coreClockStep _ _ => .event
  | .idleSlotClock _ _ => .event
  | .resendRequest _ _ => .event

/-- The base-form instruction of an opcode (06 Table 6.1). -/
def baseInstr (op : Nat) (f : BaseArgs) : Option Instr :=
  match op with
  | 0x00 => some .nop
  | 0x03 => some (.brx f)
  | 0x05 => some (.ret f)
  | 0x07 => some .exit
  | 0x09 => some .yield
  | 0x0a => some (.sleep f)
  | 0x0c => some .rte
  | 0x20 => some (.iadd f)
  | 0x21 => some (.isub f)
  | 0x22 => some (.imul f)
  | 0x23 => some (.imulh f)
  | 0x24 => some (.imad f)
  | 0x25 => some (.imin f)
  | 0x26 => some (.imax f)
  | 0x27 => some (.iabs f)
  | 0x28 => some (.and f)
  | 0x29 => some (.or f)
  | 0x2a => some (.xor f)
  | 0x2b => some (.not f)
  | 0x2c => some (.shl f)
  | 0x2d => some (.shr f)
  | 0x2e => some (.sha f)
  | 0x2f => some (.rot f)
  | 0x30 => some (.popc f)
  | 0x31 => some (.clz f)
  | 0x32 => some (.brev f)
  | 0x35 => some (.icmp f)
  | 0x36 => some (.sel f)
  | 0x38 => some (.iadds f)
  | 0x39 => some (.idiv f)
  | 0x3a => some (.irem f)
  | 0x40 => some (.mov f)
  | 0x41 => some (.movi f)
  | 0x42 => some (.srd f)
  | 0x43 => some (.swr f)
  | 0x44 => some (.pmov f)
  | 0x45 => some (.plog f)
  | 0x48 => some (.fadd f)
  | 0x49 => some (.fsub f)
  | 0x4a => some (.fmul f)
  | 0x4b => some (.ffma f)
  | 0x4c => some (.fmin f)
  | 0x4d => some (.fmax f)
  | 0x4e => some (.fcmp f)
  | 0x4f => some (.frcp f)
  | 0x50 => some (.frsq f)
  | 0x51 => some (.fsqrt f)
  | 0x52 => some (.fexp2 f)
  | 0x53 => some (.flog2 f)
  | 0x54 => some (.fsin f)
  | 0x55 => some (.fcos f)
  | 0x56 => some (.fdiv f)
  | 0x57 => some (.frnd f)
  | 0x58 => some (.fcls f)
  | 0x59 => some (.fscl f)
  | 0x70 => some (.shfl f)
  | 0x71 => some (.vote f)
  | 0x75 => some (.elect f)
  | 0xb1 => some .opf
  | 0xb8 => some .bar
  | 0xb9 => some .gbar
  | 0xba => some .tokw
  | 0xbb => some .tokp
  | _ => none

/-- The extended-form instruction of an opcode (06 Table 6.1), chosen by its sub-operation where the opcode table
has a row for each (06 R124 to R129). -/
def extInstr (op : Nat) (f : ExtArgs) : Option Instr :=
  match op with
  | 0x0a => some (.sleepExt f)
  | 0x0e => some (.mona f)
  | 0x0f => some (.mwait f)
  | 0x10 => some (.launch f)
  | 0x20 => some (.iaddExt f)
  | 0x21 => some (.isubExt f)
  | 0x22 => some (.imulExt f)
  | 0x23 => some (.imulhExt f)
  | 0x24 => some (.imadExt f)
  | 0x25 => some (.iminExt f)
  | 0x26 => some (.imaxExt f)
  | 0x27 => some (.iabsExt f)
  | 0x28 => some (.andExt f)
  | 0x29 => some (.orExt f)
  | 0x2a => some (.xorExt f)
  | 0x2b => some (.notExt f)
  | 0x2c => some (.shlExt f)
  | 0x2d => some (.shrExt f)
  | 0x2e => some (.shaExt f)
  | 0x2f => some (.rotExt f)
  | 0x30 => some (.popcExt f)
  | 0x31 => some (.clzExt f)
  | 0x32 => some (.brevExt f)
  | 0x33 => some (.bfx f)
  | 0x34 => some (.bfi f)
  | 0x35 => some (.icmpExt f)
  | 0x36 => some (.selExt f)
  | 0x37 => some (.lea f)
  | 0x38 => some (.iaddsExt f)
  | 0x39 => some (.idivExt f)
  | 0x3a => some (.iremExt f)
  | 0x40 => some (.movExt f)
  | 0x42 => some (.srdExt f)
  | 0x43 => some (.swrExt f)
  | 0x44 => some (.pmovExt f)
  | 0x48 => some (.faddExt f)
  | 0x49 => some (.fsubExt f)
  | 0x4a => some (.fmulExt f)
  | 0x4b => some (.ffmaExt f)
  | 0x4c => some (.fminExt f)
  | 0x4d => some (.fmaxExt f)
  | 0x4e => some (.fcmpExt f)
  | 0x4f => some (.frcpExt f)
  | 0x50 => some (.frsqExt f)
  | 0x51 => some (.fsqrtExt f)
  | 0x52 => some (.fexp2Ext f)
  | 0x53 => some (.flog2Ext f)
  | 0x54 => some (.fsinExt f)
  | 0x55 => some (.fcosExt f)
  | 0x56 => some (.fdivExt f)
  | 0x57 => some (.frndExt f)
  | 0x58 => some (.fclsExt f)
  | 0x59 => some (.fsclExt f)
  | 0x5a => some (.fdot2 f)
  | 0x5b => some (.fdot4 f)
  | 0x5c => some (.fmxi f)
  | 0x5d => some (.fmni f)
  | 0x68 => some (.cvt f)
  | 0x69 => some (.cvtpk f)
  | 0x6a => some (.unpk f)
  | 0x6b => some (.qscl f)
  | 0x6c => some (.hdmk f)
  | 0x6d => some (.cmprs f)
  | 0x70 => some (.shflExt f)
  | 0x71 => some (.voteExt f)
  | 0x72 => some (.redl f)
  | 0x73 => some (.scanl f)
  | 0x74 => some (.matchLanes f)
  | 0x75 => some (.electExt f)
  | 0x78 => some (.ld f)
  | 0x79 => some (.st f)
  | 0x7a => some (.ldl f)
  | 0x7b => some (.stl f)
  | 0x7c => some (.atom f)
  | 0x7d => some (.atoml f)
  | 0x7e => some (.satom f)
  | 0x7f => some (.sst f)
  | 0x80 => some (.sld f)
  | 0x81 =>
    match f.md.toNat with
    | 0 => some (.fenceAcq f)
    | 1 => some (.fenceRel f)
    | 2 => some (.fenceAr f)
    | _ => none
  | 0x82 => some (.wfence f)
  | 0x83 => some (.rfence f)
  | 0x84 => some (.pref f)
  | 0x85 =>
    match f.md.toNat with
    | 0 => some (.discLine f)
    | 1 => some (.discAll f)
    | _ => none
  | 0x86 => some (.wbr f)
  | 0x87 => some (.segb f)
  | 0x88 => some (.segu f)
  | 0x90 => some (.ptst f)
  | 0x91 => some (.ptld f)
  | 0x92 =>
    match f.md.toNat with
    | 0 => some (.tlbiPage f)
    | 1 => some (.tlbiAsid f)
    | 2 => some (.tlbiAll f)
    | _ => none
  | 0x93 =>
    match f.md.toNat with
    | 0 => some (.xfencePt f)
    | 1 => some (.xfenceInv f)
    | 2 => some (.xfenceAd f)
    | 3 => some (.xfenceAll f)
    | _ => none
  | 0x94 => if f.aux = 0 then some (.migr f) else some (.migrEvac f)
  | 0x95 => some (.bver f)
  | 0x98 => some (.cpy f)
  | 0x99 => some (.tcpy f)
  | 0x9a => some (.kick f)
  | 0x9b => some (.bari f)
  | 0x9c => some (.bara f)
  | 0x9d => some (.barw f)
  | 0x9e => some (.bart f)
  | 0x9f => some (.lemp f)
  | 0xa0 => some (.lwt f)
  | 0xa1 => some (.gsub f)
  | 0xa2 =>
    match f.md.toNat with
    | 0 => some (.cfenceDone f)
    | 1 => some (.cfenceRead f)
    | _ => none
  | 0xa8 => some (.oclm f)
  | 0xa9 => some (.orel f)
  | 0xaa =>
    match f.md.toNat with
    | 0 | 1 => some (.ofill f)
    | 2 | 3 => some (.ofillOut f)
    | _ => none
  | 0xab =>
    match f.md.toNat with
    | 0 => some (.ostrOpen f)
    | 1 => some (.ostrPost f)
    | 2 => some (.ostrClose f)
    | _ => none
  | 0xac =>
    match f.md.toNat with
    | 0 => some (.osub f)
    | 1 => some (.osubDrop f)
    | _ => none
  | 0xad => some (.aclm f)
  | 0xae => some (.arel f)
  | 0xaf => some (.aini f)
  | 0xb0 => some (.ald f)
  | 0xb2 => some (.ttsk f)
  | 0xb3 => some (.twait f)
  | 0xb4 => some (.hndw f)
  | 0xb5 => some (.hndp f)
  | 0xc0 => some (.rsend f)
  | 0xc1 =>
    match f.md.toNat with
    | 0 => some (.rflshGo f)
    | 1 => some (.rflshWait f)
    | _ => none
  | 0xc2 =>
    match f.md.toNat with
    | 0 => some (.rpollOpen f)
    | 1 => some (.rpollCnt f)
    | 2 => some (.rpollFree f)
    | 3 => some (.rpollClose f)
    | 4 => some (.rpollSent f)
    | 5 => some (.rpollRefd f)
    | _ => none
  | 0xc8 => some (.frec f)
  | 0xc9 => some (.lfix f)
  | 0xca =>
    match f.md.toNat with
    | 0 => some (.perfRead f)
    | 1 => some (.perfClr f)
    | _ => none
  | 0xcb =>
    match f.md.toNat with
    | 0 => some (.hcapCfg f)
    | 1 => some (.hcapRd f)
    | 2 => some (.hcapClr f)
    | _ => none
  | 0xcc => some (.dgst f)
  | _ => none

/-- The sub-operation field is that of the instruction's row. -/
def Instr.subOk : Instr → Bool
  | .fenceAcq f => f.md = 0
  | .fenceRel f => f.md = 1
  | .fenceAr f => f.md = 2
  | .discLine f => f.md = 0
  | .discAll f => f.md = 1
  | .tlbiPage f => f.md = 0
  | .tlbiAsid f => f.md = 1
  | .tlbiAll f => f.md = 2
  | .xfencePt f => f.md = 0
  | .xfenceInv f => f.md = 1
  | .xfenceAd f => f.md = 2
  | .xfenceAll f => f.md = 3
  | .cfenceDone f => f.md = 0
  | .cfenceRead f => f.md = 1
  | .ofill f => f.md = 0 || f.md = 1
  | .ofillOut f => f.md = 2 || f.md = 3
  | .ostrOpen f => f.md = 0
  | .ostrPost f => f.md = 1
  | .ostrClose f => f.md = 2
  | .osub f => f.md = 0
  | .osubDrop f => f.md = 1
  | .rflshGo f => f.md = 0
  | .rflshWait f => f.md = 1
  | .rpollOpen f => f.md = 0
  | .rpollCnt f => f.md = 1
  | .rpollFree f => f.md = 2
  | .rpollClose f => f.md = 3
  | .rpollSent f => f.md = 4
  | .rpollRefd f => f.md = 5
  | .perfRead f => f.md = 0
  | .perfClr f => f.md = 1
  | .hcapCfg f => f.md = 0
  | .hcapRd f => f.md = 1
  | .hcapClr f => f.md = 2
  | .migr f => f.aux = 0
  | .migrEvac f => f.aux = 1
  | _ => true

/-- The parts an event names exist (01 Table 1.1). -/
def Instr.partsOk : Instr → Bool
  | .pageRequestResponse chip _ _ => decide (chip < 8)
  | .prheadWrite chip _ => decide (chip < 8)
  | .prlenWrite chip _ => decide (chip < 8)
  | .klaunchWrite chip _ => decide (chip < 8)
  | .campionPlacement chip => decide (chip < 8)
  | .launchDone chip _ => decide (chip < 8)
  | .writeLaneGrant stack => decide (stack < 32)
  | .wcapWindow stack => decide (stack < 32)
  | .wqEntryPerform core _ => decide (core < 512)
  | .hcapLevelSample core monitor _ => decide (core < 512) && decide (monitor < 4)
  | .windowFillRequest core seg => decide (core < 512) && decide (seg < 128)
  | .windowFillData core seg _ => decide (core < 512) && decide (seg < 128)
  | .windowNotice core seg => decide (core < 512) && decide (seg < 128)
  | .windowInv core seg => decide (core < 512) && decide (seg < 128)
  | .windowRecall core seg => decide (core < 512) && decide (seg < 128)
  | .windowGone core seg => decide (core < 512) && decide (seg < 128)
  | .windowNoticeAck core seg => decide (core < 512) && decide (seg < 128)
  | .hostLineFill chip _ => decide (chip < 8)
  | .snpData chip _ => decide (chip < 8)
  | .snpInv chip _ => decide (chip < 8)
  | .snpCur chip _ => decide (chip < 8)
  | .hdmRead chip _ _ => decide (chip < 8)
  | .hdmWrite chip _ _ _ => decide (chip < 8)
  | .birsp chip _ => decide (chip < 8)
  | .updatePacket src dst => decide (src < 8) && decide (dst < 8)
  | .grantPacket src dst => decide (src < 8) && decide (dst < 8)
  | .wrapPacket src dst => decide (src < 8) && decide (dst < 8)
  | .packetApply chip => decide (chip < 8)
  | .reqMessage src dst => decide (src < 8) && decide (dst < 8)
  | .colGrant chip => decide (chip < 8)
  | .ackMessage src dst => decide (src < 8) && decide (dst < 8)
  | .ackTimer chip => decide (chip < 8)
  | .wrapackMessage src dst => decide (src < 8) && decide (dst < 8)
  | .counterWrap chip => decide (chip < 8)
  | .linkCrcError src dst => decide (src < 8) && decide (dst < 8)
  | .ackTimeout chip => decide (chip < 8)
  | .holdTimeout chip => decide (chip < 8)
  | .proposeMessage src dst => decide (src < 8) && decide (dst < 8)
  | .stateMessage src dst => decide (src < 8) && decide (dst < 8)
  | .installMessage src dst => decide (src < 8) && decide (dst < 8)
  | .viewPhaseTimeout chip => decide (chip < 8)
  | .joinMessage src dst => decide (src < 8) && decide (dst < 8)
  | .listenMessage src dst => decide (src < 8) && decide (dst < 8)
  | .donorCopy chip => decide (chip < 8)
  | .rjoinWrite chip _ => decide (chip < 8)
  | .lagmaxWrite chip _ => decide (chip < 8)
  | .holdmaxWrite chip _ => decide (chip < 8)
  | .acklimWrite chip _ => decide (chip < 8)
  | .rsegszWrite chip _ => decide (chip < 8)
  | .rootrcbWrite chip _ => decide (chip < 8)
  | .copyTransfer core _ => decide (core < 512)
  | .kickRecordStart core => decide (core < 512)
  | .graphNodeRetire core _ _ => decide (core < 512)
  | .ethFrameRx port _ => decide (port < 12)
  | .taskDispatch cluster => decide (cluster < 32)
  | .tileStep cluster _ => decide (cluster < 32)
  | .sendListFlush core chip => decide (core < 512) && decide (chip < 8)
  | .tokenArrival chip => decide (chip < 8)
  | .fencedWrite chip _ => decide (chip < 8)
  | .hsgoWrite chip _ => decide (chip < 8)
  | .areqWrite chip _ => decide (chip < 8)
  | .attestReportReady chip => decide (chip < 8)
  | .keycmdDraw chip _ => decide (chip < 8)
  | .keycmdErase chip _ => decide (chip < 8)
  | .keycmdInvalid chip _ => decide (chip < 8)
  | .fixclkSet chip => decide (chip < 8)
  | .fixclkClear chip => decide (chip < 8)
  | .rstctlWarm chip => decide (chip < 8)
  | .warmDrainComplete chip => decide (chip < 8)
  | .warmDrainTimeout chip => decide (chip < 8)
  | .rstctlIsolate chip => decide (chip < 8)
  | .chipFaultLasting chip => decide (chip < 8)
  | .coldReset chip => decide (chip < 8)
  | .cxlLinkReset chip => decide (chip < 8)
  | .thermal95c chip => decide (chip < 8)
  | .thermal105c chip => decide (chip < 8)
  | .registerWrite chip _ _ => decide (chip < 8)
  | .replJoin chip => decide (chip < 8)
  | .channelRetirement stack channel => decide (stack < 32) && decide (channel < 16)
  | .coreClockStep chip _ => decide (chip < 8)
  | .idleSlotClock core slot => decide (core < 512) && decide (slot < 4)
  | .resendRequest src dst => decide (src < 8) && decide (dst < 8)
  | _ => true

end Sys2Proof
end

