-- ==== Sys2Proof/Config.lean ====
section
/-! DEFINITION. What an implementation fixes and the values the spec leaves open: opaque constants without a body. -/

namespace Sys2Proof

/-- The n-th undefined value of a run (00 R6): any bit pattern. 128 bits; narrower values take its low bits. -/
opaque Config.freeValue : Nat → BitVec 128

/-- The housekeeping firmware image in the module flash, as chip c reads it (17 R360). -/
opaque Config.firmwareImage : Nat → List (BitVec 8)

/-- The image's Ed448 signature verifies over a digest with the vendor key fused into chip c (17 R360). -/
opaque Config.imageVerifies : Nat → BitVec 512 → Bool

/-- What the firmware of chip c measures into MEAS i, piece by piece (17 R360). -/
opaque Config.measured : Nat → Nat → List (List (BitVec 8))

/-- The Device Serial Number that every CXL function of the module reports (17 R354). -/
opaque Config.serialNumber : BitVec 64

/-- The Ed448 public identity key of chip c (17 R361), 57 bytes. -/
opaque Config.identityKey : Nat → BitVec 456

/-- The Ed448 signature of chip c over the 64-byte digest of a report (17 R361), 114 bytes. -/
opaque Config.signature : Nat → BitVec 512 → BitVec 912

end Sys2Proof
end

