-- ==== Sys2Proof/Machine/State.lean ====
section
/-! DEFINITION. The state of a Marinafel M8 module as plain data: threads, waves, workgroups, gangs, cores, clusters
with their stacks, chips, links and memory, as INVENTORY.md lists them with their rules; and the state after reset. -/

namespace Sys2Proof.Machine

/-- A sparse map from numbers to data: keys strictly rising, an absent key holds the reader's default. -/
abbrev Table (α : Type) := List (Nat × α)

/-- Bytes of memory: addresses strictly rising, no entry 0, which is what an unlisted address reads as (log 2: DESIGN CHOICE). -/
abbrev Memory := List Host.Cell

/-! ### Threads -/

/-- Thread states (02 Table 2.3). -/
inductive ThreadSt where
  | issuing | deferred | held | waiting | parked | exited
  deriving DecidableEq, Repr

/-- Guard state of a predicate block (05 R113): `left` 0 is none. -/
structure Guard where
  pat : BitVec 8
  left : Nat
  val : Bool
  deriving DecidableEq, Repr

/-- Restart record of the idempotent region (02 R38), with the guard state recorded beside it (05 R115). -/
structure Restart where
  pc : DWord
  meet : DWord
  guard : Guard
  deriving DecidableEq, Repr

/-- What a Waiting thread waits in: `MWAIT` with its destination, one more than the clocks left (0: no timeout, 1: expired; 15 R318,
21 R448) and its length, `BAR` (18 R381), `GBAR` (20 R418). -/
inductive WaitIn where
  | mwait (d : Opd) (left len : Nat)
  | bar
  | gbar
  deriving DecidableEq, Repr

/-- The record of a parked lane (15 Table 15.2): CAUSE, PC, ADDRLO and ADDRHI, DEST; `len` is the length of its
faulting instruction, which `LFIX` adds to PC. -/
structure LaneRec where
  cause : BitVec 8
  pc : DWord
  addr : DWord
  dest : BitVec 11
  len : Nat
  deriving DecidableEq, Repr

/-- What handler entry sets aside for a thread (15 R314). -/
structure Aside where
  pc : DWord
  st : ThreadSt
  meet : DWord
  guard : Guard
  restart : Restart
  wait : Option WaitIn
  deriving DecidableEq, Repr

/-- A thread (02 R23, 04 R75 to R78): program counter, thread state, absent lane (02 R25), meeting address, restart
record, guard state, `%fpctl`, `%fpflags`, predicates, `h`, `k` and `v` registers (an absent key is 0), the full bits
of the main file, the lane record while parked, the set-aside state while a handler runs. -/
structure Thread where
  pc : DWord
  st : ThreadSt
  absent : Bool
  meet : DWord
  restart : Restart
  guard : Guard
  fpctl : Word
  fpflags : Word
  p : BitVec 8
  h : Table Word
  k : Table Word
  v : Table Word
  full : BitVec 256
  lane : Option LaneRec
  wait : Option WaitIn
  aside : Option Aside
  deriving DecidableEq, Repr

/-! ### Waves -/

/-- The fault record of a wave (15 Table 15.2). -/
structure FaultRec where
  cause : BitVec 8
  pmask : Word
  pc : DWord
  addr : DWord
  lseq : Word
  skid : Nat
  dest : BitVec 11
  deriving DecidableEq, Repr

/-- A pending class A event (15 R309, R313): cause, PC of its origin if it has one, address, launch sequence, DEST. -/
structure PendA where
  cause : BitVec 8
  pc : Option DWord
  addr : DWord
  lseq : Option Word
  dest : BitVec 11
  deriving DecidableEq, Repr

/-- What a trap records (15 R309, R310): cause, PC of the faulting or originating instruction, the address at which it
is taken, its address words, LSEQ, PMASK, DEST, and whether the wave resumes past the instruction (skip and next) or
at it (retry and at taken). -/
structure TrapInfo where
  cause : BitVec 8
  pc : DWord
  taken : DWord
  addr : DWord
  lseq : Option Word
  pmask : Option Word
  dest : BitVec 11
  skip : Option DWord
  deriving DecidableEq, Repr

/-- The handler a wave runs: for a trap, or for a context save or restore (15 R314, R325, R326). -/
inductive Handler where
  | trap | save | restore
  deriving DecidableEq, Repr

/-- How the bytes of a long-latency result become a register value (20 Table 20.5). -/
structure LoadFmt where
  width : Nat
  bytes : Nat
  signed : Bool
  deriving DecidableEq, Repr

/-- One byte a load lane reads: captured at issue from the wave's own queue, L1 or a full scratchpad line, or read when the load
returns at the home by physical address, in a replica, or in a scratchpad line, by its offset, that was empty at issue (20 R435,
08 R168, R177). -/
inductive ByteSrc where
  | val (b : Byte)
  | phys (a buf : Nat)
  | repl (off : Nat)
  | pad (off : Nat)
  deriving DecidableEq, Repr

/-- One lane of an outstanding long-latency result: bytes still to read, or a value already computed. -/
structure LoadLane where
  lane : Nat
  src : List ByteSrc
  va : DWord
  deriving DecidableEq, Repr

/-- An outstanding long-latency result (04 R78). `kind` says what delivers it: `bytes` a load, `value` a result
computed at issue, delivered per lane, `atomic` lanes that queue entries deliver, `strong` lanes that grants
deliver.  `acq` is the scope code of an acquire at wave scope or wider, `issued` the core clock at issue, `order` and
`epoch` the counts of serials and of translation removals then; `got` the signatures received so far (09 R192), `bad`
the address at which the scope checker found a mismatch (16 R349). -/
inductive LoadKind where
  | bytes | value | atomic | strong
  deriving DecidableEq, Repr

structure Load where
  kind : LoadKind
  d : Opd
  fmt : LoadFmt
  lanes : List LoadLane
  acq : Option Nat
  pc : DWord
  seq : Word
  issued : Nat
  order : Nat
  epoch : Nat
  got : BitVec 512
  bad : Option DWord
  deriving DecidableEq, Repr

/-- A page request that a wave, a copy or a task waits on (15 R319, Table 15.4): ASID, virtual page, KIND, the faulting
PC and address, the cluster and the launch sequence number, DEST of the faulting instruction (15 Table 15.2); `refused` once the
answer is that it cannot be resolved. -/
structure PageWait where
  asid : Nat
  vpn : Nat
  kind : Nat
  pc : DWord
  va : DWord
  clu : Nat
  seq : Word
  dest : BitVec 11
  refused : Bool
  deriving DecidableEq, Repr

/-- The one outstanding strong instruction of a wave (10 R215): its requests not yet applied, by request count; the
lanes' results are in its load record; the core clock at sending, the count of translation removals then, and the virtual pages
that were translated for it (12 R266). -/
structure Strong where
  reqs : List Nat
  load : Option Nat
  started : Nat
  epoch : Nat
  vpns : List Nat
  deriving DecidableEq, Repr

/-- A move of pages under way (12 R268): the lane; `phase` 0 before its entry reads as moving, 1 from then, 2 once the removal of
its translations has been performed; the entry as it was and where it lies, the new page, the count of translation removals at the
removal, and the lanes refused so far. -/
structure Migr where
  lane : Nat
  phase : Nat
  entry : DWord
  ea : Nat
  newPage : Nat
  epoch : Nat
  parks : List (Nat × BitVec 8 × DWord)
  deriving DecidableEq, Repr

/-- A `TLBI` of a wave, for `XFENCE.inv` (12 R263, R266): what it removes; the grant that carries it as rank, sequence
number and wraps of the rank, none for one performed at issue, with the count of removals then. -/
structure TlbiRec where
  kind : Nat
  vpn : Nat
  asid : Nat
  grant : Option (Nat × Nat × Nat)
  epoch : Option Nat
  deriving DecidableEq, Repr

/-- One lane of a queued atomic (18 R377): sub-operation or digest fold, type, rounding mode, operands, physical
address and width; D is delivered to the wave's load record. -/
structure AtomLane where
  lane : Nat
  pa : Nat
  width : Nat
  md : Nat
  ty : Ty
  rm : Rm
  nan : Bool
  b : Quad
  c : Quad
  deriving DecidableEq, Repr

/-- A write-queue entry (08 R175): wave, block, bytes written with their values (the byte mask is their address set),
store or atomic; held for an open region or released; granted by the write scheduler; the virtual pages it was
translated with; the signature and scope tag it carries as a release (09 R192, 16 R349). -/
structure WqEntry where
  wave : Nat
  gang : Nat
  rcb : Nat
  block : Nat
  repl : Bool
  bytes : Memory
  atoms : List AtomLane
  load : Option Nat
  held : Bool
  granted : Bool
  sig : Option (BitVec 512)
  tag : Option (List Nat)
  va : DWord
  vpns : List Nat
  asid : Nat
  ptroot : DWord
  priv : Bool
  buf : Nat
  pc : DWord
  seq : Word
  epoch : Nat
  deriving DecidableEq, Repr

/-- What an instruction has done when it must be issued again to go on: the entries that a store or atomic has still to
take and the lanes it parks (02 R41, 18 R378), the updates of its chip that a release or fence waits for, as their number and the count of
wraps then (10 R220), lanes of a routing send already listed (21 R471), a page move (12 R268), that a load which waited for an atomic
reads at the home (08 R177), or the entries of the open region that a release waits for (09 R189). -/
inductive Pend where
  | todo (es : List WqEntry) (parks : List (Nat × BitVec 8 × DWord))
  | upTo (n wraps : Nat)
  | lanes (ls : List Nat)
  | migr (m : Migr)
  | home
  | region (es : List Nat)
  deriving DecidableEq, Repr

/-- What a wave that is not ready waits in beside a Waiting thread, as R67 lists it (03 R67): `BARW` for the PH of the object at a
byte of a core to leave a value; `TOKW`; `HNDW` for a write to the line of the word at a physical address, since a count of
serials. -/
inductive Blocked where
  | barw (core byte : Nat) (ph : Bool)
  | tokw
  | hand (pa since : Nat)
  deriving DecidableEq, Repr

/-- A wave's part in a context save (15 R323 to R326): none; a CONTEXT save is due, after which the wave leaves its core or
stays; it stays and issues nothing; it has left; a CONTEXT restore is due. -/
inductive SaveSt where
  | none
  | due (leave : Bool)
  | stays
  | out
  | back
  deriving DecidableEq, Repr

/-- A wave (02 R23): its workgroup, number and issue slot; `%seqno`, `%trapcause`, `%trappc` (04 Table 4.3); the fault record (15
R310); its 32 threads; the monitor set (line and virtual address), the fired flag and the address that fired (21 R446, 16 R338);
token counts (21 R473); pending class A events (15 R313); the handler, its instruction count, the halt, its skid, a trap held
pending and the skid that goes with it (15 R312 to R317); sleep clocks left (22 R488); waits; outstanding results; the progress
count (16 R338); barrier arrivals; what it is blocked in without a Waiting thread (03 R67); the write stall with the address and
DEST its trap records (08 R182); when it was placed on its core, as a count of serials, and issue aging (03 R73); fence signatures
(09 R197); commit token (16 R333); tasks contributed to (14 R306); its part in a context save (15 R323), the page wait and the
`BARW`, `TOKW` or `HNDW` it was in then, whether it has what it waited for since (03 R67), and the loads that stalled on an empty
scratchpad line, to be issued again (04 R81); an abort asked for by a removal of translations (12 R266); grants of its `PTST`s as
rank, sequence number and wraps of the rank, and its `TLBI`s (12 R263). -/
structure Wave where
  wg : Nat
  idx : Nat
  slot : Nat
  seqno : Word
  trapcause : Word
  trappc : DWord
  frec : FaultRec
  threads : List Thread
  monitor : List (Nat × DWord)
  fired : Bool
  firedVa : DWord
  delivered : Word
  refused : Word
  appended : Word
  pendA : List PendA
  handler : Option Handler
  handlerCount : Nat
  halted : Bool
  skid : Nat
  skidLeft : Nat
  heldTrap : Option TrapInfo
  heldSkid : Option Nat
  sleep : Nat
  page : Option PageWait
  strong : Option Strong
  pend : Option Pend
  pendAside : Option Pend
  blocked : Option Blocked
  loads : Table Load
  progress : Word
  arrived : Bool
  garrived : Bool
  stall : Nat
  stallAddr : DWord
  stallDest : BitVec 11
  rank : Nat
  passed : Nat
  aged : Option Nat
  relSig : Option (BitVec 512)
  relTag : Option (List Nat)
  acqSig : BitVec 512
  acqTags : List (List Nat × DWord)
  tokPassed : Bool
  tasks : List Nat
  barSeen : Table Nat
  save : SaveSt
  pageAside : Option PageWait
  wakeOn : Option Blocked
  woken : Bool
  again : Table Load
  invAbort : Bool
  ptsts : List (Nat × Nat × Nat)
  tlbis : List TlbiRec
  deriving DecidableEq, Repr

/-! ### Workgroups and gangs -/

/-- Segment states of a window (11 Table 11.1). -/
inductive SegSt where
  | i | t | s | o
  deriving DecidableEq, Repr

/-- A segment's binding (11 R236 to R239): mode, region (virtual address, ASID and physical address), the dirty mask
of its 4,096 bytes, a refetch due, the lines still to come of a fill, a notice awaiting its
acknowledgement, dirty bytes on their way to the home while a refetch is due (12 R262), a home that departed (R247), the wave that
issued the command, and the count of translation removals when the region was translated (12 R266). -/
structure Seg where
  st : SegSt
  owned : Bool
  va : DWord
  asid : Nat
  priv : Bool
  ptroot : DWord
  buf : Nat
  pa : Nat
  dirty : BitVec 4096
  refetch : Bool
  filling : Bool
  linesLeft : Nat
  notice : Bool
  back : Bool
  lost : Bool
  wave : Nat
  epoch : Nat
  deriving DecidableEq, Repr

/-- A workgroup (02 R23): gang, core and number; SEGS, OSL, ASL of its launch; first physical segment; operand and accumulator slots
of the cluster it holds, in logical order; logical slots claimed (14 R291); the workgroup barrier (18 R381); the wave whose handler
runs (15 R313); by identifier, the accepted tasks that no `TWAIT` of the workgroup has covered, with their accumulator and operand
slots, and the fills that no `OPF` of their wave has covered, as wave and slot (14 R201, R295, R296); `exiting` while its resources
are freed (15 R327); clocks in which every live wave waits (03 R67); the numbers of segments, operand and accumulator slots taken by
an eviction, and the windows that were bound to taken segments (15 R323, 11 R246), and whether what was taken is free already (03
R70). -/
structure Workgroup where
  gang : Nat
  core : Nat
  idx : Nat
  waves : List Nat
  segs : Nat
  segMap : List Nat
  oslots : List Nat
  aslots : List Nat
  oclaim : List Nat
  aclaim : List Nat
  arr : Nat
  handler : Option Nat
  hot : Table (Nat × List Nat)
  fills : List (Nat × Nat)
  exiting : Bool
  waitClocks : Nat
  takenSegs : Nat
  takenO : Nat
  takenA : Nat
  takenWins : Table Seg
  gave : Bool
  deriving DecidableEq, Repr

/-- Where a gang is: resident; stopping for pre-emption or for a swap-out; pre-empted; swapped out; being restored;
killed but not yet freed; exited but not yet retired; retired, with effects that may not have drained (03 R58, R62 to R70,
15 R326 to R328, 16 R330). -/
inductive GangSt where
  | resident | saving | swapping | preempted | swapped | restoring | killed | exited | retired
  deriving DecidableEq, Repr

/-- A gang (02 R23, R48): launch record (physical form), region RCB, `%gang`, chip and quad; the MODE, TRAPV, CSAVE, CSLEN, ASID,
PTROOT and FDOM it was placed with; launch SEQ; ordered-mode position and lane; barrier arrivals and the signatures of the phase (20
R418); its placement entry; the save runs of its context, by wave or workgroup, as first unit and length, and the CSAVE they were
allocated under (15 R324); whether its kill ends the launch; whether two cores run each of its workgroups is bit 1 of MODE. -/
structure Gang where
  launch : Nat
  rcb : Nat
  idx : Nat
  chip : Nat
  quad : Nat
  mode : BitVec 19
  trapv : DWord
  csave : DWord
  cslen : Nat
  asid : Nat
  ptroot : DWord
  fdom : Nat
  fdomRcb : Nat
  seq : Word
  rpt : Nat
  wgs : List Nat
  ordered : Bool
  pos : Nat
  laneNo : Nat
  st : GangSt
  arr : Nat
  sigs : BitVec 512
  entry : Nat
  runs : Table (Nat × Nat)
  saveBase : DWord
  endsLaunch : Bool
  born : Nat
  deriving DecidableEq, Repr

/-- The commit token of an ordered launch (16 R333): the position, `%wg` and `%wave` at which it stands; positions whose
gangs a departed chip held and that are yet to be placed again. -/
structure Token where
  pos : Nat
  wg : Nat
  wave : Nat
  away : List Nat
  deriving DecidableEq, Repr

/-! ### Cores -/

/-- An L1 line (08 R170): virtual line and ASID, physical line, 128 bytes. -/
structure L1Line where
  vline : Nat
  asid : Nat
  pline : Nat
  data : Memory
  deriving DecidableEq, Repr

/-- One transfer of a copy (13 R275): source and destination with their spaces (0 global, 1 scratchpad offset, 2 operand
slot data, 3 operand slot heads, 4 an Ethernet frame, 5 bytes the copy holds), the workgroups that receive it, its length,
and the lane, record or node reported with its faults. -/
structure Piece where
  sspace : Nat
  src : Nat
  dspace : Nat
  dst : Nat
  rcv : List Nat
  len : Nat
  idx : Nat
  deriving DecidableEq, Repr

/-- A copy in flight (13 R273, R274): the transfers left, the first of them next; sequence number and PC; barrier offset;
whether it leaves line bits alone; the graph node it belongs to; whether it was issued without the commit token
(16 R332); the page its next transfer waits on; its first fault code; Ethernet port, size and bytes held; whether
it fills an operand slot or receives a frame, and the slot; when it was issued, as a core clock and as a count of serials; the update that
its last transfer waits to be applied by every member (13 R275, 09 Table 9.4); the address space it runs in and the launch
sequence number, for it may outlive its workgroup (15 R327); whether it
has written a shared-between-blocks page (16 R334); its receivers, and whether they were named by MCAST (R280); the lane, record or
node of its command (R290); lines that a transfer which faulted did not write (R286); source bytes that were read and that a later
transfer copies too (R275); the stack whose write lane its next transfer waits for, and whether it has been granted (08 R180). -/
structure Copy where
  wave : Nat
  wg : Nat
  gang : Nat
  pieces : List Piece
  seq : Word
  pc : DWord
  bar : Option Nat
  noEmpty : Bool
  node : Option (Nat × Nat)
  noToken : Bool
  page : Option PageWait
  failed : Option Nat
  port : Option Nat
  size : Nat
  held : Option (List Byte)
  fill : Bool
  slot : Option Nat
  issued : Nat
  order : Nat
  sent : Option (Nat × Nat)
  asid : Nat
  ptroot : DWord
  priv : Bool
  lseq : Word
  shared : Bool
  rcv : List Nat
  mcast : Bool
  num : Nat
  missed : List (Nat × Nat)
  seen : Table Byte
  lane : Option Nat
  granted : Bool
  deriving DecidableEq, Repr

/-- The kick register (13 R282): list offset, records, next record, sequence number, wave, PC. -/
structure Kick where
  off : Nat
  n : Nat
  next : Nat
  seq : Word
  wave : Nat
  wg : Nat
  gang : Nat
  pc : DWord
  order : Nat
  noToken : Bool
  deriving DecidableEq, Repr

/-- A graph node as the engine keeps it (13 R289): where it lies, none where it may not be used; the buffer index of its
page; KIND and WORK; STAT; FCODE; its successors; malformed; whether its work has ended and its retirement is due. -/
structure GNode where
  pa : Option Nat
  buf : Nat
  kind : Nat
  work : DWord
  st : Nat
  code : Nat
  succ : List Nat
  bad : Bool
  ended : Bool
  deriving DecidableEq, Repr

/-- A dependence graph in flight (13 R289): its nodes, those to be launched, barrier offset, sequence number, the first
node fault; a page that a node's record waits on; the wave's progress count at its issue; the signature of the lines that its copies
have written (09 Table 9.4). -/
structure Graph where
  wave : Nat
  wg : Nat
  gang : Nat
  nodes : List GNode
  queue : List Nat
  bar : Option Nat
  seq : Word
  pc : DWord
  fault : Option Nat
  order : Nat
  noToken : Bool
  page : Option PageWait
  prog : Word
  sig : BitVec 512
  deriving DecidableEq, Repr

/-- A routing token (21 R469, R471): header, payload address and bytes, issuing wave and gang, sequence number, lane, PC, the
core clock at which it was listed, sending chip, second choice; the address space of its payload with the launch sequence
number, and a page that its payload waits on. -/
structure Tok where
  header : Quad
  va : DWord
  payload : List Byte
  wave : Nat
  gang : Nat
  seq : Word
  lane : Nat
  pc : DWord
  born : Nat
  src : Nat
  second : Bool
  asid : Nat
  ptroot : DWord
  priv : Bool
  lseq : Word
  page : Option PageWait
  deriving DecidableEq, Repr

/-- A health monitor (16 R351): configuration, minimum, maximum, count, 32 bins. -/
structure Hcap where
  cfg : Word
  min : Word
  max : Word
  count : Word
  bins : Table Word
  deriving DecidableEq, Repr

/-- An entry of the core's signature table (09 R191): synchronising block, set, time of last use. -/
structure SigEnt where
  block : Option Nat
  set : BitVec 512
  used : Nat
  deriving DecidableEq, Repr

/-- A core (01 R7): `%clk`; scratchpad bytes and full bits of its 4,096 lines (08 R168); bindings of its 128 segments;
L1; write queue in order of entry number; signature table; kick register; copies; graphs; send lists by chip; PERF
event counters and lane-cycle counters (21 R457, 16 R350); monitors; fenced by R344 is the chip's FENCED; signature
sets held with barrier objects (13 R285); for each physical line, when an entry for it was last taken out of the write queue, as a
count of serials (09 R194); scope-checker tags of scratchpad lines (16 R349). -/
structure Core where
  clk : Nat
  scratch : Memory
  lines : BitVec 4096
  segs : Table Seg
  l1 : List L1Line
  wq : Table WqEntry
  sigTab : List SigEnt
  kick : Option Kick
  copies : Table Copy
  graphs : Table Graph
  sends : Table (List Tok)
  perf : Table Nat
  laneCycles : Table Nat
  hcap : Table Hcap
  barSig : Table (BitVec 512)
  wqLeft : Table Nat
  lineTag : Table (List Nat)
  lastHandler : Table Nat
  deriving DecidableEq, Repr

/-! ### Clusters and their stacks -/

/-- A TLB entry (12 R256): ASID; VA[54:21], its 2 MiB virtual group; the pages of the group that it covers, whose leaves differ in
their page numbers only, as they lie; the leaf of the page at index `idx` and where that leaf lies. -/
structure TlbEnt where
  asid : Nat
  group : Nat
  mask : BitVec 32
  idx : Nat
  leaf : DWord
  ea : Nat
  deriving DecidableEq, Repr

/-- A walk-cache entry (12 R256): ASID, level, the virtual-address bits that selected it, next table. -/
structure WalkEnt where
  asid : Nat
  level : Nat
  vbits : Nat
  next : Nat
  deriving DecidableEq, Repr

/-- An operand slot (14 R292): 4,096 bytes and 64 heads. -/
structure OSlot where
  data : Memory
  heads : Table Half
  deriving DecidableEq, Repr

/-- Mode of an accumulator slot (07 R151, R153). -/
inductive AccMode where
  | exact | wide
  deriving DecidableEq, Repr

/-- An accumulator slot (07, 14 R302): mode, value of every unlisted element, elements, NaN mask, NX, NV. -/
structure ASlot where
  mode : Option AccMode
  base : Quad
  elems : Table Quad
  mask : BitVec 1024
  nx : Bool
  nv : Bool
  deriving DecidableEq, Repr

/-- States of a tile task (14 R298 to R301, R308). -/
inductive TaskSt where
  | gathering | accepted | running | done | faulted | dropped
  deriving DecidableEq, Repr

/-- A tile task (14 R298): key; record (64 bytes); contributions left; name; first contributor; state; step; its partial
image has been added; order of acceptance; malformed; fault detail; the first stream entries reserved for A and B with
the subscriptions they were reserved through (14 R304); operand slots whose contents are undefined for it (14 R295, R296); a
page it waits on; the graph node it belongs to; the core clock at its acceptance. -/
structure Task where
  wg : Nat
  gang : Nat
  core : Nat
  off : Nat
  record : BitVec 512
  left : Nat
  pc : DWord
  seq : Word
  wave : Nat
  st : TaskSt
  step : Nat
  partDone : Bool
  order : Nat
  bad : Bool
  detail : Nat
  aSub : Option Nat
  aBase : Nat
  bSub : Option Nat
  bBase : Nat
  undef : List Nat
  page : Option PageWait
  node : Option (Nat × Nat)
  accepted : Nat
  deriving DecidableEq, Repr

/-- A subscription of a stream (14 R304): its serial number, workgroup, handle; the next entry to reserve, the lowest entry
not consumed, and the entries beyond it that have been consumed. -/
structure Subscriber where
  id : Nat
  wg : Nat
  handle : Nat
  reserved : Nat
  consumed : Nat
  later : List Nat
  deriving DecidableEq, Repr

/-- A named operand stream (14 R304): name, producer, first ring slot (logical), length, posted count, closed,
subscribers. -/
structure Stream where
  name : Nat
  wg : Nat
  first : Nat
  len : Nat
  posted : Nat
  closed : Bool
  subs : List Subscriber
  deriving DecidableEq, Repr

/-- A signature record (09 R192): set, time of last use, scope tag (16 R349). -/
structure SigRec where
  set : BitVec 512
  used : Nat
  tag : Option (List Nat)
  deriving DecidableEq, Repr

/-- States of a directory entry (11 Table 11.2). -/
inductive DirSt where
  | shr | own | pend
  deriving DecidableEq, Repr

/-- An event due: one constructor for each event row of the opcode table, with the parts of the `Instr` constructor of
the same name, whose meaning it runs (log 1: DESIGN CHOICE). -/
inductive Event where
  | sleepEnd (wave : Nat)
  | mwaitWake (wave : Nat)
  | monitorTimeoutExpiry (wave : Nat)
  | asyncTrapDelivery (wave : Nat)
  | handlerWatchdog (wave : Nat)
  | writeBackpressure (wave : Nat)
  | pageRequestResponse (chip entry : Nat) (resp : Word)
  | prheadWrite (chip : Nat) (value : DWord)
  | prlenWrite (chip : Nat) (value : DWord)
  | klaunchWrite (chip : Nat) (value : DWord)
  | campionPlacement (chip : Nat)
  | contextSave (gang : Nat)
  | swapOut (gang : Nat)
  | workgroupExit (wg : Nat)
  | gangRetire (gang : Nat)
  | launchDone (chip record : Nat)
  | writeLaneGrant (stack : Nat)
  | wcapWindow (stack : Nat)
  | wqEntryPerform (core entry : Nat)
  | loadReturn (wave load : Nat)
  | hcapLevelSample (core monitor : Nat) (level : Word)
  | windowFillRequest (core seg : Nat)
  | windowFillData (core seg line : Nat)
  | windowNotice (core seg : Nat)
  | windowInv (core seg : Nat)
  | windowRecall (core seg : Nat)
  | windowGone (core seg : Nat)
  | windowNoticeAck (core seg : Nat)
  | hostLineFill (chip line : Nat)
  | snpData (chip line : Nat)
  | snpInv (chip line : Nat)
  | snpCur (chip line : Nat)
  | hdmRead (chip block : Nat) (own : Bool)
  | hdmWrite (chip block : Nat) (mask : DWord) (data : List Byte)
  | birsp (chip block : Nat)
  | updatePacket (src dst : Nat)
  | grantPacket (src dst : Nat)
  | wrapPacket (src dst : Nat)
  | packetApply (chip : Nat)
  | reqMessage (src dst : Nat)
  | colGrant (chip : Nat)
  | ackMessage (src dst : Nat)
  | ackTimer (chip : Nat)
  | wrapackMessage (src dst : Nat)
  | counterWrap (chip : Nat)
  | linkCrcError (src dst : Nat)
  | ackTimeout (chip : Nat)
  | holdTimeout (chip : Nat)
  | proposeMessage (src dst : Nat)
  | stateMessage (src dst : Nat)
  | installMessage (src dst : Nat)
  | viewPhaseTimeout (chip : Nat)
  | joinMessage (src dst : Nat)
  | listenMessage (src dst : Nat)
  | donorCopy (chip : Nat)
  | rjoinWrite (chip : Nat) (value : DWord)
  | lagmaxWrite (chip : Nat) (value : DWord)
  | holdmaxWrite (chip : Nat) (value : DWord)
  | acklimWrite (chip : Nat) (value : DWord)
  | rsegszWrite (chip : Nat) (value : DWord)
  | rootrcbWrite (chip : Nat) (value : DWord)
  | copyTransfer (core copy : Nat)
  | kickRecordStart (core : Nat)
  | graphNodeRetire (core graph node : Nat)
  | ethFrameRx (port : Nat) (frame : List Byte)
  | taskDispatch (cluster : Nat)
  | tileStep (cluster task : Nat)
  | sendListFlush (core chip : Nat)
  | tokenArrival (chip : Nat)
  | tokenAcknowledge (wave : Nat)
  | tokenRefusal (wave : Nat)
  | fencedWrite (chip : Nat) (value : DWord)
  | hsgoWrite (chip : Nat) (value : DWord)
  | areqWrite (chip : Nat) (value : DWord)
  | attestReportReady (chip : Nat)
  | keycmdDraw (chip : Nat) (value : DWord)
  | keycmdErase (chip : Nat) (value : DWord)
  | keycmdInvalid (chip : Nat) (value : DWord)
  | fixclkSet (chip : Nat)
  | fixclkClear (chip : Nat)
  | rstctlWarm (chip : Nat)
  | warmDrainComplete (chip : Nat)
  | warmDrainTimeout (chip : Nat)
  | rstctlIsolate (chip : Nat)
  | chipFaultLasting (chip : Nat)
  | coldReset (chip : Nat)
  | cxlLinkReset (chip : Nat)
  | thermal95c (chip : Nat)
  | thermal105c (chip : Nat)
  | registerWrite (chip offset : Nat) (value : DWord)
  | replJoin (chip : Nat)
  | channelRetirement (stack channel : Nat)
  | coreClockStep (chip mhz : Nat)
  | idleSlotClock (core slot : Nat)
  | resendRequest (src dst : Nat)
  deriving DecidableEq, Repr

/-- What waits in a region queue (11 R241): a fill by a core's segment; a write-queue entry; a copy; a write by the host or by the
hardware, with the event that makes it; an invalidation that no write follows (Table 11.4: migration, channel retirement). -/
inductive DirWait where
  | fill (core seg : Nat) (owned : Bool)
  | write (core entry : Nat)
  | copy (core copy : Nat)
  | run (e : Event)
  | clear
  deriving DecidableEq, Repr

/-- A directory entry (11 R240): holders as (core, segment), the holders asked and not yet answered, and the region
queue, oldest first. -/
structure Dir where
  st : DirSt
  sharers : List (Nat × Nat)
  asked : List (Nat × Nat)
  queue : List DirWait
  deriving DecidableEq, Repr

/-- A monitor registration at a watcher (21 R446): line and wave, oldest first in its list. -/
structure Reg where
  line : Nat
  wave : Nat
  deriving DecidableEq, Repr

/-- A cluster and its stack (01 R7): TLB and walk cache; operand and accumulator slots; Yarrow's tasks by identifier, next
identifier, acceptance count; Teasel's streams; signature records; local filters of its 16 cores; directory; monitor registrations;
retired channels; write-lane counters (08 R180, R181); blocks that host caches hold or own and those awaiting a BIRsp, for a write
or for a read (17 R356); version tags of blocks (12 R272); evacuated pages with the epoch of their copy (12 R269). -/
structure Cluster where
  tlb : List TlbEnt
  walks : List WalkEnt
  oslots : Table OSlot
  aslots : Table ASlot
  tasks : Table Task
  nextTask : Nat
  accepts : Nat
  streams : List Stream
  sigRecs : Table SigRec
  filters : Table (BitVec 512)
  dir : Table Dir
  regs : List Reg
  retired : List Nat
  wrr : Table Nat
  wcap : Table Nat
  hostHeld : List Nat
  hostOwned : List Nat
  biWait : List Nat
  biData : List Nat
  blockTag : Table (Nat × Nat × Word)
  evac : Table Nat
  deriving DecidableEq, Repr

/-! ### Replication -/

/-- A replication packet of KIND 0 to 2 (10 Tables 10.1, 10.4): kind, sender, view, sector clock, block, mask,
dependency vector, signature, sector images, and for a grant its descriptor. -/
structure Packet where
  kind : Nat
  rank : Nat
  view : Nat
  sclk : Nat
  blk : Nat
  mask : DWord
  vec : List Nat
  sig : Option (BitVec 512)
  tag : Option (List Nat)
  images : Table (BitVec 256)
  slot : Nat
  rq : Nat
  irank : Nat
  opc : Nat
  ty : Ty
  old : Quad
  /-- WRAPACK counts received from the sender before this packet (10 R223) -/
  wraps : List Nat
  arrived : Nat
  /-- WRAPs of its sender before it: which numbering its sequence number belongs to (10 R223) -/
  gen : Nat
  deriving DecidableEq, Repr

/-- A strong request (10 R216, Table 10.5): issuer and count, V, OPC, TY, ORD and SC, offset, operands, signature and tag. -/
structure Req where
  rank : Nat
  rq : Nat
  vec : List Nat
  opc : Nat
  ty : Ty
  ord : Nat
  sc : Nat
  off : Nat
  opa : Quad
  opb : Quad
  sig : Option (BitVec 512)
  tag : Option (List Nat)
  deriving DecidableEq, Repr

/-- What a member reports in STATE (10 Tables 10.5, 10.6): one more than the highest slot held, 0 for none; its applied
vector; the WRAPs it has applied; the packets it holds of chips that are not in the agreed set. -/
structure StateRep where
  slots : Nat
  vec : List Nat
  wraps : List Nat
  held : List Packet
  deriving DecidableEq, Repr

/-- What INSTALL carries (10 R227, R228, Table 10.5): the view, its members, Col and first slot, the kept sequence counts,
the kept packets; for chips that join, the WRAPs each has counted (10 R231). -/
structure Install where
  view : Nat
  members : List Nat
  col : Nat
  first : Nat
  kept : List Nat
  held : List Packet
  joined : Table (List Nat)
  deriving DecidableEq, Repr

/-- Messages on the links between chips (10 R208, Table 10.5), with V of their headers (10 R209); that of STATE and of LISTEN is in
what they report. `wrapackSeen` reports that its sender has every WRAPACK of the receiver's last wrap, which 10 R223 asks for and Table
10.5 gives no message for (log 25: DESIGN CHOICE). -/
inductive Msg where
  | packet (p : Packet)
  | req (r : Req)
  | ack (vec : List Nat)
  | wrapack (vec : List Nat) (rank : Nat)
  | wrapackSeen (vec : List Nat) (wraps : Nat)
  | propose (vec : List Nat) (view : Nat) (members : List Nat)
  | state (r : StateRep)
  | install (vec : List Nat) (i : Install)
  | join (vec : List Nat)
  | listen (s0 : Nat) (wraps : List Nat)
  deriving DecidableEq, Repr

/-- What completes when a chip's own request is granted (10 R219): a lane of a wave's strong instruction, the host
mailbox, or nothing (a walker's or engine's request performed at once). -/
inductive ReqFor where
  | lane (wave load lane rq : Nat)
  | host
  deriving DecidableEq, Repr

/-- States of a view change (10 Table 10.6). -/
inductive ViewSt where
  | normal | propose | exchange | out | listener
  deriving DecidableEq, Repr

/-- A chip's replication unit (10 R207 to R234): replica, version tags of its blocks (12 R271) and last-writer tags; view; slots and
Col; counts; packets held, held for a newer view, retained by the sender, and received but not known to be applied by every member;
acknowledged vectors by member; requests pending, own requests outstanding with what they complete and as sent, request count, the
last granted count by issuer; WRAPs applied by rank, WRAPACKs received by 8·sender + rank, members that have seen every WRAPACK of
its last wrap; acknowledgement count and clock; the view change under way with its proposals, agreed set, states, install and chips
left out or joining (R226, R520); chips that listen, and as a listener the counts s0 (R231); signatures; writing grants to a sector
not acknowledged, as sender, sequence number and WRAPs before (R218); registers of Table 10.8; monitors; blocks that the host caches
and those that await a BIRsp (17 R356). -/
structure Repl where
  replica : Memory
  blockTag : Table (Nat × Nat × Word)
  tags : Table Word
  view : Nat
  members : List Nat
  col : Nat
  out : Bool
  nextSlot : Nat
  firstSlot : Nat
  lastSlot : Option Nat
  applied : List Nat
  own : Nat
  hold : List Packet
  newer : List Packet
  retained : List Packet
  recent : List Packet
  acked : List (List Nat)
  pending : List Req
  outstanding : Table ReqFor
  sent : List Req
  rqcnt : Nat
  granted : Table Nat
  wrapsApplied : List Nat
  wrapacks : Table Nat
  wrapackSeen : List Nat
  ackCount : Nat
  ackClock : Nat
  vst : ViewSt
  proposals : Table (List Nat)
  proposedView : Nat
  agreed : List Nat
  states : Table StateRep
  installing : Option Install
  shunned : List Nat
  joining : List Nat
  phaseClock : Nat
  lagRaised : Bool
  listeners : List Nat
  listenS0 : Table (Nat × List Nat)
  donorDone : Bool
  sigRecs : Table SigRec
  grants24 : Table (List (Nat × Nat × Nat))
  lagwarn : Nat
  lagmax : Nat
  holdmax : Nat
  acklim : Nat
  revt : BitVec 5
  rsegsz : Nat
  regs : List Reg
  biWait : List Nat
  hostHeld : List Nat
  deriving DecidableEq, Repr

/-! ### Chips -/

/-- Page requests: the ring registers of 15 Table 15.3, the chip's count of unread entries, entries written and not
yet answered, and requests waiting while the ring is full. -/
structure PageRing where
  base : Nat
  len : Nat
  head : Nat
  tail : Nat
  fullBit : Bool
  unread : Nat
  open' : Table PageWait
  waiting : List PageWait
  deriving DecidableEq, Repr

/-- An inbox (21 R468). -/
structure Inbox where
  wg : Nat
  asid : Nat
  ptroot : DWord
  priv : Bool
  base : DWord
  slots : Nat
  slotsz : Nat
  landed : Word
  freed : Word
  deriving DecidableEq, Repr

/-- States of a host line (11 R249). -/
inductive HostSt where
  | m | o | e | s
  deriving DecidableEq, Repr

/-- Registers of 16 Table 16.9. -/
structure DebugRegs where
  steplr : DWord
  stepid : DWord
  nspc : DWord
  nsseq : DWord
  schk : Bool
  fenced : DWord
  lclo : Table DWord
  lchi : Table DWord
  deriving DecidableEq, Repr

/-- Registers of 17 Table 17.3. -/
structure SysRegs where
  meas : List (BitVec 512)
  nonce : BitVec 256
  astat : Nat
  arep : BitVec 4096
  fixclk : Bool
  clkmhz : Nat
  fixlost : Bool
  pcap : Nat
  rootrcb : Nat
  hbuf : BitVec 16
  hsaddr : DWord
  hsopa : DWord
  hsopb : DWord
  hsctl : DWord
  hsold : DWord
  hsstat : Nat
  deriving DecidableEq, Repr

/-- The recording log of a region on a chip (16 R337 to R341): entries written, those of them not yet added to LOGP, the
positions of a replay among packets and among other decisions, a halt at a divergence. -/
structure LogPos where
  used : Nat
  unposted : Nat
  read : Nat
  readRepl : Nat
  halted : Bool
  deriving DecidableEq, Repr

/-- An entry of the housekeeping log: what happened and the numbers reported with it. -/
structure HkEntry where
  what : Nat
  args : List Nat
  deriving DecidableEq, Repr

/-- A chip (01 R20): replication unit; page ring; registers; keys by KEYID as generations, 0 erased (17 R362); inboxes, tokens
arriving; Campion's virtual times, the candidates placeable at its last decision, the next quad, the regions seen, launches that
have ended and whose DONE is due; host-line cache; Ethernet receive queues and frames sent; housekeeping log; chip clock; powered;
warm reset draining and its clocks; host writes not yet performed, as block, mask and data; placement entries whose gangs a warm
reset or a lasting mismatch of paired cores has stopped, to be placed again; the primary core and quad that the latter ones left (16
R344); the removals of translations it has performed by grants, as rank, sequence number and wraps of the rank, with the count of
removals then (12 R266). -/
structure Chip where
  repl : Repl
  ring : PageRing
  dbg : DebugRegs
  sys : SysRegs
  keys : Table Nat
  inboxes : Table Inbox
  tokens : List Tok
  vtimes : Table Nat
  wasPlaceable : List Nat
  nextQuad : Nat
  regions : List Nat
  ended : List Nat
  hostLines : Table HostSt
  hostRegs : List Reg
  ethRx : Table (List (List Byte))
  ethTx : Table (List (List Byte))
  ethDropped : Nat
  hk : List HkEntry
  logs : Table LogPos
  clk : Nat
  powered : Bool
  draining : Bool
  drainClock : Nat
  hostWrites : List (Nat × DWord × List Byte)
  again : List Nat
  fencedPair : Table (Nat × Nat)
  removed : List (Nat × Nat × Nat × Nat)
  deriving DecidableEq, Repr

/-! ### The module -/

/-- Whose turn the next step is: an issue slot (numbered 4·core + slot), or the first event of the agenda (log 1: DESIGN CHOICE). -/
inductive Phase where
  | issue | event
  deriving DecidableEq, Repr

/-- An error of the hardware that is yet to strike (15 R321): reading a block of a stack, or of a chip's replica, fails its ECC check, once or
at the re-read too; writing a dirty block of a stack cache back fails; the cores of a paired wave differ in its open region, once or in the
re-run too (16 R344). -/
inductive Upset where
  | read (block : Nat) (lasting : Bool)
  | replRead (chip block : Nat) (lasting : Bool)
  | writeBack (block : Nat)
  | pair (wave : Nat) (lasting : Bool)
  deriving DecidableEq, Repr

/-- The module. `mf4` is the ordering code GS-MF4-1T0-L (00 R1). The tables of waves, workgroups and gangs are keyed by serial
numbers in order of placement; cores, clusters and chips by their global numbers (01 R8). `mem` holds the bytes of stacks and host
memory at their 48-bit physical addresses (08 R162). `links` holds messages in flight by 8·source + destination, beside the links
that are down, that wait for a resend, and whose next flit has been resent (10 R208). `tokens` and `shapes` hold the commit token of
each ordered launch and the quad of each of its lanes (16 R330, R333). `upsets` holds errors of the hardware yet to strike, which
come from outside (15 R321; log 30: DESIGN CHOICE). `hostBase` holds, for each host line that is dirty in the module, the host's own
bytes (11 R250). The last fields are the model's own (log 1: DESIGN CHOICE, log 4: DESIGN CHOICE): the agenda of events due, whose
turn it is, the issuing wave with its instruction's words, length and DEST (15 Table 15.2), whether the instruction being tried
waits, the count of free values used, the count of serials given, the count of translation removals, and for each block the count of
serials when it was last written. -/
structure State where
  mf4 : Bool
  waves : Table Wave
  wgs : Table Workgroup
  gangs : Table Gang
  cores : Table Core
  clusters : Table Cluster
  chips : Table Chip
  mem : Memory
  links : Table (List Msg)
  linkDown : List Nat
  linkRetry : List Nat
  linkResent : List Nat
  tokens : Table Token
  shapes : Table (List Nat)
  hostBase : Table (List Byte)
  upsets : List Upset
  agenda : List Event
  phase : Phase
  turn : Nat
  issuer : Option Nat
  ilen : Nat
  iwords : DWord
  idest : BitVec 11
  waited : Bool
  free : Nat
  serial : Nat
  epoch : Nat
  written : Table Nat
  deriving DecidableEq, Repr

/-- No fault: every fault of the spec is a trap, a kill, a log entry or a wait, which are next states (15 R309), so no
meaning stops the machine. -/
inductive Fault where
  deriving DecidableEq, Repr

/-- Why a step has no meaning. -/
inductive Refusal where
  /-- Raised by `exec` only, for an instruction whose meaning has not been written; safe, nothing is claimed of it. -/
  | notModelled (mnemonic : String)
  deriving DecidableEq, Repr

/-! ### Reset -/

/-- All ones, the meeting address that never matches (02 R38). -/
def allOnes : DWord := BitVec.allOnes 64

def Guard.none : Guard := { pat := 0, left := 0, val := false }

/-- A thread as no gang has been placed on it: registers 0 (log 3: DESIGN CHOICE), full bits set (03 R59). -/
def Thread.reset : Thread :=
  { pc := 0, st := .exited, absent := true, meet := allOnes
    restart := { pc := 0, meet := allOnes, guard := Guard.none }, guard := Guard.none
    fpctl := 0, fpflags := 0, p := 0, h := [], k := [], v := [], full := BitVec.allOnes 256
    lane := none, wait := none, aside := none }

/-- Monitors are off, cleared as `HCAP.clr` leaves them (16 R351, log 3: DESIGN CHOICE). -/
def Hcap.reset : Hcap := { cfg := 0, min := BitVec.allOnes 32, max := 0, count := 0, bins := [] }

/-- An entry of a signature table, all ones (09 R191). -/
def SigEnt.reset : SigEnt := { block := none, set := BitVec.allOnes 512, used := 0 }

/-- A core at chip reset: counters 0 (21 R457), `%clk` 0 (04 Table 4.3), every segment in I and its lines empty, no
contents (log 2: DESIGN CHOICE). -/
def Core.reset : Core :=
  { clk := 0, scratch := [], lines := 0, segs := [], l1 := [], wq := []
    sigTab := List.replicate 8 SigEnt.reset, kick := none, copies := [], graphs := [], sends := []
    perf := [], laneCycles := [], hcap := [], barSig := [], wqLeft := [], lineTag := [], lastHandler := [] }

/-- A cluster at reset: caches and directory empty, slots without mode, task identifiers from 1 (14 R298). -/
def Cluster.reset : Cluster :=
  { tlb := [], walks := [], oslots := [], aslots := [], tasks := [], nextTask := 1
    accepts := 0, streams := [], sigRecs := [], filters := [], dir := [], regs := [], retired := []
    wrr := [], wcap := [], hostHeld := [], hostOwned := [], biWait := [], biData := []
    blockTag := [], evac := [] }

/-- The chips of the ordering code (00 Table 0.1). -/
def presentChips (mf4 : Bool) : List Nat := if mf4 then [0, 1, 2, 3] else [0, 1, 2, 3, 4, 5, 6, 7]

/-- A replication unit at cold reset (10 R207, Table 10.8). -/
def Repl.reset (mf4 : Bool) : Repl :=
  { replica := [], blockTag := [], tags := [], view := 0, members := presentChips mf4, col := 0, out := false
    nextSlot := 0, firstSlot := 0, lastSlot := none, applied := List.replicate 8 0, own := 0
    hold := [], newer := [], retained := [], recent := [], acked := List.replicate 8 (List.replicate 8 0), pending := []
    outstanding := [], sent := [], rqcnt := 0, granted := [], wrapsApplied := List.replicate 8 0, wrapacks := []
    wrapackSeen := [], ackCount := 0, ackClock := 0, vst := .normal, proposals := []
    proposedView := 0, agreed := [], states := [], installing := none, shunned := [], joining := [], phaseClock := 0
    lagRaised := false, listeners := [], listenS0 := [], donorDone := false
    sigRecs := [], grants24 := [], lagwarn := 4096, lagmax := 65536, holdmax := 0x200000, acklim := 0x100000
    revt := 0, rsegsz := 32, regs := [], biWait := [], hostHeld := [] }

/-- A chip at cold reset (15 Table 15.3, 16 Table 16.9, 17 Table 17.3; MEAS: log 3: DESIGN CHOICE; key 0 drawn: 17 R362). -/
def Chip.reset (mf4 : Bool) : Chip :=
  { repl := Repl.reset mf4
    ring := { base := 0, len := 0, head := 0, tail := 0, fullBit := false, unread := 0, open' := [], waiting := [] }
    dbg := { steplr := 0, stepid := 0, nspc := 0, nsseq := 0, schk := false, fenced := 0, lclo := [], lchi := [] }
    sys := { meas := [0, 0, 0, 0], nonce := 0, astat := 0, arep := 0, fixclk := false, clkmhz := 600
             fixlost := false, pcap := 625, rootrcb := 0, hbuf := 0, hsaddr := 0, hsopa := 0, hsopb := 0
             hsctl := 0, hsold := 0, hsstat := 0 }
    keys := [(0, 1)], inboxes := [], tokens := [], vtimes := [], wasPlaceable := [], nextQuad := 0, regions := []
    ended := [], hostLines := [], hostRegs := [], ethRx := [], ethTx := [], ethDropped := 0, hk := [], logs := []
    clk := 0, powered := true, draining := false, drainClock := 0, hostWrites := [], again := [], fencedPair := [], removed := [] }

/-- The module after a cold reset of every chip (17 Table 17.5, 10 R207): no gang resident, nothing in flight, no
memory written. The ordering code is that of the figures without a qualifier (00 R2), log 9. -/
def State.reset : State :=
  { mf4 := false, waves := [], wgs := [], gangs := [], cores := [], clusters := [], chips := []
    mem := [], links := [], linkDown := [], linkRetry := [], linkResent := [], tokens := [], shapes := [], hostBase := [], upsets := [], agenda := [], phase := .issue
    turn := 0, issuer := none, ilen := 0, iwords := 0, idest := 0x180, waited := false, free := 0, serial := 0, epoch := 0, written := [] }

end Sys2Proof.Machine
end

