-- ==== Sys2Proof/Machine/Map.lean ====
section
/-! DEFINITION. The plain data structures of the model: sparse tables, canonical memory, little-endian values, and the
access to each part of the module. -/

namespace Sys2Proof.Machine

/-! ### Tables -/

/-- The entry of a key. -/
def Table.look {α : Type} : Table α → Nat → Option α
  | [], _ => none
  | (k, v) :: r, n => if n = k then some v else Table.look r n

/-- The entry of a key, or a default. -/
def Table.at {α : Type} (t : Table α) (n : Nat) (d : α) : α := (Table.look t n).getD d

/-- Sets the entry of a key, keys kept rising. -/
def Table.put {α : Type} : Table α → Nat → α → Table α
  | [], n, x => [(n, x)]
  | (k, v) :: r, n, x =>
    if n < k then (n, x) :: (k, v) :: r
    else if n = k then (n, x) :: r
    else (k, v) :: Table.put r n x

/-- Removes every entry of a key. -/
def Table.del {α : Type} : Table α → Nat → Table α
  | [], _ => []
  | (k, v) :: r, n => if n = k then Table.del r n else (k, v) :: Table.del r n

/-- A key above every key of a table. -/
def Table.fresh {α : Type} : Table α → Nat
  | [] => 0
  | (k, _) :: r => max (k + 1) (Table.fresh r)

/-- Applies a function to the entry of a key, if it is listed. -/
def Table.modify {α : Type} (t : Table α) (n : Nat) (f : α → α) : Table α :=
  match Table.look t n with
  | none => t
  | some x => Table.put t n (f x)

/-- Applies a function to every entry. -/
def Table.mapVals {α : Type} (t : Table α) (f : Nat → α → α) : Table α := t.map fun e => (e.1, f e.1 e.2)

/-! ### Memory -/

/-- The byte at an address; an unlisted address reads as 0 (log 2: DESIGN CHOICE). -/
def Memory.read : Memory → Nat → Byte
  | [], _ => 0
  | (k, v) :: r, n => if n = k then v else if n < k then 0 else Memory.read r n

/-- Writes one byte, keeping addresses rising and no byte 0 listed. -/
def Memory.write : Memory → Nat → Byte → Memory
  | [], n, b => if b = 0 then [] else [(n, b)]
  | (k, v) :: r, n, b =>
    if n < k then (if b = 0 then (k, v) :: r else (n, b) :: (k, v) :: r)
    else if n = k then (if b = 0 then r else (n, b) :: r)
    else (k, v) :: Memory.write r n b

/-- Every address of a list is at least `n`, they rise strictly, and no byte is 0. -/
def Memory.wfFrom : Nat → Memory → Bool
  | _, [] => true
  | n, (k, v) :: r => decide (n ≤ k) && decide (v ≠ 0) && Memory.wfFrom (k + 1) r

/-- The canonical form of memory. -/
def Memory.wf (m : Memory) : Bool := Memory.wfFrom 0 m

/-- Writes bytes at consecutive addresses. -/
def Memory.writeBytes (m : Memory) (a : Nat) : List Byte → Memory
  | [] => m
  | b :: r => Memory.writeBytes (Memory.write m a b) (a + 1) r

/-- Reads bytes at consecutive addresses. -/
def Memory.readBytes (m : Memory) (a : Nat) : Nat → List Byte
  | 0 => []
  | n + 1 => Memory.read m a :: Memory.readBytes m (a + 1) n

/-- A set of written bytes is a sparse list that may hold byte 0: the byte written at an address, if any. -/
abbrev Bytes := List Host.Cell

/-- Writes a list of (address, byte) pairs, in order. -/
def Memory.writeCells (m : Memory) : Bytes → Memory
  | [] => m
  | (a, b) :: r => Memory.writeCells (Memory.write m a b) r

/-! ### Little-endian values (00 R4) -/

/-- The number of a list of bytes, the first the least significant. -/
def natOfBytes : List Byte → Nat
  | [] => 0
  | b :: r => b.toNat + 256 * natOfBytes r

/-- The `n` bytes of a number, the least significant first. -/
def bytesOfNat : Nat → Nat → List Byte
  | 0, _ => []
  | n + 1, x => BitVec.ofNat 8 x :: bytesOfNat n (x / 256)

/-- A little-endian value in memory. -/
def Memory.readLe (m : Memory) (a n : Nat) : Nat := natOfBytes (Memory.readBytes m a n)

/-- Writes a little-endian value of `n` bytes. -/
def Memory.writeLe (m : Memory) (a n x : Nat) : Memory := Memory.writeBytes m a (bytesOfNat n x)

/-- Bits [lo+n−1:lo] of a number. -/
def bits (x lo n : Nat) : Nat := x / 2 ^ lo % 2 ^ n

/-- Bit `i` of a number. -/
def bit (x i : Nat) : Bool := x / 2 ^ i % 2 = 1

/-- ⌈a / b⌉. -/
def ceilDiv (a b : Nat) : Nat := (a + b - 1) / b

/-! ### Parts of the module -/

/-- A core, at its reset value until something changes it. -/
def State.core (s : State) (c : Nat) : Core := Table.at s.cores c Core.reset
def State.setCore (s : State) (c : Nat) (x : Core) : State := { s with cores := Table.put s.cores c x }
def State.modCore (s : State) (c : Nat) (f : Core → Core) : State := s.setCore c (f (s.core c))

/-- A cluster with its stack. -/
def State.cluster (s : State) (c : Nat) : Cluster := Table.at s.clusters c Cluster.reset
def State.setCluster (s : State) (c : Nat) (x : Cluster) : State := { s with clusters := Table.put s.clusters c x }
def State.modCluster (s : State) (c : Nat) (f : Cluster → Cluster) : State := s.setCluster c (f (s.cluster c))

/-- A chip. -/
def State.chip (s : State) (c : Nat) : Chip := Table.at s.chips c (Chip.reset s.mf4)
def State.setChip (s : State) (c : Nat) (x : Chip) : State := { s with chips := Table.put s.chips c x }
def State.modChip (s : State) (c : Nat) (f : Chip → Chip) : State := s.setChip c (f (s.chip c))

/-- The replication unit of a chip. -/
def State.repl (s : State) (c : Nat) : Repl := (s.chip c).repl
def State.modRepl (s : State) (c : Nat) (f : Repl → Repl) : State :=
  s.modChip c fun x => { x with repl := f x.repl }

/-- A resident or evicted wave, workgroup, gang. -/
def State.wave? (s : State) (w : Nat) : Option Wave := Table.look s.waves w
def State.setWave (s : State) (w : Nat) (x : Wave) : State := { s with waves := Table.put s.waves w x }
def State.modWave (s : State) (w : Nat) (f : Wave → Wave) : State := { s with waves := Table.modify s.waves w f }
def State.wg? (s : State) (g : Nat) : Option Workgroup := Table.look s.wgs g
def State.modWg (s : State) (g : Nat) (f : Workgroup → Workgroup) : State := { s with wgs := Table.modify s.wgs g f }
def State.gang? (s : State) (g : Nat) : Option Gang := Table.look s.gangs g
def State.modGang (s : State) (g : Nat) (f : Gang → Gang) : State := { s with gangs := Table.modify s.gangs g f }

/-- Puts an event at the end of the agenda (log 1: DESIGN CHOICE). -/
def State.post (s : State) (e : Event) : State := { s with agenda := s.agenda ++ [e] }

/-- Puts an event on the agenda unless it is there. -/
def State.postOnce (s : State) (e : Event) : State := if s.agenda.contains e then s else s.post e

/-- Records an entry of a chip's housekeeping log. -/
def State.note (s : State) (chip what : Nat) (args : List Nat) : State :=
  s.modChip chip fun c => { c with hk := c.hk ++ [{ what, args }] }

/-- The next undefined value (00 R6, log 4: DESIGN CHOICE). -/
def State.freshValue (s : State) : Quad := Config.freeValue s.free

/-- Counts one undefined value used. -/
def State.useFree (s : State) : State := { s with free := s.free + 1 }

/-! ### Numbering (01 R8) -/

/-- Chip of a global core number. -/
def chipOfCore (c : Nat) : Nat := c / 64
/-- Cluster (and stack) of a global core number, counted over the module. -/
def clusterOfCore (c : Nat) : Nat := c / 16
/-- Quad of a global core number, counted over the module. -/
def quadOfCore (c : Nat) : Nat := c / 4
/-- Chip of a stack. -/
def chipOfStack (x : Nat) : Nat := x / 4

end Sys2Proof.Machine
end

