-- ==== Sys2Proof/Machine/Threads.lean ====
section
/-! DEFINITION. Threads of a wave: states, grouping by program counter, meeting addresses, the guard state and the
restart record (02 R27 to R42, 05 R113). -/

namespace Sys2Proof.Machine

/-- The 32 lanes. -/
def allLanes : List Nat := List.range 32

/-- A thread of a wave. -/
def Wave.thread (x : Wave) (l : Nat) : Thread := x.threads.getD l Thread.reset

/-- Changes every thread, by lane. -/
def Wave.mapThreads (x : Wave) (f : Nat → Thread → Thread) : Wave := { x with threads := x.threads.mapIdx f }

/-- Changes the threads of a list of lanes. -/
def Wave.mapLanes (x : Wave) (ls : List Nat) (f : Nat → Thread → Thread) : Wave :=
  x.mapThreads fun l t => if ls.contains l then f l t else t

/-- The lanes whose thread satisfies a condition, ascending. -/
def Wave.lanesWhere (x : Wave) (p : Thread → Bool) : List Nat := allLanes.filter fun l => p (x.thread l)

/-- Live: not exited (02 Table 2.3). -/
def Thread.live (t : Thread) : Bool := t.st ≠ .exited
/-- In the issuing group (02 R28). -/
def Thread.issuing (t : Thread) : Bool := t.st = .issuing
/-- Running (02 Table 2.3). -/
def Thread.running (t : Thread) : Bool := t.st = .issuing || t.st = .deferred
/-- Parked: the lane holds a record (15 R311). -/
def Thread.parked (t : Thread) : Bool := t.lane.isSome

/-- The issuing group (02 R28). -/
def Wave.group (x : Wave) : List Nat := x.lanesWhere Thread.issuing

/-- The issue PC (02 R28). -/
def Wave.issuePc (x : Wave) : Option DWord :=
  match x.threads.filter Thread.issuing with
  | [] => none
  | t :: _ => some t.pc

/-- `%tmask` (02 Table 2.2). -/
def maskOf (ls : List Nat) : Word := BitVec.ofNat 32 (ls.foldl (fun m l => m + 2 ^ l) 0)

/-- The lowest program counter among threads that satisfy a condition. -/
def lowestPc (ts : List Thread) (p : Thread → Bool) : Option DWord :=
  ts.foldl (fun m t => if p t then (match m with
    | none => some t.pc
    | some q => if t.pc.toNat < q.toNat then some t.pc else some q) else m) none

/-- Makes the running threads at `pc` the issuing group; the other running threads are deferred (02 R28). -/
def Wave.issueAt (x : Wave) (pc : DWord) : Wave :=
  x.mapThreads fun _ t => if t.running then { t with st := if t.pc = pc then .issuing else .deferred } else t

/-- Releases the group held at `pc` (02 R30, R31): those threads and the running threads at `pc` issue (02 R28); the other
running threads are deferred. -/
def Wave.releaseAt (x : Wave) (pc : DWord) : Wave :=
  x.mapThreads fun _ t =>
    if t.st = .held && t.pc = pc then { t with st := .issuing }
    else if t.running then { t with st := if t.pc = pc then .issuing else .deferred } else t

/-- What the wave does next (02 R28): issue for a group; trap at a convergence point, with the group of a meeting release
released (02 R33); issue nothing; or end. -/
inductive NextIssue where
  | issue (x : Wave)
  | converge (x : Wave)
  | idle
  | ended

/-- Some live thread of the wave is parked, also while a handler has it in its group (02 R33, 25 R516: a convergence point
that a handler reaches before `LFIX` is a double fault). -/
def Wave.anyParked (x : Wave) : Bool := x.threads.any fun t => t.live && t.lane.isSome

/-- The choice of 02 R28 when no thread is issuing. -/
def Wave.chooseNext (x : Wave) : NextIssue :=
  match lowestPc x.threads (fun t => t.st = .deferred) with
  | some pc => .issue (x.issueAt pc)
  | none =>
    match lowestPc x.threads (fun t => t.st = .held) with
    | some m => if x.anyParked then .converge (x.releaseAt m) else .issue (x.releaseAt m)
    | none =>
      if x.threads.any (fun t => t.st = .parked) then .converge x
      else if x.threads.any (fun t => t.st = .waiting) then .idle
      else .ended

/-- The choice of 02 R28 after an instruction. -/
def Wave.regroup (x : Wave) : NextIssue :=
  match lowestPc x.threads Thread.issuing with
  | some pc => .issue (x.issueAt pc)
  | none => x.chooseNext

/-- The choice of 02 R31 for the yielding lanes `ys`, whose threads are running; yielding threads at the address chosen
join the group (02 R28). -/
def Wave.yieldNext (x : Wave) (ys : List Nat) : NextIssue :=
  let others := x.mapLanes ys fun _ t => { t with st := .exited }
  match lowestPc others.threads (fun t => t.st = .deferred) with
  | some pc => .issue (x.issueAt pc)
  | none =>
    match lowestPc x.threads (fun t => t.st = .held) with
    | some m => if x.anyParked then .converge (x.releaseAt m) else .issue (x.releaseAt m)
    | none => x.regroup

/-- A program-counter update by sequential advance or a taken branch: the thread becomes Held at its meeting
address (02 R29). -/
def Thread.goTo (t : Thread) (pc : DWord) : Thread :=
  { t with pc := pc, st := if pc = t.meet then .held else t.st }

/-- Guard consumption of one instruction (05 R113). -/
def Guard.consume (g : Guard) : Guard :=
  if g.left > 0 then { g with pat := g.pat >>> 1, left := g.left - 1 } else g

/-- `sel` of 05 R113: the lane performs the instruction. -/
def Guard.sel (g : Guard) : Bool := g.left = 0 || (g.pat.getLsbD 0 == g.val)

/-- The restart record at an address (02 R38, 05 R115). -/
def Thread.commitAt (t : Thread) (a : DWord) : Thread :=
  { t with restart := { pc := a, meet := t.meet, guard := t.guard } }

/-- A thread resumed at its restart address (02 R42). A lane parked in the aborted region runs again; one parked before the
entry of the running handler, which committed its region (15 R314), keeps its record. -/
def Thread.restartNow (t : Thread) : Thread :=
  { t with pc := t.restart.pc, meet := t.restart.meet, guard := t.restart.guard, st := .deferred, wait := none
           lane := if t.aside.isSome then t.lane else none }

/-- All lanes whose thread is live. -/
def Wave.liveLanes (x : Wave) : List Nat := x.lanesWhere Thread.live

/-! ### Main-file registers -/

/-- Registers of a width. -/
def regsOf : Width → Nat
  | .w32 => 1
  | .w64 => 2
  | .w128 => 4

/-- Bytes of a width. -/
def widthBytes : Width → Nat
  | .w32 => 4
  | .w64 => 8
  | .w128 => 16

/-- The full bits of `n` registers from `i`. -/
def fullMask (i n : Nat) : BitVec 256 := BitVec.ofNat 256 ((2 ^ n - 1) * 2 ^ i)

/-- Every register of a main-file operand of a width is full in a thread (04 R78, R79); other operands are always
full. -/
def Thread.isFull (t : Thread) (o : Opd) (w : Width) : Bool :=
  match o with
  | .v i => t.full &&& fullMask i.toNat (regsOf w) = fullMask i.toNat (regsOf w)
  | _ => true

/-- Marks a destination empty (04 R78). -/
def Thread.markEmpty (t : Thread) (o : Opd) (w : Width) : Thread :=
  match o with
  | .v i => { t with full := t.full &&& ~~~(fullMask i.toNat (regsOf w)) }
  | _ => t

/-- Marks a destination full. -/
def Thread.markFull (t : Thread) (o : Opd) (w : Width) : Thread :=
  match o with
  | .v i => { t with full := t.full ||| fullMask i.toNat (regsOf w) }
  | _ => t

/-- Writes `n` consecutive words of a register table, low word first (04 R75). -/
def putWords (t : Table Word) (i : Nat) : Nat → Nat → Table Word
  | 0, _ => t
  | n + 1, x => putWords (Table.put t i (BitVec.ofNat 32 x)) (i + 1) n (x / 2 ^ 32)

/-- Reads `n` consecutive words of a register table, low word first. -/
def getWords (t : Table Word) (i : Nat) : Nat → Nat
  | 0 => 0
  | n + 1 => (Table.at t i 0).toNat + 2 ^ 32 * getWords t (i + 1) n

/-- Writes a destination of a width (04 R75); zero discards (05 Table 5.3). -/
def Thread.writeReg (t : Thread) (o : Opd) (w : Width) (x : Quad) : Thread :=
  match o with
  | .v i => { t with v := putWords t.v i.toNat (regsOf w) x.toNat }
  | .k i => { t with k := putWords t.k i.toNat (regsOf w) x.toNat }
  | .h i => { t with h := putWords t.h i.toNat (regsOf w) x.toNat }
  | .pred i _ => { t with p := if x.getLsbD 0 then t.p ||| (1#8 <<< i.toNat) else t.p &&& ~~~(1#8 <<< i.toNat) }
  | _ => t

/-- Reads a register of a width, zero-extended (04 R75). -/
def Thread.readReg (t : Thread) (o : Opd) (w : Width) : Quad :=
  match o with
  | .v i => BitVec.ofNat 128 (getWords t.v i.toNat (regsOf w))
  | .k i => BitVec.ofNat 128 (getWords t.k i.toNat (regsOf w))
  | .h i => BitVec.ofNat 128 (getWords t.h i.toNat (regsOf w))
  | _ => 0

/-- A predicate operand, inverted where its inversion bit says so. -/
def Thread.readPred (t : Thread) (o : Opd) : Bool :=
  match o with
  | .pred i inv => xor (t.p.getLsbD i.toNat) inv
  | _ => false

/-- Sets sticky floating-point and divide flags (04 R85). -/
def Thread.setFlags (t : Thread) (f : Word) : Thread := { t with fpflags := t.fpflags ||| f }

/-- Writes a 64-bit or wider result and marks its destination full (04 R78). -/
def Thread.deliver (t : Thread) (o : Opd) (w : Width) (x : Quad) : Thread := (t.writeReg o w x).markFull o w

/-! ### Destinations and load results -/

/-- Width code of a destination in DEST (15 Table 15.2). -/
def widthCode : Width → Nat
  | .w32 => 0
  | .w64 => 1
  | .w128 => 2

/-- DEST of a destination: its 9-bit code and width; 0x180 where there is none (15 Table 15.2). -/
def destOf (o : Opd) (w : Width) : BitVec 11 :=
  match o with
  | .none => 0x180
  | .pred _ _ => 0x180
  | .zero => BitVec.ofNat 2 (widthCode w) ++ 0x180#9
  | o => BitVec.ofNat 2 (widthCode w) ++ o.code9

/-- The register value of a result's bytes (20 Table 20.5). -/
def LoadFmt.value (f : LoadFmt) (bs : List Byte) : Quad :=
  let n := natOfBytes bs
  if f.signed && decide (f.bytes < 4) && bit n (8 * f.bytes - 1) then BitVec.ofNat 128 (n + 2 ^ 32 - 2 ^ (8 * f.bytes))
  else BitVec.ofNat 128 n

/-- The width of a result's registers. -/
def LoadFmt.regs (f : LoadFmt) : Width :=
  match f.width with
  | 4 => .w128
  | 2 => .w64
  | _ => .w32

end Sys2Proof.Machine
end

