-- ==== Sys2Proof/Machine/Home.lean ====
section
/-! DEFINITION. What happens at the place where bytes live: a write performed at a home stack cache or at host memory,
with the signatures, filters, monitors and block tags that see it (08 R173, 09 R191 to R193, 21 R447, 12 R271). -/

namespace Sys2Proof.Machine

/-- Bit 47 of a physical address: a host address (08 R162). -/
def hostBit : Nat := 2 ^ 47

/-- A physical address names host memory. -/
def isHostAddr (pa : Nat) : Bool := decide (hostBit ≤ pa)

/-- Global stack number of a stack address (08 R162). -/
def stackOf (pa : Nat) : Nat := pa / 2 ^ 36 % 32

/-- Chips that exist on this ordering code (00 R2). -/
def State.chipExists (s : State) (c : Nat) : Bool := decide (c < if s.mf4 then 4 else 8)

/-- A chip is in the view as chip `v` sees it (10 R207). -/
def State.inView (s : State) (v c : Nat) : Bool := (s.repl v).members.contains c

/-- The live member of lowest rank, which stands for the module where the spec names no chip. -/
def State.lowRank (s : State) : Nat :=
  match (List.range 8).filter fun c => s.chipExists c && !(s.repl c).out with
  | [] => 0
  | c :: _ => c

/-- A stack whose chip is in the view (08 R163). -/
def State.stackLive (s : State) (x : Nat) : Bool :=
  s.chipExists (chipOfStack x) && s.inView s.lowRank (chipOfStack x)

/-- The CXL-bearing partner of a chip (01 R18): the even rank of its pair, or the next even rank in the view. -/
def State.cxlRank (s : State) (c : Nat) : Nat :=
  let n := if s.mf4 then 2 else 4
  let step := if s.mf4 then 2 else 2
  let cand := (List.range n).map fun i => (c / step + i) % n * step
  match cand.filter fun r => s.chipExists r && s.inView s.lowRank r with
  | [] => c / step * step
  | r :: _ => r

/-- The directory chip of a host line (11 R248). -/
def State.hostDirChip (s : State) (pa : Nat) : Nat :=
  s.cxlRank (if s.mf4 then 2 * (pa / 64 % 2) else 2 * (pa / 64 % 4))

/-- Key of the link from one chip to another. -/
def linkKey (src dst : Nat) : Nat := 8 * src + dst

/-- A link is up: no resent flit has failed in either direction. -/
def State.linkUp (s : State) (a b : Nat) : Bool :=
  !(s.linkDown.contains (linkKey a b)) && !(s.linkDown.contains (linkKey b a))

/-- A chip has the way to a physical address: to its stack, or to the host-line cache and the directory chip of a host address (01 R16,
R18, 11 R248). An absent stack answers at once (08 R163); a pair whose link is down waits for the view change that it starts (10 R222). -/
def State.reaches (s : State) (chip pa : Nat) : Bool :=
  if isHostAddr pa then s.linkUp chip (s.cxlRank chip) && s.linkUp (s.cxlRank chip) (s.hostDirChip pa)
  else !s.stackLive (stackOf pa) || s.linkUp chip (chipOfStack (stackOf pa))

/-- SigBit of a physical line (09 R191). -/
def sigBit (pa : Nat) : Nat :=
  let l := BitVec.ofNat 41 (pa / 128)
  (l.extractLsb' 0 9 ^^^ l.extractLsb' 9 9 ^^^ l.extractLsb' 18 9 ^^^ l.extractLsb' 27 9 ^^^
    (l.extractLsb' 36 5).setWidth 9).toNat

/-- A 512-bit set with one bit. -/
def sigOf (pa : Nat) : BitVec 512 := (1#512) <<< (sigBit pa)

/-- The set of the lines of some cells. -/
def sigOfCells (cs : Bytes) : BitVec 512 := cs.foldl (fun m c => m ||| sigOf c.1) 0

/-- 64-byte blocks of some cells. -/
def blocksOf (cs : Bytes) : List Nat := (cs.map fun c => c.1 / 64).eraseDups

/-- 128-byte lines of some cells. -/
def linesOf (cs : Bytes) : List Nat := (cs.map fun c => c.1 / 128).eraseDups

/-! ### Monitors (21 R446, R447) -/

/-- Sets the fired flag of a wave for a line, and lets its `MWAIT` wake; a wave whose context is saved is woken (03 R67). -/
def State.fireWave (s : State) (w line : Nat) : State :=
  (s.modWave w fun x =>
    if x.fired then { x with woken := x.woken || x.save ≠ .none }
    else { x with fired := true, woken := x.woken || x.save ≠ .none
                  firedVa := ((x.monitor.find? fun m => m.1 = line).orElse fun _ => x.monitor.head?).elim 0 fun m => m.2 }).postOnce
    (.mwaitWake w)

/-- Fires the waves registered at a watcher on a line. -/
def State.fireRegs (s : State) (rs : List Reg) (line : Nat) : State :=
  rs.foldl (fun s r => if r.line = line then s.fireWave r.wave line else s) s

/-- Adds a registration; beyond 4,096 the oldest is dropped and fired. -/
def addReg (rs : List Reg) (r : Reg) : List Reg × Option Reg :=
  if rs.contains r then (rs, none)
  else if rs.length < 4096 then (rs ++ [r], none)
  else match rs with
    | [] => ([r], none)
    | o :: t => (t ++ [r], some o)

/-- Removes the registrations of a wave everywhere. -/
def State.cancelRegs (s : State) (w : Nat) : State :=
  { s with
    clusters := s.clusters.mapVals fun _ c => { c with regs := c.regs.filter fun r => r.wave ≠ w }
    chips := s.chips.mapVals fun _ c =>
      { c with hostRegs := c.hostRegs.filter fun r => r.wave ≠ w
               repl := { c.repl with regs := c.repl.regs.filter fun r => r.wave ≠ w } } }

/-- Fires the registrations of a line of a stack or of host memory, where its watcher keeps them. -/
def State.firePhys (s : State) (line : Nat) : State :=
  if isHostAddr (line * 128) then
    (List.range 8).foldl (fun s c => s.fireRegs (s.chip c).hostRegs line) s
  else s.fireRegs (s.cluster (stackOf (line * 128))).regs line

/-! ### Buffer versions (12 R270 to R272) -/

/-- Base of reserved replicated memory (10 R235). -/
def reservedBase (rsegsz : Nat) : Nat := rsegsz * 2 ^ 30 - 2 ^ 22

/-- (KEYID, generation of its key, VER) in force for a buffer-table index on a chip. -/
def State.bufTag (s : State) (chip buf : Nat) : Nat × Nat × Word :=
  let r := s.repl chip
  let a := reservedBase r.rsegsz + 8 * buf
  let keyid := Memory.readLe r.replica a 1
  (keyid, Table.at (s.chip chip).keys keyid 0, BitVec.ofNat 32 (Memory.readLe r.replica (a + 4) 4))

/-- A read of a block under a buffer index fails its tag check (12 R271): it was written under another key or version, or under none.
A block that nothing has written passes (log 2: DESIGN CHOICE). -/
def State.tagFails (s : State) (pa buf : Nat) : Bool :=
  if isHostAddr pa then false
  else match Table.look (s.cluster (stackOf pa)).blockTag (pa / 64) with
    | none => false
    | some t => t.2.1 = 0 || t ≠ s.bufTag (chipOfStack (stackOf pa)) buf

/-- A block written under a buffer index: bytes that a failed fill leaves are 0 (12 R272), the tag becomes the present
one. -/
def State.tagBlock (s : State) (buf : Nat) (cs : Bytes) (blk : Nat) : State :=
  let pa := blk * 64
  let st := stackOf pa
  let chip := chipOfStack st
  let full := (cs.filter fun c => c.1 / 64 = blk).map (fun c => c.1) |>.eraseDups.length
  let s := if s.tagFails pa buf && full < 64 then
      ({ s with mem := Memory.writeBytes s.mem pa (List.replicate 64 0) }).note chip 0x272 [pa]
    else s
  s.modCluster st fun c => { c with blockTag := Table.put c.blockTag blk (s.bufTag chip buf) }

/-! ### A write performed at its home -/

/-- Sets a line's bit in the local filters of the 16 cores under a stack (09 R193). -/
def State.filterLine (s : State) (line : Nat) : State :=
  s.modCluster (stackOf (line * 128)) fun c =>
    { c with filters := (List.range 16).foldl (fun t i =>
        Table.put t i (Table.at t i 0 ||| sigOf (line * 128))) c.filters }

/-- Sets a set in every entry of a core's signature table (09 R191). -/
def Core.addSig (c : Core) (m : BitVec 512) : Core :=
  { c with sigTab := c.sigTab.map fun e => { e with set := e.set ||| m } }

/-- The key of an entry's block in a signature table. -/
def WqEntry.key (e : WqEntry) : Nat := if e.repl then 2 ^ 50 + e.block else e.block

/-- The signature of a held release store that is dropped goes back to the core's entry for its block: the store is run again and
sends it (02 R42, 09 R191). An entry replaced since is replaced again, which sends all ones. -/
def Core.giveBack (c : Core) (key : Nat) (sig : Option (BitVec 512)) : Core :=
  match sig with
  | none => c
  | some m => { c with sigTab := c.sigTab.map fun e => if e.block = some key then { e with set := e.set ||| m } else e }

/-- Entries have been taken out of the write queue: their lines are noted at a count of serials (09 R194). -/
def Core.noteLeft (c : Core) (now : Nat) (es : List WqEntry) : Core :=
  { c with wqLeft := (es.filter fun e => !e.repl).foldl (fun t e => Table.put t (e.block / 2) now) c.wqLeft }

/-- ORs a signature into the record of a block or sector; a new record displaces the least recently used beyond 4,096
(09 R192). -/
def addSigRec (t : Table SigRec) (key now : Nat) (m : BitVec 512) (tag : Option (List Nat)) : Table SigRec :=
  let old := Table.at t key { set := 0, used := now, tag := none }
  let t := Table.put t key { set := old.set ||| m, used := now, tag := if tag.isSome then tag else old.tag }
  if t.length ≤ 4096 then t
  else match (t.filter fun e => e.1 ≠ key).foldl (fun (m : Option (Nat × Nat)) e => match m with
      | none => some (e.1, e.2.used)
      | some q => if e.2.used < q.2 then some (e.1, e.2.used) else some q) none with
    | none => t
    | some q => Table.del t q.1

/-- Blocks written, with the count of placements at the time: text written since a gang was placed reads undefined
words (05 R98).  A replicated block is numbered from 2^50. -/
def markBlocks (n : Nat) (t : Table Nat) (bs : List Nat) : Table Nat := bs.foldl (fun t b => Table.put t b n) t

/-- A write of cells performed at the stacks or the host memory that hold them (08 R173, R176): memory, local filters,
the writer's signature table, monitors, and block tags under `buf`. -/
def State.homeStore (s : State) (core : Option Nat) (buf : Option Nat) (cs : Bytes) : State :=
  let s := match buf with
    | none => s
    | some b => (blocksOf (cs.filter fun c => !isHostAddr c.1)).foldl (fun s k => s.tagBlock b cs k) s
  let s := { s with mem := Memory.writeCells s.mem cs, written := markBlocks s.serial s.written (blocksOf cs) }
  let ls := linesOf cs
  let s := ls.foldl (fun s l => if isHostAddr (l * 128) then s else s.filterLine l) s
  let s := match core with
    | none => s
    | some c => s.modCore c fun x => x.addSig (sigOfCells cs)
  let s := ls.foldl (fun s l => s.firePhys l) s
  ls.foldl (fun s l =>
    if isHostAddr (l * 128) || (s.cluster (stackOf (l * 128))).tasks.isEmpty then s
    else s.postOnce (.taskDispatch (stackOf (l * 128)))) s

/-- Changes the signature records of a chip's replication unit, whose times of use are counts of serials. -/
def State.useReplRecs (s : State) (chip : Nat) (f : Nat → Table SigRec → Table SigRec) : State :=
  { s.modRepl chip (fun r => { r with sigRecs := f s.serial r.sigRecs }) with serial := s.serial + 1 }

/-- Changes the signature records that hold those of a physical address, given its key and the time: the stack controller's, or for a
host address the directory chip's replication unit, beside its replicated sectors (09 R192; log 13: DESIGN CHOICE). -/
def State.useRecs (s : State) (pa : Nat) (f : Nat → Nat → Table SigRec → Table SigRec) : State :=
  if isHostAddr pa then s.useReplRecs (s.hostDirChip pa) (f (2 ^ 48 + pa / 64))
  else { s.modCluster (stackOf pa) (fun c => { c with sigRecs := f (pa / 64) s.serial c.sigRecs }) with serial := s.serial + 1 }

/-- The signature a release sends is ORed into the record at its block (09 R192; of a host block: log 13, DESIGN CHOICE). -/
def State.homeSig (s : State) (pa : Nat) (m : BitVec 512) (tag : Option (List Nat)) : State :=
  s.useRecs pa fun key now t => addSigRec t key now m tag

/-- A record has been read: it is the most recently used. -/
def touchRec (key now : Nat) (t : Table SigRec) : Table SigRec := Table.modify t key fun r => { r with used := now }

/-- What an acquire receives from a record: all ones where there is none (09 R192). -/
def recOf (t : Table SigRec) (key : Nat) : BitVec 512 × Option (List Nat) :=
  match Table.look t key with
  | none => (BitVec.allOnes 512, none)
  | some r => (r.set, r.tag)

/-- The signature and tag an acquire receives at a physical address. -/
def State.homeRec (s : State) (pa : Nat) : BitVec 512 × Option (List Nat) :=
  if isHostAddr pa then recOf (s.repl (s.hostDirChip pa)).sigRecs (2 ^ 48 + pa / 64)
  else recOf (s.cluster (stackOf pa)).sigRecs (pa / 64)

end Sys2Proof.Machine
end

