-- ==== Sys2Proof/Machine/Windows.lean ====
section
/-! DEFINITION. Window segments and the directory of each stack (11 R236 to R247). -/

namespace Sys2Proof.Machine

/-- A segment no `SEGB` has bound: state I (11 Table 11.1). -/
def Seg.free : Seg :=
  { st := .i, owned := false, va := 0, asid := 0, priv := false, ptroot := 0, buf := 0, pa := 0, dirty := 0, refetch := false
    filling := false, linesLeft := 0, notice := false, back := false
    lost := false, wave := 0, epoch := 0 }

/-- A segment of a core. -/
def Core.seg (c : Core) (i : Nat) : Seg := Table.at c.segs i Seg.free
def State.seg (s : State) (core i : Nat) : Seg := (s.core core).seg i
def State.setSeg (s : State) (core i : Nat) (x : Seg) : State :=
  s.modCore core fun c => { c with segs := if x = Seg.free then Table.del c.segs i else Table.put c.segs i x }

/-- Bits of the 32 lines of a segment among the 4,096 line bits of a core. -/
def segLines (i : Nat) : BitVec 4096 := BitVec.ofNat 4096 ((2 ^ 32 - 1) * 2 ^ (32 * i))

/-- Sets the lines of a segment empty. -/
def State.emptySeg (s : State) (core i : Nat) : State :=
  s.modCore core fun c => { c with lines := c.lines &&& ~~~(segLines i) }

/-- The dirty bytes of an owned segment, at their physical addresses (11 R238). -/
def State.dirtyCells (s : State) (core i : Nat) : Bytes :=
  let x := s.seg core i
  let c := s.core core
  (List.range 4096).filterMap fun k =>
    if x.dirty.getLsbD k then some (x.pa + k, Memory.read c.scratch (4096 * i + k)) else none

/-- Region of a physical address (11 R240). -/
def regionOf (pa : Nat) : Nat := pa / 4096

/-- The directory entry of a region. -/
def State.dir? (s : State) (region : Nat) : Option Dir :=
  Table.look (s.cluster (stackOf (region * 4096))).dir region

/-- Sets or removes the directory entry of a region; an entry with no holder, nobody asked and nothing waiting is
unbound. -/
def State.setDir (s : State) (region : Nat) (d : Dir) : State :=
  s.modCluster (stackOf (region * 4096)) fun c =>
    { c with dir := if d.sharers = [] && d.asked = [] && d.queue = [] then Table.del c.dir region
                    else Table.put c.dir region d }

/-- INV or RECALL to every holder of a region (11 Table 11.3). -/
def State.askHolders (s : State) (region : Nat) (d : Dir) : State :=
  let s := s.setDir region { d with st := .pend, asked := d.sharers, sharers := [] }
  d.sharers.foldl (fun s h => s.post (if d.st = .own then .windowRecall h.1 h.2 else .windowInv h.1 h.2)) s

/-- A fill is served: the holder recorded, the region's 32 lines sent. -/
def State.fillSeg (s : State) (region : Nat) (d : Dir) (core seg : Nat) (owned : Bool) : State :=
  let s := s.setDir region { d with st := if owned then .own else .shr, sharers := d.sharers ++ [(core, seg)] }
  (List.range 32).foldl (fun s l => s.post (.windowFillData core seg l)) s

/-- Serves what waits in a region queue as from UNB, while nothing is asked (11 Table 11.3): fills and invalidations until a write is
at the head, which performs itself. Every round takes an item out of the queue. -/
def dirServe (fuel : Nat) (s : State) (region : Nat) : State :=
  match fuel with
  | 0 => s
  | n + 1 =>
    match s.dir? region with
    | none => s
    | some d =>
      if d.asked ≠ [] then s
      else match d.queue with
        | [] => s
        | .fill core seg owned :: q =>
          if d.sharers = [] || (d.st = .shr && !owned) then
            dirServe n (s.fillSeg region { d with queue := q } core seg owned) region
          else s.askHolders region d
        | .write core e :: _ => if d.sharers = [] then s.postOnce (.wqEntryPerform core e) else s.askHolders region d
        | .copy core k :: _ => if d.sharers = [] then s.postOnce (.copyTransfer core k) else s.askHolders region d
        | .run e :: _ => if d.sharers = [] then s.postOnce e else s.askHolders region d
        | .clear :: q =>
          if d.sharers = [] then dirServe n (s.setDir region { d with queue := q }) region else s.askHolders region d

/-- Serves a region queue as far as it can be. -/
def State.serve (s : State) (region : Nat) : State :=
  match s.dir? region with
  | none => s
  | some d => dirServe (d.queue.length + 1) s region

/-- Puts a request in the region queue and serves what can be served (11 R241). -/
def State.dirAsk (s : State) (region : Nat) (q : DirWait) : State :=
  let d := (s.dir? region).getD { st := .pend, sharers := [], asked := [], queue := [] }
  if d.queue.contains q then s.serve region
  else (s.setDir region { d with queue := d.queue ++ [q] }).serve region

/-- A write may be performed on a region now: no entry, or its turn has come. -/
def State.dirMayWrite (s : State) (region : Nat) (q : DirWait) : Bool :=
  match s.dir? region with
  | none => true
  | some d => d.sharers = [] && d.asked = [] && d.queue.head? = some q

/-- Takes items out of a region queue: a write at its head has been performed, or what waited has gone. -/
def State.dirTake (s : State) (region : Nat) (p : DirWait → Bool) : State :=
  match s.dir? region with
  | none => s
  | some d => (s.setDir region { d with queue := d.queue.filter fun x => !p x }).serve region

/-- A write at the head of a region queue has been performed, or has gone. -/
def State.dirDone (s : State) (region : Nat) (q : DirWait) : State := s.dirTake region fun x => x = q

/-- What waited in any region queue has gone: a copy that was dropped, a core that departed. -/
def State.dirDrop (s : State) (p : DirWait → Bool) : State :=
  s.clusters.foldl (fun s k => k.2.dir.foldl (fun s e => if e.2.queue.any p then s.dirTake e.1 p else s) s) s

/-- A holder leaves a directory entry, by a notice or as the answer to an INV or RECALL (11 R241, R242). -/
def State.dirLeave (s : State) (region : Nat) (h : Nat × Nat) : State :=
  match s.dir? region with
  | none => s
  | some d =>
    (s.setDir region
      { d with sharers := d.sharers.filter (fun x => x ≠ h), asked := d.asked.filter fun x => x ≠ h }).serve region

/-- Something of a segment's fill is still to come. -/
def Event.fills (core i : Nat) : Event → Bool
  | .windowFillRequest c j => c = core && j = i
  | .windowFillData c j _ => c = core && j = i
  | _ => false

/-- A fill that is under way is given up, with a refetch due: its request leaves the region queue, its lines are not taken. -/
def State.cancelFill (s : State) (core i : Nat) : State :=
  let x := s.seg core i
  let r := regionOf x.pa
  let s := { s with agenda := s.agenda.filter fun e => !e.fills core i }
  let s := (s.emptySeg core i).setSeg core i { x with filling := false, linesLeft := 0, refetch := true }
  (s.dirTake r fun q => q = .fill core i x.owned).dirLeave r (core, i)

/-- The translation of a bound segment has been removed (12 R262): T with a refetch due; a clean copy leaves the home's entry, dirty
bytes are on their way to the old region (12 R266), a fill under way is given up. One whose notice is out, or that has a refetch due,
has nothing to do. -/
def State.unmapSeg (s : State) (core i : Nat) : State :=
  let x := s.seg core i
  if x.notice || x.lost then s
  else match x.st with
    | .i => s
    | .t => if x.filling then s.cancelFill core i else s
    | .s => ((s.emptySeg core i).setSeg core i { x with st := .t, refetch := true }).dirLeave (regionOf x.pa) (core, i)
    | .o =>
      let s := s.emptySeg core i
      if x.dirty = 0 then (s.setSeg core i { x with st := .t, refetch := true }).dirLeave (regionOf x.pa) (core, i)
      else (s.setSeg core i { x with st := .t, refetch := true, back := true }).post (.windowNotice core i)

/-! ### Writes of the hardware at a home (11 R241, 17 R356) -/

/-- Asks the host for a block of a stack: BISnpInv (17 R356). -/
def State.askHost (s : State) (block : Nat) : State :=
  s.modCluster (stackOf (block * 64)) fun c =>
    { c with biWait := if c.biWait.contains block then c.biWait else c.biWait ++ [block] }

/-- The blocks of a write that the hardware makes, in an event, may be written now: the region queue has come to the event, and the
host holds no copy; else both are asked for, and the event comes again. -/
def State.blocksReady (s : State) (e : Event) (blocks : List Nat) : Bool × State :=
  blocks.foldl (fun (r : Bool × State) b =>
    let s := r.2
    if isHostAddr (b * 64) then (r.1, s)
    else if (s.cluster (stackOf (b * 64))).hostHeld.contains b then (false, (s.askHost b).postOnce e)
    else if s.dirMayWrite (regionOf (b * 64)) (.run e) then (r.1, s)
    else (false, s.dirAsk (regionOf (b * 64)) (.run e))) (true, s)

/-- The event has made its writes: the region queues of the blocks go on. -/
def State.blocksDone (s : State) (e : Event) (blocks : List Nat) : State :=
  ((blocks.filter fun b => !isHostAddr (b * 64)).map fun b => regionOf (b * 64)).eraseDups.foldl (fun s r => s.dirDone r (.run e)) s

end Sys2Proof.Machine
end

