-- ==== Sys2Proof/Machine/Region.lean ====
section
/-! DEFINITION. Region control blocks: their fields, effective values, budgets and the tree (02 R43 to R48). -/

namespace Sys2Proof.Machine

/-- Bytes of the replicated segment or of host memory at a physical form (02 R43, R432). -/
def State.recBytes (s : State) (chip a n : Nat) : Nat :=
  if isHostAddr a then Memory.readLe s.mem a n else Memory.readLe (s.repl chip).replica a n

/-- A field of a launch record or RCB: `n` bits from bit `lo` of the dword at an offset. -/
def State.recField (s : State) (chip a off lo n : Nat) : Nat := bits (s.recBytes chip (a + off) 8) lo n

/-- More links than a replicated segment holds RCBs: no walk of the tree ends for want of it. -/
def walkFuel : Nat := 2 ^ 32

/-- An RCB and its ancestors by PARENT, itself first; a link back to an RCB already met ends the walk (log 17: DESIGN CHOICE). -/
def pathUp (fuel : Nat) (seen : List Nat) (s : State) (chip rcb : Nat) : List Nat :=
  match fuel with
  | 0 => []
  | n + 1 =>
    if seen.contains rcb then []
    else
      let p := s.recBytes chip rcb 8
      rcb :: if p = 0 then [] else pathUp n (rcb :: seen) s chip p

/-- The path of an RCB to the root. -/
def State.path (s : State) (chip rcb : Nat) : List Nat := pathUp walkFuel [] s chip rcb

/-- An RCB lies in the subtree of another (02 R43, R47). -/
def State.inSubtree (s : State) (chip rcb top : Nat) : Bool := (s.path chip rcb).contains top

/-- OVR bit of an RCB; in the root every bit is 1 (02 R44). -/
def State.ovr (s : State) (chip rcb b : Nat) : Bool :=
  s.recBytes chip rcb 8 = 0 || bit (s.recBytes chip (rcb + 0x28) 8) b

/-- The RCB whose own field is effective (02 R44): the nearest on the path whose OVR bit is 1. -/
def State.ownerOf (s : State) (chip rcb b : Nat) : Nat :=
  ((s.path chip rcb).find? fun r => s.ovr chip r b).getD rcb

/-- The effective value of a field that OVR bit `b` governs. -/
def State.effField (s : State) (chip rcb b off lo n : Nat) : Nat := s.recField chip (s.ownerOf chip rcb b) off lo n

/-- An effective budget (02 R45): the least of the own values of the path from the owner up, where each ancestor counts
by its own owner. -/
def State.effBudget (s : State) (chip rcb b off lo n : Nat) : Nat :=
  ((s.path chip rcb).filter fun r => s.ovr chip r b).foldr
    (fun r m => match m with
      | none => some (s.recField chip r off lo n)
      | some x => some (min (s.recField chip r off lo n) x)) none |>.getD 0

/-- Effective PRIV (02 R46): PRIV of the whole path. -/
def State.effPriv (s : State) (chip rcb : Nat) : Bool :=
  (s.path chip rcb).all fun r => bit (s.recBytes chip (r + 0x48) 8) 4

/-- Effective MODE (02 Tables 2.8, 2.9, R45, R46). -/
def State.effMode (s : State) (chip rcb : Nat) : BitVec 19 :=
  let f (b lo n : Nat) : Nat := s.effField chip rcb b 0x48 lo n * 2 ^ lo
  let replay := f 15 3 1
  BitVec.ofNat 19 (f 12 0 1 + f 13 1 1 + (if replay = 0 then f 14 2 1 else 0) + replay +
    (if s.effPriv chip rcb then 16 else 0) + f 17 5 1 + f 18 6 1 + f 16 8 5)

/-- Bit 2 of MODE: the region records (16 R337). -/
def recording (mode : BitVec 19) : Bool := mode.getLsbD 2 && !mode.getLsbD 3
/-- Bit 3 of MODE: the region replays (16 R340). -/
def replaying (mode : BitVec 19) : Bool := mode.getLsbD 3

/-- An RCB and those its NEXT links lead to, each once. -/
def siblings (fuel : Nat) (seen : List Nat) (s : State) (chip rcb : Nat) : List Nat :=
  match fuel with
  | 0 => []
  | n + 1 => if rcb = 0 || seen.contains rcb then []
    else rcb :: siblings n (rcb :: seen) s chip (s.recBytes chip (rcb + 0x10) 8)

/-- Children of an RCB, in order. -/
def State.children (s : State) (chip rcb : Nat) : List Nat := siblings walkFuel [] s chip (s.recBytes chip (rcb + 8) 8)

/-- The RCBs that a list leads to by CHILD and NEXT, each once, after those already met (latest first). -/
def reachable (fuel : Nat) (s : State) (chip : Nat) (todo met : List Nat) : List Nat :=
  match fuel with
  | 0 => met.reverse
  | n + 1 => match todo with
    | [] => met.reverse
    | r :: rest =>
      if met.contains r then reachable n s chip rest met else reachable n s chip (s.children chip r ++ rest) (r :: met)

/-- The regions reachable from the root (02 R43). -/
def State.regions (s : State) (chip : Nat) : List Nat :=
  let r := (s.chip chip).sys.rootrcb
  if r = 0 then [] else reachable walkFuel s chip [r] []

/-- A gang counts as resident on its chip: placed, and neither swapped out nor freed. -/
def Gang.onChip (k : Gang) : Bool := !(k.st = .swapped || k.st = .exited || k.st = .retired)

end Sys2Proof.Machine
end

