-- ==== Sys2Proof/Machine/Log.lean ====
section
/-! DEFINITION. The recording log of a region: entries, recording, and the comparison of a replay (16 R337 to R341). -/

namespace Sys2Proof.Machine

/-- A logged decision (16 Tables 16.4, 16.5). -/
structure LogEntry where
  kind : Nat
  src : Nat
  wgw : Nat
  pos : Nat
  prog : Nat
  arg : Nat
  deriving DecidableEq, Repr

/-- The 16 bytes of an entry. -/
def LogEntry.bytes (e : LogEntry) : List Byte :=
  bytesOfNat 1 e.kind ++ bytesOfNat 1 e.src ++ bytesOfNat 2 e.wgw ++ bytesOfNat 4 e.pos ++ bytesOfNat 4 e.prog ++
    bytesOfNat 4 e.arg

/-- A chip's position in a region's log before anything is written. -/
def LogPos.start : LogPos := { used := 0, unposted := 0, read := 0, readRepl := 0, halted := false }

/-- The RCB whose LOGB is effective for a region: regions that inherit it share its log. -/
def State.logKey (s : State) (chip rcb : Nat) : Nat := s.ownerOf chip rcb 21

/-- A chip's position in a region's log. -/
def State.logPos (s : State) (chip rcb : Nat) : LogPos := Table.at (s.chip chip).logs (s.logKey chip rcb) LogPos.start
def State.setLogPos (s : State) (chip rcb : Nat) (p : LogPos) : State :=
  let k := s.logKey chip rcb
  s.modChip chip fun c => { c with logs := Table.put c.logs k p }

/-- Entries of a chip that the usable length holds: LOGL rounded down to 32 KiB (16 R337). -/
def State.logRoom (s : State) (chip rcb : Nat) : Nat := s.effField chip rcb 21 0x80 0 32 / 32768 * 256

/-- The same for LOGL as the packets that the chip holds have it: a strong store that extends LOGL is itself a packet that a full log
holds up, and the decision goes on when LOGL is extended (16 R339; log 28: DEDUCED). -/
def State.heldRoom (s : State) (chip rcb : Nat) : Nat :=
  let a := s.logKey chip rcb + 0x80
  (s.repl chip).hold.foldl (fun n (p : Packet) => match Table.look p.images (a / 32) with
    | some v => max n ((v.extractLsb' (8 * (a % 32)) 32).toNat / 32768 * 256)
    | none => n) 0

/-- Offset in the log of a chip's n-th entry: its granules are those of its rank modulo 8 (16 R337). -/
def logOffset (chip n : Nat) : Nat := 4096 * (8 * (n / 256) + chip) + 16 * (n % 256)

/-- The address of a chip's n-th entry. -/
def State.logAddr (s : State) (chip rcb n : Nat) : Nat := s.effField chip rcb 21 0x78 0 64 + logOffset chip n

/-- A chip's n-th entry as it stands in the log. KIND 0, which is never written, is the end (16 R338). -/
def State.logRead (s : State) (chip rcb n : Nat) : LogEntry :=
  let a := s.logAddr chip rcb n
  let f (o k : Nat) : Nat := Memory.readLe s.mem (a + o) k
  { kind := f 0 1, src := f 1 1, wgw := f 2 2, pos := f 4 4, prog := f 8 4, arg := f 12 4 }

/-- The decision that an entry names, for replicated packets and for the others apart. -/
def nextOf (fuel : Nat) (s : State) (chip rcb n : Nat) (p : LogEntry → Nat → Bool) : Option (Nat × LogEntry) :=
  match fuel with
  | 0 => none
  | m + 1 =>
    if s.logRoom chip rcb ≤ n then none
    else
      let e := s.logRead chip rcb n
      if e.kind = 0 then none else if p e n then some (n, e) else nextOf m s chip rcb (n + 1) p

/-- The next entry of a chip whose decision has not been taken. -/
def State.logNext (s : State) (chip rcb : Nat) : Option (Nat × LogEntry) :=
  let p := s.logPos chip rcb
  nextOf (s.logRoom chip rcb + 1) s chip rcb (min p.read p.readRepl) fun e n =>
    if e.kind = 5 then decide (p.readRepl ≤ n) else decide (p.read ≤ n)

/-- The next entry of a chip that names no packet, or that names one. -/
def State.logNextKind (s : State) (chip rcb : Nat) (repl : Bool) : Option (Nat × LogEntry) :=
  let p := s.logPos chip rcb
  nextOf (s.logRoom chip rcb + 1) s chip rcb (if repl then p.readRepl else p.read) fun e _ => (e.kind = 5) == repl

/-- Two entries name the same entity (16 R341): the wave, the gang, or the sender. -/
def LogEntry.sameEntity (e x : LogEntry) : Bool :=
  let wave (n : Nat) : Bool := decide (2 ≤ n) && decide (n ≤ 4)
  let gang (n : Nat) : Bool := n = 1 || n = 6 || n = 7
  (wave e.kind && wave x.kind && e.pos = x.pos && e.wgw = x.wgw) ||
    (gang e.kind && gang x.kind && e.pos = x.pos) || (e.kind = 5 && x.kind = 5 && e.pos = x.pos)

/-- What the log says to a decision: it is taken, it waits, the log is full, it diverges. -/
inductive LogSay where
  | take
  | wait
  | full
  | diverge (n : Nat) (expected : Option LogEntry)
  deriving DecidableEq, Repr

/-- A replay's answer to a decision, against the next entry. -/
def replaySays (next : Option (Nat × LogEntry)) (e : LogEntry) (at' : Nat) : LogSay :=
  match next with
  | none => .diverge at' none
  | some (n, x) =>
    if x = e then .take
    else if x.sameEntity e && (x.kind ≠ e.kind || x.prog ≠ e.prog) then .diverge n (some x)
    else .wait

/-- The answer to a decision of a region whose gang has this MODE. `own` says that the entries of packets keep their
place in the order: those of the replaying region placed earliest on the chip (16 R340). -/
def State.logSays (s : State) (chip rcb : Nat) (mode : BitVec 19) (own : Bool) (e : LogEntry) : LogSay :=
  let p := s.logPos chip rcb
  if replaying mode then
    if p.halted then .wait
    else replaySays (if own then s.logNext chip rcb else s.logNextKind chip rcb (e.kind = 5)) e p.read
  else if recording mode then
    if p.used < max (s.logRoom chip rcb) (s.heldRoom chip rcb) then .take else .full
  else .take

/-- A decision is taken: its entry is written, or passed (16 R337, R340). -/
def State.logTake (s : State) (chip rcb : Nat) (mode : BitVec 19) (own : Bool) (e : LogEntry) : State :=
  let p := s.logPos chip rcb
  if replaying mode then
    match (if own then s.logNext chip rcb else s.logNextKind chip rcb (e.kind = 5)) with
    | none => s
    | some (n, _) => s.setLogPos chip rcb
        (if e.kind = 5 then { p with readRepl := n + 1 } else { p with read := n + 1 })
  else if recording mode then
    let a := s.logAddr chip rcb p.used
    (s.homeStore none none (e.bytes.zipIdx.map fun b => (a + b.2, b.1))).setLogPos chip rcb
      { p with used := p.used + 1, unposted := p.unposted + 1 }
  else s

/-- Regions with a gang resident on a chip that record or replay, each log once with its earliest gang's MODE, in order
of placement. -/
def State.loggedRegions (s : State) (chip : Nat) : List (Nat × BitVec 19) :=
  s.gangs.foldl (fun r g =>
    if g.2.chip = chip && g.2.onChip && (recording g.2.mode || replaying g.2.mode) &&
        !(r.any fun e => s.logKey chip e.1 = s.logKey chip g.2.rcb) then
      r ++ [(g.2.rcb, g.2.mode)] else r) []

/-- The replaying region that a chip's receive engine follows (16 R340). -/
def State.followed (s : State) (chip : Nat) : Option Nat :=
  ((s.loggedRegions chip).find? fun e => replaying e.2).map fun e => e.1

/-- The entry of a packet (16 Table 16.5). -/
def packetEntry (rank seq : Nat) : LogEntry := { kind := 5, src := 5, wgw := 0, pos := rank, prog := seq, arg := 0 }

/-- The regions of a chip that hold a packet up, with what they say: full logs, and the followed replay. -/
def State.packetStops (s : State) (chip rank seq : Nat) : List (Nat × LogSay) :=
  let f := s.followed chip
  (s.loggedRegions chip).filterMap fun e =>
    if recording e.2 || f = some e.1 then
      match s.logSays chip e.1 e.2 true (packetEntry rank seq) with
      | .take => none
      | x => some (e.1, x)
    else none

/-- A packet is logged by every recording region, passed by the replaying ones; one that another replay's log does not
name next halts that region. -/
def State.packetLog (s : State) (chip rank seq : Nat) : State :=
  let f := s.followed chip
  (s.loggedRegions chip).foldl (fun s e =>
    match s.logSays chip e.1 e.2 (recording e.2 || f = some e.1) (packetEntry rank seq) with
    | .take => s.logTake chip e.1 e.2 (recording e.2 || f = some e.1) (packetEntry rank seq)
    | _ =>
      let p := s.logPos chip e.1
      if replaying e.2 && !p.halted then
        (s.setLogPos chip e.1 { p with halted := true }).note chip 0x341 [e.1, logOffset chip p.readRepl, 5, rank, seq]
      else s) s

/-- A write of MODE.REPLAY to 0 sends a chip back to its first granule (16 R341). -/
def State.replayRestarts (s : State) (chip : Nat) : State :=
  (s.chip chip).logs.foldl (fun s e =>
    if replaying (s.effMode chip e.1) then s
    else s.setLogPos chip e.1 { e.2 with read := 0, readRepl := 0, halted := false }) s

end Sys2Proof.Machine
end

