-- ==== Sys2Proof/Machine/Replica.lean ====
section
/-! DEFINITION. The replication unit of a chip: sectors and tags, update packets, the hold rule, strong requests and
grants, acknowledgement and counter wrap (10 R207 to R223). -/

namespace Sys2Proof.Machine

/-! ### Notices to waves -/

/-- The core of a wave. -/
def State.coreOf (s : State) (w : Nat) : Nat :=
  match s.wave? w with
  | none => 0
  | some x => match s.wg? x.wg with
    | none => 0
    | some g => g.core

/-- The gang of a wave. -/
def State.gangOf (s : State) (w : Nat) : Option (Nat × Gang) :=
  match s.wave? w with
  | none => none
  | some x => match s.wg? x.wg with
    | none => none
    | some g => match s.gang? g.gang with
      | none => none
      | some k => some (g.gang, k)

/-- A class A event for a wave: pending up to 16, beyond that or after its end logged only (15 R313, R327). -/
def State.raiseA (s : State) (w chip : Nat) (p : PendA) : State :=
  match s.wave? w with
  | none => s.note chip p.cause.toNat [w]
  | some x =>
    if x.pendA.length < 16 && x.threads.any Thread.live then
      s.modWave w fun x => { x with pendA := x.pendA ++ [p] }
    else s.note chip p.cause.toNat [w]

/-- The backlog (10 R224): packets in the hold store, those of a newer view among them (10 R208). -/
def Repl.backlog (r : Repl) : Nat := r.hold.length + r.newer.length

/-- The handle of the replication events (10 R233): the REVT bit, the housekeeping log, and for codes 1 and 3 a
REPL_EVENT to wave 0 of workgroup 0 of every resident subscribing gang of the chip. -/
def State.replEvent (s : State) (chip code rank : Nat) : State :=
  let r := s.repl chip
  let s := (s.modRepl chip fun r => { r with revt := r.revt ||| (1#5 <<< code) }).note chip (0x1800 + code) [rank, r.view]
  if code = 1 || code = 3 then
    s.gangs.foldl (fun s g =>
      if g.2.chip = chip && g.2.mode.getLsbD 6 && g.2.onChip && g.2.st ≠ .killed then
        match g.2.wgs with
        | [] => s
        | wg :: _ => match s.wg? wg with
          | none => s
          | some x => match x.waves with
            | [] => s
            | w :: _ => s.raiseA w chip
                { cause := 0x18, pc := none, lseq := none, dest := 0x180
                  addr := BitVec.ofNat 64 (code + rank * 2 ^ 8 + r.view * 2 ^ 16 + r.backlog * 2 ^ 32) }
      else s) s
  else s

/-! ### Sectors and tags -/

/-- The 32-byte image of a sector. -/
def Repl.image (r : Repl) (k : Nat) : BitVec 256 := BitVec.ofNat 256 (Memory.readLe r.replica (32 * k) 32)

/-- Sector clock of a tag (10 Table 10.2). -/
def tagClk (t : Word) : Nat := (t.extractLsb' 0 28).toNat
/-- Writer's rank of a tag. -/
def tagRank (t : Word) : Nat := (t.extractLsb' 28 3).toNat
/-- A tag. -/
def mkTag (strong : Bool) (rank clk : Nat) : Word :=
  BitVec.ofBool strong ++ BitVec.ofNat 3 rank ++ BitVec.ofNat 28 clk

/-- A write beats a tag (10 R213). -/
def beats (sclk rank : Nat) (t : Word) : Bool :=
  let d := (sclk + 2 ^ 28 - tagClk t) % 2 ^ 28
  if d ≠ 0 then decide (d < 2 ^ 27) else decide (tagRank t < rank)

/-- The later of two tag clocks: the one whose tag beats the other (10 R214). -/
def laterClk (a b : Word) : Nat := if beats (tagClk a) (tagRank a) b then tagClk a else tagClk b

/-- The later clock of the tags of some sectors. -/
def Repl.laterOf (r : Repl) (ks : List Nat) : Nat :=
  match ks with
  | [] => 0
  | k :: rest => tagClk (rest.foldl (fun t j =>
      let u := Table.at r.tags j 0
      if beats (tagClk u) (tagRank u) t then u else t) (Table.at r.tags k 0))

/-- A sector image is installed where the write beats the sector's tag (10 R213). -/
def Repl.install (r : Repl) (sclk rank : Nat) (strong : Bool) (k : Nat) (img : BitVec 256) : Repl :=
  if beats sclk rank (Table.at r.tags k 0) then
    { r with replica := Memory.writeLe r.replica (32 * k) 32 img.toNat
             tags := Table.put r.tags k (mkTag strong rank sclk) }
  else r

/-- Images are installed sector by sector. -/
def Repl.installAll (r : Repl) (sclk rank : Nat) (strong : Bool) (imgs : Table (BitVec 256)) : Repl :=
  imgs.foldl (fun r e => r.install sclk rank strong e.1 e.2) r

/-- An entry of a vector by rank. -/
def vecAt (v : List Nat) (j : Nat) : Nat := v.getD j 0
/-- A vector with one entry changed. -/
def vecSet (v : List Nat) (j x : Nat) : List Nat := v.set j x

/-! ### Links (10 R208) -/

/-- The event of a message. -/
def Msg.event (m : Msg) (src dst : Nat) : Event :=
  match m with
  | .packet p => if p.kind = 0 then .updatePacket src dst else if p.kind = 1 then .grantPacket src dst
      else .wrapPacket src dst
  | .req _ => .reqMessage src dst
  | .ack _ => .ackMessage src dst
  | .wrapack _ _ => .wrapackMessage src dst
  | .wrapackSeen _ _ => .wrapackMessage src dst
  | .propose _ _ _ => .proposeMessage src dst
  | .state _ => .stateMessage src dst
  | .install _ _ => .installMessage src dst
  | .join _ => .joinMessage src dst
  | .listen _ _ => .listenMessage src dst

/-- V of a chip's messages of KIND 3: its applied vector, with its own last sequence number (10 R209). -/
def State.ctlVec (s : State) (c : Nat) : List Nat := vecSet (s.repl c).applied c (s.repl c).own

/-- Sends a message on a link; a link that is down carries nothing. -/
def State.send (s : State) (src dst : Nat) (m : Msg) : State :=
  if s.linkUp src dst then
    ({ s with links := Table.put s.links (linkKey src dst) (Table.at s.links (linkKey src dst) [] ++ [m]) }).post
      (m.event src dst)
  else s

/-- The chips a chip's packets go to: the other members, and a listener it has told its count (10 R231). -/
def State.audience (s : State) (c : Nat) : List Nat :=
  (List.range 8).filter fun d =>
    d ≠ c && s.chipExists d && ((s.repl c).members.contains d || (s.repl c).listeners.contains d)

/-- Sends a message to every other member. -/
def State.sendAll (s : State) (src : Nat) (m : Msg) : State :=
  (s.audience src).foldl (fun s d => s.send src d m) s

/-- Takes the first message of a link; a resend that it arrived by has cleared the error, which is logged (10 R208). -/
def State.takeMsg (s : State) (src dst : Nat) : State :=
  let k := linkKey src dst
  let s := { s with links := match Table.at s.links k [] with
      | _ :: t => if t = [] then Table.del s.links k else Table.put s.links k t
      | [] => s.links }
  if s.linkResent.contains k then ({ s with linkResent := s.linkResent.filter fun j => j ≠ k }).note dst 0x208 [src] else s

/-- The first message of a link, unless the link is down or waits for a resend. -/
def State.headMsg (s : State) (src dst : Nat) : Option Msg :=
  if s.linkUp src dst && !(s.linkRetry.contains (linkKey src dst)) then
    (Table.at s.links (linkKey src dst) []).head?
  else none

/-! ### Monitors and signatures of replicated lines -/

/-- A chip's replica has been written in a block: registrations on its line fire (21 R447), and a replay whose region no
longer replays starts again (16 R341). -/
def State.fireRepl (s : State) (chip blk : Nat) : State :=
  let s := if (s.chip chip).logs = [] then s else s.replayRestarts chip
  s.fireRegs (s.repl chip).regs (2 ^ 50 + blk / 2)

/-- ORs a signature into a chip's records of the sectors touched (09 R192). -/
def State.replSig (s : State) (chip : Nat) (ks : List Nat) (m : Option (BitVec 512)) (tag : Option (List Nat)) : State :=
  match m with
  | none => s
  | some m => s.useReplRecs chip fun now t => ks.foldl (fun t k => addSigRec t k now m tag) t

/-- The signature and tag an acquire of a replicated sector receives on its chip. -/
def State.replRec (s : State) (chip off : Nat) : BitVec 512 × Option (List Nat) :=
  recOf (s.repl chip).sigRecs (off / 32)

/-! ### Bytes of the replicated segment that no store of software changes -/

/-- Bytes of an RCB that hardware maintains: LOGP, STATE, LSEQ (02 R43). -/
def roField (off : Nat) : Bool := decide (0x84 ≤ off && off ≤ 0x88) || decide (0x90 ≤ off && off < 0x94)

/-- A chip ignores a store of software to a byte: of the reserved 2.5 MiB, which reads 0 (10 R235), or of a read-only field of an RCB
in its tree (02 R43). -/
def State.fixedByte (s : State) (chip off : Nat) : Bool :=
  let b := reservedBase (s.repl chip).rsegsz
  (decide (b + 0x180000 ≤ off) && decide (off < b + 2 ^ 22)) ||
    (roField (off % 256) && (s.regions chip ++ (s.chip chip).regions).contains (off / 256 * 256))

/-- The replica's block fails its tag check: it was written under another key or version of entry 0 of the buffer table, which governs
replicated memory (12 R270, R271). Packets carry no buffer index, so entry 0 governs every replicated block (log 8: DEDUCED). -/
def State.replFails (s : State) (chip blk : Nat) : Bool :=
  match Table.look (s.repl chip).blockTag blk with
  | none => false
  | some t => t.2.1 = 0 || t ≠ s.bufTag chip 0

/-- A block of the replica is about to be written under the present version: where its fill fails, the bytes that are not written
are 0, and the block is logged unless all of it is written (12 R272). -/
def State.tagRepl (s : State) (chip blk : Nat) (full : Bool) : State :=
  let s := if !s.replFails chip blk then s
    else
      let t := s.modRepl chip fun r => { r with replica := Memory.writeBytes r.replica (64 * blk) (List.replicate 64 0) }
      if full then t else t.note chip 0x272 [64 * blk]
  s.modRepl chip fun r => { r with blockTag := Table.put r.blockTag blk (s.bufTag chip 0) }

/-! ### Weak updates (10 R210) -/

/-- The sequence number at which a chip wraps (10 R223). -/
def seqLimit : Nat := 0xFFF00

/-- The chip may create an update or a grant now (10 R221, R223, R226). -/
def Repl.canCreate (r : Repl) : Bool :=
  (r.vst = .normal) && !r.out && decide (r.own < seqLimit) && decide (r.retained.length < 65536)

/-- A packet that a chip sends is retained until every other member's ACK covers it: not at all where there is none (10 R221). -/
def Repl.retain (r : Repl) (chip : Nat) (p : Packet) : List Packet :=
  if r.members.all fun m => m = chip then r.retained else r.retained ++ [p]

/-- The sectors of some cells of the replicated segment. -/
def sectorsOf (cs : Bytes) : List Nat := (cs.map fun c => c.1 / 32).eraseDups

/-- A replicated write is accepted by its chip's unit: applied to its own replica, numbered, and sent (10 R210, R214).
The cells lie in one 64-byte block; those that no store changes are left out. -/
def State.acceptUpdate (s : State) (chip : Nat) (cs : Bytes) (sig : Option (BitVec 512)) (tag : Option (List Nat)) :
    State :=
  match cs.filter fun c => !s.fixedByte chip c.1 with
  | [] => s
  | c0 :: rest =>
    let cs := c0 :: rest
    let blk := c0.1 / 64
    let ks := sectorsOf cs
    let s := s.tagRepl chip blk ((cs.map fun c => c.1).eraseDups.length = 64)
    let r := s.repl chip
    let sclk := (r.laterOf ks + 1) % 2 ^ 28
    let r1 := { r with replica := Memory.writeCells r.replica cs }
    let imgs : Table (BitVec 256) := ks.foldl (fun t k => Table.put t k (r1.image k)) []
    let r2 := { r1 with
      tags := ks.foldl (fun t k => Table.put t k (mkTag false chip sclk)) r1.tags
      own := r.own + 1, applied := vecSet r.applied chip (r.own + 1) }
    let p : Packet :=
      { kind := 0, rank := chip, view := r.view, sclk, blk
        mask := BitVec.ofNat 64 (cs.foldl (fun m c => m ||| 2 ^ (c.1 % 64)) 0)
        vec := r2.applied, sig, tag, images := imgs, slot := 0, rq := 0, irank := 0, opc := 0, ty := .i32, old := 0
        wraps := [], arrived := (s.chip chip).clk, gen := vecAt r.wrapsApplied chip }
    let s := s.modRepl chip fun _ => { r2 with retained := r.retain chip p }
    let s := s.replSig chip ks sig tag
    let s := { s.fireRepl chip blk with written := Table.put s.written (2 ^ 50 + blk) s.serial }
    let s := s.sendAll chip (.packet p)
    if r.own + 1 = seqLimit then s.postOnce (.counterWrap chip) else s

/-! ### The hold rule (10 R211, R223) -/

/-- Epoch of a dependency entry of another rank: 0 older, 1 current, 2 newer (10 R223). -/
def Repl.epochOf (r : Repl) (p : Packet) (j : Nat) : Nat :=
  let theirs := vecAt p.wraps j
  let mine := vecAt r.wrapsApplied j
  if theirs % 2 = mine % 2 then 1 else if mine < theirs then 2 else 0

/-- A packet may be applied (10 R211). -/
def Repl.ready (r : Repl) (p : Packet) : Bool :=
  vecAt r.applied p.rank + 1 = vecAt p.vec p.rank &&
  (List.range 8).all fun j =>
    j = p.rank || match r.epochOf p j with
      | 0 => true
      | 2 => false
      | _ => decide (vecAt p.vec j ≤ vecAt r.applied j)

/-- WRAPACKs for every rank received from a sender so far. -/
def Repl.wrapsFrom (r : Repl) (src : Nat) : List Nat :=
  (List.range 8).map fun k => Table.at r.wrapacks (8 * src + k) 0

/-! ### Removal of translations (12 R262) -/

/-- A canonical virtual address (12 R251). -/
def canonical (va : DWord) : Bool :=
  if va.getLsbD 54 then va.extractLsb' 55 9 = BitVec.allOnes 9 else va.extractLsb' 55 9 = 0

/-- VA[54:16], the virtual page of an address. -/
def vpnOf (va : DWord) : Nat := (va.extractLsb' 16 39).toNat

/-- A TLB entry covers a virtual page: its group, and its bit of the mask (12 R256). -/
def TlbEnt.has (e : TlbEnt) (vpn : Nat) : Bool := e.group = vpn / 32 && e.mask.getLsbD (vpn % 32)

/-- G of the leaves of an entry: its translations are of every ASID. -/
def TlbEnt.glob (e : TlbEnt) : Bool := e.leaf.getLsbD 6

/-- An entry without a page; none where it was the last. -/
def TlbEnt.without (e : TlbEnt) (vpn : Nat) : Option TlbEnt :=
  if e.group ≠ vpn / 32 then some e
  else
    let m := e.mask &&& ~~~((1#32) <<< (vpn % 32))
    if m = 0 then none else some { e with mask := m }

/-- What a TLBI removes: 0 one page of an address space, 1 an address space, 2 everything, 3 nothing. -/
structure TlbiWhat where
  kind : Nat
  vpn : Nat
  asid : Nat
  deriving DecidableEq, Repr

/-- A TLB entry translates a page that a removal covers; G matches every ASID (12 R256, R262). -/
def TlbiWhat.hits (w : TlbiWhat) (e : TlbEnt) : Bool :=
  match w.kind with
  | 0 => e.has w.vpn && (e.asid = w.asid || e.glob)
  | 1 => e.asid = w.asid && !e.glob
  | 2 => true
  | _ => false

/-- What a removal leaves of a TLB entry (12 R262). -/
def TlbiWhat.leaves (w : TlbiWhat) (e : TlbEnt) : Option TlbEnt :=
  if !w.hits e then some e else if w.kind = 0 then e.without w.vpn else none

/-- A walk-cache entry that a removal covers: one on the page's path, of the address space, any. -/
def TlbiWhat.hitsWalk (w : TlbiWhat) (e : WalkEnt) : Bool :=
  match w.kind with
  | 0 => e.asid = w.asid && e.vbits = (if e.level = 1 then w.vpn / 2 ^ 26 else w.vpn / 2 ^ 13)
  | 1 => e.asid = w.asid
  | 2 => true
  | _ => false

/-- A virtual page of an address space that a removal covers; `glob` says which pages are global. -/
def TlbiWhat.covers (w : TlbiWhat) (glob : Nat → Bool) (vpn asid : Nat) : Bool :=
  match w.kind with
  | 0 => w.vpn = vpn && (w.asid = asid || glob vpn)
  | 1 => w.asid = asid && !glob vpn
  | 2 => true
  | _ => false

/-- Removes translations in one cluster (12 R262): TLB, walk cache, L1 lines; windows on the pages refetch; waves with
held stores translated with a removed entry are to abort their region (12 R266). -/
def State.tlbiCluster (s : State) (k : Nat) (w : TlbiWhat) : State :=
  let c := s.cluster k
  let glob : Nat → Bool := fun v => c.tlb.any fun e => e.has v && e.glob
  let s := s.modCluster k fun c => { c with tlb := c.tlb.filterMap w.leaves
                                            walks := c.walks.filter fun e => !w.hitsWalk e }
  let cores := ((List.range 16).map fun i => 16 * k + i).filter fun i => (Table.look s.cores i).isSome
  cores.foldl (fun s i =>
    let co := s.core i
    let s := s.modCore i fun co => { co with l1 := co.l1.filter fun l => !w.covers glob (l.vline / 512) l.asid }
    let s := co.segs.foldl (fun s e =>
      if w.covers glob (vpnOf e.2.va) e.2.asid then s.unmapSeg i e.1 else s) s
    co.wq.foldl (fun s e =>
      if e.2.held && e.2.vpns.any (fun v => w.covers glob v e.2.asid) then
        s.modWave e.2.wave fun x => { x with invAbort := true } else s) s) s

/-- Removes translations in the four clusters of a chip. -/
def State.tlbiChip (s : State) (chip : Nat) (w : TlbiWhat) : State :=
  let s := (List.range 4).foldl (fun s i => s.tlbiCluster (4 * chip + i) w) s
  { s with epoch := s.epoch + 1 }

/-- A chip has performed the removal of a grant (12 R266): the grant, with the count of removals then. -/
def State.markRemoval (s : State) (chip rank num : Nat) : State :=
  let g := (rank, num, vecAt (s.repl chip).wrapsApplied rank)
  let n := s.epoch
  s.modChip chip fun c => { c with removed := c.removed ++ [(g.1, g.2.1, g.2.2, n)] }

/-- A removal as the operands of a request (12 R262): va in OPA[63:0], the ASID in OPA[79:64]; the kind in OPB. A non-canonical va
removes nothing (22 R495). -/
def tlbiOf (opa opb : Quad) : TlbiWhat :=
  { kind := if opb.toNat % 4 = 0 && !canonical (opa.extractLsb' 0 64) then 3 else opb.toNat % 4, vpn := vpnOf (opa.extractLsb' 0 64), asid := (opa.extractLsb' 64 16).toNat }

/-! ### Strong requests (10 R215 to R219) -/

/-- Bytes a request reads or writes: by TY for `SATOM`, `SST`, `SLD`, 8 for a page-table store, none for `TLBI`. -/
def reqBytes (opc : Nat) (ty : Ty) : Nat :=
  if opc = 10 then 8 else if opc = 11 then 0 else ty.bits / 8

/-- The signed value of `8w` bits. -/
def signedOf (w x : Nat) : Int := if x < 2 ^ (8 * w - 1) then (x : Int) else (x : Int) - 2 ^ (8 * w)

/-- Compares at a type: signed or natural. -/
def lessAt (signed : Bool) (w a b : Nat) : Bool :=
  if signed then decide (signedOf w a < signedOf w b) else decide (a < b)

/-- The new value of a strong operation of width `w` bytes, none where it writes nothing (10 R219). -/
def strongNew (opc : Nat) (signed : Bool) (w old a b : Nat) : Option Nat :=
  match opc with
  | 0 => some ((old + a) % 2 ^ (8 * w))
  | 1 => some (if lessAt signed w a old then a else old)
  | 2 => some (if lessAt signed w old a then a else old)
  | 3 => some (old &&& a)
  | 4 => some (old ||| a)
  | 5 => some (old ^^^ a)
  | 6 | 8 | 10 => some a
  | 7 => if old = a then some b else none
  | _ => none

/-- The value read, the sector images written and their clock for a request at a replica (10 R214, R219), `fixed` bytes left alone. -/
def Repl.perform (r : Repl) (fixed : Nat → Bool) (q : Req) : Nat × Nat × Table (BitVec 256) :=
  let w := reqBytes q.opc q.ty
  let old := if q.opc = 11 then 0 else Memory.readLe r.replica q.off w
  match strongNew q.opc q.ty.signed w old (q.opa.toNat % 2 ^ (8 * w)) (q.opb.toNat % 2 ^ (8 * w)) with
  | none => (old, 0, [])
  | some v => match ((bytesOfNat w v).zipIdx.map fun b => (q.off + b.2, b.1)).filter fun c => !fixed c.1 with
    | [] => (old, 0, [])
    | c :: cs =>
      let k := q.off / 32
      let r1 := { r with replica := Memory.writeCells r.replica (c :: cs) }
      (old, (r.laterOf [k] + 2 ^ 22) % 2 ^ 28, [(k, r1.image k)])

/-- A request of software performed at a chip's replica. -/
def State.perform (s : State) (chip : Nat) (q : Req) : Nat × Nat × Table (BitVec 256) :=
  (s.repl chip).perform (s.fixedByte chip) q

/-- Lane results of a load record. -/
def Wave.putLane (x : Wave) (ld lane : Nat) (bs : List Byte) : Wave :=
  { x with loads := Table.modify x.loads ld fun l =>
      { l with lanes := l.lanes.map fun e => if e.lane = lane then { e with src := bs.map ByteSrc.val } else e } }

/-- The value of a lane of a strong result arrives: the lane's destination receives it and is full (10 R219). -/
def Wave.fillLane (x : Wave) (ld lane : Nat) (v : LoadFmt → Quad) : Wave :=
  match Table.look x.loads ld with
  | none => x
  | some l =>
    let y := x.mapLanes [lane] fun _ t => t.deliver l.d l.fmt.regs (v l.fmt)
    { y with loads := Table.modify y.loads ld fun l => { l with lanes := l.lanes.filter fun e => e.lane ≠ lane } }

/-- A latency sample of a health monitor source (16 R351). -/
def Hcap.sample (h : Hcap) (v : Nat) : Hcap :=
  let v := Nat.min v (2 ^ 32 - 1)
  let sh := (h.cfg.extractLsb' 5 5).toNat
  let b := Nat.min 31 (v / 2 ^ sh)
  let inc (w : Word) : Word := if w = BitVec.allOnes 32 then w else w + 1
  { h with min := if v < h.min.toNat then BitVec.ofNat 32 v else h.min
           max := if h.max.toNat < v then BitVec.ofNat 32 v else h.max
           count := inc h.count
           bins := Table.put h.bins b (inc (Table.at h.bins b 0)) }

/-- Samples every monitor of a core whose source is `src`. -/
def State.sample (s : State) (core src v : Nat) : State :=
  let c := s.core core
  if c.hcap.any (fun e => (e.2.cfg.extractLsb' 0 5).toNat = src) then
    s.setCore core { c with hcap := c.hcap.mapVals fun _ h =>
      if (h.cfg.extractLsb' 0 5).toNat = src then h.sample v else h }
  else s

/-- Released replicated entries of a chip's write queues try again to be accepted: its unit may create updates again, or
a strong instruction they follow has completed (10 R216, R223, R226). -/
def State.retryRepl (s : State) (chip : Nat) : State :=
  s.cores.foldl (fun s c =>
    if chipOfCore c.1 ≠ chip then s
    else c.2.wq.foldl (fun s e => if e.2.repl && !e.2.held then s.postOnce (.wqEntryPerform c.1 e.1) else s) s) s

/-! ### Signatures that reads receive (09 R190, R192; 16 R349) -/

/-- Chip, cluster, quad, core, workgroup and gang of a wave, as a scope tag names them (16 R349). -/
def State.tagOf (s : State) (w : Nat) : List Nat :=
  match s.wave? w with
  | none => []
  | some x => match s.wg? x.wg with
    | none => []
    | some g => [chipOfCore g.core, clusterOfCore g.core, quadOfCore g.core, g.core, x.wg, g.gang]

/-- One agent lies in the other's scope instance (09 Table 9.2), as far as a tag tells: thread, wave and workgroup scope
by the workgroup. -/
def scopeHolds (sc : Nat) (a b : List Nat) : Bool :=
  if sc ≤ 2 then a.getD 4 0 = b.getD 4 0
  else if sc = 3 then a.getD 5 0 = b.getD 5 0
  else if sc = 4 then a.getD 0 0 = b.getD 0 0
  else true

/-- The check of 09 R188 in both directions between a tag, its scope code first, and an acquirer. -/
def tagHolds (sc : Nat) (tag mine : List Nat) : Bool :=
  scopeHolds sc tag.tail mine && scopeHolds (tag.headD 6) tag.tail mine

/-- A read of a wave's load at a synchronising block receives its record: the signature for the acquire, and for a later
acquire fence (09 R190, R192, R197); the scope checker compares the tag. -/
def State.receiveRec (s : State) (w ld : Nat) (rec : BitVec 512 × Option (List Nat)) (va : DWord) : State :=
  let mine := s.tagOf w
  s.modWave w fun x =>
    { x with
      acqSig := x.acqSig ||| rec.1
      acqTags := match rec.2 with
        | none => x.acqTags
        | some t => if x.acqTags.contains (t, va) then x.acqTags else x.acqTags ++ [(t, va)]
      loads := Table.modify x.loads ld fun l =>
        { l with got := l.got ||| rec.1
                 bad := match l.acq, rec.2 with
                   | some sc, some t => if tagHolds sc t mine then l.bad else some va
                   | _, _ => l.bad } }

/-- The read of a physical address receives its record, which is used by it (09 R192). -/
def State.receiveHome (s : State) (w ld pa : Nat) (va : DWord) : State :=
  (s.receiveRec w ld (s.homeRec pa) va).useRecs pa touchRec

/-- The read of a replicated sector receives its chip's record. -/
def State.receiveRepl (s : State) (w ld chip off : Nat) (va : DWord) : State :=
  (s.receiveRec w ld (s.replRec chip off) va).useReplRecs chip (touchRec (off / 32))

/-- The issuer applies a grant of its own request (10 R219): the lane's result, the host mailbox; `bad` says that the block read
failed its tag check, which is DATA_ERROR (15 R322). -/
def State.strongComplete (s : State) (chip rq : Nat) (old : Quad) (rank num : Nat) (bad : Bool) : State :=
  let r := s.repl chip
  let wraps := vecAt r.wrapsApplied rank
  match Table.look r.outstanding rq with
  | none => s
  | some f =>
    let req := r.sent.find? fun q => q.rq = rq
    let s := s.modRepl chip fun r => { r with outstanding := Table.del r.outstanding rq
                                              sent := r.sent.filter fun q => q.rq ≠ rq }
    match f with
    | .host => s.modChip chip fun c =>
        { c with sys := { c.sys with hsold := old.extractLsb' 0 64, hsstat := 2 } }
    | .lane w ld lane _ =>
      let s := match req with
        | none => s
        | some q =>
          if q.opc = 10 then s.modWave w fun x => { x with ptsts := x.ptsts ++ [(rank, num, wraps)] }
          else if q.opc = 11 then
            let t := tlbiOf q.opa q.opb
            s.modWave w fun x => { x with tlbis := x.tlbis ++
              [({ kind := t.kind, vpn := t.vpn, asid := t.asid, grant := some (rank, num, wraps), epoch := none } : TlbiRec)] }
          else s.receiveRepl w ld chip q.off 0
      match s.wave? w with
      | none => s
      | some x =>
        let s := match bad, Table.look x.loads ld with
          | true, some l => (s.raiseA w chip
              { cause := 0x1C, pc := some l.pc, addr := ((l.lanes.find? fun (e : LoadLane) => e.lane = lane).map fun (e : LoadLane) => e.va).getD 0
                lseq := none, dest := destOf l.d l.fmt.regs }).useFree
          | _, _ => s
        let x := ((s.wave? w).getD x).fillLane ld lane fun f => if bad then Config.freeValue (s.free - 1) else f.value (bytesOfNat f.bytes old.toNat)
        match x.strong with
        | none => s.setWave w x
        | some g =>
          let reqs := g.reqs.filter fun q => q ≠ rq
          let s := s.setWave w { x with strong := if reqs = [] then none else some { g with reqs } }
          let core := s.coreOf w
          let s := s.sample core 6 ((s.core core).clk - g.started)
          if reqs ≠ [] then s
          else
            let s := s.retryRepl chip
            match g.load with
            | none => s
            | some l => s.post (.loadReturn w l)

/-- The Col of the slots after one, as a member with these members sees it (10 R217). -/
def nextCol (members : List Nat) (col : Nat) : Nat :=
  match members.filter fun m => decide (col < m) with
  | m :: _ => m
  | [] => members.headD 0

/-- Sequence numbers of a chip that every other member has acknowledged (10 R221); an acknowledgement sent before its
sender applied the chip's last wrap counts for nothing (10 R223). -/
def Repl.ackedUpTo (r : Repl) (me : Nat) : Nat :=
  (r.members.filter fun m => m ≠ me).foldl (fun b m =>
    min b (if Table.at r.wrapacks (8 * m + me) 0 = vecAt r.wrapsApplied me then vecAt (r.acked.getD m []) me else 0))
    (2 ^ 20)

/-- Every member but `me` is known to have applied a packet of a rank (10 R221, R223): its number is acknowledged in the
numbering of that rank's last wrap, or the rank has wrapped since. -/
def Repl.appliedByAll (r : Repl) (me : Nat) (g : Nat × Nat × Nat) : Bool :=
  vecAt r.wrapsApplied g.1 ≠ g.2.2 ||
  r.members.all fun m =>
    m = me || m = g.1 ||
    (Table.at r.wrapacks (8 * m + g.1) 0 = vecAt r.wrapsApplied g.1 && decide (g.2.1 ≤ vecAt (r.acked.getD m []) g.1))

/-- A member is known to have applied a packet: its ACK covers it, or it has applied a later WRAP of the sender. -/
def Repl.knownApplied (r : Repl) (m : Nat) (p : Packet) : Bool :=
  let w := Table.at r.wrapacks (8 * m + p.rank) 0
  decide (p.gen < w) || (w = p.gen && decide (vecAt p.vec p.rank ≤ vecAt (r.acked.getD m []) p.rank))

/-- Frees what every member has acknowledged (10 R221). -/
def Repl.freeAcked (r : Repl) (me : Nat) : Repl :=
  { r with retained := r.retained.filter (fun p => !((r.members.filter fun m => m ≠ me).all fun m => r.knownApplied m p))
           recent := r.recent.filter fun p =>
             !((r.members.filter fun m => m ≠ p.rank && m ≠ me).all fun m => r.knownApplied m p)
           grants24 := (r.grants24.mapVals fun _ l => l.filter fun g => r.members.contains g.1 && !r.appliedByAll me g).filter fun e => e.2 ≠ [] }

/-- A member sends an ACK to every member (10 R221). -/
def State.sendAck (s : State) (chip : Nat) : State :=
  let s := s.sendAll chip (.ack (s.repl chip).applied)
  s.modRepl chip fun r => { r with ackCount := 0, ackClock := 0, acked := r.acked.set chip r.applied }

/-- A pending request's vector once a member has applied a WRAP of rank `j`: its entry of the old numbering is covered,
one of the new numbering (kept 2^20 higher until then) counts from now on (10 R223). -/
def Req.afterWrap (q : Req) (j : Nat) : Req :=
  { q with vec := vecSet q.vec j (if 2 ^ 20 ≤ vecAt q.vec j then vecAt q.vec j - 2 ^ 20 else 0) }

/-- A request's vector read in the numbering of the member it reaches (10 R223). -/
def Repl.readVec (r : Repl) (src : Nat) (v : List Nat) : List Nat :=
  (List.range 8).map fun j =>
    let theirs := Table.at r.wrapacks (8 * src + j) 0
    let mine := vecAt r.wrapsApplied j
    if j = src || theirs % 2 = mine % 2 then vecAt v j
    else if mine < theirs then vecAt v j + 2 ^ 20 else 0

/-- A member that has received every other member's WRAPACKs of a rank's WRAPs tells that rank (10 R223), in a message that Table 10.5
does not list (log 25: DESIGN CHOICE). -/
def State.tellWraps (s : State) (c rank : Nat) : State :=
  let r := s.repl c
  let n := vecAt r.wrapsApplied rank
  if c ≠ rank && n ≠ 0 && r.members.contains c && (r.members.filter fun m => m ≠ c).all (fun m =>
      m = rank || decide (n ≤ Table.at r.wrapacks (8 * m + rank) 0)) then s.send c rank (.wrapackSeen (s.ctlVec c) n)
  else s

/-- A grant whose OPC is 12 or above: descriptor and images are discarded (10 R219). -/
def Packet.unknown (p : Packet) : Bool := p.kind = 1 && decide (12 ≤ p.opc)

/-- A writing grant is noted against its sector until every member has acknowledged it, whichever Col sent it (10 R218): sender,
sequence number, WRAPs of the sender before it. -/
def Repl.noteGrant (r : Repl) (p : Packet) : Table (List (Nat × Nat × Nat)) :=
  p.images.foldl (fun t e => Table.put t e.1 (Table.at t e.1 [] ++ [(p.rank, vecAt p.vec p.rank, vecAt r.wrapsApplied p.rank)])) r.grants24

/-- Applies a packet at a replica (10 R211, R213, R219, R223): a chip's own grant, or a packet from the hold store. -/
def State.applyPacket (s : State) (chip : Nat) (p : Packet) : State :=
  let s := if p.unknown then s.note chip 0x219 [p.slot] else s
  let p := if p.unknown then { p with kind := 0, images := [] } else p
  let bad := s.replFails chip p.blk
  let s := if p.images = [] then s else s.tagRepl chip p.blk (decide (2 ≤ p.images.length))
  let s := s.modRepl chip fun r =>
    let r := r.installAll p.sclk p.rank (p.kind = 1) p.images
    { r with applied := vecSet r.applied p.rank (if p.kind = 2 then 0 else vecAt p.vec p.rank)
             wrapsApplied := if p.kind = 2 then vecSet r.wrapsApplied p.rank (vecAt r.wrapsApplied p.rank + 1)
               else r.wrapsApplied
             grants24 := if p.kind = 1 && p.images ≠ [] then r.noteGrant p else r.grants24
             pending := if p.kind = 2 then r.pending.map fun q => q.afterWrap p.rank else r.pending
             recent := if p.rank = chip then r.recent else r.recent ++ [p] }
  let member := (s.repl chip).members.contains chip
  let s := if p.kind = 2 && member then (s.sendAll chip (.wrapack (s.ctlVec chip) p.rank)).tellWraps chip p.rank else s
  let s := if p.images = [] then s else (s.fireRepl chip p.blk).replSig chip (p.images.map fun e => e.1) p.sig p.tag
  let s := if p.images = [] then s else { s with written := Table.put s.written (2 ^ 50 + p.blk) s.serial }
  let s :=
    if p.kind ≠ 1 then s
    else
      let q := (s.repl chip).pending.find? fun q => q.rank = p.irank && q.rq = p.rq
      let s := s.modRepl chip fun r =>
        { r with nextSlot := p.slot + 1, lastSlot := some p.slot
                 col := if (p.slot + 1) % 256 = 0 then nextCol r.members r.col else r.col
                 pending := r.pending.filter fun q => !(q.rank = p.irank && q.rq = p.rq)
                 granted := Table.put r.granted p.irank p.rq }
      let s := match p.opc, q with
        | 11, some q => (s.tlbiChip chip (tlbiOf q.opa q.opb)).markRemoval chip p.rank (vecAt p.vec p.rank)
        | _, _ => s
      let s := if p.irank = chip then s.strongComplete chip p.rq p.old p.rank (vecAt p.vec p.rank) bad else s
      if (s.repl chip).col = chip then s.postOnce (.colGrant chip) else s
  if p.rank = chip || !member then s
  else
    let s := s.modRepl chip fun r => { r with ackCount := r.ackCount + 1 }
    if 64 ≤ (s.repl chip).ackCount then s.sendAck chip else s

/-! ### Sending and granting -/

/-- A chip sends a request of its own to every member and keeps it pending (10 R216). -/
def State.sendReq (s : State) (chip : Nat) (q : Req) (f : ReqFor) : State :=
  let r := s.repl chip
  let q := { q with rank := chip, rq := r.rqcnt, vec := r.applied }
  let s := s.modRepl chip fun r =>
    { r with rqcnt := (r.rqcnt + 1) % 2 ^ 32, pending := r.pending ++ [q], sent := r.sent ++ [q]
             outstanding := Table.put r.outstanding q.rq f }
  let s := s.sendAll chip (.req q)
  s.postOnce (.colGrant chip)

/-- A request may be granted at the Col (10 R218): its vector is covered, it is the first of its issuer, it is new
(10 R229), and fewer than 24 writing grants to its sector lack an acknowledgement. -/
def Repl.grantable (r : Repl) (fixed : Nat → Bool) (q : Req) : Bool :=
  ((List.range 8).all fun j => decide (vecAt q.vec j ≤ vecAt r.applied j)) &&
  (r.pending.all fun p => p.rank ≠ q.rank || p.rq = q.rq || decide ((p.rq + 2 ^ 32 - q.rq) % 2 ^ 32 < 2 ^ 31)) &&
  ((r.perform fixed q).2.2 = [] ||
    (decide ((Table.at r.grants24 (q.off / 32) []).length < 24) && !r.hostHeld.contains (q.off / 64)))

/-- A pending request whose identifier was granted before (10 R229). -/
def Repl.duplicate (r : Repl) (q : Req) : Bool :=
  match Table.look r.granted q.rank with
  | none => false
  | some h => let d := (q.rq + 2 ^ 32 - h) % 2 ^ 32
    d = 0 || decide (2 ^ 31 ≤ d)

/-- The Col grants a request the next slot (10 R218, R219). -/
def State.grant (s : State) (col : Nat) (q : Req) : State :=
  let s := if (s.perform col q).2.2 = [] || q.rank = col then s else s.tagRepl col (q.off / 64) false
  let r := s.repl col
  let (old, sclk, imgs) := s.perform col q
  let w := reqBytes q.opc q.ty
  let r1 := { r with own := r.own + 1, applied := vecSet r.applied col (r.own + 1) }
  let p : Packet :=
    { kind := 1, rank := col, view := r.view, sclk, blk := q.off / 64
      mask := BitVec.ofNat 64 ((2 ^ w - 1) * 2 ^ (q.off % 64)), vec := r1.applied, sig := q.sig, tag := q.tag
      images := imgs, slot := r.nextSlot, rq := q.rq, irank := q.rank, opc := q.opc, ty := q.ty
      old := BitVec.ofNat 128 old, wraps := [], arrived := (s.chip col).clk, gen := vecAt r.wrapsApplied col }
  let s := s.modRepl col fun _ => { r1 with retained := r.retain col p }
  let s := s.applyPacket col p
  let s := s.sendAll col (.packet p)
  if r.own + 1 = seqLimit then s.postOnce (.counterWrap col) else s

/-! ### Arrival -/

/-- View number `a` is newer than `b` (10 R208). -/
def viewNewer (a b : Nat) : Bool :=
  let d := (a + 256 - b) % 256
  decide (1 ≤ d) && decide (d ≤ 127)

/-- A member sends PROPOSE with a view number and the members its links reach (10 Table 10.6, R520): `excl` leaves itself
out (R225), `shun` are chips found unresponsive (R226), `join` chips to be admitted (R231). -/
def State.propose (s : State) (c view : Nat) (excl : Bool) (shun join : List Nat) : State :=
  let r := s.repl c
  let peers := (List.range 8).filter fun d => d ≠ c && s.chipExists d && (r.members.contains d || join.contains d)
  let mine := (List.range 8).filter fun d =>
    if d = c then !excl else peers.contains d && s.linkUp c d && !shun.contains d
  let s := s.modRepl c fun r =>
    { r with vst := .propose, proposedView := view, proposals := Table.put [] c mine, agreed := [], states := []
             installing := none, shunned := shun, joining := join, phaseClock := 0 }
  (peers.foldl (fun s d => s.send c d (.propose (s.ctlVec c) view mine)) s).postOnce (.viewPhaseTimeout c)

/-- A member starts a view change, or starts the one under way again with the next number (10 R222, R225, R226). -/
def State.startChange (s : State) (c : Nat) (excl : Bool) (shun : List Nat) : State :=
  let r := s.repl c
  match r.vst with
  | .out | .listener => s
  | .normal => s.propose c ((r.view + 1) % 256) excl shun []
  | _ =>
    let out := Table.at r.proposals c [c]
    s.propose c ((r.proposedView + 1) % 256) (excl || !out.contains c) (r.shunned ++ shun) r.joining

/-- A data packet arrives (10 R208, R211, R224): discarded when its view is older, kept apart when newer, else held. One that finds the
hold store full starts a change that leaves the chip out, and with it all that it holds (10 R225). -/
def State.arrive (s : State) (dst : Nat) (p : Packet) : State :=
  let r := s.repl dst
  let p := { p with
    wraps := r.wrapsFrom p.rank, arrived := (s.chip dst).clk
    gen := vecAt r.wrapsApplied p.rank + (r.hold.filter fun q => q.rank = p.rank && q.kind = 2).length }
  if r.vst = .out then s
  else if r.vst = .listener then
    if 65536 ≤ r.hold.length then
      (s.modRepl dst fun r => { r with vst := .out, hold := [], listenS0 := [], donorDone := false }).note dst 0x231 [dst]
    else (s.modRepl dst fun r => { r with hold := r.hold ++ [p] }).postOnce (.packetApply dst)
  else if !viewNewer p.view r.view && p.view ≠ r.view then s
  else if 65536 ≤ r.backlog then
    if r.vst = .normal || (Table.at r.proposals dst []).contains dst then s.startChange dst true [] else s
  else
    let s := if viewNewer p.view r.view then s.modRepl dst fun r => { r with newer := r.newer ++ [p] }
      else s.modRepl dst fun r => { r with hold := r.hold ++ [p] }
    let r := s.repl dst
    let s := if r.lagwarn < r.backlog && !r.lagRaised then
        (s.modRepl dst fun r => { r with lagRaised := true }).replEvent dst 1 dst
      else s
    let s := if r.lagmax < r.backlog && r.vst = .normal then s.startChange dst true [] else s
    s.postOnce (.packetApply dst)

/-- A packet that writes a block which the host holds: the port's chip sends BISnpInv first (17 R356). -/
def Repl.hostBlocks (r : Repl) (p : Packet) : Bool := p.images ≠ [] && r.hostHeld.contains p.blk

/-- Ready packets of the hold store, in order of arrival, that the host does not hold up. -/
def Repl.readyPackets (r : Repl) : List Packet := r.hold.filter fun p => r.ready p && !r.hostBlocks p

/-- The first of them that the logs of the chip's regions let be applied (16 R339, R340). -/
def State.firstReady (s : State) (chip : Nat) : Option Packet :=
  (s.repl chip).readyPackets.find? fun p => s.packetStops chip p.rank (vecAt p.vec p.rank) = []

/-- Takes a packet from the hold store and applies it; the lag event re-arms below LAGWARN/2 (10 R224). -/
def State.applyHeld (s : State) (chip : Nat) (p : Packet) : State :=
  let s := s.packetLog chip p.rank (vecAt p.vec p.rank)
  let s := s.modRepl chip fun r => { r with hold := r.hold.erase p }
  let s := s.modRepl chip fun r =>
    { r with lagRaised := r.lagRaised && decide (r.lagwarn ≤ 2 * r.backlog) }
  s.applyPacket chip p

/-- A request arrives and is kept pending (10 R216); one already granted is discarded (10 R229). -/
def State.arriveReq (s : State) (dst : Nat) (q : Req) : State :=
  let r := s.repl dst
  if r.duplicate q || r.pending.any (fun p => p.rank = q.rank && p.rq = q.rq) || r.vst = .out || r.vst = .listener then s
  else
    let s := s.modRepl dst fun r => { r with pending := r.pending ++ [{ q with vec := r.readVec q.rank q.vec }] }
    if r.col = dst then s.postOnce (.colGrant dst) else s

/-- An ACK arrives (10 R221). -/
def State.arriveAck (s : State) (src dst : Nat) (v : List Nat) : State :=
  let full := !(s.repl dst).canCreate
  let s := s.modRepl dst fun r => { r with acked := r.acked.set src v }
  let s := s.modRepl dst fun r => r.freeAcked dst
  let s := if full && (s.repl dst).canCreate then s.retryRepl dst else s
  let s := if (s.repl dst).col = dst then s.postOnce (.colGrant dst) else s
  let s := if seqLimit ≤ (s.repl dst).own then s.postOnce (.counterWrap dst) else s
  if (s.chip dst).draining then s.postOnce (.warmDrainComplete dst) else s

/-- A WRAPACK arrives and is counted (10 R223). -/
def State.arriveWrapack (s : State) (src dst rank : Nat) : State :=
  let k := 8 * src + rank
  let s := s.modRepl dst fun r => { r with wrapacks := Table.put r.wrapacks k (Table.at r.wrapacks k 0 + 1) }
  (s.modRepl dst fun r => r.freeAcked dst).tellWraps dst rank

/-- A member reports that it has received every WRAPACK of a chip's last wrap. -/
def State.arriveSeen (s : State) (src dst n : Nat) : State :=
  let r := s.repl dst
  if n ≠ vecAt r.wrapsApplied dst || r.wrapackSeen.contains src then s
  else
    let s := s.modRepl dst fun r => { r with wrapackSeen := r.wrapackSeen ++ [src] }
    if seqLimit ≤ r.own then s.postOnce (.counterWrap dst) else s

/-! ### A strong operation that the spec puts inside one step -/

/-- Messages that carry a view change or a rejoin. -/
def Msg.ofView : Msg → Bool
  | .propose _ _ _ => true
  | .state _ => true
  | .install _ _ => true
  | .join _ => true
  | .listen _ _ => true
  | _ => false

/-- Delivers one message that is no part of a view change. -/
def State.deliverMsg (s : State) (src dst : Nat) (m : Msg) : State :=
  let s := s.takeMsg src dst
  match m with
  | .packet p => s.arrive dst p
  | .req q => s.arriveReq dst q
  | .ack v => s.arriveAck src dst v
  | .wrapack _ k => s.arriveWrapack src dst k
  | .wrapackSeen _ n => s.arriveSeen src dst n
  | _ => s

/-- Delivers what is in flight on the links and applies what is ready, until nothing is left or the fuel is gone. -/
def flushLinks (fuel : Nat) (s : State) : State :=
  match fuel with
  | 0 => s
  | n + 1 =>
    match (List.range 64).find? fun k => match s.headMsg (k / 8) (k % 8) with
        | none => false
        | some m => !m.ofView with
    | some k => match s.headMsg (k / 8) (k % 8) with
      | none => s
      | some m => flushLinks n (s.deliverMsg (k / 8) (k % 8) m)
    | none =>
      match (List.range 8).find? fun c => s.chipExists c && (s.firstReady c).isSome with
      | none => s
      | some c => match s.firstReady c with
        | none => s
        | some p => flushLinks n (s.applyHeld c p)

/-- Messages in flight and packets held, in all. -/
def State.inFlight (s : State) : Nat :=
  s.links.foldl (fun n e => n + e.2.length) 0 +
    (List.range 8).foldl (fun n c => n + (s.repl c).hold.length) 0

/-- Delivers everything in flight. -/
def State.flush (s : State) : State := if s.inFlight = 0 then s else flushLinks (40 * s.inFlight + 200) s

/-- Chips in the view of a chip. -/
def State.viewOf (s : State) (chip : Nat) : List Nat := (s.repl chip).members

/-- A strong operation can be performed at once at every member: no view change is under way, nothing is in flight, no
count is about to wrap, and the members' logs let its grant be applied (16 R339, R340). -/
def State.strongOpen (s : State) (chip : Nat) : Bool :=
  let r := s.repl chip
  r.members.contains chip && !r.out &&
  r.members.all (fun m =>
    let x := s.repl m
    x.vst = .normal && x.view = r.view && x.hold = [] && x.applied = r.applied && decide (x.own < seqLimit) &&
    (m = r.col || s.packetStops m r.col ((s.repl r.col).own + 1) = [])) &&
  s.inFlight = 0

/-- Performs a strong operation at every member in the next slot, as its request, grant and applications would
(10 R216 to R219); the answer is the value read. Of use only where `strongOpen` holds (log 10: DEDUCED). -/
def State.strongApply (s : State) (chip opc : Nat) (ty : Ty) (off : Nat) (opa opb : Quad) : Nat × State :=
  let col := (s.repl chip).col
  let r := s.repl col
  let q : Req := { rank := chip, rq := (s.repl chip).rqcnt, vec := r.applied, opc, ty, ord := 0, sc := 5, off, opa, opb, sig := none, tag := none }
  let (old, sclk, imgs) := r.perform (fun _ => false) q
  let s := s.modRepl chip fun r => { r with rqcnt := (r.rqcnt + 1) % 2 ^ 32 }
  let s := s.modRepl col fun r => { r with own := r.own + 1 }
  let s := (s.repl chip).members.foldl (fun s m =>
    let s := if m = col then s else s.packetLog m col (r.own + 1)
    let s := if imgs = [] then s else s.tagRepl m (off / 64) false
    let s := s.modRepl m fun x =>
      { x.installAll sclk col true imgs with
        applied := vecSet x.applied col (vecAt x.applied col + 1)
        nextSlot := r.nextSlot + 1, lastSlot := some r.nextSlot
        granted := Table.put x.granted chip q.rq
        col := if (r.nextSlot + 1) % 256 = 0 then nextCol x.members col else x.col
        acked := List.replicate 8 (vecSet x.applied col (vecAt x.applied col + 1)) }
    let s := if imgs = [] then s else s.fireRepl m (off / 64)
    if opc = 11 then s.tlbiChip m (tlbiOf opa opb) else s) s
  let s := if imgs = [] then s else { s with written := Table.put s.written (2 ^ 50 + off / 64) s.serial }
  (old, if r.own + 1 = seqLimit then s.postOnce (.counterWrap col) else s)

/-- A strong operation performed at once after everything in flight has been delivered; none while a view change or a
wrap holds it up. -/
def State.strongNow (s : State) (chip opc : Nat) (ty : Ty) (off : Nat) (opa opb : Quad) : Option (Nat × State) :=
  let s := s.flush
  if s.strongOpen chip then some (s.strongApply chip opc ty off opa opb) else none

/-- A strong compare-and-swap of 8 bytes (10 R219, OPC 7). -/
def State.strongCas (s : State) (chip off expect new : Nat) : Option (Nat × State) :=
  s.strongNow chip 7 .n64 off (BitVec.ofNat 128 expect) (BitVec.ofNat 128 new)

/-- A strong store of a type's width (OPC 8). -/
def State.strongStore (s : State) (chip : Nat) (ty : Ty) (off x : Nat) : Option State :=
  (s.strongNow chip 8 ty off (BitVec.ofNat 128 x) 0).map fun e => e.2

/-- A strong add (OPC 0). -/
def State.strongAdd (s : State) (chip : Nat) (ty : Ty) (off x : Nat) : Option (Nat × State) :=
  s.strongNow chip 0 ty off (BitVec.ofNat 128 x) 0

end Sys2Proof.Machine
end

