-- ==== Sys2Proof/Machine/Translate.lean ====
section
/-! DEFINITION. Translation of virtual addresses: the walk, the checks of a leaf, the TLB and the walk cache, A and D
updates (12 R251 to R258, R264, R265; 08 R161 to R165). -/

namespace Sys2Proof.Machine

/-- What an access does to the page it names (12 Table 12.3); `share` and `own` are the bindings of a window in S and in O mode, which
write nothing yet. -/
inductive Access where
  | read | write | atomic | fetch | share | own
  deriving DecidableEq, Repr

/-- Who translates: the core whose cluster walks, the address space, its root and its privilege; `hold` says that no walk may be
made yet, for the wave has a read outstanding which comes first (12 R264). -/
structure XCtx where
  core : Nat
  asid : Nat
  ptroot : DWord
  priv : Bool
  hold : Bool := false
  deriving DecidableEq, Repr

/-- The answer of a translation: a leaf and the physical address, or why there is none. -/
inductive Xlate where
  | ok (leaf : DWord) (pa : Nat)
  | translation
  | protection
  | moving
  | wait
  deriving DecidableEq, Repr

/-- Fields of a leaf (12 Table 12.2). -/
def leafSeg (e : DWord) : Nat := (e.extractLsb' 13 3).toNat
def leafBuf (e : DWord) : Nat := (e.extractLsb' 48 16).toNat
def leafPage (e : DWord) : Nat := (e.extractLsb' 16 32).toNat * 2 ^ 16
def leafPa (e : DWord) (va : DWord) : Nat := leafPage e + (va.extractLsb' 0 16).toNat

/-- Bytes of the replicated segment as a chip sees it (10 R235). -/
def State.replSize (s : State) (chip : Nat) : Nat := (s.repl chip).rsegsz * 2 ^ 30

/-- First offset of reserved stack memory (10 R235). -/
def State.stackLimit (s : State) (chip : Nat) : Nat := (62 - (s.repl chip).rsegsz) * 2 ^ 30

/-- A physical address has the form of 08 R162 for a private or homed page, on a stack whose chip exists, outside
reserved stack memory. -/
def State.homedForm (s : State) (chip pa : Nat) : Bool :=
  decide (pa < 2 ^ 41) && s.chipExists (chipOfStack (stackOf pa)) && decide (pa % 2 ^ 36 < s.stackLimit chip)

/-- A leaf keeps the pairings of 08 R162 and names no reserved memory. -/
def State.pairingOk (s : State) (chip : Nat) (e : DWord) : Bool :=
  let pa := leafPage e
  match leafSeg e with
  | 0 | 1 | 4 => s.homedForm chip pa
  | 2 => decide (pa < 2 ^ 35) &&
      !(decide (reservedBase (s.repl chip).rsegsz ≤ pa) && decide (pa < s.replSize chip))
  | 3 => isHostAddr pa
  | _ => false

/-- A pointer entry (12 Table 12.1) gives the next table. -/
def State.pointer (s : State) (chip n : Nat) : Option Nat :=
  if n % 2 = 0 || n / 2 % 2 ^ 15 ≠ 0 || 2 ^ 35 ≤ n then none
  else
    let t := n / 2 ^ 16 * 2 ^ 16
    if s.replSize chip ≤ t then none else some t

/-- Reads an entry of a table from the walking chip's replica (12 R252). A block that fails its tag check under entry 0 of the buffer table
yields no entry, so 0, which is not valid (12 R270; what a walk does then is left open, log 8: DESIGN CHOICE). -/
def State.tableRead (s : State) (chip a : Nat) : Nat :=
  if s.replFails chip (a / 64) then 0 else Memory.readLe (s.repl chip).replica a 8

/-- The walk of 12 R252 from a root: the leaf and where it lies, with the walk-cache entries it used or filled. -/
def State.walk (s : State) (cluster asid : Nat) (root : DWord) (va : DWord) :
    Option (DWord × Nat × List WalkEnt) :=
  let chip := cluster / 4
  let vpn := vpnOf va
  if !canonical va || root.toNat % 2 ^ 16 ≠ 0 || 2 ^ 35 ≤ root.toNat || s.replSize chip ≤ root.toNat then none
  else
    let ws := (s.cluster cluster).walks
    let find (l v : Nat) : Option Nat :=
      (ws.find? fun e => e.asid = asid && e.level = l && e.vbits = v).map fun e => e.next
    let t1 := match find 1 (vpn / 2 ^ 26) with
      | some t => some t
      | none => s.pointer chip (s.tableRead chip (root.toNat + 8 * (vpn / 2 ^ 26)))
    let t2 := match find 2 (vpn / 2 ^ 13) with
      | some t => some t
      | none => match t1 with
        | none => none
        | some t => s.pointer chip (s.tableRead chip (t + 8 * (vpn / 2 ^ 13 % 2 ^ 13)))
    match t2 with
    | none => none
    | some t =>
      let ea := t + 8 * (vpn % 2 ^ 13)
      let e := BitVec.ofNat 64 (s.tableRead chip ea)
      if !e.getLsbD 0 || e.extractLsb' 8 5 ≠ 0 || 5 ≤ leafSeg e || !s.pairingOk chip e then none
      else some (e, ea,
        (match t1 with
          | none => []
          | some n => [{ asid, level := 1, vbits := vpn / 2 ^ 26, next := n }]) ++
        [{ asid, level := 2, vbits := vpn / 2 ^ 13, next := t }])

/-- Adds to a cache that drops its oldest entry beyond a limit (log 7: DESIGN CHOICE). -/
def addCapped {α : Type} [DecidableEq α] (t : List α) (x : α) (n : Nat) : List α :=
  let t := if t.contains x then t else t ++ [x]
  if n < t.length then t.drop 1 else t

/-- A TLB entry for a page, of its ASID or global (12 R256). -/
def State.tlbFind (s : State) (cluster asid vpn : Nat) : Option TlbEnt :=
  (s.cluster cluster).tlb.find? fun e => e.has vpn && (e.asid = asid || e.glob)

/-- The leaf of a page that an entry covers: page numbers differ as the virtual ones do (12 R256). -/
def TlbEnt.leafAt (e : TlbEnt) (vpn : Nat) : DWord :=
  e.leaf + BitVec.ofNat 64 (vpn % 32 * 2 ^ 16) - BitVec.ofNat 64 (e.idx * 2 ^ 16)

/-- Where the leaf of a page that an entry covers lies: a virtual group is within one table. -/
def TlbEnt.eaAt (e : TlbEnt) (vpn : Nat) : Nat := e.ea + 8 * (vpn % 32) - 8 * e.idx

/-- An entry may cover a page with a leaf too (12 R256). -/
def TlbEnt.joins (e : TlbEnt) (asid vpn : Nat) (leaf : DWord) : Bool :=
  e.asid = asid && e.group = vpn / 32 && e.leafAt vpn = leaf && e.leaf.extractLsb' 48 16 = leaf.extractLsb' 48 16

/-- A translation is kept: the page leaves the entries that covered it, and joins one or takes one of its own, of 4,096
(12 R256, R265). -/
def tlbPut (t : List TlbEnt) (asid vpn : Nat) (leaf : DWord) (ea : Nat) : List TlbEnt :=
  let t := t.filterMap fun e => if e.asid = asid || e.glob then e.without vpn else some e
  if t.any fun e => e.joins asid vpn leaf then
    t.map fun e => if e.joins asid vpn leaf then { e with mask := e.mask ||| (1#32) <<< (vpn % 32) } else e
  else addCapped t { asid, group := vpn / 32, mask := (1#32) <<< (vpn % 32), idx := vpn % 32, leaf, ea } 4096

/-- The checks of 12 Table 12.3 and the segment rules (08 R164, R178; 10 R215 for a strong access; 11 R236 for a window). -/
def leafAllows (x : XCtx) (a : Access) (strong : Bool) (e : DWord) : Bool :=
  let r := e.getLsbD 1
  let w := e.getLsbD 2
  (match a with
    | .read => r
    | .write => w
    | .atomic => r && w
    | .fetch => e.getLsbD 3
    | .share => r && leafSeg e ≤ 1
    | .own => w && leafSeg e ≤ 1) &&
  (x.priv || !e.getLsbD 7) &&
  (if strong then leafSeg e = 2
   else !(leafSeg e = 2 && a = .atomic) &&
        !(leafSeg e = 0 && stackOf (leafPage e) ≠ clusterOfCore x.core))

/-- A leaf with A, and D for a write, set (12 R265). -/
def leafMark (a : Access) (e : DWord) : DWord :=
  e ||| 16 ||| (if a = .write || a = .atomic then 32 else 0)

/-- What translates a page: a TLB entry, else a walk. -/
inductive Found where
  | tlb (leaf : DWord) (ea : Nat)
  | walk (leaf : DWord) (ea : Nat) (ws : List WalkEnt)
  | fault
  | wait
  deriving DecidableEq, Repr

/-- Looks an address up: the TLB answers first; a walk waits for the wave's earlier reads (12 R264). -/
def State.lookup (s : State) (x : XCtx) (useTlb : Bool) (va : DWord) : Found :=
  let k := clusterOfCore x.core
  if !canonical va then .fault
  else match (if useTlb then s.tlbFind k x.asid (vpnOf va) else none) with
    | some t => .tlb (t.leafAt (vpnOf va)) (t.eaAt (vpnOf va))
    | none =>
      if x.hold then .wait
      else match s.walk k x.asid x.ptroot va with
        | none => .fault
        | some (e, ea, ws) => .walk e ea ws

/-- The leaf an address was found with: leaf, where it lies, and the walk-cache entries to keep. -/
def Found.leaf : Found → Option (DWord × Nat × List WalkEnt)
  | .tlb e ea => some (e, ea, [])
  | .walk e ea ws => some (e, ea, ws)
  | _ => none

/-- A leaf with its page number lies in the replicated segment beyond its size (10 R235). -/
def State.pastRepl (s : State) (chip : Nat) (e va : DWord) : Bool := leafSeg e = 2 && decide (s.replSize chip ≤ leafPa e va)

/-- Keeps a translation in the caches of a cluster. -/
def State.keepXlate (s : State) (k asid : Nat) (va leaf : DWord) (ea : Nat) (ws : List WalkEnt) : State :=
  s.modCluster k fun c => { c with tlb := tlbPut c.tlb asid (vpnOf va) leaf ea, walks := ws.foldl (fun t w => addCapped t w 256) c.walks }

/-- Translates one address for an access (12 R252 to R255, R264, R265). The checks come first; a leaf that lacks A or D is updated
by a strong compare-and-swap before it is used, and read again if that fails. -/
def translateFrom (fuel : Nat) (s : State) (x : XCtx) (a : Access) (strong useTlb : Bool) (va : DWord) :
    Xlate × State :=
  match fuel with
  | 0 => (.wait, s)
  | n + 1 =>
    let k := clusterOfCore x.core
    let chip := chipOfCore x.core
    let found := s.lookup x useTlb va
    match found.leaf with
    | none => (if found = .wait then .wait else .translation, s)
    | some (e, ea, ws) =>
      if s.pastRepl chip e va then (.protection, s)
      else if leafSeg e = 4 then (.moving, s)
      else if !leafAllows x a strong e then (.protection, s)
      else
        let e' := leafMark a e
        if e' = e then (.ok e (leafPa e va), if found = .tlb e ea then s else s.keepXlate k x.asid va e ea ws)
        else match s.strongCas chip ea e.toNat e'.toNat with
          | none => (.wait, s)
          | some (old, s') =>
            if old = e.toNat then (.ok e' (leafPa e' va), s'.keepXlate k x.asid va e' ea ws)
            else translateFrom n s' x a strong false va

/-- Translates one address for an access. -/
def State.translate (s : State) (x : XCtx) (a : Access) (strong : Bool) (va : DWord) : Xlate × State :=
  translateFrom 8 s x a strong true va

/-- Translates without an A or D update or a fault, as a prefetch does (12 R255). -/
def State.peek (s : State) (x : XCtx) (a : Access) (va : DWord) : Option (DWord × Nat) :=
  match (s.lookup x true va).leaf with
  | none => none
  | some (e, _, _) =>
    if s.pastRepl (chipOfCore x.core) e va || leafSeg e = 4 || !leafAllows x a false e then none else some (e, leafPa e va)

end Sys2Proof.Machine
end

