-- ==== Sys2Proof/Machine/Ops.lean ====
section
/-! DEFINITION. The named operations on waves: committing and aborting a region, parking a lane, taking a trap and
returning from it, killing a gang, barriers' wakes, and the launch record (02 R28 to R42, 15 R309 to R317, R328). -/

namespace Sys2Proof.Machine

/-! ### Regions (02 R38 to R42) -/

/-- Where a released entry drains: at its chip's replication unit or the host-line cache at once, at a stack once the
write scheduler grants it (08 R178, R180). -/
def State.postEntry (s : State) (core id : Nat) (e : WqEntry) : State :=
  if e.repl || isHostAddr (e.block * 64) then s.post (.wqEntryPerform core id)
  else s.postOnce (.writeLaneGrant (stackOf (e.block * 64)))

/-- Releases the stores that the write queue holds for a wave's open region (02 R38). -/
def State.releaseHeld (s : State) (w : Nat) : State :=
  let core := s.coreOf w
  let c := s.core core
  let mine := c.wq.filter fun e => e.2.wave = w && e.2.held
  if mine = [] then s
  else
    let s := s.setCore core { c with wq := c.wq.mapVals fun _ e => if e.wave = w then { e with held := false } else e }
    mine.foldl (fun s e => s.postEntry core e.1 e.2) s

/-- Discards the stores that the write queue holds for a wave's open region (02 R42). -/
def State.dropHeld (s : State) (w : Nat) : State :=
  let gone : List WqEntry := ((s.core (s.coreOf w)).wq.filter fun e => e.2.wave = w && e.2.held).map fun e => e.2
  { s.modCore (s.coreOf w) (fun c =>
      { gone.foldl (fun (c : Core) (e : WqEntry) => c.giveBack e.key e.sig) c with wq := c.wq.filter fun e => !(e.2.wave = w && e.2.held) }.noteLeft
        s.serial gone) with serial := s.serial + 1 }

/-- CommitRegion for some lanes of a wave, at each thread's program counter (02 R38). -/
def State.commitLanes (s : State) (w : Nat) (ls : List Nat) : State :=
  (s.releaseHeld w).modWave w fun x => x.mapLanes ls fun _ t => t.commitAt t.pc

/-- A free value of 128 bits for each lane, and the count advanced (00 R6). -/
def State.freeFill (s : State) (w : Nat) (ls : List Nat) (o : Opd) (wd : Width) : State :=
  let n := s.free
  { s.modWave w (fun x => x.mapLanes ls fun l t => t.deliver o wd (Config.freeValue (n + l))) with free := n + 32 }

/-- The destination that a parked lane's instruction had marked empty is full again, with an undefined value: a free value (07 R143,
15 R311). -/
def State.fillParked (s : State) (w : Nat) (ls : List Nat) (d : Opd) (wd : Width) : State :=
  match d with
  | .v _ => if ls = [] then s else s.freeFill w ls d wd
  | _ => s

/-! ### What a wave does next -/

/-- A trap with no destination and no skip. -/
def TrapInfo.plain (cause : BitVec 8) (pc addr : DWord) : TrapInfo :=
  { cause, pc, taken := pc, addr, lseq := none, pmask := none, dest := 0x180, skip := none }

/-- A lane takes a class L fault (15 R311): it keeps its record at the faulting instruction of `len` bytes. -/
def Thread.park (t : Thread) (cause : BitVec 8) (addr : DWord) (dest : BitVec 11) (len : Nat) : Thread :=
  { t with st := .parked, lane := some { cause, pc := t.pc, addr, dest, len } }

/-- Lanes that hold a record, in a handler until its `LFIX` (log 21: DEDUCED). -/
def Wave.parkedLanes (x : Wave) : List Nat := x.lanesWhere fun t => t.live && t.parked

/-- The issuing threads of a wave move past an instruction, with their guard bit consumed (15 R309 "skip" and "next"). -/
def Wave.skipPast (x : Wave) (after : DWord) : Wave :=
  x.mapThreads fun _ t => if t.issuing then { t.goTo after with guard := t.guard.consume } else t

/-- Handler entry for the threads of a wave (15 R314): the region committed at each resume point, the state set aside,
every live thread in one group at TRAPV. -/
def Thread.enter (t : Thread) (trapv : DWord) : Thread :=
  if t.live then
    { t with
      pc := trapv, st := .issuing, meet := allOnes, guard := Guard.none, wait := none
      restart := { pc := trapv, meet := allOnes, guard := Guard.none }
      aside := some { pc := t.pc, st := t.st, meet := t.meet, guard := t.guard
                      restart := { pc := t.pc, meet := t.meet, guard := t.guard }, wait := t.wait } }
  else t

/-- The wave record of a trap (15 R310). -/
def TrapInfo.record (i : TrapInfo) (x : Wave) (launchSeq : Word) : FaultRec :=
  { cause := i.cause, pmask := i.pmask.getD (maskOf x.parkedLanes), pc := i.pc, addr := i.addr
    lseq := i.lseq.getD launchSeq, skid := x.heldSkid.getD 0, dest := i.dest }

/-- A gang is killed at once (15 R328): it stops issuing, held stores and outstanding results are discarded; what is
left of it is disposed of as its workgroups exit (Table 15.7). The housekeeping log has its two-level name and, after R317, 0x317
with the fault record (`why`). -/
def State.killOne (s : State) (g : Nat) (ends : Bool) (why : List Nat) : State :=
  match s.gang? g with
  | none => s
  | some k =>
    if k.st = .retired then s
    else if k.st = .killed then s.modGang g fun k => { k with endsLaunch := k.endsLaunch || ends }
    else
      let s := s.modGang g fun k => { k with st := .killed, endsLaunch := k.endsLaunch || ends }
      let s := s.note k.chip 0x328 ([k.launch, k.idx, k.seq.toNat] ++ why)
      k.wgs.foldl (fun s wg =>
        match s.wg? wg with
        | none => s
        | some x =>
          let s := x.waves.foldl (fun s w =>
            (s.dropHeld w).modWave w fun y =>
              { y.mapThreads (fun _ t => { t with st := .exited, lane := none, wait := none, aside := none }) with
                loads := [], again := [], pendA := [], page := none, pageAside := none, handler := none, halted := false, heldTrap := none, pend := none
                strong := none, sleep := 0 }) s
          (s.modWg wg fun x => { x with handler := none }).postOnce (.workgroupExit wg)) s

/-- The gang holds a placement still: it has not exited. One that is pre-empted or swapped out counts as resident for a kill, for its
launch is to re-place none (02 R47, 15 R328; log 27: DEDUCED). -/
def Gang.placed (k : Gang) : Bool := k.st ≠ .exited && k.st ≠ .retired

/-- A gang is killed; a kill that ends its launch takes the resident gangs of its fault domain with it (02 R47, 15 R328). -/
def State.killGang (s : State) (g : Nat) (ends : Bool) (why : List Nat) : State :=
  match s.gang? g with
  | none => s
  | some k =>
    let s1 := s.killOne g ends why
    if ends && k.fdom ≠ 0 then
      s1.gangs.foldl (fun s h =>
        if h.2.placed && s.inSubtree k.chip h.2.rcb k.fdomRcb then s.killOne h.1 true [] else s) s1
    else s1

/-- The other waves of a workgroup are halted, each with a skid of at most 8 instructions: how many is not stated, a
free value (15 R312, log 4: DESIGN CHOICE). -/
def State.haltOthers (s : State) (ws : List Nat) (w : Nat) : State :=
  ws.foldl (fun s o =>
    if o = w then s
    else { s.modWave o (fun x =>
             { x with halted := true, skid := 0
                      skidLeft := if x.heldTrap.isSome then 0 else (Config.freeValue s.free).toNat % 9 }) with
           free := s.free + 1 }) s

/-- The numbers of a record that the housekeeping log reports: CAUSE, PMASK, PC, address, LSEQ, SKID, DEST. -/
def FaultRec.nums (r : FaultRec) : List Nat :=
  [r.cause.toNat, r.pmask.toNat, r.pc.toNat, r.addr.toNat, r.lseq.toNat, r.skid, r.dest.toNat]

/-- Taking a trap (15 R312 to R317): the wave enters its handler at TRAPV, or, where a handler of its workgroup runs, it
stops and holds the trap pending, whole (log 21: DEDUCED); inside a handler, or with TRAPV 0, the gang is killed. -/
def State.takeTrapAs (s : State) (w : Nat) (h : Handler) (i : TrapInfo) : State :=
  match s.wave? w with
  | none => s
  | some x => match s.wg? x.wg with
    | none => s
    | some g => match s.gang? g.gang with
      | none => s
      | some k =>
        if x.handler.isSome || k.trapv = 0 then s.killGang g.gang true (0x317 :: (i.record x k.seq).nums)
        else if g.handler.isSome then
          s.setWave w { x with halted := true, skidLeft := 0, heldTrap := some i }
        else
          let s := s.releaseHeld w
          let y := match i.skip with
            | some after => x.skipPast after
            | none => x
          let y := { y.mapThreads (fun _ t => t.enter k.trapv) with
            frec := if h = .trap then i.record x k.seq else { i.record x k.seq with skid := 0 }
            heldSkid := if h = .trap then none else x.heldSkid
            trapcause := i.cause.setWidth 32, trappc := i.taken
            handler := some h, handlerCount := 0, heldTrap := if h = .trap then none else x.heldTrap, pend := none, pendAside := x.pend, blocked := none, stall := 0
            page := none, pageAside := if h = .trap then x.page else x.pageAside }
          let s := (s.setWave w y).modWg x.wg fun g => { g with handler := some w }
          s.haltOthers g.waves w

/-- Taking a trap. -/
def State.takeTrap (s : State) (w : Nat) (i : TrapInfo) : State := s.takeTrapAs w .trap i

/-- A precise trap at the instruction being issued, whose DEST is recorded (15 R309, R310). -/
def State.preciseTrap (s : State) (w : Nat) (cause : BitVec 8) (pc addr : DWord) : State :=
  s.takeTrap w { TrapInfo.plain cause pc addr with dest := s.idest }

/-- The trap at a convergence point of a wave with a parked lane (02 R33, 15 R310): the record of the lowest parked
lane; the wave resumes at the point. -/
def State.laneTrap (s : State) (w : Nat) : State :=
  match s.wave? w with
  | none => s
  | some x => match x.parkedLanes with
    | [] => s
    | l :: _ => match (x.thread l).lane with
      | none => s
      | some r =>
        s.takeTrap w { cause := r.cause, pc := r.pc, taken := x.issuePc.getD r.pc, addr := r.addr, lseq := none
                       pmask := none, dest := r.dest, skip := none }

/-- Lifts the halt of a workgroup (15 R312, R316); a wave that holds a trap or an event pending keeps its skid for that trap's
record (15 R310). -/
def State.liftHalt (s : State) (wg : Nat) : State :=
  match s.wg? wg with
  | none => s
  | some g =>
    let s := s.modWg wg fun g => { g with handler := none }
    g.waves.foldl (fun s o => s.modWave o fun x =>
      { x with halted := false, skidLeft := 0, skid := 0
               heldSkid := if x.heldTrap.isSome || x.pendA ≠ [] then (if x.halted then some x.skid else x.heldSkid) else none }) s

/-! ### Barriers -/

/-- Waves of a list that have a live thread. -/
def State.liveWaves (s : State) (ws : List Nat) : List Nat :=
  ws.filter fun w => match s.wave? w with
    | none => false
    | some x => x.threads.any Thread.live

/-- The length of the instruction a thread waits in. -/
def WaitIn.len : WaitIn → Nat
  | .mwait _ _ n => n
  | _ => 4

/-- The wait is in a barrier, an irrevocable instruction whose effect is accepted when the wait ends (02 R40). -/
def WaitIn.barrier : WaitIn → Bool
  | .mwait _ _ _ => false
  | _ => true

/-- A waiting thread becomes Deferred at the following instruction, whatever its meeting address (18 R381, 20 R418, 21 R448);
a barrier commits there (02 R40). -/
def Thread.wake (t : Thread) (i : WaitIn) : Thread :=
  let pc := t.pc + BitVec.ofNat 64 i.len
  let t : Thread := { t with pc := pc, st := .deferred, wait := none }
  if i.barrier then t.commitAt pc else t

/-- The same of a state that a handler has set aside. -/
def Aside.wake (a : Aside) (i : WaitIn) : Aside :=
  let pc := a.pc + BitVec.ofNat 64 i.len
  let restart : Restart := if i.barrier then { pc := pc, meet := a.meet, guard := a.guard } else a.restart
  { a with pc := pc, st := .deferred, wait := none, restart := restart }

/-- A thread that waits in what `p` names wakes. -/
def Thread.wakeOwn (t : Thread) (p : WaitIn → Bool) : Thread :=
  match t.wait with
  | none => t
  | some i => if decide (t.st = ThreadSt.waiting) && p i then t.wake i else t

/-- A wait in a barrier that a handler has set aside ends too; an `MWAIT` set aside wakes once the handler has returned to it
(15 R309). -/
def Thread.wakeAside (t : Thread) (p : WaitIn → Bool) : Thread :=
  match t.aside with
  | none => t
  | some a => match a.wait with
    | none => t
    | some i => if decide (a.st = ThreadSt.waiting) && i.barrier && p i then { t with aside := some (a.wake i) } else t

/-- Both. -/
def Thread.wakeIf (t : Thread) (p : WaitIn → Bool) : Thread := (t.wakeOwn p).wakeAside p

/-- A wave with no issuing thread makes the choice of 02 R28 again. -/
def Wave.rechoose (x : Wave) : Wave :=
  if x.threads.any Thread.issuing then x
  else match lowestPc x.threads (fun t => t.st = .deferred) with
    | some pc => x.issueAt pc
    | none => x

/-- The workgroup barrier's phase completes when every wave with a live thread has arrived (18 R381). -/
def State.barCheck (s : State) (wg : Nat) : State :=
  match s.wg? wg with
  | none => s
  | some g =>
    let live := s.liveWaves g.waves
    if g.arr = 0 || g.arr < live.length then s
    else
      let s := s.modWg wg fun g => { g with arr := 0 }
      g.waves.foldl (fun s w => s.modWave w fun x =>
        { x.mapThreads (fun _ t => t.wakeIf fun i => decide (i = WaitIn.bar)) with arrived := false }.rechoose) s

/-- Waves of a gang. -/
def State.gangWaves (s : State) (k : Gang) : List Nat :=
  k.wgs.flatMap fun wg => match s.wg? wg with
    | none => []
    | some x => x.waves

/-- An acquire on a core (09 R190, R193): L1 lines in the received set go, with locally homed lines in the core's local
filter, which is read and cleared; with all ones, every line that is not locally homed goes. -/
def State.acquireL1 (s : State) (core : Nat) (m : BitVec 512) : State :=
  let k := clusterOfCore core
  let f := Table.at (s.cluster k).filters (core % 16) 0
  let s := s.modCluster k fun c => { c with filters := Table.del c.filters (core % 16) }
  s.modCore core fun c =>
    { c.addSig m with l1 := c.l1.filter fun l =>
        let b := sigBit (l.pline * 128)
        let homed := !isHostAddr (l.pline * 128) && stackOf (l.pline * 128) = k
        if homed then !(f.getLsbD b) && (m = BitVec.allOnes 512 || !(m.getLsbD b)) else !(m.getLsbD b) }

/-- A workgroup is placed on a core or restored to it: every entry of the signature table is all ones, the whole L1 goes, and with it
what the local filter kept for it; its placement is so an acquire of all that came before (09 R191, R194, R200). -/
def State.enterCore (s : State) (core : Nat) : State :=
  let s := s.modCluster (clusterOfCore core) fun c => { c with filters := Table.del c.filters (core % 16) }
  s.modCore core fun c => { c.addSig (BitVec.allOnes 512) with l1 := [] }

/-- The gang barrier's phase completes when every wave with a live thread has arrived (20 R418). -/
def State.gbarCheck (s : State) (g : Nat) : State :=
  match s.gang? g with
  | none => s
  | some k =>
    let ws := s.gangWaves k
    let live := s.liveWaves ws
    if k.arr = 0 || k.arr < live.length then s
    else
      let s := s.modGang g fun k => { k with arr := 0, sigs := 0 }
      let cores := k.wgs.filterMap fun wg => (s.wg? wg).map fun x => x.core
      let s := cores.foldl (fun s c => s.acquireL1 c k.sigs) s
      ws.foldl (fun s w => s.modWave w fun x =>
        { x.mapThreads (fun _ t => t.wakeIf fun i => decide (i = WaitIn.gbar)) with garrived := false }.rechoose) s

/-! ### The commit token of ordered launches (16 R333) -/

/-- The wave at which a launch's commit token stands, if it is placed. -/
def State.tokenWave (s : State) (launch : Nat) (t : Token) : Option Nat :=
  match s.gangs.reverse.find? fun g => g.2.launch = launch && g.2.ordered && g.2.pos = t.pos with
  | none => none
  | some g => match g.2.wgs[t.wg]? with
    | none => none
    | some wg => match s.wg? wg with
      | none => none
      | some x => x.waves[t.wave]?

/-- The position after a token's. -/
def State.tokenNext (s : State) (launch : Nat) (t : Token) : Token :=
  match s.gangs.reverse.find? fun g => g.2.launch = launch && g.2.ordered && g.2.pos = t.pos with
  | none => { t with pos := t.pos + 1, wg := 0, wave := 0 }
  | some g =>
    let n := match g.2.wgs[t.wg]? with
      | none => 0
      | some wg => match s.wg? wg with
        | none => 0
        | some x => x.waves.length
    if t.wave + 1 < n then { t with wave := t.wave + 1 }
    else if t.wg + 1 < g.2.wgs.length then { t with wg := t.wg + 1, wave := 0 }
    else { t with pos := t.pos + 1, wg := 0, wave := 0 }

/-- The token moves on over waves that have exited and over gangs that have retired, and stops at a live wave or at
one not yet placed (16 R333). -/
def tokenSettle (fuel : Nat) (s : State) (launch : Nat) : State :=
  match fuel with
  | 0 => s
  | n + 1 =>
    match Table.look s.tokens launch with
    | none => s
    | some t =>
      let step := tokenSettle n { s with tokens := Table.put s.tokens launch (s.tokenNext launch t) } launch
      match s.tokenWave launch t with
      | some w => match s.wave? w with
        | none => step
        | some x => if x.threads.any Thread.live && !x.tokPassed then s else step
      | none =>
        if s.gangs.any (fun g => g.2.launch = launch && g.2.ordered && g.2.pos = t.pos) then step
        else if t.away.contains t.pos then s
        else if t.pos < s.recBytes s.lowRank (launch + 0x48) 8 then step
        else s

/-- The wave holds its launch's commit token. -/
def State.holdsToken (s : State) (w : Nat) : Bool :=
  match s.gangOf w with
  | none => false
  | some (_, k) => match Table.look s.tokens k.launch with
    | none => false
    | some t => s.tokenWave k.launch t = some w

/-- The token of a wave's launch is settled again. -/
def State.tokenAgain (s : State) (w : Nat) : State :=
  match s.gangOf w with
  | none => s
  | some (_, k) => if k.ordered then tokenSettle 256 s k.launch else s

/-- A wave's last live thread has exited (02 R28, 15 R316, R327; 16 R333): it leaves the barriers' counts; a handler it
ran ends; a commit token it holds moves on; its workgroup exits once no wave of it lives. -/
def State.waveEnded (s : State) (w : Nat) : State :=
  match s.wave? w with
  | none => s
  | some x => match s.wg? x.wg with
    | none => s
    | some g =>
      let s := s.setWave w { x with handler := none, arrived := false, garrived := false, pend := none }
      let s := if x.arrived then s.modWg x.wg fun g => { g with arr := g.arr - 1 } else s
      let s := if x.garrived then s.modGang g.gang fun k => { k with arr := k.arr - 1 } else s
      let s := if g.handler = some w then s.liftHalt x.wg else s
      let s := (s.barCheck x.wg).gbarCheck g.gang
      let s := s.tokenAgain w
      if s.liveWaves g.waves = [] then s.postOnce (.workgroupExit x.wg) else s

/-- What follows a change of a wave's threads (02 R28). -/
def State.settleAs (s : State) (w : Nat) (n : NextIssue) (x : Wave) : State :=
  match n with
  | .issue y => s.setWave w y
  | .converge y => (s.setWave w y).laneTrap w
  | .idle => s.setWave w x
  | .ended => (s.setWave w x).waveEnded w

/-- The wave's next group is chosen (02 R28). -/
def State.settle (s : State) (w : Nat) : State :=
  match s.wave? w with
  | none => s
  | some x => s.settleAs w x.regroup x

/-! ### Abort (02 R42) -/

/-- The wave's region is aborted: held stores discarded, outstanding results cancelled with undefined values, every live
thread at its restart address. -/
def State.abortRegion (s : State) (w : Nat) : State :=
  match s.wave? w with
  | none => s
  | some x =>
    let s := s.dropHeld w
    let s := x.loads.foldl (fun s e => s.freeFill w (e.2.lanes.map fun l => l.lane) e.2.d
      (match e.2.fmt.width with
        | 4 => .w128
        | 2 => .w64
        | _ => .w32)) s
    let s := s.modWave w fun x =>
      { x.mapThreads (fun _ t => if t.live then t.restartNow else t) with
        loads := [], pend := none, blocked := none, invAbort := false, stall := 0, heldTrap := none
        strong := x.strong.map fun g => { g with load := none } }
    s.settle w

/-! ### Return from a trap (15 R316) -/

/-- A thread's set-aside state is restored. -/
def Thread.leave (t : Thread) : Thread :=
  match t.aside with
  | none => t
  | some a =>
    if t.live then
      { t with pc := a.pc, st := a.st, meet := a.meet, guard := a.guard, restart := a.restart, wait := a.wait
               aside := none }
    else { t with aside := none }

/-- After a return, the group at the lowest program counter among running threads issues (15 R316 and its worked
example). -/
def Wave.afterReturn (x : Wave) : NextIssue :=
  match lowestPc x.threads Thread.running with
  | some pc => .issue (x.issueAt pc)
  | none => x.chooseNext

/-- `RTE` of a trap handler (15 R316). -/
def State.returnTrap (s : State) (w : Nat) : State :=
  match s.wave? w with
  | none => s
  | some x =>
    let s := s.releaseHeld w
    let y := { x.mapThreads (fun _ t => t.leave) with
      handler := none, handlerCount := 0, pend := x.pendAside, pendAside := none, page := x.pageAside, pageAside := none }
    let s := (s.setWave w y).liftHalt x.wg
    let s := s.settleAs w y.afterReturn y
    if y.fired then s.postOnce (.mwaitWake w) else s

end Sys2Proof.Machine
end

