-- ==== Sys2Proof/Machine/Operands.lean ====
section
/-! DEFINITION. Every operand form: registers, zero, `%lane`, the literal, special registers and immediates read at a
width and type (05 R100 to R106, 04 R83), and the registers an instruction names (04 R76 to R80). -/

namespace Sys2Proof.Machine

/-- The bits of a small integer converted to a binary format with `m` fraction bits and a bias; exact for the values of
a 6-bit immediate (05 R105). -/
def immFloat (m bias : Nat) (signBit : Nat) (v : Int) : Nat :=
  let a := v.natAbs
  if a = 0 then 0
  else
    let e := Nat.log2 a
    (if v < 0 then 2 ^ signBit else 0) + (bias + e) * 2 ^ m + (a - 2 ^ e) * 2 ^ (m - e)

/-- A bfloat16 has 7 fraction bits, of which a 6-bit immediate needs at most 5. An immediate at a rule and width. -/
def immValue (r : ImmRule) (w : Width) (x : BitVec 6) : Quad :=
  match r with
  | .f32 => BitVec.ofNat 128 (immFloat 23 127 31 x.toInt)
  | .f16 => BitVec.ofNat 128 (immFloat 10 15 15 x.toInt)
  | .bf16 => BitVec.ofNat 128 (immFloat 7 127 15 x.toInt)
  | _ => BitVec.ofNat 128 ((x.signExtend 128).toNat % 2 ^ (8 * widthBytes w))

/-- The value of a special register in a lane (04 Table 4.3, 02 R24, 01 R8). -/
def State.sreg (s : State) (x : Wave) (l : Nat) (n : BitVec 4) : Quad :=
  let t := x.thread l
  let wg := s.wg? x.wg
  let core := (wg.map fun g => g.core).getD 0
  match n.toNat with
  | 0 => BitVec.ofNat 128 l
  | 1 => BitVec.ofNat 128 x.idx
  | 2 => BitVec.ofNat 128 ((wg.map fun g => g.idx).getD 0)
  | 3 => BitVec.ofNat 128 ((wg.bind fun g => (s.gang? g.gang).map fun k => k.idx).getD 0)
  | 4 => BitVec.ofNat 128 (core % 16)
  | 5 => BitVec.ofNat 128 (core / 4 % 4)
  | 6 => BitVec.ofNat 128 (core / 16 % 4)
  | 7 => BitVec.ofNat 128 (core / 64)
  | 8 => (maskOf x.group).setWidth 128
  | 9 => t.meet.setWidth 128
  | 10 => t.fpctl.setWidth 128
  | 11 => t.fpflags.setWidth 128
  | 12 => BitVec.ofNat 128 ((s.core core).clk % 2 ^ 64)
  | 13 => x.seqno.setWidth 128
  | 14 => x.trapcause.setWidth 128
  | _ => x.trappc.setWidth 128

/-- Reads a source operand of a lane at a width (05 R100 to R106), zero-extended to 128 bits. -/
def State.readOpd (s : State) (x : Wave) (l : Nat) (lit : Option DWord) (w : Width) (r : ImmRule) (o : Opd) : Quad :=
  match o with
  | .lane => BitVec.ofNat 128 l
  | .lit => match w with
    | .w32 => ((lit.getD 0).setWidth 32).setWidth 128
    | _ => (lit.getD 0).setWidth 128
  | .sreg n => match w with
    | .w32 => ((s.sreg x l n).setWidth 32).setWidth 128
    | _ => s.sreg x l n
  | .imm v => immValue r w v
  | o => (x.thread l).readReg o w

end Sys2Proof.Machine

namespace Sys2Proof

/-! ### What an instruction names -/

/-- A register operand that an instruction names: a source with its E bit, a destination, or both. -/
structure Use where
  o : Opd
  w : Width
  src : Bool
  dst : Bool
  e : Bool
  deriving DecidableEq, Repr

/-- The use of a field. -/
def FieldKind.use (k : FieldKind) (o : Opd) (e : Bool) : List Use :=
  match k with
  | .src w _ => [{ o, w, src := true, dst := false, e }]
  | .pairReg => [{ o, w := .w64, src := true, dst := false, e }]
  | .dst w => [{ o, w, src := false, dst := true, e := false }]
  | .dstLL w => [{ o, w, src := false, dst := true, e := false }]
  | .srcDst w => [{ o, w, src := true, dst := true, e := false }]
  | .joinDst => [{ o, w := .w64, src := false, dst := true, e := false }]
  | _ => []

/-- The uses of a layout. -/
def Form.uses : Form → List Use
  | .base op f => match baseSpec op f.xb f.d.code6 f.a.code6 with
    | none => []
    | some k => FieldKind.use k.d f.d false ++ FieldKind.use k.a f.a f.ea ++ FieldKind.use k.b f.b f.eb
  | .ext op f => match extSpec op f with
    | none => []
    | some k => FieldKind.use k.d f.d false ++ FieldKind.use k.a f.a f.ea ++ FieldKind.use k.b f.b f.eb ++
        FieldKind.use k.c f.c f.ec
  | .join d _ => FieldKind.use .joinDst d false
  | .joinLit d _ => FieldKind.use .joinDst d false
  | .joinExt d _ _ => FieldKind.use .joinDst d false
  | _ => []

/-- DEST of a layout: its destination's 9-bit code and width, 0x180 where it has none (15 Table 15.2). -/
def Form.dest (f : Form) : BitVec 11 :=
  match f.uses.find? fun u => u.dst with
  | none => 0x180
  | some u => Machine.destOf u.o u.w

/-- A use stays below the wave's register count 8·(RPT + 1) (04 R76). -/
def Use.inRange (u : Use) (rpt : Nat) : Bool :=
  match u.o with
  | .v i => decide (i.toNat + Machine.regsOf u.w ≤ 8 * (rpt + 1))
  | _ => true

/-- A lane would read an empty register through a source whose E bit is `e` (04 R79). -/
def Use.srcEmpty (u : Use) (e : Bool) (t : Machine.Thread) : Bool := u.src && u.e == e && !t.isFull u.o u.w

/-- A lane's destination has an empty register (04 R80). -/
def Use.dstEmpty (u : Use) (t : Machine.Thread) : Bool := u.dst && !t.isFull u.o u.w

/-! ### Base forms as extended forms -/

/-- The operands of a base form as those of the extended form of the same opcode (05 R101, 06 R123, R124): the default
type, RNE, the sub-operation of XB. -/
def BaseArgs.toExt (f : BaseArgs) (ty : Ty) (md : Nat) : ExtArgs :=
  { d := f.d, a := f.a, b := f.b, c := .none, ea := f.ea, eb := f.eb, ec := false, ty, rm := .rne, sc := .th
    md := BitVec.ofNat 6 md, aux := 0, x18 := 0, xb := 0, lit := f.lit }

/-- The base forms of `IMAD` and `FFMA`, whose D is the third source too (05 R101). -/
def BaseArgs.toExt3 (f : BaseArgs) (ty : Ty) : ExtArgs := { f.toExt ty 0 with c := f.d }

/-- The signed offset X18 of a memory form, in bytes. -/
def ExtArgs.offset (f : ExtArgs) : DWord := f.x18.signExtend 64

end Sys2Proof
end

