-- ==== Sys2Proof/Machine/Flags.lean ====
section
/-! DEFINITION. The exception flags: their bits, the floating-point trap enables and which fault a raised exception
causes (04 Table 4.5, 02 Table 2.9, 07 R142, R143, R133). -/

namespace Sys2Proof.Machine

/-- Invalid operation (04 Table 4.5). -/
def flagNV : Word := 1
/-- Floating divide by zero. -/
def flagDZ : Word := 2
/-- Overflow. -/
def flagOF : Word := 4
/-- Underflow. -/
def flagUF : Word := 8
/-- Inexact. -/
def flagNX : Word := 16
/-- Integer divide by zero with IDZT = 0. -/
def flagIDZ : Word := 32

/-- The flags of a list of conditions. -/
def flagIf (c : Bool) (f : Word) : Word := if c then f else 0

/-- MODE.FPTE (02 Table 2.9): bits 12:8, in the order of `%fpflags`. -/
def fpte (mode : BitVec 19) : BitVec 5 := mode.extractLsb' 8 5

/-- The fault of the highest exception that is raised and enabled (07 R143): NV, DZ, OF, UF, NX in this order, causes
0x06 to 0x0A. -/
def fpCause (mode : BitVec 19) (raised : Word) : Option (BitVec 8) :=
  let on := fpte mode &&& raised.extractLsb' 0 5
  if on.getLsbD 0 then some 0x06
  else if on.getLsbD 1 then some 0x07
  else if on.getLsbD 2 then some 0x08
  else if on.getLsbD 3 then some 0x09
  else if on.getLsbD 4 then some 0x0A
  else none

/-- `%fpctl`.IDZT (04 Table 4.4). -/
def Thread.idzt (t : Thread) : Bool := t.fpctl.getLsbD 3

/-- `%fpctl`.DRM (04 Table 4.4). -/
def Thread.drm (t : Thread) : Nat := (t.fpctl.extractLsb' 0 3).toNat

/-- A rounding mode that `Round` knows (07 R139). -/
inductive RoundMode where
  | rne | rz | ru | rd | rna
  deriving DecidableEq, Repr

/-- The rounding mode of an instruction in a lane: code 7 reads DRM (05 R108); DRM holds 0 to 4 only (04 R84). -/
def Thread.roundMode (t : Thread) (r : Rm) : RoundMode :=
  match r with
  | .rne => .rne
  | .rz => .rz
  | .ru => .ru
  | .rd => .rd
  | .rna => .rna
  | .dyn => match t.drm with
    | 1 => .rz
    | 2 => .ru
    | 3 => .rd
    | 4 => .rna
    | _ => .rne

/-- What an instruction does in one lane: writes a result and raises flags, or parks the lane with a cause and an
address, after raising flags (07 R143). -/
inductive LaneOut where
  | write (x : Quad) (flags : Word)
  | park (cause : BitVec 8) (addr : DWord) (flags : Word)
  deriving DecidableEq, Repr

/-- The lane parks. -/
def LaneOut.parks : LaneOut → Bool
  | .write _ _ => false
  | .park _ _ _ => true

/-- A floating result: the lane parks when an exception it raised is enabled. -/
def fpOut (mode : BitVec 19) (r : Quad × Word) : LaneOut :=
  match fpCause mode r.2 with
  | none => .write r.1 r.2
  | some c => .park c 0 r.2

end Sys2Proof.Machine
end

