-- ==== Sys2Proof/WellFormed.lean ====
section
/-! DEFINITION. When an instruction is well formed: it could come from words that 05 R116 does not call ILL, or it is
an event whose parts exist. -/

namespace Sys2Proof

/-- The fields of a layout obey the rules of its opcode (05 R116). -/
def Form.ok : Form → Bool
  | .base op f => baseOk op f
  | .ext op f => extOk op f
  | .br _ _ => true
  | .brLit _ t => t.extractLsb' 0 2 = 0
  | .brp _ _ _ => true
  | .brpLit _ _ t => t.extractLsb' 0 2 = 0
  | .join d _ => FieldKind.joinDst.ok true d
  | .joinLit d _ => FieldKind.joinDst.ok true d
  | .joinExt d rgn t => FieldKind.joinDst.ok false d && (t ≠ .keep || rgn)
  | .pblk _ _ cnt pat => decide (pat.toNat < 2 ^ (cnt.toNat + 1))
  | .code _ _ => true
  | .event => true

/-- A well-formed instruction (05 R116), or an event of existing parts (01 R7, R8). -/
def Instr.wf (i : Instr) : Bool := i.form.ok && i.subOk && i.partsOk

/-- Length in bytes (05 Table 5.1): 4, 12 or 20; an event has none. -/
def Form.length : Form → Nat
  | .base _ f => if f.lit.isSome then 12 else 4
  | .ext _ f => if f.lit.isSome then 20 else 12
  | .br _ _ => 4
  | .brLit _ _ => 12
  | .brp _ _ _ => 4
  | .brpLit _ _ _ => 12
  | .join _ _ => 4
  | .joinLit _ _ => 12
  | .joinExt _ _ (.lit _) => 20
  | .joinExt _ _ _ => 12
  | .pblk _ _ _ _ => 4
  | .code _ _ => 4
  | .event => 0

/-- Length of an instruction in bytes (05 R97). -/
def Instr.length (i : Instr) : Nat := i.form.length

end Sys2Proof
end

