-- ==== Sys2Proof/Machine/Issue.lean ====
section
/-! DEFINITION. What surrounds the effect of every instruction: the decode-stage faults, the convergence points, the
waits on empty registers, the guard state, the region commits, and what follows an issue (02 R28 to R40, 04 R76 to R80,
05 R113 to R117, 16 R338, R348, R350). -/

namespace Sys2Proof

/-- A privileged opcode (06 R121). -/
def Form.privileged : Form → Bool
  | .ext op _ => decide (0x90 ≤ op) && decide (op ≤ 0x95)
  | _ => false

/-- An instruction that a guard state may not cover (05 R115): the branches, `PBLK`, `TRAP`. -/
def Form.blockIllegal : Form → Bool
  | .br _ _ => true
  | .brLit _ _ => true
  | .brp _ _ _ => true
  | .brpLit _ _ _ => true
  | .base op _ => op = 0x03 || op = 0x05
  | .pblk _ _ _ _ => true
  | .code op _ => op = 0x0B
  | _ => false

/-- The wave-collective instructions, each a convergence point (02 R33). -/
def Form.collective : Form → Bool
  | .base op _ => [0x70, 0x71, 0x75, 0xB8, 0xB9].contains op
  | .ext op _ => [0x70, 0x71, 0x72, 0x73, 0x74, 0x75].contains op
  | _ => false

/-- An instruction that commits the open region when it issues (02 R40, 12 R259, 14 R294): the irrevocable ones, and those that
wait for the wave's queue entries. -/
def Form.commits : Form → Bool
  | .base op _ => [0x07, 0xB1, 0xB8, 0xB9, 0xBB].contains op
  | .ext op f =>
    [0x10, 0x7C, 0x7D, 0x7E, 0x7F, 0x80, 0x82, 0x83, 0x86, 0x87, 0x88, 0x90, 0x92, 0x93, 0x94, 0x95, 0x98, 0x99, 0x9A,
      0x9B, 0x9C, 0x9F, 0xA1, 0xAA, 0xAB, 0xAF, 0xB2, 0xB5, 0xC0, 0xC1, 0xCC].contains op ||
    (op = 0x81 && f.md ≠ 0) || ((op = 0x79 || op = 0x7B) && f.xb = 2) ||
    (op = 0xC2 && f.md = 2)
  | _ => false

/-- A store with `.rel`: its restart address stays at the store itself (22 R491; log 23: DEDUCED). -/
def Form.stays : Form → Bool
  | .ext op f => (op = 0x79 || op = 0x7B) && f.xb = 2
  | _ => false

/-- `TOKP`, which commits only in an ordered launch (16 R334). -/
def Form.token : Form → Bool
  | .base op _ => op = 0xBB
  | _ => false

/-- What accesses memory or orders accesses, which waits for an acquire of its wave that is outstanding (09 R190, R195): monitors,
launches, loads to `SEGU`, page-table instructions, copies and barrier objects, slot fills and publications, tasks and hand-offs,
barriers and tokens, routing, digests. -/
def Form.memory : Form → Bool
  | .base op _ => [0xB8, 0xB9, 0xBA, 0xBB].contains op
  | .ext op _ => (decide (0x78 ≤ op) && decide (op ≤ 0xA2)) ||
    [0x0E, 0x10, 0xAA, 0xAB, 0xB2, 0xB3, 0xB4, 0xB5, 0xC0, 0xC1, 0xC2, 0xCC].contains op
  | _ => false

end Sys2Proof

namespace Sys2Proof.Machine

/-- What an effect leaves behind: the instruction is done and its group moves on, to the next instruction or to a
target of each lane; it waits and is issued again later; or the wave's threads have been placed by the effect, by a
trap, an abort or a return. -/
inductive Eff where
  | done (s : State)
  | branch (s : State) (target : Nat → DWord)
  | choose (s : State) (next : List Nat → Wave → NextIssue)
  | wait (s : State)
  | gone (s : State)

/-- The wave, its workgroup and its gang, and the entries held for the wave's open region as the instruction is tried (09 R189). -/
structure Who where
  w : Nat
  x : Wave
  wg : Workgroup
  g : Gang
  held : List Nat

/-- The issuing wave, its workgroup and its gang. -/
def State.who (s : State) : Option Who :=
  match s.issuer with
  | none => none
  | some w => match s.wave? w with
    | none => none
    | some x => match s.wg? x.wg with
      | none => none
      | some wg => match s.gang? wg.gang with
        | none => none
        | some g => some { w, x, wg, g, held := ((s.core wg.core).wq.filter fun e => e.2.wave = w && e.2.held).map fun e => e.1 }

/-- A wave, its workgroup and its gang. -/
def State.whoOf (s : State) (w : Nat) : Option Who := State.who { s with issuer := some w }

/-- Effective PRIV of the gang (02 R46). -/
def Gang.priv (g : Gang) : Bool := g.mode.getLsbD 4

/-- A byte that a load has still to read from memory: one of an empty scratchpad line is no such byte (log 26: DEDUCED). -/
def ByteSrc.fromMemory : ByteSrc → Bool
  | .phys _ _ => true
  | .repl _ => true
  | _ => false

/-- An outstanding result that waits for memory: a load with bytes to read, an atomic's or a strong instruction's lane. -/
def Load.reads (l : Load) : Bool :=
  l.lanes.any fun e => e.src.any ByteSrc.fromMemory || ((l.kind = .atomic || l.kind = .strong) && e.src = [])

/-- The wave has a read outstanding, among the results that a condition on their numbers picks: a walk waits for it (12 R264). -/
def Wave.walksWait (x : Wave) (p : Nat → Bool) : Bool := x.loads.any fun l => p l.1 && l.2.reads

/-- Who translates for a wave. -/
def Who.xctx (k : Who) : XCtx :=
  { core := k.wg.core, asid := k.g.asid, ptroot := k.g.ptroot, priv := k.g.priv
    hold := k.x.walksWait (fun _ => true) || k.x.strong.isSome }

/-- The chip of a wave. -/
def Who.chip (k : Who) : Nat := chipOfCore k.wg.core

/-- The lanes of the issuing group that perform the instruction (05 R113, R114). -/
def Wave.active (x : Wave) : List Nat := x.lanesWhere fun t => t.issuing && t.guard.sel

/-- The registers an instruction names. -/
def Instr.uses (i : Instr) : List Use := i.form.uses

/-- Some active lane has an empty register that a use names through a source of this E bit. -/
def anySrcEmpty (x : Wave) (us : List Use) (act : List Nat) (e : Bool) : Bool :=
  act.any fun l => us.any fun u => u.srcEmpty e (x.thread l)

/-- Some active lane has an empty register in its destination. -/
def anyDstEmpty (x : Wave) (us : List Use) (act : List Nat) : Bool :=
  act.any fun l => us.any fun u => u.dstEmpty (x.thread l)

/-- A dynamic ILL (05 R116, R117): a register beyond RPT, `RTE` with no handler, `SWR` of a bad DRM (04 R84),
which a source still empty does not show yet: it waits or traps as 04 R79 says. -/
def dynIll (s : State) (k : Who) (i : Instr) (act : List Nat) : Bool :=
  (i.form.uses.any fun u => !u.inRange k.g.rpt) ||
  match i with
  | .rte => k.x.handler.isNone
  | .swr f => f.d = .sreg 10 && !anySrcEmpty k.x i.form.uses act true && !anySrcEmpty k.x i.form.uses act false && act.any fun l =>
      decide (4 < ((s.readOpd k.x l f.lit .w32 .int f.a).extractLsb' 0 3).toNat)
  | .swrExt f => f.x18 = 10 && !anySrcEmpty k.x i.form.uses act true && !anySrcEmpty k.x i.form.uses act false && act.any fun l =>
      decide (4 < ((s.readOpd k.x l f.lit .w32 .int f.a).extractLsb' 0 3).toNat)
  | _ => false

/-- The decode-stage fault of a well-formed instruction, in the order of 05 R117: ILL, PRIV, BLOCK_ILLEGAL, EMPTY. -/
def decodeFault (s : State) (k : Who) (i : Instr) (group act : List Nat) : Option (BitVec 8) :=
  if dynIll s k i act then some 0x01
  else if i.form.privileged && !k.g.priv then some 0x02
  else if i.form.blockIllegal && group.any (fun l => decide (0 < (k.x.thread l).guard.left)) then some 0x14
  else if anySrcEmpty k.x i.form.uses act true then some 0x03
  else none

/-- A decode-stage trap (05 R117): the record holds the instruction's words and PMASK 0; ILL, PRIV and BLOCK_ILLEGAL
resume by skip, EMPTY by retry (15 Table 15.1). -/
def State.decodeTrap (s : State) (w : Nat) (cause : BitVec 8) (pc : DWord) (len : Nat) : State :=
  s.takeTrap w { cause, pc, taken := pc, addr := s.iwords, lseq := none, pmask := some 0, dest := s.idest
                 skip := if cause = 0x03 then none else some (pc + BitVec.ofNat 64 len) }

/-! ### The lane-cycle record and the counters (16 R350, 21 R457) -/

/-- The bin of a PC on a chip: the lowest n with LCLOn ≤ PC < LCHIn, else 16. -/
def State.pcBin (s : State) (chip : Nat) (pc : DWord) : Nat :=
  let d := (s.chip chip).dbg
  ((List.range 16).find? fun n =>
    decide ((Table.at d.lclo n 0).toNat ≤ pc.toNat) && decide (pc.toNat < (Table.at d.lchi n 0).toNat)).getD 16

/-- Adds to a lane-cycle counter of 48 bits. -/
def Core.addCycles (c : Core) (sel n : Nat) : Core :=
  if n = 0 then c else { c with laneCycles := Table.put c.laneCycles sel ((Table.at c.laneCycles sel 0 + n) % 2 ^ 48) }

/-- Adds to an event counter of 64 bits. -/
def Core.addPerf (c : Core) (sel n : Nat) : Core :=
  { c with perf := Table.put c.perf sel ((Table.at c.perf sel 0 + n) % 2 ^ 64) }

/-- Counts an event of a core. -/
def State.count (s : State) (core sel n : Nat) : State := s.modCore core fun c => c.addPerf sel n

/-- An issue is counted: each lane in its class, the instruction (16 R350, 21 Table 21.4). -/
def State.countIssue (s : State) (core : Nat) (x : Wave) (group act : List Nat) (pc : DWord) : State :=
  let b := 5 * s.pcBin (chipOfCore core) pc
  let absent := (x.lanesWhere fun t => t.absent).length
  s.modCore core fun c =>
    ((((c.addCycles b act.length).addCycles (b + 2) (group.length - act.length)).addCycles (b + 3) absent).addCycles
      (b + 1) (32 - group.length - absent)).addPerf 128 1

/-! ### After an issue -/

/-- One thread of the group moves on: its guard bit consumed, its program counter updated if it is still issuing
(02 R28, R29; 05 R113), its restart record set if the instruction commits (02 R40); a thread that waits in a
barrier keeps the record at it. -/
def Thread.moveOn (before t : Thread) (after : DWord) (commit : Bool) : Thread :=
  let t := if 0 < before.guard.left then { t with guard := before.guard.consume } else t
  let t := if t.issuing then t.goTo after else t
  if commit && t.st ≠ .waiting then t.commitAt t.pc else t

/-- A store or atomic of the wave has begun to take its entries and goes on when it is issued again (02 R41, 18 R378). -/
def Wave.resuming (x : Wave) : Bool :=
  match x.pend with
  | some (.todo _ _) => true
  | _ => false

/-- The wave's counts after an issue: progress, handler instructions, skid, write stall, aging (16 R338; 15 R312, R317;
03 R73). -/
def Wave.counted (x : Wave) : Wave :=
  { x with
    progress := if x.handler.isSome then x.progress else x.progress + 1
    handlerCount := if x.handler.isSome then x.handlerCount + 1 else x.handlerCount
    skid := if x.halted then x.skid + 1 else x.skid
    skidLeft := if x.halted then x.skidLeft - 1 else x.skidLeft
    stall := 0, passed := 0, aged := none, pend := none, blocked := none }

/-- The number of a two-level name at an issue (16 R347): `%seqno` when the instruction issued, which a command whose lanes wait for room
has taken already (04 R86). -/
def Wave.nameNum (x : Wave) : Word :=
  match x.pend with
  | some (.lanes _) => x.seqno - 1
  | _ => x.seqno

/-- The wave takes STEP after this issue (16 R348). -/
def stepsNow (s : State) (k : Who) (pc : DWord) : Bool :=
  let d := (s.chip k.chip).dbg
  k.x.handler.isNone &&
  ((d.stepid.getLsbD 63 && d.steplr = BitVec.ofNat 64 k.g.launch &&
      (d.stepid.extractLsb' 0 32).toNat = k.g.idx && (d.stepid.extractLsb' 32 2).toNat = k.wg.idx &&
      (d.stepid.extractLsb' 34 5).toNat = k.x.idx) ||
    (d.nsseq.getLsbD 32 && d.nspc = pc && d.nsseq.extractLsb' 0 32 = k.x.nameNum))

/-- What follows an issue: the group moves on, the counts, the next group, STEP (02 R28, 16 R348). `commit` says that
the restart records move past the instruction. -/
def State.finish (s : State) (k : Who) (group act : List Nat) (commit : Bool) (target : Nat → DWord)
    (next : List Nat → Wave → NextIssue) : State :=
  match s.wave? k.w with
  | none => s
  | some x =>
    let pc := k.x.issuePc.getD 0
    let s := if k.x.stall = 0 then s else s.sample k.wg.core 7 k.x.stall
    let x := x.mapLanes group fun l t => (k.x.thread l).moveOn t (target l) commit
    let x := x.counted
    let s := s.countIssue k.wg.core k.x group act pc
    let s := s.settleAs k.w (next group x) x
    let s := if 65536 ≤ x.handlerCount && x.handler.isSome then s.postOnce (.handlerWatchdog k.w) else s
    match s.wave? k.w with
    | none => s
    | some y =>
      if stepsNow s k pc && y.handler.isNone && y.threads.any Thread.live then
        s.preciseTrap k.w 0x0E pc 0
      else s

/-- A waiting instruction (03 R72): its wave takes no opportunity. -/
def State.waits (s : State) : State := { s with waited := true }

/-- Issues an instruction (02 R28; 03 R72; 05 R114, R117): nothing without an issuing wave; a decode-stage fault; a trap
at a convergence point; a wait on an empty register; else the region commit of an instruction that has one, the effect
`eff` in the active lanes, and what follows. An empty source with its E bit set traps at once, also where the destination is empty, for
which 04 R80 has a wait (log 29: DESIGN CHOICE). -/
def issue (i : Instr) (s : State) (eff : Who → List Nat → State → Eff) : State :=
  match s.who with
  | none => s
  | some k =>
    let group := k.x.group
    let act := k.x.active
    let pc := k.x.issuePc.getD 0
    let len := i.form.length
    match (if k.x.resuming then none else decodeFault s k i group act) with
    | some c => s.decodeTrap k.w c pc len
    | none =>
      if i.form.collective && act ≠ [] && k.x.anyParked then s.laneTrap k.w
      else if !k.x.resuming && (anySrcEmpty k.x i.form.uses act false || anyDstEmpty k.x i.form.uses act) then s.waits
      else if !k.x.resuming && i.form.memory && k.x.loads.any (fun e => e.2.acq.isSome) then s.waits
      else
        let next : Nat → DWord := fun _ => pc + BitVec.ofNat 64 len
        let regroup : List Nat → Wave → NextIssue := fun _ x => x.regroup
        if act = [] then s.finish k group act false next regroup
        else
          let commit := i.form.commits && (k.g.ordered || !i.form.token)
          let after := commit && !i.form.stays
          let s := if commit then s.commitLanes k.w group else s
          match eff k act s with
          | .done s => s.finish k group act after next regroup
          | .branch s t => s.finish k group act after t regroup
          | .choose s n => s.finish k group act after next n
          | .wait s => s.waits
          | .gone s => s

/-- Changes the threads of the active lanes. -/
def State.setLanes (s : State) (w : Nat) (act : List Nat) (f : Nat → Thread → Thread) : State :=
  s.modWave w fun x => x.mapLanes act f

/-- A lane's outcome written to a destination; a parked lane keeps its record at the instruction (15 R311). -/
def Thread.land (t : Thread) (o : LaneOut) (d : Opd) (w : Width) (len : Nat) : Thread :=
  match o with
  | .write x f => (t.setFlags f).writeReg d w x
  | .park c a f => (t.setFlags f).park c a (destOf d w) len

/-- An instruction that computes a result in each active lane from its operands alone, and writes it at issue. -/
def issueLanes (i : Instr) (s : State) (d : Opd) (w : Width) (f : State → Who → Nat → LaneOut) : State :=
  issue i s fun k act s =>
    .done (s.setLanes k.w act fun l t => t.land (f s k l) d w i.form.length)

/-- A long-latency result computed at issue (04 R78): its destination marked empty in the active lanes, the values on
their way to be delivered by `LOAD_RETURN`. -/
def State.defer (s : State) (k : Who) (kind : LoadKind) (d : Opd) (w : Width) (lanes : List LoadLane) (pc : DWord)
    (acq : Option Nat) : State × Nat :=
  let id := s.serial
  let c := s.core k.wg.core
  let ld : Load := { kind, d, fmt := { width := regsOf w, bytes := widthBytes w, signed := false }, lanes, acq, pc
                     seq := k.x.seqno, issued := c.clk, order := id, epoch := s.epoch, got := 0, bad := none }
  ({ s.modWave k.w (fun x =>
      { x.mapLanes (lanes.map fun l => l.lane) (fun _ t => t.markEmpty d w) with loads := Table.put x.loads id ld }) with
     serial := id + 1 }, id)

/-- An engine command takes its sequence number, `%seqno` before the increase (04 R86). -/
def State.takeSeq (s : State) (w : Nat) : State := s.modWave w fun x => { x with seqno := x.seqno + 1 }

/-- A lane's value as bytes to deliver. -/
def laneValue (l : Nat) (w : Width) (x : Quad) : LoadLane :=
  { lane := l, src := (bytesOfNat (widthBytes w) x.toNat).map ByteSrc.val, va := 0 }

/-- An instruction that computes a long-latency result in each active lane from its operands alone (06 Table 6.2): flags
and parks at issue, the values delivered later; the destination of a lane that parks holds an undefined value (07 R143). -/
def issueLong (i : Instr) (s : State) (d : Opd) (w : Width) (f : State → Who → Nat → LaneOut) : State :=
  issue i s fun k act s =>
    let outs := act.map fun l => (l, f s k l)
    let vals := outs.filterMap fun e => match e.2 with
      | .write x _ => some (laneValue e.1 w x)
      | .park _ _ _ => none
    let s' := s.setLanes k.w act fun l t => match f s k l with
      | .write _ fl => t.setFlags fl
      | .park c a fl => (t.setFlags fl).park c a (destOf d w) i.form.length
    let parked := (outs.filter fun e => e.2.parks).map fun e => e.1
    let s' := s'.fillParked k.w parked d w
    if vals = [] then .done s'
    else
      let (s', id) := s'.defer k .value d w vals (k.x.issuePc.getD 0) none
      .done (s'.post (.loadReturn k.w id))

end Sys2Proof.Machine
end

