-- ==== Sys2Proof/Machine/Integer.lean ====
section
/-! DEFINITION. Integer, bitwise, shift, bit-field and address instructions (20 R426 to R428, R438; 18 R375, R386, R389;
19 R395; 21 R452; 22 R484, R485), and the moves (21 R449, R450, R458, R459; 22 R489, R490). -/

namespace Sys2Proof.Machine

/-- A source of an extended form in a lane, at the width and type of the instruction. -/
def Who.srcA (k : Who) (s : State) (l : Nat) (f : ExtArgs) : Quad := s.readOpd k.x l f.lit f.ty.width f.ty.imm f.a
def Who.srcB (k : Who) (s : State) (l : Nat) (f : ExtArgs) : Quad := s.readOpd k.x l f.lit f.ty.width f.ty.imm f.b
def Who.srcC (k : Who) (s : State) (l : Nat) (f : ExtArgs) : Quad := s.readOpd k.x l f.lit f.ty.width f.ty.imm f.c

/-- A source read as an integer of a width. -/
def Who.rd (k : Who) (s : State) (l : Nat) (f : ExtArgs) (w : Width) (o : Opd) : Quad :=
  s.readOpd k.x l f.lit w .int o

/-- A result of a type's width in its register or pair: narrow results sign- or zero-extended (07 R132). -/
def extendTo (signed : Bool) {w : Nat} (r : BitVec w) : Quad :=
  if w < 32 then (if signed then (r.signExtend 32).setWidth 128 else r.setWidth 128) else r.setWidth 128

/-- An operation on the low bits of three sources at a type (07 R132). -/
def intRes (ty : Ty) (op : (w : Nat) → Bool → BitVec w → BitVec w → BitVec w → BitVec w) (a b c : Quad) : Quad :=
  let w := ty.bits
  extendTo ty.signed (op w ty.signed (a.setWidth w) (b.setWidth w) (c.setWidth w))

/-- The operations of 20 Table 20.1, at width `w`, signed or natural. -/
def opAdd (w : Nat) (_ : Bool) (a b _c : BitVec w) : BitVec w := a + b
def opSub (w : Nat) (_ : Bool) (a b _c : BitVec w) : BitVec w := a - b
def opMul (w : Nat) (_ : Bool) (a b _c : BitVec w) : BitVec w := a * b
def opMulh (w : Nat) (sg : Bool) (a b _c : BitVec w) : BitVec w :=
  if sg then (a.signExtend (2 * w) * b.signExtend (2 * w)).extractLsb' w w
  else (a.setWidth (2 * w) * b.setWidth (2 * w)).extractLsb' w w
def opMad (w : Nat) (_ : Bool) (a b c : BitVec w) : BitVec w := a * b + c
def opMin (w : Nat) (sg : Bool) (a b _c : BitVec w) : BitVec w :=
  if sg then (if b.slt a then b else a) else (if b.ult a then b else a)
def opMax (w : Nat) (sg : Bool) (a b _c : BitVec w) : BitVec w :=
  if sg then (if a.slt b then b else a) else (if a.ult b then b else a)
def opAbs (w : Nat) (sg : Bool) (a _b _c : BitVec w) : BitVec w := if sg && a.msb then -a else a
/-- Saturating addition: the exact sum clamped to the type's range (07 R133). -/
def opAdds (w : Nat) (sg : Bool) (a b _c : BitVec w) : BitVec w :=
  if sg then
    let x := a.toInt + b.toInt
    if x < -(2 ^ (w - 1)) then BitVec.ofInt w (-(2 ^ (w - 1)))
    else if 2 ^ (w - 1) ≤ x then BitVec.ofInt w (2 ^ (w - 1) - 1)
    else BitVec.ofInt w x
  else
    let x := a.toNat + b.toNat
    if 2 ^ w ≤ x then BitVec.allOnes w else BitVec.ofNat w x
/-- Quotient truncated toward zero (07 R133). -/
def opDiv (w : Nat) (sg : Bool) (a b _c : BitVec w) : BitVec w := if sg then a.sdiv b else a / b
/-- Remainder with the sign of the dividend (07 R133). -/
def opRem (w : Nat) (sg : Bool) (a b _c : BitVec w) : BitVec w := if sg then a.srem b else a % b

/-- An integer instruction of 20 Table 20.1 that writes at issue. -/
def intLanes (i : Instr) (f : ExtArgs) (op : (w : Nat) → Bool → BitVec w → BitVec w → BitVec w → BitVec w)
    (s : State) : State :=
  issueLanes i s f.d f.ty.width fun s k l =>
    .write (intRes f.ty op (k.srcA s l f) (k.srcB s l f) (k.srcC s l f)) 0

/-- A division in a lane (20 R427): by zero it parks with INT_DIVZERO where IDZT is 1, else writes all ones and sets
IDZ. -/
def divLane (op : (w : Nat) → Bool → BitVec w → BitVec w → BitVec w → BitVec w) (f : ExtArgs) (s : State) (k : Who)
    (l : Nat) : LaneOut :=
  if (k.srcB s l f).setWidth f.ty.bits = 0 then
    if (k.x.thread l).idzt then .park 0x0B 0 0
    else .write (extendTo f.ty.signed (BitVec.allOnes f.ty.bits)) flagIDZ
  else .write (intRes f.ty op (k.srcA s l f) (k.srcB s l f) 0) 0

/-- A division: the result is delivered late; with the zero code as destination nothing is. -/
def divLanes (i : Instr) (f : ExtArgs) (op : (w : Nat) → Bool → BitVec w → BitVec w → BitVec w → BitVec w)
    (s : State) : State :=
  if f.d = .zero then issueLanes i s f.d f.ty.width (divLane op f) else issueLong i s f.d f.ty.width (divLane op f)

/-- `IADD`, base form: 20 Table 20.1 at `.i32`. -/
def execIadd (f : BaseArgs) (s : State) : Host.Outcome State Fault Refusal :=
  .next (intLanes (.iadd f) (f.toExt .i32 0) opAdd s)
/-- `IADD`, extended form: 20 Table 20.1 at TY. -/
def execIaddExt (f : ExtArgs) (s : State) : Host.Outcome State Fault Refusal :=
  .next (intLanes (.iaddExt f) f opAdd s)
/-- `ISUB`, base form: 20 Table 20.1 at `.i32`. -/
def execIsub (f : BaseArgs) (s : State) : Host.Outcome State Fault Refusal :=
  .next (intLanes (.isub f) (f.toExt .i32 0) opSub s)
/-- `ISUB`, extended form: 20 Table 20.1 at TY. -/
def execIsubExt (f : ExtArgs) (s : State) : Host.Outcome State Fault Refusal :=
  .next (intLanes (.isubExt f) f opSub s)
/-- `IMUL`, base form: 20 Table 20.1 at `.i32`. -/
def execImul (f : BaseArgs) (s : State) : Host.Outcome State Fault Refusal :=
  .next (intLanes (.imul f) (f.toExt .i32 0) opMul s)
/-- `IMUL`, extended form: 20 Table 20.1 at TY. -/
def execImulExt (f : ExtArgs) (s : State) : Host.Outcome State Fault Refusal :=
  .next (intLanes (.imulExt f) f opMul s)
/-- `IMULH`, base form: 20 Table 20.1 at `.i32`. -/
def execImulh (f : BaseArgs) (s : State) : Host.Outcome State Fault Refusal :=
  .next (intLanes (.imulh f) (f.toExt .i32 0) opMulh s)
/-- `IMULH`, extended form: 20 Table 20.1 at TY. -/
def execImulhExt (f : ExtArgs) (s : State) : Host.Outcome State Fault Refusal :=
  .next (intLanes (.imulhExt f) f opMulh s)
/-- `IMAD`, base form: 20 Table 20.1 at `.i32`. -/
def execImad (f : BaseArgs) (s : State) : Host.Outcome State Fault Refusal :=
  .next (intLanes (.imad f) (f.toExt3 .i32) opMad s)
/-- `IMAD`, extended form: 20 Table 20.1 at TY. -/
def execImadExt (f : ExtArgs) (s : State) : Host.Outcome State Fault Refusal :=
  .next (intLanes (.imadExt f) f opMad s)
/-- `IMIN`, base form: 20 Table 20.1 at `.i32`. -/
def execImin (f : BaseArgs) (s : State) : Host.Outcome State Fault Refusal :=
  .next (intLanes (.imin f) (f.toExt .i32 0) opMin s)
/-- `IMIN`, extended form: 20 Table 20.1 at TY. -/
def execIminExt (f : ExtArgs) (s : State) : Host.Outcome State Fault Refusal :=
  .next (intLanes (.iminExt f) f opMin s)
/-- `IMAX`, base form: 20 Table 20.1 at `.i32`. -/
def execImax (f : BaseArgs) (s : State) : Host.Outcome State Fault Refusal :=
  .next (intLanes (.imax f) (f.toExt .i32 0) opMax s)
/-- `IMAX`, extended form: 20 Table 20.1 at TY. -/
def execImaxExt (f : ExtArgs) (s : State) : Host.Outcome State Fault Refusal :=
  .next (intLanes (.imaxExt f) f opMax s)
/-- `IABS`, base form: 20 Table 20.1 at `.i32`. -/
def execIabs (f : BaseArgs) (s : State) : Host.Outcome State Fault Refusal :=
  .next (intLanes (.iabs f) (f.toExt .i32 0) opAbs s)
/-- `IABS`, extended form: 20 Table 20.1 at TY. -/
def execIabsExt (f : ExtArgs) (s : State) : Host.Outcome State Fault Refusal :=
  .next (intLanes (.iabsExt f) f opAbs s)
/-- `IADDS`, base form: 20 Table 20.1 at `.i32`. -/
def execIadds (f : BaseArgs) (s : State) : Host.Outcome State Fault Refusal :=
  .next (intLanes (.iadds f) (f.toExt .i32 0) opAdds s)
/-- `IADDS`, extended form: 20 Table 20.1 at TY. -/
def execIaddsExt (f : ExtArgs) (s : State) : Host.Outcome State Fault Refusal :=
  .next (intLanes (.iaddsExt f) f opAdds s)
/-- `IDIV`, base form (20 R427). -/
def execIdiv (f : BaseArgs) (s : State) : Host.Outcome State Fault Refusal :=
  .next (divLanes (.idiv f) (f.toExt .i32 0) opDiv s)
/-- `IDIV`, extended form (20 R427). -/
def execIdivExt (f : ExtArgs) (s : State) : Host.Outcome State Fault Refusal :=
  .next (divLanes (.idivExt f) f opDiv s)
/-- `IREM`, base form (20 R427). -/
def execIrem (f : BaseArgs) (s : State) : Host.Outcome State Fault Refusal :=
  .next (divLanes (.irem f) (f.toExt .i32 0) opRem s)
/-- `IREM`, extended form (20 R427). -/
def execIremExt (f : ExtArgs) (s : State) : Host.Outcome State Fault Refusal :=
  .next (divLanes (.iremExt f) f opRem s)

/-! ### Comparison (20 R428) -/

/-- The comparison of 06 Table 6.5 at a type; codes 6 and 7 are not assigned to `ICMP`. -/
def icmpRes (ty : Ty) (md : Nat) (a b : Quad) : Bool :=
  let x := a.setWidth ty.bits
  let y := b.setWidth ty.bits
  let lt (x y : BitVec ty.bits) : Bool := if ty.signed then x.slt y else x.ult y
  match md with
  | 0 => x = y
  | 1 => x ≠ y
  | 2 => lt x y
  | 3 => !lt y x
  | 4 => lt y x
  | _ => !lt x y

/-- A predicate as a result. -/
def boolOut (b : Bool) : LaneOut := .write (if b then 1 else 0) 0

/-- `ICMP` (20 R428). -/
def icmpLanes (i : Instr) (f : ExtArgs) (s : State) : State :=
  issueLanes i s f.d .w32 fun s k l => boolOut (icmpRes f.ty f.md.toNat (k.srcA s l f) (k.srcB s l f))

/-- `ICMP`, base form: `.i32`, XB carries the comparison. -/
def execIcmp (f : BaseArgs) (s : State) : Host.Outcome State Fault Refusal :=
  .next (icmpLanes (.icmp f) (f.toExt .i32 f.xb.toNat) s)
/-- `ICMP`, extended form. -/
def execIcmpExt (f : ExtArgs) (s : State) : Host.Outcome State Fault Refusal := .next (icmpLanes (.icmpExt f) f s)

/-! ### Bitwise operations (18 R375, 21 R452, 22 R504, 18 R389, 19 R395) -/

/-- A bitwise instruction: the sources at the width of TY, the result at a width. -/
def bitLanes (i : Instr) (f : ExtArgs) (wd : Width) (op : (w : Nat) → BitVec w → BitVec w → Quad) (s : State) : State :=
  issueLanes i s f.d wd fun s k l =>
    .write (op f.ty.bits ((k.srcA s l f).setWidth f.ty.bits) ((k.srcB s l f).setWidth f.ty.bits)) 0

/-- Bits set in a number's low `n` bits. -/
def popCount {w : Nat} (a : BitVec w) : Nat := (List.range w).foldl (fun n i => if a.getLsbD i then n + 1 else n) 0

/-- Zero bits above the most significant 1 (19 R395). -/
def leadZeros {w : Nat} (a : BitVec w) : Nat := if a.toNat = 0 then w else w - 1 - Nat.log2 a.toNat

/-- Bit i of the result is bit w − 1 − i (18 R389). -/
def bitRev {w : Nat} (a : BitVec w) : Nat :=
  (List.range w).foldl (fun n i => if a.getLsbD i then n + 2 ^ (w - 1 - i) else n) 0

/-- The operations. -/
def opAnd (w : Nat) (a b : BitVec w) : Quad := (a &&& b).setWidth 128
def opOr (w : Nat) (a b : BitVec w) : Quad := (a ||| b).setWidth 128
def opXor (w : Nat) (a b : BitVec w) : Quad := (a ^^^ b).setWidth 128
def opNot (w : Nat) (a _b : BitVec w) : Quad := (~~~a).setWidth 128
def opPopc (w : Nat) (a _b : BitVec w) : Quad := BitVec.ofNat 128 (popCount a)
def opClz (w : Nat) (a _b : BitVec w) : Quad := BitVec.ofNat 128 (leadZeros a)
def opBrev (w : Nat) (a _b : BitVec w) : Quad := BitVec.ofNat 128 (bitRev a)
def opMov (w : Nat) (a _b : BitVec w) : Quad := a.setWidth 128

/-- `AND`, base form at `.b32`. -/
def execAnd (f : BaseArgs) (s : State) : Host.Outcome State Fault Refusal :=
  .next (bitLanes (.and f) (f.toExt .b32 0) .w32 opAnd s)
/-- `AND`, extended form at TY. -/
def execAndExt (f : ExtArgs) (s : State) : Host.Outcome State Fault Refusal :=
  .next (bitLanes (.andExt f) f f.ty.width opAnd s)
/-- `OR`, base form at `.b32`. -/
def execOr (f : BaseArgs) (s : State) : Host.Outcome State Fault Refusal :=
  .next (bitLanes (.or f) (f.toExt .b32 0) .w32 opOr s)
/-- `OR`, extended form at TY. -/
def execOrExt (f : ExtArgs) (s : State) : Host.Outcome State Fault Refusal :=
  .next (bitLanes (.orExt f) f f.ty.width opOr s)
/-- `XOR`, base form at `.b32`. -/
def execXor (f : BaseArgs) (s : State) : Host.Outcome State Fault Refusal :=
  .next (bitLanes (.xor f) (f.toExt .b32 0) .w32 opXor s)
/-- `XOR`, extended form at TY. -/
def execXorExt (f : ExtArgs) (s : State) : Host.Outcome State Fault Refusal :=
  .next (bitLanes (.xorExt f) f f.ty.width opXor s)
/-- `NOT`, base form at `.b32`. -/
def execNot (f : BaseArgs) (s : State) : Host.Outcome State Fault Refusal :=
  .next (bitLanes (.not f) (f.toExt .b32 0) .w32 opNot s)
/-- `NOT`, extended form at TY. -/
def execNotExt (f : ExtArgs) (s : State) : Host.Outcome State Fault Refusal :=
  .next (bitLanes (.notExt f) f f.ty.width opNot s)
/-- `POPC`, base form at `.b32`. -/
def execPopc (f : BaseArgs) (s : State) : Host.Outcome State Fault Refusal :=
  .next (bitLanes (.popc f) (f.toExt .b32 0) .w32 opPopc s)
/-- `POPC`, extended form at TY. -/
def execPopcExt (f : ExtArgs) (s : State) : Host.Outcome State Fault Refusal :=
  .next (bitLanes (.popcExt f) f .w32 opPopc s)
/-- `CLZ`, base form at `.b32`. -/
def execClz (f : BaseArgs) (s : State) : Host.Outcome State Fault Refusal :=
  .next (bitLanes (.clz f) (f.toExt .b32 0) .w32 opClz s)
/-- `CLZ`, extended form at TY. -/
def execClzExt (f : ExtArgs) (s : State) : Host.Outcome State Fault Refusal :=
  .next (bitLanes (.clzExt f) f .w32 opClz s)
/-- `BREV`, base form at `.b32`. -/
def execBrev (f : BaseArgs) (s : State) : Host.Outcome State Fault Refusal :=
  .next (bitLanes (.brev f) (f.toExt .b32 0) .w32 opBrev s)
/-- `BREV`, extended form at TY. -/
def execBrevExt (f : ExtArgs) (s : State) : Host.Outcome State Fault Refusal :=
  .next (bitLanes (.brevExt f) f f.ty.width opBrev s)
/-- `MOV`, base form at `.b32`. -/
def execMov (f : BaseArgs) (s : State) : Host.Outcome State Fault Refusal :=
  .next (bitLanes (.mov f) (f.toExt .b32 0) .w32 opMov s)
/-- `MOV`, extended form at TY. -/
def execMovExt (f : ExtArgs) (s : State) : Host.Outcome State Fault Refusal :=
  .next (bitLanes (.movExt f) f f.ty.width opMov s)

/-! ### Shifts (22 R485) and rotation (21 R452): B is read as `.n32` -/

/-- A shift: A at the width of TY, B as a 32-bit natural. -/
def shiftLanes (i : Instr) (f : ExtArgs) (op : (w : Nat) → BitVec w → Nat → BitVec w) (s : State) : State :=
  issueLanes i s f.d f.ty.width fun s k l =>
    .write ((op f.ty.bits ((k.srcA s l f).setWidth f.ty.bits) (k.rd s l f .w32 f.b).toNat).setWidth 128) 0

def opShl (w : Nat) (a : BitVec w) (n : Nat) : BitVec w := if n < w then a <<< n else 0
def opShr (w : Nat) (a : BitVec w) (n : Nat) : BitVec w := if n < w then a >>> n else 0
def opSha (w : Nat) (a : BitVec w) (n : Nat) : BitVec w :=
  if n < w then a.sshiftRight n else if a.msb then BitVec.allOnes w else 0
def opRot (w : Nat) (a : BitVec w) (n : Nat) : BitVec w := a.rotateLeft (n % w)

/-- `SHL`, base form at `.b32`. -/
def execShl (f : BaseArgs) (s : State) : Host.Outcome State Fault Refusal :=
  .next (shiftLanes (.shl f) (f.toExt .b32 0) opShl s)
/-- `SHL`, extended form at TY. -/
def execShlExt (f : ExtArgs) (s : State) : Host.Outcome State Fault Refusal :=
  .next (shiftLanes (.shlExt f) f opShl s)
/-- `SHR`, base form at `.b32`. -/
def execShr (f : BaseArgs) (s : State) : Host.Outcome State Fault Refusal :=
  .next (shiftLanes (.shr f) (f.toExt .b32 0) opShr s)
/-- `SHR`, extended form at TY. -/
def execShrExt (f : ExtArgs) (s : State) : Host.Outcome State Fault Refusal :=
  .next (shiftLanes (.shrExt f) f opShr s)
/-- `SHA`, base form at `.i32`. -/
def execSha (f : BaseArgs) (s : State) : Host.Outcome State Fault Refusal :=
  .next (shiftLanes (.sha f) (f.toExt .i32 0) opSha s)
/-- `SHA`, extended form at TY. -/
def execShaExt (f : ExtArgs) (s : State) : Host.Outcome State Fault Refusal :=
  .next (shiftLanes (.shaExt f) f opSha s)
/-- `ROT`, base form at `.b32`. -/
def execRot (f : BaseArgs) (s : State) : Host.Outcome State Fault Refusal :=
  .next (shiftLanes (.rot f) (f.toExt .b32 0) opRot s)
/-- `ROT`, extended form at TY. -/
def execRotExt (f : ExtArgs) (s : State) : Host.Outcome State Fault Refusal :=
  .next (shiftLanes (.rotExt f) f opRot s)

/-! ### Bit fields, selection, addresses (18 R386, 22 R484, 20 R438) -/

/-- `BFX` (18 R386): `len` bits from `pos`, extended by the type. -/
def bfxRes {w : Nat} (signed : Bool) (a : BitVec w) (pos len : Nat) : BitVec w :=
  let len := min len w
  let x : BitVec w := if signed then (if pos < w then a.sshiftRight pos else if a.msb then BitVec.allOnes w else 0)
    else if pos < w then a >>> pos else 0
  let low : BitVec w := BitVec.ofNat w (2 ^ len - 1)
  if signed && decide (0 < len) && x.getLsbD (len - 1) then (x &&& low) ||| ~~~low else x &&& low

/-- `BFI` (18 R386): the low `len` bits of a placed in b from `pos`. -/
def bfiRes {w : Nat} (a b : BitVec w) (pos len : Nat) : BitVec w :=
  let mask : BitVec w := BitVec.ofNat w ((2 ^ (min len w) - 1) * 2 ^ pos)
  let field : BitVec w := BitVec.ofNat w (a.toNat * 2 ^ pos)
  (b &&& ~~~mask) ||| (field &&& mask)

/-- `BFX`. -/
def execBfx (f : ExtArgs) (s : State) : Host.Outcome State Fault Refusal :=
  .next (issueLanes (.bfx f) s f.d f.ty.width fun s k l =>
    let ctl := (k.rd s l f .w32 f.b).toNat
    .write ((bfxRes f.ty.signed ((k.srcA s l f).setWidth f.ty.bits) (bits ctl 0 8) (bits ctl 8 8)).setWidth 128) 0)

/-- `BFI`. -/
def execBfi (f : ExtArgs) (s : State) : Host.Outcome State Fault Refusal :=
  .next (issueLanes (.bfi f) s f.d f.ty.width fun s k l =>
    let ctl := (k.rd s l f .w32 f.c).toNat
    .write ((bfiRes ((k.srcA s l f).setWidth f.ty.bits) ((k.srcB s l f).setWidth f.ty.bits) (bits ctl 0 8)
      (bits ctl 8 8)).setWidth 128) 0)

/-- `SEL`, base form: XB names `p0` to `p3`. -/
def execSel (f : BaseArgs) (s : State) : Host.Outcome State Fault Refusal :=
  .next (issueLanes (.sel f) s f.d .w32 fun s k l =>
    let g := f.toExt .b32 0
    .write (if (k.x.thread l).readPred (.pred (f.xb.setWidth 3) false) then k.srcA s l g else k.srcB s l g) 0)

/-- `SEL`, extended form: C9 names the predicate. -/
def execSelExt (f : ExtArgs) (s : State) : Host.Outcome State Fault Refusal :=
  .next (issueLanes (.selExt f) s f.d f.ty.width fun s k l =>
    .write (if (k.x.thread l).readPred f.c then k.srcA s l f else k.srcB s l f) 0)

/-- `LEA` (20 R438). -/
def execLea (f : ExtArgs) (s : State) : Host.Outcome State Fault Refusal :=
  .next (issueLanes (.lea f) s f.d .w64 fun s k l =>
    let a : DWord := (k.rd s l f .w64 f.a).setWidth 64
    let b := k.srcB s l f
    let x : DWord := if f.ty = .i32 then (b.setWidth 32).signExtend 64 else b.setWidth 64
    .write ((a + (x <<< (f.aux.toNat % 8)) + f.offset).setWidth 128) 0)

/-! ### Moves (21 R450, R458, R459; 22 R490) -/

/-- `MOVI`: the 64-bit literal to a pair. -/
def execMovi (f : BaseArgs) (s : State) : Host.Outcome State Fault Refusal :=
  .next (issueLanes (.movi f) s f.d .w64 fun _ _ _ => .write ((f.lit.getD 0).setWidth 128) 0)

/-- The number of a special-register operand. -/
def sregNum (o : Opd) : BitVec 4 :=
  match o with
  | .sreg n => n
  | _ => 0

/-- The width of a special register (04 Table 4.3). -/
def sregWidth (n : BitVec 4) : Width := if sregWide n then .w64 else .w32

/-- `SRD`, base form. -/
def execSrd (f : BaseArgs) (s : State) : Host.Outcome State Fault Refusal :=
  .next (issueLanes (.srd f) s f.d (sregWidth (sregNum f.a)) fun s k l => .write (s.sreg k.x l (sregNum f.a)) 0)

/-- `SRD`, extended form: X18 names the register. -/
def execSrdExt (f : ExtArgs) (s : State) : Host.Outcome State Fault Refusal :=
  .next (issueLanes (.srdExt f) s f.d (sregWidth (f.x18.setWidth 4)) fun s k l =>
    .write (s.sreg k.x l (f.x18.setWidth 4)) 0)

/-- A thread's special register written (04 Tables 4.3 to 4.5): `%meet`, `%fpctl` [3:0], `%fpflags` [5:0]. -/
def Thread.writeSreg (t : Thread) (n : BitVec 4) (v : Quad) : Thread :=
  match n.toNat with
  | 9 => { t with meet := v.setWidth 64 }
  | 10 => { t with fpctl := v.setWidth 32 &&& 0xF }
  | 11 => { t with fpflags := v.setWidth 32 &&& 0x3F }
  | _ => t

/-- `SWR` (22 R490); a DRM of 5 to 7 in an active lane is ILL (04 R84), which `dynIll` checks. -/
def swrLanes (i : Instr) (n : BitVec 4) (lit : Option DWord) (a : Opd) (s : State) : State :=
  issue i s fun k act s =>
    .done (s.setLanes k.w act fun l t => t.writeSreg n (s.readOpd k.x l lit (sregWidth n) .int a))

/-- `SWR`, base form. -/
def execSwr (f : BaseArgs) (s : State) : Host.Outcome State Fault Refusal :=
  .next (swrLanes (.swr f) (sregNum f.d) f.lit f.a s)
/-- `SWR`, extended form. -/
def execSwrExt (f : ExtArgs) (s : State) : Host.Outcome State Fault Refusal :=
  .next (swrLanes (.swrExt f) (f.x18.setWidth 4) f.lit f.a s)

/-- `PMOV` in its four modes (21 R459). -/
def pmovLanes (i : Instr) (f : ExtArgs) (s : State) : State :=
  match f.md.toNat with
  | 0 => issueLanes i s f.d .w32 fun s k l => boolOut ((k.rd s l f .w32 f.a).setWidth 32 ≠ 0#32)
  | 1 => issueLanes i s f.d .w32 fun _ k l => boolOut ((k.x.thread l).readPred f.a)
  | 2 => issueLanes i s f.d .w32 fun _ k l => .write ((k.x.thread l).p.setWidth 128) 0
  | _ => issue i s fun k act s =>
      .done (s.setLanes k.w act fun l t => { t with p := (k.rd s l f .w32 f.a).setWidth 8 })

/-- `PMOV`, base form: XB is the mode. -/
def execPmov (f : BaseArgs) (s : State) : Host.Outcome State Fault Refusal :=
  .next (pmovLanes (.pmov f) (f.toExt .i32 f.xb.toNat) s)
/-- `PMOV`, extended form. -/
def execPmovExt (f : ExtArgs) (s : State) : Host.Outcome State Fault Refusal := .next (pmovLanes (.pmovExt f) f s)

/-- The functions of `PLOG` (06 R130). -/
def plogRes (fn : BitVec 2) (x y : Bool) : Bool :=
  match fn.toNat with
  | 0 => x && y
  | 1 => x || y
  | 2 => xor x y
  | _ => x && !y

/-- `PLOG` (21 R458). -/
def execPlog (f : BaseArgs) (s : State) : Host.Outcome State Fault Refusal :=
  .next (issueLanes (.plog f) s f.d .w32 fun _ k l =>
    boolOut (plogRes f.xb ((k.x.thread l).readPred f.a) ((k.x.thread l).readPred f.b)))

end Sys2Proof.Machine
end

