-- ==== Sys2Proof/Machine/Real.lean ====
section
/-! DEFINITION. Number formats, exact values and the one rounding (07 R134 to R144): values as dyadic numbers, `Round`
with its exceptions, arithmetic on exact values, roots, and the four transcendental functions to enough bits. -/

namespace Sys2Proof.Machine

/-! ### Formats (07 Table 7.1) -/

/-- A floating format: exponent and fraction bits, bias, the magnitude codes of the largest finite number, of infinity
and of the canonical NaN. -/
structure Fmt where
  e : Nat
  m : Nat
  bias : Nat
  largest : Nat
  inf : Option Nat
  nan : Option Nat
  deriving DecidableEq, Repr

def fmtF32 : Fmt := { e := 8, m := 23, bias := 127, largest := 0x7F7FFFFF, inf := some 0x7F800000, nan := some 0x7FC00000 }
def fmtF16 : Fmt := { e := 5, m := 10, bias := 15, largest := 0x7BFF, inf := some 0x7C00, nan := some 0x7E00 }
def fmtBf16 : Fmt := { e := 8, m := 7, bias := 127, largest := 0x7F7F, inf := some 0x7F80, nan := some 0x7FC0 }
def fmtE5m2 : Fmt := { e := 5, m := 2, bias := 15, largest := 0x7B, inf := some 0x7C, nan := some 0x7E }
def fmtE4m3 : Fmt := { e := 4, m := 3, bias := 7, largest := 0x7E, inf := none, nan := some 0x7F }
def fmtE3m2 : Fmt := { e := 3, m := 2, bias := 3, largest := 0x1F, inf := none, nan := none }
def fmtE2m3 : Fmt := { e := 2, m := 3, bias := 1, largest := 0x1F, inf := none, nan := none }
/-- The binary128 of wide accumulators (07 R153). -/
def fmtQuad : Fmt :=
  { e := 15, m := 112, bias := 16383, largest := 0x7FFF * 2 ^ 112 - 1, inf := some (0x7FFF * 2 ^ 112)
    nan := some (0x7FFF * 2 ^ 112 + 2 ^ 111) }

/-- The floating format of a type. -/
def fmtOf : Ty → Fmt
  | .f16 => fmtF16
  | .bf16 => fmtBf16
  | .e4m3 => fmtE4m3
  | .e5m2 => fmtE5m2
  | .e3m2 => fmtE3m2
  | .e2m3 => fmtE2m3
  | _ => fmtF32

/-! ### Values -/

/-- A value of a format: a NaN (signalling or not), an infinity, or ±mant·2^exp; `mant` 0 is a signed zero. -/
inductive Num where
  | nan (sig : Bool)
  | inf (neg : Bool)
  | fin (neg : Bool) (mant : Nat) (exp : Int)
  deriving DecidableEq, Repr

/-- The value of a code (07 R134, R135). -/
def Fmt.read (f : Fmt) (x : Nat) : Num :=
  let w := f.e + f.m
  let neg := bit x w
  let mag := x % 2 ^ w
  if f.inf = some mag then .inf neg
  else if f.largest < mag then .nan (f.inf.isSome && !bit mag (f.m - 1))
  else if mag / 2 ^ f.m = 0 then .fin neg (mag % 2 ^ f.m) (1 - (f.bias : Int) - f.m)
  else .fin neg (2 ^ f.m + mag % 2 ^ f.m) ((mag / 2 ^ f.m : Nat) - (f.bias : Int) - f.m)

/-- A NaN of either kind. -/
def Num.isNan : Num → Bool
  | .nan _ => true
  | _ => false

/-- A signalling NaN. -/
def Num.isSig : Num → Bool
  | .nan b => b
  | _ => false

/-- The opposite sign; a NaN has none. -/
def Num.neg : Num → Num
  | .inf n => .inf (!n)
  | .fin n m e => .fin (!n) m e
  | x => x

/-- The sign. -/
def Num.sign : Num → Bool
  | .inf n => n
  | .fin n _ _ => n
  | _ => false

/-- A zero. -/
def Num.isZero : Num → Bool
  | .fin _ m _ => m = 0
  | _ => false

/-- An integer as a value. -/
def Num.ofInt (x : Int) : Num := .fin (decide (x < 0)) x.natAbs 0

/-- The signed mantissa of ±mant·2^exp at a smaller exponent. -/
def signedAt (neg : Bool) (mant : Nat) (exp e0 : Int) : Int :=
  let v : Int := mant * 2 ^ (exp - e0).toNat
  if neg then -v else v

/-- `x < y` for two values that are no NaN; −0 = +0. -/
def Num.lt (x y : Num) : Bool :=
  match x, y with
  | .inf a, .inf b => a && !b
  | .inf a, _ => a
  | _, .inf b => !b
  | .fin na ma ea, .fin nb mb eb =>
    let e0 := min ea eb
    decide (signedAt na ma ea e0 < signedAt nb mb eb e0)
  | _, _ => false

/-- Equal values; −0 = +0. -/
def Num.eqv (x y : Num) : Bool := !x.isNan && !y.isNan && !x.lt y && !y.lt x

/-! ### Round (07 R139, R142) -/

/-- An exact result: a NaN, an infinity, or ±(mant + σ)·2^exp, where σ is 0, or strictly between 0 and 1 when `sticky`. -/
inductive Res where
  | nan
  | inf (neg : Bool)
  | val (neg : Bool) (mant : Nat) (exp : Int) (sticky : Bool)
  deriving DecidableEq, Repr

/-- Whether rounding goes away from zero, given the kept units, the rest of 2^shift and σ. -/
def roundUp (mode : RoundMode) (neg : Bool) (units rest half : Nat) (sticky : Bool) : Bool :=
  let inexact := decide (rest ≠ 0) || sticky
  let tie := rest = half && !sticky
  let above := decide (half < rest) || (rest = half && sticky)
  match mode with
  | .rne => above || (tie && units % 2 = 1)
  | .rna => above || tie
  | .rz => false
  | .ru => inexact && !neg
  | .rd => inexact && neg

/-- ±(mant + σ)·2^exp in units of 2^q, rounded, and whether that is inexact. A sticky value is given with `exp < q`. -/
def roundAt (mode : RoundMode) (neg : Bool) (mant : Nat) (exp : Int) (sticky : Bool) (q : Int) : Nat × Bool :=
  if q ≤ exp then (mant * 2 ^ (exp - q).toNat, sticky)
  else
    let sh := (q - exp).toNat
    let units := mant / 2 ^ sh
    let rest := mant % 2 ^ sh
    (if roundUp mode neg units rest (2 ^ (sh - 1)) sticky then units + 1 else units, decide (rest ≠ 0) || sticky)

/-- Table 7.3: an overflow goes to infinity, or to the largest number. -/
def overflowInf (mode : RoundMode) (neg : Bool) : Bool :=
  match mode with
  | .rne | .rna => true
  | .rz => false
  | .ru => !neg
  | .rd => neg

/-- The sign bit of a format. -/
def Fmt.signBit (f : Fmt) (neg : Bool) : Nat := if neg then 2 ^ (f.e + f.m) else 0

/-- Rounds a finite exact value to a format: the code and OF, UF, NX. Tininess is seen after rounding with an unbounded
exponent. -/
def Fmt.roundFin (f : Fmt) (mode : RoundMode) (neg : Bool) (mant : Nat) (exp : Int) (sticky : Bool) : Nat × Word :=
  if mant = 0 && !sticky then (f.signBit neg, 0)
  else
    let q0 : Int := 1 - (f.bias : Int) - f.m
    let top : Int := Nat.log2 mant + exp
    let q := max q0 (top - f.m)
    let (units, inexact) := roundAt mode neg mant exp sticky q
    let code := (q - q0).toNat * 2 ^ f.m + units
    let (u2, _) := roundAt mode neg mant exp sticky (top - f.m)
    let tiny := decide (Nat.log2 u2 + (top - f.m) < 1 - (f.bias : Int))
    if f.largest < code then
      (f.signBit neg + (match f.inf with
        | some i => if overflowInf mode neg then i else f.largest
        | none => f.largest), flagOF ||| flagNX)
    else (f.signBit neg + code, flagIf inexact flagNX ||| flagIf (inexact && tiny) flagUF)

/-- The code of an exact result in a format, with the flags of the rounding; what a format lacks follows 07 R144. -/
def Fmt.put (f : Fmt) (mode : RoundMode) (r : Res) : Nat × Word :=
  match r with
  | .nan => match f.nan with
    | some n => (n, 0)
    | none => (0, flagNV)
  | .inf neg => match f.inf with
    | some i => (f.signBit neg + i, 0)
    | none => match f.nan with
      | some n => (n, flagNV)
      | none => (f.signBit neg + f.largest, flagNV)
  | .val neg mant exp sticky => f.roundFin mode neg mant exp sticky

/-! ### Exact arithmetic -/

/-- A value as a result, NaN canonical. -/
def Num.res : Num → Res
  | .nan _ => .nan
  | .inf n => .inf n
  | .fin n m e => .val n m e false

/-- NV for a signalling NaN among some sources. -/
def sigNV (xs : List Num) : Word := flagIf (xs.any Num.isSig) flagNV

/-- The exact sum of terms, with the sign rule of zeros (07 R141), and whether infinities of both signs meet. -/
def sumNums (mode : RoundMode) (xs : List Num) : Res × Bool :=
  if xs.any Num.isNan then (.nan, xs.contains (.inf true) && xs.contains (.inf false))
  else if xs.contains (.inf true) && xs.contains (.inf false) then (.nan, true)
  else if xs.contains (.inf true) then (.inf true, false)
  else if xs.contains (.inf false) then (.inf false, false)
  else
    let e0 := xs.foldl (fun e x => match x with
      | .fin _ _ ex => min e ex
      | _ => e) 0
    let t := xs.foldl (fun s x => match x with
      | .fin n m ex => s + signedAt n m ex e0
      | _ => s) (0 : Int)
    if t = 0 then
      let neg := if xs.all (fun x => x.isZero && x.sign) then true
        else if xs.all (fun x => x.isZero && !x.sign) then false else mode = .rd
      (.val neg 0 0 false, false)
    else (.val (decide (t < 0)) t.natAbs e0 false, false)

/-- An exact product, and whether it is 0 · ∞. -/
def mulNum (x y : Num) : Num × Bool :=
  match x, y with
  | .nan _, _ => (.nan false, false)
  | _, .nan _ => (.nan false, false)
  | .inf a, y => if y.isZero then (.nan false, true) else (.inf (xor a y.sign), false)
  | x, .inf b => if x.isZero then (.nan false, true) else (.inf (xor x.sign b), false)
  | .fin a m e, .fin b n g => (.fin (xor a b) (m * n) (e + g), false)

/-- A quotient of nonzero finite magnitudes, to 160 bits. -/
def divMag (neg : Bool) (m : Nat) (e : Int) (n : Nat) (g : Int) : Res :=
  let k := 160 + Nat.log2 n
  let x := m * 2 ^ k
  .val neg (x / n) (e - g - k) (decide (x % n ≠ 0))

/-- A quotient and its NV or DZ (20 R409, 07 R142). -/
def divNum (x y : Num) : Res × Word :=
  let s := xor x.sign y.sign
  match x, y with
  | .nan _, _ => (.nan, 0)
  | _, .nan _ => (.nan, 0)
  | .inf _, .inf _ => (.nan, flagNV)
  | .inf _, _ => (.inf s, 0)
  | _, .inf _ => (.val s 0 0 false, 0)
  | .fin _ m e, .fin _ n g =>
    if n = 0 then (if m = 0 then (.nan, flagNV) else (.inf s, flagDZ))
    else if m = 0 then (.val s 0 0 false, 0)
    else (divMag s m e n g, 0)

/-- The integer square root by Newton's method, from above. -/
def isqrtFrom : Nat → Nat → Nat → Nat
  | 0, _, x => x
  | k + 1, n, x =>
    let y := (x + n / x) / 2
    if y < x then isqrtFrom k n y else x

/-- ⌊√n⌋. -/
def isqrt (n : Nat) : Nat := if n = 0 then 0 else isqrtFrom 64 n (2 ^ (Nat.log2 n / 2 + 1))

/-- A square root (19 Table 19.4). -/
def sqrtNum (x : Num) : Res × Word :=
  match x with
  | .nan _ => (.nan, 0)
  | .inf neg => if neg then (.nan, flagNV) else (.inf false, 0)
  | .fin neg m e =>
    if m = 0 then (.val neg 0 0 false, 0)
    else if neg then (.nan, flagNV)
    else
      let odd := e % 2 ≠ 0
      let n := (if odd then 2 * m else m) * 2 ^ 320
      let g := (if odd then e - 1 else e) / 2 - 160
      let r := isqrt n
      (.val false r g (decide (r * r ≠ n)), 0)

/-- 1/√a. -/
def rsqrtNum (x : Num) : Res × Word :=
  match x with
  | .nan _ => (.nan, 0)
  | .inf neg => if neg then (.nan, flagNV) else (.val false 0 0 false, 0)
  | .fin neg m e =>
    if m = 0 then (.inf neg, flagDZ)
    else if neg then (.nan, flagNV)
    else
      let odd := e % 2 ≠ 0
      let n := if odd then 2 * m else m
      let g := (if odd then e - 1 else e) / 2
      let r := isqrt (2 ^ 640 / n)
      (.val false r (-g - 320) (decide (r * r * n ≠ 2 ^ 640)), 0)

/-- A value rounded to an integer, as a natural magnitude, with its exactness. -/
def roundInt (mode : RoundMode) (neg : Bool) (m : Nat) (e : Int) : Nat × Bool := roundAt mode neg m e false 0

/-! ### Transcendental functions, in fixed point with 512 fraction bits

A float of 24 bits or fewer, no exact case among them, leaves its result further from every rounding boundary than
2^−300 times the result's size, so the first bits decide every rounding. -/

/-- 2^512. -/
def one512 : Nat := 2 ^ 512

/-- Σ ± x^(2k+1)/(2k+1) from a term x^(2k+1) on; `sq` is x², both scaled. -/
def atanSum (alt : Bool) : Nat → Nat → Nat → Nat → Int
  | 0, _, _, _ => 0
  | n + 1, term, sq, d =>
    let rest := atanSum alt n (term * sq / one512) sq (d + 2)
    (term / d : Nat) + (if alt then -rest else rest)

/-- ln 2 = 2·artanh(1/3). -/
def ln2 : Nat := 2 * (atanSum false 170 (one512 / 3) (one512 / 9) 1).toNat

/-- π by Machin's formula. -/
def pi512 : Nat :=
  (16 * atanSum true 116 (one512 / 5) (one512 / 25) 1 - 4 * atanSum true 40 (one512 / 239) (one512 / 57121) 1).toNat

/-- Σ x^k/k! from a term on. -/
def expSum : Nat → Nat → Nat → Nat → Nat
  | 0, _, _, _ => 0
  | n + 1, term, x, k => term + expSum n (term * x / one512 / (k + 1)) x (k + 1)

/-- Alternating Σ of the sine or cosine from a term on; the next term is divided by d·(d+1). -/
def trigSum : Nat → Nat → Nat → Nat → Int
  | 0, _, _, _ => 0
  | n + 1, term, sq, d => (term : Int) - trigSum n (term * sq / one512 / (d * (d + 1))) sq (d + 2)

/-- sin and cos of a fixed-point number in [0, π/2]. -/
def sinFix (r : Nat) : Nat := (trigSum 60 r (r * r / one512) 2).toNat
def cosFix (r : Nat) : Nat := (trigSum 60 one512 (r * r / one512) 1).toNat

/-- 2^a (19 Table 19.4): exact for an integer, else 2^n·e^(f·ln 2) with 0 < f < 1. -/
def exp2Num (x : Num) : Res × Word :=
  match x with
  | .nan _ => (.nan, 0)
  | .inf neg => (if neg then .val false 0 0 false else .inf false, 0)
  | .fin neg m e =>
    if m = 0 then (.val false 1 0 false, 0)
    else if 12 < (Nat.log2 m : Int) + e then (.val false 1 (if neg then -8192 else 8192) false, 0)
    else
      let a := if e < 0 then m * one512 / 2 ^ (-e).toNat else m * one512 * 2 ^ e.toNat
      let v : Int := if neg then -(a : Int) else a
      let n := v / one512
      let f := (v % one512).toNat
      if f = 0 then (.val false 1 n false, 0)
      else (.val false (expSum 110 one512 (f * ln2 / one512) 0) (n - 512) true, 0)

/-- log2 a (19 Table 19.4): exact for a power of two. -/
def log2Num (x : Num) : Res × Word :=
  match x with
  | .nan _ => (.nan, 0)
  | .inf neg => if neg then (.nan, flagNV) else (.inf false, 0)
  | .fin neg m e =>
    if m = 0 then (.inf true, flagDZ)
    else if neg then (.nan, flagNV)
    else
      let t := Nat.log2 m
      let n : Int := t + e
      if m = 2 ^ t then (.val (decide (n < 0)) n.natAbs 0 false, 0)
      else
        let d := m - 2 ^ t
        let z := d * one512 / (m + 2 ^ t)
        let l := 2 * (atanSum false 170 z (z * z / one512) 1).toNat * one512 / ln2
        let v : Int := n * one512 + l
        (.val (decide (v < 0)) v.natAbs (-512) true, 0)

/-- sin a, or cos a where `co` (19 Table 19.4). -/
def trigNum (co : Bool) (x : Num) : Res × Word :=
  match x with
  | .nan _ => (.nan, 0)
  | .inf _ => (.nan, flagNV)
  | .fin neg m e =>
    if m = 0 then (if co then .val false 1 0 false else .val neg 0 0 false, 0)
    else
      let a := if e < 0 then m * one512 / 2 ^ (-e).toNat else m * one512 * 2 ^ e.toNat
      let h := pi512 / 2
      let r := a % h
      let k := (a / h + if co then 1 else 0) % 4
      let v := if k % 2 = 0 then sinFix r else cosFix r
      (.val (xor (decide (2 ≤ k)) (neg && !co)) v (-512) true, 0)

end Sys2Proof.Machine
end

