-- ==== Sys2Proof/Machine/Float.lean ====
section
/-! DEFINITION. Floating-point instructions (19 R408 to R416; 07 R138 to R143, R158, R160). -/

namespace Sys2Proof.Machine

/-- A value at a type. -/
def numAt (ty : Ty) (x : Quad) : Num := (fmtOf ty).read (x.toNat % 2 ^ ty.bits)

/-- The result at a type with the flags of the operation, its rounding and its signalling sources. -/
def putAt (ty : Ty) (mode : RoundMode) (srcs : List Num) (r : Res × Word) : Quad × Word :=
  let (c, fl) := (fmtOf ty).put mode r.1
  (BitVec.ofNat 128 c, fl ||| r.2 ||| sigNV srcs)

/-- A floating operation of up to three sources in a lane (19 R409). -/
def floatLane (f : ExtArgs) (op : RoundMode → List Num → Res × Word) (srcs : State → Who → Nat → List Num) (s : State)
    (k : Who) (l : Nat) : LaneOut :=
  let mode := (k.x.thread l).roundMode f.rm
  let xs := srcs s k l
  fpOut k.g.mode (putAt f.ty mode xs (op mode xs))

/-- Sources A; A and B; A, B and C at TY. -/
def src1 (f : ExtArgs) (s : State) (k : Who) (l : Nat) : List Num := [numAt f.ty (k.srcA s l f)]
def src2 (f : ExtArgs) (s : State) (k : Who) (l : Nat) : List Num :=
  [numAt f.ty (k.srcA s l f), numAt f.ty (k.srcB s l f)]
def src3 (f : ExtArgs) (s : State) (k : Who) (l : Nat) : List Num :=
  [numAt f.ty (k.srcA s l f), numAt f.ty (k.srcB s l f), numAt f.ty (k.srcC s l f)]

/-- The first, second and third source. -/
def nth (xs : List Num) (i : Nat) : Num := xs.getD i (.fin false 0 0)

/-- a + b, with NV for ∞ − ∞. -/
def sumRes (mode : RoundMode) (xs : List Num) : Res × Word :=
  let (r, bad) := sumNums mode xs
  (r, flagIf (bad && !xs.any Num.isNan) flagNV)

/-- The operations of 19 Table 19.3. -/
def fAdd (mode : RoundMode) (xs : List Num) : Res × Word := sumRes mode [nth xs 0, nth xs 1]
def fSub (mode : RoundMode) (xs : List Num) : Res × Word := sumRes mode [nth xs 0, (nth xs 1).neg]
def fMul (_ : RoundMode) (xs : List Num) : Res × Word :=
  let (p, bad) := mulNum (nth xs 0) (nth xs 1)
  (p.res, flagIf bad flagNV)
/-- a·b + c: NV for 0 · ∞ whatever c is, and for infinities of both signs. -/
def fFma (mode : RoundMode) (xs : List Num) : Res × Word :=
  let (p, bad) := mulNum (nth xs 0) (nth xs 1)
  let (r, w) := sumRes mode [p, nth xs 2]
  (r, w ||| flagIf bad flagNV)
def fDiv (_ : RoundMode) (xs : List Num) : Res × Word := divNum (nth xs 0) (nth xs 1)
def fRcp (_ : RoundMode) (xs : List Num) : Res × Word := divNum (.fin false 1 0) (nth xs 0)
def fRsq (_ : RoundMode) (xs : List Num) : Res × Word := rsqrtNum (nth xs 0)
def fSqrt (_ : RoundMode) (xs : List Num) : Res × Word := sqrtNum (nth xs 0)
def fExp2 (_ : RoundMode) (xs : List Num) : Res × Word := exp2Num (nth xs 0)
def fLog2 (_ : RoundMode) (xs : List Num) : Res × Word := log2Num (nth xs 0)
def fSin (_ : RoundMode) (xs : List Num) : Res × Word := trigNum false (nth xs 0)
def fCos (_ : RoundMode) (xs : List Num) : Res × Word := trigNum true (nth xs 0)
/-- An integral value; never NX, OF or UF. -/
def fRnd (mode : RoundMode) (xs : List Num) : Res × Word :=
  match nth xs 0 with
  | .fin neg m e => (.val neg (roundInt mode neg m e).1 0 false, 0)
  | x => (x.res, 0)
/-- a · 2^n; beyond ±4,096 the result no longer depends on n. -/
def fScl (n : Int) (_ : RoundMode) (xs : List Num) : Res × Word :=
  match nth xs 0 with
  | .fin neg m e => (.val neg m (e + max (-4096) (min 4096 n)) false, 0)
  | x => (x.res, 0)

/-- An instruction of 19 Table 19.3 that writes at issue. -/
def floatNow (i : Instr) (f : ExtArgs) (op : RoundMode → List Num → Res × Word)
    (srcs : ExtArgs → State → Who → Nat → List Num) (s : State) : State :=
  issueLanes i s f.d .w32 (floatLane f op (srcs f))

/-- One that delivers later (R408, LL); with the zero code as destination nothing is delivered. -/
def floatLate (i : Instr) (f : ExtArgs) (op : RoundMode → List Num → Res × Word)
    (srcs : ExtArgs → State → Who → Nat → List Num) (s : State) : State :=
  if f.d = .zero then issueLanes i s f.d .w32 (floatLane f op (srcs f))
  else issueLong i s f.d .w32 (floatLane f op (srcs f))

/-- `FADD` (19 Table 19.3), base form. -/
def execFadd (f : BaseArgs) (s : State) : Host.Outcome State Fault Refusal :=
  .next (floatNow (.fadd f) (f.toExt .f32 0) fAdd src2 s)
/-- `FADD`, extended form. -/
def execFaddExt (f : ExtArgs) (s : State) : Host.Outcome State Fault Refusal :=
  .next (floatNow (.faddExt f) f fAdd src2 s)
/-- `FSUB`, base form. -/
def execFsub (f : BaseArgs) (s : State) : Host.Outcome State Fault Refusal :=
  .next (floatNow (.fsub f) (f.toExt .f32 0) fSub src2 s)
/-- `FSUB`, extended form. -/
def execFsubExt (f : ExtArgs) (s : State) : Host.Outcome State Fault Refusal :=
  .next (floatNow (.fsubExt f) f fSub src2 s)
/-- `FMUL`, base form. -/
def execFmul (f : BaseArgs) (s : State) : Host.Outcome State Fault Refusal :=
  .next (floatNow (.fmul f) (f.toExt .f32 0) fMul src2 s)
/-- `FMUL`, extended form. -/
def execFmulExt (f : ExtArgs) (s : State) : Host.Outcome State Fault Refusal :=
  .next (floatNow (.fmulExt f) f fMul src2 s)
/-- `FFMA`, base form: c is D (05 R101). -/
def execFfma (f : BaseArgs) (s : State) : Host.Outcome State Fault Refusal :=
  .next (floatNow (.ffma f) (f.toExt3 .f32) fFma src3 s)
/-- `FFMA`, extended form. -/
def execFfmaExt (f : ExtArgs) (s : State) : Host.Outcome State Fault Refusal :=
  .next (floatNow (.ffmaExt f) f fFma src3 s)
/-- `FRCP`, base form. -/
def execFrcp (f : BaseArgs) (s : State) : Host.Outcome State Fault Refusal :=
  .next (floatLate (.frcp f) (f.toExt .f32 0) fRcp src1 s)
/-- `FRCP`, extended form. -/
def execFrcpExt (f : ExtArgs) (s : State) : Host.Outcome State Fault Refusal :=
  .next (floatLate (.frcpExt f) f fRcp src1 s)
/-- `FRSQ`, base form. -/
def execFrsq (f : BaseArgs) (s : State) : Host.Outcome State Fault Refusal :=
  .next (floatLate (.frsq f) (f.toExt .f32 0) fRsq src1 s)
/-- `FRSQ`, extended form. -/
def execFrsqExt (f : ExtArgs) (s : State) : Host.Outcome State Fault Refusal :=
  .next (floatLate (.frsqExt f) f fRsq src1 s)
/-- `FSQRT`, base form. -/
def execFsqrt (f : BaseArgs) (s : State) : Host.Outcome State Fault Refusal :=
  .next (floatLate (.fsqrt f) (f.toExt .f32 0) fSqrt src1 s)
/-- `FSQRT`, extended form. -/
def execFsqrtExt (f : ExtArgs) (s : State) : Host.Outcome State Fault Refusal :=
  .next (floatLate (.fsqrtExt f) f fSqrt src1 s)
/-- `FEXP2`, base form. -/
def execFexp2 (f : BaseArgs) (s : State) : Host.Outcome State Fault Refusal :=
  .next (floatLate (.fexp2 f) (f.toExt .f32 0) fExp2 src1 s)
/-- `FEXP2`, extended form. -/
def execFexp2Ext (f : ExtArgs) (s : State) : Host.Outcome State Fault Refusal :=
  .next (floatLate (.fexp2Ext f) f fExp2 src1 s)
/-- `FLOG2`, base form. -/
def execFlog2 (f : BaseArgs) (s : State) : Host.Outcome State Fault Refusal :=
  .next (floatLate (.flog2 f) (f.toExt .f32 0) fLog2 src1 s)
/-- `FLOG2`, extended form. -/
def execFlog2Ext (f : ExtArgs) (s : State) : Host.Outcome State Fault Refusal :=
  .next (floatLate (.flog2Ext f) f fLog2 src1 s)
/-- `FSIN`, base form. -/
def execFsin (f : BaseArgs) (s : State) : Host.Outcome State Fault Refusal :=
  .next (floatLate (.fsin f) (f.toExt .f32 0) fSin src1 s)
/-- `FSIN`, extended form. -/
def execFsinExt (f : ExtArgs) (s : State) : Host.Outcome State Fault Refusal :=
  .next (floatLate (.fsinExt f) f fSin src1 s)
/-- `FCOS`, base form. -/
def execFcos (f : BaseArgs) (s : State) : Host.Outcome State Fault Refusal :=
  .next (floatLate (.fcos f) (f.toExt .f32 0) fCos src1 s)
/-- `FCOS`, extended form. -/
def execFcosExt (f : ExtArgs) (s : State) : Host.Outcome State Fault Refusal :=
  .next (floatLate (.fcosExt f) f fCos src1 s)
/-- `FDIV`, base form. -/
def execFdiv (f : BaseArgs) (s : State) : Host.Outcome State Fault Refusal :=
  .next (floatLate (.fdiv f) (f.toExt .f32 0) fDiv src2 s)
/-- `FDIV`, extended form. -/
def execFdivExt (f : ExtArgs) (s : State) : Host.Outcome State Fault Refusal :=
  .next (floatLate (.fdivExt f) f fDiv src2 s)
/-- `FRND`, base form. -/
def execFrnd (f : BaseArgs) (s : State) : Host.Outcome State Fault Refusal :=
  .next (floatNow (.frnd f) (f.toExt .f32 0) fRnd src1 s)
/-- `FRND`, extended form. -/
def execFrndExt (f : ExtArgs) (s : State) : Host.Outcome State Fault Refusal :=
  .next (floatNow (.frndExt f) f fRnd src1 s)

/-- `FSCL` in a lane: n is B as `.i32`. -/
def fsclLane (f : ExtArgs) (s : State) (k : Who) (l : Nat) : LaneOut :=
  floatLane f (fScl ((k.rd s l f .w32 f.b).setWidth 32).toInt) (src1 f) s k l

/-- `FSCL`, base form. -/
def execFscl (f : BaseArgs) (s : State) : Host.Outcome State Fault Refusal :=
  .next (issueLanes (.fscl f) s f.d .w32 (fsclLane (f.toExt .f32 0)))
/-- `FSCL`, extended form. -/
def execFsclExt (f : ExtArgs) (s : State) : Host.Outcome State Fault Refusal :=
  .next (issueLanes (.fsclExt f) s f.d .w32 (fsclLane f))

/-! ### Classification, comparison, selection -/

/-- The class of a code (19 R411), as the number of the bit set. -/
def classOf (f : Fmt) (x : Nat) : Nat :=
  match f.read x with
  | .nan sig => if sig then 0 else 1
  | .inf neg => if neg then 2 else 9
  | .fin neg m _ =>
    if m = 0 then (if neg then 5 else 6)
    else if m < 2 ^ f.m then (if neg then 4 else 7)
    else if neg then 3 else 8

/-- `FCLS` (19 R411). -/
def fclsLanes (i : Instr) (f : ExtArgs) (s : State) : State :=
  issueLanes i s f.d .w32 fun s k l =>
    .write (BitVec.ofNat 128 (2 ^ classOf (fmtOf f.ty) ((k.srcA s l f).toNat % 2 ^ f.ty.bits))) 0

/-- `FCLS`, base form. -/
def execFcls (f : BaseArgs) (s : State) : Host.Outcome State Fault Refusal :=
  .next (fclsLanes (.fcls f) (f.toExt .f32 0) s)
/-- `FCLS`, extended form. -/
def execFclsExt (f : ExtArgs) (s : State) : Host.Outcome State Fault Refusal := .next (fclsLanes (.fclsExt f) f s)

/-- The comparison of 06 Table 6.5 and its NV. -/
def fcmpRes (md : Nat) (x y : Num) : Bool × Bool :=
  if x.isNan || y.isNan then
    (md = 1 || md = 7, if 2 ≤ md && md ≤ 5 then true else x.isSig || y.isSig)
  else
    (match md with
      | 0 => x.eqv y
      | 1 => !x.eqv y
      | 2 => x.lt y
      | 3 => !y.lt x
      | 4 => y.lt x
      | 5 => !x.lt y
      | 6 => true
      | _ => false, false)

/-- `FCMP` (19 R412). -/
def fcmpLanes (i : Instr) (f : ExtArgs) (s : State) : State :=
  issueLanes i s f.d .w32 fun s k l =>
    let (b, nv) := fcmpRes f.md.toNat (numAt f.ty (k.srcA s l f)) (numAt f.ty (k.srcB s l f))
    fpOut k.g.mode (if b then 1 else 0, flagIf nv flagNV)

/-- `FCMP`, base form. -/
def execFcmp (f : BaseArgs) (s : State) : Host.Outcome State Fault Refusal :=
  .next (fcmpLanes (.fcmp f) (f.toExt .f32 f.xb.toNat) s)
/-- `FCMP`, extended form. -/
def execFcmpExt (f : ExtArgs) (s : State) : Host.Outcome State Fault Refusal := .next (fcmpLanes (.fcmpExt f) f s)

/-- The minimum or maximum of two codes (07 R158): `num` prefers a number to a NaN, −0 is below +0, and a number result
is the chosen code. -/
def minMax (ty : Ty) (mx num : Bool) (a b : Quad) : Quad × Word :=
  let ca : Quad := BitVec.ofNat 128 (a.toNat % 2 ^ ty.bits)
  let cb : Quad := BitVec.ofNat 128 (b.toNat % 2 ^ ty.bits)
  let x := numAt ty a
  let y := numAt ty b
  let nan : Quad := BitVec.ofNat 128 ((fmtOf ty).nan.getD 0)
  let below (x y : Num) : Bool := x.lt y || (x.eqv y && x.sign && !y.sign)
  let r : Quad :=
    if x.isNan && y.isNan then nan
    else if x.isNan then (if num then cb else nan)
    else if y.isNan then (if num then ca else nan)
    else if mx then (if below x y then cb else ca)
    else if below y x then cb else ca
  (r, flagIf (x.isSig || y.isSig) flagNV)

/-- `FMIN` and `FMAX` (19 R415). -/
def minMaxLanes (i : Instr) (f : ExtArgs) (mx : Bool) (s : State) : State :=
  issueLanes i s f.d .w32 fun s k l =>
    fpOut k.g.mode (minMax f.ty mx (f.md = 1) (k.srcA s l f) (k.srcB s l f))

/-- `FMIN`, base form: XB carries MOD. -/
def execFmin (f : BaseArgs) (s : State) : Host.Outcome State Fault Refusal :=
  .next (minMaxLanes (.fmin f) (f.toExt .f32 f.xb.toNat) false s)
/-- `FMIN`, extended form. -/
def execFminExt (f : ExtArgs) (s : State) : Host.Outcome State Fault Refusal :=
  .next (minMaxLanes (.fminExt f) f false s)
/-- `FMAX`, base form: XB carries MOD. -/
def execFmax (f : BaseArgs) (s : State) : Host.Outcome State Fault Refusal :=
  .next (minMaxLanes (.fmax f) (f.toExt .f32 f.xb.toNat) true s)
/-- `FMAX`, extended form. -/
def execFmaxExt (f : ExtArgs) (s : State) : Host.Outcome State Fault Refusal :=
  .next (minMaxLanes (.fmaxExt f) f true s)

/-! ### Dot products (19 R413) -/

/-- The packed elements of a register. -/
def packedNums (ty : Ty) (n : Nat) (x : Quad) : List Num :=
  (List.range n).map fun i => (fmtOf ty).read (x.toNat / 2 ^ (ty.bits * i) % 2 ^ ty.bits)

/-- `FDOT2` and `FDOT4` in a lane: the exact sum of the products and c, rounded once to `.f32`. -/
def dotLane (n : Nat) (f : ExtArgs) (s : State) (k : Who) (l : Nat) : LaneOut :=
  let as' := packedNums f.ty n (k.srcA s l f)
  let bs := packedNums f.ty n (k.srcB s l f)
  let c := numAt .f32 (s.readOpd k.x l f.lit .w32 .f32 f.c)
  let ps := (as'.zip bs).map fun e => mulNum e.1 e.2
  let mode := (k.x.thread l).roundMode f.rm
  let terms := ps.map (fun p => p.1) ++ [c]
  let (r, bad) := sumNums mode terms
  let inv := ps.any (fun p => p.2) || (terms.contains (.inf true) && terms.contains (.inf false)) || bad
  fpOut k.g.mode (putAt .f32 mode (c :: (as' ++ bs)) (r, flagIf inv flagNV))

/-- `FDOT2` (19 R413). -/
def execFdot2 (f : ExtArgs) (s : State) : Host.Outcome State Fault Refusal :=
  .next (issueLanes (.fdot2 f) s f.d .w32 (dotLane 2 f))
/-- `FDOT4` (19 R413). -/
def execFdot4 (f : ExtArgs) (s : State) : Host.Outcome State Fault Refusal :=
  .next (issueLanes (.fdot4 f) s f.d .w32 (dotLane 4 f))

/-! ### Pairs of value and index (07 R160) -/

/-- `Better(x, y)` for the maximum, or for the minimum. -/
def better (ty : Ty) (mx nanRule : Bool) (x y : Quad) : Bool :=
  let a := numAt ty (x >>> 32)
  let b := numAt ty (y >>> 32)
  let idx : Bool := decide (x.toNat % 2 ^ 32 < y.toNat % 2 ^ 32)
  if a.isNan && b.isNan then idx
  else if a.isNan then nanRule
  else if b.isNan then !nanRule
  else if (if mx then b.lt a else a.lt b) then true
  else if (if mx then a.lt b else b.lt a) then false
  else idx

/-- `FMXI` and `FMNI` (19 R416). -/
def pairLanes (i : Instr) (f : ExtArgs) (mx : Bool) (s : State) : State :=
  issueLanes i s f.d .w64 fun s k l =>
    let a := k.rd s l f .w64 f.a
    let b := k.rd s l f .w64 f.b
    .write (if better f.ty mx (f.md = 1) a b then a else b) 0

/-- `FMXI` (19 R416). -/
def execFmxi (f : ExtArgs) (s : State) : Host.Outcome State Fault Refusal := .next (pairLanes (.fmxi f) f true s)
/-- `FMNI` (19 R416). -/
def execFmni (f : ExtArgs) (s : State) : Host.Outcome State Fault Refusal := .next (pairLanes (.fmni f) f false s)

end Sys2Proof.Machine
end

