-- ==== Sys2Proof/Machine/Pages.lean ====
section
/-! DEFINITION. Page faults as region restarts: the page-request ring and its answers (15 R319, R320). -/

namespace Sys2Proof.Machine

/-- The same page of the same address space. -/
def PageWait.samePage (p q : PageWait) : Bool := p.asid = q.asid && p.vpn = q.vpn

/-- What a chip does when a region queue comes to its ring: no entry has this number (15 R320). -/
def ringTurn (chip : Nat) : Event := .pageRequestResponse chip 65536 0

/-- The bytes of an entry of the ring (15 Table 15.4). -/
def PageWait.bytes (p : PageWait) : List Byte :=
  bytesOfNat 32 (p.va.toNat + (p.asid + p.kind * 2 ^ 16 + p.clu * 2 ^ 20 + p.seq.toNat * 2 ^ 32) * 2 ^ 64)

/-- Writes a request to an entry of the ring, once its block may be written (11 R241, 17 R356). -/
def State.ringPut (s : State) (chip : Nat) (p : PageWait) : Bool × State :=
  let r := (s.chip chip).ring
  let a := r.base + 32 * r.tail
  match s.blocksReady (ringTurn chip) [a / 64] with
  | (false, s) => (false, s)
  | (true, s) =>
    let s := (s.homeStore none none (p.bytes.zipIdx.map fun e => (a + e.2, e.1))).blocksDone (ringTurn chip) [a / 64]
    (true, s.modChip chip fun c =>
      { c with ring := { c.ring with tail := (r.tail + 1) % r.len, unread := r.unread + 1
                                     open' := Table.put r.open' r.tail p } })

/-- Page requests are written in order, as entries come free; PRFULL is set while one finds the ring full (15 R320). -/
def ringDrain (fuel : Nat) (s : State) (chip : Nat) : State :=
  match fuel with
  | 0 => s
  | n + 1 =>
    let r := (s.chip chip).ring
    match r.waiting with
    | [] => s
    | p :: q =>
      if r.unread = r.len then s.modChip chip fun c => { c with ring := { c.ring with fullBit := true } }
      else match s.ringPut chip p with
        | (false, s) => s
        | (true, s) => ringDrain n (s.modChip chip fun c => { c with ring := { c.ring with waiting := q } }) chip

/-- The requests that wait are written as far as they can be. -/
def State.ringGo (s : State) (chip : Nat) : State := ringDrain ((s.chip chip).ring.waiting.length + 1) s chip

/-- Posts a page request unless one for the page is outstanding on the chip (15 R319). -/
def State.requestPage (s : State) (chip : Nat) (p : PageWait) : State :=
  let r := (s.chip chip).ring
  if r.open'.any (fun e => e.2.samePage p) || r.waiting.any (fun q => q.samePage p) then s
  else (s.modChip chip fun c => { c with ring := { c.ring with waiting := c.ring.waiting ++ [p] } }).ringGo chip

/-- The TRANSLATION trap of a wave whose page cannot be resolved (15 R320): at its restart address, with the PC of the
faulting instruction; a fetch waiter traps at the fetched address. -/
def State.pageTrap (s : State) (w : Nat) (p : PageWait) : State :=
  match s.wave? w with
  | none => s
  | some x =>
    (s.setWave w { x with page := none }).takeTrap w
      { TrapInfo.plain 0x11 p.pc p.va with taken := if p.kind = 3 then p.pc else x.issuePc.getD p.pc, dest := p.dest }

/-- A wave whose page could not be resolved while its wait was set aside traps now (15 R320). -/
def State.refusedPage (s : State) (w : Nat) : State :=
  match (s.wave? w).bind fun x => x.page with
  | none => s
  | some p => if p.refused then s.pageTrap w p else s

/-- A translation fault of a load, store or atomic lane (15 R319): the region is aborted and the wave waits on a page
request; with PRLEN 0 the fault is answered as unresolvable at once (15 R320). -/
def State.pageFault (s : State) (k : Who) (kind : Nat) (pc va : DWord) : State :=
  let p : PageWait := { asid := k.g.asid, vpn := vpnOf va, kind, pc, va, clu := clusterOfCore k.wg.core % 4
                        seq := k.g.seq, dest := if kind = 3 then 0x180 else s.idest, refused := false }
  let s := if kind = 3 then s else s.abortRegion k.w
  if (s.chip k.chip).ring.len = 0 then s.pageTrap k.w p
  else (s.modWave k.w fun x => { x with page := some p }).requestPage k.chip p

/-- A wave's gang issues nothing: it is being evicted, and a trap of the wave waits until it is restored. -/
def State.stopsTraps (s : State) (w : Nat) : Bool :=
  match s.gangOf w with
  | none => true
  | some (_, k) => k.st ≠ .resident

/-- The waiters of a page are answered (15 R320); the swap-out of a wave already decided finds that its wait has ended (03 R67). -/
def State.answerPage (s : State) (chip : Nat) (p : PageWait) (ok : Bool) : State :=
  let ws := s.waves.filter fun e =>
    chipOfCore (s.coreOf e.1) = chip && (e.2.page.map p.samePage).getD false
  let s := ws.foldl (fun s e => match e.2.page with
    | none => s
    | some q =>
      if ok then s.modWave e.1 fun x => { x with page := none, woken := true }
      else if s.stopsTraps e.1 then s.modWave e.1 fun x =>
        { x with page := none, pageAside := some { q with refused := true }, woken := true }
      else s.pageTrap e.1 q) s
  let s := s.waves.foldl (fun s e =>
    if chipOfCore (s.coreOf e.1) = chip && (e.2.pageAside.map p.samePage).getD false then
      s.modWave e.1 fun x =>
        { x with pageAside := if ok then none else x.pageAside.map (fun q => { q with refused := true }), woken := true }
    else s) s
  let s := s.cores.foldl (fun s c =>
    if chipOfCore c.1 ≠ chip then s
    else c.2.copies.foldl (fun s e =>
      if (e.2.page.map p.samePage).getD false then
        (s.modCore c.1 fun x => { x with copies := Table.modify x.copies e.1 fun y =>
          { y with page := if ok then none else y.page.map fun q => { q with refused := true } } }).post
          (.copyTransfer c.1 e.1)
      else s) s) s
  let s := s.cores.foldl (fun s c =>
    if chipOfCore c.1 ≠ chip then s
    else c.2.graphs.foldl (fun s e =>
      if (e.2.page.map p.samePage).getD false then
        (s.modCore c.1 fun x => { x with graphs := Table.modify x.graphs e.1 fun y =>
          { y with page := if ok then none else y.page.map fun q => { q with refused := true } } }).post
          (.graphNodeRetire c.1 e.1 (e.2.queue.headD 0))
      else s) s) s
  let s := s.cores.foldl (fun s c =>
    if chipOfCore c.1 ≠ chip then s
    else c.2.sends.foldl (fun s e =>
      if e.2.any fun t => (t.page.map p.samePage).getD false then
        (s.modCore c.1 fun x => { x with sends := Table.modify x.sends e.1 fun ts => ts.map fun y =>
          if !(y.page.map p.samePage).getD false then y
          else { y with page := if ok then none else y.page.map fun q => { q with refused := true } } }).postOnce
          (.sendListFlush c.1 e.1)
      else s) s) s
  s.clusters.foldl (fun s c =>
    if c.1 / 4 ≠ chip then s
    else c.2.tasks.foldl (fun s e =>
      if (e.2.page.map p.samePage).getD false then
        (s.modCluster c.1 fun x => { x with tasks := Table.modify x.tasks e.1 fun y =>
          { y with page := if ok then none else y.page.map fun q => { q with refused := true } } }).post
          (if e.2.st = .running then .tileStep c.1 e.1 else .taskDispatch c.1)
      else s) s) s

/-- The answer that RESP gives to an entry of the ring (15 R320): 1 resolved, anything but 0 and 1 unresolvable. -/
def State.ringAnswer (s : State) (chip entry : Nat) (p : PageWait) (resp : Word) : State :=
  (s.modChip chip fun c => { c with ring := { c.ring with open' := Table.del c.ring.open' entry } }).answerPage chip p (resp = 1)

/-- PAGE_REQUEST_RESPONSE: system software writes RESP of an entry (15 R320), in its turn of the region queue (11 R241). With no entry
open it is the turn of the ring, whose requests are written. -/
def execPageRequestResponse (chip entry : Nat) (resp : Word) (s : State) : Host.Outcome State Fault Refusal :=
  let e : Event := .pageRequestResponse chip entry resp
  .next (
    let r := (s.chip chip).ring
    match Table.look r.open' entry with
    | none => if entry < 65536 then s.dirDrop fun q => q = .run e
      else if r.waiting = [] then s.dirDrop fun q => q = .run e
      else s.ringGo chip
    | some p =>
      let a := r.base + 32 * entry + 0x10
      if resp = 0 then s
      else if Memory.readLe s.mem a 4 = resp.toNat then s.ringAnswer chip entry p resp
      else match s.blocksReady e [a / 64] with
        | (false, s) => s
        | (true, s) =>
          ((s.homeStore none none ((bytesOfNat 4 resp.toNat).zipIdx.map fun b => (a + b.2, b.1))).blocksDone e [a / 64]).ringAnswer
            chip entry p resp)

/-- A write to memory that reaches RESP of an entry in the ring is the answer (15 R320). -/
def State.ringWrites (s : State) (cs : Bytes) : State :=
  (List.range 8).foldl (fun s chip => match Table.look s.chips chip with
    | none => s
    | some c => c.ring.open'.foldl (fun s e =>
        let a := c.ring.base + 32 * e.1 + 0x10
        let v := Memory.readLe s.mem a 4
        if v ≠ 0 && cs.any fun b => decide (a ≤ b.1) && decide (b.1 < a + 4) then
          s.post (.pageRequestResponse chip e.1 (BitVec.ofNat 32 v))
        else s) s) s

/-- PRHEAD_WRITE (15 R320): a change of PRHEAD sets the count of unread entries; a write of its present value changes
nothing. -/
def execPrheadWrite (chip : Nat) (value : DWord) (s : State) : Host.Outcome State Fault Refusal :=
  .next (
    let r := (s.chip chip).ring
    let h := if r.len = 0 then value.toNat % 2 ^ 16 else value.toNat % 2 ^ 16 % r.len
    if h = r.head then s
    else
      let s := s.modChip chip fun c => { c with ring := { c.ring with
        head := h, unread := if r.len = 0 then 0 else (r.tail + r.len - h) % r.len } }
      s.ringGo chip)

/-- Legal lengths of the ring (15 Table 15.3): 0, or a power of two from 16 to 65,536. -/
def prlenLegal (n : Nat) : Bool := n = 0 || (List.range 13).any fun i => n = 2 ^ (i + 4)

/-- PRLEN_WRITE (15 R320): a legal length is stored, any other value stores 0; then requests that waited are answered as
unresolvable. -/
def execPrlenWrite (chip : Nat) (value : DWord) (s : State) : Host.Outcome State Fault Refusal :=
  .next (
    let n := if prlenLegal value.toNat then value.toNat else 0
    let ps := (s.chip chip).ring.waiting
    let s := s.modChip chip fun c => { c with ring := { c.ring with len := n } }
    if n ≠ 0 then s.ringGo chip
    else ps.foldl (fun s p => s.answerPage chip p false) (s.modChip chip fun c => { c with ring := { c.ring with waiting := [] } }))

end Sys2Proof.Machine
end

