-- ==== Sys2Proof/Machine/Access.lean ====
section
/-! DEFINITION. What loads, stores and atomics share: the translation of every lane before any effect, the bytes of a
wave's own write queue, the taking of write-queue entries, release waits and release signatures (08 R166, R175 to R182;
09 R189, R191, R197; 12 R254, R255; 16 R332). -/

/-- The operands of an access that is an acquire at wave scope or wider: its scope code (09 Table 9.1, 20 R434). -/
def Sys2Proof.ExtArgs.acquire (f : Sys2Proof.ExtArgs) : Option Nat :=
  if f.xb.getLsbD 0 && f.sc ≠ .th then some f.sc.code.toNat else none

namespace Sys2Proof.Machine

/-! ### Lanes and their addresses -/

/-- The virtual address of a lane: A + SignExtend(X18) (20 R435). -/
def State.laneEa (s : State) (k : Who) (f : ExtArgs) (l : Nat) : DWord :=
  (s.readOpd k.x l f.lit .w64 .int f.a).setWidth 64 + f.offset

/-- The scratchpad offset of a lane: (A + SignExtend(X18)) mod 2^32 (20 R436). -/
def State.laneOff (s : State) (k : Who) (f : ExtArgs) (l : Nat) : Nat :=
  ((s.readOpd k.x l f.lit .w32 .int f.a).setWidth 32 + f.x18.signExtend 32).toNat

/-- The stretch of a lane's access that lies in one page: virtual address, leaf, physical form, length. -/
structure Part where
  va : DWord
  leaf : DWord
  pa : Nat
  len : Nat
  deriving DecidableEq, Repr

/-- The page is replicated. -/
def Part.repl (p : Part) : Bool := leafSeg p.leaf = 2

/-- What the translation of a lane answers: the parts of its access, a class L fault, a translation fault, a wait. -/
inductive Span where
  | parts (ps : List Part)
  | park (cause : BitVec 8)
  | page (va : DWord)
  | wait
  deriving DecidableEq, Repr

/-- Translates an access of `n` bytes; one that crosses a page is translated in two parts (08 R166). -/
def State.span (s : State) (x : XCtx) (a : Access) (strong : Bool) (va : DWord) (n : Nat) : Span × State :=
  let n1 := min n (65536 - va.toNat % 65536)
  match s.translate x a strong va with
  | (.translation, s) => (.page va, s)
  | (.protection, s) => (.park 0x12, s)
  | (.moving, s) => (.wait, s)
  | (.wait, s) => (.wait, s)
  | (.ok e pa, s) =>
    let p : Part := { va, leaf := e, pa, len := n1 }
    if n1 = n then (.parts [p], s)
    else
      let vb := va + BitVec.ofNat 64 n1
      match s.translate x a strong vb with
      | (.translation, s) => (.page vb, s)
      | (.protection, s) => (.park 0x12, s)
      | (.moving, s) => (.wait, s)
      | (.wait, s) => (.wait, s)
      | (.ok e pa, s) => (.parts [p, { va := vb, leaf := e, pa, len := n - n1 }], s)

/-- Every lane translated, or the first translation fault or wait. -/
inductive Spans where
  | stop (x : Span)
  | all (ls : List (Nat × DWord × Span))
  deriving DecidableEq, Repr

/-- Translates the lanes of an access in ascending order, all before any is performed (20 R435, 22 R492, 18 R378).
`aligned` faults a misaligned lane before its translation. -/
def spans (x : XCtx) (a : Access) (strong aligned : Bool) (n : Nat) :
    List (Nat × DWord) → State → Spans × State
  | [], s => (.all [], s)
  | (l, ea) :: r, s =>
    if aligned && ea.toNat % n ≠ 0 then
      match spans x a strong aligned n r s with
      | (.all ls, s) => (.all ((l, ea, .park 0x04) :: ls), s)
      | q => q
    else match s.span x a strong ea n with
      | (.page va, s) => (.stop (.page va), s)
      | (.wait, s) => (.stop .wait, s)
      | (p, s) => match spans x a strong aligned n r s with
        | (.all ls, s) => (.all ((l, ea, p) :: ls), s)
        | q => q

/-- The lanes that a check refused, with cause and address. -/
def parksOf (ls : List (Nat × DWord × Span)) : List (Nat × BitVec 8 × DWord) :=
  ls.filterMap fun e => match e.2.2 with
    | .park c => some (e.1, c, e.2.1)
    | _ => none

/-- Parks lanes (15 R311). -/
def State.parkLanes (s : State) (k : Who) (d : Opd) (w : Width) (len : Nat) (ps : List (Nat × BitVec 8 × DWord)) : State :=
  ps.foldl (fun s e => s.setLanes k.w [e.1] fun _ t => t.park e.2.1 e.2.2 (destOf d w) len) s

/-- The lanes whose checks passed, with their parts. -/
def goodSpans (ls : List (Nat × DWord × Span)) : List (Nat × DWord × List Part) :=
  ls.filterMap fun e => match e.2.2 with
    | .parts ps => some (e.1, e.2.1, ps)
    | _ => none

/-- The first lane that ORDER stops: a shared-between-blocks page in an ordered launch whose token the wave does not
hold (16 R332). -/
def State.orderFault (s : State) (k : Who) (ls : List (Nat × DWord × List Part)) : Option DWord :=
  if k.g.ordered && !s.holdsToken k.w then
    (ls.find? fun e => e.2.2.any fun p => p.leaf.getLsbD 63).map fun e => e.2.1
  else none

/-- The ORDER trap: precise, retried after `RTE` (15 Table 15.1). -/
def State.orderTrap (s : State) (k : Who) (va : DWord) : State :=
  s.preciseTrap k.w 0x13 (k.x.issuePc.getD 0) va

/-! ### Waits -/

/-- A wait that is write stall (08 R182): the clocks count from here; the address is what its trap records. -/
def State.stalled (s : State) (k : Who) (va : DWord) : State :=
  s.modWave k.w fun x => { x with stall := max x.stall 1, stallAddr := va, stallDest := s.idest }

/-- A wait that is no write stall ends the run of stall clocks. -/
def State.notStalled (s : State) (k : Who) : State := s.modWave k.w fun x => { x with stall := 0 }

/-- No write-queue entry of the wave is outstanding, and its `SEGU`s and `WBR`s are complete (08 R179, 22 R483). -/
def State.quiet (s : State) (k : Who) : Bool :=
  let c := s.core k.wg.core
  !(c.wq.any fun e => e.2.wave = k.w) && !(c.segs.any fun e => e.2.wave = k.w && e.2.notice)

/-- The wait for every member's acknowledgement of the updates the chip has accepted so far (10 R220): the number and
count of wraps are taken at the first try; a wrap since then needed every acknowledgement. -/
def State.memberWait (s : State) (k : Who) : Bool × State :=
  let r := s.repl k.chip
  let wraps := vecAt r.wrapsApplied k.chip
  match (s.wave? k.w).bind fun x => x.pend with
  | some (.upTo n c) =>
    if c ≠ wraps || n ≤ r.ackedUpTo k.chip then (true, s) else (false, s)
  | _ =>
    if r.own ≤ r.ackedUpTo k.chip then (true, s)
    else (false, s.modWave k.w fun x => { x with pend := some (.upTo r.own wraps) })

/-- The wait of a release for the entries that were held for the wave's open region when it was first tried and that its commit has
released (09 R189). -/
def State.regionWait (s : State) (k : Who) (va : DWord) : Bool × State :=
  let es := match (s.wave? k.w).bind fun x => x.pend with
    | some (.region es) => es
    | _ => k.held
  if es.any fun i => (Table.look (s.core k.wg.core).wq i).isSome then
    (false, (s.modWave k.w fun x => { x with pend := some (.region es) }).stalled k va)
  else (true, s)

/-- What a release waits for at a scope (09 R189, Table 9.3): `true` once the waits are over; clocks of a wait for entries
count as write stall. -/
def State.releaseWait (s : State) (k : Who) (sc : Scope) (va : DWord) : Bool × State :=
  if sc.code.toNat ≤ 1 then s.regionWait k va
  else if !s.quiet k then (false, s.stalled k va)
  else if sc.code.toNat ≤ 4 then (true, s)
  else match s.memberWait k with
    | (true, s) => (true, s)
    | (false, s) => (false, s.notStalled k)

/-! ### Release signatures (09 R191, R197) -/

/-- The index of the least recently used entry of a signature table. -/
def lruSig (t : List SigEnt) : Nat :=
  (t.zipIdx.foldl (fun (m : Option (Nat × Nat)) e => match m with
    | none => some (e.2, e.1.used)
    | some q => if e.1.used < q.2 then some (e.2, e.1.used) else some q) none).elim 0 fun q => q.1

/-- A release looks up the entry of its block: it sends the set and clears it, or takes the least recently used entry,
clear, and sends all ones (09 R191). Replicated blocks are numbered from 2^50. -/
def State.sigRelease (s : State) (core key : Nat) : BitVec 512 × State :=
  let c := s.core core
  let now := s.serial
  match c.sigTab.findIdx? fun e => e.block = some key with
  | some i =>
    let set := (c.sigTab.getD i SigEnt.reset).set
    (set, { s.setCore core { c with sigTab := c.sigTab.set i { block := some key, set := 0, used := now } } with
            serial := now + 1 })
  | none =>
    (BitVec.allOnes 512,
      { s.setCore core { c with sigTab := c.sigTab.set (lruSig c.sigTab) { block := some key, set := 0, used := now } } with
        serial := now + 1 })

/-- The scope tag of a release while SCHK is 1 (16 R349): its scope code and where the wave is. -/
def State.scopeTag (s : State) (k : Who) (sc : Scope) : Option (List Nat) :=
  if (s.chip k.chip).dbg.schk && decide (2 ≤ sc.code.toNat) then some (sc.code.toNat :: s.tagOf k.w) else none

/-- Two optional signatures together. -/
def orSig (a b : Option (BitVec 512)) : Option (BitVec 512) :=
  match a, b with
  | none, b => b
  | a, none => a
  | some a, some b => some (a ||| b)

/-! ### Taking write-queue entries (08 R175, R176; 02 R39, R41) -/

/-- A store's or atomic's entry for a block, with nothing in it yet. -/
def Who.entry (k : Who) (s : State) (p : Part) (sig : Option (BitVec 512)) (tag : Option (List Nat)) (held : Bool) :
    WqEntry :=
  { wave := k.w, gang := k.wg.gang, rcb := k.g.rcb, block := p.pa / 64, repl := p.repl, bytes := [], atoms := [], load := none
    held, granted := false, sig, tag, va := p.va - BitVec.ofNat 64 (p.pa % 64), vpns := [vpnOf p.va], asid := k.g.asid
    ptroot := k.g.ptroot, priv := k.g.priv, buf := leafBuf p.leaf, pc := k.x.issuePc.getD 0, seq := k.x.seqno, epoch := s.epoch }

/-- Changes the entry for a block in a list of entries to take, adding it at the end if there is none: the list stands
in order of each block's lowest lane. -/
def putEntry (new : WqEntry) (f : WqEntry → WqEntry) : List WqEntry → List WqEntry
  | [] => [f new]
  | e :: r => if e.repl = new.repl && e.block = new.block then f e :: r else e :: putEntry new f r

/-- Adds the bytes of a lane's store, a later lane's over an earlier's (22 R492). -/
def addStore (k : Who) (s : State) (held : Bool) (ps : List Part) (bs : List Byte) (es : List WqEntry) : List WqEntry :=
  match ps with
  | [] => es
  | p :: r =>
    let here := (bs.take p.len).zipIdx
    let es := here.foldl (fun es b =>
      let q : Part := { p with pa := p.pa + b.2, va := p.va + BitVec.ofNat 64 b.2 }
      putEntry (k.entry s q none none held) (fun e =>
        { e with bytes := Table.put e.bytes q.pa b.1
                 vpns := if e.vpns.contains (vpnOf p.va) then e.vpns else e.vpns ++ [vpnOf p.va] }) es) es
    addStore k s held r (bs.drop p.len) es

/-- Adds the signatures of a release, each block's from the core's table in order, and the wave's release-fence
signature and tags (09 R189, R197; 16 R349). -/
def signEntries (k : Who) (sc : Option Scope) : List WqEntry → State → List WqEntry × State
  | [], s => ([], s)
  | e :: r, s =>
    let (sig, s) := match sc with
      | none => (none, s)
      | some sc => if 3 ≤ sc.code.toNat then
          let (m, s) := s.sigRelease k.wg.core e.key
          (some m, s)
        else (none, s)
    let tag := match sc.bind (s.scopeTag k) with
      | some t => some t
      | none => k.x.relTag
    let (r, s) := signEntries k sc r s
    ({ e with sig := orSig sig k.x.relSig, tag } :: r, s)

/-- Entries of a wave in a core's queue. -/
def Core.entriesOf (c : Core) (w : Nat) : Nat := (c.wq.filter fun e => e.2.wave = w).length

/-- Held entries of a wave. -/
def Core.heldOf (c : Core) (w : Nat) : Nat := (c.wq.filter fun e => e.2.wave = w && e.2.held).length

/-- Room for `n` more entries of a wave: 16 of a wave, 96 of the core (08 R175). -/
def Core.roomFor (c : Core) (w n : Nat) : Bool := decide (c.entriesOf w + n ≤ 16) && decide (c.wq.length + n ≤ 96)

/-- The held store entry that a held store joins: the wave's youngest entry for the block, if it is a held store
(08 R175). -/
def Core.joins (c : Core) (e : WqEntry) : Option Nat :=
  match (c.wq.filter fun x => x.2.wave = e.wave && x.2.repl = e.repl && x.2.block = e.block).getLast? with
  | some (i, x) => if x.held && x.atoms = [] then some i else none
  | none => none

/-- Removes a core's L1 copy of the line of an entry (08 R171). -/
def Core.dropLine (c : Core) (e : WqEntry) : Core :=
  if e.repl then c else { c with l1 := c.l1.filter fun l => l.pline ≠ e.block / 2 }

/-- A new entry is taken; a released one is on its way to drain. -/
def State.takeEntry (s : State) (core : Nat) (e : WqEntry) : State :=
  let id := s.serial
  let s := { s.modCore core (fun c => { c.dropLine e with wq := Table.put c.wq id e }) with serial := id + 1 }
  if e.held then s else s.postEntry core id e

/-- A held store joins its entry or takes a new one. -/
def State.joinEntry (s : State) (core : Nat) (e : WqEntry) : State :=
  match (s.core core).joins e with
  | none => s.takeEntry core e
  | some i => s.modCore core fun c =>
      { c.dropLine e with wq := Table.modify c.wq i fun x =>
          { x with bytes := e.bytes.foldl (fun t b => Table.put t b.1 b.2) x.bytes
                   vpns := x.vpns ++ e.vpns.filter (fun v => !x.vpns.contains v)
                   sig := orSig x.sig e.sig, tag := if e.tag.isSome then e.tag else x.tag } }

/-- Takes entries in order while there is room; what is left stays to be taken (02 R41, 18 R378). -/
def takeEntries (core w : Nat) : List WqEntry → State → List WqEntry × State
  | [], s => ([], s)
  | e :: r, s => if (s.core core).roomFor w 1 then takeEntries core w r (s.takeEntry core e) else (e :: r, s)

/-- Takes released entries as far as there is room: done once none is left, when the refused lanes park; else the
instruction waits, stalled. -/
def State.takeAll (s : State) (k : Who) (d : Opd) (w : Width) (len : Nat) (es : List WqEntry)
    (parks : List (Nat × BitVec 8 × DWord)) (va : DWord) : Eff :=
  match takeEntries k.wg.core k.w es s with
  | ([], s) => .done (s.parkLanes k d w len parks)
  | (r, s) => .wait ((s.modWave k.w fun x => { x with pend := some (.todo r parks) }).stalled k va)

/-! ### The order of a wave's loads (09 R184 to R186, R202) -/

/-- A byte that a load has still to read. -/
def ByteSrc.unread (b : ByteSrc) : Bool :=
  match b with
  | .val _ => false
  | _ => true

/-- A byte of the replicated segment. -/
def ByteSrc.isRepl (b : ByteSrc) : Bool :=
  match b with
  | .repl _ => true
  | _ => false

/-- Two bytes are read in program order: those of one location, and any two of the replicated segment (09 R186). -/
def ByteSrc.inOrder (a b : ByteSrc) : Bool :=
  match a, b with
  | .phys x _, .phys y _ => x = y
  | .repl _, .repl _ => true
  | .pad x, .pad y => x = y
  | _, _ => false

/-- The bytes that an outstanding load has still to read. -/
def Load.unread (l : Load) : List ByteSrc := l.lanes.flatMap fun e => e.src.filter ByteSrc.unread

/-- Some bytes follow an outstanding load, or a strong instruction, of the wave (09 R186, R202). -/
def Wave.readsFirst (x : Wave) (older : Load → Bool) (bs : List ByteSrc) : Bool :=
  bs ≠ [] && ((x.loads.any fun e => older e.2 && e.2.unread.any fun a => bs.any a.inOrder) ||
    (x.strong.isSome && bs.any ByteSrc.isRepl))

/-- What an entry of the queue gives for a byte: a stored value, or that an atomic covers it. -/
def WqEntry.gives (e : WqEntry) (a : Nat) : Option (Option Byte) :=
  if e.atoms.any (fun t => decide (t.pa ≤ a) && decide (a < t.pa + t.width)) then some none
  else (Table.look e.bytes a).map some

/-- An outstanding load of the wave has a byte of an entry still to read: it comes first, for the entry holds no byte that a load
after it would not have taken from the queue (08 R177, 09 R186). -/
def Wave.entryWaits (x : Wave) (e : WqEntry) : Bool :=
  x.loads.any fun l => l.2.unread.any fun b => match b with
    | .phys a _ => !e.repl && a / 64 = e.block && (e.gives a).isSome
    | .repl a => e.repl && a / 64 = e.block && (e.gives a).isSome
    | _ => false

/-! ### The wave's own bytes (08 R177) -/

/-- The youngest value that a wave has queued for a byte; `some none` where an atomic is the youngest. -/
def Core.ownByte (c : Core) (w : Nat) (repl : Bool) (a : Nat) : Option (Option Byte) :=
  (c.wq.reverse.filter fun e => e.2.wave = w && e.2.repl = repl && e.2.block = a / 64).findSome? fun e => e.2.gives a

/-- VA[54:7], the virtual line of an address (12 R256, 19 R405). -/
def vlineOf (va : DWord) : Nat := (va.extractLsb' 7 48).toNat

/-- An L1 line of a core (08 R170). -/
def Core.l1Find (c : Core) (asid vline : Nat) : Option L1Line := c.l1.find? fun l => l.asid = asid && l.vline = vline

end Sys2Proof.Machine
end

