-- ==== Sys2Proof/Machine/Pad.lean ====
section
/-! DEFINITION. The scratchpad: offsets, lines and their full bits, the segments that bytes touch (08 R167 to R169). -/

namespace Sys2Proof.Machine

/-! ### Offsets (08 Table 8.2) -/

/-- The workgroup of a gang on a quad member. -/
def State.memberWg (s : State) (g : Gang) (q : Nat) : Option Workgroup :=
  (g.wgs.filterMap s.wg?).find? fun x => x.core % 4 = q

/-- A byte of a workgroup's own segments: core and byte number in its scratchpad. -/
def Workgroup.ownByte (x : Workgroup) (off : Nat) : Option (Nat × Nat) :=
  if off < x.segs * 4096 && off < 0x80000 then
    (x.segMap[off / 4096]?).map fun seg => (x.core, 4096 * seg + off % 4096)
  else none

/-- The scratchpad byte that an offset reaches for a workgroup of a gang: core and byte number; none is SCRATCH_RANGE
(08 R167). -/
def State.scratchByte (s : State) (g : Gang) (x : Workgroup) (off : Nat) : Option (Nat × Nat) :=
  if off < 0x80000 then x.ownByte off
  else if 0x200000 ≤ off && off < 0x400000 then
    let q := (off - 0x200000) / 0x80000
    if q = x.core % 4 then x.ownByte (off % 0x80000)
    else (s.memberWg g q).bind fun y => y.ownByte (off % 0x80000)
  else none

/-- The scratchpad bytes from an offset, none where one is out of range. -/
def State.scratchBytes (s : State) (g : Gang) (x : Workgroup) (off : Nat) : Nat → Option (List (Nat × Nat))
  | 0 => some []
  | n + 1 => match s.scratchByte g x (off % 2 ^ 32), s.scratchBytes g x (off + 1) n with
    | some b, some r => some (b :: r)
    | _, _ => none

/-- The segments that some bytes touch: core and segment number. -/
def segsOf (bs : List (Nat × Nat)) : List (Nat × Nat) := (bs.map fun b => (b.1, b.2 / 4096)).eraseDups

/-- The lines that some bytes touch: core and line number. -/
def scratchLines (bs : List (Nat × Nat)) : List (Nat × Nat) := (bs.map fun b => (b.1, b.2 / 128)).eraseDups

/-- A line is full (08 R168). -/
def State.lineFull (s : State) (l : Nat × Nat) : Bool := (s.core l.1).lines.getLsbD l.2

/-- Sets lines full. -/
def State.fillLinesOf (s : State) (ls : List (Nat × Nat)) : State :=
  ls.foldl (fun s l => s.modCore l.1 fun c => { c with lines := c.lines ||| ((1#4096) <<< l.2) }) s

/-- Reads scratchpad bytes. -/
def State.readScratch (s : State) (bs : List (Nat × Nat)) : List Byte :=
  bs.map fun b => Memory.read (s.core b.1).scratch b.2

/-- Writes scratchpad bytes; in an owned segment they become dirty (11 Table 11.1). -/
def State.writeScratch (s : State) (bs : List (Nat × Nat)) (xs : List Byte) : State :=
  (bs.zip xs).foldl (fun s e =>
    let core := e.1.1
    let a := e.1.2
    s.modCore core fun c =>
      { c with scratch := Memory.write c.scratch a e.2
               segs := match Table.look c.segs (a / 4096) with
                 | some x => if x.st = .o then
                     Table.put c.segs (a / 4096) { x with dirty := x.dirty ||| ((1#4096) <<< (a % 4096)) } else c.segs
                 | none => c.segs }) s

/-! ### Refetch of a window (11 R239, 12 R262) -/

/-- Who translates for a bound segment. -/
def Seg.xctx (x : Seg) (core : Nat) : XCtx := { core, asid := x.asid, ptroot := x.ptroot, priv := x.priv }

/-- What a segment's mode asks of its page (12 Table 12.3). -/
def Seg.access (x : Seg) : Access := if x.owned then .own else .share

/-- A refetch is due and may be asked for: what was dirty is with the home. -/
def Seg.due (x : Seg) : Bool := x.st = .t && x.refetch && !x.back && !x.lost

/-- The page of a segment whose refetch is due no longer allows its mode (12 R255, R262). -/
def State.refused (s : State) (core i : Nat) : Bool :=
  let x := s.seg core i
  x.due && match (s.lookup (x.xctx core) true x.va).leaf with
    | none => false
    | some (e, _, _) => s.pastRepl (chipOfCore core) e x.va || (leafSeg e ≠ 4 && !leafAllows (x.xctx core) x.access false e)

/-- The refetch of one segment (11 R239, 12 R262): its region is translated again and the fill asked for; or the address of a
translation fault. A home that has departed loses the segment. -/
def State.refetchSeg (s : State) (core i : Nat) : Option DWord × State :=
  let x := s.seg core i
  if !x.due then (none, s)
  else match s.translate (x.xctx core) x.access false x.va with
    | (.translation, s) => (some x.va, s)
    | (.ok e pa, s) =>
      if !s.stackLive (stackOf pa) then (none, s.setSeg core i { x with lost := true, refetch := false })
      else (none, (s.setSeg core i { x with pa, buf := leafBuf e, refetch := false, filling := true, linesLeft := 32, epoch := s.epoch }).post
        (.windowFillRequest core i))
    | (_, s) => (none, s)

/-- Asks for the refetch of touched segments; the answer is the first translation fault. -/
def askSegs : List (Nat × Nat) → State → Option DWord × State
  | [], s => (none, s)
  | e :: r, s => match s.refetchSeg e.1 e.2 with
    | (some va, s) => (some va, s)
    | (none, s) => askSegs r s

/-- Asks for the refetch of the segments that an access touches (11 R239). -/
def State.askRefetch (s : State) (bs : List (Nat × Nat)) : Option DWord × State := askSegs (segsOf bs) s

/-! ### What holds up an access -/

/-- A touched segment whose home has departed: its next access traps (11 R247). -/
def State.lostSeg (s : State) (bs : List (Nat × Nat)) : Bool := (segsOf bs).any fun e => (s.seg e.1 e.2).lost

/-- A touched segment is in T (11 R237). -/
def State.inT (s : State) (bs : List (Nat × Nat)) : Bool := (segsOf bs).any fun e => (s.seg e.1 e.2).st = .t

/-- A touched segment is bound shared. -/
def State.inS (s : State) (bs : List (Nat × Nat)) : Bool := (segsOf bs).any fun e => (s.seg e.1 e.2).st = .s

end Sys2Proof.Machine
end

