-- ==== Sys2Proof/Machine/Load.lean ====
section
/-! DEFINITION. Loads and the L1: `LD`, the return of every long-latency result, `PREF`, `DISC` (20 R434 to R437,
04 R78, 08 R170 to R172, 09 R190 to R194, 15 R322, 19 R405, 21 R460). -/

namespace Sys2Proof.Machine

/-! ### Host lines (11 R248, R249) -/

/-- The chip whose host-line cache serves a chip (01 R18). -/
def State.hostCache (s : State) (chip : Nat) : Nat := s.cxlRank chip

/-- State of a chip's copy of a host line; none is I. -/
def State.hostSt (s : State) (chip line : Nat) : Option HostSt := Table.look (s.chip chip).hostLines line

/-- The copy of a chip is dirty. -/
def State.hostDirty (s : State) (chip line : Nat) : Bool := s.hostSt chip line = some .m || s.hostSt chip line = some .o

/-- Host lines that share a set of a chip's host-line cache: 16 MiB in 64-byte lines, 16 ways; the lines of a set agree modulo 16,384
(log 7: DESIGN CHOICE). -/
def hostSets : Nat := 16384
def hostWays : Nat := 16

/-- The lines of a set that a chip's host-line cache holds: its own copies, and those of the lines it directs, for it is inclusive of
every module copy of them (11 R249). -/
def State.hostSet (s : State) (chip set : Nat) : List Nat :=
  ((List.range 8).flatMap fun c => (s.chip c).hostLines.filterMap fun e =>
    if e.1 % hostSets = set && (c = chip || s.hostDirChip (e.1 * 64) = chip) then some e.1 else none).eraseDups

/-- A line that no module copy holds any more reads as the host has it: what a copy in O had not written back is gone with it (11 Table
11.7). -/
def State.hostGone (s : State) (line : Nat) : State :=
  match Table.look s.hostBase line with
  | none => s
  | some bs =>
    if (List.range 8).any fun c => (s.hostSt c line).isSome then s
    else { s with mem := Memory.writeBytes s.mem (line * 64) bs, hostBase := Table.del s.hostBase line
                  written := Table.put s.written line s.serial }

/-- A host-line cache evicts a line (11 Table 11.7): dirty data is written back first; where the chip directs the line, every copy is
invalidated. -/
def State.evictLine (s : State) (chip line : Nat) : State :=
  let cs := (List.range 8).filter fun c => c = chip || s.hostDirChip (line * 64) = chip
  let s := if cs.any fun c => s.hostDirty c line then { s with hostBase := Table.del s.hostBase line } else s
  (cs.foldl (fun s c => s.modChip c fun x => { x with hostLines := Table.del x.hostLines line }) s).hostGone line

/-- Room for a line at a chip's host-line cache: of a full set the line of the lowest number goes (log 7: DESIGN CHOICE). -/
def State.hostRoom (s : State) (chip line : Nat) : State :=
  match s.hostSet chip (line % hostSets) with
  | [] => s
  | a :: r => if (a :: r).contains line || (a :: r).length < hostWays then s else s.evictLine chip (r.foldl min a)

/-- Room for a line at a chip and at the line's directory chip. -/
def State.hostRooms (s : State) (chip line : Nat) : State :=
  (s.hostRoom (s.hostDirChip (line * 64)) line).hostRoom chip line

/-- A local read of a host line (11 Table 11.7): in I it is filled through the directory chip, in E where no other module
copy exists and the host grants it, which is open (log 4: DESIGN CHOICE), else in S; a peer in M goes to O, a peer in E to S. -/
def State.hostRead (s : State) (chip line : Nat) : State :=
  let d := s.hostCache chip
  match Table.look (s.chip d).hostLines line with
  | some _ => s
  | none =>
    let s := s.hostRooms d line
    let others := (List.range 8).any fun c => c ≠ d && (Table.look (s.chip c).hostLines line).isSome
    let s := (List.range 8).foldl (fun s c =>
      match Table.look (s.chip c).hostLines line with
      | some .m => s.modChip c fun x => { x with hostLines := Table.put x.hostLines line .o }
      | some .e => s.modChip c fun x => { x with hostLines := Table.put x.hostLines line .s }
      | _ => s) s
    let st := if !others && s.freshValue.getLsbD 0 then HostSt.e else HostSt.s
    (s.modChip d fun x => { x with hostLines := Table.put x.hostLines line st }).useFree

/-- A local store or atomic to a host line (11 Table 11.7): M at the caching chip, every other module copy gone. -/
def State.hostOwn (s : State) (chip line : Nat) : State :=
  let d := s.hostCache chip
  let s := s.hostRooms d line
  let s := (List.range 8).foldl (fun s c =>
    if c ≠ d && (Table.look (s.chip c).hostLines line).isSome then
      s.modChip c fun x => { x with hostLines := Table.del x.hostLines line } else s) s
  let s := if (Table.look s.hostBase line).isSome then s
    else { s with hostBase := Table.put s.hostBase line (Memory.readBytes s.mem (line * 64) 64) }
  s.modChip d fun x => { x with hostLines := Table.put x.hostLines line .m }

/-! ### What a load reads -/

/-- Where a byte of a load comes from (08 R177, 20 R435); none while an atomic of the wave covers it. `l1` allows an L1
hit, which a byte that an older load of the wave has still to read does not take (09 R185, R186). -/
def Core.byteSrc (c : Core) (k : Who) (l1 : Bool) (p : Part) (i : Nat) : Option ByteSrc :=
  let a := p.pa + i
  match c.ownByte k.w p.repl a with
  | some (some b) => some (.val b)
  | some none => none
  | none =>
    if p.repl then some (.repl a)
    else match (if l1 then c.l1Find k.g.asid (vlineOf (p.va + BitVec.ofNat 64 i)) else none) with
      | some l =>
        let src := ByteSrc.phys a (leafBuf p.leaf)
        some (if k.x.readsFirst (fun _ => true) [src] then src else .val (Memory.read l.data (a % 128)))
      | none => some (.phys a (leafBuf p.leaf))

/-- The sources of a lane's bytes. -/
def Core.laneSrc (c : Core) (k : Who) (l1 : Bool) (ps : List Part) : Option (List ByteSrc) :=
  (ps.flatMap fun p => (List.range p.len).map fun i => c.byteSrc k l1 p i).foldr
    (fun x r => match x, r with
      | some b, some t => some (b :: t)
      | _, _ => none) (some [])

/-- Lines that a load's lanes find in L1 (21 Table 21.4). -/
def Core.l1Hits (c : Core) (k : Who) (ls : List (Nat × DWord × List Part)) : Nat :=
  ((ls.flatMap fun e => e.2.2.flatMap fun p =>
      if p.repl then [] else [vlineOf p.va, vlineOf (p.va + BitVec.ofNat 64 (p.len - 1))]).eraseDups.filter fun v =>
    (c.l1Find k.g.asid v).isSome).length

/-- Records an outstanding load and marks its destination empty in its lanes (04 R78). -/
def State.deferLoad (s : State) (k : Who) (kind : LoadKind) (d : Opd) (ty : Ty) (lanes : List LoadLane)
    (acq : Option Nat) : State × Nat :=
  let (s, id) := s.defer k kind d ty.width lanes (k.x.issuePc.getD 0) acq
  (s.modWave k.w fun x => { x with loads := Table.modify x.loads id fun l =>
    { l with fmt := { width := regsOf ty.width, bytes := ty.bits / 8, signed := ty.signed } } }, id)

/-- Blocks of host lines among some bytes. -/
def hostBlocks (bs : List ByteSrc) : List Nat :=
  (bs.filterMap fun b => match b with
    | .phys a _ => if isHostAddr a then some (a / 64) else none
    | _ => none).eraseDups

/-- A byte read where it lives (20 R435, 15 R322): none where its stack is absent or its block fails the tag check, a replicated one
under entry 0 of the buffer table (12 R270). -/
def State.readSrc (s : State) (chip : Nat) (b : ByteSrc) : Option Byte :=
  match b with
  | .val b => some b
  | .repl a => if s.replFails chip (a / 64) then none else some (Memory.read (s.repl chip).replica a)
  | .pad _ => none
  | .phys a buf =>
    if isHostAddr a then some (Memory.read s.mem a)
    else if !s.stackLive (stackOf a) || s.tagFails a buf then none
    else some (Memory.read s.mem a)

/-- A chip has the way to where some bytes live (01 R16). -/
def State.srcsReached (s : State) (chip : Nat) (bs : List ByteSrc) : Bool :=
  bs.all fun b => match b with
    | .phys a _ => s.reaches chip a
    | _ => true

/-- The bytes of a lane, none where one of them is a DATA_ERROR. -/
def State.readSrcs (s : State) (chip : Nat) : List ByteSrc → Option (List Byte)
  | [] => some []
  | b :: r => match s.readSrc chip b, s.readSrcs chip r with
    | some x, some t => some (x :: t)
    | _, _ => none

/-- The homes among some bytes, one byte for each block or sector. -/
def homesOf (bs : List ByteSrc) : List ByteSrc :=
  bs.foldl (fun r b => match b with
    | .phys a buf => if r.any (fun x => match x with
        | .phys y _ => y / 64 = a / 64
        | _ => false) then r else r ++ [.phys a buf]
    | .repl a => if r.any (fun x => match x with
        | .repl y => y / 32 = a / 32
        | _ => false) then r else r ++ [.repl a]
    | _ => r) []

/-- The records of the blocks read reach the wave (09 R192). -/
def State.receiveAll (s : State) (w ld : Nat) (va : DWord) (bs : List ByteSrc) : State :=
  let chip := chipOfCore (s.coreOf w)
  (homesOf bs).foldl (fun s b => match b with
    | .phys a _ => s.receiveHome w ld a va
    | .repl a => s.receiveRepl w ld chip a va
    | _ => s) s

/-- The first address that a load names. -/
def firstOf (ls : List LoadLane) : DWord := (ls.head?.map fun e => e.va).getD 0

/-- Blocks that the host has obtained for ownership among some bytes: BISnpData goes first (17 R356). -/
def State.ownedByHost (s : State) (bs : List ByteSrc) : List Nat :=
  (bs.filterMap fun b => match b with
    | .phys a _ => if !isHostAddr a && (s.cluster (stackOf a)).hostOwned.contains (a / 64) then some (a / 64) else none
    | _ => none).eraseDups

/-- Asks the host for a block it owns before a read: BISnpData (17 R356). -/
def State.askHostData (s : State) (block : Nat) : State :=
  s.modCluster (stackOf (block * 64)) fun c =>
    { c with biData := if c.biData.contains block then c.biData else c.biData ++ [block] }

/-- A lane whose bytes come in part from the wave's own entries or L1. -/
def LoadLane.mixed (l : LoadLane) : Bool := l.src.any ByteSrc.unread && l.src.any fun b => !b.unread

/-- The bytes still to read of the lanes that read some at issue. -/
def mixedBytes (ls : List LoadLane) : List ByteSrc := (ls.filter LoadLane.mixed).flatMap fun l => l.src.filter ByteSrc.unread

/-- A lane that reads some bytes at issue reads all of them there, for it is one access (09 R184); one that fails is left to the
return. -/
def State.readMixed (s : State) (chip : Nat) (l : LoadLane) : LoadLane :=
  if !l.mixed then l
  else { l with src := l.src.map fun b => match s.readSrc chip b with
    | some v => .val v
    | none => b }

/-- `LD` (20 R435). -/
def ldEff (f : ExtArgs) (k : Who) (act : List Nat) (s : State) : Eff :=
  let n := f.ty.bits / 8
  let acq := f.acquire
  match spans k.xctx .read false false n (act.map fun l => (l, s.laneEa k f l)) s with
  | (.stop (.page va), s) => .gone (s.pageFault k 0 (k.x.issuePc.getD 0) va)
  | (.stop _, s) => .wait (s.notStalled k)
  | (.all ls, s) =>
    let good := goodSpans ls
    let c := s.core k.wg.core
    let l1 := acq.isNone && k.x.pend ≠ some .home
    let srcs := good.map fun e => (e.1, e.2.1, c.laneSrc k l1 e.2.2)
    if srcs.any fun e => e.2.2.isNone then
      .wait ((s.notStalled k).modWave k.w fun x => { x with pend := some .home })
    else
      let lanes := srcs.map fun e => ({ lane := e.1, src := e.2.2.getD [], va := e.2.1 } : LoadLane)
      let now := mixedBytes lanes
      if k.x.readsFirst (fun _ => true) now || !s.srcsReached k.chip now then .wait (s.notStalled k)
      else match s.ownedByHost now with
        | b :: r => .wait (((b :: r).foldl (fun s b => s.askHostData b) s).notStalled k)
        | [] =>
          let s := s.parkLanes k f.d f.ty.width (Instr.length (.ld f)) (parksOf ls)
          if good = [] then .done s
          else
            let hits := if l1 then c.l1Hits k good else 0
            let s := if hits = 0 then s else s.count k.wg.core 130 hits
            let s := (hostBlocks now).foldl (fun s b => s.hostRead k.chip b) s
            let lanes := lanes.map fun l => s.readMixed k.chip l
            let s := (hostBlocks (lanes.flatMap fun l => l.src)).foldl (fun s b =>
              if (Table.look (s.chip (s.hostCache k.chip)).hostLines b).isNone then
                s.post (.hostLineFill (s.hostCache k.chip) b) else s) s
            let (s, id) := s.deferLoad k .bytes f.d f.ty lanes acq
            let s := if acq.isSome then s.receiveAll k.w id (firstOf lanes) now else s
            .done (s.post (.loadReturn k.w id))

/-- `LD`. -/
def execLd (f : ExtArgs) (s : State) : Host.Outcome State Fault Refusal := .next (issue (.ld f) s (ldEff f))

/-! ### LOAD_RETURN -/

/-- A block was written under a physical number since a count of serials. -/
def State.writtenSince (s : State) (block order : Nat) : Bool :=
  match Table.look s.written block with
  | none => false
  | some n => decide (order ≤ n)

/-- The line of an address may be kept by a core's L1 (09 R194): no queue entry of the core for it is outstanding or was
since the request, nor has one of its blocks been written since then; none is kept while a copy of the core is to
write global memory (13 R276). -/
def State.mayFill (s : State) (core : Nat) (line order epoch : Nat) : Bool :=
  !((s.core core).copies.any fun c => c.2.pieces.any fun p => p.dspace = 0) &&
  !((s.core core).wq.any fun e => !e.2.repl && e.2.block / 2 = line) && s.epoch = epoch &&
  ((Table.look (s.core core).wqLeft line).all fun n => decide (n < order)) &&
  !s.writtenSince (2 * line) order && !s.writtenSince (2 * line + 1) order

/-- Fills a line into an L1, a host line's two blocks through their host-line cache (11 R249): the cluster keeps one copy of a
physical line (08 R170); a core's L1 holds 1,024 lines (log 7: DESIGN CHOICE). -/
def State.fillL1 (s : State) (core asid vline pline : Nat) : State :=
  let k := clusterOfCore core
  let s := { s with cores := s.cores.mapVals fun i c =>
    if clusterOfCore i = k then { c with l1 := c.l1.filter fun l => l.pline ≠ pline } else c }
  let chip := chipOfCore core
  let s := if isHostAddr (128 * pline) then (s.hostRead chip (2 * pline)).hostRead chip (2 * pline + 1) else s
  let data := Memory.writeBytes [] 0 (Memory.readBytes s.mem (128 * pline) 128)
  s.modCore core fun c =>
    let line : L1Line := { vline, asid, pline, data }
    { c.addPerf 131 1 with l1 := addCapped (c.l1.filter fun l => !(l.asid = asid && l.vline = vline)) line 1024 }

/-- The lines a load may bring into L1: virtual and physical line of each byte read at a home. -/
def Load.lines (l : Load) : List (Nat × Nat) :=
  (l.lanes.flatMap fun e => e.src.zipIdx.filterMap fun b => match b.1 with
    | .phys a _ => some (vlineOf (e.va + BitVec.ofNat 64 b.2), a / 128)
    | _ => none).eraseDups

/-- The lines a relaxed load brings into L1. -/
def State.fillLines (s : State) (w : Nat) (l : Load) : State :=
  let core := s.coreOf w
  let asid := ((s.gangOf w).map fun g => g.2.asid).getD 0
  l.lines.foldl (fun s e =>
    if s.mayFill core e.2 l.order l.epoch then s.fillL1 core asid e.1 e.2 else s) s

/-- Delivers the results of a load: values, or undefined values where a lane met DATA_ERROR (15 R322). -/
def State.deliverLoad (s : State) (w : Nat) (l : Load) (vals : List (Nat × Option (List Byte))) : State :=
  let n := s.free
  { s.modWave w (fun x => vals.foldl (fun x e =>
      x.mapLanes [e.1] fun _ t => t.deliver l.d l.fmt.regs (match e.2 with
        | some bs => l.fmt.value bs
        | none => Config.freeValue (n + e.1))) x) with
    free := if vals.any (fun e => e.2.isNone) then n + 32 else n }

/-- The acquire of a load once its reads are performed (09 R190, 16 R349). -/
def State.acquireDone (s : State) (w ld : Nat) : State :=
  match (s.wave? w).bind fun x => Table.look x.loads ld with
  | none => s
  | some l => match l.acq with
    | none => s
    | some sc =>
      let core := s.coreOf w
      let s := if 3 ≤ sc then s.acquireL1 core l.got else s
      match l.bad with
      | none => s
      | some va => if (s.chip (chipOfCore core)).dbg.schk then
          s.raiseA w (chipOfCore core) { cause := 0x1B, pc := some l.pc, addr := va, lseq := none, dest := 0x180 }
        else s

/-- A scratchpad byte of a load that waits for its line: read once the line is full and its segment bound or free, none while it
is not (08 R168). -/
def State.padNow (s : State) (w off : Nat) : Option Byte :=
  match s.whoOf w with
  | none => none
  | some k => match s.scratchByte k.g k.wg off with
    | none => none
    | some b => if s.lineFull (b.1, b.2 / 128) && !s.inT [b] then some (Memory.read (s.core b.1).scratch b.2) else none

/-- A lane whose scratchpad bytes are read; none while one of its lines is empty. -/
def State.padLane (s : State) (w : Nat) (l : LoadLane) : Option LoadLane :=
  (l.src.foldr (fun b r => match b, r with
    | .pad off, some t => (s.padNow w off).map fun v => ByteSrc.val v :: t
    | b, some t => some (b :: t)
    | _, none => none) (some [])).map fun src => { l with src }

/-- Every lane of a load with its scratchpad bytes read; none while one waits. -/
def State.padLanes (s : State) (w : Nat) : List LoadLane → Option (List LoadLane)
  | [] => some []
  | l :: r => match s.padLane w l, s.padLanes w r with
    | some l, some r => some (l :: r)
    | _, _ => none

/-- The scratchpad bytes that a load waits for. -/
def State.padBytes (s : State) (w : Nat) (l : Load) : List (Nat × Nat) :=
  match s.whoOf w with
  | none => []
  | some k => l.unread.filterMap fun b => match b with
    | .pad off => s.scratchByte k.g k.wg off
    | _ => none

/-- A load waits for its scratchpad lines; where one lies in a segment whose refetch is due, it asks for that (11 R239), or takes the
translation fault of it (12 R262). -/
def State.padWait (s : State) (w load : Nat) (l : Load) : State :=
  match s.askRefetch (s.padBytes w l) with
  | (none, s) => s.post (.loadReturn w load)
  | (some va, s) => match s.whoOf w with
    | none => s
    | some k => { s with idest := destOf l.d l.fmt.regs }.pageFault k 0 l.pc va

/-- A load that has all it needs returns: the bytes are read where they live, the registers written and marked full, an acquire
performed, lines filled into L1 (04 R78, 20 R435, 15 R322). -/
def State.returnLoad (s : State) (wave load : Nat) (l : Load) : State :=
  let core := s.coreOf wave
  let chip := chipOfCore core
  let vals := l.lanes.map fun e => (e.lane, s.readSrcs chip e.src)
  let s := (hostBlocks l.unread).foldl (fun s b => s.hostRead chip b) s
  let s := s.receiveAll wave load (firstOf l.lanes) l.unread
  let s := s.acquireDone wave load
  let s := s.deliverLoad wave l vals
  let s := if l.kind = .bytes then s.sample core 1 ((s.core core).clk - l.issued) else s
  let s := s.modWave wave fun x => { x with loads := Table.del x.loads load }
  match (l.lanes.zip vals).find? fun e => e.2.2.isNone with
  | some e => s.raiseA wave chip
      { cause := 0x1C, pc := some l.pc, addr := e.1.va, lseq := none, dest := destOf l.d l.fmt.regs }
  | none => if l.kind = .bytes && l.acq.isNone then s.fillLines wave l else s

/-- LOAD_RETURN: what is no longer outstanding is dropped; a load waits behind the older ones that it may not pass (09 R186) and on
an empty scratchpad line (08 R168), or for the way to a home (01 R16); a block that the host owns is asked for first (17 R356). -/
def execLoadReturn (wave load : Nat) (s : State) : Host.Outcome State Fault Refusal :=
  .next (match s.wave? wave with
    | none => s
    | some x => match Table.look x.loads load with
      | none => s
      | some l =>
        if x.readsFirst (fun m => decide (m.order < l.order)) l.unread || !s.srcsReached (chipOfCore (s.coreOf wave)) l.unread then
          s.post (.loadReturn wave load)
        else match s.padLanes wave l.lanes with
          | none => s.padWait wave load l
          | some lanes =>
            let l := { l with lanes }
            match s.ownedByHost l.unread with
            | b :: r => (b :: r).foldl (fun s b => s.askHostData b) s
            | [] => s.returnLoad wave load l)

/-! ### PREF and DISC -/

/-- The lines that `PREF.l1` may fill: of a lane whose translation and checks hold, not replicated, read without error
(21 R460). `.sc` moves a line from a stack into its own cache, which changes no value. -/
def State.prefetch (s : State) (k : Who) (va : DWord) : State :=
  match s.peek k.xctx .read va with
  | none => s
  | some (e, pa) =>
    if leafSeg e = 2 then s
    else if !s.reaches k.chip pa || (s.readSrc k.chip (.phys pa (leafBuf e))).isNone || !s.mayFill k.wg.core (pa / 128) s.serial s.epoch then s
    else s.fillL1 k.wg.core k.g.asid (vlineOf va) (pa / 128)

/-- `PREF` (21 R460). -/
def execPref (f : ExtArgs) (s : State) : Host.Outcome State Fault Refusal :=
  .next (issue (.pref f) s fun k act s =>
    .done (if f.md = 0 then act.foldl (fun s l => s.prefetch k (s.laneEa k f l)) s else s))

/-- `DISC.line` (19 R405). -/
def execDiscLine (f : ExtArgs) (s : State) : Host.Outcome State Fault Refusal :=
  .next (issue (.discLine f) s fun k act s =>
    .done (act.foldl (fun s l => s.modCore k.wg.core fun c =>
      { c with l1 := c.l1.filter fun x => !(x.asid = k.g.asid && x.vline = vlineOf (s.laneEa k f l)) }) s))

/-- `DISC.all` (19 R405). -/
def execDiscAll (f : ExtArgs) (s : State) : Host.Outcome State Fault Refusal :=
  .next (issue (.discAll f) s fun k _ s => .done (s.modCore k.wg.core fun c => { c with l1 := [] }))

end Sys2Proof.Machine
end

