-- ==== Sys2Proof/Machine/Store.lean ====
section
/-! DEFINITION. Stores and atomics: `ST`, `ATOM`, the write lane of each stack and the performance of a queue entry at
its home (22 R491, R492; 18 R376 to R379; 08 R176 to R182; 11 R241; 12 R269; 17 R356). -/

namespace Sys2Proof.Machine

/-- The virtual address of the lowest active lane's first byte (08 R182). -/
def State.firstVa (s : State) (k : Who) (f : ExtArgs) (act : List Nat) : DWord := s.laneEa k f (act.headD 0)

/-- `ST` (22 R492, 02 R39 to R41). With `.rel` the region commits first and its entries belong to the region that begins at the
store itself (22 R491, 08 R175; log 23: DEDUCED). -/
def stEff (f : ExtArgs) (k : Who) (act : List Nat) (s : State) : Eff :=
  let n := f.ty.bits / 8
  let len := Instr.length (.st f)
  let va := s.firstVa k f act
  match k.x.pend with
  | some (.todo es parks) => s.takeAll k .none .w32 len es parks va
  | _ =>
    let rel := f.xb = 2
    match (if rel then s.releaseWait k f.sc va else (true, s)) with
    | (false, s) => .wait s
    | (true, s) =>
      match spans k.xctx .write false false n (act.map fun l => (l, s.laneEa k f l)) s with
      | (.stop (.page va), s) => .gone (s.pageFault k 1 (k.x.issuePc.getD 0) va)
      | (.stop _, s) => .wait (s.notStalled k)
      | (.all ls, s) =>
        let good := goodSpans ls
        match s.orderFault k good with
        | some a => .gone (s.orderTrap k a)
        | none =>
          let es := good.foldl (fun es e => addStore k s true e.2.2
            (bytesOfNat n (s.readOpd k.x e.1 f.lit f.ty.width f.ty.imm f.b).toNat) es) []
          let (es, t) := signEntries k (if rel then some f.sc else none) es s
          let c := s.core k.wg.core
          let new := (es.filter fun e => (c.joins e).isNone).length
          if 16 < c.heldOf k.w + new then
            let t := t.commitLanes k.w k.x.group
            t.takeAll k .none .w32 len (es.map fun e => { e with held := false }) (parksOf ls) va
          else if c.roomFor k.w new then
            .done ((es.foldl (fun s e => s.joinEntry k.wg.core e) t).parkLanes k .none .w32 len (parksOf ls))
          else .wait (s.stalled k va)

/-- `ST`. -/
def execSt (f : ExtArgs) (s : State) : Host.Outcome State Fault Refusal := .next (issue (.st f) s (stEff f))

/-! ### Atomics (18 R376 to R379) -/

/-- The rounding mode that an instruction carries away with it: code 7 reads DRM at issue (05 R108, 07 R145). -/
def RoundMode.code : RoundMode → Rm
  | .rne => .rne
  | .rz => .rz
  | .ru => .ru
  | .rd => .rd
  | .rna => .rna

/-- A rounding code other than 7. -/
def rmMode : Rm → RoundMode
  | .rz => .rz
  | .ru => .ru
  | .rd => .rd
  | .rna => .rna
  | _ => .rne

/-- Bytes of an atomic in memory (18 Table 18.2). -/
def atomBytes (md : Nat) (ty : Ty) : Nat := if md = 9 || md = 10 then 8 else ty.bits / 8

/-- Width of an atomic's registers (18 Table 18.2). -/
def atomRegs (md : Nat) (ty : Ty) : Width := (atomWidth md ty).getD .w32

/-- Sub-operation of a digest fold, which adds 256 bits (16 R345): none of 06 Table 6.4. -/
def foldMd : Nat := 64

/-- Modify (18 R377): the new value, none where nothing is written. -/
def AtomLane.modify (t : AtomLane) (old : Nat) : Option Nat :=
  let w := t.width
  let b := t.b.toNat % 2 ^ (8 * w)
  let c := t.c.toNat % 2 ^ (8 * w)
  if t.md = foldMd then some ((old + t.b.toNat + t.c.toNat * 2 ^ 128) % 2 ^ 256)
  else match t.md with
    | 0 => some ((old + b) % 2 ^ (8 * w))
    | 1 => some (if lessAt t.ty.signed w b old then b else old)
    | 2 => some (if lessAt t.ty.signed w old b then b else old)
    | 3 => some (old &&& b)
    | 4 => some (old ||| b)
    | 5 => some (old ^^^ b)
    | 6 => some b
    | 7 => if old = b then some c else none
    | 8 =>
      let xs := [numAt t.ty (BitVec.ofNat 128 old), numAt t.ty (BitVec.ofNat 128 b)]
      some ((putAt t.ty (rmMode t.rm) xs (fAdd (rmMode t.rm) xs)).1.toNat % 2 ^ (8 * w))
    | 9 => some (if better t.ty true t.nan (BitVec.ofNat 128 b) (BitVec.ofNat 128 old) then b else old)
    | 10 => some (if better t.ty false t.nan (BitVec.ofNat 128 b) (BitVec.ofNat 128 old) then b else old)
    | _ => none

/-- A lane of an atomic as its operands are at issue. -/
def State.atomLane (s : State) (k : Who) (f : ExtArgs) (l pa : Nat) : AtomLane :=
  let md := f.md.toNat
  let w := atomRegs md f.ty
  { lane := l, pa, width := atomBytes md f.ty, md, ty := f.ty, rm := ((k.x.thread l).roundMode f.rm).code
    nan := f.aux.getLsbD 0
    b := s.readOpd k.x l f.lit w (if md = 8 then f.ty.imm else .int) f.b
    c := if md = 7 then s.readOpd k.x l f.lit w .int f.c else 0 }

/-- Adds a lane to the entry of its block. -/
def addAtom (k : Who) (s : State) (p : Part) (load : Option Nat) (a : AtomLane) (es : List WqEntry) : List WqEntry :=
  putEntry { k.entry s p none none false with load } (fun e => { e with atoms := e.atoms ++ [a] }) es

/-- `ATOM` (18 R378, R379): nothing is marked or sent before its entries can be had, all of them or, of more than 16, the first
(08 R182). -/
def atomEff (f : ExtArgs) (k : Who) (act : List Nat) (s : State) : Eff :=
  let md := f.md.toNat
  let n := atomBytes md f.ty
  let w := atomRegs md f.ty
  let len := Instr.length (.atom f)
  let va := s.firstVa k f act
  match k.x.pend with
  | some (.todo es parks) => s.takeAll k f.d w len es parks va
  | _ =>
    let rel := f.xb.getLsbD 1
    match (if rel then s.releaseWait k f.sc va else (true, s)) with
    | (false, s) => .wait s
    | (true, s) =>
      match spans k.xctx .atomic false true n (act.map fun l => (l, s.laneEa k f l)) s with
      | (.stop (.page va), s) => .gone (s.pageFault k 2 (k.x.issuePc.getD 0) va)
      | (.stop _, s) => .wait (s.notStalled k)
      | (.all ls, s) =>
        let good := goodSpans ls
        match s.orderFault k good with
        | some a => .gone (s.orderTrap k a)
        | none =>
          let need := (good.flatMap fun e => (e.2.2.take 1).map fun p => p.pa / 64).eraseDups.length
          if good = [] then .done (s.parkLanes k f.d w len (parksOf ls))
          else if !(s.core k.wg.core).roomFor k.w (if 16 < need then 1 else need) then .wait (s.stalled k va)
          else
            let lanes := good.map fun e => ({ lane := e.1, src := [], va := e.2.1 } : LoadLane)
            let (s, id) := s.defer k .atomic f.d w lanes (k.x.issuePc.getD 0) f.acquire
            let s := s.modWave k.w fun x => { x with loads := Table.modify x.loads id fun l =>
              { l with fmt := { width := regsOf w, bytes := n, signed := false } } }
            let es := good.foldl (fun es e => match e.2.2 with
              | p :: _ => addAtom k s p (some id) (s.atomLane k f e.1 p.pa) es
              | [] => es) []
            let (es, s) := signEntries k (if rel then some f.sc else none) es s
            s.takeAll k f.d w len es (parksOf ls) va

/-- `ATOM`. -/
def execAtom (f : ExtArgs) (s : State) : Host.Outcome State Fault Refusal := .next (issue (.atom f) s (atomEff f))

/-! ### WQ_ENTRY_PERFORM (08 R176, R178) -/

/-- The signature and tag of a release reach the record of its block (09 R192, 16 R349); a tag alone neither creates nor
narrows a set. -/
def State.entrySig (s : State) (e : WqEntry) : State :=
  match e.sig, e.tag with
  | some m, t => s.homeSig (e.block * 64) m t
  | none, some t =>
    let old := s.homeRec (e.block * 64)
    s.homeSig (e.block * 64) old.1 (some t)
  | none, none => s

/-- Takes an entry out of its queue, and out of the region queue it waited in; the next entry of its wave for the block may be
performed (08 R176). -/
def State.freeEntry (s : State) (core id : Nat) (e : WqEntry) : State :=
  let s := if e.repl || isHostAddr (e.block * 64) then s else s.dirDone (regionOf (e.block * 64)) (.write core id)
  let s := { s.modCore core (fun c => { c with wq := Table.del c.wq id }.noteLeft s.serial [e]) with serial := s.serial + 1 }
  match (s.core core).wq.find? fun x => x.2.wave = e.wave && x.2.repl = e.repl && x.2.block = e.block && !x.2.held with
  | some x => if x.2.granted || e.repl || isHostAddr (e.block * 64) then s.postOnce (.wqEntryPerform core x.1) else s
  | none => s

/-- An older entry of the wave for the block has not been performed. -/
def Core.blockedBy (c : Core) (id : Nat) (e : WqEntry) : Bool :=
  c.wq.any fun x => decide (x.1 < id) && x.2.wave = e.wave && x.2.repl = e.repl && x.2.block = e.block

/-- Every lane of a load record has its result. -/
def State.returnIfAll (s : State) (w ld : Nat) : State :=
  match (s.wave? w).bind fun x => Table.look x.loads ld with
  | none => s
  | some l => if l.lanes.all fun e => e.src ≠ [] then s.postOnce (.loadReturn w ld) else s

/-- One lane of an atomic performed at its home (18 R378): the old value to the lane, the new value written. -/
def State.atomPerform (s : State) (core : Nat) (e : WqEntry) (a : AtomLane) : State :=
  let old := Memory.readLe s.mem a.pa a.width
  let s := match a.modify old with
    | none => s
    | some v =>
      let cs := (bytesOfNat a.width v).zipIdx.map fun b => (a.pa + b.2, b.1)
      (s.homeStore (some core) (some e.buf) cs).ringWrites cs
  match e.load with
  | none => s
  | some ld => s.modWave e.wave fun x => x.putLane ld a.lane (bytesOfNat a.width old)

/-- The lanes of an atomic that cannot be performed get undefined values (08 R163, 15 R322). -/
def State.atomFails (s : State) (e : WqEntry) : State :=
  let s := match e.load with
    | none => s
    | some ld =>
      let s := e.atoms.foldl (fun s a =>
        (s.modWave e.wave fun x => x.putLane ld a.lane (bytesOfNat a.width (Config.freeValue s.free).toNat)).useFree) s
      s.returnIfAll e.wave ld
  s

/-- DATA_ERROR of an entry (08 R163, 15 R322). -/
def State.entryError (s : State) (core : Nat) (e : WqEntry) : State :=
  let d := match (s.wave? e.wave), e.load with
    | some x, some ld => match Table.look x.loads ld with
      | some l => destOf l.d l.fmt.regs
      | none => 0x180
    | _, _ => 0x180
  (s.raiseA e.wave (chipOfCore core) { cause := 0x1C, pc := some e.pc, addr := e.va, lseq := none, dest := d })

/-- An entry performed at the stack or host memory that holds its block. -/
def State.entryPerform (s : State) (core : Nat) (e : WqEntry) : State :=
  if e.atoms = [] then ((s.homeStore (some core) (some e.buf) e.bytes).ringWrites e.bytes).entrySig e
  else if s.tagFails (e.block * 64) e.buf then (s.atomFails e).entryError core e
  else
    let s := match e.load with
      | none => s
      | some ld => s.receiveHome e.wave ld (e.block * 64) e.va
    let s := (e.atoms.foldl (fun s a => s.atomPerform core e a) s).entrySig e
    match e.load with
    | none => s
    | some ld => s.returnIfAll e.wave ld

/-- An entry that an evacuating home refuses is translated again (12 R269): it keeps its bytes and goes to the new home;
it waits while the page moves; with no translation left it is dropped as at an absent stack (log 12: DEDUCED). -/
def State.refuse (s : State) (core id : Nat) (e : WqEntry) : State :=
  let x : XCtx := { core, asid := e.asid, ptroot := e.ptroot, priv := e.priv }
  match s.translate x (if e.atoms = [] then .write else .atomic) false e.va with
  | (.ok leaf pa, s) =>
    let move (a : Nat) : Nat := pa + (a - e.block * 64)
    let e' : WqEntry :=
      { e with block := pa / 64, bytes := e.bytes.map (fun b => (move b.1, b.2))
               atoms := e.atoms.map (fun a => { a with pa := move a.pa }), buf := leafBuf leaf, granted := false
               epoch := s.epoch }
    ((s.modCore core fun c => { c with wq := Table.put c.wq id e' }).dirDone (regionOf (e.block * 64)) (.write core id)).postEntry core id e'
  | (.moving, s) => s
  | (.wait, s) => s.post (.wqEntryPerform core id)
  | (_, s) => ((s.freeEntry core id e).atomFails e).entryError core e

/-- A home refuses an entry translated before the evacuation of its page began to copy (12 R269). -/
def State.evacuating (s : State) (e : WqEntry) : Bool :=
  match Table.look (s.cluster (stackOf (e.block * 64))).evac (e.block / 1024) with
  | none => false
  | some n => decide (e.epoch < n)

/-- A replicated entry is accepted by its chip's unit (08 R178, 10 R210, R216, R226; 17 R356). -/
def State.acceptEntry (s : State) (core id : Nat) (e : WqEntry) : State :=
  let chip := chipOfCore core
  let strong := ((s.wave? e.wave).map fun x => x.strong.isSome).getD false
  let r := s.repl chip
  if strong || !r.canCreate then s
  else if r.hostHeld.contains e.block then
    s.modRepl chip fun r => { r with biWait := if r.biWait.contains e.block then r.biWait else r.biWait ++ [e.block] }
  else (s.acceptUpdate chip e.bytes e.sig e.tag).freeEntry core id e

/-- An entry of a stack whose turn has come (08 R163, R176, R180; 11 R241; 12 R269; 17 R356). -/
def State.stackEntry (s : State) (core id : Nat) (e : WqEntry) : State :=
  let pa := e.block * 64
  let st := stackOf pa
  if !s.stackLive st then
    (((s.freeEntry core id e).note (chipOfCore core) 0x163 [pa]).atomFails e).entryError core e
  else if !s.reaches (chipOfCore core) pa then s.post (.wqEntryPerform core id)
  else if s.evacuating e then s.refuse core id e
  else if !e.granted then s
  else if (s.cluster st).hostHeld.contains e.block then s.askHost e.block
  else if !s.dirMayWrite (regionOf pa) (.write core id) then s.dirAsk (regionOf pa) (.write core id)
  else (s.entryPerform core e).freeEntry core id e

/-- WQ_ENTRY_PERFORM: a released entry whose older entries for the block are done, and whose bytes no outstanding load of the wave has
still to read, is accepted where its block lives, and
freed. -/
def execWqEntryPerform (core entry : Nat) (s : State) : Host.Outcome State Fault Refusal :=
  .next (match Table.look (s.core core).wq entry with
    | none => s.dirDrop fun q => q = .write core entry
    | some e =>
      if e.held || (s.core core).blockedBy entry e then s
      else if ((s.wave? e.wave).map fun x => x.entryWaits e).getD false then s.post (.wqEntryPerform core entry)
      else if e.repl then s.acceptEntry core entry e
      else if isHostAddr (e.block * 64) then
        if !s.reaches (chipOfCore core) (e.block * 64) then s.post (.wqEntryPerform core entry)
        else ((s.hostOwn (chipOfCore core) e.block).entryPerform core e).freeEntry core entry e
      else s.stackEntry core entry e)

/-! ### The write lane of a stack (08 R180, R181) -/

/-- A block that waits for a stack's write scheduler: of a write-queue entry, or of a copy's next transfer, by core and number; the
gang that issued it and the region it counts under. -/
structure Waiter where
  core : Nat
  id : Nat
  copy : Bool
  gang : Nat
  rcb : Nat
  deriving DecidableEq, Repr

/-- The blocks that wait for a stack's write scheduler (08 R180). -/
def State.laneWaiters (s : State) (stack : Nat) : List Waiter :=
  s.cores.flatMap fun c =>
    (c.2.wq.filterMap fun e =>
      if !e.2.held && !e.2.granted && !e.2.repl && !isHostAddr (e.2.block * 64) && stackOf (e.2.block * 64) = stack then
        some { core := c.1, id := e.1, copy := false, gang := e.2.gang, rcb := e.2.rcb } else none) ++
    c.2.copies.filterMap fun e =>
      if e.2.lane = some stack then
        some { core := c.1, id := e.1, copy := true, gang := e.2.gang, rcb := ((s.gang? e.2.gang).map fun g => g.rcb).getD 0 } else none

/-- What a waiting block goes on with. -/
def Waiter.event (w : Waiter) : Event := if w.copy then .copyTransfer w.core w.id else .wqEntryPerform w.core w.id

/-- A waiting block is granted. -/
def State.grantLane (s : State) (w : Waiter) : State :=
  s.modCore w.core fun c =>
    if w.copy then { c with copies := Table.modify c.copies w.id fun e => { e with lane := none, granted := true } }
    else { c with wq := Table.modify c.wq w.id fun e => { e with granted := true } }

/-- Effective WLW and WCAP of a gang's region and the RCB that keeps its WCAP count (02 R44, 08 R180, R181). -/
def State.laneBudget (s : State) (g : Nat) : Nat × Nat × Nat :=
  match s.gang? g with
  | none => (1, 0, 0)
  | some k => (s.effField k.chip k.rcb 5 0x38 32 8, s.effField k.chip k.rcb 6 0x38 44 20, s.ownerOf k.chip k.rcb 6)

/-- The region's WCAP leaves room on a stack in this window (08 R181). -/
def State.capRoom (s : State) (stack g : Nat) : Bool :=
  let (_, cap, rcb) := s.laneBudget g
  cap = 0 || decide (Table.at (s.cluster stack).wcap rcb 0 < cap)

/-- Counts blocks against WCAP on a stack. -/
def State.capCount (s : State) (stack g n : Nat) : State :=
  let (_, cap, rcb) := s.laneBudget g
  if cap = 0 then s
  else s.modCluster stack fun c => { c with wcap := Table.put c.wcap rcb (Table.at c.wcap rcb 0 + n) }

/-- The oldest of some waiting blocks: the least number. -/
def oldestWaiter (ws : List Waiter) : Option Waiter :=
  ws.foldl (fun m e => match m with
    | none => some e
    | some q => if e.id < q.id then some e else some q) none

/-- The block granted next: weighted round-robin over regions of nonzero weight, each as many blocks in turn as its WLW
says, then regions of weight 0 (08 R180). -/
def State.pickWaiter (s : State) (stack : Nat) (ws : List Waiter) : Option (Waiter × Table Nat) :=
  let wrr := (s.cluster stack).wrr
  let heavy := ws.filter fun e => (s.laneBudget e.gang).1 ≠ 0
  if heavy = [] then (oldestWaiter ws).map fun e => (e, wrr)
  else
    let left := heavy.filter fun e => Table.at wrr e.rcb 0 ≠ 0
    let (cand, wrr) := if left ≠ [] then (left, wrr)
      else (heavy, heavy.foldl (fun t e => Table.put t e.rcb (s.laneBudget e.gang).1) wrr)
    (oldestWaiter cand).map fun e => (e, Table.put wrr e.rcb (Table.at wrr e.rcb 0 - 1))

/-- WRITE_LANE_GRANT (08 R180): one slot of a stack's write scheduler goes to a block of region traffic. Reserved traffic is written
in the steps that cause it, so it never waits for a slot (log 6: DESIGN CHOICE). -/
def execWriteLaneGrant (stack : Nat) (s : State) : Host.Outcome State Fault Refusal :=
  .next (
    let ws := s.laneWaiters stack
    if !s.stackLive stack then ws.foldl (fun s e => s.postOnce e.event) s
    else match s.pickWaiter stack (ws.filter fun e => s.capRoom stack e.gang) with
      | none => s
      | some (e, wrr) =>
        let s := s.modCluster stack fun c => { c with wrr }
        let s := ((s.capCount stack e.gang 1).grantLane e).post e.event
        if ws.length ≤ 1 then s else s.postOnce (.writeLaneGrant stack))

/-- WCAP_WINDOW (08 R181): the counts of a stack start again, and what they held back may go on. -/
def execWcapWindow (stack : Nat) (s : State) : Host.Outcome State Fault Refusal :=
  .next (
    let s := s.modCluster stack fun c => { c with wcap := [] }
    if s.laneWaiters stack = [] then s else s.postOnce (.writeLaneGrant stack))

/-- WRITE_BACKPRESSURE (08 R182): a write stall has reached WSTALL and MODE.WBPT is 1; the trap is at the stalled
instruction, which is issued again after `RTE`. -/
def execWriteBackpressure (wave : Nat) (s : State) : Host.Outcome State Fault Refusal :=
  .next (match s.whoOf wave with
    | none => s
    | some k =>
      let limit := s.effField k.chip k.g.rcb 7 0x40 0 32
      if limit = 0 || !k.g.mode.getLsbD 5 || k.x.stall < limit || k.x.halted then s
      else
        (s.sample k.wg.core 7 k.x.stall).takeTrap wave
          { TrapInfo.plain 0x10 (k.x.issuePc.getD 0) k.x.stallAddr with dest := k.x.stallDest })

end Sys2Proof.Machine
end

