-- ==== Sys2Proof/Machine/Scratch.lean ====
section
/-! DEFINITION. Scratchpad accesses and windows: `LDL`, `STL`, `ATOML`, `SEGB`, `SEGU`, `WBR` and the messages between a
segment and its home (08 R167 to R169; 11 R236 to R247; 18 R380; 20 R436; 22 R483, R493). -/

namespace Sys2Proof.Machine

/-- The wave has a load on an empty line still to read one of these bytes: it comes first (09 R186). -/
def State.padFirst (s : State) (k : Who) (bs : List (Nat × Nat)) : Bool :=
  k.x.loads.any fun l => l.2.unread.any fun b => match b with
    | .pad off => ((s.scratchByte k.g k.wg off).map bs.contains).getD false
    | _ => false

/-- An instruction touches a segment in T: it waits, its refetch asked for, or takes the translation fault of that. -/
def State.waitRefetch (s : State) (k : Who) (bs : List (Nat × Nat)) : Eff :=
  match s.askRefetch bs with
  | (some va, s) => .gone (s.pageFault k (if (segsOf bs).any fun e => (s.seg e.1 e.2).owned then 1 else 0) (k.x.issuePc.getD 0) va)
  | (none, s) => .wait (s.notStalled k)

/-- The SEGMENT_LOST trap: precise, at the access, with the offset (11 R247). -/
def State.segmentLost (s : State) (k : Who) (off : Nat) : State :=
  s.preciseTrap k.w 0x15 (k.x.issuePc.getD 0) (BitVec.ofNat 64 off)

/-- The EMPTY trap of a scratchpad operand with its E bit set (08 R168, 04 R79). -/
def State.emptyTrap (s : State) (k : Who) (len : Nat) : State := s.decodeTrap k.w 0x03 (k.x.issuePc.getD 0) len

/-- A lane of a scratchpad access: offset and bytes, or its class L fault. -/
structure ScLane where
  lane : Nat
  off : Nat
  bytes : List (Nat × Nat)
  bad : Option (BitVec 8)
  deriving DecidableEq, Repr

/-- The lanes of a scratchpad access of `n` bytes: SCRATCH_RANGE, then MISALIGN_ATOMIC where `aligned` asks for it, then
PROTECTION of a write to a shared segment, and of a refetch that the page refuses. -/
def State.scLanes (s : State) (k : Who) (n : Nat) (aligned write : Bool) (offs : List (Nat × Nat)) : List ScLane :=
  offs.map fun e =>
    match s.scratchBytes k.g k.wg e.2 n with
    | none => { lane := e.1, off := e.2, bytes := [], bad := some 0x05 }
    | some bs =>
      if aligned && e.2 % n ≠ 0 then { lane := e.1, off := e.2, bytes := [], bad := some 0x04 }
      else if (write && s.inS bs) || ((segsOf bs).any fun i => s.refused i.1 i.2) then { lane := e.1, off := e.2, bytes := [], bad := some 0x12 }
      else { lane := e.1, off := e.2, bytes := bs, bad := none }

/-- Parks the lanes that have a fault (15 R311). -/
def State.parkSc (s : State) (k : Who) (d : Opd) (w : Width) (len : Nat) (ls : List ScLane) : State :=
  s.parkLanes k d w len (ls.filterMap fun e => e.bad.map fun c => (e.lane, c, BitVec.ofNat 64 e.off))

/-- The holds that every scratchpad access shares: a lost segment traps, a segment in T is waited for, its refetch asked
for. -/
def scHold (k : Who) (ls : List ScLane) (s : State) (go : State → Eff) : Eff :=
  match ls.find? fun e => s.lostSeg e.bytes with
  | some e => .gone (s.segmentLost k e.off)
  | none =>
    let bs := ls.flatMap fun e => e.bytes
    if s.inT bs then s.waitRefetch k bs
    else if s.padFirst k bs then .wait (s.notStalled k) else go s

/-- The further hold of accesses that read: empty lines are waited for, or trap where the address operand's E bit is set
(08 R168). -/
def scFullHold (k : Who) (ea : Bool) (len : Nat) (ls : List ScLane) (s : State) (go : State → Eff) : Eff :=
  scHold k ls s fun s =>
    if (scratchLines (ls.flatMap fun e => e.bytes)).all s.lineFull then go s
    else if ea then .gone (s.emptyTrap k len)
    else .wait (s.notStalled k)

/-! ### LDL, STL, ATOML -/

/-- The scope checker's comparison at a scratchpad line (16 R349). -/
def State.scratchTag (s : State) (k : Who) (acq : Option Nat) (ls : List ScLane) : Option DWord :=
  match acq with
  | none => none
  | some sc =>
    (ls.find? fun e => (scratchLines e.bytes).any fun l => match Table.look (s.core l.1).lineTag l.2 with
      | none => false
      | some t => !tagHolds sc t (s.tagOf k.w)).map fun e => BitVec.ofNat 64 e.off

/-- A result read from scratchpad, on its way to its registers. The read returns no record, so a later acquire fence of the wave drops
every line that is not locally homed (09 R192, R197; log 13: DEDUCED). -/
def State.deferScratch (s : State) (k : Who) (d : Opd) (w : Width) (fmt : LoadFmt) (lanes : List LoadLane)
    (acq : Option Nat) (got : BitVec 512) (bad : Option DWord) : State :=
  let (s, id) := s.defer k .bytes d w lanes (k.x.issuePc.getD 0) acq
  (s.modWave k.w fun x =>
    { x with acqSig := BitVec.allOnes 512, loads := Table.modify x.loads id fun l => { l with fmt, got, bad } }).post
    (.loadReturn k.w id)

/-- A lane of `LDL`: read at issue, or, where a line it touches is empty, once the line is full (08 R168, 04 R81). -/
def State.padRead (s : State) (e : ScLane) : LoadLane :=
  { lane := e.lane, va := BitVec.ofNat 64 e.off
    src := if (scratchLines e.bytes).all s.lineFull then (s.readScratch e.bytes).map ByteSrc.val
      else (List.range e.bytes.length).map fun i => ByteSrc.pad ((e.off + i) % 2 ^ 32) }

/-- `LDL` (20 R436): an acquire orders the wave's later accesses and drops no L1 line. -/
def ldlEff (f : ExtArgs) (k : Who) (act : List Nat) (s : State) : Eff :=
  let n := f.ty.bits / 8
  let len := Instr.length (.ldl f)
  let ls := s.scLanes k n false false (act.map fun l => (l, s.laneOff k f l))
  let good := ls.filter fun e => e.bad.isNone
  scHold k good s fun s =>
    if f.ea && !(scratchLines (good.flatMap fun e => e.bytes)).all s.lineFull then .gone (s.emptyTrap k len)
    else
      let s := s.parkSc k f.d f.ty.width len ls
      if good = [] then .done s
      else .done (s.deferScratch k f.d f.ty.width
        { width := regsOf f.ty.width, bytes := n, signed := f.ty.signed } (good.map s.padRead)
        (f.acquire.map fun sc => min sc 2) 0 (s.scratchTag k f.acquire good))

/-- `LDL`. -/
def execLdl (f : ExtArgs) (s : State) : Host.Outcome State Fault Refusal := .next (issue (.ldl f) s (ldlEff f))

/-- The tag a release leaves with the lines it writes (16 R349). -/
def State.tagLines (s : State) (k : Who) (sc : Scope) (ls : List (Nat × Nat)) : State :=
  match s.scopeTag k sc with
  | none => s
  | some t => ls.foldl (fun s l => s.modCore l.1 fun c => { c with lineTag := Table.put c.lineTag l.2 t }) s

/-- `STL` (22 R493). A stalled release of it, or of `ATOML`, records address 0 where WRITE_BACKPRESSURE traps: 08 R182 gives it none (log 29:
DESIGN CHOICE). -/
def stlEff (f : ExtArgs) (k : Who) (act : List Nat) (s : State) : Eff :=
  let n := f.ty.bits / 8
  let len := Instr.length (.stl f)
  match (if f.xb = 2 then s.releaseWait k f.sc 0 else (true, s)) with
  | (false, s) => .wait s
  | (true, s) =>
    let ls := s.scLanes k n false true (act.map fun l => (l, s.laneOff k f l))
    let good := ls.filter fun e => e.bad.isNone
    scHold k good s fun s =>
      let s := good.foldl (fun s e =>
        (s.writeScratch e.bytes (bytesOfNat n (s.readOpd k.x e.lane f.lit f.ty.width f.ty.imm f.b).toNat)).fillLinesOf
          (scratchLines e.bytes)) s
      let s := if f.xb = 2 then s.tagLines k f.sc (scratchLines (good.flatMap fun e => e.bytes)) else s
      .done (s.parkSc k .none .w32 len ls)

/-- `STL`. -/
def execStl (f : ExtArgs) (s : State) : Host.Outcome State Fault Refusal := .next (issue (.stl f) s (stlEff f))

/-- One lane of `ATOML` performed in the scratchpad: the old value, and the state after it (18 R380). -/
def State.atomlLane (s : State) (k : Who) (f : ExtArgs) (e : ScLane) : Nat × State :=
  let a := s.atomLane k f e.lane e.off
  let old := natOfBytes (s.readScratch e.bytes)
  (old, match a.modify old with
    | none => s.fillLinesOf (scratchLines e.bytes)
    | some v => (s.writeScratch e.bytes (bytesOfNat a.width v)).fillLinesOf (scratchLines e.bytes))

/-- The lanes of `ATOML` in ascending order, with their old values. -/
def atomlLanes (k : Who) (f : ExtArgs) : List ScLane → State → List LoadLane × State
  | [], s => ([], s)
  | e :: r, s =>
    let (old, s) := s.atomlLane k f e
    let (rest, s) := atomlLanes k f r s
    ({ lane := e.lane, va := BitVec.ofNat 64 e.off, src := (bytesOfNat (atomBytes f.md.toNat f.ty) old).map ByteSrc.val } :: rest, s)

/-- `ATOML` (18 R380). An acquire at gang scope receives no record, so all ones (09 R190, R192; log 13: DEDUCED). -/
def atomlEff (f : ExtArgs) (k : Who) (act : List Nat) (s : State) : Eff :=
  let md := f.md.toNat
  let n := atomBytes md f.ty
  let w := atomRegs md f.ty
  let len := Instr.length (.atoml f)
  let rel := f.xb.getLsbD 1
  match (if rel then s.releaseWait k f.sc 0 else (true, s)) with
  | (false, s) => .wait s
  | (true, s) =>
    let ls := s.scLanes k n true true (act.map fun l => (l, s.laneOff k f l))
    let good := ls.filter fun e => e.bad.isNone
    scFullHold k f.ea len good s fun s =>
      let bad := s.scratchTag k f.acquire good
      let (olds, s) := atomlLanes k f good s
      let s := if rel then s.tagLines k f.sc (scratchLines (good.flatMap fun e => e.bytes)) else s
      let s := s.parkSc k f.d w len ls
      if good = [] then .done s
      else .done (s.deferScratch k f.d w { width := regsOf w, bytes := n, signed := false } olds f.acquire
        (BitVec.allOnes 512) bad)

/-- `ATOML`. -/
def execAtoml (f : ExtArgs) (s : State) : Host.Outcome State Fault Refusal := .next (issue (.atoml f) s (atomlEff f))

/-! ### SEGB, SEGU, WBR (22 R483) -/

/-- What `SEGB`, `SEGU` and `WBR` share: the segment named by A[l0][23:0], or the fault of the lowest active lane. -/
def State.segNamed (s : State) (k : Who) (f : ExtArgs) (act : List Nat) : Except (BitVec 8 × DWord) Nat :=
  let a := (s.readOpd k.x (act.headD 0) f.lit .w32 .int f.a).toNat % 2 ^ 24
  if a % 4096 ≠ 0 then .error (0x04, BitVec.ofNat 64 a)
  else match k.wg.ownByte a with
    | none => .error (0x05, BitVec.ofNat 64 a)
    | some b => .ok (b.2 / 4096)

/-- The lowest active lane parks. -/
def State.parkFirst (s : State) (k : Who) (act : List Nat) (len : Nat) (e : BitVec 8 × DWord) : State :=
  s.parkLanes k .none .w32 len [(act.headD 0, e.1, e.2)]

/-- Where the region of a bound segment lies: with a refetch due, as its page stands now. -/
def State.segPa (s : State) (core : Nat) (x : Seg) : Nat :=
  if !x.refetch then x.pa
  else match (s.lookup (x.xctx core) true x.va).leaf with
    | none => x.pa
    | some (e, _, _) => leafPa e x.va

/-- Some segment of a core's quad is bound to a region (11 R236). -/
def State.quadBound (s : State) (core pa : Nat) : Bool :=
  (List.range 4).any fun i =>
    let c := core / 4 * 4 + i
    (s.core c).segs.any fun e => e.2.st ≠ .i && regionOf (s.segPa c e.2) = regionOf pa

/-- `SEGB` (22 R483, 11 R236, R238). -/
def segbEff (f : ExtArgs) (k : Who) (act : List Nat) (s : State) : Eff :=
  let len := Instr.length (.segb f)
  let core := k.wg.core
  match s.segNamed k f act with
  | .error e => .done (s.parkFirst k act len e)
  | .ok i =>
    let va := (s.readOpd k.x (act.headD 0) f.lit .w64 .int f.b).setWidth 64
    let own := f.md = 1
    if va.toNat % 4096 ≠ 0 then .done (s.parkFirst k act len (0x04, va))
    else match s.translate k.xctx (if own then .own else .share) false va with
      | (.translation, s) => .gone (s.pageFault k (if own then 1 else 0) (k.x.issuePc.getD 0) va)
      | (.protection, s) => .done (s.parkFirst k act len (0x12, va))
      | (.moving, s) => .wait (s.notStalled k)
      | (.wait, s) => .wait (s.notStalled k)
      | (.ok e pa, s) =>
        if (s.seg core i).st ≠ .i || s.quadBound core pa then .done (s.parkFirst k act len (0x12, va))
        else if (s.seg core i).notice then .wait (s.notStalled k)
        else
          let x : Seg := { st := .t, owned := own, va, asid := k.g.asid, priv := k.g.priv, ptroot := k.g.ptroot, buf := leafBuf e, pa
                           dirty := 0, refetch := false, filling := true, linesLeft := 32, notice := false, back := false
                           lost := false, wave := k.w, epoch := s.epoch }
          .done (((s.emptySeg core i).setSeg core i x).post (.windowFillRequest core i))

/-- `SEGB`. -/
def execSegb (f : ExtArgs) (s : State) : Host.Outcome State Fault Refusal := .next (issue (.segb f) s (segbEff f))

/-- `SEGU` (22 R483, 11 R238, R239, R247). -/
def seguEff (f : ExtArgs) (k : Who) (act : List Nat) (s : State) : Eff :=
  let core := k.wg.core
  match s.segNamed k f act with
  | .error e => .done (s.parkFirst k act (Instr.length (.segu f)) e)
  | .ok i =>
    let x := s.seg core i
    match x.st with
    | .i => .done s
    | .s => .done ((s.setSeg core i { x with st := .i, notice := true, wave := k.w }).post (.windowNotice core i))
    | .o => .done ((s.setSeg core i { x with st := .t, notice := true, wave := k.w }).post (.windowNotice core i))
    | .t =>
      if x.lost then .done (s.setSeg core i Seg.free)
      else if x.due then
        .done ((s.setSeg core i { x with st := .i, refetch := false, notice := true, wave := k.w }).post
          (.windowNotice core i))
      else .wait (s.notStalled k)

/-- `SEGU`. -/
def execSegu (f : ExtArgs) (s : State) : Host.Outcome State Fault Refusal := .next (issue (.segu f) s (seguEff f))

/-- Blocks of some cells that a host cache holds: BISnpInv goes before the write (17 R356). -/
def State.cellsHeld (s : State) (cs : Bytes) : List Nat :=
  (blocksOf cs).filter fun b => !isHostAddr (b * 64) && (s.cluster (stackOf (b * 64))).hostHeld.contains b

/-- D of a window's page is set before its write-back (12 R265), where the page that its translation names still is the one written;
`false` while the update cannot be made. -/
def State.markBack (s : State) (core i : Nat) : Bool × State :=
  let x := s.seg core i
  match (s.lookup (x.xctx core) true x.va).leaf with
  | none => (true, s)
  | some (e, _, _) =>
    if e.getLsbD 5 || leafSeg e = 4 || leafPa e x.va ≠ x.pa then (true, s)
    else match s.translate (x.xctx core) .write false x.va with
      | (.wait, s) => (false, s)
      | (_, s) => (true, s)

/-- The home takes a segment's dirty bytes (11 R238, R243) as the store of its core: under the page's version (12 R272), the bytes
in the core's signature table; the mask is clear. `false` while a host's copy of a block has not been asked back (17 R356), or D
cannot be set. -/
def State.writeBack (s : State) (core i : Nat) : Bool × State :=
  let cs := s.dirtyCells core i
  if cs = [] then (true, s)
  else match s.cellsHeld cs with
    | b :: r => (false, (b :: r).foldl (fun s b => s.askHost b) s)
    | [] => match s.markBack core i with
      | (false, s) => (false, s)
      | (true, s) =>
        let x := s.seg core i
        (true, ((s.homeStore (some core) (some x.buf) cs).ringWrites cs).setSeg core i { x with dirty := 0 })

/-- `WBR` (22 R483, 11 R238): the home takes the dirty bytes and the mask is clear. -/
def wbrEff (f : ExtArgs) (k : Who) (act : List Nat) (s : State) : Eff :=
  let core := k.wg.core
  match s.segNamed k f act with
  | .error e => .done (s.parkFirst k act (Instr.length (.wbr f)) e)
  | .ok i =>
    if (s.seg core i).back then .wait (s.notStalled k)
    else if (s.seg core i).st ≠ .o then .done s
    else match s.writeBack core i with
      | (true, s) => .done s
      | (false, s) => .wait (s.notStalled k)

/-- `WBR`. -/
def execWbr (f : ExtArgs) (s : State) : Host.Outcome State Fault Refusal := .next (issue (.wbr f) s (wbrEff f))

/-! ### Messages between a segment and its home -/

/-- A message between a segment and the home of its region, which waits while the link between them is down (01 R16). -/
def State.overLink (s : State) (core seg : Nat) (again : Event) (go : State) : State :=
  if s.reaches (chipOfCore core) (s.seg core seg).pa then go else s.post again

/-- WINDOW_FILL_REQUEST (11 R241): the request joins its region queue; a home that has departed loses the segment. -/
def execWindowFillRequest (core seg : Nat) (s : State) : Host.Outcome State Fault Refusal :=
  .next (s.overLink core seg (.windowFillRequest core seg) (
    let x := s.seg core seg
    if x.st ≠ .t || !x.filling then s
    else if !s.stackLive (stackOf x.pa) then s.setSeg core seg { x with filling := false, lost := true }
    else s.dirAsk (regionOf x.pa) (.fill core seg x.owned)))

/-- The 64 bytes of a block as a fill reads them; undefined bytes where the block fails its tag check (12 R271, log 4: DESIGN CHOICE). -/
def State.blockBytes (s : State) (a buf : Nat) : List Byte :=
  if s.tagFails a buf then (List.range 4).flatMap fun i => bytesOfNat 16 (Config.freeValue (s.free + i)).toNat
  else Memory.readBytes s.mem a 64

/-- WINDOW_FILL_DATA (11 R238): a line arrives and is set full; after the last the segment is in its bound mode. -/
def execWindowFillData (core seg line : Nat) (s : State) : Host.Outcome State Fault Refusal :=
  .next (s.overLink core seg (.windowFillData core seg line) (
    let x := s.seg core seg
    if x.st ≠ .t || !x.filling then s
    else
      let a := x.pa + 128 * line
      let bs := s.blockBytes a x.buf ++ s.blockBytes (a + 64) x.buf
      let s := { s with free := s.free + 8 }
      let s := s.modCore core fun c =>
        { c with scratch := Memory.writeBytes c.scratch (4096 * seg + 128 * line) bs
                 lines := c.lines ||| ((1#4096) <<< (32 * seg + line)) }
      s.setSeg core seg
        (if x.linesLeft ≤ 1 then
          { x with st := if x.owned then .o else .s, filling := false, linesLeft := 0, dirty := 0, refetch := false }
         else { x with linesLeft := x.linesLeft - 1 })))

/-- The home records a holder, or awaits its answer. -/
def State.knows (s : State) (region : Nat) (h : Nat × Nat) : Bool :=
  match s.dir? region with
  | none => false
  | some d => d.sharers.contains h || d.asked.contains h

/-- WINDOW_NOTICE (11 R241, R242): the home takes a notice at once; from a holder it records or awaits, dirty bytes are
written and the holder is removed; then it acknowledges. -/
def execWindowNotice (core seg : Nat) (s : State) : Host.Outcome State Fault Refusal :=
  .next (s.overLink core seg (.windowNotice core seg) (
    let x := s.seg core seg
    if !x.notice && !x.back then s
    else
      let r := regionOf x.pa
      match (if x.st = .t && s.knows r (core, seg) then s.writeBack core seg else (true, s)) with
      | (false, s) => s.post (.windowNotice core seg)
      | (true, s) =>
        let s := s.dirLeave r (core, seg)
        if x.back then s.setSeg core seg { s.seg core seg with back := false, dirty := 0 } else s.post (.windowNoticeAck core seg)))

/-- WINDOW_NOTICE_ACK (11 R238): the segment is in I. -/
def execWindowNoticeAck (core seg : Nat) (s : State) : Host.Outcome State Fault Refusal :=
  .next (s.overLink core seg (.windowNoticeAck core seg) (if (s.seg core seg).notice then s.setSeg core seg Seg.free else s))

/-- An INV or RECALL at its holder (11 R239, R242): dirty bytes go back with the reply, and the segment is in T with a
refetch due; a segment no longer held answers GONE. -/
def State.recallSeg (s : State) (core seg : Nat) (again : Event) : State :=
  let x := s.seg core seg
  if x.st = .s || x.st = .o then
    match (if x.st = .o then s.writeBack core seg else (true, s)) with
    | (false, s) => s.post again
    | (true, s) =>
      ((s.emptySeg core seg).setSeg core seg { x with st := .t, refetch := true, dirty := 0 }).dirLeave (regionOf x.pa) (core, seg)
  else s.post (.windowGone core seg)

/-- WINDOW_INV (11 R239). -/
def execWindowInv (core seg : Nat) (s : State) : Host.Outcome State Fault Refusal :=
  .next (s.overLink core seg (.windowInv core seg) (s.recallSeg core seg (.windowInv core seg)))

/-- WINDOW_RECALL (11 R239). -/
def execWindowRecall (core seg : Nat) (s : State) : Host.Outcome State Fault Refusal :=
  .next (s.overLink core seg (.windowRecall core seg) (s.recallSeg core seg (.windowRecall core seg)))

/-- WINDOW_GONE (11 R242): a reply where the home still awaits the holder, else discarded; it does not overtake the holder's
notice. -/
def execWindowGone (core seg : Nat) (s : State) : Host.Outcome State Fault Refusal :=
  .next (s.overLink core seg (.windowGone core seg) (
    let x := s.seg core seg
    let r := regionOf x.pa
    let awaited := match s.dir? r with
      | none => false
      | some d => d.asked.contains (core, seg)
    if !awaited then s
    else if x.notice || x.back then s.post (.windowGone core seg)
    else if x.st ≠ .s && x.st ≠ .o && !x.filling then s.dirLeave r (core, seg) else s))

end Sys2Proof.Machine
end

