-- ==== Sys2Proof/Machine/Barrier.lean ====
section
/-! DEFINITION. Barrier objects and the copies' lines: `BARI`, `BARA`, `BARW`, `BART`, `LEMP`, `LWT` (13 R283 to R287,
18 R382 to R384, 20 R439). -/

namespace Sys2Proof.Machine

/-! ### Barrier objects (13 R283, R284) -/

/-- A 24-bit scratchpad offset (13 R273). -/
def offset24 (n : Nat) : Nat := n % 2 ^ 24

/-- Where a barrier object lies: core and byte number; or a fault code with detail: misaligned (0x16, 6: the spec's
table gives no other code for it, log 14: DEDUCED), out of range. -/
def State.barAt (s : State) (g : Gang) (x : Workgroup) (off : Nat) : Except (Nat × Nat) (Nat × Nat) :=
  if off % 16 ≠ 0 then .error (0x16, 6)
  else match s.scratchByte g x off with
    | none => .error (0x05, 0)
    | some b => .ok b

/-- The two words of an object. -/
def State.barWords (s : State) (b : Nat × Nat) : Nat × Nat :=
  let m := (s.core b.1).scratch
  (Memory.readLe m b.2 8, Memory.readLe m (b.2 + 8) 8)

/-- Writes the two words of an object. -/
def State.setBar (s : State) (b : Nat × Nat) (w : Nat × Nat) : State :=
  s.writeScratch ((List.range 16).map fun i => (b.1, b.2 + i)) (bytesOfNat 8 w.1 ++ bytesOfNat 8 w.2)

/-- The fields of word 0 (13 Table 13.7); `top` is its reserved bits. -/
structure BarWord where
  top : Nat
  val : Bool
  flt : Bool
  ph : Bool
  arr : Nat
  pend : Nat
  deriving DecidableEq, Repr

/-- The fields of a word. -/
def BarWord.of (w : Nat) : BarWord :=
  { top := w / 2 ^ 51, val := bit w 50, flt := bit w 49, ph := bit w 48, arr := bits w 36 12, pend := bits w 0 36 }

/-- The word of the fields. -/
def BarWord.word (b : BarWord) : Nat :=
  b.top * 2 ^ 51 + b.val.toNat * 2 ^ 50 + b.flt.toNat * 2 ^ 49 + b.ph.toNat * 2 ^ 48 + b.arr * 2 ^ 36 + b.pend

/-- Complete (13 R284). -/
def BarWord.complete (b : BarWord) : BarWord := { b with ph := !b.ph, val := false }

/-- Update (13 R284). -/
def BarWord.update (b : BarWord) (db da : Int) : BarWord :=
  let b := { b with pend := (((b.pend : Int) + db) % 2 ^ 36).toNat, arr := (((b.arr : Int) + da) % 2 ^ 12).toNat }
  if b.val && b.pend = 0 && b.arr = 0 then b.complete else b

/-- Update of an object. -/
def State.barUpdate (s : State) (b : Nat × Nat) (db da : Int) : State :=
  let w := s.barWords b
  s.setBar b (((BarWord.of w.1).update db da).word, w.2)

/-- Fault of an object (13 R284): word 1 keeps the first code. -/
def State.barFault (s : State) (b : Nat × Nat) (code : Nat) (seq : Word) : State :=
  let w := s.barWords b
  let x := BarWord.of w.1
  let first := !x.flt
  let x := { x with flt := true }
  s.setBar b ((if x.val then x.complete else x).word, if first then code * 2 ^ 32 + seq.toNat else w.2)

/-- The key of an object among the signatures its core holds. -/
def barKey (b : Nat × Nat) : Nat := b.2

/-- ORs a signature into the one held with an object (13 R285, 18 R384). -/
def State.barSign (s : State) (b : Nat × Nat) (m : BitVec 512) : State :=
  s.modCore b.1 fun c => { c with barSig := Table.put c.barSig (barKey b) (Table.at c.barSig (barKey b) 0 ||| m) }

/-- The status of an object (13 R285). -/
def barStatus (w : Nat) : Quad :=
  let b := BarWord.of w
  BitVec.ofNat 128 (b.ph.toNat + 2 * b.flt.toNat + 4 * b.val.toNat)

/-- The acquire of an observed phase change: the signature held with the object, and the local filter (13 R285). -/
def State.barAcquire (s : State) (core : Nat) (b : Nat × Nat) : State :=
  s.acquireL1 core (Table.at (s.core b.1).barSig (barKey b) 0)

/-- The object named by A[l0], or the class L fault of the lowest active lane (18 R383). -/
def State.barNamed (s : State) (k : Who) (f : ExtArgs) (act : List Nat) (write : Bool) :
    Except (BitVec 8 × DWord) (Nat × Nat) :=
  let off := offset24 (s.readOpd k.x (act.headD 0) f.lit .w32 .int f.a).toNat
  if off % 16 ≠ 0 then .error (0x04, BitVec.ofNat 64 off)
  else match s.scratchByte k.g k.wg off with
    | none => .error (0x05, BitVec.ofNat 64 off)
    | some b => if write && s.inS [b] then .error (0x12, BitVec.ofNat 64 off) else .ok b

/-- What the barrier instructions share: the object's faults, a lost segment, a segment in T. -/
def barEff (i : Instr) (f : ExtArgs) (write : Bool) (d : Opd) (k : Who) (act : List Nat) (s : State)
    (go : Nat × Nat → State → Eff) : Eff :=
  match s.barNamed k f act write with
  | .error e => .done (s.parkLanes k d .w32 i.form.length [(act.headD 0, e.1, e.2)])
  | .ok b =>
    if s.lostSeg [b] then
      .gone (s.segmentLost k (offset24 (s.readOpd k.x (act.headD 0) f.lit .w32 .int f.a).toNat))
    else if s.inT [b] then s.waitRefetch k [b]
    else go b s

/-- `BARI` (13 R284). -/
def execBari (f : ExtArgs) (s : State) : Host.Outcome State Fault Refusal :=
  .next (issue (.bari f) s fun k act s => barEff (.bari f) f true .none k act s fun b s =>
    let l := act.headD 0
    let bytes := (s.readOpd k.x l f.lit .w64 .int f.b).toNat
    let arr := (s.readOpd k.x l f.lit .w32 .int f.c).toNat
    let old := BarWord.of (s.barWords b).1
    let x : BarWord := { old with pend := bits bytes 0 36, arr := bits arr 0 12, flt := false, val := true }
    .done (s.setBar b ((x.update 0 0).word, 0)))

/-- `bytes`[35:0] read as a signed number. -/
def signed36 (n : Nat) : Int := if bit n 35 then (bits n 0 36 : Int) - 2 ^ 36 else (bits n 0 36 : Int)

/-- `BARA` (13 R284, 18 R384): a release at gang scope; its signature is held with the object. -/
def execBara (f : ExtArgs) (s : State) : Host.Outcome State Fault Refusal :=
  .next (issue (.bara f) s fun k act s =>
    match s.releaseWait k .gn 0 with
    | (false, s) => .wait s
    | (true, s) => barEff (.bara f) f true .none k act s fun b s =>
      let bytes := (s.readOpd k.x (act.headD 0) f.lit .w64 .int f.b).toNat
      let (m, s) := s.sigRelease k.wg.core (2 ^ 52 + (2 ^ 19 * b.1 + b.2) / 64)
      .done ((s.barSign b m).barUpdate b (signed36 bytes) (-1)))

/-- The phase operand of `BARW`. -/
def phaseOf (s : State) (k : Who) (f : ExtArgs) (act : List Nat) : Bool :=
  (s.readOpd k.x (act.headD 0) f.lit .w32 .int f.b).getLsbD 0

/-- A `BARW` that waits has lost its object: the segment that held it has been freed (18 R384). -/
def barGone (k : Who) (f : ExtArgs) (act : List Nat) (s : State) : Bool :=
  match k.x.blocked, s.barNamed k f act false with
  | some (.barw _ _ _), .error e => e.1 = 0x05
  | _, _ => false

/-- `BARW` (13 R285): waits, and the wait is a swap-out wait; it never returns once its object's segment has been freed (18 R384). -/
def execBarw (f : ExtArgs) (s : State) : Host.Outcome State Fault Refusal :=
  .next (issue (.barw f) s fun k act s => if barGone k f act s then .wait (s.notStalled k) else barEff (.barw f) f false f.d k act s fun b s =>
    let w := (s.barWords b).1
    if (BarWord.of w).ph == phaseOf s k f act then
      .wait ((s.notStalled k).modWave k.w fun x =>
        { x with blocked := some (.barw b.1 b.2 (BarWord.of w).ph) })
    else .done ((((s.barAcquire k.wg.core b).setLanes k.w act fun _ t => t.writeReg f.d .w32 (barStatus w))).modWave k.w
      fun x => { x with barSeen := Table.put x.barSeen (2 ^ 19 * b.1 + b.2) (BarWord.of w).ph.toNat }))

/-- `BART` (13 R285). It has no phase operand: the PH that the wave last read of the object tells a changed one
(log 15: DEDUCED). -/
def execBart (f : ExtArgs) (s : State) : Host.Outcome State Fault Refusal :=
  .next (issue (.bart f) s fun k act s => barEff (.bart f) f false f.d k act s fun b s =>
    let w := (s.barWords b).1
    let key := 2 ^ 19 * b.1 + b.2
    let ph := (BarWord.of w).ph.toNat
    let s := if (Table.look k.x.barSeen key).getD 0 = ph then s else s.barAcquire k.wg.core b
    .done ((s.setLanes k.w act fun _ t => t.writeReg f.d .w32 (barStatus w)).modWave k.w fun x =>
      { x with barSeen := Table.put x.barSeen key ph }))

/-! ### LEMP and LWT (13 R287, 20 R439) -/

/-- The first byte of each line that a range touches, as offsets; none where the range is longer than any window. -/
def rangeOffsets (o n : Nat) : Option (List Nat) :=
  if n = 0 then some []
  else if 0x200000 < n then none
  else some ((List.range ((o + n - 1) / 128 - o / 128 + 1)).map fun i => max o (128 * (o / 128 + i)))

/-- Bytes, by one in each touched line, of a lane's range; none is SCRATCH_RANGE. -/
def State.rangeBytes (s : State) (g : Gang) (x : Workgroup) (o n : Nat) : Option (List (Nat × Nat)) :=
  match rangeOffsets o n with
  | none => none
  | some os => (os.map fun a => s.scratchByte g x a).foldr (fun a r => match a, r with
      | some b, some t => some (b :: t)
      | _, _ => none) (some [])

/-- The lanes of `LEMP` or `LWT`; `bound` refuses a segment that is not in I. -/
def State.rangeLanes (s : State) (k : Who) (f : ExtArgs) (act : List Nat) (bound : Bool) : List ScLane :=
  act.map fun l =>
    let o := offset24 (s.readOpd k.x l f.lit .w32 .int f.a).toNat
    let n := (s.readOpd k.x l f.lit .w32 .int f.b).toNat
    match s.rangeBytes k.g k.wg o n with
    | none => { lane := l, off := o, bytes := [], bad := some 0x05 }
    | some bs =>
      if bound && (segsOf bs).any (fun e => (s.seg e.1 e.2).st ≠ .i) then
        { lane := l, off := o, bytes := [], bad := some 0x12 }
      else { lane := l, off := o, bytes := bs, bad := none }

/-- `LEMP`. -/
def execLemp (f : ExtArgs) (s : State) : Host.Outcome State Fault Refusal :=
  .next (issue (.lemp f) s fun k act s =>
    let ls := s.rangeLanes k f act true
    let s := (scratchLines (ls.flatMap fun e => e.bytes)).foldl (fun s l =>
      s.modCore l.1 fun c => { c with lines := c.lines &&& ~~~((1#4096) <<< l.2) }) s
    .done (s.parkSc k .none .w32 (Instr.length (.lemp f)) ls))

/-- `LWT`: its return is an acquire at workgroup scope, which drops no line (09 R190). -/
def execLwt (f : ExtArgs) (s : State) : Host.Outcome State Fault Refusal :=
  .next (issue (.lwt f) s fun k act s =>
    let ls := s.rangeLanes k f act false
    scHold k (ls.filter fun e => e.bad.isNone) s fun s =>
      if (scratchLines (ls.flatMap fun e => e.bytes)).all s.lineFull then
        .done (s.parkSc k .none .w32 (Instr.length (.lwt f)) ls)
      else .wait (s.notStalled k))

end Sys2Proof.Machine
end

