-- ==== Sys2Proof/Machine/Control.lean ====
section
/-! DEFINITION. Branches, calls, `JOIN`, `EXIT`, predicate blocks, `YIELD`, `SLEEP`, `TRAP` and `BRK` (18 R387, R388,
R390; 19 R393, R407; 21 R451, R455, R466; 22 R488, R497, R505; 02 R34 to R36). -/

namespace Sys2Proof.Machine

/-- The issue PC of a wave. -/
def Who.pc (k : Who) : DWord := k.x.issuePc.getD 0

/-- The lowest active lane. -/
def lane0 (act : List Nat) : Nat := act.headD 0

/-- `NOP` (21 R451). -/
def execNop (s : State) : Host.Outcome State Fault Refusal := .next (issue .nop s fun _ _ s => .done s)

/-! ### Branches -/

/-- PC plus a signed word offset. -/
def relTarget {n : Nat} (pc : DWord) (off : BitVec n) : DWord := pc + off.signExtend 64 * 4

/-- `BR` with an offset (18 R388). -/
def execBr (off : BitVec 20) (s : State) : Host.Outcome State Fault Refusal :=
  .next (issue (.br off) s fun k _ s => .branch s fun _ => relTarget k.pc off)

/-- `BR` with a literal target (18 R388). -/
def execBrLit (target : DWord) (s : State) : Host.Outcome State Fault Refusal :=
  .next (issue (.brLit target) s fun _ _ s => .branch s fun _ => target)

/-- Lanes whose predicate differs from SENSE branch; the others go on (18 R388). -/
def brpTarget (k : Who) (p : BitVec 3) (sense : Bool) (target next : DWord) (l : Nat) : DWord :=
  if xor ((k.x.thread l).p.getLsbD p.toNat) sense then target else next

/-- `BRP` with an offset. -/
def execBrp (p : BitVec 3) (sense : Bool) (off : BitVec 16) (s : State) : Host.Outcome State Fault Refusal :=
  .next (issue (.brp p sense off) s fun k _ s =>
    .branch s (brpTarget k p sense (relTarget k.pc off) (k.pc + 4)))

/-- `BRP` with a literal target. -/
def execBrpLit (p : BitVec 3) (sense : Bool) (target : DWord) (s : State) : Host.Outcome State Fault Refusal :=
  .next (issue (.brpLit p sense target) s fun k _ s => .branch s (brpTarget k p sense target (k.pc + 12)))

/-- The target in a register pair, its low two bits cleared (18 R388). -/
def pairTarget (s : State) (k : Who) (f : BaseArgs) (l : Nat) : DWord :=
  ((s.readOpd k.x l f.lit .w64 .int f.a).setWidth 64) &&& ~~~(3#64)

/-- `BRX` (18 R388). -/
def execBrx (f : BaseArgs) (s : State) : Host.Outcome State Fault Refusal :=
  .next (issue (.brx f) s fun k _ s => .branch s (pairTarget s k f))

/-- The return address in `k6.d` (19 R393). -/
def setReturn (s : State) (k : Who) (act : List Nat) (len : Nat) : State :=
  s.setLanes k.w act fun _ t => t.writeReg (.k 6) .w64 ((k.pc + BitVec.ofNat 64 len).setWidth 128)

/-- `CALL` with an offset (19 R393). -/
def execCall (off : BitVec 20) (s : State) : Host.Outcome State Fault Refusal :=
  .next (issue (.call off) s fun k act s => .branch (setReturn s k act 4) fun _ => relTarget k.pc off)

/-- `CALL` with a literal target (19 R393). -/
def execCallLit (target : DWord) (s : State) : Host.Outcome State Fault Refusal :=
  .next (issue (.callLit target) s fun k act s => .branch (setReturn s k act 12) fun _ => target)

/-- `RET` (21 R466). -/
def execRet (f : BaseArgs) (s : State) : Host.Outcome State Fault Refusal :=
  .next (issue (.ret f) s fun k _ s => .branch s (pairTarget s k f))

/-! ### JOIN (02 R35) -/

/-- `JOIN` in one thread: the old meeting address to D, the new one set. -/
def Thread.join (t : Thread) (d : Opd) (target : Option DWord) : Thread :=
  { t.writeReg d .w64 (t.meet.setWidth 128) with meet := target.getD t.meet }

/-- `JOIN` for the active lanes; with `.rgn` the region commits at the following instruction, with the guard state the
thread then has (02 R38, 05 R115). -/
def joinEff (d : Opd) (target : Option DWord) (rgn : Bool) (len : Nat) (k : Who) (act : List Nat) (s : State) : Eff :=
  let s := s.setLanes k.w act fun _ t => t.join d target
  if rgn then
    .done ((s.releaseHeld k.w).setLanes k.w act fun _ t =>
      { t with restart := { pc := k.pc + BitVec.ofNat 64 len, meet := t.meet, guard := t.guard.consume } })
  else .done s

/-- `JOIN` with an offset. -/
def execJoin (d : Opd) (off : BitVec 14) (s : State) : Host.Outcome State Fault Refusal :=
  .next (issue (.join d off) s fun k act s => joinEff d (some (relTarget k.pc off)) false 4 k act s)

/-- `JOIN` with a literal target. -/
def execJoinLit (d : Opd) (target : DWord) (s : State) : Host.Outcome State Fault Refusal :=
  .next (issue (.joinLit d target) s fun k act s => joinEff d (some target) false 12 k act s)

/-- The meeting address an extended `JOIN` sets, none with `.keep`. -/
def joinTarget (pc : DWord) : JoinTarget → Option DWord
  | .keep => none
  | .off x => some (relTarget pc x)
  | .lit x => some x

/-- The extended `JOIN`. -/
def execJoinExt (d : Opd) (rgn : Bool) (target : JoinTarget) (s : State) : Host.Outcome State Fault Refusal :=
  .next (issue (.joinExt d rgn target) s fun k act s =>
    joinEff d (joinTarget k.pc target) rgn (Instr.length (.joinExt d rgn target)) k act s)

/-! ### EXIT, PBLK, YIELD, SLEEP -/

/-- `EXIT` (19 R407): the active lanes exit, unless no live thread would be left but Parked ones, where the wave traps
(02 R33). -/
def execExit (s : State) : Host.Outcome State Fault Refusal :=
  .next (issue .exit s fun k act s =>
    let left := (k.x.mapLanes act fun _ t => { t with st := .exited }).threads.filter Thread.live
    if left ≠ [] && left.all Thread.parked then .gone (s.laneTrap k.w)
    else .done (s.setLanes k.w act fun _ t => { t with st := .exited, lane := none, aside := none }))

/-- `PBLK` (05 R113). Its lanes have no guard state, which BLOCK_ILLEGAL sees to. -/
def execPblk (inv : Bool) (pred cnt : BitVec 3) (pat : BitVec 8) (s : State) : Host.Outcome State Fault Refusal :=
  .next (issue (.pblk inv pred cnt pat) s fun k act s =>
    .done (s.setLanes k.w act fun _ t =>
      { t with guard := { pat, left := cnt.toNat + 1, val := xor (t.p.getLsbD pred.toNat) inv } }))

/-- `YIELD` (22 R505): the next group is chosen by 02 R31. -/
def execYield (s : State) : Host.Outcome State Fault Refusal :=
  .next (issue .yield s fun _ _ s =>
    .choose s fun group x => x.yieldNext (group.filter fun l => (x.thread l).issuing))

/-- `SLEEP` (22 R488): n clocks, of the lowest active lane, at most 2^24. -/
def sleepEff (i : Instr) (n : State → Who → Nat → Nat) (s : State) : State :=
  issue i s fun k act s =>
    let c := min (n s k (lane0 act)) (2 ^ 24)
    .done (s.modWave k.w fun x => { x with sleep := c })

/-- `SLEEP`, base form. -/
def execSleep (f : BaseArgs) (s : State) : Host.Outcome State Fault Refusal :=
  .next (sleepEff (.sleep f) (fun s k l => (s.readOpd k.x l f.lit .w32 .int f.a).toNat) s)

/-- `SLEEP`, extended form. -/
def execSleepExt (f : ExtArgs) (s : State) : Host.Outcome State Fault Refusal :=
  .next (sleepEff (.sleepExt f) (fun s k l => (s.readOpd k.x l f.lit .w32 .int f.a).toNat) s)

/-- SLEEP_END (22 R488): the last clock of a sleep has passed and the wave is ready again. -/
def execSleepEnd (wave : Nat) (s : State) : Host.Outcome State Fault Refusal :=
  .next (match s.wave? wave with
    | none => s
    | some x => if x.sleep = 1 && !x.halted then s.setWave wave { x with sleep := 0 } else s)

/-! ### TRAP and BRK -/

/-- A trap that an issued instruction raises: the issue counts, the handler resumes at the next instruction
(15 Table 15.1). -/
def codeTrap (cause : BitVec 8) (code : BitVec 18) (k : Who) (act : List Nat) (s : State) : State :=
  let s := if k.wg.handler.isSome && k.x.handler.isNone then s
    else (s.countIssue k.wg.core k.x k.x.group act k.pc).modWave k.w Wave.counted
  s.takeTrap k.w { TrapInfo.plain cause k.pc (code.setWidth 64) with skip := some (k.pc + 4) }

/-- `TRAP` (22 R497). -/
def execTrap (code : BitVec 18) (s : State) : Host.Outcome State Fault Refusal :=
  .next (issue (.trap code) s fun k act s => .gone (codeTrap 0x0C code k act s))

/-- `BRK` (18 R390). -/
def execBrk (code : BitVec 18) (s : State) : Host.Outcome State Fault Refusal :=
  .next (issue (.brk code) s fun k act s => .gone (codeTrap 0x0D code k act s))

end Sys2Proof.Machine
end

