-- ==== Sys2Proof/Machine/Decide.lean ====
section
/-! DEFINITION. Logged decisions: taken, recorded, stalled by a full log, halted by a divergence (16 R337 to R341). -/

namespace Sys2Proof.Machine

/-- STATE of a region (02 R43, 03 R71). -/
def State.regionState (s : State) (chip rcb : Nat) : Nat := s.recField chip rcb 0x88 0 3

/-- Writes STATE of a region, which every member sees in one order; none while a strong store cannot be performed. -/
def State.setRegionState (s : State) (chip rcb v : Nat) : Option State :=
  if s.regionState chip rcb = v then some s else s.strongStore chip .n64 (rcb + 0x88) v

/-- Adds a chip's bytes to LOGP (16 R337). -/
def State.raiseLogp (s : State) (chip rcb : Nat) : Option State :=
  let p := s.logPos chip rcb
  if p.unposted = 0 then some s
  else (s.strongAdd chip .n32 (s.logKey chip rcb + 0x84) (16 * p.unposted)).map fun e =>
    e.2.setLogPos chip rcb { p with unposted := 0 }

/-- STATE becomes paused at every member's replica at once, where no strong store can go because the packet that the log stalls is
held (16 R339; log 28: DEDUCED); LOGP follows when it can. -/
def State.pauseNow (s : State) (chip rcb : Nat) : State :=
  (s.repl chip).members.foldl (fun s m => s.modRepl m fun r =>
    { r with replica := Memory.writeLe r.replica (rcb + 0x88) 1 2 }) s

/-- A region pauses: LOGP raised, STATE paused, the housekeeping log told once. -/
def State.pauseRegion (s : State) (chip rcb what : Nat) (args : List Nat) : State :=
  if s.regionState chip rcb = 2 then s
  else match (s.raiseLogp chip rcb).bind fun s => s.setRegionState chip rcb 2 with
    | none => (s.pauseNow chip rcb).note chip what (rcb :: args)
    | some s => s.note chip what (rcb :: args)

/-- A divergence (16 R341): the region halts, and REPLAY_DIVERGE names the offset, the entry expected and the decision
that arose, with `name` the two-level name of the wave concerned (16 R347). -/
def State.diverges (s : State) (chip rcb n : Nat) (expected : Option LogEntry) (e : LogEntry) (name : List Nat) : State :=
  let p := s.logPos chip rcb
  let nums (x : LogEntry) : List Nat := [x.kind, x.src, x.wgw, x.pos, x.prog, x.arg]
  let s := (s.setLogPos chip rcb { p with halted := true }).note chip 0x341
    ([rcb, logOffset chip n] ++ ((expected.map nums).getD []) ++ nums e ++ name)
  (s.setRegionState chip rcb 2).getD s

/-- After a decision: LOGP every 256 entries. -/
def State.afterLog (s : State) (chip rcb : Nat) : State :=
  if 256 ≤ (s.logPos chip rcb).unposted then (s.raiseLogp chip rcb).getD s else s

/-- A decision of a region: `true` when it is taken now, recorded or compared; else it waits, as every decision of a region that is
paused does, on whichever chip (03 R71). -/
def State.logDecide (s : State) (chip rcb : Nat) (mode : BitVec 19) (e : LogEntry) (name : List Nat) : Bool × State :=
  if !(recording mode || replaying mode) then (true, s)
  else if s.regionState chip rcb = 2 then (false, s)
  else
    let own := recording mode || (s.followed chip).map (s.logKey chip) = some (s.logKey chip rcb)
    match s.logSays chip rcb mode own e with
    | .take => (true, (s.logTake chip rcb mode own e).afterLog chip rcb)
    | .wait => (false, s)
    | .full => (false, s.pauseRegion chip rcb 0x339 [])
    | .diverge n x => (false, s.diverges chip rcb n x e name)

/-- `%wave` and `%wg` of a wave in an entry (16 Table 16.4). -/
def Who.wgw (k : Who) : Nat := k.x.idx + 32 * k.wg.idx

/-- Curve position, or `%gang` outside ordered mode (16 Table 16.4). -/
def Gang.logPos (g : Gang) : Nat := if g.ordered then g.pos else g.idx

/-- The two-level name of a wave at an instruction of it, with the SEQ of its launch (16 R347). -/
def Who.name (k : Who) (pc : DWord) (num : Word) : List Nat := [pc.toNat, num.toNat, k.g.seq.toNat]

/-- A decision of a wave, of kind 2, 3 or 4, under a two-level name. -/
def State.decideNamed (s : State) (k : Who) (kind arg : Nat) (prog : Word) (name : List Nat) : Bool × State :=
  s.logDecide k.chip k.g.rcb k.g.mode
    { kind, src := clusterOfCore k.wg.core % 4, wgw := k.wgw, pos := k.g.logPos, prog := prog.toNat, arg } name

/-- A decision of a wave at the instruction that it issues. -/
def State.decideWave (s : State) (k : Who) (kind arg : Nat) : Bool × State :=
  s.decideNamed k kind arg k.x.progress (k.name (k.x.issuePc.getD 0) k.x.seqno)

/-- A decision of Campion about a gang: kind 1, 6 or 7. -/
def State.decideGang (s : State) (chip rcb : Nat) (mode : BitVec 19) (pos seq kind arg : Nat) : Bool × State :=
  s.logDecide chip rcb mode { kind, src := 4, wgw := 0, pos, prog := seq, arg } [0, seq]

end Sys2Proof.Machine
end

