-- ==== Sys2Proof/Machine/Strong.lean ====
section
/-! DEFINITION. Strong instructions and fences: `SATOM`, `SST`, `SLD`, `FENCE`, `WFENCE`, `RFENCE` (22 R478, R479, R502;
10 R215, R216, R220; 09 R197). -/

namespace Sys2Proof.Machine

/-- A strong instruction of `n` lanes may send its requests (10 R215, R216): the wave has none outstanding, its earlier
replicated entries have been accepted, no view change holds requests up (R226), and its chip stays within 512 outstanding
requests. -/
def State.strongReady (s : State) (k : Who) (n : Nat) : Bool :=
  k.x.strong.isNone && !(k.x.loads.any fun e => e.2.unread.any ByteSrc.isRepl) && (s.repl k.chip).vst = .normal && !((s.core k.wg.core).wq.any fun e => e.2.wave = k.w && e.2.repl) &&
  decide ((s.repl k.chip).outstanding.length + n ≤ 512)

/-- Sends one request for each lane, in order, as the wave's one strong instruction; `n` is the bytes of a result, `vpns` the pages
that were translated for it. -/
def State.sendLanes (s : State) (k : Who) (load : Option Nat) (n : Nat) (vpns : List Nat) (rs : List (Nat × Req)) : State :=
  let r := s.repl k.chip
  let ids := (List.range rs.length).map fun i => (r.rqcnt + i) % 2 ^ 32
  let g : Strong := { reqs := ids, load, started := (s.core k.wg.core).clk, epoch := s.epoch, vpns }
  let s := s.modWave k.w fun x => { x with strong := some g }
  let s := rs.foldl (fun s e =>
    s.sendReq k.chip e.2 (.lane k.w (load.getD 0) e.1 n)) s
  s.count k.wg.core 135 rs.length

/-- A request of a wave's lane; its rank, count and vector are given as it is sent. -/
def mkReq (opc : Nat) (ty : Ty) (ord sc off : Nat) (opa opb : Quad) (sig : Option (BitVec 512)) (tag : Option (List Nat)) : Req :=
  { rank := 0, rq := 0, vec := [], opc, ty, ord, sc, off, opa, opb, sig, tag }

/-- The signatures of the blocks that a strong release writes, each once (09 R191), with the release fence's. -/
def strongSigs (k : Who) (rel : Bool) : List Nat → State → Table (Option (BitVec 512)) × State
  | [], s => ([], s)
  | b :: r, s =>
    let (m, s) := if rel then
        let (m, s) := s.sigRelease k.wg.core (2 ^ 50 + b)
        (some m, s)
      else (none, s)
    let (t, s) := strongSigs k rel r s
    (Table.put t b (orSig m k.x.relSig), s)

/-- The three strong instructions (22 R479): `opc` the operation, `n` the bytes, `w` the width of D, `a` the access whose
checks apply. -/
def strongEff (i : Instr) (f : ExtArgs) (opc n : Nat) (w : Width) (a : Access) (order : Bool) (k : Who) (act : List Nat)
    (s : State) : Eff :=
  let len := i.form.length
  let rel := f.xb.getLsbD 1
  match (if rel then s.releaseWait k f.sc (s.firstVa k f act) else (true, s)) with
  | (false, s) => .wait s
  | (true, s) =>
    if !s.strongReady k act.length then .wait (s.notStalled k)
    else match spans k.xctx a true false 1 (act.map fun l => (l, s.laneEa k f l)) s with
      | (.stop (.page va), s) => .gone (s.pageFault k (if opc = 9 then 0 else 2) (k.x.issuePc.getD 0) va)
      | (.stop _, s) => .wait (s.notStalled k)
      | (.all ls, s) =>
        let ls := ls.map fun e => match e.2.2 with
          | .parts _ => if e.2.1.toNat % n ≠ 0 then (e.1, e.2.1, Span.park 0x04) else e
          | _ => e
        let good := goodSpans ls
        match (if order then s.orderFault k good else none) with
        | some va => .gone (s.orderTrap k va)
        | none =>
          let s := s.parkLanes k f.d w len (parksOf ls)
          if good = [] then .done s
          else
            let offs := good.map fun e => (e.1, (e.2.2.map fun p => p.pa).headD 0)
            let (sigs, s) := strongSigs k rel (offs.map fun e => e.2 / 64).eraseDups s
            let tag := match (if rel then s.scopeTag k f.sc else none) with
              | some t => some t
              | none => k.x.relTag
            let rs := offs.map fun e =>
              (e.1, mkReq opc f.ty f.xb.toNat f.sc.code.toNat e.2
                (if opc = 9 then 0 else s.readOpd k.x e.1 f.lit w .int f.b)
                (if opc = 7 then s.readOpd k.x e.1 f.lit w .int f.c else 0)
                (if opc = 9 then none else (Table.look sigs (e.2 / 64)).bind id) tag)
            if opc = 8 then .done (s.sendLanes k none n (good.map fun e => vpnOf e.2.1) rs)
            else
              let lanes := good.map fun e => ({ lane := e.1, src := [], va := e.2.1 } : LoadLane)
              let (s, id) := s.defer k .strong f.d w lanes (k.x.issuePc.getD 0) f.acquire
              let s := s.modWave k.w fun x => { x with loads := Table.modify x.loads id fun l =>
                { l with fmt := { width := regsOf w, bytes := n, signed := false } } }
              .done (s.sendLanes k (some id) n (good.map fun e => vpnOf e.2.1) rs)

/-- `SATOM` (22 R479). -/
def execSatom (f : ExtArgs) (s : State) : Host.Outcome State Fault Refusal :=
  .next (issue (.satom f) s
    (strongEff (.satom f) f f.md.toNat (atomBytes f.md.toNat f.ty) (atomRegs f.md.toNat f.ty) .atomic true))

/-- `SST` (22 R479). -/
def execSst (f : ExtArgs) (s : State) : Host.Outcome State Fault Refusal :=
  .next (issue (.sst f) s (strongEff (.sst f) f 8 (f.ty.bits / 8) f.ty.width .atomic false))

/-- `SLD` (22 R479). -/
def execSld (f : ExtArgs) (s : State) : Host.Outcome State Fault Refusal :=
  .next (issue (.sld f) s (strongEff (.sld f) f 9 (f.ty.bits / 8) f.ty.width .read false))

/-! ### Fences (09 R197) -/

/-- The OR of the eight entries of a core's signature table. -/
def Core.allSigs (c : Core) : BitVec 512 := c.sigTab.foldl (fun m e => m ||| e.set) 0

/-- The release part of a fence, its waits over: signature and tag for every later store and atomic of the wave. -/
def State.fenceRelease (s : State) (k : Who) (sc : Scope) : State :=
  let m := (s.core k.wg.core).allSigs
  let tag := s.scopeTag k sc
  s.modWave k.w fun x => { x with relSig := if 3 ≤ sc.code.toNat then some m else none, relTag := tag }

/-- Earlier loads or atomics of the wave whose reads have not been performed. -/
def Wave.reading (x : Wave) : Bool := x.loads.any fun e => e.2.kind ≠ .value

/-- The acquire part of a fence: at gang scope or wider L1 lines go by the records that reads since the last acquire fence returned; at
every scope the scope checker compares their tags (16 R349). -/
def State.fenceAcquire (s : State) (k : Who) (sc : Scope) : State :=
  match s.wave? k.w with
    | none => s
    | some x =>
      let s := if sc.code.toNat < 3 then s else (s.acquireL1 k.wg.core x.acqSig).modWave k.w fun x => { x with acqSig := 0 }
      let s := s.modWave k.w fun x => { x with acqTags := [] }
      if (s.chip k.chip).dbg.schk then
        match x.acqTags.find? fun t => !tagHolds sc.code.toNat t.1 (s.tagOf k.w) with
        | none => s
        | some t => s.raiseA k.w k.chip
            { cause := 0x1B, pc := k.x.issuePc, addr := t.2, lseq := none, dest := 0x180 }
      else s

/-- `FENCE`: at thread scope no effect; a release waits as 09 Table 9.3 gives, an acquire for the wave's reads. The acquire comes
first, so that the release sends on what it receives (09 R191, R197). -/
def fenceEff (f : ExtArgs) (acq rel : Bool) (k : Who) (_ : List Nat) (s : State) : Eff :=
  if f.sc = .th then .done s
  else match (if rel then s.releaseWait k f.sc 0 else (true, s)) with
    | (false, s) => .wait s
    | (true, s) =>
      if acq && k.x.reading then .wait (s.notStalled k)
      else
        let s := if acq then s.fenceAcquire k f.sc else s
        .done (if rel then s.fenceRelease k f.sc else s)

/-- `FENCE.acq`. -/
def execFenceAcq (f : ExtArgs) (s : State) : Host.Outcome State Fault Refusal :=
  .next (issue (.fenceAcq f) s (fenceEff f true false))

/-- `FENCE.rel`. -/
def execFenceRel (f : ExtArgs) (s : State) : Host.Outcome State Fault Refusal :=
  .next (issue (.fenceRel f) s (fenceEff f false true))

/-- `FENCE.ar`. -/
def execFenceAr (f : ExtArgs) (s : State) : Host.Outcome State Fault Refusal :=
  .next (issue (.fenceAr f) s (fenceEff f true true))

/-- `WFENCE` (22 R502). -/
def execWfence (f : ExtArgs) (s : State) : Host.Outcome State Fault Refusal :=
  .next (issue (.wfence f) s fun k _ s => if s.quiet k then .done s else .wait (s.stalled k 0))

/-- `RFENCE` (10 R220): the wave's replicated entries accepted, then every member has applied the chip's updates. -/
def execRfence (f : ExtArgs) (s : State) : Host.Outcome State Fault Refusal :=
  .next (issue (.rfence f) s fun k _ s =>
    if (s.core k.wg.core).wq.any fun e => e.2.wave = k.w && e.2.repl then .wait (s.notStalled k)
    else match s.memberWait k with
      | (true, s) => .done s
      | (false, s) => .wait (s.notStalled k))

end Sys2Proof.Machine
end

