-- ==== Sys2Proof/Machine/Monitor.lean ====
section
/-! DEFINITION. Monitors and launches: `MONA`, `MWAIT`, the wake and the timeout, `LAUNCH` (21 R445 to R448, 15 R318,
20 R431 to R433, 03 R54). -/

namespace Sys2Proof.Machine

/-! ### MONA (21 R446) -/

/-- The number of the line of a part: a physical line, or a replicated line from 2^50. -/
def Part.line (p : Part) : Nat := if p.repl then 2 ^ 50 + p.pa / 128 else p.pa / 128

/-- Registers a wave's line at its watcher; a registration dropped for it is fired. -/
def State.register (s : State) (chip w line : Nat) : State :=
  let r : Reg := { line, wave := w }
  let fire (s : State) (o : Option Reg) : State := match o with
    | none => s
    | some o => s.fireWave o.wave o.line
  if 2 ^ 50 ≤ line then
    let q := addReg (s.repl chip).regs r
    fire (s.modRepl chip fun x => { x with regs := q.1 }) q.2
  else if isHostAddr (line * 128) then
    let d := s.hostCache chip
    let q := addReg (s.chip d).hostRegs r
    fire (s.modChip d fun x => { x with hostRegs := q.1 }) q.2
  else
    let k := stackOf (line * 128)
    let q := addReg (s.cluster k).regs r
    fire (s.modCluster k fun x => { x with regs := q.1 }) q.2

/-- The line leaves the core's L1 (08 R171, by replacement; log 7: DESIGN CHOICE), so that a loop of `MONA`, a relaxed load and
`MWAIT` reads the home after each wake (25 R517). -/
def State.dropLine (s : State) (core line : Nat) : State :=
  s.modCore core fun c => { c with l1 := c.l1.filter fun l => l.pline ≠ line }

/-- One lane of `MONA`, its translation done. -/
def State.monaLane (s : State) (k : Who) (len : Nat) (l : Nat) (ea : DWord) (p : Part) : State :=
  match s.wave? k.w with
  | none => s
  | some x =>
    if x.monitor.any fun m => m.1 = p.line then s
    else if 4 ≤ x.monitor.length then s.parkLanes k .none .w32 len [(l, 0x12, ea)]
    else ((s.setWave k.w { x with monitor := x.monitor ++ [(p.line, ea)] }).dropLine k.wg.core p.line).register k.chip k.w
      p.line

/-- The lanes of `MONA` in ascending order. -/
def monaLanes (k : Who) (len : Nat) : List (Nat × DWord × Span) → State → State
  | [], s => s
  | (l, ea, .parts (p :: _)) :: r, s => monaLanes k len r (s.monaLane k len l ea p)
  | (l, ea, .park c) :: r, s => monaLanes k len r (s.parkLanes k .none .w32 len [(l, c, ea)])
  | _ :: r, s => monaLanes k len r s

/-- `MONA`. -/
def execMona (f : ExtArgs) (s : State) : Host.Outcome State Fault Refusal :=
  .next (issue (.mona f) s fun k act s =>
    match spans k.xctx .read false false 1 (act.map fun l => (l, s.laneEa k f l)) s with
    | (.stop (.page va), s) => .gone (s.pageFault k 0 (k.x.issuePc.getD 0) va)
    | (.stop _, s) => .wait s
    | (.all ls, s) => .done (monaLanes k (Instr.length (.mona f)) ls s))

/-! ### MWAIT (21 R448) -/

/-- The set cleared, its registrations cancelled, the fired flag 0. -/
def State.endMonitor (s : State) (w : Nat) : State :=
  (s.cancelRegs w).modWave w fun x => { x with monitor := [], fired := false }

/-- `MWAIT`: status 0 without a set, 1 when it has fired, else the lanes wait. -/
def mwaitEff (f : ExtArgs) (k : Who) (act : List Nat) (s : State) : Eff :=
  let status (s : State) (n : Quad) : State := s.setLanes k.w act fun _ t => t.writeReg f.d .w32 n
  if k.x.monitor = [] then .done (status s 0)
  else if k.x.fired then .done ((status s 1).endMonitor k.w)
  else
    let n := (s.readOpd k.x (lane0 act) f.lit .w32 .int f.a).toNat
    .done (s.setLanes k.w act fun _ t =>
      { t with st := .waiting, wait := some (.mwait f.d (if n = 0 then 0 else n + 1) (Instr.length (.mwait f))) })

/-- `MWAIT`. -/
def execMwait (f : ExtArgs) (s : State) : Host.Outcome State Fault Refusal := .next (issue (.mwait f) s (mwaitEff f))

/-- The destination of a thread's `MWAIT` if it waits there now and its clocks satisfy `p`. -/
def Thread.inMwait (t : Thread) (p : Nat → Bool) : Option Opd :=
  match t.wait with
  | some (.mwait d left _) => if decide (t.st = ThreadSt.waiting) && p left then some d else none
  | _ => none

/-- A thread leaves its `MWAIT` with a status. -/
def Thread.leaveMwait (t : Thread) (p : Nat → Bool) (status : Quad) : Thread :=
  match t.inMwait p, t.wait with
  | some d, some i => (t.wake i).writeReg d .w32 status
  | _, _ => t

/-- The threads of a wave leave their `MWAIT`s, which ends the monitor; an idle wave chooses its group again; a swap-out already decided
finds that the wave has what it waited for (03 R67). -/
def State.leaveMwaits (s : State) (w : Nat) (p : Nat → Bool) (status : Quad) : State :=
  (s.modWave w fun x => { (x.mapThreads fun _ t => t.leaveMwait p status).rechoose with woken := true }).endMonitor w

/-- A wave whose context is saved: what wakes it counts once it has been restored (15 R326). -/
def Wave.away (x : Wave) : Bool := x.save = .stays || x.save = .out || x.save = .back

/-- MWAIT_WAKE (21 R448): the fired flag wakes every thread that waits in `MWAIT`, once the decision may be taken
(16 R338). -/
def execMwaitWake (wave : Nat) (s : State) : Host.Outcome State Fault Refusal :=
  .next (match s.whoOf wave with
    | none => s
    | some k =>
      if !k.x.fired || k.x.away || !(k.x.threads.any fun t => (t.inMwait fun _ => true).isSome) then s
      else match s.decideWave k 2 (bits k.x.firedVa.toNat 7 32) with
        | (false, s) => s.postOnce (.mwaitWake wave)
        | (true, s) => s.leaveMwaits wave (fun _ => true) 1)

/-- MONITOR_TIMEOUT for the groups whose expired `MWAIT` has the zero code for its destination (15 R318, 21 R448). -/
def State.monitorTimeouts (s : State) (w : Nat) (x : Wave) (va : DWord) : State :=
  ((x.threads.filter fun t => t.inMwait (fun n => n = 1) = some Opd.zero).map fun t => t.pc).eraseDups.foldl
    (fun s pc => s.raiseA w (chipOfCore (s.coreOf w)) { cause := 0x0F, pc := some pc, addr := va, lseq := none, dest := 0x180 }) s

/-- MONITOR_TIMEOUT_EXPIRY (15 R318): the threads whose last clock has passed leave with status 2, or the trap is
raised. -/
def execMonitorTimeoutExpiry (wave : Nat) (s : State) : Host.Outcome State Fault Refusal :=
  .next (match s.whoOf wave with
    | none => s
    | some k =>
      if k.x.away || !(k.x.threads.any fun t => (t.inMwait fun n => n = 1).isSome) then s
      else match s.decideWave k 3 0 with
        | (false, s) => s.postOnce (.monitorTimeoutExpiry wave)
        | (true, s) =>
          let va := (k.x.monitor.head?.map fun m => m.2).getD 0
          (s.leaveMwaits wave (fun n => n = 1) 2).monitorTimeouts wave k.x va)

/-! ### LAUNCH (20 R432) -/

/-- A store of 8 bytes in host memory by the host-line cache of a line (11 R249). -/
def State.hostStore (s : State) (chip a x : Nat) : State :=
  (s.hostOwn chip (a / 64)).homeStore none none ((bytesOfNat 8 x).zipIdx.map fun b => (a + b.2, b.1))

/-- The two steps of 03 R54 for record `n` in the list of `rc`: none while a strong operation cannot be performed. -/
def State.link (s : State) (chip rc n : Nat) : Option (Nat × State) :=
  let s := s.flush
  let x := s.recBytes chip (rc + 0x20) 8
  match s.strongCas chip (rc + 0x20) x n with
  | none => none
  | some (_, s) =>
    some (x,
      if x = 0 then (s.strongApply chip 8 .n64 (rc + 0x18) (BitVec.ofNat 128 n) 0).2
      else if isHostAddr x then s.hostStore chip x n
      else (s.strongApply chip 8 .n64 x (BitVec.ofNat 128 n) 0).2)

/-- The signatures of a `LAUNCH`, a release at package scope (09 Table 9.4), reach the records of the words it writes: each block's
from the core's table once (09 R191, R192). -/
def State.signLink (s : State) (k : Who) (as : List Nat) : State :=
  let tag := s.scopeTag k .pk
  (as.map fun a => a / 64).eraseDups.foldl (fun s b =>
    let host := isHostAddr (b * 64)
    let (m, s) := s.sigRelease k.wg.core (if host then b else 2 ^ 50 + b)
    if host then s.homeSig (b * 64) m tag
    else (List.range 8).foldl (fun s c =>
      if s.inView k.chip c then
        s.replSig c ((as.filter fun a => a / 64 = b).map fun a => a / 32).eraseDups (orSig (some m) k.x.relSig) tag
      else s) s) s

/-- The checks of `LAUNCH` on the forms of rcb and record: the cause of a park and whether its address is A's. -/
def launchForm (rc rp : Part) : Option (BitVec 8 × Bool) :=
  if rc.pa % 256 ≠ 0 then some (0x04, true)
  else if rp.pa % 128 ≠ 0 then some (0x04, false)
  else if leafSeg rc.leaf ≠ 2 then some (0x12, true)
  else if leafSeg rp.leaf ≠ 2 && leafSeg rp.leaf ≠ 3 then some (0x12, false)
  else none

/-- A record that is in a list or numbered (20 R433). -/
def State.recordUsed (s : State) (chip rp : Nat) : Bool :=
  s.recBytes chip rp 8 ≠ 0 || s.recField chip rp 0x38 0 32 ≠ 0 || s.recField chip rp 0x38 32 3 ≠ 0

/-- `LAUNCH`, its operands translated: the forms, the waits, the body check, the link. -/
def launchLink (k : Who) (l len : Nat) (va vb : DWord) (rc rp : Part) (s : State) : Eff :=
  let park (s : State) (c : BitVec 8) (a : DWord) : Eff :=
    .done ((s.parkLanes k .none .w32 len [(l, c, a)]).takeSeq k.w)
  match launchForm rc rp with
  | some (c, isA) => park s c (if isA then va else vb)
  | none =>
    match s.releaseWait k (if leafSeg rp.leaf = 3 then .sy else .pk) va with
    | (false, s) => .wait s
    | (true, s) =>
      if !s.strongReady k 1 then .wait (s.notStalled k)
      else if s.recordUsed k.chip rp.pa then park s 0x12 vb
      else match s.link k.chip rc.pa rp.pa with
        | none => .wait (s.notStalled k)
        | some (x, s) =>
          let s := s.signLink k [rc.pa + 0x20, if x = 0 then rc.pa + 0x18 else x]
          .done ((s.count k.wg.core 135 (if isHostAddr x then 2 else 3)).takeSeq k.w)

/-- `LAUNCH`. -/
def launchEff (f : ExtArgs) (k : Who) (act : List Nat) (s : State) : Eff :=
  let l := lane0 act
  let len := Instr.length (.launch f)
  let va := (s.readOpd k.x l f.lit .w64 .int f.a).setWidth 64
  let vb := (s.readOpd k.x l f.lit .w64 .int f.b).setWidth 64
  let park (s : State) (c : BitVec 8) (a : DWord) : Eff :=
    .done ((s.parkLanes k .none .w32 len [(l, c, a)]).takeSeq k.w)
  match s.span k.xctx .write false va 1 with
  | (.page a, s) => .gone ((s.pageFault k 2 (k.x.issuePc.getD 0) a).takeSeq k.w)
  | (.park c, s) => park s c va
  | (.wait, s) => .wait s
  | (.parts rcs, s) => match s.span k.xctx .write false vb 1 with
    | (.page a, s) => .gone ((s.pageFault k 2 (k.x.issuePc.getD 0) a).takeSeq k.w)
    | (.park c, s) => park s c vb
    | (.wait, s) => .wait s
    | (.parts rps, s) => match rcs, rps with
      | rc :: _, rp :: _ => launchLink k l len va vb rc rp s
      | _, _ => .done s

/-- `LAUNCH`. -/
def execLaunch (f : ExtArgs) (s : State) : Host.Outcome State Fault Refusal := .next (issue (.launch f) s (launchEff f))

end Sys2Proof.Machine
end

