-- ==== Sys2Proof/Machine/Launches.lean ====
section
/-! DEFINITION. Launch records: their fields, the writes of Campion, numbering and rejection, ordered launches and placement
entries (03 R53 to R57, R64, R65; 16 R329, R330; 10 R235). -/

namespace Sys2Proof.Machine

/-! ### Records (03 Table 3.1) -/

/-- A launch record as it stands. -/
structure LaunchRec where
  next : Nat
  entry : Nat
  args : Nat
  done : Nat
  ngang : Nat
  thr : Nat
  wgn : Nat
  rpt : Nat
  segs : Nat
  osl : Nat
  asl : Nat
  vset : Bool
  buf : Nat
  ver : Nat
  seq : Nat
  lstate : Nat
  nextg : Nat
  retg : Nat
  deriving DecidableEq, Repr

/-- Reads a record at its physical form; `wgn` counts the workgroups of a gang. -/
def State.launchRec (s : State) (chip a : Nat) : LaunchRec :=
  let f (off lo n : Nat) : Nat := s.recField chip a off lo n
  { next := f 0 0 64, entry := f 8 0 64, args := f 0x10 0 64, done := f 0x18 0 64, ngang := f 0x20 0 32, thr := f 0x20 32 11
    wgn := f 0x20 48 2 + 1, rpt := f 0x20 56 5, segs := f 0x28 0 8, osl := f 0x28 16 12, asl := f 0x28 32 9
    vset := f 0x28 47 1 = 1, buf := f 0x28 48 16, ver := f 0x30 0 32, seq := f 0x38 0 32, lstate := f 0x38 32 3
    nextg := f 0x40 0 64, retg := f 0x48 0 64 }

/-- Waves of a workgroup. -/
def LaunchRec.waves (q : LaunchRec) : Nat := ceilDiv q.thr 32

/-- The reserved bits of a record: offset, lowest bit, number of bits. -/
def recReserved : List (Nat × Nat × Nat) :=
  [(0x20, 43, 5), (0x20, 50, 6), (0x20, 61, 3), (0x28, 8, 8), (0x28, 28, 4), (0x28, 41, 6), (0x30, 32, 32), (0x38, 35, 29),
   (0x50, 0, 64), (0x58, 0, 64), (0x60, 0, 64), (0x68, 0, 64), (0x70, 0, 64), (0x78, 0, 64)]

/-- A record is rejected (03 R57, 16 R342); `paired` is the region's effective MODE.PAIR. -/
def State.recBad (s : State) (chip a : Nat) (paired : Bool) : Bool :=
  let q := s.launchRec chip a
  q.thr = 0 || decide (1024 < q.thr) || q.entry % 4 ≠ 0 || decide (128 < q.segs) ||
  decide (256 < q.waves * (q.rpt + 1)) || decide (3072 < q.osl * q.wgn) || decide (256 < q.asl * q.wgn) ||
  (paired && decide (2 < q.wgn)) || recReserved.any fun r => s.recField chip a r.1 r.2.1 r.2.2 ≠ 0

/-! ### Campion's writes (03 R53)

They are used only where a strong operation can be performed at once (`State.strongOpen`, log 10: DEDUCED). -/

/-- An operation of 10 R219 on a field of a record or RCB: strong in the replicated segment, an atomic of the host-line cache
in the host segment (11 R249). The answer is the value before. -/
def State.recOp (s : State) (chip a opc : Nat) (ty : Ty) (x y : Nat) : Nat × State :=
  if isHostAddr a then
    let w := reqBytes opc ty
    let old := Memory.readLe s.mem a w
    match strongNew opc ty.signed w old x y with
    | none => (old, s)
    | some v => (old, (s.hostOwn chip (a / 64)).homeStore none none ((bytesOfNat w v).zipIdx.map fun b => (a + b.2, b.1)))
  else s.strongApply chip opc ty a (BitVec.ofNat 128 x) (BitVec.ofNat 128 y)

/-- Sets LSTATE. -/
def State.setLstate (s : State) (chip rec n : Nat) : State := (s.recOp chip (rec + 0x3C) 8 .n32 n 0).2

/-- A launch has ended, and its DONE is due (03 R58). -/
def State.launchEnds (s : State) (chip rec : Nat) : State :=
  (s.modChip chip fun c => { c with ended := if c.ended.contains rec then c.ended else c.ended ++ [rec] }).postOnce
    (.launchDone chip rec)

/-! ### Numbering (03 R55) -/

/-- The number after one: modulo 2^32 with 0 skipped. -/
def seqAfter (n : Nat) : Nat := if (n + 1) % 2 ^ 32 = 0 then 1 else (n + 1) % 2 ^ 32

/-- A record without a number gets it; a numbered one that is still accepted is rejected or, without gangs, retired
(03 R56, R57). -/
def State.judge (s : State) (chip rcb rec n : Nat) : State :=
  let s := if (s.launchRec chip rec).seq ≠ 0 then s
    else ((s.recOp chip (rec + 0x38) 7 .n32 0 n).2.recOp chip (rcb + 0x90) 2 .n32 n 0).2
  let q := s.launchRec chip rec
  if q.lstate ≠ 0 then s
  else if s.recBad chip rec ((s.effMode chip rcb).getLsbD 1) then
    ((s.setLstate chip rec 4).note chip 0x57 [rec, q.seq]).launchEnds chip rec
  else if q.ngang = 0 then (s.setLstate chip rec 3).launchEnds chip rec
  else s

/-- The walk of a launch list, its records numbered and judged: the records up to one that ends the walk. -/
def walkList (fuel : Nat) (chip rcb : Nat) (prev : Option Nat) (rec : Nat) (s : State) : List Nat × State :=
  match fuel with
  | 0 => ([], s)
  | m + 1 =>
    if rec = 0 then ([], s)
    else
      let q := s.launchRec chip rec
      let due := seqAfter (prev.getD (s.recField chip rcb 0x90 0 32))
      if q.seq ≠ 0 && prev.isSome && q.seq ≠ due then ([], s)
      else
        let s := s.judge chip rcb rec due
        let q := s.launchRec chip rec
        let (r, s) := walkList m chip rcb (some q.seq) q.next s
        (rec :: r, s)

/-- A region's launch list, numbered. -/
def State.numberList (s : State) (chip rcb : Nat) : List Nat × State :=
  walkList walkFuel chip rcb none (s.recField chip rcb 0x18 0 64) s

/-- The records of a list as they stand, up to one that ends the walk or has no number. -/
def recordsOf (fuel : Nat) (s : State) (chip : Nat) (prev : Option Nat) (rec : Nat) : List Nat :=
  match fuel with
  | 0 => []
  | m + 1 =>
    if rec = 0 then []
    else
      let q := s.launchRec chip rec
      if q.seq = 0 || (prev.map seqAfter).getD q.seq ≠ q.seq then []
      else rec :: recordsOf m s chip (some q.seq) q.next

/-- The numbered records of a region's list. -/
def State.records (s : State) (chip rcb : Nat) : List Nat := recordsOf walkFuel s chip none (s.recField chip rcb 0x18 0 64)

/-- An unretired launch: LSTATE below 3. -/
def State.unretired (s : State) (chip rec : Nat) : Bool := decide ((s.launchRec chip rec).lstate < 3)

/-- The first record of a list whose predecessors all have LSTATE 2 or above and which has gangs to claim (03 R56). -/
def State.claimable (s : State) (chip rcb : Nat) : Option Nat :=
  let rs := s.records chip rcb
  match rs.find? fun r => decide ((s.launchRec chip r).lstate < 2) with
  | none => none
  | some r =>
    let q := s.launchRec chip r
    if q.nextg < q.ngang && !(s.gangs.any fun g => g.2.launch = r && g.2.endsLaunch) then some r else none

/-! ### Ordered launches (16 R329, R330) -/

/-- `m` rounds of HilbertXY from side s: the coordinates of curve index t. -/
def hilbertFrom : Nat → Nat → Nat → Nat × Nat → Nat × Nat
  | 0, _, _, p => p
  | m + 1, side, t, (x, y) =>
    let rx := t / 2 % 2
    let ry := (t % 2 + rx) % 2
    let (x, y) := if ry = 0 then
        let (x, y) := if rx = 1 then (side - 1 - x, side - 1 - y) else (x, y)
        (y, x)
      else (x, y)
    hilbertFrom m (2 * side) (t / 4) (x + side * rx, y + side * ry)

/-- HilbertXY(2^m, d). -/
def hilbertXY (m d : Nat) : Nat × Nat := hilbertFrom m 1 d (0, 0)

/-- The least m with 4^m ≥ n. -/
def gridLog (fuel n : Nat) : Nat → Nat
  | m => match fuel with
    | 0 => m
    | f + 1 => if n ≤ 4 ^ m then m else gridLog f n (m + 1)

/-- The gang at a curve position: the `p`-th index of the curve, from `d` on, that names a gang. -/
def gangAtFrom (fuel m ngang d p : Nat) : Nat :=
  match fuel with
  | 0 => 0
  | f + 1 =>
    let (x, y) := hilbertXY m d
    let g := x + 2 ^ m * y
    if g < ngang then (if p = 0 then g else gangAtFrom f m ngang (d + 1) (p - 1))
    else gangAtFrom f m ngang (d + 1) p

/-- The gang at a curve position of a launch of `ngang` gangs. -/
def gangAt (ngang p : Nat) : Nat :=
  let m := gridLog 16 ngang 0
  gangAtFrom (4 ^ m) m ngang 0 p

/-- The curve position of gang `g`, counted from index `d` and position `p` on. -/
def posFrom (fuel m ngang d p g : Nat) : Nat :=
  match fuel with
  | 0 => p
  | f + 1 =>
    let (x, y) := hilbertXY m d
    let h := x + 2 ^ m * y
    if h = g then p else posFrom f m ngang (d + 1) (if h < ngang then p + 1 else p) g

/-- The curve position of a gang. -/
def posOf (ngang g : Nat) : Nat :=
  let m := gridLog 16 ngang 0
  posFrom (4 ^ m) m ngang 0 0 g

/-- Live members in ascending rank. -/
def State.liveMembers (s : State) (chip : Nat) : List Nat := (List.range 8).filter fun c => (s.repl chip).members.contains c

/-- The quads of the lanes of a launch's shape. -/
def State.newShape (s : State) (chip rcb : Nat) : List Nat :=
  let ms := s.liveMembers chip
  let c := s.effBudget chip rcb 0 0x30 0 10
  let q := max 1 (min (c / 4) (16 * ms.length))
  (List.range q).map fun l => 16 * (ms.getD (l % ms.length) 0) + l / ms.length

/-- The shape of a launch. -/
def State.shape (s : State) (rec : Nat) : Option (List Nat) := Table.look s.shapes rec

/-- The lanes of a launch's shape and the set of the live members, as its placement entries record them; 0 without a shape. -/
def State.shapeNums (s : State) (chip rec : Nat) : Nat × Nat :=
  match s.shape rec with
  | none => (0, 0)
  | some sh => (sh.length, (s.liveMembers chip).foldl (fun n c => n + 2 ^ c) 0)

/-- A gang of a launch is resident in a lane, pre-empted gangs included. -/
def State.laneBusy (s : State) (rec lane : Nat) : Bool :=
  s.gangs.any fun g => g.2.launch = rec && g.2.ordered && g.2.laneNo = lane && g.2.st ≠ .retired && g.2.st ≠ .exited

/-! ### Placement entries (03 R65, 10 Table 10.9) -/

/-- Offset of entry `n` of a rank's table. -/
def State.entryAt (s : State) (chip rank n : Nat) : Nat :=
  reservedBase (s.repl chip).rsegsz + 0x100000 + rank * 0x10000 + 16 * n

/-- A placement entry: launch record, `%gang`, quad; of an ordered launch also its shape, as the lanes and the members it was fixed
with (16 R330). Where they stand in the 16 bytes is the model's choice (log 18: DESIGN CHOICE). -/
structure PlaceEntry where
  launch : Nat
  gang : Nat
  quad : Nat
  lanes : Nat
  members : Nat
  deriving DecidableEq, Repr

/-- An entry as it stands; a launch of 0 is none. -/
def State.readEntry (s : State) (chip rank n : Nat) : PlaceEntry :=
  let a := s.entryAt chip rank n
  { launch := s.recField chip a 0 0 64, gang := s.recField chip a 8 0 32, quad := s.recField chip a 8 32 7
    lanes := s.recField chip a 8 40 8, members := s.recField chip a 8 48 8 }

/-- Writes an entry. -/
def State.writeEntry (s : State) (chip rank n : Nat) (e : PlaceEntry) : State :=
  let a := s.entryAt chip rank n
  ((s.recOp chip (a + 8) 8 .n64 (e.gang + e.quad * 2 ^ 32 + e.lanes * 2 ^ 40 + e.members * 2 ^ 48) 0).2.recOp chip a 8 .n64 e.launch 0).2

/-- Clears an entry. -/
def State.clearEntry (s : State) (chip rank n : Nat) : State := 
  s.writeEntry chip rank n { launch := 0, gang := 0, quad := 0, lanes := 0, members := 0 }

/-- The lowest free entry of a chip's table. -/
def State.freeEntryOf (s : State) (chip : Nat) : Option Nat :=
  (List.range 4096).find? fun n => s.recField chip (s.entryAt chip chip n) 0 0 64 = 0

/-- Placement entries that name a launch and whose gangs are to be placed again, as rank and number: those of departed
chips, for the Campion of the lowest live rank (03 R65), and those of gangs that a warm reset stopped (17 R363). -/
def State.orphans (s : State) (chip rec : Nat) : List (Nat × Nat) :=
  let named (c : Nat) (ns : List Nat) : List (Nat × Nat) :=
    (ns.filter fun n => s.recField chip (s.entryAt chip c n) 0 0 64 = rec).map fun n => (c, n)
  named chip (s.chip chip).again ++
    if s.lowRank ≠ chip then []
    else ((List.range 8).filter fun c => s.chipExists c && !(s.repl chip).members.contains c).flatMap fun c =>
      named c (List.range 4096)

end Sys2Proof.Machine
end

