-- ==== Sys2Proof/Decode.lean ====
section
/-! DEFINITION. Decoding instruction words (05 R97 to R112, 06 R131), total on any bytes, and the encoder. -/

namespace Sys2Proof

/-- Why words are not an instruction.  Each is the ILL of 05 R116, but `truncated`, which says that fewer bytes were
given than LEN asks for. -/
inductive DecodeError where
  | truncated
  /-- an unassigned or reserved opcode, or a format the opcode does not have (06 R118 to R120) -/
  | notAForm
  /-- a value of XB, MOD, TY, SC, RM, X18 or AUX8 the opcode does not accept -/
  | badCode
  /-- an operand code that is ILL or that the field does not take -/
  | badOperand
  /-- a must-be-0 field, an E bit, or the use of the literal breaks a rule -/
  | badField
  deriving DecidableEq, Repr

/-- A word of four bytes, the lowest address first (00 R4). -/
def wordOfBytes (b0 b1 b2 b3 : Byte) : Word := b3 ++ b2 ++ b1 ++ b0

/-- The bytes of a word, the lowest address first (00 R4). -/
def bytesOfWord (w : Word) : List Byte :=
  [w.extractLsb' 0 8, w.extractLsb' 8 8, w.extractLsb' 16 8, w.extractLsb' 24 8]

/-- The words of a list of bytes; bytes after the last whole word are dropped. -/
def wordsOfBytes : List Byte → List Word
  | b0 :: b1 :: b2 :: b3 :: r => wordOfBytes b0 b1 b2 b3 :: wordsOfBytes r
  | _ => []

/-- Words in an instruction whose first word is `w0` (05 Table 5.1). -/
def wordCount (w0 : Word) : Nat :=
  match (w0.extractLsb' 0 2).toNat with
  | 0 => 1
  | 1 => 3
  | 2 => 3
  | _ => 5

/-- The primary opcode (05 Table 5.2). -/
def opOf (w0 : Word) : Nat := (w0.extractLsb' 2 8).toNat

/-- The base layout of Table 5.2, `lit` the literal of LEN 01. -/
def decodeBase (w0 : Word) (lit : Option DWord) : Except DecodeError Instr :=
  let op := opOf w0
  let d6 := w0.extractLsb' 10 6
  let a6 := w0.extractLsb' 16 6
  let b6 := w0.extractLsb' 22 6
  let xb := w0.extractLsb' 30 2
  match baseSpec op xb d6 a6 with
  | none => .error .notAForm
  | some s =>
    match s.d.read6 d6, s.a.read6 a6, s.b.read6 b6 with
    | some d, some a, some b =>
      let f : BaseArgs :=
        { d, a, b, ea := w0.getLsbD 28, eb := w0.getLsbD 29, xb, lit }
      if baseOk op f then
        match baseInstr op f with
        | some i => .ok i
        | none => .error .notAForm
      else .error .badField
    | _, _, _ => .error .badOperand

/-- The extended layout of Table 5.4, `lit` the literal of LEN 11. -/
def decodeExt (w0 w1 w2 : Word) (lit : Option DWord) : Except DecodeError Instr :=
  let op := opOf w0
  match Ty.ofCode (w1.extractLsb' 27 5), Rm.ofCode (w2.extractLsb' 12 3), Scope.ofCode (w2.extractLsb' 9 3) with
  | some ty, some rm, some sc =>
    let f0 : ExtArgs :=
      { d := .none, a := .none, b := .none, c := .none
        ea := w2.getLsbD 15, eb := w2.getLsbD 16, ec := w2.getLsbD 17
        ty, rm, sc, md := w2.extractLsb' 18 6, aux := w2.extractLsb' 24 8
        x18 := w0.extractLsb' 10 18, xb := w0.extractLsb' 30 2, lit }
    match extSpec op f0 with
    | none => .error .badCode
    | some s =>
      match s.d.read9 (w1.extractLsb' 0 9), s.a.read9 (w1.extractLsb' 9 9), s.b.read9 (w1.extractLsb' 18 9),
          s.c.read9 (w2.extractLsb' 0 9) with
      | some d, some a, some b, some c =>
        let f : ExtArgs := { f0 with d := d, a := a, b := b, c := c }
        if extOk op f && w0.extractLsb' 28 2 = 0 then
          match extInstr op f with
          | some i => .ok i
          | none => .error .notAForm
        else .error .badField
      | _, _, _, _ => .error .badOperand
  | _, _, _ => .error .badCode

/-- The extended `JOIN` of 02 Table 2.6. -/
def decodeJoinExt (w0 w1 w2 : Word) (lit : Option DWord) : Except DecodeError Instr :=
  match FieldKind.joinDst.read9 (w1.extractLsb' 0 9) with
  | none => .error .badOperand
  | some d =>
    let x18 := w0.extractLsb' 10 18
    let rgn := w2.getLsbD 18
    let keep := w2.getLsbD 19
    let tgt : JoinTarget := if keep then .keep else match lit with
      | some t => .lit t
      | none => .off x18
    if FieldKind.joinDst.ok false d && w0.extractLsb' 28 4 = 0 && w1.extractLsb' 9 23 = 0 &&
        w2.extractLsb' 0 18 = 0 && w2.extractLsb' 20 12 = 0 && (!keep || (rgn && lit.isNone)) &&
        ((!keep && lit.isNone) || x18 = 0) then
      .ok (.joinExt d rgn tgt)
    else .error .badField

/-- The base words of layouts of their own: branches (05 Table 5.9), `PBLK` (Table 5.10), `JOIN` (02 Table 2.5),
`TRAP` and `BRK` (18 R390, 22 R497).  `none`: the opcode has no such layout. -/
def decodeSpecial (w0 : Word) (lit : Option DWord) : Option (Except DecodeError Instr) :=
  let chk (b : Bool) (i : Instr) : Option (Except DecodeError Instr) :=
    some (if b then .ok i else .error .badField)
  let off20 := w0.extractLsb' 10 20
  let hi2 := w0.extractLsb' 30 2 = 0
  let p := w0.extractLsb' 10 3
  let sense := w0.getLsbD 13
  let off16 := w0.extractLsb' 14 16
  match opOf w0 with
  | 0x01 =>
    match lit with
    | none => chk hi2 (.br off20)
    | some t => chk (hi2 && off20 = 0 && t.extractLsb' 0 2 = 0) (.brLit t)
  | 0x02 =>
    match lit with
    | none => chk hi2 (.brp p sense off16)
    | some t => chk (hi2 && off16 = 0 && t.extractLsb' 0 2 = 0) (.brpLit p sense t)
  | 0x04 =>
    match lit with
    | none => chk hi2 (.call off20)
    | some t => chk (hi2 && off20 = 0 && t.extractLsb' 0 2 = 0) (.callLit t)
  | 0x06 =>
    match FieldKind.joinDst.read6 (w0.extractLsb' 10 6) with
    | none => some (.error .badOperand)
    | some d =>
      let off14 := w0.extractLsb' 16 14
      match lit with
      | none => chk (hi2 && FieldKind.joinDst.ok true d) (.join d off14)
      | some t => chk (hi2 && FieldKind.joinDst.ok true d && off14 = 0) (.joinLit d t)
  | 0x08 =>
    let cnt := w0.extractLsb' 18 3
    let pat := w0.extractLsb' 10 8
    chk (lit.isNone && w0.extractLsb' 25 7 = 0 && decide (pat.toNat < 2 ^ (cnt.toNat + 1)))
      (.pblk (w0.getLsbD 24) (w0.extractLsb' 21 3) cnt pat)
  | 0x0B => chk (lit.isNone && w0.extractLsb' 28 4 = 0) (.trap (w0.extractLsb' 10 18))
  | 0x0D => chk (lit.isNone && w0.extractLsb' 28 4 = 0) (.brk (w0.extractLsb' 10 18))
  | _ => none

/-- A base word, with or without its literal. -/
def decodeBaseAny (w0 : Word) (lit : Option DWord) : Except DecodeError Instr :=
  match decodeSpecial w0 lit with
  | some r => r
  | none => decodeBase w0 lit

/-- An extended form, with or without its literal. -/
def decodeExtAny (w0 w1 w2 : Word) (lit : Option DWord) : Except DecodeError Instr :=
  if opOf w0 = 0x06 then decodeJoinExt w0 w1 w2 lit else decodeExt w0 w1 w2 lit

/-- The instruction of a list of words (05 R97): the format is LEN's alone; words beyond the instruction's are not
read. -/
def decodeWords : List Word → Except DecodeError Instr
  | [] => .error .truncated
  | w0 :: r =>
    match (w0.extractLsb' 0 2).toNat, r with
    | 0, _ => decodeBaseAny w0 none
    | 1, lo :: hi :: _ => decodeBaseAny w0 (some (hi ++ lo))
    | 2, w1 :: w2 :: _ => decodeExtAny w0 w1 w2 none
    | 3, w1 :: w2 :: lo :: hi :: _ => decodeExtAny w0 w1 w2 (some (hi ++ lo))
    | _, _ => .error .truncated

/-- The instruction that bytes hold, word 0 at the lowest address (00 R4, 05 R97). -/
def decodeBytes (bs : List Byte) : Except DecodeError Instr := decodeWords (wordsOfBytes bs)

/-! ### The encoder -/

/-- A base word (05 Table 5.2). -/
def BaseArgs.word (op : Nat) (f : BaseArgs) : Word :=
  f.xb ++ BitVec.ofBool f.eb ++ BitVec.ofBool f.ea ++ f.b.code6 ++ f.a.code6 ++ f.d.code6 ++ BitVec.ofNat 8 op ++
    (if f.lit.isSome then 1#2 else 0#2)

/-- Word 0 of an extended form (05 Table 5.4). -/
def ExtArgs.word0 (op : Nat) (f : ExtArgs) : Word :=
  f.xb ++ 0#2 ++ f.x18 ++ BitVec.ofNat 8 op ++ (if f.lit.isSome then 3#2 else 2#2)

/-- Word 1 of an extended form. -/
def ExtArgs.word1 (f : ExtArgs) : Word := f.ty.code ++ f.b.code9 ++ f.a.code9 ++ f.d.code9

/-- Word 2 of an extended form. -/
def ExtArgs.word2 (f : ExtArgs) : Word :=
  f.aux ++ f.md ++ BitVec.ofBool f.ec ++ BitVec.ofBool f.eb ++ BitVec.ofBool f.ea ++ f.rm.code ++ f.sc.code ++
    f.c.code9

/-- The literal words, low word first (05 R97). -/
def litWords : Option DWord → List Word
  | none => []
  | some x => [x.extractLsb' 0 32, x.extractLsb' 32 32]

/-- The words of a layout (05 Tables 5.2, 5.4, 5.9, 5.10; 02 Tables 2.5, 2.6). -/
def Form.words : Form → List Word
  | .base op f => f.word op :: litWords f.lit
  | .ext op f => f.word0 op :: f.word1 :: f.word2 :: litWords f.lit
  | .br op off => [0#2 ++ off ++ BitVec.ofNat 8 op ++ 0#2]
  | .brLit op t => (0#22 ++ BitVec.ofNat 8 op ++ 1#2) :: litWords (some t)
  | .brp p s off => [0#2 ++ off ++ BitVec.ofBool s ++ p ++ 2#8 ++ 0#2]
  | .brpLit p s t => (0#18 ++ BitVec.ofBool s ++ p ++ 2#8 ++ 1#2) :: litWords (some t)
  | .join d off => [0#2 ++ off ++ d.code6 ++ 6#8 ++ 0#2]
  | .joinLit d t => (0#16 ++ d.code6 ++ 6#8 ++ 1#2) :: litWords (some t)
  | .joinExt d rgn t =>
    let x18 : BitVec 18 := match t with
      | .off x => x
      | _ => 0
    let len : BitVec 2 := match t with
      | .lit _ => 3
      | _ => 2
    let keep : Bool := match t with
      | .keep => true
      | _ => false
    let lit : Option DWord := match t with
      | .lit x => some x
      | _ => none
    (0#4 ++ x18 ++ 6#8 ++ len) :: (0#23 ++ d.code9) ::
      (0#12 ++ BitVec.ofBool keep ++ BitVec.ofBool rgn ++ 0#18) :: litWords lit
  | .pblk inv pred cnt pat => [0#7 ++ BitVec.ofBool inv ++ pred ++ cnt ++ pat ++ 8#8 ++ 0#2]
  | .code op c => [0#4 ++ c ++ BitVec.ofNat 8 op ++ 0#2]
  | .event => []

/-- The words of an instruction. -/
def encodeWords (i : Instr) : List Word := i.form.words

/-- The bytes of an instruction, in memory order (00 R4). -/
def encode (i : Instr) : List Byte := (encodeWords i).flatMap bytesOfWord

/-! ### One word of the opcode table -/

/-- The five words of an instruction whose low bits are `w`, the bits above `nbits` 0 (word 0 in the least
significant bits, as the opcode table numbers them). -/
def tableWords (nbits w : Nat) : List Word :=
  let x := w % 2 ^ nbits
  [BitVec.ofNat 32 x, BitVec.ofNat 32 (x / 2 ^ 32), BitVec.ofNat 32 (x / 2 ^ 64), BitVec.ofNat 32 (x / 2 ^ 96),
   BitVec.ofNat 32 (x / 2 ^ 128)]

/-- The instruction the decoder reads from an instruction whose bits are `w`. -/
def decodeTableWord (nbits w : Nat) : Option Instr :=
  match decodeBytes ((tableWords nbits w).flatMap bytesOfWord) with
  | .ok i => some i
  | .error _ => none

end Sys2Proof
end

