-- ==== Sys2Proof/Machine/Trap.lean ====
section
/-! DEFINITION. Traps that no instruction raises: asynchronous events, the handler watchdog, the faults of a fetch, and
the reading of instruction words (15 R309, R313, R317; 12 R254, R255; 05 R97, R98). -/

namespace Sys2Proof.Machine

/-- A gang whose waves issue (03 R69, R72). -/
def Gang.issues (g : Gang) : Bool := g.st = .resident

/-- A handler of a wave that issues although its gang is otherwise stopped: context save and restore (15 R323, R326). -/
def Wave.contextHandler (x : Wave) : Bool := x.handler = some .save || x.handler = some .restore

/-- A wave whose pending trap would be taken at its next opportunity (15 R309, R313): none is while the wave sleeps or is
halted, while its gang does not issue and while a handler of its workgroup runs. -/
def Who.open (k : Who) : Bool :=
  k.x.sleep = 0 && !k.x.halted && k.g.issues && k.wg.handler.isNone && k.x.handler.isNone && k.x.threads.any Thread.live

/-- No wave of a lower `%wave` in the workgroup takes a trap now (15 R313). -/
def State.firstToTrap (s : State) (k : Who) : Bool :=
  k.wg.waves.all fun w => match s.whoOf w with
    | none => true
    | some o => !(decide (o.x.idx < k.x.idx) && (o.x.heldTrap.isSome || o.x.pendA ≠ []) && o.open)

/-- A class A event of a wave can be taken at its next opportunity; a trap that it holds pending comes first. -/
def Who.canDeliver (k : Who) (s : State) : Bool :=
  k.x.pendA ≠ [] && k.x.heldTrap.isNone && k.open && s.firstToTrap k

/-- A trap held pending through a halt is taken (15 R312, R313). -/
def Who.canTrap (k : Who) (s : State) : Bool := k.x.heldTrap.isSome && k.open && s.firstToTrap k

/-- The instruction at which an asynchronous trap is taken: the issue PC, or, where no thread issues, the lowest program
counter of a live thread. -/
def Wave.takenPc (x : Wave) : DWord := (x.issuePc.orElse fun _ => lowestPc x.threads Thread.live).getD 0

/-- ASYNC_TRAP_DELIVERY (15 R309, R313): the oldest pending class A event of a wave traps it. -/
def execAsyncTrapDelivery (wave : Nat) (s : State) : Host.Outcome State Fault Refusal :=
  .next (match s.whoOf wave with
    | none => s
    | some k => match k.x.pendA with
      | [] => s
      | p :: r =>
        if !k.canDeliver s then s
        else
          let at' := k.x.takenPc
          (s.setWave wave { k.x with pendA := r }).takeTrap wave
            { cause := p.cause, pc := p.pc.getD at', taken := at', addr := p.addr, lseq := p.lseq, pmask := none
              dest := p.dest, skip := none })

/-- The trap that a wave holds is taken. -/
def Who.takeHeld (k : Who) (s : State) : State :=
  match k.x.heldTrap with
  | none => s
  | some i => (s.setWave k.w { k.x with heldTrap := none }).takeTrap k.w i

/-- HANDLER_WATCHDOG (15 R317): a handler that has issued 65,536 instructions without `RTE` is stopped and its gang
killed. -/
def execHandlerWatchdog (wave : Nat) (s : State) : Host.Outcome State Fault Refusal :=
  .next (match s.whoOf wave with
    | none => s
    | some k => if k.x.handler.isSome && decide (65536 ≤ k.x.handlerCount) then s.killGang k.wg.gang true (0x317 :: k.x.frec.nums) else s)

/-! ### Fetching an instruction -/

/-- Why an instruction cannot be fetched: a translation fault at an address, a precise trap, or a wait. -/
inductive FetchStop where
  | page (va : DWord)
  | trap (cause : BitVec 8) (va : DWord)
  | wait
  deriving DecidableEq, Repr

/-- The key of a block in the table of written blocks. -/
def writtenKey (seg pa : Nat) : Nat := if seg = 2 then 2 ^ 50 + pa / 64 else pa / 64

/-- Text of a block has been written since a gang was placed (05 R98). -/
def State.textStale (s : State) (g : Gang) (key : Nat) : Bool :=
  match Table.look s.written key with
  | none => false
  | some n => decide (g.born ≤ n)

/-- One instruction word: text written since the gang was placed reads as undefined words (05 R98); an absent stack or a
failed tag check is DATA_ERROR (08 R163, 12 R271). -/
def State.fetchWord (s : State) (k : Who) (va : DWord) : Except FetchStop Word × State :=
  match s.translate { k.xctx with hold := false } .fetch false va with
  | (.translation, s) => (.error (.page va), s)
  | (.protection, s) => (.error (.trap 0x12 va), s)
  | (.moving, s) => (.error .wait, s)
  | (.wait, s) => (.error .wait, s)
  | (.ok leaf pa, s) =>
    if s.textStale k.g (writtenKey (leafSeg leaf) pa) then (.ok (s.freshValue.extractLsb' 0 32), s.useFree)
    else if leafSeg leaf = 2 && s.replFails k.chip (pa / 64) then (.error (.trap 0x1C va), s)
    else if leafSeg leaf = 2 then (.ok (BitVec.ofNat 32 (Memory.readLe (s.repl k.chip).replica pa 4)), s)
    else if !s.reaches k.chip pa then (.error .wait, s)
    else if isHostAddr pa then (.ok (BitVec.ofNat 32 (Memory.readLe s.mem pa 4)), s)
    else if !s.stackLive (stackOf pa) || s.tagFails pa (leafBuf leaf) then (.error (.trap 0x1C va), s)
    else (.ok (BitVec.ofNat 32 (Memory.readLe s.mem pa 4)), s)

/-- `n` further words of an instruction. -/
def fetchRest (k : Who) : Nat → DWord → State → Except FetchStop (List Word) × State
  | 0, _, s => (.ok [], s)
  | n + 1, va, s => match s.fetchWord k va with
    | (.error e, s) => (.error e, s)
    | (.ok w, s) => match fetchRest k n (va + 4) s with
      | (.error e, s) => (.error e, s)
      | (.ok r, s) => (.ok (w :: r), s)

/-- The words of the instruction at an address (05 R97). A word that cannot be fetched stops the instruction before any other word makes it
ILL; 06 R131 does not rank the two (log 29: DESIGN CHOICE). -/
def State.fetchWords (s : State) (k : Who) (pc : DWord) : Except FetchStop (List Word) × State :=
  match s.fetchWord k pc with
  | (.error e, s) => (.error e, s)
  | (.ok w, s) => match fetchRest k (wordCount w - 1) (pc + 4) s with
    | (.error e, s) => (.error e, s)
    | (.ok r, s) => (.ok (w :: r), s)

/-- What an instruction that cannot be fetched does to its wave (12 R254, R255; 15 Table 15.1). -/
def State.fetchStops (s : State) (k : Who) (pc : DWord) (e : FetchStop) : State :=
  match e with
  | .wait => s.waits
  | .trap cause va => s.takeTrap k.w (TrapInfo.plain cause pc va)
  | .page va => (s.pageFault k 3 pc va).waits

/-- DEST of the instruction that some words hold; 0x180 where they hold none (15 Table 15.2). -/
def wordsDest (ws : List Word) : BitVec 11 :=
  match decodeWords ws with
  | .ok i => i.form.dest
  | .error _ => 0x180

/-- The issuing wave, the length and DEST of its instruction and the words a decode trap records (05 R117). -/
def State.issuing (s : State) (w : Nat) (ws : List Word) : State :=
  let w0 := ws.headD 0
  { s with issuer := some w, ilen := 4 * ws.length, idest := wordsDest ws
           iwords := (if w0.extractLsb' 0 2 = 0 then 0#32 else ws.getD 1 0) ++ w0, waited := false }

/-- Words that are no instruction: ILL, which skips them (05 R116, R117). -/
def State.undecodable (s : State) (k : Who) (pc : DWord) : State := s.decodeTrap k.w 0x01 pc s.ilen

/-- One wave tries its opportunity: the abort that a removal of translations asks for (12 R266), a trap held pending, a class A
event, for which a wave that waits on a page stops waiting too, or the instruction at its issue PC, which `run` performs. `waited`
says that it took no opportunity (03 R72). -/
def attempt (run : Instr → State → Host.Outcome State Fault Refusal) (k : Who) (s : State) :
    Host.Outcome State Fault Refusal :=
  if k.x.invAbort then .next ((s.abortRegion k.w).modWave k.w fun x => { x with invAbort := false })
  else if k.canTrap s then .next (k.takeHeld { s with waited := false })
  else if k.canDeliver s then execAsyncTrapDelivery k.w { s with waited := false }
  else if k.x.page.isSome || k.x.heldTrap.isSome || (k.x.pendA ≠ [] && k.open) then .next s.waits
  else
    match k.x.issuePc with
    | none => .next s.waits
    | some pc => match s.fetchWords k pc with
      | (.error e, s) => .next ({ s with waited := false }.fetchStops k pc e)
      | (.ok ws, s) =>
        let s := s.issuing k.w ws
        match decodeWords ws with
        | .error _ => .next (s.undecodable k pc)
        | .ok i => run i s

end Sys2Proof.Machine
end

