-- ==== Sys2Proof/Machine/Place.lean ====
section
/-! DEFINITION. Putting work on a core: the initial state of threads, waves, workgroups and gangs (03 R59, R63; 02 R25,
R38), and one instruction ready to be fetched (log 11: DESIGN CHOICE). -/

namespace Sys2Proof.Machine

/-- The initial state of a thread (03 R59): ARGS in `v0.d`, the launch record's address in `v2.d`, every other register
0 and full, `%meet` and the restart record as 02 R38 gives. Lanes beyond the workgroup's threads are absent (02 R25). -/
def Thread.placed (entry args record : DWord) (present : Bool) : Thread :=
  if present then
    { Thread.reset with
      pc := entry, st := .issuing, absent := false
      restart := { pc := entry, meet := allOnes, guard := Guard.none }
      v := putWords (putWords [] 0 2 args.toNat) 2 2 record.toNat }
  else Thread.reset

/-- A wave as it is placed; `n` of its 32 lanes are present. -/
def Wave.placed (wg idx slot : Nat) (entry args record : DWord) (n : Nat) : Wave :=
  { wg, idx, slot, seqno := 0, trapcause := 0, trappc := 0
    frec := { cause := 0, pmask := 0, pc := 0, addr := 0, lseq := 0, skid := 0, dest := 0 }
    threads := allLanes.map fun l => Thread.placed entry args record (decide (l < n))
    monitor := [], fired := false, firedVa := 0, delivered := 0, refused := 0, appended := 0, pendA := [], handler := none
    handlerCount := 0, halted := false, skid := 0, skidLeft := 0, heldTrap := none, heldSkid := none, sleep := 0, page := none
    strong := none, pend := none, pendAside := none, blocked := none, loads := [], progress := 0, arrived := false, garrived := false, stall := 0
    stallAddr := 0, stallDest := 0x180, rank := 0, passed := 0, aged := none, relSig := none, relTag := none, acqSig := 0, acqTags := [], tokPassed := false, tasks := []
    barSeen := [], save := .none, pageAside := none, wakeOn := none, woken := false, again := [], invAbort := false, ptsts := [], tlbis := [] }

/-- A workgroup as it is placed. -/
def Workgroup.placed (gang core idx : Nat) (waves : List Nat) (segs : Nat) (segMap oslots aslots : List Nat) :
    Workgroup :=
  { gang, core, idx, waves, segs, segMap, oslots, aslots, oclaim := [], aclaim := [], arr := 0, handler := none
    hot := [], fills := [], exiting := false, waitClocks := 0, takenSegs := 0, takenO := 0, takenA := 0, takenWins := [], gave := false }

/-! ### One instruction ready to be fetched -/

/-- Where the instruction stands: virtual address 2^16, the physical address 2^16 of stack 0. -/
def wordsVa : DWord := 65536

/-- A leaf that allows every access to a homed page at physical address 2^16, with A and D set. -/
def wordsLeaf : DWord := 0x0000000000012000#64 ||| 0x3F#64

/-- A gang of one wave, privileged, resident on quad 0 of chip 0. -/
def Gang.forWords (wg born : Nat) : Gang :=
  { launch := 0, rcb := 0, idx := 0, chip := 0, quad := 0, mode := 0x10, trapv := 0, csave := 0, cslen := 0, asid := 0
    ptroot := 0, fdom := 0, fdomRcb := 0, seq := 1, rpt := 31
    wgs := [wg], ordered := false, pos := 0, laneNo := 0, st := .resident, arr := 0, sigs := 0, entry := 0, runs := [], saveBase := 0
    endsLaunch := false, born }

/-- Words stored at an address, the lowest first (00 R4). -/
def storeWords (m : Memory) (a : Nat) : List Word → Memory
  | [] => m
  | w :: r => storeWords (Memory.writeLe m a 4 w.toNat) (a + 4) r

/-- A wave whose 32 threads issue at `wordsVa`, where the words stand (log 11: DESIGN CHOICE). -/
def State.placeWords (s : State) (ws : List Word) : State :=
  let g := s.serial
  let c := s.cluster 0
  { s with
    gangs := Table.put s.gangs g (Gang.forWords (g + 1) (g + 3))
    wgs := Table.put s.wgs (g + 1) (Workgroup.placed g 0 0 [g + 2] 4 [0, 1, 2, 3] [0] [0])
    waves := Table.put s.waves (g + 2) (Wave.placed (g + 1) 0 0 wordsVa 0 0 32)
    serial := g + 3
    mem := storeWords s.mem 65536 ws
    written := (s.written.filter fun e => !(e.1 = 1024))
    clusters := Table.put s.clusters 0
      { c with tlb := [{ asid := 0, group := 0, mask := 2, idx := 1, leaf := wordsLeaf, ea := 0 }], blockTag := [] }
    agenda := [], phase := .issue, turn := 0, issuer := none, waited := false }

end Sys2Proof.Machine
end

