-- ==== Sys2Proof/Machine/Rooms.lean ====
section
/-! DEFINITION. Room on cores and clusters, budgets, and the placing of a gang (03 R45, R59, R63, R66; 16 R330, R342; 16 R344). -/

namespace Sys2Proof.Machine

/-! ### Room (03 R63) -/

/-- A gang's workgroups run on two cores each (16 R342). -/
def Gang.paired (k : Gang) : Bool := k.mode.getLsbD 1

/-- A workgroup occupies a core: it runs there, or its shadow does (16 R342). -/
def State.occupies (s : State) (x : Workgroup) (core : Nat) : Bool :=
  x.core = core || (x.core + 1 = core && ((s.gang? x.gang).map Gang.paired).getD false)

/-- The workgroups that occupy a core. -/
def State.wgsOn (s : State) (core : Nat) : List (Nat × Workgroup) := s.wgs.filter fun e => s.occupies e.2 core

/-- The waves of a workgroup that hold registers. -/
def State.heldWaves (s : State) (x : Workgroup) : List Wave :=
  (x.waves.filterMap s.wave?).filter fun y => y.save ≠ .out

/-- The waves resident on a core. -/
def State.wavesOn (s : State) (core : Nat) : List Wave := (s.wgsOn core).flatMap fun e => s.heldWaves e.2

/-- KiB of the main file that a workgroup holds. -/
def State.wgKib (s : State) (x : Workgroup) : Nat :=
  (s.heldWaves x).length * (((s.gang? x.gang).map fun k => k.rpt + 1).getD 0)

/-- KiB of a core's main file in use. -/
def State.kibOn (s : State) (core : Nat) : Nat := (s.wgsOn core).foldl (fun n e => n + s.wgKib e.2) 0

/-- Physical scratchpad segments of a core in use. -/
def State.segsOn (s : State) (core : Nat) : List Nat := (s.wgsOn core).flatMap fun e => e.2.segMap

/-- Resident waves of each issue slot of a core. -/
def State.slotLoads (s : State) (core : Nat) : List Nat :=
  (List.range 4).map fun i => ((s.wavesOn core).filter fun x => x.slot = i).length

/-- The slot of fewest waves, ties to the lower slot. -/
def leastSlot (ls : List Nat) : Nat :=
  (List.range 4).foldl (fun b i => if ls.getD i 0 < ls.getD b 0 then i else b) 0

/-- The slots that `n` waves go to, one by one. -/
def pickSlots : Nat → List Nat → List Nat
  | 0, _ => []
  | n + 1, ls =>
    let i := leastSlot ls
    i :: pickSlots n (ls.set i (ls.getD i 0 + 1))

/-- A core of FENCED (16 R344). -/
def State.fencedCore (s : State) (core : Nat) : Bool := (s.chip (chipOfCore core)).dbg.fenced.getLsbD (core % 64)

/-- A core has room for `n` waves of `rpt`, and segments. -/
def State.coreRoom (s : State) (core n rpt segs : Nat) : Bool :=
  !s.fencedCore core && decide ((s.wavesOn core).length + n ≤ 48) && decide (s.kibOn core + n * (rpt + 1) ≤ 256) &&
  decide ((s.segsOn core).length + segs ≤ 128)

/-- Operand and accumulator slots of a cluster in use. -/
def State.usedOps (s : State) (cluster : Nat) : List Nat :=
  (s.wgs.filter fun e => clusterOfCore e.2.core = cluster).flatMap fun e => e.2.oslots
def State.usedAccs (s : State) (cluster : Nat) : List Nat :=
  (s.wgs.filter fun e => clusterOfCore e.2.core = cluster).flatMap fun e => e.2.aslots

/-- The first `n` numbers below `total` that are not in use. -/
def takeFree (total n : Nat) (used : List Nat) : List Nat := ((List.range total).filter fun i => !used.contains i).take n

/-! ### Budgets (02 R45, 03 R63) -/

/-- The workgroups of gangs of a region's subtree that hold resources on a chip. -/
def State.wgsUnder (s : State) (chip rcb : Nat) : List (Nat × Workgroup) :=
  s.wgs.filter fun e => match s.gang? e.2.gang with
    | none => false
    | some k => k.chip = chip && k.onChip && s.inSubtree chip k.rcb rcb

/-- What a gang that is to be placed asks for. -/
structure Need where
  rcb : Nat
  n : Nat
  waves : Nat
  rpt : Nat
  segs : Nat
  osl : Nat
  asl : Nat
  paired : Bool
  /-- in an ordered launch, the bound of the CORES check (16 R330) -/
  cores : Option Nat
  deriving DecidableEq, Repr

/-- The need of a gang of a launch record. -/
def LaunchRec.need (q : LaunchRec) (rcb : Nat) (paired : Bool) (cores : Option Nat) : Need :=
  { rcb, n := q.wgn, waves := q.waves, rpt := q.rpt, segs := q.segs, osl := q.osl, asl := q.asl, paired, cores }

/-- A workgroup's gang is paired. -/
def State.pairedWg (s : State) (x : Workgroup) : Bool := ((s.gang? x.gang).map Gang.paired).getD false

/-- The cores that workgroups on some cores occupy, the shadow of a paired one beside it (16 R342). -/
def footprint (paired : Bool) (cores : List Nat) : List Nat := if paired then cores.flatMap fun c => [c, c + 1] else cores

/-- The cores that a region's subtree occupies on a chip (02 Table 2.7). -/
def State.coresUnder (s : State) (chip rcb : Nat) : List Nat :=
  ((s.wgsUnder chip rcb).flatMap fun e => footprint (s.pairedWg e.2) [e.2.core]).eraseDups

/-- REGS and SEGS of every RCB of the path leave room for one workgroup on a core (02 R45). -/
def State.coreBudget (s : State) (chip : Nat) (d : Need) (c : Nat) : Bool :=
  (s.path chip d.rcb).all fun r =>
    let here := (s.wgsUnder chip r).filter fun e => s.occupies e.2 c
    decide (here.foldl (fun n e => n + s.wgKib e.2) 0 + d.waves * (d.rpt + 1) ≤ 4 * s.effBudget chip r 1 0x30 16 7) &&
    decide (here.foldl (fun n e => n + e.2.segMap.length) 0 + d.segs ≤ s.effBudget chip r 2 0x30 32 8)

/-- The bound of the CORES check at an RCB of the path (03 R63). In an ordered launch the bound of its lanes stands for the region's
effective CORES, up to the RCB that owns it, and no ancestor's share is less, so that every lane can be filled (16 R330; log 17:
DEDUCED). -/
def State.coresBound (s : State) (chip : Nat) (d : Need) (r : Nat) : Nat :=
  let share := ceilDiv (s.effBudget chip r 0 0x30 0 10) (s.liveMembers chip).length
  match d.cores with
  | none => share
  | some b =>
    let owner := s.ownerOf chip d.rcb 0
    if r = owner || ((s.path chip d.rcb).takeWhile fun q => q ≠ owner).contains r then b else max b share

/-- A placement on these cores stays within the budgets of one RCB of the path for the chip and the cluster (02 R45, 03 R63): CORES
counts the distinct cores occupied (02 Table 2.7). -/
def State.withinBudget (s : State) (chip : Nat) (d : Need) (cores : List Nat) (r : Nat) : Bool :=
  let used := (s.coresUnder chip r ++ footprint d.paired cores).eraseDups.length
  let onK := (s.wgsUnder chip r).filter fun e => clusterOfCore e.2.core = clusterOfCore (cores.headD 0)
  decide (used ≤ s.coresBound chip d r) &&
  decide (onK.foldl (fun n e => n + e.2.oslots.length) 0 + d.osl * d.n ≤ s.effBudget chip r 3 0x38 0 12) &&
  decide (onK.foldl (fun n e => n + e.2.aslots.length) 0 + d.asl * d.n ≤ s.effBudget chip r 4 0x38 16 9)

/-- Where `n` workgroups go on a quad: the first members in ascending order that can take one; in a paired region members 2w and
2w + 1. -/
def quadCores (quad n : Nat) (paired : Bool) (ok : Nat → Bool) : Option (List Nat) :=
  if paired then
    let cs := (List.range n).map fun w => 4 * quad + 2 * w
    if cs.all fun c => ok c && ok (c + 1) then some cs else none
  else
    let cs := (((List.range 4).map fun i => 4 * quad + i).filter ok).take n
    if cs.length = n then some cs else none

/-- PROD of a region names a producer with an unretired launch (03 R66). -/
def State.producerWaits (s : State) (chip prod : Nat) : Bool :=
  prod ≠ 0 && (s.records chip prod).any fun r => s.unretired chip r

/-- The producer reserve (03 R66): the consumers of one producer occupy at most 15 quads of a chip. -/
def State.reserveOk (s : State) (chip rcb quad : Nat) : Bool :=
  let prod := s.recField chip rcb 0x70 0 64
  if !s.producerWaits chip prod then true
  else
    let held := (s.gangs.filterMap fun g =>
      if g.2.chip = chip && g.2.onChip && g.2.st ≠ .retired && s.recField chip g.2.rcb 0x70 0 64 = prod then some g.2.quad
      else none).eraseDups
    held.contains quad || decide (held.length < 15)

/-- A gang fits on a quad: its cores (03 R63). -/
def State.fits (s : State) (chip quad : Nat) (d : Need) : Option (List Nat) :=
  match quadCores quad d.n d.paired fun c => s.coreRoom c d.waves d.rpt d.segs && s.coreBudget chip d c with
  | none => none
  | some cs =>
    let k := quad / 4
    if (s.usedOps k).length + d.osl * d.n ≤ 3072 && (s.usedAccs k).length + d.asl * d.n ≤ 256 &&
        s.reserveOk chip d.rcb quad && (s.path chip d.rcb).all (fun r => s.withinBudget chip d cs r) then some cs
    else none

/-! ### Placing (03 R59) -/

/-- One wave of a workgroup that is being placed. -/
def State.placeWave (s : State) (wg idx slot : Nat) (q : LaunchRec) (rec : Nat) : Nat × State :=
  let w := s.serial
  let x := Wave.placed wg idx slot (BitVec.ofNat 64 q.entry) (BitVec.ofNat 64 q.args) (BitVec.ofNat 64 rec) (q.thr - 32 * idx)
  let x := { x with rank := w }
  (w, { s with waves := Table.put s.waves w x, serial := w + 1 })

/-- One workgroup of a gang that is being placed on a core: segments with empty lines, slots, waves,
and an L1 with nothing in it (09 R194). -/
def State.placeWg (s : State) (gang idx core : Nat) (q : LaunchRec) (rec : Nat) : Nat × State :=
  let id := s.serial
  let segs := takeFree 128 q.segs (s.segsOn core)
  let k := clusterOfCore core
  let g := Workgroup.placed gang core idx [] q.segs segs (takeFree 3072 q.osl (s.usedOps k)) (takeFree 256 q.asl (s.usedAccs k))
  let slots := pickSlots q.waves (s.slotLoads core)
  let s := { s with wgs := Table.put s.wgs id g, serial := id + 1 }.enterCore core
  let s := segs.foldl (fun s i => s.emptySeg core i) s
  let (ws, s) := slots.zipIdx.foldl (fun (r : List Nat × State) e =>
    let (w, s) := r.2.placeWave id e.2 e.1 q rec
    (r.1 ++ [w], s)) ([], s)
  (id, s.modWg id fun x => { x with waves := ws })

/-- The fields of an RCB that a gang keeps from its placement (02 R48). -/
def State.keepFields (s : State) (k : Gang) : Gang :=
  let f (b off lo n : Nat) : Nat := s.effField k.chip k.rcb b off lo n
  { k with mode := s.effMode k.chip k.rcb, trapv := BitVec.ofNat 64 (f 10 0x50 0 64), asid := f 19 0x60 32 16
           ptroot := BitVec.ofNat 64 (f 19 0x68 0 64), fdom := f 9 0x30 56 8, fdomRcb := s.ownerOf k.chip k.rcb 9 }

/-- CSAVE and CSLEN. -/
def State.keepSave (s : State) (k : Gang) : Gang :=
  { k with csave := BitVec.ofNat 64 (s.effField k.chip k.rcb 11 0x58 0 64), cslen := s.effField k.chip k.rcb 11 0x60 0 32 }

/-- A gang is placed on cores of a quad: `%gang` idx at curve position `pos` and lane `lane` if its launch is ordered. Where all 4,096
placement entries of the chip are taken, of which 03 R65 says nothing, it takes entry 0 (log 29: DESIGN CHOICE). -/
def State.placeGang (s : State) (chip quad rcb rec idx : Nat) (order : Option (Nat × Nat)) (cores : List Nat) : State :=
  let q := s.launchRec chip rec
  let g := s.serial
  let entry := (s.freeEntryOf chip).getD 0
  let k : Gang :=
    { launch := rec, rcb, idx, chip, quad, mode := 0, trapv := 0, csave := 0, cslen := 0, asid := 0, ptroot := 0, fdom := 0
      fdomRcb := 0, seq := BitVec.ofNat 32 q.seq, rpt := q.rpt, wgs := [], ordered := order.isSome
      pos := (order.map fun o => o.1).getD 0, laneNo := (order.map fun o => o.2).getD 0, st := .resident, arr := 0, sigs := 0
      entry, runs := [], saveBase := 0, endsLaunch := false, born := s.serial }
  let k := s.keepSave (s.keepFields k)
  let s := { s with gangs := Table.put s.gangs g k, serial := g + 1 }
  let (ids, s) := cores.zipIdx.foldl (fun (r : List Nat × State) e =>
    let (id, s) := r.2.placeWg g e.2 e.1 q rec
    (r.1 ++ [id], s)) ([], s)
  let s := s.modGang g fun k => { k with wgs := ids, born := s.serial }
  let n := s.shapeNums chip rec
  let s := s.writeEntry chip chip entry { launch := rec, gang := idx, quad, lanes := n.1, members := n.2 }
  if order.isSome then
    let s := if (Table.look s.tokens rec).isSome then s
      else { s with tokens := Table.put s.tokens rec { pos := 0, wg := 0, wave := 0, away := [] } }
    tokenSettle 256 s rec
  else s

end Sys2Proof.Machine
end

