-- ==== Sys2Proof/Machine/Copy.lean ====
section
/-! DEFINITION. Asynchronous copies: `CPY`, `TCPY`, `KICK`, `CFENCE`, transfers, request records, tensor descriptors,
Ethernet frames (13 R273 to R282, R286, R288, R290; 19 R394, R399; 20 R430; 22 R494; 17 R359). -/

namespace Sys2Proof.Machine

/-! ### Runs of bytes -/

/-- The element offsets of a tensor, dimension 0 innermost (13 R279): dimensions as (extent, source stride, destination
stride), innermost first. -/
def elemOffsets : List (Nat × Int × Int) → List (Int × Int)
  | [] => [(0, 0)]
  | (n, a, b) :: r => (elemOffsets r).flatMap fun o =>
      (List.range n).map fun (i : Nat) => (o.1 + (i : Int) * a, o.2 + (i : Int) * b)

/-- Joins elements of `e` bytes whose ranges are contiguous in source and destination (13 R275). -/
def joinRuns (e : Nat) (l : List (Int × Int)) : List (Int × Int × Nat) :=
  (l.foldl (fun (r : List (Int × Int × Nat)) o => match r with
    | (a, b, n) :: t => if a + n = o.1 && b + n = o.2 then (a, b, n + e) :: t else (o.1, o.2, e) :: r
    | [] => [(o.1, o.2, e)]) []).reverse

/-- Cuts a run at the multiples of `unit` of its destination. -/
def cutRun : Nat → Nat → Int → Int → Nat → List (Int × Int × Nat)
  | 0, _, _, _, _ => []
  | fuel + 1, unit, a, b, n =>
    if n = 0 then []
    else
      let m := min n (unit - (b % (unit : Int)).toNat)
      (a, b, m) :: cutRun fuel unit (a + m) (b + m) (n - m)

/-- A 64-bit address, or a scratchpad offset of which bits [23:0] count, of an integer. -/
def wrapAddr (space : Nat) (a : Int) : Nat := (a % 2 ^ (if space = 1 then 24 else 64)).toNat

/-- The transfers of a tensor: each lies in one 64-byte block of its destination, so in one line. -/
def tensorPieces (sspace src dspace dst e : Nat) (dims : List (Nat × Int × Int)) (rcv : List Nat) (idx : Nat) : List Piece :=
  ((joinRuns e ((elemOffsets dims).map fun o => ((src : Int) + o.1, (dst : Int) + o.2))).flatMap fun r =>
    cutRun (r.2.2 + 1) 64 r.1 r.2.1 r.2.2).map fun r =>
      { sspace, src := wrapAddr sspace r.1, dspace, dst := wrapAddr dspace r.2.1, rcv, len := r.2.2, idx }

/-- The transfers of one contiguous range. -/
def rangePieces (sspace src dspace dst n : Nat) (rcv : List Nat) (idx : Nat) : List Piece :=
  (cutRun (n + 1) 64 src dst n).map fun r =>
    { sspace, src := wrapAddr sspace r.1, dspace, dst := wrapAddr dspace r.2.1, rcv, len := r.2.2, idx }

/-- Source and destination spaces of a KIND (13 Table 13.2, R277). -/
def kindSpaces : Nat → Nat × Nat
  | 0 => (0, 1)
  | 1 => (1, 0)
  | 2 => (0, 0)
  | 3 => (1, 1)
  | 4 => (0, 4)
  | _ => (5, 0)

/-! ### The parties of a copy -/

/-- The workgroup and gang of a copy. -/
def State.party (s : State) (wg : Nat) : Option (Workgroup × Gang) :=
  match s.wg? wg with
  | none => none
  | some x => (s.gang? x.gang).map fun g => (x, g)

/-- Who translates for a copy of a core: a walk waits for the reads of the wave that precede the copy (12 R264). -/
def State.copyCtx (s : State) (core : Nat) (c : Copy) : XCtx :=
  { core, asid := c.asid, ptroot := c.ptroot, priv := c.priv
    hold := ((s.wave? c.wave).map fun x => x.walksWait fun i => decide (i < c.order)).getD false }

/-- The workgroups of a gang on the quad members of MCAST (13 R280); the issuer for MCAST 0. -/
def State.receivers (s : State) (wg mcast : Nat) : List Nat :=
  match (if mcast = 0 then none else s.party wg) with
  | none => [wg]
  | some (_, g) => ((List.range 4).filter fun q => bit mcast q).filterMap fun q =>
      g.wgs.find? fun w => ((s.wg? w).map fun y => y.core % 4) = some q

/-- Every member that MCAST names holds a workgroup of the gang. -/
def State.receiversOk (s : State) (wg mcast : Nat) : Bool :=
  mcast = 0 || (s.receivers wg mcast).length = ((List.range 4).filter fun q => bit mcast q).length

/-- The scratchpad bytes from an offset that a copy reaches at a workgroup: own offsets only with MCAST (13 R280). -/
def State.copyBytes (s : State) (mcast : Bool) (g : Gang) (x : Workgroup) (off n : Nat) : Option (List (Nat × Nat)) :=
  if mcast && decide (0x80000 < off + n) then none else s.scratchBytes g x off n

/-- The barrier objects of a copy: one at each receiver. -/
def State.copyBars (s : State) (mcast : Bool) (rcv : List Nat) (bar : Option Nat) : Except (Nat × Nat) (List (Nat × Nat)) :=
  match bar with
  | none => .ok []
  | some o =>
    if mcast && decide (0x80000 ≤ o) then .error (0x05, 0)
    else rcv.foldr (fun w r => match s.party w, r with
      | some (x, g), .ok t => match s.barAt g x o with
        | .ok b => .ok (b :: t)
        | .error e => .error e
      | _, r => r) (.ok [])

/-- The barrier objects that a copy updates. -/
def State.barsOf (s : State) (c : Copy) : List (Nat × Nat) :=
  match s.copyBars c.mcast c.rcv c.bar with
  | .ok bs => bs
  | .error _ => []

/-- The index that a fault of the next transfer reports. -/
def Copy.idx (c : Copy) : Nat := (c.pieces.head?.map fun p => p.idx).getD c.num

/-- A COPY_FAULT for a wave: barrier word 1 as it would have been written (13 R290). -/
def State.copyTrap (s : State) (wave : Nat) (pc : DWord) (seq : Word) (code : Nat) : State :=
  s.raiseA wave (chipOfCore (s.coreOf wave))
    { cause := 0x16, pc := some pc, addr := BitVec.ofNat 64 (code * 2 ^ 32 + seq.toNat), lseq := none, dest := 0x180 }

/-- A fault code (13 Table 13.7): code, detail, index. -/
def faultCode (e : Nat × Nat) (idx : Nat) : Nat := e.1 + e.2 * 2 ^ 8 + idx % 2 ^ 16 * 2 ^ 16

/-- A copy fault of a copy (13 R290): recorded in the barrier of each receiver, kept for the graph node, or delivered as
a trap, once for a copy, where there is no barrier. -/
def State.copyFault (s : State) (core id : Nat) (c : Copy) (code : Nat) : State :=
  let s := match s.barsOf c with
    | b :: r => (b :: r).foldl (fun (s : State) b => s.barFault b code c.seq) s
    | [] => if c.node.isSome || c.failed.isSome then s else s.copyTrap c.wave c.pc c.seq code
  s.modCore core fun x => { x with copies := Table.modify x.copies id fun c =>
    { c with failed := some (c.failed.getD code) } }

/-! ### Starting a copy -/

/-- A copy of a wave's command, with nothing to move yet. -/
def Who.copy (k : Who) (s : State) : Copy :=
  { wave := k.w, wg := k.x.wg, gang := k.wg.gang, pieces := [], seq := k.x.seqno, pc := k.x.issuePc.getD 0, bar := none
    noEmpty := false, node := none, noToken := k.g.ordered && !s.holdsToken k.w, page := none, failed := none
    port := none, size := 0, held := none, fill := false, slot := none, issued := (s.core k.wg.core).clk
    order := s.serial, sent := none, asid := k.g.asid, ptroot := k.g.ptroot, priv := k.g.priv, lseq := k.g.seq, shared := false
    rcv := [k.x.wg], mcast := false, num := 0, missed := [], seen := [], lane := none, granted := false }

/-- Lines of scratchpad that a transfer writes. -/
def State.pieceLines (s : State) (p : Piece) : List (Nat × Nat) :=
  if p.dspace ≠ 1 then []
  else p.rcv.flatMap fun w => match s.party w with
    | none => []
    | some (x, g) => match s.scratchByte g x p.dst with
      | none => []
      | some b => [(b.1, b.2 / 128)]

/-- Takes a copy's next transfer out, moved, or faulted: then the lines it would have written stay empty (13 R286). -/
def State.nextAfter (s : State) (c : Copy) (moved : Bool) : Copy :=
  { c with pieces := c.pieces.drop 1, page := none, sent := none, lane := none, granted := false
           missed := if moved then c.missed else c.missed ++ (c.pieces.take 1).flatMap s.pieceLines }

/-- A copy begins (13 R274, R286): counted, its destination lines set empty. -/
def State.startCopy (s : State) (core : Nat) (c : Copy) : State :=
  let id := s.serial
  let s := if c.noEmpty then s else ((c.pieces.flatMap s.pieceLines).eraseDups).foldl (fun s l =>
    s.modCore l.1 fun x => { x with lines := x.lines &&& ~~~((1#4096) <<< l.2) }) s
  let s := { s.modCore core (fun x => { x with copies := Table.put x.copies id c }) with serial := id + 1 }
  (s.count core 133 1).post (.copyTransfer core id)

/-- A copy found faulty before any byte moves: it starts with nothing to move, its fault recorded. -/
def State.startFaulty (s : State) (core : Nat) (c : Copy) (code : Nat) : State :=
  let id := s.serial
  (s.startCopy core { c with pieces := [] }).copyFault core id { c with pieces := [] } code

/-- Room for another copy of a core (13 R274). -/
def State.copyRoom (s : State) (core : Nat) : Bool := decide ((s.core core).copies.length < 128)

/-- A copy with a barrier starts once the barrier offset is good, else it faults. -/
def State.startChecked (s : State) (core : Nat) (c : Copy) : State :=
  match s.copyBars c.mcast c.rcv c.bar with
  | .error e => s.startFaulty core { c with bar := none } (faultCode e c.num)
  | .ok _ => s.startCopy core c

/-! ### CPY (19 R399) -/

/-- A lane of `CPY`: its transfers, or nothing where n is over the limit. -/
def State.cpyLane (s : State) (k : Who) (f : ExtArgs) (l : Nat) : List Piece × Bool :=
  let sp := kindSpaces f.md.toNat
  let d := (s.readOpd k.x l f.lit (if sp.2 = 0 then .w64 else .w32) .int f.a).toNat
  let a := (s.readOpd k.x l f.lit (if sp.1 = 0 then .w64 else .w32) .int f.b).toNat
  let n := (s.readOpd k.x l f.lit .w32 .int f.c).toNat
  if 65536 < n then ([], true) else (rangePieces sp.1 a sp.2 d n [k.x.wg] l, false)

/-- `CPY`. -/
def execCpy (f : ExtArgs) (s : State) : Host.Outcome State Fault Refusal :=
  .next (issue (.cpy f) s fun k act s =>
    if !s.copyRoom k.wg.core then .wait (s.notStalled k)
    else
      let lanes := act.map fun l => (l, s.cpyLane k f l)
      let c := { k.copy s with
        pieces := lanes.flatMap fun e => e.2.1, num := act.headD 0
        bar := if f.aux.getLsbD 0 then none else some (f.x18.toNat * 16) }
      let s := s.takeSeq k.w
      let id := s.serial
      let s := s.startChecked k.wg.core c
      .done (lanes.foldl (fun s e => if e.2.2 then s.copyFault k.wg.core id c (faultCode (0x16, 3) e.1) else s) s))

/-! ### Transfers (13 R275) -/

/-- What stops a transfer: it waits, it waits for a page, or it faults with a code and detail. -/
inductive Stop where
  | wait
  | page (va : DWord)
  | fault (e : Nat × Nat)
  deriving DecidableEq, Repr

/-- The wave's earlier accesses are performed before a transfer touches their blocks (09 Table 9.4): no earlier entry of
the wave for a block is outstanding, and no earlier read of the wave. -/
def State.priorDone (s : State) (core : Nat) (c : Copy) (ps : List Part) : Bool :=
  let blocks := ps.flatMap fun p => [(p.repl, p.pa / 64), (p.repl, (p.pa + p.len - 1) / 64)]
  !((s.core core).wq.any fun e => decide (e.1 < c.order) && e.2.wave = c.wave && blocks.contains (e.2.repl, e.2.block)) &&
  !(((s.wave? c.wave).map fun x => x.loads.any fun l => decide (l.1 < c.order) && l.2.kind ≠ .value).getD false)

/-- A range of an engine's access translated. -/
def State.enginePart (s : State) (ctx : XCtx) (a : Access) (va : Nat) (n : Nat) : Except Stop (List Part) × State :=
  match s.span ctx a false (BitVec.ofNat 64 va) n with
  | (.parts ps, s) => (.ok ps, s)
  | (.park _, s) => (.error (.fault (0x12, 0)), s)
  | (.page va, s) => (.error (.page va), s)
  | (.wait, s) => (.error .wait, s)

/-- Sources of the bytes of parts. -/
def partSrcs (ps : List Part) : List ByteSrc :=
  ps.flatMap fun p => (List.range p.len).map fun i => if p.repl then .repl (p.pa + i) else .phys (p.pa + i) (leafBuf p.leaf)

/-- Reads translated bytes where they live (15 R322): DATA_ERROR is code 0x1C; a block that the host owns is asked back
first (17 R356). -/
def State.engineBytes (s : State) (chip : Nat) (ps : List Part) : Except Stop (List Byte) × State :=
  let owned := (ps.flatMap fun p => if p.repl || isHostAddr p.pa then [] else
    [p.pa / 64, (p.pa + p.len - 1) / 64].filter fun b => (s.cluster (stackOf (b * 64))).hostOwned.contains b).eraseDups
  if !s.srcsReached chip (partSrcs ps) then (.error .wait, s)
  else if owned ≠ [] then (.error .wait, owned.foldl (fun s b => s.askHostData b) s)
  else
    let s := (ps.filter fun p => isHostAddr p.pa && !p.repl).foldl (fun s p => s.hostRead chip (p.pa / 64)) s
    match s.readSrcs chip (partSrcs ps) with
    | none => (.error (.fault (0x1C, 0)), s)
    | some bs => (.ok bs, s)

/-- Global bytes read by an engine. -/
def State.engineRead (s : State) (core : Nat) (ctx : XCtx) (c : Copy) (va n : Nat) : Except Stop (List Byte) × State :=
  match s.enginePart ctx .read va n with
  | (.error e, s) => (.error e, s)
  | (.ok ps, s) => if s.priorDone core c ps then s.engineBytes (chipOfCore core) ps else (.error .wait, s)

/-- An operand slot that nothing has written (log 2: DESIGN CHOICE). -/
def OSlot.empty : OSlot := { data := [], heads := [] }

/-- Bytes of an operand slot's data or heads (14 R292). -/
def State.slotBytes (s : State) (cluster space a n : Nat) : List Byte :=
  if space = 2 then Memory.readBytes (Table.at (s.cluster cluster).oslots (a / 4096) OSlot.empty).data (a % 4096) n
  else
    let hs := (Table.at (s.cluster cluster).oslots (a / 128) OSlot.empty).heads
    (List.range n).map fun i =>
      let h := Table.at hs ((a + i) % 128 / 2) 0
      if (a + i) % 2 = 0 then h.extractLsb' 0 8 else h.extractLsb' 8 8

/-- The heads of a slot with bytes written from byte `a` of the 128. -/
def putHeads (t : Table Half) (a : Nat) (bs : List Byte) : Table Half :=
  bs.zipIdx.foldl (fun t b =>
    let j := (a + b.2) % 128 / 2
    let h := Table.at t j 0
    Table.put t j (if (a + b.2) % 2 = 0 then h.extractLsb' 8 8 ++ b.1 else b.1 ++ h.extractLsb' 0 8)) t

/-- Writes bytes of an operand slot's data or heads. -/
def State.writeSlot (s : State) (cluster space a : Nat) (bs : List Byte) : State :=
  let slot := if space = 2 then a / 4096 else a / 128
  let o := Table.at (s.cluster cluster).oslots slot OSlot.empty
  let o : OSlot := if space = 2 then { o with data := Memory.writeBytes o.data (a % 4096) bs }
    else { o with heads := putHeads o.heads (a % 128) bs }
  s.modCluster cluster fun c => { c with oslots := Table.put c.oslots slot o }

/-- `n` undefined bytes (00 R6). -/
def State.freeBytes (s : State) (n : Nat) : List Byte :=
  (List.range n).map fun i => (Config.freeValue (s.free + i)).extractLsb' 0 8

/-- `n` free values have been used. -/
def State.useFrees (s : State) (n : Nat) : State := { s with free := s.free + n }

/-- The bytes a transfer reads; scratchpad of a workgroup that has exited is undefined (15 R327). -/
def State.pieceFetch (s : State) (core : Nat) (c : Copy) (p : Piece) : Except Stop (List Byte) × State :=
  match p.sspace with
  | 0 => s.engineRead core (s.copyCtx core c) c p.src p.len
  | 1 => match s.party c.wg with
   | none => (.ok (s.freeBytes p.len), s.useFrees p.len)
   | some (x, g) => match s.scratchBytes g x p.src p.len with
    | none => (.error (.fault (0x05, 0)), s)
    | some bs =>
      if s.inT bs then match s.askRefetch bs with
        | (some va, s) => (.error (.page va), s)
        | (none, s) => (.error .wait, s)
      else if (segsOf bs).any fun i => s.refused i.1 i.2 then (.error (.fault (0x12, 0)), s)
      else if (scratchLines bs).all s.lineFull then (.ok (s.readScratch bs), s) else (.error .wait, s)
  | 5 => (.ok ((List.range p.len).map fun i => (c.held.getD []).getD (p.src + i) 0), s)
  | n => (.ok (s.slotBytes (clusterOfCore core) n p.src p.len), s)

/-- A later transfer of the copy reads a byte too. -/
def Copy.readsAgain (c : Copy) (p : Piece) (a : Nat) : Bool :=
  (c.pieces.drop 1).any fun q => q.sspace = p.sspace && decide (q.src ≤ a) && decide (a < q.src + q.len)

/-- A copy reads each source byte once (13 R275): what it has read is not read again, and what a later transfer copies too is kept. -/
def State.pieceRead (s : State) (core id : Nat) (c : Copy) (p : Piece) : Except Stop (List Byte) × State :=
  let as := (List.range p.len).map fun i => p.src + i
  if p.sspace ≤ 1 && as.all fun a => (Table.look c.seen a).isSome then (.ok (as.map fun a => Table.at c.seen a 0), s)
  else match s.pieceFetch core c p with
    | (.error e, s) => (.error e, s)
    | (.ok bs, s) =>
      let bs := (as.zip bs).map fun e => Table.at c.seen e.1 e.2
      let keep := if p.sspace ≤ 1 then (as.zip bs).filter fun e => c.readsAgain p e.1 else []
      (.ok bs, if keep = [] then s else s.modCore core fun y => { y with copies := Table.modify y.copies id fun c =>
        { c with seen := keep.foldl (fun t e => Table.put t e.1 e.2) c.seen } })

/-- The write of a copy at a stack may be performed now: its write lane has granted it (08 R180), the region queue has come to it
(11 R241), and the host holds no copy (17 R356). -/
def State.copyMayWrite (s : State) (core id : Nat) (c : Copy) (pa : Nat) : Bool × State :=
  let st := stackOf pa
  if !c.granted then
    (false, (s.modCore core fun y => { y with copies := Table.modify y.copies id fun c => { c with lane := some st } }).postOnce
      (.writeLaneGrant st))
  else if (s.cluster st).hostHeld.contains (pa / 64) then (false, s.askHost (pa / 64))
  else if !s.dirMayWrite (regionOf pa) (.copy core id) then (false, s.dirAsk (regionOf pa) (.copy core id))
  else (true, s)

/-- A global destination: its one part translated, or what stops it. -/
def State.copyDest (s : State) (core id : Nat) (c : Copy) (p : Piece) : Except Stop Part × State :=
  match s.enginePart (s.copyCtx core c) .write p.dst p.len with
  | (.error e, s) => (.error e, s)
  | (.ok ps, s) => match ps with
    | [] => (.error .wait, s)
    | q :: _ =>
      let chip := chipOfCore core
      if q.leaf.getLsbD 63 && c.noToken then (.error (.fault (0x13, 0)), s)
      else if !s.priorDone core c [q] then (.error .wait, s)
      else if q.repl then
        if (s.repl chip).hostHeld.contains (q.pa / 64) then
          (.error .wait, s.modRepl chip fun r =>
            { r with biWait := if r.biWait.contains (q.pa / 64) then r.biWait else r.biWait ++ [q.pa / 64] })
        else if (s.repl chip).canCreate then (.ok q, s) else (.error .wait, s)
      else if !s.reaches chip q.pa then (.error .wait, s)
      else if isHostAddr q.pa then (.ok q, s)
      else if !s.stackLive (stackOf q.pa) then (.error (.fault (0x1C, 0)), s)
      else match s.copyMayWrite core id c q.pa with
        | (true, s) => (.ok q, s)
        | (false, s) => (.error .wait, s)

/-- Writes a transfer's bytes at its global destination; the lines enter the core's table and the copy's signature goes
to its barrier, or to that of its graph (09 Table 9.4). -/
def State.copyStore (s : State) (core id : Nat) (c : Copy) (q : Part) (bs : List Byte) : State :=
  let chip := chipOfCore core
  let cs := bs.zipIdx.map fun b => (q.pa + b.2, b.1)
  let s := if q.leaf.getLsbD 63 then s.modCore core fun x => { x with copies := Table.modify x.copies id fun c =>
    { c with shared := true } } else s
  if q.repl then
    let s := s.acceptUpdate chip cs none none
    let r := s.repl chip
    s.modCore core fun x => { x with copies := Table.modify x.copies id fun c =>
      { c with sent := some (r.own, vecAt r.wrapsApplied chip) } }
  else
    let s := if isHostAddr q.pa then s.hostOwn chip (q.pa / 64) else s
    let s := (s.homeStore (some core) (some (leafBuf q.leaf)) cs).ringWrites cs
    let s := (s.barsOf c).foldl (fun s b => s.barSign b (sigOfCells cs)) s
    let s := match c.node with
      | none => s
      | some (q, _) => s.modCore core fun x => { x with graphs := Table.modify x.graphs q fun q => { q with sig := q.sig ||| sigOfCells cs } }
    if isHostAddr q.pa then s else s.dirDone (regionOf q.pa) (.copy core id)

/-- What holds up writes into scratchpad: out of range, a segment bound shared or whose page refuses its refetch, a segment in T,
whose refetch is asked for. -/
def State.scratchDest (s : State) (mcast : Bool) (p : Piece) : Except Stop (List (List (Nat × Nat))) × State :=
  p.rcv.foldr (fun w r => match s.party w, r with
    | _, (.error e, s) => (.error e, s)
    | none, r => r
    | some (x, g), (.ok t, s) => match s.copyBytes mcast g x p.dst p.len with
      | none => (.error (.fault (0x05, 0)), s)
      | some bs =>
        if s.inS bs || (segsOf bs).any fun i => s.refused i.1 i.2 then (.error (.fault (0x12, 0)), s)
        else if s.inT bs then match s.askRefetch bs with
          | (some va, s) => (.error (.page va), s)
          | (none, s) => (.error .wait, s)
        else (.ok (bs :: t), s)) (.ok [], s)

/-- Writes a transfer's bytes at the receivers; a line is set full with the copy's last byte into it (13 R286). -/
def State.scratchStore (s : State) (c : Copy) (p : Piece) (dests : List (List (Nat × Nat))) (bs : List Byte) : State :=
  let s := dests.foldl (fun s d => s.writeScratch d bs) s
  if c.noEmpty then s
  else
    let left := (c.pieces.drop 1).flatMap s.pieceLines
    s.fillLinesOf ((s.pieceLines p).filter fun l => !left.contains l && !c.missed.contains l)

/-- The barriers of a copy stand in no segment whose updates wait. -/
def State.barsReady (s : State) (c : Copy) : Bool := !s.inT (s.barsOf c)

/-- An earlier fill of the slot by the wave is in flight, for which an out kind waits (14 R295). -/
def State.fillsBefore (s : State) (core id : Nat) (c : Copy) : Bool :=
  !c.fill && c.slot.isSome &&
    (s.core core).copies.any fun e => decide (e.1 < id) && e.2.fill && e.2.wave = c.wave && e.2.slot = c.slot

/-- One transfer performed: what stops it, or the state with its bytes moved. -/
def State.movePiece (s : State) (core id : Nat) (c : Copy) (p : Piece) : Except Stop Unit × State :=
  if s.fillsBefore core id c then (.error .wait, s)
  else match s.pieceRead core id c p with
    | (.error e, s) => (.error e, s)
    | (.ok bs, s) => match p.dspace with
      | 0 => match s.copyDest core id c p with
        | (.error e, s) => (.error e, s)
        | (.ok q, s) => (.ok (), s.copyStore core id c q bs)
      | 1 => match s.scratchDest c.mcast p with
        | (.error e, s) => (.error e, s)
        | (.ok ds, s) => (.ok (), s.scratchStore c p ds bs)
      | 4 => (.ok (), s.modCore core fun y => { y with copies := Table.modify y.copies id fun c =>
          { c with held := some (c.held.getD [] ++ bs) } })
      | n => (.ok (), s.writeSlot (clusterOfCore core) n p.dst bs)

/-! ### Ethernet (17 R359) -/

/-- The chip of an Ethernet port (01 R17). -/
def chipOfPort (p : Nat) : Nat := 2 * (p / 3) + 1

/-- The port exists and its chip is in the view (01 R17, R19). -/
def State.portUp (s : State) (p : Nat) : Bool :=
  decide (p < 12) && s.chipExists (chipOfPort p) && s.inView s.lowRank (chipOfPort p)

/-- One step of the IEEE 802.3 CRC. -/
def crcBits : Nat → Word → Word
  | 0, x => x
  | n + 1, x => crcBits n (if x.getLsbD 0 then (x >>> 1) ^^^ 0xEDB88320#32 else x >>> 1)

/-- The frame check sequence of a frame, as a little-endian word. -/
def crc32 (bs : List Byte) : Word :=
  ~~~(bs.foldl (fun x b => crcBits 8 (x ^^^ b.setWidth 32)) (BitVec.allOnes 32))

/-- A frame as it leaves: padded to 60 bytes, FCS appended. -/
def wireFrame (bs : List Byte) : List Byte :=
  let p := bs ++ List.replicate (60 - bs.length) 0
  p ++ bytesOfNat 4 (crc32 p).toNat

/-- ETH_FRAME_RX: a frame with its FCS reaches a port; a bad FCS or a full receive queue of 4 MiB drops it. -/
def execEthFrameRx (port : Nat) (frame : List Byte) (s : State) : Host.Outcome State Fault Refusal :=
  .next (
    if !s.portUp port then s
    else
      let chip := chipOfPort port
      let n := frame.length - 4
      let body := frame.take n
      let q := Table.at (s.chip chip).ethRx port []
      let used := q.foldl (fun m f => m + f.length) 0
      if frame.length < 4 || frame.drop n ≠ bytesOfNat 4 (crc32 body).toNat || 2 ^ 22 < used + n then
        (s.modChip chip fun c => { c with ethDropped := c.ethDropped + 1 }).note chip 0x359 [port]
      else s.modChip chip fun c => { c with ethRx := Table.put c.ethRx port (q ++ [body]) })

/-- What a receiving copy writes (17 R359): a 16-byte descriptor, the frame, zeros; a longer frame is truncated. -/
def rxBytes (size : Nat) (frame : List Byte) : List Byte :=
  let cut := decide (size < 16 + frame.length)
  let d := frame.length % 2 ^ 16 + (if cut then 2 ^ 16 else 0)
  ((bytesOfNat 16 d ++ frame) ++ List.replicate (size - (16 + frame.length)) 0).take size

/-- A receiving copy takes the next frame of its port. -/
def State.takeFrame (s : State) (core id : Nat) (port size : Nat) : Option State :=
  let chip := chipOfPort port
  match Table.at (s.chip chip).ethRx port [] with
  | [] => none
  | f :: r => some ((s.modChip chip fun c => { c with ethRx := Table.put c.ethRx port r }).modCore core fun x =>
      { x with copies := Table.modify x.copies id fun c => { c with held := some (rxBytes size f) } })

/-- An older sending copy of the wave to the port is in flight. -/
def State.sendsBefore (s : State) (core id : Nat) (c : Copy) : Bool :=
  (s.core core).copies.any fun e => decide (e.1 < id) && e.2.wave = c.wave && e.2.port = c.port && !e.2.fill

/-- A frame leaves a port. -/
def State.sendFrame (s : State) (port : Nat) (bs : List Byte) : State :=
  s.modChip (chipOfPort port) fun c => { c with ethTx := Table.put c.ethTx port (Table.at c.ethTx port [] ++ [wireFrame bs]) }

/-! ### COPY_TRANSFER -/

/-- A copy retires (13 R274): its latency is sampled, its graph node has ended. -/
def State.retireCopy (s : State) (core id : Nat) (c : Copy) : State :=
  let s := s.sample core 2 ((s.core core).clk - c.issued)
  let s := (s.modCore core fun x => { x with copies := Table.del x.copies id }).dirDrop fun q => q = .copy core id
  match c.node with
  | none => s
  | some (g, n) =>
    (s.modCore core fun x => { x with graphs := Table.modify x.graphs g fun y =>
      { y with nodes := y.nodes.modify n fun z => { z with ended := true, code := c.failed.getD 0 } } }).post
      (.graphNodeRetire core g n)

/-- The first transfer of a copy is done with, moved or faulted: what it waited for at a home waits no more. -/
def State.dropPiece (s : State) (core id : Nat) (moved : Bool) : State :=
  ((s.modCore core fun x => { x with copies := Table.modify x.copies id fun c => s.nextAfter c moved }).dirDrop
    fun q => q = .copy core id).post (.copyTransfer core id)

/-- The bytes of a transfer count on the barrier of each receiver (13 R284). -/
def State.countBytes (s : State) (c : Copy) (n : Nat) : State :=
  (s.barsOf c).foldl (fun s b => s.barUpdate b (-(n : Int)) 0) s

/-- A transfer faults (13 R290). -/
def State.pieceFault (s : State) (core id : Nat) (c : Copy) (code : Nat) : State :=
  (s.copyFault core id c code).dropPiece core id false

/-- A page fault of a transfer (13 R290, 15 R319): a request, or the fault at once without a ring. -/
def State.copyWaitPage (s : State) (core id : Nat) (c : Copy) (va : DWord) : State :=
  let chip := chipOfCore core
  let w : PageWait := { asid := c.asid, vpn := vpnOf va, kind := 4, pc := c.pc, va, clu := clusterOfCore core % 4
                        seq := c.lseq, dest := 0x180, refused := false }
  if (s.chip chip).ring.len = 0 then s.pieceFault core id c (faultCode (0x11, 0) c.idx)
  else (s.modCore core fun y => { y with copies := Table.modify y.copies id fun c => { c with page := some w } }).requestPage chip w

/-- The end of a copy: a frame leaves in its turn, then the copy retires. -/
def State.endCopy (s : State) (core id : Nat) (c : Copy) : State :=
  match c.port, c.held with
  | some p, some bs =>
    if c.fill || c.failed.isSome then s.retireCopy core id c
    else if !s.portUp p then (s.copyFault core id c (faultCode (0x16, 7) c.num)).retireCopy core id { c with failed := some (faultCode (0x16, 7) c.num) }
    else if s.sendsBefore core id c then s.post (.copyTransfer core id)
    else ((s.sendFrame p bs).countBytes c bs.length).retireCopy core id c
  | _, _ => s.retireCopy core id c

/-- A transfer that a page request held up, its answer come or not. -/
def State.nextPiece (s : State) (core id : Nat) (c : Copy) (p : Piece) : State :=
  match c.sent with
  | some (n, wraps) =>
    let r := s.repl (chipOfCore core)
    if wraps ≠ vecAt r.wrapsApplied (chipOfCore core) || n ≤ r.ackedUpTo (chipOfCore core) then
      (s.countBytes c p.len).dropPiece core id true
    else s.post (.copyTransfer core id)
  | none =>
    if !s.barsReady c then match s.askRefetch (s.barsOf c) with
      | (some va, s) => s.copyWaitPage core id c va
      | (none, s) => s.post (.copyTransfer core id)
    else match s.movePiece core id c p with
      | (.error .wait, s) => s.post (.copyTransfer core id)
      | (.error (.page va), s) => s.copyWaitPage core id c va
      | (.error (.fault e), s) => s.pieceFault core id c (faultCode e p.idx)
      | (.ok (), s) =>
        if ((Table.look (s.core core).copies id).bind fun c => c.sent).isSome then s.post (.copyTransfer core id)
        else if p.dspace = 4 then s.dropPiece core id true
        else (s.countBytes c p.len).dropPiece core id true

/-- What a copy number in a region queue stands for has gone: a copy or graph of the core; from 2^40 on a wave that submits a graph,
which a handler takes away from it; from 2^41 on the token at a chip's engine. -/
def State.writerGone (s : State) (core id : Nat) : Bool :=
  if id < 2 ^ 40 then (Table.look (s.core core).copies id).isNone && (Table.look (s.core core).graphs id).isNone
  else if id < 2 ^ 41 then ((s.wave? (id - 2 ^ 40)).map fun x => x.handler.isSome).getD true
  else (s.chip (id - 2 ^ 41)).tokens = []

/-- The turn of a region queue has come to something other than a copy: it goes on by itself, or has gone. -/
def State.notCopy (s : State) (core id : Nat) : State :=
  if s.writerGone core id then s.dirDrop fun q => q = .copy core id
  else if 2 ^ 40 ≤ id && s.clusters.any fun k => k.2.dir.any fun e => e.2.queue.contains (.copy core id) then
    s.post (.copyTransfer core id)
  else s

/-- COPY_TRANSFER (13 R275): the next transfer of a copy moves its bytes, waits, or faults; after the last the copy
retires. -/
def execCopyTransfer (core copy : Nat) (s : State) : Host.Outcome State Fault Refusal :=
  .next (match Table.look (s.core core).copies copy with
    | none => s.notCopy core copy
    | some c => match c.page with
      | some w =>
        if w.refused then s.pieceFault core copy c (faultCode (0x11, 0) c.idx) else s
      | none => match c.pieces with
        | [] => s.endCopy core copy c
        | p :: _ => match c.port, c.fill, c.held with
          | some q, true, none =>
            if !s.portUp q then ((s.copyFault core copy c (faultCode (0x16, 7) p.idx)).modCore core fun y =>
                { y with copies := Table.modify y.copies copy fun c => { c with pieces := [], held := some [] } }).post
                (.copyTransfer core copy)
            else match s.takeFrame core copy q c.size with
              | none => s.post (.copyTransfer core copy)
              | some s => s.post (.copyTransfer core copy)
          | _, _, _ => s.nextPiece core copy c p)

end Sys2Proof.Machine
end

