-- ==== Sys2Proof/Machine/Tensor.lean ====
section
/-! DEFINITION. Tensor descriptors and request records: `TCPY`, `KICK`, `CFENCE` (13 R278 to R282, R288; 19 R394; 20 R430;
22 R494). -/

namespace Sys2Proof.Machine

/-! ### Tensor descriptors (13 Table 13.2) -/

/-- A field of a descriptor read as one number: `n` bits at a byte offset. -/
def dfield (d off n : Nat) : Nat := bits d (8 * off) n

/-- A barrier field, 0xFFFF_FFFF for none (13 Tables 13.2, 13.3). -/
def barField (x : Nat) : Option Nat := if x = 0xFFFFFFFF then none else some (offset24 x)

/-- Dimensions, innermost first: extent and signed strides. -/
def tensorDims (d : Nat) : List (Nat × Int × Int) :=
  (List.range (dfield d 1 8)).map fun i =>
    (dfield d (0x68 + 4 * i) 32, signedOf 8 (dfield d (0xA0 + 8 * i) 64), signedOf 8 (dfield d (0x110 + 8 * i) 64))

/-- Extents and strides of dimensions that are not used are 0 (13 R279). -/
def unusedZero (d : Nat) : Bool :=
  ((List.range 14).filter fun i => decide (dfield d 1 8 ≤ i)).all fun i =>
    dfield d (0x68 + 4 * i) 32 = 0 && dfield d (0xA0 + 8 * i) 64 = 0 && dfield d (0x110 + 8 * i) 64 = 0

/-- Bytes of a tensor. -/
def tensorSize (d : Nat) : Nat := (tensorDims d).foldl (fun m e => m * e.1) 1 * 2 ^ dfield d 2 8

/-- The size fits its kind (13 R279, 17 R359). -/
def sizeOk (d : Nat) : Bool :=
  let n := tensorSize d
  decide (n ≤ 2 ^ 32) &&
  (match dfield d 0 8 with
    | 4 => decide (14 ≤ n) && decide (n ≤ 9212)
    | 5 => decide (80 ≤ n)
    | _ => true)

/-- The head conditions of 13 R281. -/
def headsOk (d : Nat) : Bool :=
  dfield d 0x20 64 = 0 ||
  (let e := 2 ^ dfield d 2 8
   match tensorDims d with
   | [] => false
   | (n, a, b) :: r =>
     n * e % 64 = 0 && a = e && b = e && dfield d 8 64 % 64 = 0 && dfield d 0x10 64 % 64 = 0 &&
     r.all fun x => x.2.1 % 64 = 0 && x.2.2 % 64 = 0)

/-- Reserved fields of a descriptor are 0. -/
def tensorReserved (d : Nat) : Bool :=
  dfield d 3 8 / 16 = 0 && dfield d 4 32 / 2 = 0 && dfield d 0x1C 32 = 0 && bits d (8 * 0x30) (8 * (0x68 - 0x30)) = 0

/-- The Ethernet port of a descriptor. -/
def tensorPort (d : Nat) : Option Nat :=
  match dfield d 0 8 with
  | 4 => some (dfield d 0x10 4)
  | 5 => some (dfield d 8 4)
  | _ => none

/-- The lowest detail that applies to a descriptor (13 Table 13.5). -/
def State.tensorFault (s : State) (wg d : Nat) : Option Nat :=
  if 5 < dfield d 0 8 then some 1
  else if dfield d 1 8 = 0 || 14 < dfield d 1 8 || 4 < dfield d 2 8 || !unusedZero d then some 2
  else if !sizeOk d then some 3
  else if (dfield d 3 4 ≠ 0 && dfield d 0 8 ≠ 0) || !s.receiversOk wg (dfield d 3 4) then some 4
  else if !headsOk d then some 5
  else if !tensorReserved d then some 6
  else match tensorPort d with
    | none => none
    | some p => if s.portUp p then none else some 7

/-- Strides of the positions in index order, for the side of an Ethernet copy that is a frame. -/
def seqStrides (e : Nat) : List (Nat × Int × Int) → List Int
  | [] => []
  | (n, _, _) :: r => (e : Int) :: seqStrides (e * n) r

/-- The transfers of a descriptor: data, then heads. -/
def tensorWork (d : Nat) (rcv : List Nat) (idx : Nat) : List Piece :=
  let kind := dfield d 0 8
  let e := 2 ^ dfield d 2 8
  let sp := kindSpaces kind
  let dims := tensorDims d
  let seqs := seqStrides e dims
  let src := dfield d 8 64
  let dst := dfield d 0x10 64
  match kind with
  | 4 => tensorPieces 0 src 4 0 e ((dims.zip seqs).map fun x => (x.1.1, x.1.2.1, x.2)) [] idx
  | 5 => tensorPieces 5 0 0 dst e ((dims.zip seqs).map fun x => (x.1.1, x.2, x.1.2.2)) [] idx
  | _ =>
    tensorPieces sp.1 src sp.2 dst e dims rcv idx ++
    (if dfield d 0x20 64 = 0 then []
     else match dims with
       | [] => []
       | (n, _, _) :: r => tensorPieces sp.1 (dfield d 0x20 64) sp.2 (dfield d 0x28 64) 2
           ((n * e / 64, 2, 2) :: r.map fun x => (x.1, x.2.1 / 32, x.2.2 / 32)) rcv idx)

/-- Starts the copy of a descriptor, or records its fault, at every receiver that MCAST names. -/
def State.startTensor (s : State) (core : Nat) (c : Copy) (d idx : Nat) : State :=
  let c := { c with bar := barField (dfield d 0x18 32), noEmpty := bit (dfield d 4 8) 0, num := idx
                    rcv := s.receivers c.wg (dfield d 3 4), mcast := dfield d 3 4 ≠ 0 }
  match s.tensorFault c.wg d with
  | some n => s.startFaulty core c (faultCode (0x16, n) idx)
  | none =>
    s.startChecked core { c with pieces := tensorWork d c.rcv idx, port := tensorPort d, size := tensorSize d
                                 fill := dfield d 0 8 = 5, held := if dfield d 0 8 = 4 then some [] else none }

/-- A fault of a command found before its copy starts, without a barrier to record it. -/
def tcpyTrap (k : Who) (code : Nat × Nat) (s : State) : Eff :=
  .done ((s.copyTrap k.w (k.x.issuePc.getD 0) k.x.seqno (faultCode code 0)).takeSeq k.w)

/-- The descriptor has been read. -/
def tcpyGo (k : Who) (bs : List Byte) (s : State) : Eff :=
  let c := k.copy s
  .done ((s.takeSeq k.w).startTensor k.wg.core c (natOfBytes bs) 0)

/-- `TCPY` (22 R494). -/
def tcpyEff (f : ExtArgs) (k : Who) (act : List Nat) (s : State) : Eff :=
  let l := act.headD 0
  if !s.copyRoom k.wg.core then .wait (s.notStalled k)
  else if f.md = 0 then
    let va := (s.readOpd k.x l f.lit .w64 .int f.a).setWidth 64
    if va.toNat % 128 ≠ 0 then tcpyTrap k (0x16, 6) s
    else match s.span k.xctx .read false va 384 with
      | (.page a, s) => .gone ((s.pageFault k 0 (k.x.issuePc.getD 0) a).takeSeq k.w)
      | (.park _, s) => tcpyTrap k (0x12, 0) s
      | (.wait, s) => .wait (s.notStalled k)
      | (.parts ps, s) =>
        let c := k.copy s
        if !s.priorDone k.wg.core c (ps.flatMap fun p => (List.range ((p.len + 63) / 64)).map fun i =>
            { p with pa := p.pa + 64 * i, len := 1 }) then .wait (s.notStalled k)
        else match s.engineBytes k.chip ps with
          | (.ok bs, s) => tcpyGo k bs s
          | (.error (.fault e), s) => tcpyTrap k e s
          | (.error _, s) => .wait (s.notStalled k)
  else
    let o := offset24 (s.readOpd k.x l f.lit .w32 .int f.a).toNat
    match (if 0x80000 ≤ o then none else s.scratchBytes k.g k.wg o 384) with
    | none => tcpyTrap k (0x16, 6) s
    | some bs =>
      if o % 128 ≠ 0 then tcpyTrap k (0x16, 6) s
      else if s.lostSeg bs then .gone (s.segmentLost k o)
      else if s.inT bs then s.waitRefetch k bs
      else if !(scratchLines bs).all s.lineFull then .wait (s.notStalled k)
      else tcpyGo k (s.readScratch bs) s

/-- `TCPY`. -/
def execTcpy (f : ExtArgs) (s : State) : Host.Outcome State Fault Refusal := .next (issue (.tcpy f) s (tcpyEff f))

/-! ### Request records and KICK (13 R282, 20 R430) -/

/-- The lowest detail that applies to a request record read as one number (13 Tables 13.3, 13.5). -/
def recordFault (d : Nat) : Option Nat :=
  if 3 < dfield d 0 8 then some 1
  else if 65536 < dfield d 4 32 then some 3
  else if dfield d 1 8 / 2 ≠ 0 || dfield d 0x1C 32 ≠ 0 then some 6
  else none

/-- Starts the copy of a request record, or records its fault. -/
def State.startRecord (s : State) (core : Nat) (c : Copy) (d idx : Nat) : State :=
  let c := { c with bar := barField (dfield d 0x18 32), noEmpty := bit (dfield d 1 8) 0, num := idx }
  match recordFault d with
  | some n => s.startFaulty core c (faultCode (0x16, n) idx)
  | none =>
    let sp := kindSpaces (dfield d 0 8)
    s.startChecked core
      { c with pieces := rangePieces sp.1 (dfield d 8 64) sp.2 (dfield d 0x10 64) (dfield d 4 32) [c.wg] idx }

/-- `KICK`. -/
def execKick (f : ExtArgs) (s : State) : Host.Outcome State Fault Refusal :=
  .next (issue (.kick f) s fun k act s =>
    if (s.core k.wg.core).kick.isSome then .wait (s.notStalled k)
    else
      let l := act.headD 0
      let o := offset24 (s.readOpd k.x l f.lit .w32 .int f.a).toNat
      let n := (s.readOpd k.x l f.lit .w32 .int f.b).toNat
      if n = 0 || 256 < n then tcpyTrap k (0x16, 3) s
      else if o % 32 ≠ 0 then tcpyTrap k (0x16, 6) s
      else if 0x80000 ≤ o || k.wg.segs * 4096 < o + 32 * n then tcpyTrap k (0x05, 0) s
      else
        let c := k.copy s
        let q : Kick := { off := o, n, next := 0, seq := c.seq, wave := k.w, wg := k.x.wg, gang := k.wg.gang, pc := c.pc
                          order := c.order, noToken := c.noToken }
        .done (((s.takeSeq k.w).modCore k.wg.core fun x => { x with kick := some q }).post (.kickRecordStart k.wg.core)))

/-- The copy of the next record of a kick register. -/
def Kick.copy (q : Kick) (g : Gang) (clk : Nat) : Copy :=
  { wave := q.wave, wg := q.wg, gang := q.gang, pieces := [], seq := q.seq, pc := q.pc, bar := none, noEmpty := false
    node := none, noToken := q.noToken, page := none, failed := none, port := none, size := 0, held := none, fill := false
    slot := none, issued := clk, order := q.order, sent := none, asid := g.asid, ptroot := g.ptroot, priv := g.priv, lseq := g.seq, shared := false
    rcv := [q.wg], mcast := false, num := q.next, missed := [], seen := [], lane := none, granted := false }

/-- KICK_RECORD_START (13 R282): the engine reads the next record, once its lines are full and a copy slot is free. -/
def execKickRecordStart (core : Nat) (s : State) : Host.Outcome State Fault Refusal :=
  .next (match (s.core core).kick with
    | none => s
    | some q => match s.party q.wg with
      | none => s.modCore core fun x => { x with kick := none }
      | some (x, g) =>
        let again := s.post (.kickRecordStart core)
        match s.scratchBytes g x (q.off + 32 * q.next) 32 with
        | none => s.modCore core fun x => { x with kick := none }
        | some bs =>
          if !s.copyRoom core then again
          else if s.inT bs then (again.askRefetch bs).2
          else if !(scratchLines bs).all s.lineFull then again
          else
            let s := s.startRecord core (q.copy g (s.core core).clk) (natOfBytes (s.readScratch bs)) q.next
            if q.next + 1 = q.n then s.modCore core fun x => { x with kick := none }
            else (s.modCore core fun x => { x with kick := some { q with next := q.next + 1 } }).post (.kickRecordStart core))

/-! ### CFENCE (13 R288) -/

/-- The wave's records in the kick register have all been read. -/
def Core.kicked (c : Core) (w : Nat) : Bool :=
  match c.kick with
  | none => true
  | some q => q.wave ≠ w

/-- Every copy and graph of a wave has retired. -/
def Core.copiesDone (c : Core) (w : Nat) : Bool :=
  c.kicked w && !(c.copies.any fun e => e.2.wave = w) && !(c.graphs.any fun e => e.2.wave = w)

/-- Every source byte and record of a wave's copies has been read: its copies have no transfer left, the copy nodes of
its graphs have ended. -/
def Core.copiesRead (c : Core) (w : Nat) : Bool :=
  c.kicked w && !(c.copies.any fun e => e.2.wave = w && e.2.pieces ≠ []) &&
  !(c.graphs.any fun e => e.2.wave = w && e.2.nodes.any fun n => (n.kind = 1 || n.kind = 2) && decide (n.st ≤ 1) && !n.ended)

/-- `CFENCE.done`. -/
def execCfenceDone (f : ExtArgs) (s : State) : Host.Outcome State Fault Refusal :=
  .next (issue (.cfenceDone f) s fun k _ s =>
    if (s.core k.wg.core).copiesDone k.w then .done s else .wait (s.notStalled k))

/-- `CFENCE.read`. -/
def execCfenceRead (f : ExtArgs) (s : State) : Host.Outcome State Fault Refusal :=
  .next (issue (.cfenceRead f) s fun k _ s =>
    if (s.core k.wg.core).copiesRead k.w then .done s else .wait (s.notStalled k))

end Sys2Proof.Machine
end

