-- ==== Sys2Proof/Machine/Convert.lean ====
section
/-! DEFINITION. Conversions: `CVT`, `CVTPK`, `UNPK`, `QSCL`, `HDMK`, `CMPRS`, and the block formats they and the tile
engines share (19 R396, R397, R400 to R403, R423, R424; 21 R463; 22 R500; 07 R136, R137, R144, R146 to R148, R159). -/

namespace Sys2Proof.Machine

/-! ### Integers (07 R132, R144) -/

/-- The value of an integer code. -/
def intAt (ty : Ty) (x : Nat) : Int :=
  let v := x % 2 ^ ty.bits
  if ty.signed && decide (2 ^ (ty.bits - 1) ≤ v) then (v : Int) - 2 ^ ty.bits else v

/-- Least and largest value of an integer type. -/
def intMin (ty : Ty) : Int := if ty.signed then -(2 ^ (ty.bits - 1) : Nat) else 0
def intMax (ty : Ty) : Int := if ty.signed then (2 ^ (ty.bits - 1) : Nat) - 1 else (2 ^ ty.bits : Nat) - 1

/-- An integer in a register or pair (07 R132). -/
def intOut (ty : Ty) (x : Int) : Quad := extendTo ty.signed (BitVec.ofInt ty.bits x)

/-- A floating value converted to an integer type (07 R144). -/
def toIntTy (ty : Ty) (mode : RoundMode) (x : Num) : Int × Word :=
  match x with
  | .nan _ => (0, flagNV)
  | .inf neg => (if neg then intMin ty else intMax ty, flagNV)
  | .fin neg m e =>
    let (u, inexact) := roundInt mode neg m e
    let v : Int := if neg then -(u : Int) else u
    if v < intMin ty then (intMin ty, flagNV)
    else if intMax ty < v then (intMax ty, flagNV)
    else (v, flagIf inexact flagNX)

/-- `CVT` in a lane (19 R401). -/
def cvtLane (f : ExtArgs) (s : State) (k : Who) (l : Nat) : LaneOut :=
  let sty := (Ty.ofCode (f.aux.extractLsb' 0 5)).getD .i32
  let x := s.readOpd k.x l f.lit sty.width sty.imm f.a
  let mode := (k.x.thread l).roundMode f.rm
  if sty.isInt then
    let v := intAt sty x.toNat
    if f.ty.isInt then
      .write (intOut f.ty (if f.md = 1 then max (intMin f.ty) (min (intMax f.ty) v) else v)) 0
    else fpOut k.g.mode (putAt f.ty mode [] ((Num.ofInt v).res, 0))
  else
    let n := numAt sty x
    if f.ty.isInt then
      let (v, fl) := toIntTy f.ty mode n
      fpOut k.g.mode (intOut f.ty v, fl)
    else fpOut k.g.mode (putAt f.ty mode [n] (n.res, 0))

/-- `CVT` (19 R400). -/
def execCvt (f : ExtArgs) (s : State) : Host.Outcome State Fault Refusal :=
  .next (issueLanes (.cvt f) s f.d f.ty.width (cvtLane f))

/-! ### The `.q4` codes (07 R137, 19 R403) -/

/-- Magnitudes of the codes of a `.q4` type in eighths, and the one that would follow with an unbounded exponent. -/
def q4Levels (ty : Nat) (neg : Bool) : List Nat × Nat :=
  match ty with
  | 0 => if neg then ([0, 8, 16, 24, 32, 40, 48, 56, 64], 72) else ([0, 8, 16, 24, 32, 40, 48, 56], 64)
  | 1 => ([0, 4, 8, 12, 16, 24, 32, 48], 64)
  | 2 => ([0, 1, 2, 4, 8, 16, 32, 64], 128)
  | _ => ([0, 8, 16, 24, 32, 48, 64, 96], 128)

/-- The value of a `.q4` code under a scale byte (07 R137, R148). -/
def q4Num (scale : Nat) (code : Nat) : Num :=
  let ty := scale / 64 % 4
  let e : Int := (scale % 64 : Nat) - 32
  if ty = 0 then
    let v : Int := if 8 ≤ code % 16 then (code % 16 : Int) - 16 else code % 16
    .fin (decide (v < 0)) v.natAbs e
  else .fin (bit code 3) ((q4Levels ty false).1.getD (code % 8) 0) (e - 3)

/-- The code of a sign and a magnitude index. -/
def q4Code (ty : Nat) (neg : Bool) (m : Nat) : Nat :=
  if ty = 0 then (if neg then (16 - m) % 16 else m) else (if neg then 8 else 0) + m

/-- Chooses between magnitude index `i` (level `a`) and the next (level `b`) for a magnitude v·2^e in eighths strictly
between them: whether the upper is taken. -/
def q4Up (mode : RoundMode) (neg : Bool) (i a b v : Nat) (e : Int) : Bool :=
  let twice := 2 * v * 2 ^ e.toNat
  let mid := (a + b) * 2 ^ (-e).toNat
  match mode with
  | .rne => decide (mid < twice) || (twice = mid && i % 2 = 1)
  | .rna => decide (mid ≤ twice)
  | .rz => false
  | .ru => !neg
  | .rd => neg

/-- The index of the level at or below a magnitude v·2^e in eighths, by its position in the list. -/
def q4Below (v : Nat) (e : Int) : List Nat → Nat → Nat
  | [], i => i
  | a :: r, i => if v * 2 ^ e.toNat < a * 2 ^ (-e).toNat then i else q4Below v e r (i + 1)

/-- Rounds a value to a `.q4` code of a type; `scale` is the block's (19 R403). Beyond the largest magnitude it
saturates, with OF and NX (07 R144). It never raises UF: 07 Table 7.2 gives no `.q4` type a smallest normal number (log 29: DESIGN CHOICE). -/
def q4Round (mode : RoundMode) (scale : Nat) (x : Num) : Nat × Word :=
  let ty := scale / 64 % 4
  match x with
  | .nan _ => (0, flagNV)
  | .inf neg => (q4Code ty neg ((q4Levels ty neg).1.length - 1), flagNV)
  | .fin neg m e0 =>
    if m = 0 then (q4Code ty (neg && ty ≠ 0) 0, 0)
    else
      let e := e0 + 3 - ((scale % 64 : Nat) - 32 : Int)
      let (ls, beyond) := q4Levels ty neg
      let top := ls.length - 1
      let i := q4Below m e ls 0 - 1
      let a := ls.getD i 0
      if a * 2 ^ (-e).toNat = m * 2 ^ e.toNat then (q4Code ty neg i, 0)
      else if i < top then
        let up := q4Up mode neg i a (ls.getD (i + 1) 0) m e
        (q4Code ty (neg && (ty ≠ 0 || up || i ≠ 0)) (if up then i + 1 else i), flagNX)
      else if decide (beyond * 2 ^ (-e).toNat ≤ m * 2 ^ e.toNat) || q4Up mode neg i a beyond m e then
        (q4Code ty neg top, flagOF ||| flagNX)
      else (q4Code ty neg top, flagNX)

/-! ### CVTPK and UNPK -/

/-- Packs codes of `w` bits, the first lowest. -/
def packCodes (w : Nat) : List Nat → Nat
  | [] => 0
  | c :: r => c + 2 ^ w * packCodes w r

/-- `CVTPK` in a lane (19 R402, R403). -/
def cvtpkLane (f : ExtArgs) (s : State) (k : Who) (l : Nat) : LaneOut :=
  let mode := (k.x.thread l).roundMode f.rm
  let two := f.ty = .f16 || f.ty = .bf16
  let src (o : Opd) : List Num :=
    if two then [numAt .f32 (s.readOpd k.x l f.lit .w32 .f32 o)]
    else
      let p := s.readOpd k.x l f.lit .w64 .f32 o
      [numAt .f32 p, numAt .f32 (p >>> 32)]
  let xs := src f.a ++ src f.b
  let scale := (k.rd s l f .w32 f.c).toNat % 256
  let rs := xs.map fun x =>
    if f.ty = .q4 then
      let (c, fl) := q4Round mode scale x
      (c, fl ||| sigNV [x])
    else
      let (c, fl) := (fmtOf f.ty).put mode x.res
      (c, fl ||| sigNV [x])
  fpOut k.g.mode (BitVec.ofNat 128 (packCodes f.ty.bits (rs.map fun r => r.1)), rs.foldl (fun a r => a ||| r.2) 0)

/-- `CVTPK` (19 R402). -/
def execCvtpk (f : ExtArgs) (s : State) : Host.Outcome State Fault Refusal :=
  .next (issueLanes (.cvtpk f) s f.d .w32 (cvtpkLane f))

/-- `UNPK` in a lane (22 R500). -/
def unpkLane (f : ExtArgs) (s : State) (k : Who) (l : Nat) : LaneOut :=
  let a := (k.srcA s l f).toNat
  let scale := (k.rd s l f .w32 f.c).toNat % 256
  let n := if f.ty = .f16 || f.ty = .bf16 then 2 else 4
  let xs := (List.range n).map fun i =>
    let c := a / 2 ^ (f.ty.bits * i) % 2 ^ f.ty.bits
    if f.ty = .q4 then q4Num scale c else (fmtOf f.ty).read c
  let cs := xs.map fun x => (fmtF32.put .rne x.res).1
  fpOut k.g.mode (BitVec.ofNat 128 (packCodes 32 cs), sigNV xs)

/-- `UNPK` (22 R499). -/
def execUnpk (f : ExtArgs) (s : State) : Host.Outcome State Fault Refusal :=
  .next (issueLanes (.unpk f) s f.d (if f.ty = .f16 || f.ty = .bf16 then .w64 else .w128) (unpkLane f))

/-! ### Heads and scaled values (07 R147, R148) -/

/-- The format a head's format byte names (07 Table 7.4). -/
inductive HeadFmt where
  | int8 | q4
  | float (f : Fmt) (width : Nat)
  deriving DecidableEq, Repr

/-- Raw and illegal heads name none. -/
def headFmt (b : Nat) : Option HeadFmt :=
  match b with
  | 0x10 => some .int8
  | 0x11 => some (.float fmtE4m3 8)
  | 0x12 => some (.float fmtE5m2 8)
  | 0x20 => some .q4
  | 0x30 => some (.float fmtF16 16)
  | 0x31 => some (.float fmtBf16 16)
  | 0x40 => some (.float fmtF32 32)
  | _ => none

/-- Element width in bits. -/
def HeadFmt.width : HeadFmt → Nat
  | .int8 => 8
  | .q4 => 4
  | .float _ w => w

/-- A value times 2^n. -/
def Num.scale (x : Num) (n : Int) : Num :=
  match x with
  | .fin neg m e => .fin neg m (e + n)
  | x => x

/-- The scaled value of an element code under a scale byte (07 R148). -/
def HeadFmt.value (h : HeadFmt) (scale : Nat) (code : Nat) : Num :=
  match h with
  | .q4 => q4Num scale code
  | .int8 => if scale = 255 then .nan false else (Num.ofInt (intAt .i8 code)).scale ((scale : Int) - 127)
  | .float f w =>
    if w = 8 && scale = 255 then .nan false else (f.read (code % 2 ^ w)).scale ((scale : Int) - 127)

/-- `QSCL` in a lane (21 R463). -/
def qsclLane (f : ExtArgs) (s : State) (k : Who) (l : Nat) : LaneOut :=
  let head := (k.rd s l f .w32 f.b).toNat
  let fb := head % 256
  let scale := head / 256 % 256
  let a := s.readOpd k.x l f.lit .w32 (if f.md = 0 then .f32 else .int) f.a
  let mode := (k.x.thread l).roundMode f.rm
  match headFmt fb with
  | none => fpOut k.g.mode (0, flagNV)
  | some h =>
    if f.md = 0 then
      let x := numAt .f32 a
      if h.width = 8 && scale = 255 then fpOut k.g.mode (0, flagNV)
      else
        let (c, fl) : Nat × Word := match h with
          | .q4 => q4Round mode scale x
          | .int8 =>
            let (v, fl) := toIntTy .i8 mode (x.scale (127 - (scale : Int)))
            ((BitVec.ofInt 8 v).toNat, fl)
          | .float g _ => g.put mode (x.scale (127 - (scale : Int))).res
        fpOut k.g.mode (BitVec.ofNat 128 c, fl ||| sigNV [x])
    else
      let x := h.value scale a.toNat
      fpOut k.g.mode (putAt .f32 mode [x] (x.res, 0))

/-- `QSCL` (21 R462). -/
def execQscl (f : ExtArgs) (s : State) : Host.Outcome State Fault Refusal :=
  .next (issueLanes (.qscl f) s f.d .w32 (qsclLane f))

/-! ### HDMK -/

/-- The least of `n` exponents from `e` on with m ≤ L·2^(e−bias), else the last. -/
def leastScale : Nat → Nat → Num → Nat → Int → Nat
  | 0, e, _, _, _ => e
  | n + 1, e, m, L, bias =>
    if (Num.fin false L ((e : Int) - bias)).lt m then leastScale n (e + 1) m L bias else e

/-- The scale byte that `HDMK.make` chooses for a largest magnitude (19 R424). -/
def makeScale (ty : Ty) (q : Nat) (m : Num) : Nat :=
  match ty with
  | .f16 | .bf16 | .f32 => 127
  | .q4 =>
    let L := match q with
      | 0 => 7
      | 1 => 6
      | 2 => 8
      | _ => 12
    (if m.isNan || m.isZero then 32 else leastScale 63 0 m L 32) + 64 * q
  | _ =>
    let L := match ty with
      | .i8 => 127
      | .e4m3 => 448
      | _ => 57344
    if m.isNan then 255 else if m.isZero then 127 else leastScale 254 0 m L 127

/-- The format byte of a type. -/
def headByte : Ty → Nat
  | .i8 => 0x10
  | .e4m3 => 0x11
  | .e5m2 => 0x12
  | .q4 => 0x20
  | .f16 => 0x30
  | .bf16 => 0x31
  | _ => 0x40

/-- `HDMK` in a lane (19 R424). -/
def hdmkLane (f : ExtArgs) (s : State) (k : Who) (l : Nat) : LaneOut :=
  if f.md = 1 then
    let a := (k.rd s l f .w32 f.a).toNat % 2 ^ 16
    let b := (k.rd s l f .w32 f.b).toNat % 2 ^ 16
    .write (BitVec.ofNat 128 (a + 2 ^ 16 * b)) 0
  else
    let m : Num := match numAt .f32 (s.readOpd k.x l f.lit .w32 .f32 f.a) with
      | .inf _ => .inf false
      | .fin _ m e => .fin false m e
      | x => x
    let q := if f.ty = .q4 then (k.rd s l f .w32 f.b).toNat % 4 else 0
    .write (BitVec.ofNat 128 (headByte f.ty + 256 * makeScale f.ty q m)) 0

/-- `HDMK` (19 R423). -/
def execHdmk (f : ExtArgs) (s : State) : Host.Outcome State Fault Refusal :=
  .next (issueLanes (.hdmk f) s f.d .w32 (hdmkLane f))

/-! ### CMPRS (19 R396, R397) -/

/-- `x` is larger than `y` in the magnitude order of 07 R159. -/
def magLess (x y : Num) : Bool :=
  match x, y with
  | .nan _, _ => false
  | _, .nan _ => true
  | .inf _, _ => false
  | _, .inf _ => true
  | .fin _ m e, .fin _ n g => (Num.fin false m e).lt (.fin false n g)

/-- The index of the largest of some elements, the lowest index on a tie. -/
def largestIdx (xs : List (Nat × Num)) : Option Nat :=
  (xs.foldl (fun (b : Option (Nat × Num)) x => match b with
    | none => some x
    | some y => if magLess y.2 x.2 then some x else some y) none).map fun e => e.1

/-- The two kept indices, ascending. -/
def keepTwo (xs : List Num) : Nat × Nat :=
  let es := xs.zipIdx.map fun e => (e.2, e.1)
  let i := (largestIdx es).getD 0
  let j := (largestIdx (es.filter fun e => e.1 ≠ i)).getD 0
  (min i j, max i j)

/-- `CMPRS` in a lane. -/
def cmprsLane (f : ExtArgs) (s : State) (k : Who) (l : Nat) : LaneOut :=
  let w := f.ty.bits
  let src : Width := if w = 32 then .w128 else if w = 16 then .w64 else .w32
  let a := (s.readOpd k.x l f.lit src f.ty.imm f.a).toNat
  let scale := if f.ty = .q4 then (k.rd s l f .w32 f.b).toNat % 256 else 0
  let codes := (List.range 4).map fun i => a / 2 ^ (w * i) % 2 ^ w
  let (i, j) := keepTwo (codes.map fun c => if f.ty = .q4 then q4Num scale c else (fmtOf f.ty).read c)
  if f.md = 1 then .write (BitVec.ofNat 128 (i + 4 * j)) 0
  else .write (BitVec.ofNat 128 (codes.getD i 0 + 2 ^ w * codes.getD j 0)) 0

/-- `CMPRS` (19 R396). -/
def execCmprs (f : ExtArgs) (s : State) : Host.Outcome State Fault Refusal :=
  .next (issueLanes (.cmprs f) s f.d (if f.ty = .f32 && f.md = 0 then .w64 else .w32) (cmprsLane f))

end Sys2Proof.Machine
end

