-- ==== Sys2Proof/Machine/Slots.lean ====
section
/-! DEFINITION. Operand and accumulator slots: claims, fills, streams, initial values and read-out (14 R291 to R296, R302 to
R305; 18 R369 to R374; 21 R453, R454). -/

namespace Sys2Proof.Machine

/-! ### Slots (14 R291) -/

/-- The physical operand slot of a claimed logical one. -/
def Workgroup.oslot (x : Workgroup) (n : Nat) : Option Nat := if x.oclaim.contains n then x.oslots[n]? else none

/-- The physical accumulator slot of a claimed logical one. -/
def Workgroup.aslot (x : Workgroup) (n : Nat) : Option Nat := if x.aclaim.contains n then x.aslots[n]? else none

/-- An accumulator slot without mode. -/
def ASlot.empty : ASlot := { mode := none, base := 0, elems := [], mask := 0, nx := false, nv := false }

/-- An element of a slot. -/
def ASlot.elem (a : ASlot) (i : Nat) : Quad := Table.at a.elems i a.base

/-- An accumulator slot of a cluster. -/
def State.aslot (s : State) (cluster p : Nat) : ASlot := Table.at (s.cluster cluster).aslots p ASlot.empty
def State.setAslot (s : State) (cluster p : Nat) (a : ASlot) : State :=
  s.modCluster cluster fun c => { c with aslots := Table.put c.aslots p a }

/-- The first of the lowest run of `n` free slots among `total` (14 R293). -/
def lowestRun (total n : Nat) (claimed : List Nat) : Option Nat :=
  (List.range (total + 1 - n)).find? fun f => (List.range n).all fun i => !claimed.contains (f + i)

/-- The numbers from `f` on. -/
def run (f n : Nat) : List Nat := (List.range n).map fun i => f + i

/-- A claim: PROTECTION for a bad count, else the run or all ones. -/
def claimEff (i : Instr) (f : ExtArgs) (most : Nat) (slots claimed : Workgroup → List Nat)
    (take : Who → List Nat → State → State) (s : State) : State :=
  issue i s fun k act s =>
    let n := (s.readOpd k.x (act.headD 0) f.lit .w32 .int f.a).toNat
    if n = 0 || most < n then .done (s.parkLanes k f.d .w32 i.form.length [(act.headD 0, 0x12, BitVec.ofNat 64 n)])
    else match lowestRun (slots k.wg).length n (claimed k.wg) with
      | none => .done (s.setLanes k.w act fun _ t => t.writeReg f.d .w32 0xFFFFFFFF)
      | some a => .done ((take k (run a n) s).setLanes k.w act fun _ t => t.writeReg f.d .w32 (BitVec.ofNat 128 a))

/-- `OCLM` (14 R293, 21 R454): the slots' contents are undefined from here (18 R370). -/
def execOclm (f : ExtArgs) (s : State) : Host.Outcome State Fault Refusal :=
  .next (claimEff (.oclm f) f 64 Workgroup.oslots Workgroup.oclaim (fun k ns s =>
    let s := s.modWg k.x.wg fun x => { x with oclaim := x.oclaim ++ ns }
    ns.foldl (fun s n => match k.wg.oslots[n]? with
      | none => s
      | some p =>
        let bs := s.freeBytes 4224
        let o : OSlot := { data := Memory.writeBytes [] 0 (bs.take 4096), heads := putHeads [] 0 (bs.drop 4096) }
        (s.modCluster (clusterOfCore k.wg.core) fun c => { c with oslots := Table.put c.oslots p o }).useFrees 4224) s) s)

/-- `ACLM` (18 R370): the slots have no mode. -/
def execAclm (f : ExtArgs) (s : State) : Host.Outcome State Fault Refusal :=
  .next (claimEff (.aclm f) f 16 Workgroup.aslots Workgroup.aclaim (fun k ns s =>
    let s := s.modWg k.x.wg fun x => { x with aclaim := x.aclaim ++ ns }
    ns.foldl (fun s n => match k.wg.aslots[n]? with
      | none => s
      | some p => s.setAslot (clusterOfCore k.wg.core) p ASlot.empty) s) s)

/-! ### Task records as numbers (14 Tables 14.2, 14.3) -/

/-- The operand slots that a source names, none for a stream. -/
def srcSlots (src kt : Nat) : List Nat := if bit src 31 then [] else run (src % 2 ^ 12) kt

/-- An accepted task that has not ended. -/
def Task.live (t : Task) : Bool := t.st = .accepted || t.st = .running

/-- A field of a task's record. -/
def Task.field (t : Task) (off n : Nat) : Nat := dfield t.record.toNat off n

/-- The operand slots that a task names. -/
def Task.sources (t : Task) : List Nat := srcSlots (t.field 8 32) (t.field 4 32) ++ srcSlots (t.field 0xC 32) (t.field 4 32)

/-- The accumulator slot that a task names. -/
def Task.cslot (t : Task) : Nat := t.field 2 8

/-- Live tasks of a workgroup. -/
def Cluster.tasksOf (c : Cluster) (wg : Nat) : List Task :=
  (c.tasks.filter fun e => e.2.wg = wg && e.2.live && !e.2.bad).map fun e => e.2

/-- Slots in the ring of a stream of a workgroup. -/
def Cluster.ringSlots (c : Cluster) (wg : Nat) : List Nat :=
  (c.streams.filter fun r => r.wg = wg).flatMap fun r => run r.first r.len

/-- A release: PROTECTION for a bad run, else a wait for the tasks and streams that name a slot, then the release. -/
def releaseEff (i : Instr) (f : ExtArgs) (most : Nat) (slots claimed : Workgroup → List Nat)
    (named : Who → State → List Nat) (drop : Who → List Nat → State → State) (s : State) : State :=
  issue i s fun k act s =>
    let a := (s.readOpd k.x (act.headD 0) f.lit .w32 .int f.a).toNat
    let n := (s.readOpd k.x (act.headD 0) f.lit .w32 .int f.b).toNat
    if n = 0 || most < n || (slots k.wg).length < a + n || (run a n).any (fun m => !(claimed k.wg).contains m) then
      .done (s.parkLanes k .none .w32 i.form.length [(act.headD 0, 0x12, BitVec.ofNat 64 a)])
    else if (run a n).any fun m => (named k s).contains m then .wait (s.notStalled k)
    else .done (drop k (run a n) s)

/-- `OREL` (14 R293, 21 R454). -/
def execOrel (f : ExtArgs) (s : State) : Host.Outcome State Fault Refusal :=
  .next (releaseEff (.orel f) f 64 Workgroup.oslots Workgroup.oclaim
    (fun k s =>
      let c := s.cluster (clusterOfCore k.wg.core)
      (c.tasksOf k.x.wg).flatMap Task.sources ++ c.ringSlots k.x.wg)
    (fun k ns s => s.modWg k.x.wg fun x => { x with oclaim := x.oclaim.filter fun n => !ns.contains n }) s)

/-- Releases accumulator slots: they lose their mode, and nothing reads their contents until `AINI` sets them (18 R370). -/
def State.dropAcc (s : State) (wg : Nat) (ns : List Nat) : State :=
  match s.wg? wg with
  | none => s
  | some x =>
    let s := s.modWg wg fun x => { x with aclaim := x.aclaim.filter fun n => !ns.contains n }
    ns.foldl (fun s n => match x.aslots[n]? with
      | none => s
      | some p => s.setAslot (clusterOfCore x.core) p ASlot.empty) s

/-- `AREL` (18 R370). -/
def execArel (f : ExtArgs) (s : State) : Host.Outcome State Fault Refusal :=
  .next (releaseEff (.arel f) f 16 Workgroup.aslots Workgroup.aclaim
    (fun k s => ((s.cluster (clusterOfCore k.wg.core)).tasksOf k.x.wg).map Task.cslot)
    (fun k ns s => s.dropAcc k.x.wg ns) s)

/-! ### AINI and ALD (14 R302, R303; 18 R371 to R374) -/

/-- The initial value of every element: v·2^80, or the binary128 value of v. -/
def ainiValue (wide : Bool) (v : Quad) : Quad :=
  if wide then BitVec.ofNat 128 (fmtQuad.put .rne (numAt .f32 v).res).1
  else ((v.setWidth 32).signExtend 128) <<< 80

/-- A slot whose contents are undefined (14 R302): every element, its mask bit and the status are free values. -/
def ASlot.unknown (n : Nat) (mode : Option AccMode) : ASlot :=
  { mode, base := 0, elems := (List.range 1024).map fun i => (i, Config.freeValue (n + i))
    mask := (Config.freeValue (n + 1024) ++ Config.freeValue (n + 1025) ++ Config.freeValue (n + 1026) ++ Config.freeValue (n + 1027) ++
      Config.freeValue (n + 1028) ++ Config.freeValue (n + 1029) ++ Config.freeValue (n + 1030) ++ Config.freeValue (n + 1031))
    nx := (Config.freeValue (n + 1032)).getLsbD 0, nv := (Config.freeValue (n + 1032)).getLsbD 1 }

/-- An accumulator slot that an accepted task names and that no `TWAIT` has covered (14 R201). -/
def Workgroup.hotAcc (x : Workgroup) (n : Nat) : Bool := x.hot.any fun e => e.2.1 = n

/-- The same of an operand slot. -/
def Workgroup.hotOp (x : Workgroup) (n : Nat) : Bool := x.hot.any fun e => e.2.2.contains n

/-- `AINI` in a lane. -/
def State.ainiLane (s : State) (k : Who) (f : ExtArgs) (len l : Nat) : State :=
  let n := (s.readOpd k.x l f.lit .w32 .int f.a).toNat
  match k.wg.aslot n with
  | none => s.parkLanes k .none .w32 len [(l, 0x12, BitVec.ofNat 64 n)]
  | some p =>
    let wide := decide (f.md = 1)
    let mode : Option AccMode := some (if wide then .wide else .exact)
    let cluster := clusterOfCore k.wg.core
    if k.wg.hotAcc n then (s.setAslot cluster p (ASlot.unknown s.free mode)).useFrees 1033
    else
      let v := s.readOpd k.x l f.lit .w32 (if wide then .f32 else .int) f.b
      s.setAslot cluster p { ASlot.empty with mode, base := ainiValue wide v }

/-- `AINI`. -/
def execAini (f : ExtArgs) (s : State) : Host.Outcome State Fault Refusal :=
  .next (issue (.aini f) s fun k act s =>
    .done (act.foldl (fun s l => s.ainiLane k f (Instr.length (.aini f)) l) s))

/-- The exact value of an element (14 Table 14.4, 07 R152, R157). -/
def ASlot.num (a : ASlot) (i : Nat) : Num :=
  if a.mode = some .wide then fmtQuad.read (a.elem i).toNat
  else if a.mask.getLsbD i then .nan false
  else
    let x := (a.elem i).toInt
    .fin (decide (x < 0)) x.natAbs (-80)

/-- What `ALD` reads of an element (14 Table 14.4). -/
def aldValue (f : ExtArgs) (mode : RoundMode) (a : ASlot) (i : Nat) : Quad × Word :=
  if f.md = 1 then
    (BitVec.ofNat 128 (a.nx.toNat + 2 * a.nv.toNat + (if a.mode = some .wide then 4 else 0) + 8 * (a.mask.getLsbD i).toNat), 0)
  else match f.ty with
    | .b128 => (a.elem i, 0)
    | .i32 =>
      let (v, fl) := toIntTy .i32 mode (a.num i)
      (intOut .i32 v, fl)
    | ty => putAt ty mode [] ((a.num i).res, 0)

/-- `ALD` in a lane; an element that a task may be writing reads as a free value, which sets no flag and parks no lane (00 R6, 09 R201). -/
def aldLane (f : ExtArgs) (s : State) (k : Who) (l : Nat) : LaneOut :=
  let n := (s.readOpd k.x l f.lit .w32 .int f.a).toNat
  let i := (s.readOpd k.x l f.lit .w32 .int f.b).toNat % 1024
  match k.wg.aslot n with
  | none => .park 0x12 (BitVec.ofNat 64 n) 0
  | some p =>
    let a := s.aslot (clusterOfCore k.wg.core) p
    if a.mode = none then .park 0x12 (BitVec.ofNat 64 n) 0
    else
      let mode := (k.x.thread l).roundMode f.rm
      let u := Config.freeValue (s.free + 2 * l)
      let v := Config.freeValue (s.free + 2 * l + 1)
      if !k.wg.hotAcc n then fpOut k.g.mode (aldValue f mode a i)
      else if f.md = 1 then
        .write (aldValue f mode { a with mask := if v.getLsbD 0 then BitVec.allOnes 1024 else 0, nx := v.getLsbD 1, nv := v.getLsbD 2 } i).1 0
      else .write (if f.ty.bits = 16 then (u.setWidth 16).setWidth 128 else u) 0

/-- The width of an `ALD` result. -/
def aldWidth (f : ExtArgs) : Width := if f.ty = .b128 then .w128 else .w32

/-- `ALD`: a long-latency result; the destination of a lane that the conversion parks, which is marked empty before it, holds a free
value (07 R143). -/
def execAld (f : ExtArgs) (s : State) : Host.Outcome State Fault Refusal :=
  .next (issue (.ald f) s fun k act s =>
    let outs := act.map fun l => (l, aldLane f s k l)
    let s' := outs.foldl (fun s e => s.setLanes k.w [e.1] fun _ t => match e.2 with
      | .write _ fl => t.setFlags fl
      | .park c a fl => (t.setFlags fl).park c a (destOf f.d (aldWidth f)) (Instr.length (.ald f))) s
    let s' := if k.wg.hot = [] then s' else s'.useFrees 64
    let s' := s'.fillParked k.w (outs.filterMap fun e => match e.2 with
      | .park c _ _ => if c = 0x12 then none else some e.1
      | .write _ _ => none) f.d (aldWidth f)
    let vals := outs.filterMap fun e => match e.2 with
      | .write x _ => some (laneValue e.1 (aldWidth f) x)
      | .park _ _ _ => none
    if vals = [] || f.d = .zero then .done s'
    else
      let (s', id) := s'.defer k .value f.d (aldWidth f) vals (k.x.issuePc.getD 0) none
      .done (s'.post (.loadReturn k.w id)))

/-! ### Streams (14 R304, R305) -/

/-- The lowest entry that a subscriber has not consumed, moved over those consumed out of order. -/
def consumeNext : Nat → Subscriber → Subscriber
  | 0, u => u
  | n + 1, u => if u.later.contains u.consumed then
      consumeNext n { u with consumed := u.consumed + 1, later := u.later.filter fun e => e ≠ u.consumed } else u

/-- A subscriber consumes an entry. -/
def Subscriber.consume (u : Subscriber) (e : Nat) : Subscriber :=
  consumeNext (u.later.length + 1) { u with later := u.later ++ [e] }

/-- A posted entry that some subscriber has not consumed occupies a ring slot. -/
def Stream.busy (r : Stream) (slot : Nat) : Bool :=
  r.subs.any fun u => (List.range r.posted).any fun e =>
    decide (u.consumed ≤ e) && !u.later.contains e && r.first + e % r.len = slot

/-- A closed stream is removed when every posted entry has been consumed (14 R305). -/
def Stream.over (r : Stream) : Bool := r.closed && r.subs.all fun u => decide (r.posted ≤ u.consumed)

/-- Changes the streams of a cluster; those that are over go. -/
def State.modStreams (s : State) (cluster : Nat) (f : Stream → Stream) : State :=
  s.modCluster cluster fun c => { c with streams := (c.streams.map f).filter fun r => !r.over }

/-- The stream of a name. -/
def Cluster.stream (c : Cluster) (name : Nat) : Option Stream := c.streams.find? fun r => r.name = name

/-- The subscription of a workgroup's handle. -/
def Cluster.subOf (c : Cluster) (wg handle : Nat) : Option (Stream × Subscriber) :=
  c.streams.findSome? fun r => (r.subs.find? fun u => u.wg = wg && u.handle = handle).map fun u => (r, u)

/-- The subscription of a serial number. -/
def Cluster.subBy (c : Cluster) (id : Nat) : Option (Stream × Subscriber) :=
  c.streams.findSome? fun r => (r.subs.find? fun u => u.id = id).map fun u => (r, u)

/-- Changes the subscription of a serial number. -/
def State.modSub (s : State) (cluster id : Nat) (f : Subscriber → Subscriber) : State :=
  s.modStreams cluster fun r => { r with subs := r.subs.map fun u => if u.id = id then f u else u }

/-- The name operand (21 R454). -/
def nameOf (s : State) (k : Who) (f : ExtArgs) (act : List Nat) : Nat :=
  (s.readOpd k.x (act.headD 0) f.lit .w32 .int f.a).toNat % 2 ^ 16

/-- The second operand of a stream instruction. -/
def streamArg (s : State) (k : Who) (f : ExtArgs) (act : List Nat) : Nat :=
  (s.readOpd k.x (act.headD 0) f.lit .w32 .int f.b).toNat

/-- Writes a status or handle to every active lane. -/
def State.answer (s : State) (k : Who) (act : List Nat) (d : Opd) (x : Nat) : State :=
  s.setLanes k.w act fun _ t => t.writeReg d .w32 (BitVec.ofNat 128 x)

/-- `OSTR.open`: the lowest status that applies. -/
def execOstrOpen (f : ExtArgs) (s : State) : Host.Outcome State Fault Refusal :=
  .next (issue (.ostrOpen f) s fun k act s =>
    let cluster := clusterOfCore k.wg.core
    let c := s.cluster cluster
    let name := nameOf s k f act
    let ring := streamArg s k f act
    let first := bits ring 0 12
    let len := bits ring 16 7
    if (c.stream name).isSome then .done (s.answer k act f.d 1)
    else if 64 ≤ c.streams.length then .done (s.answer k act f.d 2)
    else if len = 0 || 64 < len || (run first len).any (fun n => !k.wg.oclaim.contains n) then .done (s.answer k act f.d 4)
    else
      let r : Stream := { name, wg := k.x.wg, first, len, posted := 0, closed := false, subs := [] }
      .done ((s.modCluster cluster fun c => { c with streams := c.streams ++ [r] }).answer k act f.d 0))

/-- Fills of a wave in flight, for which `OPF` and `OSTR.post` wait (14 R296). -/
def Core.filling (c : Core) (w : Nat) : Bool := c.copies.any fun e => e.2.wave = w && e.2.fill && e.2.slot.isSome

/-- The wait of `OPF` (14 R296, R200): a release at workgroup scope, and every earlier fill complete. A subscription is
complete when its instruction is. -/
def State.opfWait (s : State) (k : Who) : Bool × State :=
  match s.releaseWait k .wg 0 with
  | (false, s) => (false, s)
  | (true, s) => if (s.core k.wg.core).filling k.w then (false, s.notStalled k) else (true, s)

/-- `OPF` (14 R296): the wave's fills are covered. -/
def execOpf (s : State) : Host.Outcome State Fault Refusal :=
  .next (issue .opf s fun k _ s =>
    match s.opfWait k with
    | (false, s) => .wait s
    | (true, s) => .done (s.modWg k.x.wg fun x => { x with fills := x.fills.filter fun e => e.1 ≠ k.w }))

/-- Posting `n` more entries would run more than L beyond an unconsumed entry (21 R454). -/
def Stream.full (r : Stream) (n : Nat) : Bool := r.subs.any fun u => decide (u.consumed + r.len < r.posted + n)

/-- `OSTR.post`: a closed stream takes no further posts (14 R305), status 1 (log 16: DESIGN CHOICE). The posted entries' fills are
covered. -/
def execOstrPost (f : ExtArgs) (s : State) : Host.Outcome State Fault Refusal :=
  .next (issue (.ostrPost f) s fun k act s =>
    match s.opfWait k with
    | (false, s) => .wait s
    | (true, s) =>
      let cluster := clusterOfCore k.wg.core
      let name := nameOf s k f act
      let n := streamArg s k f act
      match (s.cluster cluster).stream name with
      | none => .done (s.answer k act f.d 1)
      | some r =>
        if r.closed then .done (s.answer k act f.d 1)
        else if r.wg ≠ k.x.wg then .done (s.answer k act f.d 3)
        else if n = 0 || 64 < n then .done (s.answer k act f.d 4)
        else if r.full n then .wait (s.notStalled k)
        else
          let slots := (run r.posted n).map fun e => r.first + e % r.len
          let s := s.modStreams cluster fun q => if q.name = name then { q with posted := q.posted + n } else q
          let s := s.modWg k.x.wg fun x => { x with fills := x.fills.filter fun e => !(e.1 = k.w && slots.contains e.2) }
          .done (s.answer k act f.d 0))

/-- `OSTR.close` (14 R305). -/
def execOstrClose (f : ExtArgs) (s : State) : Host.Outcome State Fault Refusal :=
  .next (issue (.ostrClose f) s fun k act s =>
    let cluster := clusterOfCore k.wg.core
    let name := nameOf s k f act
    match (s.cluster cluster).stream name with
    | none => .done (s.answer k act f.d 1)
    | some r =>
      if r.wg ≠ k.x.wg then .done (s.answer k act f.d 3)
      else .done ((s.modStreams cluster fun q => if q.name = name then { q with closed := true } else q).answer k act f.d 0))

/-- `OSUB`: the lowest free handle of the workgroup, all ones when the name is unknown or a limit is reached. -/
def execOsub (f : ExtArgs) (s : State) : Host.Outcome State Fault Refusal :=
  .next (issue (.osub f) s fun k act s =>
    let cluster := clusterOfCore k.wg.core
    let c := s.cluster cluster
    let name := nameOf s k f act
    match c.stream name, (List.range 8).find? fun h => (c.subOf k.x.wg h).isNone with
    | some r, some h =>
      if 16 ≤ r.subs.length then .done (s.answer k act f.d 0xFFFFFFFF)
      else
        let u : Subscriber := { id := s.serial, wg := k.x.wg, handle := h, reserved := r.posted, consumed := r.posted, later := [] }
        let s := s.modStreams cluster fun q => if q.name = name then { q with subs := q.subs ++ [u] } else q
        .done ({ s with serial := s.serial + 1 }.answer k act f.d h)
    | _, _ => .done (s.answer k act f.d 0xFFFFFFFF))

/-- Ends a subscription: its unread entries count as consumed. -/
def State.dropSub (s : State) (cluster id : Nat) : State :=
  s.modStreams cluster fun r => { r with subs := r.subs.filter fun u => u.id ≠ id }

/-- `OSUB.drop` (21 R454). -/
def execOsubDrop (f : ExtArgs) (s : State) : Host.Outcome State Fault Refusal :=
  .next (issue (.osubDrop f) s fun k act s =>
    let cluster := clusterOfCore k.wg.core
    let h := (s.readOpd k.x (act.headD 0) f.lit .w32 .int f.a).toNat
    match (s.cluster cluster).subOf k.x.wg h with
    | none => .done s
    | some (_, u) => .done (s.dropSub cluster u.id))

/-! ### OFILL (14 R295) -/

/-- The address operands of `OFILL`: of the data, and of the heads where they come from memory. -/
def State.fillAddrs (s : State) (k : Who) (f : ExtArgs) (l : Nat) : Nat × Option Nat :=
  let glob := f.md = 0 || f.md = 2
  let rd (o : Opd) : Nat := if glob then (s.readOpd k.x l f.lit .w64 .int o).toNat
    else offset24 (s.readOpd k.x l f.lit .w32 .int o).toNat
  (rd f.b, if f.c = .zero then none else some (rd f.c))

/-- Space of the memory side: 0 global, 1 scratchpad. -/
def ofillSpace (f : ExtArgs) : Nat := if f.md = 0 || f.md = 2 then 0 else 1

/-- What `OFILL` checks before anything moves: the slot, then the alignment of the addresses. -/
def ofillFault (k : Who) (n : Nat) (a : Nat × Option Nat) : Option (BitVec 8 × DWord) :=
  if (k.wg.oslot n).isNone then some (0x12, BitVec.ofNat 64 n)
  else if a.1 % 64 ≠ 0 then some (0x04, BitVec.ofNat 64 a.1)
  else if (a.2.getD 0) % 2 ≠ 0 then some (0x04, BitVec.ofNat 64 (a.2.getD 0))
  else none

/-- The lowest active lane parks, or the copy of physical slot `p` is started by `go`; a slot of an open ring that is not free holds
the wave, whatever the kind of `OFILL` (14 R304). The command takes its number either way (04 R86). -/
def ofillEff (i : Instr) (f : ExtArgs) (go : Who → Nat → Nat → Nat × Option Nat → Copy → State → Eff) (s : State) : State :=
  issue i s fun k act s =>
    let l := act.headD 0
    let n := (s.readOpd k.x l f.lit .w32 .int f.a).toNat
    let a := s.fillAddrs k f l
    match ofillFault k n a, k.wg.oslot n with
    | none, some p =>
      if !s.copyRoom k.wg.core || ((s.cluster (clusterOfCore k.wg.core)).streams.any fun r => r.wg = k.x.wg && r.busy n) then
        .wait (s.notStalled k)
      else go k n p a { k.copy s with slot := some p } s
    | e, _ =>
      let e := e.getD (0x12, 0)
      .done ((s.parkLanes k .none .w32 i.form.length [(l, e.1, e.2)]).takeSeq k.w)

/-- `OFILL.g` and `.s`: accepted tasks that name the slot have undefined source values from here (14 R295). -/
def execOfill (f : ExtArgs) (s : State) : Host.Outcome State Fault Refusal :=
  .next (ofillEff (.ofill f) f (fun k n p a c s =>
    let sp := ofillSpace f
    let hv := f.x18.toNat % 2 ^ 16
    let heads : List Piece := match a.2 with
      | some h => rangePieces sp h 3 (128 * p) 128 [k.x.wg] 0
      | none => rangePieces 5 0 3 (128 * p) 128 [k.x.wg] 0
    let c := { c with
      pieces := rangePieces sp a.1 2 (4096 * p) 4096 [k.x.wg] 0 ++ heads, fill := true
      held := if a.2.isNone then some ((List.replicate 64 (bytesOfNat 2 hv)).flatten) else none }
    let s := s.modWg k.x.wg fun x => { x with fills := if x.fills.contains (k.w, n) then x.fills else x.fills ++ [(k.w, n)] }
    let refilled (t : Task) : Task := if t.wg = k.x.wg && t.live && t.sources.contains n then { t with undef := t.undef ++ [n] } else t
    let s := s.modCluster (clusterOfCore k.wg.core) fun c => { c with tasks := c.tasks.mapVals fun _ => refilled }
    .done ((s.takeSeq k.w).startCopy k.wg.core c)) s)

/-- `OFILL.out` and `.outs`: a slot that an accepted task names, before the `TWAIT` that covers it, reads as free values
(14 R201, 21 R454). -/
def execOfillOut (f : ExtArgs) (s : State) : Host.Outcome State Fault Refusal :=
  .next (ofillEff (.ofillOut f) f (fun k n p a c s =>
    let sp := ofillSpace f
    let hot := k.wg.hotOp n
    let heads : List Piece := match a.2 with
      | some h => if hot then rangePieces 5 4096 sp h 128 [k.x.wg] 0 else rangePieces 3 (128 * p) sp h 128 [k.x.wg] 0
      | none => []
    let data := if hot then rangePieces 5 0 sp a.1 4096 [k.x.wg] 0 else rangePieces 2 (4096 * p) sp a.1 4096 [k.x.wg] 0
    let c := { c with pieces := data ++ heads, held := if hot then some (s.freeBytes 4224) else none }
    let s := if hot then s.useFrees 4224 else s
    .done ((s.takeSeq k.w).startCopy k.wg.core c)) s)

end Sys2Proof.Machine
end

