-- ==== Sys2Proof/Machine/Tile.lean ====
section
/-! DEFINITION. Tile tasks: `TTSK`, `TWAIT`, acceptance, dispatch, tile steps, task faults, and hand-off words (14 R297 to
R301, R306 to R308; 07 R149 to R156; 20 R425; 22 R498). -/

namespace Sys2Proof.Machine

/-! ### Records and identifiers (14 R297 to R299) -/

/-- Number of task identifiers, 1 to 2^28 − 1. -/
def taskIds : Nat := 2 ^ 28 - 1

/-- A source that a malformed record names: reserved bits, a slot not claimed, a handle without subscription. -/
def Cluster.srcBad (c : Cluster) (wg : Nat) (x : Workgroup) (src kt : Nat) : Bool :=
  if bit src 31 then bits src 8 23 ≠ 0 || (c.subOf wg (src % 256)).isNone
  else bits src 12 19 ≠ 0 || (run (src % 2 ^ 12) kt).any fun n => !x.oclaim.contains n

/-- JOIN is in range. -/
def joinOk (d : Nat) : Bool := decide (1 ≤ dfield d 3 8) && decide (dfield d 3 8 ≤ 32)

/-- A malformed record, read as one number (14 R298). -/
def Cluster.malformed (c : Cluster) (wg : Nat) (x : Workgroup) (d : Nat) : Bool :=
  let kt := dfield d 4 32
  decide (1 < dfield d 0 8) || !joinOk d || kt = 0 || decide (65535 < kt) || dfield d 1 8 / 32 ≠ 0 || dfield d 0x30 128 ≠ 0 ||
  c.srcBad wg x (dfield d 8 32) kt || c.srcBad wg x (dfield d 0xC 32) kt || !x.aclaim.contains (dfield d 2 8)

/-- A task has ended. -/
def Task.ended (t : Task) : Bool := t.st = .done || t.st = .faulted || t.st = .dropped

/-- Entries of a cluster's task queue in use: tasks that have not ended (14 R298). -/
def Cluster.queued (c : Cluster) : Nat := (c.tasks.filter fun e => !e.2.ended).length

/-- The identifier after one. -/
def nextId (id : Nat) : Nat := if id + 1 = 2 ^ 28 then 1 else id + 1

/-- A new task takes the next identifier; ended tasks beyond the last 4,096 identifiers are forgotten (14 R299). -/
def Cluster.addTask (c : Cluster) (t : Task) : Cluster :=
  let id := c.nextTask
  let next := nextId id
  { c with
    tasks := (Table.put c.tasks id t).filter fun e => !e.2.ended || decide ((next + taskIds - e.1) % taskIds ≤ 4096)
    nextTask := next }

/-- Changes a task. -/
def State.modTask (s : State) (cluster id : Nat) (f : Task → Task) : State :=
  s.modCluster cluster fun c => { c with tasks := Table.modify c.tasks id f }

/-! ### Task faults and ends (14 R308) -/

/-- A graph node has ended: its code, 0 for none; its retirement is due (13 R289). -/
def State.endNode (s : State) (core g n code : Nat) : State :=
  (s.modCore core fun x => { x with graphs := Table.modify x.graphs g fun y =>
    { y with nodes := y.nodes.modify n fun z => { z with ended := true, code := code } } }).post (.graphNodeRetire core g n)

/-- The slots of a graph's task, which no `TWAIT` can name, are open until it ends (log 16: DESIGN CHOICE). -/
def State.closeTask (s : State) (wg id : Nat) : State :=
  s.modWg wg fun x => { x with hot := x.hot.filter fun e => e.1 ≠ id }

/-- A task faults: recorded for `TWAIT`, and delivered to the first contributor; a fault of a graph node goes to the
node (13 R289). -/
def State.taskFault (s : State) (cluster id slot head detail : Nat) : State :=
  match Table.look (s.cluster cluster).tasks id with
  | none => s
  | some t =>
    let s := (s.modTask cluster id fun t => { t with st := .faulted, detail := detail }).postOnce (.taskDispatch cluster)
    match t.node with
    | some (g, n) => (s.closeTask t.wg id).endNode t.core g n (faultCode (0x17, detail) n)
    | none => s.raiseA t.wave (chipOfCore t.core)
        { cause := 0x17, pc := some t.pc
          addr := BitVec.ofNat 64 (slot % 2 ^ 12 + head % 64 * 2 ^ 12 + detail * 2 ^ 24 + id * 2 ^ 32)
          lseq := some (BitVec.ofNat 32 (t.field 0x24 32)), dest := 0x180 }

/-- Releases logical operand slots of a workgroup. -/
def State.dropOps (s : State) (wg : Nat) (ns : List Nat) : State :=
  s.modWg wg fun x => { x with oclaim := x.oclaim.filter fun n => !ns.contains n }

/-- A task completes: its slots are released as RELA, RELB and RELC say (14 R301). -/
def State.taskDone (s : State) (cluster id : Nat) (t : Task) : State :=
  let fl := t.field 1 8
  let kt := t.field 4 32
  let s := if bit fl 0 then s.dropOps t.wg (srcSlots (t.field 8 32) kt) else s
  let s := if bit fl 1 then s.dropOps t.wg (srcSlots (t.field 0xC 32) kt) else s
  let s := if bit fl 2 then s.dropAcc t.wg [t.cslot] else s
  let s := (s.modTask cluster id fun t => { t with st := .done }).postOnce (.taskDispatch cluster)
  match t.node with
  | some (g, n) => (s.closeTask t.wg id).endNode t.core g n 0
  | none => s

/-! ### Acceptance (14 R298, R299) -/

/-- Reserves the next KT entries of a stream source for a task: the subscription and the first entry. -/
def State.reserve (s : State) (cluster wg src kt : Nat) : (Option Nat × Nat) × State :=
  if !bit src 31 then ((none, 0), s)
  else match (s.cluster cluster).subOf wg (src % 256) with
    | none => ((none, 0), s)
    | some (_, u) => ((some u.id, u.reserved), s.modSub cluster u.id fun u => { u with reserved := u.reserved + kt })

/-- The first slot of a task that is no longer claimed (18 R370). -/
def Workgroup.lost (x : Workgroup) (t : Task) : Option Nat :=
  (t.sources.find? fun n => !x.oclaim.contains n).orElse fun _ => if x.aclaim.contains t.cslot then none else some t.cslot

/-- Source slots of a task that a wave has filled and covered by no `OPF`. -/
def Workgroup.uncovered (x : Workgroup) (t : Task) (p : Nat → Bool) : List Nat :=
  t.sources.filter fun n => x.fills.any fun e => e.2 = n && p e.1

/-- Yarrow accepts a task: a malformed one faults; else its stream entries are reserved, A's first, and its slots are open
until a `TWAIT`; sources whose last fill no `OPF` covers are undefined for it (14 R201, R296). -/
def State.acceptTask (s : State) (cluster id : Nat) : State :=
  match Table.look (s.cluster cluster).tasks id with
  | none => s
  | some t => match s.wg? t.wg with
    | none => s
    | some x =>
      let c := s.cluster cluster
      let s := (s.modCluster cluster fun c => { c with accepts := c.accepts + 1 }).modTask cluster id fun t =>
        { t with st := .accepted, order := c.accepts, accepted := (s.core t.core).clk }
      if t.bad then s.taskFault cluster id 0 0 1
      else match x.lost t with
        | some n => s.taskFault cluster id n 0 2
        | none =>
          let kt := t.field 4 32
          let (a, s) := s.reserve cluster t.wg (t.field 8 32) kt
          let (b, s) := s.reserve cluster t.wg (t.field 0xC 32) kt
          let s := s.modTask cluster id fun t =>
            { t with aSub := a.1, aBase := a.2, bSub := b.1, bBase := b.2, undef := t.undef ++ x.uncovered t (fun _ => true) }
          (s.modWg t.wg fun x => { x with hot := Table.put x.hot id (t.cslot, t.sources) }).postOnce (.taskDispatch cluster)

/-- A task of a record. -/
def Task.create (wg gang core off rec left : Nat) (pc : DWord) (seq : Word) (wave : Nat) (bad : Bool)
    (node : Option (Nat × Nat)) : Task :=
  { wg, gang, core, off, record := BitVec.ofNat 512 rec, left, pc, seq, wave, st := .gathering, step := 0, partDone := false
    order := 0, bad, detail := 0, aSub := none, aBase := 0, bSub := none, bBase := 0, undef := [], page := none, node
    accepted := 0 }

/-- The gathering task of a key. -/
def Cluster.gathering (c : Cluster) (wg off : Nat) : Option (Nat × Task) :=
  c.tasks.find? fun e => e.2.st = .gathering && e.2.wg = wg && e.2.off = off && e.2.node.isNone

/-- A contribution counts: the wave's list, its sequence number, the identifier in D, and the acceptance with the last
one. The sources that the wave has filled and not covered by an `OPF` are undefined for the task, whatever it covers later (14 R296). -/
def State.contribute (s : State) (k : Who) (act : List Nat) (d : Opd) (id : Nat) (last : Bool) : State :=
  let s := ((s.count k.wg.core 134 1).takeSeq k.w).modWave k.w fun x => { x with tasks := if x.tasks.contains id then x.tasks else x.tasks ++ [id] }
  let s := s.setLanes k.w act fun _ t => t.writeReg d .w32 (BitVec.ofNat 128 id)
  let s := s.modTask (clusterOfCore k.wg.core) id fun t => { t with undef := t.undef ++ k.wg.uncovered t (fun w => w = k.w) }
  if last then s.acceptTask (clusterOfCore k.wg.core) id else s

/-- `TTSK` joins a gathering task. -/
def State.joinTask (s : State) (k : Who) (act : List Nat) (d : Opd) (id : Nat) (t : Task) : Eff :=
  let cluster := clusterOfCore k.wg.core
  let last := decide (t.left ≤ 1)
  match (if last then s.decideWave k 4 id else (true, s)) with
  | (false, s) => .wait (s.notStalled k)
  | (true, s) => .done ((s.modTask cluster id fun t => { t with left := t.left - 1 }).contribute k act d id last)

/-- `TTSK` creates a task from the record read. -/
def State.createTask (s : State) (k : Who) (act : List Nat) (d : Opd) (off rec : Nat) : Eff :=
  let cluster := clusterOfCore k.wg.core
  let c := s.cluster cluster
  let id := c.nextTask
  let left := if joinOk rec then dfield rec 3 8 - 1 else 0
  match (if left = 0 then s.decideWave k 4 id else (true, s)) with
  | (false, s) => .wait (s.notStalled k)
  | (true, s) =>
    let t := Task.create k.x.wg k.wg.gang k.wg.core off rec left (k.x.issuePc.getD 0) k.x.seqno k.w
      (c.malformed k.x.wg k.wg rec) none
    let s := s.modCluster cluster fun c => c.addTask t
    .done (s.contribute k act d id (decide (left = 0)))

/-- `TTSK` (14 R298). -/
def ttskEff (f : ExtArgs) (k : Who) (act : List Nat) (s : State) : Eff :=
  let l := act.headD 0
  let off := (s.readOpd k.x l f.lit .w32 .int f.a).toNat
  let park (c : BitVec 8) : Eff :=
    .done ((s.parkLanes k f.d .w32 (Instr.length (.ttsk f)) [(l, c, BitVec.ofNat 64 off)]).takeSeq k.w)
  if off % 64 ≠ 0 then park 0x04
  else match (if 0x80000 ≤ off then none else s.scratchBytes k.g k.wg off 64) with
    | none => park 0x05
    | some bs => match (s.cluster (clusterOfCore k.wg.core)).gathering k.x.wg off with
      | some (id, t) => s.joinTask k act f.d id t
      | none =>
        if 512 ≤ (s.cluster (clusterOfCore k.wg.core)).queued then .wait (s.notStalled k)
        else if s.lostSeg bs then .gone (s.segmentLost k off)
        else if s.inT bs then s.waitRefetch k bs
        else if !(scratchLines bs).all s.lineFull then .wait (s.notStalled k)
        else s.createTask k act f.d off (natOfBytes (s.readScratch bs))

/-- `TTSK`. -/
def execTtsk (f : ExtArgs) (s : State) : Host.Outcome State Fault Refusal := .next (issue (.ttsk f) s (ttskEff f))

/-! ### TWAIT (14 R306) -/

/-- The status of a task that has ended or is forgotten; none while it has not ended. -/
def Cluster.taskStatus (c : Cluster) (id : Nat) : Option Nat :=
  match Table.look c.tasks id with
  | none => some 1
  | some t => if !t.ended then none else some (if t.st = .faulted then 3 + t.detail * 2 ^ 8 else 1)

/-- The status of several tasks: bit 0 and the OR of theirs. -/
def Cluster.statusOf (c : Cluster) (ids : List Nat) : Option Nat :=
  ids.foldr (fun id r => match c.taskStatus id, r with
    | some a, some b => some (a ||| b)
    | _, _ => none) (some 1)

/-- `TWAIT`: an identifier with bits [31:28] set is never issued (22 R498). The tasks waited for are covered (14 R201). -/
def execTwait (f : ExtArgs) (s : State) : Host.Outcome State Fault Refusal :=
  .next (issue (.twait f) s fun k act s =>
    let id := (s.readOpd k.x (act.headD 0) f.lit .w32 .int f.a).toNat
    let ids := if id = 0 then k.x.tasks else [id]
    match (s.cluster (clusterOfCore k.wg.core)).statusOf ids with
    | none => .wait (s.notStalled k)
    | some st => .done ((s.answer k act f.d st).modWg k.x.wg fun x =>
        { x with hot := x.hot.filter fun e => !ids.contains e.1 }))

/-! ### Hand-off words (14 R307, 20 R425) -/

/-- Where a hand-off word lies, or why it may not be used. -/
inductive Word4 where
  | at (p : Part)
  | park (cause : BitVec 8)
  | page (va : DWord)
  | wait
  deriving DecidableEq, Repr

/-- Translates a hand-off word: naturally aligned, in a homed or private page. -/
def State.handWord (s : State) (x : XCtx) (a : Access) (va : DWord) : Word4 × State :=
  if va.toNat % 4 ≠ 0 then (.park 0x04, s)
  else match s.span x a false va 4 with
    | (.parts (p :: _), s) => if leafSeg p.leaf ≤ 1 then (.at p, s) else (.park 0x12, s)
    | (.parts [], s) => (.wait, s)
    | (.park c, s) => (.park c, s)
    | (.page v, s) => (.page v, s)
    | (.wait, s) => (.wait, s)

/-- The acquire of a read of a block at its home: the record's signature, and the scope checker (09 R190, R192; 16 R349). -/
def State.acquireHome (s : State) (k : Who) (p : Part) : State :=
  let r := s.homeRec p.pa
  let s := s.acquireL1 k.wg.core r.1
  match r.2 with
  | none => s
  | some t =>
    if (s.chip k.chip).dbg.schk && !tagHolds 5 t (s.tagOf k.w) then
      s.raiseA k.w k.chip { cause := 0x1B, pc := k.x.issuePc, addr := p.va, lseq := none, dest := 0x180 }
    else s

/-- `HNDW`: its own earlier entries for the block are performed first; it waits until the word equals i, and a swapped-out wait ends
with any write to the word's line after it began (14 R307). -/
def hndwEff (f : ExtArgs) (k : Who) (act : List Nat) (s : State) : Eff :=
  let l := act.headD 0
  let va := (s.readOpd k.x l f.lit .w64 .int f.a).setWidth 64
  let i := (s.readOpd k.x l f.lit .w32 .int f.b).setWidth 32
  let stay (p : Part) (s : State) : Eff :=
    let since := match k.x.blocked with
      | some (.hand pa n) => if pa = p.pa then n else s.serial
      | _ => s.serial
    let s := (s.notStalled k).modWave k.w fun x => { x with blocked := some (.hand p.pa since) }
    .wait { s with serial := max s.serial (since + 1) }
  match s.handWord k.xctx .read va with
  | (.park c, s) => .done (s.parkLanes k .none .w32 (Instr.length (.hndw f)) [(l, c, va)])
  | (.page a, s) => .gone (s.pageFault k 0 (k.x.issuePc.getD 0) a)
  | (.wait, s) => .wait (s.notStalled k)
  | (.at p, s) =>
    if (s.core k.wg.core).wq.any fun e => e.2.wave = k.w && !e.2.repl && e.2.block = p.pa / 64 then stay p s
    else match s.engineBytes k.chip [p] with
      | (.error .wait, s) => .wait (s.notStalled k)
      | (.error _, s) =>
        let s := s.raiseA k.w k.chip { cause := 0x1C, pc := k.x.issuePc, addr := va, lseq := none, dest := 0x180 }
        stay p s
      | (.ok bs, s) => if BitVec.ofNat 32 (natOfBytes bs) = i then .done (s.acquireHome k p) else stay p s

/-- `HNDW`. -/
def execHndw (f : ExtArgs) (s : State) : Host.Outcome State Fault Refusal := .next (issue (.hndw f) s (hndwEff f))

/-- `HNDP`: an exchange to i + 1 as one entry, released at package scope. -/
def hndpEff (f : ExtArgs) (k : Who) (act : List Nat) (s : State) : Eff :=
  let l := act.headD 0
  let va := (s.readOpd k.x l f.lit .w64 .int f.a).setWidth 64
  let len := Instr.length (.hndp f)
  match k.x.pend with
  | some (.todo es parks) => s.takeAll k .none .w32 len es parks va
  | _ => match s.releaseWait k .pk va with
    | (false, s) => .wait s
    | (true, s) => match s.handWord k.xctx .atomic va with
      | (.park c, s) => .done (s.parkLanes k .none .w32 len [(l, c, va)])
      | (.page a, s) => .gone (s.pageFault k 2 (k.x.issuePc.getD 0) a)
      | (.wait, s) => .wait (s.notStalled k)
      | (.at p, s) =>
        let i := (s.readOpd k.x l f.lit .w32 .int f.b).setWidth 32
        let a : AtomLane := { lane := l, pa := p.pa, width := 4, md := 6, ty := .n32, rm := .rne, nan := false
                              b := (i + 1).setWidth 128, c := 0 }
        let (es, s) := signEntries k (some .pk) (addAtom k s p none a []) s
        s.takeAll k .none .w32 len es [] va

/-- `HNDP`. -/
def execHndp (f : ExtArgs) (s : State) : Host.Outcome State Fault Refusal := .next (issue (.hndp f) s (hndpEff f))

/-! ### Dispatch (14 R300) -/

/-- What Yarrow finds of an accepted task. -/
inductive Gate where
  | go
  | held
  | poll
  | fault (detail : Nat)
  deriving DecidableEq, Repr

/-- The named task has ended without fault or is no longer held. -/
def Cluster.predDone (c : Cluster) (id : Nat) : Bool :=
  match Table.look c.tasks id with
  | none => true
  | some t => t.st = .done || t.st = .dropped

/-- The named task faulted. -/
def Cluster.predFaulted (c : Cluster) (id : Nat) : Bool :=
  match Table.look c.tasks id with
  | none => false
  | some t => t.st = .faulted

/-- Who translates for a task. -/
def Task.xctx (t : Task) (g : Gang) : XCtx := { core := t.core, asid := g.asid, ptroot := g.ptroot, priv := g.priv }

/-- A task's page request (15 R319), or the refusal at once without a ring. -/
def State.taskPage (s : State) (cluster id : Nat) (t : Task) (g : Gang) (va : DWord) : Bool × State :=
  let chip := chipOfCore t.core
  let w : PageWait := { asid := g.asid, vpn := vpnOf va, kind := 5, pc := t.pc, va, clu := cluster % 4, seq := g.seq, dest := 0x180, refused := false }
  if (s.chip chip).ring.len = 0 then (false, s)
  else (true, (s.modTask cluster id fun t => { t with page := some w }).requestPage chip w)

/-- Condition 3: the word at HAND equals HIDX, an acquire. A word that may not be used is detail 8 (log 16: DESIGN CHOICE), one
whose block fails its tag check detail 9 (15 R322). -/
def State.handGate (s : State) (cluster id : Nat) (t : Task) (g : Gang) : Gate × State :=
  match s.handWord (t.xctx g) .read (BitVec.ofNat 64 (t.field 0x18 64)) with
  | (.park _, s) => (.fault 8, s)
  | (.wait, s) => (.poll, s)
  | (.page va, s) => match s.taskPage cluster id t g va with
    | (true, s) => (.held, s)
    | (false, s) => (.fault 8, s)
  | (.at p, s) => match s.engineBytes (chipOfCore t.core) [p] with
    | (.error .wait, s) => (.poll, s)
    | (.error (.page _), s) => (.fault 8, s)
    | (.error (.fault e), s) => (.fault (if e.1 = 0x1C then 9 else 8), s)
    | (.ok bs, s) =>
      if natOfBytes bs = t.field 0x20 32 then (.go, s.acquireL1 t.core (s.homeRec p.pa).1) else (.poll, s)

/-- The conditions of 14 R300 on a task. -/
def State.gate (s : State) (cluster id : Nat) (t : Task) : Gate × State :=
  let c := s.cluster cluster
  let preds := [t.field 0x10 32, t.field 0x14 32].filter fun p => p ≠ 0
  if preds.any c.predFaulted then (.fault 6, s)
  else if preds.any (fun p => !c.predDone p) then (.held, s)
  else if c.tasks.any (fun e => e.2.live && e.2.wg = t.wg && e.2.cslot = t.cslot && decide (e.2.order < t.order)) then (.held, s)
  else match t.page with
    | some w => (if w.refused then .fault 8 else .held, s)
    | none =>
      if t.field 0x18 64 = 0 then (.go, s)
      else match s.gang? t.gang with
        | none => (.held, s)
        | some g => s.handGate cluster id t g

/-- Inserts a task by its order of acceptance. -/
def insertTask (o id : Nat) : List (Nat × Nat) → List (Nat × Nat)
  | [] => [(o, id)]
  | (p, i) :: r => if o < p then (o, id) :: (p, i) :: r else (p, i) :: insertTask o id r

/-- The accepted tasks of a cluster, earliest accepted first. -/
def Cluster.waitingTasks (c : Cluster) : List Nat :=
  ((c.tasks.filter fun e => e.2.st = .accepted).foldl (fun r e => insertTask e.2.order e.1 r) []).map fun e => e.2

/-- A task starts on an engine: its wait in the queue is sampled (16 R351). -/
def State.startTask (s : State) (cluster id : Nat) (t : Task) : State :=
  let s := s.sample t.core 3 ((s.core t.core).clk - t.accepted)
  ((s.modTask cluster id fun t => { t with st := .running }).post (.tileStep cluster id)).postOnce (.taskDispatch cluster)

/-- The earliest task that qualifies starts; a task whose predecessor faulted is skipped. -/
def dispatchFrom (cluster : Nat) (poll : Bool) : List Nat → State → State
  | [], s => if poll then s.postOnce (.taskDispatch cluster) else s
  | id :: r, s => match Table.look (s.cluster cluster).tasks id with
    | none => dispatchFrom cluster poll r s
    | some t => match s.gate cluster id t with
      | (.go, s) => s.startTask cluster id t
      | (.fault d, s) => s.taskFault cluster id 0 0 d
      | (.held, s) => dispatchFrom cluster poll r s
      | (.poll, s) => dispatchFrom cluster true r s

/-- TASK_DISPATCH: Yarrow gives a task to one of the cluster's 16 engines (14 R300, 01 R14). -/
def execTaskDispatch (cluster : Nat) (s : State) : Host.Outcome State Fault Refusal :=
  .next (
    let c := s.cluster cluster
    if 16 ≤ (c.tasks.filter fun e => e.2.st = .running).length then s
    else dispatchFrom cluster false c.waitingTasks s)

/-! ### Accumulation (07 R151 to R153) -/

/-- A product for an exact slot: its integer in units of 2^−80 and whether that is inexact; none for a NaN or an infinity. -/
def exactProduct (neg : Bool) (a b : Num) : Option (Int × Bool) :=
  match a, b with
  | .fin na m e, .fin nb n g =>
    let q := e + g + 80
    let p := m * n
    let t := if 0 ≤ q then p * 2 ^ q.toNat else p / 2 ^ (-q).toNat
    let v : Int := if xor neg (xor na nb) then -(t : Int) else t
    some (v, decide (q < 0) && decide (p % 2 ^ (-q).toNat ≠ 0))
  | _, _ => none

/-- What a step does to one element: the value, its mask bit, NX and NV. -/
structure ElemOut where
  x : Quad
  mask : Bool
  nx : Bool
  nv : Bool
  deriving DecidableEq, Repr

/-- An exact element after the products of a step. -/
def exactElem (neg : Bool) (x : Quad) (ps : List (Num × Num)) : ElemOut :=
  ps.foldl (fun o p => match exactProduct neg p.1 p.2 with
    | none => { o with mask := true, nv := true }
    | some (v, nx) => { o with x := o.x + BitVec.ofInt 128 v, nx := o.nx || nx })
    { x, mask := false, nx := false, nv := false }

/-- A sum rounded to binary128, with NX and NV of the addition. -/
def quadAdd (x y : Num) : Num × Word :=
  if x.isNan || y.isNan then (.nan false, flagNV)
  else
    let (r, bad) := sumNums .rne [x, y]
    let (c, fl) := fmtQuad.put .rne r
    (fmtQuad.read c, (fl &&& flagNX) ||| flagIf bad flagNV)

/-- A product for a wide slot, with NV of 0 · ∞ or a NaN. -/
def wideProduct (neg : Bool) (a b : Num) : Num × Word :=
  let (p, bad) := mulNum a b
  (if neg then p.neg else p, flagIf (bad || a.isNan || b.isNan) flagNV)

/-- One level of the balanced tree. -/
def treeLevel : List (Num × Word) → List (Num × Word)
  | a :: b :: r =>
    let (v, fl) := quadAdd a.1 b.1
    (v, fl ||| a.2 ||| b.2) :: treeLevel r
  | r => r

/-- A run of 16 products reduced and added to the element. -/
def wideRun (neg : Bool) (o : Num × Word) (ps : List (Num × Num)) : Num × Word :=
  let ts := (List.range 4).foldl (fun t _ => treeLevel t) (ps.map fun p => wideProduct neg p.1 p.2)
  let t := ts.headD (.fin false 0 0, 0)
  let (v, fl) := quadAdd o.1 t.1
  (v, fl ||| o.2 ||| t.2)

/-- The products in runs of 16. -/
def runs16 {α : Type} : Nat → List α → List (List α)
  | 0, _ => []
  | n + 1, ps => if ps.isEmpty then [] else ps.take 16 :: runs16 n (ps.drop 16)

/-- The code of a binary128 value. -/
def quadCode (x : Num) : Quad := BitVec.ofNat 128 (fmtQuad.put .rne x.res).1

/-- A wide element after the products of a step. -/
def wideElem (neg : Bool) (x : Quad) (ps : List (Num × Num)) : ElemOut :=
  let (v, fl) := (runs16 (ps.length / 16 + 1) ps).foldl (wideRun neg) (fmtQuad.read x.toNat, 0)
  { x := quadCode v, mask := false, nx := fl &&& flagNX ≠ 0, nv := fl &&& flagNV ≠ 0 }

/-- The results of all elements written to a slot; NX, NV and mask bits only accumulate (07 R156). -/
def ASlot.update (a : ASlot) (os : List ElemOut) : ASlot :=
  { a with
    base := 0, elems := os.zipIdx.map fun e => (e.2, e.1.x)
    mask := a.mask ||| BitVec.ofNat 1024 (os.foldr (fun e m => e.mask.toNat + 2 * m) 0)
    nx := a.nx || os.any fun e => e.nx, nv := a.nv || os.any fun e => e.nv }

/-! ### Tiles (14 R292; 07 R146 to R150) -/

/-- A K tile as an engine fetches it: data bytes and heads, and where it lies. -/
structure Tile where
  slot : Nat
  data : Memory
  heads : Table Half
  deriving DecidableEq, Repr

/-- Format and scale byte of a head. -/
def Tile.head (t : Tile) (j : Nat) : Nat × Nat :=
  let h := (Table.at t.heads j 0).toNat
  (h % 256, h / 256)

/-- The first head of a tile that satisfies a condition on its format byte. -/
def Tile.find (t : Tile) (p : Nat → Bool) : Option (Nat × Nat) :=
  ((List.range 64).find? fun j => p (t.head j).1).map fun j => (t.slot, j)

/-- The width a format byte names, 0 for none. -/
def headWidth (b : Nat) : Nat := ((headFmt b).map HeadFmt.width).getD 0

/-- The checks of a step's heads in their order (14 R308), over its tiles, A's first: slot, head and detail of the first rule broken. A
tile whose values are undefined is not among them, for those raise no fault (00 R6, 09 R201). -/
def headFault (mode : Option AccMode) (cslot : Nat) (ts : List Tile) : Option (Nat × Nat × Nat) :=
  let first (p : Nat → Bool) : Option (Nat × Nat) := ts.findSome? fun t => t.find p
  let width := ((ts.head?).map fun t => headWidth (t.head 0).1).getD 0
  match first fun x => (headFmt x).isNone with
  | some e => some (e.1, e.2, 3)
  | none => match first fun x => headWidth x ≠ width with
    | some e => some (e.1, e.2, 4)
    | none => match mode with
      | none => some (cslot, 0, 5)
      | some .wide => none
      | some .exact => (first fun x => x = 0x31 || x = 0x40).map fun e => (e.1, e.2, 5)

/-- The element of a tile at a bit position, scaled by its block's head. -/
def Tile.elem (t : Tile) (w pos : Nat) : Num :=
  let code := if w = 4 then bits (Memory.read t.data (pos / 8)).toNat (pos % 8) 4 else Memory.readLe t.data (pos / 8) (w / 8)
  let h := t.head (pos / 512)
  match headFmt h.1 with
  | none => .nan false
  | some f => f.value h.2 code

/-- Row i of A, or column j of B, along K (14 R292). -/
def Tile.line (t : Tile) (w : Nat) (trans : Bool) (i : Nat) : List Num :=
  (List.range (1024 / w)).map fun k => t.elem w (if trans then 32 * w * k + w * i else 1024 * i + w * k)

/-- A step's products added to every element, in row order. -/
def ASlot.step (a : ASlot) (neg transA transB : Bool) (ta tb : Tile) : ASlot :=
  let w := headWidth (ta.head 0).1
  let cols := (List.range 32).map fun j => tb.line w transB j
  a.update ((List.range 32).flatMap fun i =>
    let row := ta.line w transA i
    cols.zipIdx.map fun c =>
      let x := a.elem (32 * i + c.2)
      if a.mode = some .wide then wideElem neg x (row.zip c.1) else exactElem neg x (row.zip c.1))

/-- AddImage for every element of the partial image (14 R301). -/
def ASlot.addImage (a : ASlot) (bs : List Byte) : ASlot :=
  a.update ((List.range 1024).map fun i =>
    let y := BitVec.ofNat 128 (natOfBytes ((bs.drop (16 * i)).take 16))
    let x := a.elem i
    if a.mode = some .wide then
      let (v, fl) := quadAdd (fmtQuad.read x.toNat) (fmtQuad.read y.toNat)
      { x := quadCode v, mask := false, nx := fl &&& flagNX ≠ 0, nv := fl &&& flagNV ≠ 0 }
    else { x := x + y, mask := false, nx := false, nv := false })

/-! ### TILE_STEP (14 R301, R308) -/

/-- What a step's source is: a logical slot with its physical one, a wait for a posted entry, or a fault. -/
inductive StepSrc where
  | slot (logical physical : Nat) (undef : Bool)
  | wait
  | fault (slot detail : Nat)
  deriving DecidableEq, Repr

/-- The source of A or B for a step. -/
def State.stepSrc (s : State) (cluster : Nat) (t : Task) (x : Workgroup) (src : Nat) (sub : Option Nat) (base : Nat) : StepSrc :=
  if bit src 31 then
    match sub.bind (s.cluster cluster).subBy with
    | none => .fault 0 7
    | some (r, _) =>
      let e := base + t.step
      if r.posted ≤ e then (if r.closed then .fault 0 7 else .wait)
      else
        let n := r.first + e % r.len
        match s.wg? r.wg with
        | none => .fault 0 7
        | some y => match y.oslots[n]? with
          | none => .fault n 2
          | some p => .slot n p (y.fills.any fun e => e.2 = n)
  else
    let n := src % 2 ^ 12 + t.step
    match x.oslot n with
    | none => .fault n 2
    | some p => .slot n p (t.undef.contains n)

/-- The tile of a physical slot. -/
def State.fetchTile (s : State) (cluster logical p : Nat) : Tile :=
  let o := Table.at (s.cluster cluster).oslots p OSlot.empty
  { slot := logical, data := o.data, heads := o.heads }

/-- A slot after a step with undefined source values (09 R201): its elements are free values, and what only accumulates has at least
what it had (07 R156). -/
def ASlot.stepUnknown (a : ASlot) (n : Nat) : ASlot :=
  let u := ASlot.unknown n a.mode
  { u with mask := a.mask ||| u.mask, nx := a.nx || u.nx, nv := a.nv || u.nv }

/-- Consumes the stream entry that a step read. -/
def State.consumed (s : State) (cluster : Nat) (sub : Option Nat) (e : Nat) : State :=
  match sub with
  | none => s
  | some u => s.modSub cluster u fun v => v.consume e

/-- One tile step of a running task. -/
def State.taskStep (s : State) (cluster id : Nat) (t : Task) (x : Workgroup) : State :=
  let a := s.stepSrc cluster t x (t.field 8 32) t.aSub t.aBase
  let b := s.stepSrc cluster t x (t.field 0xC 32) t.bSub t.bBase
  match a, b, x.aslot t.cslot with
  | .fault n d, _, _ => s.taskFault cluster id n 0 d
  | _, .fault n d, _ => s.taskFault cluster id n 0 d
  | _, _, none => s.taskFault cluster id t.cslot 0 2
  | .slot la pa ua, .slot lb pb ub, some c =>
    let ta := s.fetchTile cluster la pa
    let tb := s.fetchTile cluster lb pb
    let acc := s.aslot cluster c
    match headFault acc.mode t.cslot ((if ua then [] else [ta]) ++ (if ub then [] else [tb])) with
    | some (n, h, d) => s.taskFault cluster id n h d
    | none =>
      let fl := t.field 1 8
      let s := if ua || ub then (s.setAslot cluster c (acc.stepUnknown s.free)).useFrees 1033
        else s.setAslot cluster c (acc.step (decide (t.field 0 8 = 1)) (bit fl 3) (bit fl 4) ta tb)
      let s := (s.consumed cluster t.aSub (t.aBase + t.step)).consumed cluster t.bSub (t.bBase + t.step)
      if t.step + 1 = t.field 4 32 then s.taskDone cluster id t
      else (s.modTask cluster id fun t => { t with step := t.step + 1 }).post (.tileStep cluster id)
  | _, _, _ => s.post (.tileStep cluster id)

/-- A copy record that reads for a task: nothing of it orders the read. -/
def State.readPart (s : State) (t : Task) (g : Gang) : Except Stop (List Byte) × State :=
  match s.enginePart (t.xctx g) .read (t.field 0x28 64) 16384 with
  | (.error e, s) => (.error e, s)
  | (.ok ps, s) => s.engineBytes (chipOfCore t.core) ps

/-- The partial image of a task is added before its first step; a slot without mode takes none, and the step reports it. -/
def State.taskPart (s : State) (cluster id : Nat) (t : Task) (g : Gang) (c : Nat) : State :=
  let acc := s.aslot cluster c
  let done (s : State) : State := (s.modTask cluster id fun t => { t with partDone := true }).post (.tileStep cluster id)
  if acc.mode = none then done s
  else match s.readPart t g with
    | (.ok bs, s) => done (s.setAslot cluster c (acc.addImage bs))
    | (.error .wait, s) => s.post (.tileStep cluster id)
    | (.error (.page va), s) => match s.taskPage cluster id t g va with
      | (true, s) => s
      | (false, s) => s.taskFault cluster id 0 0 8
    | (.error (.fault e), s) => s.taskFault cluster id 0 0 (if e.1 = 0x1C then 9 else 8)

/-- TILE_STEP. -/
def execTileStep (cluster task : Nat) (s : State) : Host.Outcome State Fault Refusal :=
  .next (match Table.look (s.cluster cluster).tasks task with
    | none => s
    | some t =>
      if t.st ≠ .running then s
      else match s.party t.wg with
        | none => (s.modTask cluster task fun t => { t with st := .dropped }).postOnce (.taskDispatch cluster)
        | some (x, g) =>
          if g.st = .killed then
            (s.modTask cluster task fun t => { t with st := .dropped }).postOnce (.taskDispatch cluster)
          else match t.page with
            | some w => if w.refused then s.taskFault cluster task 0 0 8 else s
            | none =>
              if t.partDone || t.field 0x28 64 = 0 then s.taskStep cluster task t x
              else match x.aslot t.cslot with
                | none => s.taskFault cluster task t.cslot 0 2
                | some c => s.taskPart cluster task t g c)

end Sys2Proof.Machine
end

