-- ==== Sys2Proof/Machine/Context.lean ====
section
/-! DEFINITION. Context save and restore: the save area, frames, CONTEXT traps, `RTE`, pre-empted and swapped-out gangs
(15 R316, R323 to R326; 03 R67 to R70; 04 R81; 11 R246). -/

namespace Sys2Proof.Machine

/-! ### The save area (15 R324) -/

/-- Who translates the addresses of a gang's save area: its cluster, under its effective ASID. -/
def Gang.saveCtx (k : Gang) : XCtx := { core := 4 * k.quad, asid := k.asid, ptroot := k.ptroot, priv := true }

/-- The leaf and the physical address of a byte of the save area: it lies in a homed page of a stack in the view. -/
def State.savePa (s : State) (k : Gang) (va : DWord) : Option (DWord × Nat) :=
  match s.peek k.saveCtx .write va with
  | none => none
  | some (e, pa) => if leafSeg e = 1 && s.stackLive (stackOf pa) then some (e, pa) else none

/-- Reads `n` bytes of the save area, one by one; none where one has no homed page. -/
def State.saveRead (s : State) (k : Gang) (va : DWord) : Nat → Option (List Byte)
  | 0 => some []
  | n + 1 => match s.savePa k va, s.saveRead k (va + 1) n with
    | some (_, pa), some r => some (Memory.read s.mem pa :: r)
    | _, _ => none

/-- Writes bytes of the save area that lie in one 256-byte piece, which no page boundary cuts (02 Table 2.7). -/
def State.saveWrite (s : State) (k : Gang) (va : DWord) (bs : List Byte) : State :=
  match s.savePa k va with
  | none => s
  | some (e, pa) =>
    let cs := bs.zipIdx.map fun b => (pa + b.2, b.1)
    (s.homeStore none (some (leafBuf e)) cs).ringWrites cs

/-- The pages of the save area that some addresses touch are translated for writing, A and D set; `false` while one is not
to be had. -/
def State.saveTouch (k : Gang) : List DWord → State → Bool × State
  | [], s => (true, s)
  | va :: r, s => match s.translate k.saveCtx .write false va with
    | (.ok _ _, s) => State.saveTouch k r s
    | (_, s) => (false, s)

/-- Units of the save area. -/
def Gang.units (k : Gang) : Nat := min (k.cslen / 4096) 32768

/-- Virtual address of a unit under a base. -/
def unitVa (base : DWord) (u : Nat) : DWord := base + BitVec.ofNat 64 (4096 * u)

/-- A unit is in use: its bit of unit 0, which holds the bitmap itself; an unreadable bit counts as set. -/
def State.unitUsed (s : State) (k : Gang) (u : Nat) : Bool :=
  u = 0 || match s.saveRead k (k.csave + BitVec.ofNat 64 (u / 8)) 1 with
    | some [b] => b.getLsbD (u % 8)
    | _ => true

/-- A unit lies in a run. -/
def inRun (u : Nat) (r : Nat × Nat) : Bool := decide (r.1 ≤ u) && decide (u < r.1 + r.2)

/-- A unit can take a save: free, outside the runs already chosen and those of gangs with the same save area, whose bits may still be
on their way, in homed pages. -/
def State.unitFree (s : State) (k : Gang) (chosen : List (Nat × Nat)) (u : Nat) : Bool :=
  !s.unitUsed k u && !chosen.any (inRun u) &&
  !(s.gangs.any fun h => h.2.asid = k.asid && h.2.saveBase = k.csave && h.2.runs.any fun r => inRun u r.2) &&
  (s.savePa k (unitVa k.csave u)).isSome && (s.savePa k (unitVa k.csave u + 4095)).isSome

/-- The lowest free run of each length, by key. -/
def allocRuns (s : State) (k : Gang) (t : Table (Nat × Nat)) : List (Nat × Nat) → Option (Table (Nat × Nat))
  | [] => some t
  | (key, n) :: r =>
    match (List.range (k.units + 1 - n)).find? fun u =>
        (List.range n).all fun i => s.unitFree k (t.map fun e => e.2) (u + i) with
    | none => none
    | some u => allocRuns s k (Table.put t key (u, n)) r

/-- The bit of a unit in the bitmap is set or cleared. -/
def State.markUnit (s : State) (k : Gang) (used : Bool) (u : Nat) : State :=
  let va := k.saveBase + BitVec.ofNat 64 (u / 8)
  match s.saveRead k va 1 with
  | some [b] =>
    let m : Byte := 1#8 <<< (u % 8)
    s.saveWrite k va [if used then b ||| m else b &&& ~~~m]
  | _ => s

/-- The units of the bitmap that a gang's runs take and whose bits do not stand as they are to. -/
def State.unmarked (s : State) (k : Gang) (used : Bool) : List Nat :=
  (k.runs.flatMap fun r => (List.range r.2.2).map fun i => r.2.1 + i).filter fun u =>
    match s.saveRead k (k.saveBase + BitVec.ofNat 64 (u / 8)) 1 with
    | some [b] => b.getLsbD (u % 8) != used
    | _ => false

/-- The blocks that some bytes of the save area lie in. -/
def State.saveBlocks (s : State) (k : Gang) (vas : List DWord) : List Nat :=
  (vas.filterMap fun va => (s.savePa k va).map fun e => e.2 / 64).eraseDups

/-- The bitmap gets the bits of a gang's runs, with the atomics of 15 R324; `false` while they wait at their home. -/
def State.markRuns (s : State) (g : Nat) (k : Gang) (used : Bool) : Bool × State :=
  match s.unmarked k used with
  | [] => (true, s)
  | u :: us =>
    let bs := s.saveBlocks k ((u :: us).map fun u => k.saveBase + BitVec.ofNat 64 (u / 8))
    match s.blocksReady (.contextSave g) bs with
    | (false, s) => (false, s)
    | (true, s) => (true, ((u :: us).foldl (fun s u => s.markUnit k used u) s).blocksDone (.contextSave g) bs)

/-! ### What an eviction takes (03 R68, 15 R323) -/

/-- What is taken from a workgroup: the waves that leave, the numbers of its highest segments and slots. -/
structure Evict where
  wg : Nat
  waves : List Nat
  segs : Nat
  osl : Nat
  asl : Nat
  deriving DecidableEq, Repr

/-- A workgroup loses segments or slots. -/
def Evict.loses (e : Evict) : Bool := e.segs ≠ 0 || e.osl ≠ 0 || e.asl ≠ 0

/-- Wave 0 of a workgroup. -/
def State.wave0 (s : State) (wg : Nat) : Option Nat := (s.wg? wg).bind fun x => x.waves.head?

/-- A wave has a live thread. -/
def State.alive (s : State) (w : Nat) : Bool := s.liveWaves [w] ≠ []

/-- No context of a wave is saved. -/
def State.unsaved (s : State) (w : Nat) : Bool := ((s.wave? w).map fun x => decide (x.save = .none)).getD false

/-- The waves that take a CONTEXT save: the live ones that leave and whose context is not saved yet (03 R70), and wave 0 of a
workgroup that loses something. -/
def State.savers (s : State) (e : Evict) : List Nat :=
  let ws := e.waves.filter fun w => s.alive w && s.unsaved w
  match s.wave0 e.wg with
  | none => ws
  | some w => if e.loses && !ws.contains w then w :: ws else ws

/-- The runs that an eviction needs (15 R324), by wave and workgroup. -/
def State.runsOf (s : State) (k : Gang) (e : Evict) : List (Nat × Nat) :=
  (s.savers e).map (fun w => (w, 2 + ceilDiv (k.rpt + 1) 4)) ++
  (if e.loses then [(e.wg, e.segs + e.osl + ceilDiv e.osl 32 + 5 * e.asl)] else [])

/-- An eviction of a gang is possible (15 R324): the save area has room, no operand slot taken lies in a stream's ring, and
wave 0 of every workgroup that loses something lives and is not saved yet, for it saves what is taken, once, to the one run that its
frame names (log 18: DESIGN CHOICE). The runs, beside those of an eviction that still stands (03 R70). -/
def State.evictable (s : State) (k : Gang) (es : List Evict) : Option (Table (Nat × Nat)) :=
  if es.all (fun e => match s.wg? e.wg with
      | none => false
      | some x =>
        let kept := x.oslots.length - e.osl
        (!e.loses || (!x.gave && ((s.wave0 e.wg).map fun w => s.alive w && s.unsaved w).getD false)) &&
        !(((s.cluster (clusterOfCore x.core)).ringSlots e.wg).any fun n => decide (kept ≤ n) && decide (e.osl ≠ 0))) then
    allocRuns s k k.runs (es.flatMap fun e => s.runsOf k e)
  else none

/-- The windows bound to the highest `n` segments of a workgroup, by logical number. -/
def State.topWins (s : State) (x : Workgroup) (n : Nat) : Table Seg :=
  (x.segMap.zipIdx.filterMap fun e =>
    let w := s.seg x.core e.1
    if x.segMap.length - n ≤ e.2 && w.st ≠ .i && !w.notice then some (e.2, w) else none)

/-- A wave leaves its core, which fires its monitor set (21 R447). -/
def Wave.leaveCore (x : Wave) : Wave :=
  match x.monitor with
  | [] => { x with save := .out }
  | m :: _ => { x with save := .out, fired := true, firedVa := if x.fired then x.firedVa else m.2 }

/-- The eviction begins: the gang issues no more, its runs are taken, CONTEXT saves are due (03 R69, 15 R323). -/
def State.beginSave (s : State) (g : Nat) (k : Gang) (es : List Evict) (runs : Table (Nat × Nat)) (st : GangSt) : State :=
  let s := s.modGang g fun k => { k with st, runs, saveBase := k.csave }
  let s := es.foldl (fun s e => match s.wg? e.wg with
    | none => s
    | some x =>
      let sv := s.savers e
      let s := if st = .swapping then x.waves.foldl (fun s w => s.modWave w fun y => { y with woken := false }) s else s
      let s := if x.gave then s else s.modWg e.wg fun x =>
        { x with takenSegs := e.segs, takenO := e.osl, takenA := e.asl, takenWins := s.topWins x e.segs }
      x.waves.foldl (fun s w =>
        if sv.contains w then s.modWave w fun y => { y with save := .due (e.waves.contains w) }
        else if e.waves.contains w then s.modWave w fun y => if y.save = .stays then y.leaveCore else { y with save := .out }
        else s) s) s
  s.postOnce (.contextSave g)

/-! ### Unbinding (11 R246) -/

/-- A window is unbound by the hardware, as `SEGU` does, with its dirty bytes or without. -/
def State.unbindSeg (s : State) (core i : Nat) (data : Bool) : State :=
  let x := s.seg core i
  let notice (st : SegSt) : State :=
    (s.setSeg core i { x with st, refetch := false, notice := true }).post (.windowNotice core i)
  if x.notice || x.back then s
  else match x.st with
    | .i => s
    | .s => notice .i
    | .o => notice (if data then .t else .i)
    | .t => if x.lost then s.setSeg core i Seg.free else if x.due then notice .i else s

/-- Physical segments that are being taken from a workgroup. -/
def Workgroup.takenPhys (x : Workgroup) : List Nat := if x.gave then [] else x.segMap.drop (x.segMap.length - x.takenSegs)

/-! ### Frames (15 R325, Table 15.6) -/

/-- The number of a thread state in Table 2.3. -/
def ThreadSt.num : ThreadSt → Nat
  | .issuing => 0
  | .deferred => 1
  | .held => 2
  | .waiting => 3
  | .parked => 4
  | .exited => 5

/-- The thread state of a number. -/
def ThreadSt.ofNum : Nat → ThreadSt
  | 0 => .issuing
  | 1 => .deferred
  | 2 => .held
  | 3 => .waiting
  | 4 => .parked
  | _ => .exited

/-- What a thread has set aside, or, where it has exited, its own state. -/
def Thread.shown (t : Thread) : Aside :=
  t.aside.getD { pc := t.pc, st := t.st, meet := t.meet, guard := t.guard, restart := t.restart, wait := t.wait }

/-- The fields of a thread's record: offset and bytes. -/
def Thread.frame (t : Thread) : List (Nat × List Byte) :=
  let a := t.shown
  [(0x00, bytesOfNat 8 a.pc.toNat),
   (0x08, bytesOfNat 8 (a.st.num + a.guard.pat.toNat * 2 ^ 8 + a.guard.left * 2 ^ 16 + a.guard.val.toNat * 2 ^ 20)),
   (0x10, bytesOfNat 8 a.meet.toNat), (0x18, bytesOfNat 8 a.restart.pc.toNat), (0x20, bytesOfNat 8 a.restart.meet.toNat),
   (0x28, bytesOfNat 4 t.fpctl.toNat), (0x2C, bytesOfNat 4 t.fpflags.toNat), (0x30, bytesOfNat 1 t.p.toNat),
   (0x38, bytesOfNat 8 (getWords t.h 0 2)), (0x40, bytesOfNat 32 (getWords t.k 0 8)), (0x60, bytesOfNat 32 t.full.toNat)]

/-- A parked lane's record in unit 1. -/
def LaneRec.frame (r : LaneRec) : List (Nat × List Byte) :=
  [(0x00, bytesOfNat 1 r.cause.toNat), (0x04, bytesOfNat 2 r.dest.toNat), (0x08, bytesOfNat 8 r.pc.toNat),
   (0x10, bytesOfNat 8 r.addr.toNat)]

/-- The cause of the trap that a wave holds pending: of a held trap, else of its oldest class A event; 0 for none. -/
def Wave.pendingCause (x : Wave) : Nat :=
  ((x.heldTrap.map fun i => i.cause.toNat).orElse fun _ => (x.pendA.head?).map fun p => p.cause.toNat).getD 0

/-- The frame of a wave: offset and bytes. -/
def Wave.frame (x : Wave) (wgRun segs osl asl kind : Nat) : List (Nat × List Byte) :=
  (x.threads.zipIdx.flatMap fun t => t.1.frame.map fun f => (128 * t.2 + f.1, f.2)) ++
  (x.threads.zipIdx.flatMap fun t => match t.1.lane with
    | none => []
    | some r => r.frame.map fun f => (4096 + 32 * t.2 + f.1, f.2)) ++
  [(0x1400, bytesOfNat 4 x.seqno.toNat), (0x1404, bytesOfNat 4 x.pendingCause), (0x1408, bytesOfNat 8 wgRun),
   (0x1410, bytesOfNat 2 segs), (0x1412, bytesOfNat 2 osl), (0x1414, bytesOfNat 2 asl), (0x1416, bytesOfNat 2 kind),
   (0x1418, bytesOfNat 4 x.progress.toNat)]

/-- The virtual address of the run of a wave or workgroup. -/
def Gang.runVa (k : Gang) (key : Nat) : Option DWord := (Table.look k.runs key).map fun r => unitVa k.saveBase r.1

/-- A wave takes CONTEXT: the record's address is its frame's (15 R323, R326); with TRAPV 0 the gang is killed (15 R317). -/
def State.contextTrap (s : State) (k : Who) (h : Handler) (frame : DWord) : State :=
  let at' := k.x.takenPc
  s.takeTrapAs k.w h { TrapInfo.plain 0x00 at' frame with taken := at' }

/-- A CONTEXT save is delivered: the page wait, the wait of R67 and the loads stalled on an empty line set aside (04 R81), the frame
written. -/
def State.deliverSave (s : State) (k : Who) (frame : DWord) : State :=
  let s := s.modWave k.w fun x =>
    { x with pageAside := x.page.orElse fun _ => x.pageAside, page := none, wakeOn := x.blocked
             woken := x.woken || x.fired, stall := 0, loads := [], again := x.loads }
  let s := s.contextTrap k .save frame
  match s.wave? k.w with
  | none => s
  | some x =>
    if x.handler ≠ some .save then s
    else
      let first := k.x.idx = 0
      let run := if first && (k.wg.takenSegs ≠ 0 || k.wg.takenO ≠ 0 || k.wg.takenA ≠ 0) then
        ((k.g.runVa k.x.wg).map fun a => a.toNat).getD 0 else 0
      let (a, b, c) := if first then (k.wg.takenSegs, k.wg.takenO, k.wg.takenA) else (0, 0, 0)
      (x.frame run a b c 1).foldl (fun s f => s.saveWrite k.g (frame + BitVec.ofNat 64 f.1) f.2) s

/-- A CONTEXT restore is delivered, its kind in the frame. -/
def State.deliverRestore (s : State) (k : Who) (frame : DWord) : State :=
  (s.saveWrite k.g (frame + 0x1416) (bytesOfNat 2 2)).contextTrap k .restore frame

/-! ### CONTEXT_SAVE -/

/-- A copy writes, or has its barrier in, a segment from logical number `kept` on of a workgroup. -/
def Copy.touches (c : Copy) (wg kept : Nat) : Bool :=
  let hit (off : Nat) : Bool := decide (kept ≤ off % 0x80000 / 4096)
  (c.pieces.any fun p => p.dspace = 1 && p.rcv.contains wg && (hit p.dst || hit (p.dst + p.len - 1))) ||
    (c.rcv.contains wg && (c.bar.map hit).getD false)

/-- What must be over before a workgroup's saves: copies into taken segments, the records of a `KICK` that lie there, tasks
that name taken slots, windows of taken segments (15 R323). -/
def State.wgStill (s : State) (id : Nat) (x : Workgroup) : Bool :=
  let keptS := x.segMap.length - x.takenSegs
  let keptO := x.oslots.length - x.takenO
  let keptA := x.aslots.length - x.takenA
  x.gave || (x.takenSegs = 0 || (!(s.cores.any fun c => c.2.copies.any fun e => e.2.touches id keptS) &&
    ((s.core x.core).kick.map fun q => decide (q.wg ≠ id)).getD true)) &&
  (x.takenPhys.all fun i => s.seg x.core i = Seg.free) &&
  ((s.cluster (clusterOfCore x.core)).tasksOf id).all fun t =>
    (x.takenO = 0 || t.sources.all fun n => decide (n < keptO)) && (x.takenA = 0 || decide (t.cslot < keptA))

/-- A load of scratchpad lines that has not returned: one of them was empty when it was last tried (04 R81). -/
def Load.stalled (l : Load) : Bool :=
  l.unread.any fun b => match b with
    | .pad _ => true
    | _ => false

/-- A wave whose save is due has stopped: its results are there, but for loads that are stalled on an empty line (04 R81). -/
def Wave.still (x : Wave) : Bool :=
  match x.save with
  | .due _ => x.loads.all fun l => l.2.stalled
  | _ => true

/-- The waves of a workgroup that satisfy a condition, in `%wave` order. -/
def State.wavesThat (s : State) (x : Workgroup) (p : Wave → Bool) : List Nat :=
  x.waves.filter fun w => ((s.wave? w).map p).getD false

/-- A save is due. -/
def Wave.saveDue (x : Wave) : Bool :=
  match x.save with
  | .due _ => true
  | _ => false

/-- Offsets in a frame, one in each block that the hardware writes at a save and at a restore (15 Table 15.6). -/
def saveOffsets : List Nat := (List.range 81).map fun i => 64 * i
def restoreOffsets : List Nat := [0x1400]

/-- The next CONTEXT of a workgroup that runs no handler is delivered to its lowest wave that is due one (15 R313), once its frame can
be written at its home; the answer says whether one is still due. -/
def State.contextNext (s : State) (id : Nat) (due : Wave → Bool) (offs : List Nat) (give : State → Who → DWord → State) :
    Bool × State :=
  match s.wg? id with
  | none => (false, s)
  | some x =>
    if x.handler.isSome then (true, s)
    else match s.wavesThat x due with
      | [] => (false, s)
      | w :: _ => match s.whoOf w with
        | none => (false, s)
        | some k => match k.g.runVa w with
          | none => (false, s.modWave w fun y => { y with save := .none })
          | some f => match State.saveTouch k.g [f, f + 4096] s with
            | (false, s) => (true, s.postOnce (.contextSave k.wg.gang))
            | (true, s) =>
              let e : Event := .contextSave k.wg.gang
              let bs := s.saveBlocks k.g (offs.map fun o => f + BitVec.ofNat 64 o)
              match s.blocksReady e bs with
              | (false, s) => (true, s)
              | (true, s) => (true, (give s k f).blocksDone e bs)

/-- CONTEXT for every workgroup of a gang; whether any is still due. -/
def State.contextAll (s : State) (k : Gang) (due : Wave → Bool) (offs : List Nat) (give : State → Who → DWord → State) :
    Bool × State :=
  k.wgs.foldl (fun (r : Bool × State) id =>
    let (b, s) := r.2.contextNext id due offs give
    (r.1 || b, s)) (false, s)

/-- Everything a workgroup gave up is free (03 R68), once. -/
def Workgroup.give (x : Workgroup) : Workgroup :=
  if x.gave then x
  else
    { x with
      gave := x.takenSegs ≠ 0 || x.takenO ≠ 0 || x.takenA ≠ 0
      segMap := x.segMap.take (x.segMap.length - x.takenSegs)
      oslots := x.oslots.take (x.oslots.length - x.takenO)
      aslots := x.aslots.take (x.aslots.length - x.takenA) }

/-- The barrier object that a wave waited on has changed its PH (03 R67), before its segment is freed. -/
def State.barFlipped (s : State) (b : Option Blocked) : Bool :=
  match b with
  | some (.barw core byte ph) => (BarWord.of (s.barWords (core, byte)).1).ph != ph
  | _ => false

/-- Every save handler has ended. -/
def State.endSave (s : State) (g : Nat) (k : Gang) : State :=
  let s := (s.gangWaves k).foldl (fun s w => s.modWave w fun x => { x with woken := x.woken || s.barFlipped x.wakeOn }) s
  let s := k.wgs.foldl (fun s id => s.modWg id Workgroup.give) s
  s.modGang g fun k => { k with st := if k.st = .swapping then .swapped else .preempted }

/-- Every restore handler has ended, and the gang issues again (15 R326). The clocks of a wait counted for SWAPT start again at 0: 03 R67
says only that those of a pre-emption do not count (log 29: DESIGN CHOICE). -/
def State.endRestore (s : State) (g : Nat) (k : Gang) : State :=
  let s := k.wgs.foldl (fun s id => s.modWg id fun x =>
    { x with takenSegs := 0, takenO := 0, takenA := 0, takenWins := [], gave := false, waitClocks := 0 }) s
  s.modGang g fun k => { k with st := .resident, runs := [] }

/-- CONTEXT_SAVE: the next part of a save or a restore of a gang (15 R323 to R326). It waits until what is taken is still,
delivers CONTEXT to one wave after another of each workgroup, and ends when every handler has executed `RTE`, the bits of its runs
set or cleared. What it waited for at a home goes on when the gang is gone. -/
def execContextSave (gang : Nat) (s : State) : Host.Outcome State Fault Refusal :=
  let gone (s : State) : State := s.dirDrop fun q => q = .run (.contextSave gang)
  .next (match s.gang? gang with
    | none => gone s
    | some k =>
      if k.st = .saving || k.st = .swapping then
        let wgs := k.wgs.filterMap fun id => (s.wg? id).map fun x => (id, x)
        let s := wgs.foldl (fun s e => e.2.takenPhys.foldl (fun s i => s.unbindSeg e.2.core i true) s) s
        if !(wgs.all fun e => s.wgStill e.1 e.2 && (e.2.waves.filterMap s.wave?).all Wave.still) then
          s.postOnce (.contextSave gang)
        else match s.markRuns gang k true with
          | (false, s) => s
          | (true, s) => match s.contextAll k Wave.saveDue saveOffsets State.deliverSave with
            | (true, s) => s
            | (false, s) => s.endSave gang k
      else if k.st = .restoring then
        match s.contextAll k (fun x => x.save = .back) restoreOffsets State.deliverRestore with
        | (true, s) => s
        | (false, s) => match s.markRuns gang k false with
          | (false, s) => s
          | (true, s) => s.endRestore gang k
      else gone s)

/-! ### Restoring (15 R326) -/

/-- An accumulator slot from its image (15 R324). -/
def ASlot.ofImage (bs : List Byte) : ASlot :=
  let st := natOfBytes ((bs.drop 16512).take 1)
  { mode := some (if bit st 2 then .wide else .exact), base := 0
    elems := (List.range 1024).map fun i => (i, BitVec.ofNat 128 (natOfBytes ((bs.drop (16 * i)).take 16)))
    mask := BitVec.ofNat 1024 (natOfBytes ((bs.drop 16384).take 128)), nx := bit st 0, nv := bit st 1 }

/-- The registers of a wave that comes back to a core: free values, all full, until its handler and the frame write them. -/
def Wave.scrambled (x : Wave) (n rpt : Nat) : Wave :=
  x.mapThreads fun l t =>
    let f (i : Nat) : Word := (Config.freeValue (n + 512 * l + i)).setWidth 32
    { t with v := (List.range (8 * (rpt + 1))).map (fun i => (i, f i)), h := (List.range 2).map (fun i => (i, f (256 + i)))
             k := (List.range 8).map (fun i => (i, f (260 + i))), p := (f 270).setWidth 8, full := BitVec.allOnes 256 }

/-- A workgroup takes back what it gave up, on a core: segments with empty lines and their windows with a refetch due,
operand slots, accumulator slots from their images if claimed, waves in issue slots. -/
def State.restoreWg (s : State) (k : Gang) (id core : Nat) : State :=
  match s.wg? id with
  | none => s
  | some x =>
    let cl := clusterOfCore core
    let newSegs := takeFree 128 x.takenSegs (s.segsOn core)
    let newO := takeFree 3072 x.takenO (s.usedOps cl)
    let newA := takeFree 256 x.takenA (s.usedAccs cl)
    let keptS := x.segMap.length
    let keptA := x.aslots.length
    let s := (s.modWg id fun x =>
      { x with core, segMap := x.segMap ++ newSegs, oslots := x.oslots ++ newO, aslots := x.aslots ++ newA }).enterCore core
    let s := newSegs.zipIdx.foldl (fun s e =>
      let s := s.emptySeg core e.1
      match Table.look x.takenWins (keptS + e.2) with
      | none => s
      | some w =>
        let w : Seg := { w with st := .t, refetch := true, filling := false, linesLeft := 0, notice := false, back := false, dirty := 0 }
        s.setSeg core e.1 w) s
    let images := x.takenSegs + x.takenO + ceilDiv x.takenO 32
    let s := newA.zipIdx.foldl (fun s e =>
      if !x.aclaim.contains (keptA + e.2) then s.setAslot cl e.1 ASlot.empty
      else match (k.runVa id).bind fun a => s.saveRead k (unitVa a (images + 5 * e.2)) 16513 with
        | none => s.setAslot cl e.1 ASlot.empty
        | some bs => s.setAslot cl e.1 (ASlot.ofImage bs)) s
    let outs := s.wavesThat x fun y => y.save = .out
    let slots := pickSlots outs.length (s.slotLoads core)
    (x.waves.foldl (fun s w => match s.wave? w with
      | none => s
      | some y =>
        if y.save = .out then
          let y : Wave := { y with save := .back, slot := (slots.getD (outs.idxOf w) 0), rank := s.serial }
          if s.alive w then { s.setWave w (y.scrambled s.free k.rpt) with free := s.free + 16384, serial := s.serial + 1 }
          else s.setWave w { y with save := .none }
        else if y.save = .stays then s.setWave w { y with save := .back }
        else s) s)

/-- A gang is restored on cores of a quad, one for each workgroup. -/
def State.restoreGang (s : State) (g quad : Nat) (cores : List Nat) : State :=
  match s.gang? g with
  | none => s
  | some k =>
    let k' := if k.st = .swapped then s.keepSave (s.keepFields k) else k
    let s := s.modGang g fun _ => { k' with st := .restoring, quad }
    let s := (k.wgs.zip cores).foldl (fun s e => s.restoreWg { k' with quad } e.1 e.2) s
    s.postOnce (.contextSave g)

/-! ### RTE (15 R316, R325, R326) -/

/-- The record of a parked lane in a frame. -/
def laneOf (len : Nat) (bs : List Byte) : LaneRec :=
  let f (o n : Nat) : Nat := natOfBytes ((bs.drop o).take n)
  { cause := BitVec.ofNat 8 (f 0 1), dest := BitVec.ofNat 11 (f 4 2), pc := BitVec.ofNat 64 (f 8 8), addr := BitVec.ofNat 64 (f 0x10 8)
    len }

/-- A thread reloaded from its record of a frame, what it waits in kept; `lane` holds its 32 bytes of unit 1. -/
def Thread.reload (t : Thread) (bs lane : List Byte) : Thread :=
  let f (o n : Nat) : Nat := natOfBytes ((bs.drop o).take n)
  let d := f 8 8
  let guard : Guard := { pat := BitVec.ofNat 8 (bits d 8 8), left := min (bits d 16 4) 8, val := bit d 20 }
  let st := ThreadSt.ofNum (bits d 0 3)
  let a := t.shown
  { t with
    pc := BitVec.ofNat 64 (f 0 8), st, meet := BitVec.ofNat 64 (f 0x10 8), guard
    restart := { pc := BitVec.ofNat 64 (f 0x18 8), meet := BitVec.ofNat 64 (f 0x20 8), guard }
    fpctl := BitVec.ofNat 32 (f 0x28 4), fpflags := BitVec.ofNat 32 (f 0x2C 4), p := BitVec.ofNat 8 (f 0x30 1)
    h := putWords [] 0 2 (f 0x38 8), k := putWords [] 0 8 (f 0x40 32), full := BitVec.ofNat 256 (f 0x60 32)
    lane := if st = .parked then some (laneOf ((t.lane.map fun r => r.len).getD 4) lane) else none
    wait := if st = .waiting then a.wait else none, aside := none }

/-- The return of a context save: the set-aside state stands again, the wave leaves its core or stays (15 R325). -/
def State.returnSave (s : State) (k : Who) : State :=
  let s := s.releaseHeld k.w
  let s := s.modWave k.w fun x =>
    let y : Wave := { x.mapThreads (fun _ t => t.leave) with
      handler := none, handlerCount := 0, pend := x.pendAside, pendAside := none }
    if x.save = .due true then y.leaveCore else { y with save := .stays }
  (s.liftHalt k.x.wg).postOnce (.contextSave k.wg.gang)

/-- The return of a context restore: the frame is reloaded and the wave is as it was (15 R326); a page that could not be
resolved meanwhile traps it (15 R320). -/
def State.returnRestore (s : State) (k : Who) (bs : List Byte) : State :=
  let s := s.releaseHeld k.w
  let word (o n : Nat) : Nat := natOfBytes ((bs.drop o).take n)
  let y : Wave :=
    { k.x.mapThreads (fun l t => t.reload ((bs.drop (128 * l)).take 128) ((bs.drop (4096 + 32 * l)).take 32)) with
      handler := none, handlerCount := 0, pend := k.x.pendAside, pendAside := none, save := .none
      seqno := BitVec.ofNat 32 (word 0x1400 4), progress := BitVec.ofNat 32 (word 0x1418 4)
      page := k.x.pageAside, pageAside := none, wakeOn := none, woken := false, loads := k.x.again, again := [] }
  let s := ((s.setWave k.w y).liftHalt k.x.wg).postOnce (.contextSave k.wg.gang)
  let s := if y.fired then s.postOnce (.mwaitWake k.w) else s
  let s := y.loads.foldl (fun s e => s.post (.loadReturn k.w e.1)) s
  match y.page with
  | some _ => s.refusedPage k.w
  | none => s.settleAs k.w y.regroup y

/-- `RTE`: from a save handler it waits as `WFENCE` and `CFENCE.done` do (15 R325), so the stores of the open region drain first. -/
def execRte (s : State) : Host.Outcome State Fault Refusal :=
  .next (issue .rte s fun k act s =>
    let counted (s : State) : State :=
      (s.countIssue k.wg.core k.x k.x.group act (k.x.issuePc.getD 0)).modWave k.w Wave.counted
    match k.x.handler with
    | some .save =>
      let s := s.releaseHeld k.w
      if s.quiet k && (s.core k.wg.core).copiesDone k.w then .gone ((counted s).returnSave k) else .wait (s.notStalled k)
    | some .restore =>
      match (k.g.runVa k.w).bind fun f => s.saveRead k.g f 0x141C with
      | none => .wait (s.notStalled k)
      | some bs => .gone ((counted s).returnRestore k bs)
    | _ => .gone (((counted s).returnTrap k.w).refusedPage k.w))

end Sys2Proof.Machine
end

