-- ==== Sys2Proof/Machine/Campion.lean ====
section
/-! DEFINITION. Campion's walk and its decisions: region states, work, virtual times, placing, restoring, pre-empting (03 R56
to R71, 16 R330, R331, R337 to R341). -/

namespace Sys2Proof.Machine

/-! ### Region states (03 R71) -/

/-- A region has a gang that is resident, pre-empted or swapped out. -/
def State.regionBusy (s : State) (rcb : Nat) : Bool :=
  s.gangs.any fun g => g.2.rcb = rcb && g.2.st ≠ .exited && g.2.st ≠ .retired

/-- What held a paused region up is over: the logs have room again, or its replay starts again (16 R339, R341). -/
def State.mayResume (s : State) (chip rcb : Nat) : Bool :=
  let mode := s.effMode chip rcb
  (s.liveMembers chip).all fun c =>
    let p := s.logPos c rcb
    !p.halted && (!recording mode || decide (p.used < s.logRoom c rcb))

/-- The state of a region of the tree after one look at it. -/
def State.stateOf (s : State) (chip rcb : Nat) : Nat :=
  let cur := s.regionState chip rcb
  let work := (s.records chip rcb).any fun r => s.unretired chip r
  if cur = 0 && work then 1
  else if cur = 1 && !work && !s.regionBusy rcb then 0
  else if cur = 2 && s.mayResume chip rcb then 1
  else cur

/-- Writes STATE where it changes. -/
def State.putState (s : State) (chip rcb v : Nat) : State :=
  if s.regionState chip rcb = v then s else (s.recOp chip (rcb + 0x88) 8 .n64 v 0).2

/-- STATE of the regions of the tree, LOGP of the chip's part of a log whose region is paused (16 R337), and STATE of those no
longer reachable from the root. -/
def State.regionStates (s : State) (chip : Nat) : State :=
  let rs := s.regions chip
  let s := rs.foldl (fun s r =>
    let s := if s.regionState chip r = 2 then (s.raiseLogp chip r).getD s else s
    s.putState chip r (s.stateOf chip r)) s
  let gone := (s.chip chip).regions.filter fun r => !rs.contains r
  let s := gone.foldl (fun s r =>
    let s := if s.regionState chip r ≤ 2 then s.putState chip r 3 else s
    if s.regionState chip r = 3 && !s.regionBusy r then s.putState chip r 4 else s) s
  s.modChip chip fun c => { c with regions := rs ++ gone.filter fun r => s.regionState chip r = 3 }

/-! ### Work (03 R62, R65) -/

/-- What may be placed for a region: a gang to restore, a gang of a departed chip's placement entry, a new gang. -/
inductive Work where
  | restore (gang : Nat)
  | again (rank n rec : Nat)
  | claim (rec : Nat)
  deriving DecidableEq, Repr

/-- A block of a 128-byte line has been written since a count of serials. -/
def State.lineWritten (s : State) (line since : Nat) : Bool :=
  s.writtenSince (2 * line) since || s.writtenSince (2 * line + 1) since

/-- A wave of a swapped-out gang has what it waited for (03 R67). An object of `BARW` lies in segments that were taken: what became
of it before then is in `woken`. -/
def State.waveWakes (s : State) (w : Nat) : Bool :=
  match s.wave? w with
  | none => false
  | some x =>
    x.woken || (x.threads.any fun t => (t.inMwait fun n => n = 1).isSome) ||
    match x.wakeOn with
    | some .tokw => s.holdsToken w
    | some (.hand pa since) => s.lineWritten (pa / 128) (since + 1)
    | some (.barw _ _ _) => false
    | none => false

/-- The waves of a gang that left a workgroup's core. -/
def State.outCount (s : State) (x : Workgroup) : Nat := (s.wavesThat x fun y => y.save = .out).length

/-- What a pre-empted gang gave up fits on the cores it left (03 R70). -/
def State.fitsBack (s : State) (k : Gang) : Bool :=
  let ws := k.wgs.filterMap s.wg?
  let cl := k.quad / 4
  (ws.all fun x => s.coreRoom x.core (s.outCount x) k.rpt x.takenSegs &&
    (!k.paired || s.coreRoom (x.core + 1) (s.outCount x) k.rpt x.takenSegs)) &&
  decide ((s.usedOps cl).length + ws.foldl (fun n x => n + x.takenO) 0 ≤ 3072) &&
  decide ((s.usedAccs cl).length + ws.foldl (fun n x => n + x.takenA) 0 ≤ 256)

/-- The gang of a region that may be restored on a chip, the earliest placed. -/
def State.restorable (s : State) (chip rcb : Nat) : Option Nat :=
  (s.gangs.find? fun g => g.2.chip = chip && g.2.rcb = rcb &&
    match g.2.st with
    | .preempted => s.fitsBack g.2
    | .swapped => (s.gangWaves g.2).any s.waveWakes
    | _ => false).map fun g => g.1

/-- The launch is ordered: by its shape, or from its first claim (16 R329). -/
def State.isOrdered (s : State) (chip rcb rec : Nat) : Bool :=
  (s.shape rec).isSome || ((s.launchRec chip rec).nextg = 0 && (s.effMode chip rcb).getLsbD 0)

/-- A launch with gangs to claim may be claimed by a chip: always, or in an ordered launch where the next position's lane is
the chip's and free, and the lowest rank fixes the shape (16 R330). -/
def State.claimsHere (s : State) (chip rcb rec : Nat) : Bool :=
  if !s.isOrdered chip rcb rec then true
  else match s.shape rec with
    | none => s.lowRank = chip
    | some sh =>
      let lane := (s.launchRec chip rec).nextg % sh.length
      decide (sh.getD lane 0 / 16 = chip) && !s.laneBusy rec lane

/-- The lane of a gang that is to be placed again holds no gang of its launch (16 R331). -/
def State.laneFree (s : State) (chip rank n rec : Nat) : Bool :=
  match s.shape rec with
  | none => true
  | some sh => !s.laneBusy rec (posOf (s.launchRec chip rec).ngang (s.readEntry chip rank n).gang % sh.length)

/-- The work of a region on a chip, restoring first, then gangs of departed chips, then new gangs (03 R62, R65). A region
that is paused, draining or retired has none (03 R71), nor has one whose effective CORES is 0 (03 R61). -/
def State.work (s : State) (chip rcb : Nat) : Option Work :=
  if 2 ≤ s.regionState chip rcb || s.effBudget chip rcb 0 0x30 0 10 = 0 then none
  else match s.restorable chip rcb with
    | some g => some (.restore g)
    | none =>
      let again := ((s.records chip rcb).filter fun r => s.unretired chip r).flatMap fun r =>
        ((s.orphans chip r).filter fun e => s.laneFree chip e.1 e.2 r).map fun e => (e.1, e.2, r)
      match again with
      | (c, n, r) :: _ => some (.again c n r)
      | [] => match s.claimable chip rcb with
        | none => none
        | some r => if s.claimsHere chip rcb r then some (.claim r) else none

/-! ### The walk (03 R60, R61) -/

/-- Effective PRIO and CORES. -/
def State.effPrio (s : State) (chip rcb : Nat) : Nat := s.effField chip rcb 8 0x30 48 4
def State.effCores (s : State) (chip rcb : Nat) : Nat := s.effBudget chip rcb 0 0x30 0 10

/-- A region's subtree has work. -/
def State.treeWork (s : State) (chip rcb : Nat) : Bool := (reachable walkFuel s chip [rcb] []).any fun r => (s.work chip r).isSome

/-- The candidates at an RCB in the order own list, CHILD, NEXT: key and RCB. -/
def State.candidates (s : State) (chip rcb : Nat) : List (Nat × Nat) :=
  (if (s.work chip rcb).isSome then [(2 * rcb, rcb)] else []) ++
  ((s.children chip rcb).filter fun c => s.effCores chip c ≠ 0 && s.treeWork chip c).map fun c => (2 * c + 1, c)

/-- The virtual time of a candidate. -/
def State.vtime (s : State) (chip key : Nat) : Nat := Table.at (s.chip chip).vtimes key 0

/-- A candidate comes before another: higher PRIO, else lower virtual time. -/
def State.before (s : State) (chip : Nat) (a b : Nat × Nat) : Bool :=
  let p := s.effPrio chip a.2
  let q := s.effPrio chip b.2
  decide (q < p) || (p = q && decide (s.vtime chip a.1 < s.vtime chip b.1))

/-- The candidate taken. -/
def State.best (s : State) (chip : Nat) : List (Nat × Nat) → Option (Nat × Nat)
  | [] => none
  | c :: r => match s.best chip r with
    | none => some c
    | some d => if s.before chip d c then some d else some c

/-- The walk from an RCB: the region whose list it ends at, and the candidates taken on the way. -/
def walkTree (fuel : Nat) (s : State) (chip rcb : Nat) : Option (Nat × List (Nat × Nat)) :=
  match fuel with
  | 0 => none
  | n + 1 => match s.best chip (s.candidates chip rcb) with
    | none => none
    | some c =>
      if c.1 % 2 = 0 then some (rcb, [c])
      else (walkTree n s chip c.2).map fun r => (r.1, c :: r.2)

/-- A candidate that has become placeable takes at least the least virtual time of its placeable siblings (03 R61). -/
def State.refreshTimes (s : State) (chip : Nat) : State :=
  let was := (s.chip chip).wasPlaceable
  let nodes := (s.regions chip).map fun r => (s.candidates chip r).map fun c => c.1
  let times := nodes.foldl (fun t ks =>
    let old := (ks.filter fun k => was.contains k).map fun k => s.vtime chip k
    match old with
    | [] => t
    | v :: r =>
      let least := r.foldl min v
      ks.foldl (fun t k => if was.contains k then t else Table.put t k (max (Table.at t k 0) least)) t)
    (s.chip chip).vtimes
  s.modChip chip fun c => { c with vtimes := times, wasPlaceable := nodes.flatMap id }

/-- A placement of `n` workgroups is charged to the candidates of the walk (03 R61). -/
def State.charge (s : State) (chip n : Nat) (path : List (Nat × Nat)) : State :=
  path.foldl (fun s c =>
    let w := s.effCores chip c.2
    if w = 0 then s
    else s.modChip chip fun x => { x with vtimes := Table.put x.vtimes c.1 (Table.at x.vtimes c.1 0 + 4096 * n / w) }) s

/-! ### Placing and restoring -/

/-- The quads of a chip, each in turn (03 R60). -/
def State.quadsInTurn (s : State) (chip : Nat) : List Nat :=
  (List.range 16).map fun i => 16 * chip + ((s.chip chip).nextQuad + i) % 16

/-- The next decision begins at the quad after one. -/
def State.turnPast (s : State) (chip quad : Nat) : State := s.modChip chip fun c => { c with nextQuad := (quad + 1) % 16 }

/-- The first quad of a list on which a gang fits, with its cores. -/
def State.firstFit (s : State) (chip : Nat) (d : Need) : List Nat → Option (Nat × List Nat)
  | [] => none
  | q :: r => match s.fits chip q d with
    | some cs => some (q, cs)
    | none => s.firstFit chip d r

/-- ARG of a PLACE entry: quad and cores used (16 Table 16.5), the shadows of a paired gang's among them (16 R342). -/
def placeArg (quad : Nat) (paired : Bool) (cores : List Nat) : Nat :=
  quad + (footprint paired cores).foldl (fun n c => n + 2 ^ (8 + c % 4)) 0

/-- The buffer version of a launch with VSET, as `BVER` sets it (03 R59, 12 R270). -/
def State.setVersion (s : State) (chip : Nat) (q : LaunchRec) : State :=
  if q.vset then (s.recOp chip (reservedBase (s.repl chip).rsegsz + 8 * q.buf + 4) 8 .n32 q.ver 0).2 else s

/-- A gang of a launch is claimed (03 R64, 16 R330) on NEXTG: by an add, of 1, for a decision finds room for one gang on one quad (03
R60), or in an ordered launch by a compare-and-swap; then LSTATE, and the version at the first. The answer is the gang that the old value
gives: none where it is NGANG or more, and the claim is dropped. -/
def State.claimOne (s : State) (chip rec : Nat) (ordered : Bool) : Option Nat × State :=
  let q := s.launchRec chip rec
  let (o, s) := if ordered then s.recOp chip (rec + 0x40) 7 .n64 q.nextg (q.nextg + 1)
    else s.recOp chip (rec + 0x40) 0 .n64 1 0
  if q.ngang ≤ o || (ordered && o ≠ q.nextg) then (none, s)
  else
    let s := if o = 0 then s.setVersion chip q else s
    (some o, if q.ngang ≤ o + 1 then s.setLstate chip rec 2 else if q.lstate = 0 then s.setLstate chip rec 1 else s)

/-- What a decision comes to: it is taken, it waits for its log, or it fits nowhere as things stand. -/
inductive Decision where
  | done (s : State)
  | wait (s : State)
  | nowhere

/-- Claims and places one new gang (03 R64). -/
def State.placeClaim (s : State) (chip rcb rec : Nat) (path : List (Nat × Nat)) (d : Need) (quads : List Nat) : Decision :=
  let q := s.launchRec chip rec
  let ordered := s.isOrdered chip rcb rec
  match s.firstFit chip d quads with
  | none => .nowhere
  | some (quad, cores) =>
    let idx := if ordered then gangAt q.ngang q.nextg else q.nextg
    let lane := q.nextg % (((s.shape rec).map List.length).getD 1)
    match s.decideGang chip rcb (s.effMode chip rcb) (if ordered then q.nextg else idx) q.seq 1 (placeArg quad d.paired cores) with
    | (false, s) => .wait s
    | (true, s) =>
      match s.claimOne chip rec ordered with
      | (none, s) => .done s
      | (some o, s) =>
        let s := s.placeGang chip quad rcb rec (if ordered then gangAt q.ngang o else o) (if ordered then some (o, lane) else none) cores
        .done ((s.charge chip q.wgn path).turnPast chip quad)

/-- A gang of an ordered launch is placed again: the commit token returns to it if it precedes the holder (16 R333). -/
def State.tokenReplaced (s : State) (rec pos : Nat) : State :=
  match Table.look s.tokens rec with
  | none => s
  | some t =>
    let t := { t with away := t.away.filter fun p => p ≠ pos }
    let t := if pos ≤ t.pos then { t with pos, wg := 0, wave := 0 } else t
    tokenSettle 256 { s with tokens := Table.put s.tokens rec t } rec

/-- The quads on which a gang may be placed again: another than the one whose paired cores differed, unless its lane has the one only
(16 R331, R344). -/
def State.otherQuads (s : State) (chip rec n : Nat) (quads : List Nat) : List Nat :=
  match Table.look (s.chip chip).fencedPair n with
  | none => quads
  | some (_, old) => if (s.shape rec).isSome then quads else quads.filter fun q => q ≠ old

/-- A gang that left paired cores which differed has been placed again: wave 0 of its workgroup 0 takes PAIR_MISMATCH at its first
issue, with both core numbers (16 R344). -/
def State.pairTrap (s : State) (chip n rec idx : Nat) : State :=
  match Table.look (s.chip chip).fencedPair n with
  | none => s
  | some (core, _) =>
    let s := s.modChip chip fun c => { c with fencedPair := Table.del c.fencedPair n }
    match ((s.gangs.find? fun g => g.2.launch = rec && g.2.idx = idx && g.2.st = .resident).bind fun g => g.2.wgs.head?).bind s.wg? with
    | none => s
    | some x => match x.waves with
      | [] => s
      | w :: _ => s.raiseA w chip
          { cause := 0x1A, pc := none, addr := BitVec.ofNat 64 (core + (core + 1) * 2 ^ 16), lseq := none, dest := 0x180 }

/-- Places a gang of a departed chip's entry again (03 R65, 16 R331). -/
def State.placeAgain (s : State) (chip rcb rank n rec : Nat) (path : List (Nat × Nat)) (d : Need) (quads : List Nat) :
    Decision :=
  let q := s.launchRec chip rec
  let idx := (s.readEntry chip rank n).gang
  match s.firstFit chip d (if rank = chip then s.otherQuads chip rec n quads else quads) with
  | none => .nowhere
  | some (quad, cores) =>
    let order := (s.shape rec).map fun sh => (posOf q.ngang idx, posOf q.ngang idx % sh.length)
    match s.decideGang chip rcb (s.effMode chip rcb) ((order.map fun o => o.1).getD idx) q.seq 1 (placeArg quad d.paired cores) with
    | (false, s) => .wait s
    | (true, s) =>
      let s := if rank = chip then s.modChip chip fun c => { c with again := c.again.filter fun e => e ≠ n } else s
      let s := (s.clearEntry chip rank n).placeGang chip quad rcb rec idx order cores
      let s := if rank = chip then s.pairTrap chip n rec idx else s
      let s := match order with
        | some (p, _) => s.tokenReplaced rec p
        | none => s
      .done ((s.charge chip q.wgn path).turnPast chip quad)

/-- The bound of an ordered launch's CORES check on a chip (16 R330). -/
def State.laneCores (s : State) (chip rcb rec : Nat) : Option Nat :=
  (s.shape rec).map fun sh => min (s.effCores chip rcb) (4 * (sh.filter fun q => q / 16 = chip).length)

/-- What a swapped-out gang asks for, by its region's fields as they are now (02 R48). -/
def State.gangNeed (s : State) (k : Gang) : Need :=
  let ws := k.wgs.filterMap s.wg?
  let most (f : Workgroup → Nat) : Nat := ws.foldl (fun n x => max n (f x)) 0
  { rcb := k.rcb, n := ws.length, waves := most s.outCount, rpt := k.rpt, segs := most fun x => x.takenSegs
    osl := most fun x => x.takenO, asl := most fun x => x.takenA, paired := (s.effMode k.chip k.rcb).getLsbD 1
    cores := if k.ordered then s.laneCores k.chip k.rcb k.launch else none }

/-- Restores a gang: a pre-empted one on the cores it left, a swapped-out one where it fits (03 R62, R67, R70). A restore adds to virtual
time as a placement does, of which alone 03 R61 speaks (log 29: DESIGN CHOICE). -/
def State.placeBack (s : State) (chip gang : Nat) (path : List (Nat × Nat)) (quads : List Nat) : Decision :=
  match s.gang? gang with
  | none => .wait s
  | some k =>
    let at' := if k.st = .swapped then
        s.firstFit chip (s.gangNeed k) (if k.ordered then [((s.shape k.launch).getD []).getD k.laneNo k.quad] else quads)
      else some (k.quad, (k.wgs.filterMap s.wg?).map fun x => x.core)
    match at' with
    | none => .nowhere
    | some (quad, cores) =>
      let mode := if k.st = .swapped then s.effMode chip k.rcb else k.mode
      match s.decideGang chip k.rcb mode k.logPos k.seq.toNat 1 (placeArg quad (mode.getLsbD 1) cores) with
      | (false, s) => .wait s
      | (true, s) =>
        let e := s.readEntry chip chip k.entry
        let s := (s.restoreGang gang quad cores).writeEntry chip chip k.entry { e with launch := k.launch, gang := k.idx, quad }
        .done ((s.charge chip cores.length path).turnPast chip quad)

/-! ### Pre-emption (03 R68 to R70) -/

/-- The least number of waves that leave a victim's workgroup before what is asked for fits on a core beside what stays; the
workgroup is `x`, of waves of `r` KiB. -/
def State.evictions (s : State) (core : Nat) (d : Need) (x : Option Workgroup) (r : Nat) : Option Nat :=
  let held := (x.map s.heldWaves).getD []
  let segs := (x.map fun y => y.segMap.length).getD 0
  if s.fencedCore core || decide (128 + segs < (s.segsOn core).length + d.segs) then none
  else (List.range (held.length + 1)).find? fun n =>
    decide ((s.wavesOn core).length + d.waves ≤ 48 + n) && decide (s.kibOn core + d.waves * (d.rpt + 1) ≤ 256 + n * r)

/-- The highest `n` waves of a workgroup that hold registers. -/
def State.topWaves (s : State) (x : Workgroup) (n : Nat) : List Nat :=
  let held := s.wavesThat x fun y => y.save ≠ .out
  held.drop (held.length - n)

/-- Slots taken from the highest workgroups down: how many of each. -/
def takeDown (short : Nat) : List (Nat × Nat) → Table Nat
  | [] => []
  | (id, n) :: r => Table.put (takeDown (short - min short n) r) id (min short n)

/-- Inserts a core by evictions, ties to the lower member. -/
def insertCore (e : Nat × Nat) : List (Nat × Nat) → List (Nat × Nat)
  | [] => [e]
  | f :: r => if e.1 < f.1 then e :: f :: r else f :: insertCore e r

/-- What a victim gang loses so that a gang fits on its quad: none where it cannot. -/
def State.plan (s : State) (d : Need) (k : Gang) : Option (List Evict) :=
  let mine := k.wgs.filterMap fun id => (s.wg? id).map fun x => (id, x)
  let on (c : Nat) : Option (Nat × Workgroup) := mine.find? fun e => s.occupies e.2 c
  let costs := ((List.range 4).map fun i => 4 * k.quad + i).filterMap fun c =>
    (s.evictions c d ((on c).map fun e => e.2) (k.rpt + 1)).map fun n => (n, c)
  let ranked := costs.foldl (fun l e => insertCore e l) []
  let chosen := if d.paired then costs.filter fun e => decide (e.2 % 4 < 2 * d.n) else ranked.take d.n
  if chosen.length < (if d.paired then 2 * d.n else d.n) then none
  else
    let cl := k.quad / 4
    let down := mine.reverse
    let ops := takeDown ((s.usedOps cl).length + d.osl * d.n - 3072) (down.map fun e => (e.1, e.2.oslots.length))
    let accs := takeDown ((s.usedAccs cl).length + d.asl * d.n - 256) (down.map fun e => (e.1, e.2.aslots.length))
    some (mine.map fun e =>
      let here := chosen.filter fun c => s.occupies e.2 c.2
      let n := here.foldl (fun m c => max m c.1) 0
      let short := here.foldl (fun m c => max m ((s.segsOn c.2).length + d.segs - 128)) 0
      { wg := e.1, waves := s.topWaves e.2 n, segs := short, osl := Table.at ops e.1 0, asl := Table.at accs e.1 0 })

/-- The state with what is taken already free, by which a plan is judged. -/
def State.without (s : State) (es : List Evict) : State :=
  es.foldl (fun s e =>
    let s := e.waves.foldl (fun s w => s.modWave w fun x => { x with save := .out }) s
    s.modWg e.wg fun x => { x with takenSegs := e.segs, takenO := e.osl, takenA := e.asl }.give) s

/-- A victim that will do: its gang, plan and runs. -/
structure Victim where
  gang : Nat
  prio : Nat
  waves : Nat
  quad : Nat
  evicts : List Evict
  runs : Table (Nat × Nat)

/-- A resident gang as a victim (03 R68, 15 R324), one that is pre-empted still among them, by its state at this moment (03 R70): of
lower PRIO, on a quad of the list, evictable, and the gang fits then. -/
def State.victim (s : State) (chip : Nat) (d : Need) (prio : Nat) (quads : List Nat) (g : Nat) (k : Gang) : Option Victim :=
  let p := s.effPrio chip k.rcb
  if k.chip ≠ chip || !(k.st = .resident || k.st = .preempted) || prio ≤ p || !quads.contains k.quad then none
  else match s.plan d k with
    | none => none
    | some es => match s.evictable k es with
      | none => none
      | some runs =>
        if ((s.without es).fits chip k.quad d).isNone then none
        else some { gang := g, prio := p, waves := es.foldl (fun n e => n + e.waves.length) 0, quad := k.quad, evicts := es, runs }

/-- The criteria of 03 R68 in order. -/
def Victim.better (a b : Victim) : Bool :=
  decide (a.prio < b.prio) || (a.prio = b.prio &&
    (decide (a.waves < b.waves) || (a.waves = b.waves && decide (a.quad < b.quad))))

/-- The victim chosen; of those that 03 R68 does not tell apart the one placed first (log 29: DESIGN CHOICE). -/
def State.chooseVictim (s : State) (chip : Nat) (d : Need) (prio : Nat) (quads : List Nat) : Option Victim :=
  s.gangs.foldl (fun best g => match s.victim chip d prio quads g.1 g.2 with
    | none => best
    | some v => match best with
      | none => some v
      | some b => if v.better b then some v else some b) none

/-- A gang of higher PRIO that fits on no quad pre-empts (03 R68, R69): nothing while a handler of the victim runs, nor while an eviction
is under way on the chip, of which the spec says nothing (log 29: DESIGN CHOICE). -/
def State.preempt (s : State) (chip : Nat) (d : Need) (quads : List Nat) : State :=
  if s.gangs.any fun g => g.2.chip = chip && g.2.st = .saving then s
  else match s.chooseVictim chip d (s.effPrio chip d.rcb) quads with
    | none => s
    | some v => match s.gang? v.gang with
      | none => s
      | some k =>
        if (s.gangWaves k).any fun w => ((s.wave? w).map fun x => x.handler.isSome).getD false then s
        else match s.decideGang chip k.rcb k.mode k.logPos k.seq.toNat 7 k.quad with
          | (false, s) => s
          | (true, s) => s.beginSave v.gang k v.evicts v.runs .saving

/-! ### Replays that cannot go on (16 R341) -/

/-- Every resident wave of a region on a chip waits, and there is one. -/
def State.allWait (s : State) (chip rcb : Nat) : Bool :=
  let ws := (s.gangs.filter fun g => g.2.chip = chip && g.2.rcb = rcb && g.2.st = .resident).flatMap fun g => s.gangWaves g.2
  let live := ws.filter s.alive
  live ≠ [] && live.all fun w => match s.wave? w with
    | none => true
    | some x => x.page.isSome || x.blocked.isSome || !(x.threads.any Thread.running)

/-- The wave that an entry names. -/
def State.entryWave (s : State) (chip rcb : Nat) (e : LogEntry) : Option Nat :=
  match s.gangs.find? fun g => g.2.chip = chip && g.2.rcb = rcb && g.2.logPos = e.pos with
  | none => none
  | some g => match g.2.wgs[e.wgw / 32 % 4]? with
    | none => none
    | some wg => match s.wg? wg with
      | none => none
      | some x => x.waves[e.wgw % 32]?

/-- The decision of an entry can no longer arise: a decision of Campion about a quad that is not live or a launch that is not in the list;
with every wave waiting, a wake or timeout of a wave that is not in such an `MWAIT`, or the acceptance of a task. A wake, a timeout
or a swap-out that its wait may still bring has not failed to arise (log 28: DEDUCED). -/
def State.cannotArise (s : State) (chip rcb : Nat) (e : LogEntry) : Bool :=
  let waiting (p : Nat → Bool) : Bool := match s.entryWave chip rcb e with
    | none => false
    | some w => ((s.wave? w).map fun x => x.threads.any fun t => (t.inMwait p).isSome).getD false
  if e.kind = 1 || e.kind = 6 || e.kind = 7 then
    (e.kind ≠ 6 && !(s.repl chip).members.contains (e.arg % 128 / 16)) ||
      !((s.records chip rcb).any fun r => (s.launchRec chip r).seq = e.prog)
  else s.allWait chip rcb &&
    ((e.kind = 2 && !waiting fun _ => true) || (e.kind = 3 && !waiting fun n => decide (n ≠ 0)) || e.kind = 4)

/-- The two-level name of the wave that an entry names, at its issue PC; nothing where it names none (16 R347). -/
def State.entryName (s : State) (chip rcb : Nat) (e : LogEntry) : List Nat :=
  match if 2 ≤ e.kind && e.kind ≤ 4 then (s.entryWave chip rcb e).bind s.whoOf else none with
  | none => []
  | some k => k.name (k.x.issuePc.getD 0) k.x.seqno

/-- The replaying regions of a chip whose next entry cannot arise halt. -/
def State.replayChecks (s : State) (chip : Nat) : State :=
  (s.regions chip).foldl (fun s r =>
    if !replaying (s.effMode chip r) || (s.logPos chip r).halted || s.regionState chip r ≠ 1 then s
    else match s.logNextKind chip r false with
      | none => s
      | some (n, e) => if s.cannotArise chip r e then s.diverges chip r n (some e) e (s.entryName chip r e) else s) s

/-! ### CAMPION_PLACEMENT -/

/-- The shape of an ordered launch is fixed before its first claim (16 R330). -/
def State.fixShape (s : State) (chip rcb rec : Nat) : State :=
  if s.isOrdered chip rcb rec && (s.shape rec).isNone then
    { s with shapes := Table.put s.shapes rec (s.newShape chip rcb) }
  else s

/-- The quads on which the gang at a curve position may go. -/
def State.quadsFor (s : State) (chip rec pos : Nat) : List Nat :=
  match s.shape rec with
  | none => s.quadsInTurn chip
  | some sh => [sh.getD (pos % sh.length) 0]

/-- One decision about a region's work (03 R60 to R70). -/
def State.decideWork (s : State) (chip rcb : Nat) (path : List (Nat × Nat)) (w : Work) : State :=
  let launch (rec pos : Nat) (place : State → Need → List Nat → Decision) : State :=
    let q := s.launchRec chip rec
    let d := q.need rcb ((s.effMode chip rcb).getLsbD 1) (s.laneCores chip rcb rec)
    let quads := s.quadsFor chip rec pos
    match place s d quads with
    | .done s => s
    | .wait s => s
    | .nowhere => s.preempt chip d quads
  match w with
  | .restore g => match s.placeBack chip g path (s.quadsInTurn chip) with
    | .done s => s
    | .wait s => s
    | .nowhere => match s.gang? g with
      | none => s
      | some k => s.preempt chip (s.gangNeed k) (if k.ordered then [k.quad] else s.quadsInTurn chip)
  | .again c n rec =>
    let idx := (s.readEntry chip c n).gang
    launch rec (if (s.shape rec).isSome then posOf (s.launchRec chip rec).ngang idx else 0) fun s d quads =>
      s.placeAgain chip rcb c n rec path d quads
  | .claim rec => launch rec (s.launchRec chip rec).nextg fun s d quads => s.placeClaim chip rcb rec path d quads

/-- The shape of the launch that a decision is about. -/
def State.shapeWork (s : State) (chip rcb : Nat) (w : Work) : State :=
  match w with
  | .claim rec => s.fixShape chip rcb rec
  | _ => s

/-- The shape of a launch that a decision did not claim is fixed again at the next (16 R329, R330). -/
def State.dropShape (s : State) (chip : Nat) (w : Work) : State :=
  match w with
  | .claim rec => if (s.launchRec chip rec).nextg = 0 then { s with shapes := Table.del s.shapes rec } else s
  | _ => s

/-- A gang that is pre-empted or swapped out in a draining region, which the walk does not reach, is restored where it fits, that it
may run to completion (03 R71; log 17: DEDUCED). -/
def State.drainBack (s : State) (chip : Nat) : State :=
  ((s.chip chip).regions.filter fun r => s.regionState chip r = 3).foldl (fun s r => match s.restorable chip r with
    | none => s
    | some g => match s.placeBack chip g [] (s.quadsInTurn chip) with
      | .done s => s
      | .wait s => s
      | .nowhere => s) s

/-- A decision of Campion, once strong operations can be performed at once: every list of the tree numbered, STATE kept, one
walk from the root, and one gang placed, restored or pre-empted. -/
def State.campion (s : State) (chip : Nat) : State :=
  let s := (s.regions chip).foldl (fun s r => (s.numberList chip r).2) s
  let s := ((s.regionStates chip).replayChecks chip).refreshTimes chip
  let s := s.drainBack chip
  let root := (s.chip chip).sys.rootrcb
  if root = 0 then s
  else match walkTree walkFuel s chip root with
    | none => s
    | some (rcb, path) => match s.work chip rcb with
      | none => s
      | some w => ((s.shapeWork chip rcb w).decideWork chip rcb path w).dropShape chip w

/-- CAMPION_PLACEMENT (03 R60). -/
def execCampionPlacement (chip : Nat) (s : State) : Host.Outcome State Fault Refusal :=
  .next (
    let c := s.chip chip
    if (c.sys.rootrcb = 0 && c.regions = []) || c.repl.out || !c.powered || c.draining then s
    else
      let t := s.flush
      if t.strongOpen chip then t.campion chip else s)

end Sys2Proof.Machine
end

