-- ==== Sys2Proof/Machine/Shake.lean ====
section
/-! DEFINITION. SHAKE256, the hash of digests, of measurements' report and of the ownership of keys (16 R345; 17 R361): FIPS 202. -/

namespace Sys2Proof.Machine

/-- The 25 lanes of a Keccak state, lane (x, y) at 5y + x. -/
abbrev Sponge := List DWord

/-- A lane of a state. -/
def Sponge.lane (s : Sponge) (x y : Nat) : DWord := s.getD (5 * (y % 5) + x % 5) 0

/-- The lanes in order of index from a function of (x, y). -/
def spongeOf (f : Nat → Nat → DWord) : Sponge := (List.range 25).map fun i => f (i % 5) (i / 5)

/-- θ. -/
def theta (s : Sponge) : Sponge :=
  let c (x : Nat) : DWord := (List.range 5).foldl (fun a y => a ^^^ s.lane x y) 0
  let cs := (List.range 5).map c
  let d (x : Nat) : DWord := cs.getD ((x + 4) % 5) 0 ^^^ (cs.getD ((x + 1) % 5) 0).rotateLeft 1
  spongeOf fun x y => s.lane x y ^^^ d x

/-- The walk of ρ from a lane, with the step count: each lane visited, as 5y + x, with its rotation, the triangular number of
the step. -/
def rhoWalk : Nat → Nat → Nat → Nat → Table Nat
  | 0, _, _, _ => []
  | left + 1, t, x, y => (5 * y + x, (t + 1) * (t + 2) / 2 % 64) :: rhoWalk left (t + 1) y ((2 * x + 3 * y) % 5)

/-- The lanes that ρ rotates: all but (0, 0), on the walk from (1, 0). -/
def rhoTable : Table Nat := rhoWalk 24 0 1 0

/-- ρ and π: lane (x, y) of the result is lane (x + 3y, x), rotated. -/
def rhoPi (s : Sponge) : Sponge :=
  let turns := rhoTable
  spongeOf fun x y =>
    let from' := (x + 3 * y) % 5
    (s.lane from' x).rotateLeft (((turns.find? fun e => e.1 = 5 * x + from').map fun e => e.2).getD 0)

/-- χ. -/
def chi (s : Sponge) : Sponge := spongeOf fun x y => s.lane x y ^^^ (~~~(s.lane (x + 1) y) &&& s.lane (x + 2) y)

/-- One step of the register behind ι: x⁸ + x⁶ + x⁵ + x⁴ + 1. -/
def iotaStep (r : Nat) : Nat := if r < 128 then 2 * r else (2 * r) ^^^ 0x171

/-- Seven bits of the register, at bits 0, 1, 3, 7, 15, 31 and 63 of a round's constant, and the register after them. -/
def iotaRound (r : Nat) : DWord × Nat :=
  (List.range 7).foldl (fun a j => (a.1 ||| (BitVec.ofNat 64 (a.2 % 2) <<< (2 ^ j - 1)), iotaStep a.2)) (0, r)

/-- Rounds of Keccak-f[1600], from a register: the four lane steps, then ι. -/
def keccakRounds : Nat → Nat → Sponge → Sponge
  | 0, _, s => s
  | n + 1, r, s =>
    let (k, r) := iotaRound r
    keccakRounds n r (match chi (rhoPi (theta s)) with
      | [] => []
      | first :: rest => (first ^^^ k) :: rest)

/-- Keccak-f[1600]. -/
def keccak (s : Sponge) : Sponge := keccakRounds 24 1 s

/-- Bytes as lanes, least significant byte first. -/
def lanesOf : Nat → List Byte → List DWord
  | 0, _ => []
  | n + 1, bs => BitVec.ofNat 64 (natOfBytes (bs.take 8)) :: lanesOf n (bs.drop 8)

/-- Absorbs blocks of 136 bytes. -/
def absorb : Nat → Sponge → List Byte → Sponge
  | 0, s, _ => s
  | n + 1, s, bs =>
    let b := lanesOf 17 (bs.take 136)
    absorb n (keccak ((List.range 25).map fun i => s.getD i 0 ^^^ b.getD i 0)) (bs.drop 136)

/-- The padding of SHAKE: 0x1F, zeros, 0x80 in the last byte. -/
def shakePad (bs : List Byte) : List Byte :=
  let r := 136 - bs.length % 136
  if r = 1 then bs ++ [0x9F] else bs ++ 0x1F :: List.replicate (r - 2) 0 ++ [0x80]

/-- The first `n` ≤ 136 bytes of SHAKE256 of a message. -/
def shake256 (bs : List Byte) (n : Nat) : List Byte :=
  let p := shakePad bs
  let s := absorb (p.length / 136) (List.replicate 25 0) p
  (s.flatMap fun l => bytesOfNat 8 l.toNat).take n

end Sys2Proof.Machine
end

