-- ==== Sys2Proof/Machine/Debug.lean ====
section
/-! DEFINITION. Fault records, counters, monitors and digests: `FREC`, `LFIX`, `PERF`, `HCAP`, `DGST` (15 R310, R315; 16
R345, R350, R351; 20 R417, R440, R441; 21 R456, R457). -/

namespace Sys2Proof.Machine

/-! ### FREC and LFIX -/

/-- A field of the record that a lane reads (15 Table 15.2). -/
def frecField (x : Wave) (t : Thread) (sel : Nat) : Quad :=
  let r := x.frec
  match sel with
  | 1 => r.pmask.setWidth 128
  | 5 => r.lseq.setWidth 128
  | 6 => BitVec.ofNat 128 r.skid
  | n =>
    let (cause, pc, addr, dest) : BitVec 8 × DWord × DWord × BitVec 11 := match t.lane with
      | some l => (l.cause, l.pc, l.addr, l.dest)
      | none => (r.cause, r.pc, r.addr, r.dest)
    match n with
    | 0 => cause.setWidth 128
    | 2 => pc.setWidth 128
    | 3 => (addr.extractLsb' 0 32).setWidth 128
    | 4 => (addr.extractLsb' 32 32).setWidth 128
    | _ => dest.setWidth 128

/-- `FREC` (20 R417). -/
def execFrec (f : ExtArgs) (s : State) : Host.Outcome State Fault Refusal :=
  .next (issue (.frec f) s fun k act s =>
    let sel := f.x18.toNat % 8
    .done (s.setLanes k.w act fun l t =>
      t.writeReg f.d (if sel = 2 then .w64 else .w32) (frecField k.x (k.x.thread l) sel)))

/-- The width that DEST[10:9] names. -/
def destWidth (d : BitVec 11) : Width :=
  match (d.extractLsb' 9 2).toNat with
  | 0 => .w32
  | 1 => .w64
  | _ => .w128

/-- A parked lane is fixed (15 R315): its destination written at the width of DEST and full, its resume point after the
faulting instruction. -/
def Thread.fix (t : Thread) (x : Quad) : Thread :=
  match t.lane with
  | none => t
  | some r =>
    let c := r.dest.extractLsb' 0 9
    let t := match Opd.of9 c with
      | some o => if c = 0x180 then t else t.deliver o (destWidth r.dest) x
      | none => t
    let after := r.pc + BitVec.ofNat 64 r.len
    let aside := t.aside.map fun a =>
      let restart : Restart := { pc := after, meet := a.meet, guard := a.guard }
      ({ a with pc := after, st := .deferred, restart := restart } : Aside)
    { t with lane := none, aside := aside }

/-- `LFIX` (20 R441): x at the width of TY. -/
def execLfix (f : ExtArgs) (s : State) : Host.Outcome State Fault Refusal :=
  .next (issue (.lfix f) s fun k act s =>
    .done (s.setLanes k.w act fun l t => t.fix (s.readOpd k.x l f.lit f.ty.width .int f.a)))

/-! ### PERF (21 R456, R457) -/

/-- A counter. How many instructions run on the scalar unit is the implementation's (04 R82): a free value that is at most
the instructions issued. -/
def State.perfValue (s : State) (core sel : Nat) : Nat :=
  let c := s.core core
  if sel < 85 then Table.at c.laneCycles sel 0
  else if sel = 129 then s.freshValue.toNat % (Table.at c.perf 128 0 + 1)
  else if 128 ≤ sel && sel ≤ 136 then Table.at c.perf sel 0
  else 0

/-- `PERF`, read form. -/
def execPerfRead (f : ExtArgs) (s : State) : Host.Outcome State Fault Refusal :=
  .next (issue (.perfRead f) s fun k act s =>
    let v := BitVec.ofNat 128 (s.perfValue k.wg.core f.x18.toNat)
    let s := if f.x18 = 129 then s.useFree else s
    .done (s.setLanes k.w act fun _ t => t.writeReg f.d .w64 v))

/-- `PERF.clr`. -/
def execPerfClr (f : ExtArgs) (s : State) : Host.Outcome State Fault Refusal :=
  .next (issue (.perfClr f) s fun k _ s => .done (s.modCore k.wg.core fun c => { c with perf := [], laneCycles := [] }))

/-- A slot that issues nothing counts 32 idle lanes at the issue PC of its earliest-placed resident wave, else in "other"
(16 R350). -/
def State.idleSlot (s : State) (core slot : Nat) : State :=
  let here := s.waves.filter fun e => e.2.slot = slot && s.coreOf e.1 = core && e.2.save ≠ .out && e.2.threads.any Thread.live
  let first := here.foldl (fun (m : Option Wave) e => match m with
    | none => some e.2
    | some x => if e.2.rank < x.rank then some e.2 else m) none
  let n := match first with
    | some x => s.pcBin (chipOfCore core) ((x.issuePc.orElse fun _ => lowestPc x.threads Thread.live).getD 0)
    | none => 16
  s.modCore core fun c => c.addCycles (5 * n + 4) 32

/-- IDLE_SLOT_CLOCK. -/
def execIdleSlotClock (core slot : Nat) (s : State) : Host.Outcome State Fault Refusal := .next (s.idleSlot core slot)

/-! ### HCAP (16 R351) -/

/-- The status of a configuration: 1 for a bad monitor, source or reserved bit. -/
def hcapBad (m : Nat) (c : Word) : Bool :=
  decide (3 < m) || decide (9 < (c.extractLsb' 0 5).toNat) || c.extractLsb' 10 6 ≠ 0

/-- The monitor operand. -/
def hcapMon (s : State) (k : Who) (f : ExtArgs) (act : List Nat) : Nat :=
  (s.readOpd k.x (act.headD 0) f.lit .w32 .int f.a).toNat

/-- `HCAP.cfg`: applies the configuration and clears the monitor. -/
def execHcapCfg (f : ExtArgs) (s : State) : Host.Outcome State Fault Refusal :=
  .next (issue (.hcapCfg f) s fun k act s =>
    let m := hcapMon s k f act
    let c := (s.readOpd k.x (act.headD 0) f.lit .w32 .int f.b).setWidth 32
    let bad := hcapBad m c
    let s := if bad then s
      else s.modCore k.wg.core fun x => { x with hcap := Table.put x.hcap m { Hcap.reset with cfg := c } }
    .done (s.setLanes k.w act fun _ t => t.writeReg f.d .w32 (if bad then 1 else 0)))

/-- What `HCAP.rd` reads. -/
def Hcap.read (h : Hcap) (sel : Nat) : Word :=
  if sel = 0 then h.min
  else if sel = 1 then h.max
  else if sel = 2 then h.count
  else if sel = 3 then h.cfg
  else if 32 ≤ sel && sel ≤ 63 then Table.at h.bins (sel - 32) 0
  else 0

/-- `HCAP.rd`. -/
def execHcapRd (f : ExtArgs) (s : State) : Host.Outcome State Fault Refusal :=
  .next (issue (.hcapRd f) s fun k act s =>
    let m := hcapMon s k f act
    let sel := (s.readOpd k.x (act.headD 0) f.lit .w32 .int f.b).toNat
    let v := if 3 < m then 0 else (Table.at (s.core k.wg.core).hcap m Hcap.reset).read sel
    .done (s.setLanes k.w act fun _ t => t.writeReg f.d .w32 (v.setWidth 128)))

/-- `HCAP.clr`: the configuration stands. -/
def execHcapClr (f : ExtArgs) (s : State) : Host.Outcome State Fault Refusal :=
  .next (issue (.hcapClr f) s fun k act s =>
    let m := hcapMon s k f act
    let h : Hcap := { Hcap.reset with cfg := (Table.at (s.core k.wg.core).hcap m Hcap.reset).cfg }
    .done (if 3 < m then s else s.modCore k.wg.core fun x => { x with hcap := Table.put x.hcap m h }))

/-- The level sources: write-queue depth, receive backlog, temperature, supply (16 Table 16.8). -/
def levelSource (src : Nat) : Bool := src = 4 || src = 5 || src = 8 || src = 9

/-- HCAP_LEVEL_SAMPLE: a monitor of a level source samples a level. -/
def execHcapLevelSample (core monitor : Nat) (level : Word) (s : State) : Host.Outcome State Fault Refusal :=
  .next (match Table.look (s.core core).hcap monitor with
    | none => s
    | some h =>
      if levelSource (h.cfg.extractLsb' 0 5).toNat then
        s.modCore core fun x => { x with hcap := Table.put x.hcap monitor (h.sample level.toNat) }
      else s)

/-! ### DGST (16 R345) -/

/-- "EPPOR-DGST". -/
def digestName : List Byte := [0x45, 0x50, 0x50, 0x4F, 0x52, 0x2D, 0x44, 0x47, 0x53, 0x54]

/-- The message of a lane. -/
def digestMsg (k : Who) (l : Nat) (f : ExtArgs) (v : Quad) : List Byte :=
  digestName ++ bytesOfNat 4 k.g.idx ++ bytesOfNat 1 k.wg.idx ++ bytesOfNat 1 k.x.idx ++ bytesOfNat 1 l ++
  bytesOfNat 1 f.ty.code.toNat ++ bytesOfNat 4 f.x18.toNat ++ bytesOfNat (f.ty.bits / 8) v.toNat

/-- A lane's fold as an atomic on its 32 bytes. -/
def State.foldLane (s : State) (k : Who) (f : ExtArgs) (l pa : Nat) : AtomLane :=
  let h := natOfBytes (shake256 (digestMsg k l f (s.readOpd k.x l f.lit f.ty.width .int f.b)) 32)
  { lane := l, pa, width := 32, md := foldMd, ty := f.ty, rm := .rne, nan := false
    b := BitVec.ofNat 128 h, c := BitVec.ofNat 128 (h / 2 ^ 128) }

/-- Lanes whose page is neither private nor homed are refused (16 R345). -/
def homedOnly (ls : List (Nat × DWord × Span)) : List (Nat × DWord × Span) :=
  ls.map fun e => match e.2.2 with
    | .parts ps => if ps.all fun p => decide (leafSeg p.leaf ≤ 1) then e else (e.1, e.2.1, .park 0x12)
    | _ => e

/-- `DGST`. -/
def dgstEff (f : ExtArgs) (k : Who) (act : List Nat) (s : State) : Eff :=
  let len := Instr.length (.dgst f)
  let ea (l : Nat) : DWord := (s.readOpd k.x l f.lit .w64 .int f.a).setWidth 64
  let va := ea (act.headD 0)
  match k.x.pend with
  | some (.todo es parks) => s.takeAll k .none .w32 len es parks va
  | _ => match spans k.xctx .atomic false true 32 (act.map fun l => (l, ea l)) s with
    | (.stop (.page a), s) => .gone (s.pageFault k 2 (k.x.issuePc.getD 0) a)
    | (.stop _, s) => .wait (s.notStalled k)
    | (.all ls, s) =>
      let ls := homedOnly ls
      let es := (goodSpans ls).foldl (fun es e => match e.2.2 with
        | p :: _ => addAtom k s p none (s.foldLane k f e.1 p.pa) es
        | [] => es) []
      let (es, s) := signEntries k none es s
      s.takeAll k .none .w32 len es (parksOf ls) va

/-- `DGST`. -/
def execDgst (f : ExtArgs) (s : State) : Host.Outcome State Fault Refusal := .next (issue (.dgst f) s (dgstEff f))

end Sys2Proof.Machine
end

