-- ==== Sys2Proof/Machine/Graph.lean ====
section
/-! DEFINITION. Dependence graphs: `GSUB`, the launch and retirement of nodes (13 R289; 20 R420, R421). -/

namespace Sys2Proof.Machine

/-! ### Nodes (13 Table 13.4) -/

/-- Alignment of the work record of a KIND (20 R421). -/
def workAlign : Nat → Nat
  | 1 => 32
  | 2 => 128
  | 3 => 64
  | _ => 1

/-- A node of a graph of `n` from its 64 bytes, read as one number. -/
def GNode.of (n : Nat) (pa : Option Nat) (buf code d : Nat) : GNode :=
  let kind := dfield d 0 8
  let work := dfield d 8 64
  let all := (List.range (min 8 (dfield d 1 8))).map fun i => dfield d (0x10 + 2 * i) 16
  { pa, buf, kind, work := BitVec.ofNat 64 work, st := if code = 0 then 0 else 3, code
    succ := all.filter fun j => decide (j < n)
    bad := decide (3 < kind) || decide (8 < dfield d 1 8) || all.any (fun j => decide (n ≤ j)) || work % workAlign kind ≠ 0
    ended := false }

/-- The nodes of a submission, or what stops it: a translation fault, a wait. -/
inductive Nodes where
  | all (ns : List GNode)
  | page (va : DWord)
  | wait
  deriving DecidableEq, Repr

/-- A node that may not be used faults; its successors are read where that is allowed. -/
def State.badNode (s : State) (x : XCtx) (chip n i : Nat) (va : DWord) (e : Nat × Nat) : GNode × State :=
  match s.span x .read false va 64 with
  | (.parts ps, s) => match s.engineBytes chip ps with
    | (.ok bs, s) => (GNode.of n none 0 (faultCode e i) (natOfBytes bs), s)
    | (.error _, s) => (GNode.of n none 0 (faultCode e i) 0, s)
  | (_, s) => (GNode.of n none 0 (faultCode e i) 0, s)

/-- Reads the nodes of a graph in index order: in private or homed pages that may be read and written (20 R421). -/
def readNodes (x : XCtx) (chip n : Nat) (g : DWord) : List Nat → State → Nodes × State
  | [], s => (.all [], s)
  | i :: r, s =>
    let va := g + BitVec.ofNat 64 (64 * i)
    let rest (z : GNode) (s : State) : Nodes × State := match readNodes x chip n g r s with
      | (.all ns, s) => (.all (z :: ns), s)
      | q => q
    match s.span x .atomic false va 64 with
    | (.page a, s) => (.page a, s)
    | (.wait, s) => (.wait, s)
    | (.park _, s) =>
      let (z, s) := s.badNode x chip n i va (0x12, 0)
      rest z s
    | (.parts ps, s) => match ps with
      | [] => (.wait, s)
      | p :: _ =>
        if 1 < leafSeg p.leaf then
          let (z, s) := s.badNode x chip n i va (0x12, 0)
          rest z s
        else match s.engineBytes chip [p] with
          | (.ok bs, s) => rest (GNode.of n (some p.pa) (leafBuf p.leaf) 0 (natOfBytes bs)) s
          | (.error (.fault e), s) => rest (GNode.of n none 0 (faultCode e i) 0) s
          | (.error _, s) => (.wait, s)

/-- Writes to nodes wait for windows that hold their regions and for host caches (11 R241, 17 R356); `id` names the
writer in a region queue. -/
def State.nodesReady (s : State) (core id : Nat) (pas : List Nat) : Bool × State :=
  pas.foldl (fun (r : Bool × State) pa =>
    let s := r.2
    if (s.cluster (stackOf pa)).hostHeld.contains (pa / 64) then (false, s.askHost (pa / 64))
    else if (s.dir? (regionOf pa)).isNone || s.dirMayWrite (regionOf pa) (.copy core id) then (r.1, s)
    else (false, s.dirAsk (regionOf pa) (.copy core id))) (true, s)

/-- Writes a field of a node at its home, as an atomic does (13 R289). -/
def State.writeNode (s : State) (core id : Nat) (z : GNode) (off n x : Nat) : State :=
  match z.pa with
  | none => s
  | some pa =>
    let cs := (bytesOfNat n x).zipIdx.map fun b => (pa + off + b.2, b.1)
    ((s.homeStore (some core) (some z.buf) cs).ringWrites cs).dirDone (regionOf pa) (.copy core id)

/-- Writes STAT and FCODE of a node. -/
def State.putStat (s : State) (core id : Nat) (z : GNode) : State :=
  (s.writeNode core id z 0x24 4 z.code).writeNode core id z 2 1 z.st

/-! ### The graph engine -/

/-- Changes a graph. -/
def State.modGraph (s : State) (core id : Nat) (f : Graph → Graph) : State :=
  s.modCore core fun x => { x with graphs := Table.modify x.graphs id f }

/-- Changes a node and writes its STAT and FCODE. -/
def State.setNode (s : State) (core id i : Nat) (z : GNode) : State :=
  (s.modGraph core id fun q => { q with nodes := q.nodes.set i z }).putStat core id z

/-- The waiting nodes that a fault reaches: successors, and theirs in turn. -/
def reach (fuel : Nat) (ns : List GNode) (todo seen : List Nat) : List Nat :=
  match fuel with
  | 0 => seen
  | m + 1 => match todo with
    | [] => seen
    | i :: r => match ns[i]? with
      | none => reach m ns r seen
      | some z =>
        if z.st ≠ 0 || seen.contains i then reach m ns r seen else reach m ns (r ++ z.succ) (seen ++ [i])

/-- The nodes that are skipped when a node faults (13 R289). -/
def skipped (ns : List GNode) (z : GNode) : List Nat := reach (16 * ns.length + 16) ns z.succ []

/-- PCNT of a node at its home. -/
def State.pcnt (s : State) (z : GNode) : Nat := (z.pa.map fun pa => Memory.readLe s.mem (pa + 4) 4).getD 1

/-- The nodes of a list enter state 4, and launch no more. -/
def State.skipNodes (s : State) (core id : Nat) (is : List Nat) : State :=
  is.foldl (fun s i => match (Table.look (s.core core).graphs id).bind fun q => q.nodes[i]? with
    | none => s
    | some z => (s.setNode core id i { z with st := 4 }).modGraph core id fun q => { q with queue := q.queue.filter fun j => j ≠ i }) s

/-- A successor's PCNT is decremented; at 0 it is to be launched. A node not in state 0 is left alone. -/
def State.decrement (s : State) (core id i : Nat) : State :=
  match (Table.look (s.core core).graphs id).bind fun q => q.nodes[i]? with
  | none => s
  | some z =>
    if z.st ≠ 0 then s
    else
      let n := (s.pcnt z + 2 ^ 32 - 1) % 2 ^ 32
      let s := s.writeNode core id z 4 4 n
      if n = 0 then s.modGraph core id fun q => { q with queue := q.queue ++ [i] } else s

/-- The nodes whose words a retirement writes. -/
def touched (ns : List GNode) (i : Nat) (z : GNode) : List Nat :=
  (i :: (if z.code = 0 then z.succ else skipped ns z)).filterMap fun j => (ns[j]?).bind fun y => y.pa

/-- A node whose work has ended retires: complete or faulted, with what follows for its successors. -/
def State.retireNode (s : State) (core id i : Nat) (q : Graph) (z : GNode) : State :=
  let z := { z with st := if z.code = 0 then 2 else 3, ended := false }
  let s := s.setNode core id i z
  if z.code = 0 then z.succ.foldl (fun s j => s.decrement core id j) s
  else (s.modGraph core id fun q => { q with fault := some (q.fault.getD z.code) }).skipNodes core id (skipped q.nodes z)

/-- The copy of a node. -/
def Graph.copy (q : Graph) (g : Gang) (id i clk : Nat) : Copy :=
  { wave := q.wave, wg := q.wg, gang := q.gang, pieces := [], seq := q.seq, pc := q.pc, bar := none, noEmpty := false
    node := some (id, i), noToken := q.noToken, page := none, failed := none, port := none, size := 0, held := none, fill := false
    slot := none, issued := clk, order := q.order, sent := none, asid := g.asid, ptroot := g.ptroot, priv := g.priv, lseq := g.seq, shared := false
    rcv := [q.wg], mcast := false, num := i, missed := [], seen := [], lane := none, granted := false }

/-- The node's work has ended with a fault before it started. -/
def GNode.failed (z : GNode) (e : Nat × Nat) (i : Nat) : GNode := { z with ended := true, code := faultCode e i }

/-- Bytes of the work record of a KIND. -/
def workBytes : Nat → Nat
  | 1 => 32
  | 2 => 384
  | _ => 64

/-- Launches a task node: accepted at once with one contribution; a JOIN other than 1 is malformed (20 R421). -/
def State.launchTask (s : State) (core id i : Nat) (q : Graph) (x : Workgroup) (rec : Nat) : Bool × State :=
  let cluster := clusterOfCore core
  let c := s.cluster cluster
  if 512 ≤ c.queued then (false, s)
  else match s.whoOf q.wave with
    | none => (false, s)
    | some k => match s.decideNamed k 4 c.nextTask q.prog (k.name q.pc q.seq) with
      | (false, s) => (false, s)
      | (true, s) =>
        let bad := c.malformed q.wg x rec || dfield rec 3 8 ≠ 1
        let t := Task.create q.wg q.gang core 0 rec 0 q.pc q.seq q.wave bad (some (id, i))
        (true, (s.modCluster cluster fun c => c.addTask t).acceptTask cluster c.nextTask)

/-- Launches a node whose work record has been read: `false` while it must wait. -/
def State.launchWork (s : State) (core id i : Nat) (q : Graph) (z : GNode) (x : Workgroup) (g : Gang) (rec : Nat) :
    Bool × State :=
  let c := q.copy g id i (s.core core).clk
  let up (s : State) : State := s.setNode core id i { z with st := 1 }
  match z.kind with
  | 1 => if s.copyRoom core then (true, (up s).startRecord core c rec i) else (false, s)
  | 2 => if s.copyRoom core then (true, (up s).startTensor core c rec i) else (false, s)
  | _ => match s.launchTask core id i q x rec with
    | (false, s) => (false, s)
    | (true, s) => (true, s.modGraph core id (fun q => { q with nodes := q.nodes.modify i fun y => { y with st := 1 } }) |>.writeNode core id z 2 1 1)

/-- Launches the first node of the queue: `false` while it must wait. -/
def State.launchNode (s : State) (core id i : Nat) (q : Graph) (z : GNode) (x : Workgroup) (g : Gang) : Bool × State :=
  let fail (s : State) (e : Nat × Nat) : Bool × State :=
    (true, (s.setNode core id i { z.failed e i with st := 1 }).post (.graphNodeRetire core id i))
  if z.bad then fail s (0x16, 6)
  else if z.kind = 0 then
    (true, (s.setNode core id i { z with st := 1, ended := true }).post (.graphNodeRetire core id i))
  else match q.page with
    | some w => if w.refused then fail (s.modGraph core id fun q => { q with page := none }) (0x11, 0) else (false, s)
    | none =>
      let c := q.copy g id i (s.core core).clk
      match s.engineRead core (s.copyCtx core c) c z.work.toNat (workBytes z.kind) with
      | (.ok bs, s) => s.launchWork core id i q z x g (natOfBytes bs)
      | (.error .wait, s) => (false, s)
      | (.error (.fault e), s) => fail s e
      | (.error (.page va), s) =>
        let chip := chipOfCore core
        if (s.chip chip).ring.len = 0 then fail s (0x11, 0)
        else
          let w : PageWait := { asid := g.asid, vpn := vpnOf va, kind := 4, pc := q.pc, va, clu := clusterOfCore core % 4
                                seq := g.seq, dest := 0x180, refused := false }
          (false, (s.modGraph core id fun q => { q with page := some w }).requestPage chip w)

/-- Launches the nodes to be launched, in order, as far as they can be. -/
def launchAll (fuel core id : Nat) (s : State) : State :=
  match fuel with
  | 0 => s
  | m + 1 => match Table.look (s.core core).graphs id with
    | none => s
    | some q => match q.queue with
      | [] => s
      | i :: r => match q.nodes[i]?, s.party q.wg with
        | some z, some (x, g) =>
          match s.nodesReady core id (z.pa.toList) with
          | (false, s) => s.post (.graphNodeRetire core id i)
          | (true, s) => match s.launchNode core id i q z x g with
            | (true, s) => launchAll m core id (s.modGraph core id fun q => { q with queue := r })
            | (false, s) =>
              if ((Table.look (s.core core).graphs id).bind fun q => q.page).isSome then s
              else s.post (.graphNodeRetire core id i)
        | _, _ => s

/-- The barrier of a graph, if it has one that can be used. -/
def State.graphBar (s : State) (q : Graph) : Option (Nat × Nat) :=
  match s.copyBars false [q.wg] q.bar with
  | .ok (b :: _) => some b
  | _ => none

/-- A graph whose nodes have all ended records the first fault and arrives on its barrier; without one its fault is a trap
(13 R289, R290). -/
def State.endGraph (s : State) (core id : Nat) (q : Graph) : State :=
  let gone (s : State) : State :=
    (s.modCore core fun x => { x with graphs := Table.del x.graphs id }).dirDrop fun d => d = .copy core id
  match s.graphBar q with
  | some b =>
    if s.inT [b] then s.post (.graphNodeRetire core id 0)
    else
      let s := match q.fault with
        | some c => s.barFault b c q.seq
        | none => s
      gone ((s.barSign b q.sig).barUpdate b 0 (-1))
  | none => match q.fault with
    | some c => (gone s).copyTrap q.wave q.pc q.seq c
    | none => gone s

/-- GRAPH_NODE_RETIRE: a node whose work has ended retires; nodes to be launched launch; a graph with no node in state 0
or 1 ends. -/
def execGraphNodeRetire (core graph node : Nat) (s : State) : Host.Outcome State Fault Refusal :=
  .next (match Table.look (s.core core).graphs graph with
    | none => s
    | some q =>
      let (ok, s) := match q.nodes[node]? with
        | none => (true, s)
        | some z =>
          if !(z.ended && z.st = 1) then (true, s)
          else match s.nodesReady core graph (touched q.nodes node z) with
            | (false, s) => (false, s.post (.graphNodeRetire core graph node))
            | (true, s) => (true, s.retireNode core graph node q z)
      if !ok then s
      else
        let s := launchAll (q.nodes.length + 1) core graph s
        match Table.look (s.core core).graphs graph with
        | none => s
        | some q => if q.nodes.all fun z => decide (2 ≤ z.st) then s.endGraph core graph q else s)

/-! ### GSUB (20 R421) -/

/-- A fault of the submission: on the barrier, or as a trap without one; no node launches. -/
def State.graphFault (s : State) (k : Who) (bar : Option Nat) (e : Nat × Nat) : State :=
  match s.copyBars false [k.x.wg] bar with
  | .ok (b :: _) => (s.takeSeq k.w).barFault b (faultCode e 0) k.x.seqno
  | _ => (s.copyTrap k.w (k.x.issuePc.getD 0) k.x.seqno (faultCode e 0)).takeSeq k.w

/-- The nodes are submitted: STAT and FCODE cleared, those with PCNT 0 to be launched. -/
def State.submit (s : State) (k : Who) (bar : Option Nat) (ns : List GNode) : State :=
  let core := k.wg.core
  let id := s.serial
  let q : Graph :=
    { wave := k.w, wg := k.x.wg, gang := k.wg.gang, nodes := ns, queue := [], bar, seq := k.x.seqno, pc := k.x.issuePc.getD 0
      fault := (ns.find? fun z => z.code ≠ 0).map fun z => z.code, order := s.serial
      noToken := k.g.ordered && !s.holdsToken k.w, page := none, prog := k.x.progress, sig := 0 }
  let s := { s.modCore core (fun x => { x with graphs := Table.put x.graphs id q }) with serial := id + 1 }
  let s := ns.foldl (fun s z => if z.pa.isSome then s.putStat core (2 ^ 40 + k.w) z else s) s
  let s := (ns.filter fun z => z.code ≠ 0).foldl (fun s z => s.skipNodes core id (skipped ns z)) s
  let s := s.modGraph core id fun q =>
    { q with queue := (q.nodes.zipIdx.filter fun e => e.1.st = 0 && s.pcnt e.1 = 0).map fun e => e.2 }
  s.post (.graphNodeRetire core id 0)

/-- `GSUB`. -/
def gsubEff (f : ExtArgs) (k : Who) (act : List Nat) (s : State) : Eff :=
  let l := act.headD 0
  let core := k.wg.core
  let g := (s.readOpd k.x l f.lit .w64 .int f.a).setWidth 64
  let n := (s.readOpd k.x l f.lit .w32 .int f.b).toNat
  let bar := if f.aux.getLsbD 0 then none else some (f.x18.toNat * 16)
  if 16 ≤ (s.core core).graphs.length then .wait (s.notStalled k)
  else if (match s.graphBar { wave := 0, wg := k.x.wg, gang := 0, nodes := [], queue := [], bar, seq := 0, pc := 0, fault := none
                              order := 0, noToken := false, page := none, prog := 0, sig := 0 } with
      | some b => s.inT [b]
      | none => false) then .wait (s.notStalled k)
  else if n = 0 || 65536 < n then .done (s.graphFault k bar (0x16, 3))
  else if g.toNat % 64 ≠ 0 then .done (s.graphFault k bar (0x16, 6))
  else match s.copyBars false [k.x.wg] bar with
    | .error e => .done (s.graphFault k none e)
    | .ok _ => match readNodes k.xctx k.chip n g (List.range n) s with
      | (.page a, s) => .gone ((s.pageFault k 2 (k.x.issuePc.getD 0) a).takeSeq k.w)
      | (.wait, s) => .wait (s.notStalled k)
      | (.all ns, s) =>
        let pas := ns.filterMap fun z => z.pa
        if (s.core core).wq.any fun e => e.2.wave = k.w && !e.2.repl && pas.any fun pa => pa / 64 = e.2.block then
          .wait (s.notStalled k)
        else match s.nodesReady core (2 ^ 40 + k.w) pas with
          | (false, s) => .wait (s.notStalled k)
          | (true, s) => .done ((s.submit k bar ns).takeSeq k.w)

/-- `GSUB`. -/
def execGsub (f : ExtArgs) (s : State) : Host.Outcome State Fault Refusal := .next (issue (.gsub f) s (gsubEff f))

end Sys2Proof.Machine
end

