-- ==== Sys2Proof/Machine/Lanes.lean ====
section
/-! DEFINITION. The wave-collective lane instructions (22 R486, R487, R501; 21 R442, R443, R464, R465; 22 R481; 19
R406). -/

namespace Sys2Proof.Machine

/-- Writes a value of its own to each active lane. -/
def writeLanes (k : Who) (act : List Nat) (d : Opd) (w : Width) (v : Nat → Quad) (s : State) : Eff :=
  .done (s.setLanes k.w act fun l t => t.writeReg d w (v l))

/-! ### SHFL, VOTE, MATCH, ELECT -/

/-- The lane `SHFL` reads (22 R487). -/
def shflSource (mode l b : Nat) : Int :=
  match mode with
  | 0 => (b % 32 : Nat)
  | 1 => (l : Int) - b
  | 2 => (l : Int) + b
  | _ => (l ^^^ (b % 32) : Nat)

/-- `SHFL`. -/
def shflEff (i : Instr) (f : ExtArgs) (mode : Nat) (s : State) : State :=
  issue i s fun k act s =>
    writeLanes k act f.d f.ty.width (fun l =>
      let u := shflSource mode l (k.rd s l f .w32 f.b).toNat
      k.srcA s (if 0 ≤ u && act.contains u.toNat then u.toNat else l) f) s

/-- `SHFL`, base form: `.b32`, XB is the mode. -/
def execShfl (f : BaseArgs) (s : State) : Host.Outcome State Fault Refusal :=
  .next (shflEff (.shfl f) (f.toExt .b32 0) f.xb.toNat s)
/-- `SHFL`, extended form. -/
def execShflExt (f : ExtArgs) (s : State) : Host.Outcome State Fault Refusal :=
  .next (shflEff (.shflExt f) f f.md.toNat s)

/-- `VOTE` (22 R501). -/
def voteEff (i : Instr) (d a : Opd) (mode : Nat) (s : State) : State :=
  issue i s fun k act s =>
    let x (l : Nat) : Bool := (k.x.thread l).readPred a
    let r : Nat := match mode with
      | 0 => if act.any x then 1 else 0
      | 1 => if act.all x then 1 else 0
      | 2 => (maskOf (act.filter x)).toNat
      | _ => if act.all x || act.all (fun l => !x l) then 1 else 0
    writeLanes k act d .w32 (fun _ => BitVec.ofNat 128 r) s

/-- `VOTE`, base form: XB is the mode. -/
def execVote (f : BaseArgs) (s : State) : Host.Outcome State Fault Refusal :=
  .next (voteEff (.vote f) f.d f.a f.xb.toNat s)
/-- `VOTE`, extended form. -/
def execVoteExt (f : ExtArgs) (s : State) : Host.Outcome State Fault Refusal :=
  .next (voteEff (.voteExt f) f.d f.a f.md.toNat s)

/-- `MATCH` (21 R443). -/
def execMatchLanes (f : ExtArgs) (s : State) : Host.Outcome State Fault Refusal :=
  .next (issue (.matchLanes f) s fun k act s =>
    let v (l : Nat) : Quad := k.srcA s l f
    writeLanes k act f.d .w32 (fun l =>
      if f.md = 0 then (maskOf (act.filter fun u => v u = v l)).setWidth 128
      else if act.all (fun u => v u = v (lane0 act)) then (maskOf act).setWidth 128 else 0) s)

/-- `ELECT` (19 R406): 1 in the lowest active lane, 0 in the others. -/
def electEff (i : Instr) (d : Opd) (s : State) : State :=
  issue i s fun k act s => writeLanes k act d .w32 (fun l => if l = lane0 act then 1 else 0) s

/-- `ELECT`, base form. -/
def execElect (f : BaseArgs) (s : State) : Host.Outcome State Fault Refusal := .next (electEff (.elect f) f.d s)
/-- `ELECT`, extended form. -/
def execElectExt (f : ExtArgs) (s : State) : Host.Outcome State Fault Refusal := .next (electEff (.electExt f) f.d s)

/-! ### REDL and SCANL (21 R464, R465; 22 R481) -/

/-- The combination of two values, with the exceptions it raises. -/
def combine (f : ExtArgs) (mode : RoundMode) (x y : Quad) : Quad × Word :=
  match f.md.toNat with
  | 0 => (intRes f.ty opAdd x y 0, 0)
  | 1 => (intRes f.ty opMin x y 0, 0)
  | 2 => (intRes f.ty opMax x y 0, 0)
  | 3 => (x &&& y, 0)
  | 4 => (x ||| y, 0)
  | 5 => (x ^^^ y, 0)
  | 6 =>
    let xs := [numAt f.ty x, numAt f.ty y]
    putAt f.ty mode xs (fAdd mode xs)
  | _ => (if better f.ty true (f.aux.getLsbD 0) x y then x else y, 0)

/-- A combination in which either value may be absent. -/
def combineOpt (f : ExtArgs) (mode : RoundMode) (x y : Option (Quad × Word)) : Option (Quad × Word) :=
  match x, y with
  | some a, some b =>
    let (v, fl) := combine f mode a.1 b.1
    some (v, a.2 ||| b.2 ||| fl)
  | some a, none => some a
  | none, y => y

/-- One level of the tree: neighbours combined. -/
def pairUp (f : ExtArgs) (mode : RoundMode) : List (Option (Quad × Word)) → List (Option (Quad × Word))
  | x :: y :: r => combineOpt f mode x y :: pairUp f mode r
  | r => r

/-- The fixed tree over 32 lanes. -/
def redTree (f : ExtArgs) (mode : RoundMode) (s : List (Option (Quad × Word))) : Option (Quad × Word) :=
  ((List.range 5).foldl (fun t _ => pairUp f mode t) s).headD none

/-- One step of the fixed network: every element from `d` on is combined with the one `d` below it. -/
def scanStep (f : ExtArgs) (mode : RoundMode) (s : List (Option (Quad × Word))) (d : Nat) :
    List (Option (Quad × Word)) :=
  s.mapIdx fun i x => if i < d then x else combineOpt f mode (s.getD (i - d) none) x

/-- The fixed network of `SCANL`. -/
def scanNet (f : ExtArgs) (mode : RoundMode) (s : List (Option (Quad × Word))) : List (Option (Quad × Word)) :=
  [1, 2, 4, 8, 16].foldl (scanStep f mode) s

/-- Every exception of a network, combined by OR: those of each step's additions. -/
def scanFlags (f : ExtArgs) (mode : RoundMode) (s : List (Option (Quad × Word))) : Word :=
  (scanNet f mode s).foldl (fun m x => match x with
    | some v => m ||| v.2
    | none => m) 0

/-- The width of a lane reduction: pairs for 64-bit types and `.fmxi`. -/
def redWidth (f : ExtArgs) : Width := if f.md = 7 then .w64 else f.ty.width

/-- The values of the 32 lanes, absent outside the active ones. -/
def redValues (f : ExtArgs) (k : Who) (act : List Nat) (s : State) : List (Option (Quad × Word)) :=
  allLanes.map fun l =>
    if act.contains l then
      let x := s.readOpd k.x l f.lit (redWidth f) (if f.md = 7 then .int else f.ty.imm) f.a
      some (if f.md = 7 then x else BitVec.ofNat 128 (x.toNat % 2 ^ f.ty.bits), 0)
    else none

/-- The results of a lane reduction: flags set in every active lane, or every active lane parked (21 R465). -/
def redOut (f : ExtArgs) (len : Nat) (k : Who) (act : List Nat) (v : Nat → Quad) (fl : Word) (s : State) : Eff :=
  .done (s.setLanes k.w act fun l t => t.land (fpOut k.g.mode (v l, fl)) f.d (redWidth f) len)

/-- `REDL` (21 R465). -/
def execRedl (f : ExtArgs) (s : State) : Host.Outcome State Fault Refusal :=
  .next (issue (.redl f) s fun k act s =>
    let mode := (k.x.thread (lane0 act)).roundMode f.rm
    let r := (redTree f mode (redValues f k act s)).getD (0, 0)
    redOut f (Instr.length (.redl f)) k act (fun _ => r.1) r.2 s)

/-- `SCANL` (22 R481). -/
def execScanl (f : ExtArgs) (s : State) : Host.Outcome State Fault Refusal :=
  .next (issue (.scanl f) s fun k act s =>
    let mode := (k.x.thread (lane0 act)).roundMode f.rm
    let vs := redValues f k act s
    let net := scanNet f mode vs
    redOut f (Instr.length (.scanl f)) k act (fun l => ((net.getD l none).getD (0, 0)).1) (scanFlags f mode vs) s)

end Sys2Proof.Machine
end

