-- ==== Sys2Proof/Machine/Retire.lean ====
section
/-! DEFINITION. The end of workgroups, gangs and launches, kills by KLAUNCH, and swap-out (03 R58, R65, R67; 15 R327, R328; 16
R330, R333). -/

namespace Sys2Proof.Machine

/-! ### WORKGROUP_EXIT (15 R327, Table 15.7) -/

/-- A copy has a destination or its barrier in the segments of a workgroup. -/
def Copy.into (c : Copy) (wg : Nat) : Bool := c.touches wg 0

/-- A request of a workgroup's waves has been sent and is not granted (10 R216). -/
def State.strongOut (s : State) (x : Workgroup) : Bool :=
  (List.range 8).any fun c => (s.repl c).outstanding.any fun o => match o.2 with
    | .lane w _ _ _ => x.waves.contains w
    | .host => false

/-- What stops when a workgroup ends: gathering tasks are dropped, its streams close and its subscriptions drop, its inboxes
close, its monitors go; of a killed gang also accepted tasks, copies into its scratchpad, records of a `KICK` and nodes of a
graph that have not begun. -/
def State.wgStops (s : State) (id : Nat) (x : Workgroup) (killed : Bool) : State :=
  let cl := clusterOfCore x.core
  let s := s.modCluster cl fun c =>
    { c with tasks := c.tasks.mapVals (fun _ t =>
               if t.wg = id && (t.st = .gathering || (killed && t.st = .accepted)) then { t with st := .dropped } else t)
             streams := (c.streams.map fun r =>
               { r with closed := r.closed || r.wg = id, subs := r.subs.filter fun u => u.wg ≠ id }).filter fun r => !r.over }
  let s := s.modChip (chipOfCore x.core) fun c => { c with inboxes := c.inboxes.filter fun i => i.2.wg ≠ id }
  let s := x.waves.foldl (fun s w => s.cancelRegs w) s
  let s := if killed then
      { s with cores := s.cores.mapVals fun _ c =>
          { c with copies := c.copies.filter (fun e => !e.2.into id)
                   graphs := c.graphs.filter fun e => e.2.wg ≠ id
                   kick := match c.kick with
                     | some q => if q.wg = id then none else some q
                     | none => none } }
    else s
  s.postOnce (.taskDispatch cl)

/-- What a workgroup's exit waits for. -/
def State.wgOver (s : State) (id : Nat) (x : Workgroup) : Bool :=
  let c := s.cluster (clusterOfCore x.core)
  !(c.tasks.any fun e => e.2.wg = id && !e.2.ended) && !(c.streams.any fun r => r.wg = id) &&
  !(s.cores.any fun e => (e.2.copies.any fun k => k.2.into id) || (e.2.graphs.any fun g => g.2.wg = id) ||
    (e.2.kick.map fun q => decide (q.wg = id)).getD false) &&
  !s.strongOut x && (x.segMap.all fun i => s.seg x.core i = Seg.free)

/-- A workgroup's registers, segments and slots are free: what the core kept with its segments goes. Yarrow keeps the states of its tasks,
which are over, as long as those of any other (14 R299). -/
def State.freeWg (s : State) (id : Nat) (x : Workgroup) : State :=
  let mine (line : Nat) : Bool := x.segMap.contains (line / 32)
  let s := s.modCore x.core fun c =>
    { c with lineTag := c.lineTag.filter (fun e => !mine e.1)
             barSig := c.barSig.filter fun e => !x.segMap.contains (e.1 % 2 ^ 19 / 4096) }
  { s with waves := s.waves.filter (fun e => !x.waves.contains e.1), wgs := Table.del s.wgs id }

/-- A kill that ends the launch sets LSTATE to 5 (15 R328); `false` while the write cannot be made. -/
def State.markKilled (s : State) (k : Gang) : Bool × State :=
  if k.st ≠ .killed || !k.endsLaunch || !s.unretired k.chip k.launch then (true, s)
  else
    let t := s.flush
    if t.strongOpen k.chip then (true, t.setLstate k.chip k.launch 5) else (false, s)

/-- WORKGROUP_EXIT: once no thread of a workgroup lives. -/
def execWorkgroupExit (wg : Nat) (s : State) : Host.Outcome State Fault Refusal :=
  .next (match s.wg? wg with
    | none => s
    | some x => match s.gang? x.gang with
      | none => s
      | some k =>
        if s.liveWaves x.waves ≠ [] then s
        else
          let again (s : State) : State := s.postOnce (.workgroupExit wg)
          match s.markKilled k with
          | (false, s) => again s
          | (true, s) =>
            let killed : Bool := k.st = .killed
            let s := if x.exiting then s
              else (s.wgStops wg x killed).modWg wg fun y => { y with exiting := true }
            let s := x.segMap.foldl (fun s i => s.unbindSeg x.core i (!killed)) s
            if !s.wgOver wg x then again s
            else
              let s := s.freeWg wg x
              if k.wgs.all fun i => (s.wg? i).isNone then
                (s.modGang x.gang fun k => if k.st = .killed then k else { k with st := .exited }).postOnce (.gangRetire x.gang)
              else s)

/-! ### GANG_RETIRE (03 R58, R65; 16 R330) -/

/-- The effects of a gang have drained (03 R58): no entry of it in a write queue, no copy, `KICK` record or graph, no task, no
routing token listed or under way. -/
def State.drained (s : State) (g : Nat) : Bool :=
  !(s.cores.any fun c =>
    (c.2.wq.any fun e => e.2.gang = g) || (c.2.copies.any fun e => e.2.gang = g) || (c.2.graphs.any fun e => e.2.gang = g) ||
    (c.2.kick.map fun q => decide (q.gang = g)).getD false || (c.2.sends.any fun l => l.2.any fun t => t.gang = g)) &&
  !(s.clusters.any fun c => c.2.tasks.any fun t => t.2.gang = g && !t.2.ended) &&
  !(s.chips.any fun c => c.2.tokens.any fun t => t.gang = g)

/-- A gang that has exited retires: its placement entry is cleared, RETG counts it, and with the last gang LSTATE is 3; an
ordered one only after the position before it. `false` while it cannot. -/
def State.retire (s : State) (g : Nat) (k : Gang) : Bool × State :=
  let t := s.flush
  if !t.strongOpen k.chip || (k.ordered && (t.launchRec k.chip k.launch).retg ≠ k.pos) then (false, s)
  else
    let s := t.clearEntry k.chip k.chip k.entry
    let (old, s) := s.recOp k.chip (k.launch + 0x48) 0 .n64 1 0
    let q := s.launchRec k.chip k.launch
    let s := if old + 1 = q.ngang && decide (q.lstate < 3) then s.setLstate k.chip k.launch 3 else s
    let s := s.modGang g fun k => { k with st := .retired }
    (true, if k.ordered then tokenSettle 256 s k.launch else s)

/-- A killed gang leaves: one whose kill ended the launch clears its entry; the entry of another stands, and the gang is placed
again from it (15 R328). -/
def State.leaveKilled (s : State) (g : Nat) (k : Gang) : Bool × State :=
  let gone (s : State) : State := s.modGang g fun k => { k with st := .retired }
  if !k.endsLaunch then (true, gone s)
  else
    let t := s.flush
    if t.strongOpen k.chip then (true, gone (t.clearEntry k.chip k.chip k.entry)) else (false, s)

/-- The last gang of an ended launch has gone (03 R58). -/
def State.afterGang (s : State) (k : Gang) : State :=
  if s.unretired k.chip k.launch || s.gangs.any (fun h => h.2.launch = k.launch) then s
  else
    let s := { s with shapes := Table.del s.shapes k.launch, tokens := Table.del s.tokens k.launch }
    s.launchEnds k.chip k.launch

/-- GANG_RETIRE: the gang retires, and is forgotten once its effects have drained. -/
def execGangRetire (gang : Nat) (s : State) : Host.Outcome State Fault Refusal :=
  .next (match s.gang? gang with
    | none => s
    | some k =>
      let again (s : State) : State := s.postOnce (.gangRetire gang)
      if k.wgs.any fun i => (s.wg? i).isSome then s
      else match k.st with
        | .exited => again (s.retire gang k).2
        | .killed => again (s.leaveKilled gang k).2
        | .retired =>
          if s.drained gang then ({ s with gangs := Table.del s.gangs gang }).afterGang k else again s
        | _ => s)

/-! ### LAUNCH_DONE (03 R58) -/

/-- The strong add of 1 at DONE, a release at package scope of everything the launch did: every member's record of the sector
takes in every line. -/
def State.addDone (s : State) (chip done : Nat) : Option State :=
  (s.strongAdd chip .n64 done 1).map fun e =>
    (e.2.viewOf chip).foldl (fun s m => s.replSig m [done / 32] (some (BitVec.allOnes 512)) none) e.2

/-- LAUNCH_DONE. -/
def execLaunchDone (chip record : Nat) (s : State) : Host.Outcome State Fault Refusal :=
  .next (
    if !(s.chip chip).ended.contains record || s.unretired chip record || s.gangs.any (fun g => g.2.launch = record) then s
    else
      let settle (s : State) : State := s.modChip chip fun c => { c with ended := c.ended.filter fun r => r ≠ record }
      let done := (s.launchRec chip record).done
      if done = 0 then settle s
      else match s.addDone chip done with
        | none => s.postOnce (.launchDone chip record)
        | some s => settle s)

/-! ### KLAUNCH_WRITE (15 Table 15.3, R328) -/

/-- KLAUNCH_WRITE: every resident gang of the launch on the chip is killed, with its fault domain. -/
def execKlaunchWrite (chip : Nat) (value : DWord) (s : State) : Host.Outcome State Fault Refusal :=
  .next (s.gangs.foldl (fun s g =>
    if g.2.chip = chip && g.2.launch = value.toNat && g.2.placed then s.killGang g.1 true [] else s) s)

/-! ### SWAP_OUT (03 R67) -/

/-- Every live wave of a workgroup waits as 03 R67 lists. -/
def State.wgWaits (s : State) (x : Workgroup) : Bool :=
  (s.liveWaves x.waves).all fun w => match s.wave? w with
    | none => true
    | some y => y.page.isSome || y.blocked.isSome ||
        (!(y.threads.any Thread.running) && y.threads.any fun t => t.st = .waiting)

/-- The kind of wake condition of a gang's first waiting wave (16 Table 16.5). -/
def Wave.wakeKind (x : Wave) : Nat :=
  if x.page.isSome then 4
  else match x.blocked with
    | some (.barw _ _ _) => 0
    | some _ => 3
    | none =>
      if x.threads.any fun t => (t.inMwait fun n => decide (n ≠ 0)).isSome then 2
      else if x.threads.any fun t => (t.inMwait fun _ => true).isSome then 1
      else 0

/-- The kind that an entry of a swap-out names. -/
def State.gangWake (s : State) (k : Gang) : Nat :=
  match (s.gangWaves k).find? s.alive with
  | none => 0
  | some w => ((s.wave? w).map Wave.wakeKind).getD 0

/-- A gang meets the conditions of 03 R67. -/
def State.swapsNow (s : State) (k : Gang) : Bool :=
  let t := s.effField k.chip k.rcb 20 0x40 32 32
  k.st = .resident && t ≠ 0 &&
  (k.wgs.filterMap s.wg?).all (fun x =>
    s.liveWaves x.waves = [] || (s.wgWaits x && decide (t ≤ x.waitClocks))) &&
  !((s.gangWaves k).any fun w => ((s.wave? w).map fun x => x.handler.isSome).getD false)

/-- SWAP_OUT: the whole gang is evicted as a pre-emption evicts waves. -/
def execSwapOut (gang : Nat) (s : State) : Host.Outcome State Fault Refusal :=
  .next (match s.gang? gang with
    | none => s
    | some k =>
      if !s.swapsNow k then s
      else
        let es := k.wgs.filterMap fun id => (s.wg? id).map fun x =>
          ({ wg := id, waves := x.waves, segs := x.segMap.length, osl := x.oslots.length, asl := x.aslots.length } : Evict)
        match s.evictable k es with
        | none => s
        | some runs => match s.decideGang k.chip k.rcb k.mode k.logPos k.seq.toNat 6 (s.gangWake k) with
          | (false, s) => s
          | (true, s) => s.beginSave gang k es runs .swapping)

/-- A gang stops as a kill that does not end its launch; its placement entry is kept, to be placed again, and the commit token of an
ordered launch returns to it (16 R344, 17 R363). -/
def State.stopGang (s : State) (id : Nat) (k : Gang) : State :=
  let s := (s.killOne id false []).modChip k.chip fun c => { c with again := c.again ++ [k.entry] }
  if !k.ordered then s
  else { s with tokens := Table.modify s.tokens k.launch fun t =>
    { (if k.pos ≤ t.pos then { t with pos := k.pos, wg := 0, wave := 0 } else t) with away := t.away ++ [k.pos] } }

end Sys2Proof.Machine
end

