-- ==== Sys2Proof/Machine/View.lean ====
section
/-! DEFINITION. Membership: links that fail, view changes, departures and rejoin (10 R208, R222, R225 to R231, R520;
what a departure does elsewhere: 01 R19, 08 R163, 11 R247, R250, 16 R331, R333, 21 R447). -/

namespace Sys2Proof.Machine

/-! ### The agreed set (10 R520) -/

/-- A member names another in its proposal; one whose proposal is not held is judged by those of the others (log 19: DEDUCED). -/
def names (props : Table (List Nat)) (a b : Nat) : Bool :=
  match Table.look props a with
  | none => true
  | some p => p.contains b

/-- Two members have a link between them as far as the proposals held tell. -/
def linked (props : Table (List Nat)) (a b : Nat) : Bool := names props a b && names props b a

/-- How many of a set a member lacks a link to. -/
def lacking (props : Table (List Nat)) (ms : List Nat) (a : Nat) : Nat :=
  (ms.filter fun b => b ≠ a && !linked props a b).length

/-- The member that lacks links to the most of a set, the higher rank among equals; none where no link is lacking. -/
def worst (props : Table (List Nat)) (ms : List Nat) : Option Nat :=
  ms.foldl (fun w a =>
    let n := lacking props ms a
    if n = 0 then w
    else match w with
      | none => some a
      | some b => if lacking props ms b ≤ n then some a else w) none

/-- Members removed until every two remaining ones have a link. -/
def prune (fuel : Nat) (props : Table (List Nat)) (ms : List Nat) : List Nat :=
  match fuel with
  | 0 => ms
  | n + 1 => match worst props ms with
    | none => ms
    | some a => prune n props (ms.filter fun b => b ≠ a)

/-- The agreed set over the proposals held: the members named, those that leave themselves out removed first. -/
def agreedSet (props : Table (List Nat)) : List Nat :=
  let named := (List.range 8).filter fun m => props.any fun e => e.2.contains m
  prune 8 props (named.filter fun m => match Table.look props m with
    | none => true
    | some p => p.contains m)

/-- A chip that reaches no other member holds its own proposal only; it leaves, but for the lower rank of a view of two,
as the same rule has it over the whole view (log 19: DEDUCED). -/
def Repl.agree (r : Repl) (c : Nat) : List Nat :=
  let own := Table.at r.proposals c []
  if own = [c] && decide (1 < r.members.length) && r.shunned = [] then
    (if r.members.length = 2 && r.members.headD c = c then [c] else [])
  else agreedSet r.proposals

/-! ### Leaving (10 R230) -/

/-- What the cores and clusters of a chip hold is discarded: entries of write queues, engine work, cached lines and
translations. -/
def State.discardHeld (s : State) (c : Nat) : State :=
  { s with
    cores := s.cores.mapVals fun i x =>
      if chipOfCore i = c then { x with wq := [], l1 := [], kick := none, copies := [], graphs := [], sends := [] } else x
    clusters := s.clusters.mapVals fun i x =>
      if i / 4 = c then
        { x with tlb := [], walks := []
                 tasks := x.tasks.mapVals fun _ t => if t.ended then t else { t with st := .dropped } }
      else x }

/-- The directory chip of a host line among some members (11 R248, 01 R18). -/
def hostDirOf (mf4 : Bool) (ms : List Nat) (line : Nat) : Nat :=
  let n := if mf4 then 2 else 4
  (((List.range n).map fun i => (line + i) % n * 2).find? fun r => ms.contains r).getD (line % n * 2)

/-- Dirty host lines that only departed chips held: later reads see the host's value, and the directory chip logs them (11 R250). -/
def State.loseLines (s : State) (now gone : List Nat) : State :=
  gone.foldl (fun s d =>
    (s.chip d).hostLines.foldl (fun s e =>
      if (e.2 = .m || e.2 = .o) && !(now.any fun c => (s.hostSt c e.1).isSome) && (Table.look s.hostBase e.1).isSome then
        ((gone.foldl (fun s m => s.modChip m fun x => { x with hostLines := Table.del x.hostLines e.1 }) s).hostGone e.1).note
          (hostDirOf s.mf4 now e.1) 0x250 [e.1 * 64]
      else s) s) s

/-- A chip enters OUT: its gangs are killed without an end to their launches, and what it holds is discarded (what that is, log 19:
DEDUCED). -/
def State.enterOut (s : State) (c : Nat) : State :=
  let s := s.loseLines ((List.range 8).filter fun m => m ≠ c && s.chipExists m && !(s.repl m).out) [c]
  let s := s.gangs.foldl (fun s g => if g.2.chip = c then s.killOne g.1 false [] else s) s
  let s := (s.chip c).tokens.foldl (fun s t => if t.src = c then s else s.post (.tokenRefusal t.wave)) s
  (s.discardHeld c |>.modChip c fun x =>
    { x with hostLines := [], tokens := []
             repl := { x.repl with
               vst := .out, out := true, members := x.repl.members.filter (fun m => m ≠ c), hold := [], newer := []
               retained := [], recent := [], pending := [], outstanding := [], sent := [], proposals := [], agreed := []
               states := [], installing := none, shunned := [], joining := [], listeners := [], listenS0 := []
               donorDone := false, ackCount := 0, wrapacks := [], wrapackSeen := [] } }).note c 0x230 [c]

/-! ### What a departure does on a surviving chip -/

/-- A segment whose home has departed: T, its next access to trap; one that awaited the home's answer is free (11 R247). -/
def Seg.homeGone (x : Seg) : Seg :=
  if x.notice then Seg.free
  else { x with st := .t, lost := true, refetch := false, filling := false, linesLeft := 0, dirty := 0, back := false }

/-- A segment of a core that is bound, or awaits the home's answer, has the home of its region on one of the chips; with a refetch due
that is where its page lies now (12 R262). -/
def State.homedOn (s : State) (core : Nat) (x : Seg) (gone : List Nat) : Bool :=
  (x.st ≠ .i || x.notice) && gone.contains (chipOfStack (stackOf (s.segPa core x)))

/-- Segments of a chip's cores, and windows of its evicted workgroups, whose homes have departed. -/
def State.loseSegs (s : State) (c : Nat) (gone : List Nat) : State :=
  let s := ((List.range 64).map fun i => 64 * c + i).foldl (fun s core =>
    (s.core core).segs.foldl (fun s e =>
      if s.homedOn core e.2 gone then (s.emptySeg core e.1).setSeg core e.1 e.2.homeGone else s) s) s
  { s with wgs := s.wgs.mapVals fun _ x =>
      if chipOfCore x.core = c then
        { x with takenWins := x.takenWins.mapVals fun _ w => if s.homedOn x.core w gone then w.homeGone else w }
      else x }

/-- What waits in a region queue was asked for by a core of some chips. -/
def DirWait.from (gone : List Nat) : DirWait → Bool
  | .fill c _ _ => gone.contains (chipOfCore c)
  | .write c _ => gone.contains (chipOfCore c)
  | .copy c _ => gone.contains (chipOfCore c)
  | .run _ => false
  | .clear => false

/-- The homes of a chip drop the cores of departed chips from their entries and queues; the region of a departed owner is logged, for
its dirty bytes are lost (11 R247). -/
def State.dropHolders (s : State) (c : Nat) (gone : List Nat) : State :=
  ((List.range 4).map fun i => 4 * c + i).foldl (fun s k =>
    (s.cluster k).dir.foldl (fun s e =>
      let away := (e.2.sharers ++ e.2.asked).filter fun h => gone.contains (chipOfCore h.1)
      let s := if away.any fun h => e.2.st = .own || (s.seg h.1 h.2).owned then s.note c 0x247 [e.1 * 4096] else s
      away.foldl (fun s h => s.dirLeave e.1 h) (s.dirTake e.1 fun q => q.from gone)) s) s

/-- What was sent to a departed chip's stacks, or waits there, is tried again and meets the absent stack (08 R163). -/
def State.retryStacks (s : State) (c : Nat) (gone : List Nat) : State :=
  s.cores.foldl (fun s e => if chipOfCore e.1 ≠ c then s
    else e.2.wq.foldl (fun s q =>
      if !q.2.held && !q.2.repl && !isHostAddr (q.2.block * 64) &&
         gone.contains (chipOfStack (stackOf (q.2.block * 64))) then s.postOnce (.wqEntryPerform e.1 q.1) else s) s) s

/-- A surviving host-line cache writes back and invalidates the lines whose directory chip has changed (11 R250); its
bytes are in host memory already. -/
def State.rehomeLines (s : State) (c : Nat) (was now : List Nat) : State :=
  let moved := (s.chip c).hostLines.filter fun e => hostDirOf s.mf4 was e.1 ≠ hostDirOf s.mf4 now e.1
  let s := moved.foldl (fun s e =>
    if e.2 = .m || e.2 = .o then { s with hostBase := Table.del s.hostBase e.1 } else s) s
  let s := s.modChip c fun x => { x with hostLines := moved.foldl (fun t e => Table.del t e.1) x.hostLines }
  moved.foldl (fun s e => s.hostGone e.1) s

/-- Lanes of ordered launches on departed chips move to the surviving quad of lowest number (16 R331). -/
def State.remapShapes (s : State) (now gone : List Nat) : State :=
  { s with shapes := s.shapes.mapVals fun _ l => l.map fun q => if gone.contains (q / 16) then 16 * now.headD 0 else q }

/-- Positions of the gangs of a launch that stand in the placement entries of departed chips. -/
def State.orphanPos (s : State) (c rec : Nat) (gone : List Nat) : List Nat :=
  let q := s.launchRec c rec
  gone.flatMap fun d => ((List.range 4096).filter fun n => s.recField c (s.entryAt c d n) 0 0 64 = rec).map fun n =>
    posOf q.ngang (s.readEntry c d n).gang

/-- The commit token returns to the earliest wave to be placed again that precedes its holder (16 R333). -/
def State.returnTokens (s : State) (c : Nat) (gone : List Nat) : State :=
  s.tokens.foldl (fun s e =>
    match s.orphanPos c e.1 gone with
    | [] => s
    | p :: r =>
      let least := r.foldl min p
      let t := e.2
      let t := if least ≤ t.pos then { t with pos := least, wg := 0, wave := 0 } else t
      { s with tokens := Table.put s.tokens e.1 { t with away := t.away ++ p :: r } }) s

/-- What a departure does once for the module, at the survivor of lowest rank: it takes over launches whose DONE is due. -/
def State.departOnce (s : State) (c : Nat) (now gone : List Nat) : State :=
  let s := ((s.loseLines now gone).remapShapes now gone).returnTokens c gone
  gone.foldl (fun s d =>
    let due := (s.chip d).ended
    let s := (s.modChip d fun x => { x with ended := [] }).modChip c fun x => { x with ended := x.ended ++ due }
    due.foldl (fun s r => s.postOnce (.launchDone c r)) s) s

/-- What a departure does on a surviving chip. -/
def State.depart (s : State) (c : Nat) (was now gone : List Nat) : State :=
  let s := ((s.loseSegs c gone).dropHolders c gone).rehomeLines c was now
  let s := s.modChip c fun x => { x with tokens := x.tokens.filter fun t => !gone.contains t.src }
  let s := if now.headD c = c then s.departOnce c now gone else s
  s.retryStacks c gone

/-! ### INSTALL (10 R227 to R229) -/

/-- A replication unit adopts a view: departed counts 0, those of a chip that joins at the start, newer packets to be
applied, requests of departed chips discarded. -/
def Repl.adopt (r : Repl) (c : Nat) (i : Install) : Repl :=
  let gone := r.members.filter fun m => !i.members.contains m
  let came := i.members.filter fun m => !r.members.contains m
  let zero (v : List Nat) : List Nat := v.mapIdx fun j x => if gone.contains j || came.contains j then 0 else x
  let base (j k : Nat) : Nat := ((Table.look i.joined j).map fun v => vecAt v k).getD 0
  let acks := r.wrapacks.filter fun e => !(gone.contains (e.1 / 8) || gone.contains (e.1 % 8) || came.contains (e.1 % 8))
  { r with
    view := i.view, members := i.members, col := i.col, firstSlot := i.first, nextSlot := i.first, out := false
    applied := zero r.applied, wrapsApplied := zero r.wrapsApplied, own := if came.contains c then 0 else r.own
    acked := r.acked.mapIdx fun m v => if gone.contains m || came.contains m then List.replicate 8 0 else zero v
    wrapacks := came.foldl (fun t j => if j = c then t
      else (List.range 8).foldl (fun t k => Table.put t (8 * j + k) (Table.at t (8 * j + k) 0 + base j k)) t) acks
    wrapackSeen := (r.wrapackSeen.filter fun m => i.members.contains m) ++ came
    pending := (r.pending.filter fun q => !gone.contains q.rank).map fun q => { q with vec := zero q.vec }
    granted := r.granted.filter fun e => !came.contains e.1
    hold := r.newer.filter (fun p => i.members.contains p.rank && !viewNewer p.view i.view)
    newer := r.newer.filter fun p => i.members.contains p.rank && viewNewer p.view i.view
    recent := r.recent.filter fun p => r.members.contains p.rank && !came.contains p.rank
    vst := .normal, proposals := [], agreed := [], states := [], installing := none, shunned := [], joining := []
    listeners := [], listenS0 := [], donorDone := false, phaseClock := 0
    ackCount := if came = [] then r.ackCount else r.ackCount + 1 }

/-- Own requests that no grant covers are sent again, with their identifiers (10 R229). -/
def State.resendReqs (s : State) (c : Nat) : State :=
  let r := s.repl c
  let s := s.modRepl c fun r =>
    { r with sent := r.sent.map fun q => { q with vec := r.applied }
             pending := (r.pending.filter fun q => q.rank ≠ c) ++ r.sent.map fun q => { q with vec := r.applied } }
  r.sent.foldl (fun s q => s.sendAll c (.req { q with vec := r.applied })) s

/-- A member adopts the view of an INSTALL once it has applied every packet it holds, and resumes. -/
def State.adopt (s : State) (c : Nat) : State :=
  let r := s.repl c
  match r.installing with
  | none => s
  | some i =>
    if r.hold ≠ [] then s.postOnce (.packetApply c)
    else
      let gone := r.members.filter fun m => !i.members.contains m
      let came := i.members.filter fun m => !r.members.contains m
      let s := s.modRepl c fun r => (r.adopt c i).freeAcked c
      let s := if came ≠ [] then s.replEvent c 4 (came.headD 0) else s
      let s := if gone ≠ [] || came = [] then s.replEvent c 3 (gone.headD c) else s
      let s := if gone = [] then s.rehomeLines c r.members i.members else s.depart c r.members i.members gone
      let s := (s.repl c).regs.foldl (fun s g => s.fireWave g.wave g.line) s
      let s := (List.range 8).foldl (fun s k => if i.members.contains k then s.tellWraps c k else s) (s.resendReqs c)
      let s := if seqLimit ≤ (s.repl c).own then s.postOnce (.counterWrap c) else s
      ((s.retryRepl c).postOnce (.colGrant c)).postOnce (.packetApply c)

/-- A packet forwarded in an INSTALL that a member has neither applied nor holds. -/
def Repl.lacks (r : Repl) (p : Packet) : Bool :=
  let n := vecAt r.wrapsApplied p.rank
  !(decide (p.gen < n) || (p.gen = n && decide (vecAt p.vec p.rank ≤ vecAt r.applied p.rank))) &&
  !(r.hold.any fun q => q.rank = p.rank && q.gen = p.gen && vecAt q.vec p.rank = vecAt p.vec p.rank)

/-- An INSTALL reaches a chip: one that it leaves out enters OUT; a member takes the kept packets that it lacks, applies
what it holds and adopts the view (10 Table 10.6). -/
def State.install (s : State) (c : Nat) (i : Install) : State :=
  let r := s.repl c
  if r.vst = .out then s
  else if !i.members.contains c then
    (if r.vst = .normal && !viewNewer i.view r.view then s else s.enterOut c)
  else if r.vst ≠ .exchange || i.view ≠ r.proposedView then s
  else
    let s := s.modRepl c fun r =>
      { r with hold := r.hold ++ i.held.filter r.lacks, newer := r.newer.filter (fun p => i.members.contains p.rank)
               installing := some i }
    s.adopt c

/-- A packet kept by a survivor for each sequence number, the survivors' lists joined. -/
def joinHeld (ls : List (List Packet)) : List Packet :=
  ls.foldl (fun acc l => acc ++ l.filter fun p =>
    !(acc.any fun q => q.rank = p.rank && q.gen = p.gen && vecAt q.vec p.rank = vecAt p.vec p.rank)) []

/-- Kept counts by rank: the highest sequence number of a departed rank that a survivor applied or holds. -/
def keptCounts (sts : List StateRep) : List Nat :=
  (List.range 8).map fun j => sts.foldl (fun n st =>
    (st.held.filter fun p => p.rank = j).foldl (fun n p => max n (vecAt p.vec j)) (max n (vecAt st.vec j))) 0

/-- The coordinator has the STATE of every survivor: it computes the cut and sends INSTALL (10 R227, R228). Where no grant at all is kept
the first slot is 0 (log 25: DESIGN CHOICE). -/
def State.cut (s : State) (k : Nat) : State :=
  let r := s.repl k
  if r.vst ≠ .exchange || r.agreed.headD 8 ≠ k || r.installing.isSome ||
     !(r.agreed.all fun m => (Table.look r.states m).isSome) then s
  else
    let sts := r.states.map fun e => e.2
    let held := joinHeld (sts.map fun st => st.held)
    let slots := held.foldl (fun n p => if p.kind = 1 then max n (p.slot + 1) else n)
      (sts.foldl (fun n st => max n st.slots) 0)
    let i : Install :=
      { view := r.proposedView, members := r.agreed, col := k, first := ceilDiv slots 256 * 256, kept := keptCounts sts, held
        joined := (r.states.filter fun e => !r.members.contains e.1).map fun e => (e.1, e.2.wraps) }
    let to' := (List.range 8).filter fun d =>
      d ≠ k && s.chipExists d && (r.members.contains d || r.agreed.contains d || r.listeners.contains d)
    (to'.foldl (fun s d => s.send k d (.install (s.ctlVec k) i)) s).install k i

/-- What a member reports in STATE; WRAPs that it holds will have been applied before it adopts the view. -/
def Repl.report (r : Repl) : StateRep :=
  let all := r.recent ++ r.hold ++ r.newer
  { slots := all.foldl (fun n p => if p.kind = 1 then max n (p.slot + 1) else n) ((r.lastSlot.map fun n => n + 1).getD 0)
    vec := r.applied
    wraps := r.wrapsApplied.mapIdx fun j n => n + (r.hold.filter fun p => p.rank = j && p.kind = 2).length
    held := all.filter fun p => !r.agreed.contains p.rank }

/-- A member in PROPOSE that holds the proposal of every chip it proposed goes on to EXCHANGE, or out (10 Table 10.6). -/
def State.tryAgree (s : State) (c : Nat) : State :=
  let r := s.repl c
  if r.vst ≠ .propose || !((Table.at r.proposals c []).all fun m => (Table.look r.proposals m).isSome) then s
  else
    let ms := r.agree c
    if !ms.contains c then s.enterOut c
    else
      let s := s.modRepl c fun r => { r with vst := .exchange, agreed := ms, phaseClock := 0 }
      let st := (s.repl c).report
      let k := ms.headD c
      if k = c then (s.modRepl c fun r => { r with states := Table.put r.states c st }).cut c
      else s.send c k (.state st)

/-! ### Arrival of the messages of a view change -/

/-- A PROPOSE reaches a chip (10 Table 10.6): a newer number starts the change there, and its sender's set is recorded. -/
def State.arrivePropose (s : State) (src dst view : Nat) (ms : List Nat) : State :=
  let r := s.repl dst
  let join := r.listeners.filter fun m => ms.contains m
  let s := match r.vst with
    | .out => s
    | .listener => if r.donorDone && ms.contains dst then s.propose dst view false [] [dst] else s
    | .normal => if viewNewer view r.view then s.propose dst view false [] join else s
    | _ => if viewNewer view r.proposedView then
        s.propose dst view (!(Table.at r.proposals dst [dst]).contains dst) r.shunned (r.joining ++ join).eraseDups
      else s
  let r := s.repl dst
  if (r.vst = .propose || r.vst = .exchange) && view = r.proposedView then
    (s.modRepl dst fun r => { r with proposals := Table.put r.proposals src ms, states := Table.del r.states src }).tryAgree dst
  else s

/-- The first message of a link if it is one of a view change; a chip takes them one at a time. -/
def State.viewMsg (s : State) (src dst : Nat) : Option Msg := (s.headMsg src dst).filter Msg.ofView

/-- The first message of a link if it is no part of a view change. -/
def State.plainMsg (s : State) (src dst : Nat) : Option Msg := (s.headMsg src dst).filter fun m => !m.ofView

/-- PROPOSE_MESSAGE (10 Table 10.6). -/
def execProposeMessage (src dst : Nat) (s : State) : Host.Outcome State Fault Refusal :=
  .next (match s.viewMsg src dst with
    | some (.propose _ v ms) => (s.takeMsg src dst).arrivePropose src dst v ms
    | _ => s)

/-- STATE_MESSAGE (10 R226). -/
def execStateMessage (src dst : Nat) (s : State) : Host.Outcome State Fault Refusal :=
  .next (match s.viewMsg src dst with
    | some (.state st) =>
      let s := s.takeMsg src dst
      if (s.repl dst).vst = .propose || (s.repl dst).vst = .exchange then
        (s.modRepl dst fun r => { r with states := Table.put r.states src st }).cut dst
      else s
    | _ => s)

/-- INSTALL_MESSAGE (10 R227). -/
def execInstallMessage (src dst : Nat) (s : State) : Host.Outcome State Fault Refusal :=
  .next (match s.viewMsg src dst with
    | some (.install _ i) => (s.takeMsg src dst).install dst i
    | _ => s)

/-- Chips whose message a phase of a member waits for. -/
def Repl.silent (r : Repl) (c : Nat) : List Nat :=
  match r.vst with
  | .propose => (Table.at r.proposals c []).filter fun m => (Table.look r.proposals m).isNone
  | .exchange =>
    if r.installing.isSome then []
    else if r.agreed.headD c = c then r.agreed.filter fun m => (Table.look r.states m).isNone
    else r.agreed.take 1
  | _ => []

/-- VIEW_PHASE_TIMEOUT (10 R226): a phase that lasts beyond ACKLIM starts the change again, without the chips that do not
answer; until then the phase goes on if it can. -/
def execViewPhaseTimeout (chip : Nat) (s : State) : Host.Outcome State Fault Refusal :=
  .next (
    let r := s.repl chip
    if r.vst ≠ .propose && r.vst ≠ .exchange then s
    else if r.acklim < r.phaseClock then (s.startChange chip false (r.silent chip)).tryAgree chip
    else s.tryAgree chip)

/-! ### Packets, requests and acknowledgements reach a chip -/

/-- UPDATE_PACKET (10 R208, R211, R224, R225). -/
def execUpdatePacket (src dst : Nat) (s : State) : Host.Outcome State Fault Refusal :=
  .next (match s.plainMsg src dst with
    | some (.packet p) => if p.kind = 0 then s.deliverMsg src dst (.packet p) else s
    | _ => s)

/-- GRANT_PACKET (10 R218, R219). -/
def execGrantPacket (src dst : Nat) (s : State) : Host.Outcome State Fault Refusal :=
  .next (match s.plainMsg src dst with
    | some (.packet p) => if p.kind = 1 then s.deliverMsg src dst (.packet p) else s
    | _ => s)

/-- WRAP_PACKET (10 R223). -/
def execWrapPacket (src dst : Nat) (s : State) : Host.Outcome State Fault Refusal :=
  .next (match s.plainMsg src dst with
    | some (.packet p) => if p.kind = 2 then s.deliverMsg src dst (.packet p) else s
    | _ => s)

/-- REQ_MESSAGE (10 R216). -/
def execReqMessage (src dst : Nat) (s : State) : Host.Outcome State Fault Refusal :=
  .next (match s.plainMsg src dst with
    | some (.req q) => s.deliverMsg src dst (.req q)
    | _ => s)

/-- ACK_MESSAGE (10 R221). -/
def execAckMessage (src dst : Nat) (s : State) : Host.Outcome State Fault Refusal :=
  .next (match s.plainMsg src dst with
    | some (.ack v) => s.deliverMsg src dst (.ack v)
    | _ => s)

/-- WRAPACK_MESSAGE (10 R223): a WRAPACK, or the report that a member has received every one. -/
def execWrapackMessage (src dst : Nat) (s : State) : Host.Outcome State Fault Refusal :=
  .next (match s.plainMsg src dst with
    | some (.wrapack v k) => s.deliverMsg src dst (.wrapack v k)
    | some (.wrapackSeen v n) => s.deliverMsg src dst (.wrapackSeen v n)
    | _ => s)

/-- The unit of a chip applies packets: not in OUT, and a listener only once it has the donor's copy (10 R231). -/
def Repl.applies (r : Repl) : Bool := r.vst ≠ .out && (r.vst ≠ .listener || r.donorDone)

/-- A ready packet that the host's copies hold up is asked for (17 R356). -/
def State.askBlocked (s : State) (chip : Nat) : State :=
  ((s.repl chip).hold.filter fun p => (s.repl chip).ready p && (s.repl chip).hostBlocks p).foldl (fun s p =>
    s.modRepl chip fun r => { r with biWait := if r.biWait.contains p.blk then r.biWait else r.biWait ++ [p.blk] }) s

/-- The logs of a chip's regions stop a packet: a full log pauses its region, a divergence stops the replay (16 R339 to
R341). -/
def State.packetHalts (s : State) (chip : Nat) (p : Packet) : State :=
  let n := vecAt p.vec p.rank
  let w := s.packetStops chip p.rank n
  w.foldl (fun s e => match e.2 with
    | .full => s.pauseRegion chip e.1 0x339 []
    | .diverge k x => s.diverges chip e.1 k x (packetEntry p.rank n) [0, n]
    | _ => s) s

/-- The logs of regions after a decision. -/
def State.logPosts (chip : Nat) (rs : List (Nat × BitVec 19)) (s : State) : State :=
  rs.foldl (fun s e => s.afterLog chip e.1) s

/-- PACKET_APPLY (10 R211): at most one packet, the ready one that arrived first; then a view that waits is adopted. -/
def execPacketApply (chip : Nat) (s : State) : Host.Outcome State Fault Refusal :=
  .next (
    if !(s.repl chip).applies then s
    else
      let s := s.askBlocked chip
      let s := match s.firstReady chip with
        | some p => State.logPosts chip (s.loggedRegions chip) (s.applyHeld chip p)
        | none => ((s.repl chip).readyPackets.take 1).foldl (fun s p => s.packetHalts chip p) s
      let r := s.repl chip
      let s := if r.readyPackets ≠ [] then s.postOnce (.packetApply chip) else s
      if r.installing.isSome then s.adopt chip else s)

/-! ### Grants and acknowledgements of a chip's own accord -/

/-- The chip may grant now: it is the Col, may create packets, and has applied every earlier grant (10 R217). -/
def Repl.grants (r : Repl) (chip : Nat) : Bool := r.col = chip && r.canCreate && r.members.contains chip

/-- COL_GRANT (10 R217 to R219): one grant, to the request that arrived first of those grantable; duplicates are
discarded. -/
def execColGrant (chip : Nat) (s : State) : Host.Outcome State Fault Refusal :=
  .next (
    if !(s.repl chip).grants chip then s
    else
      let s := s.modRepl chip fun r => { r with pending := r.pending.filter fun q => !r.duplicate q }
      let r := s.repl chip
      let s := (r.pending.filter fun q => (s.perform chip q).2.2 ≠ [] && r.hostHeld.contains (q.off / 64)).foldl (fun s q =>
        s.modRepl chip fun r =>
          { r with biWait := if r.biWait.contains (q.off / 64) then r.biWait else r.biWait ++ [q.off / 64] }) s
      match r.pending.find? fun q => r.grantable (s.fixedByte chip) q with
      | none => s
      | some q => (s.grant chip q).postOnce (.colGrant chip))

/-- ACK_TIMER (10 R221): an ACK after 256 clocks with packets applied and not acknowledged. -/
def execAckTimer (chip : Nat) (s : State) : Host.Outcome State Fault Refusal :=
  .next (
    let r := s.repl chip
    if r.ackCount = 0 || r.ackClock < 256 || !r.members.contains chip || r.vst = .out then s else s.sendAck chip)

/-- COUNTER_WRAP (10 R223): once every ACK covers the last number and the WRAPACKs of the last wrap are all in, the WRAP
is sent, and the chip resumes at 1. -/
def execCounterWrap (chip : Nat) (s : State) : Host.Outcome State Fault Refusal :=
  .next (
    let r := s.repl chip
    let others := r.members.filter fun m => m ≠ chip
    if r.own < seqLimit || r.vst ≠ .normal || r.ackedUpTo chip < r.own ||
       !(vecAt r.wrapsApplied chip = 0 || others.all fun m => r.wrapackSeen.contains m) then s
    else
      let p : Packet :=
        { kind := 2, rank := chip, view := r.view, sclk := 0, blk := 0, mask := 0, vec := vecSet r.applied chip (r.own + 1)
          sig := none, tag := none, images := [], slot := 0, rq := 0, irank := 0, opc := 0, ty := .i32, old := 0, wraps := []
          arrived := (s.chip chip).clk, gen := vecAt r.wrapsApplied chip }
      let s := s.modRepl chip fun r =>
        { r with own := 0, applied := vecSet r.applied chip 0, wrapsApplied := vecSet r.wrapsApplied chip (p.gen + 1)
                 pending := r.pending.map (fun q => q.afterWrap chip), wrapackSeen := []
                 retained := r.retain chip p }
      let s := (s.sendAll chip (.packet p)).replEvent chip 2 chip
      (s.retryRepl chip).postOnce (.colGrant chip))

/-! ### Failures (10 R208, R222, R225) -/

/-- A link goes down: what was in flight on it is gone, and its ends start a view change. -/
def State.dropLink (s : State) (a b : Nat) : State :=
  let k := linkKey a b
  let j := linkKey b a
  let s := { s with
    linkDown := if s.linkDown.contains k then s.linkDown else s.linkDown ++ [k]
    linkRetry := s.linkRetry.filter (fun x => x ≠ k && x ≠ j), linkResent := s.linkResent.filter (fun x => x ≠ k && x ≠ j)
    links := Table.del (Table.del s.links k) j }
  let s := s.note b 0x208 [a, 1]
  let s := if (s.repl a).members.contains b then s.startChange a false [] else s
  if (s.repl b).members.contains a then s.startChange b false [] else s

/-- LINK_CRC_ERROR (10 R208): the flit and those after it are discarded and a resend is requested; a resent flit that
fails again takes the link down. -/
def execLinkCrcError (src dst : Nat) (s : State) : Host.Outcome State Fault Refusal :=
  .next (
    let k := linkKey src dst
    if !s.linkUp src dst || Table.at s.links k [] = [] || s.linkRetry.contains k then s
    else if s.linkResent.contains k then s.dropLink src dst
    else ({ s with linkRetry := s.linkRetry ++ [k] }).post (.resendRequest src dst))

/-- RESEND_REQUEST (10 R208): the sender sends the flit and those after it again, in order. -/
def execResendRequest (src dst : Nat) (s : State) : Host.Outcome State Fault Refusal :=
  .next (
    let k := linkKey src dst
    if !s.linkRetry.contains k then s
    else
      let s := { s with linkRetry := s.linkRetry.filter (fun x => x ≠ k), linkResent := s.linkResent ++ [k] }
      (Table.at s.links k []).foldl (fun s m => s.post (m.event src dst)) s)

/-- ACK_TIMEOUT (10 R222): a packet that some member leaves unacknowledged for ACKLIM clocks starts a view change. -/
def execAckTimeout (chip : Nat) (s : State) : Host.Outcome State Fault Refusal :=
  .next (
    let r := s.repl chip
    if r.vst = .normal && (r.retained.any fun p => decide (p.arrived + r.acklim ≤ (s.chip chip).clk)) then
      s.startChange chip false []
    else s)

/-- HOLD_TIMEOUT (10 R225): a packet held for HOLDMAX clocks, or a backlog beyond LAGMAX, and the chip leaves itself out. -/
def execHoldTimeout (chip : Nat) (s : State) : Host.Outcome State Fault Refusal :=
  .next (
    let r := s.repl chip
    if r.vst = .normal && (decide (r.lagmax < r.backlog) ||
        (r.hold ++ r.newer).any fun p => decide (p.arrived + r.holdmax ≤ (s.chip chip).clk)) then s.startChange chip true []
    else s)

/-! ### Rejoin (10 R231) -/

/-- RJOIN_WRITE: a chip in OUT sends JOIN; elsewhere the write is ignored (10 Table 10.8). -/
def execRjoinWrite (chip : Nat) (value : DWord) (s : State) : Host.Outcome State Fault Refusal :=
  .next (
    if (s.repl chip).vst ≠ .out || !value.getLsbD 0 || !(s.chip chip).powered then s
    else
      let s := s.modRepl chip fun r =>
        { r with vst := .listener, hold := [], newer := [], listenS0 := [], donorDone := false, wrapacks := [] }
      ((List.range 8).filter fun d => d ≠ chip && s.chipExists d).foldl (fun s d => s.send chip d (.join (s.ctlVec chip))) s)

/-- JOIN_MESSAGE: a member sends LISTEN with its own sequence number, and from then every packet. -/
def execJoinMessage (src dst : Nat) (s : State) : Host.Outcome State Fault Refusal :=
  .next (match s.viewMsg src dst with
    | some (.join _) =>
      let r := s.repl dst
      if r.vst = .out || r.vst = .listener then s.takeMsg src dst
      else if r.members.contains src then s.postOnce (.joinMessage src dst)
      else
        let s := (s.takeMsg src dst).modRepl dst fun r =>
          { r with listeners := if r.listeners.contains src then r.listeners else r.listeners ++ [src] }
        s.send dst src (.listen r.own r.wrapsApplied)
    | _ => s)

/-- LISTEN_MESSAGE: the listener notes the count from which it holds a member's packets. -/
def execListenMessage (src dst : Nat) (s : State) : Host.Outcome State Fault Refusal :=
  .next (match s.viewMsg src dst with
    | some (.listen s0 wraps) =>
      let s := s.takeMsg src dst
      if (s.repl dst).vst ≠ .listener then s
      else
        let s := s.modRepl dst fun r =>
          { r with listenS0 := Table.put r.listenS0 src (s0, wraps)
                   wrapsApplied := vecSet r.wrapsApplied src (vecAt wraps src)
                   wrapacks := (List.range 8).foldl (fun t k => Table.put t (8 * src + k) (vecAt wraps k)) r.wrapacks }
        s.postOnce (.donorCopy dst)
    | _ => s)

/-- A member has applied every member's packets up to the counts of a listener. -/
def Repl.covers (r : Repl) (s0 : Table (Nat × List Nat)) : Bool :=
  s0.all fun e =>
    let w := vecAt e.2.2 e.1
    decide (w < vecAt r.wrapsApplied e.1) || (w = vecAt r.wrapsApplied e.1 && decide (e.2.1 ≤ vecAt r.applied e.1))

/-- Tags of a listener's blocks after the donor's copy: written under the listener's own key and entry 0, but for those that fail at the
donor (12 R270, R271). -/
def State.copyTags (s : State) (donor chip : Nat) : Table (Nat × Nat × Word) :=
  (s.repl donor).blockTag.map fun e => (e.1, if s.replFails donor e.1 then e.2 else s.bufTag chip 0)

/-- DONOR_COPY: the donor, the lowest member, copies its replica and tags to the listener once it has applied what every
member had sent before its LISTEN; the listener takes the counts, RSEGSZ (10 R235) and ROOTRCB (17 R367). -/
def execDonorCopy (chip : Nat) (s : State) : Host.Outcome State Fault Refusal :=
  .next (
    let r := s.repl chip
    if r.vst ≠ .listener || r.donorDone then s
    else match r.listenS0 with
      | [] => s
      | (d, _) :: _ =>
        let m := s.repl d
        if !(m.members.all fun j => (Table.look r.listenS0 j).isSome) || !m.covers r.listenS0 then
          s.postOnce (.donorCopy chip)
        else
          let s := s.modChip chip fun x =>
            { x with
              sys := { x.sys with rootrcb := (s.chip d).sys.rootrcb }
              repl := { x.repl with
                replica := m.replica, blockTag := s.copyTags d chip, tags := m.tags, rsegsz := m.rsegsz, view := m.view, members := m.members
                nextSlot := m.nextSlot, firstSlot := m.firstSlot, lastSlot := m.lastSlot, col := m.col, granted := m.granted
                own := 0, applied := (List.range 8).map fun j => ((Table.look r.listenS0 j).map fun e => e.1).getD 0
                wrapsApplied := (List.range 8).map fun j =>
                  ((Table.look r.listenS0 j).map fun e => vecAt e.2 j).getD 0
                acked := List.replicate 8 (List.replicate 8 0), sigRecs := [], rqcnt := r.rqcnt, ackCount := 0
                wrapackSeen := [], grants24 := [], lagRaised := false, donorDone := true } }
          (s.postOnce (.packetApply chip)).postOnce (.replJoin chip))

/-- REPL_JOIN: the coordinator starts the view change that admits the chip. -/
def execReplJoin (chip : Nat) (s : State) : Host.Outcome State Fault Refusal :=
  .next (
    let r := s.repl chip
    if r.vst ≠ .listener || !r.donorDone then s
    else
      let k := r.members.headD chip
      let m := s.repl k
      if m.vst ≠ .normal then s.postOnce (.replJoin chip)
      else if !m.listeners.contains chip then s
      else s.propose k ((m.view + 1) % 256) false [] [chip])

end Sys2Proof.Machine
end

