-- ==== Sys2Proof/Machine/Port.lean ====
section
/-! DEFINITION. What the host does: host lines and snoops, accesses through HDM, back-invalidation, the host strong mailbox
(11 R248, R249; 17 R354 to R357). -/

namespace Sys2Proof.Machine

/-! ### Host lines (11 Table 11.7) -/

/-- A line number of host memory. -/
def hostLine (line : Nat) : Bool := isHostAddr (line * 64)

/-- HOST_LINE_FILL: a line in I is filled through the directory chip. -/
def execHostLineFill (chip line : Nat) (s : State) : Host.Outcome State Fault Refusal :=
  .next (if hostLine line && s.chipExists chip then s.hostRead chip line else s)

/-- Every module copy of a host line changes its state. -/
def State.mapLine (s : State) (line : Nat) (f : HostSt → HostSt) : State :=
  { s with chips := s.chips.mapVals fun _ c => { c with hostLines := Table.modify c.hostLines line f } }

/-- SNP_DATA (11 R249): M, O and E go to S, dirty data to the host. The snoop reaches the directory chip from any port. -/
def execSnpData (chip line : Nat) (s : State) : Host.Outcome State Fault Refusal :=
  .next (if hostLine line && s.chipExists chip then
      { s.mapLine line (fun _ => .s) with hostBase := Table.del s.hostBase line }
    else s)

/-- SNP_INV (11 R249): every copy is invalidated, dirty data returned first, monitors on the line fire (21 R447); what the
host writes to the line from then on is open, so its bytes are free values (log 4: DESIGN CHOICE). -/
def execSnpInv (chip line : Nat) (s : State) : Host.Outcome State Fault Refusal :=
  .next (if hostLine line && s.chipExists chip then
      let n := s.free
      let s := { s with
        chips := s.chips.mapVals (fun _ c => { c with hostLines := Table.del c.hostLines line })
        hostBase := Table.del s.hostBase line, written := Table.put s.written line s.serial
        mem := Memory.writeBytes s.mem (line * 64) ((List.range 64).map fun i => (Config.freeValue (n + i)).setWidth 8)
        free := n + 64 }
      (s.firePhys (line / 2)).ringWrites ((List.range 64).map fun i => (line * 64 + i, Memory.read s.mem (line * 64 + i)))
    else s)

/-- SNP_CUR (11 R249): the current data goes to the host, and no state changes. -/
def execSnpCur (_chip _line : Nat) (s : State) : Host.Outcome State Fault Refusal := .next s

/-! ### HDM (17 R355) -/

/-- A chip with a CXL port that is up: of even rank and in the view (00 R1, 01 R18). -/
def State.cxlUp (s : State) (c : Nat) : Bool := c % 2 = 0 && s.chipExists c && s.inView c c && (s.chip c).powered

/-- The features of CXL 3.1 that 17 Table 17.1 names. -/
inductive CxlFeature where
  | io | cacheType2 | memHdmDb
  | multiLogical | multiHeaded | fabricManager | portRouting | dynamicCapacity | linkEncryption
  deriving DecidableEq, Repr

/-- The module uses the feature; a host request for one that it does not use is refused as CXL 3.1 refuses an unsupported capability, and
changes nothing (17 R353). -/
def CxlFeature.used : CxlFeature → Bool
  | .io | .cacheType2 | .memHdmDb => true
  | _ => false

/-- The serial number that the function of a port reports, the same at every port that is up; a port that is down enumerates none
(17 R354). -/
def State.enumerates (s : State) (port : Nat) : Option DWord := if s.cxlUp port then some Config.serialNumber else none

/-- The rank and the offset in its register window that an offset in a function's BAR names (17 R354). -/
def barWindow (o : Nat) : Nat × Nat := (o / 2 ^ 20, o % 2 ^ 20)

/-- What an HDM block is: a block of a stack, a block of the replicated segment, or bytes that are reserved, absent or
outside the range. -/
inductive HdmPlace where
  | stack (pa : Nat)
  | repl (blk : Nat)
  | closed
  deriving DecidableEq, Repr

/-- The place of an HDM block at a port's chip (17 R355, 10 R235). -/
def State.hdmPlace (s : State) (chip block : Nat) : HdmPlace :=
  let o := block * 64
  let rs := (s.repl chip).rsegsz
  if o < 2 ^ 41 then
    if s.stackLive (stackOf o) && o % 2 ^ 36 < (62 - rs) * 2 ^ 30 then .stack o else .closed
  else if o - 2 ^ 41 < reservedBase rs then .repl ((o - 2 ^ 41) / 64)
  else .closed

/-- A block added to a list of held blocks. -/
def addBlock (l : List Nat) (b : Nat) : List Nat := if l.contains b then l else l ++ [b]

/-- The 64 bytes that a host read of an HDM block returns: of the home or of the port's replica; free values where the block fails its
tag check under HBUF (17 R355, 12 R271; log 4: DESIGN CHOICE); all ones where it is reserved, absent or outside the range. -/
def State.hdmData (s : State) (chip block : Nat) : List Byte :=
  match s.hdmPlace chip block with
  | .stack pa =>
    if s.tagFails pa (s.chip chip).sys.hbuf.toNat then s.freeBytes 64
    else (List.range 64).map fun i => Memory.read s.mem (pa + i)
  | .repl b =>
    if s.replFails chip b then s.freeBytes 64 else (List.range 64).map fun i => Memory.read (s.repl chip).replica (64 * b + i)
  | .closed => List.replicate 64 0xFF

/-- HDM_READ: served at the home or at the port's replica; the host may cache the block from then, or own it (17 R356). -/
def execHdmRead (chip block : Nat) (own : Bool) (s : State) : Host.Outcome State Fault Refusal :=
  .next (if !s.cxlUp chip then s
    else match s.hdmPlace chip block with
      | .stack pa => s.modCluster (stackOf pa) fun c =>
          { c with hostHeld := addBlock c.hostHeld block, hostOwned := if own then addBlock c.hostOwned block else c.hostOwned }
      | .repl b => s.modRepl chip fun r => { r with hostHeld := addBlock r.hostHeld b }
      | .closed => s)

/-- The event that makes the host writes of a port. -/
def hdmTurn (chip : Nat) : Event := .hdmWrite chip 0 0 []

/-- A host write is performed at its home in its turn of the region queue (11 R241), or accepted as a weak update; `false` while it
waits. -/
def State.hdmPerform (s : State) (chip block : Nat) (mask : DWord) (data : List Byte) : Bool × State :=
  let at' (base : Nat) : Bytes := (List.range 64).filterMap fun i =>
    if mask.getLsbD i then some (base + i, data.getD i 0) else none
  match s.hdmPlace chip block with
  | .closed => (true, s.note chip 0x355 [block * 64])
  | .repl b =>
    if (s.repl chip).canCreate then (true, s.acceptUpdate chip (at' (b * 64)) none none) else (false, s)
  | .stack pa =>
    let r := regionOf pa
    if !s.reaches chip pa then (false, s)
    else if !s.dirMayWrite r (.run (hdmTurn chip)) then (false, s.dirAsk r (.run (hdmTurn chip)))
    else
      let cs := at' pa
      (true, ((s.homeStore none (some (s.chip chip).sys.hbuf.toNat) cs).ringWrites cs).dirDone r (.run (hdmTurn chip)))

/-- The host writes of a port, in the order in which it received them. -/
def hdmDrain (fuel : Nat) (s : State) (chip : Nat) : State :=
  match fuel with
  | 0 => s
  | n + 1 => match (s.chip chip).hostWrites with
    | [] => s.dirDrop fun q => q = .run (hdmTurn chip)
    | (b, m, d) :: r => match s.hdmPerform chip b m d with
      | (false, s) => s.postOnce (hdmTurn chip)
      | (true, s) => hdmDrain n (s.modChip chip fun c => { c with hostWrites := r }) chip

/-- HDM_WRITE: the write takes its turn after the port's earlier ones; without bytes it only lets them go on. -/
def execHdmWrite (chip block : Nat) (mask : DWord) (data : List Byte) (s : State) : Host.Outcome State Fault Refusal :=
  .next (if !s.cxlUp chip then s.dirDrop fun q => q = .run (hdmTurn chip)
    else
      let s := if mask = 0 then s
        else s.modChip chip fun c => { c with hostWrites := c.hostWrites ++ [(block, mask, data)] }
      hdmDrain ((s.chip chip).hostWrites.length + 1) s chip)

/-! ### Back-invalidation (17 R356) -/

/-- What waits for a block of a stack is tried again. -/
def State.retryBlock (s : State) (block : Nat) : State :=
  let s := s.cores.foldl (fun s c => c.2.wq.foldl (fun s e =>
    if !e.2.held && !e.2.repl && e.2.block = block then s.postOnce (.wqEntryPerform c.1 e.1) else s) s) s
  s.waves.foldl (fun s w => w.2.loads.foldl (fun s l =>
    if l.2.lanes.any fun x => x.src.any fun b => match b with
      | .phys a _ => a / 64 = block
      | _ => false then s.postOnce (.loadReturn w.1 l.1) else s) s) s

/-- BIRSP: the host has given a block up, or its ownership where a read asked, and what waited for it goes on; an answer
that nothing asked for changes nothing. -/
def execBirsp (chip block : Nat) (s : State) : Host.Outcome State Fault Refusal :=
  .next (
    let gone (l : List Nat) (b : Nat) : List Nat := l.filter fun x => x ≠ b
    if block * 64 < 2 ^ 41 then
      let k := stackOf (block * 64)
      let c := s.cluster k
      if c.biWait.contains block then
        (s.setCluster k { c with hostHeld := gone c.hostHeld block, hostOwned := gone c.hostOwned block
                                 biWait := gone c.biWait block, biData := gone c.biData block }).retryBlock block
      else if c.biData.contains block then
        (s.setCluster k { c with hostOwned := gone c.hostOwned block, biData := gone c.biData block }).retryBlock block
      else s
    else
      let b := block - 2 ^ 35
      if !(s.repl chip).biWait.contains b then s
      else
        let s := s.modRepl chip fun r => { r with hostHeld := gone r.hostHeld b, biWait := gone r.biWait b }
        ((s.retryRepl chip).postOnce (.packetApply chip)).postOnce (.colGrant chip))

/-! ### The host strong mailbox (17 R357) -/

/-- The request that the mailbox of a chip names, none where it is refused. -/
def State.mailboxReq (s : State) (chip : Nat) : Option Req :=
  let y := (s.chip chip).sys
  let opc := (y.hsctl.extractLsb' 0 4).toNat
  let a := y.hsaddr.toNat
  let req (ty : Ty) (n : Nat) : Option Req :=
    if a % n = 0 && decide (a + n ≤ (s.repl chip).rsegsz * 2 ^ 30) then
      some (mkReq opc ty 0 6 a (y.hsopa.setWidth 128) (y.hsopb.setWidth 128) none none)
    else none
  match Ty.ofCode (y.hsctl.extractLsb' 8 5) with
  | none => if opc = 10 then req .n64 8 else none
  | some ty =>
    if opc = 10 then req .n64 8
    else if 10 < opc || !ty.isBit || (atomWidth opc ty).isNone && decide (opc < 8) then none
    else req ty (ty.bits / 8)

/-- HSGO_WRITE: earlier host writes through the port accepted, one request with the port's chip as issuer; it waits like
a wave's request where the chip may send none. -/
def execHsgoWrite (chip : Nat) (value : DWord) (s : State) : Host.Outcome State Fault Refusal :=
  .next (
    let y := (s.chip chip).sys
    if !s.cxlUp chip || !value.getLsbD 0 || y.hsstat = 1 then s
    else match s.mailboxReq chip with
      | none => s.modChip chip fun c => { c with sys := { c.sys with hsstat := 3 } }
      | some q =>
        if (s.chip chip).hostWrites ≠ [] || (s.repl chip).vst ≠ .normal || 512 ≤ (s.repl chip).outstanding.length then
          s.postOnce (.hsgoWrite chip value)
        else (s.modChip chip fun c => { c with sys := { c.sys with hsstat := 1 } }).sendReq chip q .host)

end Sys2Proof.Machine
end

