-- ==== Sys2Proof/Machine/Routing.lean ====
section
/-! DEFINITION. Routing tokens: `RSEND`, `RFLSH`, `RPOLL`, send lists, landings, acknowledgements and refusals (21 R468 to
R476). -/

namespace Sys2Proof.Machine

/-! ### Tokens (21 Table 21.5) -/

/-- LEN, and the choices as chip and inbox. -/
def tokLen (h : Quad) : Nat := bits h.toNat 32 16
def tokDst (h : Quad) (second : Bool) : Nat × Nat :=
  if second then (bits h.toNat 15 3, bits h.toNat 9 6) else (bits h.toNat 6 3, bits h.toNat 0 6)

/-- The rules of a header that is sent (21 Table 21.5): reserved bits, SRC and REDIR 0, LEN; DST2 without ALT is read as a reserved field
(log 24: DEDUCED). -/
def headerOk (h : Quad) : Bool :=
  let x := h.toNat
  bits x 48 16 = 0 && bits x 23 9 = 0 && bits x 19 4 = 0 && tokLen h % 16 = 0 && decide (tokLen h ≤ 4080) &&
  (bit x 18 || bits x 9 9 = 0)

/-- Unsent tokens of a core. -/
def Core.unsent (c : Core) : Nat := c.sends.foldl (fun n e => n + e.2.length) 0

/-- Lists a token; a list of 16 is sent (21 R472). -/
def State.listToken (s : State) (k : Who) (l : Nat) (h : Quad) (va : DWord) : State :=
  let core := k.wg.core
  let dst := (tokDst h false).1
  let t : Tok := { header := h, va, payload := [], wave := k.w, gang := k.wg.gang, seq := k.x.seqno, lane := l
                   pc := k.x.issuePc.getD 0, born := (s.core core).clk, src := k.chip, second := false, asid := k.g.asid
                   ptroot := k.g.ptroot, priv := k.g.priv, lseq := k.g.seq, page := none }
  let ts := Table.at (s.core core).sends dst [] ++ [t]
  let s := (s.modCore core fun c => { c with sends := Table.put c.sends dst ts }).count core 136 1
  let s := s.modWave k.w fun x => { x with appended := x.appended + 1 }
  if 16 ≤ ts.length then s.postOnce (.sendListFlush core dst) else s

/-- The lanes of `RSEND` in ascending order; those listed so far stay listed while the rest waits for room. -/
def rsendLanes (f : ExtArgs) (k : Who) : List Nat → List Nat → State → Option (List Nat) × State
  | [], _, s => (none, s)
  | l :: r, listed, s =>
    if listed.contains l then rsendLanes f k r listed s
    else
      let h := s.readOpd k.x l f.lit .w128 .int f.a
      if !headerOk h then
        rsendLanes f k r listed (s.parkLanes k .none .w32 (Instr.length (.rsend f)) [(l, 0x12, h.extractLsb' 0 64)])
      else if 256 ≤ (s.core k.wg.core).unsent then (some listed, s)
      else rsendLanes f k r (listed ++ [l]) (s.listToken k l h ((s.readOpd k.x l f.lit .w64 .int f.b).setWidth 64))

/-- The lanes of `RSEND` that are not listed yet, under the command's number; the rest waits with those listed so far. -/
def rsendRest (f : ExtArgs) (k : Who) (act listed : List Nat) (seq : Word) (s : State) : Eff :=
  match rsendLanes f { k with x := { k.x with seqno := seq } } act listed s with
  | (none, s) => .done s
  | (some ls, s) => .wait ((s.notStalled k).modWave k.w fun x => { x with pend := some (.lanes ls) })

/-- `RSEND` (21 R471): it takes its number when it issues, before its first lane is listed (04 R86). -/
def execRsend (f : ExtArgs) (s : State) : Host.Outcome State Fault Refusal :=
  .next (issue (.rsend f) s fun k act s =>
    match k.x.pend with
    | some (.lanes ls) => rsendRest f k act ls (k.x.seqno - 1) s
    | _ => match s.releaseWait k .pk 0 with
      | (false, s) => .wait s
      | (true, s) => rsendRest f k act [] k.x.seqno (s.takeSeq k.w))

/-! ### Sending (21 R471, R472) -/

/-- A chip that tokens may be sent to (21 R473). -/
def State.tokenChip (s : State) (src dst : Nat) : Bool := s.chipExists dst && s.inView src dst && s.inView dst dst

/-- A token waits for the link to its chip, which is down until a view change is over (01 R16). -/
def State.tokenWaits (s : State) (t : Tok) : Bool :=
  let dst := (tokDst t.header t.second).1
  s.tokenChip t.src dst && !s.linkUp t.src dst

/-- A token goes to the engine of a chip, or is refused. -/
def State.sendToken (s : State) (t : Tok) : State :=
  let dst := (tokDst t.header t.second).1
  if s.tokenChip t.src dst then (s.modChip dst fun c => { c with tokens := c.tokens ++ [t] }).post (.tokenArrival dst)
  else s.post (.tokenRefusal t.wave)

/-- The payload of a token as its engine reads it: like a copy's source. -/
def State.tokenRead (s : State) (core : Nat) (t : Tok) : Except Stop (List Byte) × State :=
  if tokLen t.header = 0 then (.ok [], s)
  else match s.enginePart { core, asid := t.asid, ptroot := t.ptroot, priv := t.priv } .read t.va.toNat (tokLen t.header) with
    | (.error e, s) => (.error e, s)
    | (.ok ps, s) => s.engineBytes (chipOfCore core) ps

/-- A token whose payload cannot be read: refused, with a COPY_FAULT. -/
def State.tokenUnread (s : State) (t : Tok) (e : Nat × Nat) : State :=
  (s.copyTrap t.wave t.pc t.seq (faultCode e t.lane)).post (.tokenRefusal t.wave)

/-- Sends the tokens of a list in order, until one must wait; answers those left. -/
def sendAll (core : Nat) : List Tok → State → List Tok × State
  | [], s => ([], s)
  | t :: r, s => match t.page with
    | some w => if w.refused then sendAll core r (s.tokenUnread t (0x11, 0)) else (t :: r, s)
    | none => if s.tokenWaits t then (t :: r, s) else match s.tokenRead core t with
      | (.ok bs, s) => sendAll core r (s.sendToken { t with payload := bs })
      | (.error (.fault e), s) => sendAll core r (s.tokenUnread t e)
      | (.error .wait, s) => (t :: r, s)
      | (.error (.page va), s) =>
        let chip := chipOfCore core
        if (s.chip chip).ring.len = 0 then sendAll core r (s.tokenUnread t (0x11, 0))
        else
          let w : PageWait := { asid := t.asid, vpn := vpnOf va, kind := 4, pc := t.pc, va, clu := clusterOfCore core % 4
                                seq := t.lseq, dest := 0x180, refused := false }
          ({ t with page := some w } :: r, s.requestPage chip w)

/-- SEND_LIST_FLUSH: a send list is sent whole, in append order. -/
def execSendListFlush (core chip : Nat) (s : State) : Host.Outcome State Fault Refusal :=
  .next (match Table.at (s.core core).sends chip [] with
    | [] => s
    | ts =>
      let (left, s) := sendAll core ts s
      let s := s.modCore core fun c => { c with sends := if left = [] then Table.del c.sends chip else Table.put c.sends chip left }
      match left with
      | [] => s
      | t :: _ => if t.page.isSome then s else s.postOnce (.sendListFlush core chip))

/-- `RFLSH` sends every list of the core that holds a token of the wave. -/
def State.flushLists (s : State) (k : Who) : State :=
  (s.core k.wg.core).sends.foldl (fun s e =>
    if e.2.any fun t => t.wave = k.w then s.postOnce (.sendListFlush k.wg.core e.1) else s) s

/-- `RFLSH.go` (21 R474). -/
def execRflshGo (f : ExtArgs) (s : State) : Host.Outcome State Fault Refusal :=
  .next (issue (.rflshGo f) s fun k _ s => .done ((s.flushLists k).takeSeq k.w))

/-- `RFLSH.wait`: until each token of the wave is delivered or refused. -/
def execRflshWait (f : ExtArgs) (s : State) : Host.Outcome State Fault Refusal :=
  .next (issue (.rflshWait f) s fun k _ s =>
    let s := s.flushLists k
    if k.x.delivered + k.x.refused = k.x.appended then .done (s.takeSeq k.w) else .wait (s.notStalled k))

/-! ### Landing (21 R473) -/

/-- An inbox's slots in use. -/
def Inbox.inUse (i : Inbox) : Nat := (i.landed - i.freed).toNat

/-- The bytes of a slot: header with SRC and REDIR, then payload. -/
def Tok.bytes (t : Tok) : List Byte :=
  bytesOfNat 16 ((t.header ||| BitVec.ofNat 128 (t.src % 8 * 2 ^ 20 + (if t.second then 2 ^ 19 else 0))).toNat) ++ t.payload

/-- Bytes of one block written by an engine of a chip at the home of the block, if it can be performed now. -/
def State.engineStore (s : State) (chip id gang : Nat) (leaf : DWord) (pa : Nat) (bs : List Byte) : Bool × State :=
  let core := 64 * chip
  let cs := bs.zipIdx.map fun b => (pa + b.2, b.1)
  if leafSeg leaf = 2 then
    if (s.repl chip).hostHeld.contains (pa / 64) then
      (false, s.modRepl chip fun r => { r with biWait := if r.biWait.contains (pa / 64) then r.biWait else r.biWait ++ [pa / 64] })
    else if (s.repl chip).canCreate then (true, s.acceptUpdate chip cs none none) else (false, s)
  else if !s.reaches chip pa then (false, s)
  else if isHostAddr pa then (true, ((s.hostOwn chip (pa / 64)).homeStore none (some (leafBuf leaf)) cs).ringWrites cs)
  else if !s.capRoom (stackOf pa) gang then (false, s)
  else if (s.cluster (stackOf pa)).hostHeld.contains (pa / 64) then (false, s.askHost (pa / 64))
  else if !s.dirMayWrite (regionOf pa) (.copy core id) then (false, s.dirAsk (regionOf pa) (.copy core id))
  else (true, (((s.capCount (stackOf pa) gang 1).homeStore none (some (leafBuf leaf)) cs).ringWrites cs).dirDone (regionOf pa)
    (.copy core id))

/-- The blocks of an engine's write, one after another. -/
def storeRuns (chip id gang : Nat) (leaf : DWord) : List (Int × Int × Nat) → List Byte → State → Bool × State
  | [], _, s => (true, s)
  | (pa, _, n) :: r, bs, s => match s.engineStore chip id gang leaf pa.toNat (bs.take n) with
    | (false, s) => (false, s)
    | (true, s) => storeRuns chip id gang leaf r (bs.drop n) s

/-- The parts of an engine's write. -/
def storeParts (chip id gang : Nat) : List Part → List Byte → State → Bool × State
  | [], _, s => (true, s)
  | p :: r, bs, s => match storeRuns chip id gang p.leaf (cutRun (p.len + 1) 64 p.pa p.pa p.len) (bs.take p.len) s with
    | (false, s) => (false, s)
    | (true, s) => storeParts chip id gang r (bs.drop p.len) s

/-- A token is refused by a chip's engine. -/
def State.refuseToken (s : State) (t : Tok) : State := s.post (.tokenRefusal t.wave)

/-- Some byte of a write has no stack that answers (08 R163). -/
def State.deadParts (s : State) (ps : List Part) : Bool :=
  ps.any fun p => !p.repl && !isHostAddr p.pa && !s.stackLive (stackOf p.pa)

/-- A token that its inbox takes: written at slot LANDED mod SLOTS; counted once every byte is accepted. `none` while it
must wait. -/
def State.landIn (s : State) (chip n : Nat) (i : Inbox) (t : Tok) : Option State × State :=
  let va := i.base + BitVec.ofNat 64 (i.landed.toNat % i.slots * 64 * i.slotsz)
  let bs := t.bytes
  match s.span { core := 64 * chip, asid := i.asid, ptroot := i.ptroot, priv := i.priv } .write false va bs.length with
  | (.wait, s) => (none, s)
  | (.park _, s) => (some ((s.note chip 0x473 [n]).refuseToken t), s)
  | (.page _, s) => (some ((s.note chip 0x473 [n]).refuseToken t), s)
  | (.parts ps, s) =>
    if s.deadParts ps then (some ((s.note chip 0x163 [va.toNat]).refuseToken t), s)
    else match storeParts chip (2 ^ 41 + chip) t.gang ps bs s with
      | (false, s) => (none, s)
      | (true, s) =>
        let s := s.modChip chip fun c => { c with inboxes := Table.modify c.inboxes n fun i => { i with landed := i.landed + 1 } }
        (some (s.post (.tokenAcknowledge t.wave)), s)

/-- The inbox takes the token. -/
def Inbox.takes (i : Inbox) (t : Tok) : Bool :=
  decide (i.inUse < i.slots) && decide (tokLen t.header + 16 ≤ 64 * i.slotsz)

/-- TOKEN_ARRIVAL: the engine of a chip handles the token that arrived first. -/
def execTokenArrival (chip : Nat) (s : State) : Host.Outcome State Fault Refusal :=
  .next (match (s.chip chip).tokens with
    | [] => s
    | t :: _ =>
      let n := (tokDst t.header t.second).2
      let gone (s : State) : State := s.modChip chip fun c => { c with tokens := c.tokens.drop 1 }
      let again : Tok := { t with second := true }
      let other : State :=
        if !t.second && bit t.header.toNat 18 then
          (if s.tokenWaits again then s.post (.tokenArrival chip) else (gone s).sendToken again)
        else (gone s).refuseToken t
      match Table.look (s.chip chip).inboxes n with
      | none => other
      | some i =>
        if !i.takes t then other
        else match s.landIn chip n i t with
          | (none, s) => s.post (.tokenArrival chip)
          | (some s, _) => gone s)

/-- A token of the wave is under way. -/
def Wave.tokensOut (x : Wave) : Bool := x.delivered + x.refused ≠ x.appended

/-- TOKEN_ACKNOWLEDGE. -/
def execTokenAcknowledge (wave : Nat) (s : State) : Host.Outcome State Fault Refusal :=
  .next (s.modWave wave fun x => if x.tokensOut then { x with delivered := x.delivered + 1 } else x)

/-- TOKEN_REFUSAL. -/
def execTokenRefusal (wave : Nat) (s : State) : Host.Outcome State Fault Refusal :=
  .next (s.modWave wave fun x => if x.tokensOut then { x with refused := x.refused + 1 } else x)

/-! ### RPOLL (21 R475, R476) -/

/-- Delivers a value to every active lane (04 R78). -/
def rpollDone (k : Who) (act : List Nat) (d : Opd) (v : Nat) (s : State) : Eff :=
  if d = .zero then .done s
  else
    let (s, id) := s.defer k .value d .w32 (act.map fun l => laneValue l .w32 (BitVec.ofNat 128 v)) (k.x.issuePc.getD 0) none
    .done (s.post (.loadReturn k.w id))

/-- The inbox operand, and the inbox if it is open under the wave's ASID. -/
def inboxNo (s : State) (k : Who) (f : ExtArgs) (act : List Nat) : Nat :=
  (s.readOpd k.x (act.headD 0) f.lit .w32 .int f.a).toNat
def State.myInbox (s : State) (k : Who) (n : Nat) : Option Inbox :=
  (Table.look (s.chip k.chip).inboxes n).bind fun i => if i.asid = k.g.asid then some i else none

/-- `RPOLL.open`. -/
def execRpollOpen (f : ExtArgs) (s : State) : Host.Outcome State Fault Refusal :=
  .next (issue (.rpollOpen f) s fun k act s =>
    let l := act.headD 0
    let n := inboxNo s k f act
    let base := (s.readOpd k.x l f.lit .w64 .int f.b).setWidth 64
    let cfg := (s.readOpd k.x l f.lit .w32 .int f.c).toNat
    if (Table.look (s.chip k.chip).inboxes n).isSome then rpollDone k act f.d 1 s
    else if 64 ≤ n || base.toNat % 64 ≠ 0 || bits cfg 12 4 ≠ 0 || bits cfg 22 10 ≠ 0 then rpollDone k act f.d 2 s
    else
      let i : Inbox := { wg := k.x.wg, asid := k.g.asid, ptroot := k.g.ptroot, priv := k.g.priv, base
                         slots := bits cfg 0 12 + 1, slotsz := bits cfg 16 6 + 1, landed := 0, freed := 0 }
      rpollDone k act f.d 0 (s.modChip k.chip fun c => { c with inboxes := Table.put c.inboxes n i }))

/-- `RPOLL.cnt`: an acquire that received all ones. -/
def execRpollCnt (f : ExtArgs) (s : State) : Host.Outcome State Fault Refusal :=
  .next (issue (.rpollCnt f) s fun k act s =>
    match s.myInbox k (inboxNo s k f act) with
    | none => rpollDone k act f.d 0xFFFFFFFF s
    | some i => rpollDone k act f.d i.landed.toNat (s.acquireL1 k.wg.core (BitVec.allOnes 512)))

/-- `RPOLL.free`: waits for the wave's loads and stores. -/
def execRpollFree (f : ExtArgs) (s : State) : Host.Outcome State Fault Refusal :=
  .next (issue (.rpollFree f) s fun k act s =>
    if !s.quiet k then .wait (s.stalled k 0)
    else if k.x.loads.any fun e => e.2.kind ≠ .value then .wait (s.notStalled k)
    else
      let n := inboxNo s k f act
      let m := (s.readOpd k.x (act.headD 0) f.lit .w32 .int f.b).toNat
      match s.myInbox k n with
      | none => rpollDone k act f.d 0xFFFFFFFF s
      | some i =>
        if i.inUse < m then rpollDone k act f.d 0xFFFFFFFF s
        else rpollDone k act f.d (i.inUse - m) (s.modChip k.chip fun c =>
          { c with inboxes := Table.modify c.inboxes n fun i => { i with freed := i.freed + BitVec.ofNat 32 m } }))

/-- `RPOLL.close`. -/
def execRpollClose (f : ExtArgs) (s : State) : Host.Outcome State Fault Refusal :=
  .next (issue (.rpollClose f) s fun k act s =>
    let n := inboxNo s k f act
    match s.myInbox k n with
    | none => rpollDone k act f.d 1 s
    | some i =>
      if i.wg ≠ k.x.wg then rpollDone k act f.d 1 s
      else rpollDone k act f.d 0 (s.modChip k.chip fun c => { c with inboxes := Table.del c.inboxes n }))

/-- `RPOLL.sent`. -/
def execRpollSent (f : ExtArgs) (s : State) : Host.Outcome State Fault Refusal :=
  .next (issue (.rpollSent f) s fun k act s => rpollDone k act f.d k.x.delivered.toNat s)

/-- `RPOLL.refd`. -/
def execRpollRefd (f : ExtArgs) (s : State) : Host.Outcome State Fault Refusal :=
  .next (issue (.rpollRefd f) s fun k act s => rpollDone k act f.d k.x.refused.toNat s)

end Sys2Proof.Machine
end

