-- ==== Sys2Proof/Machine/Sync.lean ====
section
/-! DEFINITION. Barriers of waves and the commit token: `BAR`, `GBAR`, `TOKW`, `TOKP` (18 R381; 20 R418; 16 R333, R334). -/

namespace Sys2Proof.Machine

/-- The issuing threads block in a barrier: they wait (18 R381). -/
def State.blockIn (s : State) (k : Who) (i : WaitIn) : State :=
  s.modWave k.w fun x => x.mapLanes k.x.group fun _ t => { t with st := .waiting, wait := some i }

/-- `BAR` (18 R381). -/
def execBar (s : State) : Host.Outcome State Fault Refusal :=
  .next (issue .bar s fun k _ s =>
    match s.releaseWait k .wg 0 with
    | (false, s) => .wait s
    | (true, s) =>
      let s := if k.x.arrived then s
        else (s.modWave k.w fun x => { x with arrived := true }).modWg k.x.wg fun g => { g with arr := g.arr + 1 }
      .done ((s.blockIn k .bar).barCheck k.x.wg))

/-- `GBAR` (20 R418): the signature sent is the OR of the core's table. -/
def execGbar (s : State) : Host.Outcome State Fault Refusal :=
  .next (issue .gbar s fun k _ s =>
    match s.releaseWait k .gn 0 with
    | (false, s) => .wait s
    | (true, s) =>
      let m := (s.core k.wg.core).sigTab.foldl (fun m e => m ||| e.set) 0
      let s := s.modGang k.wg.gang fun g => { g with sigs := g.sigs ||| m, arr := if k.x.garrived then g.arr else g.arr + 1 }
      let s := s.modWave k.w fun x => { x with garrived := true }
      .done ((s.blockIn k .gbar).gbarCheck k.wg.gang))

/-- ORDER of a token instruction (16 R334). -/
def tokenTrap (k : Who) (s : State) : Eff := .gone (s.preciseTrap k.w 0x13 (k.x.issuePc.getD 0) 0)

/-- `TOKW`: its return is an acquire of the last pass; every line that is not locally homed goes, a superset of those whose
bit the pass's signature has (09 R193). -/
def execTokw (s : State) : Host.Outcome State Fault Refusal :=
  .next (issue .tokw s fun k _ s =>
    if !k.g.ordered then .done s
    else if k.x.tokPassed then tokenTrap k s
    else if s.holdsToken k.w then .done (s.acquireL1 k.wg.core (BitVec.allOnes 512))
    else .wait ((s.notStalled k).modWave k.w fun x => { x with blocked := some .tokw }))

/-- A copy writes a shared-between-blocks page: it has, or a transfer left has its destination in one, or in a page that is
not known yet. -/
def State.writesShared (s : State) (core : Nat) (c : Copy) : Bool :=
  c.shared || c.pieces.any fun p => p.dspace = 0 &&
    match s.peek (s.copyCtx core c) .write (BitVec.ofNat 64 p.dst) with
    | none => true
    | some (e, _) => e.getLsbD 63

/-- A copy node that a graph has yet to launch would write a shared-between-blocks page, or what its record names is not known yet. -/
def State.nodeWritesShared (s : State) (core id : Nat) (q : Graph) (e : GNode × Nat) : Bool :=
  (e.1.kind = 1 || e.1.kind = 2) && e.1.st = 0 && !e.1.bad &&
    match s.party q.wg with
    | none => false
    | some (x, g) => match s.launchNode core id e.2 q e.1 x g with
      | (false, _) => true
      | (true, t) => (t.core core).copies.any fun c => c.2.node = some (id, e.2) && t.writesShared core c.2

/-- A copy that a wave issued with the token and that writes a shared page has not retired: one in flight, a record of its kick register
that is yet to be read, a copy node of its graphs that is yet to be launched (16 R334). -/
def State.sharedLeft (s : State) (core w : Nat) : Bool :=
  let c := s.core core
  (c.copies.any fun e => e.2.wave = w && !e.2.noToken && s.writesShared core e.2) ||
    (match c.kick with
      | none => false
      | some q => q.wave = w && !q.noToken) ||
    c.graphs.any fun e => e.2.wave = w && !e.2.noToken && e.2.nodes.zipIdx.any fun z => s.nodeWritesShared core e.1 e.2 z

/-- `TOKP`: passes the token on once its release and the shared-page copies that the wave issued with the token are done. -/
def execTokp (s : State) : Host.Outcome State Fault Refusal :=
  .next (issue .tokp s fun k _ s =>
    if !k.g.ordered then .done s
    else if !s.holdsToken k.w then tokenTrap k s
    else match s.releaseWait k .pk 0 with
      | (false, s) => .wait s
      | (true, s) =>
        if s.sharedLeft k.wg.core k.w then .wait (s.notStalled k)
        else .done ((s.modWave k.w fun x => { x with tokPassed := true }).tokenAgain k.w))

end Sys2Proof.Machine
end

