-- ==== Sys2Proof/Machine/System.lean ====
section
/-! DEFINITION. Register windows, keys, attestation, clocks and resets of the chips (10 Table 10.8, 15 Table 15.3, 16 Table
16.9, 17 R360 to R367), retired channels (12 R269). -/

namespace Sys2Proof.Machine

/-! ### Registers with a behaviour of their own -/

/-- Changes the registers of Table 17.3 of a chip. -/
def State.modSys (s : State) (chip : Nat) (f : SysRegs → SysRegs) : State := s.modChip chip fun c => { c with sys := f c.sys }

/-- Changes the registers of Table 16.9 of a chip. -/
def State.modDbg (s : State) (chip : Nat) (f : DebugRegs → DebugRegs) : State := s.modChip chip fun c => { c with dbg := f c.dbg }

/-- LAGMAX_WRITE (10 R234): above 65,536 stores 65,536. -/
def execLagmaxWrite (chip : Nat) (value : DWord) (s : State) : Host.Outcome State Fault Refusal :=
  .next (s.modRepl chip fun r => { r with lagmax := min (value.toNat % 2 ^ 17) 65536 })

/-- HOLDMAX_WRITE (10 R234): 0 stores 1. -/
def execHoldmaxWrite (chip : Nat) (value : DWord) (s : State) : Host.Outcome State Fault Refusal :=
  .next (s.modRepl chip fun r => { r with holdmax := max (value.toNat % 2 ^ 22) 1 })

/-- ACKLIM_WRITE (10 R234): 0 stores 1. -/
def execAcklimWrite (chip : Nat) (value : DWord) (s : State) : Host.Outcome State Fault Refusal :=
  .next (s.modRepl chip fun r => { r with acklim := max (value.toNat % 2 ^ 22) 1 })

/-- Some region of the module is active (02 R43, 03 R71). -/
def State.anyActive (s : State) : Bool :=
  (s.repl s.lowRank).members.any fun c => (s.regions c).any fun r => s.regionState c r = 1

/-- A register write on any chip that is applied on every member, and ignored on every chip while a region is active (10 R235, 17
R367). -/
def State.writeEvery (s : State) (chip : Nat) (f : State → Nat → State) : State :=
  if !(s.chip chip).powered || s.anyActive then s else (s.repl s.lowRank).members.foldl f s

/-- RSEGSZ_WRITE (10 R235): 0 stores 1, above 32 stores 32. -/
def execRsegszWrite (chip : Nat) (value : DWord) (s : State) : Host.Outcome State Fault Refusal :=
  .next (s.writeEvery chip fun s m => s.modRepl m fun r => { r with rsegsz := max 1 (min 32 (value.toNat % 64)) })

/-- ROOTRCB_WRITE (17 R367); Campion starts to decide from the new root. -/
def execRootrcbWrite (chip : Nat) (value : DWord) (s : State) : Host.Outcome State Fault Refusal :=
  .next (s.writeEvery chip fun s m =>
    (s.modSys m fun y => { y with rootrcb := value.toNat % 2 ^ 35 }).postOnce (.campionPlacement m))

/-- FENCED_WRITE (16 R352): a bit written with 1 returns its core to service. -/
def execFencedWrite (chip : Nat) (value : DWord) (s : State) : Host.Outcome State Fault Refusal :=
  .next (s.modDbg chip fun d => { d with fenced := d.fenced &&& ~~~value })

/-! ### Attestation and keys (17 R361, R362) -/

/-- AREQ_WRITE: a report is being built; ignored while one is. -/
def execAreqWrite (chip : Nat) (value : DWord) (s : State) : Host.Outcome State Fault Refusal :=
  .next (if !value.getLsbD 0 || (s.chip chip).sys.astat = 1 then s
    else (s.modSys chip fun y => { y with astat := 1 }).postOnce (.attestReportReady chip))

/-- Bytes 0 to 352 of a report (17 Table 17.4). -/
def State.reportBody (s : State) (chip : Nat) : List Byte :=
  let y := (s.chip chip).sys
  let flags := (if y.fixclk then 1 else 0) + if (s.chip chip).dbg.schk then 2 else 0
  bytesOfNat 32 y.nonce.toNat ++ [BitVec.ofNat 8 chip, BitVec.ofNat 8 (s.repl chip).view, BitVec.ofNat 8 flags] ++
    List.replicate 5 0 ++ (y.meas.flatMap fun m => bytesOfNat 64 m.toNat) ++ bytesOfNat 57 (Config.identityKey chip).toNat

/-- The report: its body, the signature over the SHAKE256 digest of the body, zeros. -/
def State.report (s : State) (chip : Nat) : BitVec 4096 :=
  let b := s.reportBody chip
  let digest := BitVec.ofNat 512 (natOfBytes (shake256 b 64))
  BitVec.ofNat 4096 (natOfBytes (b ++ bytesOfNat 114 (Config.signature chip digest).toNat))

/-- ATTEST_REPORT_READY: the report stands in AREP. -/
def execAttestReportReady (chip : Nat) (s : State) : Host.Outcome State Fault Refusal :=
  .next (if (s.chip chip).sys.astat ≠ 1 then s
    else s.modSys chip fun y => { y with astat := 2, arep := s.report chip })

/-- Every chip takes a key for a KEYID; generation 0 is no key. -/
def State.setKey (s : State) (id gen : Nat) : State :=
  ((List.range 8).filter s.chipExists).foldl (fun s c => s.modChip c fun x => { x with keys := Table.put x.keys id gen }) s

/-- Identifier of a key command. -/
def keyId (value : DWord) : Nat := (value.extractLsb' 8 8).toNat

/-- KEYCMD_DRAW: a fresh key for id 1 to 255 on every chip. -/
def execKeycmdDraw (chip : Nat) (value : DWord) (s : State) : Host.Outcome State Fault Refusal :=
  .next (if keyId value = 0 then s.note chip 0x362 [value.toNat] else (s.setKey (keyId value) (s.free + 2)).useFree)

/-- KEYCMD_ERASE: the key of id 1 to 255 is erased on every chip. -/
def execKeycmdErase (chip : Nat) (value : DWord) (s : State) : Host.Outcome State Fault Refusal :=
  .next (if keyId value = 0 then s.note chip 0x362 [value.toNat] else s.setKey (keyId value) 0)

/-- KEYCMD_INVALID: logged, no effect. -/
def execKeycmdInvalid (chip : Nat) (value : DWord) (s : State) : Host.Outcome State Fault Refusal :=
  .next (s.note chip 0x362 [value.toNat])

/-! ### Clocks (17 R365) -/

/-- FIXCLK_SET: fixed-clock mode at 540 MHz on every member. -/
def execFixclkSet (chip : Nat) (s : State) : Host.Outcome State Fault Refusal :=
  .next ((s.repl chip).members.foldl (fun s m => s.modSys m fun y => { y with fixclk := true, clkmhz := 540 }) s)

/-- FIXCLK_CLEAR: every member leaves the mode. -/
def execFixclkClear (chip : Nat) (s : State) : Host.Outcome State Fault Refusal :=
  .next ((s.repl chip).members.foldl (fun s m => s.modSys m fun y => { y with fixclk := false }) s)

/-- CORE_CLOCK_STEP: outside the mode the core clock moves to a neighbouring one of the 25 MHz steps below 600 MHz. -/
def execCoreClockStep (chip mhz : Nat) (s : State) : Host.Outcome State Fault Refusal :=
  .next (
    let y := (s.chip chip).sys
    if y.fixclk || 600 < mhz || (600 - mhz) % 25 ≠ 0 || mhz = 0 || 25 < max (mhz - y.clkmhz) (y.clkmhz - mhz) then s
    else s.modSys chip fun y => { y with clkmhz := mhz })

/-- THERMAL_95C: in the mode the clock falls, by a step, FIXLOST is set and the event is logged. -/
def execThermal95c (chip : Nat) (s : State) : Host.Outcome State Fault Refusal :=
  .next (if !(s.chip chip).sys.fixclk then s
    else (s.modSys chip fun y => { y with clkmhz := y.clkmhz - 25, fixlost := true }).note chip 0x365 [95])

/-! ### Isolation (17 R363) -/

/-- The chip starts a view change that leaves itself out. -/
def State.isolate (s : State) (chip : Nat) : State := (s.startChange chip true []).note chip 0x363 [chip]

/-- RSTCTL_ISOLATE: RSTCTL = 2. -/
def execRstctlIsolate (chip : Nat) (s : State) : Host.Outcome State Fault Refusal := .next (s.isolate chip)

/-- CHIP_FAULT_LASTING: a lasting fault isolates the chip, logged with its kind. -/
def execChipFaultLasting (chip : Nat) (s : State) : Host.Outcome State Fault Refusal :=
  .next ((s.isolate chip).note chip 0x321 [chip])

/-- THERMAL_105C: the chip is isolated and powered down; its links go down with it. -/
def execThermal105c (chip : Nat) (s : State) : Host.Outcome State Fault Refusal :=
  .next (if !(s.chip chip).powered then s
    else
      let s := (s.enterOut chip).modChip chip fun c => { c with powered := false }
      ((List.range 8).filter fun d => d ≠ chip && s.chipExists d).foldl (fun s d => s.dropLink chip d)
        (s.note chip 0x365 [105]))

/-- CXL_LINK_RESET: PERST# or a link reset resets the link of one port, which holds no state of its own here, and never a
chip (log 20: DEDUCED). -/
def execCxlLinkReset (_chip : Nat) (s : State) : Host.Outcome State Fault Refusal := .next s

/-! ### Warm reset (17 R363) -/

/-- The resident gangs of a chip stop. -/
def State.stopGangs (s : State) (chip : Nat) : State :=
  s.gangs.foldl (fun s g => if g.2.chip ≠ chip || !g.2.onChip || g.2.st = .killed || g.2.st = .retired then s else s.stopGang g.1 g.2) s

/-- RSTCTL_WARM: every member drains. -/
def execRstctlWarm (chip : Nat) (s : State) : Host.Outcome State Fault Refusal :=
  .next (if !s.inView chip chip then s
    else (s.repl chip).members.foldl (fun s m =>
      if (s.chip m).draining then s
      else ((s.modChip m fun c => { c with draining := true, drainClock := 0 }).stopGangs m).postOnce
        (.warmDrainComplete m)) s)

/-- A draining chip has drained: its gangs have left, nothing waits in its cores or on its links, and every packet it
retained is acknowledged. -/
def State.warmDrained (s : State) (chip : Nat) : Bool :=
  (s.repl chip).retained = [] && (s.repl chip).hold = [] &&
  (s.gangs.all fun g => g.2.chip ≠ chip || g.2.st = .swapped) &&
  (s.cores.all fun c => chipOfCore c.1 ≠ chip || (c.2.wq = [] && c.2.copies = [] && c.2.graphs = [] && c.2.kick.isNone)) &&
  (List.range 8).all fun d => Table.at s.links (linkKey chip d) [] = []

/-- A cluster after a warm reset: stacks keep their contents, with their version tags, and the host its copies. -/
def Cluster.warm (c : Cluster) : Cluster :=
  { Cluster.reset with
    retired := c.retired, hostHeld := c.hostHeld, hostOwned := c.hostOwned, biWait := c.biWait, biData := c.biData
    blockTag := c.blockTag, streams := c.streams }

/-- A replication unit after a warm reset: counts, view number and tenure as at cold reset; sectors, tags and registers
kept. -/
def Repl.warm (r : Repl) (mf4 : Bool) (ms : List Nat) : Repl :=
  { Repl.reset mf4 with
    replica := r.replica, blockTag := r.blockTag, tags := r.tags, members := ms, col := ms.headD 0, lagwarn := r.lagwarn, lagmax := r.lagmax
    holdmax := r.holdmax, acklim := r.acklim, revt := r.revt, rsegsz := r.rsegsz, hostHeld := r.hostHeld, biWait := r.biWait }

/-- The warm reset of the chips that have drained: their cores and clusters restart, memory kept (what else is kept, log 20: DEDUCED). -/
def State.warmReset (s : State) (ms : List Nat) : State :=
  let on (c : Nat) : Bool := ms.contains c
  { s with
    cores := s.cores.filter (fun e => !on (chipOfCore e.1))
    clusters := s.clusters.map (fun e => if on (chipOfStack e.1) then (e.1, e.2.warm) else e)
    links := s.links.filter (fun e => !(on (e.1 / 8) || on (e.1 % 8)))
    chips := ms.foldl (fun t m =>
      let c := s.chip m
      Table.put t m { c with repl := c.repl.warm s.mf4 ms, draining := false, drainClock := 0, tokens := [], hostLines := []
                             hostRegs := [] }) s.chips
    hostBase := [] }

/-- Draining members, once all have drained, restart together; Campion goes on. -/
def State.warmDone (s : State) (chip : Nat) : State :=
  let ms := (s.repl chip).members.filter fun m => (s.chip m).draining && !(s.repl m).out
  if ms = [] || !ms.all s.warmDrained then s
  else ms.foldl (fun s m => s.postOnce (.campionPlacement m)) (s.warmReset ms)

/-- WARM_DRAIN_COMPLETE: every member has drained; until then the chip goes on draining. -/
def execWarmDrainComplete (chip : Nat) (s : State) : Host.Outcome State Fault Refusal :=
  .next (if !(s.chip chip).draining then s
    else
      let s := s.warmDone chip
      if (s.chip chip).draining then s.postOnce (.warmDrainComplete chip) else s)

/-- WARM_DRAIN_TIMEOUT: a chip that has not drained within ACKLIM of its clocks is isolated, and the reset goes on without
it. -/
def execWarmDrainTimeout (chip : Nat) (s : State) : Host.Outcome State Fault Refusal :=
  .next (if !(s.chip chip).draining || (s.chip chip).drainClock ≤ (s.repl chip).acklim || s.warmDrained chip then s
    else (s.modChip chip fun c => { c with draining := false, drainClock := 0 }).isolate chip)

/-! ### Cold reset (17 R360, R363) -/

/-- The 64-byte digest of a chip's firmware image. -/
def imageDigest (c : Nat) : BitVec 512 := BitVec.ofNat 512 (natOfBytes (shake256 (Config.firmwareImage c) 64))

/-- The root of trust of a chip accepts its image. -/
def firmwareGood (c : Nat) : Bool := Config.imageVerifies c (imageDigest c)

/-- A measurement: the digest of the register's previous value joined to the new data (log 8: DEDUCED that the previous value is the
register's own). -/
def extendMeas (m : BitVec 512) (data : List Byte) : BitVec 512 :=
  BitVec.ofNat 512 (natOfBytes (shake256 (bytesOfNat 64 m.toNat ++ data) 64))

/-- MEAS0 to MEAS3 of a chip that has booted: the digest of its image, and what its firmware has measured. -/
def bootMeas (c : Nat) : List (BitVec 512) :=
  imageDigest c :: [1, 2, 3].map fun i => (Config.measured c i).foldl extendMeas 0

/-- A chip after a cold reset of the module: its firmware verified, it is a member with every other such chip, its
measurements recorded; a chip whose image fails never joins the view and reports it. -/
def bootChip (mf4 : Bool) (c : Nat) : Chip :=
  let x := Chip.reset mf4
  let ms := (presentChips mf4).filter firmwareGood
  let col := ms.headD 0
  let sys := { x.sys with meas := bootMeas c }
  if firmwareGood c then { x with sys, repl := { x.repl with members := ms, col } }
  else { x with sys, repl := { x.repl with members := [], col, out := true, vst := .out }, powered := false
                hk := [{ what := 0x360, args := [c] }] }

/-- COLD_RESET: module power-on or the cold-reset pin; the module restarts, memory as after reset (log 2: DESIGN CHOICE), keys redrawn. -/
def execColdReset (_chip : Nat) (s : State) : Host.Outcome State Fault Refusal :=
  .next { State.reset with
    mf4 := s.mf4, free := s.free, chips := (presentChips s.mf4).map fun c => (c, bootChip s.mf4 c) }

/-! ### Retired channels (12 R269) -/

/-- CHANNEL_RETIREMENT: a channel of a stack, PA[19:16], is retired; windows on its pages are to be fetched again (11 Table
11.4). -/
def execChannelRetirement (stack channel : Nat) (s : State) : Host.Outcome State Fault Refusal :=
  .next (
    let s := s.modCluster stack fun c => { c with retired := addBlock c.retired channel }
    let s := s.note (chipOfStack stack) 0x269 [stack, channel]
    (s.cluster stack).dir.foldl (fun s e =>
      if e.1 / 16 % 16 = channel && e.2.sharers ≠ [] then s.dirAsk e.1 .clear else s) s)

/-! ### Plain registers (00 R5; 17 R366, R367) -/

/-- A dword of a wide register replaced. -/
def putDword (x : BitVec 256) (i : Nat) (v : DWord) : BitVec 256 :=
  (x &&& ~~~((BitVec.allOnes 64).setWidth 256 <<< (64 * i))) ||| (v.setWidth 256 <<< (64 * i))

/-- A write to a register of 17 Table 17.3 without a behaviour of its own. -/
def State.sysWrite (s : State) (chip offset : Nat) (v : DWord) : State :=
  let cxl (f : SysRegs → SysRegs) : State := if chip % 2 = 0 then s.modSys chip f else s
  match offset with
  | 0x100 | 0x108 | 0x110 | 0x118 =>
    if (s.chip chip).sys.astat = 1 then s
    else s.modSys chip fun y => { y with nonce := putDword y.nonce ((offset - 0x100) / 8) v }
  | 0x10010 => s.modSys chip fun y => { y with fixlost := y.fixlost && !v.getLsbD 0 }
  | 0x10018 => s.modSys chip fun y => { y with pcap := v.toNat % 2 ^ 11 }
  | 0x30008 => cxl fun y => { y with hbuf := v.setWidth 16 }
  | 0x30010 => cxl fun y => { y with hsaddr := v &&& 0x7FFFFFFFF }
  | 0x30018 => cxl fun y => { y with hsopa := v }
  | 0x30020 => cxl fun y => { y with hsopb := v }
  | 0x30028 => cxl fun y => { y with hsctl := v &&& 0x1F0F }
  | _ => s

/-- A write to a register of 16 Table 16.9. -/
def State.dbgWrite (s : State) (chip offset : Nat) (v : DWord) : State :=
  match offset with
  | 0x000 => s.modDbg chip fun d => { d with steplr := v }
  | 0x008 => s.modDbg chip fun d => { d with stepid := v &&& 0x8000007FFFFFFFFF }
  | 0x010 => s.modDbg chip fun d => { d with nspc := v }
  | 0x018 => s.modDbg chip fun d => { d with nsseq := v &&& 0x1FFFFFFFF }
  | 0x020 => s.modDbg chip fun d => { d with schk := v.getLsbD 0 }
  | _ =>
    let n := (offset - 0x40) / 16
    if offset < 0x40 || 16 ≤ n then s
    else if offset % 16 = 0 then s.modDbg chip fun d => { d with lclo := Table.put d.lclo n v }
    else if offset % 16 = 8 then s.modDbg chip fun d => { d with lchi := Table.put d.lchi n v }
    else s

/-- An access to a chip's window that comes through a CXL port reaches the register at an offset (17 R354): the chip is in the view; or
it is in OUT, a link to it is up, and the register is of its replication unit, of which only RJOIN takes writes then. -/
def State.portReaches (s : State) (port chip offset : Nat) (write : Bool) : Bool :=
  s.cxlUp port && (s.inView port chip ||
    ((s.repl chip).vst = .out && s.chipExists chip && (chip = port || s.linkUp port chip) &&
      decide (0x40000 ≤ offset) && decide (offset < 0x50000) && (!write || offset = 0x40038)))

/-- REGISTER_WRITE: a write of 64 bits at an offset of a chip's register window that has reached it, over I3C (17 R366) or through a port
(`State.portReaches`); a register with a behaviour of its own has it, read-only and unlisted ones ignore the write. -/
def execRegisterWrite (chip offset : Nat) (value : DWord) (s : State) : Host.Outcome State Fault Refusal :=
  match offset with
  | 0x120 => execAreqWrite chip value s
  | 0x400 =>
    match value.toNat % 4 with
    | 1 => execKeycmdDraw chip value s
    | 2 => execKeycmdErase chip value s
    | _ => execKeycmdInvalid chip value s
  | 0x10000 => if value.getLsbD 0 then execFixclkSet chip s else execFixclkClear chip s
  | 0x20000 =>
    match value.toNat % 4 with
    | 1 => execRstctlWarm chip s
    | 2 => execRstctlIsolate chip s
    | _ => .next s
  | 0x30000 => execRootrcbWrite chip value s
  | 0x30030 => execHsgoWrite chip value s
  | 0x40010 => .next (s.modRepl chip fun r => { r with lagwarn := value.toNat % 2 ^ 17 })
  | 0x40018 => execLagmaxWrite chip value s
  | 0x40020 => execHoldmaxWrite chip value s
  | 0x40028 => execAcklimWrite chip value s
  | 0x40030 => .next (s.modRepl chip fun r => { r with revt := r.revt &&& ~~~(value.setWidth 5) })
  | 0x40038 => execRjoinWrite chip value s
  | 0x40088 => execRsegszWrite chip value s
  | 0x50000 => .next (s.modChip chip fun c => { c with ring := { c.ring with base := value.toNat % 2 ^ 48 } })
  | 0x50008 => execPrlenWrite chip value s
  | 0x50010 => execPrheadWrite chip value s
  | 0x50020 => .next (if value.getLsbD 0 then s.modChip chip fun c => { c with ring := { c.ring with fullBit := false } } else s)
  | 0x50028 => execKlaunchWrite chip value s
  | 0x60028 => execFencedWrite chip value s
  | _ =>
    if offset < 0x40000 then .next (s.sysWrite chip offset value)
    else if 0x60000 ≤ offset then .next (s.dbgWrite chip (offset - 0x60000) value)
    else .next s

/-! ### Reads of the register window (00 R5) -/

/-- Bits `lo` to `lo + n - 1` of a register's value, in place. -/
def regBits (v lo n : Nat) : Nat := v % 2 ^ n * 2 ^ lo

/-- A dword of a long register. -/
def dwordOf (v i : Nat) : DWord := BitVec.ofNat 64 (v / 2 ^ (64 * i))

/-- What a read of a register of 17 Table 17.3 returns: write-only registers read as 0, those of the host port on a chip that carries
one. -/
def State.sysRead (s : State) (chip offset : Nat) : DWord :=
  let y := (s.chip chip).sys
  let cxl (v : DWord) : DWord := if chip % 2 = 0 then v else 0
  match offset with
  | 0x128 => BitVec.ofNat 64 y.astat
  | 0x10000 => BitVec.ofNat 64 y.fixclk.toNat
  | 0x10008 => BitVec.ofNat 64 (y.clkmhz % 2 ^ 10)
  | 0x10010 => BitVec.ofNat 64 y.fixlost.toNat
  | 0x10018 => BitVec.ofNat 64 (y.pcap % 2 ^ 11)
  | 0x30000 => BitVec.ofNat 64 (y.rootrcb % 2 ^ 35)
  | 0x30008 => cxl (y.hbuf.setWidth 64)
  | 0x30010 => cxl (y.hsaddr &&& 0x7FFFFFFFF)
  | 0x30018 => cxl y.hsopa
  | 0x30020 => cxl y.hsopb
  | 0x30028 => cxl (y.hsctl &&& 0x1F0F)
  | 0x30038 => cxl y.hsold
  | 0x30040 => cxl (BitVec.ofNat 64 (y.hsstat % 4))
  | _ =>
    if offset % 8 ≠ 0 then 0
    else if offset < 0x100 then dwordOf (y.meas.getD (offset / 64) 0).toNat (offset % 64 / 8)
    else if 0x200 ≤ offset && offset < 0x400 then dwordOf y.arep.toNat ((offset - 0x200) / 8)
    else 0

/-- What a read of a register of 10 Table 10.8 returns. -/
def State.replRead (s : State) (chip offset : Nat) : DWord :=
  let r := s.repl chip
  BitVec.ofNat 64 (match offset with
    | 0x000 => regBits r.view 0 8 + regBits ((List.range 8).foldl (fun m c => if r.members.contains c then m + 2 ^ c else m) 0) 8 8 +
        regBits r.col 16 3 + regBits r.out.toNat 19 1
    | 0x008 => r.nextSlot
    | 0x010 => regBits r.lagwarn 0 17
    | 0x018 => regBits r.lagmax 0 17
    | 0x020 => regBits r.holdmax 0 22
    | 0x028 => regBits r.acklim 0 22
    | 0x030 => regBits (r.revt.toNat / 2) 1 4
    | 0x080 => regBits r.backlog 0 17
    | 0x088 => regBits r.rsegsz 0 6
    | _ => if 0x40 ≤ offset && offset < 0x80 && offset % 8 = 0 then regBits (vecAt r.applied ((offset - 0x40) / 8)) 0 20 else 0)

/-- What a read of a register of 15 Table 15.3 returns. -/
def State.ringRead (s : State) (chip offset : Nat) : DWord :=
  let g := (s.chip chip).ring
  BitVec.ofNat 64 (match offset with
    | 0x00 => regBits g.base 0 48
    | 0x08 => regBits g.len 0 17
    | 0x10 => regBits g.head 0 16
    | 0x18 => regBits g.tail 0 16
    | 0x20 => g.fullBit.toNat
    | _ => 0)

/-- What a read of a register of 16 Table 16.9 returns. -/
def State.dbgRead (s : State) (chip offset : Nat) : DWord :=
  let d := (s.chip chip).dbg
  match offset with
  | 0x000 => d.steplr
  | 0x008 => d.stepid
  | 0x010 => d.nspc
  | 0x018 => d.nsseq
  | 0x020 => BitVec.ofNat 64 d.schk.toNat
  | 0x028 => d.fenced
  | _ =>
    let n := (offset - 0x40) / 16
    if offset < 0x40 || 16 ≤ n then 0
    else if offset % 16 = 0 then Table.at d.lclo n 0
    else if offset % 16 = 8 then Table.at d.lchi n 0
    else 0

/-- What a read of 64 bits at an offset of a chip's register window returns (00 R5, 17 R367): the state of a register that may be read,
write-one-to-clear ones among them; 0 for write-only registers, reserved bits and unlisted offsets. -/
def State.regRead (s : State) (chip offset : Nat) : DWord :=
  if offset < 0x40000 then s.sysRead chip offset
  else if offset < 0x50000 then s.replRead chip (offset - 0x40000)
  else if offset < 0x60000 then s.ringRead chip (offset - 0x50000)
  else s.dbgRead chip (offset - 0x60000)

/-- What a host read of a chip's window through a port returns: all ones where it does not reach the register (17 R354). -/
def State.portRead (s : State) (port chip offset : Nat) : DWord :=
  if s.portReaches port chip offset false then s.regRead chip offset else BitVec.allOnes 64

/-- A host read of 64 bits at an offset of a function's BAR (17 R354). -/
def State.barRead (s : State) (port o : Nat) : DWord := s.portRead port (barWindow o).1 (barWindow o).2

/-- A host write at an offset of a function's BAR: dropped where it does not reach the register (17 R354). -/
def barWrite (port o : Nat) (v : DWord) (s : State) : Host.Outcome State Fault Refusal :=
  if s.portReaches port (barWindow o).1 (barWindow o).2 true then execRegisterWrite (barWindow o).1 (barWindow o).2 v s else .next s

end Sys2Proof.Machine
end

