-- ==== Sys2Proof/Machine/Tables.lean ====
section
/-! DEFINITION. The privileged instructions on translations and buffer versions: `PTST`, `PTLD`, `TLBI`, `XFENCE`,
`MIGR`, `BVER` (12 R259 to R269, R272). -/

namespace Sys2Proof.Machine

/-! ### PTST and PTLD -/

/-- The replicated offset of a lane's table word, or its class L fault (12 R259). -/
def State.tableLane (s : State) (k : Who) (f : ExtArgs) (l : Nat) : Except (Nat × BitVec 8 × DWord) (Nat × Nat) :=
  let a := s.laneEa k f l
  if a.toNat % 8 ≠ 0 then .error (l, 0x04, a)
  else if s.replSize k.chip ≤ a.toNat then .error (l, 0x12, a)
  else .ok (l, a.toNat)

/-- The lanes refused and the lanes that go on. -/
def splitLanes {α β : Type} : List (Except α β) → List α × List β
  | [] => ([], [])
  | .error a :: r => let (x, y) := splitLanes r; (a :: x, y)
  | .ok b :: r => let (x, y) := splitLanes r; (x, b :: y)

/-- `PTST` (12 R260): one request of OPC 10 per lane. -/
def execPtst (f : ExtArgs) (s : State) : Host.Outcome State Fault Refusal :=
  .next (issue (.ptst f) s fun k act s =>
    if !s.strongReady k act.length then .wait (s.notStalled k)
    else
      let (bad, good) := splitLanes (act.map fun l => s.tableLane k f l)
      let s := s.parkLanes k .none .w32 (Instr.length (.ptst f)) bad
      if good = [] then .done s
      else .done (s.sendLanes k none 8 [] (good.map fun e =>
        (e.1, mkReq 10 .n64 0 5 e.2 (s.readOpd k.x e.1 f.lit .w64 .int f.b) 0 none none))))

/-- Where `PTLD` reads a byte: the wave's own queued store of it, as a weak replicated load does, else the replica; none while one of
its atomics covers it (12 R261, 08 R177). -/
def Core.tableSrc (c : Core) (w a : Nat) : Option ByteSrc :=
  match c.ownByte w true a with
  | some (some b) => some (.val b)
  | some none => none
  | none => some (.repl a)

/-- `PTLD` (12 R261): a weak replicated load of 8 bytes, one access. -/
def execPtld (f : ExtArgs) (s : State) : Host.Outcome State Fault Refusal :=
  .next (issue (.ptld f) s fun k act s =>
    let (bad, good) := splitLanes (act.map fun l => s.tableLane k f l)
    let srcs := good.map fun e => (e.1, e.2, (List.range 8).map fun i => (s.core k.wg.core).tableSrc k.w (e.2 + i))
    let lanes := srcs.map fun e => ({ lane := e.1, src := e.2.2.filterMap fun b => b, va := BitVec.ofNat 64 e.2.1 } : LoadLane)
    if (srcs.any fun e => e.2.2.any fun b => b.isNone) || k.x.readsFirst (fun _ => true) (mixedBytes lanes) then .wait (s.notStalled k)
    else
      let s := s.parkLanes k f.d .w64 (Instr.length (.ptld f)) bad
      if good = [] then .done s
      else
        let (s, id) := s.deferLoad k .bytes f.d .n64 (lanes.map fun l => s.readMixed k.chip l) none
        .done (s.post (.loadReturn k.w id)))

/-! ### TLBI (12 R262) -/

/-- The operands of a removal's request. -/
def tlbiOpa (va : DWord) (asid : Nat) : Quad := BitVec.ofNat 128 (va.toNat + asid % 2 ^ 16 * 2 ^ 64)

/-- What each lane of `TLBI` removes; `.all` is one removal. -/
def State.tlbiLanes (s : State) (k : Who) (f : ExtArgs) (kind : Nat) (act : List Nat) : List (Nat × Quad) :=
  let one (l : Nat) : Nat × Quad :=
    (l, tlbiOpa (if kind = 0 then (s.readOpd k.x l f.lit .w64 .int f.a).setWidth 64 else 0)
      (if kind = 2 then 0 else (s.readOpd k.x l f.lit .w32 .int f.b).toNat))
  if kind = 2 then (act.take 1).map one else act.map one

/-- `TLBI`: at chip scope performed at issue, at package scope one request of OPC 11 per lane. -/
def tlbiEff (f : ExtArgs) (kind : Nat) (k : Who) (act : List Nat) (s : State) : Eff :=
  let rs := s.tlbiLanes k f kind act
  let opb : Quad := BitVec.ofNat 128 kind
  if f.sc = .ch then
    .done (rs.foldl (fun s e =>
      let w := tlbiOf e.2 opb
      let s := s.tlbiChip k.chip w
      let t : TlbiRec := { kind := w.kind, vpn := w.vpn, asid := w.asid, grant := none, epoch := some s.epoch }
      s.modWave k.w fun x => { x with tlbis := x.tlbis ++ [t] }) s)
  else if !s.strongReady k rs.length then .wait (s.notStalled k)
  else .done (s.sendLanes k none 0 [] (rs.map fun e => (e.1, mkReq 11 .i32 0 5 0 e.2 opb none none)))

/-- `TLBI.page`. -/
def execTlbiPage (f : ExtArgs) (s : State) : Host.Outcome State Fault Refusal :=
  .next (issue (.tlbiPage f) s (tlbiEff f 0))

/-- `TLBI.asid`. -/
def execTlbiAsid (f : ExtArgs) (s : State) : Host.Outcome State Fault Refusal :=
  .next (issue (.tlbiAsid f) s (tlbiEff f 1))

/-- `TLBI.all`. -/
def execTlbiAll (f : ExtArgs) (s : State) : Host.Outcome State Fault Refusal :=
  .next (issue (.tlbiAll f) s (tlbiEff f 2))

/-! ### XFENCE (12 R263, R266) -/

/-- The virtual pages of a load lane's bytes. -/
def LoadLane.vpns (l : LoadLane) : List Nat :=
  vpnOf l.va :: l.src.zipIdx.map fun b => vpnOf (l.va + BitVec.ofNat 64 b.2)

/-- The entries that a store or atomic has still to take. -/
def Wave.toTake (x : Wave) : List WqEntry :=
  [x.pend, x.pendAside].flatMap fun p => match p with
    | some (.todo es _) => es
    | _ => []

/-- An access that a chip translated, with an entry that a removal covers, before it performed that removal is not complete
(12 R266): a load lane, a strong request, a write-queue entry, taken or to be taken, a window's write-back. `epoch` gives the count of
removals at the removal on a chip where it acts; every page is taken as global. -/
def State.accessLeft (s : State) (epoch : Nat → Option Nat) (w : TlbiWhat) : Bool :=
  let hit := w.covers fun _ => true
  let before (chip n : Nat) : Bool := match epoch chip with
    | none => false
    | some e => decide (n < e)
  let entry (chip : Nat) (e : WqEntry) : Bool := before chip e.epoch && e.vpns.any fun v => hit v e.asid
  s.waves.any (fun e =>
    let chip := chipOfCore (s.coreOf e.1)
    let asid := ((s.gangOf e.1).map fun g => g.2.asid).getD 0
    e.2.loads.any (fun l => before chip l.2.epoch && l.2.kind ≠ .value && l.2.lanes.any fun x => x.vpns.any fun v => hit v asid) ||
      (match e.2.strong with
        | none => false
        | some g => before chip g.epoch && g.vpns.any fun v => hit v asid) ||
      e.2.toTake.any (entry chip)) ||
  s.cores.any fun c => c.2.wq.any (fun e => entry (chipOfCore c.1) e.2) ||
    c.2.segs.any fun e => e.2.back && before (chipOfCore c.1) e.2.epoch && hit (vpnOf e.2.va) e.2.asid

/-- The count of removals at which a chip performed the removal of a grant. -/
def State.removedAt (s : State) (chip : Nat) (g : Nat × Nat × Nat) : Option Nat :=
  ((s.chip chip).removed.reverse.find? fun r => r.1 = g.1 && r.2.1 = g.2.1 && r.2.2.1 = g.2.2).map fun r => r.2.2.2

/-- A removal is complete (12 R263, R266): performed wherever it acts, with no access left that was translated before. -/
def State.tlbiDone (s : State) (chip : Nat) (t : TlbiRec) : Bool :=
  let w : TlbiWhat := { kind := t.kind, vpn := t.vpn, asid := t.asid }
  match t.grant, t.epoch with
  | some g, _ => (s.repl chip).appliedByAll chip g && !s.accessLeft (fun c => s.removedAt c g) w
  | none, some e => !s.accessLeft (fun c => if c = chip then some e else none) w
  | none, none => true

/-- The wave's engine commands that have still to translate a transfer (12 R263): copies with a transfer left, records, graphs, tasks
not ended, tokens to be sent. The A and D updates of what has been translated are applied by every member in the step that makes them
(log 10: DEDUCED). -/
def State.enginesLeft (s : State) (k : Who) : Bool :=
  let c := s.core k.wg.core
  !c.kicked k.w || (c.copies.any fun e => e.2.wave = k.w && e.2.pieces ≠ []) || (c.graphs.any fun e => e.2.wave = k.w) ||
  (c.sends.any fun e => e.2.any fun t => t.wave = k.w) ||
  k.x.tasks.any fun i => match Table.look (s.cluster (clusterOfCore k.wg.core)).tasks i with
    | none => false
    | some t => !t.ended

/-- `XFENCE`: `pt`, `inv`, `ad` say which conditions it waits for. -/
def xfenceEff (pt inv ad : Bool) (k : Who) (_ : List Nat) (s : State) : Eff :=
  if k.x.strong.isSome then .wait (s.notStalled k)
  else
    match s.wave? k.w with
    | none => .done s
    | some x =>
      if (pt && !x.ptsts.all fun g => (s.repl k.chip).appliedByAll k.chip g) ||
         (inv && !x.tlbis.all fun t => s.tlbiDone k.chip t) || (ad && s.enginesLeft k) then .wait (s.notStalled k)
      else .done (s.modWave k.w fun x =>
        { x with ptsts := if pt then [] else x.ptsts, tlbis := if inv then [] else x.tlbis })

/-- `XFENCE.pt`. -/
def execXfencePt (f : ExtArgs) (s : State) : Host.Outcome State Fault Refusal :=
  .next (issue (.xfencePt f) s (xfenceEff true false false))

/-- `XFENCE.inv`. -/
def execXfenceInv (f : ExtArgs) (s : State) : Host.Outcome State Fault Refusal :=
  .next (issue (.xfenceInv f) s (xfenceEff false true false))

/-- `XFENCE.ad`. -/
def execXfenceAd (f : ExtArgs) (s : State) : Host.Outcome State Fault Refusal :=
  .next (issue (.xfenceAd f) s (xfenceEff false false true))

/-- `XFENCE.all`. -/
def execXfenceAll (f : ExtArgs) (s : State) : Host.Outcome State Fault Refusal :=
  .next (issue (.xfenceAll f) s (xfenceEff true true true))

/-! ### BVER (12 R272) -/

/-- The replicated offset of the VER word that a lane of `BVER` names; entry 0, which keys reserved memory, is refused (18 R392). -/
def State.bverLane (s : State) (k : Who) (f : ExtArgs) (l : Nat) : Except (Nat × BitVec 8 × DWord) (Nat × Nat) :=
  let idx := (s.readOpd k.x l f.lit .w32 .int f.a).toNat % 2 ^ 16
  if idx = 0 then .error (l, 0x12, 0) else .ok (l, reservedBase (s.repl k.chip).rsegsz + 8 * idx + 4)

/-- `BVER` (18 R392): one strong store of VER per lane. -/
def execBver (f : ExtArgs) (s : State) : Host.Outcome State Fault Refusal :=
  .next (issue (.bver f) s fun k act s =>
    if !s.strongReady k act.length then .wait (s.notStalled k)
    else
      let (bad, good) := splitLanes (act.map fun l => s.bverLane k f l)
      let s := s.parkLanes k .none .w32 (Instr.length (.bver f)) bad
      if good = [] then .done s
      else .done (s.sendLanes k none 4 [] (good.map fun e =>
        (e.1, mkReq 8 .n32 0 5 e.2 (s.readOpd k.x e.1 f.lit .w32 .int f.b) 0 none none))))

/-! ### MIGR (12 R268, R269) -/

/-- Copies 64 KiB of memory, the canonical form kept. -/
def Memory.copyPage (m : Memory) (src dst : Nat) : Memory :=
  m.filter (fun c => decide (c.1 < dst)) ++
  ((m.filter fun c => decide (src ≤ c.1) && decide (c.1 < src + 65536)).map fun c => (dst + (c.1 - src), c.2)) ++
  m.filter fun c => decide (dst + 65536 ≤ c.1)

/-- Copies the part of a table whose keys lie in 1,024 blocks. -/
def Table.copyBlocks {α : Type} (t : Table α) (src dst : Nat) : Table α :=
  let keep := t.filter fun e => !(decide (dst ≤ e.1) && decide (e.1 < dst + 1024))
  (t.filter fun e => decide (src ≤ e.1) && decide (e.1 < src + 1024)).foldl (fun t e => Table.put t (dst + (e.1 - src)) e.2)
    keep

/-- The segments that hold regions of a page are asked to give them up, dirty bytes written back (11 R241, Table 11.4); `true` once
none holds one or owes an answer. -/
def State.recallPage (s : State) (pa : Nat) : Bool × State :=
  let rs := (s.cluster (stackOf pa)).dir.filter fun e => e.1 / 16 = pa / 65536 && (e.2.sharers ≠ [] || e.2.asked ≠ [])
  (rs.isEmpty, rs.foldl (fun s e => s.dirAsk e.1 .clear) s)

/-- The copy of a page: bytes with the version tags they were written under, the text marks, and what sees a write of
every line of the new page: local filters, the issuing core's signature table, monitors, holders of its regions. -/
def State.copyPage (s : State) (core src dst : Nat) : State :=
  let tags := (Table.copyBlocks ((s.cluster (stackOf src)).blockTag) (src / 64) (dst / 64)).filter fun e =>
    decide (dst / 64 ≤ e.1) && decide (e.1 < dst / 64 + 1024)
  let s := { s with mem := Memory.copyPage s.mem src dst, written := Table.copyBlocks s.written (src / 64) (dst / 64) }
  let s := s.modCluster (stackOf dst) fun c =>
    { c with blockTag := tags.foldl (fun t e => Table.put t e.1 e.2)
               (c.blockTag.filter fun e => !(decide (dst / 64 ≤ e.1) && decide (e.1 < dst / 64 + 1024)))
             filters := (List.range 16).foldl (fun t i => Table.put t i (BitVec.allOnes 512)) c.filters }
  let s := s.modCore core fun c => c.addSig (BitVec.allOnes 512)
  (s.cluster (stackOf dst)).regs.foldl (fun s r => if r.line / 512 = dst / 65536 then s.fireWave r.wave r.line else s) s

/-- Released entries for blocks of a page try again. -/
def State.retryPage (s : State) (page : Nat) : State :=
  s.cores.foldl (fun s c => c.2.wq.foldl (fun s e =>
    if !e.2.held && !e.2.repl && e.2.block / 1024 = page / 65536 then s.postOnce (.wqEntryPerform c.1 e.1) else s) s) s

/-- A leaf with another SEG. -/
def leafWithSeg (e : DWord) (seg : Nat) : DWord := (e &&& ~~~(0xE000#64)) ||| BitVec.ofNat 64 (seg * 2 ^ 13)

/-- A leaf with another page. -/
def leafWithPage (e : DWord) (pa : Nat) : DWord :=
  (e &&& ~~~(0x0000FFFFFFFF0000#64)) ||| BitVec.ofNat 64 (pa / 65536 % 2 ^ 32 * 65536)

/-- The operands of a lane of `MIGR`: virtual address, new page, ASID. -/
def State.migrLane (s : State) (k : Who) (f : ExtArgs) (l : Nat) : DWord × Nat × Nat :=
  ((s.readOpd k.x l f.lit .w64 .int f.a).setWidth 64, (s.readOpd k.x l f.lit .w64 .int f.b).toNat,
    (s.readOpd k.x l f.lit .w32 .int f.c).toNat % 2 ^ 16)

/-- What one lane's move has come to: refused with a cause, finished, abandoned, or waiting in a phase. -/
inductive MigrOut where
  | refused (cause : BitVec 8)
  | moved (s : State)
  | abandoned (s : State)
  | waits (s : State) (m : Migr)

/-- Blocks of a page that the host holds or owns. -/
def State.pageHeld (s : State) (pa : Nat) (own : Bool) : List Nat :=
  let c := s.cluster (stackOf pa)
  (if own then c.hostOwned else c.hostHeld).filter fun b => b / 1024 = pa / 65536

/-- The last part of a lane's move (12 R268): the unmap is complete, or `.evac` does not wait for it; the page is
copied, the entry remapped, the replay released; a home that has departed ends the move with the entry restored. -/
def State.migrFinish (s : State) (k : Who) (evac : Bool) (va : DWord) (asid : Nat) (m : Migr) : MigrOut :=
  let old := leafPage m.entry
  let what : TlbiWhat := { kind := 0, vpn := vpnOf va, asid }
  if !s.stackLive (stackOf old) || !s.stackLive (stackOf m.newPage) then
    match s.strongStore k.chip .n64 m.ea m.entry.toNat with
    | none => .waits s m
    | some s => .abandoned (s.raiseA k.w k.chip
        { cause := 0x1C, pc := k.x.issuePc, addr := va, lseq := none, dest := 0x180 })
  else if !evac && s.accessLeft (fun _ => some m.epoch) what then .waits s m
  else match s.pageHeld m.newPage false, s.pageHeld old true with
    | b :: r, bs => .waits (bs.foldl (fun s b => s.askHostData b) ((b :: r).foldl (fun s b => s.askHost b) s)) m
    | [], b :: r => .waits ((b :: r).foldl (fun s b => s.askHostData b) s) m
    | [], [] =>
      let (a, s) := s.recallPage old
      let (b, s) := s.recallPage m.newPage
      if !a || !b then .waits s m
      else match s.strongStore k.chip .n64 m.ea (leafWithPage m.entry m.newPage).toNat with
      | none => .waits s m
      | some s =>
        let s := s.copyPage k.wg.core old m.newPage
        let s := if evac then s.modCluster (stackOf old) fun c => { c with evac := Table.put c.evac (old / 65536) s.epoch }
          else s
        .moved (s.retryPage old)

/-- The removal of a moving page's translations (12 R268). -/
def State.migrRemove (s : State) (k : Who) (evac : Bool) (va : DWord) (asid : Nat) (m : Migr) : MigrOut :=
  match s.strongNow k.chip 11 .i32 0 (tlbiOpa va asid) 0 with
  | none => .waits s m
  | some (_, s) => s.migrFinish k evac va asid { m with phase := 2, epoch := s.epoch }

/-- The start of a lane's move (12 R268): the walk from the ASID root table, the checks, the entry marked moving. -/
def migrStart (fuel : Nat) (s : State) (k : Who) (evac : Bool) (l : Nat) (va : DWord) (pa asid : Nat) : MigrOut :=
  match fuel with
  | 0 => .waits s { lane := l, phase := 0, entry := 0, ea := 0, newPage := pa, epoch := 0, parks := [] }
  | n + 1 =>
    let chip := k.chip
    let cl := clusterOfCore k.wg.core
    let root := BitVec.ofNat 64 (s.tableRead chip (reservedBase (s.repl chip).rsegsz + 0x80000 + 8 * asid))
    if root = 0 then .refused 0x11
    else match (s.modCluster cl fun c => { c with walks := [] }).walk cl asid root va with
      | none => .refused 0x11
      | some (e, ea, _) =>
        if 2 ≤ leafSeg e || pa % 65536 ≠ 0 || !s.homedForm chip pa || pa = leafPage e || !s.stackLive (stackOf pa) ||
           !s.stackLive (stackOf (leafPage e)) then .refused 0x12
        else
          let m : Migr := { lane := l, phase := 0, entry := e, ea, newPage := pa, epoch := 0, parks := [] }
          match s.strongCas chip ea e.toNat (leafWithSeg e 4).toNat with
          | none => .waits s m
          | some (old, s) =>
            if old = e.toNat then s.migrRemove k evac va asid { m with phase := 1 }
            else migrStart n s k evac l va pa asid

/-- The moves of the lanes in order (12 R268); `m` is the move under way. -/
def migrLanes (f : ExtArgs) (evac : Bool) (k : Who) (len : Nat) :
    List Nat → Option Migr → List (Nat × BitVec 8 × DWord) → State → Eff
  | [], _, parks, s => .done (s.parkLanes k .none .w32 len parks)
  | l :: r, m, parks, s =>
    let (va, pa, asid) := s.migrLane k f l
    let out := match m with
      | some m =>
        if m.phase = 2 then s.migrFinish k evac va asid m
        else if m.phase = 1 then s.migrRemove k evac va asid m
        else migrStart 8 s k evac l va pa asid
      | none => migrStart 8 s k evac l va pa asid
    match out with
    | .refused c => migrLanes f evac k len r none (parks ++ [(l, c, va)]) s
    | .moved s => migrLanes f evac k len r none parks s
    | .abandoned s => .done (s.parkLanes k .none .w32 len parks)
    | .waits s m => .wait ((s.modWave k.w fun x => { x with pend := some (.migr { m with parks }) }).notStalled k)

/-- `MIGR`: it waits for the wave's earlier replicated entries and strong instruction first (12 R259). -/
def migrEff (i : Instr) (f : ExtArgs) (evac : Bool) (k : Who) (act : List Nat) (s : State) : Eff :=
  match k.x.pend with
  | some (.migr m) =>
    migrLanes f evac k i.form.length (act.filter fun l => decide (m.lane ≤ l)) (some m) m.parks s
  | _ =>
    if !s.strongReady k 1 then .wait (s.notStalled k) else migrLanes f evac k i.form.length act none [] s

/-- `MIGR`. -/
def execMigr (f : ExtArgs) (s : State) : Host.Outcome State Fault Refusal := .next (issue (.migr f) s (migrEff (.migr f) f false))

/-- `MIGR.evac` (12 R269). -/
def execMigrEvac (f : ExtArgs) (s : State) : Host.Outcome State Fault Refusal :=
  .next (issue (.migrEvac f) s (migrEff (.migrEvac f) f true))

end Sys2Proof.Machine
end

