-- ==== Sys2Proof/Machine/Dispatch.lean ====
section
/-! DEFINITION. The meaning of every instruction: one arm per constructor of `Instr`. -/

namespace Sys2Proof.Machine

def exec (i : Instr) (s : State) : Host.Outcome State Fault Refusal :=
  match i with
  | .nop => Sys2Proof.Machine.execNop s
  | .br off => Sys2Proof.Machine.execBr off s
  | .brLit target => Sys2Proof.Machine.execBrLit target s
  | .brp p sense off => Sys2Proof.Machine.execBrp p sense off s
  | .brpLit p sense target => Sys2Proof.Machine.execBrpLit p sense target s
  | .brx f => Sys2Proof.Machine.execBrx f s
  | .call off => Sys2Proof.Machine.execCall off s
  | .callLit target => Sys2Proof.Machine.execCallLit target s
  | .ret f => Sys2Proof.Machine.execRet f s
  | .join d off => Sys2Proof.Machine.execJoin d off s
  | .joinLit d target => Sys2Proof.Machine.execJoinLit d target s
  | .joinExt d rgn target => Sys2Proof.Machine.execJoinExt d rgn target s
  | .exit => Sys2Proof.Machine.execExit s
  | .pblk inv pred cnt pat => Sys2Proof.Machine.execPblk inv pred cnt pat s
  | .yield => Sys2Proof.Machine.execYield s
  | .sleep f => Sys2Proof.Machine.execSleep f s
  | .sleepExt f => Sys2Proof.Machine.execSleepExt f s
  | .sleepEnd wave => Sys2Proof.Machine.execSleepEnd wave s
  | .trap code => Sys2Proof.Machine.execTrap code s
  | .rte => Sys2Proof.Machine.execRte s
  | .brk code => Sys2Proof.Machine.execBrk code s
  | .mona f => Sys2Proof.Machine.execMona f s
  | .mwait f => Sys2Proof.Machine.execMwait f s
  | .mwaitWake wave => Sys2Proof.Machine.execMwaitWake wave s
  | .monitorTimeoutExpiry wave => Sys2Proof.Machine.execMonitorTimeoutExpiry wave s
  | .launch f => Sys2Proof.Machine.execLaunch f s
  | .iadd f => Sys2Proof.Machine.execIadd f s
  | .iaddExt f => Sys2Proof.Machine.execIaddExt f s
  | .isub f => Sys2Proof.Machine.execIsub f s
  | .isubExt f => Sys2Proof.Machine.execIsubExt f s
  | .imul f => Sys2Proof.Machine.execImul f s
  | .imulExt f => Sys2Proof.Machine.execImulExt f s
  | .imulh f => Sys2Proof.Machine.execImulh f s
  | .imulhExt f => Sys2Proof.Machine.execImulhExt f s
  | .imad f => Sys2Proof.Machine.execImad f s
  | .imadExt f => Sys2Proof.Machine.execImadExt f s
  | .imin f => Sys2Proof.Machine.execImin f s
  | .iminExt f => Sys2Proof.Machine.execIminExt f s
  | .imax f => Sys2Proof.Machine.execImax f s
  | .imaxExt f => Sys2Proof.Machine.execImaxExt f s
  | .iabs f => Sys2Proof.Machine.execIabs f s
  | .iabsExt f => Sys2Proof.Machine.execIabsExt f s
  | .and f => Sys2Proof.Machine.execAnd f s
  | .andExt f => Sys2Proof.Machine.execAndExt f s
  | .or f => Sys2Proof.Machine.execOr f s
  | .orExt f => Sys2Proof.Machine.execOrExt f s
  | .xor f => Sys2Proof.Machine.execXor f s
  | .xorExt f => Sys2Proof.Machine.execXorExt f s
  | .not f => Sys2Proof.Machine.execNot f s
  | .notExt f => Sys2Proof.Machine.execNotExt f s
  | .shl f => Sys2Proof.Machine.execShl f s
  | .shlExt f => Sys2Proof.Machine.execShlExt f s
  | .shr f => Sys2Proof.Machine.execShr f s
  | .shrExt f => Sys2Proof.Machine.execShrExt f s
  | .sha f => Sys2Proof.Machine.execSha f s
  | .shaExt f => Sys2Proof.Machine.execShaExt f s
  | .rot f => Sys2Proof.Machine.execRot f s
  | .rotExt f => Sys2Proof.Machine.execRotExt f s
  | .popc f => Sys2Proof.Machine.execPopc f s
  | .popcExt f => Sys2Proof.Machine.execPopcExt f s
  | .clz f => Sys2Proof.Machine.execClz f s
  | .clzExt f => Sys2Proof.Machine.execClzExt f s
  | .brev f => Sys2Proof.Machine.execBrev f s
  | .brevExt f => Sys2Proof.Machine.execBrevExt f s
  | .bfx f => Sys2Proof.Machine.execBfx f s
  | .bfi f => Sys2Proof.Machine.execBfi f s
  | .icmp f => Sys2Proof.Machine.execIcmp f s
  | .icmpExt f => Sys2Proof.Machine.execIcmpExt f s
  | .sel f => Sys2Proof.Machine.execSel f s
  | .selExt f => Sys2Proof.Machine.execSelExt f s
  | .lea f => Sys2Proof.Machine.execLea f s
  | .iadds f => Sys2Proof.Machine.execIadds f s
  | .iaddsExt f => Sys2Proof.Machine.execIaddsExt f s
  | .idiv f => Sys2Proof.Machine.execIdiv f s
  | .idivExt f => Sys2Proof.Machine.execIdivExt f s
  | .irem f => Sys2Proof.Machine.execIrem f s
  | .iremExt f => Sys2Proof.Machine.execIremExt f s
  | .mov f => Sys2Proof.Machine.execMov f s
  | .movExt f => Sys2Proof.Machine.execMovExt f s
  | .movi f => Sys2Proof.Machine.execMovi f s
  | .srd f => Sys2Proof.Machine.execSrd f s
  | .srdExt f => Sys2Proof.Machine.execSrdExt f s
  | .swr f => Sys2Proof.Machine.execSwr f s
  | .swrExt f => Sys2Proof.Machine.execSwrExt f s
  | .pmov f => Sys2Proof.Machine.execPmov f s
  | .pmovExt f => Sys2Proof.Machine.execPmovExt f s
  | .plog f => Sys2Proof.Machine.execPlog f s
  | .fadd f => Sys2Proof.Machine.execFadd f s
  | .faddExt f => Sys2Proof.Machine.execFaddExt f s
  | .fsub f => Sys2Proof.Machine.execFsub f s
  | .fsubExt f => Sys2Proof.Machine.execFsubExt f s
  | .fmul f => Sys2Proof.Machine.execFmul f s
  | .fmulExt f => Sys2Proof.Machine.execFmulExt f s
  | .ffma f => Sys2Proof.Machine.execFfma f s
  | .ffmaExt f => Sys2Proof.Machine.execFfmaExt f s
  | .fmin f => Sys2Proof.Machine.execFmin f s
  | .fminExt f => Sys2Proof.Machine.execFminExt f s
  | .fmax f => Sys2Proof.Machine.execFmax f s
  | .fmaxExt f => Sys2Proof.Machine.execFmaxExt f s
  | .fcmp f => Sys2Proof.Machine.execFcmp f s
  | .fcmpExt f => Sys2Proof.Machine.execFcmpExt f s
  | .frcp f => Sys2Proof.Machine.execFrcp f s
  | .frcpExt f => Sys2Proof.Machine.execFrcpExt f s
  | .frsq f => Sys2Proof.Machine.execFrsq f s
  | .frsqExt f => Sys2Proof.Machine.execFrsqExt f s
  | .fsqrt f => Sys2Proof.Machine.execFsqrt f s
  | .fsqrtExt f => Sys2Proof.Machine.execFsqrtExt f s
  | .fexp2 f => Sys2Proof.Machine.execFexp2 f s
  | .fexp2Ext f => Sys2Proof.Machine.execFexp2Ext f s
  | .flog2 f => Sys2Proof.Machine.execFlog2 f s
  | .flog2Ext f => Sys2Proof.Machine.execFlog2Ext f s
  | .fsin f => Sys2Proof.Machine.execFsin f s
  | .fsinExt f => Sys2Proof.Machine.execFsinExt f s
  | .fcos f => Sys2Proof.Machine.execFcos f s
  | .fcosExt f => Sys2Proof.Machine.execFcosExt f s
  | .fdiv f => Sys2Proof.Machine.execFdiv f s
  | .fdivExt f => Sys2Proof.Machine.execFdivExt f s
  | .frnd f => Sys2Proof.Machine.execFrnd f s
  | .frndExt f => Sys2Proof.Machine.execFrndExt f s
  | .fcls f => Sys2Proof.Machine.execFcls f s
  | .fclsExt f => Sys2Proof.Machine.execFclsExt f s
  | .fscl f => Sys2Proof.Machine.execFscl f s
  | .fsclExt f => Sys2Proof.Machine.execFsclExt f s
  | .fdot2 f => Sys2Proof.Machine.execFdot2 f s
  | .fdot4 f => Sys2Proof.Machine.execFdot4 f s
  | .fmxi f => Sys2Proof.Machine.execFmxi f s
  | .fmni f => Sys2Proof.Machine.execFmni f s
  | .cvt f => Sys2Proof.Machine.execCvt f s
  | .cvtpk f => Sys2Proof.Machine.execCvtpk f s
  | .unpk f => Sys2Proof.Machine.execUnpk f s
  | .qscl f => Sys2Proof.Machine.execQscl f s
  | .hdmk f => Sys2Proof.Machine.execHdmk f s
  | .cmprs f => Sys2Proof.Machine.execCmprs f s
  | .shfl f => Sys2Proof.Machine.execShfl f s
  | .shflExt f => Sys2Proof.Machine.execShflExt f s
  | .vote f => Sys2Proof.Machine.execVote f s
  | .voteExt f => Sys2Proof.Machine.execVoteExt f s
  | .redl f => Sys2Proof.Machine.execRedl f s
  | .scanl f => Sys2Proof.Machine.execScanl f s
  | .matchLanes f => Sys2Proof.Machine.execMatchLanes f s
  | .elect f => Sys2Proof.Machine.execElect f s
  | .electExt f => Sys2Proof.Machine.execElectExt f s
  | .ld f => Sys2Proof.Machine.execLd f s
  | .st f => Sys2Proof.Machine.execSt f s
  | .ldl f => Sys2Proof.Machine.execLdl f s
  | .stl f => Sys2Proof.Machine.execStl f s
  | .atom f => Sys2Proof.Machine.execAtom f s
  | .atoml f => Sys2Proof.Machine.execAtoml f s
  | .satom f => Sys2Proof.Machine.execSatom f s
  | .sst f => Sys2Proof.Machine.execSst f s
  | .sld f => Sys2Proof.Machine.execSld f s
  | .fenceAcq f => Sys2Proof.Machine.execFenceAcq f s
  | .fenceRel f => Sys2Proof.Machine.execFenceRel f s
  | .fenceAr f => Sys2Proof.Machine.execFenceAr f s
  | .wfence f => Sys2Proof.Machine.execWfence f s
  | .rfence f => Sys2Proof.Machine.execRfence f s
  | .pref f => Sys2Proof.Machine.execPref f s
  | .discLine f => Sys2Proof.Machine.execDiscLine f s
  | .discAll f => Sys2Proof.Machine.execDiscAll f s
  | .wbr f => Sys2Proof.Machine.execWbr f s
  | .segb f => Sys2Proof.Machine.execSegb f s
  | .segu f => Sys2Proof.Machine.execSegu f s
  | .ptst f => Sys2Proof.Machine.execPtst f s
  | .ptld f => Sys2Proof.Machine.execPtld f s
  | .tlbiPage f => Sys2Proof.Machine.execTlbiPage f s
  | .tlbiAsid f => Sys2Proof.Machine.execTlbiAsid f s
  | .tlbiAll f => Sys2Proof.Machine.execTlbiAll f s
  | .xfencePt f => Sys2Proof.Machine.execXfencePt f s
  | .xfenceInv f => Sys2Proof.Machine.execXfenceInv f s
  | .xfenceAd f => Sys2Proof.Machine.execXfenceAd f s
  | .xfenceAll f => Sys2Proof.Machine.execXfenceAll f s
  | .migr f => Sys2Proof.Machine.execMigr f s
  | .migrEvac f => Sys2Proof.Machine.execMigrEvac f s
  | .bver f => Sys2Proof.Machine.execBver f s
  | .cpy f => Sys2Proof.Machine.execCpy f s
  | .tcpy f => Sys2Proof.Machine.execTcpy f s
  | .kick f => Sys2Proof.Machine.execKick f s
  | .bari f => Sys2Proof.Machine.execBari f s
  | .bara f => Sys2Proof.Machine.execBara f s
  | .barw f => Sys2Proof.Machine.execBarw f s
  | .bart f => Sys2Proof.Machine.execBart f s
  | .lemp f => Sys2Proof.Machine.execLemp f s
  | .lwt f => Sys2Proof.Machine.execLwt f s
  | .gsub f => Sys2Proof.Machine.execGsub f s
  | .cfenceDone f => Sys2Proof.Machine.execCfenceDone f s
  | .cfenceRead f => Sys2Proof.Machine.execCfenceRead f s
  | .oclm f => Sys2Proof.Machine.execOclm f s
  | .orel f => Sys2Proof.Machine.execOrel f s
  | .ofill f => Sys2Proof.Machine.execOfill f s
  | .ofillOut f => Sys2Proof.Machine.execOfillOut f s
  | .ostrOpen f => Sys2Proof.Machine.execOstrOpen f s
  | .ostrPost f => Sys2Proof.Machine.execOstrPost f s
  | .ostrClose f => Sys2Proof.Machine.execOstrClose f s
  | .osub f => Sys2Proof.Machine.execOsub f s
  | .osubDrop f => Sys2Proof.Machine.execOsubDrop f s
  | .aclm f => Sys2Proof.Machine.execAclm f s
  | .arel f => Sys2Proof.Machine.execArel f s
  | .aini f => Sys2Proof.Machine.execAini f s
  | .ald f => Sys2Proof.Machine.execAld f s
  | .opf => Sys2Proof.Machine.execOpf s
  | .ttsk f => Sys2Proof.Machine.execTtsk f s
  | .twait f => Sys2Proof.Machine.execTwait f s
  | .hndw f => Sys2Proof.Machine.execHndw f s
  | .hndp f => Sys2Proof.Machine.execHndp f s
  | .bar => Sys2Proof.Machine.execBar s
  | .gbar => Sys2Proof.Machine.execGbar s
  | .tokw => Sys2Proof.Machine.execTokw s
  | .tokp => Sys2Proof.Machine.execTokp s
  | .rsend f => Sys2Proof.Machine.execRsend f s
  | .rflshGo f => Sys2Proof.Machine.execRflshGo f s
  | .rflshWait f => Sys2Proof.Machine.execRflshWait f s
  | .rpollOpen f => Sys2Proof.Machine.execRpollOpen f s
  | .rpollCnt f => Sys2Proof.Machine.execRpollCnt f s
  | .rpollFree f => Sys2Proof.Machine.execRpollFree f s
  | .rpollClose f => Sys2Proof.Machine.execRpollClose f s
  | .rpollSent f => Sys2Proof.Machine.execRpollSent f s
  | .rpollRefd f => Sys2Proof.Machine.execRpollRefd f s
  | .frec f => Sys2Proof.Machine.execFrec f s
  | .lfix f => Sys2Proof.Machine.execLfix f s
  | .perfRead f => Sys2Proof.Machine.execPerfRead f s
  | .perfClr f => Sys2Proof.Machine.execPerfClr f s
  | .hcapCfg f => Sys2Proof.Machine.execHcapCfg f s
  | .hcapRd f => Sys2Proof.Machine.execHcapRd f s
  | .hcapClr f => Sys2Proof.Machine.execHcapClr f s
  | .dgst f => Sys2Proof.Machine.execDgst f s
  | .asyncTrapDelivery wave => Sys2Proof.Machine.execAsyncTrapDelivery wave s
  | .handlerWatchdog wave => Sys2Proof.Machine.execHandlerWatchdog wave s
  | .writeBackpressure wave => Sys2Proof.Machine.execWriteBackpressure wave s
  | .pageRequestResponse chip entry resp => Sys2Proof.Machine.execPageRequestResponse chip entry resp s
  | .prheadWrite chip value => Sys2Proof.Machine.execPrheadWrite chip value s
  | .prlenWrite chip value => Sys2Proof.Machine.execPrlenWrite chip value s
  | .klaunchWrite chip value => Sys2Proof.Machine.execKlaunchWrite chip value s
  | .campionPlacement chip => Sys2Proof.Machine.execCampionPlacement chip s
  | .contextSave gang => Sys2Proof.Machine.execContextSave gang s
  | .swapOut gang => Sys2Proof.Machine.execSwapOut gang s
  | .workgroupExit wg => Sys2Proof.Machine.execWorkgroupExit wg s
  | .gangRetire gang => Sys2Proof.Machine.execGangRetire gang s
  | .launchDone chip record => Sys2Proof.Machine.execLaunchDone chip record s
  | .writeLaneGrant stack => Sys2Proof.Machine.execWriteLaneGrant stack s
  | .wcapWindow stack => Sys2Proof.Machine.execWcapWindow stack s
  | .wqEntryPerform core entry => Sys2Proof.Machine.execWqEntryPerform core entry s
  | .loadReturn wave load => Sys2Proof.Machine.execLoadReturn wave load s
  | .hcapLevelSample core monitor level => Sys2Proof.Machine.execHcapLevelSample core monitor level s
  | .windowFillRequest core seg => Sys2Proof.Machine.execWindowFillRequest core seg s
  | .windowFillData core seg line => Sys2Proof.Machine.execWindowFillData core seg line s
  | .windowNotice core seg => Sys2Proof.Machine.execWindowNotice core seg s
  | .windowInv core seg => Sys2Proof.Machine.execWindowInv core seg s
  | .windowRecall core seg => Sys2Proof.Machine.execWindowRecall core seg s
  | .windowGone core seg => Sys2Proof.Machine.execWindowGone core seg s
  | .windowNoticeAck core seg => Sys2Proof.Machine.execWindowNoticeAck core seg s
  | .hostLineFill chip line => Sys2Proof.Machine.execHostLineFill chip line s
  | .snpData chip line => Sys2Proof.Machine.execSnpData chip line s
  | .snpInv chip line => Sys2Proof.Machine.execSnpInv chip line s
  | .snpCur chip line => Sys2Proof.Machine.execSnpCur chip line s
  | .hdmRead chip block own => Sys2Proof.Machine.execHdmRead chip block own s
  | .hdmWrite chip block mask data => Sys2Proof.Machine.execHdmWrite chip block mask data s
  | .birsp chip block => Sys2Proof.Machine.execBirsp chip block s
  | .updatePacket src dst => Sys2Proof.Machine.execUpdatePacket src dst s
  | .grantPacket src dst => Sys2Proof.Machine.execGrantPacket src dst s
  | .wrapPacket src dst => Sys2Proof.Machine.execWrapPacket src dst s
  | .packetApply chip => Sys2Proof.Machine.execPacketApply chip s
  | .reqMessage src dst => Sys2Proof.Machine.execReqMessage src dst s
  | .colGrant chip => Sys2Proof.Machine.execColGrant chip s
  | .ackMessage src dst => Sys2Proof.Machine.execAckMessage src dst s
  | .ackTimer chip => Sys2Proof.Machine.execAckTimer chip s
  | .wrapackMessage src dst => Sys2Proof.Machine.execWrapackMessage src dst s
  | .counterWrap chip => Sys2Proof.Machine.execCounterWrap chip s
  | .linkCrcError src dst => Sys2Proof.Machine.execLinkCrcError src dst s
  | .ackTimeout chip => Sys2Proof.Machine.execAckTimeout chip s
  | .holdTimeout chip => Sys2Proof.Machine.execHoldTimeout chip s
  | .proposeMessage src dst => Sys2Proof.Machine.execProposeMessage src dst s
  | .stateMessage src dst => Sys2Proof.Machine.execStateMessage src dst s
  | .installMessage src dst => Sys2Proof.Machine.execInstallMessage src dst s
  | .viewPhaseTimeout chip => Sys2Proof.Machine.execViewPhaseTimeout chip s
  | .joinMessage src dst => Sys2Proof.Machine.execJoinMessage src dst s
  | .listenMessage src dst => Sys2Proof.Machine.execListenMessage src dst s
  | .donorCopy chip => Sys2Proof.Machine.execDonorCopy chip s
  | .rjoinWrite chip value => Sys2Proof.Machine.execRjoinWrite chip value s
  | .lagmaxWrite chip value => Sys2Proof.Machine.execLagmaxWrite chip value s
  | .holdmaxWrite chip value => Sys2Proof.Machine.execHoldmaxWrite chip value s
  | .acklimWrite chip value => Sys2Proof.Machine.execAcklimWrite chip value s
  | .rsegszWrite chip value => Sys2Proof.Machine.execRsegszWrite chip value s
  | .rootrcbWrite chip value => Sys2Proof.Machine.execRootrcbWrite chip value s
  | .copyTransfer core copy => Sys2Proof.Machine.execCopyTransfer core copy s
  | .kickRecordStart core => Sys2Proof.Machine.execKickRecordStart core s
  | .graphNodeRetire core graph node => Sys2Proof.Machine.execGraphNodeRetire core graph node s
  | .ethFrameRx port frame => Sys2Proof.Machine.execEthFrameRx port frame s
  | .taskDispatch cluster => Sys2Proof.Machine.execTaskDispatch cluster s
  | .tileStep cluster task => Sys2Proof.Machine.execTileStep cluster task s
  | .sendListFlush core chip => Sys2Proof.Machine.execSendListFlush core chip s
  | .tokenArrival chip => Sys2Proof.Machine.execTokenArrival chip s
  | .tokenAcknowledge wave => Sys2Proof.Machine.execTokenAcknowledge wave s
  | .tokenRefusal wave => Sys2Proof.Machine.execTokenRefusal wave s
  | .fencedWrite chip value => Sys2Proof.Machine.execFencedWrite chip value s
  | .hsgoWrite chip value => Sys2Proof.Machine.execHsgoWrite chip value s
  | .areqWrite chip value => Sys2Proof.Machine.execAreqWrite chip value s
  | .attestReportReady chip => Sys2Proof.Machine.execAttestReportReady chip s
  | .keycmdDraw chip value => Sys2Proof.Machine.execKeycmdDraw chip value s
  | .keycmdErase chip value => Sys2Proof.Machine.execKeycmdErase chip value s
  | .keycmdInvalid chip value => Sys2Proof.Machine.execKeycmdInvalid chip value s
  | .fixclkSet chip => Sys2Proof.Machine.execFixclkSet chip s
  | .fixclkClear chip => Sys2Proof.Machine.execFixclkClear chip s
  | .rstctlWarm chip => Sys2Proof.Machine.execRstctlWarm chip s
  | .warmDrainComplete chip => Sys2Proof.Machine.execWarmDrainComplete chip s
  | .warmDrainTimeout chip => Sys2Proof.Machine.execWarmDrainTimeout chip s
  | .rstctlIsolate chip => Sys2Proof.Machine.execRstctlIsolate chip s
  | .chipFaultLasting chip => Sys2Proof.Machine.execChipFaultLasting chip s
  | .coldReset chip => Sys2Proof.Machine.execColdReset chip s
  | .cxlLinkReset chip => Sys2Proof.Machine.execCxlLinkReset chip s
  | .thermal95c chip => Sys2Proof.Machine.execThermal95c chip s
  | .thermal105c chip => Sys2Proof.Machine.execThermal105c chip s
  | .registerWrite chip offset value => Sys2Proof.Machine.execRegisterWrite chip offset value s
  | .replJoin chip => Sys2Proof.Machine.execReplJoin chip s
  | .channelRetirement stack channel => Sys2Proof.Machine.execChannelRetirement stack channel s
  | .coreClockStep chip mhz => Sys2Proof.Machine.execCoreClockStep chip mhz s
  | .idleSlotClock core slot => Sys2Proof.Machine.execIdleSlotClock core slot s
  | .resendRequest src dst => Sys2Proof.Machine.execResendRequest src dst s

end Sys2Proof.Machine
end

