-- ==== Sys2Proof/Machine/Events.lean ====
section
/-! DEFINITION. What an event of the agenda does: the meaning of the row of the opcode table it names (log 1: DESIGN CHOICE). -/

namespace Sys2Proof.Machine

/-- Runs an event that is due. -/
def runEvent (e : Event) (s : State) : Host.Outcome State Fault Refusal :=
  match e with
  | .sleepEnd wave => Sys2Proof.Machine.execSleepEnd wave s
  | .mwaitWake wave => Sys2Proof.Machine.execMwaitWake wave s
  | .monitorTimeoutExpiry wave => Sys2Proof.Machine.execMonitorTimeoutExpiry wave s
  | .asyncTrapDelivery wave => Sys2Proof.Machine.execAsyncTrapDelivery wave s
  | .handlerWatchdog wave => Sys2Proof.Machine.execHandlerWatchdog wave s
  | .writeBackpressure wave => Sys2Proof.Machine.execWriteBackpressure wave s
  | .pageRequestResponse chip entry resp => Sys2Proof.Machine.execPageRequestResponse chip entry resp s
  | .prheadWrite chip value => Sys2Proof.Machine.execPrheadWrite chip value s
  | .prlenWrite chip value => Sys2Proof.Machine.execPrlenWrite chip value s
  | .klaunchWrite chip value => Sys2Proof.Machine.execKlaunchWrite chip value s
  | .campionPlacement chip => Sys2Proof.Machine.execCampionPlacement chip s
  | .contextSave gang => Sys2Proof.Machine.execContextSave gang s
  | .swapOut gang => Sys2Proof.Machine.execSwapOut gang s
  | .workgroupExit wg => Sys2Proof.Machine.execWorkgroupExit wg s
  | .gangRetire gang => Sys2Proof.Machine.execGangRetire gang s
  | .launchDone chip record => Sys2Proof.Machine.execLaunchDone chip record s
  | .writeLaneGrant stack => Sys2Proof.Machine.execWriteLaneGrant stack s
  | .wcapWindow stack => Sys2Proof.Machine.execWcapWindow stack s
  | .wqEntryPerform core entry => Sys2Proof.Machine.execWqEntryPerform core entry s
  | .loadReturn wave load => Sys2Proof.Machine.execLoadReturn wave load s
  | .hcapLevelSample core monitor level => Sys2Proof.Machine.execHcapLevelSample core monitor level s
  | .windowFillRequest core seg => Sys2Proof.Machine.execWindowFillRequest core seg s
  | .windowFillData core seg line => Sys2Proof.Machine.execWindowFillData core seg line s
  | .windowNotice core seg => Sys2Proof.Machine.execWindowNotice core seg s
  | .windowInv core seg => Sys2Proof.Machine.execWindowInv core seg s
  | .windowRecall core seg => Sys2Proof.Machine.execWindowRecall core seg s
  | .windowGone core seg => Sys2Proof.Machine.execWindowGone core seg s
  | .windowNoticeAck core seg => Sys2Proof.Machine.execWindowNoticeAck core seg s
  | .hostLineFill chip line => Sys2Proof.Machine.execHostLineFill chip line s
  | .snpData chip line => Sys2Proof.Machine.execSnpData chip line s
  | .snpInv chip line => Sys2Proof.Machine.execSnpInv chip line s
  | .snpCur chip line => Sys2Proof.Machine.execSnpCur chip line s
  | .hdmRead chip block own => Sys2Proof.Machine.execHdmRead chip block own s
  | .hdmWrite chip block mask data => Sys2Proof.Machine.execHdmWrite chip block mask data s
  | .birsp chip block => Sys2Proof.Machine.execBirsp chip block s
  | .updatePacket src dst => Sys2Proof.Machine.execUpdatePacket src dst s
  | .grantPacket src dst => Sys2Proof.Machine.execGrantPacket src dst s
  | .wrapPacket src dst => Sys2Proof.Machine.execWrapPacket src dst s
  | .packetApply chip => Sys2Proof.Machine.execPacketApply chip s
  | .reqMessage src dst => Sys2Proof.Machine.execReqMessage src dst s
  | .colGrant chip => Sys2Proof.Machine.execColGrant chip s
  | .ackMessage src dst => Sys2Proof.Machine.execAckMessage src dst s
  | .ackTimer chip => Sys2Proof.Machine.execAckTimer chip s
  | .wrapackMessage src dst => Sys2Proof.Machine.execWrapackMessage src dst s
  | .counterWrap chip => Sys2Proof.Machine.execCounterWrap chip s
  | .linkCrcError src dst => Sys2Proof.Machine.execLinkCrcError src dst s
  | .ackTimeout chip => Sys2Proof.Machine.execAckTimeout chip s
  | .holdTimeout chip => Sys2Proof.Machine.execHoldTimeout chip s
  | .proposeMessage src dst => Sys2Proof.Machine.execProposeMessage src dst s
  | .stateMessage src dst => Sys2Proof.Machine.execStateMessage src dst s
  | .installMessage src dst => Sys2Proof.Machine.execInstallMessage src dst s
  | .viewPhaseTimeout chip => Sys2Proof.Machine.execViewPhaseTimeout chip s
  | .joinMessage src dst => Sys2Proof.Machine.execJoinMessage src dst s
  | .listenMessage src dst => Sys2Proof.Machine.execListenMessage src dst s
  | .donorCopy chip => Sys2Proof.Machine.execDonorCopy chip s
  | .rjoinWrite chip value => Sys2Proof.Machine.execRjoinWrite chip value s
  | .lagmaxWrite chip value => Sys2Proof.Machine.execLagmaxWrite chip value s
  | .holdmaxWrite chip value => Sys2Proof.Machine.execHoldmaxWrite chip value s
  | .acklimWrite chip value => Sys2Proof.Machine.execAcklimWrite chip value s
  | .rsegszWrite chip value => Sys2Proof.Machine.execRsegszWrite chip value s
  | .rootrcbWrite chip value => Sys2Proof.Machine.execRootrcbWrite chip value s
  | .copyTransfer core copy => Sys2Proof.Machine.execCopyTransfer core copy s
  | .kickRecordStart core => Sys2Proof.Machine.execKickRecordStart core s
  | .graphNodeRetire core graph node => Sys2Proof.Machine.execGraphNodeRetire core graph node s
  | .ethFrameRx port frame => Sys2Proof.Machine.execEthFrameRx port frame s
  | .taskDispatch cluster => Sys2Proof.Machine.execTaskDispatch cluster s
  | .tileStep cluster task => Sys2Proof.Machine.execTileStep cluster task s
  | .sendListFlush core chip => Sys2Proof.Machine.execSendListFlush core chip s
  | .tokenArrival chip => Sys2Proof.Machine.execTokenArrival chip s
  | .tokenAcknowledge wave => Sys2Proof.Machine.execTokenAcknowledge wave s
  | .tokenRefusal wave => Sys2Proof.Machine.execTokenRefusal wave s
  | .fencedWrite chip value => Sys2Proof.Machine.execFencedWrite chip value s
  | .hsgoWrite chip value => Sys2Proof.Machine.execHsgoWrite chip value s
  | .areqWrite chip value => Sys2Proof.Machine.execAreqWrite chip value s
  | .attestReportReady chip => Sys2Proof.Machine.execAttestReportReady chip s
  | .keycmdDraw chip value => Sys2Proof.Machine.execKeycmdDraw chip value s
  | .keycmdErase chip value => Sys2Proof.Machine.execKeycmdErase chip value s
  | .keycmdInvalid chip value => Sys2Proof.Machine.execKeycmdInvalid chip value s
  | .fixclkSet chip => Sys2Proof.Machine.execFixclkSet chip s
  | .fixclkClear chip => Sys2Proof.Machine.execFixclkClear chip s
  | .rstctlWarm chip => Sys2Proof.Machine.execRstctlWarm chip s
  | .warmDrainComplete chip => Sys2Proof.Machine.execWarmDrainComplete chip s
  | .warmDrainTimeout chip => Sys2Proof.Machine.execWarmDrainTimeout chip s
  | .rstctlIsolate chip => Sys2Proof.Machine.execRstctlIsolate chip s
  | .chipFaultLasting chip => Sys2Proof.Machine.execChipFaultLasting chip s
  | .coldReset chip => Sys2Proof.Machine.execColdReset chip s
  | .cxlLinkReset chip => Sys2Proof.Machine.execCxlLinkReset chip s
  | .thermal95c chip => Sys2Proof.Machine.execThermal95c chip s
  | .thermal105c chip => Sys2Proof.Machine.execThermal105c chip s
  | .registerWrite chip offset value => Sys2Proof.Machine.execRegisterWrite chip offset value s
  | .replJoin chip => Sys2Proof.Machine.execReplJoin chip s
  | .channelRetirement stack channel => Sys2Proof.Machine.execChannelRetirement stack channel s
  | .coreClockStep chip mhz => Sys2Proof.Machine.execCoreClockStep chip mhz s
  | .idleSlotClock core slot => Sys2Proof.Machine.execIdleSlotClock core slot s
  | .resendRequest src dst => Sys2Proof.Machine.execResendRequest src dst s

end Sys2Proof.Machine
end

