-- ==== Sys2Proof/Machine/Upset.lean ====
section
/-! DEFINITION. Errors of the hardware: what one that the retry clears and one that lasts come to (15 R321, R322; 16 R342 to R344). -/

namespace Sys2Proof.Machine

/-- The tag of a block whose reads fail until it is written: that of no key (12 R271). -/
def badTag : Nat × Nat × Word := (0, 0, 0)

/-- A gang of paired cores, as MODE.PAIR was at its placement (16 R342). -/
def Who.isPaired (k : Who) : Bool := k.g.mode.getLsbD 1

/-- A mismatch that lasts (16 R344): both cores are fenced, the gang is stopped and is to be placed again from ENTRY on another quad. -/
def State.fencePair (s : State) (k : Who) : State :=
  let core := k.wg.core
  let bits : DWord := BitVec.ofNat 64 (2 ^ (core % 64) + 2 ^ ((core + 1) % 64))
  let s := s.modChip k.chip fun c => { c with dbg := { c.dbg with fenced := c.dbg.fenced ||| bits }
                                              fencedPair := Table.put c.fencedPair k.g.entry (core, k.g.quad) }
  ((s.note k.chip 0x344 [core, core + 1, 1]).stopGang k.wg.gang k.g).postOnce (.campionPlacement k.chip)

/-- An error strikes. One that the retry clears is logged and otherwise invisible; a block that fails its re-read too fails at every
access until it is written; a write-back that fails is logged with its block, and no agent is told. A mismatch aborts the open region, of
which nothing has drained, and it is run again (16 R344). -/
def State.strike (s : State) (u : Upset) : State :=
  match u with
  | .read b lasting =>
    let st := stackOf (64 * b)
    if lasting then s.modCluster st fun c => { c with blockTag := Table.put c.blockTag b badTag }
    else s.note (chipOfStack st) 0x321 [64 * b]
  | .replRead chip b lasting =>
    if lasting then s.modRepl chip fun r => { r with blockTag := Table.put r.blockTag b badTag }
    else s.note chip 0x321 [64 * b]
  | .writeBack b => s.note (chipOfStack (stackOf (64 * b))) 0x322 [64 * b]
  | .pair w lasting => match s.whoOf w with
    | none => s
    | some k =>
      if !k.isPaired || !k.g.issues then s
      else
        let s := (s.note k.chip 0x344 [k.wg.core, k.wg.core + 1, 0]).abortRegion w
        if lasting then s.fencePair k else s

/-- Every error that is due strikes. -/
def State.strikeAll (s : State) : State := s.upsets.foldl (fun s u => s.strike u) { s with upsets := [] }

end Sys2Proof.Machine
end

