-- ==== Sys2Proof/Machine/Schedule.lean ====
section
/-! DEFINITION. Which wave an issue slot lets issue, in which order the slots take their opportunities, and what the clocks
of cores and chips count (03 R72, R73; log 1: DESIGN CHOICE, log 5: DESIGN CHOICE). -/

namespace Sys2Proof.Machine

/-- A wave resident in an issue slot that could take an opportunity as far as its own state tells (03 R72): not asleep, halted
beyond its skid, stopped or ended. -/
def State.mayIssue (s : State) (w : Nat) : Bool :=
  match s.whoOf w with
  | none => false
  | some k =>
    (k.x.sleep = 0 || k.x.contextHandler) && k.x.save ≠ .out && (k.g.issues || k.x.contextHandler) &&
    (k.x.handler.isSome || !k.x.halted || decide (0 < k.x.skidLeft)) && k.x.threads.any Thread.live

/-- Inserts a wave by a number, after those of the same number. -/
def insertBy (t w : Nat) : List (Nat × Nat) → List (Nat × Nat)
  | [] => [(t, w)]
  | (u, v) :: r => if t < u then (t, w) :: (u, v) :: r else (u, v) :: insertBy t w r

/-- The order in which a wave was placed on its core (03 R73). -/
def State.rankOf (s : State) (w : Nat) : Nat := ((s.wave? w).map fun x => x.rank).getD 0

/-- The waves of an issue slot that may issue, earliest placed on the core first. -/
def State.slotWaves (s : State) (core slot : Nat) : List Nat :=
  ((s.waves.filter fun e => e.2.slot = slot && s.coreOf e.1 = core && s.mayIssue e.1).foldl
    (fun r e => insertBy e.2.rank e.1 r) []).map fun e => e.2

/-- The waves of a list that run a handler. -/
def State.handlers (s : State) (ws : List Nat) : List Nat :=
  ws.filter fun w => ((s.wave? w).map fun x => x.handler.isSome).getD false

/-- Handler waves in round-robin after the one that issued last, which was placed at `last` (03 R73). -/
def State.rotateAfter (s : State) (last : Nat) (ws : List Nat) : List Nat :=
  ws.filter (fun w => decide (last < s.rankOf w)) ++ ws.filter fun w => !decide (last < s.rankOf w)

/-- The aged waves of a list, earliest aged first. -/
def State.agedOf (s : State) (ws : List Nat) : List Nat :=
  (ws.foldl (fun r w => match (s.wave? w).bind fun x => x.aged with
    | none => r
    | some t => insertBy t w r) []).map fun e => e.2

/-- The order in which the waves of a slot are tried (03 R73): handlers in round-robin, aged waves, the others as they
were placed. -/
def State.tryOrder (s : State) (core slot : Nat) : List Nat :=
  let ws := s.slotWaves core slot
  let hs := s.handlers ws
  let os := ws.filter fun w => !hs.contains w
  let ag := s.agedOf os
  s.rotateAfter (Table.at (s.core core).lastHandler slot 0) hs ++ ag ++ os.filter fun w => !ag.contains w

/-- A wave would have taken this opportunity. -/
def readyNow (run : Instr → State → Host.Outcome State Fault Refusal) (s : State) (w : Nat) : Bool :=
  match s.whoOf w with
  | none => false
  | some k => match attempt run k s with
    | .next t => !t.waited
    | _ => true

/-- A wave was ready and passed over (03 R73); at 37 such opportunities it is aged. -/
def Wave.passOver (x : Wave) (now : Nat) : Wave :=
  { x with passed := x.passed + 1
           aged := if x.aged.isNone && decide (37 ≤ x.passed + 1) then some now else x.aged }

/-- After a wave has issued: a handler's turn is noted; ordinary waves that were ready before count it. -/
def State.noteIssue (s : State) (run : Instr → State → Host.Outcome State Fault Refusal) (before : State)
    (core slot w : Nat) : State :=
  let hs := before.handlers [w]
  if hs ≠ [] then s.modCore core fun c => { c with lastHandler := Table.put c.lastHandler slot (before.rankOf w) }
  else
    let others := (before.slotWaves core slot).filter fun o => o ≠ w && before.handlers [o] = []
    others.foldl (fun s o => if readyNow run before o then s.modWave o fun x => x.passOver (s.core core).clk else s) s

/-- The slot tries its waves in order until one issues (03 R72, R73); where none is ready the slot is idle. -/
def tryWaves (run : Instr → State → Host.Outcome State Fault Refusal) (before : State) (core slot : Nat) :
    List Nat → State → Host.Outcome State Fault Refusal
  | [], s => .next (s.idleSlot core slot)
  | w :: r, s => match s.whoOf w with
    | none => tryWaves run before core slot r s
    | some k => match attempt run k s with
      | .next t =>
        if t.waited then tryWaves run before core slot r { t with waited := false }
        else .next (t.noteIssue run before core slot w)
      | o => o

/-- Cores that hold a workgroup. -/
def State.busyCores (s : State) : List Nat := (s.wgs.map fun e => e.2.core).eraseDups

/-- The least of the numbers of a list that satisfy a condition. -/
def leastOf (p : Nat → Bool) (l : List Nat) : Option Nat :=
  (l.filter p).foldl (fun m c => match m with
    | none => some c
    | some d => some (min c d)) none

/-- The issue slot after one: the core's next, then the next core that holds a workgroup (log 1: DESIGN CHOICE). -/
def State.nextTurn (s : State) : Nat :=
  if s.turn % 4 < 3 then s.turn + 1
  else match leastOf (fun c => decide (s.turn / 4 < c)) s.busyCores with
    | some c => 4 * c
    | none => match leastOf (fun _ => true) s.busyCores with
      | some c => 4 * c
      | none => 0

/-! ### Clocks (log 5: DESIGN CHOICE) -/

/-- The waves of a core, resident or evicted. -/
def State.coreWaves (s : State) (core : Nat) : List Nat :=
  (s.wgs.filter fun e => e.2.core = core).flatMap fun e => e.2.waves

/-- A clock of a thread's `MWAIT`, also while a handler has it set aside; the last one stays until it is dealt with. -/
def WaitIn.clock : WaitIn → WaitIn
  | .mwait d left len => .mwait d (if 1 < left then left - 1 else left) len
  | w => w

/-- A clock of a thread's waits. -/
def Thread.clock (t : Thread) : Thread :=
  { t with wait := t.wait.map WaitIn.clock
           aside := t.aside.map fun a => { a with wait := a.wait.map WaitIn.clock } }

/-- A wave's clocks of sleeping and of a write stall run: its gang issues, it is not halted, no context of it is saved
(08 R182, 22 R488). -/
def Who.ticks (k : Who) : Bool := k.g.issues && !k.x.halted && k.x.save = .none

/-- A clock of a wave (15 R318, 08 R182, 22 R488; the clocks of a view change count no stall, 10 R226). -/
def State.tickWave (s : State) (w : Nat) : State :=
  match s.whoOf w with
  | none => s
  | some k =>
    let x := k.x
    let run := k.ticks
    let stalls := run && decide (0 < x.stall) && (s.repl k.chip).vst = .normal
    let waits := x.threads.any fun t => t.wait.isSome || t.aside.isSome
    let y : Wave := { (if waits then x.mapThreads fun _ t => t.clock else x) with
      sleep := if run && decide (1 < x.sleep) then x.sleep - 1 else x.sleep
      stall := if stalls then x.stall + 1 else x.stall }
    let s := if y = x then s else s.setWave w y
    let s := if run && x.sleep = 1 then s.postOnce (.sleepEnd w) else s
    let s := if y.threads.any fun t => (t.inMwait fun n => n = 1).isSome then s.postOnce (.monitorTimeoutExpiry w) else s
    if !stalls then s
    else
      let s := s.count k.wg.core 132 1
      let limit := s.effField k.chip k.g.rcb 7 0x40 0 32
      if limit ≠ 0 && decide (limit ≤ y.stall) && k.g.mode.getLsbD 5 then s.postOnce (.writeBackpressure w) else s

/-- A clock of the workgroups of a core: how long all their waves have waited (03 R67). -/
def State.tickWgs (s : State) (core : Nat) : State :=
  (s.wgs.filter fun e => e.2.core = core).foldl (fun s e =>
    let n := if s.wgWaits e.2 then e.2.waitClocks + 1 else 0
    let s := if n = e.2.waitClocks then s else s.modWg e.1 fun x => { x with waitClocks := n }
    match s.gang? e.2.gang with
    | none => s
    | some k => if k.st = .resident && n ≠ 0 && s.swapsNow k then s.postOnce (.swapOut e.2.gang) else s) s

/-- The level of a source of a health monitor; what temperature and supply are is open (16 Table 16.8, log 4: DESIGN CHOICE). -/
def State.level (s : State) (core src : Nat) : Nat :=
  match src with
  | 4 => (s.core core).wq.length
  | 5 => (s.repl (chipOfCore core)).backlog
  | _ => s.freshValue.toNat

/-- Level sources whose period has passed are sampled. -/
def State.tickHcap (s : State) (core : Nat) : State :=
  let c := s.core core
  c.hcap.foldl (fun s e =>
    let src := (e.2.cfg.extractLsb' 0 5).toNat
    let p := (e.2.cfg.extractLsb' 16 16).toNat
    let p := if p = 0 then 65536 else p
    if levelSource src && c.clk % p = 0 then
      (s.post (.hcapLevelSample core e.1 (BitVec.ofNat 32 (s.level core src)))).useFree
    else s) s

/-- A clock of a core that holds a workgroup. -/
def State.tickCore (s : State) (core : Nat) : State :=
  if !(s.wgs.any fun e => e.2.core = core) then s
  else
    let s := s.modCore core fun c => { c with clk := c.clk + 1 }
    let s := (s.coreWaves core).foldl (fun s w => s.tickWave w) s
    let c := s.core core
    let s := c.sends.foldl (fun s e =>
      if e.2.any fun t => decide (t.born + 2048 ≤ c.clk) then s.postOnce (.sendListFlush core e.1) else s) s
    (s.tickWgs core).tickHcap core

/-- A clock of a chip that the run has touched (10 R221, R222, R225, R226; 08 R181; 17 R363; 03 R60). -/
def State.tickChip (s : State) (c : Nat) : State :=
  let x := s.chip c
  let r := x.repl
  let now := x.clk + 1
  let changing := r.vst = .propose || r.vst = .exchange
  let s := s.setChip c { x with
    clk := now, drainClock := if x.draining then x.drainClock + 1 else x.drainClock
    repl := { r with ackClock := if r.ackCount ≠ 0 then r.ackClock + 1 else 0
                     phaseClock := if changing then r.phaseClock + 1 else r.phaseClock } }
  let s := if r.ackCount ≠ 0 && decide (256 ≤ r.ackClock + 1) then s.postOnce (.ackTimer c) else s
  let s := if r.retained.any fun p => decide (p.arrived + r.acklim ≤ now) then s.postOnce (.ackTimeout c) else s
  let s := if (r.hold ++ r.newer).any fun p => decide (p.arrived + r.holdmax ≤ now) then s.postOnce (.holdTimeout c) else s
  let s := if changing && decide (r.acklim < r.phaseClock + 1) then s.postOnce (.viewPhaseTimeout c) else s
  let s := if x.draining && decide (r.acklim < x.drainClock + 1) then s.postOnce (.warmDrainTimeout c) else s
  let s := if now % 4096 ≠ 0 then s else ((List.range 4).map fun i => 4 * c + i).foldl (fun s k =>
    if (s.cluster k).wcap = [] then s else s.postOnce (.wcapWindow k)) s
  if x.sys.rootrcb ≠ 0 || x.regions ≠ [] then s.postOnce (.campionPlacement c) else s

/-- A round of the slots is over: the chips count a clock, and the errors that are due strike. -/
def State.tickChips (s : State) : State := ((s.chips.map fun e => e.1).foldl (fun s c => s.tickChip c) s).strikeAll

/-- The turn passes on, and the event phase follows. -/
def State.passTurn (s : State) : State :=
  let n := s.nextTurn
  let s := if n ≤ s.turn then s.tickChips else s
  { s with turn := n, phase := .event, issuer := none, waited := false }

/-- One issue opportunity of the slot whose turn it is. -/
def issuePhase (run : Instr → State → Host.Outcome State Fault Refusal) (s : State) :
    Host.Outcome State Fault Refusal :=
  let core := s.turn / 4
  let slot := s.turn % 4
  let s := if slot = 0 then s.tickCore core else s
  match tryWaves run s core slot (s.tryOrder core slot) s with
  | .next t => .next t.passTurn
  | o => o

end Sys2Proof.Machine
end

