-- ==== Sys2Proof/Machine/Step.lean ====
section
/-! DEFINITION. One step of the module: an event that is due, or one issue opportunity of one issue slot (log 1: DESIGN CHOICE). -/

namespace Sys2Proof.Machine

/-- One step. In the event phase the oldest event of the agenda happens; otherwise the slot whose turn it is takes its
issue opportunity. -/
def step (s : State) : Host.Outcome State Fault Refusal :=
  match s.phase, s.agenda with
  | .event, e :: r => runEvent e { s with agenda := r, phase := .issue }
  | _, _ => issuePhase exec s

/-- A wave ready to issue one instruction, whose bits are `w`, at its issue PC (log 11: DESIGN CHOICE): a privileged gang of one wave
on core 0 of chip 0, at a page translated for its fetch, with the instruction's words at that page. -/
def State.withFetchWord (s : State) (nbits w : Nat) : State := s.placeWords (tableWords nbits w)

end Sys2Proof.Machine
end

