-- ==== Sys2Proof/Safety.lean ====
section
/-! DEFINITION. The terms in which claims are stated: what an instruction needs to run (`Ready`), the registers and bytes
of a state, what stays as it was, a result landed in its destination, and the form every store keeps. -/

namespace Sys2Proof

/-! ### Numbers of a type (07 R131, R132) -/

/-- The number that the low bits of a source hold at an integer type. -/
def Ty.value (ty : Ty) (x : Quad) : Int := if ty.signed then (x.setWidth ty.bits).toInt else (x.setWidth ty.bits).toNat

/-- A number brought into a type's width modulo a power of 2, in its register or pair: a result narrower than 32 bits is
sign- or zero-extended. -/
def Ty.narrow (ty : Ty) (n : Int) : Quad :=
  let r := BitVec.ofInt ty.bits n
  if ty.bits < 32 then (if ty.signed then (r.signExtend 32).setWidth 128 else (r.setWidth 32).setWidth 128)
  else r.setWidth 128

/-- The least and the greatest number of a type. -/
def Ty.least (ty : Ty) : Int := if ty.signed then -(2 ^ (ty.bits - 1)) else 0
def Ty.greatest (ty : Ty) : Int := if ty.signed then 2 ^ (ty.bits - 1) - 1 else 2 ^ ty.bits - 1

end Sys2Proof

namespace Sys2Proof.Machine

/-! ### What a state holds -/

/-- A register file of a thread. -/
inductive RegFile where
  | v | k | h
  deriving DecidableEq, Repr

/-- A 32-bit register of a thread. -/
def Thread.reg (t : Thread) (f : RegFile) (n : Nat) : Word :=
  match f with
  | .v => Table.at t.v n 0
  | .k => Table.at t.k n 0
  | .h => Table.at t.h n 0

/-- The thread of a lane of a wave. -/
def State.lane (s : State) (w l : Nat) : Thread :=
  match s.wave? w with
  | none => Thread.reset
  | some x => x.thread l

/-- A byte of a stack or of host memory, of a chip's replica, of a core's scratchpad. -/
def State.byte (s : State) (a : Nat) : Byte := Memory.read s.mem a
def State.replByte (s : State) (c a : Nat) : Byte := Memory.read (s.repl c).replica a
def State.padByte (s : State) (c a : Nat) : Byte := Memory.read (s.core c).scratch a

/-- A destination names a register of a file: `regsOf` consecutive ones (04 R75). -/
def Opd.names (d : Opd) (w : Width) (f : RegFile) (n : Nat) : Bool :=
  match d, f with
  | .v i, .v => decide (i.toNat ≤ n) && decide (n < i.toNat + regsOf w)
  | .k i, .k => decide (i.toNat ≤ n) && decide (n < i.toNat + regsOf w)
  | .h i, .h => decide (i.toNat ≤ n) && decide (n < i.toNat + regsOf w)
  | _, _ => false

/-- The number of the first register of a destination. -/
def Opd.first (d : Opd) : Nat :=
  match d with
  | .v i => i.toNat
  | .k i => i.toNat
  | .h i => i.toNat
  | _ => 0

/-- Word `n` of a value. -/
def wordOf (x : Quad) (n : Nat) : Word := x.extractLsb' (32 * n) 32

/-! ### What stays as it was -/

/-- Every byte and every accumulator and operand slot is as it was: the frame of an instruction that stores nothing. -/
structure State.SameStore (s t : State) : Prop where
  mem : ∀ a, t.byte a = s.byte a
  repl : ∀ c a, t.replByte c a = s.replByte c a
  scratch : ∀ c a, t.padByte c a = s.padByte c a
  lines : ∀ c, (t.core c).lines = (s.core c).lines
  oslots : ∀ c, (t.cluster c).oslots = (s.cluster c).oslots
  aslots : ∀ c, (t.cluster c).aslots = (s.cluster c).aslots

/-- The registers of a wave that are not its threads' and that no exception writes: `%seqno`, the monitor set and the
token counts. -/
def Wave.special (x : Wave) : Word × List (Nat × DWord) × Word × Word × Word :=
  (x.seqno, x.monitor, x.delivered, x.refused, x.appended)

/-- The registers that an exception writes: `%trapcause`, `%trappc` and the fault record. -/
def Wave.trapRegs (x : Wave) : Word × DWord × FaultRec := (x.trapcause, x.trappc, x.frec)

/-- Every chip's special registers are as they were (15 Table 15.3, 16 Table 16.9, 17 Table 17.3). -/
structure State.SameChips (s t : State) : Prop where
  sys : ∀ c, (t.chip c).sys = (s.chip c).sys
  dbg : ∀ c, (t.chip c).dbg = (s.chip c).dbg
  ring : ∀ c, (t.chip c).ring = (s.chip c).ring
  keys : ∀ c, (t.chip c).keys = (s.chip c).keys

/-- Every wave's special registers are as they were. -/
def State.SameSpecial (s t : State) : Prop := ∀ v, (t.wave? v).map Wave.special = (s.wave? v).map Wave.special

/-- Every wave's exception registers are as they were. -/
def State.SameTraps (s t : State) : Prop := ∀ v, (t.wave? v).map Wave.trapRegs = (s.wave? v).map Wave.trapRegs

/-- A thread's registers, predicates, full bits, `%fpctl` and `%fpflags` are those of another. -/
structure Thread.SameRegs (t u : Thread) : Prop where
  reg : ∀ f n, u.reg f n = t.reg f n
  p : u.p = t.p
  full : u.full = t.full
  fpctl : u.fpctl = t.fpctl
  fpflags : u.fpflags = t.fpflags

/-- Every thread's registers are as they were. -/
def State.SameThreads (s t : State) : Prop := ∀ v l, (s.lane v l).SameRegs (t.lane v l)

/-! ### When an instruction runs -/

/-- The wave `k` issues the instruction and nothing holds it back (02 R28; 05 R117): no decode-stage fault, no parked
lane where the instruction is a convergence point (02 R33), no empty register among its operands (04 R79, R80), no
acquire that it waits for (09 R190), and at least one lane of the group performs it (05 R113). -/
structure Ready (i : Instr) (s : State) (k : Who) : Prop where
  who : s.who = some k
  fresh : k.x.resuming = false
  decoded : decodeFault s k i k.x.group k.x.active = none
  meets : i.form.collective = true → k.x.anyParked = false
  sources : anySrcEmpty k.x i.form.uses k.x.active false = false
  destination : anyDstEmpty k.x i.form.uses k.x.active = false
  acquired : i.form.memory = true → k.x.loads.any (fun e => e.2.acq.isSome) = false
  active : k.x.active ≠ []

/-- A wave in which no live lane is parked (15 R311): no trap waits for a convergence point (02 R33). -/
def Wave.clear (x : Wave) : Bool := x.threads.all fun t => !t.live || (t.lane.isNone && t.st ≠ .parked)

/-- No lane of the wave is parked and no `STEP` is armed for this issue: the group moves on without a trap
(02 R33, 16 R348). -/
def Quiet (s : State) (k : Who) : Prop :=
  k.x.clear = true ∧ stepsNow s k (k.x.issuePc.getD 0) = false

/-- The instruction commits the wave's open region when it issues (02 R40, 16 R334). -/
def Who.commits (k : Who) (i : Instr) : Bool := i.form.commits && (k.g.ordered || !i.form.token)

/-- The state in which an instruction's effect takes place: the region committed where the instruction commits it. -/
def Who.begun (k : Who) (i : Instr) (s : State) : State := if k.commits i then s.commitLanes k.w k.x.group else s

/-- The address after the instruction. -/
def Who.after (k : Who) (i : Instr) : DWord := k.x.issuePc.getD 0 + BitVec.ofNat 64 i.form.length

/-! ### A result landed -/

/-- No trap follows this issue: none waits, and no active lane is parked by it. -/
def Spared (s : State) (k : Who) (out : Nat → LaneOut) : Prop :=
  Quiet s k ∧ ∀ l ∈ k.x.active, ∃ x f, out l = .write x f

/-- The register words that an instruction with outcomes `out` in the active lanes leaves (04 R75, 05 Table 5.3): in an
active lane that writes, the words of the destination hold the result; every other word of every thread is as it was.
A destination of the zero code names no word. -/
def Landed.Words (s t : State) (k : Who) (d : Opd) (w : Width) (out : Nat → LaneOut) : Prop :=
  ∀ v l f n, (t.lane v l).reg f n =
    if v = k.w ∧ l ∈ k.x.active ∧ Opd.names d w f n = true then
      (match out l with
        | .write x _ => wordOf x (n - Opd.first d)
        | .park _ _ _ => (s.lane v l).reg f n)
    else (s.lane v l).reg f n

/-- The predicates: a predicate destination takes bit 0 of the result. -/
def Landed.Preds (s t : State) (k : Who) (d : Opd) (out : Nat → LaneOut) : Prop :=
  ∀ v l j, j < 8 → (t.lane v l).p.getLsbD j =
    match d, out l with
    | .pred i _, .write x _ => if v = k.w ∧ l ∈ k.x.active ∧ j = i.toNat then x.getLsbD 0 else (s.lane v l).p.getLsbD j
    | _, _ => (s.lane v l).p.getLsbD j

/-- The exception flags that an outcome raises. -/
def LaneOut.flags : LaneOut → Word
  | .write _ f => f
  | .park _ _ f => f

/-- The sticky flags: those the instruction raises in a lane are set, the others stay (04 R85). -/
def Landed.Flags (s t : State) (k : Who) (out : Nat → LaneOut) : Prop :=
  ∀ v l, (t.lane v l).fpflags =
    if v = k.w ∧ l ∈ k.x.active then (s.lane v l).fpflags ||| (out l).flags else (s.lane v l).fpflags

/-- All that an instruction with these outcomes changes in the registers, and what it leaves: the destination, the
flags; no `%fpctl`, no full bit, no other register, no byte, no special register, and, where no lane is or gets
parked and no `STEP` is armed, no exception register. -/
structure Landed (s t : State) (k : Who) (d : Opd) (w : Width) (out : Nat → LaneOut) : Prop where
  words : Landed.Words s t k d w out
  preds : Landed.Preds s t k d out
  flags : Landed.Flags s t k out
  fpctl : ∀ v l, (t.lane v l).fpctl = (s.lane v l).fpctl
  full : ∀ v l, (t.lane v l).full = (s.lane v l).full
  store : s.SameStore t
  special : s.SameSpecial t
  chips : s.SameChips t
  traps : Spared s k out → s.SameTraps t

/-- The instruction answers a next state in which these outcomes of the active lanes have landed. -/
def Computes (i : Instr) (s : State) (k : Who) (d : Opd) (w : Width) (out : Nat → LaneOut) : Prop :=
  ∃ t, exec i s = .next t ∧ Landed s t k d w out

/-- A result that is on its way (04 R78): in each active lane that gets one, the destination is empty and an outstanding
result of the wave holds the value's bytes for the lane, which `LOAD_RETURN`, due, delivers; no word has changed yet, but that the
destination of a lane that parks holds an undefined value (07 R143, 15 R311), of which nothing is said. -/
structure Late (s t : State) (k : Who) (d : Opd) (w : Width) (out : Nat → LaneOut) : Prop where
  words : ∀ v l f n, (t.lane v l).reg f n = (s.lane v l).reg f n ∨
    (v = k.w ∧ l ∈ k.x.active ∧ Opd.names d w f n = true ∧ ∃ c a fl, out l = .park c a fl)
  preds : ∀ v l, (t.lane v l).p = (s.lane v l).p
  flags : Landed.Flags s t k out
  fpctl : ∀ v l, (t.lane v l).fpctl = (s.lane v l).fpctl
  full : ∀ v l, (t.lane v l).full = if v = k.w ∧ l ∈ k.x.active ∧ (∃ x f, out l = .write x f)
    then ((s.lane v l).markEmpty d w).full else (s.lane v l).full
  store : s.SameStore t
  special : s.SameSpecial t
  chips : s.SameChips t
  traps : Spared s k out → s.SameTraps t
  due : Spared s k out → ∃ y id ld, t.wave? k.w = some y ∧ Table.look y.loads id = some ld ∧ ld.kind = .value ∧ ld.d = d ∧
    ld.fmt.width = regsOf w ∧ .loadReturn k.w id ∈ t.agenda ∧
    ∀ l x f, l ∈ k.x.active → out l = .write x f → ld.lanes.find? (fun e => e.lane = l) = some (laneValue l w x)

/-- The instruction answers a next state in which these outcomes are on their way; with the zero code as destination nothing is
delivered, and the outcomes have landed (06 Table 6.2). -/
def Delivers (i : Instr) (s : State) (k : Who) (d : Opd) (w : Width) (out : Nat → LaneOut) : Prop :=
  if d = .zero then Computes i s k d w out else ∃ t, exec i s = .next t ∧ Late s t k d w out

/-- Where the group goes after an issue that takes no trap (02 R28, R29): each of its threads to its own target; the new issue PC is the
lowest target of a thread that is not held there. -/
structure Goes (t : State) (k : Who) (target : Nat → DWord) : Prop where
  pc : ∀ l ∈ k.x.group, (t.lane k.w l).pc = target l
  next : ∀ m, (∃ l ∈ k.x.group, target l = m ∧ (t.lane k.w l).meet ≠ m) →
    (∀ l ∈ k.x.group, target l ≠ (t.lane k.w l).meet → m.toNat ≤ (target l).toNat) →
    (t.wave? k.w).bind Wave.issuePc = some m

/-- The outcome of a lane that neither writes nor raises anything. -/
def noOut (_ : Nat) : LaneOut := .write 0 0

/-- The instruction answers a next state in which these outcomes have landed and, if no trap follows, the group has gone to these
targets. -/
def Runs (i : Instr) (s : State) (k : Who) (d : Opd) (w : Width) (out : Nat → LaneOut) (target : Nat → DWord) : Prop :=
  ∃ t, exec i s = .next t ∧ Landed s t k d w out ∧ (Spared s k out → Goes t k target)

/-- The same with a further condition on the next state where no trap follows; nothing lands. -/
def Leaves (i : Instr) (s : State) (k : Who) (p : State → Prop) : Prop :=
  ∃ t, exec i s = .next t ∧ Landed s t k .none .w32 noOut ∧ (Quiet s k → p t)

/-- A source operand of a lane, at a width and type: its bits. -/
def Who.src (k : Who) (s : State) (l : Nat) (lit : Option DWord) (ty : Ty) (o : Opd) : Quad :=
  s.readOpd k.x l lit ty.width ty.imm o

/-- A source operand of a lane as a number of an integer type. -/
def Who.num (k : Who) (s : State) (l : Nat) (lit : Option DWord) (ty : Ty) (o : Opd) : Int :=
  ty.value (k.src s l lit ty o)

/-! ### Results that the spec gives by cases or bit by bit -/

/-- 20 R427, 07 R133: the outcome of a division in a lane whose divisor is `b`: `q`, or, where `b` is 0, all ones at the type's width
with `%fpflags`.IDZ, or, with IDZT = 1, the lane parked with INT_DIVZERO (0x0B). -/
def quotientOut (ty : Ty) (k : Who) (l : Nat) (b q : Int) : LaneOut :=
  if b = 0 then
    if (k.x.thread l).fpctl.getLsbD 3 then .park 0x0B 0 0
    else .write (ty.narrow (if ty.signed then -1 else 2 ^ ty.bits - 1)) flagIDZ
  else .write (ty.narrow q) 0

/-- An instruction whose result in each active lane is a pattern given bit by bit. -/
def ComputesBits (i : Instr) (s : State) (k : Who) (d : Opd) (w : Width) (b : Nat → Nat → Bool) : Prop :=
  ∃ r : Nat → Quad, Computes i s k d w (fun l => .write (r l) 0) ∧ ∀ l j, j < 128 → (r l).getLsbD j = b l j

/-- The comparison that a code of 06 Table 6.5 names, of two numbers. -/
def comparesAs (code : Nat) (a b : Int) : Bool :=
  match code with
  | 0 => decide (a = b)
  | 1 => decide (a ≠ b)
  | 2 => decide (a < b)
  | 3 => decide (a ≤ b)
  | 4 => decide (b < a)
  | _ => decide (b ≤ a)

/-- A truth value as the outcome of a lane. -/
def truthOut (b : Bool) : LaneOut := .write (if b then 1 else 0) 0

/-! ### Floating results (07 R134 to R144; 19 R409, Tables 19.3 and 19.4) -/

/-- ±m·2^e. -/
def dyadic (neg : Bool) (m : Nat) (e : Int) : ℚ := (if neg then -1 else 1) * m * 2 ^ e

/-- The number that a finite value is; 0 for the others. -/
def Num.rat : Num → ℚ
  | .fin n m e => dyadic n m e
  | _ => 0

/-- An infinity. -/
def Num.isInf : Num → Bool
  | .inf _ => true
  | _ => false

/-- The order of the values that are no NaN. -/
def Num.Below (x y : Num) : Prop :=
  match x, y with
  | .inf a, .inf b => a = true ∧ b = false
  | .inf a, .fin _ _ _ => a = true
  | .fin _ _ _, .inf b => b = false
  | .fin _ _ _, .fin _ _ _ => x.rat < y.rat
  | _, _ => False

/-- A format's codes of the canonical NaN and of an infinity, for the formats that have them. -/
def Fmt.nanCode (f : Fmt) : Nat := f.nan.getD 0
def Fmt.infCode (f : Fmt) (neg : Bool) : Nat := f.signBit neg + f.inf.getD 0

/-- 07 R139, R141: the code and flags are those of `Round` at an exact finite result `x`; an exact zero has the sign `zero` and no
flag. `Obligations.Rounding` says what the rounding of ±m·2^e is. -/
def RoundsExact (f : Fmt) (mode : RoundMode) (x : ℚ) (zero : Bool) (r : Nat × Word) : Prop :=
  if x = 0 then r = (f.signBit zero, 0)
  else ∃ m e, dyadic (decide (x < 0)) m e = x ∧ r = f.roundFin mode (decide (x < 0)) m e false

/-- The same of a nonzero result with the magnitudes `low` below it and `high` above it, brought between neighbours of at least 60
bits. -/
def RoundsWithin (f : Fmt) (mode : RoundMode) (neg : Bool) (low high : ℚ → Prop) (r : Nat × Word) : Prop :=
  ∃ m e st, 2 ^ 60 ≤ m ∧ (if st then low (dyadic false m e) ∧ high (dyadic false (m + 1) e)
      else ¬ low (dyadic false m e) ∧ ¬ high (dyadic false m e)) ∧
    r = f.roundFin mode neg m e st

/-- The sum of two values, rounded (07 R140, R141; 19 R409). -/
def SumOf (f : Fmt) (mode : RoundMode) (x y : Num) (r : Nat × Word) : Prop :=
  if x.isNan || y.isNan then r = (f.nanCode, if x.isSig || y.isSig then flagNV else 0)
  else if x.isInf && y.isInf && x.sign != y.sign then r = (f.nanCode, flagNV)
  else if x.isInf then r = (f.infCode x.sign, 0)
  else if y.isInf then r = (f.infCode y.sign, 0)
  else RoundsExact f mode (x.rat + y.rat)
    (if x.isZero && y.isZero && x.sign == y.sign then x.sign else decide (mode = .rd)) r

/-- The product of two values, rounded. -/
def ProductOf (f : Fmt) (mode : RoundMode) (x y : Num) (r : Nat × Word) : Prop :=
  if x.isNan || y.isNan then r = (f.nanCode, if x.isSig || y.isSig then flagNV else 0)
  else if (x.isInf && y.isZero) || (x.isZero && y.isInf) then r = (f.nanCode, flagNV)
  else if x.isInf || y.isInf then r = (f.infCode (x.sign != y.sign), 0)
  else RoundsExact f mode (x.rat * y.rat) (x.sign != y.sign) r

/-- x·y + z, rounded once; 0 · ∞ raises NV whatever z is. -/
def FusedOf (f : Fmt) (mode : RoundMode) (x y z : Num) (r : Nat × Word) : Prop :=
  let bad := (x.isInf && y.isZero) || (x.isZero && y.isInf)
  let neg := x.sign != y.sign
  if x.isNan || y.isNan || z.isNan || bad then
    r = (f.nanCode, if bad || x.isSig || y.isSig || z.isSig then flagNV else 0)
  else if (x.isInf || y.isInf) && z.isInf && neg != z.sign then r = (f.nanCode, flagNV)
  else if x.isInf || y.isInf then r = (f.infCode neg, 0)
  else if z.isInf then r = (f.infCode z.sign, 0)
  else RoundsExact f mode (x.rat * y.rat + z.rat)
    (if (x.isZero || y.isZero) && z.isZero && neg == z.sign then neg else decide (mode = .rd)) r

/-- x / y, rounded: NV for 0/0 and ∞/∞, DZ for a finite nonzero x over a zero. -/
def QuotientOf (f : Fmt) (mode : RoundMode) (x y : Num) (r : Nat × Word) : Prop :=
  let neg := x.sign != y.sign
  if x.isNan || y.isNan then r = (f.nanCode, if x.isSig || y.isSig then flagNV else 0)
  else if (x.isInf && y.isInf) || (x.isZero && y.isZero) then r = (f.nanCode, flagNV)
  else if x.isInf then r = (f.infCode neg, 0)
  else if y.isInf || x.isZero then r = (f.signBit neg, 0)
  else if y.isZero then r = (f.infCode neg, flagDZ)
  else RoundsWithin f mode neg (fun v => v < |x.rat / y.rat|) (fun v => |x.rat / y.rat| < v) r

/-- √x and 1/√x, rounded, with the special operands of Table 19.4. -/
def RootOf (f : Fmt) (mode : RoundMode) (x : Num) (r : Nat × Word) : Prop :=
  if x.isNan then r = (f.nanCode, if x.isSig then flagNV else 0)
  else if x.isZero then r = (f.signBit x.sign, 0)
  else if x.sign then r = (f.nanCode, flagNV)
  else if x.isInf then r = (f.infCode false, 0)
  else RoundsWithin f mode false (fun v => v ^ 2 < x.rat) (fun v => x.rat < v ^ 2) r
def ReciprocalRootOf (f : Fmt) (mode : RoundMode) (x : Num) (r : Nat × Word) : Prop :=
  if x.isNan then r = (f.nanCode, if x.isSig then flagNV else 0)
  else if x.isZero then r = (f.infCode x.sign, flagDZ)
  else if x.sign then r = (f.nanCode, flagNV)
  else if x.isInf then r = (0, 0)
  else RoundsWithin f mode false (fun v => v ^ 2 * x.rat < 1) (fun v => 1 < v ^ 2 * x.rat) r

/-- 2^x and log2 x: the special operands of Table 19.4 and the exact cases. -/
def PowerOf (f : Fmt) (mode : RoundMode) (x : Num) (r : Nat × Word) : Prop :=
  if x.isNan then r = (f.nanCode, if x.isSig then flagNV else 0)
  else if x.isInf then r = (if x.sign then 0 else f.infCode false, 0)
  else ∀ n : Int, x.rat = n → -1000 ≤ n → n ≤ 1000 → r = f.roundFin mode false 1 n false
def LogarithmOf (f : Fmt) (mode : RoundMode) (x : Num) (r : Nat × Word) : Prop :=
  if x.isNan then r = (f.nanCode, if x.isSig then flagNV else 0)
  else if x.isZero then r = (f.infCode true, flagDZ)
  else if x.sign then r = (f.nanCode, flagNV)
  else if x.isInf then r = (f.infCode false, 0)
  else ∀ n : Int, x.rat = 2 ^ n → RoundsExact f mode n false r

/-- sin x and cos x: the special operands of Table 19.4. -/
def WaveOf (f : Fmt) (mode : RoundMode) (co : Bool) (x : Num) (r : Nat × Word) : Prop :=
  if x.isNan then r = (f.nanCode, if x.isSig then flagNV else 0)
  else if x.isInf then r = (f.nanCode, flagNV)
  else x.isZero = true → r = if co then f.roundFin mode false 1 0 false else (f.signBit x.sign, 0)

/-- A number rounded to an integer in a mode (07 R139). -/
def RoundsToInt (mode : RoundMode) (x : ℚ) (v : Int) : Prop :=
  match mode with
  | .rz => |(v : ℚ)| ≤ |x| ∧ |x| < |(v : ℚ)| + 1 ∧ 0 ≤ x * v
  | .rd => (v : ℚ) ≤ x ∧ x < v + 1
  | .ru => x ≤ (v : ℚ) ∧ (v : ℚ) < x + 1
  | .rne => |x - v| ≤ 1 / 2 ∧ (|x - v| = 1 / 2 → Even v)
  | .rna => |x - v| ≤ 1 / 2 ∧ (|x - v| = 1 / 2 → |x| ≤ |(v : ℚ)|)

/-- `FRND`: an infinity, a zero and the sign stay; the value is the rounded integer; only a signalling NaN raises a flag. -/
def IntegralOf (f : Fmt) (mode : RoundMode) (x : Num) (r : Nat × Word) : Prop :=
  if x.isNan then r = (f.nanCode, if x.isSig then flagNV else 0)
  else if x.isInf then r = (f.infCode x.sign, 0)
  else r.2 = 0 ∧ (f.read r.1).isNan = false ∧ (f.read r.1).isInf = false ∧ (f.read r.1).sign = x.sign ∧
    ∃ v, RoundsToInt mode x.rat v ∧ (f.read r.1).rat = v

/-- `FSCL`: x·2^n, rounded once. -/
def ScaledOf (f : Fmt) (mode : RoundMode) (x : Num) (n : Int) (r : Nat × Word) : Prop :=
  if x.isNan then r = (f.nanCode, if x.isSig then flagNV else 0)
  else if x.isInf then r = (f.infCode x.sign, 0)
  else RoundsExact f mode (x.rat * 2 ^ n) x.sign r

/-- 19 R411: the class of a value as the bit set. -/
def classBit (f : Fmt) (x : Num) : Nat :=
  match x with
  | .nan sig => if sig then 0 else 1
  | .inf neg => if neg then 2 else 9
  | .fin neg m e =>
    if m = 0 then (if neg then 5 else 6)
    else if dyadic false m e < 2 ^ (1 - (f.bias : Int)) then (if neg then 4 else 7)
    else if neg then 3 else 8

/-- The comparison that a code of 06 Table 6.5 names: unordered operands satisfy only `.ne` and `.un`. -/
def Compares (code : Nat) (x y : Num) : Prop :=
  if x.isNan || y.isNan then code = 1 ∨ code = 7
  else match code with
    | 0 => ¬ x.Below y ∧ ¬ y.Below x
    | 1 => x.Below y ∨ y.Below x
    | 2 => x.Below y
    | 3 => ¬ y.Below x
    | 4 => y.Below x
    | 5 => ¬ x.Below y
    | 6 => True
    | _ => False

/-- 07 R158: the minimum of two codes, or the maximum; −0 is below +0. -/
def ChoosesOf (f : Fmt) (mx num : Bool) (a b : Nat) (r : Nat × Word) : Prop :=
  let x := f.read a
  let y := f.read b
  let below (x y : Num) : Prop := x.Below y ∨ (¬ y.Below x ∧ x.sign = true ∧ y.sign = false)
  r.2 = (if x.isSig || y.isSig then flagNV else 0) ∧
  (x.isNan = true → y.isNan = true → r.1 = f.nanCode) ∧
  (x.isNan = true → y.isNan = false → r.1 = if num then b else f.nanCode) ∧
  (x.isNan = false → y.isNan = true → r.1 = if num then a else f.nanCode) ∧
  (x.isNan = false → y.isNan = false → (r.1 = a ∨ r.1 = b) ∧
    (below x y → r.1 = if mx then b else a) ∧ (below y x → r.1 = if mx then a else b))

/-- 07 R160: pair x beats pair y for the maximum, or for the minimum. -/
def Beats (f : Fmt) (mx nanWins : Bool) (x y : Quad) : Prop :=
  let w := f.e + f.m + 1
  let a := f.read (x.toNat / 2 ^ 32 % 2 ^ w)
  let b := f.read (y.toNat / 2 ^ 32 % 2 ^ w)
  let lower := x.toNat % 2 ^ 32 < y.toNat % 2 ^ 32
  if a.isNan && b.isNan then lower
  else if a.isNan then nanWins = true
  else if b.isNan then nanWins = false
  else (if mx then b.Below a else a.Below b) ∨ (¬ a.Below b ∧ ¬ b.Below a ∧ lower)

/-- The result of a floating instruction in each active lane, by the lane's rounding mode and sources: the flags raised, and, where an
enabled exception is among them, the lane parked (07 R143). -/
def ComputesFloat (i : Instr) (s : State) (k : Who) (d : Opd) (P : Nat → Nat × Word → Prop) : Prop :=
  ∃ r : Nat → Nat × Word, Computes i s k d .w32 (fun l => fpOut k.g.mode (BitVec.ofNat 128 (r l).1, (r l).2)) ∧
    ∀ l ∈ k.x.active, P l (r l)
def DeliversFloat (i : Instr) (s : State) (k : Who) (d : Opd) (P : Nat → Nat × Word → Prop) : Prop :=
  ∃ r : Nat → Nat × Word, Delivers i s k d .w32 (fun l => fpOut k.g.mode (BitVec.ofNat 128 (r l).1, (r l).2)) ∧
    ∀ l ∈ k.x.active, P l (r l)

/-- A source operand of a lane as a value of a floating type. -/
def Who.float (k : Who) (s : State) (l : Nat) (lit : Option DWord) (ty : Ty) (o : Opd) : Num :=
  (fmtOf ty).read ((k.src s l lit ty o).toNat % 2 ^ ty.bits)

/-- The rounding mode of a lane. -/
def Who.mode (k : Who) (l : Nat) (rm : Rm) : RoundMode := (k.x.thread l).roundMode rm

/-! ### Conversions (07 R136, R137, R144, R147, R148, R159; 19 R397, R401, R424; 21 R463) -/

/-- A value converted to a floating format: what the format lacks follows 07 R144. -/
def ConvertedTo (f : Fmt) (mode : RoundMode) (x : Num) (r : Nat × Word) : Prop :=
  if x.isNan then r = (match f.nan with
    | some n => (n, if x.isSig then flagNV else 0)
    | none => (0, flagNV))
  else if x.isInf then r = (match f.inf, f.nan with
    | some i, _ => (f.signBit x.sign + i, 0)
    | none, some n => (n, flagNV)
    | none, none => (f.signBit x.sign + f.largest, flagNV))
  else RoundsExact f mode x.rat x.sign r

/-- A value converted to an integer type (07 R144): rounded, saturated with NV, NX where inexact, 0 with NV for a NaN. -/
def IntegerOf (ty : Ty) (mode : RoundMode) (x : Num) (v : Int) (fl : Word) : Prop :=
  if x.isNan then v = 0 ∧ fl = flagNV
  else if x.isInf then v = (if x.sign then ty.least else ty.greatest) ∧ fl = flagNV
  else ∃ n, RoundsToInt mode x.rat n ∧
    if n < ty.least then v = ty.least ∧ fl = flagNV
    else if ty.greatest < n then v = ty.greatest ∧ fl = flagNV
    else v = n ∧ fl = if (n : ℚ) = x.rat then 0 else flagNX

/-- Rounding among the numbers that some codes stand for: the nearest in the mode's sense; on a tie the even code, or the larger
magnitude (07 R139, 19 R403). -/
def NearestAmong (value : Nat → Option ℚ) (mode : RoundMode) (x : ℚ) (c : Nat) : Prop :=
  ∃ v, value c = some v ∧ ∀ d u, value d = some u →
    match mode with
    | .rz => |v| ≤ |x| ∧ 0 ≤ v * x ∧ (|u| ≤ |x| → 0 ≤ u * x → |u| ≤ |v|)
    | .rd => v ≤ x ∧ (u ≤ x → u ≤ v)
    | .ru => x ≤ v ∧ (x ≤ u → v ≤ u)
    | .rne => |x - v| ≤ |x - u| ∧ (|x - v| = |x - u| → u ≠ v → c % 2 = 0)
    | .rna => |x - v| ≤ |x - u| ∧ (|x - v| = |x - u| → |u| ≤ |v|)

/-- The numbers of a format's codes. -/
def Fmt.numberOf (f : Fmt) (c : Nat) : Option ℚ :=
  if 2 ^ (f.e + f.m + 1) ≤ c then none
  else match f.read c with
    | .fin n m e => some (dyadic n m e)
    | _ => none

/-- The numbers of the `.q4` codes under a scale byte (07 R137). -/
def q4NumberOf (scale c : Nat) : Option ℚ := if 16 ≤ c then none else some (q4Num scale c).rat

/-- A value rounded into the `.q4` codes (19 R403, 07 R144); OF marks the saturation. -/
def Q4Of (mode : RoundMode) (scale : Nat) (x : Num) (r : Nat × Word) : Prop :=
  if x.isNan then r = (0, flagNV)
  else (x.isZero = true → r = (if scale / 64 % 4 = 0 then 0 else if x.sign then 8 else 0, 0)) ∧
    (x.isInf = true → r.2 = flagNV) ∧
    (x.isInf = false → r.2 &&& flagOF = 0 → NearestAmong (q4NumberOf scale) mode x.rat r.1 ∧
      (r.2 = 0 ↔ q4NumberOf scale r.1 = some x.rat)) ∧
    ((x.isInf = true ∨ r.2 &&& flagOF ≠ 0) → ∃ v, q4NumberOf scale r.1 = some v ∧ ∀ c u, q4NumberOf scale c = some u →
      if x.sign then v ≤ u else u ≤ v)

/-- Elements converted each on its own and packed, the first lowest; their flags combine by OR. -/
def Packed (n w : Nat) (P : Nat → Nat × Word → Prop) (r : Nat × Word) : Prop :=
  ∃ c : Nat → Nat × Word, (∀ i, i < n → P i (c i)) ∧ r.1 < 2 ^ (n * w) ∧
    (∀ i, i < n → r.1 / 2 ^ (w * i) % 2 ^ w = (c i).1) ∧ r.2 = (List.range n).foldl (fun a i => a ||| (c i).2) 0

/-- A larger magnitude in the order of 07 R159: NaN, then infinity, then the larger number. -/
def Num.Outranks (x y : Num) : Prop :=
  match x, y with
  | .nan _, .nan _ => False
  | .nan _, _ => True
  | _, .nan _ => False
  | .inf _, .inf _ => False
  | .inf _, _ => True
  | _, .inf _ => False
  | _, _ => |y.rat| < |x.rat|

/-- The exact sum of products and an addend, rounded once to `.f32` (19 R413). -/
def DotOf (mode : RoundMode) (xs ys : List Num) (z : Num) (r : Nat × Word) : Prop :=
  let products := List.zipWith mulNum xs ys
  let terms := products.map Prod.fst ++ [z]
  let bad := products.any Prod.snd || (terms.contains (.inf true) && terms.contains (.inf false))
  let sig := z.isSig || xs.any Num.isSig || ys.any Num.isSig
  if bad || terms.any Num.isNan then r = (fmtF32.nanCode, if bad || sig then flagNV else 0)
  else if terms.any Num.isInf then r = (fmtF32.infCode (terms.contains (.inf true)), 0)
  else RoundsExact fmtF32 mode (terms.map Num.rat).sum
    (if terms.all (fun t => t.isZero && t.sign) then true
     else if terms.all (fun t => t.isZero && !t.sign) then false else decide (mode = .rd)) r

/-! ### Lane networks (21 R465, 22 R481) -/

/-- The fixed tree of `REDL`: level `n` at position `i`. -/
def treeOf {α : Type} (c : Option α → Option α → Option α) (s : Nat → Option α) : Nat → Nat → Option α
  | 0, i => s i
  | n + 1, i => c (treeOf c s n (2 * i)) (treeOf c s n (2 * i + 1))

/-- The fixed network of `SCANL` after `n` steps. -/
def scanOf {α : Type} (c : Option α → Option α → Option α) (s : Nat → Option α) : Nat → Nat → Option α
  | 0, i => s i
  | n + 1, i => if i < 2 ^ n then scanOf c s n i else c (scanOf c s n (i - 2 ^ n)) (scanOf c s n i)

/-- The lane that `SHFL` reads in lane `l` (22 R487): where it is no active lane, `l` itself. -/
def shuffledLane (mode : Nat) (act : List Nat) (l b : Nat) : Nat :=
  let u : Int := match mode with
    | 0 => (b % 32 : Nat)
    | 1 => (l : Int) - b
    | 2 => (l : Int) + b
    | _ => (l ^^^ (b % 32) : Nat)
  if 0 ≤ u ∧ u ≤ 31 ∧ u.toNat ∈ act then u.toNat else l

/-! ### Accesses to memory -/

/-- A wave is registered for a line where the line's watcher keeps its registrations (21 R446). -/
def State.watched (s : State) (chip w line : Nat) : Bool :=
  (if 2 ^ 50 ≤ line then (s.repl chip).regs
   else if isHostAddr (line * 128) then (s.chip (s.hostCache chip)).hostRegs
   else (s.cluster (stackOf (line * 128))).regs).contains { line, wave := w }

/-- A monitor set after the lanes of `MONA` (21 R446): a line that is not in it is added. -/
def monitorAfter (set : List (Nat × DWord)) (ls : List (Nat × DWord × Span)) : List (Nat × DWord) :=
  ls.foldl (fun m e => match e.2.2 with
    | .parts (p :: _) => if m.any (fun x => x.1 = p.line) then m else m ++ [(p.line, e.2.1)]
    | _ => m) set

/-- The addresses that a load, a store or an atomic of `n` bytes accesses, translated in lane order (20 R435, 22 R492): `s1` is the state
after the translations, which may set A and D bits and fill the TLB (12 R265). Nothing is in flight between the chips: an update of A or
D delivers what is in flight first (log 10). -/
def Translated (f : ExtArgs) (s : State) (k : Who) (a : Access) (strong aligned : Bool) (n : Nat)
    (ls : List (Nat × DWord × Span)) (s1 : State) : Prop :=
  s.inFlight = 0 ∧ spans k.xctx a strong aligned n (k.x.active.map fun l => (l, s.laneEa k f l)) s = (.all ls, s1)

/-- The host lines among some blocks are in the chip's host-line cache already, so that a read of them evicts no other line (11 R249). -/
def State.cached (s : State) (chip : Nat) (blocks : List Nat) : Bool :=
  blocks.all fun b => !isHostAddr (b * 64) || (s.hostSt (s.hostCache chip) b).isSome

/-- A host line needs no eviction at the cache that a chip uses, nor at the line's directory chip (11 R249). -/
def State.takesLine (s : State) (chip line : Nat) : Bool :=
  [s.hostCache chip, s.hostDirChip (line * 64)].all fun c =>
    (s.hostSet c (line % hostSets)).contains line || decide ((s.hostSet c (line % hostSets)).length < hostWays)

/-- The bytes of a lane as its load records them: a lane that reads some at issue reads all of them there (09 R184). -/
def State.laneBytes (s : State) (k : Who) (l1 : Bool) (e : Nat × DWord × List Part) : Option (List ByteSrc) :=
  ((s.core k.wg.core).laneSrc k l1 e.2.2).map fun src => (s.readMixed k.chip { lane := e.1, src, va := e.2.1 }).src

/-- What a load reads at issue: the bytes of its lanes that its own entries or L1 hold in part. -/
def State.nowBytes (s : State) (k : Who) (l1 : Bool) (ls : List (Nat × DWord × List Part)) : List ByteSrc :=
  mixedBytes (ls.map fun e => { lane := e.1, src := ((s.core k.wg.core).laneSrc k l1 e.2.2).getD [], va := e.2.1 })

/-- The bytes that a store puts, in lane order: replicated or not, physical address or offset, value. -/
def storedCells (value : Nat → List Byte) (ls : List (Nat × DWord × List Part)) : List ((Bool × Nat) × Byte) :=
  ls.flatMap fun e => (e.2.2.flatMap fun p => (List.range p.len).map fun i => (p.repl, p.pa + i)).zip (value e.1)

/-- The last value for a cell. -/
def lastValue (cs : List ((Bool × Nat) × Byte)) (a : Bool × Nat) : Option Byte :=
  (cs.reverse.find? fun c => c.1 = a).map Prod.snd

/-- The scratchpad bytes that `STL` puts, in lane order: core and byte number, value. -/
def storedScratch (value : Nat → List Byte) (ls : List ScLane) : List ((Nat × Nat) × Byte) :=
  ls.flatMap fun e => e.bytes.zip (value e.lane)

/-- The instruction answers a next state; what it did to the registers is nothing; `p` holds of the next state, and `q` where no trap
follows. -/
def Acts (i : Instr) (s : State) (k : Who) (p q : State → Prop) : Prop :=
  ∃ t, exec i s = .next t ∧ s.SameThreads t ∧ p t ∧ (Quiet s k → q t)

/-- The outstanding result `id` of a wave, with the lanes and where their bytes come from. -/
def State.due (t : State) (w id : Nat) (p : Load → Prop) : Prop :=
  ∃ y ld, t.wave? w = some y ∧ Table.look y.loads id = some ld ∧ p ld

/-- The strong requests of an instruction's lanes (10 R215, R216): the wave's one strong instruction, its requests numbered from
`n`, each pending at the chip's unit with its operation, offset and operands. -/
structure Requested (t : State) (k : Who) (opc n : Nat) (rs : List (Nat × Quad × Quad)) : Prop where
  strong : (t.wave? k.w).map (fun y => y.strong.map Strong.reqs) =
    some (some ((List.range rs.length).map fun i => (n + i) % 2 ^ 32))
  pending : ∀ e ∈ rs.zipIdx, ∃ q ∈ (t.repl k.chip).pending, q.rank = k.chip ∧ q.rq = (n + e.2) % 2 ^ 32 ∧ q.opc = opc ∧
    q.off = e.1.1 ∧ q.opa = e.1.2.1 ∧ q.opb = e.1.2.2

/-- The instruction waits (03 R72): its wave takes no opportunity, and nothing of its threads moves. -/
def WaitsAt (i : Instr) (s : State) (k : Who) : Prop :=
  ∃ t, exec i s = .next t ∧ t.waited = true ∧ s.SameThreads t ∧ s.SameStore t ∧
    ∀ l, (t.lane k.w l).pc = (s.lane k.w l).pc ∧ (t.lane k.w l).st = (s.lane k.w l).st

/-- An event answers a next state that leaves every register as it is and of which `p` holds. -/
def Happens (i : Instr) (s : State) (p : State → Prop) : Prop := ∃ t, exec i s = .next t ∧ s.SameThreads t ∧ p t

/-! ### Copies, tasks, streams -/

/-- The modulus of a space's addresses (13 R273): offsets have 24 bits. -/
def spaceSize (space : Nat) : Int := if space = 1 then 2 ^ 24 else 2 ^ 64

/-- A copy's transfers move `n` bytes: byte `i` from `src + i` to `dst + i`. -/
def Copy.Moves (c : Copy) (ss ds : Nat) (src dst : Int) (n : Nat) : Prop :=
  ∀ i, i < n → ∃ p ∈ c.pieces, p.sspace = ss ∧ p.dspace = ds ∧ ∃ j, j < p.len ∧
    spaceSize ss ∣ (p.src + j : Int) - (src + i) ∧ spaceSize ds ∣ (p.dst + j : Int) - (dst + i)

/-- A copy has started (13 R274): its core holds it under a number, its first transfer is due, and its wave has taken the command's
sequence number (04 R86). -/
def Started (t : State) (k : Who) (id : Nat) (p : Copy → Prop) : Prop :=
  .copyTransfer k.wg.core id ∈ t.agenda ∧ (t.wave? k.w).map Wave.seqno = some (k.x.seqno + 1) ∧
    ∃ c, Table.look (t.core k.wg.core).copies id = some c ∧ c.wave = k.w ∧ c.seq = k.x.seqno ∧ p c

/-- Every byte of memory, of the replicas and of the scratchpads is as it was. -/
def State.SameBytes (s t : State) : Prop :=
  (∀ a, t.byte a = s.byte a) ∧ (∀ c a, t.replByte c a = s.replByte c a) ∧ ∀ c a, t.padByte c a = s.padByte c a

/-- Scratchpad bytes are those of a list of cells, the last value of a cell, and the others as they were. -/
def State.PadWrites (s t : State) (cells : List ((Nat × Nat) × Byte)) : Prop :=
  ∀ c a, t.padByte c a = ((cells.reverse.find? fun e => e.1 = (c, a)).map Prod.snd).getD (s.padByte c a)

/-- The offset of a position of a tensor (13 R279): the indexes times the strides of one side. -/
def strideSum (strides : List Int) (xs : List Nat) : Int := ((strides.zip xs).map fun e => e.1 * (e.2 : Int)).sum

/-- An instruction that answers with one value in every active lane and of whose next state `p` holds. -/
def Answers (i : Instr) (s : State) (k : Who) (d : Opd) (x : Quad) (p : State → Prop) : Prop :=
  ∃ t, exec i s = .next t ∧ Landed.Words s t k d .w32 (fun _ => .write x 0) ∧ Landed.Preds s t k d (fun _ => .write x 0) ∧
    (∀ v l, (t.lane v l).fpflags = (s.lane v l).fpflags) ∧ (∀ v l, (t.lane v l).full = (s.lane v l).full) ∧ p t

/-- A long-latency instruction that answers one value in every active lane (04 R78), and of whose next state `p` holds. -/
def Polls (i : Instr) (s : State) (k : Who) (d : Opd) (v : Nat) (p : State → Prop) : Prop :=
  let out (_ : Nat) : LaneOut := .write (BitVec.ofNat 128 v) 0
  ∃ t, exec i s = .next t ∧ (if d = .zero then Landed s t k d .w32 out else Late s t k d .w32 out) ∧ p t

/-- The first of the lowest run of `n` numbers below `total` none of which is in a list (14 R293). -/
def LowestRun (total n : Nat) (used : List Nat) (a : Nat) : Prop :=
  a + n ≤ total ∧ (∀ i, i < n → a + i ∉ used) ∧ ∀ b, b < a → ∃ i, i < n ∧ b + i ∈ used

/-! ### A trap taken -/

/-- A window segment and its home can exchange messages (01 R16). -/
def State.near (s : State) (core i : Nat) : Prop := s.reaches (chipOfCore core) (s.seg core i).pa = true

/-- The home of a window segment takes its dirty bytes as they are: no host holds their blocks (17 R356), D is set where the page still
translates (12 R265), and their tags are those of the page's version (12 R272). -/
def State.takesBack (s : State) (core i : Nat) : Prop :=
  s.cellsHeld (s.dirtyCells core i) = [] ∧ (s.dirtyCells core i ≠ [] → s.markBack core i = (true, s)) ∧
  ∀ b ∈ blocksOf (s.dirtyCells core i), s.tagFails (64 * b) (s.seg core i).buf = false

/-- The bytes after a segment's dirty bytes have been written home. -/
def State.withDirty (s : State) (core i a : Nat) : Byte := (Table.look (s.dirtyCells core i) a).getD (s.byte a)

/-- The wave can take a trap now (15 R313, R317): it and its workgroup run no handler, and its region has one. -/
def CanTrap (s : State) (k : Who) : Prop :=
  k.x.handler = none ∧ k.wg.handler = none ∧ k.g.trapv ≠ 0

/-- A wave has entered its handler (15 R310, R312, R314): the exception registers hold the cause, the address at which the
trap was taken and the record; every live thread issues at TRAPV with `%meet` all ones, its restart record there and its
state set aside, resuming at `resume`; every other wave of the workgroup is halted with at most 8 instructions to go. -/
structure Entered (s t : State) (k : Who) (cause : BitVec 8) (rec : FaultRec) (taken : DWord) (resume : Nat → DWord) : Prop where
  cause : (t.wave? k.w).map Wave.trapcause = some (cause.setWidth 32)
  taken : (t.wave? k.w).map Wave.trappc = some taken
  record : (t.wave? k.w).map Wave.frec = some rec
  handler : (t.wave? k.w).map Wave.handler = some (some .trap)
  group : ∀ l, (s.lane k.w l).live = true → (t.lane k.w l).st = .issuing ∧ (t.lane k.w l).pc = k.g.trapv ∧
    (t.lane k.w l).meet = allOnes ∧ (t.lane k.w l).restart.pc = k.g.trapv ∧
    ∃ a, (t.lane k.w l).aside = some a ∧ a.pc = resume l ∧ a.meet = (s.lane k.w l).meet ∧ a.restart.pc = resume l
  halted : ∀ o ∈ k.wg.waves, o ≠ k.w → ∀ x, t.wave? o = some x → x.halted = true ∧ x.skidLeft ≤ 8
  owner : (t.wg? k.x.wg).map Workgroup.handler = some (some k.w)
  regs : s.SameThreads t
  store : s.SameStore t
  special : s.SameSpecial t
  chips : s.SameChips t

/-! ### Invariants -/

/-- Every byte store of the module is in canonical form: addresses rising, no byte 0 listed (log 2: DESIGN CHOICE). -/
def State.canonical (s : State) : Bool :=
  s.mem.wf && (s.cores.all fun c => c.2.scratch.wf) && s.chips.all fun c => c.2.repl.replica.wf

/-- Keys that rise, all below a bound. -/
def Table.numbered {α : Type} (t : Table α) (n : Nat) : Bool :=
  match t with
  | [] => true
  | (k, _) :: r => decide (k < n) && r.all (fun e => decide (k < e.1)) && Table.numbered r n

/-- The write-queue entries and the outstanding results are numbered in the order they were taken, below the number that comes next. -/
def State.numbered (s : State) : Bool :=
  (s.cores.all fun c => Table.numbered c.2.wq s.serial) && s.waves.all fun x => Table.numbered x.2.loads s.serial

/-! ### Steps -/

/-- The row of the opcode table that an event of the agenda stands for. -/
noncomputable def Event.toInstr : Event → Instr
  | .sleepEnd wave => .sleepEnd wave
  | .mwaitWake wave => .mwaitWake wave
  | .monitorTimeoutExpiry wave => .monitorTimeoutExpiry wave
  | .asyncTrapDelivery wave => .asyncTrapDelivery wave
  | .handlerWatchdog wave => .handlerWatchdog wave
  | .writeBackpressure wave => .writeBackpressure wave
  | .pageRequestResponse chip entry resp => .pageRequestResponse chip entry resp
  | .prheadWrite chip value => .prheadWrite chip value
  | .prlenWrite chip value => .prlenWrite chip value
  | .klaunchWrite chip value => .klaunchWrite chip value
  | .campionPlacement chip => .campionPlacement chip
  | .contextSave gang => .contextSave gang
  | .swapOut gang => .swapOut gang
  | .workgroupExit wg => .workgroupExit wg
  | .gangRetire gang => .gangRetire gang
  | .launchDone chip record => .launchDone chip record
  | .writeLaneGrant stack => .writeLaneGrant stack
  | .wcapWindow stack => .wcapWindow stack
  | .wqEntryPerform core entry => .wqEntryPerform core entry
  | .loadReturn wave load => .loadReturn wave load
  | .hcapLevelSample core monitor level => .hcapLevelSample core monitor level
  | .windowFillRequest core seg => .windowFillRequest core seg
  | .windowFillData core seg line => .windowFillData core seg line
  | .windowNotice core seg => .windowNotice core seg
  | .windowInv core seg => .windowInv core seg
  | .windowRecall core seg => .windowRecall core seg
  | .windowGone core seg => .windowGone core seg
  | .windowNoticeAck core seg => .windowNoticeAck core seg
  | .hostLineFill chip line => .hostLineFill chip line
  | .snpData chip line => .snpData chip line
  | .snpInv chip line => .snpInv chip line
  | .snpCur chip line => .snpCur chip line
  | .hdmRead chip block own => .hdmRead chip block own
  | .hdmWrite chip block mask data => .hdmWrite chip block mask data
  | .birsp chip block => .birsp chip block
  | .updatePacket src dst => .updatePacket src dst
  | .grantPacket src dst => .grantPacket src dst
  | .wrapPacket src dst => .wrapPacket src dst
  | .packetApply chip => .packetApply chip
  | .reqMessage src dst => .reqMessage src dst
  | .colGrant chip => .colGrant chip
  | .ackMessage src dst => .ackMessage src dst
  | .ackTimer chip => .ackTimer chip
  | .wrapackMessage src dst => .wrapackMessage src dst
  | .counterWrap chip => .counterWrap chip
  | .linkCrcError src dst => .linkCrcError src dst
  | .ackTimeout chip => .ackTimeout chip
  | .holdTimeout chip => .holdTimeout chip
  | .proposeMessage src dst => .proposeMessage src dst
  | .stateMessage src dst => .stateMessage src dst
  | .installMessage src dst => .installMessage src dst
  | .viewPhaseTimeout chip => .viewPhaseTimeout chip
  | .joinMessage src dst => .joinMessage src dst
  | .listenMessage src dst => .listenMessage src dst
  | .donorCopy chip => .donorCopy chip
  | .rjoinWrite chip value => .rjoinWrite chip value
  | .lagmaxWrite chip value => .lagmaxWrite chip value
  | .holdmaxWrite chip value => .holdmaxWrite chip value
  | .acklimWrite chip value => .acklimWrite chip value
  | .rsegszWrite chip value => .rsegszWrite chip value
  | .rootrcbWrite chip value => .rootrcbWrite chip value
  | .copyTransfer core copy => .copyTransfer core copy
  | .kickRecordStart core => .kickRecordStart core
  | .graphNodeRetire core graph node => .graphNodeRetire core graph node
  | .ethFrameRx port frame => .ethFrameRx port frame
  | .taskDispatch cluster => .taskDispatch cluster
  | .tileStep cluster task => .tileStep cluster task
  | .sendListFlush core chip => .sendListFlush core chip
  | .tokenArrival chip => .tokenArrival chip
  | .tokenAcknowledge wave => .tokenAcknowledge wave
  | .tokenRefusal wave => .tokenRefusal wave
  | .fencedWrite chip value => .fencedWrite chip value
  | .hsgoWrite chip value => .hsgoWrite chip value
  | .areqWrite chip value => .areqWrite chip value
  | .attestReportReady chip => .attestReportReady chip
  | .keycmdDraw chip value => .keycmdDraw chip value
  | .keycmdErase chip value => .keycmdErase chip value
  | .keycmdInvalid chip value => .keycmdInvalid chip value
  | .fixclkSet chip => .fixclkSet chip
  | .fixclkClear chip => .fixclkClear chip
  | .rstctlWarm chip => .rstctlWarm chip
  | .warmDrainComplete chip => .warmDrainComplete chip
  | .warmDrainTimeout chip => .warmDrainTimeout chip
  | .rstctlIsolate chip => .rstctlIsolate chip
  | .chipFaultLasting chip => .chipFaultLasting chip
  | .coldReset chip => .coldReset chip
  | .cxlLinkReset chip => .cxlLinkReset chip
  | .thermal95c chip => .thermal95c chip
  | .thermal105c chip => .thermal105c chip
  | .registerWrite chip offset value => .registerWrite chip offset value
  | .replJoin chip => .replJoin chip
  | .channelRetirement stack channel => .channelRetirement stack channel
  | .coreClockStep chip mhz => .coreClockStep chip mhz
  | .idleSlotClock core slot => .idleSlotClock core slot
  | .resendRequest src dst => .resendRequest src dst

/-- The words that stand at a program counter: each in a homed page that a fetch may read, of a live stack, under its buffer's tag, not
written since the gang was placed (05 R97, R98; 12 R254). -/
def State.Text (s : State) (k : Who) (pc : DWord) (ws : List Word) : Prop :=
  ∀ n w, ws[n]? = some w → ∃ leaf pa, s.translate { k.xctx with hold := false } .fetch false (pc + BitVec.ofNat 64 (4 * n)) = (.ok leaf pa, s) ∧
    leafSeg leaf ≠ 2 ∧ isHostAddr pa = false ∧ s.reaches k.chip pa = true ∧ s.stackLive (stackOf pa) = true ∧ s.tagFails pa (leafBuf leaf) = false ∧
    s.textStale k.g (writtenKey (leafSeg leaf) pa) = false ∧ Memory.readBytes s.mem pa 4 = bytesOfWord w

end Sys2Proof.Machine
end

