-- ==== Sys2Proof/Certificates/Slice0/Obligations.lean ====
section
/-! DEFINITION. The statements for the provers, each from the rules of the spec that its docstring names. -/

section

open Sys2Proof Sys2Proof.Machine

/-! ### Integer arithmetic (07 R132, R133; 20 R426, R427, R438; 18 R375, R386, R389; 19 R395; 21 R452, R458, R459; 22 R484,
R485, R489, R490) -/

/-- 20 Table 20.1, 07 R132, R133: sums, differences, products and multiply-adds of the sources as numbers, modulo 2^w, in every
active lane; the base form is `.i32` and reads its addend from D; nothing else changes. -/
def Obligations.IntegerSums : Prop :=
  (∀ f s k, Ready (.iadd f) s k → Computes (.iadd f) s k f.d .w32 fun l =>
    .write (Ty.narrow .i32 (k.num s l f.lit .i32 f.a + k.num s l f.lit .i32 f.b)) 0) ∧
  (∀ f s k, Ready (.iaddExt f) s k → Computes (.iaddExt f) s k f.d f.ty.width fun l =>
    .write (f.ty.narrow (k.num s l f.lit f.ty f.a + k.num s l f.lit f.ty f.b)) 0) ∧
  (∀ f s k, Ready (.isub f) s k → Computes (.isub f) s k f.d .w32 fun l =>
    .write (Ty.narrow .i32 (k.num s l f.lit .i32 f.a - k.num s l f.lit .i32 f.b)) 0) ∧
  (∀ f s k, Ready (.isubExt f) s k → Computes (.isubExt f) s k f.d f.ty.width fun l =>
    .write (f.ty.narrow (k.num s l f.lit f.ty f.a - k.num s l f.lit f.ty f.b)) 0) ∧
  (∀ f s k, Ready (.imul f) s k → Computes (.imul f) s k f.d .w32 fun l =>
    .write (Ty.narrow .i32 (k.num s l f.lit .i32 f.a * k.num s l f.lit .i32 f.b)) 0) ∧
  (∀ f s k, Ready (.imulExt f) s k → Computes (.imulExt f) s k f.d f.ty.width fun l =>
    .write (f.ty.narrow (k.num s l f.lit f.ty f.a * k.num s l f.lit f.ty f.b)) 0) ∧
  (∀ f s k, Ready (.imad f) s k → Computes (.imad f) s k f.d .w32 fun l =>
    .write (Ty.narrow .i32 (k.num s l f.lit .i32 f.a * k.num s l f.lit .i32 f.b + k.num s l f.lit .i32 f.d)) 0) ∧
  (∀ f s k, Ready (.imadExt f) s k → Computes (.imadExt f) s k f.d f.ty.width fun l =>
    .write (f.ty.narrow (k.num s l f.lit f.ty f.a * k.num s l f.lit f.ty f.b + k.num s l f.lit f.ty f.c)) 0)

/-- 20 Table 20.1: bits [2w−1:w] of the exact product; the smaller and the larger source; the magnitude modulo 2^w, a natural as it
is; the exact sum clamped to the range of the type (07 R133). -/
def Obligations.IntegerOrderAndRange : Prop :=
  (∀ f s k, Ready (.imulh f) s k → Computes (.imulh f) s k f.d .w32 fun l =>
    .write (Ty.narrow .i32 (k.num s l f.lit .i32 f.a * k.num s l f.lit .i32 f.b / 2 ^ 32)) 0) ∧
  (∀ f s k, Ready (.imulhExt f) s k → Computes (.imulhExt f) s k f.d f.ty.width fun l =>
    .write (f.ty.narrow (k.num s l f.lit f.ty f.a * k.num s l f.lit f.ty f.b / 2 ^ f.ty.bits)) 0) ∧
  (∀ f s k, Ready (.imin f) s k → Computes (.imin f) s k f.d .w32 fun l =>
    .write (Ty.narrow .i32 (min (k.num s l f.lit .i32 f.a) (k.num s l f.lit .i32 f.b))) 0) ∧
  (∀ f s k, Ready (.iminExt f) s k → Computes (.iminExt f) s k f.d f.ty.width fun l =>
    .write (f.ty.narrow (min (k.num s l f.lit f.ty f.a) (k.num s l f.lit f.ty f.b))) 0) ∧
  (∀ f s k, Ready (.imax f) s k → Computes (.imax f) s k f.d .w32 fun l =>
    .write (Ty.narrow .i32 (max (k.num s l f.lit .i32 f.a) (k.num s l f.lit .i32 f.b))) 0) ∧
  (∀ f s k, Ready (.imaxExt f) s k → Computes (.imaxExt f) s k f.d f.ty.width fun l =>
    .write (f.ty.narrow (max (k.num s l f.lit f.ty f.a) (k.num s l f.lit f.ty f.b))) 0) ∧
  (∀ f s k, Ready (.iabs f) s k → Computes (.iabs f) s k f.d .w32 fun l =>
    .write (Ty.narrow .i32 (k.num s l f.lit .i32 f.a).natAbs) 0) ∧
  (∀ f s k, Ready (.iabsExt f) s k → Computes (.iabsExt f) s k f.d f.ty.width fun l =>
    .write (f.ty.narrow (k.num s l f.lit f.ty f.a).natAbs) 0) ∧
  (∀ f s k, Ready (.iadds f) s k → Computes (.iadds f) s k f.d .w32 fun l =>
    .write (Ty.narrow .i32 (max (Ty.least .i32) (min (Ty.greatest .i32)
      (k.num s l f.lit .i32 f.a + k.num s l f.lit .i32 f.b)))) 0) ∧
  (∀ f s k, Ready (.iaddsExt f) s k → Computes (.iaddsExt f) s k f.d f.ty.width fun l =>
    .write (f.ty.narrow (max f.ty.least (min f.ty.greatest (k.num s l f.lit f.ty f.a + k.num s l f.lit f.ty f.b)))) 0)

/-- 20 R427, 07 R133, 04 R78: `IDIV` and `IREM` in both forms deliver, late, the quotient truncated toward zero and the remainder
of the sign of the dividend; division by zero as `quotientOut` says. -/
def Obligations.IntegerDivision : Prop :=
  (∀ f s k, Ready (.idiv f) s k → Delivers (.idiv f) s k f.d .w32 fun l =>
    quotientOut .i32 k l (k.num s l f.lit .i32 f.b) ((k.num s l f.lit .i32 f.a).tdiv (k.num s l f.lit .i32 f.b))) ∧
  (∀ f s k, Ready (.idivExt f) s k → Delivers (.idivExt f) s k f.d f.ty.width fun l =>
    quotientOut f.ty k l (k.num s l f.lit f.ty f.b) ((k.num s l f.lit f.ty f.a).tdiv (k.num s l f.lit f.ty f.b))) ∧
  (∀ f s k, Ready (.irem f) s k → Delivers (.irem f) s k f.d .w32 fun l =>
    quotientOut .i32 k l (k.num s l f.lit .i32 f.b) ((k.num s l f.lit .i32 f.a).tmod (k.num s l f.lit .i32 f.b))) ∧
  (∀ f s k, Ready (.iremExt f) s k → Delivers (.iremExt f) s k f.d f.ty.width fun l =>
    quotientOut f.ty k l (k.num s l f.lit f.ty f.b) ((k.num s l f.lit f.ty f.a).tmod (k.num s l f.lit f.ty f.b)))

/-! ### Bits -/

/-- 18 R375, 21 R452, 22 R504, 21 R449, 22 R484, 21 R450: `AND`, `OR`, `XOR`, `NOT`, `MOV`, `SEL` and `MOVI`, bit by bit, at the
width of the type (`.b32` in the base forms). -/
def Obligations.LogicAndMoves : Prop :=
  (∀ f s k, Ready (.and f) s k → ComputesBits (.and f) s k f.d .w32 fun l j => decide (j < 32) &&
    ((k.src s l f.lit .b32 f.a).getLsbD j && (k.src s l f.lit .b32 f.b).getLsbD j)) ∧
  (∀ f s k, Ready (.andExt f) s k → ComputesBits (.andExt f) s k f.d f.ty.width fun l j => decide (j < f.ty.bits) &&
    ((k.src s l f.lit f.ty f.a).getLsbD j && (k.src s l f.lit f.ty f.b).getLsbD j)) ∧
  (∀ f s k, Ready (.or f) s k → ComputesBits (.or f) s k f.d .w32 fun l j => decide (j < 32) &&
    ((k.src s l f.lit .b32 f.a).getLsbD j || (k.src s l f.lit .b32 f.b).getLsbD j)) ∧
  (∀ f s k, Ready (.orExt f) s k → ComputesBits (.orExt f) s k f.d f.ty.width fun l j => decide (j < f.ty.bits) &&
    ((k.src s l f.lit f.ty f.a).getLsbD j || (k.src s l f.lit f.ty f.b).getLsbD j)) ∧
  (∀ f s k, Ready (.xor f) s k → ComputesBits (.xor f) s k f.d .w32 fun l j => decide (j < 32) &&
    ((k.src s l f.lit .b32 f.a).getLsbD j != (k.src s l f.lit .b32 f.b).getLsbD j)) ∧
  (∀ f s k, Ready (.xorExt f) s k → ComputesBits (.xorExt f) s k f.d f.ty.width fun l j => decide (j < f.ty.bits) &&
    ((k.src s l f.lit f.ty f.a).getLsbD j != (k.src s l f.lit f.ty f.b).getLsbD j)) ∧
  (∀ f s k, Ready (.not f) s k → ComputesBits (.not f) s k f.d .w32 fun l j => decide (j < 32) &&
    !(k.src s l f.lit .b32 f.a).getLsbD j) ∧
  (∀ f s k, Ready (.notExt f) s k → ComputesBits (.notExt f) s k f.d f.ty.width fun l j => decide (j < f.ty.bits) &&
    !(k.src s l f.lit f.ty f.a).getLsbD j) ∧
  (∀ f s k, Ready (.mov f) s k → ComputesBits (.mov f) s k f.d .w32 fun l j => decide (j < 32) &&
    (k.src s l f.lit .b32 f.a).getLsbD j) ∧
  (∀ f s k, Ready (.movExt f) s k → ComputesBits (.movExt f) s k f.d f.ty.width fun l j => decide (j < f.ty.bits) &&
    (k.src s l f.lit f.ty f.a).getLsbD j) ∧
  (∀ f s k, Ready (.sel f) s k → Computes (.sel f) s k f.d .w32 fun l =>
    .write (if (k.x.thread l).p.getLsbD f.xb.toNat then k.src s l f.lit .b32 f.a else k.src s l f.lit .b32 f.b) 0) ∧
  (∀ f s k p inv, f.c = .pred p inv → Ready (.selExt f) s k → Computes (.selExt f) s k f.d f.ty.width fun l =>
    .write (if (k.x.thread l).p.getLsbD p.toNat != inv then k.src s l f.lit f.ty f.a else k.src s l f.lit f.ty f.b) 0) ∧
  (∀ f s k x, f.lit = some x → Ready (.movi f) s k → ComputesBits (.movi f) s k f.d .w64 fun _ j => x.getLsbD j)

/-- 22 R485, 21 R452: `SHL`, `SHR`, `SHA` and `ROT`, bit by bit; a shift count of the width or more leaves 0, or copies of the
sign for `SHA`. -/
def Obligations.Shifts : Prop :=
  let count (k : Who) (s : State) (l : Nat) (lit : Option DWord) (b : Opd) : Nat := (k.src s l lit .n32 b).toNat
  (∀ f s k, Ready (.shl f) s k → ComputesBits (.shl f) s k f.d .w32 fun l j =>
    decide (j < 32) && decide (count k s l f.lit f.b ≤ j) &&
      (k.src s l f.lit .b32 f.a).getLsbD (j - count k s l f.lit f.b)) ∧
  (∀ f s k, Ready (.shlExt f) s k → ComputesBits (.shlExt f) s k f.d f.ty.width fun l j =>
    decide (j < f.ty.bits) && decide (count k s l f.lit f.b ≤ j) &&
      (k.src s l f.lit f.ty f.a).getLsbD (j - count k s l f.lit f.b)) ∧
  (∀ f s k, Ready (.shr f) s k → ComputesBits (.shr f) s k f.d .w32 fun l j =>
    decide (j + count k s l f.lit f.b < 32) && (k.src s l f.lit .b32 f.a).getLsbD (j + count k s l f.lit f.b)) ∧
  (∀ f s k, Ready (.shrExt f) s k → ComputesBits (.shrExt f) s k f.d f.ty.width fun l j =>
    decide (j + count k s l f.lit f.b < f.ty.bits) &&
      (k.src s l f.lit f.ty f.a).getLsbD (j + count k s l f.lit f.b)) ∧
  (∀ f s k, Ready (.sha f) s k → ComputesBits (.sha f) s k f.d .w32 fun l j =>
    decide (j < 32) && (k.src s l f.lit .i32 f.a).getLsbD (min (j + count k s l f.lit f.b) 31)) ∧
  (∀ f s k, Ready (.shaExt f) s k → ComputesBits (.shaExt f) s k f.d f.ty.width fun l j =>
    decide (j < f.ty.bits) && (k.src s l f.lit f.ty f.a).getLsbD (min (j + count k s l f.lit f.b) (f.ty.bits - 1))) ∧
  (∀ f s k, Ready (.rot f) s k → ∃ r : Nat → Quad, Computes (.rot f) s k f.d .w32 (fun l => .write (r l) 0) ∧
    ∀ l i, i < 32 → (r l).getLsbD ((i + count k s l f.lit f.b) % 32) = (k.src s l f.lit .b32 f.a).getLsbD i) ∧
  (∀ f s k, Ready (.rotExt f) s k → ∃ r : Nat → Quad,
    Computes (.rotExt f) s k f.d f.ty.width (fun l => .write (r l) 0) ∧ ∀ l i, i < f.ty.bits →
      (r l).getLsbD ((i + count k s l f.lit f.b) % f.ty.bits) = (k.src s l f.lit f.ty f.a).getLsbD i)

/-- 18 R386, R389; 19 R395; 21 R452: `BFX` and `BFI` bit by bit as 18 R386 writes them; `POPC` counts the 1 bits; `CLZ` the zero bits
above the most significant 1; `BREV` reverses. -/
def Obligations.BitFieldsAndCounts : Prop :=
  (∀ f s k, Ready (.bfx f) s k → ComputesBits (.bfx f) s k f.d f.ty.width fun l j =>
    let a := k.src s l f.lit f.ty f.a
    let ctl := k.src s l f.lit .n32 f.b
    let w := f.ty.bits
    let pos := (ctl.extractLsb' 0 8).toNat
    let len := min (ctl.extractLsb' 8 8).toNat w
    let field (i : Nat) : Bool := if pos + i < w then a.getLsbD (pos + i) else f.ty.signed && a.getLsbD (w - 1)
    decide (j < w) && if j < len then field j else f.ty.signed && decide (0 < len) && field (len - 1)) ∧
  (∀ f s k, Ready (.bfi f) s k → ComputesBits (.bfi f) s k f.d f.ty.width fun l j =>
    let ctl := k.src s l f.lit .n32 f.c
    let w := f.ty.bits
    let pos := (ctl.extractLsb' 0 8).toNat
    let len := min (ctl.extractLsb' 8 8).toNat w
    decide (j < w) && if pos ≤ j ∧ j < pos + len then (k.src s l f.lit f.ty f.a).getLsbD (j - pos)
      else (k.src s l f.lit f.ty f.b).getLsbD j) ∧
  (∀ f s k, Ready (.popc f) s k → Computes (.popc f) s k f.d .w32 fun l =>
    .write (BitVec.ofNat 128 ((List.range 32).filter fun j => (k.src s l f.lit .b32 f.a).getLsbD j).length) 0) ∧
  (∀ f s k, Ready (.popcExt f) s k → Computes (.popcExt f) s k f.d .w32 fun l =>
    .write (BitVec.ofNat 128 ((List.range f.ty.bits).filter fun j => (k.src s l f.lit f.ty f.a).getLsbD j).length) 0) ∧
  (∀ f s k, Ready (.clz f) s k → ∃ r : Nat → Nat, Computes (.clz f) s k f.d .w32 (fun l => .write (BitVec.ofNat 128 (r l)) 0) ∧
    ∀ l, r l ≤ 32 ∧ (∀ j, 32 - r l ≤ j → j < 32 → (k.src s l f.lit .b32 f.a).getLsbD j = false) ∧
      (r l < 32 → (k.src s l f.lit .b32 f.a).getLsbD (31 - r l) = true)) ∧
  (∀ f s k, Ready (.clzExt f) s k → ∃ r : Nat → Nat,
    Computes (.clzExt f) s k f.d .w32 (fun l => .write (BitVec.ofNat 128 (r l)) 0) ∧
    ∀ l, r l ≤ f.ty.bits ∧ (∀ j, f.ty.bits - r l ≤ j → j < f.ty.bits → (k.src s l f.lit f.ty f.a).getLsbD j = false) ∧
      (r l < f.ty.bits → (k.src s l f.lit f.ty f.a).getLsbD (f.ty.bits - 1 - r l) = true)) ∧
  (∀ f s k, Ready (.brev f) s k → ComputesBits (.brev f) s k f.d .w32 fun l j =>
    decide (j < 32) && (k.src s l f.lit .b32 f.a).getLsbD (31 - j)) ∧
  (∀ f s k, Ready (.brevExt f) s k → ComputesBits (.brevExt f) s k f.d f.ty.width fun l j =>
    decide (j < f.ty.bits) && (k.src s l f.lit f.ty f.a).getLsbD (f.ty.bits - 1 - j))

/-- 20 R428, R438; 21 R458, R459; 06 Table 6.5, R130: `ICMP` sets its predicate by signed or natural order; `PLOG` combines two predicates;
`PMOV` moves between a predicate and a register, or all eight at once; `LEA` is (A + (x << sh) + off) mod 2^64. -/
def Obligations.PredicatesAndAddresses : Prop :=
  (∀ f s k, Ready (.icmp f) s k → Computes (.icmp f) s k f.d .w32 fun l =>
    truthOut (comparesAs f.xb.toNat (k.num s l f.lit .i32 f.a) (k.num s l f.lit .i32 f.b))) ∧
  (∀ f s k, f.md.toNat < 6 → Ready (.icmpExt f) s k → Computes (.icmpExt f) s k f.d .w32 fun l =>
    truthOut (comparesAs f.md.toNat (k.num s l f.lit f.ty f.a) (k.num s l f.lit f.ty f.b))) ∧
  (∀ f s k p q i j, f.a = .pred p i → f.b = .pred q j → Ready (.plog f) s k → Computes (.plog f) s k f.d .w32 fun l =>
    let x := (k.x.thread l).p.getLsbD p.toNat != i
    let y := (k.x.thread l).p.getLsbD q.toNat != j
    truthOut (if f.xb = 0 then x && y else if f.xb = 1 then x || y else if f.xb = 2 then x != y else x && !y)) ∧
  (∀ f s k, f.xb = 0 → Ready (.pmov f) s k → Computes (.pmov f) s k f.d .w32 fun l =>
    truthOut (decide (k.num s l f.lit .n32 f.a ≠ 0))) ∧
  (∀ f s k p, f.xb = 1 → f.a = .pred p false → Ready (.pmov f) s k → Computes (.pmov f) s k f.d .w32 fun l =>
    truthOut ((k.x.thread l).p.getLsbD p.toNat)) ∧
  (∀ f s k, f.xb = 2 → Ready (.pmov f) s k → Computes (.pmov f) s k f.d .w32 fun l =>
    .write ((k.x.thread l).p.setWidth 128) 0) ∧
  (∀ f s k, f.md = 0 → Ready (.pmovExt f) s k → Computes (.pmovExt f) s k f.d .w32 fun l =>
    truthOut (decide (k.num s l f.lit .n32 f.a ≠ 0))) ∧
  (∀ f s k p, f.md = 1 → f.a = .pred p false → Ready (.pmovExt f) s k → Computes (.pmovExt f) s k f.d .w32 fun l =>
    truthOut ((k.x.thread l).p.getLsbD p.toNat)) ∧
  (∀ f s k, f.md = 2 → Ready (.pmovExt f) s k → Computes (.pmovExt f) s k f.d .w32 fun l =>
    .write ((k.x.thread l).p.setWidth 128) 0) ∧
  (∀ f s k, Ready (.lea f) s k → Computes (.lea f) s k f.d .w64 fun l =>
    let x : Int := if f.ty = .i32 then k.num s l f.lit .i32 f.b else (k.src s l f.lit f.ty f.b).toNat
    .write ((BitVec.ofInt 64 ((k.src s l f.lit .n64 f.a).toNat + x * 2 ^ (f.aux.toNat % 8) + f.x18.toInt)).setWidth 128) 0)

/-! ### Control flow -/

/-- 18 R388, 19 R393, 21 R451, R466, 02 R28, R29: `NOP` only moves the group on; `BR`, `BRP`, `BRX`, `CALL` and `RET` send each thread
to its target; `CALL` writes the address of the following instruction to `k6.d`; nothing else changes. -/
def Obligations.Branches : Prop :=
  (∀ s k, Ready .nop s k → Runs .nop s k .none .w32 noOut fun _ => k.pc + 4) ∧
  (∀ off s k, Ready (.br off) s k → Runs (.br off) s k .none .w32 noOut fun _ => k.pc + off.signExtend 64 * 4) ∧
  (∀ x s k, Ready (.brLit x) s k → Runs (.brLit x) s k .none .w32 noOut fun _ => x) ∧
  (∀ p sense off s k, Ready (.brp p sense off) s k → Runs (.brp p sense off) s k .none .w32 noOut fun l =>
    if (k.x.thread l).p.getLsbD p.toNat = sense then k.pc + 4 else k.pc + off.signExtend 64 * 4) ∧
  (∀ p sense x s k, Ready (.brpLit p sense x) s k → Runs (.brpLit p sense x) s k .none .w32 noOut fun l =>
    if (k.x.thread l).p.getLsbD p.toNat = sense then k.pc + 12 else x) ∧
  (∀ f s k, Ready (.brx f) s k → Runs (.brx f) s k .none .w32 noOut fun l =>
    BitVec.ofNat 64 ((k.src s l f.lit .n64 f.a).toNat / 4 * 4)) ∧
  (∀ f s k, Ready (.ret f) s k → Runs (.ret f) s k .none .w32 noOut fun l =>
    BitVec.ofNat 64 ((k.src s l f.lit .n64 f.a).toNat / 4 * 4)) ∧
  (∀ off s k, Ready (.call off) s k → Runs (.call off) s k (.k 6) .w64 (fun _ => .write ((k.pc + 4).setWidth 128) 0)
    fun _ => k.pc + off.signExtend 64 * 4) ∧
  (∀ x s k, Ready (.callLit x) s k → Runs (.callLit x) s k (.k 6) .w64 (fun _ => .write ((k.pc + 12).setWidth 128) 0)
    fun _ => x)

/-- 02 R35, R38: `JOIN` gives the old meeting address to D and sets the new one, unless KEEP; with RGN the thread's restart record
becomes the following instruction with the new meeting address; the group moves on.
19 R407, 05 R113, 22 R488, R505, 02 R31: `EXIT` makes the active threads Exited; `PBLK` gives them a guard state over the following
CNT + 1 instructions; `SLEEP` takes n clocks, at most 2^24, of the lowest active lane; `YIELD` lets the lowest deferred group
issue, else the yielding threads where none is deferred or held. -/
def Obligations.ThreadGroups : Prop :=
  (let joins (i : Instr) (s : State) (k : Who) (d : Opd) (meet : Option DWord) (rgn : Bool) (len : Nat) : Prop :=
    ∃ t, exec i s = .next t ∧ Landed s t k d .w64 (fun l => .write ((k.x.thread l).meet.setWidth 128) 0) ∧
      (Quiet s k → Goes t k (fun _ => k.pc + BitVec.ofNat 64 len) ∧ ∀ l ∈ k.x.active,
        (t.lane k.w l).meet = meet.getD (k.x.thread l).meet ∧
        (rgn = true → (t.lane k.w l).restart.pc = k.pc + BitVec.ofNat 64 len ∧
          (t.lane k.w l).restart.meet = meet.getD (k.x.thread l).meet))
  (∀ d off s k, Ready (.join d off) s k →
    joins (.join d off) s k d (some (k.pc + off.signExtend 64 * 4)) false 4) ∧
  (∀ d x s k, Ready (.joinLit d x) s k → joins (.joinLit d x) s k d (some x) false 12) ∧
  (∀ d rgn s k, Ready (.joinExt d rgn .keep) s k → joins (.joinExt d rgn .keep) s k d none rgn 12) ∧
  (∀ d rgn off s k, Ready (.joinExt d rgn (.off off)) s k →
    joins (.joinExt d rgn (.off off)) s k d (some (k.pc + off.signExtend 64 * 4)) rgn 12) ∧
  (∀ d rgn x s k, Ready (.joinExt d rgn (.lit x)) s k → joins (.joinExt d rgn (.lit x)) s k d (some x) rgn 20)) ∧
  ((∀ s k, Ready .exit s k → Leaves .exit s k fun t => ∀ l ∈ k.x.active, (t.lane k.w l).st = .exited) ∧
  (∀ inv p cnt pat s k, Ready (.pblk inv p cnt pat) s k → Leaves (.pblk inv p cnt pat) s k fun t =>
    Goes t k (fun _ => k.pc + 4) ∧ ∀ l ∈ k.x.active,
      (t.lane k.w l).guard = { pat, left := cnt.toNat + 1, val := (k.x.thread l).p.getLsbD p.toNat != inv }) ∧
  (∀ f s k, Ready (.sleep f) s k → Leaves (.sleep f) s k fun t =>
    (t.wave? k.w).map Wave.sleep = some (min (k.src s (lane0 k.x.active) f.lit .n32 f.a).toNat (2 ^ 24))) ∧
  (∀ f s k, Ready (.sleepExt f) s k → Leaves (.sleepExt f) s k fun t =>
    (t.wave? k.w).map Wave.sleep = some (min (k.src s (lane0 k.x.active) f.lit .n32 f.a).toNat (2 ^ 24))) ∧
  (∀ s k, Ready .yield s k → Leaves .yield s k fun t =>
    (∀ m, lowestPc k.x.threads (fun u => u.st = .deferred) = some m → (t.wave? k.w).bind Wave.issuePc = some m) ∧
    (k.x.threads.all (fun u => u.st ≠ .deferred && u.st ≠ .held) = true →
      Goes t k (fun _ => k.pc + 4))) ∧
  (∀ w x s, s.wave? w = some x → x.sleep = 1 → x.halted = false →
    ∃ t, exec (.sleepEnd w) s = .next t ∧ t.wave? w = some { x with sleep := 0 } ∧ s.SameStore t ∧ s.SameThreads t))

/-- 22 R497, 18 R390, 15 R309, R310, R312, R314: `TRAP` and `BRK` enter the handler with causes 0x0C and 0x0D, their own PC, their code
as ADDR, LSEQ of the launch, no skid and no destination; each thread of the group resumes at the following instruction, every
other live thread where it was.
15 R312, R315, R316: `RTE` ends the handler: each live thread has its set-aside meeting address, guard state and restart record
again, nothing stays set aside, and the workgroup's halt lifts, unless a lane is parked or a page wait set aside was answered as
unresolvable (15 R320), where a trap follows. -/
def Obligations.TrapsAndReturns : Prop :=
  (let enters (i : Instr) (s : State) (k : Who) (cause : BitVec 8) (code : BitVec 18) : Prop :=
    ∃ t, exec i s = .next t ∧ Entered s t k cause
      { cause, pmask := maskOf k.x.parkedLanes, pc := k.pc, addr := code.setWidth 64, lseq := k.g.seq, skid := 0, dest := 0x180 }
      k.pc fun l => if l ∈ k.x.group then k.pc + 4 else (k.x.thread l).pc
  (∀ code s k, Ready (.trap code) s k → CanTrap s k → k.x.heldSkid = none → enters (.trap code) s k 0x0C code) ∧
  (∀ code s k, Ready (.brk code) s k → CanTrap s k → k.x.heldSkid = none → enters (.brk code) s k 0x0D code)) ∧
  (∀ s k, Ready .rte s k → k.x.handler = some .trap → ∃ t, exec .rte s = .next t ∧
    (k.x.threads.all (fun u => u.lane.isNone) = true → k.x.pageAside.all (fun p => !p.refused) = true →
      (∀ l, (k.x.thread l).live = true → ∀ a, (k.x.thread l).aside = some a → (t.lane k.w l).pc = a.pc ∧
        (t.lane k.w l).meet = a.meet ∧ (t.lane k.w l).guard = a.guard ∧ (t.lane k.w l).restart = a.restart ∧
        (t.lane k.w l).aside = none) ∧
      (t.wave? k.w).map Wave.handler = some none ∧ (t.wg? k.x.wg).map Workgroup.handler = some none ∧
      ∀ o ∈ k.wg.waves, ∀ x, t.wave? o = some x → x.halted = false) ∧
    s.SameThreads t ∧ s.SameStore t ∧ s.SameSpecial t ∧ s.SameChips t)

/-! ### Special registers (22 R490, 04 Tables 4.3 to 4.5, R84, R85) -/

/-- 22 R490, 04 Table 4.3: `SRD` writes a special register to D, a pair for `%meet`, `%clk` and `%trappc`.
22 R490, 04 Tables 4.4, 4.5, 21 R459: `SWR` writes `%meet` (9), `%fpctl` [3:0] (10) or `%fpflags` [5:0] (11) of each active lane and
`PMOV` mode 3 its eight predicates; no register and no byte changes, and nothing else of those. -/
def Obligations.SpecialRegisters : Prop :=
  (let value (s : State) (k : Who) (n l : Nat) : Quad :=
    match n with
    | 0 => BitVec.ofNat 128 l
    | 1 => BitVec.ofNat 128 k.x.idx
    | 2 => BitVec.ofNat 128 k.wg.idx
    | 3 => BitVec.ofNat 128 k.g.idx
    | 4 => BitVec.ofNat 128 (k.wg.core % 16)
    | 5 => BitVec.ofNat 128 (k.wg.core / 4 % 4)
    | 6 => BitVec.ofNat 128 (k.wg.core / 16 % 4)
    | 7 => BitVec.ofNat 128 (k.wg.core / 64)
    | 8 => (maskOf k.x.group).setWidth 128
    | 9 => (k.x.thread l).meet.setWidth 128
    | 10 => (k.x.thread l).fpctl.setWidth 128
    | 11 => (k.x.thread l).fpflags.setWidth 128
    | 12 => BitVec.ofNat 128 ((s.core k.wg.core).clk % 2 ^ 64)
    | 13 => k.x.seqno.setWidth 128
    | 14 => k.x.trapcause.setWidth 128
    | _ => k.x.trappc.setWidth 128
  let width (n : Nat) : Width := if n = 9 ∨ n = 12 ∨ n = 15 then .w64 else .w32
  (∀ f n s k, f.a = .sreg n → Ready (.srd f) s k → Computes (.srd f) s k f.d (width n.toNat) fun l =>
    .write (value s k n.toNat l) 0) ∧
  (∀ f s k, f.x18.toNat < 16 → Ready (.srdExt f) s k → Computes (.srdExt f) s k f.d (width f.x18.toNat) fun l =>
    .write (value s k f.x18.toNat l) 0)) ∧
  (let sets (i : Instr) (s : State) (k : Who) (n : Nat) (x : Nat → Quad) : Prop :=
    ∃ t, exec i s = .next t ∧ s.SameStore t ∧ s.SameSpecial t ∧ s.SameChips t ∧ (Quiet s k → s.SameTraps t) ∧
      (∀ v l, (∀ g m, (t.lane v l).reg g m = (s.lane v l).reg g m) ∧ (t.lane v l).full = (s.lane v l).full ∧
        (t.lane v l).p = (if v = k.w ∧ l ∈ k.x.active ∧ n = 16 then (x l).setWidth 8 else (s.lane v l).p) ∧
        (t.lane v l).fpctl =
          (if v = k.w ∧ l ∈ k.x.active ∧ n = 10 then (x l).setWidth 32 &&& 0xF else (s.lane v l).fpctl) ∧
        (t.lane v l).fpflags =
          (if v = k.w ∧ l ∈ k.x.active ∧ n = 11 then (x l).setWidth 32 &&& 0x3F else (s.lane v l).fpflags)) ∧
      (Quiet s k → ∀ l ∈ k.x.active, (t.lane k.w l).meet = if n = 9 then (x l).setWidth 64 else (s.lane k.w l).meet)
  (∀ f n s k, f.d = .sreg n → 9 ≤ n.toNat → n.toNat ≤ 11 → Ready (.swr f) s k →
    sets (.swr f) s k n.toNat fun l => k.src s l f.lit (if n = 9 then .n64 else .n32) f.a) ∧
  (∀ f s k, 9 ≤ f.x18.toNat → f.x18.toNat ≤ 11 → Ready (.swrExt f) s k →
    sets (.swrExt f) s k f.x18.toNat fun l => k.src s l f.lit (if f.x18.toNat = 9 then .n64 else .n32) f.a) ∧
  (∀ f s k, f.xb = 3 → Ready (.pmov f) s k → sets (.pmov f) s k 16 fun l => k.src s l f.lit .n32 f.a) ∧
  (∀ f s k, f.md = 3 → Ready (.pmovExt f) s k → sets (.pmovExt f) s k 16 fun l => k.src s l f.lit .n32 f.a))

/-! ### Floating point (07 R139 to R143, R158, R160; 19 R409 to R416) -/

/-- 07 R139, Table 7.3, 19 R403: `Round` answers the code of the format nearest to the exact result in the mode's sense, and raises NX just
where the two differ, unless it overflows; with `st` the result lies strictly between ±m·2^e and ±(m+1)·2^e. -/
def Obligations.Rounding : Prop :=
  (∀ f ∈ [fmtF32, fmtF16, fmtBf16, fmtE4m3, fmtE5m2, fmtE3m2, fmtE2m3], ∀ mode neg m e st (x : ℚ),
    (if st then 2 ^ 60 ≤ m ∧ dyadic false m e < |x| ∧ |x| < dyadic false (m + 1) e else |x| = dyadic false m e) →
    x ≠ 0 → decide (x < 0) = neg →
    let r := f.roundFin mode neg m e st
    (r.2 &&& flagOF = 0 → NearestAmong f.numberOf mode x r.1 ∧ (r.2 &&& flagNX = 0 ↔ f.numberOf r.1 = some x)) ∧
    (r.2 &&& flagOF ≠ 0 → (∀ c v, f.numberOf c = some v → |v| ≤ |x|) ∧
      (r.1 = f.signBit neg + f.largest ∨ f.inf.map (f.signBit neg + ·) = some r.1)) ∧
    (f.numberOf r.1 = some 0 → r.1 = f.signBit neg)) ∧
  (∀ mode scale x, Q4Of mode scale x (q4Round mode scale x))

/-- 07 R143: an enabled exception parks the lane with the cause of the highest of those raised in the order NV, DZ, OF, UF, NX; without
one the result is written.
19 R409, Table 19.3: `FADD`, `FSUB`, `FMUL` and `FFMA` in both forms, the base form at `.f32` with RNE and its third source from D. -/
def Obligations.FloatArithmetic : Prop :=
  (∀ (mode : BitVec 19) (x : Quad) (fl : Word),
    let enabled (n : Nat) : Bool := mode.getLsbD (8 + n) && fl.getLsbD n
    ((∀ n, n < 5 → enabled n = false) → fpOut mode (x, fl) = .write x fl) ∧
    (∀ n, n < 5 → enabled n = true → (∀ m, m < n → enabled m = false) →
      fpOut mode (x, fl) = .park (BitVec.ofNat 8 (6 + n)) 0 fl)) ∧
  ((∀ f s k, Ready (.fadd f) s k → ComputesFloat (.fadd f) s k f.d fun l =>
    SumOf fmtF32 .rne (k.float s l f.lit .f32 f.a) (k.float s l f.lit .f32 f.b)) ∧
  (∀ f s k, Ready (.faddExt f) s k → ComputesFloat (.faddExt f) s k f.d fun l =>
    SumOf (fmtOf f.ty) (k.mode l f.rm) (k.float s l f.lit f.ty f.a) (k.float s l f.lit f.ty f.b)) ∧
  (∀ f s k, Ready (.fsub f) s k → ComputesFloat (.fsub f) s k f.d fun l =>
    SumOf fmtF32 .rne (k.float s l f.lit .f32 f.a) (k.float s l f.lit .f32 f.b).neg) ∧
  (∀ f s k, Ready (.fsubExt f) s k → ComputesFloat (.fsubExt f) s k f.d fun l =>
    SumOf (fmtOf f.ty) (k.mode l f.rm) (k.float s l f.lit f.ty f.a) (k.float s l f.lit f.ty f.b).neg) ∧
  (∀ f s k, Ready (.fmul f) s k → ComputesFloat (.fmul f) s k f.d fun l =>
    ProductOf fmtF32 .rne (k.float s l f.lit .f32 f.a) (k.float s l f.lit .f32 f.b)) ∧
  (∀ f s k, Ready (.fmulExt f) s k → ComputesFloat (.fmulExt f) s k f.d fun l =>
    ProductOf (fmtOf f.ty) (k.mode l f.rm) (k.float s l f.lit f.ty f.a) (k.float s l f.lit f.ty f.b)) ∧
  (∀ f s k, Ready (.ffma f) s k → ComputesFloat (.ffma f) s k f.d fun l =>
    FusedOf fmtF32 .rne (k.float s l f.lit .f32 f.a) (k.float s l f.lit .f32 f.b) (k.float s l f.lit .f32 f.d)) ∧
  (∀ f s k, Ready (.ffmaExt f) s k → ComputesFloat (.ffmaExt f) s k f.d fun l =>
    FusedOf (fmtOf f.ty) (k.mode l f.rm) (k.float s l f.lit f.ty f.a) (k.float s l f.lit f.ty f.b)
      (k.float s l f.lit f.ty f.c)))

/-- 19 R409, Table 19.4: `FDIV`, `FRCP`, `FSQRT` and `FRSQ` deliver, late, the rounded quotient, reciprocal and roots. -/
def Obligations.FloatDivisionAndRoots : Prop :=
  (∀ f s k, Ready (.fdiv f) s k → DeliversFloat (.fdiv f) s k f.d fun l =>
    QuotientOf fmtF32 .rne (k.float s l f.lit .f32 f.a) (k.float s l f.lit .f32 f.b)) ∧
  (∀ f s k, Ready (.fdivExt f) s k → DeliversFloat (.fdivExt f) s k f.d fun l =>
    QuotientOf (fmtOf f.ty) (k.mode l f.rm) (k.float s l f.lit f.ty f.a) (k.float s l f.lit f.ty f.b)) ∧
  (∀ f s k, Ready (.frcp f) s k → DeliversFloat (.frcp f) s k f.d fun l =>
    QuotientOf fmtF32 .rne (.fin false 1 0) (k.float s l f.lit .f32 f.a)) ∧
  (∀ f s k, Ready (.frcpExt f) s k → DeliversFloat (.frcpExt f) s k f.d fun l =>
    QuotientOf (fmtOf f.ty) (k.mode l f.rm) (.fin false 1 0) (k.float s l f.lit f.ty f.a)) ∧
  (∀ f s k, Ready (.fsqrt f) s k → DeliversFloat (.fsqrt f) s k f.d fun l =>
    RootOf fmtF32 .rne (k.float s l f.lit .f32 f.a)) ∧
  (∀ f s k, Ready (.fsqrtExt f) s k → DeliversFloat (.fsqrtExt f) s k f.d fun l =>
    RootOf (fmtOf f.ty) (k.mode l f.rm) (k.float s l f.lit f.ty f.a)) ∧
  (∀ f s k, Ready (.frsq f) s k → DeliversFloat (.frsq f) s k f.d fun l =>
    ReciprocalRootOf fmtF32 .rne (k.float s l f.lit .f32 f.a)) ∧
  (∀ f s k, Ready (.frsqExt f) s k → DeliversFloat (.frsqExt f) s k f.d fun l =>
    ReciprocalRootOf (fmtOf f.ty) (k.mode l f.rm) (k.float s l f.lit f.ty f.a))

/-- 19 Table 19.4: `FEXP2`, `FLOG2`, `FSIN` and `FCOS` deliver, late, the special results of the table and the exact ones; what another
operand gives is the model's computation, of which this states only that it lands. -/
def Obligations.FloatFunctions : Prop :=
  (∀ f s k, Ready (.fexp2 f) s k → DeliversFloat (.fexp2 f) s k f.d fun l =>
    PowerOf fmtF32 .rne (k.float s l f.lit .f32 f.a)) ∧
  (∀ f s k, Ready (.fexp2Ext f) s k → DeliversFloat (.fexp2Ext f) s k f.d fun l =>
    PowerOf (fmtOf f.ty) (k.mode l f.rm) (k.float s l f.lit f.ty f.a)) ∧
  (∀ f s k, Ready (.flog2 f) s k → DeliversFloat (.flog2 f) s k f.d fun l =>
    LogarithmOf fmtF32 .rne (k.float s l f.lit .f32 f.a)) ∧
  (∀ f s k, Ready (.flog2Ext f) s k → DeliversFloat (.flog2Ext f) s k f.d fun l =>
    LogarithmOf (fmtOf f.ty) (k.mode l f.rm) (k.float s l f.lit f.ty f.a)) ∧
  (∀ f s k, Ready (.fsin f) s k → DeliversFloat (.fsin f) s k f.d fun l =>
    WaveOf fmtF32 .rne false (k.float s l f.lit .f32 f.a)) ∧
  (∀ f s k, Ready (.fsinExt f) s k → DeliversFloat (.fsinExt f) s k f.d fun l =>
    WaveOf (fmtOf f.ty) (k.mode l f.rm) false (k.float s l f.lit f.ty f.a)) ∧
  (∀ f s k, Ready (.fcos f) s k → DeliversFloat (.fcos f) s k f.d fun l =>
    WaveOf fmtF32 .rne true (k.float s l f.lit .f32 f.a)) ∧
  (∀ f s k, Ready (.fcosExt f) s k → DeliversFloat (.fcosExt f) s k f.d fun l =>
    WaveOf (fmtOf f.ty) (k.mode l f.rm) true (k.float s l f.lit f.ty f.a))

/-- 19 R409, R413: `FRND` rounds to an integral value and raises nothing for it; `FSCL` is a·2^n rounded once; `FDOT2` and `FDOT4`
are the exact sum of the products and c, rounded once to `.f32`. How an inline constant is read as packed elements is the model's
choice (log 22). -/
def Obligations.FloatRoundScaleDot : Prop :=
  let elements (n : Nat) (s : State) (k : Who) (l : Nat) (f : ExtArgs) (o : Opd) : List Machine.Num :=
    (List.range n).map fun i =>
      (fmtOf f.ty).read ((k.src s l f.lit f.ty o).toNat / 2 ^ (f.ty.bits * i) % 2 ^ f.ty.bits)
  (∀ f s k, Ready (.frnd f) s k → ComputesFloat (.frnd f) s k f.d fun l =>
    IntegralOf fmtF32 .rne (k.float s l f.lit .f32 f.a)) ∧
  (∀ f s k, [Ty.f32, .f16, .bf16].contains f.ty = true → Ready (.frndExt f) s k →
    ComputesFloat (.frndExt f) s k f.d fun l =>
      IntegralOf (fmtOf f.ty) (k.mode l f.rm) (k.float s l f.lit f.ty f.a)) ∧
  (∀ f s k, Ready (.fscl f) s k → ComputesFloat (.fscl f) s k f.d fun l =>
    ScaledOf fmtF32 .rne (k.float s l f.lit .f32 f.a) (k.num s l f.lit .i32 f.b)) ∧
  (∀ f s k, [Ty.f32, .f16, .bf16].contains f.ty = true → Ready (.fsclExt f) s k →
    ComputesFloat (.fsclExt f) s k f.d fun l =>
      ScaledOf (fmtOf f.ty) (k.mode l f.rm) (k.float s l f.lit f.ty f.a) (k.num s l f.lit .i32 f.b)) ∧
  (∀ f s k, Ready (.fdot2 f) s k → ComputesFloat (.fdot2 f) s k f.d fun l =>
    DotOf (k.mode l f.rm) (elements 2 s k l f f.a) (elements 2 s k l f f.b) (k.float s l f.lit .f32 f.c)) ∧
  (∀ f s k, Ready (.fdot4 f) s k → ComputesFloat (.fdot4 f) s k f.d fun l =>
    DotOf (k.mode l f.rm) (elements 4 s k l f f.a) (elements 4 s k l f f.b) (k.float s l f.lit .f32 f.c))

/-- 19 R411, R412, R415, R416; 07 R158, R160; 06 Table 6.5: `FCLS` sets one class bit; `FCMP` compares by value; `FMIN` and `FMAX`
choose a source; `FMXI` and `FMNI` copy the winning pair. -/
def Obligations.FloatOrder : Prop :=
  let code (s : State) (k : Who) (l : Nat) (lit : Option DWord) (ty : Ty) (o : Opd) : Nat :=
    (k.src s l lit ty o).toNat % 2 ^ ty.bits
  let compares (i : Instr) (s : State) (k : Who) (d : Opd) (md : Nat) (x y : Nat → Machine.Num) : Prop :=
    ∃ b : Nat → Bool, Computes i s k d .w32 (fun l => fpOut k.g.mode (if b l then 1 else 0,
      if ((x l).isNan || (y l).isNan) && (decide (2 ≤ md ∧ md ≤ 5) || (x l).isSig || (y l).isSig) then flagNV else 0)) ∧
    ∀ l ∈ k.x.active, (b l = true ↔ Compares md (x l) (y l))
  let pairs (i : Instr) (s : State) (k : Who) (f : ExtArgs) (mx : Bool) : Prop :=
    let a (l : Nat) : Quad := k.src s l f.lit .n64 f.a
    let b (l : Nat) : Quad := k.src s l f.lit .n64 f.b
    ∃ c : Nat → Bool, Computes i s k f.d .w64 (fun l => .write (if c l then a l else b l) 0) ∧
      ∀ l ∈ k.x.active, (c l = true ↔ Beats (fmtOf f.ty) mx (decide (f.md = 1)) (a l) (b l))
  (∀ f s k, Ready (.fcls f) s k → Computes (.fcls f) s k f.d .w32 fun l =>
    .write (BitVec.ofNat 128 (2 ^ classBit fmtF32 (k.float s l f.lit .f32 f.a))) 0) ∧
  (∀ f s k, Ready (.fclsExt f) s k → Computes (.fclsExt f) s k f.d .w32 fun l =>
    .write (BitVec.ofNat 128 (2 ^ classBit (fmtOf f.ty) (k.float s l f.lit f.ty f.a))) 0) ∧
  (∀ f s k, Ready (.fcmp f) s k → compares (.fcmp f) s k f.d f.xb.toNat (fun l => k.float s l f.lit .f32 f.a)
    fun l => k.float s l f.lit .f32 f.b) ∧
  (∀ f s k, Ready (.fcmpExt f) s k → compares (.fcmpExt f) s k f.d f.md.toNat (fun l => k.float s l f.lit f.ty f.a)
    fun l => k.float s l f.lit f.ty f.b) ∧
  (∀ f s k, Ready (.fmin f) s k → ComputesFloat (.fmin f) s k f.d fun l =>
    ChoosesOf fmtF32 false (decide (f.xb = 1)) (code s k l f.lit .f32 f.a) (code s k l f.lit .f32 f.b)) ∧
  (∀ f s k, Ready (.fminExt f) s k → ComputesFloat (.fminExt f) s k f.d fun l =>
    ChoosesOf (fmtOf f.ty) false (decide (f.md = 1)) (code s k l f.lit f.ty f.a) (code s k l f.lit f.ty f.b)) ∧
  (∀ f s k, Ready (.fmax f) s k → ComputesFloat (.fmax f) s k f.d fun l =>
    ChoosesOf fmtF32 true (decide (f.xb = 1)) (code s k l f.lit .f32 f.a) (code s k l f.lit .f32 f.b)) ∧
  (∀ f s k, Ready (.fmaxExt f) s k → ComputesFloat (.fmaxExt f) s k f.d fun l =>
    ChoosesOf (fmtOf f.ty) true (decide (f.md = 1)) (code s k l f.lit f.ty f.a) (code s k l f.lit f.ty f.b)) ∧
  (∀ f s k, (f.ty = .f32 ∨ f.ty = .f16) → Ready (.fmxi f) s k → pairs (.fmxi f) s k f true) ∧
  (∀ f s k, (f.ty = .f32 ∨ f.ty = .f16) → Ready (.fmni f) s k → pairs (.fmni f) s k f false)

/-! ### Conversions -/

/-- 19 R401 to R403, 22 R500, 07 R144: `CVT` between integer and floating types; `CVTPK` packs two or four elements, each converted
on its own; `UNPK` gives each element, exact, as `.f32`. How an inline constant is read as packed elements is the model's choice
(log 22). -/
def Obligations.Conversions : Prop :=
  let halves (ty : Ty) : Prop := ty = .f16 ∨ ty = .bf16
  let element (s : State) (k : Who) (l : Nat) (f : ExtArgs) (i : Nat) : Machine.Num :=
    if f.ty = .f16 ∨ f.ty = .bf16 then k.float s l f.lit .f32 (if i = 0 then f.a else f.b)
    else fmtF32.read ((s.readOpd k.x l f.lit .w64 .f32 (if i < 2 then f.a else f.b)).toNat / 2 ^ (32 * (i % 2)) % 2 ^ 32)
  let scale (s : State) (k : Who) (l : Nat) (f : ExtArgs) : Nat := (k.src s l f.lit .n32 f.c).toNat % 256
  (∀ f sty s k, Ty.ofCode (f.aux.extractLsb' 0 5) = some sty → sty.isInt = true → f.ty.isInt = true →
    Ready (.cvt f) s k → Computes (.cvt f) s k f.d f.ty.width fun l =>
      let x := k.num s l f.lit sty f.a
      .write (f.ty.narrow (if f.md = 1 then max f.ty.least (min f.ty.greatest x) else x)) 0) ∧
  (∀ f sty s k, Ty.ofCode (f.aux.extractLsb' 0 5) = some sty → sty.isInt = true → f.ty.isInt = false →
    Ready (.cvt f) s k → f.ty.width = .w32 → ComputesFloat (.cvt f) s k f.d fun l r =>
      RoundsExact (fmtOf f.ty) (k.mode l f.rm) (k.num s l f.lit sty f.a) false r) ∧
  (∀ f sty s k, Ty.ofCode (f.aux.extractLsb' 0 5) = some sty → sty.isInt = false → f.ty.isInt = true →
    Ready (.cvt f) s k → ∃ (v : Nat → Int) (fl : Nat → Word),
      Computes (.cvt f) s k f.d f.ty.width (fun l => fpOut k.g.mode (f.ty.narrow (v l), fl l)) ∧
      ∀ l ∈ k.x.active, IntegerOf f.ty (k.mode l f.rm) (k.float s l f.lit sty f.a) (v l) (fl l)) ∧
  (∀ f sty s k, Ty.ofCode (f.aux.extractLsb' 0 5) = some sty → sty.isInt = false → f.ty.isInt = false →
    Ready (.cvt f) s k → f.ty.width = .w32 → ComputesFloat (.cvt f) s k f.d fun l r =>
      ∃ fl, ConvertedTo (fmtOf f.ty) (k.mode l f.rm) (k.float s l f.lit sty f.a) (r.1, fl) ∧
        r.2 = fl ||| if (k.float s l f.lit sty f.a).isSig then flagNV else 0) ∧
  (∀ f s k, f.ty ≠ .q4 → [Ty.f16, .bf16, .e4m3, .e5m2, .e3m2, .e2m3].contains f.ty = true → Ready (.cvtpk f) s k →
    ComputesFloat (.cvtpk f) s k f.d fun l =>
      Packed (if f.ty = .f16 ∨ f.ty = .bf16 then 2 else 4) f.ty.bits fun i r =>
        ConvertedTo (fmtOf f.ty) (k.mode l f.rm) (element s k l f i) r) ∧
  (∀ f s k, f.ty = .q4 → Ready (.cvtpk f) s k → ComputesFloat (.cvtpk f) s k f.d fun l =>
    Packed 4 4 fun i r => ∃ fl, Q4Of (k.mode l f.rm) (scale s k l f) (element s k l f i) (r.1, fl) ∧
      r.2 = fl ||| if (element s k l f i).isSig then flagNV else 0) ∧
  (∀ f s k, [Ty.f16, .bf16, .e4m3, .e5m2, .e3m2, .e2m3, .q4].contains f.ty = true → Ready (.unpk f) s k →
    ∃ (x : Nat → Quad) (fl : Nat → Word),
      Computes (.unpk f) s k f.d (if f.ty = .f16 ∨ f.ty = .bf16 then .w64 else .w128)
        (fun l => fpOut k.g.mode (x l, fl l)) ∧
      ∀ l ∈ k.x.active, ∀ i, (if halves f.ty then i < 2 else i < 4) →
        let c := (k.src s l f.lit f.ty f.a).toNat / 2 ^ (f.ty.bits * i) % 2 ^ f.ty.bits
        let v := if f.ty = .q4 then q4Num (scale s k l f) c else (fmtOf f.ty).read c
        ∃ g, ConvertedTo fmtF32 .rne v ((wordOf (x l) i).toNat, g) ∧ (v.isSig = true → fl l = flagNV))

/-- 21 R463, 19 R424, R397; 07 R147, R148, R159: `QSCL` encodes a quotient by a block's scale and decodes a product with it; `HDMK`
joins two heads or makes one with the least scale that holds the magnitude; `CMPRS` keeps the two elements of largest magnitude. How
an inline constant is read as packed elements is the model's choice (log 22). -/
def Obligations.BlockFormats : Prop :=
  let head (s : State) (k : Who) (l : Nat) (f : ExtArgs) : Nat := (k.src s l f.lit .n32 f.b).toNat
  let scale (s : State) (k : Who) (l : Nat) (f : ExtArgs) : Nat := head s k l f / 256 % 256
  let magnitude (x : Machine.Num) : Machine.Num := match x with
    | .inf _ => .inf false
    | .fin _ m e => .fin false m e
    | x => x
  (∀ f s k, Ready (.qscl f) s k → ComputesFloat (.qscl f) s k f.d fun l r =>
    let x := k.float s l f.lit .f32 f.a
    let a := (k.src s l f.lit .n32 f.a).toNat
    match headFmt (head s k l f % 256) with
    | none => r = (0, flagNV)
    | some .q4 =>
      if f.md = 0 then ∃ fl, Q4Of (k.mode l f.rm) (scale s k l f) x (r.1, fl) ∧ r.2 = fl ||| if x.isSig then flagNV else 0
      else ConvertedTo fmtF32 (k.mode l f.rm) (q4Num (scale s k l f) a) r
    | some .int8 =>
      if f.md = 0 then
        if scale s k l f = 255 then r = (0, flagNV)
        else ∃ v, IntegerOf .i8 (k.mode l f.rm) (x.scale (127 - (scale s k l f : Int))) v r.2 ∧ r.1 = (BitVec.ofInt 8 v).toNat
      else if scale s k l f = 255 then r = (fmtF32.nanCode, 0)
      else ConvertedTo fmtF32 (k.mode l f.rm)
        ((Machine.Num.ofInt (Ty.value .i8 (BitVec.ofNat 128 a))).scale ((scale s k l f : Int) - 127)) r
    | some (.float g w) =>
      if f.md = 0 then
        if w = 8 ∧ scale s k l f = 255 then r = (0, flagNV)
        else ∃ fl, ConvertedTo g (k.mode l f.rm) (x.scale (127 - (scale s k l f : Int))) (r.1, fl) ∧
          r.2 = fl ||| if x.isSig then flagNV else 0
      else if w = 8 ∧ scale s k l f = 255 then r = (fmtF32.nanCode, 0)
      else ConvertedTo fmtF32 (k.mode l f.rm) ((g.read (a % 2 ^ w)).scale ((scale s k l f : Int) - 127)) r) ∧
  (∀ f s k, f.md = 1 → Ready (.hdmk f) s k → ComputesBits (.hdmk f) s k f.d .w32 fun l j =>
    decide (j < 32) && if j < 16 then (k.src s l f.lit .n32 f.a).getLsbD j else (k.src s l f.lit .n32 f.b).getLsbD (j - 16)) ∧
  (∀ f s k, f.md = 0 → [Ty.i8, .e4m3, .e5m2, .q4, .f16, .bf16, .f32].contains f.ty = true → Ready (.hdmk f) s k →
    ∃ e : Nat → Nat, Computes (.hdmk f) s k f.d .w32 (fun l => .write (BitVec.ofNat 128 (headByte f.ty + 256 * e l)) 0) ∧
    ∀ l ∈ k.x.active,
      let m := magnitude (k.float s l f.lit .f32 f.a)
      let least (levels bias none : Nat) (largest : Nat) (n : Nat) : Prop :=
        n ≤ levels ∧ (if m.isNan then n = none else if m.isZero then n = bias
          else (∀ i, i < n → (Machine.Num.fin false largest ((i : Int) - bias)).Below m) ∧
            (n = levels ∨ ¬ (Machine.Num.fin false largest ((n : Int) - bias)).Below m))
      match f.ty with
      | .q4 =>
        let q := head s k l f % 4
        e l / 64 = q ∧ least 63 32 32 (if q = 0 then 7 else if q = 1 then 6 else if q = 2 then 8 else 12) (e l % 64)
      | .i8 => least 254 127 255 127 (e l) ∨ (m.isNan = true ∧ e l = 255)
      | .e4m3 => least 254 127 255 448 (e l) ∨ (m.isNan = true ∧ e l = 255)
      | .e5m2 => least 254 127 255 57344 (e l) ∨ (m.isNan = true ∧ e l = 255)
      | _ => e l = 127) ∧
  (∀ f s k, [Ty.f32, .f16, .bf16, .e4m3, .e5m2, .q4].contains f.ty = true → Ready (.cmprs f) s k →
    ∃ p q : Nat → Nat,
      let wide (l : Nat) : Nat :=
        (s.readOpd k.x l f.lit (if f.ty.bits = 32 then .w128 else if f.ty.bits = 16 then .w64 else .w32) f.ty.imm f.a).toNat
      let code (l i : Nat) : Nat := wide l / 2 ^ (f.ty.bits * i) % 2 ^ f.ty.bits
      let value (l i : Nat) : Machine.Num := if f.ty = .q4 then q4Num (head s k l f % 256) (code l i) else (fmtOf f.ty).read (code l i)
      Computes (.cmprs f) s k f.d (if f.ty = .f32 ∧ f.md = 0 then .w64 else .w32) (fun l =>
        .write (BitVec.ofNat 128 (if f.md = 1 then p l + 4 * q l else code l (p l) + 2 ^ f.ty.bits * code l (q l))) 0) ∧
      ∀ l ∈ k.x.active, p l < q l ∧ q l < 4 ∧ ∀ i, i < 4 → i ≠ p l → i ≠ q l → ∀ c, (c = p l ∨ c = q l) →
        (value l c).Outranks (value l i) ∨ (¬ (value l i).Outranks (value l c) ∧ c < i))

/-! ### Lanes (22 R481, R487, R501; 21 R443, R465; 19 R406) -/

/-- 22 R487, R501, 21 R443, 19 R406: `SHFL`, `VOTE`, `MATCH` and `ELECT` over the active lanes of the group. -/
def Obligations.LaneExchange : Prop :=
  let votes (i : Instr) (s : State) (k : Who) (d a : Opd) (mode : Nat) : Prop :=
    ∀ p inv, a = .pred p inv → ComputesBits i s k d .w32 fun _ j =>
      let x (l : Nat) : Bool := (k.x.thread l).p.getLsbD p.toNat != inv
      match mode with
      | 0 => decide (j = 0) && k.x.active.any x
      | 1 => decide (j = 0) && k.x.active.all x
      | 2 => k.x.active.contains j && x j
      | _ => decide (j = 0) && (k.x.active.all x || k.x.active.all fun l => !x l)
  (∀ f s k, Ready (.shfl f) s k → Computes (.shfl f) s k f.d .w32 fun l =>
    .write (k.src s (shuffledLane f.xb.toNat k.x.active l (k.src s l f.lit .n32 f.b).toNat) f.lit .b32 f.a) 0) ∧
  (∀ f s k, Ready (.shflExt f) s k → Computes (.shflExt f) s k f.d f.ty.width fun l =>
    .write (k.src s (shuffledLane f.md.toNat k.x.active l (k.src s l f.lit .n32 f.b).toNat) f.lit f.ty f.a) 0) ∧
  (∀ f s k, Ready (.vote f) s k → votes (.vote f) s k f.d f.a f.xb.toNat) ∧
  (∀ f s k, Ready (.voteExt f) s k → votes (.voteExt f) s k f.d f.a f.md.toNat) ∧
  (∀ f s k, Ready (.matchLanes f) s k → ComputesBits (.matchLanes f) s k f.d .w32 fun l j =>
    let v (m : Nat) : Quad := k.src s m f.lit f.ty f.a
    k.x.active.contains j && if f.md = 0 then decide (v j = v l) else k.x.active.all fun m => k.x.active.all fun n => v m = v n) ∧
  (∀ f s k, Ready (.elect f) s k → Computes (.elect f) s k f.d .w32 fun l =>
    .write (if k.x.active.all (l ≤ ·) then 1 else 0) 0) ∧
  (∀ f s k, Ready (.electExt f) s k → Computes (.electExt f) s k f.d .w32 fun l =>
    .write (if k.x.active.all (l ≤ ·) then 1 else 0) 0)

/-- 21 R465, 22 R481, 06 Table 6.6: `REDL` and `SCANL` combine the values of the active lanes, and of those up to each lane, by the
fixed tree and network; for the integer operations the order does not matter. -/
def Obligations.LaneReductions : Prop :=
  let start (f : ExtArgs) (s : State) (k : Who) (l : Nat) : Option (Quad × Word) :=
    if l ∈ k.x.active then
      some (if f.md = 7 then k.src s l f.lit .n64 f.a
        else BitVec.ofNat 128 ((k.src s l f.lit f.ty f.a).toNat % 2 ^ f.ty.bits), 0)
    else none
  let mode (f : ExtArgs) (k : Who) : RoundMode := k.mode (lane0 k.x.active) f.rm
  let int (ty : Ty) : Bool := [Ty.i32, .n32, .i64, .n64].contains ty
  let word (ty : Ty) : Bool := int ty || [Ty.b32, .b64].contains ty
  (∀ f s k, f.md = 0 → int f.ty = true → Ready (.redl f) s k → Computes (.redl f) s k f.d f.ty.width fun _ =>
    .write (f.ty.narrow (k.x.active.map fun l => k.num s l f.lit f.ty f.a).sum) 0) ∧
  (∀ f s k, (f.md = 1 ∨ f.md = 2) → int f.ty = true → Ready (.redl f) s k → ∃ m ∈ k.x.active,
    Computes (.redl f) s k f.d f.ty.width (fun _ => .write (f.ty.narrow (k.num s m f.lit f.ty f.a)) 0) ∧
    ∀ l ∈ k.x.active, if f.md = 1 then k.num s m f.lit f.ty f.a ≤ k.num s l f.lit f.ty f.a
      else k.num s l f.lit f.ty f.a ≤ k.num s m f.lit f.ty f.a) ∧
  (∀ f s k, (f.md = 3 ∨ f.md = 4 ∨ f.md = 5) → word f.ty = true → Ready (.redl f) s k →
    ComputesBits (.redl f) s k f.d f.ty.width fun _ j =>
      let b (l : Nat) : Bool := (k.src s l f.lit f.ty f.a).getLsbD j
      decide (j < f.ty.bits) && if f.md = 3 then k.x.active.all b else if f.md = 4 then k.x.active.any b
        else decide ((k.x.active.filter b).length % 2 = 1)) ∧
  (∀ f s k, (f.md = 6 ∨ f.md = 7) → Ready (.redl f) s k → ∃ r,
    treeOf (combineOpt f (mode f k)) (start f s k) 5 0 = some r ∧
    Computes (.redl f) s k f.d (if f.md = 7 then .w64 else f.ty.width) fun _ => fpOut k.g.mode r) ∧
  (∀ f s k, f.md = 0 → int f.ty = true → Ready (.scanl f) s k → Computes (.scanl f) s k f.d f.ty.width fun l =>
    .write (f.ty.narrow ((k.x.active.filter (· ≤ l)).map fun m => k.num s m f.lit f.ty f.a).sum) 0) ∧
  (∀ f s k, Ready (.scanl f) s k →
    let net (l : Nat) : Option (Quad × Word) := scanOf (combineOpt f (mode f k)) (start f s k) 5 l
    Computes (.scanl f) s k f.d (if f.md = 7 then .w64 else f.ty.width) fun l =>
      fpOut k.g.mode (((net l).getD (0, 0)).1, allLanes.foldl (fun m n => m ||| ((net n).getD (0, 0)).2) 0))

/-! ### Monitors and launches -/

/-- 21 R446: `MONA`, its lanes translated, adds their lines to the monitor set while it holds fewer than 4 and registers each at its
watcher; it reads and orders nothing. 21 R447, R448, 15 R318: `MWAIT` gives status 0 without a set and 1 with a fired one, whose set
it clears; else the group waits, with the timeout of its lowest lane, 0 being none: n clocks pass before the last one. MWAIT_WAKE
ends the waits of a fired wave with status 1, MONITOR_TIMEOUT_EXPIRY those at their last clock with status 2, where the region
neither records nor replays (16 R338). -/
def Obligations.Monitors : Prop :=
  (∀ f s k ls s1, Ready (.mona f) s k → Translated f s k .read false false 1 ls s1 → parksOf ls = [] →
    (monitorAfter k.x.monitor ls).length ≤ 4 →
    Acts (.mona f) s k (fun t => s1.SameStore t ∧ s1.SameChips t) fun t =>
      (t.wave? k.w).map Wave.monitor = some (monitorAfter k.x.monitor ls) ∧
      ∀ m ∈ monitorAfter k.x.monitor ls, m ∉ k.x.monitor → t.watched k.chip k.w m.1 = true) ∧
  (let leaves (i : Instr) (w : Nat) (s : State) (status : Quad) (due : Nat → Bool) : Prop :=
    ∃ t, exec i s = .next t ∧ s.SameStore t ∧ (t.wave? w).map (fun y => (y.monitor, y.fired)) = some ([], false) ∧
      ∀ x, s.wave? w = some x → ∀ l d n len, l < x.threads.length → (x.thread l).st = .waiting →
        (x.thread l).wait = some (.mwait d n len) →
        if due n then d ≠ .zero →
          (t.lane w l).st ≠ .waiting ∧ (t.lane w l).pc = (x.thread l).pc + BitVec.ofNat 64 len ∧
          ∀ g m, (t.lane w l).reg g m = if Opd.names d .w32 g m = true then wordOf status (m - Opd.first d) else (x.thread l).reg g m
        else (t.lane w l).wait = some (.mwait d n len)
  (∀ f s k, k.x.monitor = [] → Ready (.mwait f) s k → Computes (.mwait f) s k f.d .w32 fun _ => .write 0 0) ∧
  (∀ f s k, k.x.monitor ≠ [] → k.x.fired = true → Ready (.mwait f) s k → ∃ t, exec (.mwait f) s = .next t ∧
    Landed.Words s t k f.d .w32 (fun _ => .write 1 0) ∧ s.SameStore t ∧
    (Quiet s k → (t.wave? k.w).map (fun y => (y.monitor, y.fired)) = some ([], false))) ∧
  (∀ f s k, k.x.monitor ≠ [] → k.x.fired = false → Ready (.mwait f) s k → Leaves (.mwait f) s k fun t =>
    ∀ l ∈ k.x.active, (t.lane k.w l).st = .waiting ∧ (t.lane k.w l).wait =
      let n := (k.src s (lane0 k.x.active) f.lit .n32 f.a).toNat
      some (.mwait f.d (if n = 0 then 0 else n + 1) (Instr.length (.mwait f)))) ∧
  (∀ w s k, s.whoOf w = some k → k.x.fired = true → k.x.away = false →
    k.x.threads.any (fun u => (u.inMwait fun _ => true).isSome) = true → recording k.g.mode = false → replaying k.g.mode = false →
    leaves (.mwaitWake w) w s 1 fun _ => true) ∧
  (∀ w s k, s.whoOf w = some k → k.x.away = false →
    k.x.threads.any (fun u => (u.inMwait fun n => n = 1).isSome) = true → recording k.g.mode = false → replaying k.g.mode = false →
    leaves (.monitorTimeoutExpiry w) w s 2 fun n => decide (n = 1)))

/-- 20 R432, 03 R54: `LAUNCH`, its operands translated, of the right form, its waits over and its record unused, links the record and takes a
sequence number; the bytes are those that the two steps of 03 R54 leave. -/
def Obligations.LaunchLinks : Prop :=
  ∀ f s k rc rcs rp rps s1 s2 s3 x s4, Ready (.launch f) s k → s.inFlight = 0 →
    let l := lane0 k.x.active
    (k.begun (.launch f) s).span k.xctx .write false ((k.src s l f.lit .n64 f.a).setWidth 64) 1 = (.parts (rc :: rcs), s1) →
    s1.span k.xctx .write false ((k.src s l f.lit .n64 f.b).setWidth 64) 1 = (.parts (rp :: rps), s2) →
    launchForm rc rp = none →
    s2.releaseWait k (if leafSeg rp.leaf = 3 then .sy else .pk) ((k.src s l f.lit .n64 f.a).setWidth 64) = (true, s3) →
    s3.strongReady k 1 = true → s3.recordUsed k.chip rp.pa = false → s3.link k.chip rc.pa rp.pa = some (x, s4) →
    ∃ t, exec (.launch f) s = .next t ∧ s.SameThreads t ∧ s4.SameStore t ∧
      (Quiet s k → (t.wave? k.w).map Wave.seqno = some (k.x.seqno + 1) ∧
        Goes t k fun _ => k.pc + BitVec.ofNat 64 (Instr.length (.launch f)))

/-! ### Loads, stores, atomics -/

/-- 20 R435, R436, 04 R78, 08 R177: `LD` and `LDL`, their lanes translated or in range, leave every register and byte as it is, mark the
destination empty and an outstanding result with each lane's bytes: for `LD` where they live, or as the wave's own entries, L1 and a
read at issue give them; for `LDL` as they stand, or, where a line is empty, by their offsets (08 R168).
What is due stands in the model's agenda (log 1). -/
def Obligations.LoadsIssue : Prop :=
  let empties (s t : State) (k : Who) (d : Opd) (w : Width) (ls : List Nat) : Prop :=
    (∀ v l g n, (t.lane v l).reg g n = (s.lane v l).reg g n) ∧ (∀ v l, (t.lane v l).p = (s.lane v l).p) ∧
    (∀ v l, (t.lane v l).full = if v = k.w ∧ l ∈ ls then ((s.lane v l).markEmpty d w).full else (s.lane v l).full)
  (∀ f s k ls s1, Ready (.ld f) s k → Translated f s k .read false false (f.ty.bits / 8) ls s1 →
    let good := goodSpans ls
    let l1 := f.acquire.isNone && k.x.pend ≠ some .home
    let now := s1.nowBytes k l1 good
    good ≠ [] → (good.all fun e => (s1.laneBytes k l1 e).isSome) = true →
    k.x.readsFirst (fun _ => true) now = false → s1.srcsReached k.chip now = true → s1.ownedByHost now = [] →
    s1.cached k.chip (hostBlocks now) = true →
    ∃ t, exec (.ld f) s = .next t ∧ s1.SameStore t ∧ s1.SameChips t ∧ s.SameSpecial t ∧
      empties s t k f.d f.ty.width (good.map Prod.fst) ∧
      (Quiet s k → parksOf ls = [] → .loadReturn k.w s1.serial ∈ t.agenda ∧ t.due k.w s1.serial fun ld =>
        ld.kind = .bytes ∧ ld.d = f.d ∧ ld.acq = f.acquire ∧
        ld.fmt = { width := regsOf f.ty.width, bytes := f.ty.bits / 8, signed := f.ty.signed } ∧
        ∀ e ∈ good, ∃ lane ∈ ld.lanes, lane.lane = e.1 ∧ some lane.src = s1.laneBytes k l1 e)) ∧
  (∀ f s k, Ready (.ldl f) s k →
    let ls := s.scLanes k (f.ty.bits / 8) false false (k.x.active.map fun l => (l, s.laneOff k f l))
    let good := ls.filter fun e => e.bad.isNone
    let bs := good.flatMap ScLane.bytes
    good ≠ [] → (good.all fun e => !s.lostSeg e.bytes) = true → s.inT bs = false → s.padFirst k bs = false →
    (f.ea = true → (scratchLines bs).all s.lineFull = true) →
    ∃ t, exec (.ldl f) s = .next t ∧ s.SameStore t ∧ s.SameChips t ∧ s.SameSpecial t ∧
      empties s t k f.d f.ty.width (good.map ScLane.lane) ∧
      (Quiet s k → (ls.all fun e => e.bad.isNone) = true → .loadReturn k.w s.serial ∈ t.agenda ∧ t.due k.w s.serial fun ld =>
        ld.d = f.d ∧ ld.fmt = { width := regsOf f.ty.width, bytes := f.ty.bits / 8, signed := f.ty.signed } ∧
        ∀ e ∈ good, ∃ lane ∈ ld.lanes, lane.lane = e.lane ∧
          lane.src = if (scratchLines e.bytes).all s.lineFull then e.bytes.map fun b => ByteSrc.val (s.padByte b.1 b.2)
            else (List.range e.bytes.length).map fun i => ByteSrc.pad ((e.off + i) % 2 ^ 32)))

/-- 04 R78, 20 R435, Table 20.5, 15 R322: LOAD_RETURN of an outstanding result whose bytes can be read, with no older load of the wave
before it (09 R186) and every scratchpad line it waits for full (08 R168), writes each lane's value to the destination and marks it full,
drops the result, and changes no byte; a byte is one captured at issue, one of the scratchpad, of the chip's replica or of memory. -/
def Obligations.LoadReturns : Prop :=
  ∀ w id s x l, s.wave? w = some x → Table.look x.loads id = some l → s.numbered = true →
    (l.lanes.map LoadLane.lane).Nodup → (l.lanes.all fun e => decide (e.lane < x.threads.length)) = true →
    let chip := chipOfCore (s.coreOf w)
    x.readsFirst (fun m => decide (m.order < l.order)) l.unread = false → s.srcsReached chip l.unread = true →
    ∀ lanes, s.padLanes w l.lanes = some lanes →
    let unread := Load.unread { l with lanes }
    s.ownedByHost unread = [] →
    s.cached chip (hostBlocks unread ++ (Load.lines { l with lanes }).flatMap fun e => [2 * e.2, 2 * e.2 + 1]) = true →
    (lanes.all fun e => (s.readSrcs chip e.src).isSome) = true →
    ∃ t, exec (.loadReturn w id) s = .next t ∧ s.SameStore t ∧
      (t.wave? w).bind (fun y => Table.look y.loads id) = none ∧
      (∀ v i g n, (t.lane v i).reg g n =
        match (if v = w then lanes.find? (fun e => e.lane = i) else none) with
        | some e => if Opd.names l.d l.fmt.regs g n = true then
            wordOf (l.fmt.value ((s.readSrcs chip e.src).getD [])) (n - Opd.first l.d) else (s.lane v i).reg g n
        | none => (s.lane v i).reg g n) ∧
      (∀ e ∈ l.lanes, (t.lane w e.lane).isFull l.d l.fmt.regs = true) ∧
      (∀ a buf b, s.readSrc chip (.phys a buf) = some b → b = s.byte a) ∧
      (∀ a b, s.readSrc chip (.repl a) = some b → b = s.replByte chip a) ∧
      (∀ k off b c, s.whoOf w = some k → s.scratchByte k.g k.wg off = some c → s.padNow w off = some b → b = s.padByte c.1 c.2)

/-- 22 R492, 08 R175 to R177, R182: a relaxed `ST`, its lanes translated, with room in the queue, changes no register and no byte of
memory: its bytes, the last lane's where lanes meet, are the youngest that the wave has queued; a release takes its entries the same
way once its waits are over. 22 R493, 08 R168, 11 Table 11.1: `STL` writes its lanes' bytes to the scratchpad at once, the last
lane's where lanes meet, and sets their lines full; every other byte of every scratchpad, and all of memory, stays. -/
def Obligations.Stores : Prop :=
  (let value (f : ExtArgs) (s : State) (k : Who) (l : Nat) : List Byte := bytesOfNat (f.ty.bits / 8) (k.src s l f.lit f.ty f.b).toNat
  (∀ f s k ls s1, f.xb ≠ 2 → Ready (.st f) s k → s.numbered = true → Translated f s k .write false false (f.ty.bits / 8) ls s1 →
    s1.orderFault k (goodSpans ls) = none → (s1.core k.wg.core).heldOf k.w + 2 * k.x.active.length ≤ 16 →
    (s1.core k.wg.core).entriesOf k.w + 2 * k.x.active.length ≤ 16 →
    (s1.core k.wg.core).wq.length + 2 * k.x.active.length ≤ 96 →
    Acts (.st f) s k (fun t => s1.SameStore t ∧ s1.SameChips t ∧ s.SameSpecial t) fun t =>
      ∀ a b, lastValue (storedCells (value f s k) (goodSpans ls)) a = some b →
        (t.core k.wg.core).ownByte k.w a.1 a.2 = some (some b)) ∧
  (∀ f s k s0 ls s1, f.xb = 2 → Ready (.st f) s k → s.numbered = true →
    (k.begun (.st f) s).releaseWait k f.sc ((k.begun (.st f) s).firstVa k f k.x.active) = (true, s0) →
    k.x.pend.isNone = true → Translated f s0 k .write false false (f.ty.bits / 8) ls s1 → s1.orderFault k (goodSpans ls) = none →
    (s1.core k.wg.core).entriesOf k.w + 2 * k.x.active.length ≤ 16 →
    (s1.core k.wg.core).wq.length + 2 * k.x.active.length ≤ 96 →
    Acts (.st f) s k (fun t => s1.SameStore t ∧ s1.SameChips t ∧ s.SameSpecial t) fun t =>
      ∀ a b, lastValue (storedCells (value f s k) (goodSpans ls)) a = some b →
        (t.core k.wg.core).ownByte k.w a.1 a.2 = some (some b))) ∧
  (∀ f s k s1, Ready (.stl f) s k → (if f.xb = 2 then (k.begun (.stl f) s).releaseWait k f.sc 0 else (true, s)) = (true, s1) →
    let ls := s1.scLanes k (f.ty.bits / 8) false true (k.x.active.map fun l => (l, s1.laneOff k f l))
    let good := ls.filter fun e => e.bad.isNone
    let bs := good.flatMap ScLane.bytes
    let value (l : Nat) : List Byte := bytesOfNat (f.ty.bits / 8) (k.src s l f.lit f.ty f.b).toNat
    (good.all fun e => !s1.lostSeg e.bytes) = true → s1.inT bs = false → s1.padFirst k bs = false → s.canonical = true →
    Acts (.stl f) s k (fun t => (∀ a, t.byte a = s.byte a) ∧ (∀ c a, t.replByte c a = s.replByte c a) ∧
      (∀ c a, t.padByte c a =
        (((storedScratch value good).reverse.find? fun e => e.1 = (c, a)).map Prod.snd).getD (s.padByte c a)) ∧
      s.SameSpecial t ∧ s.SameChips t ∧ ∀ c n, n < 4096 → (t.core c).lines.getLsbD n =
        ((s.core c).lines.getLsbD n || (scratchLines bs).contains (c, n))) fun _ => True)

/-- 18 R377 to R380: `ATOM` queues one entry a block with its lanes in order and an outstanding result, changing no byte and no register yet;
`ATOML` of one lane reads the old value, writes the new one in the scratchpad, and the old one is on its way.
What is due stands in the model's agenda (log 1). -/
def Obligations.AtomicsIssue : Prop :=
  (∀ f s k s0 ls s1, Ready (.atom f) s k →
    let c0 := k.begun (.atom f) s
    (if f.xb.getLsbD 1 then c0.releaseWait k f.sc (c0.firstVa k f k.x.active) else (true, c0)) = (true, s0) → k.x.pend.isNone = true →
    Translated f s0 k .atomic false true (atomBytes f.md.toNat f.ty) ls s1 → goodSpans ls ≠ [] → s1.orderFault k (goodSpans ls) = none →
    (s1.core k.wg.core).entriesOf k.w + k.x.active.length ≤ 16 → (s1.core k.wg.core).wq.length + k.x.active.length ≤ 96 →
    ∃ t, exec (.atom f) s = .next t ∧ s1.SameStore t ∧ s1.SameChips t ∧ s.SameSpecial t ∧
      (∀ v l g n, (t.lane v l).reg g n = (s.lane v l).reg g n) ∧
      (Quiet s k → parksOf ls = [] → (t.due k.w s1.serial fun ld => ld.kind = .atomic ∧ ld.d = f.d) ∧
        ∀ e ∈ goodSpans ls, ∀ p ps, e.2.2 = p :: ps → ∃ q ∈ (t.core k.wg.core).wq, q.2.wave = k.w ∧ q.2.block = p.pa / 64 ∧
          q.2.held = false ∧ q.2.load = some s1.serial ∧ s1.atomLane k f e.1 p.pa ∈ q.2.atoms)) ∧
  (∀ f s k s1 l, k.x.active = [l] → Ready (.atoml f) s k →
    let c0 := k.begun (.atoml f) s
    (if f.xb.getLsbD 1 then c0.releaseWait k f.sc 0 else (true, c0)) = (true, s1) →
    ∀ bs, s1.scratchBytes k.g k.wg (s1.laneOff k f l) (atomBytes f.md.toNat f.ty) = some bs →
    s1.laneOff k f l % atomBytes f.md.toNat f.ty = 0 → s1.inS bs = false → s1.lostSeg bs = false → s1.inT bs = false →
    s1.padFirst k bs = false → (scratchLines bs).all s1.lineFull = true → s.canonical = true →
    let old := natOfBytes (s1.readScratch bs)
    let new := match (s1.atomLane k f l (s1.laneOff k f l)).modify old with
      | some v => bytesOfNat (atomBytes f.md.toNat f.ty) v
      | none => s1.readScratch bs
    ∃ t, exec (.atoml f) s = .next t ∧ (∀ a, t.byte a = s.byte a) ∧ s.SameSpecial t ∧ s.SameChips t ∧
      (∀ v i g n, (t.lane v i).reg g n = (s.lane v i).reg g n) ∧
      (∀ c a, t.padByte c a = (((bs.zip new).reverse.find? fun e => e.1 = (c, a)).map Prod.snd).getD (s.padByte c a)) ∧
      (Quiet s k → .loadReturn k.w s1.serial ∈ t.agenda ∧ t.due k.w s1.serial fun ld => ld.d = f.d ∧
        ∃ lane, ld.lanes = [lane] ∧ lane.lane = l ∧ lane.src = (s1.readScratch bs).map ByteSrc.val))

/-- 18 R377, Table 18.2: what an atomic writes for its old value, at the integer types: sums modulo 2^w, the lesser and the greater
in the type's order, bit operations, the exchange, and the exchange that compares, which writes nothing where it fails. -/
def Obligations.AtomicResults : Prop :=
  ∀ (a : AtomLane) (old : Nat), old < 2 ^ (8 * a.width) → 0 < a.width → a.b.toNat < 2 ^ (8 * a.width) → a.c.toNat < 2 ^ (8 * a.width) →
    a.md < 8 →
    let num (x : Nat) : Int := if a.ty.signed ∧ 2 ^ (8 * a.width - 1) ≤ x then (x : Int) - 2 ^ (8 * a.width) else x
    match a.md with
    | 0 => ∃ v, a.modify old = some v ∧ v < 2 ^ (8 * a.width) ∧ (2 ^ (8 * a.width) : Int) ∣ num v - (num old + num a.b.toNat)
    | 1 => ∃ v, a.modify old = some v ∧ v < 2 ^ (8 * a.width) ∧ num v = min (num old) (num a.b.toNat)
    | 2 => ∃ v, a.modify old = some v ∧ v < 2 ^ (8 * a.width) ∧ num v = max (num old) (num a.b.toNat)
    | 3 => ∃ v, a.modify old = some v ∧ ∀ j, v.testBit j = (old.testBit j && a.b.toNat.testBit j)
    | 4 => ∃ v, a.modify old = some v ∧ ∀ j, v.testBit j = (old.testBit j || a.b.toNat.testBit j)
    | 5 => ∃ v, a.modify old = some v ∧ ∀ j, v.testBit j = (old.testBit j != a.b.toNat.testBit j)
    | 6 => a.modify old = some a.b.toNat
    | _ => (old = a.b.toNat → a.modify old = some a.c.toNat) ∧ (old ≠ a.b.toNat → a.modify old = none)

/-- 08 R176, R178, 18 R378: WQ_ENTRY_PERFORM of a released entry that nothing holds up, at a stack or in host memory: a store's
bytes are written and no other byte, an atomic's one lane writes its new value, and the old one reaches its lane; the entry leaves
the queue. -/
def Obligations.EntriesPerform : Prop :=
  let free (s : State) (core id : Nat) (e : WqEntry) : Prop :=
    Table.look (s.core core).wq id = some e ∧ e.held = false ∧ (s.core core).blockedBy id e = false ∧ e.repl = false ∧
    ((s.wave? e.wave).all fun x => !x.entryWaits e) = true ∧ s.reaches (chipOfCore core) (e.block * 64) = true ∧
    s.canonical = true ∧ s.numbered = true ∧ (e.bytes.all fun b => decide (b.1 / 64 = e.block)) = true ∧
    ((isHostAddr (e.block * 64) = true ∧ s.takesLine (chipOfCore core) e.block = true) ∨
      (isHostAddr (e.block * 64) = false ∧ s.stackLive (stackOf (e.block * 64)) = true ∧ s.evacuating e = false ∧ e.granted = true ∧
        (s.cluster (stackOf (e.block * 64))).hostHeld.contains e.block = false ∧
        s.dirMayWrite (regionOf (e.block * 64)) (.write core id) = true ∧ s.tagFails (e.block * 64) e.buf = false))
  (∀ core id s e, free s core id e → e.atoms = [] → (e.bytes.map Prod.fst).Nodup →
    ∃ t, exec (.wqEntryPerform core id) s = .next t ∧ s.SameThreads t ∧ Table.look (t.core core).wq id = none ∧
      (∀ a, t.byte a = (Table.look e.bytes a).getD (s.byte a)) ∧ (∀ c a, t.padByte c a = s.padByte c a) ∧
      ∀ c a, t.replByte c a = s.replByte c a) ∧
  (∀ core id s e a, free s core id e → e.atoms = [a] → e.bytes = [] → a.pa / 64 = e.block → (a.pa + a.width - 1) / 64 = e.block →
    0 < a.width →
    ∃ t, exec (.wqEntryPerform core id) s = .next t ∧ s.SameThreads t ∧ Table.look (t.core core).wq id = none ∧
      (let old := Memory.readLe s.mem a.pa a.width
       ∀ b, t.byte b = match a.modify old with
         | some v => if a.pa ≤ b ∧ b < a.pa + a.width then BitVec.ofNat 8 (v / 2 ^ (8 * (b - a.pa))) else s.byte b
         | none => s.byte b) ∧
      ∀ ld x l, e.load = some ld → s.wave? e.wave = some x → Table.look x.loads ld = some l →
        t.due e.wave ld fun l' => ∀ lane ∈ l'.lanes, lane.lane = a.lane →
          lane.src = (bytesOfNat a.width (Memory.readLe s.mem a.pa a.width)).map ByteSrc.val)

/-! ### Strong instructions, fences, caches -/

/-- 22 R479, 10 R215, R216: `SATOM`, `SST` and `SLD`, their lanes translated and aligned, become one request a lane, numbered in
order and pending at the chip's unit, and no byte changes yet; `SATOM` and `SLD` have a result outstanding. -/
def Obligations.StrongInstructions : Prop :=
  let aligned (n : Nat) (ls : List (Nat × DWord × Span)) : Prop :=
    parksOf ls = [] ∧ (ls.all fun e => decide (e.2.1.toNat % n = 0)) = true
  let offset (e : Nat × DWord × List Part) : Nat := (e.2.2.map Part.pa).headD 0
  (∀ f s k s0 ls s1, Ready (.satom f) s k →
    (if f.xb.getLsbD 1 then (k.begun (.satom f) s).releaseWait k f.sc ((k.begun (.satom f) s).firstVa k f k.x.active)
      else (true, k.begun (.satom f) s)) = (true, s0) →
    s0.strongReady k k.x.active.length = true → Translated f s0 k .atomic true false 1 ls s1 →
    aligned (atomBytes f.md.toNat f.ty) ls → s1.orderFault k (goodSpans ls) = none →
    ∃ t, exec (.satom f) s = .next t ∧ s1.SameStore t ∧ (∀ v l g n, (t.lane v l).reg g n = (s.lane v l).reg g n) ∧
      (Quiet s k → Requested t k f.md.toNat (s1.repl k.chip).rqcnt ((goodSpans ls).map fun e =>
          (offset e, s1.readOpd k.x e.1 f.lit (atomRegs f.md.toNat f.ty) .int f.b,
            if f.md = 7 then s1.readOpd k.x e.1 f.lit (atomRegs f.md.toNat f.ty) .int f.c else 0)) ∧
        ∃ id, t.due k.w id fun ld => ld.kind = .strong ∧ ld.d = f.d)) ∧
  (∀ f s k s0 ls s1, Ready (.sst f) s k →
    (if f.xb.getLsbD 1 then (k.begun (.sst f) s).releaseWait k f.sc ((k.begun (.sst f) s).firstVa k f k.x.active)
      else (true, k.begun (.sst f) s)) = (true, s0) →
    s0.strongReady k k.x.active.length = true → Translated f s0 k .atomic true false 1 ls s1 → aligned (f.ty.bits / 8) ls →
    Acts (.sst f) s k (fun t => s1.SameStore t) fun t => Requested t k 8 (s1.repl k.chip).rqcnt ((goodSpans ls).map fun e =>
      (offset e, s1.readOpd k.x e.1 f.lit f.ty.width .int f.b, 0))) ∧
  (∀ f s k s0 ls s1, Ready (.sld f) s k →
    (if f.xb.getLsbD 1 then (k.begun (.sld f) s).releaseWait k f.sc ((k.begun (.sld f) s).firstVa k f k.x.active)
      else (true, k.begun (.sld f) s)) = (true, s0) →
    s0.strongReady k k.x.active.length = true → Translated f s0 k .read true false 1 ls s1 → aligned (f.ty.bits / 8) ls →
    ∃ t, exec (.sld f) s = .next t ∧ s1.SameStore t ∧ (∀ v l g n, (t.lane v l).reg g n = (s.lane v l).reg g n) ∧
      (Quiet s k → Requested t k 9 (s1.repl k.chip).rqcnt ((goodSpans ls).map fun e => (offset e, 0, 0)) ∧
        ∃ id, t.due k.w id fun ld => ld.kind = .strong ∧ ld.d = f.d))

/-- 09 R197, 10 R220, 22 R502: at thread scope a fence has no effect; else a release, its waits over, leaves the core's signature to
the wave's later stores (`FENCE.ar` with what its acquire received), and an acquire, the wave's reads done, empties the wave's
record and drops from L1 each line homed elsewhere that the record covers; `WFENCE` waits for the wave's entries and `RFENCE` for
every member. 21 R460, 19 R405, 08 R170: `PREF` changes no register and no byte: a line it brings into L1 holds the 128 bytes of its
home; `DISC.line` drops the lanes' lines of the address space from the core's L1, and `DISC.all` every line. -/
def Obligations.FencesAndCacheHints : Prop :=
  (let acquired (s t : State) (k : Who) : Prop :=
    (t.wave? k.w).map (fun y => (y.acqSig, y.acqTags)) = some (0, []) ∧
    ∀ l ∈ (t.core k.wg.core).l1, l ∈ (s.core k.wg.core).l1 ∧
      (isHostAddr (l.pline * 128) = true ∨ stackOf (l.pline * 128) ≠ clusterOfCore k.wg.core →
        k.x.acqSig.getLsbD (sigBit (l.pline * 128)) = false)
  let released (s t : State) (k : Who) : Prop :=
    (t.wave? k.w).map Wave.relSig = some (some (s.core k.wg.core).allSigs)
  (∀ f s k, f.sc = .th → Ready (.fenceAcq f) s k → Leaves (.fenceAcq f) s k fun t => Goes t k fun _ => k.after (.fenceAcq f)) ∧
  (∀ f s k, f.sc = .th → Ready (.fenceRel f) s k → Leaves (.fenceRel f) s k fun t => Goes t k fun _ => k.after (.fenceRel f)) ∧
  (∀ f s k, f.sc = .th → Ready (.fenceAr f) s k → Leaves (.fenceAr f) s k fun t => Goes t k fun _ => k.after (.fenceAr f)) ∧
  (∀ f s k, 3 ≤ f.sc.code.toNat → Ready (.fenceAcq f) s k → k.x.reading = false →
    Leaves (.fenceAcq f) s k fun t => acquired s t k) ∧
  (∀ f s k s1, 3 ≤ f.sc.code.toNat → Ready (.fenceRel f) s k →
    (k.begun (.fenceRel f) s).releaseWait k f.sc 0 = (true, s1) → Leaves (.fenceRel f) s k fun t => released s t k) ∧
  (∀ f s k s1, 3 ≤ f.sc.code.toNat → Ready (.fenceAr f) s k →
    (k.begun (.fenceAr f) s).releaseWait k f.sc 0 = (true, s1) → k.x.reading = false →
    Leaves (.fenceAr f) s k fun t => acquired s t k ∧
      (t.wave? k.w).map Wave.relSig = some (some ((s.core k.wg.core).addSig k.x.acqSig).allSigs)) ∧
  (∀ f s k, k.x.reading = true → f.sc ≠ .th → Ready (.fenceAcq f) s k → WaitsAt (.fenceAcq f) s k) ∧
  (∀ f s k, Ready (.wfence f) s k → (k.begun (.wfence f) s).quiet k = true →
    Leaves (.wfence f) s k fun t => Goes t k fun _ => k.after (.wfence f)) ∧
  (∀ f s k, Ready (.wfence f) s k → (k.begun (.wfence f) s).quiet k = false → WaitsAt (.wfence f) s k) ∧
  (∀ f s k s1, Ready (.rfence f) s k →
    ((k.begun (.rfence f) s).core k.wg.core).wq.any (fun e => e.2.wave = k.w && e.2.repl) = false →
    (k.begun (.rfence f) s).memberWait k = (true, s1) →
    Leaves (.rfence f) s k fun t => Goes t k fun _ => k.after (.rfence f))) ∧
  ((∀ f s k, Ready (.pref f) s k → (∀ l ∈ k.x.active, ∀ e pa, s.peek k.xctx .read (s.laneEa k f l) = some (e, pa) →
      s.cached k.chip [2 * (pa / 128), 2 * (pa / 128) + 1] = true) → Leaves (.pref f) s k fun t => ∀ l ∈ (t.core k.wg.core).l1,
    l ∈ (s.core k.wg.core).l1 ∨ ∀ i, i < 128 → Memory.read l.data i = s.byte (128 * l.pline + i)) ∧
  (∀ f s k, Ready (.discLine f) s k → Leaves (.discLine f) s k fun t => ∀ l, l ∈ (t.core k.wg.core).l1 ↔
    l ∈ (s.core k.wg.core).l1 ∧ ∀ i ∈ k.x.active, ¬ (l.asid = k.g.asid ∧ l.vline = vlineOf (s.laneEa k f i))) ∧
  (∀ f s k, Ready (.discAll f) s k → Leaves (.discAll f) s k fun t => (t.core k.wg.core).l1 = []))

/-! ### Windows -/

/-- 22 R483, 11 R238: `SEGB` of an unbound segment and a region of a private or homed page that no segment of the quad binds puts
the segment in T, its lines empty, with a fill requested; `SEGU` gives a bound segment up with a notice; `WBR` writes an owned
segment's dirty bytes home, and no other byte, and does nothing to one that is not owned. What is due stands in the model's agenda (log 1). -/
def Obligations.WindowInstructions : Prop :=
  (∀ f s k i e pa s1, Ready (.segb f) s k →
    let c0 := k.begun (.segb f) s
    let va := (k.src s (lane0 k.x.active) f.lit .n64 f.b).setWidth 64
    c0.segNamed k f k.x.active = .ok i → va.toNat % 4096 = 0 → s.inFlight = 0 →
    c0.translate k.xctx (if f.md = 1 then .own else .share) false va = (.ok e pa, s1) →
    (s1.seg k.wg.core i).st = .i → (s1.seg k.wg.core i).notice = false → s1.quadBound k.wg.core pa = false →
    Acts (.segb f) s k (fun t => (∀ a, t.byte a = s1.byte a) ∧ (∀ c a, t.padByte c a = s1.padByte c a)) fun t =>
      .windowFillRequest k.wg.core i ∈ t.agenda ∧ (t.seg k.wg.core i).st = .t ∧
      (t.seg k.wg.core i).owned = decide (f.md = 1) ∧ (t.seg k.wg.core i).va = va ∧ (t.seg k.wg.core i).pa = pa ∧
      (t.seg k.wg.core i).filling = true ∧ (t.seg k.wg.core i).linesLeft = 32 ∧
      ∀ n, n / 32 = i → n < 4096 → (t.core k.wg.core).lines.getLsbD n = false) ∧
  (∀ f s k i, Ready (.segu f) s k → (k.begun (.segu f) s).segNamed k f k.x.active = .ok i →
    let c0 := k.begun (.segu f) s
    (c0.seg k.wg.core i).st = .s ∨ (c0.seg k.wg.core i).st = .o →
    Acts (.segu f) s k (fun t => s.SameStore t) fun t => .windowNotice k.wg.core i ∈ t.agenda ∧
      (t.seg k.wg.core i).notice = true ∧
      (t.seg k.wg.core i).st = if (c0.seg k.wg.core i).st = .s then .i else .t) ∧
  (∀ f s k i, Ready (.segu f) s k → (k.begun (.segu f) s).segNamed k f k.x.active = .ok i →
    ((k.begun (.segu f) s).seg k.wg.core i).st = .i → Leaves (.segu f) s k fun t => Goes t k fun _ => k.after (.segu f)) ∧
  (∀ f s k i, Ready (.wbr f) s k → s.canonical = true →
    let c0 := k.begun (.wbr f) s
    c0.segNamed k f k.x.active = .ok i → (c0.seg k.wg.core i).st = .o → (c0.seg k.wg.core i).back = false →
    c0.takesBack k.wg.core i →
    Acts (.wbr f) s k (fun t => (∀ a, t.byte a = c0.withDirty k.wg.core i a) ∧
      (∀ c a, t.padByte c a = s.padByte c a) ∧ ∀ c a, t.replByte c a = s.replByte c a) fun t =>
      (t.seg k.wg.core i).dirty = 0 ∧ (t.seg k.wg.core i).st = .o) ∧
  (∀ f s k i, Ready (.wbr f) s k → (k.begun (.wbr f) s).segNamed k f k.x.active = .ok i →
    ((k.begun (.wbr f) s).seg k.wg.core i).st ≠ .o → ((k.begun (.wbr f) s).seg k.wg.core i).back = false →
    Leaves (.wbr f) s k fun t => Goes t k fun _ => k.after (.wbr f))

/-- 11 R238 to R242, Table 11.3: a fill request of a region that nothing binds is granted with its 32 lines; a line that arrives
stands in the scratchpad, full, and the last one puts the segment in its mode; an INV or RECALL empties a held segment, its dirty
bytes home, and makes a refetch due; a notice, with the dirty bytes of a segment that was owned, and its acknowledgement let go.
What is due stands in the model's agenda (log 1). -/
def Obligations.WindowMessages : Prop :=
  (∀ core i s, s.near core i → (s.seg core i).st = .t → (s.seg core i).filling = true →
    s.stackLive (stackOf (s.seg core i).pa) = true → s.dir? (regionOf (s.seg core i).pa) = none →
    Happens (.windowFillRequest core i) s fun t => s.SameStore t ∧ (t.seg core i) = s.seg core i ∧
      (∀ l, l < 32 → .windowFillData core i l ∈ t.agenda) ∧
      (t.dir? (regionOf (s.seg core i).pa)).map (fun d => (d.st, d.sharers)) =
        some (if (s.seg core i).owned then .own else .shr, [(core, i)])) ∧
  (∀ core i l s, s.near core i → i < 128 → l < 32 → (s.seg core i).st = .t → (s.seg core i).filling = true → s.canonical = true →
    s.tagFails ((s.seg core i).pa + 128 * l) (s.seg core i).buf = false →
    s.tagFails ((s.seg core i).pa + 128 * l + 64) (s.seg core i).buf = false →
    Happens (.windowFillData core i l) s fun t =>
      (∀ a, t.byte a = s.byte a) ∧
      (∀ c a, t.padByte c a = if c = core ∧ 4096 * i + 128 * l ≤ a ∧ a < 4096 * i + 128 * l + 128 then
        s.byte ((s.seg core i).pa + 128 * l + (a - (4096 * i + 128 * l))) else s.padByte c a) ∧
      (t.core core).lines.getLsbD (32 * i + l) = true ∧
      (t.seg core i).st = if (s.seg core i).linesLeft ≤ 1 then (if (s.seg core i).owned then .o else .s) else .t) ∧
  (∀ (asRecall : Bool) core i s, s.near core i → i < 128 → (s.seg core i).st = .s ∨ (s.seg core i).st = .o → s.canonical = true →
    ((s.seg core i).st = .o → s.takesBack core i) →
    Happens (if asRecall then .windowRecall core i else .windowInv core i) s fun t =>
      (∀ a, t.byte a = if (s.seg core i).st = .o then s.withDirty core i a else s.byte a) ∧
      (t.seg core i).st = .t ∧ (t.seg core i).refetch = true ∧ (t.seg core i).dirty = 0 ∧
      ∀ n, n / 32 = i → (t.core core).lines.getLsbD n = false) ∧
  (∀ (asRecall : Bool) core i s, s.near core i → (s.seg core i).st = .i ∨ (s.seg core i).st = .t →
    Happens (if asRecall then .windowRecall core i else .windowInv core i) s fun t =>
      s.SameStore t ∧ .windowGone core i ∈ t.agenda) ∧
  (∀ core i s d, s.near core i → s.dir? (regionOf (s.seg core i).pa) = some d → d.asked = [(core, i)] → d.queue = [] →
    d.sharers = [] → (s.seg core i).st = .i → (s.seg core i).filling = false → (s.seg core i).notice = false →
    (s.seg core i).back = false →
    Happens (.windowGone core i) s fun t => s.SameStore t ∧
      ∀ e, t.dir? (regionOf (s.seg core i).pa) = some e → (core, i) ∉ e.asked ∧ (core, i) ∉ e.sharers) ∧
  (∀ core i s, s.near core i → (s.seg core i).notice = true → (s.seg core i).back = false → (s.seg core i).st = .i →
    Happens (.windowNotice core i) s fun t => s.SameStore t ∧ .windowNoticeAck core i ∈ t.agenda) ∧
  (∀ core i s, s.near core i → (s.seg core i).notice = true → (s.seg core i).back = false → (s.seg core i).st = .t →
    s.knows (regionOf (s.seg core i).pa) (core, i) = true → s.canonical = true → s.takesBack core i →
    Happens (.windowNotice core i) s fun t => (∀ a, t.byte a = s.withDirty core i a) ∧ .windowNoticeAck core i ∈ t.agenda) ∧
  (∀ core i s, s.near core i → (s.seg core i).notice = true → s.numbered = true →
    (Table.numbered (s.core core).segs 128) = true →
    Happens (.windowNoticeAck core i) s fun t => s.SameStore t ∧ t.seg core i = Seg.free)

/-! ### Translations -/

/-- 12 R260 to R263, R266, R272, 06 R121: in privileged mode `PTST` becomes one page-table store a lane; `PTLD` delivers 8 bytes of the
replica, or of the wave's own stores; `TLBI` removes at once what it names from the chip's TLBs, or becomes one removal a lane; `XFENCE`
ends once what it waits for is complete; `BVER` becomes one store of VER a lane, and parks a lane that names entry 0 (18 R392). What is
due stands in the model's agenda (log 1). -/
def Obligations.TranslationInstructions : Prop :=
  let inTable (f : ExtArgs) (s : State) (k : Who) : Prop :=
    ∀ l ∈ k.x.active, (s.laneEa k f l).toNat % 8 = 0 ∧ (s.laneEa k f l).toNat < s.replSize k.chip
  let removed (kind : Nat) (rs : List (Nat × Quad)) (k : Who) (t : State) : Prop :=
    ∀ r ∈ rs, ∀ j, j < 4 → ∀ e ∈ (t.cluster (4 * k.chip + j)).tlb, (tlbiOf r.2 (BitVec.ofNat 128 kind)).hits e = false
  let asked (kind : Nat) (rs : List (Nat × Quad)) (s : State) (k : Who) (t : State) : Prop :=
    Requested t k 11 (s.repl k.chip).rqcnt (rs.map fun r => (0, r.2, BitVec.ofNat 128 kind))
  let stored (s : State) (k : Who) : Prop := (k.x.ptsts.all fun g => (s.repl k.chip).appliedByAll k.chip g) = true
  let gone (i : Instr) (s : State) (k : Who) : Prop := (k.x.tlbis.all fun r => (k.begun i s).tlbiDone k.chip r) = true
  let left (t : State) (k : Who) : Option (List (Nat × Nat × Nat) × List TlbiRec) := (t.wave? k.w).map fun y => (y.ptsts, y.tlbis)
  (∀ f s k, Ready (.ptst f) s k → k.g.priv = true → (k.begun (.ptst f) s).strongReady k k.x.active.length = true → inTable f s k →
    ∃ t, exec (.ptst f) s = .next t ∧ s.SameThreads t ∧ s.SameStore t ∧ (Quiet s k →
      Requested t k 10 (s.repl k.chip).rqcnt (k.x.active.map fun l => ((s.laneEa k f l).toNat, k.src s l f.lit .n64 f.b, 0)))) ∧
  (∀ f s k, Ready (.ptld f) s k → k.g.priv = true → inTable f s k →
    let srcs (l : Nat) : List (Option ByteSrc) :=
      (List.range 8).map fun i => (s.core k.wg.core).tableSrc k.w ((s.laneEa k f l).toNat + i)
    let lane (l : Nat) : LoadLane := { lane := l, src := (srcs l).filterMap fun b => b, va := BitVec.ofNat 64 (s.laneEa k f l).toNat }
    (∀ l ∈ k.x.active, none ∉ srcs l) → k.x.readsFirst (fun _ => true) (mixedBytes (k.x.active.map lane)) = false →
    ∃ t, exec (.ptld f) s = .next t ∧ s.SameStore t ∧ (∀ v l g n, (t.lane v l).reg g n = (s.lane v l).reg g n) ∧
      (Quiet s k → .loadReturn k.w s.serial ∈ t.agenda ∧ t.due k.w s.serial fun ld => ld.d = f.d ∧
        ∀ l ∈ k.x.active, ∃ e ∈ ld.lanes, e.lane = l ∧ e.src = (s.readMixed k.chip (lane l)).src)) ∧
  (∀ f s k, Ready (.tlbiPage f) s k → k.g.priv = true → f.sc = .ch → ∃ t, exec (.tlbiPage f) s = .next t ∧ s.SameThreads t ∧
    removed 0 (s.tlbiLanes k f 0 k.x.active) k t) ∧
  (∀ f s k, Ready (.tlbiAsid f) s k → k.g.priv = true → f.sc = .ch → ∃ t, exec (.tlbiAsid f) s = .next t ∧ s.SameThreads t ∧
    removed 1 (s.tlbiLanes k f 1 k.x.active) k t) ∧
  (∀ f s k, Ready (.tlbiAll f) s k → k.g.priv = true → f.sc = .ch → ∃ t, exec (.tlbiAll f) s = .next t ∧ s.SameThreads t ∧
    removed 2 (s.tlbiLanes k f 2 k.x.active) k t) ∧
  (∀ f s k, Ready (.tlbiPage f) s k → k.g.priv = true → f.sc ≠ .ch →
    (k.begun (.tlbiPage f) s).strongReady k (s.tlbiLanes k f 0 k.x.active).length = true →
    ∃ t, exec (.tlbiPage f) s = .next t ∧ s.SameThreads t ∧ s.SameStore t ∧
      (Quiet s k → asked 0 (s.tlbiLanes k f 0 k.x.active) s k t)) ∧
  (∀ f s k, Ready (.tlbiAsid f) s k → k.g.priv = true → f.sc ≠ .ch →
    (k.begun (.tlbiAsid f) s).strongReady k (s.tlbiLanes k f 1 k.x.active).length = true →
    ∃ t, exec (.tlbiAsid f) s = .next t ∧ s.SameThreads t ∧ s.SameStore t ∧
      (Quiet s k → asked 1 (s.tlbiLanes k f 1 k.x.active) s k t)) ∧
  (∀ f s k, Ready (.tlbiAll f) s k → k.g.priv = true → f.sc ≠ .ch →
    (k.begun (.tlbiAll f) s).strongReady k (s.tlbiLanes k f 2 k.x.active).length = true →
    ∃ t, exec (.tlbiAll f) s = .next t ∧ s.SameThreads t ∧ s.SameStore t ∧
      (Quiet s k → asked 2 (s.tlbiLanes k f 2 k.x.active) s k t)) ∧
  (∀ f s k, Ready (.xfencePt f) s k → k.g.priv = true → k.x.strong = none → stored s k →
    ∃ t, exec (.xfencePt f) s = .next t ∧ Landed s t k .none .w32 noOut ∧ (Quiet s k → left t k = some ([], k.x.tlbis))) ∧
  (∀ f s k, Ready (.xfenceInv f) s k → k.g.priv = true → k.x.strong = none → gone (.xfenceInv f) s k →
    ∃ t, exec (.xfenceInv f) s = .next t ∧ Landed s t k .none .w32 noOut ∧ (Quiet s k → left t k = some (k.x.ptsts, []))) ∧
  (∀ f s k, Ready (.xfenceAd f) s k → k.g.priv = true → k.x.strong = none → (k.begun (.xfenceAd f) s).enginesLeft k = false →
    ∃ t, exec (.xfenceAd f) s = .next t ∧ Landed s t k .none .w32 noOut ∧
      (Quiet s k → left t k = some (k.x.ptsts, k.x.tlbis) ∧ Goes t k fun _ => k.after (.xfenceAd f))) ∧
  (∀ f s k, Ready (.xfenceAll f) s k → k.g.priv = true → k.x.strong = none → stored s k → gone (.xfenceAll f) s k →
    (k.begun (.xfenceAll f) s).enginesLeft k = false →
    ∃ t, exec (.xfenceAll f) s = .next t ∧ Landed s t k .none .w32 noOut ∧ (Quiet s k → left t k = some ([], []))) ∧
  (∀ f s k, Ready (.bver f) s k → k.g.priv = true → (k.begun (.bver f) s).strongReady k k.x.active.length = true →
    let idx (l : Nat) : Nat := (k.src s l f.lit .n32 f.a).toNat % 2 ^ 16
    let good := k.x.active.filter fun l => idx l ≠ 0
    good ≠ [] → ∃ t, exec (.bver f) s = .next t ∧ s.SameThreads t ∧ s.SameStore t ∧ (Quiet s k →
      Requested t k 8 (s.repl k.chip).rqcnt (good.map fun l =>
        (reservedBase (s.repl k.chip).rsegsz + 8 * idx l + 4, k.src s l f.lit .n32 f.b, 0)) ∧
      ∀ l ∈ k.x.active, idx l = 0 → (t.lane k.w l).lane.map LaneRec.cause = some 0x12))

/-- 12 R268, R269, 06 R121: in privileged mode `MIGR` and `MIGR.evac` of one lane whose move can be made now complete, leave the registers
and go on; the move copies the page byte by byte and changes no byte outside the new page. -/
def Obligations.PageMoves : Prop :=
  (∀ (m : Memory) src dst a, m.wf = true → (src + 65536 ≤ dst ∨ dst + 65536 ≤ src) → Memory.read (Memory.copyPage m src dst) a =
    if dst ≤ a ∧ a < dst + 65536 then Memory.read m (src + (a - dst)) else Memory.read m a) ∧
  (∀ f s k l s1, k.x.active = [l] → k.x.pend.isNone = true → Ready (.migr f) s k → k.g.priv = true → s.inFlight = 0 →
    let c0 := k.begun (.migr f) s
    c0.strongReady k 1 = true →
    migrStart 8 c0 k false l (c0.migrLane k f l).1 (c0.migrLane k f l).2.1 (c0.migrLane k f l).2.2 = .moved s1 →
    ∃ t, exec (.migr f) s = .next t ∧ s.SameThreads t ∧ s1.SameStore t ∧
      (Quiet s k → Goes t k fun _ => k.after (.migr f))) ∧
  (∀ f s k l s1, k.x.active = [l] → k.x.pend.isNone = true → Ready (.migrEvac f) s k → k.g.priv = true → s.inFlight = 0 →
    let c0 := k.begun (.migrEvac f) s
    c0.strongReady k 1 = true →
    migrStart 8 c0 k true l (c0.migrLane k f l).1 (c0.migrLane k f l).2.1 (c0.migrLane k f l).2.2 = .moved s1 →
    ∃ t, exec (.migrEvac f) s = .next t ∧ s.SameThreads t ∧ s1.SameStore t ∧
      (Quiet s k → Goes t k fun _ => k.after (.migrEvac f)))

/-! ### Copies -/

/-- 13 R273, R274, R279, R282, R288, 19 R394, R399, 20 R430, 22 R494: `CPY`, and `TCPY` of a descriptor without fault, start a copy
whose transfers move each byte of the lanes' ranges, or of the tensor's elements; `KICK` loads the kick register; `CFENCE` ends once
the wave's copies have retired, or been read; they wait for room. What is due stands in the model's agenda (log 1). -/
def Obligations.CopiesStart : Prop :=
  let glob (a : Nat → Prop) [DecidablePred a] (md : Nat) : Nat := if a md then 0 else 1
  let ss (md : Nat) : Nat := glob (fun m => m = 0 ∨ m = 2) md
  let ds (md : Nat) : Nat := glob (fun m => m = 1 ∨ m = 2) md
  let addr (space : Nat) : Ty := if space = 0 then .n64 else .n32
  (∀ f s k bars, f.md.toNat < 4 → Ready (.cpy f) s k → s.copyRoom k.wg.core = true →
    let bar : Option Nat := if f.aux.getLsbD 0 then none else some (f.x18.toNat * 16)
    let d (l : Nat) : Nat := (k.src s l f.lit (addr (ds f.md.toNat)) f.a).toNat
    let a (l : Nat) : Nat := (k.src s l f.lit (addr (ss f.md.toNat)) f.b).toNat
    let n (l : Nat) : Nat := (k.src s l f.lit .n32 f.c).toNat
    (k.x.active.all fun l => decide (n l ≤ 65536)) = true → s.copyBars false [k.x.wg] bar = .ok bars →
    Acts (.cpy f) s k (fun t => s.SameBytes t) fun t => Started t k s.serial fun c => c.bar = bar ∧
      (c.pieces.map Piece.len).sum = (k.x.active.map n).sum ∧
      ∀ l ∈ k.x.active, c.Moves (ss f.md.toNat) (ds f.md.toNat) (a l) (d l) (n l)) ∧
  (∀ f s k, Ready (.cpy f) s k → s.copyRoom k.wg.core = false → WaitsAt (.cpy f) s k) ∧
  (∀ f s k bs s2, Ready (.tcpy f) s k → s.copyRoom k.wg.core = true → s.inFlight = 0 →
    let c0 := k.begun (.tcpy f) s
    let l := lane0 k.x.active
    (if f.md = 0 then
        let va := (k.src s l f.lit .n64 f.a).setWidth 64
        va.toNat % 128 = 0 ∧ ∃ ps s1, c0.span k.xctx .read false va 384 = (.parts ps, s1) ∧
          s1.priorDone k.wg.core (k.copy s1) (ps.flatMap fun p => (List.range ((p.len + 63) / 64)).map fun i =>
            { p with pa := p.pa + 64 * i, len := 1 }) = true ∧
          s1.engineBytes k.chip ps = (.ok bs, s2)
      else
        let o := (k.src s l f.lit .n32 f.a).toNat % 2 ^ 24
        o < 0x80000 ∧ o % 128 = 0 ∧ s2 = c0 ∧ ∃ cs, s.scratchBytes k.g k.wg o 384 = some cs ∧ s.lostSeg cs = false ∧
          s.inT cs = false ∧ (scratchLines cs).all s.lineFull = true ∧ bs = cs.map fun b => s.padByte b.1 b.2) →
    let field (off n : Nat) : Nat := natOfBytes bs / 2 ^ (8 * off) % 2 ^ n
    let dims : List Nat := (List.range (field 1 8)).map fun i => field (0x68 + 4 * i) 32
    let side (off : Nat) : List Int := (List.range (field 1 8)).map fun i => (BitVec.ofNat 64 (field (off + 8 * i) 64)).toInt
    s2.tensorFault k.x.wg (natOfBytes bs) = none → field 0 8 < 4 → field 3 4 = 0 → field 0x18 32 = 2 ^ 32 - 1 →
    Acts (.tcpy f) s k (fun t => s2.SameBytes t) fun t => Started t k s2.serial fun c => c.bar = none ∧
      (field 0x20 64 = 0 → (c.pieces.map Piece.len).sum = dims.prod * 2 ^ field 2 8) ∧
      ∀ xs : List Nat, xs.length = dims.length → (∀ e ∈ xs.zip dims, e.1 < e.2) →
        c.Moves (ss (field 0 8)) (ds (field 0 8)) (field 8 64 + strideSum (side 0xA0) xs)
          (field 0x10 64 + strideSum (side 0x110) xs) (2 ^ field 2 8)) ∧
  (∀ f s k, Ready (.tcpy f) s k → s.copyRoom k.wg.core = false → WaitsAt (.tcpy f) s k) ∧
  (∀ f s k, Ready (.kick f) s k → (s.core k.wg.core).kick = none →
    let l := lane0 k.x.active
    let o := (k.src s l f.lit .n32 f.a).toNat % 2 ^ 24
    let n := (k.src s l f.lit .n32 f.b).toNat
    0 < n → n ≤ 256 → o % 32 = 0 → o < 0x80000 → o + 32 * n ≤ k.wg.segs * 4096 →
    Acts (.kick f) s k (fun t => s.SameStore t) fun t => .kickRecordStart k.wg.core ∈ t.agenda ∧
      (t.wave? k.w).map Wave.seqno = some (k.x.seqno + 1) ∧
      ∃ q, (t.core k.wg.core).kick = some q ∧ q.off = o ∧ q.n = n ∧ q.next = 0 ∧ q.wave = k.w ∧ q.seq = k.x.seqno) ∧
  (∀ f s k, Ready (.kick f) s k → (s.core k.wg.core).kick.isSome = true → WaitsAt (.kick f) s k) ∧
  (∀ f s k, Ready (.cfenceDone f) s k → (∀ q, (s.core k.wg.core).kick = some q → q.wave ≠ k.w) →
    (∀ e ∈ (s.core k.wg.core).copies, e.2.wave ≠ k.w) → (∀ e ∈ (s.core k.wg.core).graphs, e.2.wave ≠ k.w) →
    Leaves (.cfenceDone f) s k fun t => Goes t k fun _ => k.after (.cfenceDone f)) ∧
  (∀ f s k, Ready (.cfenceDone f) s k → (∃ e ∈ (s.core k.wg.core).copies, e.2.wave = k.w) → WaitsAt (.cfenceDone f) s k) ∧
  (∀ f s k, Ready (.cfenceRead f) s k → (∀ q, (s.core k.wg.core).kick = some q → q.wave ≠ k.w) →
    (∀ e ∈ (s.core k.wg.core).copies, e.2.wave = k.w → e.2.pieces = []) →
    (∀ e ∈ (s.core k.wg.core).graphs, e.2.wave = k.w → ∀ n ∈ e.2.nodes, n.kind = 1 ∨ n.kind = 2 → 2 ≤ n.st ∨ n.ended = true) →
    Leaves (.cfenceRead f) s k fun t => Goes t k fun _ => k.after (.cfenceRead f)) ∧
  (∀ f s k, Ready (.cfenceRead f) s k → (∃ e ∈ (s.core k.wg.core).copies, e.2.wave = k.w ∧ e.2.pieces ≠ []) →
    WaitsAt (.cfenceRead f) s k)

/-- 13 R275, R282, R284, R286, 17 R359: a transfer into scratchpad writes the bytes it read at its receiver, and no other byte, and
the copy goes on with what is left; one into memory writes the bytes at its destination; a copy with nothing left retires; the kick
register starts the next record's copy; a frame with a good check sequence joins its port's queue, and another is dropped and
counted. What is due stands in the model's agenda (log 1). -/
def Obligations.CopiesProceed : Prop :=
  let plain (s : State) (core id : Nat) (c : Copy) (p : Piece) (r : List Piece) : Prop :=
    Table.look (s.core core).copies id = some c ∧ c.page = none ∧ c.pieces = p :: r ∧ c.port = none ∧ c.sent = none ∧ c.bar = none ∧
    c.slot = none ∧ s.canonical = true ∧ s.inFlight = 0
  let rest (t : State) (core id : Nat) (r : List Piece) : Prop :=
    (Table.look (t.core core).copies id).map Copy.pieces = some r ∧ .copyTransfer core id ∈ t.agenda
  (∀ core id s c p r w bs s1 d, plain s core id c p r → p.dspace = 1 → p.rcv = [w] →
    s.pieceRead core id c p = (.ok bs, s1) → s1.scratchDest c.mcast p = (.ok [d], s1) → s1.canonical = true →
    Happens (.copyTransfer core id) s fun t => (∀ a, t.byte a = s1.byte a) ∧ s1.PadWrites t (d.zip bs) ∧ rest t core id r ∧
      (c.noEmpty = false → ∀ l ∈ s1.pieceLines p, l.2 < 4096 → l ∉ r.flatMap s1.pieceLines → l ∉ c.missed →
        (t.core l.1).lines.getLsbD l.2 = true)) ∧
  (∀ core id s c p r bs s1 q s2, plain s core id c p r → p.dspace = 0 → s.pieceRead core id c p = (.ok bs, s1) →
    s1.copyDest core id c p = (.ok q, s2) → q.repl = false → (isHostAddr q.pa = true → s2.takesLine (chipOfCore core) (q.pa / 64) = true) → s2.canonical = true → bs.length = q.len →
    ((blocksOf ((List.range q.len).map fun i => (q.pa + i, 0))).all fun b => s2.tagFails (64 * b) (leafBuf q.leaf) = false) = true →
    Happens (.copyTransfer core id) s fun t => (∀ c a, t.padByte c a = s2.padByte c a) ∧ rest t core id r ∧
      ∀ a, t.byte a = if q.pa ≤ a ∧ a < q.pa + q.len then bs.getD (a - q.pa) 0 else s2.byte a) ∧
  (∀ core id s c, Table.look (s.core core).copies id = some c → c.page = none → c.pieces = [] → c.port = none → c.node = none →
    Happens (.copyTransfer core id) s fun t => s.SameStore t ∧ Table.look (t.core core).copies id = none) ∧
  (∀ core s q x g cs, (s.core core).kick = some q → s.party q.wg = some (x, g) → s.scratchBytes g x (q.off + 32 * q.next) 32 = some cs →
    s.copyRoom core = true → s.inT cs = false → (scratchLines cs).all s.lineFull = true →
    let d := natOfBytes (cs.map fun b => s.padByte b.1 b.2)
    let field (off n : Nat) : Nat := d / 2 ^ (8 * off) % 2 ^ n
    field 0 8 < 4 → field 4 32 ≤ 65536 → field 1 8 < 2 → field 0x1C 32 = 0 → field 0x18 32 = 2 ^ 32 - 1 →
    Happens (.kickRecordStart core) s fun t => s.SameBytes t ∧ .copyTransfer core s.serial ∈ t.agenda ∧
      ((t.core core).kick.map fun y => y.next) = (if q.next + 1 = q.n then none else some (q.next + 1)) ∧
      ∃ c, Table.look (t.core core).copies s.serial = some c ∧ c.bar = none ∧ c.seq = q.seq ∧ c.wave = q.wave ∧
        (c.pieces.map Piece.len).sum = field 4 32 ∧
        c.Moves (if field 0 8 = 0 ∨ field 0 8 = 2 then 0 else 1) (if field 0 8 = 1 ∨ field 0 8 = 2 then 0 else 1)
          (field 8 64) (field 0x10 64) (field 4 32)) ∧
  (∀ port body s, s.portUp port = true →
    let q := Table.at (s.chip (chipOfPort port)).ethRx port []
    (q.map List.length).sum + body.length ≤ 2 ^ 22 →
    Happens (.ethFrameRx port (body ++ bytesOfNat 4 (crc32 body).toNat)) s fun t => s.SameStore t ∧
      Table.at (t.chip (chipOfPort port)).ethRx port [] = q ++ [body]) ∧
  (∀ port body fcs s, s.portUp port = true → fcs.length = 4 → fcs ≠ bytesOfNat 4 (crc32 body).toNat →
    Happens (.ethFrameRx port (body ++ fcs)) s fun t =>
      (t.chip (chipOfPort port)).ethRx = (s.chip (chipOfPort port)).ethRx ∧
      (t.chip (chipOfPort port)).ethDropped = (s.chip (chipOfPort port)).ethDropped + 1)

/-- 13 R289, 20 R420, R421: `GSUB` submits the nodes it could read, those of PCNT 0 to be launched; a node whose work has ended is
complete, its STAT written at its home; a graph whose nodes have all ended ends. What is due stands in the model's agenda (log 1).
-/
def Obligations.DependenceGraphs : Prop :=
  (∀ f s k ns s1 s2, Ready (.gsub f) s k → (s.core k.wg.core).graphs.length < 16 → f.aux.getLsbD 0 = true → s.inFlight = 0 →
    let c0 := k.begun (.gsub f) s
    let l := lane0 k.x.active
    let g := (k.src s l f.lit .n64 f.a).setWidth 64
    let n := (k.src s l f.lit .n32 f.b).toNat
    0 < n → n ≤ 65536 → g.toNat % 64 = 0 → readNodes k.xctx k.chip n g (List.range n) c0 = (.all ns, s1) →
    (ns.all fun z => z.code = 0 ∧ z.st = 0 ∧ z.pa.isSome) = true →
    ((s1.core k.wg.core).wq.any fun e => e.2.wave = k.w && !e.2.repl &&
      (ns.filterMap GNode.pa).any fun pa => decide (pa / 64 = e.2.block)) = false →
    s1.nodesReady k.wg.core (2 ^ 40 + k.w) (ns.filterMap GNode.pa) = (true, s2) → s2.canonical = true →
    Acts (.gsub f) s k (fun t => ∀ c a, t.padByte c a = s2.padByte c a) fun t =>
      .graphNodeRetire k.wg.core s2.serial 0 ∈ t.agenda ∧ (t.wave? k.w).map Wave.seqno = some (k.x.seqno + 1) ∧
      ∃ q, Table.look (t.core k.wg.core).graphs s2.serial = some q ∧ q.nodes = ns ∧ q.wave = k.w ∧ q.seq = k.x.seqno ∧
        ∀ i, i ∈ q.queue ↔ ∃ z pa, ns[i]? = some z ∧ z.pa = some pa ∧ Memory.readLe t.mem (pa + 4) 4 = 0) ∧
  (∀ core id i s q z s1, Table.look (s.core core).graphs id = some q → q.nodes[i]? = some z → z.ended = true → z.st = 1 → z.code = 0 →
    z.succ = [] → q.queue = [] → (∃ j y, j ≠ i ∧ q.nodes[j]? = some y ∧ y.st < 2) → s.nodesReady core id z.pa.toList = (true, s1) →
    (∀ pa, z.pa = some pa → isHostAddr pa = true ∨ s1.tagFails (pa / 64 * 64) z.buf = false) → s1.canonical = true →
    Happens (.graphNodeRetire core id i) s fun t => (∀ c a, t.padByte c a = s1.padByte c a) ∧
      (((Table.look (t.core core).graphs id).bind fun p => p.nodes[i]?).map fun y => (y.st, y.ended)) = some (2, false) ∧
      ∀ pa, z.pa = some pa → t.byte (pa + 2) = 2 ∧ ∀ a, a ≠ pa + 2 → (a < pa + 0x24 ∨ pa + 0x28 ≤ a) → t.byte a = s1.byte a) ∧
  (∀ core id i s q, Table.look (s.core core).graphs id = some q → (∀ z ∈ q.nodes, 2 ≤ z.st) → q.bar = none → q.fault = none →
    q.queue = [] →
    Happens (.graphNodeRetire core id i) s fun t => s.SameStore t ∧ Table.look (t.core core).graphs id = none)

/-! ### Barriers and tokens -/

/-- 13 R283 to R287, 18 R382 to R384, 20 R439: `BARI` and `BARA` update the object's fields and no other byte; `BARW` and `BART`
answer its status, `BARW` once PH differs; `LEMP` empties its lines; `LWT` waits until its lines are full. -/
def Obligations.BarrierObjects : Prop :=
  let pend (w : Nat) : Nat := w % 2 ^ 36
  let arr (w : Nat) : Nat := w / 2 ^ 36 % 2 ^ 12
  let ph (w : Nat) : Bool := w.testBit 48
  let flt (w : Nat) : Bool := w.testBit 49
  let val (w : Nat) : Bool := w.testBit 50
  let usable (i : Instr) (f : ExtArgs) (s : State) (k : Who) (write : Bool) (b : Nat × Nat) : Prop :=
    Ready i s k ∧ s.barNamed k f k.x.active write = .ok b ∧ s.lostSeg [b] = false ∧ s.inT [b] = false ∧ s.canonical = true
  let others (s t : State) (b : Nat × Nat) : Prop :=
    (∀ a, t.byte a = s.byte a) ∧ (∀ c a, t.replByte c a = s.replByte c a) ∧
    ∀ c a, (c = b.1 → a < b.2 ∨ b.2 + 16 ≤ a) → t.padByte c a = s.padByte c a
  let status (w : Nat) : Quad := BitVec.ofNat 128 ((ph w).toNat + 2 * (flt w).toNat + 4 * (val w).toNat)
  let lanes (i : Instr) (f : ExtArgs) (s : State) (k : Who) (bs : List (Nat × Nat)) : Prop :=
    Ready i s k ∧ bs = (s.rangeLanes k f k.x.active false).flatMap ScLane.bytes ∧
    ((s.rangeLanes k f k.x.active false).all fun e => e.bad.isNone) = true
  (∀ f s k b, usable (.bari f) f s k true b →
    let l := lane0 k.x.active
    let n := (k.src s l f.lit .n64 f.b).toNat % 2 ^ 36
    let m := (k.src s l f.lit .n32 f.c).toNat % 2 ^ 12
    let w := (s.barWords b).1
    Acts (.bari f) s k (fun t => others s t b ∧ (t.barWords b).2 = 0 ∧
      let u := (t.barWords b).1
      pend u = n ∧ arr u = m ∧ flt u = false ∧ u / 2 ^ 51 = w / 2 ^ 51 ∧
      if n = 0 ∧ m = 0 then ph u = !(ph w) ∧ val u = false else ph u = ph w ∧ val u = true)
      fun t => Goes t k fun _ => k.after (.bari f)) ∧
  (∀ f s k b s1, usable (.bara f) f s k true b → (k.begun (.bara f) s).releaseWait k .gn 0 = (true, s1) →
    let n := ((k.src s (lane0 k.x.active) f.lit .n64 f.b).setWidth 36).toInt
    let w := (s.barWords b).1
    Acts (.bara f) s k (fun t => others s t b ∧ (t.barWords b).2 = (s.barWords b).2 ∧
      let u := (t.barWords b).1
      (pend u : Int) = ((pend w : Int) + n) % 2 ^ 36 ∧ (arr u : Int) = ((arr w : Int) - 1) % 2 ^ 12 ∧ flt u = flt w ∧
      if val w = true ∧ pend u = 0 ∧ arr u = 0 then ph u = !(ph w) ∧ val u = false else ph u = ph w ∧ val u = val w)
      fun t => Goes t k fun _ => k.after (.bara f)) ∧
  (∀ f s k b, usable (.barw f) f s k false b →
    ph (s.barWords b).1 ≠ (k.src s (lane0 k.x.active) f.lit .n32 f.b).getLsbD 0 →
    Computes (.barw f) s k f.d .w32 fun _ => .write (status (s.barWords b).1) 0) ∧
  (∀ f s k b, usable (.barw f) f s k false b →
    ph (s.barWords b).1 = (k.src s (lane0 k.x.active) f.lit .n32 f.b).getLsbD 0 → WaitsAt (.barw f) s k) ∧
  (∀ f s k b, usable (.bart f) f s k false b →
    Computes (.bart f) s k f.d .w32 fun _ => .write (status (s.barWords b).1) 0) ∧
  (∀ f s k bs, lanes (.lemp f) f s k bs → ((segsOf bs).all fun e => (s.seg e.1 e.2).st = .i) = true →
    Acts (.lemp f) s k (fun t => s.SameBytes t ∧ ∀ c n, n < 4096 → (t.core c).lines.getLsbD n =
      ((s.core c).lines.getLsbD n && !(scratchLines bs).contains (c, n))) fun t => Goes t k fun _ => k.after (.lemp f)) ∧
  (∀ f s k bs, lanes (.lwt f) f s k bs → ((s.rangeLanes k f k.x.active false).all fun e => !s.lostSeg e.bytes) = true →
    s.inT bs = false → s.padFirst k bs = false → (scratchLines bs).all s.lineFull = true →
    Leaves (.lwt f) s k fun t => Goes t k fun _ => k.after (.lwt f)) ∧
  (∀ f s k bs, lanes (.lwt f) f s k bs → ((s.rangeLanes k f k.x.active false).all fun e => !s.lostSeg e.bytes) = true →
    s.inT bs = false → (scratchLines bs).all s.lineFull = false → WaitsAt (.lwt f) s k)

/-- 18 R381, 20 R418, 16 R333, R334: at `BAR` and `GBAR`, their waits over, the group blocks and the wave is counted once; with the
last live wave the phase completes and every blocked thread goes on; `GBAR` drops what its signatures name. In an ordered launch
`TOKW` ends at the holder, `TOKP` passes the token on, and one without it traps. -/
def Obligations.GroupBarriers : Prop :=
  let blocked (t : State) (k : Who) (i : WaitIn) : Prop :=
    ∀ l ∈ k.x.group, (t.lane k.w l).st = .waiting ∧ (t.lane k.w l).wait = some i ∧ (t.lane k.w l).pc = k.x.issuePc.getD 0
  let woken (s t : State) (ws : List Nat) (i : WaitIn) : Prop :=
    ∀ w ∈ ws, ∀ l, (s.lane w l).st = .waiting → (s.lane w l).wait = some i →
      (t.lane w l).st ≠ .waiting ∧ (t.lane w l).pc = (s.lane w l).pc + 4 ∧ (t.lane w l).restart.pc = (s.lane w l).pc + 4
  let away (k : Who) (l : L1Line) : Prop := isHostAddr (l.pline * 128) = true ∨ stackOf (l.pline * 128) ≠ clusterOfCore k.wg.core
  let order (i : Instr) (s : State) (k : Who) : Prop :=
    ∃ t, exec i s = .next t ∧ s.SameStore t ∧ (t.wave? k.w).map Wave.trapcause = some 0x13
  (∀ s k s1, Ready .bar s k → (k.begun .bar s).releaseWait k .wg 0 = (true, s1) →
    let n := k.wg.arr + if k.x.arrived then 0 else 1
    (n < (s.liveWaves k.wg.waves).length → Leaves .bar s k fun t => blocked t k .bar ∧
      (t.wg? k.x.wg).map Workgroup.arr = some n ∧ (t.wave? k.w).map Wave.arrived = some true) ∧
    (0 < n → (s.liveWaves k.wg.waves).length ≤ n → k.w ∈ k.wg.waves → Leaves .bar s k fun t => woken s t k.wg.waves .bar ∧
      (t.wg? k.x.wg).map Workgroup.arr = some 0 ∧
      ∀ l ∈ k.x.group, (t.lane k.w l).pc = k.after .bar ∧ (t.lane k.w l).st ≠ .waiting)) ∧
  (∀ s k s1, Ready .gbar s k → (k.begun .gbar s).releaseWait k .gn 0 = (true, s1) →
    let n := k.g.arr + if k.x.garrived then 0 else 1
    let ws := s.gangWaves k.g
    (n < (s.liveWaves ws).length → Leaves .gbar s k fun t => blocked t k .gbar ∧
      (t.gang? k.wg.gang).map (fun g => (g.arr, g.sigs)) = some (n, k.g.sigs ||| (s.core k.wg.core).allSigs)) ∧
    (0 < n → (s.liveWaves ws).length ≤ n → k.w ∈ ws → k.x.wg ∈ k.g.wgs → Leaves .gbar s k fun t => woken s t ws .gbar ∧
      (t.gang? k.wg.gang).map (fun g => (g.arr, g.sigs)) = some (0, 0) ∧
      (∀ l ∈ k.x.group, (t.lane k.w l).pc = k.after .gbar ∧ (t.lane k.w l).st ≠ .waiting) ∧
      ∀ l ∈ (t.core k.wg.core).l1, away k l →
        (k.g.sigs ||| (s.core k.wg.core).allSigs).getLsbD (sigBit (l.pline * 128)) = false)) ∧
  (∀ s k, Ready .tokw s k → k.g.ordered = false → Leaves .tokw s k fun t => Goes t k fun _ => k.after .tokw) ∧
  (∀ s k, Ready .tokw s k → k.g.ordered = true → k.x.tokPassed = false → s.holdsToken k.w = true →
    Leaves .tokw s k fun t => (Goes t k fun _ => k.after .tokw) ∧ ∀ l ∈ (t.core k.wg.core).l1, ¬ away k l) ∧
  (∀ s k, Ready .tokw s k → k.g.ordered = true → k.x.tokPassed = false → s.holdsToken k.w = false → WaitsAt .tokw s k) ∧
  (∀ s k, Ready .tokw s k → k.g.ordered = true → k.x.tokPassed = true → CanTrap s k → order .tokw s k) ∧
  (∀ s k, Ready .tokp s k → k.g.ordered = false → Leaves .tokp s k fun t => Goes t k fun _ => k.after .tokp) ∧
  (∀ s k s1, Ready .tokp s k → k.g.ordered = true → (k.begun .tokp s).holdsToken k.w = true →
    (k.begun .tokp s).releaseWait k .pk 0 = (true, s1) →
    s1.sharedLeft k.wg.core k.w = false →
    Leaves .tokp s k fun t => (Goes t k fun _ => k.after .tokp) ∧ (t.wave? k.w).map Wave.tokPassed = some true) ∧
  (∀ s k, Ready .tokp s k → k.g.ordered = true → (k.begun .tokp s).holdsToken k.w = false → CanTrap s k → order .tokp s k)

/-! ### Operand and accumulator slots -/

/-- 14 R293, R295, R296, 18 R369, R370, 21 R453, R454: `OCLM` and `ACLM` claim the lowest free run, or answer all ones; `OREL` and
`AREL` release what no task or stream names; `OFILL` starts a copy to or from the slot, once a ring it belongs to has it free; `OPF`
ends once the wave's fills are done. -/
def Obligations.SlotClaims : Prop :=
  let num (s : State) (k : Who) (f : ExtArgs) (o : Opd) : Nat := (k.src s (lane0 k.x.active) f.lit .n32 o).toNat
  let cl (k : Who) : Nat := clusterOfCore k.wg.core
  let claimed (t : State) (k : Who) (o a : List Nat) : Prop := (t.wg? k.x.wg).map (fun x => (x.oclaim, x.aclaim)) = some (o, a)
  let addr (s : State) (k : Who) (f : ExtArgs) (o : Opd) : Nat :=
    if f.md = 0 ∨ f.md = 2 then (k.src s (lane0 k.x.active) f.lit .n64 o).toNat else num s k f o % 2 ^ 24
  let space (f : ExtArgs) : Nat := if f.md = 0 ∨ f.md = 2 then 0 else 1
  let fill (i : Instr) (f : ExtArgs) (s : State) (k : Who) (p : Nat) : Prop :=
    Ready i s k ∧ k.wg.oslot (num s k f f.a) = some p ∧ addr s k f f.b % 64 = 0 ∧ (f.c ≠ .zero → addr s k f f.c % 2 = 0) ∧
    s.copyRoom k.wg.core = true
  let ringBusy (s : State) (k : Who) (f : ExtArgs) : Bool :=
    (s.cluster (cl k)).streams.any fun r => r.wg = k.x.wg && r.busy (num s k f f.a)
  (∀ f s k a, Ready (.oclm f) s k → 1 ≤ num s k f f.a → num s k f f.a ≤ 64 →
    LowestRun k.wg.oslots.length (num s k f f.a) k.wg.oclaim a →
    Answers (.oclm f) s k f.d (BitVec.ofNat 128 a) fun t => s.SameBytes t ∧
      claimed t k (k.wg.oclaim ++ (List.range (num s k f f.a)).map (a + ·)) k.wg.aclaim) ∧
  (∀ f s k, Ready (.oclm f) s k → 1 ≤ num s k f f.a → num s k f f.a ≤ 64 →
    (∀ a, ¬ LowestRun k.wg.oslots.length (num s k f f.a) k.wg.oclaim a) →
    Computes (.oclm f) s k f.d .w32 fun _ => .write (2 ^ 32 - 1) 0) ∧
  (∀ f s k a, Ready (.aclm f) s k → 1 ≤ num s k f f.a → num s k f f.a ≤ 16 →
    LowestRun k.wg.aslots.length (num s k f f.a) k.wg.aclaim a →
    Answers (.aclm f) s k f.d (BitVec.ofNat 128 a) fun t => s.SameBytes t ∧
      claimed t k k.wg.oclaim (k.wg.aclaim ++ (List.range (num s k f f.a)).map (a + ·)) ∧
      ∀ i p, i < num s k f f.a → k.wg.aslots[a + i]? = some p → (t.aslot (cl k) p).mode = none) ∧
  (∀ f s k, Ready (.aclm f) s k → 1 ≤ num s k f f.a → num s k f f.a ≤ 16 →
    (∀ a, ¬ LowestRun k.wg.aslots.length (num s k f f.a) k.wg.aclaim a) →
    Computes (.aclm f) s k f.d .w32 fun _ => .write (2 ^ 32 - 1) 0) ∧
  (∀ f s k, Ready (.orel f) s k → 1 ≤ num s k f f.b → num s k f f.b ≤ 64 → num s k f f.a + num s k f f.b ≤ k.wg.oslots.length →
    (∀ i, i < num s k f f.b → num s k f f.a + i ∈ k.wg.oclaim) →
    (∀ i, i < num s k f f.b → num s k f f.a + i ∉ ((s.cluster (cl k)).tasksOf k.x.wg).flatMap Task.sources ∧
      num s k f f.a + i ∉ (s.cluster (cl k)).ringSlots k.x.wg) →
    Leaves (.orel f) s k fun t => (Goes t k fun _ => k.after (.orel f)) ∧
      claimed t k (k.wg.oclaim.filter fun n => n < num s k f f.a ∨ num s k f f.a + num s k f f.b ≤ n) k.wg.aclaim) ∧
  (∀ f s k, Ready (.arel f) s k → 1 ≤ num s k f f.b → num s k f f.b ≤ 16 → num s k f f.a + num s k f f.b ≤ k.wg.aslots.length →
    (∀ i, i < num s k f f.b → num s k f f.a + i ∈ k.wg.aclaim) →
    (∀ i, i < num s k f f.b → num s k f f.a + i ∉ ((s.cluster (cl k)).tasksOf k.x.wg).map Task.cslot) →
    Acts (.arel f) s k (fun t => s.SameBytes t ∧
      claimed t k k.wg.oclaim (k.wg.aclaim.filter fun n => n < num s k f f.a ∨ num s k f f.a + num s k f f.b ≤ n))
      fun t => Goes t k fun _ => k.after (.arel f)) ∧
  (∀ f s k p, fill (.ofill f) f s k p → f.md = 0 ∨ f.md = 1 → ringBusy s k f = false →
    Acts (.ofill f) s k (fun t => s.SameBytes t) fun t => Started t k s.serial fun c => c.fill = true ∧
      c.Moves (space f) 2 (addr s k f f.b) (4096 * p) 4096 ∧
      if f.c = .zero then c.Moves 5 3 0 (128 * p) 128 ∧
          c.held = some ((List.replicate 64 (bytesOfNat 2 (f.x18.toNat % 2 ^ 16))).flatten)
        else c.Moves (space f) 3 (addr s k f f.c) (128 * p) 128) ∧
  (∀ f s k p, fill (.ofill f) f s k p → f.md = 0 ∨ f.md = 1 → ringBusy s k f = true → WaitsAt (.ofill f) s k) ∧
  (∀ f s k p, fill (.ofillOut f) f s k p → f.md = 2 ∨ f.md = 3 → ringBusy s k f = true → WaitsAt (.ofillOut f) s k) ∧
  (∀ f s k p, fill (.ofillOut f) f s k p → f.md = 2 ∨ f.md = 3 → ringBusy s k f = false → k.wg.hotOp (num s k f f.a) = false →
    Acts (.ofillOut f) s k (fun t => s.SameBytes t) fun t => Started t k s.serial fun c => c.fill = false ∧
      c.Moves 2 (space f) (4096 * p) (addr s k f f.b) 4096 ∧
      (f.c ≠ .zero → c.Moves 3 (space f) (128 * p) (addr s k f f.c) 128)) ∧
  (∀ s k s1, Ready .opf s k → (k.begun .opf s).opfWait k = (true, s1) → Leaves .opf s k fun t => (Goes t k fun _ => k.after .opf) ∧
    (t.wg? k.x.wg).map Workgroup.fills = some (k.wg.fills.filter fun e => e.1 ≠ k.w))

/-- 14 R304, R305, 21 R454: the stream instructions answer the lowest status that applies, and on status 0 open, post to or close
the stream; `OSUB` answers the lowest free handle of the workgroup, or all ones; `OSUB.drop` ends a subscription. -/
def Obligations.Streams : Prop :=
  let num (s : State) (k : Who) (f : ExtArgs) (o : Opd) : Nat := (k.src s (lane0 k.x.active) f.lit .n32 o).toNat
  let cl (k : Who) : Nat := clusterOfCore k.wg.core
  let name (s : State) (k : Who) (f : ExtArgs) : Nat := num s k f f.a % 2 ^ 16
  let named (s : State) (k : Who) (f : ExtArgs) : Option Stream := (s.cluster (cl k)).stream (name s k f)
  (∀ f s k, Ready (.ostrOpen f) s k →
    let first := num s k f f.b % 2 ^ 12
    let len := num s k f f.b / 2 ^ 16 % 2 ^ 7
    let old := (s.cluster (cl k)).streams
    let st := if (named s k f).isSome then 1 else if 64 ≤ old.length then 2
      else if len = 0 ∨ 64 < len ∨ (∃ i, i < len ∧ first + i ∉ k.wg.oclaim) then 4 else 0
    Answers (.ostrOpen f) s k f.d (BitVec.ofNat 128 st) fun t => s.SameStore t ∧ (t.cluster (cl k)).streams =
      if st = 0 then old ++ [{ name := name s k f, wg := k.x.wg, first, len, posted := 0, closed := false, subs := [] }] else old) ∧
  (∀ f s k s1, Ready (.ostrPost f) s k → (k.begun (.ostrPost f) s).opfWait k = (true, s1) →
    let n := num s k f f.b
    (∀ r, named s k f = some r → r.closed = false → r.wg = k.x.wg → 1 ≤ n → n ≤ 64 →
      ((∀ u ∈ r.subs, r.posted + n ≤ u.consumed + r.len) →
        Answers (.ostrPost f) s k f.d 0 fun t => s.SameStore t ∧ ((t.cluster (cl k)).stream (name s k f)).map Stream.posted = some (r.posted + n)) ∧
      ((∃ u ∈ r.subs, u.consumed + r.len < r.posted + n) → WaitsAt (.ostrPost f) s k)) ∧
    (named s k f = none → Answers (.ostrPost f) s k f.d 1 fun t => s.SameStore t) ∧
    (∀ r, named s k f = some r → r.closed = false → r.wg ≠ k.x.wg → Answers (.ostrPost f) s k f.d 3 fun t => s.SameStore t) ∧
    (∀ r, named s k f = some r → r.closed = false → r.wg = k.x.wg → n = 0 ∨ 64 < n →
      Answers (.ostrPost f) s k f.d 4 fun t => s.SameStore t)) ∧
  (∀ f s k, Ready (.ostrClose f) s k →
    let st := match named s k f with
      | none => 1
      | some r => if r.wg = k.x.wg then 0 else 3
    Answers (.ostrClose f) s k f.d (BitVec.ofNat 128 st) fun t => s.SameStore t ∧
      (st = 0 → ∀ r, (t.cluster (cl k)).stream (name s k f) = some r → r.closed = true)) ∧
  (∀ f s k h, Ready (.osub f) s k → h < 8 → (s.cluster (cl k)).subOf k.x.wg h = none →
    (∀ g, g < h → ((s.cluster (cl k)).subOf k.x.wg g).isSome = true) → ∀ r, named s k f = some r → r.over = false → r.subs.length < 16 →
    Answers (.osub f) s k f.d (BitVec.ofNat 128 h) fun t => s.SameStore t ∧ ∃ q, (t.cluster (cl k)).stream (name s k f) = some q ∧
      ∃ u ∈ q.subs, u.wg = k.x.wg ∧ u.handle = h ∧ u.reserved = r.posted ∧ u.consumed = r.posted) ∧
  (∀ f s k, Ready (.osub f) s k →
    named s k f = none ∨ (∀ g, g < 8 → ((s.cluster (cl k)).subOf k.x.wg g).isSome = true) ∨
      (∃ r, named s k f = some r ∧ 16 ≤ r.subs.length) →
    Computes (.osub f) s k f.d .w32 fun _ => .write (2 ^ 32 - 1) 0) ∧
  (∀ f s k r u, Ready (.osubDrop f) s k → (s.cluster (cl k)).subOf k.x.wg (num s k f f.a) = some (r, u) →
    Leaves (.osubDrop f) s k fun t => (Goes t k fun _ => k.after (.osubDrop f)) ∧
      ∀ q ∈ (t.cluster (cl k)).streams, ∀ v ∈ q.subs, v.id ≠ u.id) ∧
  (∀ f s k, Ready (.osubDrop f) s k → (s.cluster (cl k)).subOf k.x.wg (num s k f f.a) = none →
    Leaves (.osubDrop f) s k fun t => Goes t k fun _ => k.after (.osubDrop f))

/-- 14 R302, R303, 18 R371 to R374, Table 14.4: `AINI` sets every element of a claimed slot to v·2^80, or to the binary128 value of
v; `ALD` delivers the element of a set slot as it lies, rounded to a type, or the slot's status. Slots that a task may be writing
are shut out (log 4). -/
def Obligations.Accumulators : Prop :=
  let cl (k : Who) : Nat := clusterOfCore k.wg.core
  let slot (s : State) (k : Who) (f : ExtArgs) (l : Nat) : Option Nat := k.wg.aslot (k.src s l f.lit .n32 f.a).toNat
  (∀ f s k, Ready (.aini f) s k → k.wg.hot = [] → (k.x.active.all fun l => (slot s k f l).isSome) = true →
    Acts (.aini f) s k (fun t => s.SameBytes t ∧ ∀ l p, l ∈ k.x.active → slot s k f l = some p →
      (∀ m ∈ k.x.active, l < m → slot s k f m ≠ some p) →
      let a := t.aslot (cl k) p
      a.mode = some (if f.md = 1 then .wide else .exact) ∧ a.mask = 0 ∧ a.nx = false ∧ a.nv = false ∧ ∀ i,
        if f.md = 1 then
          let x := k.float s l f.lit .f32 f.b
          let y := fmtQuad.read (a.elem i).toNat
          y.isNan = x.isNan ∧ y.isInf = x.isInf ∧ y.rat = x.rat ∧ (x.isNan = false → y.sign = x.sign)
        else (a.elem i).toInt = k.num s l f.lit .i32 f.b * 2 ^ 80) fun t => Goes t k fun _ => k.after (.aini f)) ∧
  (∀ f s k, Ready (.ald f) s k → k.wg.hot = [] →
    (k.x.active.all fun l => ((slot s k f l).map fun p => (s.aslot (cl k) p).mode.isSome).getD false) = true →
    ∃ r : Nat → Quad × Word, Delivers (.ald f) s k f.d (if f.ty = .b128 then .w128 else .w32) (fun l => fpOut k.g.mode (r l)) ∧
      ∀ l ∈ k.x.active, ∀ p, slot s k f l = some p →
        let a := s.aslot (cl k) p
        let i := (k.src s l f.lit .n32 f.b).toNat % 1024
        let x : Machine.Num := if a.mode = some .wide then fmtQuad.read (a.elem i).toNat
          else if a.mask.getLsbD i then .nan false
          else .fin (decide ((a.elem i).toInt < 0)) (a.elem i).toInt.natAbs (-80)
        if f.md = 1 then r l = (BitVec.ofNat 128
            (a.nx.toNat + 2 * a.nv.toNat + 4 * (decide (a.mode = some .wide)).toNat + 8 * (a.mask.getLsbD i).toNat), 0)
        else if f.ty = .b128 then r l = (a.elem i, 0)
        else if f.ty = .i32 then ∃ v, r l = (f.ty.narrow v, (r l).2) ∧ (x.isSig = false → IntegerOf .i32 (k.mode l f.rm) x v (r l).2)
        else x.isSig = false → ∃ c, r l = (BitVec.ofNat 128 c, (r l).2) ∧
          ConvertedTo (fmtOf f.ty) (k.mode l f.rm) x (c, (r l).2))

/-- 14 R298 to R301, R306, R307, 20 R425, 22 R498: `TTSK` creates a task of the record, or joins the one that gathers, and answers
its identifier; `TWAIT` answers the status of the tasks it names once they have ended; `HNDW` ends where its word equals i; `HNDP`
queues an exchange to i + 1. What is due stands in the model's agenda (log 1). -/
def Obligations.TileTasks : Prop :=
  let cl (k : Who) : Nat := clusterOfCore k.wg.core
  let off (s : State) (k : Who) (f : ExtArgs) : Nat := (k.src s (lane0 k.x.active) f.lit .n32 f.a).toNat
  let task (t : State) (k : Who) (id : Nat) : Option Task := Table.look (t.cluster (cl k)).tasks id
  let free (k : Who) : Prop := recording k.g.mode = false ∧ replaying k.g.mode = false
  let va (s : State) (k : Who) (f : ExtArgs) : DWord := (k.src s (lane0 k.x.active) f.lit .n64 f.a).setWidth 64
  let word (s : State) (k : Who) (f : ExtArgs) : Word := (k.src s (lane0 k.x.active) f.lit .n32 f.b).setWidth 32
  (∀ f s k cs, Ready (.ttsk f) s k → free k → off s k f % 64 = 0 → off s k f < 0x80000 →
    s.scratchBytes k.g k.wg (off s k f) 64 = some cs → (s.cluster (cl k)).gathering k.x.wg (off s k f) = none →
    (s.cluster (cl k)).queued < 512 → s.lostSeg cs = false → s.inT cs = false → (scratchLines cs).all s.lineFull = true →
    let record := natOfBytes (cs.map fun b => s.padByte b.1 b.2)
    let join := record / 2 ^ 24 % 2 ^ 8
    let id := (s.cluster (cl k)).nextTask
    (s.cluster (cl k)).malformed k.x.wg k.wg record = false →
    Answers (.ttsk f) s k f.d (BitVec.ofNat 128 id) fun t => s.SameBytes t ∧
      (t.wave? k.w).map Wave.seqno = some (k.x.seqno + 1) ∧ (t.cluster (cl k)).nextTask = (if id + 1 = 2 ^ 28 then 1 else id + 1) ∧
      ∃ u, task t k id = some u ∧ u.record.toNat = record ∧ u.wave = k.w ∧
        if join = 1 then u.st = .accepted ∧ .taskDispatch (cl k) ∈ t.agenda else u.st = .gathering ∧ u.left = join - 1) ∧
  (∀ f s k cs id u, Ready (.ttsk f) s k → free k → off s k f % 64 = 0 → off s k f < 0x80000 →
    s.scratchBytes k.g k.wg (off s k f) 64 = some cs → (s.cluster (cl k)).gathering k.x.wg (off s k f) = some (id, u) →
    task s k id = some u → u.bad = false → s.wg? u.wg = some k.wg → k.wg.lost u = none →
    Answers (.ttsk f) s k f.d (BitVec.ofNat 128 id) fun t => s.SameBytes t ∧ (t.wave? k.w).map Wave.seqno = some (k.x.seqno + 1) ∧
      ∃ v, task t k id = some v ∧ if u.left ≤ 1 then v.st = .accepted else v.st = .gathering ∧ v.left = u.left - 1) ∧
  (∀ f s k, Ready (.twait f) s k →
    let ids := if off s k f = 0 then k.x.tasks else [off s k f]
    let status (id : Nat) : Nat := match task s k id with
      | some u => if u.st = .faulted then 3 + u.detail * 2 ^ 8 else 1
      | none => 1
    ((∀ id ∈ ids, ∀ u, task s k id = some u → u.ended = true) →
      Computes (.twait f) s k f.d .w32 fun _ => .write (BitVec.ofNat 128 (ids.foldl (fun m id => m ||| status id) 1)) 0) ∧
    ((∃ id ∈ ids, ∃ u, task s k id = some u ∧ u.ended = false) → WaitsAt (.twait f) s k)) ∧
  (∀ f s k p s1 bs s2, Ready (.hndw f) s k → s.inFlight = 0 →
    (k.begun (.hndw f) s).handWord k.xctx .read (va s k f) = (.at p, s1) →
    ((s1.core k.wg.core).wq.any fun e => e.2.wave = k.w && !e.2.repl && e.2.block = p.pa / 64) = false →
    s1.engineBytes k.chip [p] = (.ok bs, s2) →
    (natOfBytes bs % 2 ^ 32 = (word s k f).toNat → (s2.chip k.chip).dbg.schk = false →
      Acts (.hndw f) s k (fun t => s2.SameStore t) fun t => Goes t k fun _ => k.after (.hndw f)) ∧
    (natOfBytes bs % 2 ^ 32 ≠ (word s k f).toNat → ∃ t, exec (.hndw f) s = .next t ∧ t.waited = true ∧ s.SameThreads t ∧ s2.SameStore t)) ∧
  (∀ f s k p s0 s1, Ready (.hndp f) s k → k.x.pend = none → s.numbered = true → s.inFlight = 0 →
    (k.begun (.hndp f) s).releaseWait k .pk (va s k f) = (true, s0) → s0.handWord k.xctx .atomic (va s k f) = (.at p, s1) →
    (s1.core k.wg.core).entriesOf k.w + 1 ≤ 16 → (s1.core k.wg.core).wq.length + 1 ≤ 96 →
    Acts (.hndp f) s k (fun t => s1.SameStore t) fun t => ∃ e ∈ (t.core k.wg.core).wq, e.2.wave = k.w ∧ e.2.held = false ∧
      e.2.block = p.pa / 64 ∧ ∃ a ∈ e.2.atoms, a.pa = p.pa ∧ a.width = 4 ∧ ∀ old, a.modify old = some (word s k f + 1).toNat)

/-- 14 R300, R301, 07 R151, R152: TASK_DISPATCH starts the earliest accepted task that nothing holds; TILE_STEP of a task on an
exact slot adds to every element the exact products of its row and column, each truncated to a multiple of 2^−80, modulo 2^128, and
to no other slot; its last step ends it. What is due stands in the model's agenda (log 1). -/
def Obligations.TileSteps : Prop :=
  (∀ cl s id r t, (s.cluster cl).waitingTasks = id :: r → ((s.cluster cl).tasks.filter fun e => e.2.st = .running).length < 16 →
    Table.look (s.cluster cl).tasks id = some t → t.page = none → t.field 0x18 64 = 0 →
    (∀ p, p = t.field 0x10 32 ∨ p = t.field 0x14 32 → p ≠ 0 → ∀ u, Table.look (s.cluster cl).tasks p = some u → u.st = .done ∨ u.st = .dropped) →
    (∀ e ∈ (s.cluster cl).tasks, e.2.live = true → e.2.wg = t.wg → e.2.cslot = t.cslot → t.order ≤ e.2.order) →
    Happens (.taskDispatch cl) s fun u => s.SameStore u ∧ (Table.look (u.cluster cl).tasks id).map Task.st = some .running ∧
      .tileStep cl id ∈ u.agenda) ∧
  (∀ cl id s t x g pa pb c, Table.look (s.cluster cl).tasks id = some t → t.st = .running → t.page = none →
    s.party t.wg = some (x, g) → g.st ≠ .killed → t.partDone = true ∨ t.field 0x28 64 = 0 →
    (t.field 8 32).testBit 31 = false → (t.field 0xC 32).testBit 31 = false → t.aSub = none → t.bSub = none →
    let na := t.field 8 32 % 2 ^ 12 + t.step
    let nb := t.field 0xC 32 % 2 ^ 12 + t.step
    x.oslot na = some pa → x.oslot nb = some pb → na ∉ t.undef → nb ∉ t.undef → x.aslot t.cslot = some c → t.field 1 3 = 0 →
    let tile (n p : Nat) : Tile :=
      { slot := n, data := (Table.at (s.cluster cl).oslots p OSlot.empty).data, heads := (Table.at (s.cluster cl).oslots p OSlot.empty).heads }
    let old := s.aslot cl c
    headFault old.mode t.cslot [tile na pa, tile nb pb] = none →
    Happens (.tileStep cl id) s fun u => s.SameBytes u ∧ (∀ k, (u.cluster k).oslots = (s.cluster k).oslots) ∧
      (∀ k p, ¬ (k = cl ∧ p = c) → u.aslot k p = s.aslot k p) ∧
      (Table.look (u.cluster cl).tasks id).map (fun v => (v.st, v.step)) =
        some (if t.step + 1 = t.field 4 32 then (.done, t.step) else (.running, t.step + 1)) ∧
      (old.mode = some .exact → let w := headWidth ((tile na pa).head 0).1
        let a (i n : Nat) : Machine.Num := (tile na pa).elem w (if (t.field 1 8).testBit 3 then 32 * w * n + w * i else 1024 * i + w * n)
        let b (j n : Nat) : Machine.Num := (tile nb pb).elem w (if (t.field 1 8).testBit 4 then 32 * w * n + w * j else 1024 * j + w * n)
        (∀ i j n, i < 32 → j < 32 → n < 1024 / w → (a i n).isNan = false ∧ (a i n).isInf = false ∧ (b j n).isNan = false ∧ (b j n).isInf = false) →
        ∀ i j, i < 32 → j < 32 → ∃ v : Nat → Int,
          (∀ n, n < 1024 / w →
            let p : ℚ := (if t.field 0 8 = 1 then -1 else 1) * (a i n).rat * (b j n).rat
            (v n).natAbs = ⌊|p| * 2 ^ 80⌋₊ ∧ 0 ≤ (v n : ℚ) * p) ∧
          (u.aslot cl c).elem (32 * i + j) = old.elem (32 * i + j) + BitVec.ofInt 128 ((List.range (1024 / w)).map v).sum))

/-! ### Routing tokens, records, counters -/

/-- 21 R471 to R476: `RSEND` lists its lanes' tokens in order; `RFLSH` has the wave's lists sent, and its wait form ends when every
token is answered; `RPOLL` opens, counts, frees and closes an inbox and reads the wave's counts. A list of one token is sent to its chip; a token
that its inbox takes is written in its slot and counted, else it is redirected or refused; the answers count. What is due stands in
the model's agenda (log 1). -/
def Obligations.RoutingTokens : Prop :=
  let num (s : State) (k : Who) (f : ExtArgs) (o : Opd) : Nat := (k.src s (lane0 k.x.active) f.lit .n32 o).toNat
  let header (s : State) (k : Who) (f : ExtArgs) (l : Nat) : Quad := s.readOpd k.x l f.lit .w128 .int f.a
  let inbox (t : State) (k : Who) (n : Nat) : Option Inbox := Table.look (t.chip k.chip).inboxes n
  let mine (s : State) (k : Who) (n : Nat) (i : Inbox) : Prop := inbox s k n = some i ∧ i.asid = k.g.asid
  let none' (s : State) (k : Who) (n : Nat) : Prop := ∀ i, ¬ mine s k n i
  let seq (t : State) (k : Who) : Prop := (t.wave? k.w).map Wave.seqno = some (k.x.seqno + 1)
  (∀ f s k s1, Ready (.rsend f) s k → k.x.pend = none → (k.begun (.rsend f) s).releaseWait k .pk 0 = (true, s1) →
    (k.x.active.all fun l => headerOk (header s k f l)) = true → (s.core k.wg.core).unsent + k.x.active.length ≤ 256 →
    Acts (.rsend f) s k (fun t => s.SameStore t) fun t => seq t k ∧
      (t.wave? k.w).map Wave.appended = some (k.x.appended + BitVec.ofNat 32 k.x.active.length) ∧
      ∀ d, ∃ new, Table.at (t.core k.wg.core).sends d [] = Table.at (s.core k.wg.core).sends d [] ++ new ∧
        new.map (fun e => (e.lane, e.header, e.va, e.wave)) = (k.x.active.filter fun l => (header s k f l).toNat / 2 ^ 6 % 8 = d).map
          fun l => (l, header s k f l, (k.src s l f.lit .n64 f.b).setWidth 64, k.w)) ∧
  (∀ f s k, Ready (.rflshGo f) s k → Acts (.rflshGo f) s k (fun t => s.SameStore t) fun t => seq t k ∧
    ∀ e ∈ (s.core k.wg.core).sends, (∃ u ∈ e.2, u.wave = k.w) → .sendListFlush k.wg.core e.1 ∈ t.agenda) ∧
  (∀ f s k, Ready (.rflshWait f) s k → k.x.delivered + k.x.refused = k.x.appended →
    Acts (.rflshWait f) s k (fun t => s.SameStore t) fun t => seq t k ∧ Goes t k fun _ => k.after (.rflshWait f)) ∧
  (∀ f s k, Ready (.rflshWait f) s k → k.x.delivered + k.x.refused ≠ k.x.appended → WaitsAt (.rflshWait f) s k) ∧
  (∀ f s k, Ready (.rpollOpen f) s k →
    let n := num s k f f.a
    let base := (k.src s (lane0 k.x.active) f.lit .n64 f.b).setWidth 64
    let cfg := num s k f f.c
    let st := if (inbox s k n).isSome then 1
      else if 64 ≤ n ∨ base.toNat % 64 ≠ 0 ∨ cfg / 2 ^ 12 % 2 ^ 4 ≠ 0 ∨ cfg / 2 ^ 22 % 2 ^ 10 ≠ 0 then 2 else 0
    Polls (.rpollOpen f) s k f.d st fun t => st = 0 → inbox t k n = some { wg := k.x.wg, asid := k.g.asid, ptroot := k.g.ptroot, priv := k.g.priv
                                                                           base, slots := cfg % 2 ^ 12 + 1, slotsz := cfg / 2 ^ 16 % 2 ^ 6 + 1
                                                                           landed := 0, freed := 0 }) ∧
  (∀ f s k, Ready (.rpollCnt f) s k →
    (∀ i, mine s k (num s k f f.a) i → Polls (.rpollCnt f) s k f.d i.landed.toNat fun _ => True) ∧
    (none' s k (num s k f f.a) → Polls (.rpollCnt f) s k f.d (2 ^ 32 - 1) fun _ => True)) ∧
  (∀ f s k, Ready (.rpollFree f) s k → (k.begun (.rpollFree f) s).quiet k = true → (k.x.loads.all fun e => e.2.kind = .value) = true →
    let n := num s k f f.a
    let m := num s k f f.b
    (∀ i, mine s k n i → m ≤ i.inUse → Polls (.rpollFree f) s k f.d (i.inUse - m) fun t =>
      inbox t k n = some { i with freed := i.freed + BitVec.ofNat 32 m }) ∧
    (∀ i, mine s k n i → i.inUse < m → Polls (.rpollFree f) s k f.d (2 ^ 32 - 1) fun t => inbox t k n = some i) ∧
    (none' s k n → Polls (.rpollFree f) s k f.d (2 ^ 32 - 1) fun _ => True)) ∧
  (∀ f s k, Ready (.rpollClose f) s k → s.numbered = true →
    let n := num s k f f.a
    (∀ i, mine s k n i → i.wg = k.x.wg → Table.numbered (s.chip k.chip).inboxes 64 = true →
      Polls (.rpollClose f) s k f.d 0 fun t => inbox t k n = none) ∧
    (none' s k n ∨ (∃ i, mine s k n i ∧ i.wg ≠ k.x.wg) → Polls (.rpollClose f) s k f.d 1 fun _ => True)) ∧
  (∀ f s k, Ready (.rpollSent f) s k → Polls (.rpollSent f) s k f.d k.x.delivered.toNat fun _ => True) ∧
  (∀ f s k, Ready (.rpollRefd f) s k → Polls (.rpollRefd f) s k f.d k.x.refused.toNat fun _ => True) ∧
  (∀ core chip s u bs s1, Table.at (s.core core).sends chip [] = [u] → u.page = none → s.tokenWaits u = false → s.inFlight = 0 →
    s.tokenRead core u = (.ok bs, s1) →
    let dst := u.header.toNat / (if u.second then 2 ^ 15 else 2 ^ 6) % 8
    s1.tokenChip u.src dst = true → Table.numbered (s1.core core).sends 8 = true →
    Happens (.sendListFlush core chip) s fun t => s1.SameStore t ∧ .tokenArrival dst ∈ t.agenda ∧
      Table.at (t.core core).sends chip [] = [] ∧ (t.chip dst).tokens = (s1.chip dst).tokens ++ [{ u with payload := bs }]) ∧
  (∀ chip s u r i ps s1 s2, (s.chip chip).tokens = u :: r → s.inFlight = 0 →
    let n := u.header.toNat / (if u.second then 2 ^ 9 else 1) % 64
    Table.look (s.chip chip).inboxes n = some i → (i.landed - i.freed).toNat < i.slots → tokLen u.header + 16 ≤ 64 * i.slotsz →
    let va := i.base + BitVec.ofNat 64 (i.landed.toNat % i.slots * 64 * i.slotsz)
    s.span { core := 64 * chip, asid := i.asid, ptroot := i.ptroot, priv := i.priv } .write false va u.bytes.length = (.parts ps, s1) →
    s1.deadParts ps = false → storeParts chip (2 ^ 41 + chip) u.gang ps u.bytes s1 = (true, s2) →
    Happens (.tokenArrival chip) s fun t => s2.SameBytes t ∧ .tokenAcknowledge u.wave ∈ t.agenda ∧
      (t.chip chip).tokens = (s2.chip chip).tokens.drop 1 ∧
      (Table.look (t.chip chip).inboxes n).map Inbox.landed = (Table.look (s2.chip chip).inboxes n).map (fun j => j.landed + 1)) ∧
  (∀ chip s u r, (s.chip chip).tokens = u :: r → s.tokenWaits { u with second := true } = false →
    let n := u.header.toNat / (if u.second then 2 ^ 9 else 1) % 64
    let dst := u.header.toNat / 2 ^ 15 % 8
    (∀ i, Table.look (s.chip chip).inboxes n = some i → i.slots ≤ (i.landed - i.freed).toNat ∨ 64 * i.slotsz < tokLen u.header + 16) →
    Happens (.tokenArrival chip) s fun t => s.SameStore t ∧
      if u.second = false ∧ u.header.getLsbD 18 = true ∧ s.tokenChip u.src dst = true then
        .tokenArrival dst ∈ t.agenda ∧ { u with second := true } ∈ (t.chip dst).tokens
      else .tokenRefusal u.wave ∈ t.agenda ∧ (t.chip chip).tokens = r) ∧
  (∀ w s x, s.wave? w = some x → x.delivered + x.refused ≠ x.appended →
    Happens (.tokenAcknowledge w) s fun t => s.SameStore t ∧ t.wave? w = some { x with delivered := x.delivered + 1 }) ∧
  (∀ w s x, s.wave? w = some x → x.delivered + x.refused ≠ x.appended →
    Happens (.tokenRefusal w) s fun t => s.SameStore t ∧ t.wave? w = some { x with refused := x.refused + 1 })

/-- 15 R310, R315, 16 R345, R350, R351, 20 R417, R440, R441, 21 R456, R457: `FREC` reads a field of the lane's record, or of the
wave's; `LFIX` writes the parked lane's destination and frees it; `PERF` and `HCAP` read and clear counters and monitors; `DGST`
queues the fold of each lane's SHAKE256; a level sample and an idle slot are counted. -/
def Obligations.RecordsAndCounters : Prop :=
  let num (s : State) (k : Who) (f : ExtArgs) (o : Opd) : Nat := (k.src s (lane0 k.x.active) f.lit .n32 o).toNat
  let monitor (t : State) (c m : Nat) : Hcap := Table.at (t.core c).hcap m Hcap.reset
  (∀ f s k, Ready (.frec f) s k → Computes (.frec f) s k f.d (if f.x18.toNat % 8 = 2 then .w64 else .w32) fun l =>
    let r := k.x.frec
    let o := (k.x.thread l).lane
    .write (match f.x18.toNat % 8 with
      | 0 => ((o.map LaneRec.cause).getD r.cause).setWidth 128
      | 1 => r.pmask.setWidth 128
      | 2 => ((o.map LaneRec.pc).getD r.pc).setWidth 128
      | 3 => (((o.map LaneRec.addr).getD r.addr).setWidth 32).setWidth 128
      | 4 => (((o.map LaneRec.addr).getD r.addr) >>> 32).setWidth 128
      | 5 => r.lseq.setWidth 128
      | 6 => BitVec.ofNat 128 r.skid
      | _ => ((o.map LaneRec.dest).getD r.dest).setWidth 128) 0) ∧
  (∀ f s k, Ready (.lfix f) s k → ∃ t, exec (.lfix f) s = .next t ∧ s.SameStore t ∧ s.SameSpecial t ∧ s.SameChips t ∧
    (∀ v l g n, (v = k.w ∧ l ∈ k.x.active ∧ (k.x.thread l).lane.isSome = true) ∨ (t.lane v l).reg g n = (s.lane v l).reg g n) ∧
    ∀ l ∈ k.x.active, ∀ r, (k.x.thread l).lane = some r →
      let o := r.dest.extractLsb' 0 9
      let w := destWidth r.dest
      (∀ g n, (t.lane k.w l).reg g n = match Opd.of9 o with
        | some d => if o ≠ 0x180 ∧ Opd.names d w g n = true then wordOf (k.src s l f.lit f.ty f.a) (n - Opd.first d) else (s.lane k.w l).reg g n
        | none => (s.lane k.w l).reg g n) ∧
      (∀ d, o ≠ 0x180 → Opd.of9 o = some d → (t.lane k.w l).isFull d w = true) ∧
      (k.x.handler = some .trap → (∀ m ∈ k.x.group, (k.x.thread m).meet ≠ k.after (.lfix f)) → (t.lane k.w l).lane = none ∧ ∀ a, (k.x.thread l).aside = some a →
        (t.lane k.w l).aside.map (fun b => (b.pc, b.st, b.restart.pc)) =
          some (r.pc + BitVec.ofNat 64 r.len, .deferred, r.pc + BitVec.ofNat 64 r.len))) ∧
  (∀ f s k, f.x18 ≠ 129 → Ready (.perfRead f) s k → Computes (.perfRead f) s k f.d .w64 fun _ =>
    let n := f.x18.toNat
    .write (BitVec.ofNat 128 (if n < 85 then Table.at (s.core k.wg.core).laneCycles n 0
      else if 128 ≤ n ∧ n ≤ 136 then Table.at (s.core k.wg.core).perf n 0 else 0)) 0) ∧
  (∀ f s k, f.x18 = 129 → Ready (.perfRead f) s k → ∃ v, v ≤ Table.at (s.core k.wg.core).perf 128 0 ∧
    Computes (.perfRead f) s k f.d .w64 fun _ => .write (BitVec.ofNat 128 v) 0) ∧
  (∀ f s k, Ready (.perfClr f) s k → Leaves (.perfClr f) s k fun t => (Goes t k fun _ => k.after (.perfClr f)) ∧
    ∀ n, n ≠ 128 → Table.at (t.core k.wg.core).perf n 0 = 0) ∧
  (∀ f s k, k.x.stall = 0 → Ready (.hcapCfg f) s k →
    let m := num s k f f.a
    let c := (k.src s (lane0 k.x.active) f.lit .n32 f.b).setWidth 32
    let bad := 3 < m ∨ 9 < c.toNat % 32 ∨ c.toNat / 2 ^ 10 % 2 ^ 6 ≠ 0
    Answers (.hcapCfg f) s k f.d (if bad then 1 else 0) fun t => s.SameStore t ∧
      monitor t k.wg.core m = if bad then monitor s k.wg.core m
        else { cfg := c, min := BitVec.allOnes 32, max := 0, count := 0, bins := [] }) ∧
  (∀ f s k, Ready (.hcapRd f) s k → Computes (.hcapRd f) s k f.d .w32 fun _ =>
    let h := monitor s k.wg.core (num s k f f.a)
    let n := num s k f f.b
    .write ((if 3 < num s k f f.a then (0 : Word)
      else if n = 0 then h.min else if n = 1 then h.max else if n = 2 then h.count else if n = 3 then h.cfg
      else if 32 ≤ n ∧ n ≤ 63 then Table.at h.bins (n - 32) 0 else 0).setWidth 128) 0) ∧
  (∀ f s k, k.x.stall = 0 → num s k f f.a < 4 → Ready (.hcapClr f) s k → Leaves (.hcapClr f) s k fun t =>
    monitor t k.wg.core (num s k f f.a) = { Hcap.reset with cfg := (monitor s k.wg.core (num s k f f.a)).cfg }) ∧
  (∀ f s k ls s1, Ready (.dgst f) s k → k.x.pend = none → s.numbered = true → s.inFlight = 0 →
    spans k.xctx .atomic false true 32 (k.x.active.map fun l => (l, (k.src s l f.lit .n64 f.a).setWidth 64)) (k.begun (.dgst f) s) = (.all ls, s1) →
    parksOf ls = [] → (ls.all fun e => match e.2.2 with
      | .parts ps => ps ≠ [] && ps.all fun p => decide (leafSeg p.leaf ≤ 1)
      | _ => false) = true →
    (s1.core k.wg.core).entriesOf k.w + k.x.active.length ≤ 16 → (s1.core k.wg.core).wq.length + k.x.active.length ≤ 96 →
    let msg (l : Nat) : List Byte := [0x45, 0x50, 0x50, 0x4F, 0x52, 0x2D, 0x44, 0x47, 0x53, 0x54] ++ bytesOfNat 4 k.g.idx ++
      bytesOfNat 1 k.wg.idx ++ bytesOfNat 1 k.x.idx ++ bytesOfNat 1 l ++ bytesOfNat 1 f.ty.code.toNat ++ bytesOfNat 4 f.x18.toNat ++
      bytesOfNat (f.ty.bits / 8) (s.readOpd k.x l f.lit f.ty.width .int f.b).toNat
    Acts (.dgst f) s k (fun t => s1.SameStore t) fun t => ∀ e ∈ goodSpans ls, ∀ p ps, e.2.2 = p :: ps →
      ∃ q ∈ (t.core k.wg.core).wq, q.2.wave = k.w ∧ q.2.block = p.pa / 64 ∧ ∃ a ∈ q.2.atoms, a.lane = e.1 ∧ a.pa = p.pa ∧ a.width = 32 ∧
        ∀ old, a.modify old = some ((old + natOfBytes (shake256 (msg e.1) 32)) % 2 ^ 256)) ∧
  (∀ core m level s h, Table.look (s.core core).hcap m = some h → h.cfg.toNat % 32 ∈ [4, 5, 8, 9] →
    Happens (.hcapLevelSample core m level) s fun t => s.SameStore t ∧ ∃ g, Table.look (t.core core).hcap m = some g ∧ g.cfg = h.cfg ∧
      g.min.toNat = min level.toNat h.min.toNat ∧ g.max.toNat = max level.toNat h.max.toNat ∧
      g.count.toNat = min (h.count.toNat + 1) (2 ^ 32 - 1) ∧
      ∀ b, Table.at g.bins b 0 = if b = min 31 (level.toNat / 2 ^ (h.cfg.toNat / 32 % 32)) then
        BitVec.ofNat 32 (min ((Table.at h.bins b 0).toNat + 1) (2 ^ 32 - 1)) else Table.at h.bins b 0) ∧
  (∀ core slot s, Happens (.idleSlotClock core slot) s fun t => s.SameStore t ∧ ∃ n, n ≤ 16 ∧ ∀ i,
    Table.at (t.core core).laneCycles i 0 = if i = 5 * n + 4 then (Table.at (s.core core).laneCycles i 0 + 32) % 2 ^ 48
      else Table.at (s.core core).laneCycles i 0)

/-! ### Traps that no instruction raises, page requests -/

/-- 08 R182, 15 R309, R313, R317, R320: a pending class A event that the wave can take enters the handler with its record; a handler
beyond its limit is stopped and its gang killed; a write stall at WSTALL traps with the address it waits on; an answer to a page
request is stored and ends the waits for the page; PRHEAD and PRLEN are written. -/
def Obligations.TrapEvents : Prop :=
  (∀ w s k p r, s.whoOf w = some k → CanTrap s k → k.x.pendA = p :: r → k.x.heldTrap = none → k.open = true → s.firstToTrap k = true →
    ∃ t, exec (.asyncTrapDelivery w) s = .next t ∧ (t.wave? w).map Wave.pendA = some r ∧
      Entered s t k p.cause
        { cause := p.cause, pmask := maskOf k.x.parkedLanes, pc := p.pc.getD k.x.takenPc, addr := p.addr, lseq := p.lseq.getD k.g.seq
          skid := k.x.heldSkid.getD 0, dest := p.dest } k.x.takenPc fun l => (k.x.thread l).pc) ∧
  (∀ w s k, s.whoOf w = some k → k.x.handler.isSome = true → 65536 ≤ k.x.handlerCount → k.g.st ≠ .killed → k.g.fdom = 0 →
    k.g.wgs.contains k.x.wg = true → k.wg.waves.contains w = true →
    Happens (.handlerWatchdog w) s fun t => s.SameStore t ∧ (t.gang? k.wg.gang).map Gang.st = some .killed ∧
      (t.wave? w).map (fun y => (y.threads.all (fun u => u.st = .exited), y.loads, y.handler)) = some (true, [], none)) ∧
  (∀ w s k limit, s.whoOf w = some k → CanTrap s k → limit = s.effField k.chip k.g.rcb 7 0x40 0 32 → limit ≠ 0 →
    k.g.mode.getLsbD 5 = true → limit ≤ k.x.stall → k.x.halted = false →
    ∃ t, exec (.writeBackpressure w) s = .next t ∧ Entered s t k 0x10
      { cause := 0x10, pmask := maskOf k.x.parkedLanes, pc := k.x.issuePc.getD 0, addr := k.x.stallAddr, lseq := k.g.seq
        skid := k.x.heldSkid.getD 0, dest := k.x.stallDest } (k.x.issuePc.getD 0) fun l => (k.x.thread l).pc) ∧
  (∀ chip e s p, Table.look (s.chip chip).ring.open' e = some p → s.canonical = true → Table.numbered (s.chip chip).ring.open' 65536 = true →
    let resp := (s.chip chip).ring.base + 32 * e + 0x10
    (s.blocksReady (.pageRequestResponse chip e 1) [resp / 64]).1 = true →
    Happens (.pageRequestResponse chip e 1) s fun t =>
      (∀ a, t.byte a = if resp ≤ a ∧ a < resp + 4 then (if a = resp then 1 else 0) else s.byte a) ∧
      Table.look (t.chip chip).ring.open' e = none ∧
      ∀ w x q, s.wave? w = some x → x.page = some q → q.samePage p = true → chipOfCore (s.coreOf w) = chip →
        (t.wave? w).map Wave.page = some none) ∧
  (∀ chip e s, Happens (.pageRequestResponse chip e 0) s fun t => t = s) ∧
  (∀ chip (v : DWord) s, (s.chip chip).ring.waiting = [] → (s.chip chip).ring.len ≠ 0 →
    let r := (s.chip chip).ring
    let h := v.toNat % 2 ^ 16 % r.len
    Happens (.prheadWrite chip v) s fun t => s.SameStore t ∧
      ((t.chip chip).ring.head, (t.chip chip).ring.unread) =
        if h = r.head then (r.head, r.unread) else (h, (r.tail + r.len - h) % r.len)) ∧
  (∀ chip (v : DWord) s, (s.chip chip).ring.waiting = [] → Happens (.prlenWrite chip v) s fun t => s.SameStore t ∧
    (t.chip chip).ring.len = if v = 0 ∨ ∃ i, i < 13 ∧ v = BitVec.ofNat 64 (2 ^ (i + 4)) then v.toNat else 0)

/-! ### Replicated memory between chips -/

/-- 10 R208, R211, R213, R214, R216 to R219, R221, R223: a packet of the chip's view goes to its hold store, a ready one is applied
sector by sector and counted; a request is kept until the Col grants it the next slot, with the value read; ACKs go to every member
and free what all have applied; a wrap restarts a count; a failing flit is resent, and a second failure takes the link down. What is
due stands in the model's agenda (log 1). -/
def Obligations.Replication : Prop :=
  let link (s : State) (a b : Nat) : List Msg := Table.at s.links (linkKey a b) []
  let sent (s t : State) (c : Nat) (m : Msg) : Prop := ∀ d, d < 8 → d ≠ c → s.chipExists d = true →
    d ∈ (s.repl c).members ∨ d ∈ (s.repl c).listeners → s.linkUp c d = true → link t c d = link s c d ++ [m]
  let pair (s : State) (a b : Nat) : Prop := a < 8 ∧ b < 8 ∧ a ≠ b ∧ Table.numbered s.links 64 = true
  let due (s : State) (c rq v l ld : Nat) : Prop := ∃ n, Table.look (s.repl c).outstanding rq = some (.lane v ld l n)
  let filled (s t : State) (c : Nat) (mine : Prop) (rq old : Nat) : Prop :=
    (∀ v l, (mine ∧ ∃ ld, due s c rq v l ld) ∨ (s.lane v l).SameRegs (t.lane v l)) ∧
    (mine → ∀ v l ld x u, due s c rq v l ld → s.wave? v = some x → l < x.threads.length → Table.look x.loads ld = some u →
      (t.lane v l).isFull u.d u.fmt.regs = true ∧
      ∀ g n, (t.lane v l).reg g n = if Opd.names u.d u.fmt.regs g n = true
        then wordOf (u.fmt.value (bytesOfNat u.fmt.bytes old)) (n - Opd.first u.d) else (s.lane v l).reg g n)
  let arrives (i : Instr) (n : Nat) : Prop := ∀ src dst s p, i = (match n with
      | 0 => .updatePacket src dst
      | 1 => .grantPacket src dst
      | _ => .wrapPacket src dst) → pair s src dst → s.plainMsg src dst = some (.packet p) → p.kind = n →
    (s.repl dst).vst ≠ .out → (s.repl dst).vst ≠ .listener → (s.repl dst).backlog < 65536 →
    Happens i s fun t => s.SameStore t ∧ link t src dst = (link s src dst).drop 1 ∧ (t.repl dst).applied = (s.repl dst).applied ∧
      if p.view = (s.repl dst).view then .packetApply dst ∈ t.agenda ∧
          ∃ w a g, (t.repl dst).hold = (s.repl dst).hold ++ [{ p with wraps := w, arrived := a, gen := g }]
        else (t.repl dst).hold = (s.repl dst).hold ∧
          if (p.view + 256 - (s.repl dst).view) % 256 ∈ List.range' 1 127 then (t.repl dst).newer.length = (s.repl dst).newer.length + 1
          else (t.repl dst).newer = (s.repl dst).newer
  (∀ src dst, arrives (.updatePacket src dst) 0 ∧ arrives (.grantPacket src dst) 1 ∧ arrives (.wrapPacket src dst) 2) ∧
  (∀ src dst s q, pair s src dst → s.plainMsg src dst = some (.req q) → (s.repl dst).duplicate q = false →
    (∀ p ∈ (s.repl dst).pending, p.rank ≠ q.rank ∨ p.rq ≠ q.rq) → (s.repl dst).vst ≠ .out → (s.repl dst).vst ≠ .listener →
    Happens (.reqMessage src dst) s fun t => s.SameStore t ∧ link t src dst = (link s src dst).drop 1 ∧
      (∃ v, (t.repl dst).pending = (s.repl dst).pending ++ [{ q with vec := v }]) ∧
      ((s.repl dst).col = dst → .colGrant dst ∈ t.agenda)) ∧
  (∀ src dst s v, pair s src dst → s.plainMsg src dst = some (.ack v) →
    Happens (.ackMessage src dst) s fun t => s.SameStore t ∧ (t.repl dst).acked = (s.repl dst).acked.set src v ∧
      ∀ p, p ∈ (t.repl dst).retained ↔ p ∈ (s.repl dst).retained ∧
        ∃ m ∈ (s.repl dst).members, m ≠ dst ∧ (t.repl dst).knownApplied m p = false) ∧
  (∀ src dst s v r, pair s src dst → s.plainMsg src dst = some (.wrapack v r) → Happens (.wrapackMessage src dst) s fun t =>
    s.SameStore t ∧ ∀ k, Table.at (t.repl dst).wrapacks k 0 =
      Table.at (s.repl dst).wrapacks k 0 + if k = 8 * src + r then 1 else 0) ∧
  (∀ chip s p, let r := s.repl chip
    s.canonical = true → s.loggedRegions chip = [] → r.installing = none → r.vst ≠ .out → r.vst ≠ .listener →
    (∀ q ∈ r.hold, r.ready q = true → r.hostBlocks q = false) → r.hold.find? (fun q => r.ready q) = some p →
    p.rank < 8 → p.kind ≤ 2 → r.applied.length = 8 → r.wrapsApplied.length = 8 → s.replFails chip p.blk = false →
    ∃ t, exec (.packetApply chip) s = .next t ∧ filled s t chip (p.kind = 1 ∧ p.opc < 12 ∧ p.irank = chip) p.rq p.old.toNat ∧
      (p.opc ≠ 11 → ∀ a, t.byte a = s.byte a) ∧ (t.repl chip).hold = r.hold.erase p ∧
      (∀ j, vecAt (t.repl chip).applied j = if j = p.rank then (if p.kind = 2 then 0 else vecAt p.vec p.rank) else vecAt r.applied j) ∧
      (p.kind = 2 → vecAt (t.repl chip).wrapsApplied p.rank = vecAt r.wrapsApplied p.rank + 1 ∧ (p.images = [] → (t.repl chip).replica = r.replica) ∧
        (chip ∈ r.members → ∀ d, d < 8 → d ≠ chip → s.chipExists d = true → d ∈ r.members → s.linkUp chip d = true →
          .wrapack (t.ctlVec chip) p.rank ∈ link t chip d)) ∧
      (p.kind = 0 ∨ p.kind = 1 ∧ p.opc < 12 → ∀ k,
        if (Table.look p.images k).isSome = true ∧ beats p.sclk p.rank (Table.at r.tags k 0) = true then
          some ((t.repl chip).image k) = Table.look p.images k ∧ Table.at (t.repl chip).tags k 0 = mkTag (p.kind = 1) p.rank p.sclk
        else (t.repl chip).image k = r.image k ∧ Table.at (t.repl chip).tags k 0 = Table.at r.tags k 0) ∧
      (p.kind = 1 → p.opc < 12 → (t.repl chip).nextSlot = p.slot + 1 ∧ (∀ q ∈ (t.repl chip).pending, q.rank ≠ p.irank ∨ q.rq ≠ p.rq) ∧
        (p.irank = chip → Table.look r.outstanding p.rq = some .host →
          ((t.chip chip).sys.hsold, (t.chip chip).sys.hsstat) = (p.old.extractLsb' 0 64, 2)) ∧
        (p.irank = chip → ∀ w ld lane n x g l, Table.look r.outstanding p.rq = some (.lane w ld lane n) → s.wave? w = some x →
          x.strong = some g → g.reqs = [p.rq] → g.load = some l →
          (t.wave? w).map Wave.strong = some none ∧ .loadReturn w l ∈ t.agenda))) ∧
  (∀ chip s q, let r := s.repl chip
    s.canonical = true → r.col = chip → chip ∈ r.members → chip < 8 → r.canCreate = true → (∀ p ∈ r.pending, r.duplicate p = false) →
    (∀ p ∈ r.pending, (s.perform chip p).2.2 ≠ [] → r.hostHeld.contains (p.off / 64) = false) →
    r.pending.find? (fun p => r.grantable (s.fixedByte chip) p) = some q → q.opc < 11 → r.applied.length = 8 →
    s.replFails chip (q.off / 64) = false → (∀ i, i < reqBytes q.opc q.ty → s.fixedByte chip (q.off + i) = false) →
    let w := reqBytes q.opc q.ty
    let old := Memory.readLe r.replica q.off w
    let new := strongNew q.opc q.ty.signed w old (q.opa.toNat % 2 ^ (8 * w)) (q.opb.toNat % 2 ^ (8 * w))
    w = 4 ∨ w = 8 ∨ w = 16 → q.off % w = 0 →
    ∃ t, exec (.colGrant chip) s = .next t ∧ filled s t chip (q.rank = chip) q.rq old ∧
      (∀ a, t.byte a = s.byte a) ∧ .colGrant chip ∈ t.agenda ∧
      (t.repl chip).own = r.own + 1 ∧ (t.repl chip).nextSlot = r.nextSlot + 1 ∧
      (∀ p ∈ (t.repl chip).pending, p.rank ≠ q.rank ∨ p.rq ≠ q.rq) ∧
      Memory.readLe (t.repl chip).replica q.off w = new.getD old ∧
      (new = none → (t.repl chip).replica = r.replica) ∧
      (new.isSome = true → Table.at (t.repl chip).tags (q.off / 32) 0 =
        mkTag true chip ((tagClk (Table.at r.tags (q.off / 32) 0) + 2 ^ 22) % 2 ^ 28)) ∧
      ∃ p, sent s t chip (.packet p) ∧ ((∃ m ∈ r.members, m ≠ chip) → (t.repl chip).retained = r.retained ++ [p]) ∧ p.kind = 1 ∧ p.rank = chip ∧ p.slot = r.nextSlot ∧
        p.irank = q.rank ∧ p.rq = q.rq ∧ p.opc = q.opc ∧ p.old = BitVec.ofNat 128 old ∧ vecAt p.vec chip = r.own + 1) ∧
  (∀ chip s, let r := s.repl chip
    r.ackCount ≠ 0 → 256 ≤ r.ackClock → chip ∈ r.members → r.vst ≠ .out → Happens (.ackTimer chip) s fun t => s.SameStore t ∧
      ((t.repl chip).ackCount, (t.repl chip).ackClock) = (0, 0) ∧ sent s t chip (.ack r.applied)) ∧
  (∀ chip s, let r := s.repl chip
    0xFFF00 ≤ r.own → r.vst = .normal → r.own ≤ r.ackedUpTo chip → r.applied.length = 8 → r.wrapsApplied.length = 8 → chip < 8 →
    vecAt r.wrapsApplied chip = 0 ∨ (∀ m ∈ r.members, m ≠ chip → m ∈ r.wrapackSeen) →
    Happens (.counterWrap chip) s fun t => s.SameStore t ∧ (t.repl chip).own = 0 ∧ vecAt (t.repl chip).applied chip = 0 ∧
      vecAt (t.repl chip).wrapsApplied chip = vecAt r.wrapsApplied chip + 1 ∧ (t.repl chip).revt.getLsbD 2 = true ∧
      ∃ p, sent s t chip (.packet p) ∧ p.kind = 2 ∧ p.rank = chip ∧ vecAt p.vec chip = r.own + 1 ∧ p.images = []) ∧
  (∀ src dst s, pair s src dst → s.linkUp src dst = true → link s src dst ≠ [] → linkKey src dst ∉ s.linkRetry →
    Happens (.linkCrcError src dst) s fun t => s.SameStore t ∧
      if linkKey src dst ∈ s.linkResent then t.linkUp src dst = false ∧ link t src dst = [] ∧ link t dst src = [] ∧
          (dst ∈ (s.repl src).members → (s.repl src).vst = .normal → (t.repl src).vst = .propose) ∧
          (src ∈ (s.repl dst).members → (s.repl dst).vst = .normal → (t.repl dst).vst = .propose)
        else t.links = s.links ∧ linkKey src dst ∈ t.linkRetry ∧ .resendRequest src dst ∈ t.agenda) ∧
  (∀ src dst s, linkKey src dst ∈ s.linkRetry → Happens (.resendRequest src dst) s fun t => s.SameStore t ∧ t.links = s.links ∧
    linkKey src dst ∉ t.linkRetry ∧ linkKey src dst ∈ t.linkResent ∧ ∀ m ∈ link s src dst, m.event src dst ∈ t.agenda)

/-- 10 R222, R225 to R231, R520: an overdue acknowledgement, an overdue packet or a newer PROPOSE starts a view change; with every
proposal in, the pruned set is agreed and STATE goes to its lowest rank, which sends INSTALL; a member adopts the view, a chip left
out enters OUT; a chip in OUT rejoins through a listener's copy. What is due stands in the model's agenda (log 1); logs 19 and 25 name
the model's own choices in it. -/
def Obligations.ViewChange : Prop :=
  let link (s : State) (a b : Nat) : List Msg := Table.at s.links (linkKey a b) []
  let pair (s : State) (a b : Nat) : Prop := a < 8 ∧ b < 8 ∧ a ≠ b ∧ Table.numbered s.links 64 = true
  let reached (s : State) (c d : Nat) : Prop := d < 8 ∧ d ≠ c ∧ s.chipExists d = true ∧ d ∈ (s.repl c).members ∧ s.linkUp c d = true
  let begins (i : Instr) (s : State) (c : Nat) (excl : Bool) : Prop := Happens i s fun t => s.SameStore t ∧
    (t.repl c).vst = .propose ∧ (t.repl c).proposedView = ((s.repl c).view + 1) % 256 ∧ ∃ ms, (t.repl c).proposals = [(c, ms)] ∧
      (∀ d, d ∈ ms ↔ reached s c d ∨ (d = c ∧ excl = false)) ∧
      ∀ d, reached s c d → link t c d = link s c d ++ [.propose (s.ctlVec c) (((s.repl c).view + 1) % 256) ms]
  let full (a b m : Nat) : List Nat := (List.range 8).filter fun d => !((m = a && d = b) || (m = b && d = a))
  (∀ a b, a < b → b < 8 → agreedSet ((List.range 8).map fun m => (m, full a b m)) = (List.range 8).filter fun m => m ≠ b) ∧
  (∀ a, a < 8 → agreedSet ((List.range 8).map fun m => (m, if m = a then [a] else (List.range 8).filter fun d => d ≠ a)) =
    (List.range 8).filter fun m => m ≠ a) ∧
  (∀ c s, c < 8 → (s.repl c).vst = .normal → (∃ p ∈ (s.repl c).retained, p.arrived + (s.repl c).acklim ≤ (s.chip c).clk) →
    begins (.ackTimeout c) s c false) ∧
  (∀ c s, c < 8 → (s.repl c).vst = .normal →
    (s.repl c).lagmax < (s.repl c).backlog ∨ (∃ p ∈ (s.repl c).hold ++ (s.repl c).newer, p.arrived + (s.repl c).holdmax ≤ (s.chip c).clk) →
    begins (.holdTimeout c) s c true) ∧
  (∀ src dst s w v ms, pair s src dst → s.viewMsg src dst = some (.propose w v ms) → (s.repl dst).vst = .normal →
    (v + 256 - (s.repl dst).view) % 256 ∈ List.range' 1 127 → (∃ d, d ≠ src ∧ reached s dst d) →
    Happens (.proposeMessage src dst) s fun t => s.SameStore t ∧ link t src dst = (link s src dst).drop 1 ∧
      (t.repl dst).vst = .propose ∧ (t.repl dst).proposedView = v ∧ Table.look (t.repl dst).proposals src = some ms) ∧
  (∀ src dst s w v ms, pair s src dst → s.viewMsg src dst = some (.propose w v ms) →
    let r := s.repl dst
    let props := Table.put r.proposals src ms
    let k := (({ r with proposals := props }).agree dst).headD dst
    r.vst = .propose → v = r.proposedView → (∀ m ∈ Table.at props dst [], (Table.look props m).isSome = true) →
    dst ∈ ({ r with proposals := props }).agree dst → k < 8 → k ≠ dst → s.linkUp dst k = true →
    Happens (.proposeMessage src dst) s fun t => s.SameStore t ∧ (t.repl dst).vst = .exchange ∧
      (t.repl dst).agreed = ({ r with proposals := props }).agree dst ∧ ∃ st, link t dst k = link s dst k ++ [.state st] ∧
        st.vec = r.applied ∧ (∀ p ∈ st.held, p ∈ r.recent ++ r.hold ++ r.newer ∧ p.rank ∉ (t.repl dst).agreed) ∧
        ∀ p ∈ r.recent ++ r.hold ++ r.newer, p.rank ∉ (t.repl dst).agreed → p ∈ st.held) ∧
  (∀ src dst s st m, pair s src dst → s.viewMsg src dst = some (.state st) → (s.repl dst).vst = .exchange →
    m ∈ (s.repl dst).agreed → m ≠ src → Table.look (s.repl dst).states m = none →
    Happens (.stateMessage src dst) s fun t => s.SameStore t ∧ (t.repl dst).states = Table.put (s.repl dst).states src st ∧
      (t.repl dst).vst = .exchange) ∧
  (∀ src dst s st, pair s src dst → s.viewMsg src dst = some (.state st) →
    let r := s.repl dst
    let sts := Table.put r.states src st
    r.vst = .exchange → r.installing = none → r.agreed.headD 8 = dst → (∀ m ∈ r.agreed, (Table.look sts m).isSome = true) →
    Happens (.stateMessage src dst) s fun t => ∃ i, i.view = r.proposedView ∧ i.members = r.agreed ∧ i.col = dst ∧
      i.first % 256 = 0 ∧ (∀ e ∈ sts, e.2.slots ≤ i.first) ∧ (∀ p ∈ i.held, p.kind = 1 → p.slot < i.first) ∧
      (i.first = 0 ∨ (∃ e ∈ sts, i.first < e.2.slots + 256) ∨ ∃ p ∈ i.held, p.kind = 1 ∧ i.first < p.slot + 257) ∧
      (∀ e ∈ sts, ∀ p ∈ e.2.held, ∃ q ∈ i.held, q.rank = p.rank ∧ q.gen = p.gen ∧ vecAt q.vec p.rank = vecAt p.vec p.rank) ∧
      ∀ d, d < 8 → d ≠ dst → s.chipExists d = true → s.linkUp dst d = true → d ∈ r.members ∨ d ∈ r.agreed ∨ d ∈ r.listeners →
        ∃ l, link t dst d = link s dst d ++ .install (s.ctlVec dst) i :: l) ∧
  (∀ src dst s w i, pair s src dst → s.viewMsg src dst = some (.install w i) →
    let r := s.repl dst
    dst ∈ i.members → r.vst = .exchange → i.view = r.proposedView → r.hold = [] → (∀ p ∈ i.held, r.lacks p = false) →
    Happens (.installMessage src dst) s fun t => (t.repl dst).vst = .normal ∧ (t.repl dst).view = i.view ∧
      (t.repl dst).members = i.members ∧ (t.repl dst).col = i.col ∧ (t.repl dst).nextSlot = i.first ∧
      (∀ d, d < 8 → vecAt (t.repl dst).applied d = if (d ∈ r.members ↔ d ∈ i.members) then vecAt r.applied d else 0) ∧
      ∀ q ∈ (t.repl dst).pending, q ∈ (t.repl dst).sent ∨ (q.rank ∈ r.members → q.rank ∈ i.members)) ∧
  (∀ src dst s w i, pair s src dst → s.viewMsg src dst = some (.install w i) → dst ∉ i.members → (s.repl dst).vst ≠ .out →
    (s.repl dst).vst ≠ .normal →
    Happens (.installMessage src dst) s fun t => (t.repl dst).vst = .out ∧ (t.repl dst).out = true ∧ (t.repl dst).hold = [] ∧
      ∀ g k, Table.look s.gangs g = some k → k.chip = dst → k.st ≠ .retired → (t.gang? g).map Gang.st = some .killed) ∧
  (∀ c s, c < 8 → (s.repl c).vst = .propose → (s.repl c).acklim < (s.repl c).phaseClock →
    (∃ d, reached s c d ∧ d ∉ (s.repl c).shunned ∧ d ∉ (s.repl c).silent c) →
    Happens (.viewPhaseTimeout c) s fun t => s.SameStore t ∧ (t.repl c).vst = .propose ∧
      (t.repl c).proposedView = ((s.repl c).proposedView + 1) % 256 ∧
      ∀ d ∈ (s.repl c).silent c, d ≠ c → d ∉ Table.at (t.repl c).proposals c []) ∧
  (∀ c s m, (s.repl c).vst = .propose → (s.repl c).phaseClock ≤ (s.repl c).acklim → m ∈ Table.at (s.repl c).proposals c [] →
    Table.look (s.repl c).proposals m = none → Happens (.viewPhaseTimeout c) s fun t => t = s) ∧
  (∀ c v s, (s.repl c).vst = .out → v.getLsbD 0 = true → (s.chip c).powered = true → Happens (.rjoinWrite c v) s fun t =>
    s.SameStore t ∧ (t.repl c).vst = .listener ∧
      ∀ d, d < 8 → d ≠ c → s.chipExists d = true → s.linkUp c d = true → link t c d = link s c d ++ [.join (s.ctlVec c)]) ∧
  (∀ c v s, (s.repl c).vst ≠ .out → Happens (.rjoinWrite c v) s fun t => t = s) ∧
  (∀ src dst s w, pair s src dst → s.viewMsg src dst = some (.join w) → (s.repl dst).vst ≠ .out → (s.repl dst).vst ≠ .listener →
    src ∉ (s.repl dst).members → Happens (.joinMessage src dst) s fun t => s.SameStore t ∧ src ∈ (t.repl dst).listeners ∧
      (s.linkUp dst src = true → link t dst src = link s dst src ++ [.listen (s.repl dst).own (s.repl dst).wrapsApplied])) ∧
  (∀ src dst s s0 wraps, pair s src dst → s.viewMsg src dst = some (.listen s0 wraps) → (s.repl dst).vst = .listener →
    Happens (.listenMessage src dst) s fun t => s.SameStore t ∧ Table.look (t.repl dst).listenS0 src = some (s0, wraps) ∧
      .donorCopy dst ∈ t.agenda) ∧
  (∀ c s d e l, (s.repl c).vst = .listener → (s.repl c).donorDone = false → (s.repl c).listenS0 = (d, e) :: l →
    (∀ j ∈ (s.repl d).members, (Table.look (s.repl c).listenS0 j).isSome = true) → (s.repl d).covers (s.repl c).listenS0 = true →
    Happens (.donorCopy c) s fun t => (∀ a, t.byte a = s.byte a) ∧ (t.repl c).replica = (s.repl d).replica ∧
      (t.repl c).tags = (s.repl d).tags ∧ (t.repl c).rsegsz = (s.repl d).rsegsz ∧ (t.chip c).sys.rootrcb = (s.chip d).sys.rootrcb ∧
      (∀ j, j < 8 → vecAt (t.repl c).applied j = ((Table.look (s.repl c).listenS0 j).map Prod.fst).getD 0) ∧
      (t.repl c).hold = (s.repl c).hold ∧ .replJoin c ∈ t.agenda) ∧
  (∀ c s, (s.repl c).vst = .listener → (s.repl c).donorDone = true →
    let k := (s.repl c).members.headD c
    (s.repl k).vst = .normal → c ∈ (s.repl k).listeners → Happens (.replJoin c) s fun t => s.SameStore t ∧
      (t.repl k).vst = .propose ∧ (t.repl k).proposedView = ((s.repl k).view + 1) % 256 ∧ (t.repl k).joining = [c])

/-! ### Campion: gangs placed, saved, retired -/

/-- 03 R58, R60, R62 to R65, R67 to R70; 15 R323, R326 to R328: Campion places one gang on the first quad it fits and counts it in
its turn; KLAUNCH kills the gangs of a launch; an eviction ends with every context saved; a workgroup leaves once over, a gang
retires and goes once drained; DONE counts the launch once. What is due stands in the model's agenda (log 1); log 18 names the
model's own choices in it. -/
def Obligations.Campion : Prop :=
  let quiet (s : State) (chip : Nat) : Prop := ((s.chip chip).sys.rootrcb = 0 ∧ (s.chip chip).regions = []) ∨
    (s.repl chip).out = true ∨ (s.chip chip).powered = false ∨ (s.chip chip).draining = true
  let plain (mode : BitVec 19) : Prop := recording mode = false ∧ replaying mode = false
  let state (t : State) (g : Nat) : Option GangSt := (t.gang? g).map Gang.st
  (∀ chip s, quiet s chip → Happens (.campionPlacement chip) s fun t => t = s) ∧
  (∀ chip s path rcb rec quad cores u1, ¬ quiet s chip → s.strongOpen chip = true →
    let u := (((((s.regions chip).foldl (fun s r => (s.numberList chip r).2) s).regionStates chip).replayChecks chip).refreshTimes
      chip).drainBack chip
    let q := u.launchRec chip rec
    (u.chip chip).sys.rootrcb ≠ 0 → walkTree walkFuel u chip (u.chip chip).sys.rootrcb = some (rcb, path) → u.work chip rcb = some (.claim rec) →
    u.isOrdered chip rcb rec = false → plain (u.effMode chip rcb) →
    u.firstFit chip (q.need rcb ((u.effMode chip rcb).getLsbD 1) none) (u.quadsInTurn chip) = some (quad, cores) →
    u.recOp chip (rec + 0x40) 0 .n64 1 0 = (q.nextg, u1) → q.nextg < q.ngang →
    ∃ t g k, exec (.campionPlacement chip) s = .next t ∧ (t.chip chip).nextQuad = (quad + 1) % 16 ∧ t.gang? g = some k ∧
      (k.launch, k.idx, k.rcb, k.chip, k.quad, k.st) = (rec, q.nextg, rcb, chip, quad, .resident) ∧ k.wgs.length = cores.length ∧
      ∀ i c, cores[i]? = some c → ∃ id x, k.wgs[i]? = some id ∧ t.wg? id = some x ∧ (x.core, x.gang, x.idx) = (c, g, i)) ∧
  (∀ chip value s, Happens (.klaunchWrite chip value) s fun t => s.SameStore t ∧ ∀ g k, s.gang? g = some k →
    (k.chip = chip → k.launch = value.toNat → k.st ≠ .exited → k.st ≠ .retired →
      (t.gang? g).map (fun k => (k.st, k.endsLaunch)) = some (.killed, true)) ∧
    ((∃ n, Table.numbered s.gangs n = true) → (∀ h ∈ s.gangs, h.2.launch = value.toNat → h.2.fdom = 0) → k.launch ≠ value.toNat → t.gang? g = some k)) ∧
  (∀ g s k, s.gang? g = some k → k.st = .saving ∨ k.st = .swapping →
    (∃ id x w y, id ∈ k.wgs ∧ s.wg? id = some x ∧ w ∈ x.waves ∧ s.wave? w = some y ∧ y.still = false) →
    Happens (.contextSave g) s fun t => s.SameBytes t ∧ t.gang? g = some k ∧ .contextSave g ∈ t.agenda) ∧
  (∀ g s k, s.gang? g = some k → k.st = .saving ∨ k.st = .swapping → k.wgs.Nodup →
    (∀ id x, id ∈ k.wgs → s.wg? id = some x → x.handler = none ∧ s.wgStill id x = true ∧ s.wavesThat x Wave.saveDue = []) →
    s.unmarked k true = [] →
    Happens (.contextSave g) s fun t => s.SameBytes t ∧ state t g = some (if k.st = .swapping then .swapped else .preempted) ∧
      ∀ id x, id ∈ k.wgs → s.wg? id = some x → (t.wg? id).map (fun y => (y.segMap.length, y.oslots.length, y.aslots.length)) =
        some (if x.gave then (x.segMap.length, x.oslots.length, x.aslots.length)
          else (x.segMap.length - x.takenSegs, x.oslots.length - x.takenO, x.aslots.length - x.takenA))) ∧
  (∀ g s k id x w r q f s1, s.gang? g = some k → k.st = .saving ∨ k.st = .swapping → k.wgs = [id] → s.wg? id = some x → x.handler = none →
    s.wgStill id x = true → (∀ v ∈ x.waves, ∀ y, s.wave? v = some y → y.still = true) → s.wavesThat x Wave.saveDue = w :: r →
    s.whoOf w = some q → q.x.wg = id → q.x.handler = none → q.g.runVa w = some f → q.g.trapv ≠ 0 →
    State.saveTouch q.g [f, f + 4096] s = (true, s1) → s.inFlight = 0 → s.unmarked k true = [] →
    (s1.blocksReady (.contextSave q.wg.gang) (s1.saveBlocks q.g (saveOffsets.map fun o => f + BitVec.ofNat 64 o))).1 = true →
    Happens (.contextSave g) s fun t => (t.wave? w).map (fun y => (y.handler, y.trapcause, y.frec.addr)) = some (some .save, 0, f) ∧
      state t g = some k.st) ∧
  (∀ g s k, s.gang? g = some k → k.st = .restoring → k.runs = [] →
    (∀ id x, id ∈ k.wgs → s.wg? id = some x → x.handler = none ∧ s.wavesThat x (fun y => y.save = .back) = []) →
    Happens (.contextSave g) s fun t => s.SameStore t ∧ state t g = some .resident) ∧
  (∀ g s k, s.gang? g = some k → s.swapsNow k = false → Happens (.swapOut g) s fun t => t = s) ∧
  (∀ g s k es runs, s.gang? g = some k → s.swapsNow k = true → plain k.mode → es = (k.wgs.filterMap fun id => (s.wg? id).map fun x =>
      { wg := id, waves := x.waves, segs := x.segMap.length, osl := x.oslots.length, asl := x.aslots.length }) →
    s.evictable k es = some runs → Happens (.swapOut g) s fun t => state t g = some .swapping ∧ .contextSave g ∈ t.agenda) ∧
  (∀ id s x k, s.wg? id = some x → s.gang? x.gang = some k → s.liveWaves x.waves ≠ [] →
    Happens (.workgroupExit id) s fun t => t = s) ∧
  (∀ id s x k, s.wg? id = some x → s.gang? x.gang = some k → s.liveWaves x.waves = [] → k.st = .resident → x.exiting = true →
    s.wgOver id x = true → (∃ n, Table.numbered s.wgs n = true) → ∃ t, exec (.workgroupExit id) s = .next t ∧ s.SameBytes t ∧
      t.wg? id = none ∧ (∀ w ∈ x.waves, t.wave? w = none) ∧
      ((∀ j ∈ k.wgs, j ≠ id → s.wg? j = none) → state t x.gang = some .exited ∧ .gangRetire x.gang ∈ t.agenda)) ∧
  (∀ g s k, s.gang? g = some k → (∀ id ∈ k.wgs, s.wg? id = none) → k.st = .exited → k.ordered = false → s.strongOpen k.chip = true →
    Happens (.gangRetire g) s fun t => state t g = some .retired ∧ .gangRetire g ∈ t.agenda) ∧
  (∀ g s k, s.gang? g = some k → (∀ id ∈ k.wgs, s.wg? id = none) → k.st = .retired →
    Happens (.gangRetire g) s fun t => s.SameStore t ∧
      if s.drained g = true then (∃ n, Table.numbered s.gangs n = true) → t.gang? g = none else t.gang? g = some k) ∧
  (∀ chip r s, r ∈ (s.chip chip).ended → s.unretired chip r = false → (∀ g ∈ s.gangs, g.2.launch ≠ r) →
    (s.launchRec chip r).done = 0 → Happens (.launchDone chip r) s fun t => s.SameStore t ∧ r ∉ (t.chip chip).ended) ∧
  (∀ chip r s, r ∈ (s.chip chip).ended → s.unretired chip r = false → (∀ g ∈ s.gangs, g.2.launch ≠ r) →
    let a := (s.launchRec chip r).done
    let c := (s.repl chip).col
    a ≠ 0 → a % 8 = 0 → s.strongOpen chip = true → c ∈ (s.repl chip).members → c < 8 → s.canonical = true →
    Happens (.launchDone chip r) s fun t => r ∉ (t.chip chip).ended ∧
      Memory.readLe (t.repl c).replica a 8 = (Memory.readLe (s.repl c).replica a 8 + 1) % 2 ^ 64)

/-! ### Write lanes, host lines, HDM -/

/-- 08 R180, R181; 11 R248, R249; 17 R355, R356: a write lane grants one waiting block within WCAP and a window's counts start
again; a fill gives the caching chip the line and takes M and E from the others, and of a full set the lowest line goes (log 7 chose
which); snoops share, invalidate or leave it; HDM reads let
the host hold a block and HDM writes put their bytes at the home or in the replica; a BIRsp gives the block up. What is due stands
in the model's agenda (log 1). -/
def Obligations.LanesAndHostPort : Prop :=
  let lineSt (s : State) (c n : Nat) : Option HostSt := Table.look (s.chip c).hostLines n
  let kept (s : State) : Prop := ∀ c, ∃ n, Table.numbered (s.chip c).hostLines n = true
  let addr (b : Nat) : Nat := b * 64
  let given (s : State) (mask : DWord) (data : List Byte) (base a : Nat) : Byte :=
    if base ≤ a ∧ a < base + 64 ∧ mask.getLsbD (a - base) = true then data.getD (a - base) 0 else s.byte a
  (∀ k s, s.stackLive k = true → (s.laneWaiters k).filter (fun e => s.capRoom k e.gang) = [] →
    Happens (.writeLaneGrant k) s fun t => t = s) ∧
  (∀ k s, s.stackLive k = true → (∃ e ∈ s.laneWaiters k, s.capRoom k e.gang = true) → Happens (.writeLaneGrant k) s fun t => s.SameStore t ∧
    ∃ w ∈ s.laneWaiters k, s.capRoom k w.gang = true ∧ w.event ∈ t.agenda ∧
      (∀ e, w.copy = false → Table.look (s.core w.core).wq w.id = some e → Table.look (t.core w.core).wq w.id = some { e with granted := true }) ∧
      (∀ e, w.copy = true → Table.look (s.core w.core).copies w.id = some e →
        Table.look (t.core w.core).copies w.id = some { e with lane := none, granted := true }) ∧
      (∀ o ∈ s.laneWaiters k, s.capRoom k o.gang = true → (s.laneBudget o.gang).1 = 0 ∨ (s.laneBudget w.gang).1 ≠ 0) ∧
      (∀ o ∈ s.laneWaiters k, s.capRoom k o.gang = true → o.rcb = w.rcb → (s.laneBudget o.gang).1 = (s.laneBudget w.gang).1 → w.id ≤ o.id) ∧
      (1 < (s.laneWaiters k).length → .writeLaneGrant k ∈ t.agenda)) ∧
  (∀ k s, Happens (.wcapWindow k) s fun t => s.SameStore t ∧ (t.cluster k).wcap = [] ∧
    (s.laneWaiters k ≠ [] → .writeLaneGrant k ∈ t.agenda)) ∧
  (∀ c n s, hostLine n = true → s.chipExists c = true → lineSt s (s.hostCache c) n = none → s.takesLine c n = true →
    Happens (.hostLineFill c n) s fun t => s.SameStore t ∧ (∃ v, lineSt t (s.hostCache c) n = some v ∧ (v = .s ∨ v = .e ∧ ∀ d, d < 8 → d ≠ s.hostCache c → lineSt s d n = none)) ∧
      ∀ d, d < 8 → d ≠ s.hostCache c → lineSt t d n = (lineSt s d n).map fun v => if v = .m then .o else if v = .e then .s else v) ∧
  (∀ c n s a r, hostLine n = true → s.chipExists c = true → s.hostDirChip (n * 64) = s.hostCache c →
    s.hostSet (s.hostCache c) (n % hostSets) = a :: r → 16 ≤ (a :: r).length → n ∉ a :: r →
    Happens (.hostLineFill c n) s fun t => lineSt t (s.hostCache c) n ≠ none ∧ lineSt t (s.hostCache c) (r.foldl min a) = none) ∧
  (∀ c n s, (lineSt s (s.hostCache c) n).isSome = true → Happens (.hostLineFill c n) s fun t => t = s) ∧
  (∀ c n s, hostLine n = true → s.chipExists c = true → Happens (.snpData c n) s fun t => s.SameStore t ∧
    ∀ d l, lineSt t d l = if l = n then (lineSt s d l).map (fun _ => .s) else lineSt s d l) ∧
  (∀ c n s, hostLine n = true → s.chipExists c = true → kept s → s.canonical = true → Happens (.snpInv c n) s fun t =>
    (∀ d l, lineSt t d l = if l = n then none else lineSt s d l) ∧ (∀ a, a < n * 64 ∨ n * 64 + 64 ≤ a → t.byte a = s.byte a) ∧
      ∀ d g, g ∈ (s.chip d).hostRegs → d < 8 → g.line = n / 2 → (t.wave? g.wave).map Wave.fired = (s.wave? g.wave).map fun _ => true) ∧
  (∀ c n s, Happens (.snpCur c n) s fun t => t = s) ∧
  (∀ c b own s, s.cxlUp c = false → Happens (.hdmRead c b own) s fun t => t = s) ∧
  (∀ c b own s, s.cxlUp c = true → Happens (.hdmRead c b own) s fun t => s.SameStore t ∧
    (addr b < 2 ^ 41 → s.stackLive (stackOf (addr b)) = true → addr b % 2 ^ 36 < (62 - (s.repl c).rsegsz) * 2 ^ 30 →
      b ∈ (t.cluster (stackOf (addr b))).hostHeld ∧ (own = true → b ∈ (t.cluster (stackOf (addr b))).hostOwned)) ∧
    (2 ^ 41 ≤ addr b → addr b - 2 ^ 41 < reservedBase (s.repl c).rsegsz → (addr b - 2 ^ 41) / 64 ∈ (t.repl c).hostHeld)) ∧
  (∀ c b mask data s, s.cxlUp c = true → mask ≠ 0 → (s.chip c).hostWrites = [] → s.canonical = true → addr b < 2 ^ 41 →
    s.stackLive (stackOf (addr b)) = true → addr b % 2 ^ 36 < (62 - (s.repl c).rsegsz) * 2 ^ 30 → s.reaches c (addr b) = true →
    s.dirMayWrite (regionOf (addr b)) (.run (hdmTurn c)) = true → s.tagFails (addr b) (s.chip c).sys.hbuf.toNat = false →
    Happens (.hdmWrite c b mask data) s fun t => (∀ a, t.byte a = given s mask data (addr b) a) ∧ (t.chip c).hostWrites = []) ∧
  (∀ c b mask data s, s.cxlUp c = true → mask ≠ 0 → (s.chip c).hostWrites = [] → addr b < 2 ^ 41 → s.stackLive (stackOf (addr b)) = true →
    addr b % 2 ^ 36 < (62 - (s.repl c).rsegsz) * 2 ^ 30 → s.reaches c (addr b) = false ∨ (∃ e, s.dir? (regionOf (addr b)) = some e ∧ e.asked ≠ []) →
    Happens (.hdmWrite c b mask data) s fun t => s.SameStore t ∧ (t.chip c).hostWrites = [(b, mask, data)] ∧
      .hdmWrite c 0 0 [] ∈ t.agenda) ∧
  (∀ c b mask data s, s.cxlUp c = true → mask ≠ 0 → (s.chip c).hostWrites = [] → s.canonical = true → 2 ^ 41 ≤ addr b →
    addr b - 2 ^ 41 < reservedBase (s.repl c).rsegsz → (s.repl c).canCreate = true →
    s.replFails c ((addr b - 2 ^ 41) / 64) = false → (∀ i, i < 64 → s.fixedByte c (addr b - 2 ^ 41 + i) = false) →
    Happens (.hdmWrite c b mask data) s fun t => (∀ a, t.byte a = s.byte a) ∧ (t.repl c).own = (s.repl c).own + 1 ∧
      ∀ a, t.replByte c a = if addr b - 2 ^ 41 ≤ a ∧ a < addr b - 2 ^ 41 + 64 ∧ mask.getLsbD (a - (addr b - 2 ^ 41)) = true
        then data.getD (a - (addr b - 2 ^ 41)) 0 else s.replByte c a) ∧
  (∀ c b s, addr b < 2 ^ 41 → b ∈ (s.cluster (stackOf (addr b))).biWait → Happens (.birsp c b) s fun t => s.SameStore t ∧
    b ∉ (t.cluster (stackOf (addr b))).hostHeld ∧ b ∉ (t.cluster (stackOf (addr b))).hostOwned ∧ b ∉ (t.cluster (stackOf (addr b))).biWait ∧
    ∀ k ∈ s.cores, ∀ e ∈ k.2.wq, e.2.held = false → e.2.repl = false → e.2.block = b → .wqEntryPerform k.1 e.1 ∈ t.agenda) ∧
  (∀ c b s, 2 ^ 41 ≤ addr b → b - 2 ^ 35 ∈ (s.repl c).biWait → Happens (.birsp c b) s fun t => s.SameStore t ∧
    b - 2 ^ 35 ∉ (t.repl c).hostHeld ∧ b - 2 ^ 35 ∉ (t.repl c).biWait ∧ .packetApply c ∈ t.agenda ∧ .colGrant c ∈ t.agenda) ∧
  (∀ c b s, (addr b < 2 ^ 41 → b ∉ (s.cluster (stackOf (addr b))).biWait ∧ b ∉ (s.cluster (stackOf (addr b))).biData) →
    (2 ^ 41 ≤ addr b → b - 2 ^ 35 ∉ (s.repl c).biWait) → Happens (.birsp c b) s fun t => t = s)

/-! ### Register windows, clocks, resets -/

/-- 00 R5; 10 R234, R235; 16 R352; 17 R357, R361, R362, R365, R367: what a write of each register with a behaviour of its own does,
what the register window makes of an offset, and what some of its registers read as; reports, keys and the core clock. What is due
stands in the model's agenda (log 1). -/
def Obligations.RegisterWindows : Prop :=
  let sys (t : State) (c : Nat) : SysRegs := (t.chip c).sys
  let same (s t : State) (c : Nat) : Prop := ∀ d, d ≠ c → t.chip d = s.chip d
  let still (s : State) : Prop := ∀ c ∈ (s.repl s.lowRank).members, ∀ r ∈ s.regions c, s.regionState c r ≠ 1
  let key (t : State) (c id : Nat) : Nat := Table.at (t.chip c).keys id 0
  let id (v : DWord) : Nat := v.toNat / 2 ^ 8 % 2 ^ 8
  (∀ c (v : DWord) s, Happens (.lagmaxWrite c v) s fun t => s.SameStore t ∧ same s t c ∧ (t.repl c).lagmax = min (v.toNat % 2 ^ 17) 65536) ∧
  (∀ c (v : DWord) s, Happens (.holdmaxWrite c v) s fun t => s.SameStore t ∧ same s t c ∧
    (t.repl c).holdmax = if v.toNat % 2 ^ 22 = 0 then 1 else v.toNat % 2 ^ 22) ∧
  (∀ c (v : DWord) s, Happens (.acklimWrite c v) s fun t => s.SameStore t ∧ same s t c ∧
    (t.repl c).acklim = if v.toNat % 2 ^ 22 = 0 then 1 else v.toNat % 2 ^ 22) ∧
  (∀ c (v : DWord) s, (s.chip c).powered = true → still s → Happens (.rsegszWrite c v) s fun t => s.SameStore t ∧
    ∀ m, (t.repl m).rsegsz = if m ∈ (s.repl s.lowRank).members then
      (if v.toNat % 64 = 0 then 1 else if 32 < v.toNat % 64 then 32 else v.toNat % 64) else (s.repl m).rsegsz) ∧
  (∀ c (v : DWord) s, (s.chip c).powered = true → still s → Happens (.rootrcbWrite c v) s fun t => s.SameStore t ∧
    (∀ m, (sys t m).rootrcb = if m ∈ (s.repl s.lowRank).members then v.toNat % 2 ^ 35 else (sys s m).rootrcb) ∧
    ∀ m ∈ (s.repl s.lowRank).members, .campionPlacement m ∈ t.agenda) ∧
  (∀ c (v : DWord) s, ¬ still s ∨ (s.chip c).powered = false → (Happens (.rsegszWrite c v) s fun t => t = s) ∧ Happens (.rootrcbWrite c v) s fun t => t = s) ∧
  (∀ c v s, Happens (.fencedWrite c v) s fun t => s.SameStore t ∧ same s t c ∧
    ∀ i, i < 64 → (t.chip c).dbg.fenced.getLsbD i = ((s.chip c).dbg.fenced.getLsbD i && !v.getLsbD i)) ∧
  (∀ c v s, s.cxlUp c = false ∨ v.getLsbD 0 = false ∨ (sys s c).hsstat = 1 → Happens (.hsgoWrite c v) s fun t => t = s) ∧
  (∀ c v s, s.cxlUp c = true → v.getLsbD 0 = true → (sys s c).hsstat ≠ 1 → s.mailboxReq c = none → Happens (.hsgoWrite c v) s fun t =>
    s.SameStore t ∧ (sys t c).hsstat = 3) ∧
  (∀ c v s q, s.cxlUp c = true → v.getLsbD 0 = true → (sys s c).hsstat ≠ 1 → s.mailboxReq c = some q → (s.chip c).hostWrites = [] →
    (s.repl c).vst = .normal → (s.repl c).outstanding.length < 512 → Happens (.hsgoWrite c v) s fun t => s.SameStore t ∧
      (sys t c).hsstat = 1 ∧ .colGrant c ∈ t.agenda ∧ Table.look (t.repl c).outstanding (s.repl c).rqcnt = some .host ∧
      (t.repl c).pending = (s.repl c).pending ++ [{ q with rank := c, rq := (s.repl c).rqcnt, vec := (s.repl c).applied }]) ∧
  (∀ c v s, v.getLsbD 0 = false ∨ (sys s c).astat = 1 → Happens (.areqWrite c v) s fun t => t = s) ∧
  (∀ c v s, v.getLsbD 0 = true → (sys s c).astat ≠ 1 → Happens (.areqWrite c v) s fun t => s.SameStore t ∧ same s t c ∧
    sys t c = { sys s c with astat := 1 } ∧ .attestReportReady c ∈ t.agenda) ∧
  (∀ c s, (sys s c).astat = 1 → Happens (.attestReportReady c) s fun t => s.SameStore t ∧ same s t c ∧ (sys t c).astat = 2 ∧
    let body := bytesOfNat 32 (sys s c).nonce.toNat ++ [BitVec.ofNat 8 c, BitVec.ofNat 8 (s.repl c).view,
        BitVec.ofNat 8 ((if (sys s c).fixclk then 1 else 0) + if (s.chip c).dbg.schk then 2 else 0)] ++ List.replicate 5 0 ++
      ((sys s c).meas.flatMap fun m => bytesOfNat 64 m.toNat) ++ bytesOfNat 57 (Config.identityKey c).toNat
    (sys t c).arep = BitVec.ofNat 4096 (natOfBytes (body ++
      bytesOfNat 114 (Config.signature c (BitVec.ofNat 512 (natOfBytes (shake256 body 64)))).toNat))) ∧
  (∀ c (v : DWord) s, id v ≠ 0 → Happens (.keycmdDraw c v) s fun t => s.SameStore t ∧ ∃ g, g ≠ 0 ∧ ∀ d, d < 8 → s.chipExists d = true →
    ∀ k, key t d k = if k = id v then g else key s d k) ∧
  (∀ c (v : DWord) s, id v ≠ 0 → Happens (.keycmdErase c v) s fun t => s.SameStore t ∧ ∀ d, d < 8 → s.chipExists d = true →
    ∀ k, key t d k = if k = id v then 0 else key s d k) ∧
  (∀ c (v : DWord) s, let logged (t : State) : Prop := s.SameStore t ∧ s.SameChips t ∧
      (t.chip c).hk = (s.chip c).hk ++ [{ what := 0x362, args := [v.toNat] }]
    (Happens (.keycmdInvalid c v) s logged) ∧
    (id v = 0 → (Happens (.keycmdDraw c v) s logged) ∧ Happens (.keycmdErase c v) s logged)) ∧
  (∀ c s, Happens (.fixclkSet c) s fun t => s.SameStore t ∧ ∀ m, sys t m =
    if m ∈ (s.repl c).members then { sys s m with fixclk := true, clkmhz := 540 } else sys s m) ∧
  (∀ c s, Happens (.fixclkClear c) s fun t => s.SameStore t ∧ ∀ m, sys t m =
    if m ∈ (s.repl c).members then { sys s m with fixclk := false } else sys s m) ∧
  (∀ c s, (sys s c).fixclk = true → Happens (.coreClockStep c 600) s fun t => t = s) ∧
  (∀ c n s, (sys s c).fixclk = false → 0 < n → n ≤ 24 →
    (sys s c).clkmhz = 25 * n + 25 ∨ (sys s c).clkmhz = 25 * n ∨ (sys s c).clkmhz + 25 = 25 * n →
    Happens (.coreClockStep c (25 * n)) s fun t => s.SameStore t ∧ same s t c ∧ sys t c = { sys s c with clkmhz := 25 * n }) ∧
  (∀ c (v : DWord) s,
    exec (.registerWrite c 0x120 v) s = exec (.areqWrite c v) s ∧
    exec (.registerWrite c 0x400 v) s = exec (if v.toNat % 4 = 1 then .keycmdDraw c v else if v.toNat % 4 = 2 then .keycmdErase c v
      else .keycmdInvalid c v) s ∧
    exec (.registerWrite c 0x10000 v) s = exec (if v.getLsbD 0 = true then .fixclkSet c else .fixclkClear c) s ∧
    (v.toNat % 4 = 1 → exec (.registerWrite c 0x20000 v) s = exec (.rstctlWarm c) s) ∧
    (v.toNat % 4 = 2 → exec (.registerWrite c 0x20000 v) s = exec (.rstctlIsolate c) s) ∧
    exec (.registerWrite c 0x30000 v) s = exec (.rootrcbWrite c v) s ∧ exec (.registerWrite c 0x30030 v) s = exec (.hsgoWrite c v) s ∧
    exec (.registerWrite c 0x40018 v) s = exec (.lagmaxWrite c v) s ∧ exec (.registerWrite c 0x40020 v) s = exec (.holdmaxWrite c v) s ∧
    exec (.registerWrite c 0x40028 v) s = exec (.acklimWrite c v) s ∧ exec (.registerWrite c 0x40038 v) s = exec (.rjoinWrite c v) s ∧
    exec (.registerWrite c 0x40088 v) s = exec (.rsegszWrite c v) s ∧ exec (.registerWrite c 0x50008 v) s = exec (.prlenWrite c v) s ∧
    exec (.registerWrite c 0x50010 v) s = exec (.prheadWrite c v) s ∧ exec (.registerWrite c 0x50028 v) s = exec (.klaunchWrite c v) s ∧
    exec (.registerWrite c 0x60028 v) s = exec (.fencedWrite c v) s) ∧
  (∀ c o (v : DWord) s, o ∈ [0x0, 0x128, 0x200, 0x10008, 0x30038, 0x30040, 0x40000, 0x40008, 0x40040, 0x40080, 0x50018, 0x80000] →
    Happens (.registerWrite c o v) s fun t => t = s) ∧
  (∀ c (v : DWord) s, let writes (o : Nat) (p : State → Prop) : Prop := Happens (.registerWrite c o v) s fun t => s.SameStore t ∧ same s t c ∧ p t
    writes 0x10018 (fun t => sys t c = { sys s c with pcap := v.toNat % 2 ^ 11 }) ∧
    writes 0x10010 (fun t => sys t c = { sys s c with fixlost := (sys s c).fixlost && !v.getLsbD 0 }) ∧
    (c % 2 = 0 → writes 0x30008 (fun t => sys t c = { sys s c with hbuf := v.setWidth 16 }) ∧
      writes 0x30010 (fun t => (sys t c).hsaddr.toNat = v.toNat % 2 ^ 35) ∧ writes 0x30018 (fun t => sys t c = { sys s c with hsopa := v }) ∧
      writes 0x30020 (fun t => sys t c = { sys s c with hsopb := v })) ∧
    (c % 2 = 1 → writes 0x30008 (fun t => sys t c = sys s c)) ∧
    writes 0x40010 (fun t => (t.repl c).lagwarn = v.toNat % 2 ^ 17) ∧
    writes 0x40030 (fun t => ∀ i, (t.repl c).revt.getLsbD i = ((s.repl c).revt.getLsbD i && !v.getLsbD i)) ∧
    writes 0x50000 (fun t => (t.chip c).ring.base = v.toNat % 2 ^ 48) ∧
    writes 0x60000 (fun t => (t.chip c).dbg = { (s.chip c).dbg with steplr := v }) ∧
    writes 0x60020 (fun t => (t.chip c).dbg.schk = v.getLsbD 0)) ∧
  (∀ (c o : Nat) (s : State), o ∈ [0x100, 0x120, 0x400, 0x20000, 0x30030, 0x40038, 0x50028] → s.regRead c o = 0) ∧
  (∀ (c : Nat) (s : State), s.regRead c 0x60000 = (s.chip c).dbg.steplr ∧ s.regRead c 0x60028 = (s.chip c).dbg.fenced ∧
    (s.regRead c 0x10018).toNat = (sys s c).pcap % 2 ^ 11 ∧ (s.regRead c 0x50000).toNat = (s.chip c).ring.base % 2 ^ 48 ∧
    ∀ i, (s.regRead c 0x10010).getLsbD i = (decide (i = 0) && (sys s c).fixlost) ∧
      (s.regRead c 0x40030).getLsbD i = (decide (1 ≤ i ∧ i < 5) && (s.repl c).revt.getLsbD i))

/-- 12 R269; 17 R360, R363, R365: a warm reset stops the gangs of every member and, once all have drained, restarts counts with
memory, sectors and tags kept; an isolated chip leaves itself out of the view; a cold reset restarts the module and records the
measurement of its firmware; heat in fixed-clock mode lowers the clock, at 105 °C the chip leaves; a channel is retired. What is due
stands in the model's agenda (log 1); log 20 names the model's own choices in it. -/
def Obligations.Resets : Prop :=
  let isolates (i : Instr) (c : Nat) : Prop := ∀ s, c < 8 → (s.repl c).vst = .normal → Happens i s fun t => s.SameStore t ∧
    (t.repl c).vst = .propose ∧ ∃ ms, (t.repl c).proposals = [(c, ms)] ∧ c ∉ ms
  let going (s : State) (c : Nat) : List Nat := (s.repl c).members.filter fun m => (s.chip m).draining && !(s.repl m).out
  (∀ c s, c ∉ (s.repl c).members → Happens (.rstctlWarm c) s fun t => t = s) ∧
  (∀ c s, c ∈ (s.repl c).members → (∃ n, Table.numbered s.gangs n = true) → Happens (.rstctlWarm c) s fun t => s.SameStore t ∧ ∀ m ∈ (s.repl c).members, (t.chip m).draining = true ∧
    ((s.chip m).draining = false → .warmDrainComplete m ∈ t.agenda ∧ ∀ g k, s.gang? g = some k → k.chip = m → k.onChip = true →
      k.st ≠ .retired → (t.gang? g).map Gang.st = some .killed ∧ (k.st ≠ .killed → k.entry ∈ (t.chip m).again))) ∧
  (∀ c s, (s.chip c).draining = false → Happens (.warmDrainComplete c) s fun t => t = s) ∧
  (∀ c s, (s.chip c).draining = true → c ∈ going s c → (∀ m ∈ going s c, s.warmDrained m = true) →
    Happens (.warmDrainComplete c) s fun t => (∀ a, t.byte a = s.byte a) ∧ ∀ m ∈ going s c, (t.chip m).draining = false ∧
      (t.repl m).view = 0 ∧ (t.repl m).own = 0 ∧ (∀ j, vecAt (t.repl m).applied j = 0) ∧ (t.repl m).nextSlot = 0 ∧
      (t.repl m).replica = (s.repl m).replica ∧ (t.repl m).tags = (s.repl m).tags) ∧
  (∀ c s, (s.chip c).draining = true → (∃ m ∈ going s c, s.warmDrained m = false) →
    Happens (.warmDrainComplete c) s fun t => s.SameStore t ∧ .warmDrainComplete c ∈ t.agenda ∧ (t.chip c).draining = true) ∧
  (∀ c s, c < 8 → (s.chip c).draining = true → (s.repl c).acklim < (s.chip c).drainClock → s.warmDrained c = false → (s.repl c).vst = .normal →
    Happens (.warmDrainTimeout c) s fun t => s.SameStore t ∧ (t.chip c).draining = false ∧ (t.repl c).vst = .propose ∧
      ∃ ms, (t.repl c).proposals = [(c, ms)] ∧ c ∉ ms) ∧
  (∀ c s, (s.chip c).draining = false ∨ (s.chip c).drainClock ≤ (s.repl c).acklim ∨ s.warmDrained c = true →
    Happens (.warmDrainTimeout c) s fun t => t = s) ∧
  (∀ c, isolates (.rstctlIsolate c) c ∧ isolates (.chipFaultLasting c) c) ∧
  (∀ c s, ∃ t, exec (.coldReset c) s = .next t ∧ t.mf4 = s.mf4 ∧ t.gangs = [] ∧ t.waves = [] ∧ t.agenda = [] ∧ t.links = [] ∧
    ∀ m ∈ presentChips s.mf4, (t.repl m).view = 0 ∧ (t.repl m).own = 0 ∧ (t.repl m).nextSlot = 0 ∧ (t.repl m).tags = [] ∧
      (∀ j, vecAt (t.repl m).applied j = 0) ∧ (t.chip m).sys.fixclk = false ∧ (t.chip m).sys.clkmhz = 600 ∧
      let digest := BitVec.ofNat 512 (natOfBytes (shake256 (Config.firmwareImage m) 64))
      (t.chip m).sys.meas = bootMeas m ∧ (t.chip m).sys.meas.head? = some digest ∧
      if Config.imageVerifies m digest = true then (t.repl m).members = (presentChips s.mf4).filter firmwareGood
        else (t.repl m).out = true) ∧
  (∀ c s, Happens (.cxlLinkReset c) s fun t => t = s) ∧
  (∀ c s, (s.chip c).sys.fixclk = true → Happens (.thermal95c c) s fun t => s.SameStore t ∧
    (t.chip c).sys = { (s.chip c).sys with clkmhz := (s.chip c).sys.clkmhz - 25, fixlost := true } ∧
    (t.chip c).hk = (s.chip c).hk ++ [{ what := 0x365, args := [95] }]) ∧
  (∀ c s, (s.chip c).sys.fixclk = false → Happens (.thermal95c c) s fun t => t = s) ∧
  (∀ c s, c < 8 → (s.chip c).powered = true → Happens (.thermal105c c) s fun t => (t.chip c).powered = false ∧ (t.repl c).vst = .out ∧
    (∀ d, d < 8 → d ≠ c → s.chipExists d = true → t.linkUp c d = false) ∧
    ∀ g k, s.gang? g = some k → k.chip = c → k.st ≠ .retired → (t.gang? g).map Gang.st = some .killed) ∧
  (∀ c s, (s.chip c).powered = false → Happens (.thermal105c c) s fun t => t = s) ∧
  (∀ k n s, Happens (.channelRetirement k n) s fun t => n ∈ (t.cluster k).retired ∧
    (∃ l, (t.chip (chipOfStack k)).hk = (s.chip (chipOfStack k)).hk ++ { what := 0x269, args := [k, n] } :: l) ∧
    ((∀ e ∈ (s.cluster k).dir, e.1 / 16 % 16 = n → e.2.sharers = []) → s.SameStore t))

/-! ### The machine: decoding, steps, reset, invariants -/

/-- 05 R97 to R112, R116: every well-formed instruction but the events, which have no words, is what its own bytes decode to,
whatever follows; and words that decode give a well-formed instruction whose words they are. -/
def Obligations.DecodeEncode : Prop :=
  (∀ i r, i.wf = true → i.form ≠ .event → decodeBytes (encode i ++ r) = .ok i) ∧
  ∀ ws i, decodeWords ws = .ok i → i.wf = true ∧ i.form ≠ .event ∧ ∃ r, ws = encodeWords i ++ r

/-- Words written out from 05 Tables 5.2, 5.4, 5.9, 5.10 and 06 Table 6.1 decode to the instructions they stand for. -/
def Obligations.DecodedWords : Prop :=
  let b (d a c : Opd) : BaseArgs := { BaseArgs.empty with d := d, a := a, b := c }
  let e (d a c g : Opd) (ty : Ty) : ExtArgs :=
    { d := d, a := a, b := c, c := g, ea := false, eb := false, ec := false, ty := ty, rm := .rne, sc := .th, md := 0, aux := 0, x18 := 0
      xb := 0, lit := none }
  -- IADD v4, v5, v6: LEN 00, OP 0x20, D 20, A 21, B 22
  decodeTableWord 32 0x05955080 = some (.iadd (b (.v 4) (.v 5) (.v 6))) ∧
  -- FCMP.lt p2, v5, v6: OP 0x4E, XB 2
  decodeTableWord 32 0x85950938 = some (.fcmp { b (.pred 2 false) (.v 5) (.v 6) with xb := 2 }) ∧
  -- IDIV.n64 v8.d, v10.d, v12.d: LEN 10, OP 0x39, TY 3
  decodeTableWord 96 0x18301408000000E6 = some (.idivExt (e (.v 8) (.v 10) (.v 12) .none .n64)) ∧
  -- FENCE.rel.gn: OP 0x81, MOD 1, SC 3
  decodeTableWord 96 0x000406000000000000000206 = some (.fenceRel { e .none .none .none .none .i32 with md := 1, sc := .gn }) ∧
  -- BAR, GBAR
  decodeTableWord 32 0x000002E0 = some .bar ∧ decodeTableWord 32 0x000002E4 = some .gbar ∧
  -- a first word of LEN 00 with the reserved opcode 0xFF is no instruction
  decodeTableWord 32 0x000003FC = none

/-- 03 R72, R73, 05 R97 (the order of slots and events is the model's, log 1): an event that is due happens as its row says; else
the first wave of the slot's order, with no trap pending, executes the well-formed instruction that its words decode to, and
passed-over waves are counted as the turn moves on. -/
def Obligations.StepRuns : Prop :=
  (∀ s e r, s.phase = .event → s.agenda = e :: r → e.toInstr.form = .event ∧ step s = exec e.toInstr { s with agenda := r, phase := .issue }) ∧
  ∀ s w r k pc ws i t, s.phase = .issue ∨ s.agenda = [] →
    let core := s.turn / 4
    let slot := s.turn % 4
    let u := if slot = 0 then s.tickCore core else s
    u.tryOrder core slot = w :: r → u.whoOf w = some k → k.x.invAbort = false → k.x.page = none → k.x.heldTrap = none → k.x.pendA = [] →
    k.x.issuePc = some pc → u.Text k pc ws → ws.length = wordCount (ws.headD 0) → decodeBytes (ws.flatMap bytesOfWord) = .ok i →
    exec i (u.issuing w ws) = .next t →
    i.wf = true ∧ (t.waited = false → step s = .next ((t.noteIssue exec u core slot w).passTurn)) ∧
      (t.waited = true → r = [] → step s = .next (({ t with waited := false }.idleSlot core slot).passTurn))

/-- 10 R207 and Table 10.8, 15 Table 15.3, 17 Table 17.3: the replication unit and the registers of every present chip at cold
reset; no gang is resident. -/
def Obligations.ResetState : Prop :=
  let s := State.reset
  s.gangs = [] ∧ s.wgs = [] ∧ s.waves = [] ∧ ∀ c, c < 8 →
    ((s.repl c).members = [0, 1, 2, 3, 4, 5, 6, 7] ∧ (s.repl c).view = 0 ∧ (s.repl c).own = 0 ∧
      (∀ j, vecAt (s.repl c).applied j = 0 ∧ vecAt (s.repl c).wrapsApplied j = 0 ∧ Table.at (s.repl c).wrapacks j 0 = 0) ∧
      (s.repl c).rqcnt = 0 ∧ (∀ a, s.replByte c a = 0) ∧ (∀ k, Table.at (s.repl c).tags k 0 = 0) ∧ (s.repl c).col = 0 ∧
      (s.repl c).nextSlot = 0 ∧ (s.repl c).out = false) ∧
    ((s.repl c).lagwarn, (s.repl c).lagmax, (s.repl c).holdmax, (s.repl c).acklim, (s.repl c).rsegsz) = (4096, 65536, 0x200000, 0x100000, 32) ∧
    (s.repl c).revt = 0 ∧ ((s.chip c).ring.base, (s.chip c).ring.len, (s.chip c).ring.head, (s.chip c).ring.tail) = (0, 0, 0, 0) ∧
    ((s.chip c).sys.astat, (s.chip c).sys.clkmhz, (s.chip c).sys.pcap, (s.chip c).sys.rootrcb, (s.chip c).sys.hsstat) = (0, 600, 625, 0, 0) ∧
    (s.chip c).sys.fixclk = false ∧ (s.chip c).sys.fixlost = false ∧ (s.chip c).dbg.fenced = 0 ∧ (s.chip c).dbg.schk = false

/-- The invariant of `StepInvariant` holds after reset (the forms are the model's: log 2). -/
def Obligations.ResetInvariant : Prop := State.reset.canonical = true ∧ State.reset.numbered = true

/-- Every step keeps every byte store in its canonical form, and write-queue entries and outstanding results numbered in the order
they were taken (08 R177; the forms are the model's: log 2). -/
def Obligations.StepInvariant : Prop :=
  ∀ s t, s.canonical = true → s.numbered = true → step s = .next t → t.canonical = true ∧ t.numbered = true

end
end

