-- ==== Sys2Proof/Laws/Tables.lean ====
section
/-! SUPPORT. Sparse tables: what a reader finds after an entry is put, changed or removed. -/

-- One theorem at a time: many at once ask for more threads than the checker has memory for.
set_option Elab.async false

namespace Sys2Proof.Machine

variable {α : Type}

@[simp] theorem Table.look_nil (n : Nat) : Table.look ([] : Table α) n = none := rfl

@[simp] theorem Table.look_put_same (t : Table α) (n : Nat) (x : α) : Table.look (Table.put t n x) n = some x := by
  induction t with
  | nil => simp [Table.put, Table.look]
  | cons e r ih =>
    obtain ⟨k, v⟩ := e
    by_cases h : n < k
    · simp [Table.put, Table.look, h]
    · by_cases e : n = k
      · simp [Table.put, Table.look, e]
      · simp [Table.put, Table.look, h, e, ih]

theorem Table.look_put_other (t : Table α) {n m : Nat} (x : α) (h : m ≠ n) :
    Table.look (Table.put t n x) m = Table.look t m := by
  induction t with
  | nil => simp [Table.put, Table.look, h]
  | cons e r ih =>
    obtain ⟨k, v⟩ := e
    by_cases a : n < k
    · simp [Table.put, Table.look, a, h]
    · by_cases b : n = k
      · subst b; simp [Table.put, Table.look, h]
      · simp [Table.put, Table.look, a, b, ih]

theorem Table.look_put (t : Table α) (n m : Nat) (x : α) :
    Table.look (Table.put t n x) m = if m = n then some x else Table.look t m := by
  by_cases h : m = n
  · subst h; simp
  · simp [h, Table.look_put_other]

@[simp] theorem Table.at_put_same (t : Table α) (n : Nat) (x d : α) : Table.at (Table.put t n x) n d = x := by
  simp [Table.at]

theorem Table.at_put_other (t : Table α) {n m : Nat} (x d : α) (h : m ≠ n) :
    Table.at (Table.put t n x) m d = Table.at t m d := by
  simp [Table.at, Table.look_put_other, h]

theorem Table.at_put (t : Table α) (n m : Nat) (x d : α) :
    Table.at (Table.put t n x) m d = if m = n then x else Table.at t m d := by
  by_cases h : m = n
  · subst h; simp
  · simp [h, Table.at_put_other]

theorem Table.look_modify (t : Table α) (n m : Nat) (f : α → α) :
    Table.look (Table.modify t n f) m = if m = n then (Table.look t n).map f else Table.look t m := by
  unfold Table.modify
  split <;> rename_i h
  · by_cases e : m = n
    · subst e; simp [h]
    · simp [e]
  · simp [Table.look_put, h]

theorem Table.look_mapVals (t : Table α) (f : Nat → α → α) (n : Nat) :
    Table.look (Table.mapVals t f) n = (Table.look t n).map (f n) := by
  induction t with
  | nil => rfl
  | cons e r ih =>
    obtain ⟨k, v⟩ := e
    by_cases h : n = k
    · subst h; simp [Table.mapVals, Table.look]
    · simpa [Table.mapVals, Table.look, h] using ih

theorem Table.look_del_other (t : Table α) {n m : Nat} (h : m ≠ n) :
    Table.look (Table.del t n) m = Table.look t m := by
  induction t with
  | nil => rfl
  | cons e r ih =>
    obtain ⟨k, v⟩ := e
    by_cases a : n = k
    · subst a; simp [Table.del, Table.look, h, ih]
    · simp [Table.del, Table.look, a, ih]

@[simp] theorem Table.look_del (t : Table α) (n : Nat) : Table.look (Table.del t n) n = none := by
  induction t with
  | nil => rfl
  | cons e r ih =>
    obtain ⟨k, v⟩ := e
    by_cases a : n = k
    · subst a; simp [Table.del, ih]
    · simp [Table.del, Table.look, a, ih]

end Sys2Proof.Machine
end

