-- ==== Sys2Proof/Laws/State.lean ====
section
/-! SUPPORT. The state record: each update leaves every other field as it was, and is read back from the field it writes. -/

-- One theorem at a time: many at once ask for more threads than the checker has memory for.
set_option Elab.async false

namespace Sys2Proof.Machine

/-! ### `setCore` -/

@[simp] theorem State.setCore_mf4 (s : State) (c : Nat) (x : Core) : (s.setCore c x).mf4 = s.mf4 := rfl
@[simp] theorem State.setCore_waves (s : State) (c : Nat) (x : Core) : (s.setCore c x).waves = s.waves := rfl
@[simp] theorem State.setCore_wgs (s : State) (c : Nat) (x : Core) : (s.setCore c x).wgs = s.wgs := rfl
@[simp] theorem State.setCore_gangs (s : State) (c : Nat) (x : Core) : (s.setCore c x).gangs = s.gangs := rfl
@[simp] theorem State.setCore_clusters (s : State) (c : Nat) (x : Core) : (s.setCore c x).clusters = s.clusters := rfl
@[simp] theorem State.setCore_chips (s : State) (c : Nat) (x : Core) : (s.setCore c x).chips = s.chips := rfl
@[simp] theorem State.setCore_mem (s : State) (c : Nat) (x : Core) : (s.setCore c x).mem = s.mem := rfl
@[simp] theorem State.setCore_links (s : State) (c : Nat) (x : Core) : (s.setCore c x).links = s.links := rfl
@[simp] theorem State.setCore_linkDown (s : State) (c : Nat) (x : Core) : (s.setCore c x).linkDown = s.linkDown := rfl
@[simp] theorem State.setCore_linkRetry (s : State) (c : Nat) (x : Core) : (s.setCore c x).linkRetry = s.linkRetry := rfl
@[simp] theorem State.setCore_linkResent (s : State) (c : Nat) (x : Core) : (s.setCore c x).linkResent = s.linkResent := rfl
@[simp] theorem State.setCore_tokens (s : State) (c : Nat) (x : Core) : (s.setCore c x).tokens = s.tokens := rfl
@[simp] theorem State.setCore_shapes (s : State) (c : Nat) (x : Core) : (s.setCore c x).shapes = s.shapes := rfl
@[simp] theorem State.setCore_hostBase (s : State) (c : Nat) (x : Core) : (s.setCore c x).hostBase = s.hostBase := rfl
@[simp] theorem State.setCore_upsets (s : State) (c : Nat) (x : Core) : (s.setCore c x).upsets = s.upsets := rfl
@[simp] theorem State.setCore_agenda (s : State) (c : Nat) (x : Core) : (s.setCore c x).agenda = s.agenda := rfl
@[simp] theorem State.setCore_phase (s : State) (c : Nat) (x : Core) : (s.setCore c x).phase = s.phase := rfl
@[simp] theorem State.setCore_turn (s : State) (c : Nat) (x : Core) : (s.setCore c x).turn = s.turn := rfl
@[simp] theorem State.setCore_issuer (s : State) (c : Nat) (x : Core) : (s.setCore c x).issuer = s.issuer := rfl
@[simp] theorem State.setCore_ilen (s : State) (c : Nat) (x : Core) : (s.setCore c x).ilen = s.ilen := rfl
@[simp] theorem State.setCore_iwords (s : State) (c : Nat) (x : Core) : (s.setCore c x).iwords = s.iwords := rfl
@[simp] theorem State.setCore_idest (s : State) (c : Nat) (x : Core) : (s.setCore c x).idest = s.idest := rfl
@[simp] theorem State.setCore_waited (s : State) (c : Nat) (x : Core) : (s.setCore c x).waited = s.waited := rfl
@[simp] theorem State.setCore_free (s : State) (c : Nat) (x : Core) : (s.setCore c x).free = s.free := rfl
@[simp] theorem State.setCore_serial (s : State) (c : Nat) (x : Core) : (s.setCore c x).serial = s.serial := rfl
@[simp] theorem State.setCore_epoch (s : State) (c : Nat) (x : Core) : (s.setCore c x).epoch = s.epoch := rfl
@[simp] theorem State.setCore_written (s : State) (c : Nat) (x : Core) : (s.setCore c x).written = s.written := rfl

/-! ### `modCore` -/

@[simp] theorem State.modCore_mf4 (s : State) (c : Nat) (f : Core → Core) : (s.modCore c f).mf4 = s.mf4 := rfl
@[simp] theorem State.modCore_waves (s : State) (c : Nat) (f : Core → Core) : (s.modCore c f).waves = s.waves := rfl
@[simp] theorem State.modCore_wgs (s : State) (c : Nat) (f : Core → Core) : (s.modCore c f).wgs = s.wgs := rfl
@[simp] theorem State.modCore_gangs (s : State) (c : Nat) (f : Core → Core) : (s.modCore c f).gangs = s.gangs := rfl
@[simp] theorem State.modCore_clusters (s : State) (c : Nat) (f : Core → Core) : (s.modCore c f).clusters = s.clusters := rfl
@[simp] theorem State.modCore_chips (s : State) (c : Nat) (f : Core → Core) : (s.modCore c f).chips = s.chips := rfl
@[simp] theorem State.modCore_mem (s : State) (c : Nat) (f : Core → Core) : (s.modCore c f).mem = s.mem := rfl
@[simp] theorem State.modCore_links (s : State) (c : Nat) (f : Core → Core) : (s.modCore c f).links = s.links := rfl
@[simp] theorem State.modCore_linkDown (s : State) (c : Nat) (f : Core → Core) : (s.modCore c f).linkDown = s.linkDown := rfl
@[simp] theorem State.modCore_linkRetry (s : State) (c : Nat) (f : Core → Core) : (s.modCore c f).linkRetry = s.linkRetry := rfl
@[simp] theorem State.modCore_linkResent (s : State) (c : Nat) (f : Core → Core) : (s.modCore c f).linkResent = s.linkResent := rfl
@[simp] theorem State.modCore_tokens (s : State) (c : Nat) (f : Core → Core) : (s.modCore c f).tokens = s.tokens := rfl
@[simp] theorem State.modCore_shapes (s : State) (c : Nat) (f : Core → Core) : (s.modCore c f).shapes = s.shapes := rfl
@[simp] theorem State.modCore_hostBase (s : State) (c : Nat) (f : Core → Core) : (s.modCore c f).hostBase = s.hostBase := rfl
@[simp] theorem State.modCore_upsets (s : State) (c : Nat) (f : Core → Core) : (s.modCore c f).upsets = s.upsets := rfl
@[simp] theorem State.modCore_agenda (s : State) (c : Nat) (f : Core → Core) : (s.modCore c f).agenda = s.agenda := rfl
@[simp] theorem State.modCore_phase (s : State) (c : Nat) (f : Core → Core) : (s.modCore c f).phase = s.phase := rfl
@[simp] theorem State.modCore_turn (s : State) (c : Nat) (f : Core → Core) : (s.modCore c f).turn = s.turn := rfl
@[simp] theorem State.modCore_issuer (s : State) (c : Nat) (f : Core → Core) : (s.modCore c f).issuer = s.issuer := rfl
@[simp] theorem State.modCore_ilen (s : State) (c : Nat) (f : Core → Core) : (s.modCore c f).ilen = s.ilen := rfl
@[simp] theorem State.modCore_iwords (s : State) (c : Nat) (f : Core → Core) : (s.modCore c f).iwords = s.iwords := rfl
@[simp] theorem State.modCore_idest (s : State) (c : Nat) (f : Core → Core) : (s.modCore c f).idest = s.idest := rfl
@[simp] theorem State.modCore_waited (s : State) (c : Nat) (f : Core → Core) : (s.modCore c f).waited = s.waited := rfl
@[simp] theorem State.modCore_free (s : State) (c : Nat) (f : Core → Core) : (s.modCore c f).free = s.free := rfl
@[simp] theorem State.modCore_serial (s : State) (c : Nat) (f : Core → Core) : (s.modCore c f).serial = s.serial := rfl
@[simp] theorem State.modCore_epoch (s : State) (c : Nat) (f : Core → Core) : (s.modCore c f).epoch = s.epoch := rfl
@[simp] theorem State.modCore_written (s : State) (c : Nat) (f : Core → Core) : (s.modCore c f).written = s.written := rfl

/-! ### `setCluster` -/

@[simp] theorem State.setCluster_mf4 (s : State) (c : Nat) (x : Cluster) : (s.setCluster c x).mf4 = s.mf4 := rfl
@[simp] theorem State.setCluster_waves (s : State) (c : Nat) (x : Cluster) : (s.setCluster c x).waves = s.waves := rfl
@[simp] theorem State.setCluster_wgs (s : State) (c : Nat) (x : Cluster) : (s.setCluster c x).wgs = s.wgs := rfl
@[simp] theorem State.setCluster_gangs (s : State) (c : Nat) (x : Cluster) : (s.setCluster c x).gangs = s.gangs := rfl
@[simp] theorem State.setCluster_cores (s : State) (c : Nat) (x : Cluster) : (s.setCluster c x).cores = s.cores := rfl
@[simp] theorem State.setCluster_chips (s : State) (c : Nat) (x : Cluster) : (s.setCluster c x).chips = s.chips := rfl
@[simp] theorem State.setCluster_mem (s : State) (c : Nat) (x : Cluster) : (s.setCluster c x).mem = s.mem := rfl
@[simp] theorem State.setCluster_links (s : State) (c : Nat) (x : Cluster) : (s.setCluster c x).links = s.links := rfl
@[simp] theorem State.setCluster_linkDown (s : State) (c : Nat) (x : Cluster) : (s.setCluster c x).linkDown = s.linkDown := rfl
@[simp] theorem State.setCluster_linkRetry (s : State) (c : Nat) (x : Cluster) : (s.setCluster c x).linkRetry = s.linkRetry := rfl
@[simp] theorem State.setCluster_linkResent (s : State) (c : Nat) (x : Cluster) : (s.setCluster c x).linkResent = s.linkResent := rfl
@[simp] theorem State.setCluster_tokens (s : State) (c : Nat) (x : Cluster) : (s.setCluster c x).tokens = s.tokens := rfl
@[simp] theorem State.setCluster_shapes (s : State) (c : Nat) (x : Cluster) : (s.setCluster c x).shapes = s.shapes := rfl
@[simp] theorem State.setCluster_hostBase (s : State) (c : Nat) (x : Cluster) : (s.setCluster c x).hostBase = s.hostBase := rfl
@[simp] theorem State.setCluster_upsets (s : State) (c : Nat) (x : Cluster) : (s.setCluster c x).upsets = s.upsets := rfl
@[simp] theorem State.setCluster_agenda (s : State) (c : Nat) (x : Cluster) : (s.setCluster c x).agenda = s.agenda := rfl
@[simp] theorem State.setCluster_phase (s : State) (c : Nat) (x : Cluster) : (s.setCluster c x).phase = s.phase := rfl
@[simp] theorem State.setCluster_turn (s : State) (c : Nat) (x : Cluster) : (s.setCluster c x).turn = s.turn := rfl
@[simp] theorem State.setCluster_issuer (s : State) (c : Nat) (x : Cluster) : (s.setCluster c x).issuer = s.issuer := rfl
@[simp] theorem State.setCluster_ilen (s : State) (c : Nat) (x : Cluster) : (s.setCluster c x).ilen = s.ilen := rfl
@[simp] theorem State.setCluster_iwords (s : State) (c : Nat) (x : Cluster) : (s.setCluster c x).iwords = s.iwords := rfl
@[simp] theorem State.setCluster_idest (s : State) (c : Nat) (x : Cluster) : (s.setCluster c x).idest = s.idest := rfl
@[simp] theorem State.setCluster_waited (s : State) (c : Nat) (x : Cluster) : (s.setCluster c x).waited = s.waited := rfl
@[simp] theorem State.setCluster_free (s : State) (c : Nat) (x : Cluster) : (s.setCluster c x).free = s.free := rfl
@[simp] theorem State.setCluster_serial (s : State) (c : Nat) (x : Cluster) : (s.setCluster c x).serial = s.serial := rfl
@[simp] theorem State.setCluster_epoch (s : State) (c : Nat) (x : Cluster) : (s.setCluster c x).epoch = s.epoch := rfl
@[simp] theorem State.setCluster_written (s : State) (c : Nat) (x : Cluster) : (s.setCluster c x).written = s.written := rfl

/-! ### `modCluster` -/

@[simp] theorem State.modCluster_mf4 (s : State) (c : Nat) (f : Cluster → Cluster) : (s.modCluster c f).mf4 = s.mf4 := rfl
@[simp] theorem State.modCluster_waves (s : State) (c : Nat) (f : Cluster → Cluster) : (s.modCluster c f).waves = s.waves := rfl
@[simp] theorem State.modCluster_wgs (s : State) (c : Nat) (f : Cluster → Cluster) : (s.modCluster c f).wgs = s.wgs := rfl
@[simp] theorem State.modCluster_gangs (s : State) (c : Nat) (f : Cluster → Cluster) : (s.modCluster c f).gangs = s.gangs := rfl
@[simp] theorem State.modCluster_cores (s : State) (c : Nat) (f : Cluster → Cluster) : (s.modCluster c f).cores = s.cores := rfl
@[simp] theorem State.modCluster_chips (s : State) (c : Nat) (f : Cluster → Cluster) : (s.modCluster c f).chips = s.chips := rfl
@[simp] theorem State.modCluster_mem (s : State) (c : Nat) (f : Cluster → Cluster) : (s.modCluster c f).mem = s.mem := rfl
@[simp] theorem State.modCluster_links (s : State) (c : Nat) (f : Cluster → Cluster) : (s.modCluster c f).links = s.links := rfl
@[simp] theorem State.modCluster_linkDown (s : State) (c : Nat) (f : Cluster → Cluster) : (s.modCluster c f).linkDown = s.linkDown := rfl
@[simp] theorem State.modCluster_linkRetry (s : State) (c : Nat) (f : Cluster → Cluster) : (s.modCluster c f).linkRetry = s.linkRetry := rfl
@[simp] theorem State.modCluster_linkResent (s : State) (c : Nat) (f : Cluster → Cluster) : (s.modCluster c f).linkResent = s.linkResent := rfl
@[simp] theorem State.modCluster_tokens (s : State) (c : Nat) (f : Cluster → Cluster) : (s.modCluster c f).tokens = s.tokens := rfl
@[simp] theorem State.modCluster_shapes (s : State) (c : Nat) (f : Cluster → Cluster) : (s.modCluster c f).shapes = s.shapes := rfl
@[simp] theorem State.modCluster_hostBase (s : State) (c : Nat) (f : Cluster → Cluster) : (s.modCluster c f).hostBase = s.hostBase := rfl
@[simp] theorem State.modCluster_upsets (s : State) (c : Nat) (f : Cluster → Cluster) : (s.modCluster c f).upsets = s.upsets := rfl
@[simp] theorem State.modCluster_agenda (s : State) (c : Nat) (f : Cluster → Cluster) : (s.modCluster c f).agenda = s.agenda := rfl
@[simp] theorem State.modCluster_phase (s : State) (c : Nat) (f : Cluster → Cluster) : (s.modCluster c f).phase = s.phase := rfl
@[simp] theorem State.modCluster_turn (s : State) (c : Nat) (f : Cluster → Cluster) : (s.modCluster c f).turn = s.turn := rfl
@[simp] theorem State.modCluster_issuer (s : State) (c : Nat) (f : Cluster → Cluster) : (s.modCluster c f).issuer = s.issuer := rfl
@[simp] theorem State.modCluster_ilen (s : State) (c : Nat) (f : Cluster → Cluster) : (s.modCluster c f).ilen = s.ilen := rfl
@[simp] theorem State.modCluster_iwords (s : State) (c : Nat) (f : Cluster → Cluster) : (s.modCluster c f).iwords = s.iwords := rfl
@[simp] theorem State.modCluster_idest (s : State) (c : Nat) (f : Cluster → Cluster) : (s.modCluster c f).idest = s.idest := rfl
@[simp] theorem State.modCluster_waited (s : State) (c : Nat) (f : Cluster → Cluster) : (s.modCluster c f).waited = s.waited := rfl
@[simp] theorem State.modCluster_free (s : State) (c : Nat) (f : Cluster → Cluster) : (s.modCluster c f).free = s.free := rfl
@[simp] theorem State.modCluster_serial (s : State) (c : Nat) (f : Cluster → Cluster) : (s.modCluster c f).serial = s.serial := rfl
@[simp] theorem State.modCluster_epoch (s : State) (c : Nat) (f : Cluster → Cluster) : (s.modCluster c f).epoch = s.epoch := rfl
@[simp] theorem State.modCluster_written (s : State) (c : Nat) (f : Cluster → Cluster) : (s.modCluster c f).written = s.written := rfl

/-! ### `setChip` -/

@[simp] theorem State.setChip_mf4 (s : State) (c : Nat) (x : Chip) : (s.setChip c x).mf4 = s.mf4 := rfl
@[simp] theorem State.setChip_waves (s : State) (c : Nat) (x : Chip) : (s.setChip c x).waves = s.waves := rfl
@[simp] theorem State.setChip_wgs (s : State) (c : Nat) (x : Chip) : (s.setChip c x).wgs = s.wgs := rfl
@[simp] theorem State.setChip_gangs (s : State) (c : Nat) (x : Chip) : (s.setChip c x).gangs = s.gangs := rfl
@[simp] theorem State.setChip_cores (s : State) (c : Nat) (x : Chip) : (s.setChip c x).cores = s.cores := rfl
@[simp] theorem State.setChip_clusters (s : State) (c : Nat) (x : Chip) : (s.setChip c x).clusters = s.clusters := rfl
@[simp] theorem State.setChip_mem (s : State) (c : Nat) (x : Chip) : (s.setChip c x).mem = s.mem := rfl
@[simp] theorem State.setChip_links (s : State) (c : Nat) (x : Chip) : (s.setChip c x).links = s.links := rfl
@[simp] theorem State.setChip_linkDown (s : State) (c : Nat) (x : Chip) : (s.setChip c x).linkDown = s.linkDown := rfl
@[simp] theorem State.setChip_linkRetry (s : State) (c : Nat) (x : Chip) : (s.setChip c x).linkRetry = s.linkRetry := rfl
@[simp] theorem State.setChip_linkResent (s : State) (c : Nat) (x : Chip) : (s.setChip c x).linkResent = s.linkResent := rfl
@[simp] theorem State.setChip_tokens (s : State) (c : Nat) (x : Chip) : (s.setChip c x).tokens = s.tokens := rfl
@[simp] theorem State.setChip_shapes (s : State) (c : Nat) (x : Chip) : (s.setChip c x).shapes = s.shapes := rfl
@[simp] theorem State.setChip_hostBase (s : State) (c : Nat) (x : Chip) : (s.setChip c x).hostBase = s.hostBase := rfl
@[simp] theorem State.setChip_upsets (s : State) (c : Nat) (x : Chip) : (s.setChip c x).upsets = s.upsets := rfl
@[simp] theorem State.setChip_agenda (s : State) (c : Nat) (x : Chip) : (s.setChip c x).agenda = s.agenda := rfl
@[simp] theorem State.setChip_phase (s : State) (c : Nat) (x : Chip) : (s.setChip c x).phase = s.phase := rfl
@[simp] theorem State.setChip_turn (s : State) (c : Nat) (x : Chip) : (s.setChip c x).turn = s.turn := rfl
@[simp] theorem State.setChip_issuer (s : State) (c : Nat) (x : Chip) : (s.setChip c x).issuer = s.issuer := rfl
@[simp] theorem State.setChip_ilen (s : State) (c : Nat) (x : Chip) : (s.setChip c x).ilen = s.ilen := rfl
@[simp] theorem State.setChip_iwords (s : State) (c : Nat) (x : Chip) : (s.setChip c x).iwords = s.iwords := rfl
@[simp] theorem State.setChip_idest (s : State) (c : Nat) (x : Chip) : (s.setChip c x).idest = s.idest := rfl
@[simp] theorem State.setChip_waited (s : State) (c : Nat) (x : Chip) : (s.setChip c x).waited = s.waited := rfl
@[simp] theorem State.setChip_free (s : State) (c : Nat) (x : Chip) : (s.setChip c x).free = s.free := rfl
@[simp] theorem State.setChip_serial (s : State) (c : Nat) (x : Chip) : (s.setChip c x).serial = s.serial := rfl
@[simp] theorem State.setChip_epoch (s : State) (c : Nat) (x : Chip) : (s.setChip c x).epoch = s.epoch := rfl
@[simp] theorem State.setChip_written (s : State) (c : Nat) (x : Chip) : (s.setChip c x).written = s.written := rfl

/-! ### `modChip` -/

@[simp] theorem State.modChip_mf4 (s : State) (c : Nat) (f : Chip → Chip) : (s.modChip c f).mf4 = s.mf4 := rfl
@[simp] theorem State.modChip_waves (s : State) (c : Nat) (f : Chip → Chip) : (s.modChip c f).waves = s.waves := rfl
@[simp] theorem State.modChip_wgs (s : State) (c : Nat) (f : Chip → Chip) : (s.modChip c f).wgs = s.wgs := rfl
@[simp] theorem State.modChip_gangs (s : State) (c : Nat) (f : Chip → Chip) : (s.modChip c f).gangs = s.gangs := rfl
@[simp] theorem State.modChip_cores (s : State) (c : Nat) (f : Chip → Chip) : (s.modChip c f).cores = s.cores := rfl
@[simp] theorem State.modChip_clusters (s : State) (c : Nat) (f : Chip → Chip) : (s.modChip c f).clusters = s.clusters := rfl
@[simp] theorem State.modChip_mem (s : State) (c : Nat) (f : Chip → Chip) : (s.modChip c f).mem = s.mem := rfl
@[simp] theorem State.modChip_links (s : State) (c : Nat) (f : Chip → Chip) : (s.modChip c f).links = s.links := rfl
@[simp] theorem State.modChip_linkDown (s : State) (c : Nat) (f : Chip → Chip) : (s.modChip c f).linkDown = s.linkDown := rfl
@[simp] theorem State.modChip_linkRetry (s : State) (c : Nat) (f : Chip → Chip) : (s.modChip c f).linkRetry = s.linkRetry := rfl
@[simp] theorem State.modChip_linkResent (s : State) (c : Nat) (f : Chip → Chip) : (s.modChip c f).linkResent = s.linkResent := rfl
@[simp] theorem State.modChip_tokens (s : State) (c : Nat) (f : Chip → Chip) : (s.modChip c f).tokens = s.tokens := rfl
@[simp] theorem State.modChip_shapes (s : State) (c : Nat) (f : Chip → Chip) : (s.modChip c f).shapes = s.shapes := rfl
@[simp] theorem State.modChip_hostBase (s : State) (c : Nat) (f : Chip → Chip) : (s.modChip c f).hostBase = s.hostBase := rfl
@[simp] theorem State.modChip_upsets (s : State) (c : Nat) (f : Chip → Chip) : (s.modChip c f).upsets = s.upsets := rfl
@[simp] theorem State.modChip_agenda (s : State) (c : Nat) (f : Chip → Chip) : (s.modChip c f).agenda = s.agenda := rfl
@[simp] theorem State.modChip_phase (s : State) (c : Nat) (f : Chip → Chip) : (s.modChip c f).phase = s.phase := rfl
@[simp] theorem State.modChip_turn (s : State) (c : Nat) (f : Chip → Chip) : (s.modChip c f).turn = s.turn := rfl
@[simp] theorem State.modChip_issuer (s : State) (c : Nat) (f : Chip → Chip) : (s.modChip c f).issuer = s.issuer := rfl
@[simp] theorem State.modChip_ilen (s : State) (c : Nat) (f : Chip → Chip) : (s.modChip c f).ilen = s.ilen := rfl
@[simp] theorem State.modChip_iwords (s : State) (c : Nat) (f : Chip → Chip) : (s.modChip c f).iwords = s.iwords := rfl
@[simp] theorem State.modChip_idest (s : State) (c : Nat) (f : Chip → Chip) : (s.modChip c f).idest = s.idest := rfl
@[simp] theorem State.modChip_waited (s : State) (c : Nat) (f : Chip → Chip) : (s.modChip c f).waited = s.waited := rfl
@[simp] theorem State.modChip_free (s : State) (c : Nat) (f : Chip → Chip) : (s.modChip c f).free = s.free := rfl
@[simp] theorem State.modChip_serial (s : State) (c : Nat) (f : Chip → Chip) : (s.modChip c f).serial = s.serial := rfl
@[simp] theorem State.modChip_epoch (s : State) (c : Nat) (f : Chip → Chip) : (s.modChip c f).epoch = s.epoch := rfl
@[simp] theorem State.modChip_written (s : State) (c : Nat) (f : Chip → Chip) : (s.modChip c f).written = s.written := rfl

/-! ### `modRepl` -/

@[simp] theorem State.modRepl_mf4 (s : State) (c : Nat) (f : Repl → Repl) : (s.modRepl c f).mf4 = s.mf4 := rfl
@[simp] theorem State.modRepl_waves (s : State) (c : Nat) (f : Repl → Repl) : (s.modRepl c f).waves = s.waves := rfl
@[simp] theorem State.modRepl_wgs (s : State) (c : Nat) (f : Repl → Repl) : (s.modRepl c f).wgs = s.wgs := rfl
@[simp] theorem State.modRepl_gangs (s : State) (c : Nat) (f : Repl → Repl) : (s.modRepl c f).gangs = s.gangs := rfl
@[simp] theorem State.modRepl_cores (s : State) (c : Nat) (f : Repl → Repl) : (s.modRepl c f).cores = s.cores := rfl
@[simp] theorem State.modRepl_clusters (s : State) (c : Nat) (f : Repl → Repl) : (s.modRepl c f).clusters = s.clusters := rfl
@[simp] theorem State.modRepl_mem (s : State) (c : Nat) (f : Repl → Repl) : (s.modRepl c f).mem = s.mem := rfl
@[simp] theorem State.modRepl_links (s : State) (c : Nat) (f : Repl → Repl) : (s.modRepl c f).links = s.links := rfl
@[simp] theorem State.modRepl_linkDown (s : State) (c : Nat) (f : Repl → Repl) : (s.modRepl c f).linkDown = s.linkDown := rfl
@[simp] theorem State.modRepl_linkRetry (s : State) (c : Nat) (f : Repl → Repl) : (s.modRepl c f).linkRetry = s.linkRetry := rfl
@[simp] theorem State.modRepl_linkResent (s : State) (c : Nat) (f : Repl → Repl) : (s.modRepl c f).linkResent = s.linkResent := rfl
@[simp] theorem State.modRepl_tokens (s : State) (c : Nat) (f : Repl → Repl) : (s.modRepl c f).tokens = s.tokens := rfl
@[simp] theorem State.modRepl_shapes (s : State) (c : Nat) (f : Repl → Repl) : (s.modRepl c f).shapes = s.shapes := rfl
@[simp] theorem State.modRepl_hostBase (s : State) (c : Nat) (f : Repl → Repl) : (s.modRepl c f).hostBase = s.hostBase := rfl
@[simp] theorem State.modRepl_upsets (s : State) (c : Nat) (f : Repl → Repl) : (s.modRepl c f).upsets = s.upsets := rfl
@[simp] theorem State.modRepl_agenda (s : State) (c : Nat) (f : Repl → Repl) : (s.modRepl c f).agenda = s.agenda := rfl
@[simp] theorem State.modRepl_phase (s : State) (c : Nat) (f : Repl → Repl) : (s.modRepl c f).phase = s.phase := rfl
@[simp] theorem State.modRepl_turn (s : State) (c : Nat) (f : Repl → Repl) : (s.modRepl c f).turn = s.turn := rfl
@[simp] theorem State.modRepl_issuer (s : State) (c : Nat) (f : Repl → Repl) : (s.modRepl c f).issuer = s.issuer := rfl
@[simp] theorem State.modRepl_ilen (s : State) (c : Nat) (f : Repl → Repl) : (s.modRepl c f).ilen = s.ilen := rfl
@[simp] theorem State.modRepl_iwords (s : State) (c : Nat) (f : Repl → Repl) : (s.modRepl c f).iwords = s.iwords := rfl
@[simp] theorem State.modRepl_idest (s : State) (c : Nat) (f : Repl → Repl) : (s.modRepl c f).idest = s.idest := rfl
@[simp] theorem State.modRepl_waited (s : State) (c : Nat) (f : Repl → Repl) : (s.modRepl c f).waited = s.waited := rfl
@[simp] theorem State.modRepl_free (s : State) (c : Nat) (f : Repl → Repl) : (s.modRepl c f).free = s.free := rfl
@[simp] theorem State.modRepl_serial (s : State) (c : Nat) (f : Repl → Repl) : (s.modRepl c f).serial = s.serial := rfl
@[simp] theorem State.modRepl_epoch (s : State) (c : Nat) (f : Repl → Repl) : (s.modRepl c f).epoch = s.epoch := rfl
@[simp] theorem State.modRepl_written (s : State) (c : Nat) (f : Repl → Repl) : (s.modRepl c f).written = s.written := rfl

/-! ### `setWave` -/

@[simp] theorem State.setWave_mf4 (s : State) (w : Nat) (x : Wave) : (s.setWave w x).mf4 = s.mf4 := rfl
@[simp] theorem State.setWave_wgs (s : State) (w : Nat) (x : Wave) : (s.setWave w x).wgs = s.wgs := rfl
@[simp] theorem State.setWave_gangs (s : State) (w : Nat) (x : Wave) : (s.setWave w x).gangs = s.gangs := rfl
@[simp] theorem State.setWave_cores (s : State) (w : Nat) (x : Wave) : (s.setWave w x).cores = s.cores := rfl
@[simp] theorem State.setWave_clusters (s : State) (w : Nat) (x : Wave) : (s.setWave w x).clusters = s.clusters := rfl
@[simp] theorem State.setWave_chips (s : State) (w : Nat) (x : Wave) : (s.setWave w x).chips = s.chips := rfl
@[simp] theorem State.setWave_mem (s : State) (w : Nat) (x : Wave) : (s.setWave w x).mem = s.mem := rfl
@[simp] theorem State.setWave_links (s : State) (w : Nat) (x : Wave) : (s.setWave w x).links = s.links := rfl
@[simp] theorem State.setWave_linkDown (s : State) (w : Nat) (x : Wave) : (s.setWave w x).linkDown = s.linkDown := rfl
@[simp] theorem State.setWave_linkRetry (s : State) (w : Nat) (x : Wave) : (s.setWave w x).linkRetry = s.linkRetry := rfl
@[simp] theorem State.setWave_linkResent (s : State) (w : Nat) (x : Wave) : (s.setWave w x).linkResent = s.linkResent := rfl
@[simp] theorem State.setWave_tokens (s : State) (w : Nat) (x : Wave) : (s.setWave w x).tokens = s.tokens := rfl
@[simp] theorem State.setWave_shapes (s : State) (w : Nat) (x : Wave) : (s.setWave w x).shapes = s.shapes := rfl
@[simp] theorem State.setWave_hostBase (s : State) (w : Nat) (x : Wave) : (s.setWave w x).hostBase = s.hostBase := rfl
@[simp] theorem State.setWave_upsets (s : State) (w : Nat) (x : Wave) : (s.setWave w x).upsets = s.upsets := rfl
@[simp] theorem State.setWave_agenda (s : State) (w : Nat) (x : Wave) : (s.setWave w x).agenda = s.agenda := rfl
@[simp] theorem State.setWave_phase (s : State) (w : Nat) (x : Wave) : (s.setWave w x).phase = s.phase := rfl
@[simp] theorem State.setWave_turn (s : State) (w : Nat) (x : Wave) : (s.setWave w x).turn = s.turn := rfl
@[simp] theorem State.setWave_issuer (s : State) (w : Nat) (x : Wave) : (s.setWave w x).issuer = s.issuer := rfl
@[simp] theorem State.setWave_ilen (s : State) (w : Nat) (x : Wave) : (s.setWave w x).ilen = s.ilen := rfl
@[simp] theorem State.setWave_iwords (s : State) (w : Nat) (x : Wave) : (s.setWave w x).iwords = s.iwords := rfl
@[simp] theorem State.setWave_idest (s : State) (w : Nat) (x : Wave) : (s.setWave w x).idest = s.idest := rfl
@[simp] theorem State.setWave_waited (s : State) (w : Nat) (x : Wave) : (s.setWave w x).waited = s.waited := rfl
@[simp] theorem State.setWave_free (s : State) (w : Nat) (x : Wave) : (s.setWave w x).free = s.free := rfl
@[simp] theorem State.setWave_serial (s : State) (w : Nat) (x : Wave) : (s.setWave w x).serial = s.serial := rfl
@[simp] theorem State.setWave_epoch (s : State) (w : Nat) (x : Wave) : (s.setWave w x).epoch = s.epoch := rfl
@[simp] theorem State.setWave_written (s : State) (w : Nat) (x : Wave) : (s.setWave w x).written = s.written := rfl

/-! ### `modWave` -/

@[simp] theorem State.modWave_mf4 (s : State) (w : Nat) (f : Wave → Wave) : (s.modWave w f).mf4 = s.mf4 := rfl
@[simp] theorem State.modWave_wgs (s : State) (w : Nat) (f : Wave → Wave) : (s.modWave w f).wgs = s.wgs := rfl
@[simp] theorem State.modWave_gangs (s : State) (w : Nat) (f : Wave → Wave) : (s.modWave w f).gangs = s.gangs := rfl
@[simp] theorem State.modWave_cores (s : State) (w : Nat) (f : Wave → Wave) : (s.modWave w f).cores = s.cores := rfl
@[simp] theorem State.modWave_clusters (s : State) (w : Nat) (f : Wave → Wave) : (s.modWave w f).clusters = s.clusters := rfl
@[simp] theorem State.modWave_chips (s : State) (w : Nat) (f : Wave → Wave) : (s.modWave w f).chips = s.chips := rfl
@[simp] theorem State.modWave_mem (s : State) (w : Nat) (f : Wave → Wave) : (s.modWave w f).mem = s.mem := rfl
@[simp] theorem State.modWave_links (s : State) (w : Nat) (f : Wave → Wave) : (s.modWave w f).links = s.links := rfl
@[simp] theorem State.modWave_linkDown (s : State) (w : Nat) (f : Wave → Wave) : (s.modWave w f).linkDown = s.linkDown := rfl
@[simp] theorem State.modWave_linkRetry (s : State) (w : Nat) (f : Wave → Wave) : (s.modWave w f).linkRetry = s.linkRetry := rfl
@[simp] theorem State.modWave_linkResent (s : State) (w : Nat) (f : Wave → Wave) : (s.modWave w f).linkResent = s.linkResent := rfl
@[simp] theorem State.modWave_tokens (s : State) (w : Nat) (f : Wave → Wave) : (s.modWave w f).tokens = s.tokens := rfl
@[simp] theorem State.modWave_shapes (s : State) (w : Nat) (f : Wave → Wave) : (s.modWave w f).shapes = s.shapes := rfl
@[simp] theorem State.modWave_hostBase (s : State) (w : Nat) (f : Wave → Wave) : (s.modWave w f).hostBase = s.hostBase := rfl
@[simp] theorem State.modWave_upsets (s : State) (w : Nat) (f : Wave → Wave) : (s.modWave w f).upsets = s.upsets := rfl
@[simp] theorem State.modWave_agenda (s : State) (w : Nat) (f : Wave → Wave) : (s.modWave w f).agenda = s.agenda := rfl
@[simp] theorem State.modWave_phase (s : State) (w : Nat) (f : Wave → Wave) : (s.modWave w f).phase = s.phase := rfl
@[simp] theorem State.modWave_turn (s : State) (w : Nat) (f : Wave → Wave) : (s.modWave w f).turn = s.turn := rfl
@[simp] theorem State.modWave_issuer (s : State) (w : Nat) (f : Wave → Wave) : (s.modWave w f).issuer = s.issuer := rfl
@[simp] theorem State.modWave_ilen (s : State) (w : Nat) (f : Wave → Wave) : (s.modWave w f).ilen = s.ilen := rfl
@[simp] theorem State.modWave_iwords (s : State) (w : Nat) (f : Wave → Wave) : (s.modWave w f).iwords = s.iwords := rfl
@[simp] theorem State.modWave_idest (s : State) (w : Nat) (f : Wave → Wave) : (s.modWave w f).idest = s.idest := rfl
@[simp] theorem State.modWave_waited (s : State) (w : Nat) (f : Wave → Wave) : (s.modWave w f).waited = s.waited := rfl
@[simp] theorem State.modWave_free (s : State) (w : Nat) (f : Wave → Wave) : (s.modWave w f).free = s.free := rfl
@[simp] theorem State.modWave_serial (s : State) (w : Nat) (f : Wave → Wave) : (s.modWave w f).serial = s.serial := rfl
@[simp] theorem State.modWave_epoch (s : State) (w : Nat) (f : Wave → Wave) : (s.modWave w f).epoch = s.epoch := rfl
@[simp] theorem State.modWave_written (s : State) (w : Nat) (f : Wave → Wave) : (s.modWave w f).written = s.written := rfl

/-! ### `modWg` -/

@[simp] theorem State.modWg_mf4 (s : State) (g : Nat) (f : Workgroup → Workgroup) : (s.modWg g f).mf4 = s.mf4 := rfl
@[simp] theorem State.modWg_waves (s : State) (g : Nat) (f : Workgroup → Workgroup) : (s.modWg g f).waves = s.waves := rfl
@[simp] theorem State.modWg_gangs (s : State) (g : Nat) (f : Workgroup → Workgroup) : (s.modWg g f).gangs = s.gangs := rfl
@[simp] theorem State.modWg_cores (s : State) (g : Nat) (f : Workgroup → Workgroup) : (s.modWg g f).cores = s.cores := rfl
@[simp] theorem State.modWg_clusters (s : State) (g : Nat) (f : Workgroup → Workgroup) : (s.modWg g f).clusters = s.clusters := rfl
@[simp] theorem State.modWg_chips (s : State) (g : Nat) (f : Workgroup → Workgroup) : (s.modWg g f).chips = s.chips := rfl
@[simp] theorem State.modWg_mem (s : State) (g : Nat) (f : Workgroup → Workgroup) : (s.modWg g f).mem = s.mem := rfl
@[simp] theorem State.modWg_links (s : State) (g : Nat) (f : Workgroup → Workgroup) : (s.modWg g f).links = s.links := rfl
@[simp] theorem State.modWg_linkDown (s : State) (g : Nat) (f : Workgroup → Workgroup) : (s.modWg g f).linkDown = s.linkDown := rfl
@[simp] theorem State.modWg_linkRetry (s : State) (g : Nat) (f : Workgroup → Workgroup) : (s.modWg g f).linkRetry = s.linkRetry := rfl
@[simp] theorem State.modWg_linkResent (s : State) (g : Nat) (f : Workgroup → Workgroup) : (s.modWg g f).linkResent = s.linkResent := rfl
@[simp] theorem State.modWg_tokens (s : State) (g : Nat) (f : Workgroup → Workgroup) : (s.modWg g f).tokens = s.tokens := rfl
@[simp] theorem State.modWg_shapes (s : State) (g : Nat) (f : Workgroup → Workgroup) : (s.modWg g f).shapes = s.shapes := rfl
@[simp] theorem State.modWg_hostBase (s : State) (g : Nat) (f : Workgroup → Workgroup) : (s.modWg g f).hostBase = s.hostBase := rfl
@[simp] theorem State.modWg_upsets (s : State) (g : Nat) (f : Workgroup → Workgroup) : (s.modWg g f).upsets = s.upsets := rfl
@[simp] theorem State.modWg_agenda (s : State) (g : Nat) (f : Workgroup → Workgroup) : (s.modWg g f).agenda = s.agenda := rfl
@[simp] theorem State.modWg_phase (s : State) (g : Nat) (f : Workgroup → Workgroup) : (s.modWg g f).phase = s.phase := rfl
@[simp] theorem State.modWg_turn (s : State) (g : Nat) (f : Workgroup → Workgroup) : (s.modWg g f).turn = s.turn := rfl
@[simp] theorem State.modWg_issuer (s : State) (g : Nat) (f : Workgroup → Workgroup) : (s.modWg g f).issuer = s.issuer := rfl
@[simp] theorem State.modWg_ilen (s : State) (g : Nat) (f : Workgroup → Workgroup) : (s.modWg g f).ilen = s.ilen := rfl
@[simp] theorem State.modWg_iwords (s : State) (g : Nat) (f : Workgroup → Workgroup) : (s.modWg g f).iwords = s.iwords := rfl
@[simp] theorem State.modWg_idest (s : State) (g : Nat) (f : Workgroup → Workgroup) : (s.modWg g f).idest = s.idest := rfl
@[simp] theorem State.modWg_waited (s : State) (g : Nat) (f : Workgroup → Workgroup) : (s.modWg g f).waited = s.waited := rfl
@[simp] theorem State.modWg_free (s : State) (g : Nat) (f : Workgroup → Workgroup) : (s.modWg g f).free = s.free := rfl
@[simp] theorem State.modWg_serial (s : State) (g : Nat) (f : Workgroup → Workgroup) : (s.modWg g f).serial = s.serial := rfl
@[simp] theorem State.modWg_epoch (s : State) (g : Nat) (f : Workgroup → Workgroup) : (s.modWg g f).epoch = s.epoch := rfl
@[simp] theorem State.modWg_written (s : State) (g : Nat) (f : Workgroup → Workgroup) : (s.modWg g f).written = s.written := rfl

/-! ### `modGang` -/

@[simp] theorem State.modGang_mf4 (s : State) (g : Nat) (f : Gang → Gang) : (s.modGang g f).mf4 = s.mf4 := rfl
@[simp] theorem State.modGang_waves (s : State) (g : Nat) (f : Gang → Gang) : (s.modGang g f).waves = s.waves := rfl
@[simp] theorem State.modGang_wgs (s : State) (g : Nat) (f : Gang → Gang) : (s.modGang g f).wgs = s.wgs := rfl
@[simp] theorem State.modGang_cores (s : State) (g : Nat) (f : Gang → Gang) : (s.modGang g f).cores = s.cores := rfl
@[simp] theorem State.modGang_clusters (s : State) (g : Nat) (f : Gang → Gang) : (s.modGang g f).clusters = s.clusters := rfl
@[simp] theorem State.modGang_chips (s : State) (g : Nat) (f : Gang → Gang) : (s.modGang g f).chips = s.chips := rfl
@[simp] theorem State.modGang_mem (s : State) (g : Nat) (f : Gang → Gang) : (s.modGang g f).mem = s.mem := rfl
@[simp] theorem State.modGang_links (s : State) (g : Nat) (f : Gang → Gang) : (s.modGang g f).links = s.links := rfl
@[simp] theorem State.modGang_linkDown (s : State) (g : Nat) (f : Gang → Gang) : (s.modGang g f).linkDown = s.linkDown := rfl
@[simp] theorem State.modGang_linkRetry (s : State) (g : Nat) (f : Gang → Gang) : (s.modGang g f).linkRetry = s.linkRetry := rfl
@[simp] theorem State.modGang_linkResent (s : State) (g : Nat) (f : Gang → Gang) : (s.modGang g f).linkResent = s.linkResent := rfl
@[simp] theorem State.modGang_tokens (s : State) (g : Nat) (f : Gang → Gang) : (s.modGang g f).tokens = s.tokens := rfl
@[simp] theorem State.modGang_shapes (s : State) (g : Nat) (f : Gang → Gang) : (s.modGang g f).shapes = s.shapes := rfl
@[simp] theorem State.modGang_hostBase (s : State) (g : Nat) (f : Gang → Gang) : (s.modGang g f).hostBase = s.hostBase := rfl
@[simp] theorem State.modGang_upsets (s : State) (g : Nat) (f : Gang → Gang) : (s.modGang g f).upsets = s.upsets := rfl
@[simp] theorem State.modGang_agenda (s : State) (g : Nat) (f : Gang → Gang) : (s.modGang g f).agenda = s.agenda := rfl
@[simp] theorem State.modGang_phase (s : State) (g : Nat) (f : Gang → Gang) : (s.modGang g f).phase = s.phase := rfl
@[simp] theorem State.modGang_turn (s : State) (g : Nat) (f : Gang → Gang) : (s.modGang g f).turn = s.turn := rfl
@[simp] theorem State.modGang_issuer (s : State) (g : Nat) (f : Gang → Gang) : (s.modGang g f).issuer = s.issuer := rfl
@[simp] theorem State.modGang_ilen (s : State) (g : Nat) (f : Gang → Gang) : (s.modGang g f).ilen = s.ilen := rfl
@[simp] theorem State.modGang_iwords (s : State) (g : Nat) (f : Gang → Gang) : (s.modGang g f).iwords = s.iwords := rfl
@[simp] theorem State.modGang_idest (s : State) (g : Nat) (f : Gang → Gang) : (s.modGang g f).idest = s.idest := rfl
@[simp] theorem State.modGang_waited (s : State) (g : Nat) (f : Gang → Gang) : (s.modGang g f).waited = s.waited := rfl
@[simp] theorem State.modGang_free (s : State) (g : Nat) (f : Gang → Gang) : (s.modGang g f).free = s.free := rfl
@[simp] theorem State.modGang_serial (s : State) (g : Nat) (f : Gang → Gang) : (s.modGang g f).serial = s.serial := rfl
@[simp] theorem State.modGang_epoch (s : State) (g : Nat) (f : Gang → Gang) : (s.modGang g f).epoch = s.epoch := rfl
@[simp] theorem State.modGang_written (s : State) (g : Nat) (f : Gang → Gang) : (s.modGang g f).written = s.written := rfl

/-! ### `post` -/

@[simp] theorem State.post_mf4 (s : State) (e : Event) : (s.post e).mf4 = s.mf4 := rfl
@[simp] theorem State.post_waves (s : State) (e : Event) : (s.post e).waves = s.waves := rfl
@[simp] theorem State.post_wgs (s : State) (e : Event) : (s.post e).wgs = s.wgs := rfl
@[simp] theorem State.post_gangs (s : State) (e : Event) : (s.post e).gangs = s.gangs := rfl
@[simp] theorem State.post_cores (s : State) (e : Event) : (s.post e).cores = s.cores := rfl
@[simp] theorem State.post_clusters (s : State) (e : Event) : (s.post e).clusters = s.clusters := rfl
@[simp] theorem State.post_chips (s : State) (e : Event) : (s.post e).chips = s.chips := rfl
@[simp] theorem State.post_mem (s : State) (e : Event) : (s.post e).mem = s.mem := rfl
@[simp] theorem State.post_links (s : State) (e : Event) : (s.post e).links = s.links := rfl
@[simp] theorem State.post_linkDown (s : State) (e : Event) : (s.post e).linkDown = s.linkDown := rfl
@[simp] theorem State.post_linkRetry (s : State) (e : Event) : (s.post e).linkRetry = s.linkRetry := rfl
@[simp] theorem State.post_linkResent (s : State) (e : Event) : (s.post e).linkResent = s.linkResent := rfl
@[simp] theorem State.post_tokens (s : State) (e : Event) : (s.post e).tokens = s.tokens := rfl
@[simp] theorem State.post_shapes (s : State) (e : Event) : (s.post e).shapes = s.shapes := rfl
@[simp] theorem State.post_hostBase (s : State) (e : Event) : (s.post e).hostBase = s.hostBase := rfl
@[simp] theorem State.post_upsets (s : State) (e : Event) : (s.post e).upsets = s.upsets := rfl
@[simp] theorem State.post_phase (s : State) (e : Event) : (s.post e).phase = s.phase := rfl
@[simp] theorem State.post_turn (s : State) (e : Event) : (s.post e).turn = s.turn := rfl
@[simp] theorem State.post_issuer (s : State) (e : Event) : (s.post e).issuer = s.issuer := rfl
@[simp] theorem State.post_ilen (s : State) (e : Event) : (s.post e).ilen = s.ilen := rfl
@[simp] theorem State.post_iwords (s : State) (e : Event) : (s.post e).iwords = s.iwords := rfl
@[simp] theorem State.post_idest (s : State) (e : Event) : (s.post e).idest = s.idest := rfl
@[simp] theorem State.post_waited (s : State) (e : Event) : (s.post e).waited = s.waited := rfl
@[simp] theorem State.post_free (s : State) (e : Event) : (s.post e).free = s.free := rfl
@[simp] theorem State.post_serial (s : State) (e : Event) : (s.post e).serial = s.serial := rfl
@[simp] theorem State.post_epoch (s : State) (e : Event) : (s.post e).epoch = s.epoch := rfl
@[simp] theorem State.post_written (s : State) (e : Event) : (s.post e).written = s.written := rfl

/-! ### `note` -/

@[simp] theorem State.note_mf4 (s : State) (c n : Nat) (as : List Nat) : (s.note c n as).mf4 = s.mf4 := rfl
@[simp] theorem State.note_waves (s : State) (c n : Nat) (as : List Nat) : (s.note c n as).waves = s.waves := rfl
@[simp] theorem State.note_wgs (s : State) (c n : Nat) (as : List Nat) : (s.note c n as).wgs = s.wgs := rfl
@[simp] theorem State.note_gangs (s : State) (c n : Nat) (as : List Nat) : (s.note c n as).gangs = s.gangs := rfl
@[simp] theorem State.note_cores (s : State) (c n : Nat) (as : List Nat) : (s.note c n as).cores = s.cores := rfl
@[simp] theorem State.note_clusters (s : State) (c n : Nat) (as : List Nat) : (s.note c n as).clusters = s.clusters := rfl
@[simp] theorem State.note_mem (s : State) (c n : Nat) (as : List Nat) : (s.note c n as).mem = s.mem := rfl
@[simp] theorem State.note_links (s : State) (c n : Nat) (as : List Nat) : (s.note c n as).links = s.links := rfl
@[simp] theorem State.note_linkDown (s : State) (c n : Nat) (as : List Nat) : (s.note c n as).linkDown = s.linkDown := rfl
@[simp] theorem State.note_linkRetry (s : State) (c n : Nat) (as : List Nat) : (s.note c n as).linkRetry = s.linkRetry := rfl
@[simp] theorem State.note_linkResent (s : State) (c n : Nat) (as : List Nat) : (s.note c n as).linkResent = s.linkResent := rfl
@[simp] theorem State.note_tokens (s : State) (c n : Nat) (as : List Nat) : (s.note c n as).tokens = s.tokens := rfl
@[simp] theorem State.note_shapes (s : State) (c n : Nat) (as : List Nat) : (s.note c n as).shapes = s.shapes := rfl
@[simp] theorem State.note_hostBase (s : State) (c n : Nat) (as : List Nat) : (s.note c n as).hostBase = s.hostBase := rfl
@[simp] theorem State.note_upsets (s : State) (c n : Nat) (as : List Nat) : (s.note c n as).upsets = s.upsets := rfl
@[simp] theorem State.note_agenda (s : State) (c n : Nat) (as : List Nat) : (s.note c n as).agenda = s.agenda := rfl
@[simp] theorem State.note_phase (s : State) (c n : Nat) (as : List Nat) : (s.note c n as).phase = s.phase := rfl
@[simp] theorem State.note_turn (s : State) (c n : Nat) (as : List Nat) : (s.note c n as).turn = s.turn := rfl
@[simp] theorem State.note_issuer (s : State) (c n : Nat) (as : List Nat) : (s.note c n as).issuer = s.issuer := rfl
@[simp] theorem State.note_ilen (s : State) (c n : Nat) (as : List Nat) : (s.note c n as).ilen = s.ilen := rfl
@[simp] theorem State.note_iwords (s : State) (c n : Nat) (as : List Nat) : (s.note c n as).iwords = s.iwords := rfl
@[simp] theorem State.note_idest (s : State) (c n : Nat) (as : List Nat) : (s.note c n as).idest = s.idest := rfl
@[simp] theorem State.note_waited (s : State) (c n : Nat) (as : List Nat) : (s.note c n as).waited = s.waited := rfl
@[simp] theorem State.note_free (s : State) (c n : Nat) (as : List Nat) : (s.note c n as).free = s.free := rfl
@[simp] theorem State.note_serial (s : State) (c n : Nat) (as : List Nat) : (s.note c n as).serial = s.serial := rfl
@[simp] theorem State.note_epoch (s : State) (c n : Nat) (as : List Nat) : (s.note c n as).epoch = s.epoch := rfl
@[simp] theorem State.note_written (s : State) (c n : Nat) (as : List Nat) : (s.note c n as).written = s.written := rfl

/-! ### `useFree` -/

@[simp] theorem State.useFree_mf4 (s : State) : (s.useFree ).mf4 = s.mf4 := rfl
@[simp] theorem State.useFree_waves (s : State) : (s.useFree ).waves = s.waves := rfl
@[simp] theorem State.useFree_wgs (s : State) : (s.useFree ).wgs = s.wgs := rfl
@[simp] theorem State.useFree_gangs (s : State) : (s.useFree ).gangs = s.gangs := rfl
@[simp] theorem State.useFree_cores (s : State) : (s.useFree ).cores = s.cores := rfl
@[simp] theorem State.useFree_clusters (s : State) : (s.useFree ).clusters = s.clusters := rfl
@[simp] theorem State.useFree_chips (s : State) : (s.useFree ).chips = s.chips := rfl
@[simp] theorem State.useFree_mem (s : State) : (s.useFree ).mem = s.mem := rfl
@[simp] theorem State.useFree_links (s : State) : (s.useFree ).links = s.links := rfl
@[simp] theorem State.useFree_linkDown (s : State) : (s.useFree ).linkDown = s.linkDown := rfl
@[simp] theorem State.useFree_linkRetry (s : State) : (s.useFree ).linkRetry = s.linkRetry := rfl
@[simp] theorem State.useFree_linkResent (s : State) : (s.useFree ).linkResent = s.linkResent := rfl
@[simp] theorem State.useFree_tokens (s : State) : (s.useFree ).tokens = s.tokens := rfl
@[simp] theorem State.useFree_shapes (s : State) : (s.useFree ).shapes = s.shapes := rfl
@[simp] theorem State.useFree_hostBase (s : State) : (s.useFree ).hostBase = s.hostBase := rfl
@[simp] theorem State.useFree_upsets (s : State) : (s.useFree ).upsets = s.upsets := rfl
@[simp] theorem State.useFree_agenda (s : State) : (s.useFree ).agenda = s.agenda := rfl
@[simp] theorem State.useFree_phase (s : State) : (s.useFree ).phase = s.phase := rfl
@[simp] theorem State.useFree_turn (s : State) : (s.useFree ).turn = s.turn := rfl
@[simp] theorem State.useFree_issuer (s : State) : (s.useFree ).issuer = s.issuer := rfl
@[simp] theorem State.useFree_ilen (s : State) : (s.useFree ).ilen = s.ilen := rfl
@[simp] theorem State.useFree_iwords (s : State) : (s.useFree ).iwords = s.iwords := rfl
@[simp] theorem State.useFree_idest (s : State) : (s.useFree ).idest = s.idest := rfl
@[simp] theorem State.useFree_waited (s : State) : (s.useFree ).waited = s.waited := rfl
@[simp] theorem State.useFree_serial (s : State) : (s.useFree ).serial = s.serial := rfl
@[simp] theorem State.useFree_epoch (s : State) : (s.useFree ).epoch = s.epoch := rfl
@[simp] theorem State.useFree_written (s : State) : (s.useFree ).written = s.written := rfl

/-! ### `postOnce` -/

@[simp] theorem State.postOnce_mf4 (s : State) (e : Event) : (s.postOnce e).mf4 = s.mf4 := by
  unfold State.postOnce; split <;> rfl
@[simp] theorem State.postOnce_waves (s : State) (e : Event) : (s.postOnce e).waves = s.waves := by
  unfold State.postOnce; split <;> rfl
@[simp] theorem State.postOnce_wgs (s : State) (e : Event) : (s.postOnce e).wgs = s.wgs := by
  unfold State.postOnce; split <;> rfl
@[simp] theorem State.postOnce_gangs (s : State) (e : Event) : (s.postOnce e).gangs = s.gangs := by
  unfold State.postOnce; split <;> rfl
@[simp] theorem State.postOnce_cores (s : State) (e : Event) : (s.postOnce e).cores = s.cores := by
  unfold State.postOnce; split <;> rfl
@[simp] theorem State.postOnce_clusters (s : State) (e : Event) : (s.postOnce e).clusters = s.clusters := by
  unfold State.postOnce; split <;> rfl
@[simp] theorem State.postOnce_chips (s : State) (e : Event) : (s.postOnce e).chips = s.chips := by
  unfold State.postOnce; split <;> rfl
@[simp] theorem State.postOnce_mem (s : State) (e : Event) : (s.postOnce e).mem = s.mem := by
  unfold State.postOnce; split <;> rfl
@[simp] theorem State.postOnce_links (s : State) (e : Event) : (s.postOnce e).links = s.links := by
  unfold State.postOnce; split <;> rfl
@[simp] theorem State.postOnce_linkDown (s : State) (e : Event) : (s.postOnce e).linkDown = s.linkDown := by
  unfold State.postOnce; split <;> rfl
@[simp] theorem State.postOnce_linkRetry (s : State) (e : Event) : (s.postOnce e).linkRetry = s.linkRetry := by
  unfold State.postOnce; split <;> rfl
@[simp] theorem State.postOnce_linkResent (s : State) (e : Event) : (s.postOnce e).linkResent = s.linkResent := by
  unfold State.postOnce; split <;> rfl
@[simp] theorem State.postOnce_tokens (s : State) (e : Event) : (s.postOnce e).tokens = s.tokens := by
  unfold State.postOnce; split <;> rfl
@[simp] theorem State.postOnce_shapes (s : State) (e : Event) : (s.postOnce e).shapes = s.shapes := by
  unfold State.postOnce; split <;> rfl
@[simp] theorem State.postOnce_hostBase (s : State) (e : Event) : (s.postOnce e).hostBase = s.hostBase := by
  unfold State.postOnce; split <;> rfl
@[simp] theorem State.postOnce_upsets (s : State) (e : Event) : (s.postOnce e).upsets = s.upsets := by
  unfold State.postOnce; split <;> rfl
@[simp] theorem State.postOnce_phase (s : State) (e : Event) : (s.postOnce e).phase = s.phase := by
  unfold State.postOnce; split <;> rfl
@[simp] theorem State.postOnce_turn (s : State) (e : Event) : (s.postOnce e).turn = s.turn := by
  unfold State.postOnce; split <;> rfl
@[simp] theorem State.postOnce_issuer (s : State) (e : Event) : (s.postOnce e).issuer = s.issuer := by
  unfold State.postOnce; split <;> rfl
@[simp] theorem State.postOnce_ilen (s : State) (e : Event) : (s.postOnce e).ilen = s.ilen := by
  unfold State.postOnce; split <;> rfl
@[simp] theorem State.postOnce_iwords (s : State) (e : Event) : (s.postOnce e).iwords = s.iwords := by
  unfold State.postOnce; split <;> rfl
@[simp] theorem State.postOnce_idest (s : State) (e : Event) : (s.postOnce e).idest = s.idest := by
  unfold State.postOnce; split <;> rfl
@[simp] theorem State.postOnce_waited (s : State) (e : Event) : (s.postOnce e).waited = s.waited := by
  unfold State.postOnce; split <;> rfl
@[simp] theorem State.postOnce_free (s : State) (e : Event) : (s.postOnce e).free = s.free := by
  unfold State.postOnce; split <;> rfl
@[simp] theorem State.postOnce_serial (s : State) (e : Event) : (s.postOnce e).serial = s.serial := by
  unfold State.postOnce; split <;> rfl
@[simp] theorem State.postOnce_epoch (s : State) (e : Event) : (s.postOnce e).epoch = s.epoch := by
  unfold State.postOnce; split <;> rfl
@[simp] theorem State.postOnce_written (s : State) (e : Event) : (s.postOnce e).written = s.written := by
  unfold State.postOnce; split <;> rfl

/-! ### Reading a part back -/

@[simp] theorem State.core_setCore (s : State) (c d : Nat) (x : Core) :
    (s.setCore c x).core d = if d = c then x else s.core d := by
  simp [State.core, State.setCore, Table.at_put]

@[simp] theorem State.core_modCore (s : State) (c d : Nat) (f : Core → Core) :
    (s.modCore c f).core d = if d = c then f (s.core c) else s.core d := by
  simp [State.modCore]

@[simp] theorem State.cluster_setCluster (s : State) (c d : Nat) (x : Cluster) :
    (s.setCluster c x).cluster d = if d = c then x else s.cluster d := by
  simp [State.cluster, State.setCluster, Table.at_put]

@[simp] theorem State.cluster_modCluster (s : State) (c d : Nat) (f : Cluster → Cluster) :
    (s.modCluster c f).cluster d = if d = c then f (s.cluster c) else s.cluster d := by
  simp [State.modCluster]

@[simp] theorem State.chip_setChip (s : State) (c d : Nat) (x : Chip) :
    (s.setChip c x).chip d = if d = c then x else s.chip d := by
  simp [State.chip, State.setChip, Table.at_put]

@[simp] theorem State.chip_modChip (s : State) (c d : Nat) (f : Chip → Chip) :
    (s.modChip c f).chip d = if d = c then f (s.chip c) else s.chip d := by
  simp [State.modChip]

@[simp] theorem State.repl_modRepl (s : State) (c d : Nat) (f : Repl → Repl) :
    (s.modRepl c f).repl d = if d = c then f (s.repl c) else s.repl d := by
  unfold State.repl State.modRepl; by_cases h : d = c <;> simp [h]

@[simp] theorem State.wave?_setWave (s : State) (w v : Nat) (x : Wave) :
    (s.setWave w x).wave? v = if v = w then some x else s.wave? v := by
  simp [State.wave?, State.setWave, Table.look_put]

@[simp] theorem State.wave?_modWave (s : State) (w v : Nat) (f : Wave → Wave) :
    (s.modWave w f).wave? v = if v = w then (s.wave? w).map f else s.wave? v := by
  simp [State.wave?, State.modWave, Table.look_modify]

@[simp] theorem State.wg?_modWg (s : State) (g h : Nat) (f : Workgroup → Workgroup) :
    (s.modWg g f).wg? h = if h = g then (s.wg? g).map f else s.wg? h := by
  simp [State.wg?, State.modWg, Table.look_modify]

@[simp] theorem State.gang?_modGang (s : State) (g h : Nat) (f : Gang → Gang) :
    (s.modGang g f).gang? h = if h = g then (s.gang? g).map f else s.gang? h := by
  simp [State.gang?, State.modGang, Table.look_modify]

/-! ### Reading another part -/

@[simp] theorem State.cluster_setCore_frame (s : State) (c : Nat) (x : Core) (d : Nat) : (s.setCore c x).cluster d = s.cluster d := rfl
@[simp] theorem State.chip_setCore_frame (s : State) (c : Nat) (x : Core) (d : Nat) : (s.setCore c x).chip d = s.chip d := rfl
@[simp] theorem State.repl_setCore_frame (s : State) (c : Nat) (x : Core) (d : Nat) : (s.setCore c x).repl d = s.repl d := rfl
@[simp] theorem State.wave?_setCore_frame (s : State) (c : Nat) (x : Core) (d : Nat) : (s.setCore c x).wave? d = s.wave? d := rfl
@[simp] theorem State.wg?_setCore_frame (s : State) (c : Nat) (x : Core) (d : Nat) : (s.setCore c x).wg? d = s.wg? d := rfl
@[simp] theorem State.gang?_setCore_frame (s : State) (c : Nat) (x : Core) (d : Nat) : (s.setCore c x).gang? d = s.gang? d := rfl
@[simp] theorem State.cluster_modCore_frame (s : State) (c : Nat) (f : Core → Core) (d : Nat) : (s.modCore c f).cluster d = s.cluster d := rfl
@[simp] theorem State.chip_modCore_frame (s : State) (c : Nat) (f : Core → Core) (d : Nat) : (s.modCore c f).chip d = s.chip d := rfl
@[simp] theorem State.repl_modCore_frame (s : State) (c : Nat) (f : Core → Core) (d : Nat) : (s.modCore c f).repl d = s.repl d := rfl
@[simp] theorem State.wave?_modCore_frame (s : State) (c : Nat) (f : Core → Core) (d : Nat) : (s.modCore c f).wave? d = s.wave? d := rfl
@[simp] theorem State.wg?_modCore_frame (s : State) (c : Nat) (f : Core → Core) (d : Nat) : (s.modCore c f).wg? d = s.wg? d := rfl
@[simp] theorem State.gang?_modCore_frame (s : State) (c : Nat) (f : Core → Core) (d : Nat) : (s.modCore c f).gang? d = s.gang? d := rfl
@[simp] theorem State.core_setCluster_frame (s : State) (c : Nat) (x : Cluster) (d : Nat) : (s.setCluster c x).core d = s.core d := rfl
@[simp] theorem State.chip_setCluster_frame (s : State) (c : Nat) (x : Cluster) (d : Nat) : (s.setCluster c x).chip d = s.chip d := rfl
@[simp] theorem State.repl_setCluster_frame (s : State) (c : Nat) (x : Cluster) (d : Nat) : (s.setCluster c x).repl d = s.repl d := rfl
@[simp] theorem State.wave?_setCluster_frame (s : State) (c : Nat) (x : Cluster) (d : Nat) : (s.setCluster c x).wave? d = s.wave? d := rfl
@[simp] theorem State.wg?_setCluster_frame (s : State) (c : Nat) (x : Cluster) (d : Nat) : (s.setCluster c x).wg? d = s.wg? d := rfl
@[simp] theorem State.gang?_setCluster_frame (s : State) (c : Nat) (x : Cluster) (d : Nat) : (s.setCluster c x).gang? d = s.gang? d := rfl
@[simp] theorem State.core_modCluster_frame (s : State) (c : Nat) (f : Cluster → Cluster) (d : Nat) : (s.modCluster c f).core d = s.core d := rfl
@[simp] theorem State.chip_modCluster_frame (s : State) (c : Nat) (f : Cluster → Cluster) (d : Nat) : (s.modCluster c f).chip d = s.chip d := rfl
@[simp] theorem State.repl_modCluster_frame (s : State) (c : Nat) (f : Cluster → Cluster) (d : Nat) : (s.modCluster c f).repl d = s.repl d := rfl
@[simp] theorem State.wave?_modCluster_frame (s : State) (c : Nat) (f : Cluster → Cluster) (d : Nat) : (s.modCluster c f).wave? d = s.wave? d := rfl
@[simp] theorem State.wg?_modCluster_frame (s : State) (c : Nat) (f : Cluster → Cluster) (d : Nat) : (s.modCluster c f).wg? d = s.wg? d := rfl
@[simp] theorem State.gang?_modCluster_frame (s : State) (c : Nat) (f : Cluster → Cluster) (d : Nat) : (s.modCluster c f).gang? d = s.gang? d := rfl
@[simp] theorem State.core_setChip_frame (s : State) (c : Nat) (x : Chip) (d : Nat) : (s.setChip c x).core d = s.core d := rfl
@[simp] theorem State.cluster_setChip_frame (s : State) (c : Nat) (x : Chip) (d : Nat) : (s.setChip c x).cluster d = s.cluster d := rfl
@[simp] theorem State.wave?_setChip_frame (s : State) (c : Nat) (x : Chip) (d : Nat) : (s.setChip c x).wave? d = s.wave? d := rfl
@[simp] theorem State.wg?_setChip_frame (s : State) (c : Nat) (x : Chip) (d : Nat) : (s.setChip c x).wg? d = s.wg? d := rfl
@[simp] theorem State.gang?_setChip_frame (s : State) (c : Nat) (x : Chip) (d : Nat) : (s.setChip c x).gang? d = s.gang? d := rfl
@[simp] theorem State.core_modChip_frame (s : State) (c : Nat) (f : Chip → Chip) (d : Nat) : (s.modChip c f).core d = s.core d := rfl
@[simp] theorem State.cluster_modChip_frame (s : State) (c : Nat) (f : Chip → Chip) (d : Nat) : (s.modChip c f).cluster d = s.cluster d := rfl
@[simp] theorem State.wave?_modChip_frame (s : State) (c : Nat) (f : Chip → Chip) (d : Nat) : (s.modChip c f).wave? d = s.wave? d := rfl
@[simp] theorem State.wg?_modChip_frame (s : State) (c : Nat) (f : Chip → Chip) (d : Nat) : (s.modChip c f).wg? d = s.wg? d := rfl
@[simp] theorem State.gang?_modChip_frame (s : State) (c : Nat) (f : Chip → Chip) (d : Nat) : (s.modChip c f).gang? d = s.gang? d := rfl
@[simp] theorem State.core_modRepl_frame (s : State) (c : Nat) (f : Repl → Repl) (d : Nat) : (s.modRepl c f).core d = s.core d := rfl
@[simp] theorem State.cluster_modRepl_frame (s : State) (c : Nat) (f : Repl → Repl) (d : Nat) : (s.modRepl c f).cluster d = s.cluster d := rfl
@[simp] theorem State.wave?_modRepl_frame (s : State) (c : Nat) (f : Repl → Repl) (d : Nat) : (s.modRepl c f).wave? d = s.wave? d := rfl
@[simp] theorem State.wg?_modRepl_frame (s : State) (c : Nat) (f : Repl → Repl) (d : Nat) : (s.modRepl c f).wg? d = s.wg? d := rfl
@[simp] theorem State.gang?_modRepl_frame (s : State) (c : Nat) (f : Repl → Repl) (d : Nat) : (s.modRepl c f).gang? d = s.gang? d := rfl
@[simp] theorem State.core_setWave_frame (s : State) (w : Nat) (x : Wave) (d : Nat) : (s.setWave w x).core d = s.core d := rfl
@[simp] theorem State.cluster_setWave_frame (s : State) (w : Nat) (x : Wave) (d : Nat) : (s.setWave w x).cluster d = s.cluster d := rfl
@[simp] theorem State.chip_setWave_frame (s : State) (w : Nat) (x : Wave) (d : Nat) : (s.setWave w x).chip d = s.chip d := rfl
@[simp] theorem State.repl_setWave_frame (s : State) (w : Nat) (x : Wave) (d : Nat) : (s.setWave w x).repl d = s.repl d := rfl
@[simp] theorem State.wg?_setWave_frame (s : State) (w : Nat) (x : Wave) (d : Nat) : (s.setWave w x).wg? d = s.wg? d := rfl
@[simp] theorem State.gang?_setWave_frame (s : State) (w : Nat) (x : Wave) (d : Nat) : (s.setWave w x).gang? d = s.gang? d := rfl
@[simp] theorem State.core_modWave_frame (s : State) (w : Nat) (f : Wave → Wave) (d : Nat) : (s.modWave w f).core d = s.core d := rfl
@[simp] theorem State.cluster_modWave_frame (s : State) (w : Nat) (f : Wave → Wave) (d : Nat) : (s.modWave w f).cluster d = s.cluster d := rfl
@[simp] theorem State.chip_modWave_frame (s : State) (w : Nat) (f : Wave → Wave) (d : Nat) : (s.modWave w f).chip d = s.chip d := rfl
@[simp] theorem State.repl_modWave_frame (s : State) (w : Nat) (f : Wave → Wave) (d : Nat) : (s.modWave w f).repl d = s.repl d := rfl
@[simp] theorem State.wg?_modWave_frame (s : State) (w : Nat) (f : Wave → Wave) (d : Nat) : (s.modWave w f).wg? d = s.wg? d := rfl
@[simp] theorem State.gang?_modWave_frame (s : State) (w : Nat) (f : Wave → Wave) (d : Nat) : (s.modWave w f).gang? d = s.gang? d := rfl
@[simp] theorem State.core_modWg_frame (s : State) (g : Nat) (f : Workgroup → Workgroup) (d : Nat) : (s.modWg g f).core d = s.core d := rfl
@[simp] theorem State.cluster_modWg_frame (s : State) (g : Nat) (f : Workgroup → Workgroup) (d : Nat) : (s.modWg g f).cluster d = s.cluster d := rfl
@[simp] theorem State.chip_modWg_frame (s : State) (g : Nat) (f : Workgroup → Workgroup) (d : Nat) : (s.modWg g f).chip d = s.chip d := rfl
@[simp] theorem State.repl_modWg_frame (s : State) (g : Nat) (f : Workgroup → Workgroup) (d : Nat) : (s.modWg g f).repl d = s.repl d := rfl
@[simp] theorem State.wave?_modWg_frame (s : State) (g : Nat) (f : Workgroup → Workgroup) (d : Nat) : (s.modWg g f).wave? d = s.wave? d := rfl
@[simp] theorem State.gang?_modWg_frame (s : State) (g : Nat) (f : Workgroup → Workgroup) (d : Nat) : (s.modWg g f).gang? d = s.gang? d := rfl
@[simp] theorem State.core_modGang_frame (s : State) (g : Nat) (f : Gang → Gang) (d : Nat) : (s.modGang g f).core d = s.core d := rfl
@[simp] theorem State.cluster_modGang_frame (s : State) (g : Nat) (f : Gang → Gang) (d : Nat) : (s.modGang g f).cluster d = s.cluster d := rfl
@[simp] theorem State.chip_modGang_frame (s : State) (g : Nat) (f : Gang → Gang) (d : Nat) : (s.modGang g f).chip d = s.chip d := rfl
@[simp] theorem State.repl_modGang_frame (s : State) (g : Nat) (f : Gang → Gang) (d : Nat) : (s.modGang g f).repl d = s.repl d := rfl
@[simp] theorem State.wave?_modGang_frame (s : State) (g : Nat) (f : Gang → Gang) (d : Nat) : (s.modGang g f).wave? d = s.wave? d := rfl
@[simp] theorem State.wg?_modGang_frame (s : State) (g : Nat) (f : Gang → Gang) (d : Nat) : (s.modGang g f).wg? d = s.wg? d := rfl
@[simp] theorem State.core_post_frame (s : State) (e : Event) (d : Nat) : (s.post e).core d = s.core d := rfl
@[simp] theorem State.cluster_post_frame (s : State) (e : Event) (d : Nat) : (s.post e).cluster d = s.cluster d := rfl
@[simp] theorem State.chip_post_frame (s : State) (e : Event) (d : Nat) : (s.post e).chip d = s.chip d := rfl
@[simp] theorem State.repl_post_frame (s : State) (e : Event) (d : Nat) : (s.post e).repl d = s.repl d := rfl
@[simp] theorem State.wave?_post_frame (s : State) (e : Event) (d : Nat) : (s.post e).wave? d = s.wave? d := rfl
@[simp] theorem State.wg?_post_frame (s : State) (e : Event) (d : Nat) : (s.post e).wg? d = s.wg? d := rfl
@[simp] theorem State.gang?_post_frame (s : State) (e : Event) (d : Nat) : (s.post e).gang? d = s.gang? d := rfl
@[simp] theorem State.core_note_frame (s : State) (c n : Nat) (as : List Nat) (d : Nat) : (s.note c n as).core d = s.core d := rfl
@[simp] theorem State.cluster_note_frame (s : State) (c n : Nat) (as : List Nat) (d : Nat) : (s.note c n as).cluster d = s.cluster d := rfl
@[simp] theorem State.wave?_note_frame (s : State) (c n : Nat) (as : List Nat) (d : Nat) : (s.note c n as).wave? d = s.wave? d := rfl
@[simp] theorem State.wg?_note_frame (s : State) (c n : Nat) (as : List Nat) (d : Nat) : (s.note c n as).wg? d = s.wg? d := rfl
@[simp] theorem State.gang?_note_frame (s : State) (c n : Nat) (as : List Nat) (d : Nat) : (s.note c n as).gang? d = s.gang? d := rfl
@[simp] theorem State.core_useFree_frame (s : State) (d : Nat) : (s.useFree ).core d = s.core d := rfl
@[simp] theorem State.cluster_useFree_frame (s : State) (d : Nat) : (s.useFree ).cluster d = s.cluster d := rfl
@[simp] theorem State.chip_useFree_frame (s : State) (d : Nat) : (s.useFree ).chip d = s.chip d := rfl
@[simp] theorem State.repl_useFree_frame (s : State) (d : Nat) : (s.useFree ).repl d = s.repl d := rfl
@[simp] theorem State.wave?_useFree_frame (s : State) (d : Nat) : (s.useFree ).wave? d = s.wave? d := rfl
@[simp] theorem State.wg?_useFree_frame (s : State) (d : Nat) : (s.useFree ).wg? d = s.wg? d := rfl
@[simp] theorem State.gang?_useFree_frame (s : State) (d : Nat) : (s.useFree ).gang? d = s.gang? d := rfl
@[simp] theorem State.core_postOnce_frame (s : State) (e : Event) (d : Nat) : (s.postOnce e).core d = s.core d := by
  unfold State.postOnce; split <;> rfl
@[simp] theorem State.cluster_postOnce_frame (s : State) (e : Event) (d : Nat) : (s.postOnce e).cluster d = s.cluster d := by
  unfold State.postOnce; split <;> rfl
@[simp] theorem State.chip_postOnce_frame (s : State) (e : Event) (d : Nat) : (s.postOnce e).chip d = s.chip d := by
  unfold State.postOnce; split <;> rfl
@[simp] theorem State.repl_postOnce_frame (s : State) (e : Event) (d : Nat) : (s.postOnce e).repl d = s.repl d := by
  unfold State.postOnce; split <;> rfl
@[simp] theorem State.wave?_postOnce_frame (s : State) (e : Event) (d : Nat) : (s.postOnce e).wave? d = s.wave? d := by
  unfold State.postOnce; split <;> rfl
@[simp] theorem State.wg?_postOnce_frame (s : State) (e : Event) (d : Nat) : (s.postOnce e).wg? d = s.wg? d := by
  unfold State.postOnce; split <;> rfl
@[simp] theorem State.gang?_postOnce_frame (s : State) (e : Event) (d : Nat) : (s.postOnce e).gang? d = s.gang? d := by
  unfold State.postOnce; split <;> rfl

@[simp] theorem State.repl_note_frame (s : State) (c n : Nat) (as : List Nat) (d : Nat) :
    (s.note c n as).repl d = s.repl d := by
  unfold State.repl State.note; rw [State.chip_modChip]; split <;> simp [*]

theorem State.who_iff {s : State} {k : Who} :
    s.who = some k ↔ s.issuer = some k.w ∧ s.wave? k.w = some k.x ∧ s.wg? k.x.wg = some k.wg ∧ s.gang? k.wg.gang = some k.g ∧
      k.held = ((s.core k.wg.core).wq.filter fun e => e.2.wave = k.w && e.2.held).map fun e => e.1 := by
  obtain ⟨w, x, wg, g, held⟩ := k
  unfold State.who
  constructor
  · intro h
    split at h
    · cases h
    · split at h
      · cases h
      · split at h
        · cases h
        · split at h
          · cases h
          · cases h; exact ⟨‹_›, ‹_›, ‹_›, ‹_›, rfl⟩
  · rintro ⟨h1, h2, h3, h4, h5⟩
    simp only at h1 h2 h3 h4 h5
    simp [h1, h2, h3, h4, h5]

end Sys2Proof.Machine
end

