-- ==== Sys2Proof/Laws/Frame.lean ====
section
/-! SUPPORT. What follows an issue (regrouping, traps, kills, barriers, the commit token) leaves every register, every
byte and every special register of the module as it was: one lemma for each operation, through one observer `State.obs`. -/

-- One theorem at a time: many at once ask for more threads than the checker has memory for.
set_option Elab.async false

namespace Sys2Proof.Machine

/-- What of a thread its registers are. -/
structure ThreadData where
  v : Table Word
  k : Table Word
  h : Table Word
  p : BitVec 8
  fpctl : Word
  fpflags : Word
  full : BitVec 256

/-- What of a core no trap changes. -/
structure CoreData where
  clk : Nat
  scratch : Memory
  lines : BitVec 4096
  segs : Table Seg
  kick : Option Kick
  copies : Table Copy
  graphs : Table Graph
  sends : Table (List Tok)
  barSig : Table (BitVec 512)

/-- What is observed through a wave number, a core, a cluster and a chip. -/
structure Obs where
  threads : Option (List ThreadData)
  special : Option (Word × List (Nat × DWord) × Word × Word × Word)
  mem : Memory
  core : CoreData
  cluster : Cluster
  chip : Chip

def Thread.data (t : Thread) : ThreadData :=
  { v := t.v, k := t.k, h := t.h, p := t.p, fpctl := t.fpctl, fpflags := t.fpflags, full := t.full }

def Wave.datas (x : Wave) : List ThreadData := x.threads.map Thread.data

def Core.data (c : Core) : CoreData :=
  { clk := c.clk, scratch := c.scratch, lines := c.lines, segs := c.segs, kick := c.kick, copies := c.copies
    graphs := c.graphs, sends := c.sends, barSig := c.barSig }

/-- A cluster without its local filters, a chip without its housekeeping log. -/
def Cluster.data (c : Cluster) : Cluster := { c with filters := [] }
def Chip.data (c : Chip) : Chip := { c with hk := [] }

def State.obs (s : State) (v c k h : Nat) : Obs :=
  { threads := (s.wave? v).map Wave.datas, special := (s.wave? v).map Wave.special, mem := s.mem
    core := (s.core c).data, cluster := (s.cluster k).data, chip := (s.chip h).data }

variable {v c k h : Nat}

/-! ### Updates -/

theorem State.obs_congr {s t : State} (hw : ∀ w, (t.wave? w).map Wave.datas = (s.wave? w).map Wave.datas)
    (hs : ∀ w, (t.wave? w).map Wave.special = (s.wave? w).map Wave.special) (hm : t.mem = s.mem)
    (hc : ∀ i, (t.core i).data = (s.core i).data) (hk : ∀ i, (t.cluster i).data = (s.cluster i).data)
    (hh : ∀ i, (t.chip i).data = (s.chip i).data) : t.obs v c k h = s.obs v c k h := by
  simp [State.obs, hw, hs, hm, hc, hk, hh]

/-- A wave changed without its registers. -/
def Wave.Keeps (f : Wave → Wave) : Prop := ∀ x, (f x).datas = x.datas ∧ (f x).special = x.special

theorem State.obs_modWave {s : State} {w : Nat} {f : Wave → Wave} (h : Wave.Keeps f) :
    (s.modWave w f).obs v c k h' = s.obs v c k h' := by
  apply State.obs_congr <;> intros <;> simp
  · split
    · subst_vars; rw [Option.map_map]; congr 1; funext x; exact (h x).1
    · rfl
  · split
    · subst_vars; rw [Option.map_map]; congr 1; funext x; exact (h x).2
    · rfl

theorem State.obs_setWave {s : State} {w : Nat} {x y : Wave} (hx : s.wave? w = some x) (hd : y.datas = x.datas)
    (hs : y.special = x.special) : (s.setWave w y).obs v c k h = s.obs v c k h := by
  apply State.obs_congr <;> intros <;> simp
  all_goals
    split
    · subst_vars; simp [hx, hd, hs]
    · rfl

theorem State.obs_modCore {s : State} {i : Nat} {f : Core → Core} (hf : ∀ x, (f x).data = x.data) :
    (s.modCore i f).obs v c k h = s.obs v c k h := by
  apply State.obs_congr <;> intros <;> simp
  split
  · subst_vars; exact hf _
  · rfl

theorem State.obs_setCore {s : State} {i : Nat} {x : Core} (hx : x.data = (s.core i).data) :
    (s.setCore i x).obs v c k h = s.obs v c k h := by
  apply State.obs_congr <;> intros <;> simp
  split
  · subst_vars; exact hx
  · rfl

theorem State.obs_modCluster {s : State} {i : Nat} {f : Cluster → Cluster} (hf : ∀ x, (f x).data = x.data) :
    (s.modCluster i f).obs v c k h = s.obs v c k h := by
  apply State.obs_congr <;> intros <;> simp
  split
  · subst_vars; exact hf _
  · rfl

@[simp] theorem State.obs_modWg (s : State) (i : Nat) (f : Workgroup → Workgroup) :
    (s.modWg i f).obs v c k h = s.obs v c k h := rfl

@[simp] theorem State.obs_modGang (s : State) (i : Nat) (f : Gang → Gang) :
    (s.modGang i f).obs v c k h = s.obs v c k h := rfl

@[simp] theorem State.obs_post (s : State) (e : Event) : (s.post e).obs v c k h = s.obs v c k h := rfl

@[simp] theorem State.obs_postOnce (s : State) (e : Event) : (s.postOnce e).obs v c k h = s.obs v c k h := by
  unfold State.postOnce; split <;> rfl

@[simp] theorem State.obs_note (s : State) (i n : Nat) (as : List Nat) :
    (s.note i n as).obs v c k h = s.obs v c k h := by
  unfold State.note
  apply State.obs_congr <;> intros <;> simp
  split
  · subst_vars; rfl
  · rfl

/-- A fold of operations that keep the observation. -/
theorem obs_foldl {α : Type} {g : State → α → State}
    (hg : ∀ s a, (g s a).obs v c k h = s.obs v c k h) (l : List α) (s : State) :
    (l.foldl g s).obs v c k h = s.obs v c k h := by
  induction l generalizing s with
  | nil => rfl
  | cons a r ih => rw [List.foldl_cons, ih, hg]

/-! ### Threads -/

theorem Wave.datas_mapThreads {x : Wave} {f : Nat → Thread → Thread} (hf : ∀ i t, (f i t).data = t.data) :
    (x.mapThreads f).datas = x.datas := by
  apply List.ext_getElem?
  intro i
  simp only [Wave.datas, Wave.mapThreads, List.getElem?_map, List.getElem?_mapIdx, Option.map_map]
  congr 1
  funext t
  exact hf i t

theorem Wave.datas_mapLanes {x : Wave} {ls : List Nat} {f : Nat → Thread → Thread}
    (hf : ∀ i t, (f i t).data = t.data) : (x.mapLanes ls f).datas = x.datas :=
  Wave.datas_mapThreads fun i t => by split <;> simp [hf]

@[simp] theorem Wave.special_mapThreads (x : Wave) (f : Nat → Thread → Thread) : (x.mapThreads f).special = x.special := rfl
@[simp] theorem Wave.special_mapLanes (x : Wave) (ls : List Nat) (f : Nat → Thread → Thread) :
    (x.mapLanes ls f).special = x.special := rfl

@[simp] theorem Wave.datas_issueAt (x : Wave) (pc : DWord) : (x.issueAt pc).datas = x.datas :=
  Wave.datas_mapThreads fun _ t => by split <;> rfl
@[simp] theorem Wave.special_issueAt (x : Wave) (pc : DWord) : (x.issueAt pc).special = x.special := rfl
@[simp] theorem Wave.datas_releaseAt (x : Wave) (pc : DWord) : (x.releaseAt pc).datas = x.datas :=
  Wave.datas_mapThreads fun _ t => by
    split
    · rfl
    · split <;> rfl
@[simp] theorem Wave.special_releaseAt (x : Wave) (pc : DWord) : (x.releaseAt pc).special = x.special := rfl

@[simp] theorem Wave.datas_skipPast (x : Wave) (pc : DWord) : (x.skipPast pc).datas = x.datas :=
  Wave.datas_mapThreads fun _ t => by split <;> rfl
@[simp] theorem Wave.special_skipPast (x : Wave) (pc : DWord) : (x.skipPast pc).special = x.special := rfl

@[simp] theorem Thread.data_enter (t : Thread) (pc : DWord) : (t.enter pc).data = t.data := by
  unfold Thread.enter; split <;> rfl

@[simp] theorem Thread.data_goTo (t : Thread) (pc : DWord) : (t.goTo pc).data = t.data := rfl

@[simp] theorem Thread.data_moveOn (b t : Thread) (pc : DWord) (m : Bool) : (b.moveOn t pc m).data = t.data := by
  unfold Thread.moveOn
  by_cases g : 0 < b.guard.left <;> simp only [g, if_true, if_false] <;> split <;> split <;> rfl

@[simp] theorem Thread.data_wake (t : Thread) (i : WaitIn) : (t.wake i).data = t.data := by
  unfold Thread.wake; simp only; split <;> rfl

@[simp] theorem Thread.data_wakeOwn (t : Thread) (p : WaitIn → Bool) : (t.wakeOwn p).data = t.data := by
  unfold Thread.wakeOwn; split
  · rfl
  · split <;> simp

@[simp] theorem Thread.data_wakeAside (t : Thread) (p : WaitIn → Bool) : (t.wakeAside p).data = t.data := by
  unfold Thread.wakeAside; split
  · rfl
  · split
    · rfl
    · split <;> rfl

@[simp] theorem Thread.data_wakeIf (t : Thread) (p : WaitIn → Bool) : (t.wakeIf p).data = t.data := by
  simp [Thread.wakeIf]

@[simp] theorem Thread.data_commitAt (t : Thread) (pc : DWord) : (t.commitAt pc).data = t.data := rfl

@[simp] theorem Wave.datas_rechoose (x : Wave) : x.rechoose.datas = x.datas := by
  unfold Wave.rechoose; split
  · rfl
  · split <;> simp
@[simp] theorem Wave.special_rechoose (x : Wave) : x.rechoose.special = x.special := by
  unfold Wave.rechoose; split
  · rfl
  · split <;> simp

/-! ### Regions -/

@[simp] theorem State.obs_postEntry (s : State) (i id : Nat) (e : WqEntry) :
    (s.postEntry i id e).obs v c k h = s.obs v c k h := by
  unfold State.postEntry; split <;> simp

@[simp] theorem State.obs_releaseHeld (s : State) (w : Nat) : (s.releaseHeld w).obs v c k h = s.obs v c k h := by
  unfold State.releaseHeld
  simp only
  split
  · rfl
  · rw [obs_foldl (fun s a => State.obs_postEntry s _ _ _)]
    exact State.obs_setCore rfl

@[simp] theorem Core.data_giveBack (c : Core) (key : Nat) (m : Option (BitVec 512)) : (c.giveBack key m).data = c.data := by
  unfold Core.giveBack; split <;> rfl

@[simp] theorem Core.data_noteLeft (c : Core) (n : Nat) (es : List WqEntry) : (c.noteLeft n es).data = c.data := rfl

theorem Core.data_giveBacks (es : List WqEntry) (c : Core) :
    (es.foldl (fun (c : Core) (e : WqEntry) => c.giveBack e.key e.sig) c).data = c.data := by
  induction es generalizing c with
  | nil => rfl
  | cons e r ih => rw [List.foldl_cons, ih, Core.data_giveBack]

/-- A count of the model is none of what is observed. -/
@[simp] theorem State.obs_serial (s : State) (n : Nat) : State.obs { s with serial := n } v c k h = s.obs v c k h := rfl

@[simp] theorem State.obs_dropHeld (s : State) (w : Nat) : (s.dropHeld w).obs v c k h = s.obs v c k h := by
  unfold State.dropHeld
  simp only [State.obs_serial]
  refine State.obs_modCore fun x => ?_
  rw [Core.data_noteLeft]
  exact Core.data_giveBacks _ x

/-! ### Kills and traps -/

@[simp] theorem State.obs_killOne (s : State) (g : Nat) (e : Bool) (y : List Nat) : (s.killOne g e y).obs v c k h = s.obs v c k h := by
  unfold State.killOne
  split
  · rfl
  · split
    · rfl
    split
    · simp
    · simp only
      rw [obs_foldl]
      · simp
      · intro s a
        split
        · rfl
        · simp only [State.obs_postOnce, State.obs_modWg]
          apply obs_foldl
          intro s w
          rw [State.obs_modWave, State.obs_dropHeld]
          exact fun x => ⟨Wave.datas_mapThreads (x := x) fun _ _ => rfl, rfl⟩

@[simp] theorem State.obs_killGang (s : State) (g : Nat) (e : Bool) (y : List Nat) : (s.killGang g e y).obs v c k h = s.obs v c k h := by
  unfold State.killGang
  split
  · rfl
  · simp only
    split
    · rw [obs_foldl]
      · simp
      · intro s a; split <;> simp
    · simp

@[simp] theorem State.obs_haltOthers (s : State) (ws : List Nat) (w : Nat) :
    (s.haltOthers ws w).obs v c k h = s.obs v c k h := by
  unfold State.haltOthers
  apply obs_foldl
  intro s a
  split
  · rfl
  · exact State.obs_modWave (s := s) (w := a) fun x => ⟨rfl, rfl⟩

theorem State.wave?_releaseHeld (s : State) (w u : Nat) : (s.releaseHeld w).wave? u = s.wave? u := by
  have f : ∀ (l : List (Nat × WqEntry)) (i : Nat) (s : State),
      (l.foldl (fun s e => s.postEntry i e.1 e.2) s).wave? u = s.wave? u := by
    intro l i
    induction l with
    | nil => intro s; rfl
    | cons a r ih => intro s; rw [List.foldl_cons, ih]; unfold State.postEntry; split <;> simp
  unfold State.releaseHeld
  simp only
  split
  · rfl
  · rw [f]; simp

@[simp] theorem State.obs_takeTrapAs (s : State) (w : Nat) (hd : Handler) (i : TrapInfo) :
    (s.takeTrapAs w hd i).obs v c k h = s.obs v c k h := by
  unfold State.takeTrapAs
  split
  · rfl
  · rename_i x hx
    split
    · rfl
    · split
      · rfl
      · split
        · simp
        · split
          · exact State.obs_setWave hx rfl rfl
          · simp only [State.obs_haltOthers, State.obs_modWg]
            rw [State.obs_setWave (x := x)]
            · simp
            · rw [State.wave?_releaseHeld]; exact hx
            · refine (Wave.datas_mapThreads fun _ t => Thread.data_enter t _).trans ?_
              split <;> simp
            · split <;> rfl

@[simp] theorem State.obs_takeTrap (s : State) (w : Nat) (i : TrapInfo) :
    (s.takeTrap w i).obs v c k h = s.obs v c k h := State.obs_takeTrapAs s w .trap i

@[simp] theorem State.obs_preciseTrap (s : State) (w : Nat) (a : BitVec 8) (pc b : DWord) :
    (s.preciseTrap w a pc b).obs v c k h = s.obs v c k h := State.obs_takeTrap s w _

@[simp] theorem State.obs_laneTrap (s : State) (w : Nat) : (s.laneTrap w).obs v c k h = s.obs v c k h := by
  unfold State.laneTrap
  split
  · rfl
  · split
    · rfl
    · split <;> simp

@[simp] theorem State.obs_decodeTrap (s : State) (w : Nat) (a : BitVec 8) (pc : DWord) (n : Nat) :
    (s.decodeTrap w a pc n).obs v c k h = s.obs v c k h := State.obs_takeTrap s w _

@[simp] theorem State.obs_liftHalt (s : State) (g : Nat) : (s.liftHalt g).obs v c k h = s.obs v c k h := by
  unfold State.liftHalt
  split
  · rfl
  · simp only
    rw [obs_foldl]
    · simp
    · intro s o; exact State.obs_modWave fun x => ⟨rfl, rfl⟩

/-! ### Barriers and the token -/

@[simp] theorem State.obs_barCheck (s : State) (g : Nat) : (s.barCheck g).obs v c k h = s.obs v c k h := by
  unfold State.barCheck
  split
  · rfl
  · simp only
    split
    · rfl
    · rw [obs_foldl]
      · simp
      · intro s w
        exact State.obs_modWave fun x => ⟨(Wave.datas_rechoose _).trans
          (Wave.datas_mapThreads (x := x) fun _ t => Thread.data_wakeIf t _), Wave.special_rechoose _⟩

@[simp] theorem State.obs_acquireL1 (s : State) (i : Nat) (m : BitVec 512) :
    (s.acquireL1 i m).obs v c k h = s.obs v c k h := by
  unfold State.acquireL1
  simp only
  rw [State.obs_modCore, State.obs_modCluster]
  · intro x; rfl
  · intro x; rfl

@[simp] theorem State.obs_gbarCheck (s : State) (g : Nat) : (s.gbarCheck g).obs v c k h = s.obs v c k h := by
  unfold State.gbarCheck
  split
  · rfl
  · simp only
    split
    · rfl
    · rw [obs_foldl]
      · rw [obs_foldl]
        · simp
        · intro s i; simp
      · intro s w
        exact State.obs_modWave fun x => ⟨(Wave.datas_rechoose _).trans
          (Wave.datas_mapThreads (x := x) fun _ t => Thread.data_wakeIf t _), Wave.special_rechoose _⟩

@[simp] theorem State.obs_tokens (s : State) (n : Nat) (ts : Table Token) :
    State.obs { s with tokens := ts } v c k h = s.obs v c k h := rfl

@[simp] theorem obs_tokenSettle (n : Nat) (s : State) (l : Nat) : (tokenSettle n s l).obs v c k h = s.obs v c k h := by
  induction n generalizing s with
  | zero => rfl
  | succ n ih =>
    unfold tokenSettle
    split
    · rfl
    · simp only
      split
      · split
        · rw [ih]; rfl
        · split
          · rfl
          · rw [ih]; rfl
      · split
        · rw [ih]; rfl
        · split
          · rfl
          · split
            · rw [ih]; rfl
            · rfl

@[simp] theorem State.obs_tokenAgain (s : State) (w : Nat) : (s.tokenAgain w).obs v c k h = s.obs v c k h := by
  unfold State.tokenAgain
  split
  · rfl
  · split <;> simp

@[simp] theorem State.obs_waveEnded (s : State) (w : Nat) : (s.waveEnded w).obs v c k h = s.obs v c k h := by
  unfold State.waveEnded
  split
  · rfl
  · rename_i x hx
    split
    · rfl
    · have e (p : Prop) [Decidable p] (a b : State) : (if p then a else b).obs v c k h =
          if p then a.obs v c k h else b.obs v c k h := by split <;> rfl
      simp only [e, State.obs_postOnce, State.obs_tokenAgain, State.obs_gbarCheck, State.obs_barCheck, State.obs_liftHalt,
        State.obs_modGang, State.obs_modWg, ite_self]
      exact State.obs_setWave hx rfl rfl

/-- Choosing the next group keeps the observation of a state in which the wave's entry is `x` up to control. -/
theorem State.obs_settleAs {s : State} {w : Nat} {n : NextIssue} {x y : Wave} (hx : s.wave? w = some y)
    (hd : x.datas = y.datas) (hs : x.special = y.special)
    (hn : match n with
      | .issue z => z.datas = x.datas ∧ z.special = x.special
      | .converge z => z.datas = x.datas ∧ z.special = x.special
      | _ => True) : (s.settleAs w n x).obs v c k h = s.obs v c k h := by
  unfold State.settleAs
  split
  · exact State.obs_setWave hx (hn.1.trans hd) (hn.2.trans hs)
  · rw [State.obs_laneTrap]; exact State.obs_setWave hx (hn.1.trans hd) (hn.2.trans hs)
  · exact State.obs_setWave hx hd hs
  · rw [State.obs_waveEnded]; exact State.obs_setWave hx hd hs

/-- What a choice of the next group makes of a wave keeps its registers. -/
def NextIssue.Keeps (x : Wave) : NextIssue → Prop
  | .issue z => z.datas = x.datas ∧ z.special = x.special
  | .converge z => z.datas = x.datas ∧ z.special = x.special
  | _ => True

theorem Wave.chooseNext_keeps (x : Wave) : x.chooseNext.Keeps x := by
  unfold Wave.chooseNext
  split
  · simp [NextIssue.Keeps]
  · split
    · split <;> simp [NextIssue.Keeps]
    · split
      · simp [NextIssue.Keeps]
      · split <;> simp [NextIssue.Keeps]

theorem Wave.regroup_keeps (x : Wave) : x.regroup.Keeps x := by
  unfold Wave.regroup
  split
  · simp [NextIssue.Keeps]
  · exact Wave.chooseNext_keeps x

theorem Wave.yieldNext_keeps (x : Wave) (ys : List Nat) : (x.yieldNext ys).Keeps x := by
  unfold Wave.yieldNext
  simp only
  split
  · simp [NextIssue.Keeps]
  · split
    · split <;> simp [NextIssue.Keeps]
    · exact Wave.regroup_keeps x

@[simp] theorem State.obs_sample (s : State) (i a n : Nat) : (s.sample i a n).obs v c k h = s.obs v c k h := by
  unfold State.sample
  simp only
  split
  · exact State.obs_setCore rfl
  · rfl

theorem Core.data_addCycles (x : Core) (a n : Nat) : (x.addCycles a n).data = x.data := by
  unfold Core.addCycles; split <;> rfl

@[simp] theorem State.obs_countIssue (s : State) (i : Nat) (x : Wave) (g a : List Nat) (pc : DWord) :
    (s.countIssue i x g a pc).obs v c k h = s.obs v c k h := by
  unfold State.countIssue
  simp only
  apply State.obs_modCore
  intro y
  show ((((y.addCycles _ _).addCycles _ _).addCycles _ _).addCycles _ _).data = _
  simp only [Core.data_addCycles]

@[simp] theorem State.obs_count (s : State) (i a n : Nat) : (s.count i a n).obs v c k h = s.obs v c k h :=
  State.obs_modCore fun _ => rfl

@[simp] theorem State.wave?_sample (s : State) (i a n w : Nat) : (s.sample i a n).wave? w = s.wave? w := by
  unfold State.sample; simp only; split <;> simp

@[simp] theorem State.wave?_countIssue (s : State) (i : Nat) (x : Wave) (g a : List Nat) (pc : DWord) (w : Nat) :
    (s.countIssue i x g a pc).wave? w = s.wave? w := by
  unfold State.countIssue; simp

@[simp] theorem State.obs_waits (s : State) : s.waits.obs v c k h = s.obs v c k h := rfl

/-- What follows an issue keeps every register and every byte. -/
theorem State.obs_finish {s : State} {q : Who} {group act : List Nat} {commit : Bool} {target : Nat → DWord}
    {next : List Nat → Wave → NextIssue} (hn : ∀ x, (next group x).Keeps x) :
    (s.finish q group act commit target next).obs v c k h = s.obs v c k h := by
  unfold State.finish
  split
  · rfl
  · rename_i x hx
    simp only
    generalize hs1 : (if q.x.stall = 0 then s else s.sample q.wg.core 7 q.x.stall) = s1
    have o1 : s1.obs v c k h = s.obs v c k h := by rw [← hs1]; split <;> simp
    have w1 : s1.wave? q.w = some x := by rw [← hs1]; split <;> simp [hx]
    generalize hx2 : (x.mapLanes group fun l t => (q.x.thread l).moveOn t (target l) commit).counted = x2
    have d2 : x2.datas = x.datas := by
      rw [← hx2]; exact Wave.datas_mapLanes (x := x) fun i t => Thread.data_moveOn _ _ _ _
    have p2 : x2.special = x.special := by rw [← hx2]; rfl
    generalize hs2 : (s1.countIssue q.wg.core q.x group act (q.x.issuePc.getD 0)).settleAs q.w (next group x2) x2 = s2
    have o2 : s2.obs v c k h = s.obs v c k h := by
      rw [← hs2, State.obs_settleAs (y := x) (by simp [w1]) d2 p2]
      · simp [o1]
      · have := hn x2
        revert this
        cases next group x2 <;> exact id
    generalize hs3 : (if 65536 ≤ x2.handlerCount && x2.handler.isSome then s2.postOnce (.handlerWatchdog q.w) else s2) = s3
    have o3 : s3.obs v c k h = s.obs v c k h := by rw [← hs3]; split <;> simp [o2]
    split
    · exact o3
    · split <;> simp [o3]

end Sys2Proof.Machine
end

