-- ==== Sys2Proof/Laws/Quiet.lean ====
section
/-! SUPPORT. Where no lane is parked and no `STEP` is armed, what follows an issue takes no trap: the exception registers
of every wave stay as they were. -/

-- One theorem at a time: many at once ask for more threads than the checker has memory for.
set_option Elab.async false

namespace Sys2Proof.Machine

/-- What only a trap or a kill changes of a wave: the exception registers, the outstanding results, the meeting addresses and
the lane records. -/
def Wave.calm (x : Wave) : (Word × DWord × FaultRec) × Table Load × List (DWord × Option LaneRec) :=
  (x.trapRegs, x.loads, x.threads.map fun t => (t.meet, t.lane))

def State.calm (s : State) (v : Nat) : Option ((Word × DWord × FaultRec) × Table Load × List (DWord × Option LaneRec)) :=
  (s.wave? v).map Wave.calm

theorem State.trapRegs_of_calm {s t : State} {v : Nat} (h : t.calm v = s.calm v) :
    (t.wave? v).map Wave.trapRegs = (s.wave? v).map Wave.trapRegs := by
  have e := congrArg (Option.map Prod.fst) h
  simp only [State.calm, Option.map_map] at e
  exact e

theorem State.loads_of_calm {s t : State} {v : Nat} (h : t.calm v = s.calm v) :
    (t.wave? v).map Wave.loads = (s.wave? v).map Wave.loads := by
  have e := congrArg (Option.map fun p => p.2.1) h
  simp only [State.calm, Option.map_map] at e
  exact e

theorem Wave.calm_mapThreads {x : Wave} {f : Nat → Thread → Thread}
    (hf : ∀ i t, (f i t).meet = t.meet ∧ (f i t).lane = t.lane) : (x.mapThreads f).calm = x.calm := by
  have e : ((x.mapThreads f).threads.map fun t => (t.meet, t.lane)) = x.threads.map fun t => (t.meet, t.lane) := by
    apply List.ext_getElem?
    intro i
    simp only [Wave.mapThreads, List.getElem?_map, List.getElem?_mapIdx, Option.map_map]
    congr 1
    funext t
    exact Prod.ext (hf i t).1 (hf i t).2
  unfold Wave.calm
  rw [e]
  rfl

variable {v : Nat}

theorem State.calm_modWave {s : State} {w : Nat} {f : Wave → Wave} (h : ∀ x, (f x).calm = x.calm) :
    (s.modWave w f).calm v = s.calm v := by
  simp only [State.calm, State.wave?_modWave]
  split
  · subst_vars; rw [Option.map_map]; congr 1; funext x; exact h x
  · rfl

theorem State.calm_setWave {s : State} {w : Nat} {x y : Wave} (hx : s.wave? w = some x)
    (hd : y.calm = x.calm) : (s.setWave w y).calm v = s.calm v := by
  simp only [State.calm, State.wave?_setWave]
  split
  · subst_vars; simp [hx, hd]
  · rfl

theorem calm_foldl {α : Type} {g : State → α → State} (hg : ∀ s a, (g s a).calm v = s.calm v) (l : List α)
    (s : State) : (l.foldl g s).calm v = s.calm v := by
  induction l generalizing s with
  | nil => rfl
  | cons a r ih => rw [List.foldl_cons, ih, hg]

@[simp] theorem State.calm_modWg (s : State) (i : Nat) (f : Workgroup → Workgroup) :
    (s.modWg i f).calm v = s.calm v := rfl
@[simp] theorem State.calm_modGang (s : State) (i : Nat) (f : Gang → Gang) : (s.modGang i f).calm v = s.calm v := rfl
@[simp] theorem State.calm_modCore (s : State) (i : Nat) (f : Core → Core) : (s.modCore i f).calm v = s.calm v := rfl
@[simp] theorem State.calm_modCluster (s : State) (i : Nat) (f : Cluster → Cluster) :
    (s.modCluster i f).calm v = s.calm v := rfl
@[simp] theorem State.calm_post (s : State) (e : Event) : (s.post e).calm v = s.calm v := rfl
@[simp] theorem State.calm_postOnce (s : State) (e : Event) : (s.postOnce e).calm v = s.calm v := by
  simp [State.calm]

@[simp] theorem Wave.calm_issueAt (x : Wave) (pc : DWord) : (x.issueAt pc).calm = x.calm :=
  Wave.calm_mapThreads fun _ t => by split <;> exact ⟨rfl, rfl⟩

@[simp] theorem Wave.calm_releaseAt (x : Wave) (pc : DWord) : (x.releaseAt pc).calm = x.calm :=
  Wave.calm_mapThreads fun _ t => by
    split
    · exact ⟨rfl, rfl⟩
    · split <;> exact ⟨rfl, rfl⟩

@[simp] theorem Wave.calm_rechoose (x : Wave) : x.rechoose.calm = x.calm := by
  unfold Wave.rechoose; split
  · rfl
  · split <;> simp

theorem Thread.calm_wakeIf (t : Thread) (p : WaitIn → Bool) :
    (t.wakeIf p).meet = t.meet ∧ (t.wakeIf p).lane = t.lane := by
  have a : ∀ u : Thread, (u.wakeAside p).meet = u.meet ∧ (u.wakeAside p).lane = u.lane := by
    intro u
    unfold Thread.wakeAside
    split
    · exact ⟨rfl, rfl⟩
    · split
      · exact ⟨rfl, rfl⟩
      · split <;> exact ⟨rfl, rfl⟩
  have b : (t.wakeOwn p).meet = t.meet ∧ (t.wakeOwn p).lane = t.lane := by
    unfold Thread.wakeOwn
    split
    · exact ⟨rfl, rfl⟩
    · split
      · unfold Thread.wake; simp only; split <;> exact ⟨rfl, rfl⟩
      · exact ⟨rfl, rfl⟩
  exact ⟨(a _).1.trans b.1, (a _).2.trans b.2⟩

@[simp] theorem State.calm_releaseHeld (s : State) (w : Nat) : (s.releaseHeld w).calm v = s.calm v := by
  simp [State.calm, State.wave?_releaseHeld]

@[simp] theorem State.calm_liftHalt (s : State) (g : Nat) : (s.liftHalt g).calm v = s.calm v := by
  unfold State.liftHalt
  split
  · rfl
  · simp only
    rw [calm_foldl]
    · simp
    · intro s o; exact State.calm_modWave fun x => rfl

@[simp] theorem State.calm_barCheck (s : State) (g : Nat) : (s.barCheck g).calm v = s.calm v := by
  unfold State.barCheck
  split
  · rfl
  · simp only
    split
    · rfl
    · rw [calm_foldl]
      · simp
      · intro s w
        exact State.calm_modWave fun x => (Wave.calm_rechoose _).trans
          (Wave.calm_mapThreads (x := x) fun _ t => Thread.calm_wakeIf t _)

@[simp] theorem State.calm_acquireL1 (s : State) (i : Nat) (m : BitVec 512) :
    (s.acquireL1 i m).calm v = s.calm v := rfl

@[simp] theorem State.calm_gbarCheck (s : State) (g : Nat) : (s.gbarCheck g).calm v = s.calm v := by
  unfold State.gbarCheck
  split
  · rfl
  · simp only
    split
    · rfl
    · rw [calm_foldl]
      · rw [calm_foldl]
        · simp
        · intro s i; rfl
      · intro s w
        exact State.calm_modWave fun x => (Wave.calm_rechoose _).trans
          (Wave.calm_mapThreads (x := x) fun _ t => Thread.calm_wakeIf t _)

@[simp] theorem calm_tokenSettle (n : Nat) (s : State) (l : Nat) : (tokenSettle n s l).calm v = s.calm v := by
  induction n generalizing s with
  | zero => rfl
  | succ n ih =>
    unfold tokenSettle
    split
    · rfl
    · simp only
      split
      · split
        · rw [ih]; rfl
        · split
          · rfl
          · rw [ih]; rfl
      · split
        · rw [ih]; rfl
        · split
          · rfl
          · split
            · rw [ih]; rfl
            · rfl

@[simp] theorem State.calm_tokenAgain (s : State) (w : Nat) : (s.tokenAgain w).calm v = s.calm v := by
  unfold State.tokenAgain
  split
  · rfl
  · split <;> simp

@[simp] theorem State.calm_waveEnded (s : State) (w : Nat) : (s.waveEnded w).calm v = s.calm v := by
  unfold State.waveEnded
  split
  · rfl
  · rename_i x hx
    split
    · rfl
    · have e (p : Prop) [Decidable p] (a b : State) : (if p then a else b).calm v =
          if p then a.calm v else b.calm v := by split <;> rfl
      simp only [e, State.calm_postOnce, State.calm_tokenAgain, State.calm_gbarCheck, State.calm_barCheck,
        State.calm_liftHalt, State.calm_modGang, State.calm_modWg, ite_self]
      exact State.calm_setWave hx rfl

/-! ### No convergence point -/

theorem Wave.clear_anyParked {x : Wave} (h : x.clear = true) : x.anyParked = false := by
  unfold Wave.anyParked
  rw [List.any_eq_false]
  intro t ht
  have := List.all_eq_true.1 h t ht
  revert this
  cases t.live <;> cases t.lane <;> simp

theorem Wave.clear_parked {x : Wave} (h : x.clear = true) :
    (x.threads.any fun t => t.st = .parked) = false := by
  rw [List.any_eq_false]
  intro t ht
  have := List.all_eq_true.1 h t ht
  revert this
  unfold Thread.live
  cases t.st <;> simp

/-- A choice of the next group that is no trap and leaves the exception registers. -/
def NextIssue.Calm (x : Wave) : NextIssue → Prop
  | .issue z => z.calm = x.calm
  | .converge _ => False
  | _ => True

theorem Wave.chooseNext_calm {x : Wave} (h : x.clear = true) : x.chooseNext.Calm x := by
  unfold Wave.chooseNext
  rw [Wave.clear_anyParked h, Wave.clear_parked h]
  split
  · exact Wave.calm_issueAt _ _
  · split
    · exact Wave.calm_releaseAt _ _
    · simp only [Bool.false_eq_true, if_false]
      split <;> trivial

theorem Wave.regroup_calm {x : Wave} (h : x.clear = true) : x.regroup.Calm x := by
  unfold Wave.regroup
  split
  · exact Wave.calm_issueAt _ _
  · exact Wave.chooseNext_calm h

theorem Wave.yieldNext_calm {x : Wave} (ys : List Nat) (h : x.clear = true) : (x.yieldNext ys).Calm x := by
  unfold Wave.yieldNext
  simp only [Wave.clear_anyParked h]
  split
  · exact Wave.calm_issueAt _ _
  · split
    · exact Wave.calm_releaseAt _ _
    · exact Wave.regroup_calm h

theorem State.calm_settleAs {s : State} {w : Nat} {n : NextIssue} {x y : Wave} (hx : s.wave? w = some y)
    (hd : x.calm = y.calm) (hn : n.Calm x) : (s.settleAs w n x).calm v = s.calm v := by
  unfold State.settleAs
  cases n with
  | issue z => exact State.calm_setWave hx (Eq.trans hn hd)
  | converge z => exact hn.elim
  | idle => exact State.calm_setWave hx hd
  | ended => rw [State.calm_waveEnded]; exact State.calm_setWave hx hd

@[simp] theorem State.calm_sample (s : State) (i a n : Nat) : (s.sample i a n).calm v = s.calm v := by
  simp [State.calm]

@[simp] theorem State.calm_countIssue (s : State) (i : Nat) (x : Wave) (g a : List Nat) (pc : DWord) :
    (s.countIssue i x g a pc).calm v = s.calm v := by
  simp [State.calm]

/-- Changing threads so that none becomes parked keeps a wave clear. -/
theorem Wave.clear_mapThreads {x : Wave} {f : Nat → Thread → Thread} (h : x.clear = true)
    (hf : ∀ i t, t.live = false ∨ (t.lane = none ∧ t.st ≠ .parked) →
      (f i t).live = false ∨ ((f i t).lane = none ∧ (f i t).st ≠ .parked)) : (x.mapThreads f).clear = true := by
  have conv : ∀ t : Thread, (!t.live || (t.lane.isNone && t.st ≠ .parked)) = true ↔
      (t.live = false ∨ (t.lane = none ∧ t.st ≠ .parked)) := by
    intro t; cases t.live <;> simp
  unfold Wave.clear Wave.mapThreads at *
  rw [List.all_eq_true] at *
  intro t ht
  obtain ⟨i, hi, rfl⟩ := List.mem_mapIdx.1 ht
  exact (conv _).2 (hf _ _ ((conv _).1 (h _ (List.getElem_mem hi))))

theorem Thread.moveOn_unparked {b t : Thread} {pc : DWord} {m : Bool} (h : t.lane = none ∧ t.st ≠ .parked) :
    (b.moveOn t pc m).lane = none ∧ (b.moveOn t pc m).st ≠ .parked := by
  unfold Thread.moveOn Thread.goTo Thread.commitAt
  obtain ⟨h1, h2⟩ := h
  by_cases g : 0 < b.guard.left <;> simp only [g, if_true, if_false] <;> split <;> split <;> simp [h1] <;>
    (try split) <;> simp_all

theorem Thread.moveOn_live {b t : Thread} {pc : DWord} {m : Bool} (h : t.live = false) :
    (b.moveOn t pc m).live = false := by
  have e : t.st = .exited := by revert h; unfold Thread.live; cases t.st <;> simp
  unfold Thread.moveOn Thread.goTo Thread.commitAt Thread.issuing Thread.live
  by_cases g : 0 < b.guard.left <;> simp only [g, if_true, if_false] <;> split <;> split <;> simp_all

/-- A group that moves on leaves its wave clear. -/
theorem Wave.clear_moveOn {x y : Wave} {group : List Nat} {target : Nat → DWord} {commit : Bool} (hc : x.clear = true) :
    (x.mapLanes group fun l t => (y.thread l).moveOn t (target l) commit).counted.clear = true := by
  refine Wave.clear_mapThreads (x := x) hc fun i t ht => ?_
  split
  · rcases ht with ht | ht
    · exact .inl (Thread.moveOn_live ht)
    · exact .inr (Thread.moveOn_unparked ht)
  · exact ht

theorem Thread.calm_moveOn (b t : Thread) (pc : DWord) (m : Bool) :
    (b.moveOn t pc m).meet = t.meet ∧ (b.moveOn t pc m).lane = t.lane := by
  unfold Thread.moveOn
  by_cases g : 0 < b.guard.left <;> simp only [g, if_true, if_false] <;> split <;> split <;> exact ⟨rfl, rfl⟩

/-- What follows an issue takes no trap where no lane is parked and no `STEP` is armed. -/
theorem State.calm_finish {s : State} {q : Who} {group act : List Nat} {commit : Bool} {target : Nat → DWord}
    {next : List Nat → Wave → NextIssue} {x : Wave} (hx : s.wave? q.w = some x) (hc : x.clear = true)
    (hs : stepsNow s q (q.x.issuePc.getD 0) = false)
    (hk : ∀ x, x.clear = true → (next group x).Calm x) (hn : ∀ x, (next group x).Keeps x) :
    (s.finish q group act commit target next).calm v = s.calm v := by
  unfold State.finish
  rw [hx]
  simp only
  generalize hs1 : (if q.x.stall = 0 then s else s.sample q.wg.core 7 q.x.stall) = s1
  have o1 : s1.calm v = s.calm v := by rw [← hs1]; split <;> simp
  have w1 : s1.wave? q.w = some x := by rw [← hs1]; split <;> simp [hx]
  have b1 : ∀ h, s1.obs 0 0 0 h = s.obs 0 0 0 h := by intro h; rw [← hs1]; split <;> simp
  generalize hx2 : (x.mapLanes group fun l t => (q.x.thread l).moveOn t (target l) commit).counted = x2
  have p2 : x2.calm = x.calm := by
    rw [← hx2]
    exact Wave.calm_mapThreads (x := x) fun i t => by
      split
      · exact Thread.calm_moveOn _ _ _ _
      · exact ⟨rfl, rfl⟩
  have d2 : x2.datas = x.datas := by
    rw [← hx2]; exact Wave.datas_mapLanes (x := x) fun i t => Thread.data_moveOn _ _ _ _
  have e2 : x2.special = x.special := by rw [← hx2]; rfl
  have k2 : x2.clear = true := by rw [← hx2]; exact Wave.clear_moveOn hc
  have calm := hk x2 k2
  have calm' := hn x2
  generalize hs2 : (s1.countIssue q.wg.core q.x group act (q.x.issuePc.getD 0)).settleAs q.w (next group x2) x2 = s2
  have o2 : s2.calm v = s.calm v := by
    rw [← hs2, State.calm_settleAs (y := x) (by simp [w1]) p2 calm]
    simp [o1]
  have b2 : ∀ h, s2.obs 0 0 0 h = s.obs 0 0 0 h := by
    intro h
    rw [← hs2, State.obs_settleAs (y := x) (by simp [w1]) d2 e2]
    · simp [b1]
    · revert calm'
      cases next group x2 <;> exact id
  generalize hs3 : (if 65536 ≤ x2.handlerCount && x2.handler.isSome then s2.postOnce (.handlerWatchdog q.w) else s2) = s3
  have o3 : s3.calm v = s.calm v := by rw [← hs3]; split <;> simp [o2]
  have b3 : ∀ h, s3.obs 0 0 0 h = s.obs 0 0 0 h := by intro h; rw [← hs3]; split <;> simp [b2]
  have n3 : stepsNow s3 q (q.x.issuePc.getD 0) = false := by
    rw [← hs]
    have : (s3.chip q.chip).dbg = (s.chip q.chip).dbg := congrArg (fun o : Obs => o.chip.dbg) (b3 q.chip)
    unfold stepsNow
    simp only [this]
  split
  · exact o3
  · rw [n3, Bool.false_and, Bool.false_and, if_neg Bool.false_ne_true]; exact o3

end Sys2Proof.Machine
end

