-- ==== Sys2Proof/Laws/Agenda.lean ====
section
/-! SUPPORT. What follows an issue without a trap drops no event that is due. -/

-- One theorem at a time: many at once ask for more threads than the checker has memory for.
set_option Elab.async false

namespace Sys2Proof.Machine

theorem agenda_foldl {α : Type} {g : State → α → State} (hg : ∀ s a, (g s a).agenda = s.agenda) (l : List α)
    (s : State) : (l.foldl g s).agenda = s.agenda := by
  induction l generalizing s with
  | nil => rfl
  | cons a r ih => rw [List.foldl_cons, ih, hg]

theorem State.mem_postOnce {s : State} {e f : Event} (h : f ∈ s.agenda) : f ∈ (s.postOnce e).agenda := by
  unfold State.postOnce
  split
  · exact h
  · exact List.mem_append_left _ h

theorem State.mem_post {s : State} {e f : Event} (h : f ∈ s.agenda) : f ∈ (s.post e).agenda :=
  List.mem_append_left _ h

theorem State.mem_post_self (s : State) (e : Event) : e ∈ (s.post e).agenda :=
  List.mem_append_right _ (List.mem_singleton.2 rfl)

@[simp] theorem State.agenda_liftHalt (s : State) (g : Nat) : (s.liftHalt g).agenda = s.agenda := by
  unfold State.liftHalt
  split
  · rfl
  · simp only; rw [agenda_foldl]
    · rfl
    · intro s o; rfl

@[simp] theorem State.agenda_barCheck (s : State) (g : Nat) : (s.barCheck g).agenda = s.agenda := by
  unfold State.barCheck
  split
  · rfl
  · simp only
    split
    · rfl
    · rw [agenda_foldl]
      · rfl
      · intro s o; rfl

@[simp] theorem State.agenda_gbarCheck (s : State) (g : Nat) : (s.gbarCheck g).agenda = s.agenda := by
  unfold State.gbarCheck
  split
  · rfl
  · simp only
    split
    · rfl
    · rw [agenda_foldl]
      · rw [agenda_foldl]
        · rfl
        · intro s o; rfl
      · intro s o; rfl

@[simp] theorem agenda_tokenSettle (n : Nat) (s : State) (l : Nat) : (tokenSettle n s l).agenda = s.agenda := by
  induction n generalizing s with
  | zero => rfl
  | succ n ih =>
    unfold tokenSettle
    split
    · rfl
    · simp only
      split
      · split
        · rw [ih]
        · split
          · rfl
          · rw [ih]
      · split
        · rw [ih]
        · split
          · rfl
          · split
            · rw [ih]
            · rfl

@[simp] theorem State.agenda_tokenAgain (s : State) (w : Nat) : (s.tokenAgain w).agenda = s.agenda := by
  unfold State.tokenAgain
  split
  · rfl
  · split <;> simp

theorem agenda_ite {p : Prop} [Decidable p] {a b : State} (h : a.agenda = b.agenda) :
    (if p then a else b).agenda = b.agenda := by split <;> simp [h]

theorem mem_agenda_ite {p : Prop} [Decidable p] {a b : State} {e : Event} (ha : e ∈ a.agenda) (hb : e ∈ b.agenda) :
    e ∈ (if p then a else b).agenda := by split <;> assumption

theorem State.mem_waveEnded {s : State} {e : Event} (w : Nat) (h : e ∈ s.agenda) : e ∈ (s.waveEnded w).agenda := by
  unfold State.waveEnded
  split
  · exact h
  · rename_i x _
    split
    · exact h
    · simp only
      refine mem_agenda_ite (State.mem_postOnce ?_) ?_ <;>
        (rw [State.agenda_tokenAgain, State.agenda_gbarCheck, State.agenda_barCheck, agenda_ite (State.agenda_liftHalt _ _),
          agenda_ite (State.modGang_agenda _ _ _), agenda_ite (State.modWg_agenda _ _ _)]; exact h)

@[simp] theorem State.agenda_sample (s : State) (i a n : Nat) : (s.sample i a n).agenda = s.agenda := by
  unfold State.sample; simp only; split <;> rfl

@[simp] theorem State.agenda_countIssue (s : State) (i : Nat) (x : Wave) (g a : List Nat) (pc : DWord) :
    (s.countIssue i x g a pc).agenda = s.agenda := rfl

/-- What follows an issue drops no event, where no lane is parked and no `STEP` is armed. -/
theorem State.mem_finish {s : State} {q : Who} {group act : List Nat} {commit : Bool} {target : Nat → DWord}
    {next : List Nat → Wave → NextIssue} {x : Wave} {e : Event} (he : e ∈ s.agenda) (hx : s.wave? q.w = some x)
    (hc : x.clear = true) (hs : stepsNow s q (q.x.issuePc.getD 0) = false)
    (hk : ∀ x, x.clear = true → (next group x).Calm x) (hn : ∀ x, (next group x).Keeps x) :
    e ∈ (s.finish q group act commit target next).agenda := by
  unfold State.finish
  rw [hx]
  simp only
  generalize hs1 : (if q.x.stall = 0 then s else s.sample q.wg.core 7 q.x.stall) = s1
  have e1 : e ∈ s1.agenda := by rw [← hs1]; exact mem_agenda_ite he (by rw [State.agenda_sample]; exact he)
  have w1 : s1.wave? q.w = some x := by rw [← hs1]; split <;> simp [hx]
  have b1 : ∀ h, s1.obs 0 0 0 h = s.obs 0 0 0 h := by intro h; rw [← hs1]; split <;> simp
  generalize hx2 : (x.mapLanes group fun l t => (q.x.thread l).moveOn t (target l) commit).counted = x2
  have k2 : x2.clear = true := by rw [← hx2]; exact Wave.clear_moveOn hc
  have d2 : x2.datas = x.datas := by
    rw [← hx2]; exact Wave.datas_mapLanes (x := x) fun i t => Thread.data_moveOn _ _ _ _
  have p2 : x2.special = x.special := by rw [← hx2]; rfl
  have calm := hk x2 k2
  have keeps := hn x2
  generalize hs2 : (s1.countIssue q.wg.core q.x group act (q.x.issuePc.getD 0)).settleAs q.w (next group x2) x2 = s2
  have e2 : e ∈ s2.agenda := by
    rw [← hs2]
    unfold State.settleAs
    revert calm
    cases next group x2 with
    | issue z => intro _; exact e1
    | converge z => exact False.elim
    | idle => intro _; exact e1
    | ended => intro _; exact State.mem_waveEnded _ e1
  have b2 : ∀ h, s2.obs 0 0 0 h = s.obs 0 0 0 h := by
    intro h
    rw [← hs2, State.obs_settleAs (y := x) (by simp [w1]) d2 p2]
    · simp [b1]
    · revert keeps
      cases next group x2 <;> exact id
  generalize hs3 : (if 65536 ≤ x2.handlerCount && x2.handler.isSome then s2.postOnce (.handlerWatchdog q.w) else s2) = s3
  have e3 : e ∈ s3.agenda := by rw [← hs3]; exact mem_agenda_ite (State.mem_postOnce e2) e2
  have b3 : ∀ h, s3.obs 0 0 0 h = s.obs 0 0 0 h := by intro h; rw [← hs3]; split <;> simp [b2]
  have n3 : stepsNow s3 q (q.x.issuePc.getD 0) = false := by
    rw [← hs]
    have : (s3.chip q.chip).dbg = (s.chip q.chip).dbg := congrArg (fun o : Obs => o.chip.dbg) (b3 q.chip)
    unfold stepsNow
    simp only [this]
  split
  · exact e3
  · rw [n3, Bool.false_and, Bool.false_and, if_neg Bool.false_ne_true]; exact e3

end Sys2Proof.Machine
end

