-- ==== Sys2Proof/Laws/Issue.lean ====
section
/-! SUPPORT. Issuing an instruction that is ready: what it comes to, and what an instruction that computes a result in each
active lane leaves (`issueLanes_landed`). -/

-- One theorem at a time: many at once ask for more threads than the checker has memory for.
set_option Elab.async false

namespace Sys2Proof.Machine

/-! ### Threads of a wave -/

theorem Wave.thread_mapThreads (x : Wave) (f : Nat → Thread → Thread) (l : Nat) :
    (x.mapThreads f).thread l = if l < x.threads.length then f l (x.thread l) else x.thread l := by
  unfold Wave.thread Wave.mapThreads
  simp only [List.getD_eq_getElem?_getD, List.getElem?_mapIdx]
  by_cases h : l < x.threads.length
  · simp [h]
  · simp [h]

theorem Wave.thread_mapLanes (x : Wave) (ls : List Nat) (f : Nat → Thread → Thread) (l : Nat) :
    (x.mapLanes ls f).thread l = if l ∈ ls ∧ l < x.threads.length then f l (x.thread l) else x.thread l := by
  unfold Wave.mapLanes
  rw [Wave.thread_mapThreads]
  by_cases h : l < x.threads.length <;> by_cases g : l ∈ ls <;> simp [h, g]

/-- A lane whose thread issues is one of the wave's threads. -/
theorem Wave.issuing_lt {x : Wave} {l : Nat} (h : (x.thread l).issuing = true) : l < x.threads.length := by
  rcases Nat.lt_or_ge l x.threads.length with a | a
  · exact a
  · unfold Wave.thread at h
    rw [List.getD_eq_getElem?_getD, List.getElem?_eq_none a] at h
    exact absurd h (by decide)

theorem Wave.mem_group {x : Wave} {l : Nat} : l ∈ x.group ↔ l < 32 ∧ (x.thread l).issuing = true := by
  simp [Wave.group, Wave.lanesWhere, allLanes]

theorem Wave.mem_active {x : Wave} {l : Nat} :
    l ∈ x.active ↔ l < 32 ∧ (x.thread l).issuing = true ∧ (x.thread l).guard.sel = true := by
  simp [Wave.active, Wave.lanesWhere, allLanes]

theorem Wave.active_group {x : Wave} {l : Nat} (h : l ∈ x.active) : l ∈ x.group :=
  Wave.mem_group.2 ⟨(Wave.mem_active.1 h).1, (Wave.mem_active.1 h).2.1⟩

theorem Wave.active_lt {x : Wave} {l : Nat} (h : l ∈ x.active) : l < x.threads.length :=
  Wave.issuing_lt (Wave.mem_active.1 h).2.1

/-- A thread as its registers show it. -/
def Thread.ofData (d : ThreadData) : Thread :=
  { Thread.reset with v := d.v, k := d.k, h := d.h, p := d.p, fpctl := d.fpctl, fpflags := d.fpflags, full := d.full }

theorem Wave.thread_datas (x : Wave) (l : Nat) : (x.thread l).data = x.datas.getD l Thread.reset.data := by
  unfold Wave.thread Wave.datas
  simp only [List.getD_eq_getElem?_getD, List.getElem?_map]
  cases x.threads[l]? <;> rfl

/-! ### From the observer to the claims' terms -/

theorem State.lane_data {s t : State} {v : Nat} (h : (t.wave? v).map Wave.datas = (s.wave? v).map Wave.datas)
    (l : Nat) : (t.lane v l).data = (s.lane v l).data := by
  unfold State.lane
  cases ht : t.wave? v <;> cases hs : s.wave? v <;> simp_all [Wave.thread_datas]

theorem Thread.reg_data {t u : Thread} (h : u.data = t.data) (f : RegFile) (n : Nat) : u.reg f n = t.reg f n := by
  cases f
  · exact congrArg (fun d => Table.at (ThreadData.v d) n 0) h
  · exact congrArg (fun d => Table.at (ThreadData.k d) n 0) h
  · exact congrArg (fun d => Table.at (ThreadData.h d) n 0) h

theorem Thread.SameRegs.of_data {t u : Thread} (h : u.data = t.data) : t.SameRegs u :=
  ⟨Thread.reg_data h, congrArg ThreadData.p h, congrArg ThreadData.full h, congrArg ThreadData.fpctl h,
    congrArg ThreadData.fpflags h⟩

theorem State.sameStore_of_obs {s t : State} (h : ∀ v c k h, t.obs v c k h = s.obs v c k h) : s.SameStore t := by
  have m : t.mem = s.mem := congrArg Obs.mem (h 0 0 0 0)
  have r : ∀ c, (t.repl c).replica = (s.repl c).replica := fun c => congrArg (fun o : Obs => o.chip.repl.replica) (h 0 0 0 c)
  have p : ∀ c, (t.core c).scratch = (s.core c).scratch := fun c => congrArg (fun o : Obs => o.core.scratch) (h 0 c 0 0)
  exact
    { mem := fun a => by unfold State.byte; rw [m]
      repl := fun c a => by unfold State.replByte; rw [r]
      scratch := fun c a => by unfold State.padByte; rw [p]
      lines := fun c => congrArg (fun o : Obs => o.core.lines) (h 0 c 0 0)
      oslots := fun c => congrArg (fun o : Obs => o.cluster.oslots) (h 0 0 c 0)
      aslots := fun c => congrArg (fun o : Obs => o.cluster.aslots) (h 0 0 c 0) }

theorem State.sameChips_of_obs {s t : State} (h : ∀ v c k h, t.obs v c k h = s.obs v c k h) : s.SameChips t where
  sys c := congrArg (fun o : Obs => o.chip.sys) (h 0 0 0 c)
  dbg c := congrArg (fun o : Obs => o.chip.dbg) (h 0 0 0 c)
  ring c := congrArg (fun o : Obs => o.chip.ring) (h 0 0 0 c)
  keys c := congrArg (fun o : Obs => o.chip.keys) (h 0 0 0 c)

theorem State.SameStore.trans {s t u : State} (a : s.SameStore t) (b : t.SameStore u) : s.SameStore u where
  mem x := (b.mem x).trans (a.mem x)
  repl c x := (b.repl c x).trans (a.repl c x)
  scratch c x := (b.scratch c x).trans (a.scratch c x)
  lines c := (b.lines c).trans (a.lines c)
  oslots c := (b.oslots c).trans (a.oslots c)
  aslots c := (b.aslots c).trans (a.aslots c)

theorem State.SameChips.trans {s t u : State} (a : s.SameChips t) (b : t.SameChips u) : s.SameChips u where
  sys c := (b.sys c).trans (a.sys c)
  dbg c := (b.dbg c).trans (a.dbg c)
  ring c := (b.ring c).trans (a.ring c)
  keys c := (b.keys c).trans (a.keys c)

/-! ### A ready instruction -/

/-- What an effect comes to for a wave (02 R28, 03 R72). -/
def Eff.run (k : Who) (i : Instr) (commit : Bool) : Eff → State
  | .done s => s.finish k k.x.group k.x.active commit (fun _ => k.after i) fun _ x => x.regroup
  | .branch s t => s.finish k k.x.group k.x.active commit t fun _ x => x.regroup
  | .choose s n => s.finish k k.x.group k.x.active commit (fun _ => k.after i) n
  | .wait s => s.waits
  | .gone s => s

/-- A ready instruction performs its effect. -/
theorem issue_ready {i : Instr} {s : State} {k : Who} (h : Ready i s k) (eff : Who → List Nat → State → Eff) :
    issue i s eff =
      (eff k k.x.active (if k.commits i then s.commitLanes k.w k.x.group else s)).run k i (k.commits i && !i.form.stays) := by
  unfold issue
  rw [h.who]
  simp only [h.fresh, h.decoded, Bool.false_eq_true, if_false, h.sources, h.destination, Bool.or_false, Bool.and_false]
  have meets : (i.form.collective && k.x.active ≠ [] && k.x.anyParked) = false := by
    cases hc : i.form.collective
    · rfl
    · simp [h.meets hc]
  have acq : (!false && i.form.memory && k.x.loads.any fun e => e.2.acq.isSome) = false := by
    cases hm : i.form.memory
    · rfl
    · simp [h.acquired hm]
  simp only [meets, acq, Bool.false_eq_true, if_false, h.active]
  unfold Who.commits
  generalize eff k k.x.active _ = e
  cases e <;> rfl

/-- The same of an instruction that does not commit. -/
theorem issue_ready_plain {i : Instr} {s : State} {k : Who} (h : Ready i s k) (hc : i.form.commits = false)
    (eff : Who → List Nat → State → Eff) : issue i s eff = (eff k k.x.active s).run k i false := by
  rw [issue_ready h]
  simp [Who.commits, hc]

/-! ### Results in lanes -/

theorem Table.at_putWords (t : Table Word) (i n x m : Nat) :
    Table.at (putWords t i n x) m 0#32 =
      if i ≤ m ∧ m < i + n then BitVec.ofNat 32 (x / 2 ^ (32 * (m - i))) else Table.at t m 0#32 := by
  induction n generalizing t i x with
  | zero => rw [if_neg (by omega)]; rfl
  | succ n ih =>
    simp only [putWords, ih, Table.at_put]
    by_cases e : m = i
    · subst e
      rw [if_neg (by omega), if_pos rfl, if_pos (by omega)]
      simp
    · by_cases g : i ≤ m ∧ m < i + (n + 1)
      · rw [if_pos (by omega), if_pos g]
        have : m - i = (m - (i + 1)) + 1 := by omega
        rw [this, Nat.div_div_eq_div_mul, ← Nat.pow_add]
        congr 3
        omega
      · rw [if_neg (by omega), if_neg e, if_neg g]

theorem wordOf_eq (x : Quad) (n : Nat) : wordOf x n = BitVec.ofNat 32 (x.toNat / 2 ^ (32 * n)) := by
  unfold wordOf
  apply BitVec.eq_of_toNat_eq
  simp [BitVec.extractLsb'_toNat, Nat.shiftRight_eq_div_pow]

/-- The words of a destination written (04 R75). -/
theorem Thread.reg_writeReg (t : Thread) (d : Opd) (w : Width) (x : Quad) (f : RegFile) (n : Nat) :
    (t.writeReg d w x).reg f n =
      if Opd.names d w f n = true then wordOf x (n - Opd.first d) else t.reg f n := by
  cases d <;> cases f <;>
    simp [Thread.writeReg, Thread.reg, Opd.names, Opd.first, Table.at_putWords, wordOf_eq]

theorem Thread.p_writeReg (t : Thread) (d : Opd) (w : Width) (x : Quad) {j : Nat} (hj : j < 8) :
    (t.writeReg d w x).p.getLsbD j =
      match d with
      | .pred i _ => if j = i.toNat then x.getLsbD 0 else t.p.getLsbD j
      | _ => t.p.getLsbD j := by
  cases d with
  | pred i inv =>
    simp only [Thread.writeReg]
    have hi := i.isLt
    by_cases e : j = i.toNat
    · subst e
      cases hx : x.getLsbD 0 <;> simp [hj]
    · have e' : i.toNat ≠ j := fun h => e h.symm
      by_cases g : j < i.toNat
      · cases hx : x.getLsbD 0 <;> simp [hj, e, g]
      · have : j - i.toNat ≠ 0 := by omega
        cases hx : x.getLsbD 0 <;> simp [hj, e, g, this]
  | _ => rfl

@[simp] theorem Thread.fpctl_writeReg (t : Thread) (d : Opd) (w : Width) (x : Quad) :
    (t.writeReg d w x).fpctl = t.fpctl := by cases d <;> rfl
@[simp] theorem Thread.fpflags_writeReg (t : Thread) (d : Opd) (w : Width) (x : Quad) :
    (t.writeReg d w x).fpflags = t.fpflags := by cases d <;> rfl
@[simp] theorem Thread.full_writeReg (t : Thread) (d : Opd) (w : Width) (x : Quad) :
    (t.writeReg d w x).full = t.full := by cases d <;> rfl
@[simp] theorem Thread.lane_writeReg (t : Thread) (d : Opd) (w : Width) (x : Quad) :
    (t.writeReg d w x).lane = t.lane := by cases d <;> rfl
@[simp] theorem Thread.st_writeReg (t : Thread) (d : Opd) (w : Width) (x : Quad) :
    (t.writeReg d w x).st = t.st := by cases d <;> rfl

/-- The state of one wave after its active lanes were changed and what follows an issue. -/
theorem State.lane_setLanes_obs {s t : State} {k : Who} (hx : s.wave? k.w = some k.x) {act : List Nat}
    {f : Nat → Thread → Thread} (ht : ∀ v c g h, t.obs v c g h = (s.setLanes k.w act f).obs v c g h) (v l : Nat) :
    (t.lane v l).data =
      if v = k.w ∧ l ∈ act ∧ l < k.x.threads.length then (f l (s.lane v l)).data else (s.lane v l).data := by
  rw [State.lane_data (congrArg Obs.threads (ht v 0 0 0))]
  unfold State.lane State.setLanes
  rw [State.wave?_modWave]
  by_cases e : v = k.w
  · subst e
    simp only [if_true, hx, Option.map_some, true_and, Wave.thread_mapLanes]
    by_cases g : l ∈ act ∧ l < k.x.threads.length <;> simp [g]
  · simp [e]

theorem State.obs_setLanes_rest (s : State) (w : Nat) (act : List Nat) (f : Nat → Thread → Thread) (v c k h : Nat) :
    (s.setLanes w act f).mem = s.mem ∧ (s.setLanes w act f).core c = s.core c ∧
    (s.setLanes w act f).cluster k = s.cluster k ∧ (s.setLanes w act f).chip h = s.chip h ∧
    ((s.setLanes w act f).wave? v).map Wave.special = (s.wave? v).map Wave.special := by
  refine ⟨rfl, rfl, rfl, rfl, ?_⟩
  unfold State.setLanes
  rw [State.wave?_modWave]
  split
  · subst_vars; rw [Option.map_map]; rfl
  · rfl

theorem State.sameStore_setLanes (s : State) (w : Nat) (act : List Nat) (f : Nat → Thread → Thread) :
    s.SameStore (s.setLanes w act f) :=
  ⟨fun _ => rfl, fun _ _ => rfl, fun _ _ => rfl, fun _ => rfl, fun _ => rfl, fun _ => rfl⟩

theorem State.sameChips_setLanes (s : State) (w : Nat) (act : List Nat) (f : Nat → Thread → Thread) :
    s.SameChips (s.setLanes w act f) := ⟨fun _ => rfl, fun _ => rfl, fun _ => rfl, fun _ => rfl⟩

/-- A lane's outcome, register by register. -/
theorem Thread.reg_land (t : Thread) (o : LaneOut) (d : Opd) (w : Width) (len : Nat) (f : RegFile) (n : Nat) :
    (t.land o d w len).reg f n =
      match o with
      | .write x _ => if Opd.names d w f n = true then wordOf x (n - Opd.first d) else t.reg f n
      | .park _ _ _ => t.reg f n := by
  cases o with
  | write x g =>
    show ((t.setFlags g).writeReg d w x).reg f n = _
    rw [Thread.reg_writeReg]
    cases f <;> rfl
  | park c a g => cases f <;> rfl

theorem Thread.p_land (t : Thread) (o : LaneOut) (d : Opd) (w : Width) (len : Nat) {j : Nat} (hj : j < 8) :
    (t.land o d w len).p.getLsbD j =
      match d, o with
      | .pred i _, .write x _ => if j = i.toNat then x.getLsbD 0 else t.p.getLsbD j
      | _, _ => t.p.getLsbD j := by
  cases o with
  | write x g =>
    show ((t.setFlags g).writeReg d w x).p.getLsbD j = _
    rw [Thread.p_writeReg _ _ _ _ hj]
    cases d <;> rfl
  | park c a g => cases d <;> rfl

theorem Thread.flags_land (t : Thread) (o : LaneOut) (d : Opd) (w : Width) (len : Nat) :
    (t.land o d w len).fpflags = t.fpflags ||| o.flags := by
  cases o with
  | write x g => show ((t.setFlags g).writeReg d w x).fpflags = _; simp [Thread.setFlags, LaneOut.flags]
  | park c a g => rfl

theorem Thread.fpctl_land (t : Thread) (o : LaneOut) (d : Opd) (w : Width) (len : Nat) :
    (t.land o d w len).fpctl = t.fpctl := by
  cases o with
  | write x g => show ((t.setFlags g).writeReg d w x).fpctl = _; simp [Thread.setFlags]
  | park c a g => rfl

theorem Thread.full_land (t : Thread) (o : LaneOut) (d : Opd) (w : Width) (len : Nat) :
    (t.land o d w len).full = t.full := by
  cases o with
  | write x g => show ((t.setFlags g).writeReg d w x).full = _; simp [Thread.setFlags]
  | park c a g => rfl

/-- The group's wave stays clear when its lanes write and none parks. -/
theorem Wave.clear_setLanes {x : Wave} (h : x.clear = true) (act : List Nat) {f : Nat → Thread → Thread}
    (hf : ∀ l ∈ act, ∀ t, (f l t).lane = t.lane ∧ (f l t).st = t.st) : (x.mapLanes act f).clear = true := by
  refine Wave.clear_mapThreads h fun i t ht => ?_
  split
  · rename_i hi
    have := hf i (by simpa using hi) t
    unfold Thread.live at *
    rw [this.1, this.2]; exact ht
  · exact ht

/-- Everything that changing the active lanes of a ready wave and moving on can do, thread by thread. -/
theorem setLanes_finish {s : State} {k : Who} (hw : s.who = some k) (f : Nat → Thread → Thread)
    (commit : Bool) (target : Nat → DWord) (next : List Nat → Wave → NextIssue)
    (hn : ∀ x, (next k.x.group x).Keeps x) (hk : ∀ x, x.clear = true → (next k.x.group x).Calm x) :
    let t := (s.setLanes k.w k.x.active f).finish k k.x.group k.x.active commit target next
    (∀ v l, (t.lane v l).data =
      if v = k.w ∧ l ∈ k.x.active then (f l (s.lane v l)).data else (s.lane v l).data) ∧
    s.SameStore t ∧ s.SameSpecial t ∧ s.SameChips t ∧
    (Quiet s k → (∀ l ∈ k.x.active, ∀ t, (f l t).lane = t.lane ∧ (f l t).st = t.st) → s.SameTraps t) := by
  intro t
  obtain ⟨hi, hx, -⟩ := State.who_iff.1 hw
  have o : ∀ v c g h, t.obs v c g h = (s.setLanes k.w k.x.active f).obs v c g h := fun v c g h =>
    State.obs_finish hn
  refine ⟨?_, ?_, ?_, ?_, ?_⟩
  · intro v l
    rw [State.lane_setLanes_obs hx o]
    by_cases g : v = k.w ∧ l ∈ k.x.active
    · rw [if_pos ⟨g.1, g.2, Wave.active_lt g.2⟩, if_pos g]
    · rw [if_neg (fun h => g ⟨h.1, h.2.1⟩), if_neg g]
  · exact (State.sameStore_setLanes s _ _ f).trans (State.sameStore_of_obs o)
  · intro v
    have := congrArg Obs.special (o v 0 0 0)
    exact this.trans (State.obs_setLanes_rest s k.w k.x.active f v 0 0 0).2.2.2.2
  · exact (State.sameChips_setLanes s _ _ f).trans (State.sameChips_of_obs o)
  · intro q hf v
    have e : t.calm v = (s.setLanes k.w k.x.active f).calm v :=
      State.calm_finish (x := k.x.mapLanes k.x.active f) (by unfold State.setLanes; simp [hx])
        (Wave.clear_setLanes q.1 _ hf) q.2 hk hn
    have e2 : (t.wave? v).map Wave.trapRegs = ((s.setLanes k.w k.x.active f).wave? v).map Wave.trapRegs := by
      exact State.trapRegs_of_calm e
    refine e2.trans ?_
    unfold State.setLanes
    rw [State.wave?_modWave]
    split
    · subst_vars; rw [Option.map_map]; rfl
    · rfl

/-- A result landed, from what the threads, the bytes and the special registers have become. -/
theorem Landed.of_data {s t : State} {k : Who} {d : Opd} {w : Width} {out : Nat → LaneOut} {len : Nat}
    (m1 : ∀ v l, (t.lane v l).data =
      if v = k.w ∧ l ∈ k.x.active then ((s.lane v l).land (out l) d w len).data else (s.lane v l).data)
    (m2 : s.SameStore t) (m3 : s.SameSpecial t) (m4 : s.SameChips t)
    (m5 : Quiet s k → (∀ l ∈ k.x.active, ∀ t : Thread, (t.land (out l) d w len).lane = t.lane ∧
      (t.land (out l) d w len).st = t.st) → s.SameTraps t) : Landed s t k d w out := by
  have at' : ∀ v l (P : Thread → Prop), (∀ t u : Thread, u.data = t.data → P t → P u) →
      (v = k.w ∧ l ∈ k.x.active → P ((s.lane v l).land (out l) d w len)) →
      (¬(v = k.w ∧ l ∈ k.x.active) → P (s.lane v l)) → P (t.lane v l) := by
    intro v l P hP h1 h2
    have e := m1 v l
    by_cases c : v = k.w ∧ l ∈ k.x.active
    · rw [if_pos c] at e; exact hP _ _ e (h1 c)
    · rw [if_neg c] at e; exact hP _ _ e (h2 c)
  refine ⟨?_, ?_, ?_, ?_, ?_, m2, m3, m4, ?_⟩
  · intro v l g n
    refine at' v l (fun t => t.reg g n = _) (fun t u e p => (Thread.reg_data e g n).trans p) (fun c => ?_) fun c => ?_
    · rw [Thread.reg_land]
      by_cases hd : Opd.names d w g n = true
      · rw [if_pos ⟨c.1, c.2, hd⟩]; cases out l <;> simp [hd]
      · rw [if_neg fun h => hd h.2.2]; cases out l <;> simp [hd]
    · rw [if_neg fun h => c ⟨h.1, h.2.1⟩]
  · intro v l j hj
    refine at' v l (fun t => t.p.getLsbD j = _)
      (fun t u e p => (congrArg (fun d : ThreadData => d.p.getLsbD j) e).trans p) (fun c => ?_) fun c => ?_
    · rw [Thread.p_land _ _ _ _ _ hj]
      cases d <;> cases out l <;> simp [c]
    · have c' : ∀ q : Prop, (v = k.w ∧ l ∈ k.x.active ∧ q) = False := fun q => eq_false fun h => c ⟨h.1, h.2.1⟩
      cases d <;> cases out l <;> simp [c']
  · intro v l
    refine at' v l (fun t => t.fpflags = _) (fun t u e p => (congrArg ThreadData.fpflags e).trans p) (fun c => ?_) fun c => ?_
    · rw [if_pos c, Thread.flags_land]
    · rw [if_neg c]
  · intro v l
    exact at' v l (fun t => t.fpctl = _) (fun t u e p => (congrArg ThreadData.fpctl e).trans p)
      (fun c => Thread.fpctl_land _ _ _ _ _) fun c => rfl
  · intro v l
    exact at' v l (fun t => t.full = _) (fun t u e p => (congrArg ThreadData.full e).trans p)
      (fun c => Thread.full_land _ _ _ _ _) fun c => rfl
  · intro q
    refine m5 q.1 fun l hl t => ?_
    obtain ⟨x, fl, e⟩ := q.2 l hl
    rw [e]
    show ((t.setFlags fl).writeReg d w x).lane = _ ∧ ((t.setFlags fl).writeReg d w x).st = _
    simp [Thread.setFlags]

/-- An instruction that computes its result in each active lane and writes it at issue (06 Table 6.2): the outcome of each
lane lands, and nothing else changes. -/
theorem issueLanes_landed {i : Instr} {s : State} {k : Who} (h : Ready i s k) (hc : i.form.commits = false) (d : Opd)
    (w : Width) (f : State → Who → Nat → LaneOut) : Landed s (issueLanes i s d w f) k d w (f s k) := by
  unfold issueLanes
  rw [issue_ready_plain h hc]
  obtain ⟨m1, m2, m3, m4, m5⟩ := setLanes_finish h.who (fun l t => t.land (f s k l) d w i.form.length) false
    (fun _ => k.after i) (fun _ x => x.regroup) (fun x => Wave.regroup_keeps x) fun x hx => Wave.regroup_calm hx
  exact Landed.of_data m1 m2 m3 m4 m5

/-- The same in the claims' terms, with the outcomes rewritten. -/
theorem computes_of {i : Instr} {s : State} {k : Who} {d : Opd} {w : Width} {out : Nat → LaneOut}
    {f : State → Who → Nat → LaneOut} (h : Ready i s k) (hc : i.form.commits = false)
    (he : exec i s = .next (issueLanes i s d w f)) (ho : ∀ l, f s k l = out l) : Computes i s k d w out := by
  have e := issueLanes_landed h hc d w f
  rw [show f s k = out from funext ho] at e
  exact ⟨_, he, e⟩

end Sys2Proof.Machine
end

