-- ==== Sys2Proof/Laws/Memory.lean ====
section
/-! SUPPORT. Memory: every operation keeps the canonical form; a byte written is read back, every other byte reads as
before. -/

-- One theorem at a time: many at once ask for more threads than the checker has memory for.
set_option Elab.async false

namespace Sys2Proof.Machine

theorem Memory.wfFrom_cons {n k : Nat} {v : Byte} {r : Memory} :
    Memory.wfFrom n ((k, v) :: r) = true ↔ (n ≤ k ∧ v ≠ 0) ∧ Memory.wfFrom (k + 1) r = true := by
  simp only [Memory.wfFrom, Bool.and_eq_true, decide_eq_true_eq]

theorem Memory.wfFrom_mono {m : Memory} {a b : Nat} (h : Memory.wfFrom b m = true) (l : a ≤ b) :
    Memory.wfFrom a m = true := by
  cases m with
  | nil => rfl
  | cons e r =>
    simp only [Memory.wfFrom, Bool.and_eq_true, decide_eq_true_eq] at h ⊢
    exact ⟨⟨by omega, h.1.2⟩, h.2⟩

theorem Memory.read_below {m : Memory} {a n : Nat} (h : Memory.wfFrom n m = true) (l : a < n) :
    Memory.read m a = 0 := by
  cases m with
  | nil => rfl
  | cons e r =>
    simp only [Memory.wfFrom, Bool.and_eq_true, decide_eq_true_eq] at h
    simp only [Memory.read]
    rw [if_neg (by omega), if_pos (by omega)]

theorem Memory.write_wfFrom {m : Memory} {a n : Nat} (b : Byte) (h : Memory.wfFrom n m = true) (l : n ≤ a) :
    Memory.wfFrom n (Memory.write m a b) = true := by
  induction m generalizing n with
  | nil =>
    simp only [Memory.write]
    split
    · rfl
    · exact Memory.wfFrom_cons.2 ⟨⟨l, ‹_›⟩, rfl⟩
  | cons e r ih =>
    obtain ⟨k, v⟩ := e
    simp only [Memory.wfFrom, Bool.and_eq_true, decide_eq_true_eq] at h
    simp only [Memory.write]
    split
    · split
      · exact Memory.wfFrom_cons.2 h
      · simp only [Memory.wfFrom, Bool.and_eq_true, decide_eq_true_eq]
        refine ⟨⟨l, ‹_›⟩, ⟨by omega, h.1.2⟩, h.2⟩
    · split
      · split
        · exact Memory.wfFrom_mono h.2 (by omega)
        · simp only [Memory.wfFrom, Bool.and_eq_true, decide_eq_true_eq]
          refine ⟨⟨l, ‹_›⟩, ?_⟩
          have : a = k := ‹_›
          subst this; exact h.2
      · simp only [Memory.wfFrom, Bool.and_eq_true, decide_eq_true_eq]
        exact ⟨⟨h.1.1, h.1.2⟩, ih h.2 (by omega)⟩

theorem Memory.write_wf {m : Memory} (a : Nat) (b : Byte) (h : m.wf = true) : (Memory.write m a b).wf = true :=
  Memory.write_wfFrom b h (Nat.zero_le a)

theorem Memory.writeBytes_wf {m : Memory} (a : Nat) (bs : List Byte) (h : m.wf = true) :
    (Memory.writeBytes m a bs).wf = true := by
  induction bs generalizing m a with
  | nil => exact h
  | cons b r ih => exact ih (a + 1) (Memory.write_wf a b h)

theorem Memory.writeCells_wf {m : Memory} (cs : Bytes) (h : m.wf = true) : (Memory.writeCells m cs).wf = true := by
  induction cs generalizing m with
  | nil => exact h
  | cons e r ih => exact ih (Memory.write_wf e.1 e.2 h)

theorem Memory.writeLe_wf {m : Memory} (a n x : Nat) (h : m.wf = true) : (Memory.writeLe m a n x).wf = true :=
  Memory.writeBytes_wf a _ h

/-- One byte written, any byte read. -/
theorem Memory.read_write {m : Memory} {n : Nat} (h : Memory.wfFrom n m = true) (a c : Nat) (b : Byte) :
    Memory.read (Memory.write m a b) c = if c = a then b else Memory.read m c := by
  induction m generalizing n with
  | nil =>
    simp only [Memory.write]
    split
    · subst b; simp [Memory.read]
    · simp only [Memory.read]; split <;> simp
  | cons e r ih =>
    obtain ⟨k, v⟩ := e
    simp only [Memory.wfFrom, Bool.and_eq_true, decide_eq_true_eq] at h
    simp only [Memory.write]
    split
    · split
      · subst b
        split
        · subst c; simp only [Memory.read]; rw [if_neg (by omega), if_pos (by omega)]
        · rfl
      · simp only [Memory.read]
        split
        · rfl
        · split
          · rw [if_neg (by omega), if_pos (by omega)]
          · rfl
    · split
      · have e : a = k := ‹_›
        subst e
        split
        · subst b
          by_cases hc : c = a
          · subst hc; simp [Memory.read_below h.2]
          · simp only [Memory.read, if_neg hc]
            split
            · exact Memory.read_below h.2 (by omega)
            · rfl
        · simp only [Memory.read]
          split <;> rfl
      · simp only [Memory.read, ih h.2]
        by_cases hk : c = k
        · subst hk; rw [if_pos rfl, if_neg (by omega), if_pos rfl]
        · rw [if_neg hk, if_neg hk]
          by_cases hc : c = a
          · subst hc; rw [if_neg (by omega)]; simp
          · simp [hc]

theorem Memory.read_write_same {m : Memory} (h : m.wf = true) (a : Nat) (b : Byte) :
    Memory.read (Memory.write m a b) a = b := by
  rw [Memory.read_write h]; simp

theorem Memory.read_write_other {m : Memory} (h : m.wf = true) {a c : Nat} (b : Byte) (n : c ≠ a) :
    Memory.read (Memory.write m a b) c = Memory.read m c := by
  rw [Memory.read_write h]; simp [n]

/-- Bytes written at consecutive addresses, any byte read. -/
theorem Memory.read_writeBytes {m : Memory} (h : m.wf = true) (a c : Nat) (bs : List Byte) :
    Memory.read (Memory.writeBytes m a bs) c =
      if a ≤ c ∧ c < a + bs.length then bs.getD (c - a) 0 else Memory.read m c := by
  induction bs generalizing m a with
  | nil => rw [if_neg (by simp only [List.length_nil]; omega)]; rfl
  | cons b r ih =>
    simp only [Memory.writeBytes, ih (Memory.write_wf a b h), Memory.read_write h, List.length_cons]
    by_cases e : c = a
    · subst e; rw [if_neg (by omega), if_pos rfl, if_pos (by omega)]; simp
    · by_cases g : a ≤ c ∧ c < a + (r.length + 1)
      · rw [if_pos (by omega), if_pos g]
        have : c - a = (c - (a + 1)) + 1 := by omega
        rw [this]; simp
      · rw [if_neg (by omega), if_neg g, if_neg e]

@[simp] theorem bytesOfNat_length (n x : Nat) : (bytesOfNat n x).length = n := by
  induction n generalizing x with
  | zero => rfl
  | succ n ih => simp [bytesOfNat, ih]

theorem natOfBytes_bytesOfNat (n x : Nat) : natOfBytes (bytesOfNat n x) = x % 256 ^ n := by
  induction n generalizing x with
  | zero => simp [bytesOfNat, natOfBytes, Nat.mod_one]
  | succ n ih =>
    have e : natOfBytes (bytesOfNat (n + 1) x) = x % 256 + 256 * natOfBytes (bytesOfNat n (x / 256)) := by
      simp [bytesOfNat, natOfBytes]
    rw [e, ih, Nat.pow_succ, Nat.mul_comm (256 ^ n) 256, Nat.mod_mul]

theorem Memory.readBytes_congr {m m' : Memory} {a n : Nat}
    (h : ∀ i, i < n → Memory.read m (a + i) = Memory.read m' (a + i)) :
    Memory.readBytes m a n = Memory.readBytes m' a n := by
  induction n generalizing a with
  | zero => rfl
  | succ n ih =>
    simp only [Memory.readBytes]
    rw [show Memory.read m a = Memory.read m' a from h 0 (by omega)]
    rw [ih (a := a + 1) fun i hi => by simpa [Nat.add_assoc, Nat.add_comm 1 i] using h (i + 1) (by omega)]

theorem Memory.readBytes_writeBytes {m : Memory} (h : m.wf = true) (a : Nat) (bs : List Byte) :
    Memory.readBytes (Memory.writeBytes m a bs) a bs.length = bs := by
  induction bs generalizing m a with
  | nil => rfl
  | cons b r ih =>
    simp only [Memory.writeBytes, List.length_cons, Memory.readBytes]
    rw [ih (Memory.write_wf a b h), Memory.read_writeBytes (Memory.write_wf a b h), if_neg (by omega),
      Memory.read_write_same h]

/-- A little-endian value written and read back (00 R4). -/
theorem Memory.readLe_writeLe {m : Memory} (h : m.wf = true) (a n x : Nat) :
    Memory.readLe (Memory.writeLe m a n x) a n = x % 256 ^ n := by
  unfold Memory.readLe Memory.writeLe
  have := Memory.readBytes_writeBytes h a (bytesOfNat n x)
  rw [bytesOfNat_length] at this
  rw [this, natOfBytes_bytesOfNat]

end Sys2Proof.Machine
end

