-- ==== Sys2Proof/Laws/PerInstr.lean ====
section
/-! SUPPORT. The opcode tables both ways, constructor by constructor: the form of an instruction leads back to it
(06 Table 6.1; 06 R124 to R129 where a sub-operation chooses the row). -/

-- One theorem at a time: many at once ask for more threads than the checker has memory for.
set_option Elab.async false

namespace Sys2Proof.Laws.FormBack

/-- The opcode and fields of an instruction in the base or the extended layout give that instruction. -/
def Statement (i : Instr) : Prop :=
  i.subOk = true →
    match i.form with
    | .base op f => baseInstr op f = some i
    | .ext op f => extInstr op f = some i
    | _ => True

theorem nop : Statement .nop := fun _ => rfl
theorem br (off : BitVec 20) : Statement (.br off) := fun _ => trivial
theorem brLit (target : DWord) : Statement (.brLit target) := fun _ => trivial
theorem brp (p : BitVec 3) (sense : Bool) (off : BitVec 16) : Statement (.brp p sense off) := fun _ => trivial
theorem brpLit (p : BitVec 3) (sense : Bool) (target : DWord) : Statement (.brpLit p sense target) := fun _ => trivial
theorem brx (f : BaseArgs) : Statement (.brx f) := fun _ => rfl
theorem call (off : BitVec 20) : Statement (.call off) := fun _ => trivial
theorem callLit (target : DWord) : Statement (.callLit target) := fun _ => trivial
theorem ret (f : BaseArgs) : Statement (.ret f) := fun _ => rfl
theorem join (d : Opd) (off : BitVec 14) : Statement (.join d off) := fun _ => trivial
theorem joinLit (d : Opd) (target : DWord) : Statement (.joinLit d target) := fun _ => trivial
theorem joinExt (d : Opd) (rgn : Bool) (target : JoinTarget) : Statement (.joinExt d rgn target) := fun _ => trivial
theorem exit : Statement .exit := fun _ => rfl
theorem pblk (inv : Bool) (pred cnt : BitVec 3) (pat : BitVec 8) : Statement (.pblk inv pred cnt pat) := fun _ => trivial
theorem yield : Statement .yield := fun _ => rfl
theorem sleep (f : BaseArgs) : Statement (.sleep f) := fun _ => rfl
theorem sleepExt (f : ExtArgs) : Statement (.sleepExt f) := fun _ => rfl
theorem sleepEnd (wave : Nat) : Statement (.sleepEnd wave) := fun _ => trivial
theorem trap (code : BitVec 18) : Statement (.trap code) := fun _ => trivial
theorem rte : Statement .rte := fun _ => rfl
theorem brk (code : BitVec 18) : Statement (.brk code) := fun _ => trivial
theorem mona (f : ExtArgs) : Statement (.mona f) := fun _ => rfl
theorem mwait (f : ExtArgs) : Statement (.mwait f) := fun _ => rfl
theorem mwaitWake (wave : Nat) : Statement (.mwaitWake wave) := fun _ => trivial
theorem monitorTimeoutExpiry (wave : Nat) : Statement (.monitorTimeoutExpiry wave) := fun _ => trivial
theorem launch (f : ExtArgs) : Statement (.launch f) := fun _ => rfl
theorem iadd (f : BaseArgs) : Statement (.iadd f) := fun _ => rfl
theorem iaddExt (f : ExtArgs) : Statement (.iaddExt f) := fun _ => rfl
theorem isub (f : BaseArgs) : Statement (.isub f) := fun _ => rfl
theorem isubExt (f : ExtArgs) : Statement (.isubExt f) := fun _ => rfl
theorem imul (f : BaseArgs) : Statement (.imul f) := fun _ => rfl
theorem imulExt (f : ExtArgs) : Statement (.imulExt f) := fun _ => rfl
theorem imulh (f : BaseArgs) : Statement (.imulh f) := fun _ => rfl
theorem imulhExt (f : ExtArgs) : Statement (.imulhExt f) := fun _ => rfl
theorem imad (f : BaseArgs) : Statement (.imad f) := fun _ => rfl
theorem imadExt (f : ExtArgs) : Statement (.imadExt f) := fun _ => rfl
theorem imin (f : BaseArgs) : Statement (.imin f) := fun _ => rfl
theorem iminExt (f : ExtArgs) : Statement (.iminExt f) := fun _ => rfl
theorem imax (f : BaseArgs) : Statement (.imax f) := fun _ => rfl
theorem imaxExt (f : ExtArgs) : Statement (.imaxExt f) := fun _ => rfl
theorem iabs (f : BaseArgs) : Statement (.iabs f) := fun _ => rfl
theorem iabsExt (f : ExtArgs) : Statement (.iabsExt f) := fun _ => rfl
theorem and (f : BaseArgs) : Statement (.and f) := fun _ => rfl
theorem andExt (f : ExtArgs) : Statement (.andExt f) := fun _ => rfl
theorem or (f : BaseArgs) : Statement (.or f) := fun _ => rfl
theorem orExt (f : ExtArgs) : Statement (.orExt f) := fun _ => rfl
theorem xor (f : BaseArgs) : Statement (.xor f) := fun _ => rfl
theorem xorExt (f : ExtArgs) : Statement (.xorExt f) := fun _ => rfl
theorem not (f : BaseArgs) : Statement (.not f) := fun _ => rfl
theorem notExt (f : ExtArgs) : Statement (.notExt f) := fun _ => rfl
theorem shl (f : BaseArgs) : Statement (.shl f) := fun _ => rfl
theorem shlExt (f : ExtArgs) : Statement (.shlExt f) := fun _ => rfl
theorem shr (f : BaseArgs) : Statement (.shr f) := fun _ => rfl
theorem shrExt (f : ExtArgs) : Statement (.shrExt f) := fun _ => rfl
theorem sha (f : BaseArgs) : Statement (.sha f) := fun _ => rfl
theorem shaExt (f : ExtArgs) : Statement (.shaExt f) := fun _ => rfl
theorem rot (f : BaseArgs) : Statement (.rot f) := fun _ => rfl
theorem rotExt (f : ExtArgs) : Statement (.rotExt f) := fun _ => rfl
theorem popc (f : BaseArgs) : Statement (.popc f) := fun _ => rfl
theorem popcExt (f : ExtArgs) : Statement (.popcExt f) := fun _ => rfl
theorem clz (f : BaseArgs) : Statement (.clz f) := fun _ => rfl
theorem clzExt (f : ExtArgs) : Statement (.clzExt f) := fun _ => rfl
theorem brev (f : BaseArgs) : Statement (.brev f) := fun _ => rfl
theorem brevExt (f : ExtArgs) : Statement (.brevExt f) := fun _ => rfl
theorem bfx (f : ExtArgs) : Statement (.bfx f) := fun _ => rfl
theorem bfi (f : ExtArgs) : Statement (.bfi f) := fun _ => rfl
theorem icmp (f : BaseArgs) : Statement (.icmp f) := fun _ => rfl
theorem icmpExt (f : ExtArgs) : Statement (.icmpExt f) := fun _ => rfl
theorem sel (f : BaseArgs) : Statement (.sel f) := fun _ => rfl
theorem selExt (f : ExtArgs) : Statement (.selExt f) := fun _ => rfl
theorem lea (f : ExtArgs) : Statement (.lea f) := fun _ => rfl
theorem iadds (f : BaseArgs) : Statement (.iadds f) := fun _ => rfl
theorem iaddsExt (f : ExtArgs) : Statement (.iaddsExt f) := fun _ => rfl
theorem idiv (f : BaseArgs) : Statement (.idiv f) := fun _ => rfl
theorem idivExt (f : ExtArgs) : Statement (.idivExt f) := fun _ => rfl
theorem irem (f : BaseArgs) : Statement (.irem f) := fun _ => rfl
theorem iremExt (f : ExtArgs) : Statement (.iremExt f) := fun _ => rfl
theorem mov (f : BaseArgs) : Statement (.mov f) := fun _ => rfl
theorem movExt (f : ExtArgs) : Statement (.movExt f) := fun _ => rfl
theorem movi (f : BaseArgs) : Statement (.movi f) := fun _ => rfl
theorem srd (f : BaseArgs) : Statement (.srd f) := fun _ => rfl
theorem srdExt (f : ExtArgs) : Statement (.srdExt f) := fun _ => rfl
theorem swr (f : BaseArgs) : Statement (.swr f) := fun _ => rfl
theorem swrExt (f : ExtArgs) : Statement (.swrExt f) := fun _ => rfl
theorem pmov (f : BaseArgs) : Statement (.pmov f) := fun _ => rfl
theorem pmovExt (f : ExtArgs) : Statement (.pmovExt f) := fun _ => rfl
theorem plog (f : BaseArgs) : Statement (.plog f) := fun _ => rfl
theorem fadd (f : BaseArgs) : Statement (.fadd f) := fun _ => rfl
theorem faddExt (f : ExtArgs) : Statement (.faddExt f) := fun _ => rfl
theorem fsub (f : BaseArgs) : Statement (.fsub f) := fun _ => rfl
theorem fsubExt (f : ExtArgs) : Statement (.fsubExt f) := fun _ => rfl
theorem fmul (f : BaseArgs) : Statement (.fmul f) := fun _ => rfl
theorem fmulExt (f : ExtArgs) : Statement (.fmulExt f) := fun _ => rfl
theorem ffma (f : BaseArgs) : Statement (.ffma f) := fun _ => rfl
theorem ffmaExt (f : ExtArgs) : Statement (.ffmaExt f) := fun _ => rfl
theorem fmin (f : BaseArgs) : Statement (.fmin f) := fun _ => rfl
theorem fminExt (f : ExtArgs) : Statement (.fminExt f) := fun _ => rfl
theorem fmax (f : BaseArgs) : Statement (.fmax f) := fun _ => rfl
theorem fmaxExt (f : ExtArgs) : Statement (.fmaxExt f) := fun _ => rfl
theorem fcmp (f : BaseArgs) : Statement (.fcmp f) := fun _ => rfl
theorem fcmpExt (f : ExtArgs) : Statement (.fcmpExt f) := fun _ => rfl
theorem frcp (f : BaseArgs) : Statement (.frcp f) := fun _ => rfl
theorem frcpExt (f : ExtArgs) : Statement (.frcpExt f) := fun _ => rfl
theorem frsq (f : BaseArgs) : Statement (.frsq f) := fun _ => rfl
theorem frsqExt (f : ExtArgs) : Statement (.frsqExt f) := fun _ => rfl
theorem fsqrt (f : BaseArgs) : Statement (.fsqrt f) := fun _ => rfl
theorem fsqrtExt (f : ExtArgs) : Statement (.fsqrtExt f) := fun _ => rfl
theorem fexp2 (f : BaseArgs) : Statement (.fexp2 f) := fun _ => rfl
theorem fexp2Ext (f : ExtArgs) : Statement (.fexp2Ext f) := fun _ => rfl
theorem flog2 (f : BaseArgs) : Statement (.flog2 f) := fun _ => rfl
theorem flog2Ext (f : ExtArgs) : Statement (.flog2Ext f) := fun _ => rfl
theorem fsin (f : BaseArgs) : Statement (.fsin f) := fun _ => rfl
theorem fsinExt (f : ExtArgs) : Statement (.fsinExt f) := fun _ => rfl
theorem fcos (f : BaseArgs) : Statement (.fcos f) := fun _ => rfl
theorem fcosExt (f : ExtArgs) : Statement (.fcosExt f) := fun _ => rfl
theorem fdiv (f : BaseArgs) : Statement (.fdiv f) := fun _ => rfl
theorem fdivExt (f : ExtArgs) : Statement (.fdivExt f) := fun _ => rfl
theorem frnd (f : BaseArgs) : Statement (.frnd f) := fun _ => rfl
theorem frndExt (f : ExtArgs) : Statement (.frndExt f) := fun _ => rfl
theorem fcls (f : BaseArgs) : Statement (.fcls f) := fun _ => rfl
theorem fclsExt (f : ExtArgs) : Statement (.fclsExt f) := fun _ => rfl
theorem fscl (f : BaseArgs) : Statement (.fscl f) := fun _ => rfl
theorem fsclExt (f : ExtArgs) : Statement (.fsclExt f) := fun _ => rfl
theorem fdot2 (f : ExtArgs) : Statement (.fdot2 f) := fun _ => rfl
theorem fdot4 (f : ExtArgs) : Statement (.fdot4 f) := fun _ => rfl
theorem fmxi (f : ExtArgs) : Statement (.fmxi f) := fun _ => rfl
theorem fmni (f : ExtArgs) : Statement (.fmni f) := fun _ => rfl
theorem cvt (f : ExtArgs) : Statement (.cvt f) := fun _ => rfl
theorem cvtpk (f : ExtArgs) : Statement (.cvtpk f) := fun _ => rfl
theorem unpk (f : ExtArgs) : Statement (.unpk f) := fun _ => rfl
theorem qscl (f : ExtArgs) : Statement (.qscl f) := fun _ => rfl
theorem hdmk (f : ExtArgs) : Statement (.hdmk f) := fun _ => rfl
theorem cmprs (f : ExtArgs) : Statement (.cmprs f) := fun _ => rfl
theorem shfl (f : BaseArgs) : Statement (.shfl f) := fun _ => rfl
theorem shflExt (f : ExtArgs) : Statement (.shflExt f) := fun _ => rfl
theorem vote (f : BaseArgs) : Statement (.vote f) := fun _ => rfl
theorem voteExt (f : ExtArgs) : Statement (.voteExt f) := fun _ => rfl
theorem redl (f : ExtArgs) : Statement (.redl f) := fun _ => rfl
theorem scanl (f : ExtArgs) : Statement (.scanl f) := fun _ => rfl
theorem matchLanes (f : ExtArgs) : Statement (.matchLanes f) := fun _ => rfl
theorem elect (f : BaseArgs) : Statement (.elect f) := fun _ => rfl
theorem electExt (f : ExtArgs) : Statement (.electExt f) := fun _ => rfl
theorem ld (f : ExtArgs) : Statement (.ld f) := fun _ => rfl
theorem st (f : ExtArgs) : Statement (.st f) := fun _ => rfl
theorem ldl (f : ExtArgs) : Statement (.ldl f) := fun _ => rfl
theorem stl (f : ExtArgs) : Statement (.stl f) := fun _ => rfl
theorem atom (f : ExtArgs) : Statement (.atom f) := fun _ => rfl
theorem atoml (f : ExtArgs) : Statement (.atoml f) := fun _ => rfl
theorem satom (f : ExtArgs) : Statement (.satom f) := fun _ => rfl
theorem sst (f : ExtArgs) : Statement (.sst f) := fun _ => rfl
theorem sld (f : ExtArgs) : Statement (.sld f) := fun _ => rfl
theorem fenceAcq (f : ExtArgs) : Statement (.fenceAcq f) := by
  intro h
  simp only [Instr.subOk, decide_eq_true_eq] at h
  simp [Instr.form, extInstr, h]
theorem fenceRel (f : ExtArgs) : Statement (.fenceRel f) := by
  intro h
  simp only [Instr.subOk, decide_eq_true_eq] at h
  simp [Instr.form, extInstr, h]
theorem fenceAr (f : ExtArgs) : Statement (.fenceAr f) := by
  intro h
  simp only [Instr.subOk, decide_eq_true_eq] at h
  simp [Instr.form, extInstr, h]
theorem wfence (f : ExtArgs) : Statement (.wfence f) := fun _ => rfl
theorem rfence (f : ExtArgs) : Statement (.rfence f) := fun _ => rfl
theorem pref (f : ExtArgs) : Statement (.pref f) := fun _ => rfl
theorem discLine (f : ExtArgs) : Statement (.discLine f) := by
  intro h
  simp only [Instr.subOk, decide_eq_true_eq] at h
  simp [Instr.form, extInstr, h]
theorem discAll (f : ExtArgs) : Statement (.discAll f) := by
  intro h
  simp only [Instr.subOk, decide_eq_true_eq] at h
  simp [Instr.form, extInstr, h]
theorem wbr (f : ExtArgs) : Statement (.wbr f) := fun _ => rfl
theorem segb (f : ExtArgs) : Statement (.segb f) := fun _ => rfl
theorem segu (f : ExtArgs) : Statement (.segu f) := fun _ => rfl
theorem ptst (f : ExtArgs) : Statement (.ptst f) := fun _ => rfl
theorem ptld (f : ExtArgs) : Statement (.ptld f) := fun _ => rfl
theorem tlbiPage (f : ExtArgs) : Statement (.tlbiPage f) := by
  intro h
  simp only [Instr.subOk, decide_eq_true_eq] at h
  simp [Instr.form, extInstr, h]
theorem tlbiAsid (f : ExtArgs) : Statement (.tlbiAsid f) := by
  intro h
  simp only [Instr.subOk, decide_eq_true_eq] at h
  simp [Instr.form, extInstr, h]
theorem tlbiAll (f : ExtArgs) : Statement (.tlbiAll f) := by
  intro h
  simp only [Instr.subOk, decide_eq_true_eq] at h
  simp [Instr.form, extInstr, h]
theorem xfencePt (f : ExtArgs) : Statement (.xfencePt f) := by
  intro h
  simp only [Instr.subOk, decide_eq_true_eq] at h
  simp [Instr.form, extInstr, h]
theorem xfenceInv (f : ExtArgs) : Statement (.xfenceInv f) := by
  intro h
  simp only [Instr.subOk, decide_eq_true_eq] at h
  simp [Instr.form, extInstr, h]
theorem xfenceAd (f : ExtArgs) : Statement (.xfenceAd f) := by
  intro h
  simp only [Instr.subOk, decide_eq_true_eq] at h
  simp [Instr.form, extInstr, h]
theorem xfenceAll (f : ExtArgs) : Statement (.xfenceAll f) := by
  intro h
  simp only [Instr.subOk, decide_eq_true_eq] at h
  simp [Instr.form, extInstr, h]
theorem migr (f : ExtArgs) : Statement (.migr f) := by
  intro h
  simp only [Instr.subOk, decide_eq_true_eq] at h
  simp [Instr.form, extInstr, h]
theorem migrEvac (f : ExtArgs) : Statement (.migrEvac f) := by
  intro h
  simp only [Instr.subOk, decide_eq_true_eq] at h
  simp [Instr.form, extInstr, h]
theorem bver (f : ExtArgs) : Statement (.bver f) := fun _ => rfl
theorem cpy (f : ExtArgs) : Statement (.cpy f) := fun _ => rfl
theorem tcpy (f : ExtArgs) : Statement (.tcpy f) := fun _ => rfl
theorem kick (f : ExtArgs) : Statement (.kick f) := fun _ => rfl
theorem bari (f : ExtArgs) : Statement (.bari f) := fun _ => rfl
theorem bara (f : ExtArgs) : Statement (.bara f) := fun _ => rfl
theorem barw (f : ExtArgs) : Statement (.barw f) := fun _ => rfl
theorem bart (f : ExtArgs) : Statement (.bart f) := fun _ => rfl
theorem lemp (f : ExtArgs) : Statement (.lemp f) := fun _ => rfl
theorem lwt (f : ExtArgs) : Statement (.lwt f) := fun _ => rfl
theorem gsub (f : ExtArgs) : Statement (.gsub f) := fun _ => rfl
theorem cfenceDone (f : ExtArgs) : Statement (.cfenceDone f) := by
  intro h
  simp only [Instr.subOk, decide_eq_true_eq] at h
  simp [Instr.form, extInstr, h]
theorem cfenceRead (f : ExtArgs) : Statement (.cfenceRead f) := by
  intro h
  simp only [Instr.subOk, decide_eq_true_eq] at h
  simp [Instr.form, extInstr, h]
theorem oclm (f : ExtArgs) : Statement (.oclm f) := fun _ => rfl
theorem orel (f : ExtArgs) : Statement (.orel f) := fun _ => rfl
theorem ofill (f : ExtArgs) : Statement (.ofill f) := by
  intro h
  simp only [Instr.subOk, Bool.or_eq_true, decide_eq_true_eq] at h
  rcases h with h | h <;> simp [Instr.form, extInstr, h]
theorem ofillOut (f : ExtArgs) : Statement (.ofillOut f) := by
  intro h
  simp only [Instr.subOk, Bool.or_eq_true, decide_eq_true_eq] at h
  rcases h with h | h <;> simp [Instr.form, extInstr, h]
theorem ostrOpen (f : ExtArgs) : Statement (.ostrOpen f) := by
  intro h
  simp only [Instr.subOk, decide_eq_true_eq] at h
  simp [Instr.form, extInstr, h]
theorem ostrPost (f : ExtArgs) : Statement (.ostrPost f) := by
  intro h
  simp only [Instr.subOk, decide_eq_true_eq] at h
  simp [Instr.form, extInstr, h]
theorem ostrClose (f : ExtArgs) : Statement (.ostrClose f) := by
  intro h
  simp only [Instr.subOk, decide_eq_true_eq] at h
  simp [Instr.form, extInstr, h]
theorem osub (f : ExtArgs) : Statement (.osub f) := by
  intro h
  simp only [Instr.subOk, decide_eq_true_eq] at h
  simp [Instr.form, extInstr, h]
theorem osubDrop (f : ExtArgs) : Statement (.osubDrop f) := by
  intro h
  simp only [Instr.subOk, decide_eq_true_eq] at h
  simp [Instr.form, extInstr, h]
theorem aclm (f : ExtArgs) : Statement (.aclm f) := fun _ => rfl
theorem arel (f : ExtArgs) : Statement (.arel f) := fun _ => rfl
theorem aini (f : ExtArgs) : Statement (.aini f) := fun _ => rfl
theorem ald (f : ExtArgs) : Statement (.ald f) := fun _ => rfl
theorem opf : Statement .opf := fun _ => rfl
theorem ttsk (f : ExtArgs) : Statement (.ttsk f) := fun _ => rfl
theorem twait (f : ExtArgs) : Statement (.twait f) := fun _ => rfl
theorem hndw (f : ExtArgs) : Statement (.hndw f) := fun _ => rfl
theorem hndp (f : ExtArgs) : Statement (.hndp f) := fun _ => rfl
theorem bar : Statement .bar := fun _ => rfl
theorem gbar : Statement .gbar := fun _ => rfl
theorem tokw : Statement .tokw := fun _ => rfl
theorem tokp : Statement .tokp := fun _ => rfl
theorem rsend (f : ExtArgs) : Statement (.rsend f) := fun _ => rfl
theorem rflshGo (f : ExtArgs) : Statement (.rflshGo f) := by
  intro h
  simp only [Instr.subOk, decide_eq_true_eq] at h
  simp [Instr.form, extInstr, h]
theorem rflshWait (f : ExtArgs) : Statement (.rflshWait f) := by
  intro h
  simp only [Instr.subOk, decide_eq_true_eq] at h
  simp [Instr.form, extInstr, h]
theorem rpollOpen (f : ExtArgs) : Statement (.rpollOpen f) := by
  intro h
  simp only [Instr.subOk, decide_eq_true_eq] at h
  simp [Instr.form, extInstr, h]
theorem rpollCnt (f : ExtArgs) : Statement (.rpollCnt f) := by
  intro h
  simp only [Instr.subOk, decide_eq_true_eq] at h
  simp [Instr.form, extInstr, h]
theorem rpollFree (f : ExtArgs) : Statement (.rpollFree f) := by
  intro h
  simp only [Instr.subOk, decide_eq_true_eq] at h
  simp [Instr.form, extInstr, h]
theorem rpollClose (f : ExtArgs) : Statement (.rpollClose f) := by
  intro h
  simp only [Instr.subOk, decide_eq_true_eq] at h
  simp [Instr.form, extInstr, h]
theorem rpollSent (f : ExtArgs) : Statement (.rpollSent f) := by
  intro h
  simp only [Instr.subOk, decide_eq_true_eq] at h
  simp [Instr.form, extInstr, h]
theorem rpollRefd (f : ExtArgs) : Statement (.rpollRefd f) := by
  intro h
  simp only [Instr.subOk, decide_eq_true_eq] at h
  simp [Instr.form, extInstr, h]
theorem frec (f : ExtArgs) : Statement (.frec f) := fun _ => rfl
theorem lfix (f : ExtArgs) : Statement (.lfix f) := fun _ => rfl
theorem perfRead (f : ExtArgs) : Statement (.perfRead f) := by
  intro h
  simp only [Instr.subOk, decide_eq_true_eq] at h
  simp [Instr.form, extInstr, h]
theorem perfClr (f : ExtArgs) : Statement (.perfClr f) := by
  intro h
  simp only [Instr.subOk, decide_eq_true_eq] at h
  simp [Instr.form, extInstr, h]
theorem hcapCfg (f : ExtArgs) : Statement (.hcapCfg f) := by
  intro h
  simp only [Instr.subOk, decide_eq_true_eq] at h
  simp [Instr.form, extInstr, h]
theorem hcapRd (f : ExtArgs) : Statement (.hcapRd f) := by
  intro h
  simp only [Instr.subOk, decide_eq_true_eq] at h
  simp [Instr.form, extInstr, h]
theorem hcapClr (f : ExtArgs) : Statement (.hcapClr f) := by
  intro h
  simp only [Instr.subOk, decide_eq_true_eq] at h
  simp [Instr.form, extInstr, h]
theorem dgst (f : ExtArgs) : Statement (.dgst f) := fun _ => rfl
theorem asyncTrapDelivery (wave : Nat) : Statement (.asyncTrapDelivery wave) := fun _ => trivial
theorem handlerWatchdog (wave : Nat) : Statement (.handlerWatchdog wave) := fun _ => trivial
theorem writeBackpressure (wave : Nat) : Statement (.writeBackpressure wave) := fun _ => trivial
theorem pageRequestResponse (chip entry : Nat) (resp : Word) : Statement (.pageRequestResponse chip entry resp) := fun _ => trivial
theorem prheadWrite (chip : Nat) (value : DWord) : Statement (.prheadWrite chip value) := fun _ => trivial
theorem prlenWrite (chip : Nat) (value : DWord) : Statement (.prlenWrite chip value) := fun _ => trivial
theorem klaunchWrite (chip : Nat) (value : DWord) : Statement (.klaunchWrite chip value) := fun _ => trivial
theorem campionPlacement (chip : Nat) : Statement (.campionPlacement chip) := fun _ => trivial
theorem contextSave (gang : Nat) : Statement (.contextSave gang) := fun _ => trivial
theorem swapOut (gang : Nat) : Statement (.swapOut gang) := fun _ => trivial
theorem workgroupExit (wg : Nat) : Statement (.workgroupExit wg) := fun _ => trivial
theorem gangRetire (gang : Nat) : Statement (.gangRetire gang) := fun _ => trivial
theorem launchDone (chip record : Nat) : Statement (.launchDone chip record) := fun _ => trivial
theorem writeLaneGrant (stack : Nat) : Statement (.writeLaneGrant stack) := fun _ => trivial
theorem wcapWindow (stack : Nat) : Statement (.wcapWindow stack) := fun _ => trivial
theorem wqEntryPerform (core entry : Nat) : Statement (.wqEntryPerform core entry) := fun _ => trivial
theorem loadReturn (wave load : Nat) : Statement (.loadReturn wave load) := fun _ => trivial
theorem hcapLevelSample (core monitor : Nat) (level : Word) : Statement (.hcapLevelSample core monitor level) := fun _ => trivial
theorem windowFillRequest (core seg : Nat) : Statement (.windowFillRequest core seg) := fun _ => trivial
theorem windowFillData (core seg line : Nat) : Statement (.windowFillData core seg line) := fun _ => trivial
theorem windowNotice (core seg : Nat) : Statement (.windowNotice core seg) := fun _ => trivial
theorem windowInv (core seg : Nat) : Statement (.windowInv core seg) := fun _ => trivial
theorem windowRecall (core seg : Nat) : Statement (.windowRecall core seg) := fun _ => trivial
theorem windowGone (core seg : Nat) : Statement (.windowGone core seg) := fun _ => trivial
theorem windowNoticeAck (core seg : Nat) : Statement (.windowNoticeAck core seg) := fun _ => trivial
theorem hostLineFill (chip line : Nat) : Statement (.hostLineFill chip line) := fun _ => trivial
theorem snpData (chip line : Nat) : Statement (.snpData chip line) := fun _ => trivial
theorem snpInv (chip line : Nat) : Statement (.snpInv chip line) := fun _ => trivial
theorem snpCur (chip line : Nat) : Statement (.snpCur chip line) := fun _ => trivial
theorem hdmRead (chip block : Nat) (own : Bool) : Statement (.hdmRead chip block own) := fun _ => trivial
theorem hdmWrite (chip block : Nat) (mask : DWord) (data : List Byte) : Statement (.hdmWrite chip block mask data) := fun _ => trivial
theorem birsp (chip block : Nat) : Statement (.birsp chip block) := fun _ => trivial
theorem updatePacket (src dst : Nat) : Statement (.updatePacket src dst) := fun _ => trivial
theorem grantPacket (src dst : Nat) : Statement (.grantPacket src dst) := fun _ => trivial
theorem wrapPacket (src dst : Nat) : Statement (.wrapPacket src dst) := fun _ => trivial
theorem packetApply (chip : Nat) : Statement (.packetApply chip) := fun _ => trivial
theorem reqMessage (src dst : Nat) : Statement (.reqMessage src dst) := fun _ => trivial
theorem colGrant (chip : Nat) : Statement (.colGrant chip) := fun _ => trivial
theorem ackMessage (src dst : Nat) : Statement (.ackMessage src dst) := fun _ => trivial
theorem ackTimer (chip : Nat) : Statement (.ackTimer chip) := fun _ => trivial
theorem wrapackMessage (src dst : Nat) : Statement (.wrapackMessage src dst) := fun _ => trivial
theorem counterWrap (chip : Nat) : Statement (.counterWrap chip) := fun _ => trivial
theorem linkCrcError (src dst : Nat) : Statement (.linkCrcError src dst) := fun _ => trivial
theorem ackTimeout (chip : Nat) : Statement (.ackTimeout chip) := fun _ => trivial
theorem holdTimeout (chip : Nat) : Statement (.holdTimeout chip) := fun _ => trivial
theorem proposeMessage (src dst : Nat) : Statement (.proposeMessage src dst) := fun _ => trivial
theorem stateMessage (src dst : Nat) : Statement (.stateMessage src dst) := fun _ => trivial
theorem installMessage (src dst : Nat) : Statement (.installMessage src dst) := fun _ => trivial
theorem viewPhaseTimeout (chip : Nat) : Statement (.viewPhaseTimeout chip) := fun _ => trivial
theorem joinMessage (src dst : Nat) : Statement (.joinMessage src dst) := fun _ => trivial
theorem listenMessage (src dst : Nat) : Statement (.listenMessage src dst) := fun _ => trivial
theorem donorCopy (chip : Nat) : Statement (.donorCopy chip) := fun _ => trivial
theorem rjoinWrite (chip : Nat) (value : DWord) : Statement (.rjoinWrite chip value) := fun _ => trivial
theorem lagmaxWrite (chip : Nat) (value : DWord) : Statement (.lagmaxWrite chip value) := fun _ => trivial
theorem holdmaxWrite (chip : Nat) (value : DWord) : Statement (.holdmaxWrite chip value) := fun _ => trivial
theorem acklimWrite (chip : Nat) (value : DWord) : Statement (.acklimWrite chip value) := fun _ => trivial
theorem rsegszWrite (chip : Nat) (value : DWord) : Statement (.rsegszWrite chip value) := fun _ => trivial
theorem rootrcbWrite (chip : Nat) (value : DWord) : Statement (.rootrcbWrite chip value) := fun _ => trivial
theorem copyTransfer (core copy : Nat) : Statement (.copyTransfer core copy) := fun _ => trivial
theorem kickRecordStart (core : Nat) : Statement (.kickRecordStart core) := fun _ => trivial
theorem graphNodeRetire (core graph node : Nat) : Statement (.graphNodeRetire core graph node) := fun _ => trivial
theorem ethFrameRx (port : Nat) (frame : List Byte) : Statement (.ethFrameRx port frame) := fun _ => trivial
theorem taskDispatch (cluster : Nat) : Statement (.taskDispatch cluster) := fun _ => trivial
theorem tileStep (cluster task : Nat) : Statement (.tileStep cluster task) := fun _ => trivial
theorem sendListFlush (core chip : Nat) : Statement (.sendListFlush core chip) := fun _ => trivial
theorem tokenArrival (chip : Nat) : Statement (.tokenArrival chip) := fun _ => trivial
theorem tokenAcknowledge (wave : Nat) : Statement (.tokenAcknowledge wave) := fun _ => trivial
theorem tokenRefusal (wave : Nat) : Statement (.tokenRefusal wave) := fun _ => trivial
theorem fencedWrite (chip : Nat) (value : DWord) : Statement (.fencedWrite chip value) := fun _ => trivial
theorem hsgoWrite (chip : Nat) (value : DWord) : Statement (.hsgoWrite chip value) := fun _ => trivial
theorem areqWrite (chip : Nat) (value : DWord) : Statement (.areqWrite chip value) := fun _ => trivial
theorem attestReportReady (chip : Nat) : Statement (.attestReportReady chip) := fun _ => trivial
theorem keycmdDraw (chip : Nat) (value : DWord) : Statement (.keycmdDraw chip value) := fun _ => trivial
theorem keycmdErase (chip : Nat) (value : DWord) : Statement (.keycmdErase chip value) := fun _ => trivial
theorem keycmdInvalid (chip : Nat) (value : DWord) : Statement (.keycmdInvalid chip value) := fun _ => trivial
theorem fixclkSet (chip : Nat) : Statement (.fixclkSet chip) := fun _ => trivial
theorem fixclkClear (chip : Nat) : Statement (.fixclkClear chip) := fun _ => trivial
theorem rstctlWarm (chip : Nat) : Statement (.rstctlWarm chip) := fun _ => trivial
theorem warmDrainComplete (chip : Nat) : Statement (.warmDrainComplete chip) := fun _ => trivial
theorem warmDrainTimeout (chip : Nat) : Statement (.warmDrainTimeout chip) := fun _ => trivial
theorem rstctlIsolate (chip : Nat) : Statement (.rstctlIsolate chip) := fun _ => trivial
theorem chipFaultLasting (chip : Nat) : Statement (.chipFaultLasting chip) := fun _ => trivial
theorem coldReset (chip : Nat) : Statement (.coldReset chip) := fun _ => trivial
theorem cxlLinkReset (chip : Nat) : Statement (.cxlLinkReset chip) := fun _ => trivial
theorem thermal95c (chip : Nat) : Statement (.thermal95c chip) := fun _ => trivial
theorem thermal105c (chip : Nat) : Statement (.thermal105c chip) := fun _ => trivial
theorem registerWrite (chip offset : Nat) (value : DWord) : Statement (.registerWrite chip offset value) := fun _ => trivial
theorem replJoin (chip : Nat) : Statement (.replJoin chip) := fun _ => trivial
theorem channelRetirement (stack channel : Nat) : Statement (.channelRetirement stack channel) := fun _ => trivial
theorem coreClockStep (chip mhz : Nat) : Statement (.coreClockStep chip mhz) := fun _ => trivial
theorem idleSlotClock (core slot : Nat) : Statement (.idleSlotClock core slot) := fun _ => trivial
theorem resendRequest (src dst : Nat) : Statement (.resendRequest src dst) := fun _ => trivial

end Sys2Proof.Laws.FormBack
end

