-- ==== Sys2Proof/Machine/Wire.lean ====
section
/-! DEFINITION. The words that replication packets are made of on the links: header, sectors, grant descriptor, signature, bodies of
control messages, and flits (10 R209, R210, R218, R232, Tables 10.1, 10.4, 10.5). -/

namespace Sys2Proof.Machine

/-- The fields of a packet header (10 Table 10.1). -/
structure Header where
  sig : Bool
  kind : Nat
  sclk : Nat
  blk : Nat
  mask : DWord
  view : Nat
  rank : Nat
  vec : List Nat
  deriving DecidableEq, Repr

/-- The 320-bit value of a header: V[j] at bit 20·j, RANK 160, VIEW 163, MASK 171, BLK 235, SCLK 264, KIND 292, SIG 294, and 0
above (10 Table 10.1). -/
def Header.value (h : Header) : BitVec 320 :=
  (BitVec.ofNat 25 0 ++ BitVec.ofBool h.sig ++ BitVec.ofNat 2 h.kind ++ BitVec.ofNat 28 h.sclk ++ BitVec.ofNat 29 h.blk ++ h.mask ++
    BitVec.ofNat 8 h.view ++ BitVec.ofNat 3 h.rank ++
    BitVec.ofNat 20 (vecAt h.vec 7) ++ BitVec.ofNat 20 (vecAt h.vec 6) ++ BitVec.ofNat 20 (vecAt h.vec 5) ++
    BitVec.ofNat 20 (vecAt h.vec 4) ++ BitVec.ofNat 20 (vecAt h.vec 3) ++ BitVec.ofNat 20 (vecAt h.vec 2) ++
    BitVec.ofNat 20 (vecAt h.vec 1) ++ BitVec.ofNat 20 (vecAt h.vec 0)).setWidth 320

/-- The 40 bytes of a header, least significant first (10 R209). -/
def Header.bytes (h : Header) : List Byte := bytesOfNat 40 h.value.toNat

/-- The signature that follows a packet's data where SIG is 1 (09 R192, 10 R209). -/
def sigBytes (m : Option (BitVec 512)) : List Byte :=
  match m with
  | none => []
  | some m => bytesOfNat 64 m.toNat

/-- The header of a data packet. -/
def Packet.header (p : Packet) : Header :=
  { sig := p.sig.isSome, kind := p.kind, sclk := p.sclk, blk := p.blk, mask := p.mask, view := p.view, rank := p.rank, vec := p.vec }

/-- The grant descriptor: SLOT, RQCNT, IRANK, OPC, TY, a zero byte, OLD (10 Table 10.4). -/
def Packet.descriptor (p : Packet) : List Byte :=
  bytesOfNat 8 p.slot ++ bytesOfNat 4 p.rq ++ bytesOfNat 1 (p.irank % 8) ++ bytesOfNat 1 p.opc ++ bytesOfNat 1 p.ty.code.toNat ++
    bytesOfNat 1 0 ++ bytesOfNat 16 p.old.toNat

/-- The whole sectors of a packet's images, lower sector first (10 R210). -/
def Packet.sectors (p : Packet) : List Byte :=
  ([2 * p.blk, 2 * p.blk + 1].filterMap fun k => Table.look p.images k).flatMap fun v => bytesOfNat 32 v.toNat

/-- The bytes of a data packet: header, descriptor of a grant, sectors, signature (10 R210, R218). -/
def Packet.bytes (p : Packet) : List Byte :=
  p.header.bytes ++ (if p.kind = 1 then p.descriptor else []) ++ p.sectors ++ sigBytes p.sig

/-- The bytes travel in whole 32-byte flits, the last padded with zeros (10 R210). -/
def padFlit (bs : List Byte) : List Byte := bs ++ List.replicate ((32 - bs.length % 32) % 32) 0

/-- The 64-byte body of a control message: the bytes listed, at their places, and 0 elsewhere (10 R232). -/
def bodyBytes (fields : List (Nat × List Byte)) : List Byte :=
  fields.foldl (fun b f => b.take f.1 ++ f.2 ++ b.drop (f.1 + f.2.length)) (List.replicate 64 0)

/-- A bitmap of chips. -/
def chipMap (cs : List Nat) : Nat := (List.range 8).foldl (fun m c => if cs.contains c then m + 2 ^ c else m) 0

/-- The header of a control message of a chip whose view number is `view`: KIND 3, V its applied vector (10 R209); SCLK is 0; BLK
and MASK name what a REQ reads or writes (10 Table 10.5). -/
def Msg.header (rank view : Nat) (m : Msg) : Header :=
  let h : Header := { sig := false, kind := 3, sclk := 0, blk := 0, mask := 0, view, rank, vec := [] }
  match m with
  | .packet p => p.header
  | .req q => { h with
      sig := q.sig.isSome, blk := q.off / 64, vec := q.vec
      mask := BitVec.ofNat 64 ((2 ^ reqBytes q.opc q.ty - 1) * 2 ^ (q.off % 64)) }
  | .ack v => { h with vec := v }
  | .wrapack v _ => { h with vec := v }
  | .wrapackSeen v _ => { h with vec := v }
  | .propose v n _ => { h with vec := v, view := n }
  | .state r => { h with vec := r.vec }
  | .install v i => { h with vec := v, view := i.view }
  | .join v => { h with vec := v }
  | .listen s0 _ => { h with vec := vecSet (List.replicate 8 0) rank s0 }

/-- The body of a control message (10 Table 10.5). `wrapackSeen`, which the table does not have, takes subtype 9, with its count in
bytes 4–7 (log 25: DESIGN CHOICE). -/
def Msg.body : Msg → List (Nat × List Byte)
  | .packet _ => []
  | .req q => [(0, [1, BitVec.ofNat 8 q.opc, q.ty.code.setWidth 8, BitVec.ofNat 8 (q.ord % 4 + 16 * (q.sc % 8))]),
      (4, bytesOfNat 4 q.rq), (16, bytesOfNat 16 q.opa.toNat), (32, bytesOfNat 16 q.opb.toNat)]
  | .ack _ => [(0, [2])]
  | .wrapack _ s => [(0, [3, BitVec.ofNat 8 s])]
  | .wrapackSeen _ n => [(0, [9]), (4, bytesOfNat 4 n)]
  | .propose _ _ ms => [(0, [4, BitVec.ofNat 8 (chipMap ms)])]
  | .state r => [(0, [5]), (8, bytesOfNat 8 (r.slots - 1))]
  | .install _ i => [(0, [6, BitVec.ofNat 8 (chipMap i.members), BitVec.ofNat 8 i.col]), (8, bytesOfNat 8 i.first),
      (16, bytesOfNat 20 ((List.range 8).foldl (fun n j => n + vecAt i.kept j % 2 ^ 20 * 2 ^ (20 * j)) 0))]
  | .join _ => [(0, [7])]
  | .listen _ _ => [(0, [8])]

/-- The bytes of a message: a data packet, or a control message's header and body with what follows it: a request's signature, the
packets held of a STATE (10 R209, R232, Table 10.5). -/
def Msg.bytes (rank view : Nat) (m : Msg) : List Byte :=
  match m with
  | .packet p => p.bytes
  | m => (m.header rank view).bytes ++ bodyBytes m.body ++
    match m with
    | .req q => sigBytes q.sig
    | .state r => r.held.flatMap Packet.bytes
    | _ => []

end Sys2Proof.Machine
end

