-- ==== Sys2Proof/Tests/Slice0.lean ====
section
/-! SUPPORT. Tests: ill-formed terms, words written out from the spec's encodings, worked examples of the spec, and for each
statement that has hypotheses a state and operands that meet them. -/

namespace Sys2Proof.Tests

-- One theorem at a time: many at once ask for more threads than the checker has memory for.
set_option Elab.async false

open Sys2Proof.Machine

/-! ### Ill-formed terms, one for each check of `Instr.wf` (05 R116) -/

/-- A base form of three operands. -/
def baseOf (d a b : Opd) : BaseArgs := { BaseArgs.empty with d := d, a := a, b := b }

/-- An extended form of four operands. -/
def extOf (d a b c : Opd) (ty : Ty) : ExtArgs :=
  { d := d, a := a, b := b, c := c, ea := false, eb := false, ec := false, ty := ty, rm := .rne, sc := .th, md := 0, aux := 0, x18 := 0
    xb := 0, lit := none }

/-- Base forms: a predicate where a register belongs, a register that the base field cannot name, a modifier code that is none, a
literal that no operand names, an operand that the opcode has not. -/
theorem smoke_base : [
    Instr.iadd (baseOf (.pred 1 false) (.v 5) (.v 6)), .iadd (baseOf (.v 48) (.v 5) (.v 6)),
    .fmin { baseOf (.v 4) (.v 5) (.v 6) with xb := 2 }, .iadd { baseOf (.v 4) (.v 5) (.v 6) with lit := some 5 },
    .clz (baseOf (.v 4) (.v 5) (.v 6))].all (fun i => !i.wf) = true := by decide +kernel

/-- Extended forms: a type that the opcode has not, an odd pair, a mode, scope, rounding mode, shift or offset that must be 0. -/
theorem smoke_extended : [
    Instr.iaddExt (extOf (.v 4) (.v 6) (.v 8) .none .f32), .iaddExt (extOf (.v 5) (.v 6) (.v 8) .none .n64),
    .iaddExt { extOf (.v 4) (.v 6) (.v 8) .none .i32 with md := 1 }, .iaddExt { extOf (.v 4) (.v 6) (.v 8) .none .i32 with sc := .pk },
    .iaddExt { extOf (.v 4) (.v 6) (.v 8) .none .i32 with rm := .rz }, .iaddExt { extOf (.v 4) (.v 6) (.v 8) .none .i32 with aux := 1 },
    .iaddExt { extOf (.v 4) (.v 6) (.v 8) .none .i32 with x18 := 1 }].all (fun i => !i.wf) = true := by decide +kernel

/-- The layouts of their own: a target that is no multiple of 4, an odd destination, `KEEP` without RGN, a pattern wider than its
count (05 R110, R112; 02 R35). -/
theorem smoke_layouts : [
    Instr.brLit 2, .brpLit 1 true 1, .callLit 3, .join (.v 9) 4, .joinLit (.v 9) 4, .joinExt (.v 9) true (.off 4),
    .joinExt (.v 8) false .keep, .pblk false 1 0 2].all (fun i => !i.wf) = true := by decide +kernel

/-- A row's own sub-operation (06 Table 6.2), and events of parts that do not exist (01 R7, R8). -/
theorem smoke_rows_and_events :
    [Instr.fenceRel (extOf .none .none .none .none .i32), .tlbiAll (extOf .none (.v 8) (.v 10) .none .i32), .ackTimeout 8,
      .wcapWindow 32].all (fun i => !i.wf) = true ∧ (Instr.ackTimeout 7).wf = true ∧ (Instr.wcapWindow 31).wf = true := by decide +kernel

/-! ### Words of the spec's own encodings -/

/-- Words that the entries of the control instructions give as encodings (18 to 22; 12 R259, 14, 16). -/
theorem words_of_control : [
    (32, 0x1434, Instr.brk 5),  -- BRK 5
    (32, 0x10010, Instr.call 64),  -- CALL, 64 words ahead
    (32, 0x80014, Instr.ret (baseOf .none (.k 6) .none)),  -- RET k6.d
    (32, 0x150028, Instr.sleep (baseOf .none (.v 5) .none)),  -- SLEEP v5
    (32, 0xc2c, Instr.trap 3)  -- TRAP 3
  ].all (fun e => decodeTableWord e.1 e.2.1 == some e.2.2) = true := by decide +kernel

/-- Words that the entries of the integer instructions give as encodings (18 to 22; 12 R259, 14, 16). -/
theorem words_of_integer : [
    (32, 0x59550a0, Instr.and (baseOf (.v 4) (.v 5) (.v 6))),  -- AND v4, v5, v6
    (32, 0x1550c8, Instr.brev (baseOf (.v 4) (.v 5) .none)),  -- BREV v4, v5
    (32, 0x1550c4, Instr.clz (baseOf (.v 4) (.v 5) .none)),  -- CLZ v4, v5
    (96, 0x88001408000000c6, Instr.clzExt (extOf (.v 8) (.v 10) .none .none .b64)),  -- CLZ.b64 v8, v10.d
    (32, 0x5955080, Instr.iadd (baseOf (.v 4) (.v 5) (.v 6))),  -- IADD v4, v5, v6
    (32, 0x5955090, Instr.imad (baseOf (.v 4) (.v 5) (.v 6))),  -- IMAD v4, v5, v6
    (96, 0x18301408000000e6, Instr.idivExt (extOf (.v 8) (.v 10) (.v 12) .none .n64)),  -- IDIV.n64 v8.d, v10.d, v12.d
    (32, 0x859508d4, Instr.icmp { baseOf (.pred 2 false) (.v 5) (.v 6) with xb := 2 }),  -- ICMP.lt p2, v5, v6
    (96, 0x300000008100408000040de, Instr.lea { extOf (.v 8) (.v 2) (.v 4) .none .n32 with aux := 3, x18 := 0x10 }),  -- LEA.n32 v8.d, v2.d, v4, 3, 0x10
    (32, 0x155100, Instr.mov (baseOf (.v 4) (.v 5) .none)),  -- MOV v4, v5
    (96, 0x12345678000c5101, Instr.mov { baseOf (.v 4) .lit .none with lit := some 0x12345678 }),  -- MOV v4, 0x1234_5678
    (96, 0x8800cc6400000102, Instr.movExt (extOf (.v 100) (.v 102) .none .none .b64)),  -- MOV.b64 v100.d, v102.d
    (96, 0x10000000000006105, Instr.movi { baseOf (.v 8) .none .none with lit := some 0x100000000 }),  -- MOVI v8.d, 0x1_0000_0000
    (32, 0xc20514, Instr.plog (baseOf (.pred 1 false) (.pred 2 false) (.pred 3 false))),  -- PLOG.and p1, p2, p3
    (32, 0x150910, Instr.pmov (baseOf (.pred 2 false) (.v 5) .none)),  -- PMOV p2, v5
    (32, 0x40025110, Instr.pmov { baseOf (.v 4) (.pred 2 false) .none with xb := 1 }),  -- PMOV v4, p2
    (32, 0x459550d8, Instr.sel { baseOf (.v 4) (.v 5) (.v 6) with xb := 1 }),  -- SEL v4, p1, v5, v6
    (96, 0xd88301408000000da, Instr.selExt (extOf (.v 8) (.v 10) (.v 12) (.pred 5 true) .b64)),  -- SEL.b64 v8.d, ~p5, v10.d, v12.d
    (32, 0xc6108, Instr.srd (baseOf (.v 8) (.sreg 12) .none)),  -- SRD v8.d, %clk
    (32, 0x24250c, Instr.swr (baseOf (.sreg 9) (.v 20) .none)),  -- SWR %meet, v20.d
    (32, 0x59550a8, Instr.xor (baseOf (.v 4) (.v 5) (.v 6)))  -- XOR v4, v5, v6
  ].all (fun e => decodeTableWord e.1 e.2.1 == some e.2.2) = true := by decide +kernel

/-- Words that the entries of the floating instructions give as encodings (18 to 22; 12 R259, 14, 16). -/
theorem words_of_floating : [
    (96, 0x48001408000001b6, Instr.cmprs (extOf (.v 8) (.v 10) .none .none .f16)),  -- CMPRS.val.f16 v8, v10.d
    (96, 0x800100048001208000001a2, Instr.cvt { extOf (.v 8) (.v 9) .none .none .f16 with aux := 8, rm := .rz }),  -- CVT.f16.f32.rz v8, v9
    (96, 0x58301408000001a6, Instr.cvtpk (extOf (.v 8) (.v 10) (.v 12) .none .e4m3)),  -- CVTPK.e4m3 v8, v10.d, v12.d
    (32, 0x5955120, Instr.fadd (baseOf (.v 4) (.v 5) (.v 6))),  -- FADD v4, v5, v6
    (32, 0x85950938, Instr.fcmp { baseOf (.pred 2 false) (.v 5) (.v 6) with xb := 2 }),  -- FCMP.lt p2, v5, v6
    (96, 0xb482812080000016a, Instr.fdot2 (extOf (.v 8) (.v 9) (.v 10) (.v 11) .f16)),  -- FDOT2.f16 v8, v9, v10, v11
    (32, 0x45955130, Instr.fmin { baseOf (.v 4) (.v 5) (.v 6) with xb := 1 }),  -- FMIN.num v4, v5, v6
    (96, 0x4830140800000172, Instr.fmxi (extOf (.v 8) (.v 10) (.v 12) .none .f16)),  -- FMXI.num.f16 v8.d, v10.d, v12.d
    (96, 0x58001208000001b2, Instr.hdmk (extOf (.v 8) (.v 9) .none .none .e4m3)),  -- HDMK.make.e4m3 v8, v9
    (96, 0x281208000001ae, Instr.qscl (extOf (.v 8) (.v 9) (.v 10) .none .i32)),  -- QSCL.enc v8, v9, v10
    (96, 0x58001408000001aa, Instr.unpk (extOf (.v 8) (.v 10) .none .none .e4m3))  -- UNPK.e4m3 v8.q, v10
  ].all (fun e => decodeTableWord e.1 e.2.1 == some e.2.2) = true := by decide +kernel

/-- Words that the entries of the lanes instructions give as encodings (18 to 22; 12 R259, 14, 16). -/
theorem words_of_lanes : [
    (32, 0x51d4, Instr.elect (baseOf (.v 4) .none .none)),  -- ELECT v4
    (96, 0x80001208000001d2, Instr.matchLanes (extOf (.v 8) (.v 9) .none .none .b32)),  -- MATCH.any.b32 v8, v9
    (96, 0x1208000001ca, Instr.redl (extOf (.v 8) (.v 9) .none .none .i32)),  -- REDL.add.i32 v8, v9
    (96, 0x1c000048001408000001ca, Instr.redl { extOf (.v 8) (.v 10) .none .none .f16 with md := 7 }),  -- REDL.fmxi.f16.num v8.d, v10.d
    (96, 0x1208000001ce, Instr.scanl (extOf (.v 8) (.v 9) .none .none .i32)),  -- SCANL.add.i32 v8, v9
    (32, 0xc59551c0, Instr.shfl { baseOf (.v 4) (.v 5) (.v 6) with xb := 3 }),  -- SHFL.xor v4, v5, v6
    (96, 0x88301408000001c2, Instr.shflExt (extOf (.v 8) (.v 10) (.v 12) .none .b64)),  -- SHFL.idx.b64 v8.d, v10.d, v12
    (32, 0x205c4, Instr.vote (baseOf (.pred 1 false) (.pred 2 false) .none)),  -- VOTE.any p1, p2
    (32, 0x800251c4, Instr.vote { baseOf (.v 4) (.pred 2 false) .none with xb := 2 })  -- VOTE.ballot v4, p2
  ].all (fun e => decodeTableWord e.1 e.2.1 == some e.2.2) = true := by decide +kernel

/-- Words that the entries of the memory instructions give as encodings (18 to 22; 12 R259, 14, 16). -/
theorem words_of_memory : [
    (96, 0x60010280408c00041f2, Instr.atom { extOf (.v 8) (.v 2) (.v 10) .none .i64 with x18 := 0x10, xb := 3, sc := .gn }),  -- ATOM.add.i64.gn.ar v8.d, [v2.d + 0x10], v10.d
    (96, 0x40008241808000041f6, Instr.atoml { extOf (.v 8) (.v 12) (.v 9) .none .n32 with x18 := 0x10, sc := .wg }),  -- ATOML.add.n32.wg v8, [v12 + 0x10], v9
    (96, 0x40000010216, Instr.discLine { extOf .none (.v 2) .none .none .i32 with x18 := 0x40 }),  -- DISC.line [v2.d + 0x40]
    (96, 0x400000000000000000216, Instr.discAll { extOf .none .none .none .none .i32 with md := 1 }),  -- DISC.all
    (96, 0x406000000000000000206, Instr.fenceRel { extOf .none .none .none .none .i32 with md := 1, sc := .gn }),  -- FENCE.rel.gn
    (96, 0x60008000408400101e2, Instr.ld { extOf (.v 8) (.v 2) .none .none .n32 with x18 := 0x40, xb := 1, sc := .gn }),  -- LD.n32.gn.acq v8, [v2.d + 0x40]
    (96, 0x8001c14000001ea, Instr.ldl (extOf (.v 20) (.v 14) .none .none .n32)),  -- LDL.n32 v20, [v14]
    (96, 0x4000000003a, Instr.mona (extOf .none (.v 2) .none .none .i32)),  -- MONA [v2.d]
    (96, 0x12080000003e, Instr.mwait (extOf (.v 8) (.v 9) .none .none .i32)),  -- MWAIT v8, v9
    (96, 0x40000020212, Instr.pref { extOf .none (.v 2) .none .none .i32 with x18 := 0x80 }),  -- PREF.l1 [v2.d + 0x80]
    (96, 0xa0010280408000001fa, Instr.satom { extOf (.v 8) (.v 2) (.v 10) .none .i64 with sc := .pk }),  -- SATOM.add.i64.pk v8.d, [v2.d], v10.d
    (96, 0xa0018280400000001fe, Instr.sst { extOf .none (.v 2) (.v 10) .none .n64 with sc := .pk }),  -- SST.n64.pk [v2.d], v10.d
    (96, 0xa001800040800000202, Instr.sld { extOf (.v 8) (.v 2) .none .none .n64 with sc := .pk }),  -- SLD.n64.pk v8.d, [v2.d]
    (96, 0x4000000081c000000021e, Instr.segb { extOf .none (.v 14) (.v 2) .none .i32 with md := 1 }),  -- SEGB.o [v14], [v2.d]
    (96, 0x1c0000000222, Instr.segu (extOf .none (.v 14) .none .none .i32)),  -- SEGU [v14]
    (96, 0x1c000000021a, Instr.wbr (extOf .none (.v 14) .none .none .i32)),  -- WBR [v14]
    (96, 0x8100400000101e6, Instr.st { extOf .none (.v 2) (.v 4) .none .n32 with x18 := 0x40 }),  -- ST.n32 [v2.d + 0x40], v4
    (96, 0x8101c00000001ee, Instr.stl (extOf .none (.v 14) (.v 4) .none .n32))  -- STL.n32 [v14], v4
  ].all (fun e => decodeTableWord e.1 e.2.1 == some e.2.2) = true := by decide +kernel

/-- Words that the entries of the copies instructions give as encodings (18 to 22; 12 R259, 14, 16). -/
theorem words_of_copies : [
    (96, 0xe003014000000026e, Instr.bari (extOf .none (.v 10) (.v 12) (.v 14) .i32)),  -- BARI [v10], v12.d, v14
    (96, 0x58141500000276, Instr.barw (extOf (.v 21) (.v 10) (.v 22) .none .i32)),  -- BARW v21, [v10], v22
    (96, 0x28a, Instr.cfenceDone (extOf .none .none .none .none .i32)),  -- CFENCE.done
    (96, 0x40000000000000000028a, Instr.cfenceRead { extOf .none .none .none .none .i32 with md := 1 }),  -- CFENCE.read
    (96, 0x10040000008286, Instr.gsub { extOf .none (.v 2) (.v 4) .none .i32 with x18 := 0x20 }),  -- GSUB [v2.d], v4, 0x200
    (96, 0x3418000000026a, Instr.kick (extOf .none (.v 12) (.v 13) .none .i32)),  -- KICK [v12], v13
    (96, 0x3c1c000000027e, Instr.lemp (extOf .none (.v 14) (.v 15) .none .i32)),  -- LEMP [v14], v15
    (96, 0x30100000000302, Instr.rsend (extOf .none (.v 8) (.v 12) .none .i32)),  -- RSEND v8.q, [v12.d]
    (96, 0x400000000000000000306, Instr.rflshWait { extOf .none .none .none .none .i32 with md := 1 }),  -- RFLSH.wait
    (96, 0xe003012080000030a, Instr.rpollOpen (extOf (.v 8) (.v 9) (.v 12) (.v 14) .i32)),  -- RPOLL.open v8, v9, [v12.d], v14
    (96, 0x40000000266, Instr.tcpy (extOf .none (.v 2) .none .none .i32)),  -- TCPY [v2.d]
    (96, 0x4000000001c0000000266, Instr.tcpy { extOf .none (.v 14) .none .none .i32 with md := 1 })  -- TCPY.sp [v14]
  ].all (fun e => decodeTableWord e.1 e.2.1 == some e.2.2) = true := by decide +kernel

/-- Words that the entries of the tiles instructions give as encodings (18 to 22; 12 R259, 14, 16). -/
theorem words_of_tiles : [
    (32, 0x2c4, Instr.opf),  -- OPF
    (96, 0x1808000002ca, Instr.ttsk (extOf (.v 8) (.v 12) .none .none .i32)),  -- TTSK v8, [v12]
    (96, 0x38808000002b6, Instr.aclm (extOf (.v 8) (.imm 4) .none .none .i32)),  -- ACLM v8, 4
    (96, 0x7101000000002ba, Instr.arel (extOf .none (.v 8) (.imm 4) .none .i32)),  -- AREL v8, 4
    (96, 0x6038000000002be, Instr.aini (extOf .none (.imm 0) .zero .none .i32)),  -- AINI.exact 0, zero
    (96, 0x46078014000002c2, Instr.ald (extOf (.v 20) (.imm 0) .lane .none .f32)),  -- ALD.f32 v20, 0, %lane
    (96, 0x100400000002d2, Instr.hndw (extOf .none (.v 2) (.v 4) .none .i32)),  -- HNDW [v2.d], v4
    (96, 0x1009000002ce, Instr.twait (extOf (.v 9) (.v 8) .none .none .i32))  -- TWAIT v9, v8
  ].all (fun e => decodeTableWord e.1 e.2.1 == some e.2.2) = true := by decide +kernel

/-- Words that the entries of the system instructions give as encodings (18 to 22; 12 R259, 14, 16). -/
theorem words_of_system : [
    (96, 0xa00002810000000024a, Instr.tlbiPage { extOf .none (.v 8) (.v 10) .none .i32 with sc := .pk }),  -- TLBI.page.pk v8.d, v10
    (96, 0x40000000000000000024e, Instr.xfenceInv { extOf .none .none .none .none .i32 with md := 1 }),  -- XFENCE.inv
    (96, 0x8828100000001732, Instr.dgst { extOf .none (.v 8) (.v 10) .none .b64 with x18 := 0x5 }),  -- DGST.b64 [v8.d], v10.d, 5
    (96, 0x2784080000032e, Instr.hcapCfg (extOf (.v 8) (.imm 2) (.v 9) .none .i32)),  -- HCAP.cfg v8, 2, v9
    (96, 0x2c140000000256, Instr.bver (extOf .none (.v 10) (.v 11) .none .i32)),  -- BVER v10, v11
    (96, 0x800000722, Instr.frec { extOf (.v 8) .none .none .none .i32 with x18 := 0x1 }),  -- FREC v8, 1
    (96, 0xa00000b22, Instr.frec { extOf (.v 10) .none .none .none .i32 with x18 := 0x2 }),  -- FREC v10.d, 2
    (96, 0x10040000000042, Instr.launch (extOf .none (.v 2) (.v 4) .none .i32)),  -- LAUNCH [v2.d], [v4.d]
    (96, 0x80003c0000000326, Instr.lfix (extOf .none (.v 30) .none .none .b32)),  -- LFIX v30
    (96, 0xc0028100000000252, Instr.migr (extOf .none (.v 8) (.v 10) (.v 12) .i32)),  -- MIGR v8.d, v10.d, v12
    (96, 0x80002072a, Instr.perfRead { extOf (.v 8) .none .none .none .i32 with x18 := 0x81 }),  -- PERF v8.d, 129
    (96, 0x40000000000000000032a, Instr.perfClr { extOf .none .none .none .none .i32 with md := 1 }),  -- PERF.clr
    (96, 0x140800002246, Instr.ptld { extOf (.v 8) (.v 10) .none .none .i32 with x18 := 0x8 }),  -- PTLD v8.d, [v10.d + 8]
    (96, 0x40800002800000000024a, Instr.tlbiAsid { extOf .none .none (.v 10) .none .i32 with md := 1, sc := .ch }),  -- TLBI.asid.ch v10
    (96, 0x80a00000000000000024a, Instr.tlbiAll { extOf .none .none .none .none .i32 with md := 2, sc := .pk })  -- TLBI.all.pk
  ].all (fun e => decodeTableWord e.1 e.2.1 == some e.2.2) = true := by decide +kernel
/-- 05, the worked example of an extended form: `FFMA.f16.rz v100, v101!, k3, -5`, and `IADD v4, v5, 0x1234_5678`; 02: `JOIN v20, meet`
16 words ahead; 05 R112: `PBLK p2, TTE`. -/
theorem words_of_layouts : [
    (96, 0x91FB4C0CCA640000012E,
      Instr.ffmaExt { extOf (.v 100) (.v 101) (.k 3) (.imm (-5)) .f16 with ea := true, rm := .rz }),
    (96, 0x1234567803155081, Instr.iadd { baseOf (.v 4) (.v 5) .lit with lit := some 0x12345678 }),
    (32, 0x00109018, .join (.v 20) 16),
    (32, 0x00480C20, .pblk false 2 2 3)
  ].all (fun e => decodeTableWord e.1 e.2.1 == some e.2.2) = true := by decide +kernel

/-- 06 Table 6.8: the words that are ILL. -/
theorem words_of_table_6_8 :
    [(32, 0x104), (32, 0x388), (32, 0x340), (32, 0x80000130), (96, 0x002C0000_00000000_000001F2),
      (96, 0x00200A00_40080408_000001FA)].all (fun e => (decodeTableWord e.1 e.2).isNone) = true := by decide +kernel

/-! ### Worked examples of the spec -/

/-- One thread with single words in its registers, about to issue at 0x10000. -/
def fed (rs : List (Nat × Nat)) : State :=
  let s := State.reset.placeWords []
  let x := Wave.placed 1 0 0 65536 0 0 1
  { s with waves := Table.put [] 2
             { x with threads := x.threads.map fun t => { t with v := rs.foldl (fun v e => putWords v e.1 1 e.2) t.v } }
           issuer := some 2, ilen := 4 }

/-- A register of lane 0 and `%fpflags` after an instruction. -/
def result (i : Instr) (rs : List (Nat × Nat)) (n : Nat) : Option (Word × Word) :=
  match exec i (fed rs) with
  | .next t => some ((t.lane 2 0).reg .v n, (t.lane 2 0).fpflags)
  | _ => none

/-- The value on its way to lane 0 after an instruction, and `%fpflags`. -/
def late (i : Instr) (rs : List (Nat × Nat)) : Option (List ByteSrc × Word) :=
  match exec i (fed rs) with
  | .next t => (t.wave? 2).bind fun x => x.loads.head?.bind fun e => e.2.lanes.head?.map fun l => (l.src, (t.lane 2 0).fpflags)
  | _ => none

/-- 19 R401: f32 0x3F80_1000 to `.f16` under RNE, RZ and RU; each raises NX (bit 4 of `%fpflags`). -/
theorem test_cvt : [(Rm.rne, (0x3C00 : Word)), (.rz, 0x3C00), (.ru, 0x3C01)].all (fun e =>
    result (.cvt { extOf (.v 8) (.v 9) .none .none .f16 with aux := 8, rm := e.1 }) [(9, 0x3F801000)] 8 == some (e.2, 16)) = true := by
  decide +kernel

/-- 20 R424: the head of 1,000.0 for E4M3. -/
theorem test_hdmk : result (.hdmk (extOf (.v 8) (.v 9) .none .none .e4m3)) [(9, 0x447A0000)] 8 = some (0x8111, 0) := by decide +kernel

/-- 21 R463: with that head, `.enc` of 1,000.0 is 0x78 with NX, and `.dec` of it 1,024.0. -/
theorem test_qscl :
    result (.qscl (extOf (.v 8) (.v 9) (.v 10) .none .i32)) [(9, 0x447A0000), (10, 0x8111)] 8 = some (0x78, 16) ∧
    result (.qscl { extOf (.v 8) (.v 9) (.v 10) .none .i32 with md := 1 }) [(9, 0x78), (10, 0x8111)] 8 = some (0x44800000, 0) := by
  decide +kernel

/-- 18 R386: a field of 8 bits at 5 of 0x1FE0. -/
theorem test_bfx :
    result (.bfx (extOf (.v 8) (.v 9) (.v 10) .none .n32)) [(9, 0x1FE0), (10, 0x0805)] 8 = some (0xFF, 0) ∧
    result (.bfx (extOf (.v 8) (.v 9) (.v 10) .none .i32)) [(9, 0x1FE0), (10, 0x0805)] 8 = some (0xFFFFFFFF, 0) := by decide +kernel

/-- 19 R397: −0, 1.0, −1.0 and a NaN. -/
theorem test_cmprs :
    result (.cmprs (extOf (.v 8) (.v 10) .none .none .f16)) [(10, 0x3C008000), (11, 0x7E00BC00)] 8 = some (0x7E003C00, 0) ∧
    result (.cmprs { extOf (.v 8) (.v 10) .none .none .f16 with md := 1 }) [(10, 0x3C008000), (11, 0x7E00BC00)] 8 = some (0xD, 0) := by
  decide +kernel

/-- 20 Table 20.2: sums, the high halves of products, the magnitude of the least number. -/
theorem test_integer_edges :
    result (.iaddExt (extOf (.v 8) (.v 9) (.v 10) .none .i8)) [(9, 100), (10, 100)] 8 = some (0xFFFFFFC8, 0) ∧
    result (.iaddsExt (extOf (.v 8) (.v 9) (.v 10) .none .i8)) [(9, 100), (10, 100)] 8 = some (0x7F, 0) ∧
    result (.iaddsExt (extOf (.v 8) (.v 9) (.v 10) .none .n32)) [(9, 0xFFFFFFF0), (10, 0x20)] 8 = some (0xFFFFFFFF, 0) ∧
    result (.imulhExt (extOf (.v 8) (.v 9) (.v 10) .none .n32)) [(9, 0xFFFFFFFF), (10, 0xFFFFFFFF)] 8 = some (0xFFFFFFFE, 0) ∧
    result (.imulh (baseOf (.v 8) (.v 9) (.v 10))) [(9, 0xFFFFFFFF), (10, 0xFFFFFFFF)] 8 = some (0, 0) ∧
    result (.iabs (baseOf (.v 8) (.v 9) .none)) [(9, 0x80000000)] 8 = some (0x80000000, 0) := by decide +kernel

/-- 20 Table 20.2: quotients and a remainder; division by 0 sets IDZ (bit 5). -/
theorem test_division :
    late (.idiv (baseOf (.v 8) (.v 9) (.v 10))) [(9, 0xFFFFFFF9), (10, 2)] = some ([.val 0xFD, .val 0xFF, .val 0xFF, .val 0xFF], 0) ∧
    late (.irem (baseOf (.v 8) (.v 9) (.v 10))) [(9, 0xFFFFFFF9), (10, 2)] = some ([.val 0xFF, .val 0xFF, .val 0xFF, .val 0xFF], 0) ∧
    late (.idiv (baseOf (.v 8) (.v 9) (.v 10))) [(9, 0x80000000), (10, 0xFFFFFFFF)] = some ([.val 0, .val 0, .val 0, .val 0x80], 0) ∧
    late (.idiv (baseOf (.v 8) (.v 9) (.v 10))) [(9, 5), (10, 0)] = some ([.val 0xFF, .val 0xFF, .val 0xFF, .val 0xFF], 32) := by
  decide +kernel

/-- 19 Table 19.5: one rounding against two. -/
theorem test_rounding :
    result (.ffmaExt (extOf (.v 8) (.v 1) (.v 1) (.v 2) .f16)) [(1, 0x3C03), (2, 0xBC00)] 8 = some (0x1E02, 16) ∧
    result (.fmulExt (extOf (.v 9) (.v 1) (.v 1) .none .f16)) [(1, 0x3C03)] 9 = some (0x3C06, 16) ∧
    result (.faddExt (extOf (.v 9) (.v 9) (.v 2) .none .f16)) [(9, 0x3C06), (2, 0xBC00)] 9 = some (0x1E00, 0) := by decide +kernel

/-- 02 Table 2.4: `BRP p1` at 0x1004 sends lanes 0 and 1 to 0x1020; lanes 2 and 3 go on, and the lowest program counter issues. -/
theorem test_brp :
    let s := State.reset.placeWords []
    let x := Wave.placed 1 0 0 0x1004 0 0 4
    let s := { s with waves := Table.put [] 2 { x with threads := x.threads.mapIdx fun l t => { t with p := if l < 2 then 2 else 0 } }
                      issuer := some 2, ilen := 4 }
    (match exec (.brp 1 false 7) s with
      | .next t => (t.wave? 2).map fun y => ((y.threads.take 4).map Thread.pc, y.issuePc, y.group)
      | _ => none) = some ([0x1020, 0x1020, 0x1008, 0x1008], some 0x1008, [2, 3]) := by decide +kernel

/-- 10 Table 10.3: on a sector that w7 (clock 11) wrote, w4 (clock 11) loses and w0 (clock 12) wins. -/
theorem test_sector_clocks : [(4, 11, (77 : BitVec 256), 7), (1, 12, 41, 1)].all (fun e =>
    let p : Packet :=
      { kind := 0, rank := e.1, view := 0, sclk := e.2.1, blk := 16, mask := 0, vec := (List.replicate 8 0).set e.1 1, sig := none
        tag := none, images := [(32, 41)], slot := 0, rq := 0, irank := 0, opc := 0, ty := .n64, old := 0, wraps := List.replicate 8 0
        arrived := 0, gen := 0 }
    let c := State.reset.chip 0
    let r := { c.repl with hold := [p], replica := [(32 * 32, 77)], tags := [(32, mkTag false 7 11)] }
    match exec (.packetApply 0) { State.reset with chips := Table.put [] 0 { c with repl := r } } with
      | .next t => (t.repl 0).image 32 == e.2.2.1 && (t.repl 0).hold == []
      | _ => false) = true := by decide +kernel

/-! ### States and operands for the witnesses -/

/-- One wave of `n` threads on core 0, changed by `f`, about to issue one word. -/
def waveState (n : Nat) (f : Wave → Wave) : State :=
  let s := State.reset.placeWords []
  { s with waves := Table.put [] 2 (f (Wave.placed 1 0 0 65536 0 0 n)), issuer := some 2, ilen := 4 }

/-- The instruction is well formed and nothing holds it back (`Ready`), and a further condition on who issues it. -/
def readyIn (i : Instr) (s : State) (p : Who → Bool) : Bool :=
  match s.who with
  | none => false
  | some k => i.wf && !k.x.resuming && decide (decodeFault s k i k.x.group k.x.active = none) &&
    (!i.form.collective || !k.x.anyParked) && !anySrcEmpty k.x i.form.uses k.x.active false
    && !anyDstEmpty k.x i.form.uses k.x.active &&
    (!i.form.memory || !k.x.loads.any fun e => e.2.acq.isSome) && decide (k.x.active ≠ []) && p k

/-- What `readyIn` says is `Ready`. -/
theorem ready_of {i s p} (h : readyIn i s p = true) : ∃ k, Ready i s k ∧ p k = true := by
  unfold readyIn at h
  split at h
  · cases h
  · rename_i k hk
    simp only [Bool.and_eq_true, Bool.or_eq_true, Bool.not_eq_true', decide_eq_true_eq] at h
    obtain ⟨⟨⟨⟨⟨⟨⟨⟨hw, h1⟩, h2⟩, h3⟩, h4⟩, h5⟩, h6⟩, h7⟩, hp⟩ := h
    refine ⟨k, ⟨hk, h1, h2, fun h => ?_, h4, h5, fun h => ?_, h7⟩, hp⟩
    · exact h3.resolve_left (by simp [h])
    · exact h6.resolve_left (by simp [h])

/-- No further condition. -/
def anyWho (_ : Who) : Bool := true

/-- Base operands v4, v5, v6. -/
def base456 := baseOf (.v 4) (.v 5) (.v 6)

/-- Extended operands v4, v6, v8. -/
def ext468 (ty : Ty) := extOf (.v 4) (.v 6) (.v 8) .none ty

/-- A wave of two threads. -/
def twoLanes : State := waveState 2 id

/-- A base form into a predicate. -/
def intoPred (d : Nat) := baseOf (.pred (BitVec.ofNat 3 d) false) (.v 5) (.v 6)

/-- An extended form of one source. -/
def unary (d a : Opd) (ty : Ty) : ExtArgs := extOf d a .none .none ty

/-- The gang changed. -/
def withGang (f : Gang → Gang) (s : State) : State :=
  { s with gangs := Table.put [] 0 (f (s.gangs.headD (0, Gang.forWords 1 3)).2) }

/-- The instructions of a list that something holds back. -/
def heldUp (is : List Instr) (s : State) (p : Who → Bool := fun _ => true) : List Nat :=
  (List.range is.length).filter fun n => !readyIn (is.getD n .nop) s p

/-- Base operands v4, v5. -/
def base45 := baseOf (.v 4) (.v 5) .none

/-- A translation of a homed page and one of a replicated page. -/
def tlbOf : List TlbEnt :=
  [{ asid := 0, group := 0, mask := 2, idx := 1, leaf := wordsLeaf, ea := 0 }, { asid := 0, group := 0, mask := 4, idx := 2, leaf := 0x1403F, ea := 0 }]

/-- Two lanes with `v0.d` in the homed page and `v2.d` in the replicated one. -/
def memState (f : Wave → Wave := id) : State :=
  let s := State.reset.placeWords []
  { s with waves := Table.put [] 2 (f (Wave.placed 1 0 0 65536 0x11000 0x21000 2)), issuer := some 2, ilen := 12
           clusters := Table.put [] 0 { s.cluster 0 with tlb := tlbOf } }

/-- Core 0 changed. -/
def onCore (f : Core → Core) (s : State) : State := { s with cores := Table.put s.cores 0 (f (s.core 0)) }

/-- The lanes' addresses translate, and a condition on where they lie. -/
def inSpans (f : ExtArgs) (s : State) (k : Who) (a : Access) (strong aligned : Bool) (n : Nat)
    (p : List (Nat × DWord × Span) → State → Bool) : Bool :=
  decide (s.inFlight = 0) && match spans k.xctx a strong aligned n (k.x.active.map fun l => (l, s.laneEa k f l)) s with
  | (.all ls, s1) => p ls s1
  | _ => false

/-- A release has nothing left to wait for, and a condition on the state. -/
def released (r : Bool × State) (p : State → Bool) : Bool := r.1 && p r.2

/-- `MWAIT v8, v9`. -/
def mwaitOps : ExtArgs := extOf (.v 8) (.v 9) .none .none .i32

/-- `MONA [v0.d]`. -/
def monaOps : ExtArgs := extOf .none (.v 0) .none .none .i32

/-- Every thread waits in `MWAIT` with a monitor fired. -/
def waiting (n : Nat) (x : Wave) : Wave :=
  { x with fired := true, monitor := [(512, 0x10000)],
           threads := x.threads.map fun t =>
           if t.absent then t else { t with st := .waiting, wait := some (.mwait (.v 8) n 12) } }

/-- A wave with a thread in `MWAIT` that no log follows. -/
def mwaitHolds (s : State) (p : Who → Bool) : Bool :=
  match s.whoOf 2 with
    | some k => !k.x.away && k.x.threads.any (fun u => (u.inMwait fun _ => true).isSome) && !recording k.g.mode
      && !replaying k.g.mode && p k
    | none => false

/-- `LAUNCH [v2.d], [v10.d]`. -/
def launchOps : ExtArgs := extOf .none (.v 2) (.v 10) .none .i32

/-- Records in the replicated page. -/
def launchState : State :=
  memState fun x => { x with threads := x.threads.map fun t => { t with v := putWords t.v 10 2 0x21200 } }

/-- `LD.n64 v8.d, [v0.d]`. -/
def ldOps : ExtArgs := extOf (.v 8) (.v 0) .none .none .n64

/-- `LDL.n64 v8.d, [v20]`. -/
def ldlOps : ExtArgs := extOf (.v 8) (.v 20) .none .none .n64

/-- Every scratchpad line of core 0 full. -/
def filled (s : State) := onCore (fun c => { c with lines := BitVec.allOnes 4096 }) s

/-- The state after an instruction. -/
def afterRun (i : Instr) (s : State) : State := match exec i s with | .next t => t | _ => s

/-- The wave issues again. -/
def issuing (s : State) : State := { s with issuer := some 2 }

/-- `ST.n64 [v0.d], v4.d` with order bits. -/
def stOps (n : BitVec 2) : ExtArgs := { extOf .none (.v 0) (.v 4) .none .n64 with xb := n }

/-- The write queue has room for entries of every lane. -/
def hasRoom (s1 : State) (k : Who) (ls : List (Nat × DWord × Span)) (n : Nat) : Bool := let c := s1.core k.wg.core
  decide (s1.orderFault k (goodSpans ls) = none ∧ c.heldOf k.w + n * k.x.active.length ≤ 16 ∧ c.entriesOf k.w + n * k.x.active.length ≤ 16 ∧ c.wq.length + n * k.x.active.length ≤ 96)

/-- `STL.n64 [v20], v4.d`. -/
def stlOps : ExtArgs := extOf .none (.v 20) (.v 4) .none .n64

/-- `ATOM.n32 v8, [v0.d], v4`. -/
def atomOps : ExtArgs := { extOf (.v 8) (.v 0) (.v 4) .none .n32 with sc := .gn }

/-- `ATOML.n32 v8, [v20], v4`. -/
def atomlOps : ExtArgs := { extOf (.v 8) (.v 20) (.v 4) .none .n32 with sc := .wg }

/-- One lane, its scratchpad full. -/
def oneLane : State :=
  onCore (fun c => { c with lines := BitVec.allOnes 4096 }) (memState fun x => { x with threads := (x.threads.take 1) })

/-- A write-queue entry that nothing holds up. -/
def entryFree (s : State) (id : Nat) (p : WqEntry → Bool) : Bool := match Table.look (s.core 0).wq id with
  | some e => !e.held && !(s.core 0).blockedBy id e && !e.repl && ((s.wave? e.wave).all fun x => !x.entryWaits e)
    && s.reaches 0 (e.block * 64) && s.canonical && s.numbered
    && (e.bytes.all fun b => decide (b.1 / 64 = e.block)) &&
     (s.stackLive (stackOf (e.block * 64)) && !s.evacuating e && e.granted
     && !((s.cluster (stackOf (e.block * 64))).hostHeld.contains e.block) && s.dirMayWrite (regionOf (e.block * 64)) (.write 0 id)
     && !s.tagFails (e.block * 64) e.buf) && p e
  | none => false

/-- Every entry of core 0 released and granted its lane. -/
def granted (s : State) : State :=
  onCore (fun c => { c with wq := c.wq.map fun e => (e.1, { e.2 with granted := true, held := false }) }) s

/-- A value is there, with a condition on it. -/
def onSome {α : Type} (o : Option α) (p : α → Bool) : Bool := o.elim false p

/-- `SATOM.n64 v8.d, [v2.d], v4.d`. -/
def satomOps : ExtArgs := { extOf (.v 8) (.v 2) (.v 4) .none .n64 with sc := .pk }

/-- A strong instruction's addresses are aligned and replicated, and its requests can be sent. -/
def strongOk (f : ExtArgs) (s s0 : State) (k : Who) (a : Access) (n : Nat) : Bool :=
  s0.strongReady k k.x.active.length && inSpans f s0 k a true false 1 fun ls s1 => decide (parksOf ls = [])
    && (ls.all fun e => decide (e.2.1.toNat % n = 0)) && decide (s1.orderFault k (goodSpans ls) = none)

/-- `SST.n64 [v2.d], v4.d`. -/
def sstOps : ExtArgs := { satomOps with d := .none }

/-- `SLD.n64 v8.d, [v2.d]`. -/
def sldOps : ExtArgs := { satomOps with b := .none }

/-- A fence of a mode and a scope. -/
def fenceOps (m : BitVec 6) (sc : Scope) : ExtArgs := { extOf .none .none .none .none .i32 with md := m, sc := sc }

/-- No operand. -/
def noOps : ExtArgs := extOf .none .none .none .none .i32

/-- `SEGB [v20], [v22.d]`. -/
def segbOps : ExtArgs := extOf .none (.v 20) (.v 22) .none .i32

/-- Segment 0 changed; v20 names it, `v22.d` an address to bind. -/
def winState (f : Seg → Seg) : State :=
  onCore (fun c => { c with segs := Table.put c.segs 0 (f Seg.free) }) (memState fun x =>
    { x with threads := x.threads.map fun t => { t with v := putWords (putWords t.v 20 1 0) 22 2 0x11000 } })

/-- A window instruction names segment 0. -/
def namesSeg (i : Instr) (f : ExtArgs) (s : State) (p : Who → State → Bool) : Bool :=
  readyIn i s fun k => let c0 := k.begun i s; (match c0.segNamed k f k.x.active with | .ok n => n = 0 | _ => false) && p k c0

/-- `SEGU [v20]`. -/
def seguOps : ExtArgs := extOf .none (.v 20) .none .none .i32

/-- `State.takesBack` of segment 0, as a Bool. -/
def takesBack0 (s : State) : Bool :=
  decide (s.cellsHeld (s.dirtyCells 0 0) = []) && ((s.dirtyCells 0 0).isEmpty || decide (s.markBack 0 0 = (true, s)))
    && (blocksOf (s.dirtyCells 0 0)).all fun b => !s.tagFails (64 * b) (s.seg 0 0).buf

/-- Segment 0 and its home can exchange messages (`State.near`). -/
def near0 (s : State) : Bool := s.reaches 0 (s.seg 0 0).pa

/-- Segment 0 as a window in a state. -/
def window (u0 : SegSt) (own : Bool) (n : Nat) : State :=
  winState fun g =>
    { g with st := u0, owned := own, filling := u0 = .t, linesLeft := n, va := 0x11000, pa := 0x11000, priv := true }

/-- Segment 0 bound, some of its bytes dirty. -/
def heldWindow (u0 : SegSt) : State := winState fun g => { g with st := u0, dirty := 5, va := 0x11000, pa := 0x11000, priv := true }

/-- The same, given up: its notice under way, and known at its home. -/
def dirtyNotice : State :=
  let s := winState fun g => { g with st := .t, notice := true, dirty := 5, va := 0x11000, pa := 0x11000, priv := true }
  { s with clusters := Table.put s.clusters 0 { s.cluster 0 with dir := [(regionOf 0x11000, { st := .own, sharers := [(0, 0)], asked := [], queue := [] })] } }

/-- A window that has gone. -/
def noticed (n : Bool) : State :=
  let s := winState fun g => { g with notice := n, pa := 0x11000 }
  { s with clusters := Table.put s.clusters 0 { s.cluster 0 with dir := [(regionOf 0x11000, { st := .shr, sharers := [], asked := [(0, 0)], queue := [] })] } }

/-- A value in `v20.d`. -/
def withV20 (n : Nat) : State :=
  memState fun x => { x with threads := x.threads.map fun t => { t with v := putWords t.v 20 2 n } }

/-- Every lane's address is a dword of the replicated segment. -/
def inTree (f : ExtArgs) (s : State) (k : Who) : Bool :=
  k.x.active.all fun l => decide ((s.laneEa k f l).toNat % 8 = 0 ∧ (s.laneEa k f l).toNat < s.replSize k.chip)

/-- Chip 0 changed. -/
def onChip (f : Chip → Chip) (s : State) : State := { s with chips := Table.put s.chips 0 (f (s.chip 0)) }

/-- The replication unit of chip 0 changed. -/
def onRepl (f : Repl → Repl) : State → State := onChip fun c => { c with repl := f c.repl }

/-- Dwords written to an empty or given memory. -/
def cells (l : List (Nat × Nat)) (m : Memory) : Memory := l.foldl (fun m e => Memory.writeLe m e.1 8 e.2) m

/-- A page table of three levels with one homed leaf. -/
def treeState : State :=
  onRepl (fun r =>
    { r with replica := cells [(reservedBase r.rsegsz + 0x80000, 0x100000), (0x100000, 0x110001), (0x110008, 0), (0x110000, 0x120001), (0x120008, wordsLeaf.toNat)] [] })
  { (memState fun x => { x with threads := (x.threads.take 1).map fun t => { t with v := putWords (putWords t.v 20 2 0x10000) 22 2 0x20000 } }) with
      mem := [] }

/-- Values in registers of every thread. -/
def withRegs (vs : List (Nat × Nat)) (x : Wave) : Wave :=
  { x with threads := x.threads.map fun t => { t with v := vs.foldl (fun v e => putWords v e.1 2 e.2) t.v } }

/-- Dwords in the scratchpad, its lines full. -/
def withPad (cs : List (Nat × Nat)) (s : State) : State :=
  onCore (fun c => { c with scratch := cells cs c.scratch, lines := BitVec.allOnes 4096 }) s

/-- An operand of the lowest active lane as a number. -/
def numOf (s : State) (k : Who) (f : ExtArgs) (o : Opd) : Nat := (k.src s (lane0 k.x.active) f.lit .n32 o).toNat

/-- Addresses and a length for `CPY`. -/
def copyState : State := memState (withRegs [(20, 0x100), (22, 0x100), (24, 65536)])

/-- `CPY` in a mode. -/
def cpyOps (m : BitVec 6) : ExtArgs :=
  { extOf .none (if m = 0 ∨ m = 3 then .v 20 else .v 0) (if m = 1 ∨ m = 3 then .v 22 else .v 0) (.v 24) .i32 with
      md := m, aux := 1 }

/-- 300 copies under way. -/
def fullCopies (s : State) : State :=
  onCore (fun c =>
    { c with copies := (List.range 300).map fun n => (n, { wave := 2, wg := 1, gang := 0, pieces := [{ sspace := 0, src := 0x10100, dspace := 1, dst := 0x200, rcv := [1], len := 128, idx := 0 }], seq := 0, pc := 0, bar := none, noEmpty := false, node := none, noToken := false, page := none, failed := none, port := none, size := 0, held := none, fill := false, slot := none, issued := 0, order := 0, sent := none, asid := 0, ptroot := 0, priv := true, lseq := 1, shared := false, rcv := [1], mcast := false, num := n, missed := [], seen := [], lane := none, granted := true }) }) s

/-- `TCPY` in a mode. -/
def tcpyOps (m : BitVec 6) : ExtArgs := { extOf .none (if m = 0 then .v 0 else .v 20) .none .none .i32 with md := m }

/-- A tensor descriptor of rank 1. -/
def descriptor (a : Nat) : List (Nat × Nat) :=
  [(a, 0x00000100), (a + 8, 0x10100), (a + 16, 0x200), (a + 24, 0xFFFFFFFF), (a + 0x68, 16), (a + 0xA0, 1), (a + 0x110, 1)]

/-- The descriptor in memory. -/
def tensorMem : State := { copyState with mem := cells (descriptor 0x11000) copyState.mem }

/-- The descriptor in the scratchpad. -/
def tensorPad : State := withPad (descriptor 0x100 ) (memState (withRegs [(20, 0x100)]))

/-- A descriptor without fault, not multicast, without barrier or mask. -/
def tensorOk (s2 : State) (k : Who) (bs : List Byte) : Bool := let field (o n : Nat) : Nat := natOfBytes bs / 2 ^ (8 * o) % 2 ^ n
  decide (s2.tensorFault k.x.wg (natOfBytes bs) = none ∧ field 0 8 < 4 ∧ field 3 4 = 0 ∧ field 0x18 32 = 2 ^ 32 - 1 ∧ field 0x20 64 = 0)

/-- `KICK [v20], v22`. -/
def kickOps : ExtArgs := extOf .none (.v 20) (.v 22) .none .i32

/-- 256 records. -/
def kickState : State := memState (withRegs [(20, 0x2000), (22, 256)])

/-- One copy of given pieces. -/
def oneCopy (ps : List Piece) : State :=
  onCore (fun c =>
    { c with copies := c.copies.take 1 |>.map fun e => (e.1, { e.2 with pieces := ps, bar := none }) }) (fullCopies memState)

/-- A piece of 128 bytes between spaces. -/
def piece (sstOps src ds dst : Nat) : Piece :=
  { sspace := sstOps, src := src, dspace := ds, dst := dst, rcv := if ds = 1 then [1] else [], len := 128, idx := 0 }

/-- A copy without page request, port, record in flight, barrier or slot. -/
def plainCopy (c : Copy) : Bool := decide (c.page = none ∧ c.port = none ∧ c.sent = none ∧ c.bar = none ∧ c.slot = none)

/-- A started `KICK` of one record. -/
def kickRecord : State :=
  withPad [(0x2000, 0x40 * 2^32), (0x2008, 0x11000), (0x2010, 0x300),
    (0x2018, 0xFFFFFFFF)] (issuing (afterRun (.kick kickOps) (memState (withRegs [(20, 0x2000), (22, 1)]))))

/-- `GSUB` of v22 nodes. -/
def gsubOps : ExtArgs := { extOf .none (.v 0) (.v 22) .none .i32 with aux := 1 }

/-- A node's first dword. -/
def nodeAt (a pc : Nat) : List (Nat × Nat) := [(a, 0 + pc * 2 ^ 32)]

/-- Two nodes in memory. -/
def graphRecords : State := { (memState (withRegs [(22, 2)])) with mem := cells (nodeAt 0x11000 0 ++ nodeAt 0x11040 1) [] }

/-- A node in a state. -/
def graphNode (u0 : Nat) (en : Bool) (a : Nat) : GNode :=
  { pa := some a, buf := 0, kind := 0, work := 0, st := u0, code := 0, succ := [], bad := false, ended := en }

/-- A graph of nodes on core 0. -/
def graphState (ns : List GNode) : State :=
  onCore (fun c =>
    { c with graphs := [(7, { wave := 2, wg := 1, gang := 0, nodes := ns, queue := [], bar := none, seq := 0, pc := 0, fault := none, order := 0, noToken := false, page := none, prog := 0, sig := 0 })] }) memState

/-- A barrier form on `[v20]`, v22. -/
def barOps (d c : Opd) : ExtArgs := extOf d (.v 20) (.v 22) c .i32

/-- A barrier word in the scratchpad. -/
def barState (w : Nat) (s : State := memState (withRegs [(20, 0x100), (22, 0)])) : State := withPad [(0x100, w)] s

/-- A barrier instruction names a word of a live segment. -/
def namesBar (i : Instr) (f : ExtArgs) (s : State) (w : Bool) (p : Nat × Nat → Who → Bool) : Bool :=
  readyIn i s fun k =>
    match s.barNamed k f k.x.active w with | .ok b => !s.lostSeg [b] && !s.inT [b] && s.canonical && p b k | _ => false

/-- `BART v8, [v20]`. -/
def bartOps := extOf (.v 8) (.v 20) .none .none .i32

/-- A range of `n` bytes at 0x100. -/
def lineState (n : Nat) : State := withPad [] (memState (withRegs [(20, 0x100), (22, n)]))

/-- Every lane's range is good. -/
def linesOk (i : Instr) (s : State) (p : List (Nat × Nat) → Bool) : Bool :=
  readyIn i s fun k => let ls := s.rangeLanes k (barOps .none .none) k.x.active false
    (ls.all fun e => e.bad.isNone) && (ls.all fun e => !s.lostSeg e.bytes) && !s.inT (ls.flatMap ScLane.bytes)
    && !s.padFirst k (ls.flatMap ScLane.bytes) && p (ls.flatMap ScLane.bytes)

/-- A second wave in the workgroup. -/
def twoWaves (s : State) : State :=
  { s with waves := Table.put s.waves 9 (Wave.placed 1 1 1 65536 0 0 2),
           wgs := Table.put s.wgs 1 { (s.wgs.headD (1, Workgroup.placed 0 0 0 [] 0 [] [] [])).2 with waves := [2, 9] } }

/-- An ordered gang; the token is at a position. -/
def orderedState (h : Nat) (p : Bool) : State :=
  let s := withGang (fun g => { g with ordered := true, trapv := 0x10000 }) (memState fun x => { x with tokPassed := p })
  { s with tokens := [(0, { pos := h, wg := 0, wave := 0, away := [] })] }

/-- The workgroup changed. -/
def withWg (f : Workgroup → Workgroup) (s : State) : State :=
  { s with wgs := Table.put s.wgs 1 (f (s.wgs.headD (1, Workgroup.placed 0 0 0 [] 0 [] [] [])).2) }

/-- Slots claimed, and values in v20 and v22. -/
def slotState (oc ac : List Nat) (a b : Nat) : State :=
  withWg (fun x => { x with oslots := [0, 1, 2, 3], aslots := [0, 1], oclaim := oc, aclaim := ac }) (memState (withRegs [(20, a),
    (22, b), (24, 0x11000), (26, 0x12000)]))

/-- `OCLM v8, v20`. -/
def claimOps := extOf (.v 8) (.v 20) .none .none .i32

/-- `OREL v20, v22`. -/
def relOps := extOf .none (.v 20) (.v 22) .none .i32

/-- `OFILL` in a mode. -/
def ofillOps (m : BitVec 6) (z : Bool) : ExtArgs :=
  { extOf .none (.v 22) (.v 24) (if z then .zero else .v 26) .i32 with md := m, x18 := if z then 7 else 0 }

/-- A fill of a claimed slot with room for the copy, in a ring or in none. -/
def fillOk (i : Instr) (f : ExtArgs) (p : Who → Bool) (rs : List Stream := []) : Bool :=
  let s := slotState [3] [] 0 3
  let s : State := { s with clusters := Table.put s.clusters 0 { s.cluster 0 with streams := rs } }
  readyIn i s fun k => k.wg.oslot (numOf s k f f.a) = some 3 && s.copyRoom 0 && p k
    && ((s.cluster 0).streams.any fun r => r.wg = k.x.wg && r.busy (numOf s k f f.a)) == !rs.isEmpty

/-- A stream operation. -/
def streamOps (m : BitVec 6) : ExtArgs := { extOf (.v 8) (.v 20) (if m = 2 then .none else .v 22) .none .i32 with md := m }

/-- A stream of two slots with one post. -/
def stream (wg : Nat) (cl : Bool) (us : List Subscriber) : Stream :=
  { name := 5, wg := wg, first := 0, len := 2, posted := 1, closed := cl, subs := us }

/-- A ring of slot 3, its post not consumed. -/
def busyRing : Stream := { name := 5, wg := 1, first := 3, len := 1, posted := 1, closed := false, subs := [{ id := 0, wg := 1, handle := 0, reserved := 0, consumed := 0, later := [] }] }

/-- Streams of the cluster, and a stream's name in v20. -/
def streamState (vs : List Stream) (n : Nat) (a : Nat := 5) : State :=
  let s := slotState [0, 1] [] a n
  { s with clusters := Table.put s.clusters 0 { s.cluster 0 with streams := vs } }

/-- A subscription. -/
def subscriber (c h : Nat) : Subscriber := { id := 0, wg := 1, handle := h, reserved := c, consumed := c, later := [] }

/-- Accumulator slot 1 in a mode. -/
def accState (m : Option AccMode) : State :=
  let s := slotState [] [0, 1] 1 0
  { s with clusters := Table.put s.clusters 0 { s.cluster 0 with aslots := [(1, { mode := m, base := 0, elems := [], mask := 0, nx := false, nv := false })] } }

/-- `AINI` of a type. -/
def accOps (m : BitVec 6) (ty : Ty) : ExtArgs := { extOf .none (.v 20) (.v 22) .none ty with md := m }

/-- A task record. -/
def taskDwords (join kt : Nat) : List (Nat × Nat) := [(0x100, kt * 2 ^ 32 + join * 2 ^ 24), (0x108, 1 * 2 ^ 32)]

/-- A task record in the scratchpad and tasks of the cluster. -/
def taskState (join : Nat) (ts : Table Task) (oc : List Nat := [0, 1]) : State :=
  let s := withPad (taskDwords join 1) (slotState oc [0] 0x100 0)
  { s with clusters := Table.put s.clusters 0 { s.cluster 0 with tasks := ts } }

/-- The same record as read. -/
def taskRecord (kt : Nat) : BitVec 512 := BitVec.ofNat 512 (kt * 2 ^ 32 + 2 * 2 ^ 24 + 2 ^ 96)

/-- A task in a state. -/
def task (u0 : TaskSt) (left : Nat) : Task :=
  { wg := 1, gang := 0, core := 0, off := 0x100, record := taskRecord 1, left := left, pc := 0, seq := 0, wave := 2, st := u0,
    step := 0, partDone := false, order := 0, bad := false, detail := 0, aSub := none, aBase := 0, bSub := none, bBase := 0,
    undef := [], page := none, node := none, accepted := 0 }

/-- `TTSK` by a gang that no log follows. -/
def taskReady (s : State) (p : Who → List (Nat × Nat) → Bool) : Bool :=
  readyIn (.ttsk claimOps) s fun k => !recording k.g.mode && !replaying k.g.mode
    && onSome (s.scratchBytes k.g k.wg 0x100 64) (p k)

/-- A hand operation at `[v0.d]`. -/
def handOps : ExtArgs := extOf .none (.v 0) (.v 22) .none .i32

/-- A task accepted. -/
def acceptedTask : State := taskState 2 [(5, task .accepted 0)]

/-- An operand slot of 64 heads. -/
def operandSlot (hd : Half) : OSlot := { data := [], heads := (List.range 64).map fun n => (n, hd) }

/-- A running task of `kt` steps. -/
def runningTask (m : AccMode) (hd : Half) (kt : Nat) : State :=
  let s := taskState 2 [(5, { task .running 0 with record := taskRecord kt })]
  { s with clusters := Table.put s.clusters 0 { s.cluster 0 with oslots := (List.range 8).map fun n => (n, operandSlot hd), aslots := [(0, { mode := some m, base := 0, elems := [], mask := 0, nx := false, nv := false })] } }

/-- A tile read from a slot. -/
def tileOf (s : State) (n p : Nat) : Tile :=
  { slot := n, data := (Table.at (s.cluster 0).oslots p OSlot.empty).data,
    heads := (Table.at (s.cluster 0).oslots p OSlot.empty).heads }

/-- A packet of a kind, a rank, a view and a number. -/
def packet (kind rank view : Nat) (v : Nat) : Packet :=
  { kind, rank, view, sclk := 2 ^ 22, blk := 16, mask := 0, vec := [0,v,0,0,0,0,0,0], sig := none, tag := none,
    images := if kind = 2 then [] else [(32, 7)], slot := 0, rq := 0, irank := 0, opc := 0, ty := .n64, old := 3,
    wraps := List.replicate 8 0, arrived := 0, gen := 0 }

/-- A message at the head of a link. -/
def onLink (m : Msg) (s : State := State.reset) (a : Nat := 1) (b : Nat := 0) : State := { s with links := [(linkKey a b, [m])] }

/-- A request of a rank. -/
def request (rank rq opc : Nat) : Req :=
  { rank, rq, vec := List.replicate 8 0, opc, ty := .n64, ord := 0, sc := 5, off := 0x400, opa := 5, opb := 6, sig := none, tag := none }

/-- `.f16` operands v4, v5, v6. -/
def half456 : ExtArgs := extOf (.v 4) (.v 5) (.v 6) .none .f16

/-- `.f16` operands v4, v5. -/
def half45 : ExtArgs := extOf (.v 4) (.v 5) .none .none .f16

/-- `.f32` operands v4, v5. -/
def float45 : ExtArgs := extOf (.v 4) (.v 5) .none .none .f32

/-- `.f32` operands v4, v5, v6. -/
def float456 : ExtArgs := extOf (.v 4) (.v 5) (.v 6) .none .f32

/-- `PTST [v20.d], v4.d`. -/
def ptstOps : ExtArgs := { extOf .none (.v 20) (.v 4) .none .i32 with sc := .th }

/-- `PTLD v8.d, [v20.d]`. -/
def ptldOps : ExtArgs := extOf (.v 8) (.v 20) .none .none .i32

/-- `TLBI` in a mode and scope. -/
def tlbiOps (m : BitVec 6) (sc : Scope) : ExtArgs :=
  { extOf .none (if m = 0 then .v 20 else .none) (if m = 2 then .none else .v 22) .none .i32 with md := m, sc := sc }

/-- `MIGR` with flags. -/
def migrOps (x : BitVec 8) : ExtArgs := { extOf .none (.v 20) (.v 22) (.v 24) .i32 with aux := x }

/-- 0 for a page that moved. -/
def isMoved : MigrOut → Nat | .moved _ => 0 | .refused c => 1000 + c.toNat | .waits _ m => 2000 + m.phase | .abandoned _ => 3000

/-- `RSEND v20.q, [v0.d]`. -/
def rsendOps : ExtArgs := extOf .none (.v 20) (.v 0) .none .i32

/-- A routing header in `v20.q`. -/
def tokenState : State := memState (withRegs [(20, 5 * 64 + 3 + 16 * 2 ^ 32), (22, 0)])

/-- `RPOLL` in a mode. -/
def rpollOps (m : BitVec 6) : ExtArgs :=
  { extOf (.v 8) (if 4 ≤ m.toNat then .none else .v 20) (if m = 0 then .v 0 else if m = 2 then .v 22 else .none) (if m = 0 then .v 24 else .none) .i32 with
      md := m }

/-- An inbox of four slots. -/
def inboxOf (wg l fr : Nat) : Inbox :=
  { wg := wg, asid := 0, ptroot := 0, priv := true, base := 0x11000, slots := 4, slotsz := 1, landed := BitVec.ofNat 32 l,
    freed := BitVec.ofNat 32 fr }

/-- Inbox 3 of chip 0, and v20, v22, `v24.d`. -/
def inboxState (i : Option Inbox) (m : Nat) : State :=
  onChip (fun c => { c with inboxes := (i.map fun i => [(3, i)]).getD [] }) (memState (withRegs [(20, 3), (22, m), (24, 3)]))

/-- A routing token for inbox 3. -/
def tokenOf (alt : Bool) (second : Bool) : Tok :=
  { header := 3 + 16 * 2 ^ 32 + if alt then 2 ^ 18 + 2 ^ 15 else 0, va := 0x11000, payload := List.replicate 16 0, wave := 2,
    gang := 0, seq := 0, lane := 0, pc := 0, born := 0, src := 0, second := second, asid := 0, ptroot := 0, priv := true,
    lseq := 1, page := none }

/-- One token in a send list. -/
def sendState : State := onCore (fun c => { c with sends := [(0, [tokenOf false false])] }) memState

/-- One token at the chip of its inbox. -/
def arrivedState (i : Option Inbox) (t : Tok) : State :=
  onChip (fun c => { c with inboxes := (i.map fun i => [(3, i)]).getD [], tokens := [t] }) memState

/-- Every lane holds a record. -/
def parkedRecords : State :=
  memState fun x =>
    { x with threads := x.threads.map fun t => { t with lane := some { cause := 6, pc := 0x10000, addr := 5, dest := 9, len := 4 } } }

/-- `HCAP` in a mode. -/
def hcapOps (m : BitVec 6) : ExtArgs :=
  { extOf (if m = 2 then .none else .v 8) (.v 20) (if m = 2 then .none else .v 22) .none .i32 with md := m }

/-- Values in v20 and v22. -/
def hcapState (a b : Nat) : State := memState (withRegs [(20, a), (22, b)])

/-- `DGST [v0.d]`. -/
def dgstOps : ExtArgs := { extOf .none (.v 0) (.v 6) .none .b64 with x18 := 7 }

/-- A pending event of class A. -/
def pendingTrap : PendA := { cause := 0x11, pc := none, addr := 5, lseq := none, dest := 0x180 }

/-- A handler that has run 65,536 instructions. -/
def handlerLate : State := waveState 2 fun x => { x with handler := some .trap, handlerCount := 65536 }

/-- A wave whose store has waited as long as its region allows. -/
def stalledState : State :=
  onRepl (fun r => { r with replica := cells [(0x10040, 7)] [] }) (withGang (fun g =>
    { g with trapv := 0x10000, mode := 0x30, rcb := 0x10000 }) (waveState 2 fun x => { x with stall := 7 }))

/-- A page request. -/
def pageWait : PageWait := { asid := 0, vpn := 3, kind := 0, pc := 0, va := 0x30000, clu := 0, seq := 0, dest := 0x180, refused := false }

/-- A page ring with one open request. -/
def ringState : State :=
  onChip (fun c =>
    { c with ring := { c.ring with base := 0x30000, len := 16, tail := 1, unread := 1, open' := [(0, pageWait)] } }) (waveState 2 fun x =>
    { x with page := some pageWait })

/-- A packet in the hold store. -/
def holdState (p : Packet) : State := onRepl (fun r => { r with hold := [p], outstanding := [(0, .host)] }) State.reset

/-- A lane that waits for a grant which is in the hold store. -/
def strongWait : State :=
  onRepl (fun r =>
    { r with hold := [{ packet 1 1 0 1 with rq := 4 }], outstanding := [(4, .lane 2 3 0 4)] }) (waveState 2 fun x =>
    { x with strong := some { reqs := [4], load := some 3, started := 0, epoch := 0, vpns := [] } })

/-- A request at the Col. -/
def colState (opc : Nat) : State :=
  onRepl (fun r => { r with pending := [{ request 1 0 opc with opa := 9 }], replica := cells [(0x400, 9)] [] }) State.reset

/-- A count at its limit, after `w` wraps. -/
def wrapState (w : Nat) : State :=
  onRepl (fun r =>
    { r with own := 0xFFF00, acked := List.replicate 8 [0xFFF00,0,0,0,0,0,0,0], applied := [0xFFF00,0,0,0,0,0,0,0],
             wrapsApplied := [w,0,0,0,0,0,0,0], wrapacks := (List.range 8).map fun m => (8 * m, w),
             wrapackSeen := List.range 8}) State.reset

/-- A link with a message, and whether it has been resent. -/
def crcState (b : Bool) : State := { onLink (.ack []) with linkResent := if b then [linkKey 1 0] else [] }

/-- A packet that no chip has acknowledged for five clocks. -/
def unacked (n : Nat) : State :=
  onRepl (fun r => { r with retained := [{ packet 0 0 0 1 with arrived := 0 }], acklim := 5 }) (onChip (fun c =>
    { c with clk := n }) State.reset)

/-- Packets held. -/
def laggedState (n : Nat) (k : Nat) : State :=
  onRepl (fun r =>
    { r with hold := List.replicate n { packet 0 1 0 9 with arrived := 0 }, lagmax := 1, holdmax := 5 }) (onChip (fun c =>
    { c with clk := k }) State.reset)

/-- The eight ranks. -/
def allChipsOf : List Nat := List.range 8

/-- Chip 1 has every proposal but one. -/
def lastProposal : State :=
  onLink (.propose [] 1 [0,
    1]) { State.reset with chips := Table.put State.reset.chips 1 { State.reset.chip 1 with repl := { (State.reset.repl 1) with vst := .propose, proposedView := 1, proposals := [(1, [0, 1])], hold := [packet 0 2 0 9], recent := [packet 0 0 0 1] } } } 0 1

/-- What a member reports. -/
def stateReport (n : Nat) : StateRep :=
  { slots := n, vec := List.replicate 8 0, wraps := List.replicate 8 0, held := if n = 0 then [] else [packet 1 2 0 1] }

/-- Chip 0 in EXCHANGE. -/
def exchanging (n : Nat) (own : Bool) (g : List Nat := [0, 1]) : State :=
  onLink (.state (stateReport n)) (onRepl (fun r =>
    { r with vst := .exchange, proposedView := 1, agreed := g, states := if own then [(0, stateReport 0)] else [] }) State.reset)

/-- An INSTALL of view 1. -/
def installOf : Install := { view := 1, members := [0, 1], col := 0, first := 256, kept := [], held := [], joined := [] }

/-- Chip 0 receives it. -/
def installing (v : ViewSt) (ms : List Nat) : State :=
  onLink (.install [] { installOf with members := ms }) (onRepl (fun r =>
    { r with vst := v, proposedView := 1, agreed := ms, applied := List.replicate 8 3, pending := [request 1 0 0, request 5 0 0],
             wrapsApplied := List.replicate 8 0 }) (withGang id (waveState 2 id)))

/-- Chip 0 in PROPOSE. -/
def proposing (n : Nat) : State :=
  onRepl (fun r =>
    { r with vst := .propose, proposedView := 1, acklim := 5, phaseClock := n, proposals := [(0, allChipsOf), (2, allChipsOf)] }) State.reset

/-- Chip 0 in OUT. -/
def outState : State := onRepl (fun r => { r with vst := .out, out := true }) State.reset

/-- A JOIN from a chip that is no member. -/
def joinState : State := onLink (.join []) (onRepl (fun r => { r with members := [0] }) State.reset)

/-- A LISTEN reaches a listener. -/
def listenState : State := onLink (.listen 0 (List.replicate 8 0)) (onRepl (fun r => { r with vst := .listener }) State.reset)

/-- A listener with every LISTEN. -/
def donorState (n : Nat) : State :=
  onRepl (fun r =>
    { r with vst := .listener, members := [1], listenS0 := [(1, n, List.replicate 8 0)] }) { State.reset with
        chips := Table.put State.reset.chips 1 { State.reset.chip 1 with
            repl := { (State.reset.repl 1) with members := [1], replica := [(5, 9)] } } }

/-- A listener with its copy. -/
def copiedState : State :=
  onRepl (fun r =>
    { r with vst := .listener, donorDone := true, members := [1] }) { State.reset with
        chips := Table.put State.reset.chips 1 { State.reset.chip 1 with
            repl := { (State.reset.repl 1) with members := [1], listeners := [0] } } }

/-- A root RCB. -/
def rcbCells : List (Nat × Nat) :=
  [(0x1018, 0x2000), (0x1030, 0x8040 * 2 ^ 16 + 512 + 128 * 2^32), (0x1030, 512 + 64 * 2 ^ 16 + 128 * 2 ^ 32),
    (0x1038, 3072 + 256 * 2 ^ 16), (0x1048, 0x10), (0x1050, 0x10000)]

/-- A launch record. -/
def launchCells : List (Nat × Nat) :=
  [(0x2008, 0x10000), (0x2020, 2 + 32 * 2 ^ 32 + 31 * 2 ^ 56), (0x2028, 4 + 4 * 2 ^ 16 + 1 * 2 ^ 32)]

/-- Every chip changed. -/
def everyChip (f : Chip → Chip) (s : State) : State := { s with chips := (List.range 8).map fun c => (c, f (s.chip c)) }

/-- Every replication unit changed. -/
def everyRepl (f : Repl → Repl) : State → State := everyChip fun c => { c with repl := f c.repl }

/-- The tree of one region with one launch. -/
def launchTree : State :=
  let m := cells (rcbCells ++ launchCells) []
  everyRepl (fun r => { r with replica := m }) (everyChip (fun c =>
    { c with sys := { c.sys with rootrcb := 0x1000 } }) State.reset)

/-- What Campion claims: region, record, quad and cores. -/
def claimed (s : State) (chip : Nat) : Option (Nat × Nat × Nat × List Nat) :=
  if ((s.chip chip).sys.rootrcb = 0 && (s.chip chip).regions = []) || (s.repl chip).out || !(s.chip chip).powered
    || (s.chip chip).draining || !s.strongOpen chip then none else
    let u := (((((s.regions chip).foldl (fun s r =>
      (s.numberList chip r).2) s).regionStates chip).replayChecks chip).refreshTimes chip).drainBack chip
    match walkTree walkFuel u chip (u.chip chip).sys.rootrcb with
    | none => none
    | some (rcb, _) => match u.work chip rcb with
      | some (.claim rec) => let q := u.launchRec chip rec
        let n := (u.recOp chip (rec + 0x40) 0 .n64 1 0).1
        if n ≠ q.nextg || q.ngang ≤ n || u.isOrdered chip rcb rec || recording (u.effMode chip rcb) || replaying (u.effMode chip rcb) then none else
        (u.firstFit chip (q.need rcb ((u.effMode chip rcb).getLsbD 1) none) (u.quadsInTurn chip)).map fun e =>
        (rcb, rec, e.1, e.2)
      | _ => none

/-- A routing token. -/
def plainToken : Tok :=
  { header := 3 + 16 * 2 ^ 32, va := 0x11000, payload := List.replicate 16 0, wave := 2, gang := 0, seq := 0, lane := 0, pc := 0,
    born := 0, src := 0, second := false, asid := 0, ptroot := 0, priv := true, lseq := 1, page := none }

/-- A gang of a launch. -/
def launchGang : State := withGang (fun g => { g with launch := 0x2000, endsLaunch := false }) twoLanes

/-- A bitmap of the save area with its first two units taken. -/
def withMarks (s : State) : State := { s with mem := Memory.write s.mem 0x11000 3 }

/-- A gang that saves or restores, its two units marked in the bitmap. -/
def savingState (u0 : GangSt) (sv : SaveSt) (ls : Table Load) : State :=
  withMarks <| withGang (fun g =>
    { g with st := u0, trapv := 0x10000, csave := 0x11000, cslen := 65536, saveBase := 0x11000,
             runs := if u0 = .restoring then [] else [(2, 0, 2)] }) (memState fun x => { x with save := sv, loads := ls })

/-- A load under way. -/
def oneLoad : Load :=
  { kind := .bytes, d := .v 8, fmt := { width := 4, bytes := 4, signed := false }, lanes := [], acq := none, pc := 0, seq := 0,
    issued := 0, order := 0, epoch := 0, got := 0, bad := none }

/-- A gang whose waves wait. -/
def swapState (n : Nat) : State :=
  withWg (fun x => { x with waitClocks := n, segMap := [0], oslots := [], aslots := [] }) (onRepl (fun r =>
    { r with replica := cells [(0x1040, 7 * 2 ^ 32)] [] }) (withGang (fun g =>
    { g with rcb := 0x1000, csave := 0x11000, cslen := 2 ^ 27 }) (memState fun x =>
    { x with blocked := some .tokw, threads := x.threads.map fun t => t })))

/-- All that a gang holds. -/
def everything (s : State) (k : Gang) : List Evict :=
  k.wgs.filterMap fun id => (s.wg? id).map fun x =>
    { wg := id, waves := x.waves, segs := x.segMap.length, osl := x.oslots.length, asl := x.aslots.length }

/-- Every thread Exited. -/
def exitedState (u0 : GangSt) (ex : Bool) : State :=
  withGang (fun g => { g with st := u0 }) (withWg (fun x => { x with exiting := ex }) (memState fun x =>
    { x with threads := x.threads.map fun t => { t with st := .exited } }))

/-- A gang without workgroups. -/
def endedGang (u0 : GangSt) : State :=
  { withGang (fun g => { g with st := u0, launch := 0x2000 }) (exitedState u0 true) with wgs := [] }

/-- A launch that has ended, with its DONE address. -/
def doneState (d : Nat) : State :=
  let m := cells [(0x2018, d), (0x2038, 3 * 2 ^ 32)] []
  everyRepl (fun r => { r with replica := m }) (onChip (fun c => { c with ended := [0x2000] }) State.reset)

/-- A store that waits for its lane, under a WCAP. -/
def laneQueue (f : State → State := id) (n : Nat := 0) : State :=
  onCore (fun c =>
    { c with wq := c.wq.map fun e => (e.1, { e.2 with held := false, granted := false }) }) (f (afterRun (.st (stOps 0)) (onRepl (fun r =>
    { r with replica := cells [(0x1038, n * 2 ^ 44)] [] }) (withGang (fun g => { g with rcb := 0x1000 }) memState))))

/-- The WCAP is used up. -/
def capReached : State :=
  laneQueue (fun s => { s with clusters := Table.put s.clusters 0 { s.cluster 0 with wcap := [(0x1000, 5)] } }) 5

/-- The first host line. -/
def hostLine0 : Nat := 2 ^ 41

/-- Copies of it in two chips. -/
def hostCopies (a b : Option HostSt) : State :=
  let put (c : Nat) (v : Option HostSt) (s : State) : State := { s with
      chips := Table.put s.chips c { s.chip c with hostLines := (v.map fun v => [(hostLine0, v)]).getD [] } }
  put 0 a (put 2 b memState)

/-- Sixteen other lines of the same set, in the host-line cache that chip 0 uses, which directs them. -/
def fullSet : State :=
  onChip (fun c => { c with hostLines := (List.range 16).map fun n => (hostLine0 + hostSets * 16 * (n + 1), .e) }) memState

/-- The last block of a stack that software uses. -/
def lastBlock : Nat := (2 ^ 30 * 30) / 64 - 1

/-- The first HDM block of the replica. -/
def replBlock0 : Nat := 2 ^ 35

/-- 64 bytes. -/
def blockBytes : List Byte := (List.range 64).map fun n => BitVec.ofNat 8 (n + 1)

/-- A directory entry for the block's region. -/
def recalled (b : Nat) (e : Dir) : State :=
  { memState with clusters := Table.put memState.clusters 0 { memState.cluster 0 with dir := [(regionOf (b * 64), e)] } }

/-- A directory entry. -/
def dirEntry (a : List (Nat × Nat)) (q : List DirWait) : Dir := { st := .shr, sharers := [], asked := a, queue := q }

/-- A block that the host was asked for. -/
def askedBlock : State :=
  { laneQueue with clusters := Table.put laneQueue.clusters 0 { laneQueue.cluster 0 with biWait := [1088], hostHeld := [1088, 4], hostOwned := [1088] } }

/-- The same of a block of the replica. -/
def askedRepl : State := onRepl (fun r => { r with biWait := [3], hostHeld := [3] }) memState

/-- No region of the module is active. -/
def noneActive (s : State) : Bool := (s.repl s.lowRank).members.all fun c => (s.regions c).all fun r => s.regionState c r ≠ 1

/-- An active region. -/
def activeRegion : State :=
  onChip (fun c => { c with sys := { c.sys with rootrcb := 0x1000 }}) (onRepl (fun r =>
    { r with replica := cells [(0x1088, 1)] [] }) State.reset)

/-- The registers of chip 0 changed. -/
def onSys (f : SysRegs → SysRegs) (s : State := State.reset) : State := onChip (fun c => { c with sys := f c.sys }) s

/-- A mailbox request at no aligned address. -/
def badMailbox : State := onSys fun y => { y with hsaddr := 4, hsctl := 10 }

/-- A strong load in the mailbox. -/
def goodMailbox : State := onSys fun y => { y with hsaddr := 8, hsctl := 10 }

/-- A resident gang. -/
def gangState : State := withGang id (waveState 2 id)

/-- A chip that drains, longer than its limit. -/
def drained (m : Nat) (s : State) : State :=
  { s with chips := Table.put s.chips m { s.chip m with draining := true, drainClock := 0x100001 } }

/-- The chips that drain. -/
def goingChips (s : State) (c : Nat) : List Nat := (s.repl c).members.filter fun m => (s.chip m).draining && !(s.repl m).out

/-- A chip that drains with a gang on it. -/
def undrained : State := drained 0 gangState

/-- The words stand at the program counter (`State.Text`). -/
def textAt (s : State) (k : Who) (pc : DWord) (ws : List Word) : Bool :=
  ws.zipIdx.all fun e => match s.translate k.xctx .fetch false (pc + BitVec.ofNat 64 (4 * e.2)) with
    | (.ok leaf pa, s1) => s1 == s && leafSeg leaf ≠ 2 && !isHostAddr pa && s.stackLive (stackOf pa)
      && !s.tagFails pa (leafBuf leaf) &&
        !s.textStale k.g (writtenKey (leafSeg leaf) pa) && Memory.readBytes s.mem pa 4 == bytesOfWord e.1
    | _ => false

/-- The conditions of the second part of `StepRuns`. -/
def stepRuns (s : State) (ws : List Word) (p : State → Bool) : Bool :=
  let core := s.turn / 4
  let slot := s.turn % 4
  let u := if slot = 0 then s.tickCore core else s
  (decide (s.phase = .issue) || s.agenda.isEmpty) && match u.tryOrder core slot with
  | [w] => onSome (u.whoOf w) fun k => !k.x.invAbort && k.x.heldTrap.isNone && k.x.pendA.isEmpty && onSome k.x.issuePc fun pc =>
    textAt u k pc ws &&
     decide (ws.length = wordCount (ws.headD 0)) && match decodeBytes (ws.flatMap bytesOfWord) with
       | .ok i => (match exec i (u.issuing w ws) with | .next t => p t | _ => false)
       | _ => false
  | _ => false

/-- Every register empty. -/
def emptied (s : State) : State :=
  { s with waves := s.waves.map fun x => (x.1, { x.2 with threads := x.2.threads.map fun t => { t with full := 0 } }) }

/-! ### Every statement's hypotheses are met -/

/-- `IntegerSums`: every form, ready with two lanes. -/
theorem witness_integer_sums : [
    (heldUp [.iadd base456, .iaddExt (ext468 .i8), .isub base456, .isubExt (ext468 .n64), .imul base456, .imulExt (ext468 .n64),
      .imad base456, .imadExt (extOf (.v 4) (.v 6) (.v 8) (.v 10) .i64)] twoLanes).isEmpty].all id = true := by decide +kernel

/-- `IntegerOrderAndRange`: every form. -/
theorem witness_integer_order_and_range : [
    (heldUp [.imulh base456, .imulhExt (ext468 .n64), .imin base456, .iminExt (ext468 .i8), .imax base456,
      .imaxExt (ext468 .n8), .iabs (baseOf (.v 4) (.v 5) .none), .iabsExt (unary (.v 4) (.v 6) .i64), .iadds base456,
      .iaddsExt (ext468 .i16)] twoLanes).isEmpty].all id = true := by decide +kernel

/-- `IntegerDivision`: every form. -/
theorem witness_integer_division : [
    (heldUp [.idiv base456, .idivExt (ext468 .i64), .irem base456, .iremExt (ext468 .n64)] twoLanes).isEmpty].all id = true := by decide +kernel

/-- `LogicAndMoves`: every form. -/
theorem witness_logic_and_moves : [
    (heldUp [.and base456, .andExt (ext468 .b64), .or base456, .orExt (ext468 .b64), .xor base456, .xorExt (ext468 .b32),
      .not (baseOf (.v 4) (.v 5) .none), .notExt (unary (.v 4) (.v 6) .b64), .mov (baseOf (.v 4) (.v 5) .none),
      .movExt (unary (.v 4) (.v 8) .b128), .sel { base456 with xb := 1 },
      .selExt (extOf (.v 4) (.v 6) (.v 8) (.pred 5 true) .b64),
      .movi { baseOf (.v 8) .none .none with lit := some (2 ^ 32) }] twoLanes).isEmpty].all id = true := by decide +kernel

/-- `Shifts`: every form. -/
theorem witness_shifts : [
    (heldUp [.shl base456, .shlExt (ext468 .b64), .shr base456, .shrExt (ext468 .b64), .sha base456, .shaExt (ext468 .i64),
      .rot base456, .rotExt (ext468 .b64)] twoLanes).isEmpty].all id = true := by decide +kernel

/-- `BitFieldsAndCounts`: every form. -/
theorem witness_bit_fields_and_counts : [
    (heldUp [.bfx (ext468 .i64), .bfi (extOf (.v 4) (.v 6) (.v 8) (.v 10) .b64), .popc (baseOf (.v 4) (.v 5) .none),
      .popcExt (unary (.v 4) (.v 6) .b64), .clz (baseOf (.v 4) (.v 5) .none), .clzExt (unary (.v 4) (.v 6) .b64),
      .brev (baseOf (.v 4) (.v 5) .none), .brevExt (unary (.v 4) (.v 6) .b64)] twoLanes).isEmpty].all id = true := by decide +kernel

/-- `PredicatesAndAddresses`: every form, the last comparison and the last predicate. -/
theorem witness_predicates_and_addresses : [
    (heldUp [.icmp { intoPred 7 with xb := 3 }, .icmpExt (extOf (.pred 7 false) (.v 6) (.v 8) .none .i64),
      .icmpExt { extOf (.pred 7 false) (.v 6) (.v 8) .none .i64 with md := 5 },
      .plog { baseOf (.pred 1 false) (.pred 2 true) (.pred 3 false) with xb := 3 },
    .pmov (baseOf (.pred 7 false) (.v 5) .none), .pmov { baseOf (.v 4) (.pred 7 false) .none with xb := 1 },
      .pmov { baseOf (.v 4) .none .none with xb := 2 }, .pmovExt (extOf (.pred 7 false) (.v 5) .none .none .i32),
      .pmovExt { extOf (.v 4) (.pred 7 false) .none .none .i32 with md := 1 },
      .pmovExt { extOf (.v 4) .none .none .none .i32 with md := 2 },
      .lea { extOf (.v 8) (.v 2) (.v 4) .none .i32 with aux := 7 }] twoLanes).isEmpty].all id = true := by decide +kernel

/-- `Branches`: every form. -/
theorem witness_branches : [
    (heldUp [.nop, .br (-1), .brLit 0x100, .brp 7 true 5, .brpLit 0 false 0x100, .brx (baseOf .none (.v 6) .none),
      .ret (baseOf .none (.k 6) .none), .call 3, .callLit 0x100] twoLanes).isEmpty].all id = true := by decide +kernel

/-- `ThreadGroups`: every form, and a wave in the last clock of its sleep. -/
theorem witness_thread_groups : [
    (heldUp [.join (.v 8) 4, .joinLit (.v 8) 0x100, .joinExt (.v 8) true .keep, .joinExt (.v 8) false (.off 4),
      .joinExt (.v 8) true (.lit 0x100), .exit, .pblk true 7 7 0xFF, .sleep (baseOf .none (.v 5) .none),
      .sleepExt (extOf .none (.v 5) .none .none .i32), .yield] twoLanes).isEmpty,
    onSome ((waveState 2 fun x => { x with sleep := 1 }).wave? 2) fun x => x.sleep = 1 && !x.halted].all id = true := by decide +kernel

/-- `TrapsAndReturns`: a gang with a handler; a wave in its handler. -/
theorem witness_traps_and_returns : [
    (heldUp [.trap 3, .brk 0x3FFFF] (withGang (fun g => { g with trapv := 0x10000 }) twoLanes)).isEmpty,
    (heldUp [.rte] (waveState 2 fun x => { x with handler := some .trap })).isEmpty,
    onSome (withGang (fun g => { g with trapv := 0x10000 }) twoLanes).who fun k =>
      decide (k.x.handler = none ∧ k.wg.handler = none ∧ k.g.trapv ≠ 0 ∧ k.x.heldSkid = none)].all id = true := by decide +kernel

/-- `SpecialRegisters`: the first and the last register, each that `SWR` writes. -/
theorem witness_special_registers : [
    (heldUp [.srd (baseOf (.v 8) (.sreg 0) .none), .srd (baseOf (.v 8) (.sreg 12) .none),
      .srdExt { extOf (.v 8) .none .none .none .i32 with x18 := 15 }, .swr (baseOf (.sreg 9) (.v 6) .none),
      .swr (baseOf (.sreg 11) (.v 5) .none), .swrExt { extOf .none (.v 6) .none .none .i32 with x18 := 9 },
      .swrExt { extOf .none (.v 5) .none .none .i32 with x18 := 11 }, .pmov { baseOf .none (.v 5) .none with xb := 3 },
      .pmovExt { extOf .none (.v 5) .none .none .i32 with md := 3 }] twoLanes).isEmpty].all id = true := by decide +kernel

/-- `FloatArithmetic`: every form. -/
theorem witness_float_arithmetic : [
    (heldUp [.fadd base456, .faddExt half456, .fsub base456, .fsubExt half456, .fmul base456, .fmulExt half456, .ffma base456,
      .ffmaExt { half456 with c := .v 7 }] twoLanes).isEmpty].all id = true := by decide +kernel

/-- `FloatDivisionAndRoots`: every form. -/
theorem witness_float_division_and_roots : [
    (heldUp [.fdiv base456, .fdivExt float456, .frcp base45, .frcpExt float45, .fsqrt base45, .fsqrtExt float45, .frsq base45,
      .frsqExt float45] twoLanes).isEmpty].all id = true := by decide +kernel

/-- `FloatFunctions`: every form. -/
theorem witness_float_functions : [
    (heldUp [.fexp2 base45, .fexp2Ext float45, .flog2 base45, .flog2Ext float45, .fsin base45, .fsinExt float45, .fcos base45,
      .fcosExt float45] twoLanes).isEmpty].all id = true := by decide +kernel

/-- `FloatRoundScaleDot`: every form. -/
theorem witness_float_round_scale_dot : [
    (heldUp [.frnd base45, .frndExt half45, .fscl base456, .fsclExt float456, .fsclExt {half456 with ty := .bf16},
      .fdot2 { half456 with c := .v 7 }, .fdot4 { half456 with c := .v 7, ty := .e4m3 }] twoLanes).isEmpty].all id = true := by decide +kernel

/-- `FloatOrder`: every form, `FCMP` at its first and last comparison. -/
theorem witness_float_order : [
    (heldUp [.fcls base45, .fclsExt half45, .fcmp { intoPred 2 with xb := 2 },
      .fcmpExt { extOf (.pred 2 false) (.v 5) (.v 6) .none .f16 with md := 7 }, .fmin { base456 with xb := 1 },
      .fminExt { half456 with md := 1 }, .fmax base456, .fmaxExt half456,
      .fmxi { extOf (.v 8) (.v 10) (.v 12) .none .f16 with md := 1 },
      .fmni (extOf (.v 8) (.v 10) (.v 12) .none .f32)] twoLanes).isEmpty].all id = true := by decide +kernel

/-- `Conversions`: every direction and every packed form. -/
theorem witness_conversions : [
    (heldUp [.cvt { extOf (.v 8) (.v 5) .none .none .i64 with aux := Ty.f32.code.setWidth 8 },
      .cvt { extOf (.v 8) (.v 5) .none .none .i64 with aux := Ty.n8.code.setWidth 8 },
      .cvt { extOf (.v 8) (.v 5) .none .none .f16 with aux := Ty.n8.code.setWidth 8 },
      .cvt { extOf (.v 8) (.v 5) .none .none .bf16 with aux := Ty.f32.code.setWidth 8 }] twoLanes).isEmpty,
    (heldUp [.cvtpk (extOf (.v 8) (.v 10) (.v 12) .none .e4m3), .cvtpk (extOf (.v 8) (.v 10) (.v 12) .none .f16),
      .cvtpk (extOf (.v 8) (.v 10) (.v 12) (.v 14) .q4), .unpk (extOf (.v 8) (.v 5) .none .none .f16),
      .unpk (extOf (.v 8) (.v 5) .none .none .e2m3), .unpk (extOf (.v 8) (.v 5) .none (.v 6) .q4)] twoLanes).isEmpty].all id = true := by decide +kernel

/-- `BlockFormats`: every mode. -/
theorem witness_block_formats : [
    (heldUp [.qscl (extOf (.v 8) (.v 5) (.v 6) .none .i32),
      .qscl {extOf (.v 8) (.v 5) (.v 6) .none .i32 with md := 1}] twoLanes).isEmpty,
    (heldUp [.hdmk {extOf (.v 8) (.v 5) (.v 6) .none .i32 with md := 1}, .hdmk (extOf (.v 8) (.v 5) (.v 6) .none .q4),
      .hdmk (extOf (.v 8) (.v 5) .none .none .i8), .hdmk (extOf (.v 8) (.v 5) .none .none .f32),
      .hdmk (extOf (.v 8) (.v 5) .none .none .e5m2)] twoLanes).isEmpty,
    (heldUp [.cmprs (extOf (.v 8) (.v 12) .none .none .f32), .cmprs (extOf (.v 8) (.v 12) .none .none .f16),
      .cmprs {extOf (.v 8) (.v 12) (.v 6) .none .q4 with md := 1},
      .cmprs {extOf (.v 8) (.v 12) (.v 6) .none .q4 with md := 0}] twoLanes).isEmpty].all id = true := by decide +kernel

/-- `LaneExchange`: every mode. -/
theorem witness_lane_exchange : [
    (heldUp [.shfl { base456 with xb := 3 }, .shflExt { ext468 .b64 with md := 1},
      .shflExt { extOf (.v 4) (.v 6) (.v 8) .none .b64 with md := 2},
      .vote { baseOf (.pred 1 false) (.pred 2 true) .none with xb := 0 },
      .vote { baseOf (.v 4) (.pred 2 true) .none with xb := 2 },
      .voteExt { extOf (.pred 1 false) (.pred 2 true) .none .none .i32 with md := 3 },
      .voteExt { extOf (.v 4) (.pred 2 true) .none .none .i32 with md := 2 }, .matchLanes (extOf (.v 4) (.v 6) .none .none .b64),
      .matchLanes {extOf (.v 4) (.v 6) .none .none .b64 with md := 1}, .elect (baseOf (.v 4) .none .none),
      .electExt (extOf (.v 200) .none .none .none .i32)] twoLanes).isEmpty].all id = true := by decide +kernel

/-- `LaneReductions`: every operation. -/
theorem witness_lane_reductions : [
    (heldUp ([(0,Ty.i32),(1,.n64),(2,.i64),(3,.b32),(4,.b64),(5,.n32),(6,.f32),(6,.f16),(7,.f32)].flatMap fun e =>
      let f : ExtArgs := {extOf (.v 8) (.v 10) .none .none e.2 with md := e.1}; [.redl f, .scanl f]) twoLanes).isEmpty].all id = true := by decide +kernel

/-- `Monitors`: an arming; a wait that ends at once, one that waits; a waiting wave. -/
theorem witness_monitors : [
    readyIn (.mona monaOps) memState fun k => inSpans monaOps memState k .read false false 1 fun ls _ =>
      decide (parksOf ls = [] ∧ (monitorAfter k.x.monitor ls).length ≤ 4),
    readyIn (.mwait mwaitOps) memState fun k => decide (k.x.monitor = []),
    readyIn (.mwait mwaitOps) (memState fun x => { x with monitor := [(512, 0)], fired := true }) fun k =>
      decide (k.x.monitor ≠ []) && k.x.fired,
    readyIn (.mwait mwaitOps) (memState fun x => { x with monitor := [(512, 0)] }) fun k => decide (k.x.monitor ≠ [])
      && !k.x.fired,
    mwaitHolds (memState (waiting 0)) fun k => k.x.fired,
    mwaitHolds (memState (waiting 1)) fun k => k.x.threads.any (fun u => (u.inMwait fun n => n = 1).isSome)].all id = true := by decide +kernel

/-- `LaunchLinks`: two records in one list. -/
theorem witness_launch_links : [
    readyIn (.launch launchOps) launchState fun k => let l := lane0 k.x.active;
      decide (launchState.inFlight = 0) && match (k.begun (.launch launchOps) launchState).span k.xctx .write false ((k.src launchState l launchOps.lit .n64 launchOps.a).setWidth 64) 1 with
   | (.parts (rc :: _), s1) =>
     match s1.span k.xctx .write false ((k.src launchState l launchOps.lit .n64 launchOps.b).setWidth 64) 1 with
     | (.parts (rp :: _), s2) => decide (launchForm rc rp = none) && released (s2.releaseWait k .pk 0x21000) fun s3 =>
       s3.strongReady k 1 && !s3.recordUsed k.chip rp.pa && (s3.link k.chip rc.pa rp.pa).isSome
     | _ => false
   | _ => false].all id = true := by decide +kernel

/-- `LoadsIssue`: a load of two lanes; a scratchpad load of filled lines. -/
theorem witness_loads_issue : [
    readyIn (.ld ldOps) memState fun k => inSpans ldOps memState k .read false false 8 fun ls s1 =>
      let good := goodSpans ls; let l1 := ldOps.acquire.isNone && k.x.pend ≠ some .home; let now := s1.nowBytes k l1 good
      decide (good ≠ []) && (good.all fun e => (s1.laneBytes k l1 e).isSome) && !k.x.readsFirst (fun _ => true) now
      && s1.srcsReached k.chip now && decide (s1.ownedByHost now = []) && s1.cached k.chip (hostBlocks now),
    readyIn (.ldl ldlOps) (filled memState) fun k => let s := filled memState;
      let ls := s.scLanes k 8 false false (k.x.active.map fun l => (l, s.laneOff k ldlOps l));
        let good := ls.filter fun e => e.bad.isNone; let bs := good.flatMap ScLane.bytes
    decide (good ≠ []) && (good.all fun e => !s.lostSeg e.bytes) && !s.inT bs && !s.padFirst k bs && (scratchLines bs).all s.lineFull].all id = true := by decide +kernel

/-- `LoadReturns`: the load of the state before, its bytes there. -/
theorem witness_load_returns : [
    let s := afterRun (.ld ldOps) memState; onSome (s.wave? 2) fun x => onSome (Table.look x.loads memState.serial) fun l =>
        let chip := chipOfCore (s.coreOf 2)
        s.numbered && decide ((l.lanes.map LoadLane.lane).Nodup) && (l.lanes.all fun e => decide (e.lane < x.threads.length))
        && !x.readsFirst (fun m => decide (m.order < l.order)) l.unread && s.srcsReached chip l.unread
        && onSome (s.padLanes 2 l.lanes) fun lanes => let unread := Load.unread { l with lanes }
          decide (s.ownedByHost unread = [])
          && s.cached chip (hostBlocks unread ++ (Load.lines { l with lanes }).flatMap fun e => [2 * e.2, 2 * e.2 + 1])
          && (lanes.all fun e => (s.readSrcs chip e.src).isSome) && lanes.length = 2].all id = true := by decide +kernel

/-- `Stores`: a weak store and a releasing one; the same to the scratchpad. -/
theorem witness_stores : [
    readyIn (.st (stOps 0)) memState fun k => memState.numbered
      && inSpans (stOps 0) memState k .write false false 8 fun ls s1 => hasRoom s1 k ls 2,
    readyIn (.st {stOps 2 with sc := .gn}) memState fun k => memState.numbered
      && released ((k.begun (.st (stOps 2)) memState).releaseWait k .gn ((k.begun (.st (stOps 2)) memState).firstVa k (stOps 2) k.x.active)) fun s0 =>
      k.x.pend.isNone && inSpans (stOps 2) s0 k .write false false 8 fun ls s1 => hasRoom s1 k ls 2,
    [(0 : BitVec 2), 2].all fun n => readyIn (.stl { stlOps with xb := n, sc := if n = 2 then .wg else .th}) memState fun k =>
      released (if n = 2 then (k.begun (.stl stlOps) memState).releaseWait k .wg 0 else (true, memState)) fun s1 =>
    let ls := s1.scLanes k 8 false true (k.x.active.map fun l => (l, s1.laneOff k stlOps l))
    let good := ls.filter fun e => e.bad.isNone
    decide (good ≠ []) && (good.all fun e => !s1.lostSeg e.bytes) && !s1.inT (good.flatMap ScLane.bytes)
    && !s1.padFirst k (good.flatMap ScLane.bytes) && memState.canonical].all id = true := by decide +kernel

/-- `AtomicsIssue`: a weak atomic and a releasing one; one lane in the scratchpad. -/
theorem witness_atomics_issue : [
    readyIn (.atom atomOps) memState fun k => k.x.pend.isNone
      && inSpans atomOps (k.begun (.atom atomOps) memState) k .atomic false true 4 fun ls s1 => decide (goodSpans ls ≠ [])
      && hasRoom s1 k ls 1,
    readyIn (.atom {atomOps with xb := 2}) memState fun k => k.x.pend.isNone
      && released ((k.begun (.atom atomOps) memState).releaseWait k .gn ((k.begun (.atom atomOps) memState).firstVa k atomOps k.x.active)) fun s0 =>
      inSpans atomOps s0 k .atomic false true 4 fun ls s1 => decide (goodSpans ls ≠ []) && hasRoom s1 k ls 1,
    readyIn (.atoml atomlOps) oneLane fun k => decide (k.x.active = [0])
      && match oneLane.scratchBytes k.g k.wg (oneLane.laneOff k atomlOps 0) 4 with
    | some bs => decide (oneLane.laneOff k atomlOps 0 % 4 = 0) && !oneLane.inS bs && !oneLane.lostSeg bs && !oneLane.inT bs
      && !oneLane.padFirst k bs && (scratchLines bs).all oneLane.lineFull && oneLane.canonical
    | none => false].all id = true := by decide +kernel

/-- `EntriesPerform`: a store's entry, an atomic's, one of host memory. -/
theorem witness_entries_perform : [
    let s := granted (afterRun (.st (stOps 0)) memState); (s.core 0).wq.any fun e => entryFree s e.1 fun e =>
        decide (e.atoms = [] ∧ (e.bytes.map Prod.fst).Nodup ∧ e.bytes ≠ []),
    let s := granted (afterRun (.atom atomOps) { oneLane with cores := [] });
        (s.core 0).wq.any fun e => entryFree s e.1 fun e =>
        match e.atoms with
          | [a] => decide (e.bytes = [] ∧ a.pa / 64 = e.block ∧ (a.pa + a.width - 1) / 64 = e.block ∧ 0 < a.width)
          | _ => false,
    let s := granted (afterRun (.st (stOps 0)) memState); let u := onCore (fun c =>
        { c with wq := c.wq.map fun e => (e.1, { e.2 with block := 2 ^ 41, bytes := [(2 ^ 47, 1)] }) }) s
    (u.core 0).wq.any fun e => isHostAddr (e.2.block * 64) && !e.2.held && !e.2.repl && !(u.core 0).blockedBy e.1 e.2
      && ((u.wave? e.2.wave).all fun x => !x.entryWaits e.2) && u.reaches 0 (e.2.block * 64) && u.takesLine 0 e.2.block
      && decide (e.2.atoms = [] ∧ (e.2.bytes.map Prod.fst).Nodup) && u.canonical && u.numbered
      && (e.2.bytes.all fun b => decide (b.1 / 64 = e.2.block))].all id = true := by decide +kernel

/-- `StrongInstructions`: each opcode, weak and with order bits. -/
theorem witness_strong_instructions : [
    [satomOps, { satomOps with md := 7, c := .v 10 }, { satomOps with xb := 2}].all fun f =>
      readyIn (.satom f) memState fun k =>
      released (if f.xb.getLsbD 1 then (k.begun (.satom f) memState).releaseWait k f.sc ((k.begun (.satom f) memState).firstVa k f k.x.active) else (true,
      k.begun (.satom f) memState)) fun s0 => strongOk f memState s0 k .atomic 8,
    [sstOps, { sstOps with xb := 2}].all fun f => readyIn (.sst f) memState fun k =>
      released (if f.xb.getLsbD 1 then (k.begun (.sst f) memState).releaseWait k f.sc ((k.begun (.sst f) memState).firstVa k f k.x.active) else (true,
      k.begun (.sst f) memState)) fun s0 => strongOk f memState s0 k .atomic 8,
    [sldOps, { sldOps with xb := 1}].all fun f => readyIn (.sld f) memState fun k =>
      released (if f.xb.getLsbD 1 then (k.begun (.sld f) memState).releaseWait k f.sc ((k.begun (.sld f) memState).firstVa k f k.x.active) else (true,
      k.begun (.sld f) memState)) fun s0 => strongOk f memState s0 k .read 8].all id = true := by decide +kernel

/-- `FencesAndCacheHints`: every form; a wide fence that finds the queue empty, or loads outstanding. -/
theorem witness_fences_and_cache_hints : [
    (heldUp [.fenceAcq (fenceOps 0 .th), .fenceRel (fenceOps 1 .th), .fenceAr (fenceOps 2 .th),
      .pref (extOf .none (.v 0) .none .none .i32), .pref {extOf .none (.v 0) .none .none .i32 with md := 1},
      .discLine (extOf .none (.v 0) .none .none .i32), .discAll (fenceOps 1 .th)] memState).isEmpty,
    [Scope.gn, .sy].all fun sc => readyIn (.fenceAcq (fenceOps 0 sc)) memState (fun k => !k.x.reading)
      && readyIn (.fenceRel (fenceOps 1 sc)) memState (fun k =>
      released ((k.begun (.fenceRel (fenceOps 1 sc)) memState).releaseWait k sc 0) fun _ => true)
      && readyIn (.fenceAr (fenceOps 2 sc)) memState (fun k => !k.x.reading
      && released ((k.begun (.fenceAr (fenceOps 2 sc)) memState).releaseWait k sc 0) fun _ => true),
    readyIn (.fenceAcq (fenceOps 0 .gn)) (issuing (afterRun (.ld ldOps) memState)) (fun k => k.x.reading),
    readyIn (.wfence noOps) memState (fun k => (k.begun (.wfence noOps) memState).quiet k)
      && readyIn (.wfence noOps) (issuing (afterRun (.st (stOps 0)) memState)) (fun k =>
      !(k.begun (.wfence noOps) (issuing (afterRun (.st (stOps 0)) memState))).quiet k),
    readyIn (.rfence noOps) memState (fun k => !((k.begun (.rfence noOps) memState).core k.wg.core).wq.any (fun e =>
      e.2.wave = k.w && e.2.repl) && ((k.begun (.rfence noOps) memState).memberWait k).1)].all id = true := by decide +kernel

/-- `WindowInstructions`: a bind to read and to write, an unbind from each state, a write-back. -/
theorem witness_window_instructions : [
    [(0 : BitVec 6), 1].all fun m => let f := { segbOps with md := m};
      namesSeg (.segb f) f (winState id) fun k c0 => decide ((winState id).inFlight = 0) &&
      (match c0.translate k.xctx (if m = 1 then .own else .share) false 0x11000 with
        | (.ok e pa, s1) => decide (leafSeg e < 2 ∧ (s1.seg 0 0).st = .i) && !(s1.seg 0 0).notice && !s1.quadBound 0 pa
        | _ => false),
    namesSeg (.segb segbOps) segbOps (winState id) fun k _ =>
      decide (((winState id).readOpd k.x 0 none .w64 .int segbOps.b) = 0x11000),
    [SegSt.s, .o].all fun u0 => namesSeg (.segu seguOps) seguOps (winState fun g => { g with st := u0 }) fun _ c0 =>
      decide ((c0.seg 0 0).st = u0),
    namesSeg (.segu seguOps) seguOps (winState id) fun _ c0 => decide ((c0.seg 0 0).st = .i),
    namesSeg (.wbr seguOps) seguOps (heldWindow .o) fun _ c0 =>
      decide ((c0.seg 0 0).st = .o) && !(c0.seg 0 0).back && takesBack0 c0 && (heldWindow .o).canonical && c0.dirtyCells 0 0 ≠ [],
    namesSeg (.wbr seguOps) seguOps (winState id) fun _ c0 => decide ((c0.seg 0 0).st ≠ .o) && !(c0.seg 0 0).back].all id = true := by decide +kernel

/-- `WindowMessages`: a fill, its last line and the one before, a fetch, an unwanted notice. -/
theorem witness_window_messages : [
    [true, false].all fun o => let s := window .t o 32; near0 s && decide ((s.seg 0 0).st = .t) && (s.seg 0 0).filling
      && s.stackLive (stackOf (s.seg 0 0).pa) && (s.dir? (regionOf (s.seg 0 0).pa)).isNone,
    [1, 2].all fun n => let s := window .t true n; near0 s && s.canonical && !s.tagFails ((s.seg 0 0).pa + 128 * 31) (s.seg 0 0).buf
      && !s.tagFails ((s.seg 0 0).pa + 128 * 31 + 64) (s.seg 0 0).buf,
    [SegSt.s, .o].all fun u0 => let s := heldWindow u0; near0 s && s.canonical && (u0 = .s || takesBack0 s),
    [SegSt.i, .t].all fun u0 => let s := window u0 false 32; near0 s && decide ((s.seg 0 0).st = u0),
    let s := noticed false; onSome (s.dir? (regionOf (s.seg 0 0).pa)) fun d =>
      decide (d.asked = [(0, 0)] ∧ d.queue = [] ∧ d.sharers = [] ∧ (s.seg 0 0).st = .i) && !(s.seg 0 0).filling
      && !(s.seg 0 0).notice && !(s.seg 0 0).back && near0 s,
    let s := noticed true; near0 s && (s.seg 0 0).notice && !(s.seg 0 0).back && decide ((s.seg 0 0).st = .i)
      && s.numbered && Table.numbered (s.core 0).segs 128,
    let s := dirtyNotice; near0 s && (s.seg 0 0).notice && !(s.seg 0 0).back && decide ((s.seg 0 0).st = .t)
      && s.knows (regionOf (s.seg 0 0).pa) (0, 0) && s.canonical && takesBack0 s && s.dirtyCells 0 0 ≠ []].all id = true := by decide +kernel

/-- `TranslationInstructions`: every scope that the rows differ by. -/
theorem witness_translation_instructions : [
    readyIn (.ptst ptstOps) (withV20 0x1000) fun k => k.g.priv && inTree ptstOps (withV20 0x1000) k
      && (k.begun (.ptst ptstOps) (withV20 0x1000)).strongReady k k.x.active.length,
    ([Scope.ch, .pk].map fun sc => ([(Instr.tlbiPage, (0 : BitVec 6)), (.tlbiAsid, 1), (.tlbiAll, 2)].map fun e =>
      readyIn (e.1 (tlbiOps e.2 sc)) (withV20 1) fun k => k.g.priv && ((sc = .ch)
      || (k.begun (e.1 (tlbiOps e.2 sc)) (withV20 1)).strongReady k ((withV20 1).tlbiLanes k (tlbiOps e.2 sc) e.2.toNat k.x.active).length))).all fun l =>
        l.all id,
    readyIn (.ptld ptldOps) (withV20 0x1000) fun k => k.g.priv && inTree ptldOps (withV20 0x1000) k && (k.x.active.all fun l =>
      ((List.range 8).map fun i => ((withV20 0x1000).core 0).tableSrc k.w (((withV20 0x1000).laneEa k ptldOps l).toNat + i)).all Option.isSome)
      && !k.x.readsFirst (fun _ => true) (mixedBytes (k.x.active.map fun l =>
        { lane := l, src := ((List.range 8).map fun i => ((withV20 0x1000).core 0).tableSrc k.w (((withV20 0x1000).laneEa k ptldOps l).toNat + i)).filterMap fun b => b,
          va := BitVec.ofNat 64 ((withV20 0x1000).laneEa k ptldOps l).toNat })),
    [Instr.xfencePt noOps, .xfenceInv { noOps with md := 1 }, .xfenceAd { noOps with md := 2 }, .xfenceAll { noOps with md := 3 }].all fun i => readyIn i memState fun k => k.g.priv
      && k.x.strong.isNone && (k.x.ptsts.all fun g => (memState.repl k.chip).appliedByAll k.chip g)
      && (k.x.tlbis.all fun r => (k.begun i memState).tlbiDone k.chip r) && !(k.begun i memState).enginesLeft k,
    readyIn (.bver (extOf .none .lane (.v 5) .none .i32)) memState fun k => k.g.priv
      && (k.begun (.bver (extOf .none .lane (.v 5) .none .i32)) memState).strongReady k k.x.active.length
      && (k.x.active.any fun l => (k.src memState l none .n32 .lane).toNat % 2 ^ 16 = 0)
      && (k.x.active.any fun l => (k.src memState l none .n32 .lane).toNat % 2 ^ 16 ≠ 0)].all id = true := by decide +kernel

/-- `PageMoves`: a page of a tree of one leaf, moved to another stack. -/
theorem witness_page_moves : [
    ([false, true].map fun ev => let i := if ev then Instr.migrEvac (migrOps 1) else .migr (migrOps 0);
      readyIn i treeState fun k => let c0 := k.begun i treeState; let f := migrOps (if ev then 1 else 0);
      decide (k.x.active = [0]) && k.x.pend.isNone && k.g.priv && decide (treeState.inFlight = 0) && c0.strongReady k 1).all id,
    (treeState.who.map fun k => let f := migrOps 0; let c0 := k.begun (.migr f) treeState;
      isMoved (migrStart 8 c0 k false 0 (c0.migrLane k f 0).1 (c0.migrLane k f 0).2.1 (c0.migrLane k f 0).2.2)) == some 0,
    (treeState.who.map fun k => let f := migrOps 1; let c0 := k.begun (.migrEvac f) treeState;
      isMoved (migrStart 8 c0 k true 0 (c0.migrLane k f 0).1 (c0.migrLane k f 0).2.1 (c0.migrLane k f 0).2.2)) == some 0].all id = true := by decide +kernel

/-- `CopiesStart`: every mode; a full engine; a tensor descriptor in memory and in the scratchpad; kicks. -/
theorem witness_copies_start : [
    ([(0 : BitVec 6), 1, 2, 3].map fun m => readyIn (.cpy (cpyOps m)) copyState fun k => copyState.copyRoom 0
      && (k.x.active.all fun l => decide ((k.src copyState l none .n32 (cpyOps m).c).toNat = 65536))
      && (match copyState.copyBars false [k.x.wg] none with | .ok _ => true | _ => false)).all id,
    readyIn (.cpy (cpyOps 0)) (fullCopies copyState) fun k => !(fullCopies copyState).copyRoom 0,
    readyIn (.tcpy (tcpyOps 0)) tensorMem fun k => tensorMem.copyRoom 0 && decide (tensorMem.inFlight = 0) && (let c0 := k.begun (.tcpy (tcpyOps 0)) tensorMem;
      match c0.span k.xctx .read false 0x11000 384 with
    | (.parts ps, s1) => s1.priorDone 0 (k.copy s1) (ps.flatMap fun p => (List.range ((p.len + 63) / 64)).map fun i =>
      { p with pa := p.pa + 64 * i, len := 1 })
      && (match s1.engineBytes k.chip ps with | (.ok bs, s2) => tensorOk s2 k bs | _ => false)
    | _ => false),
    readyIn (.tcpy (tcpyOps 1)) tensorPad fun k => tensorPad.copyRoom 0 && decide (tensorPad.inFlight = 0) && let c0 := k.begun (.tcpy (tcpyOps 1)) tensorPad;
      onSome (tensorPad.scratchBytes k.g k.wg 0x100 384) fun cs => !tensorPad.lostSeg cs && !tensorPad.inT cs
      && (scratchLines cs).all tensorPad.lineFull && tensorOk c0 k (cs.map fun b => tensorPad.padByte b.1 b.2),
    readyIn (.tcpy (tcpyOps 0)) (fullCopies tensorMem) fun _ => !(fullCopies tensorMem).copyRoom 0,
    readyIn (.kick kickOps) kickState fun k =>
      decide ((kickState.core 0).kick = none ∧ numOf kickState k kickOps kickOps.b = 256 ∧ 0x2000 + 32 * 256 ≤ k.wg.segs * 4096),
    readyIn (.kick kickOps) (issuing (afterRun (.kick kickOps) kickState)) fun k =>
      ((issuing (afterRun (.kick kickOps) kickState)).core 0).kick.isSome,
    readyIn (.cfenceDone (fenceOps 0 .th)) memState fun k =>
      decide ((memState.core 0).kick = none ∧ (memState.core 0).copies = [] ∧ (memState.core 0).graphs = []),
    readyIn (.cfenceDone (fenceOps 0 .th)) (fullCopies memState) fun k => ((fullCopies memState).core 0).copies.any fun e =>
      e.2.wave = k.w,
    readyIn (.cfenceRead (fenceOps 1 .th)) (onCore (fun c =>
      { c with copies := c.copies.map fun e => (e.1, { e.2 with pieces := [] }) }) (fullCopies memState)) fun k =>
      decide ((memState.core 0).kick = none ∧ (memState.core 0).graphs = []),
    readyIn (.cfenceRead (fenceOps 1 .th)) (fullCopies memState) fun k => ((fullCopies memState).core 0).copies.any fun e =>
      e.2.wave = k.w ∧ e.2.pieces ≠ []].all id = true := by decide +kernel

/-- `CopiesProceed`: a piece to a scratchpad, to memory, an ended copy, a record, a port. -/
theorem witness_copies_proceed : [
    let s := oneCopy [piece 0 0x11000 1 0x200]; s.canonical && decide (s.inFlight = 0) && onSome (Table.look (s.core 0).copies 0) fun c =>
        plainCopy c && match s.pieceRead 0 0 c (piece 0 0x11000 1 0x200) with
    | (.ok bs, s1) => (match s1.scratchDest c.mcast (piece 0 0x11000 1 0x200) with | (.ok [_], s2) => decide (s1 = s2) | _ => false)
      && s1.canonical && bs.length = 128
    | _ => false,
    let s := oneCopy [piece 0 0x11000 0 0x11200]; s.canonical && decide (s.inFlight = 0) && onSome (Table.look (s.core 0).copies 0) fun c =>
        plainCopy c && match s.pieceRead 0 0 c (piece 0 0x11000 0 0x11200) with
    | (.ok bs, s1) =>
      (match s1.copyDest 0 0 c (piece 0 0x11000 0 0x11200) with
        | (.ok q, s2) => !q.repl && s2.canonical && decide (bs.length = q.len) && (!isHostAddr q.pa || s2.takesLine 0 (q.pa / 64))
          && ((blocksOf ((List.range q.len).map fun i => (q.pa + i, 0))).all fun b => !s2.tagFails (64 * b) (leafBuf q.leaf))
        | _ => false)
    | _ => false,
    let s := oneCopy []; onSome (Table.look (s.core 0).copies 0) fun c =>
        decide (c.page = none ∧ c.pieces = [] ∧ c.port = none ∧ c.node = none ∧ c.sent = none ∧ c.slot = none),
    onSome (kickRecord.core 0).kick fun q => onSome (kickRecord.party q.wg) fun xg =>
      onSome (kickRecord.scratchBytes xg.2 xg.1 (q.off + 32 * q.next) 32) fun cs => kickRecord.copyRoom 0 && !kickRecord.inT cs
      && (scratchLines cs).all kickRecord.lineFull && (let d := natOfBytes (cs.map fun b => kickRecord.padByte b.1 b.2);
      let field (o n : Nat) : Nat := d / 2 ^ (8 * o) % 2 ^ n;
        decide (field 0 8 < 4 ∧ field 4 32 = 64 ∧ field 1 8 < 2 ∧ field 0x1C 32 = 0 ∧ field 0x18 32 = 2 ^ 32 - 1)),
    memState.portUp 0 && memState.portUp 11].all id = true := by decide +kernel

/-- `DependenceGraphs`: a graph of two nodes, a node that ends, a graph that ends. -/
theorem witness_dependence_graphs : [
    readyIn (.gsub gsubOps) graphRecords fun k => (graphRecords.core 0).graphs.length < 16 && decide (graphRecords.inFlight = 0)
      && (match readNodes k.xctx k.chip 2 0x11000 (List.range 2) (k.begun (.gsub gsubOps) graphRecords) with
    | (.all ns, s1) => (ns.all fun z => z.code = 0 ∧ z.st = 0 ∧ z.pa.isSome) && !((s1.core 0).wq.any fun e => e.2.wave = k.w)
      && (s1.nodesReady 0 (2 ^ 40 + k.w) (ns.filterMap GNode.pa)).1
      && (s1.nodesReady 0 (2 ^ 40 + k.w) (ns.filterMap GNode.pa)).2.canonical
    | _ => false),
    let s := graphState [graphNode 1 true 0x11000, graphNode 1 false 0x11040];
        onSome (Table.look (s.core 0).graphs 7) fun q => onSome q.nodes[0]? fun z => z.ended && z.st = 1 && decide (q.queue = [])
        && (s.nodesReady 0 7 z.pa.toList).1 && !(s.nodesReady 0 7 z.pa.toList).2.tagFails (0x11000 / 64 * 64) z.buf,
    let s := graphState [graphNode 2 false 0x11000, graphNode 3 false 0x11040];
        onSome (Table.look (s.core 0).graphs 7) fun q => (q.nodes.all fun z => 2 ≤ z.st) && q.bar.isNone && q.fault.isNone
        && q.queue = []].all id = true := by decide +kernel

/-- `BarrierObjects`: a name of the workgroup; the phase differs, or not; ranges empty and full. -/
theorem witness_barrier_objects : [
    namesBar (.bari (barOps .none (.v 24))) (barOps .none (.v 24)) (barState 0) true fun b k =>
      decide ((k.src (barState 0) (lane0 k.x.active) none .n64 (.v 22)).toNat = 0 ∧ b = (0, 0x100)),
    namesBar (.bara (barOps .none .none)) (barOps .none .none) (barState (2 ^ 36 + 2 ^ 50)) true fun _ k =>
      ((k.begun (.bara (barOps .none .none)) (barState 0)).releaseWait k .gn 0).1,
    namesBar (.barw (barOps (.v 8) .none)) (barOps (.v 8) .none) (barState (2 ^ 48)) false fun b k =>
      decide ((((barState (2 ^ 48)).barWords b).1).testBit 48 ≠ (k.src (barState 0) (lane0 k.x.active) none .n32 (.v 22)).getLsbD 0),
    namesBar (.barw (barOps (.v 8) .none)) (barOps (.v 8) .none) (barState 0) false fun b k =>
      decide ((((barState 0).barWords b).1).testBit 48 = (k.src (barState 0) (lane0 k.x.active) none .n32 (.v 22)).getLsbD 0),
    namesBar (.bart bartOps) bartOps (barState 0) false fun _ _ => true,
    ([linesOk (.lemp (barOps .none .none)) (lineState 256) fun bs => (segsOf bs).all fun e =>
      ((lineState 256).seg e.1 e.2).st = .i, linesOk (.lwt (barOps .none .none)) (lineState 256) fun bs =>
      (scratchLines bs).all (lineState 256).lineFull, linesOk (.lwt (barOps .none .none)) (onCore (fun c =>
      { c with lines := 0 }) (lineState 256)) fun bs => !(scratchLines bs).all (onCore (fun c =>
      { c with lines := 0 }) (lineState 256)).lineFull]).all id].all id = true := by decide +kernel

/-- `GroupBarriers`: the last wave and one that waits; the token held, or not, or passed. -/
theorem witness_group_barriers : [
    ([(memState, 1), (twoWaves memState, 2)].map fun e => readyIn .bar e.1 fun k => ((k.begun .bar e.1).releaseWait k .wg 0).1
      && decide (k.wg.arr = 0 ∧ !k.x.arrived ∧ k.w ∈ k.wg.waves ∧ (e.1.liveWaves k.wg.waves).length = e.2)).all id,
    ([(memState, 1), (twoWaves memState, 2)].map fun e => readyIn .gbar e.1 fun k => ((k.begun .gbar e.1).releaseWait k .gn 0).1
      && decide (k.g.arr = 0 ∧ !k.x.garrived ∧ k.w ∈ e.1.gangWaves k.g ∧ k.x.wg ∈ k.g.wgs ∧ (e.1.liveWaves (e.1.gangWaves k.g)).length = e.2)).all id,
    readyIn .tokw memState fun k => !k.g.ordered,
    ([0, 1].map fun h => readyIn .tokw (orderedState h false) fun k => (orderedState h false).holdsToken k.w == (h == 0)
      && k.g.ordered && !k.x.tokPassed && (h = 0 || k.g.trapv ≠ 0)).all id,
    readyIn .tokw (orderedState 1 true) fun k => k.g.trapv ≠ 0 && k.x.tokPassed,
    ([0, 1].map fun h => readyIn .tokp (orderedState h false) fun k =>
      (k.begun .tokp (orderedState h false)).holdsToken k.w == (h == 0) && k.g.ordered && k.g.trapv ≠ 0
      && ((k.begun .tokp (orderedState h false)).releaseWait k .pk 0).1
      && !((k.begun .tokp (orderedState h false)).releaseWait k .pk 0).2.sharedLeft k.wg.core k.w).all id].all id = true := by decide +kernel

/-- `SlotClaims`: the last slot and the first that is none. -/
theorem witness_slot_claims : [
    ([readyIn (.oclm claimOps) (slotState [0] [] 3 0) fun k => numOf (slotState [0] [] 3 0) k claimOps claimOps.a = 3
      && k.wg.oclaim = [0] && k.wg.oslots.length = 4,
    readyIn (.oclm claimOps) (slotState [0] [] 4 0) fun k => numOf (slotState [0] [] 4 0) k claimOps claimOps.a = 4
      && k.wg.oclaim = [0] && k.wg.oslots.length = 4,
    readyIn (.aclm claimOps) (slotState [] [] 2 0) fun k => k.wg.aslots.length = 2 && k.wg.aclaim = [],
      readyIn (.aclm claimOps) (slotState [] [1] 2 0) fun k => k.wg.aclaim = [1],
    readyIn (.orel relOps) (slotState [0, 1, 2, 3] [] 0 4) fun k =>
      decide (((slotState [] [] 0 0).cluster 0).tasks = [] ∧ ((slotState [] [] 0 0).cluster 0).streams = [] ∧ k.wg.oclaim = [0, 1,
      2, 3]),
    readyIn (.arel relOps) (slotState [] [0, 1] 0 2) fun k => k.wg.aclaim = [0, 1]]).all id,
    ([fillOk (.ofill (ofillOps 0 true)) (ofillOps 0 true) fun _ => true,
      fillOk (.ofill (ofillOps 1 false)) (ofillOps 1 false) fun _ => true,
      fillOk (.ofillOut (ofillOps 2 false)) (ofillOps 2 false) fun k => !k.wg.hotOp 3,
      fillOk (.ofillOut (ofillOps 3 false)) (ofillOps 3 false) fun k => !k.wg.hotOp 3,
      fillOk (.ofill (ofillOps 0 true)) (ofillOps 0 true) (fun _ => true) [busyRing],
      fillOk (.ofillOut (ofillOps 2 false)) (ofillOps 2 false) (fun _ => true) [busyRing], readyIn .opf memState fun k =>
      ((k.begun .opf memState).opfWait k).1]).all id].all id = true := by decide +kernel

/-- `Streams`: every operation with room and without, owned and not. -/
theorem witness_streams : [
    ([readyIn (.ostrOpen (streamOps 0)) (streamState [] (2 * 2 ^ 16)) fun _ => true,
      readyIn (.ostrOpen (streamOps 0)) (streamState [stream 1 false []] 0) fun _ => true,
    readyIn (.ostrPost (streamOps 1)) (streamState [stream 1 false [subscriber 1 0]] 2) fun k =>
      ((k.begun (.ostrPost (streamOps 1)) (streamState [stream 1 false [subscriber 1 0]] 2)).opfWait k).1,
      readyIn (.ostrPost (streamOps 1)) (streamState [stream 1 false [subscriber 1 0]] 3) fun k =>
      ((k.begun (.ostrPost (streamOps 1)) (streamState [] 2)).opfWait k).1,
    readyIn (.ostrPost (streamOps 1)) (streamState [] 2) fun _ => true,
      readyIn (.ostrPost (streamOps 1)) (streamState [stream 3 false []] 2) fun _ => true,
      readyIn (.ostrPost (streamOps 1)) (streamState [stream 1 false []] 65) fun _ => true,
    readyIn (.ostrClose (streamOps 2)) (streamState [stream 1 false []] 0) fun _ => true,
    readyIn (.osub { claimOps with md := 0 }) (streamState [stream 1 false [subscriber 1 0]] 0) fun k =>
      (((streamState [stream 1 false [subscriber 1 0]] 0).cluster 0).subOf k.x.wg 0).isSome
      && (((streamState [stream 1 false [subscriber 1 0]] 0).cluster 0).subOf k.x.wg 1).isNone
      && !(stream 1 false [subscriber 1 0]).over,
    readyIn (.osub { claimOps with md := 0 }) (streamState [] 0) fun _ => true,
      readyIn (.osubDrop { extOf .none (.v 20) .none .none .i32 with md := 1 }) (streamState [stream 1 false [subscriber 1 0]] 0 0) fun k =>
      (((streamState [stream 1 false [subscriber 1 0]] 0).cluster 0).subOf k.x.wg 0).isSome,
    readyIn (.osubDrop { extOf .none (.v 20) .none .none .i32 with md := 1 }) (streamState [] 0 0) fun k =>
      (((streamState [] 0).cluster 0).subOf k.x.wg 0).isNone]).all id].all id = true := by decide +kernel

/-- `Accumulators`: every type in each mode. -/
theorem witness_accumulators : [
    ([(0, Ty.i32), (1, .f32)].map fun e => readyIn (.aini (accOps e.1 e.2)) (accState none) fun k => k.wg.hot = []
      && (k.x.active.all fun l => (k.wg.aslot (k.src (accState none) l none .n32 (.v 20)).toNat).isSome)).all id,
    ([(0, Ty.i32), (0, .f32), (0, .f16), (0, .b128), (1, .b32)].map fun e =>
      let f : ExtArgs := { accOps e.1 e.2 with d := .v 8 }; [some .exact, some .wide].map fun m =>
        readyIn (.ald f) (accState m) fun k => k.wg.hot = []
        && (k.x.active.all fun l => ((k.wg.aslot (k.src (accState m) l none .n32 (.v 20)).toNat).map fun p =>
        ((accState m).aslot 0 p).mode.isSome).getD false)).all fun l => l.all id].all id = true := by decide +kernel

/-- `TileTasks`: one join and two; a task gathering its last record; hands equal and not. -/
theorem witness_tile_tasks : [
    ([1, 2].map fun j => let s := taskState j []; taskReady s fun k cs => (s.cluster 0).gathering k.x.wg 0x100 == none
      && (s.cluster 0).queued < 512 && !s.lostSeg cs && !s.inT cs && (scratchLines cs).all s.lineFull
      && !(s.cluster 0).malformed k.x.wg k.wg (natOfBytes (cs.map fun b => s.padByte b.1 b.2))).all id,
    ([1, 2].map fun n => let s := taskState 2 [(5, task .gathering n)];
      taskReady s fun k _ => onSome ((s.cluster 0).gathering k.x.wg 0x100) fun e => e.1 = 5 && !e.2.bad
      && decide (s.wg? e.2.wg = some k.wg ∧ k.wg.lost e.2 = none)).all id,
    ([readyIn (.twait claimOps) (slotState [] [] 0 0) fun k => k.x.tasks = [],
      readyIn (.twait claimOps) { taskState 2 [(0x100, task .faulted 0)] with serial := 3 } fun _ => true,
      readyIn (.twait claimOps) (taskState 2 [(0x100, task .running 0)]) fun _ => true]).all id,
    ([0, 1].map fun n => let s := memState (withRegs [(22, n)]);
      readyIn (.hndw handOps) s fun k => decide (s.inFlight = 0) && match (k.begun (.hndw handOps) s).handWord k.xctx .read 0x11000 with
     | (.at p, s1) => !((s1.core 0).wq.any fun e => e.2.wave = k.w)
       && (match s1.engineBytes k.chip [p] with
         | (.ok bs, s2) => decide (natOfBytes bs % 2 ^ 32 = 0) && !(s2.chip 0).dbg.schk
         | _ => false)
     | _ => false).all id,
    readyIn (.hndp handOps) memState fun k => k.x.pend.isNone && memState.numbered && decide (memState.inFlight = 0)
      && ((k.begun (.hndp handOps) memState).releaseWait k .pk 0x11000).1
      && (match ((k.begun (.hndp handOps) memState).releaseWait k .pk 0x11000).2.handWord k.xctx .atomic 0x11000 with
        | (.at _, s1) => decide ((s1.core 0).entriesOf k.w + 1 ≤ 16 ∧ (s1.core 0).wq.length + 1 ≤ 96)
        | _ => false)].all id = true := by decide +kernel

/-- `TileSteps`: a task's dispatch; its only step, its last but one; both modes. -/
theorem witness_tile_steps : [
    (acceptedTask.cluster 0).waitingTasks = [5] && (task .accepted 0).field 0x18 64 = 0 && (task .accepted 0).field 0x10 32 = 0
      && (task .accepted 0).field 0x14 32 = 0,
    ([(AccMode.exact, 1), (.wide, 2), (.exact, 2)].map fun e => let s := runningTask e.1 0x7F11 e.2;
      onSome (Table.look (s.cluster 0).tasks 5) fun t => onSome (s.party t.wg) fun xg => onSome (xg.1.oslot 0) fun pa =>
      onSome (xg.1.oslot 1) fun pb => onSome (xg.1.aslot t.cslot) fun c => decide (xg.2.st ≠ .killed ∧ t.field 0x28 64 = 0)
      && !(t.field 8 32).testBit 31 && !(t.field 0xC 32).testBit 31 && t.field 8 32 % 2 ^ 12 + t.step = 0
      && t.field 0xC 32 % 2 ^ 12 + t.step = 1 && t.field 1 3 = 0
      && headFault (s.aslot 0 c).mode t.cslot [tileOf s 0 pa, tileOf s 1 pb] == none && decide (t.page = none ∧ t.aSub = none ∧ t.bSub = none ∧ 0 ∉ t.undef ∧ 1 ∉ t.undef) && t.field 4 32 = e.2).all id].all id = true := by decide +kernel

/-- `RoutingTokens`: a full inbox, a missing one, each mode of `RPOLL`. -/
theorem witness_routing_tokens : [
    readyIn (.rsend rsendOps) tokenState fun k => k.x.pend.isNone
      && ((k.begun (.rsend rsendOps) tokenState).releaseWait k .pk 0).1
      && (k.x.active.all fun l => headerOk (tokenState.readOpd k.x l none .w128 .int (.v 20)))
      && decide ((tokenState.core 0).unsent + k.x.active.length ≤ 256),
    ([readyIn (.rflshGo (fenceOps 0 .th)) memState fun _ => true, readyIn (.rflshWait (fenceOps 1 .th)) memState fun k =>
      decide (k.x.delivered + k.x.refused = k.x.appended), readyIn (.rflshWait (fenceOps 1 .th)) (memState fun x =>
      { x with appended := 1 }) fun k => decide (k.x.delivered + k.x.refused ≠ k.x.appended)]).all id,
    ([readyIn (.rpollOpen (rpollOps 0)) (inboxState none 0) fun _ => true,
      readyIn (.rpollCnt (rpollOps 1)) (inboxState (some (inboxOf 1 3 0)) 0) fun k => k.g.asid = 0,
      readyIn (.rpollCnt (rpollOps 1)) (inboxState none 0) fun k => k.g.asid = 0,
    readyIn (.rpollFree (rpollOps 2)) (inboxState (some (inboxOf 1 3 0)) 3) fun k =>
      (k.begun (.rpollFree (rpollOps 2)) (inboxState none 0)).quiet k && k.x.loads.isEmpty && (inboxOf 1 3 0).inUse = 3,
      readyIn (.rpollFree (rpollOps 2)) (inboxState (some (inboxOf 1 3 0)) 4) fun _ => true,
      readyIn (.rpollFree (rpollOps 2)) (inboxState none 4) fun _ => true,
    readyIn (.rpollClose (rpollOps 3)) (inboxState (some (inboxOf 1 3 0)) 0) fun k => k.x.wg = 1
      && (inboxState (some (inboxOf 1 3 0)) 0).numbered
      && Table.numbered ((inboxState (some (inboxOf 1 3 0)) 0).chip 0).inboxes 64,
      readyIn (.rpollClose (rpollOps 3)) (inboxState (some (inboxOf 7 3 0)) 0) fun _ => true,
      readyIn (.rpollClose (rpollOps 3)) (inboxState none 0) fun _ => true, readyIn (.rpollSent (rpollOps 4)) memState fun _ =>
      true, readyIn (.rpollRefd (rpollOps 5)) memState fun _ => true]).all id,
    !sendState.tokenWaits (tokenOf false false) && decide (sendState.inFlight = 0) && (match sendState.tokenRead 0 (tokenOf false false) with
        | (.ok _, s1) => s1.tokenChip 0 0 && Table.numbered (s1.core 0).sends 8
        | _ => false),
    let s := arrivedState (some (inboxOf 1 3 0)) (tokenOf false false); let u := tokenOf false false;
        decide (s.inFlight = 0 ∧ u.header.toNat % 64 = 3 ∧ ((inboxOf 1 3 0).landed - (inboxOf 1 3 0).freed).toNat < 4 ∧ tokLen u.header + 16 ≤ 64)
        && (match s.span { core := 0, asid := 0, ptroot := 0, priv := true } .write false (0x11000 + BitVec.ofNat 64 (3 % 4 * 64 * 1)) u.bytes.length with
    | (.parts ps, s1) => !s1.deadParts ps && (storeParts 0 (2 ^ 41) u.gang ps u.bytes s1).1
    | _ => false),
    ([arrivedState (some (inboxOf 1 4 0)) (tokenOf true false), arrivedState none (tokenOf false false)].map fun s =>
      (s.chip 0).tokens.length = 1 && s.tokenChip 0 1 && (s.chip 0).tokens.all fun u => !s.tokenWaits { u with second := true }).all id,
    onSome ((memState fun x => { x with appended := 1 }).wave? 2) fun x => decide (x.delivered + x.refused ≠ x.appended)].all id = true := by decide +kernel

/-- `RecordsAndCounters`: every selector's first and last; each capture. -/
theorem witness_records_and_counters : [
    ([readyIn (.frec { extOf (.v 8) .none .none .none .i32 with x18 := 7 }) memState fun _ => true,
      readyIn (.frec { extOf (.v 8) .none .none .none .i32 with x18 := 2 }) parkedRecords fun _ => true,
      readyIn (.lfix (extOf .none (.v 5) .none .none .b32)) parkedRecords fun k => k.x.active ≠ [],
    readyIn (.perfRead { extOf (.v 8) .none .none .none .i32 with x18 := 84 }) memState fun _ => true,
      readyIn (.perfRead { extOf (.v 8) .none .none .none .i32 with x18 := 129 }) memState fun _ => true,
      readyIn (.perfClr (fenceOps 1 .th)) memState fun _ => true]).all id,
    ([readyIn (.hcapCfg (hcapOps 0)) (hcapState 3 9) fun k => k.x.stall = 0,
      readyIn (.hcapCfg (hcapOps 0)) (hcapState 4 9) fun k => k.x.stall = 0,
      readyIn (.hcapRd (hcapOps 1)) (hcapState 3 63) fun _ => true, readyIn (.hcapClr (hcapOps 2)) (hcapState 3 0) fun k =>
      k.x.stall = 0 && numOf (hcapState 3 0) k (hcapOps 2) (hcapOps 2).a < 4]).all id,
    readyIn (.dgst dgstOps) memState fun k => k.x.pend.isNone && memState.numbered && decide (memState.inFlight = 0)
      && (match spans k.xctx .atomic false true 32 (k.x.active.map fun l => (l, (k.src memState l none .n64 dgstOps.a).setWidth 64)) (k.begun (.dgst dgstOps) memState) with
    | (.all ls, s1) => parksOf ls == []
      && (ls.all fun e => match e.2.2 with | .parts ps => ps ≠ [] && ps.all fun p => decide (leafSeg p.leaf ≤ 1) | _ => false)
      && hasRoom s1 k ls 1
    | _ => false),
    let s := onCore (fun c => { c with hcap := [(0, { Hcap.reset with cfg := 4 })] }) memState;
        onSome (Table.look (s.core 0).hcap 0) fun h => [4, 5, 8, 9].contains (h.cfg.toNat % 32)].all id = true := by decide +kernel

/-- `TrapEvents`: an event pending; a handler at its limit; a stall at its limit; an open page request. -/
theorem witness_trap_events : [
    let s := withGang (fun g => { g with trapv := 0x10000 }) (waveState 2 fun x => { x with pendA := [pendingTrap] })
    onSome (s.whoOf 2) fun k =>
      decide (k.x.handler = none ∧ k.wg.handler = none ∧ k.g.trapv ≠ 0 ∧ k.x.pendA = [pendingTrap] ∧ k.x.heldTrap = none)
      && k.open && s.firstToTrap k,
    onSome (handlerLate.whoOf 2) fun k => k.x.handler.isSome
      && decide (65536 ≤ k.x.handlerCount ∧ k.g.st ≠ .killed ∧ k.g.fdom = 0) && k.g.wgs.contains k.x.wg && k.wg.waves.contains 2,
    onSome (stalledState.whoOf 2) fun k =>
      decide (k.x.handler = none ∧ k.wg.handler = none ∧ k.g.trapv ≠ 0 ∧ stalledState.effField k.chip k.g.rcb 7 0x40 0 32 = 7)
      && k.g.mode.getLsbD 5 && 7 ≤ k.x.stall && !k.x.halted,
    decide ((ringState.chip 0).ring.waiting = [] ∧ (ringState.chip 0).ring.len ≠ 0),
    onSome (Table.look (ringState.chip 0).ring.open' 0) fun p => ringState.canonical
      && (ringState.blocksReady (.pageRequestResponse 0 0 1) [((ringState.chip 0).ring.base + 0x10) / 64]).1
      && Table.numbered (ringState.chip 0).ring.open' 65536 && onSome (ringState.wave? 2) fun x => onSome x.page fun q =>
      q.samePage p && chipOfCore (ringState.coreOf 2) = 0].all id = true := by decide +kernel

/-- `Replication`: packets of this view, of the next, of the furthest newer; each kind applied; a request that writes and one that
does not; a first wrap and a later; both failures. -/
theorem witness_replication : [
    ([(0, 0), (0, 1), (0,128), (1, 0), (2, 255)].map fun e => let s := onLink (.packet (packet e.1 1 e.2 1));
      (s.plainMsg 1 0 == some (.packet (packet e.1 1 e.2 1))) && Table.numbered s.links 64
      && decide ((s.repl 0).vst ≠ .out ∧ (s.repl 0).vst ≠ .listener ∧ (s.repl 0).backlog < 65536)).all id,
    let s := onLink (.req (request 1 0 0)); (s.plainMsg 1 0 == some (.req (request 1 0 0)))
        && !(s.repl 0).duplicate (request 1 0 0) && (s.repl 0).pending = [] && Table.numbered s.links 64,
    let s := onLink (.ack [1,0,0,0,0,0,0,0]); (s.plainMsg 1 0 == some (.ack [1,0,0,0,0,0,0,0])),
    let s := onLink (.wrapack [] 7); (s.plainMsg 1 0 == some (.wrapack [] 7)),
    ([packet 0 1 0 1, packet 1 1 0 1, packet 2 1 0 1].map fun p => let s := holdState p; let r := s.repl 0;
      s.canonical && (s.loggedRegions 0 == []) && r.installing.isNone && r.vst = .normal && !s.replFails 0 p.blk
      && (r.hold.find? (fun q => r.ready q) == some p) && !r.hostBlocks p && r.applied.length = 8
      && r.wrapsApplied.length = 8).all id,
    let r := strongWait.repl 0; (r.hold.find? (fun q => r.ready q) == some { packet 1 1 0 1 with rq := 4 })
        && (Table.look r.outstanding 4 == some (.lane 2 3 0 4)) && onSome (strongWait.wave? 2) fun x => onSome x.strong fun g =>
        g.reqs = [4] && g.load = some 3,
    ([0, 7, 10].map fun o => let s := colState o; let r := s.repl 0;
      s.canonical && decide (r.col = 0 ∧ 0 ∈ r.members) && r.canCreate && (r.pending.all fun p => !r.duplicate p)
      && (r.pending.all fun p => (s.perform 0 p).2.2 = [] || !r.hostHeld.contains (p.off / 64))
      && onSome (r.pending.find? fun p => r.grantable (s.fixedByte 0) p) fun q => decide (q.opc < 11) && !s.replFails 0 (q.off / 64)
        && ((List.range (reqBytes q.opc q.ty)).all fun i => !s.fixedByte 0 (q.off + i)) && r.applied.length = 8
        && reqBytes q.opc q.ty = 8 && q.off % 8 = 0).all id,
    ([0, 1].map fun w => let r := (wrapState w).repl 0;
      decide (0xFFF00 ≤ r.own ∧ r.vst = .normal ∧ r.own ≤ r.ackedUpTo 0 ∧ r.applied.length = 8 ∧ r.wrapsApplied.length = 8 ∧ (vecAt r.wrapsApplied 0 = 0 ∨ ∀ m ∈ r.members,
      m ≠ 0 → m ∈ r.wrapackSeen))).all id,
    ([true, false].map fun b => (crcState b).linkUp 1 0 && Table.at (crcState b).links (linkKey 1 0) [] ≠ []
      && !(crcState b).linkRetry.contains (linkKey 1 0)).all id].all id = true := by decide +kernel

/-- `ViewChange`: each phase, views 1 and 127 newer, a cut of 0, 1 and 256 slots. -/
theorem witness_view_change : [
    decide ((((unacked 5).repl 0).vst = .normal) ∧ (∃ p ∈ ((unacked 5).repl 0).retained,
      p.arrived + ((unacked 5).repl 0).acklim ≤ ((unacked 5).chip 0).clk)),
    ([(2, 0), (1, 5)].map fun e => let s := laggedState e.1 e.2;
      decide ((s.repl 0).vst = .normal ∧ ((s.repl 0).lagmax < (s.repl 0).backlog ∨ (∃ p ∈ (s.repl 0).hold ++ (s.repl 0).newer,
      p.arrived + (s.repl 0).holdmax ≤ (s.chip 0).clk)))).all id,
    ([1, 127].map fun v => let s := onLink (.propose [] v allChipsOf);
      (s.viewMsg 1 0 == some (.propose [] v allChipsOf))
      && decide ((s.repl 0).vst = .normal ∧ (v + 256 - (s.repl 0).view) % 256 ∈ List.range' 1 127) && s.chipExists 2
      && s.linkUp 0 2 && (s.repl 0).members.contains 2).all id,
    let s := lastProposal; let r := s.repl 1; let props := Table.put r.proposals 0 [0, 1];
        let q := { r with proposals := props }; let k := (q.agree 1).headD 1
    (s.viewMsg 0 1 == some (.propose [] 1 [0, 1])) && r.vst = .propose && r.proposedView = 1
      && ((Table.at props 1 []).all fun m => (Table.look props m).isSome) && (q.agree 1).contains 1 && k < 8 && k ≠ 1
      && s.linkUp 1 k,
    let s := exchanging 0 false; (s.viewMsg 1 0 == some (.state (stateReport 0))) && (s.repl 0).vst = .exchange
        && (s.repl 0).agreed.contains 0 && Table.look (s.repl 0).states 0 == none,
    ([0, 1, 256].map fun n => let s := exchanging n true; let r := s.repl 0; let sts := Table.put r.states 1 (stateReport n);
      (s.viewMsg 1 0 == some (.state (stateReport n))) && r.vst = .exchange && r.installing == none && r.agreed.headD 8 = 0
      && (r.agreed.all fun m => (Table.look sts m).isSome)).all id,
    let s := installing .exchange [0, 1]; let r := s.repl 0;
        (s.viewMsg 1 0 == some (.install [] installOf)) && installOf.members.contains 0 && r.vst = .exchange
        && installOf.view = r.proposedView && r.hold = [] && (installOf.held.all fun p => !r.lacks p),
    ([ViewSt.exchange, .propose].map fun v => let s := installing v [1, 2];
      (s.viewMsg 1 0).isSome && decide ((s.repl 0).vst ≠ .out ∧ (s.repl 0).vst ≠ .normal)).all id,
    let s := proposing 6; let r := s.repl 0;
        decide (r.vst = .propose ∧ r.acklim < r.phaseClock ∧ 2 ∉ r.shunned ∧ 2 ∉ r.silent 0) && s.linkUp 0 2 && s.chipExists 2
        && r.members.contains 2,
    let s := proposing 5;
        decide ((s.repl 0).vst = .propose ∧ (s.repl 0).phaseClock ≤ (s.repl 0).acklim ∧ 1 ∈ Table.at (s.repl 0).proposals 0 []  ∧ Table.look (s.repl 0).proposals 1 = none),
    (outState.repl 0).vst = .out && (outState.chip 0).powered,
    (joinState.viewMsg 1 0 == some (.join []))
      && decide ((joinState.repl 0).vst ≠ .out ∧ (joinState.repl 0).vst ≠ .listener ∧ 1 ∉ (joinState.repl 0).members)
      && joinState.linkUp 0 1,
    (listenState.viewMsg 1 0).isSome && (listenState.repl 0).vst = .listener,
    ([0].map fun n => let s := donorState n; let r := s.repl 0;
      r.vst = .listener && !r.donorDone && ((s.repl 1).members.all fun j => (Table.look r.listenS0 j).isSome)
      && (s.repl 1).covers r.listenS0).all id,
    let s := copiedState; let k := (s.repl 0).members.headD 0;
        (s.repl 0).vst = .listener && (s.repl 0).donorDone && (s.repl k).vst = .normal && (s.repl k).listeners.contains 0,
    ((List.range 8).all fun b => (List.range b).all fun a =>
      agreedSet ((List.range 8).map fun m => (m, (List.range 8).filter fun d =>
      !((m = a && d = b) || (m = b && d = a)))) = (List.range 8).filter fun m => m ≠ b)].all id = true := by decide +kernel

/-- `Campion`: a placement; a save that waits, begins, ends; a restore; a swap; an exit; a retirement; a launch's end. -/
theorem witness_campion : [
    (claimed launchTree 0 == some (0x1000, 0x2000, 0, [0])) && (State.reset.chip 0).sys.rootrcb = 0
      && (State.reset.chip 0).regions = [],
    onSome (launchGang.gang? 0) fun k => decide (k.chip = 0 ∧ k.launch = 0x2000 ∧ k.st ≠ .exited ∧ k.st ≠ .retired ∧ k.fdom = 0)
      && Table.numbered launchGang.gangs 9,
    ([GangSt.saving, .swapping].map fun u0 => let s := savingState u0 (.due true) [(3, oneLoad)];
      (onSome (s.gang? 0) fun k => k.st = u0 && k.wgs.any fun id => onSome (s.wg? id) fun x => x.waves.any fun w =>
      onSome (s.wave? w) fun y => !y.still)).all id,
    ([GangSt.saving, .swapping].map fun u0 => let s := withWg (fun x =>
      { x with takenSegs := 1, takenO := 2, takenA := 1, oslots := [0, 1, 2], aslots := [4] }) (savingState u0 .out []);
      (onSome (s.gang? 0) fun k => k.st = u0 && decide k.wgs.Nodup && k.wgs.all fun id => onSome (s.wg? id) fun x =>
      x.handler = none && s.wgStill id x && s.wavesThat x Wave.saveDue = []) && (onSome (s.gang? 0) fun k => s.unmarked k true = [])).all id,
    ([GangSt.saving, .swapping].map fun u0 => let s := savingState u0 (.due true) [];
      onSome (s.gang? 0) fun k => k.st = u0 && k.wgs = [1] && onSome (s.wg? 1) fun x => x.handler = none && s.wgStill 1 x
      && (x.waves.all fun v => onSome (s.wave? v) Wave.still) && s.wavesThat x Wave.saveDue = [2] && onSome (s.whoOf 2) fun q =>
      q.x.wg = 1 && q.x.handler = none && q.g.runVa 2 == some 0x11000 && q.g.trapv ≠ 0
      && s.inFlight = 0 && s.unmarked k true = [] && (match State.saveTouch q.g [0x11000, 0x11000 + 4096] s with
        | (true, s1) => (s1.blocksReady (.contextSave q.wg.gang) (s1.saveBlocks q.g (saveOffsets.map fun o => 0x11000 + BitVec.ofNat 64 o))).1
        | _ => false)).all id,
    let s := savingState .restoring .none []; (onSome (s.gang? 0) fun k => k.st = .restoring && k.runs = []
        && k.wgs.all fun id => onSome (s.wg? id) fun x => x.handler = none && s.wavesThat x (fun y => y.save = .back) = []),
    (onSome (memState.gang? 0) fun k => !memState.swapsNow k),
    onSome ((swapState 7).gang? 0) fun k => (swapState 7).swapsNow k && !recording k.mode && !replaying k.mode
      && ((swapState 7).evictable k (everything (swapState 7) k)).isSome,
    (onSome (memState.wg? 1) fun x => (memState.gang? x.gang).isSome && memState.liveWaves x.waves ≠ []),
    let s := exitedState .resident true; (onSome (s.wg? 1) fun x => onSome (s.gang? x.gang) fun k => s.liveWaves x.waves = []
        && k.st = .resident && x.exiting && s.wgOver 1 x && Table.numbered s.wgs 9 && k.wgs = [1]),
    let s := endedGang .exited; (onSome (s.gang? 0) fun k => (k.wgs.all fun id => (s.wg? id).isNone) && k.st = .exited
        && !k.ordered && s.strongOpen k.chip),
    ([true, false].map fun b => let s := if b then endedGang .retired else onCore (fun c =>
      { c with sends := [(0, [plainToken])] }) (endedGang .retired);
      (onSome (s.gang? 0) fun k => (k.wgs.all fun id => (s.wg? id).isNone) && k.st = .retired && s.drained 0 == b
      && Table.numbered s.gangs 4)).all id,
    ([0, 0x3000].map fun d => let s := doneState d; (s.chip 0).ended.contains 0x2000 && !s.unretired 0 0x2000 && s.gangs = []
      && (s.launchRec 0 0x2000).done = d && d % 8 = 0 && s.strongOpen 0 && (s.repl 0).members.contains (s.repl 0).col
      && (s.repl 0).col = 0 && s.canonical).all id].all id = true := by decide +kernel

/-- `LanesAndHostPort`: no room under WCAP, and room; a line in each state; the first and last block of a stack and of the replica. -/
theorem witness_lanes_and_host_port : [
    State.reset.stackLive 0 && ((State.reset.laneWaiters 0).filter fun e => State.reset.capRoom 0 e.gang) = [],
    capReached.stackLive 0 && capReached.laneWaiters 0 ≠ []
      && ((capReached.laneWaiters 0).filter fun e => capReached.capRoom 0 e.gang) = [],
    let s := laneQueue; s.stackLive 0 && ((s.laneWaiters 0).any fun e => s.capRoom 0 e.gang),
    ([none, some HostSt.m, some .o, some .e, some .s].map fun v => let s := hostCopies none v;
      hostLine hostLine0 && s.chipExists 0 && s.takesLine 0 hostLine0 && (Table.look (s.chip (s.hostCache 0)).hostLines hostLine0).isNone).all id,
    hostLine hostLine0 && fullSet.chipExists 0 && fullSet.hostDirChip (hostLine0 * 64) = fullSet.hostCache 0
      && (fullSet.hostSet (fullSet.hostCache 0) (hostLine0 % hostSets)).length = 16
      && !(fullSet.hostSet (fullSet.hostCache 0) (hostLine0 % hostSets)).contains hostLine0,
    let s := hostCopies (some .e) none; (Table.look (s.chip (s.hostCache 0)).hostLines hostLine0).isSome,
    let s := hostCopies (some .e) (some .m); s.canonical && ((List.range 8).all fun c =>
        Table.numbered (s.chip c).hostLines (hostLine0 + 1)),
    !memState.cxlUp 1 && memState.cxlUp 0,
    ([0, lastBlock, 2 ^ 30, 2 ^ 30 + lastBlock].map fun b => decide (b * 64 < 2 ^ 41) && memState.stackLive (stackOf (b * 64))
      && decide (b * 64 % 2 ^ 36 < (62 - (memState.repl 0).rsegsz) * 2 ^ 30)).all id,
    ([replBlock0, replBlock0 + (reservedBase 32 - 64) / 64].map fun b =>
      decide (2 ^ 41 ≤ b * 64 ∧ b * 64 - 2 ^ 41 < reservedBase (memState.repl 0).rsegsz)).all id,
    ([0, lastBlock].map fun b => [(1 : DWord), 2 ^ 63].map fun m => let s := memState;
      s.cxlUp 0 && (s.chip 0).hostWrites.isEmpty && s.canonical && s.reaches 0 (b * 64)
      && s.dirMayWrite (regionOf (b * 64)) (.run (hdmTurn 0))
      && !s.tagFails (b * 64) (s.chip 0).sys.hbuf.toNat).all fun l => l.all id,
    ([dirEntry [(0, 0)] []].map fun e => let s := recalled 0 e;
      (s.dir? (regionOf 0) == some e) && s.cxlUp 0 && (s.chip 0).hostWrites.isEmpty).all id,
    ([replBlock0, replBlock0 + (reservedBase 32 - 64) / 64].map fun b => let s := memState; let a := b * 64 - 2 ^ 41; (s.repl 0).canCreate
      && !s.replFails 0 (a / 64) && (List.range 64).all fun i => !s.fixedByte 0 (a + i)).all id,
    (askedBlock.cluster 0).biWait.contains 1088,
    (askedRepl.repl 0).biWait.contains (replBlock0 + 3 - 2 ^ 35)].all id = true := by decide +kernel

/-- `RegisterWindows`: no region active; a mailbox request that is malformed, one that is not; the clock's ends. -/
theorem witness_register_windows : [
    noneActive State.reset && (State.reset.repl 0).members.contains 7 && !noneActive activeRegion,
    ([(1, 1, 0), (0, 0, 0), (0, 1, 1)].map fun e => let s := onSys fun y => { y with hsstat := e.2.2 };
      (s.cxlUp e.1 == false || e.2.1 == 0 || (s.chip e.1).sys.hsstat = 1)).all id,
    badMailbox.cxlUp 0 && (badMailbox.chip 0).sys.hsstat ≠ 1 && badMailbox.mailboxReq 0 == none,
    onSome (goodMailbox.mailboxReq 0) fun q => goodMailbox.cxlUp 0 && (goodMailbox.chip 0).hostWrites.isEmpty
      && (goodMailbox.repl 0).vst = .normal && (goodMailbox.repl 0).outstanding.length < 512,
    ([0, 2].map fun a => let s := onSys fun y => { y with astat := a }; decide ((s.chip 0).sys.astat ≠ 1)).all id,
    ([0x100, 0xFF00].map fun v => decide (v / 2 ^ 8 % 2 ^ 8 ≠ 0)).all id,
    ([(1, 25), (1, 50), (24, 600), (24, 575), (23, 600)].map fun e => let s := onSys fun y => { y with clkmhz := e.2 };
      !(s.chip 0).sys.fixclk && decide (e.2 = 25 * e.1 + 25 ∨ e.2 = 25 * e.1 ∨ e.2 + 25 = 25 * e.1)).all id].all id = true := by decide +kernel

/-- `Resets`: a drain that ends, that goes on, that is overdue. -/
theorem witness_resets : [
    let s := onRepl (fun r => { r with members := [1] }) State.reset; !(s.repl 0).members.contains 0,
    (gangState.repl 0).members.contains 0 && Table.numbered gangState.gangs 9
      && (onSome (gangState.gang? 0) fun k => k.chip = 0 && k.onChip && k.st ≠ .retired && k.st ≠ .killed),
    let s := drained 0 (drained 1 (onRepl (fun r =>
        { r with view := 7, own := 9, nextSlot := 4, replica := [(3, 3)] }) State.reset));
        (s.chip 0).draining && goingChips s 0 = [0, 1] && ((goingChips s 0).all s.warmDrained),
    ((goingChips undrained 0).any fun m => !undrained.warmDrained m),
    (undrained.repl 0).acklim < (undrained.chip 0).drainClock && !undrained.warmDrained 0 && (undrained.repl 0).vst = .normal,
    ([Event.rstctlIsolate 0, .chipFaultLasting 0].map fun _ => decide ((gangState.repl 0).vst = .normal)).all id,
    let s := onSys fun y => { y with fixclk := true }; (s.chip 0).sys.fixclk,
    (gangState.chip 0).powered].all id = true := by decide +kernel

/-- `StepRuns`: an instruction of one word, of three; one that waits for an operand. -/
theorem witness_step_runs : [
    let s := { State.reset with phase := .event, agenda := [.writeLaneGrant 0] }; decide (s.phase = .event),
    stepRuns (State.reset.withFetchWord 32 0x05955080) [0x05955080] fun t => !t.waited,
    stepRuns (State.reset.withFetchWord 96 0x18301408000000E6) [0x000000E6, 0x18301408, 0] fun t => !t.waited,
    stepRuns (emptied (State.reset.withFetchWord 32 0x05955080)) [0x05955080] fun t => t.waited].all id = true := by decide +kernel

/-- `Rounding`: an exact significand (1), and one with a remainder (2^60 and a half). -/
theorem witness_rounding :
    (1 : ℚ) = |1| ∧ |(1 : ℚ)| = dyadic false 1 0 ∧ decide ((1 : ℚ) < 0) = false ∧ (1 : ℚ) ≠ 0 ∧
    dyadic false (2 ^ 60) 0 < |(2 ^ 60 + 1 / 2 : ℚ)| ∧ |(2 ^ 60 + 1 / 2 : ℚ)| < dyadic false (2 ^ 60 + 1) 0 := by
  norm_num [dyadic]

/-- `AtomicResults`: a lane of 4 bytes for each sub-operation, at the greatest old value. -/
theorem witness_atomic_results : (List.range 8).all (fun md =>
    let a : AtomLane := { lane := 0, pa := 0, width := 4, md := md, ty := .i32, rm := .rne, nan := false, b := 0xFFFFFFFF, c := 5 }
    decide (0xFFFFFFFF < 2 ^ (8 * a.width) ∧ 0 < a.width ∧ a.b.toNat < 2 ^ (8 * a.width) ∧ a.c.toNat < 2 ^ (8 * a.width) ∧ a.md < 8) &&
      (a.modify 0xFFFFFFFF).isSome) = true := by decide +kernel

/-- `DecodeEncode`: a base form with a literal, an extended form, a layout of its own; and words that decode. -/
theorem witness_decode_encode : [
    Instr.iadd { baseOf (.v 4) (.v 5) .lit with lit := some 0xFFFFFFFF }, .iaddExt (extOf (.v 4) (.v 6) (.v 8) .none .n64), .pblk false 2 2 3].all
      (fun i => i.wf && decide (i.form ≠ .event)) = true ∧
    (match decodeWords [0x05955080, 7] with | .ok _ => true | _ => false) = true := by decide +kernel

/-- `StepInvariant`: a step from a state of the canonical form. -/
theorem witness_step_invariant :
    let s := State.reset.withFetchWord 32 0x05955080
    s.canonical = true ∧ s.numbered = true ∧ (match step s with | .next t => t.canonical && t.numbered | _ => false) = true := by
  decide +kernel

/-! ### Worked examples of the tile engine and of pairs -/

/-- A running task of one step on operand slots 0 and 1, with one element and one head in all, and an exact accumulator slot. -/
def stepState (a b : List (Nat × Byte)) (ha hb : Half) : State :=
  let s := taskState 2 [(5, { task .running 0 with record := taskRecord 1 })]
  let slot (d : List (Nat × Byte)) (h : Half) : OSlot := { data := d, heads := (List.range 64).map fun n => (n, h) }
  let acc : ASlot := { mode := some .exact, base := 0, elems := [], mask := 0, nx := false, nv := false }
  { s with clusters := Table.put s.clusters 0 { s.cluster 0 with oslots := [(0, slot a ha), (1, slot b hb)], aslots := [(0, acc)] } }

/-- The first row of a tile of one element, with the same head in every block. -/
def firstRow (d : List (Nat × Byte)) (h : Half) : List Machine.Num :=
  ({ slot := 0, data := d, heads := (List.range 64).map fun n => (n, h) } : Tile).line (headWidth (h.toNat % 256)) false 0

/-- 07 Table 7.5: the products p1, p2 and p3, each alone in a step, on an element at 0. -/
theorem test_tile_step : [
    ([(0, 0x3C)], [(0, 3)], (0x7F11 : Half), (0x7F10 : Half), (0x480000000000000000000 : Quad), false),
    ([(0, 0x01)], [(0, 1)], 0x4311, 0x6B10, 0, true),
    ([(1, 0xBC)], [(1, 0x38)], 0x7F30, 0x7F30, -0x80000000000000000000, false)].all (fun e =>
    exactElem false 0 ((firstRow e.1 e.2.2.1).zip (firstRow e.2.1 e.2.2.2.1)) ==
      { x := e.2.2.2.2.1, mask := false, nx := e.2.2.2.2.2, nv := false }) = true := by decide +kernel

/-- 07 R150, Table 7.5: a 16-bit A block and an 8-bit B block in one step fault the task. -/
theorem test_tile_step_widths :
    (match runEvent (.tileStep 0 5) (stepState [(0, 0x3C)] [(0, 3)] 0x7F30 0x7F10) with
      | .next t => (t.cluster 0).tasks.all (fun e => e.2.st = .faulted) && (t.aslot 0 0).elem 0 == 0
      | _ => false) = true := by decide +kernel

/-- 07 Table 7.6: the index of the winning pair, with `.num` and with `.nan`. -/
theorem test_pairs : [
    ((0x00000000 : Word), 7, (0x80000000 : Word), 3, 3, 3), (0x40200000, 9, 0x40200000, 4, 4, 4), (0x7F812345, 1, 0xFF800000, 6, 6, 1),
    (0x7FC00000, 5, 0x7FC00000, 2, 2, 2), (0x3F800000, 0, 0xC0400000, 8, 0, 0)].all (fun e =>
    [(0, e.2.2.2.2.1), (1, e.2.2.2.2.2)].all fun m =>
      result (.fmxi { extOf (.v 8) (.v 10) (.v 12) .none .f32 with md := m.1 }) [(10, e.2.1), (11, e.1.toNat), (12, e.2.2.2.1), (13, e.2.2.1.toNat)] 8 ==
        some (m.2, 0)) = true := by decide +kernel


end Sys2Proof.Tests
end

section
/-! SUPPORT. Classification, comparison and selection of floating values (07 R158, R160; 19 R411, R412, R415, R416): the model's
order of values is the order of the numbers they are, and each lane operation built on it is what the claims say. -/

-- One theorem at a time: many at once ask for more threads than the checker has memory for.
set_option Elab.async false

namespace Sys2Proof.Machine

/-! ### The order of values -/

/-- ±m·2^e in units of a smaller power of 2. -/
theorem dyadic_eq_signedAt (neg : Bool) (m : Nat) {e e0 : Int} (h : e0 ≤ e) :
    dyadic neg m e = signedAt neg m e e0 * 2 ^ e0 := by
  have split : (2 : ℚ) ^ e = 2 ^ (e - e0).toNat * 2 ^ e0 := by
    rw [← zpow_natCast, Int.toNat_of_nonneg (by omega), ← zpow_add₀ two_ne_zero, Int.sub_add_cancel]
  cases neg <;> simp [dyadic, signedAt, split, mul_assoc]

/-- Mantissas brought to the lower exponent compare as the numbers do. -/
theorem signedAt_lt_iff (na nb : Bool) (ma mb : Nat) (ea eb : Int) :
    signedAt na ma ea (min ea eb) < signedAt nb mb eb (min ea eb) ↔ dyadic na ma ea < dyadic nb mb eb := by
  rw [dyadic_eq_signedAt na ma (min_le_left ea eb), dyadic_eq_signedAt nb mb (min_le_right ea eb),
    mul_lt_mul_iff_left₀ (by positivity), Int.cast_lt]

theorem Num.lt_iff_below {x y : Num} (hx : x.isNan = false) (hy : y.isNan = false) : x.lt y = true ↔ x.Below y := by
  cases x with
  | nan => cases hx
  | inf => cases y with
    | nan => cases hy
    | inf | fin => simp [Num.lt, Num.Below]
  | fin => cases y with
    | nan => cases hy
    | inf => simp [Num.lt, Num.Below]
    | fin => simp [Num.lt, Num.Below, Num.rat, signedAt_lt_iff]

theorem Num.Below.asymm {x y : Num} (h : x.Below y) : ¬ y.Below x := by
  cases x <;> cases y <;> simp_all [Num.Below, le_of_lt]

theorem Num.eqv_iff {x y : Num} (hx : x.isNan = false) (hy : y.isNan = false) :
    x.eqv y = true ↔ ¬ x.Below y ∧ ¬ y.Below x := by
  simp [Num.eqv, hx, hy, ← Num.lt_iff_below]

theorem Num.not_eqv_iff {x y : Num} (hx : x.isNan = false) (hy : y.isNan = false) :
    (!x.eqv y) = true ↔ x.Below y ∨ y.Below x := by
  rw [Bool.not_eq_true', ← Bool.not_eq_true, Num.eqv_iff hx hy, not_and_or, not_not, not_not]

theorem Num.not_lt_iff {x y : Num} (hx : x.isNan = false) (hy : y.isNan = false) :
    (!x.lt y) = true ↔ ¬ x.Below y := by
  rw [Bool.not_eq_true', ← Bool.not_eq_true, Num.lt_iff_below hx hy]

/-! ### Classes (19 R411) -/

/-- A finite code is subnormal, with the least exponent, or has the leading bit, with at least that exponent (07 R134). -/
theorem Fmt.read_fin {f : Fmt} {x m : Nat} {neg : Bool} {e : Int} (h : f.read x = .fin neg m e) :
    (m < 2 ^ f.m ∧ e = 1 - (f.bias : Int) - f.m) ∨ (2 ^ f.m ≤ m ∧ 1 - (f.bias : Int) - f.m ≤ e) := by
  unfold Fmt.read at h
  simp only at h
  split at h
  · cases h
  split at h
  · cases h
  split at h
  · cases h
    exact .inl ⟨Nat.mod_lt _ (Nat.two_pow_pos _), rfl⟩
  · rename_i hexp
    cases h
    have : 1 ≤ x % 2 ^ (f.e + f.m) / 2 ^ f.m := Nat.one_le_iff_ne_zero.2 hexp
    exact .inr ⟨Nat.le_add_right _ _, by omega⟩

/-- A finite code is below the least normal number just where it lacks the leading bit. -/
theorem Fmt.read_subnormal {f : Fmt} {x m : Nat} {neg : Bool} {e : Int} (h : f.read x = .fin neg m e) :
    dyadic false m e < 2 ^ (1 - (f.bias : Int)) ↔ m < 2 ^ f.m := by
  have least : (2 : ℚ) ^ (1 - (f.bias : Int)) = 2 ^ f.m * 2 ^ (1 - (f.bias : Int) - f.m) := by
    rw [← zpow_natCast, ← zpow_add₀ two_ne_zero]; congr 1; omega
  simp only [dyadic, Bool.false_eq_true, if_false, one_mul, least]
  rcases Fmt.read_fin h with ⟨hm, rfl⟩ | ⟨hm, he⟩
  · rw [mul_lt_mul_iff_left₀ (by positivity)]
    exact_mod_cast Iff.rfl
  · refine iff_of_false (not_lt.2 ?_) (not_lt.2 hm)
    exact mul_le_mul (by exact_mod_cast hm) (zpow_le_zpow_right₀ one_le_two he) (by positivity) (by positivity)

theorem classOf_eq (f : Fmt) (x : Nat) : classOf f x = classBit f (f.read x) := by
  unfold classOf classBit
  cases h : f.read x with
  | nan | inf => rfl
  | fin neg m e => simp only [Fmt.read_subnormal h]

/-! ### Comparison (06 Table 6.5) -/

theorem fcmpRes_fst (md : Nat) (x y : Num) : (fcmpRes md x y).1 = true ↔ Compares md x y := by
  unfold fcmpRes Compares
  by_cases hn : (x.isNan || y.isNan) = true
  · simp [hn]
  · obtain ⟨hx, hy⟩ : x.isNan = false ∧ y.isNan = false := by simpa using hn
    simp only [hx, hy, Bool.or_self, Bool.false_eq_true, if_false]
    split
    · exact Num.eqv_iff hx hy
    · exact Num.not_eqv_iff hx hy
    · exact Num.lt_iff_below hx hy
    · exact Num.not_lt_iff hy hx
    · exact Num.lt_iff_below hy hx
    · exact Num.not_lt_iff hx hy
    · simp
    · simp

theorem fcmpRes_snd (md : Nat) (x y : Num) :
    (fcmpRes md x y).2 = ((x.isNan || y.isNan) && (decide (2 ≤ md ∧ md ≤ 5) || x.isSig || y.isSig)) := by
  unfold fcmpRes
  by_cases hn : (x.isNan || y.isNan) = true
  · by_cases hm : 2 ≤ md ∧ md ≤ 5 <;> simp [hn, hm]
  · simp [hn]

/-! ### Minimum and maximum (07 R158) -/

/-- The order of 07 R158, in which −0 is below +0. -/
def Num.under (x y : Num) : Bool := x.lt y || (x.eqv y && x.sign && !y.sign)

theorem Num.under_iff {x y : Num} (hx : x.isNan = false) (hy : y.isNan = false) :
    x.under y = true ↔ x.Below y ∨ (¬ y.Below x ∧ x.sign = true ∧ y.sign = false) := by
  simp only [Num.under, Bool.or_eq_true, Bool.and_eq_true, Bool.not_eq_true', Num.eqv_iff hx hy, Num.lt_iff_below hx hy]
  tauto

theorem Num.under_asymm {x y : Num} (hx : x.isNan = false) (hy : y.isNan = false) (h : x.under y = true) :
    y.under x = false := by
  rw [Num.under_iff hx hy] at h
  rw [← Bool.not_eq_true, Num.under_iff hy hx]
  rintro (g | ⟨g, s, -⟩)
  · rcases h with h | ⟨h, -⟩
    · exact h.asymm g
    · exact h g
  · rcases h with h | ⟨-, -, t⟩
    · exact g h
    · simp [s] at t

/-- The code that `FMIN` or `FMAX` chooses of the codes `a` and `b`. -/
def chosenCode (f : Fmt) (mx num : Bool) (a b : Nat) : Nat :=
  let x := f.read a
  let y := f.read b
  if x.isNan && y.isNan then f.nanCode
  else if x.isNan then (if num then b else f.nanCode)
  else if y.isNan then (if num then a else f.nanCode)
  else if mx then (if x.under y then b else a)
  else if y.under x then b else a

theorem minMax_eq (ty : Ty) (mx num : Bool) (a b : Quad) :
    minMax ty mx num a b =
      (BitVec.ofNat 128 (chosenCode (fmtOf ty) mx num (a.toNat % 2 ^ ty.bits) (b.toNat % 2 ^ ty.bits)),
        if (numAt ty a).isSig || (numAt ty b).isSig then flagNV else 0) := by
  unfold minMax chosenCode
  refine Prod.ext ?_ rfl
  simp only [apply_ite (BitVec.ofNat 128)]
  rfl

theorem chosenCode_chooses (f : Fmt) (mx num : Bool) (a b : Nat) :
    ChoosesOf f mx num a b
      (chosenCode f mx num a b, if (f.read a).isSig || (f.read b).isSig then flagNV else 0) := by
  refine ⟨rfl, fun hx hy => ?_, fun hx hy => ?_, fun hx hy => ?_, fun hx hy => ?_⟩
  · simp [chosenCode, hx, hy]
  · simp [chosenCode, hx, hy]
  · simp [chosenCode, hx, hy]
  · simp only [chosenCode, hx, hy, Bool.and_self, Bool.false_eq_true, if_false]
    refine ⟨by split_ifs <;> simp, fun h => ?_, fun h => ?_⟩
    · have u := (Num.under_iff hx hy).2 h
      simp [u, Num.under_asymm hx hy u]
    · have u := (Num.under_iff hy hx).2 h
      simp [u, Num.under_asymm hy hx u]

/-! ### Pairs (07 R160) -/

theorem better_iff {ty : Ty} (ht : ty = .f32 ∨ ty = .f16) (mx nanRule : Bool) (x y : Quad) :
    better ty mx nanRule x y = true ↔ Beats (fmtOf ty) mx nanRule x y := by
  have bits : (fmtOf ty).e + (fmtOf ty).m + 1 = ty.bits := by rcases ht with rfl | rfl <;> rfl
  have high (z : Quad) : numAt ty (z >>> 32) = (fmtOf ty).read (z.toNat / 2 ^ 32 % 2 ^ ty.bits) := by
    simp [numAt, Nat.shiftRight_eq_div_pow]
  unfold better Beats
  simp only [bits, high]
  generalize (fmtOf ty).read (x.toNat / 2 ^ 32 % 2 ^ ty.bits) = a
  generalize (fmtOf ty).read (y.toNat / 2 ^ 32 % 2 ^ ty.bits) = b
  cases ha : a.isNan <;> cases hb : b.isNan
  case false.false =>
    rw [← Num.lt_iff_below ha hb, ← Num.lt_iff_below hb ha]
    cases mx <;> cases a.lt b <;> cases b.lt a <;> simp
  all_goals simp

/-! ### The instructions -/

section

variable {i : Instr} {s : State} {k : Who} {f : ExtArgs} (h : Ready i s k) (hc : i.form.commits = false)
include h hc

theorem fclsLanes_computes (he : exec i s = .next (fclsLanes i f s)) :
    Computes i s k f.d .w32 fun l =>
      .write (BitVec.ofNat 128 (2 ^ classBit (fmtOf f.ty) (k.float s l f.lit f.ty f.a))) 0 :=
  computes_of h hc he fun _ => by rw [classOf_eq]; rfl

theorem fcmpLanes_computes {md : Nat} (hm : f.md.toNat = md) (he : exec i s = .next (fcmpLanes i f s)) :
    let x (l : Nat) : Num := k.float s l f.lit f.ty f.a
    let y (l : Nat) : Num := k.float s l f.lit f.ty f.b
    ∃ b : Nat → Bool, Computes i s k f.d .w32 (fun l => fpOut k.g.mode (if b l then 1 else 0,
        if ((x l).isNan || (y l).isNan) && (decide (2 ≤ md ∧ md ≤ 5) || (x l).isSig || (y l).isSig) then flagNV else 0)) ∧
      ∀ l ∈ k.x.active, (b l = true ↔ Compares md (x l) (y l)) := by
  subst hm
  intro x y
  exact ⟨fun l => (fcmpRes f.md.toNat (x l) (y l)).1, computes_of h hc he fun _ => by rw [← fcmpRes_snd]; rfl,
    fun l _ => fcmpRes_fst f.md.toNat (x l) (y l)⟩

theorem minMaxLanes_computes {mx num : Bool} (hn : decide (f.md = 1) = num)
    (he : exec i s = .next (minMaxLanes i f mx s)) :
    ComputesFloat i s k f.d fun l => ChoosesOf (fmtOf f.ty) mx num
      ((k.src s l f.lit f.ty f.a).toNat % 2 ^ f.ty.bits) ((k.src s l f.lit f.ty f.b).toNat % 2 ^ f.ty.bits) := by
  subst hn
  exact ⟨_, computes_of h hc he fun _ => congrArg (fpOut k.g.mode) (minMax_eq _ _ _ _ _),
    fun _ _ => chosenCode_chooses _ _ _ _ _⟩

theorem pairLanes_computes (ht : f.ty = .f32 ∨ f.ty = .f16) {mx : Bool} (he : exec i s = .next (pairLanes i f mx s)) :
    let a (l : Nat) : Quad := k.src s l f.lit .n64 f.a
    let b (l : Nat) : Quad := k.src s l f.lit .n64 f.b
    ∃ c : Nat → Bool, Computes i s k f.d .w64 (fun l => .write (if c l then a l else b l) 0) ∧
      ∀ l ∈ k.x.active, (c l = true ↔ Beats (fmtOf f.ty) mx (decide (f.md = 1)) (a l) (b l)) := by
  intro a b
  exact ⟨fun l => better f.ty mx (f.md = 1) (a l) (b l), computes_of h hc he fun _ => rfl,
    fun l _ => better_iff ht mx _ (a l) (b l)⟩

end

/-- The sub-operation that XB carries in a base form is MOD of the extended form (19 R412, R415). -/
theorem toExt_md (f : BaseArgs) (ty : Ty) : (f.toExt ty f.xb.toNat).md.toNat = f.xb.toNat := by
  have := f.xb.isLt
  simp only [BaseArgs.toExt, BitVec.toNat_ofNat]
  omega

theorem toExt_md_one (f : BaseArgs) (ty : Ty) :
    decide ((f.toExt ty f.xb.toNat).md = 1) = decide (f.xb = 1) := by
  rw [decide_eq_decide, ← BitVec.toNat_inj, ← BitVec.toNat_inj, toExt_md]; rfl

/-- Settles O17: each form computes, in its lanes, the class, the comparison, the chosen code or the winning pair. -/
theorem floatOrder : Obligations.FloatOrder := by
  unfold Obligations.FloatOrder
  intro code compares pairs
  refine ⟨?fcls, ?fclsExt, ?fcmp, ?fcmpExt, ?fmin, ?fminExt, ?fmax, ?fmaxExt, ?fmxi, ?fmni⟩
  case fcls => exact fun f s k h => fclsLanes_computes h rfl rfl
  case fclsExt => exact fun f s k h => fclsLanes_computes h rfl rfl
  case fcmp => exact fun f s k h => fcmpLanes_computes h rfl (toExt_md f .f32) rfl
  case fcmpExt => exact fun f s k h => fcmpLanes_computes h rfl rfl rfl
  case fmin => exact fun f s k h => minMaxLanes_computes h rfl (toExt_md_one f .f32) rfl
  case fminExt => exact fun f s k h => minMaxLanes_computes h rfl rfl rfl
  case fmax => exact fun f s k h => minMaxLanes_computes h rfl (toExt_md_one f .f32) rfl
  case fmaxExt => exact fun f s k h => minMaxLanes_computes h rfl rfl rfl
  case fmxi => exact fun f s k ht h => pairLanes_computes h rfl ht rfl
  case fmni => exact fun f s k ht h => pairLanes_computes h rfl ht rfl

end Sys2Proof.Machine
end

section
/-! SUPPORT. Bit fields and counts (18 R386, R389; 19 R395; 21 R452): the bits of what `BFX`, `BFI` and `BREV` write, and the numbers
that `POPC` and `CLZ` write. -/

-- One theorem at a time: many at once ask for more threads than the checker has memory for.
set_option Elab.async false

namespace Sys2Proof.Machine

/-! ### Bit fields (18 R386) -/

theorem bits_toNat {n : Nat} (x : BitVec n) (lo m : Nat) : bits x.toNat lo m = (x.extractLsb' lo m).toNat := by
  simp [bits, Nat.shiftRight_eq_div_pow]

/-- A result of `w` bits in a quad, bit by bit: 0 from bit `w` on. -/
theorem getLsbD_setWidth_quad {w : Nat} (x : BitVec w) {j : Nat} (hj : j < 128) {b : Bool}
    (hb : j < w → x.getLsbD j = b) : (x.setWidth 128).getLsbD j = (decide (j < w) && b) := by
  rw [BitVec.getLsbD_setWidth, decide_eq_true hj, Bool.true_and]
  by_cases hw : j < w
  · rw [hb hw, decide_eq_true hw, Bool.true_and]
  · rw [BitVec.getLsbD_of_ge x j (Nat.le_of_not_lt hw), decide_eq_false hw, Bool.false_and]

/-- A logical shift reads the bits above, a count of the width or more included (22 R485). -/
theorem getLsbD_opShr {w : Nat} (x : BitVec w) (n j : Nat) : (opShr w x n).getLsbD j = x.getLsbD (n + j) := by
  unfold opShr
  split
  case isTrue => exact BitVec.getLsbD_ushiftRight x n j
  case isFalse hn => rw [BitVec.getLsbD_of_ge x (n + j) (by omega)]; exact BitVec.getLsbD_zero

/-- An arithmetic shift reads the bits above, and the sign beyond them, a count of the width or more included (22 R485). -/
theorem getLsbD_opSha {w : Nat} (x : BitVec w) (n : Nat) {j : Nat} (hj : j < w) :
    (opSha w x n).getLsbD j = if n + j < w then x.getLsbD (n + j) else x.msb := by
  unfold opSha
  split
  case isTrue => rw [BitVec.getLsbD_sshiftRight, decide_eq_false (by omega), Bool.not_false, Bool.true_and]
  case isFalse hn =>
    rw [if_neg (show ¬ n + j < w by omega)]
    cases x.msb <;> simp [hj]

/-- Bit i of the field that begins at `pos` of the low `w` bits of a: beyond them, copies of the sign or 0. -/
def fieldBit (signed : Bool) (w : Nat) (a : Quad) (pos i : Nat) : Bool :=
  if pos + i < w then a.getLsbD (pos + i) else signed && a.getLsbD (w - 1)

/-- A right shift of the source's kind brings the field to bit 0. -/
theorem getLsbD_shifted (signed : Bool) {w : Nat} (a : Quad) (pos : Nat) {i : Nat} (hi : i < w) :
    (if signed then opSha w (a.setWidth w) pos else opShr w (a.setWidth w) pos).getLsbD i =
      fieldBit signed w a pos i := by
  have sign : (a.setWidth w).msb = a.getLsbD (w - 1) := by
    rw [BitVec.msb_eq_getLsbD_last, BitVec.getLsbD_setWidth, decide_eq_true (by omega), Bool.true_and]
  unfold fieldBit
  cases signed with
  | false => by_cases hf : pos + i < w <;> simp [getLsbD_opShr, hf]
  | true =>
    rw [if_pos rfl, getLsbD_opSha _ _ hi, sign]
    by_cases hf : pos + i < w <;> simp [hf]

theorem bfxRes_eq (signed : Bool) {w : Nat} (a : BitVec w) (pos len : Nat) : bfxRes signed a pos len =
    let x := if signed then opSha w a pos else opShr w a pos
    let low := BitVec.ofNat w (2 ^ min len w - 1)
    if signed && decide (0 < min len w) && x.getLsbD (min len w - 1) then (x &&& low) ||| ~~~low else x &&& low := rfl

theorem getLsbD_bfxRes (signed : Bool) {w : Nat} (a : Quad) (pos len : Nat) {j : Nat} (hj : j < w) :
    (bfxRes signed (a.setWidth w) pos len).getLsbD j =
      if j < min len w then fieldBit signed w a pos j
      else signed && decide (0 < min len w) && fieldBit signed w a pos (min len w - 1) := by
  have low : (BitVec.ofNat w (2 ^ min len w - 1)).getLsbD j = decide (j < min len w) := by
    rw [BitVec.getLsbD_ofNat, decide_eq_true hj, Bool.true_and, Nat.testBit_two_pow_sub_one]
  have last := getLsbD_shifted signed a pos (show min len w - 1 < w by omega)
  have here := getLsbD_shifted signed a pos hj
  rw [bfxRes_eq]
  generalize (if signed then opSha w (a.setWidth w) pos else opShr w (a.setWidth w) pos) = x at last here ⊢
  simp only [apply_ite (BitVec.getLsbD · j), BitVec.getLsbD_or, BitVec.getLsbD_and, BitVec.getLsbD_not, last, here, low,
    decide_eq_true hj]
  by_cases hl : j < min len w
  · simp [hl]
  · simp [hl]

theorem getLsbD_bfiRes {w : Nat} (a b : Quad) (pos len : Nat) {j : Nat} (hj : j < w) :
    (bfiRes (a.setWidth w) (b.setWidth w) pos len).getLsbD j =
      if pos ≤ j ∧ j < pos + min len w then a.getLsbD (j - pos) else b.getLsbD j := by
  have hw : j - pos < w := by omega
  simp only [bfiRes, BitVec.getLsbD_or, BitVec.getLsbD_and, BitVec.getLsbD_not, BitVec.getLsbD_ofNat,
    Nat.testBit_mul_two_pow, Nat.testBit_two_pow_sub_one, BitVec.testBit_toNat, BitVec.getLsbD_setWidth, hj, hw]
  by_cases hp : pos ≤ j
  · by_cases hl : j - pos < min len w
    · have : j < pos + min len w := by omega
      simp [hp, hl, this]
    · have : ¬ j < pos + min len w := by omega
      simp [hp, hl, this]
  · simp [hp]

/-! ### Counts and reversal (21 R452, 19 R395, 18 R389) -/

theorem popCount_eq {w : Nat} (a : Quad) :
    popCount (a.setWidth w) = ((List.range w).filter fun j => a.getLsbD j).length := by
  have low : (List.range w).filter (a.setWidth w).getLsbD = (List.range w).filter fun j => a.getLsbD j :=
    List.filter_congr fun j hj => by
      rw [BitVec.getLsbD_setWidth, decide_eq_true (List.mem_range.1 hj), Bool.true_and]
  rw [popCount, ← List.foldl_filter (f := fun n _ => n + 1), List.foldl_add_const, Nat.one_mul, Nat.zero_add, low]

theorem leadZeros_le {w : Nat} (x : BitVec w) : leadZeros x ≤ w := by
  unfold leadZeros
  split <;> omega

/-- Above the most significant 1 every bit is 0. -/
theorem getLsbD_above_leadZeros {w : Nat} (x : BitVec w) {j : Nat} (h : w - leadZeros x ≤ j) : x.getLsbD j = false := by
  unfold leadZeros at h
  split at h
  case isTrue h0 => simp [BitVec.getLsbD, h0]
  case isFalse h0 =>
    have hlog : x.toNat.log2 < w := (Nat.log2_lt h0).2 x.isLt
    exact Nat.testBit_lt_two_pow (Nat.lt_of_lt_of_le Nat.lt_log2_self (Nat.pow_le_pow_right two_pos (by omega)))

/-- Where the leading zeros end stands a 1. -/
theorem getLsbD_at_leadZeros {w : Nat} (x : BitVec w) (h : leadZeros x < w) : x.getLsbD (w - 1 - leadZeros x) = true := by
  unfold leadZeros at h ⊢
  split at h
  case isTrue => exact absurd h (Nat.lt_irrefl w)
  case isFalse h0 =>
    have hlog : x.toNat.log2 < w := (Nat.log2_lt h0).2 x.isLt
    rw [if_neg h0, show w - 1 - (w - 1 - x.toNat.log2) = x.toNat.log2 by omega]
    exact Nat.testBit_log2 h0

/-- One more bit of a number, from the top down. -/
theorem high_bits_add_bit (r m : Nat) :
    2 ^ (m + 1) * (r / 2 ^ (m + 1)) + (if r.testBit m then 2 ^ m else 0) = 2 ^ m * (r / 2 ^ m) := by
  have half : r / 2 ^ (m + 1) = r / 2 ^ m / 2 := by rw [Nat.pow_succ, Nat.div_div_eq_div_mul]
  have low : (if r.testBit m then 2 ^ m else 0) = 2 ^ m * (r / 2 ^ m % 2) := by
    rw [Nat.testBit_eq_decide_div_mod_eq]
    rcases Nat.mod_two_eq_zero_or_one (r / 2 ^ m) with e | e <;> simp [e]
  rw [half, low, Nat.pow_succ, Nat.mul_assoc, ← Nat.mul_add, Nat.div_add_mod]

/-- The first `n` bits of a give the high `n` bits of the reversed number. -/
theorem bitRev_firstBits {w : Nat} (a : BitVec w) {n : Nat} (hn : n ≤ w) :
    (List.range n).foldl (fun n i => if a.getLsbD i then n + 2 ^ (w - 1 - i) else n) 0 =
      2 ^ (w - n) * (a.reverse.toNat / 2 ^ (w - n)) := by
  induction n with
  | zero => simp [Nat.div_eq_of_lt a.reverse.isLt]
  | succ n ih =>
    have bit : a.getLsbD n = a.reverse.toNat.testBit (w - (n + 1)) := by
      rw [BitVec.testBit_toNat, BitVec.getLsbD_reverse, BitVec.getMsbD]
      simp [show w - (n + 1) < w by omega, show w - 1 - (w - (n + 1)) = n by omega]
    rw [List.range_succ, List.foldl_append, ih (by omega), ← high_bits_add_bit _ (w - (n + 1)), ← bit,
      show w - (n + 1) + 1 = w - n by omega, show w - (n + 1) = w - 1 - n by omega]
    cases hb : a.getLsbD n <;> simp [hb]

theorem bitRev_eq {w : Nat} (a : BitVec w) : bitRev a = a.reverse.toNat := by
  rw [bitRev, bitRev_firstBits a (Nat.le_refl w)]
  simp

theorem getLsbD_opBrev (w : Nat) (a : Quad) (b : BitVec w) {j : Nat} (hj : j < 128) :
    (opBrev w (a.setWidth w) b).getLsbD j = (decide (j < w) && a.getLsbD (w - 1 - j)) := by
  rw [opBrev, bitRev_eq, BitVec.getLsbD_ofNat, BitVec.testBit_toNat, BitVec.getLsbD_reverse, BitVec.getMsbD]
  by_cases hw : j < w
  · simp [hj, hw, show w - 1 - j < w by omega]
  · simp [hw]

/-! ### The instructions -/

section

variable {i : Instr} {s : State} {k : Who} {f : ExtArgs} (h : Ready i s k) (hc : i.form.commits = false)
include h hc

theorem popcLanes_computes {w : Width} (he : exec i s = .next (bitLanes i f w opPopc s)) :
    Computes i s k f.d w fun l =>
      .write (BitVec.ofNat 128 ((List.range f.ty.bits).filter fun j => (k.src s l f.lit f.ty f.a).getLsbD j).length) 0 :=
  computes_of h hc he fun _ => by rw [← popCount_eq]; rfl

theorem clzLanes_computes {w : Width} (he : exec i s = .next (bitLanes i f w opClz s)) :
    ∃ r : Nat → Nat, Computes i s k f.d w (fun l => .write (BitVec.ofNat 128 (r l)) 0) ∧
      ∀ l, r l ≤ f.ty.bits ∧
        (∀ j, f.ty.bits - r l ≤ j → j < f.ty.bits → (k.src s l f.lit f.ty f.a).getLsbD j = false) ∧
        (r l < f.ty.bits → (k.src s l f.lit f.ty f.a).getLsbD (f.ty.bits - 1 - r l) = true) := by
  let x (l : Nat) : BitVec f.ty.bits := (k.src s l f.lit f.ty f.a).setWidth f.ty.bits
  have low (l : Nat) {j : Nat} (hj : j < f.ty.bits) : (k.src s l f.lit f.ty f.a).getLsbD j = (x l).getLsbD j := by
    simp [x, hj]
  refine ⟨fun l => leadZeros (x l), computes_of h hc he fun _ => rfl, fun l => ⟨leadZeros_le (x l), ?above, ?leading⟩⟩
  case above => exact fun j hz hj => (low l hj).trans (getLsbD_above_leadZeros (x l) hz)
  case leading => exact fun hz => (low l (by omega)).trans (getLsbD_at_leadZeros (x l) hz)

theorem brevLanes_computes {w : Width} (he : exec i s = .next (bitLanes i f w opBrev s)) :
    ComputesBits i s k f.d w fun l j =>
      decide (j < f.ty.bits) && (k.src s l f.lit f.ty f.a).getLsbD (f.ty.bits - 1 - j) :=
  ⟨_, computes_of h hc he fun _ => rfl, fun l _ hj => getLsbD_opBrev f.ty.bits (k.src s l f.lit f.ty f.a) _ hj⟩

end

theorem bfx_computes {f : ExtArgs} {s : State} {k : Who} (h : Ready (.bfx f) s k) :
    ComputesBits (.bfx f) s k f.d f.ty.width fun l j =>
      let pos := ((k.src s l f.lit .n32 f.b).extractLsb' 0 8).toNat
      let len := min ((k.src s l f.lit .n32 f.b).extractLsb' 8 8).toNat f.ty.bits
      let field := fieldBit f.ty.signed f.ty.bits (k.src s l f.lit f.ty f.a) pos
      decide (j < f.ty.bits) && if j < len then field j else f.ty.signed && decide (0 < len) && field (len - 1) := by
  refine ⟨_, computes_of h rfl rfl fun _ => rfl, fun l j hj => getLsbD_setWidth_quad _ hj fun hw => ?_⟩
  rw [bits_toNat, bits_toNat]
  exact getLsbD_bfxRes f.ty.signed (k.src s l f.lit f.ty f.a) _ _ hw

theorem bfi_computes {f : ExtArgs} {s : State} {k : Who} (h : Ready (.bfi f) s k) :
    ComputesBits (.bfi f) s k f.d f.ty.width fun l j =>
      let pos := ((k.src s l f.lit .n32 f.c).extractLsb' 0 8).toNat
      let len := min ((k.src s l f.lit .n32 f.c).extractLsb' 8 8).toNat f.ty.bits
      decide (j < f.ty.bits) && if pos ≤ j ∧ j < pos + len then (k.src s l f.lit f.ty f.a).getLsbD (j - pos)
        else (k.src s l f.lit f.ty f.b).getLsbD j := by
  refine ⟨_, computes_of h rfl rfl fun _ => rfl, fun l j hj => getLsbD_setWidth_quad _ hj fun hw => ?_⟩
  rw [bits_toNat, bits_toNat]
  exact getLsbD_bfiRes (k.src s l f.lit f.ty f.a) (k.src s l f.lit f.ty f.b) _ _ hw

/-- Settles O6: the fields bit by bit, the two counts and the reversed word, at the type's width (`.b32` in the base forms). -/
theorem bitFieldsAndCounts : Obligations.BitFieldsAndCounts := by
  unfold Obligations.BitFieldsAndCounts
  refine ⟨?bfx, ?bfi, ?popc, ?popcExt, ?clz, ?clzExt, ?brev, ?brevExt⟩
  case bfx => exact fun f s k h => bfx_computes h
  case bfi => exact fun f s k h => bfi_computes h
  case popc => exact fun f s k h => popcLanes_computes (f := f.toExt .b32 0) h rfl rfl
  case popcExt => exact fun f s k h => popcLanes_computes h rfl rfl
  case clz => exact fun f s k h => clzLanes_computes (f := f.toExt .b32 0) h rfl rfl
  case clzExt => exact fun f s k h => clzLanes_computes h rfl rfl
  case brev => exact fun f s k h => brevLanes_computes (f := f.toExt .b32 0) h rfl rfl
  case brevExt => exact fun f s k h => brevLanes_computes h rfl rfl

end Sys2Proof.Machine
end

section
/-! SUPPORT. Decoding and encoding are each other's inverse (05 R97 to R116): the fields of a word, the codes of operands, the opcode
tables, and each layout both ways. Settles O55. -/

-- One theorem at a time: many at once ask for more threads than the checker has memory for.
set_option Elab.async false

namespace Sys2Proof

/-! ### The fields of a word -/

theorem append_eq_iff {a b : Nat} {x : BitVec a} {y : BitVec b} {w : BitVec (a + b)} :
    x ++ y = w ↔ x = w.extractLsb' b a ∧ y = w.extractLsb' 0 b := by
  constructor
  · rintro rfl
    exact ⟨by simp [BitVec.extractLsb'_append_eq_left], by simp [BitVec.extractLsb'_append_eq_right]⟩
  · rintro ⟨rfl, rfl⟩
    exact BitVec.extractLsb'_append_extractLsb'

theorem extractLsb'_extractLsb'_of_le {v s n t m : Nat} {w : BitVec v} (h : t + m ≤ n) :
    (w.extractLsb' s n).extractLsb' t m = w.extractLsb' (s + t) m := by
  ext i hi
  simp [Nat.add_assoc]
  omega

theorem ofBool_eq_extractLsb' {v n : Nat} {w : BitVec v} {b : Bool} :
    BitVec.ofBool b = w.extractLsb' n 1 ↔ b = w.getLsbD n := by
  constructor
  · intro h
    simpa using congrArg (BitVec.getLsbD · 0) h
  · rintro rfl
    ext i hi
    simp [show i = 0 by omega]

theorem zero_append_extractLsb' {v n a b : Nat} {w : BitVec v} :
    0#(a + b) = w.extractLsb' n (a + b) ↔ 0#a = w.extractLsb' (n + b) a ∧ 0#b = w.extractLsb' n b := by
  rw [← BitVec.zero_append_zero, append_eq_iff, extractLsb'_extractLsb'_of_le (by omega), extractLsb'_extractLsb'_of_le (by omega)]
  rfl

theorem wordOfBytes_bytesOfWord (w : Word) :
    wordOfBytes (w.extractLsb' 0 8) (w.extractLsb' 8 8) (w.extractLsb' 16 8) (w.extractLsb' 24 8) = w := by
  unfold wordOfBytes
  rw [append_eq_iff, append_eq_iff, append_eq_iff]
  simp only [extractLsb'_extractLsb'_of_le, Nat.reduceAdd, Nat.reduceLeDiff, and_self]

/-- Words read back from their bytes. -/
theorem wordsOfBytes_flatMap (ws : List Word) (r : List Byte) :
    wordsOfBytes (ws.flatMap bytesOfWord ++ r) = ws ++ wordsOfBytes r := by
  induction ws with
  | nil => rfl
  | cons w ws ih =>
    show wordOfBytes _ _ _ _ :: wordsOfBytes (ws.flatMap bytesOfWord ++ r) = _
    rw [wordOfBytes_bytesOfWord, ih, List.cons_append]

theorem wordsOfBytes_flatMap_self (ws : List Word) : wordsOfBytes (ws.flatMap bytesOfWord) = ws := by
  simpa [wordsOfBytes] using wordsOfBytes_flatMap ws []

/-- The two words of a literal, the low one first. -/
theorem literal_eq (x : DWord) : x.extractLsb' 32 32 ++ x.extractLsb' 0 32 = x := by
  rw [append_eq_iff]
  exact ⟨rfl, rfl⟩

theorem litWords_append (hi lo : Word) : litWords (some (hi ++ lo)) = [lo, hi] := by
  obtain ⟨h, l⟩ := append_eq_iff.1 (rfl : hi ++ lo = hi ++ lo)
  exact congrArg₂ (fun a b => [a, b]) l.symm h.symm

/-- LEN of a base word (05 Table 5.1). -/
def baseLen (lit : Option DWord) : BitVec 2 := if lit.isSome then 1#2 else 0#2

/-- LEN of an extended form (05 Table 5.1). -/
def extLen (lit : Option DWord) : BitVec 2 := if lit.isSome then 3#2 else 2#2

theorem BaseArgs.word_eq_iff {op : Nat} {f : BaseArgs} {w : Word} :
    f.word op = w ↔ f.xb = w.extractLsb' 30 2 ∧ f.eb = w.getLsbD 29 ∧ f.ea = w.getLsbD 28 ∧ f.b.code6 = w.extractLsb' 22 6 ∧
      f.a.code6 = w.extractLsb' 16 6 ∧ f.d.code6 = w.extractLsb' 10 6 ∧ BitVec.ofNat 8 op = w.extractLsb' 2 8 ∧
      baseLen f.lit = w.extractLsb' 0 2 := by
  unfold BaseArgs.word baseLen
  rw [append_eq_iff, append_eq_iff, append_eq_iff, append_eq_iff, append_eq_iff, append_eq_iff, append_eq_iff]
  simp only [extractLsb'_extractLsb'_of_le, Nat.reduceAdd, Nat.reduceLeDiff, and_assoc, ofBool_eq_extractLsb']

theorem ExtArgs.word0_eq_iff {op : Nat} {f : ExtArgs} {w : Word} :
    f.word0 op = w ↔ f.xb = w.extractLsb' 30 2 ∧ 0#2 = w.extractLsb' 28 2 ∧ f.x18 = w.extractLsb' 10 18 ∧
      BitVec.ofNat 8 op = w.extractLsb' 2 8 ∧ extLen f.lit = w.extractLsb' 0 2 := by
  unfold ExtArgs.word0 extLen
  rw [append_eq_iff, append_eq_iff, append_eq_iff, append_eq_iff]
  simp only [extractLsb'_extractLsb'_of_le, Nat.reduceAdd, Nat.reduceLeDiff, and_assoc]

theorem ExtArgs.word1_eq_iff {f : ExtArgs} {w : Word} :
    f.word1 = w ↔ f.ty.code = w.extractLsb' 27 5 ∧ f.b.code9 = w.extractLsb' 18 9 ∧ f.a.code9 = w.extractLsb' 9 9 ∧
      f.d.code9 = w.extractLsb' 0 9 := by
  unfold ExtArgs.word1
  rw [append_eq_iff, append_eq_iff, append_eq_iff]
  simp only [extractLsb'_extractLsb'_of_le, Nat.reduceAdd, Nat.reduceLeDiff, and_assoc]

theorem ExtArgs.word2_eq_iff {f : ExtArgs} {w : Word} :
    f.word2 = w ↔ f.aux = w.extractLsb' 24 8 ∧ f.md = w.extractLsb' 18 6 ∧ f.ec = w.getLsbD 17 ∧ f.eb = w.getLsbD 16 ∧
      f.ea = w.getLsbD 15 ∧ f.rm.code = w.extractLsb' 12 3 ∧ f.sc.code = w.extractLsb' 9 3 ∧ f.c.code9 = w.extractLsb' 0 9 := by
  unfold ExtArgs.word2
  rw [append_eq_iff, append_eq_iff, append_eq_iff, append_eq_iff, append_eq_iff, append_eq_iff, append_eq_iff]
  simp only [extractLsb'_extractLsb'_of_le, Nat.reduceAdd, Nat.reduceLeDiff, and_assoc, ofBool_eq_extractLsb']

/-! ### Codes -/

theorem Ty.ofCode_code (t : Ty) : Ty.ofCode t.code = some t := by cases t <;> rfl

theorem Ty.code_of_ofCode : ∀ c t, Ty.ofCode c = some t → t.code = c := by
  have h : ∀ c, (Ty.ofCode c).all fun t => t.code = c := by decide
  intro c t e
  simpa [e] using h c

theorem Rm.ofCode_code (m : Rm) : Rm.ofCode m.code = some m := by cases m <;> rfl

theorem Rm.code_of_ofCode : ∀ c m, Rm.ofCode c = some m → m.code = c := by
  have h : ∀ c, (Rm.ofCode c).all fun m => m.code = c := by decide
  intro c t e
  simpa [e] using h c

theorem Scope.ofCode_code (m : Scope) : Scope.ofCode m.code = some m := by cases m <;> rfl

theorem Scope.code_of_ofCode : ∀ c m, Scope.ofCode c = some m → m.code = c := by
  have h : ∀ c, (Scope.ofCode c).all fun m => m.code = c := by decide
  intro c t e
  simpa [e] using h c

/-- An operand in a base field is read back from its code. -/
theorem FieldKind.read6_code6 {k : FieldKind} {o : Opd} (h : k.ok true o = true) : k.read6 o.code6 = some o := by
  have hv : ∀ i : BitVec 8, i.toNat < 48 → Opd.of6 (Opd.v i).code6 = some (.v i) := by decide
  have hk : ∀ i, Opd.of6 (Opd.k i).code6 = some (.k i) := by decide
  have hh : ∀ i, Opd.of6 (Opd.h i).code6 = some (.h i) := by decide
  have hp : ∀ i inv, Opd.ofPred (Opd.pred i inv).code6.toNat = some (.pred i inv) := by decide
  have hs : ∀ n, Opd.ofSreg (Opd.sreg n).code6.toNat = some (.sreg n) := by decide
  cases k <;> cases o <;>
    simp_all only [FieldKind.ok, FieldKind.read6, Bool.and_eq_true, Bool.or_eq_true, Bool.not_true, Bool.false_eq_true, false_or,
      decide_eq_true_eq, false_and] <;> rfl

/-- An operand in an extended field is read back from its code. -/
theorem FieldKind.read9_code9 {k : FieldKind} {o : Opd} (h : k.ok false o = true) (hr : k ≠ .sregR) (hw : k ≠ .sregW) :
    k.read9 o.code9 = some o := by
  have hv : ∀ i : BitVec 8, Opd.of9 (Opd.v i).code9 = some (.v i) := by decide
  have hk : ∀ i, Opd.of9 (Opd.k i).code9 = some (.k i) := by decide
  have hh : ∀ i, Opd.of9 (Opd.h i).code9 = some (.h i) := by decide
  have hi : ∀ i, Opd.of9 (Opd.imm i).code9 = some (.imm i) := by decide
  have hp : ∀ i inv, Opd.ofPred (Opd.pred i inv).code9.toNat = some (.pred i inv) := by decide
  have hs : ∀ n, Opd.of9 (Opd.sreg n).code9 = some (.sreg n) := by decide
  cases k <;> cases o <;>
    simp_all only [FieldKind.ok, FieldKind.read9, Bool.false_eq_true, ne_eq, not_true_eq_false] <;> rfl

/-- The code that a base field's operand was read from; a code that names nothing reads as no operand. -/
theorem FieldKind.code6_of_read6 {k : FieldKind} {c : BitVec 6} {o : Opd} (h : k.read6 c = some o) (ho : k.ok true o = true) :
    o.code6 = c := by
  have h6 : ∀ c, (Opd.of6 c).all fun o => o.code6 = c ∨ o = .none := by decide
  have hp : ∀ c : BitVec 6, (Opd.ofPred c.toNat).all fun o => o.code6 = c ∨ o = .none := by decide
  have hs : ∀ c : BitVec 6, (Opd.ofSreg c.toNat).all fun o => o.code6 = c ∨ o = .none := by decide
  have code : k = .unused ∨ o.code6 = c ∨ o = .none := by
    cases k <;> simp only [FieldKind.read6] at h
    case unused => exact .inl rfl
    case pred | predInv => exact .inr (by simpa [h] using hp c)
    case sregR | sregW => exact .inr (by simpa [h] using hs c)
    all_goals exact .inr (by simpa [h] using h6 c)
  rcases code with rfl | code | rfl
  · obtain ⟨rfl, e⟩ : c = 0 ∧ _ := by simpa [FieldKind.read6] using h
    rw [← e]; rfl
  · exact code
  · cases k <;> simp_all [FieldKind.ok, FieldKind.read6]
    rfl

theorem FieldKind.code9_of_read9 {k : FieldKind} {c : BitVec 9} {o : Opd} (h : k.read9 c = some o) (ho : k.ok false o = true) :
    o.code9 = c := by
  have h9 : ∀ c, (Opd.of9 c).all fun o => o.code9 = c ∨ o = .none := by decide +kernel
  have hp : ∀ c : BitVec 9, (Opd.ofPred c.toNat).all fun o => o.code9 = c ∨ o = .none := by decide +kernel
  have code : k = .unused ∨ o.code9 = c ∨ o = .none := by
    cases k <;> simp only [FieldKind.read9] at h
    case unused => exact .inl rfl
    case pred | predInv => exact .inr (by simpa [h] using hp c)
    case sregR | sregW => cases h
    all_goals exact .inr (by simpa [h] using h9 c)
  rcases code with rfl | code | rfl
  · obtain ⟨rfl, e⟩ : c = 0 ∧ _ := by simpa [FieldKind.read9] using h
    rw [← e]; rfl
  · exact code
  · cases k <;> simp_all [FieldKind.ok, FieldKind.read9]
    rfl

/-! ### The opcode tables -/

/-- The instruction that an opcode and its fields name in either layout leads back to that layout. -/
theorem formBack (i : Instr) : Laws.FormBack.Statement i := by
  open Laws.FormBack in
  cases i
  case fenceAcq f => exact fenceAcq f
  case fenceRel f => exact fenceRel f
  case fenceAr f => exact fenceAr f
  case discLine f => exact discLine f
  case discAll f => exact discAll f
  case tlbiPage f => exact tlbiPage f
  case tlbiAsid f => exact tlbiAsid f
  case tlbiAll f => exact tlbiAll f
  case xfencePt f => exact xfencePt f
  case xfenceInv f => exact xfenceInv f
  case xfenceAd f => exact xfenceAd f
  case xfenceAll f => exact xfenceAll f
  case migr f => exact migr f
  case migrEvac f => exact migrEvac f
  case cfenceDone f => exact cfenceDone f
  case cfenceRead f => exact cfenceRead f
  case ofill f => exact ofill f
  case ofillOut f => exact ofillOut f
  case ostrOpen f => exact ostrOpen f
  case ostrPost f => exact ostrPost f
  case ostrClose f => exact ostrClose f
  case osub f => exact osub f
  case osubDrop f => exact osubDrop f
  case rflshGo f => exact rflshGo f
  case rflshWait f => exact rflshWait f
  case rpollOpen f => exact rpollOpen f
  case rpollCnt f => exact rpollCnt f
  case rpollFree f => exact rpollFree f
  case rpollClose f => exact rpollClose f
  case rpollSent f => exact rpollSent f
  case rpollRefd f => exact rpollRefd f
  case perfRead f => exact perfRead f
  case perfClr f => exact perfClr f
  case hcapCfg f => exact hcapCfg f
  case hcapRd f => exact hcapRd f
  case hcapClr f => exact hcapClr f
  all_goals exact fun _ => by trivial

theorem opcode_of_base {i : Instr} {op : Nat} {f : BaseArgs} (h : i.form = .base op f) :
    op < 256 ∧ op ∉ [1, 2, 4, 6, 8, 0xB, 0xD] := by
  cases i <;> cases h <;> decide

theorem opcode_of_ext {i : Instr} {op : Nat} {f : ExtArgs} (h : i.form = .ext op f) : op < 256 ∧ op ≠ 6 := by
  cases i <;> cases h <;> decide

theorem partsOk_of_form {i : Instr} (h : i.form ≠ .event) : i.partsOk = true := by
  cases i <;> first | rfl | exact absurd rfl h

/-- An unused field holds no operand. -/
theorem FieldKind.ok_unused {base : Bool} {o : Opd} : FieldKind.unused.ok base o = true ↔ o = .none := by
  cases o <;> simp [FieldKind.ok]

theorem FieldKind.eOk_unused {o : Opd} {e : Bool} : FieldKind.unused.eOk o e = true ↔ e = false := by
  simp [FieldKind.eOk]

/-- The base forms without operands (06 Table 6.1). -/
def bareOpcodes : List Nat := [0x00, 0x07, 0x09, 0x0C, 0xB1, 0xB8, 0xB9, 0xBA, 0xBB]

theorem empty_of_baseOk {op : Nat} {f : BaseArgs} (h : baseOk op f = true) (ho : op ∈ bareOpcodes) : f = .empty := by
  obtain ⟨d, a, b, ea, eb, xb, lit⟩ := f
  have spec : baseSpec op xb d.code6 a.code6 = if xb = 0#2 then some { d := .unused, a := .unused, b := .unused } else none := by
    simp only [bareOpcodes, List.mem_cons, List.not_mem_nil, or_false] at ho
    rcases ho with rfl | rfl | rfl | rfl | rfl | rfl | rfl | rfl | rfl <;> rfl
  have mov : op ≠ 0x41 := by rintro rfl; revert ho; decide
  simp only [baseOk, spec] at h
  by_cases hx : xb = 0#2
  · simp only [hx, if_true, Bool.and_eq_true, FieldKind.ok_unused, FieldKind.eOk_unused, mov, if_false] at h
    obtain ⟨⟨⟨⟨⟨rfl, rfl⟩, rfl⟩, rfl⟩, rfl⟩, hl⟩ := h
    have none : lit = Option.none := by simpa [Opd.isLit] using hl
    rw [hx, none]; rfl
  · simp [hx] at h

theorem form_of_baseInstr {op : Nat} {f : BaseArgs} {i : Instr} (h : baseInstr op f = some i) (ok : baseOk op f = true) :
    i.form = .base op f ∧ i.subOk = true := by
  unfold baseInstr at h
  split at h
  case h_64 => cases h
  all_goals cases h
  case h_1 | h_4 | h_5 | h_7 | h_59 | h_60 | h_61 | h_62 | h_63 => exact ⟨by rw [empty_of_baseOk ok (by decide)]; rfl, rfl⟩
  all_goals exact ⟨rfl, rfl⟩

theorem extSpec_migr_aux {f : ExtArgs} (h : extOk 0x94 f = true) : f.aux = 0 ∨ f.aux = 1 := by
  have lt : f.aux.toNat < 2 := by
    by_contra hlt
    simp [extOk, extSpec, hlt] at h
  have values : f.aux.toNat = 0 ∨ f.aux.toNat = 1 := by omega
  exact values.imp BitVec.eq_of_toNat_eq BitVec.eq_of_toNat_eq

theorem form_of_extInstr {op : Nat} {f : ExtArgs} {i : Instr} (h : extInstr op f = some i) (ok : extOk op f = true) :
    i.form = .ext op f ∧ i.subOk = true := by
  have md {n : Nat} (hn : f.md.toNat = n) : f.md = BitVec.ofNat 6 n := by rw [← hn, BitVec.ofNat_toNat, BitVec.setWidth_eq]
  unfold extInstr at h
  split at h
  case h_125 => cases h
  case h_91 =>
    have aux := extSpec_migr_aux ok
    split at h <;> cases h <;> simp_all [Instr.form, Instr.subOk]
  case h_79 | h_83 | h_89 | h_90 | h_103 | h_106 | h_107 | h_108 | h_118 | h_119 | h_122 | h_123 =>
    split at h <;> cases h <;> simp_all [Instr.form, Instr.subOk]
  all_goals
    cases h
    exact ⟨rfl, rfl⟩

/-- A kind of field that an extended form has (05 R102). -/
def FieldKind.extended : FieldKind → Bool
  | .sregR | .sregW => false
  | _ => true

theorem extSpec_extended {op : Nat} {f : ExtArgs} {s : ExtSpec} (h : extSpec op f = some s) :
    s.d.extended = true ∧ s.a.extended = true ∧ s.b.extended = true ∧ s.c.extended = true := by
  dsimp only [extSpec] at h
  split at h
  all_goals repeat' split at h
  all_goals cases h <;> exact ⟨rfl, rfl, rfl, rfl⟩

theorem FieldKind.read9_of_extended {k : FieldKind} {o : Opd} (h : k.ok false o = true) (hk : k.extended = true) :
    k.read9 o.code9 = some o :=
  k.read9_code9 h (by rintro rfl; cases hk) (by rintro rfl; cases hk)

/-- The kinds of a base form's fields depend on its operands only in `SRD` and `SWR` (04 Table 4.3). -/
theorem baseSpec_operands {op : Nat} {xb : BitVec 2} {d a d' a' : BitVec 6} {s : BaseSpec} (h : baseSpec op xb d a = some s)
    (srd : op ≠ 0x42) (swr : op ≠ 0x43) : baseSpec op xb d' a' = some s := by
  dsimp only [baseSpec] at h
  split at h
  case h_40 => exact absurd rfl srd
  case h_41 => exact absurd rfl swr
  case h_64 => cases h
  all_goals exact h

/-- The operands do not change how the fields are read. -/
theorem baseSpec_read6 {op : Nat} {xb : BitVec 2} {d a d' a' : BitVec 6} {s s' : BaseSpec}
    (h : baseSpec op xb d a = some s) (h' : baseSpec op xb d' a' = some s') :
    s.d.read6 = s'.d.read6 ∧ s.a.read6 = s'.a.read6 ∧ s.b.read6 = s'.b.read6 := by
  by_cases srd : op = 0x42
  · subst srd
    obtain ⟨-, rfl⟩ : xb = 0 ∧ _ = s := by simpa [baseSpec] using h
    obtain ⟨-, rfl⟩ : xb = 0 ∧ _ = s' := by simpa [baseSpec] using h'
    exact ⟨rfl, rfl, rfl⟩
  by_cases swr : op = 0x43
  · subst swr
    obtain ⟨-, rfl⟩ : xb = 0 ∧ _ = s := by simpa [baseSpec] using h
    obtain ⟨-, rfl⟩ : xb = 0 ∧ _ = s' := by simpa [baseSpec] using h'
    exact ⟨rfl, rfl, rfl⟩
  · have same := (baseSpec_operands h srd swr).symm.trans h'
    cases same
    exact ⟨rfl, rfl, rfl⟩

/-- The operands of a base form that obeys the rules are legal in their fields. -/
theorem baseOk_fields {op : Nat} {f : BaseArgs} (h : baseOk op f = true) : ∃ s, baseSpec op f.xb f.d.code6 f.a.code6 = some s ∧
    s.d.ok true f.d = true ∧ s.a.ok true f.a = true ∧ s.b.ok true f.b = true := by
  unfold baseOk at h
  split at h
  case h_1 => cases h
  case h_2 s hs =>
    simp only [Bool.and_eq_true] at h
    obtain ⟨⟨⟨⟨⟨d, a⟩, b⟩, -⟩, -⟩, -⟩ := h
    exact ⟨s, hs, d, a, b⟩

theorem extOk_fields {op : Nat} {f : ExtArgs} (h : extOk op f = true) : ∃ s, extSpec op f = some s ∧
    s.d.ok false f.d = true ∧ s.a.ok false f.a = true ∧ s.b.ok false f.b = true ∧ s.c.ok false f.c = true := by
  unfold extOk at h
  split at h
  case h_1 => cases h
  case h_2 s hs =>
    simp only [Bool.and_eq_true] at h
    obtain ⟨⟨⟨⟨⟨⟨⟨⟨⟨d, a⟩, b⟩, c⟩, -⟩, -⟩, -⟩, -⟩, -⟩, -⟩ := h
    exact ⟨s, hs, d, a, b, c⟩

/-- A base form whose fields obey the rules is read back from its word (05 Table 5.2). -/
theorem decodeBase_word {op : Nat} {f : BaseArgs} {i : Instr} (hop : op < 256) (ok : baseOk op f = true)
    (hi : baseInstr op f = some i) : decodeBase (f.word op) f.lit = .ok i := by
  obtain ⟨xb, eb, ea, b, a, d, code, -⟩ := BaseArgs.word_eq_iff.1 (rfl : f.word op = f.word op)
  have hop : opOf (f.word op) = op := by
    rw [opOf, ← code, BitVec.toNat_ofNat]
    exact Nat.mod_eq_of_lt hop
  unfold decodeBase
  simp only [hop, ← xb, ← eb, ← ea, ← b, ← a, ← d]
  obtain ⟨s, hs, okD, okA, okB⟩ := baseOk_fields ok
  simp only [hs, FieldKind.read6_code6 okD, FieldKind.read6_code6 okA, FieldKind.read6_code6 okB]
  simp [ok, hi]

/-- An extended form whose fields obey the rules is read back from its words (05 Table 5.4). -/
theorem decodeExt_words {op : Nat} {f : ExtArgs} {i : Instr} (hop : op < 256) (ok : extOk op f = true)
    (hi : extInstr op f = some i) : decodeExt (f.word0 op) f.word1 f.word2 f.lit = .ok i := by
  obtain ⟨xb, zero, x18, code, -⟩ := ExtArgs.word0_eq_iff.1 (rfl : f.word0 op = f.word0 op)
  obtain ⟨ty, b, a, d⟩ := ExtArgs.word1_eq_iff.1 (rfl : f.word1 = f.word1)
  obtain ⟨aux, md, ec, eb, ea, rm, sc, c⟩ := ExtArgs.word2_eq_iff.1 (rfl : f.word2 = f.word2)
  have hop : opOf (f.word0 op) = op := by
    rw [opOf, ← code, BitVec.toNat_ofNat]
    exact Nat.mod_eq_of_lt hop
  unfold decodeExt
  simp only [hop, ← xb, ← zero, ← x18, ← ty, ← b, ← a, ← d, ← aux, ← md, ← ec, ← eb, ← ea, ← rm, ← sc, ← c, Ty.ofCode_code, Rm.ofCode_code,
    Scope.ofCode_code]
  obtain ⟨s, hs, okD, okA, okB, okC⟩ := extOk_fields ok
  obtain ⟨kd, ka, kb, kc⟩ := extSpec_extended hs
  have blank : extSpec op { f with d := .none, a := .none, b := .none, c := .none } = some s := hs
  simp only [blank, FieldKind.read9_of_extended okD kd, FieldKind.read9_of_extended okA ka, FieldKind.read9_of_extended okB kb,
      FieldKind.read9_of_extended okC kc]
  simp [ok, hi]

/-- What a word that decodes stands for: a well-formed instruction that is no event and has these words. -/
def Stands (i : Instr) (ws : List Word) : Prop := i.wf = true ∧ i.form ≠ .event ∧ encodeWords i = ws

theorem stands_of_form {i : Instr} {f : Form} {ws : List Word} (hf : i.form = f) (ok : f.ok = true) (sub : i.subOk = true) (he : f ≠ .event)
    (hw : f.words = ws) : Stands i ws := by
  subst hf
  exact ⟨by simp [Instr.wf, ok, sub, partsOk_of_form he], he, hw⟩

theorem ofNat_opOf (w : Word) : BitVec.ofNat 8 (opOf w) = w.extractLsb' 2 8 := by
  rw [opOf, BitVec.ofNat_toNat, BitVec.setWidth_eq]

theorem decodeBase_stands {w0 : Word} {lit : Option DWord} {i : Instr} (len : w0.extractLsb' 0 2 = baseLen lit)
    (h : decodeBase w0 lit = .ok i) : Stands i (w0 :: litWords lit) := by
  unfold decodeBase at h
  dsimp only at h
  split at h
  case h_1 => cases h
  case h_2 s hs =>
    split at h
    case h_2 => cases h
    case h_1 d a b hd ha hb =>
      split at h
      case isFalse => cases h
      case isTrue ok =>
        split at h
        case h_2 => cases h
        case h_1 j hj =>
          cases h
          obtain ⟨hf, sub⟩ := form_of_baseInstr hj ok
          refine stands_of_form hf ok sub (by simp) ?_
          obtain ⟨s', hs', okD, okA, okB⟩ := baseOk_fields ok
          obtain ⟨rd, ra, rb⟩ := baseSpec_read6 hs hs'
          show BaseArgs.word _ _ :: _ = _
          rw [BaseArgs.word_eq_iff.2]
          exact ⟨rfl, rfl, rfl, FieldKind.code6_of_read6 (by rw [← rb]; exact hb) okB,
            FieldKind.code6_of_read6 (by rw [← ra]; exact ha) okA, FieldKind.code6_of_read6 (by rw [← rd]; exact hd) okD,
            ofNat_opOf w0, len.symm⟩

/-- The fields of an extended form but its operands (05 Table 5.4). -/
def blankExt (w0 w2 : Word) (lit : Option DWord) (ty : Ty) (rm : Rm) (sc : Scope) : ExtArgs :=
  { d := .none, a := .none, b := .none, c := .none
    ea := w2.getLsbD 15, eb := w2.getLsbD 16, ec := w2.getLsbD 17
    ty, rm, sc, md := w2.extractLsb' 18 6, aux := w2.extractLsb' 24 8
    x18 := w0.extractLsb' 10 18, xb := w0.extractLsb' 30 2, lit }

/-- The decoder's last question: do the fields obey the rules, and which instruction is it. -/
theorem checkExt_stands {w0 w1 w2 : Word} {lit : Option DWord} {ty : Ty} {rm : Rm} {sc : Scope} {s : ExtSpec} {d a b c : Opd} {i : Instr}
    (len : w0.extractLsb' 0 2 = extLen lit) (hty : Ty.ofCode (w1.extractLsb' 27 5) = some ty)
    (hrm : Rm.ofCode (w2.extractLsb' 12 3) = some rm) (hsc : Scope.ofCode (w2.extractLsb' 9 3) = some sc)
    (hs : extSpec (opOf w0) (blankExt w0 w2 lit ty rm sc) = some s)
    (hd : s.d.read9 (w1.extractLsb' 0 9) = some d) (ha : s.a.read9 (w1.extractLsb' 9 9) = some a)
    (hb : s.b.read9 (w1.extractLsb' 18 9) = some b) (hc : s.c.read9 (w2.extractLsb' 0 9) = some c)
    (ok : extOk (opOf w0) { blankExt w0 w2 lit ty rm sc with d := d, a := a, b := b, c := c } = true)
    (zero : w0.extractLsb' 28 2 = 0)
    (hi : extInstr (opOf w0) { blankExt w0 w2 lit ty rm sc with d := d, a := a, b := b, c := c } = some i) :
    Stands i (w0 :: w1 :: w2 :: litWords lit) := by
  obtain ⟨hf, sub⟩ := form_of_extInstr hi ok
  refine stands_of_form hf ok sub (by simp) ?_
  obtain ⟨s', hs', okD, okA, okB, okC⟩ := extOk_fields ok
  have same : s' = s := Option.some.inj (hs'.symm.trans hs)
  subst same
  show ExtArgs.word0 _ _ :: ExtArgs.word1 _ :: ExtArgs.word2 _ :: _ = _
  rw [ExtArgs.word0_eq_iff.2 ⟨rfl, zero.symm, rfl, ofNat_opOf w0, len.symm⟩,
    ExtArgs.word1_eq_iff.2 ⟨Ty.code_of_ofCode _ _ hty, FieldKind.code9_of_read9 hb okB, FieldKind.code9_of_read9 ha okA,
      FieldKind.code9_of_read9 hd okD⟩,
    ExtArgs.word2_eq_iff.2 ⟨rfl, rfl, rfl, rfl, rfl, Rm.code_of_ofCode _ _ hrm, Scope.code_of_ofCode _ _ hsc,
      FieldKind.code9_of_read9 hc okC⟩]
  rfl

theorem decodeExt_stands {w0 w1 w2 : Word} {lit : Option DWord} {i : Instr} (len : w0.extractLsb' 0 2 = extLen lit)
    (h : decodeExt w0 w1 w2 lit = .ok i) : Stands i (w0 :: w1 :: w2 :: litWords lit) := by
  unfold decodeExt at h
  rcases hty : Ty.ofCode (w1.extractLsb' 27 5) with - | ty
  · simp only [hty] at h; cases h
  rcases hrm : Rm.ofCode (w2.extractLsb' 12 3) with - | rm
  · simp only [hty, hrm] at h; cases h
  rcases hsc : Scope.ofCode (w2.extractLsb' 9 3) with - | sc
  · simp only [hty, hrm, hsc] at h; cases h
  simp only [hty, hrm, hsc] at h
  change (match extSpec (opOf w0) (blankExt w0 w2 lit ty rm sc) with | none => _ | some s => _) = _ at h
  rcases hs : extSpec (opOf w0) (blankExt w0 w2 lit ty rm sc) with - | s
  · simp only [hs] at h; cases h
  simp only [hs] at h
  split at h
  case h_2 => cases h
  case h_1 d a b c hd ha hb hc =>
    split at h
    case isFalse => cases h
    case isTrue ok =>
      simp only [Bool.and_eq_true, decide_eq_true_eq] at ok
      split at h
      case h_2 => cases h
      case h_1 j hj =>
        cases h
        exact checkExt_stands len hty hrm hsc hs hd ha hb hc ok.1 ok.2 hj

/-! ### The layouts of branches, `JOIN`, `PBLK`, `TRAP` and `BRK` -/

theorem brWord_eq_iff {op : Nat} {off : BitVec 20} {w : Word} : 0#2 ++ off ++ BitVec.ofNat 8 op ++ 0#2 = w ↔
    0#2 = w.extractLsb' 30 2 ∧ off = w.extractLsb' 10 20 ∧ BitVec.ofNat 8 op = w.extractLsb' 2 8 ∧ 0#2 = w.extractLsb' 0 2 := by
  rw [append_eq_iff, append_eq_iff, append_eq_iff]
  simp only [extractLsb'_extractLsb'_of_le, Nat.reduceAdd, Nat.reduceLeDiff, and_assoc]

theorem brLitWord_eq_iff {op : Nat} {w : Word} : 0#22 ++ BitVec.ofNat 8 op ++ 1#2 = w ↔
    0#2 = w.extractLsb' 30 2 ∧ 0#20 = w.extractLsb' 10 20 ∧ BitVec.ofNat 8 op = w.extractLsb' 2 8 ∧ 1#2 = w.extractLsb' 0 2 := by
  rw [append_eq_iff, append_eq_iff, zero_append_extractLsb' (a := 2) (b := 20)]
  simp only [extractLsb'_extractLsb'_of_le, Nat.reduceAdd, Nat.reduceLeDiff, and_assoc]

theorem brpWord_eq_iff {p : BitVec 3} {sense : Bool} {off : BitVec 16} {w : Word} :
    0#2 ++ off ++ BitVec.ofBool sense ++ p ++ 2#8 ++ 0#2 = w ↔
    0#2 = w.extractLsb' 30 2 ∧ off = w.extractLsb' 14 16 ∧ sense = w.getLsbD 13 ∧ p = w.extractLsb' 10 3 ∧
      2#8 = w.extractLsb' 2 8 ∧ 0#2 = w.extractLsb' 0 2 := by
  rw [append_eq_iff, append_eq_iff, append_eq_iff, append_eq_iff, append_eq_iff]
  simp only [extractLsb'_extractLsb'_of_le, Nat.reduceAdd, Nat.reduceLeDiff, and_assoc, ofBool_eq_extractLsb']

theorem brpLitWord_eq_iff {p : BitVec 3} {sense : Bool} {w : Word} : 0#18 ++ BitVec.ofBool sense ++ p ++ 2#8 ++ 1#2 = w ↔
    0#2 = w.extractLsb' 30 2 ∧ 0#16 = w.extractLsb' 14 16 ∧ sense = w.getLsbD 13 ∧ p = w.extractLsb' 10 3 ∧
      2#8 = w.extractLsb' 2 8 ∧ 1#2 = w.extractLsb' 0 2 := by
  rw [append_eq_iff, append_eq_iff, append_eq_iff, append_eq_iff, zero_append_extractLsb' (a := 2) (b := 16)]
  simp only [extractLsb'_extractLsb'_of_le, Nat.reduceAdd, Nat.reduceLeDiff, and_assoc, ofBool_eq_extractLsb']

theorem joinWord_eq_iff {d : BitVec 6} {off : BitVec 14} {w : Word} : 0#2 ++ off ++ d ++ 6#8 ++ 0#2 = w ↔
    0#2 = w.extractLsb' 30 2 ∧ off = w.extractLsb' 16 14 ∧ d = w.extractLsb' 10 6 ∧ 6#8 = w.extractLsb' 2 8 ∧
      0#2 = w.extractLsb' 0 2 := by
  rw [append_eq_iff, append_eq_iff, append_eq_iff, append_eq_iff]
  simp only [extractLsb'_extractLsb'_of_le, Nat.reduceAdd, Nat.reduceLeDiff, and_assoc]

theorem joinLitWord_eq_iff {d : BitVec 6} {w : Word} : 0#16 ++ d ++ 6#8 ++ 1#2 = w ↔
    0#2 = w.extractLsb' 30 2 ∧ 0#14 = w.extractLsb' 16 14 ∧ d = w.extractLsb' 10 6 ∧ 6#8 = w.extractLsb' 2 8 ∧
      1#2 = w.extractLsb' 0 2 := by
  rw [append_eq_iff, append_eq_iff, append_eq_iff, zero_append_extractLsb' (a := 2) (b := 14)]
  simp only [extractLsb'_extractLsb'_of_le, Nat.reduceAdd, Nat.reduceLeDiff, and_assoc]

theorem joinExtWord0_eq_iff {x18 : BitVec 18} {len : BitVec 2} {w : Word} : 0#4 ++ x18 ++ 6#8 ++ len = w ↔
    0#4 = w.extractLsb' 28 4 ∧ x18 = w.extractLsb' 10 18 ∧ 6#8 = w.extractLsb' 2 8 ∧ len = w.extractLsb' 0 2 := by
  rw [append_eq_iff, append_eq_iff, append_eq_iff]
  simp only [extractLsb'_extractLsb'_of_le, Nat.reduceAdd, Nat.reduceLeDiff, and_assoc]

theorem joinExtWord1_eq_iff {d : BitVec 9} {w : Word} :
    0#23 ++ d = w ↔ 0#23 = w.extractLsb' 9 23 ∧ d = w.extractLsb' 0 9 := append_eq_iff

theorem joinExtWord2_eq_iff {keep rgn : Bool} {w : Word} : 0#12 ++ BitVec.ofBool keep ++ BitVec.ofBool rgn ++ 0#18 = w ↔
    0#12 = w.extractLsb' 20 12 ∧ keep = w.getLsbD 19 ∧ rgn = w.getLsbD 18 ∧ 0#18 = w.extractLsb' 0 18 := by
  rw [append_eq_iff, append_eq_iff, append_eq_iff]
  simp only [extractLsb'_extractLsb'_of_le, Nat.reduceAdd, Nat.reduceLeDiff, and_assoc, ofBool_eq_extractLsb']

theorem pblkWord_eq_iff {inv : Bool} {pred cnt : BitVec 3} {pat : BitVec 8} {w : Word} :
    0#7 ++ BitVec.ofBool inv ++ pred ++ cnt ++ pat ++ 8#8 ++ 0#2 = w ↔
    0#7 = w.extractLsb' 25 7 ∧ inv = w.getLsbD 24 ∧ pred = w.extractLsb' 21 3 ∧ cnt = w.extractLsb' 18 3 ∧
      pat = w.extractLsb' 10 8 ∧ 8#8 = w.extractLsb' 2 8 ∧ 0#2 = w.extractLsb' 0 2 := by
  rw [append_eq_iff, append_eq_iff, append_eq_iff, append_eq_iff, append_eq_iff, append_eq_iff]
  simp only [extractLsb'_extractLsb'_of_le, Nat.reduceAdd, Nat.reduceLeDiff, and_assoc, ofBool_eq_extractLsb']

theorem codeWord_eq_iff {op : Nat} {c : BitVec 18} {w : Word} : 0#4 ++ c ++ BitVec.ofNat 8 op ++ 0#2 = w ↔
    0#4 = w.extractLsb' 28 4 ∧ c = w.extractLsb' 10 18 ∧ BitVec.ofNat 8 op = w.extractLsb' 2 8 ∧ 0#2 = w.extractLsb' 0 2 := by
  rw [append_eq_iff, append_eq_iff, append_eq_iff]
  simp only [extractLsb'_extractLsb'_of_le, Nat.reduceAdd, Nat.reduceLeDiff, and_assoc]

/-! ### Encoding, then decoding -/

/-- The opcode of a word, from its field. -/
theorem opOf_eq {op : Nat} {w : Word} (h : BitVec.ofNat 8 op = w.extractLsb' 2 8) (hop : op < 256) : opOf w = op := by
  rw [opOf, ← h, BitVec.toNat_ofNat]
  exact Nat.mod_eq_of_lt hop

theorem decodeWords_base {w0 : Word} {lit : Option DWord} {i : Instr} (len : baseLen lit = w0.extractLsb' 0 2)
    (h : decodeBaseAny w0 lit = .ok i) (r : List Word) : decodeWords (w0 :: litWords lit ++ r) = .ok i := by
  cases lit with
  | none => simp [decodeWords, litWords, ← len, baseLen, h]
  | some x => simp [decodeWords, litWords, ← len, baseLen, literal_eq, h]

theorem decodeWords_word {v w : Word} {lit : Option DWord} {i : Instr} (hv : v = w) (len : baseLen lit = w.extractLsb' 0 2)
    (h : decodeBaseAny w lit = .ok i) (r : List Word) : decodeWords (v :: litWords lit ++ r) = .ok i :=
  hv ▸ decodeWords_base len h r

theorem decodeWords_ext {w0 w1 w2 : Word} {lit : Option DWord} {i : Instr} (len : extLen lit = w0.extractLsb' 0 2)
    (h : decodeExtAny w0 w1 w2 lit = .ok i) (r : List Word) : decodeWords (w0 :: w1 :: w2 :: litWords lit ++ r) = .ok i := by
  cases lit with
  | none => simp [decodeWords, litWords, ← len, extLen, h]
  | some x => simp [decodeWords, litWords, ← len, extLen, literal_eq, h]

/-- The layouts of Tables 5.2 and 5.4, and events. -/
def Form.regular : Form → Bool
  | .base _ _ | .ext _ _ | .event => true
  | _ => false

theorem decodeSpecial_none {w0 : Word} {lit : Option DWord} (h : opOf w0 ∉ [1, 2, 4, 6, 8, 0xB, 0xD]) : decodeSpecial w0 lit = none := by
  simp only [List.mem_cons, List.not_mem_nil, or_false, not_or] at h
  unfold decodeSpecial
  dsimp only
  split <;> simp_all

theorem decodeWords_regular {i : Instr} (wf : i.wf = true) (ne : i.form ≠ .event) (hr : i.form.regular = true) (r : List Word) :
    decodeWords (encodeWords i ++ r) = .ok i := by
  simp only [Instr.wf, Bool.and_eq_true] at wf
  obtain ⟨⟨ok, sub⟩, -⟩ := wf
  have back := formBack i sub
  unfold encodeWords
  cases hf : i.form with
  | base op f =>
    obtain ⟨lt, regular⟩ := opcode_of_base hf
    rw [hf] at ok back
    obtain ⟨-, -, -, -, -, -, code, len⟩ := BaseArgs.word_eq_iff.1 (rfl : f.word op = f.word op)
    refine decodeWords_base len ?_ r
    rw [decodeBaseAny, decodeSpecial_none (by rwa [opOf_eq code lt])]
    exact decodeBase_word lt ok back
  | ext op f =>
    obtain ⟨lt, regular⟩ := opcode_of_ext hf
    rw [hf] at ok back
    obtain ⟨-, -, -, code, len⟩ := ExtArgs.word0_eq_iff.1 (rfl : f.word0 op = f.word0 op)
    refine decodeWords_ext len ?_ r
    rw [decodeExtAny, opOf_eq code lt, if_neg regular]
    exact decodeExt_words lt ok back
  | event => exact absurd hf ne
  | br | brLit | brp | brpLit | join | joinLit | joinExt | pblk | code => rw [hf] at hr; cases hr

/-- The target of the extended `JOIN` (02 Table 2.6). -/
def joinTargetOf (keep : Bool) (lit : Option DWord) (x18 : BitVec 18) : JoinTarget :=
  if keep then .keep else match lit with
    | some t => .lit t
    | none => .off x18

theorem decodeJoinExt_words {d : Opd} {rgn : Bool} {t : JoinTarget} {w0 w1 w2 : Word} {x18 : BitVec 18} {keep : Bool} {lit : Option DWord}
    (ok : FieldKind.joinDst.ok false d = true) (zero : 0#4 = w0.extractLsb' 28 4) (hx : x18 = w0.extractLsb' 10 18)
    (h1 : 0#23 ++ d.code9 = w1) (h2 : 0#12 ++ BitVec.ofBool keep ++ BitVec.ofBool rgn ++ 0#18 = w2)
    (ht : joinTargetOf keep lit x18 = t)
    (hk : (!keep || (rgn && lit.isNone)) = true) (ho : ((!keep && lit.isNone) || decide (x18 = 0)) = true) :
    decodeJoinExt w0 w1 w2 lit = .ok (.joinExt d rgn t) := by
  obtain ⟨zero1, hd⟩ := joinExtWord1_eq_iff.1 h1
  obtain ⟨zero2, rfl, rfl, low⟩ := joinExtWord2_eq_iff.1 h2
  unfold decodeJoinExt
  rw [← hd, FieldKind.read9_code9 ok (by simp) (by simp)]
  simp only [← zero, ← zero1, ← zero2, ← low, ← hx, ok, hk, ho]
  subst ht
  rfl

theorem decodeWords_joinExt {d : Opd} {rgn : Bool} {t : JoinTarget} (ok : (Instr.joinExt d rgn t).form.ok = true) (r : List Word) :
    decodeWords (encodeWords (.joinExt d rgn t) ++ r) = .ok (.joinExt d rgn t) := by
  simp only [Instr.form, Form.ok, Bool.and_eq_true] at ok
  obtain ⟨dst, keeps⟩ := ok
  have word (x18 : BitVec 18) (len : BitVec 2) := joinExtWord0_eq_iff.1 (rfl : 0#4 ++ x18 ++ 6#8 ++ len = _)
  cases t with
  | off x =>
    obtain ⟨zero, hx, code, len⟩ := word x 2
    refine decodeWords_ext (lit := none) len ?_ r
    rw [decodeExtAny, if_pos (opOf_eq (op := 6) code (by decide))]
    exact decodeJoinExt_words (keep := false) dst zero hx rfl rfl rfl rfl rfl
  | lit x =>
    obtain ⟨zero, hx, code, len⟩ := word 0 3
    refine decodeWords_ext (lit := some x) len ?_ r
    rw [decodeExtAny, if_pos (opOf_eq (op := 6) code (by decide))]
    exact decodeJoinExt_words (keep := false) dst zero hx rfl rfl rfl rfl rfl
  | keep =>
    obtain ⟨zero, hx, code, len⟩ := word 0 2
    refine decodeWords_ext (lit := none) len ?_ r
    rw [decodeExtAny, if_pos (opOf_eq (op := 6) code (by decide))]
    have rgn : rgn = true := by simpa using keeps
    exact decodeJoinExt_words (keep := true) dst zero hx rfl rfl rfl (by rw [rgn]; rfl) rfl

/-- Every well-formed instruction is what its own words decode to, whatever follows. -/
theorem decodeWords_encodeWords {i : Instr} (wf : i.wf = true) (ne : i.form ≠ .event) (r : List Word) :
    decodeWords (encodeWords i ++ r) = .ok i := by
  have ok : i.form.ok = true := by simp only [Instr.wf, Bool.and_eq_true] at wf; exact wf.1.1
  cases i
  case br off =>
    generalize h : 0#2 ++ off ++ BitVec.ofNat 8 1 ++ 0#2 = w
    obtain ⟨hi, rfl, code, len⟩ := brWord_eq_iff.1 h
    refine decodeWords_word (lit := none) h len ?_ r
    simp [decodeBaseAny, decodeSpecial, opOf_eq code, ← hi]
  case call off =>
    generalize h : 0#2 ++ off ++ BitVec.ofNat 8 4 ++ 0#2 = w
    obtain ⟨hi, rfl, code, len⟩ := brWord_eq_iff.1 h
    refine decodeWords_word (lit := none) h len ?_ r
    simp [decodeBaseAny, decodeSpecial, opOf_eq code, ← hi]
  case brLit t =>
    generalize h : 0#22 ++ BitVec.ofNat 8 1 ++ 1#2 = w
    obtain ⟨hi, off, code, len⟩ := brLitWord_eq_iff.1 h
    refine decodeWords_word (lit := some t) h len ?_ r
    have aligned : t.extractLsb' 0 2 = 0 := by simpa [Instr.form, Form.ok] using ok
    simp [decodeBaseAny, decodeSpecial, opOf_eq code, ← hi, ← off, aligned]
  case callLit t =>
    generalize h : 0#22 ++ BitVec.ofNat 8 4 ++ 1#2 = w
    obtain ⟨hi, off, code, len⟩ := brLitWord_eq_iff.1 h
    refine decodeWords_word (lit := some t) h len ?_ r
    have aligned : t.extractLsb' 0 2 = 0 := by simpa [Instr.form, Form.ok] using ok
    simp [decodeBaseAny, decodeSpecial, opOf_eq code, ← hi, ← off, aligned]
  case brp p sense off =>
    generalize h : 0#2 ++ off ++ BitVec.ofBool sense ++ p ++ 2#8 ++ 0#2 = w
    obtain ⟨hi, rfl, rfl, rfl, code, len⟩ := brpWord_eq_iff.1 h
    refine decodeWords_word (lit := none) h len ?_ r
    simp [decodeBaseAny, decodeSpecial, opOf_eq (op := 2) code, ← hi]
  case brpLit p sense t =>
    generalize h : 0#18 ++ BitVec.ofBool sense ++ p ++ 2#8 ++ 1#2 = w
    obtain ⟨hi, off, rfl, rfl, code, len⟩ := brpLitWord_eq_iff.1 h
    refine decodeWords_word (lit := some t) h len ?_ r
    have aligned : t.extractLsb' 0 2 = 0 := by simpa [Instr.form, Form.ok] using ok
    simp [decodeBaseAny, decodeSpecial, opOf_eq (op := 2) code, ← hi, ← off, aligned]
  case join d off =>
    generalize h : 0#2 ++ off ++ d.code6 ++ 6#8 ++ 0#2 = w
    obtain ⟨hi, rfl, hd, code, len⟩ := joinWord_eq_iff.1 h
    refine decodeWords_word (lit := none) h len ?_ r
    have dst : FieldKind.joinDst.ok true d = true := ok
    simp [decodeBaseAny, decodeSpecial, opOf_eq (op := 6) code, ← hi, ← hd, FieldKind.read6_code6 dst, dst]
  case joinLit d t =>
    generalize h : 0#16 ++ d.code6 ++ 6#8 ++ 1#2 = w
    obtain ⟨hi, off, hd, code, len⟩ := joinLitWord_eq_iff.1 h
    refine decodeWords_word (lit := some t) h len ?_ r
    have dst : FieldKind.joinDst.ok true d = true := ok
    simp [decodeBaseAny, decodeSpecial, opOf_eq (op := 6) code, ← hi, ← off, ← hd, FieldKind.read6_code6 dst, dst]
  case joinExt d rgn t => exact decodeWords_joinExt ok r
  case pblk inv pred cnt pat =>
    generalize h : 0#7 ++ BitVec.ofBool inv ++ pred ++ cnt ++ pat ++ 8#8 ++ 0#2 = w
    obtain ⟨hi, rfl, rfl, rfl, rfl, code, len⟩ := pblkWord_eq_iff.1 h
    refine decodeWords_word (lit := none) h len ?_ r
    have fits := of_decide_eq_true (show decide (_ < 2 ^ _) = true from ok)
    simp [decodeBaseAny, decodeSpecial, opOf_eq (op := 8) code, ← hi, fits, -BitVec.extractLsb'_toNat]
  case trap c =>
    generalize h : 0#4 ++ c ++ BitVec.ofNat 8 0xB ++ 0#2 = w
    obtain ⟨hi, rfl, code, len⟩ := codeWord_eq_iff.1 h
    refine decodeWords_word (lit := none) h len ?_ r
    simp [decodeBaseAny, decodeSpecial, opOf_eq code, ← hi]
  case brk c =>
    generalize h : 0#4 ++ c ++ BitVec.ofNat 8 0xD ++ 0#2 = w
    obtain ⟨hi, rfl, code, len⟩ := codeWord_eq_iff.1 h
    refine decodeWords_word (lit := none) h len ?_ r
    simp [decodeBaseAny, decodeSpecial, opOf_eq code, ← hi]
  all_goals exact decodeWords_regular wf ne rfl r

/-! ### Decoding, then encoding -/

theorem decodeJoinExt_stands {w0 w1 w2 : Word} {lit : Option DWord} {i : Instr} (len : w0.extractLsb' 0 2 = extLen lit)
    (hop : opOf w0 = 6) (h : decodeJoinExt w0 w1 w2 lit = .ok i) : Stands i (w0 :: w1 :: w2 :: litWords lit) := by
  unfold decodeJoinExt at h
  dsimp only at h
  split at h
  case h_1 => cases h
  case h_2 d hd =>
    split at h
    case isFalse => cases h
    case isTrue ok =>
      cases h
      simp only [Bool.and_eq_true, decide_eq_true_eq] at ok
      obtain ⟨⟨⟨⟨⟨⟨dst, hi⟩, hi1⟩, low⟩, hi2⟩, keeps⟩, offs⟩ := ok
      have code : 6#8 = w0.extractLsb' 2 8 := by rw [← ofNat_opOf, hop]
      have hd := FieldKind.code9_of_read9 hd dst
      have word1 := joinExtWord1_eq_iff.2 ⟨hi1.symm, hd⟩
      have word2 := joinExtWord2_eq_iff.2 ⟨hi2.symm, rfl, rfl, low.symm⟩
      have word0 := joinExtWord0_eq_iff.2 ⟨hi.symm, rfl, code, len.symm⟩
      rcases hk : w2.getLsbD 19 with _ | _
      · rw [hk] at word2 offs
        rcases lit with _ | t
        · refine stands_of_form rfl ?_ rfl (by simp [Instr.form]) ?_
          · simp [Instr.form, Form.ok, dst]
          · exact congrArg₂ List.cons word0 (congrArg₂ List.cons word1 (congrArg (· :: []) word2))
        · refine stands_of_form rfl ?_ rfl (by simp [Instr.form]) ?_
          · simp [Instr.form, Form.ok, dst]
          · have off : w0.extractLsb' 10 18 = 0 := by simpa using offs
            rw [off] at word0
            exact congrArg₂ List.cons word0 (congrArg₂ List.cons word1 (congrArg (· :: _) word2))
      · rw [hk] at word2 offs keeps
        have rgn : w2.getLsbD 18 = true ∧ lit.isNone = true := by simpa using keeps
        obtain ⟨rgn, none⟩ := rgn
        rw [Option.isNone_iff_eq_none] at none
        subst none
        have off : w0.extractLsb' 10 18 = 0 := by simpa using offs
        rw [off] at word0
        refine stands_of_form rfl ?_ rfl (by simp [Instr.form]) ?_
        · simp [Instr.form, Form.ok, dst, rgn]
        · exact congrArg₂ List.cons word0 (congrArg₂ List.cons word1 (congrArg (· :: []) word2))

/-- A check that a decoder passed. -/
theorem of_check {b : Bool} {i j : Instr} (h : some (if b then Except.ok i else .error DecodeError.badField) = some (.ok j)) :
    b = true ∧ i = j := by
  cases b <;> simp_all

theorem decodeBaseAny_stands {w0 : Word} {lit : Option DWord} {i : Instr} (len : w0.extractLsb' 0 2 = baseLen lit)
    (h : decodeBaseAny w0 lit = .ok i) : Stands i (w0 :: litWords lit) := by
  unfold decodeBaseAny at h
  split at h
  case h_2 => exact decodeBase_stands len h
  case h_1 e he =>
    subst h
    have code {n : Nat} (hop : opOf w0 = n) : BitVec.ofNat 8 n = w0.extractLsb' 2 8 := hop ▸ ofNat_opOf w0
    unfold decodeSpecial at he
    dsimp only at he
    split at he
    case h_1 hop =>
      rcases lit with _ | t
      · obtain ⟨hi, rfl⟩ := of_check he
        refine stands_of_form rfl rfl rfl (by simp [Instr.form]) (congrArg (· :: []) ?_)
        exact brWord_eq_iff.2 ⟨(of_decide_eq_true hi).symm, rfl, code hop, len.symm⟩
      · obtain ⟨ok, rfl⟩ := of_check he
        simp only [Bool.and_eq_true, decide_eq_true_eq] at ok
        obtain ⟨⟨hi, off⟩, aligned⟩ := ok
        refine stands_of_form rfl (decide_eq_true aligned) rfl (by simp [Instr.form]) (congrArg (· :: _) ?_)
        exact brLitWord_eq_iff.2 ⟨hi.symm, off.symm, code hop, len.symm⟩
    case h_2 hop =>
      rcases lit with _ | t
      · obtain ⟨hi, rfl⟩ := of_check he
        refine stands_of_form rfl rfl rfl (by simp [Instr.form]) (congrArg (· :: []) ?_)
        exact brpWord_eq_iff.2 ⟨(of_decide_eq_true hi).symm, rfl, rfl, rfl, code hop, len.symm⟩
      · obtain ⟨ok, rfl⟩ := of_check he
        simp only [Bool.and_eq_true, decide_eq_true_eq] at ok
        obtain ⟨⟨hi, off⟩, aligned⟩ := ok
        refine stands_of_form rfl (decide_eq_true aligned) rfl (by simp [Instr.form]) (congrArg (· :: _) ?_)
        exact brpLitWord_eq_iff.2 ⟨hi.symm, off.symm, rfl, rfl, code hop, len.symm⟩
    case h_3 hop =>
      rcases lit with _ | t
      · obtain ⟨hi, rfl⟩ := of_check he
        refine stands_of_form rfl rfl rfl (by simp [Instr.form]) (congrArg (· :: []) ?_)
        exact brWord_eq_iff.2 ⟨(of_decide_eq_true hi).symm, rfl, code hop, len.symm⟩
      · obtain ⟨ok, rfl⟩ := of_check he
        simp only [Bool.and_eq_true, decide_eq_true_eq] at ok
        obtain ⟨⟨hi, off⟩, aligned⟩ := ok
        refine stands_of_form rfl (decide_eq_true aligned) rfl (by simp [Instr.form]) (congrArg (· :: _) ?_)
        exact brLitWord_eq_iff.2 ⟨hi.symm, off.symm, code hop, len.symm⟩
    case h_4 hop =>
      split at he
      case h_1 => cases he
      case h_2 d hd =>
        rcases lit with _ | t
        · obtain ⟨ok, rfl⟩ := of_check he
          simp only [Bool.and_eq_true, decide_eq_true_eq] at ok
          obtain ⟨hi, dst⟩ := ok
          refine stands_of_form rfl dst rfl (by simp [Instr.form]) (congrArg (· :: []) ?_)
          exact joinWord_eq_iff.2 ⟨hi.symm, rfl, FieldKind.code6_of_read6 hd dst, code hop, len.symm⟩
        · obtain ⟨ok, rfl⟩ := of_check he
          simp only [Bool.and_eq_true, decide_eq_true_eq] at ok
          obtain ⟨⟨hi, dst⟩, off⟩ := ok
          refine stands_of_form rfl dst rfl (by simp [Instr.form]) (congrArg (· :: _) ?_)
          exact joinLitWord_eq_iff.2 ⟨hi.symm, off.symm, FieldKind.code6_of_read6 hd dst, code hop, len.symm⟩
    case h_5 hop =>
      obtain ⟨ok, rfl⟩ := of_check he
      simp only [Bool.and_eq_true, decide_eq_true_eq, Option.isNone_iff_eq_none] at ok
      obtain ⟨⟨rfl, hi⟩, fits⟩ := ok
      refine stands_of_form rfl (decide_eq_true fits) rfl (by simp [Instr.form]) (congrArg (· :: []) ?_)
      exact pblkWord_eq_iff.2 ⟨hi.symm, rfl, rfl, rfl, rfl, code hop, len.symm⟩
    case h_6 hop | h_7 hop =>
      obtain ⟨ok, rfl⟩ := of_check he
      simp only [Bool.and_eq_true, decide_eq_true_eq, Option.isNone_iff_eq_none] at ok
      obtain ⟨rfl, hi⟩ := ok
      refine stands_of_form rfl rfl rfl (by simp [Instr.form]) (congrArg (· :: []) ?_)
      exact codeWord_eq_iff.2 ⟨hi.symm, rfl, code hop, len.symm⟩
    case h_8 => cases he

theorem decodeExtAny_stands {w0 w1 w2 : Word} {lit : Option DWord} {i : Instr} (len : w0.extractLsb' 0 2 = extLen lit)
    (h : decodeExtAny w0 w1 w2 lit = .ok i) : Stands i (w0 :: w1 :: w2 :: litWords lit) := by
  unfold decodeExtAny at h
  split at h
  case isTrue hop => exact decodeJoinExt_stands len hop h
  case isFalse => exact decodeExt_stands len h

theorem decodeWords_stands {ws : List Word} {i : Instr} (h : decodeWords ws = .ok i) : ∃ v r, ws = v ++ r ∧ Stands i v := by
  unfold decodeWords at h
  split at h
  · cases h
  · split at h
    case h_1 w0 r _ _ len => exact ⟨[w0], r, rfl, decodeBaseAny_stands (lit := none) (BitVec.eq_of_toNat_eq len) h⟩
    case h_2 w0 _ _ lo hi r len =>
      refine ⟨[w0, lo, hi], r, rfl, ?_⟩
      rw [← litWords_append]
      exact decodeBaseAny_stands (BitVec.eq_of_toNat_eq len) h
    case h_3 w0 _ _ w1 w2 r len => exact ⟨[w0, w1, w2], r, rfl, decodeExtAny_stands (lit := none) (BitVec.eq_of_toNat_eq len) h⟩
    case h_4 w0 _ _ w1 w2 lo hi r len => 
      refine ⟨[w0, w1, w2, lo, hi], r, rfl, ?_⟩
      rw [← litWords_append]
      exact decodeExtAny_stands (BitVec.eq_of_toNat_eq len) h
    case h_5 => cases h

/-- Settles O55: the fields of each layout read back what the encoder put there, and a word that decodes holds nothing else. -/
theorem decodeEncode : Obligations.DecodeEncode := by
  unfold Obligations.DecodeEncode
  refine ⟨fun i r wf ne => ?_, fun ws i h => ?_⟩
  · rw [decodeBytes, encode, wordsOfBytes_flatMap]
    exact decodeWords_encodeWords wf ne _
  · obtain ⟨v, r, rfl, wf, ne, rfl⟩ := decodeWords_stands h
    exact ⟨wf, ne, r, rfl⟩

end Sys2Proof
end

section
/-! SUPPORT. A step: the event that is due, or the instruction at a wave's issue PC (03 R72, R73, 05 R97). Settles O56 to O59. -/

-- One theorem at a time: many at once ask for more threads than the checker has memory for.
set_option Elab.async false

namespace Sys2Proof.Machine

/-! ### Reading the words of an instruction -/

/-- A word's bytes are those of its number. -/
theorem bytesOfWord_eq (w : Word) : bytesOfWord w = bytesOfNat 4 w.toNat := by
  have byte (n : Nat) : w.extractLsb' n 8 = BitVec.ofNat 8 (w.toNat / 2 ^ n) := by
    apply BitVec.eq_of_toNat_eq
    rw [BitVec.extractLsb'_toNat, BitVec.toNat_ofNat, Nat.shiftRight_eq_div_pow]
  simp only [bytesOfWord, bytesOfNat, byte, Nat.div_div_eq_div_mul]
  norm_num

theorem readLe_of_bytes {m : Memory} {a : Nat} {w : Word} (h : Memory.readBytes m a 4 = bytesOfWord w) :
    BitVec.ofNat 32 (Memory.readLe m a 4) = w := by
  rw [Memory.readLe, h, bytesOfWord_eq, natOfBytes_bytesOfNat, Nat.mod_eq_of_lt (by have := w.isLt; omega), BitVec.ofNat_toNat,
    BitVec.setWidth_eq]

/-- A word of the text is fetched as it stands, and fetching changes nothing (12 R254). -/
theorem State.Text.fetchWord {s : State} {k : Who} {pc : DWord} {ws : List Word} (h : s.Text k pc ws) {n : Nat} {w : Word}
    (hn : ws[n]? = some w) : s.fetchWord k (pc + BitVec.ofNat 64 (4 * n)) = (.ok w, s) := by
  obtain ⟨leaf, pa, ht, seg, host, reaches, live, tag, stale, bytes⟩ := h n w hn
  simp [State.fetchWord, ht, stale, seg, reaches, host, live, tag, readLe_of_bytes bytes]

theorem State.Text.fetchRest {s : State} {k : Who} {pc : DWord} {ws : List Word} (h : s.Text k pc ws) :
    ∀ (m n : Nat), n + m = ws.length → Machine.fetchRest k m (pc + BitVec.ofNat 64 (4 * n)) s = (.ok (ws.drop n), s)
  | 0, n, hl => by rw [List.drop_eq_nil_of_le (by omega)]; rfl
  | m + 1, n, hl => by
    have lt : n < ws.length := by omega
    have next : pc + BitVec.ofNat 64 (4 * n) + 4 = pc + BitVec.ofNat 64 (4 * (n + 1)) := by
      rw [Nat.mul_add, BitVec.ofNat_add, BitVec.add_assoc]
      rfl
    have rest := fetchRest h m (n + 1) (by omega)
    rw [Machine.fetchRest, h.fetchWord (List.getElem?_eq_getElem lt)]
    simp only [next, rest, List.drop_eq_getElem_cons lt]

/-- The words of the text are the instruction's (05 R97). -/
theorem State.Text.fetchWords {s : State} {k : Who} {pc : DWord} {ws : List Word} (h : s.Text k pc ws)
    (hl : ws.length = wordCount (ws.headD 0)) : s.fetchWords k pc = (.ok ws, s) := by
  cases ws with
  | nil => exact absurd hl (by decide)
  | cons w r =>
    have first : s.fetchWord k pc = (.ok w, s) := by simpa using h.fetchWord (n := 0) rfl
    have rest := h.fetchRest r.length 1 (by simp [Nat.add_comm])
    have count : wordCount w - 1 = r.length := Nat.sub_eq_of_eq_add hl.symm
    simp only [State.fetchWords, first, count]
    rw [show pc + 4 = pc + BitVec.ofNat 64 (4 * 1) from rfl, rest]
    rfl

/-! ### One wave's opportunity -/

theorem State.whoOf_w {s : State} {w : Nat} {k : Who} (h : s.whoOf w = some k) : k.w = w := by
  obtain ⟨issuer, -⟩ := State.who_iff.1 h
  exact (Option.some.inj issuer).symm

/-- A wave with nothing pending executes the instruction of the words it fetches. -/
theorem attempt_fetched {run : Instr → State → Host.Outcome State Fault Refusal} {u : State} {k : Who} {pc : DWord} {ws : List Word}
    {i : Instr} (inv : k.x.invAbort = false) (page : k.x.page = none) (trap : k.x.heldTrap = none) (pend : k.x.pendA = [])
    (hpc : k.x.issuePc = some pc) (fetch : u.fetchWords k pc = (.ok ws, u)) (hi : decodeWords ws = .ok i) :
    attempt run k u = run i (u.issuing k.w ws) := by
  simp [attempt, inv, page, trap, pend, hpc, fetch, hi, Who.canTrap, Who.canDeliver]

/-! ### The two parts of a step -/

theorem step_event {s : State} {e : Event} {r : List Event} (hp : s.phase = .event) (ha : s.agenda = e :: r) :
    step s = runEvent e { s with agenda := r, phase := .issue } := by
  simp [step, hp, ha]

theorem step_issue {s : State} (h : s.phase = .issue ∨ s.agenda = []) : step s = issuePhase exec s := by
  unfold step
  split
  · simp_all
  · rfl

/-- The state in which the slot whose turn it is takes its opportunity: its core counts a clock before its first slot. -/
def State.ticked (s : State) : State := if s.turn % 4 = 0 then s.tickCore (s.turn / 4) else s

/-- The first wave that is tried has what it attempts as its slot's opportunity, or is passed over. -/
theorem step_first {s t : State} {w : Nat} {r : List Nat} {k : Who} (hs : s.phase = .issue ∨ s.agenda = [])
    (order : s.ticked.tryOrder (s.turn / 4) (s.turn % 4) = w :: r) (hk : s.ticked.whoOf w = some k)
    (ht : attempt exec k s.ticked = .next t) :
    (t.waited = false → step s = .next ((t.noteIssue exec s.ticked (s.turn / 4) (s.turn % 4) w).passTurn)) ∧
      (t.waited = true → r = [] → step s = .next (({ t with waited := false }.idleSlot (s.turn / 4) (s.turn % 4)).passTurn)) := by
  have tries : tryWaves exec s.ticked (s.turn / 4) (s.turn % 4) (w :: r) s.ticked =
      if t.waited then tryWaves exec s.ticked (s.turn / 4) (s.turn % 4) r { t with waited := false }
      else .next (t.noteIssue exec s.ticked (s.turn / 4) (s.turn % 4) w) := by
    simp only [tryWaves, hk, ht]
  have phase : step s = match tryWaves exec s.ticked (s.turn / 4) (s.turn % 4) (w :: r) s.ticked with
      | .next t => .next t.passTurn
      | o => o := by
    rw [step_issue hs, ← order]
    rfl
  refine ⟨fun go => ?_, fun wait hr => ?_⟩
  · rw [phase, tries, if_neg (by simp [go])]
  · rw [phase, tries, if_pos wait, hr]
    rfl

/-- Settles O57: the agenda's row, and the first wave of the slot's order through its fetch. -/
theorem stepRuns : Obligations.StepRuns := by
  unfold Obligations.StepRuns
  refine ⟨fun s e r hp ha => ⟨?_, ?_⟩, ?_⟩
  · cases e <;> rfl
  · rw [step_event hp ha]
    cases e <;> rfl
  · intro s w r k pc ws i t hs core slot u order hk inv page trap pend hpc text hl hi ht
    rw [decodeBytes, wordsOfBytes_flatMap_self] at hi
    have first := attempt_fetched (run := exec) inv page trap pend hpc (text.fetchWords hl) hi
    rw [State.whoOf_w hk, ht] at first
    obtain ⟨v, r', hv, wf, -⟩ := decodeWords_stands hi
    exact ⟨wf, step_first hs order hk first⟩

/-! ### Fixed words and the state after reset -/

/-- Settles O56: the decoder computes each. -/
theorem decodedWords : Obligations.DecodedWords := by
  unfold Obligations.DecodedWords
  decide +kernel

/-- Settles O59: no store holds a byte and no queue an entry. -/
theorem resetInvariant : Obligations.ResetInvariant := by
  unfold Obligations.ResetInvariant
  decide +kernel

theorem vecAt_replicate_zero (n j : Nat) : vecAt (List.replicate n 0) j = 0 := by
  unfold vecAt
  rw [List.getD_eq_getElem?_getD, List.getElem?_replicate]
  split <;> rfl

/-- Settles O58: every chip is the chip of a cold reset. -/
theorem resetState : Obligations.ResetState := by
  unfold Obligations.ResetState
  refine ⟨rfl, rfl, rfl, fun c _ => ?_⟩
  have chip : State.reset.chip c = Chip.reset false := rfl
  have repl : State.reset.repl c = Repl.reset false := rfl
  rw [chip, repl]
  refine ⟨⟨rfl, rfl, rfl, fun j => ⟨vecAt_replicate_zero 8 j, vecAt_replicate_zero 8 j, rfl⟩, rfl, fun _ => rfl, fun _ => rfl, rfl, rfl, rfl⟩,
    rfl, rfl, rfl, rfl, rfl, rfl, rfl, rfl⟩

end Sys2Proof.Machine
end

section
/-! SUPPORT. Refutes O60: a wave in its restore handler holds the loads that its save set aside in `Wave.again`, of
which the invariant says nothing; its `RTE` makes them its outstanding results as they are (04 R81, 15 R326). -/

-- One theorem at a time: many at once ask for more threads than the checker has memory for.
set_option Elab.async false

namespace Sys2Proof.Machine

/-! ### Reading the save area -/

/-- Every byte of the frame has a page: the frame can be read. -/
theorem State.saveRead_of_pages {s : State} {k : Gang} {n : Nat} {va : DWord}
    (h : ∀ i, i < n → (s.savePa k (va + BitVec.ofNat 64 i)).isSome = true) : ∃ bs, s.saveRead k va n = some bs := by
  induction n generalizing va with
  | zero => exact ⟨[], rfl⟩
  | succ n ih =>
    have first : (s.savePa k va).isSome = true := by simpa using h 0 (Nat.succ_pos n)
    obtain ⟨e, he⟩ := Option.isSome_iff_exists.1 first
    obtain ⟨bs, hb⟩ := ih (va := va + 1) fun i hi => by
      have := h (i + 1) (by omega)
      rwa [show va + 1 + BitVec.ofNat 64 i = va + BitVec.ofNat 64 (i + 1) by
        rw [BitVec.add_assoc]; congr 1; rw [Nat.add_comm, BitVec.ofNat_add]; rfl]
    exact ⟨Memory.read s.mem e.2 :: bs, by unfold State.saveRead; rw [he, hb]⟩

/-! ### `RTE` of a restore handler -/

/-- `RTE` that ends a context restore whose frame can be read. -/
theorem execRte_restore {s : State} {k : Who} {va : DWord} {bs : List Byte} (h : Ready .rte s k)
    (hh : k.x.handler = some .restore) (hv : k.g.runVa k.w = some va) (hb : s.saveRead k.g va 0x141C = some bs) :
    exec .rte s = .next (((s.countIssue k.wg.core k.x k.x.group k.x.active (k.x.issuePc.getD 0)).modWave k.w
      Wave.counted).returnRestore k bs) := by
  show Host.Outcome.next (issue .rte s _) = _
  rw [issue_ready_plain h rfl]
  simp only [hh, hv, Option.bind_some, hb, Eff.run]

/-- Whose turn it is, whether the wave tried has waited, and what a wave has outstanding and waits on. -/
def State.turnLoads (s : State) (w : Nat) : (Nat × Bool) × Option (Table Load × Option PageWait) :=
  ((s.turn, s.waited), (s.wave? w).map fun x => (x.loads, x.page))

theorem turnLoads_foldl {α : Type} {w : Nat} {g : State → α → State} (hg : ∀ s a, (g s a).turnLoads w = s.turnLoads w)
    (l : List α) (s : State) : (l.foldl g s).turnLoads w = s.turnLoads w := by
  induction l generalizing s with
  | nil => rfl
  | cons a r ih => rw [List.foldl_cons, ih, hg]

@[simp] theorem State.turnLoads_postOnce (s : State) (e : Event) (w : Nat) : (s.postOnce e).turnLoads w = s.turnLoads w := by
  simp [State.turnLoads]

theorem State.turnLoads_modWave {s : State} {v w : Nat} {f : Wave → Wave}
    (hf : ∀ x, (f x).loads = x.loads ∧ (f x).page = x.page) : (s.modWave v f).turnLoads w = s.turnLoads w := by
  simp only [State.turnLoads, State.modWave_turn, State.modWave_waited, State.wave?_modWave]
  split
  · subst_vars; simp [Function.comp_def, hf]
  · rfl

@[simp] theorem State.turnLoads_liftHalt (s : State) (g w : Nat) : (s.liftHalt g).turnLoads w = s.turnLoads w := by
  unfold State.liftHalt
  split
  · rfl
  · simp only
    rw [turnLoads_foldl]
    · rfl
    · exact fun s o => State.turnLoads_modWave fun x => ⟨rfl, rfl⟩

theorem State.turnLoads_setWave (s : State) (w : Nat) (x : Wave) :
    (s.setWave w x).turnLoads w = ((s.turn, s.waited), some (x.loads, x.page)) := by
  simp [State.turnLoads]

theorem State.turnLoads_postEntry (s : State) (i n : Nat) (e : WqEntry) (w : Nat) : (s.postEntry i n e).turnLoads w = s.turnLoads w := by
  unfold State.postEntry
  split <;> simp [State.turnLoads]

@[simp] theorem State.turnLoads_releaseHeld (s : State) (v w : Nat) : (s.releaseHeld v).turnLoads w = s.turnLoads w := by
  unfold State.releaseHeld
  simp only
  split
  · rfl
  · exact turnLoads_foldl (fun s e => State.turnLoads_postEntry s _ _ _ w) _ _

/-- A page wait that has no refusal traps nothing (15 R320). -/
theorem State.refusedPage_open {s : State} {w : Nat} {m : Nat × Bool} {ls : Table Load} {p : PageWait}
    (h : s.turnLoads w = (m, some (ls, some p))) (hr : p.refused = false) : s.refusedPage w = s := by
  have page : (s.wave? w).bind Wave.page = some p := by
    have := congrArg (fun e => e.2.bind Prod.snd) h
    simpa [State.turnLoads, Option.bind_map, Function.comp_def] using this
  unfold State.refusedPage
  rw [page]
  simp [hr]

/-- A restore that takes up an unanswered page wait again makes the loads set aside the outstanding ones, whatever their numbers. -/
theorem State.turnLoads_returnRestore {s : State} {k : Who} {p : PageWait} (hp : k.x.pageAside = some p)
    (hr : p.refused = false) (bs : List Byte) :
    (s.returnRestore k bs).turnLoads k.w = ((s.turn, s.waited), some (k.x.again, some p)) := by
  unfold State.returnRestore
  simp only [hp]
  generalize hy : (Wave.mk .. : Wave) = y
  have loads : y.loads = k.x.again := by rw [← hy]
  have page : y.page = some p := by rw [← hy]
  have released : ((s.releaseHeld k.w).turn, (s.releaseHeld k.w).waited) = (s.turn, s.waited) :=
    congrArg Prod.fst (State.turnLoads_releaseHeld s k.w k.w)
  have base : ((((s.releaseHeld k.w).setWave k.w y).liftHalt k.x.wg).postOnce (.contextSave k.wg.gang)).turnLoads k.w =
      ((s.turn, s.waited), some (k.x.again, some p)) := by
    rw [State.turnLoads_postOnce, State.turnLoads_liftHalt, State.turnLoads_setWave, released, loads, page]
  have posted (t : State) : (k.x.again.foldl (fun s e => s.post (.loadReturn k.w e.1)) t).turnLoads k.w = t.turnLoads k.w :=
    turnLoads_foldl (g := fun s (e : Nat × Load) => s.post (.loadReturn k.w e.1)) (fun _ _ => rfl) _ _
  refine (congrArg (State.turnLoads · k.w) (State.refusedPage_open (m := (s.turn, s.waited)) (ls := k.x.again) ?_ hr)).trans ?_
  all_goals
    rw [posted]
    split
    · rw [State.turnLoads_postOnce]; exact base
    · exact base

/-! ### The turn passes on -/

theorem Table.mem_of_look {α : Type} {t : Table α} {n : Nat} {x : α} (h : Table.look t n = some x) : (n, x) ∈ t := by
  induction t with
  | nil => cases h
  | cons e r ih =>
    obtain ⟨k, v⟩ := e
    unfold Table.look at h
    split at h
    · obtain rfl : v = x := Option.some.inj h
      subst_vars
      exact List.mem_cons_self
    · exact List.mem_cons_of_mem _ (ih h)

/-- Before the last slot of a core the turn passes on and no chip counts a clock. -/
theorem State.wave?_passTurn {s : State} (h : s.turn % 4 < 3) (w : Nat) : s.passTurn.wave? w = s.wave? w := by
  have later : ¬ s.nextTurn ≤ s.turn := by
    rw [State.nextTurn, if_pos h]
    omega
  unfold State.passTurn
  simp only [later, if_false]
  rfl

/-- After a handler has issued, its slot notes it and no wave changes. -/
theorem State.noteIssue_handler {t before : State} {run : Instr → State → Host.Outcome State Fault Refusal} {core slot w : Nat}
    (h : before.handlers [w] ≠ []) : ∃ f, t.noteIssue run before core slot w = t.modCore core f := by
  unfold State.noteIssue
  simp only [h, ne_eq, not_false_eq_true, if_true]
  exact ⟨_, rfl⟩

/-- Loads whose numbers fall are not numbered in order. -/
theorem State.not_numbered {s : State} {w : Nat} {x : Wave} (hx : s.wave? w = some x) (h : x.loads.map Prod.fst = [1, 0]) :
    s.numbered = false := by
  by_contra hn
  have all : s.numbered = true := by simpa using hn
  simp only [State.numbered, Bool.and_eq_true, List.all_eq_true] at all
  have loads := all.2 _ (Table.mem_of_look hx)
  rcases hl : x.loads with _ | ⟨⟨a, p⟩, _ | ⟨⟨b, q⟩, r⟩⟩ <;> simp_all [Table.numbered]

/-! ### The counterexample -/

/-- A wave whose restore handler is about to execute `RTE`, with the numbers of its loads set aside falling, a frame in the page of its
code, and a page wait to take up again. -/
def restoring : State :=
  let s := State.reset.withFetchWord 32 0x30
  let load : Load :=
    { kind := .bytes, d := .v 8, fmt := { width := 4, bytes := 4, signed := false }, lanes := [], acq := none, pc := 0, seq := 0
      issued := 0, order := 0, epoch := 0, got := 0, bad := none }
  let page : PageWait := { asid := 0, vpn := 3, kind := 0, pc := 0, va := 0x30000, clu := 0, seq := 0, dest := 0x180, refused := false }
  { s with
    gangs := s.gangs.map fun e => (e.1, { e.2 with trapv := 0x10000, saveBase := 0x11000, runs := [(2, 0, 2)] })
    waves := s.waves.map fun e =>
      (e.1, { e.2 with handler := some .restore, again := [(1, load), (0, load)], pageAside := some page }) }




/-- Its core's clock counted. -/
def restoringTicked : State := restoring.ticked

/-- The state in which its `RTE` executes. -/
def restoringRte : State := restoringTicked.issuing 2 [0x30]

/-- The wave is the one that is tried, and nothing but its handler's `RTE` is pending. -/
theorem restoring_tried : restoringTicked.tryOrder 0 0 = [2] ∧ restoringTicked.handlers [2] ≠ [] ∧
    (restoringTicked.whoOf 2).any (fun k => !k.x.invAbort && k.x.page.isNone && k.x.heldTrap.isNone && k.x.pendA.isEmpty &&
      (k.x.issuePc == some 0x10000)) = true := by decide +kernel

/-- Its words are those of `RTE`, and fetching them changes nothing. -/
theorem restoring_fetches : (restoringTicked.whoOf 2).all (fun k => restoringTicked.fetchWords k 0x10000 matches (.ok [0x30], _)) = true ∧
    (restoringTicked.whoOf 2).all (fun k => (restoringTicked.fetchWords k 0x10000).2 = restoringTicked) = true := by
  constructor <;> decide +kernel

/-- `RTE` is ready, in a restore handler that holds two loads numbered 1 and 0 and a page wait to take up again. -/
theorem restoringRte_ready : restoringRte.who.any (fun k => !k.x.resuming && (decodeFault restoringRte k .rte k.x.group k.x.active).isNone &&
    !anySrcEmpty k.x Instr.rte.form.uses k.x.active false && !anyDstEmpty k.x Instr.rte.form.uses k.x.active && k.x.active ≠ [] &&
    k.x.handler == some .restore && (k.g.runVa k.w == some 0x11000) && (k.x.pageAside.any fun p => !p.refused) &&
    (k.x.again.map Prod.fst == [1, 0])) = true := by decide +kernel

/-- Every byte of its frame has a page. -/
theorem restoringRte_pages : restoringRte.who.all (fun k => (List.range 0x141C).all fun i =>
    (restoringRte.savePa k.g (0x11000 + BitVec.ofNat 64 i)).isSome) = true := by decide +kernel

theorem restoring_turn : restoring.turn = 0 ∧ restoringRte.turn = 0 ∧ restoringRte.waited = false ∧ restoring.phase = .issue := by
  decide +kernel

/-- The word of `RTE` (06 Table 6.1). -/
theorem decodeWords_rte : decodeWords [0x30] = .ok .rte := decodeWords_encodeWords (i := .rte) rfl (by decide) []

/-- Its `RTE` returns with the falling loads outstanding. -/
theorem restoringRte_exec : ∃ t x, exec .rte restoringRte = .next t ∧ t.turn = 0 ∧ t.waited = false ∧ t.wave? 2 = some x ∧
    x.loads.map Prod.fst = [1, 0] := by
  obtain ⟨k, who, props⟩ := (Option.any_eq_true _ _).1 restoringRte_ready
  have pages := restoringRte_pages
  rw [who] at pages
  simp only [Option.all_some, List.all_eq_true, List.mem_range] at pages
  simp only [Bool.and_eq_true, Bool.not_eq_true', Option.isNone_iff_eq_none, beq_iff_eq, decide_eq_true_eq] at props
  obtain ⟨⟨⟨⟨⟨⟨⟨⟨fresh, decoded⟩, sources⟩, destination⟩, active⟩, handler⟩, frame⟩, aside⟩, again⟩ := props
  obtain ⟨p, hp, open'⟩ := (Option.any_eq_true _ _).1 aside
  obtain ⟨bs, read⟩ := State.saveRead_of_pages pages
  have ready : Ready .rte restoringRte k :=
    ⟨who, fresh, decoded, nofun, sources, destination, nofun, active⟩
  have w : k.w = 2 := (Option.some.inj (State.who_iff.1 who).1).symm
  have restored := State.turnLoads_returnRestore (s := (restoringRte.countIssue k.wg.core k.x k.x.group k.x.active
    (k.x.issuePc.getD 0)).modWave k.w Wave.counted) hp (by simpa using open') bs
  generalize ht : State.returnRestore _ k bs = t at restored
  obtain ⟨-, turn0, waited0, -⟩ := restoring_turn
  simp only [State.turnLoads, Prod.mk.injEq, Option.map_eq_some_iff, w, State.modWave_turn, State.modWave_waited, State.countIssue,
    State.modCore_turn, State.modCore_waited, turn0, waited0] at restored
  obtain ⟨⟨turn, waited⟩, x, hx, loads, -⟩ := restored
  refine ⟨t, x, ?_, turn, waited, hx, loads ▸ again⟩
  rw [execRte_restore ready handler frame read, ht]

/-- Refutes O60: `RTE` of a restore handler whose set-aside loads are numbered 1, then 0. -/
theorem not_stepInvariant : ¬ Obligations.StepInvariant := by
  unfold Obligations.StepInvariant
  intro h
  obtain ⟨t, x, ht, turn, go, hx, loads⟩ := restoringRte_exec
  obtain ⟨turn0, -, -, phase⟩ := restoring_turn
  obtain ⟨order, handles, pending⟩ := restoring_tried
  obtain ⟨fetchOk, fetchKeeps⟩ := restoring_fetches
  have first : ∃ k, restoringTicked.whoOf 2 = some k ∧ attempt exec k restoringTicked = .next t := by
    cases hk : restoringTicked.whoOf 2 with
    | none => rw [hk] at pending; cases pending
    | some k =>
      rw [hk] at pending fetchOk fetchKeeps
      refine ⟨k, rfl, ?_⟩
      have : restoringTicked.fetchWords k 0x10000 = (.ok [0x30], restoringTicked) := by
        simp only [Option.all_some, decide_eq_true_eq] at fetchOk fetchKeeps
        rcases hf : restoringTicked.fetchWords k 0x10000 with ⟨words, u⟩
        rw [hf] at fetchOk fetchKeeps
        rw [← fetchKeeps]
        split at fetchOk
        case h_1 e =>
          obtain ⟨rfl, rfl⟩ := Prod.mk.inj e
          rfl
        case h_2 => cases fetchOk
      simp only [Option.any_some, Bool.and_eq_true, Bool.not_eq_true', Option.isNone_iff_eq_none, List.isEmpty_iff, beq_iff_eq] at pending
      obtain ⟨⟨⟨⟨inv, page⟩, trap⟩, pend⟩, pc⟩ := pending
      rw [attempt_fetched inv page trap pend pc this decodeWords_rte, State.whoOf_w hk]
      exact ht
  obtain ⟨k, hk, first⟩ := first
  obtain ⟨f, note⟩ := State.noteIssue_handler (t := t) (run := exec) (core := 0) (slot := 0) handles
  have order : restoring.ticked.tryOrder (restoring.turn / 4) (restoring.turn % 4) = [2] := by rw [turn0]; exact order
  have stepped := (step_first (.inl phase) order hk first).1 go
  rw [turn0] at stepped
  have numbered := (h restoring _ (by decide +kernel) (by decide +kernel) stepped).2
  rw [State.not_numbered (w := 2) (x := x) ?_ loads] at numbered
  · cases numbered
  · change ((t.noteIssue exec restoringTicked 0 0 2).passTurn).wave? 2 = some x
    rw [note, State.wave?_passTurn (by simp [turn])]
    simpa using hx

end Sys2Proof.Machine
end

section
/-! SUPPORT. Integer arithmetic: the operations of 20 Table 20.1 as numbers modulo 2^w (07 R132, R133). Settles O1, O2. -/

-- One theorem at a time: many at once ask for more threads than the checker has memory for.
set_option Elab.async false

namespace Sys2Proof.Machine

/-! ### Bit vectors as numbers -/

/-- The number that a bit vector holds, signed or natural. -/
def asNumber (sg : Bool) {w : Nat} (x : BitVec w) : Int := if sg then x.toInt else x.toNat

@[simp] theorem ofInt_asNumber (sg : Bool) {w : Nat} (x : BitVec w) : BitVec.ofInt w (asNumber sg x) = x := by
  cases sg <;> simp [asNumber]

/-- A result is its number modulo the type's width (07 R132). -/
theorem extendTo_ofInt (ty : Ty) (n : Int) : extendTo ty.signed (BitVec.ofInt ty.bits n) = ty.narrow n := by
  unfold extendTo Ty.narrow
  dsimp only
  split
  · split
    · rfl
    · exact (BitVec.setWidth_setWidth (by omega)).symm
  · rfl

theorem ofInt_sub (w : Nat) (x y : Int) : BitVec.ofInt w (x - y) = BitVec.ofInt w x - BitVec.ofInt w y := by
  rw [Int.sub_eq_add_neg, BitVec.ofInt_add, BitVec.ofInt_neg, BitVec.sub_eq_add_neg]

theorem emod_sq_ediv (n : Int) {p : Int} (hp : 0 < p) : n % (p * p) / p = n / p % p := by
  have split := Int.emod_add_mul_ediv n (p * p)
  generalize hr : n % (p * p) = r at split ⊢
  have nonneg : 0 ≤ r := hr ▸ Int.emod_nonneg n (by positivity)
  have lt : r < p * p := hr ▸ Int.emod_lt_of_pos n (by positivity)
  have quotient : n / p = r / p + p * (n / (p * p)) := by
    conv_lhs => rw [← split, Int.mul_assoc]
    exact Int.add_mul_ediv_left _ _ hp.ne'
  rw [quotient, Int.add_mul_emod_self_left,
    Int.emod_eq_of_lt (Int.ediv_nonneg nonneg hp.le) (Int.ediv_lt_of_lt_mul hp lt)]

/-- Bits [2w−1:w] of a number modulo 2^2w are those of its quotient by 2^w. -/
theorem extractLsb'_ofInt (w : Nat) (n : Int) : (BitVec.ofInt (2 * w) n).extractLsb' w w = BitVec.ofInt w (n / 2 ^ w) := by
  apply BitVec.eq_of_toNat_eq
  rw [BitVec.extractLsb'_toNat, BitVec.toNat_ofInt, BitVec.toNat_ofInt, Nat.shiftRight_eq_div_pow]
  have quotient := emod_sq_ediv n (p := 2 ^ w) (by positivity)
  rw [← pow_add, ← Nat.two_mul] at quotient
  have nonneg : 0 ≤ n % 2 ^ (2 * w) := Int.emod_nonneg _ (by positivity)
  have nonneg' : 0 ≤ n / 2 ^ w % 2 ^ w := Int.emod_nonneg _ (by positivity)
  zify
  rw [Int.toNat_of_nonneg nonneg, Int.toNat_of_nonneg nonneg', quotient, Int.emod_emod_of_dvd _ dvd_rfl]

theorem ofInt_allOnes (w : Nat) : BitVec.ofInt w (2 ^ w - 1) = BitVec.allOnes w := by
  have : (2 : Int) ^ w - 1 = ((2 ^ w - 1 : Nat) : Int) := by
    have := Nat.one_le_two_pow (n := w)
    push_cast [this]
    rfl
  rw [this, BitVec.ofInt_natCast]
  exact BitVec.eq_of_toNat_eq (by simp)

/-! ### The operations of 20 Table 20.1 -/

/-- An operation is a function of its sources' numbers modulo 2^w. -/
def Denotes (op : (w : Nat) → Bool → BitVec w → BitVec w → BitVec w → BitVec w) (g : Nat → Bool → Int → Int → Int → Int) : Prop :=
  ∀ w sg a b c, 0 < w → op w sg a b c = BitVec.ofInt w (g w sg (asNumber sg a) (asNumber sg b) (asNumber sg c))

theorem opAdd_denotes : Denotes opAdd fun _ _ x y _ => x + y := fun w sg a b c _ => by
  simp [opAdd, BitVec.ofInt_add]

theorem opSub_denotes : Denotes opSub fun _ _ x y _ => x - y := fun w sg a b c _ => by
  simp [opSub, ofInt_sub]

theorem opMul_denotes : Denotes opMul fun _ _ x y _ => x * y := fun w sg a b c _ => by
  simp [opMul, BitVec.ofInt_mul]

theorem opMad_denotes : Denotes opMad fun _ _ x y z => x * y + z := fun w sg a b c _ => by
  simp [opMad, BitVec.ofInt_mul, BitVec.ofInt_add]

theorem opMulh_denotes : Denotes opMulh fun w _ x y _ => x * y / 2 ^ w := fun w sg a b c _ => by
  rw [← extractLsb'_ofInt, BitVec.ofInt_mul]
  cases sg <;> simp [opMulh, asNumber, BitVec.signExtend]

theorem opMin_denotes : Denotes opMin fun _ _ x y _ => min x y := fun w sg a b c _ => by
  rw [show (fun _ _ x y _ => min x y : Nat → Bool → Int → Int → Int → Int) = fun _ _ x y _ => min y x by simp only [min_comm]]
  cases sg
  · simp only [opMin, asNumber, min_def_lt, BitVec.ult_iff_toNat_lt, Bool.false_eq_true, if_false, Nat.cast_lt]
    split <;> simp
  · simp only [opMin, asNumber, min_def_lt, BitVec.slt_iff_toInt_lt, if_true]
    split <;> simp

theorem opMax_denotes : Denotes opMax fun _ _ x y _ => max x y := fun w sg a b c _ => by
  cases sg
  · simp only [opMax, asNumber, max_def_lt, BitVec.ult_iff_toNat_lt, Bool.false_eq_true, if_false, Nat.cast_lt]
    split <;> simp
  · simp only [opMax, asNumber, max_def_lt, BitVec.slt_iff_toInt_lt, if_true]
    split <;> simp

theorem opAbs_denotes : Denotes opAbs fun _ _ x _ _ => x.natAbs := fun w sg a b c _ => by
  cases sg
  · simp [opAbs, asNumber]
  · simp only [opAbs, asNumber, BitVec.msb_eq_toInt, Bool.true_and, decide_eq_true_eq, if_true]
    split
    · rw [Int.ofNat_natAbs_of_nonpos (by omega), BitVec.ofInt_neg, BitVec.ofInt_toInt]
    · rw [Int.natAbs_of_nonneg (by omega), BitVec.ofInt_toInt]

theorem opAdds_denotes : Denotes opAdds fun w sg x y _ =>
    max (if sg then -(2 ^ (w - 1)) else 0) (min (if sg then 2 ^ (w - 1) - 1 else 2 ^ w - 1) (x + y)) := fun w sg a b c hw => by
  cases sg
  · have bound : ((2 ^ w : Nat) : Int) = 2 ^ w := by push_cast; rfl
    simp only [opAdds, asNumber, Bool.false_eq_true, if_false]
    split
    · rw [min_eq_left (by omega), max_eq_right (by omega), ofInt_allOnes]
    · rw [min_eq_right (by omega), max_eq_right (by omega), ← Int.natCast_add, BitVec.ofInt_natCast]
  · have pos : (0 : Int) < 2 ^ (w - 1) := by positivity
    simp only [opAdds, asNumber, if_true]
    split
    · rw [min_eq_right (by omega), max_eq_left (by omega)]
    · split
      · rw [min_eq_left (by omega), max_eq_right (by omega)]
      · rw [min_eq_right (by omega), max_eq_right (by omega)]

/-! ### The instructions -/

theorem bits_pos (ty : Ty) : 0 < ty.bits := by cases ty <;> decide

/-- An operation's result at a type is its number brought into the type's width (07 R132). -/
theorem intRes_eq {op : (w : Nat) → Bool → BitVec w → BitVec w → BitVec w → BitVec w} {g : Nat → Bool → Int → Int → Int → Int}
    (hg : Denotes op g) (ty : Ty) (a b c : Quad) :
    intRes ty op a b c = ty.narrow (g ty.bits ty.signed (ty.value a) (ty.value b) (ty.value c)) := by
  rw [← extendTo_ofInt]
  exact congrArg (extendTo ty.signed) (hg ty.bits ty.signed _ _ _ (bits_pos ty))

section

variable {i : Instr} {s : State} {k : Who} {f : ExtArgs} (h : Ready i s k) (hc : i.form.commits = false)
include h hc

theorem intLanes_computes {op : (w : Nat) → Bool → BitVec w → BitVec w → BitVec w → BitVec w}
    {g : Nat → Bool → Int → Int → Int → Int} (hg : Denotes op g) (he : exec i s = .next (intLanes i f op s)) :
    Computes i s k f.d f.ty.width fun l => .write (f.ty.narrow (g f.ty.bits f.ty.signed (k.num s l f.lit f.ty f.a)
      (k.num s l f.lit f.ty f.b) (k.num s l f.lit f.ty f.c))) 0 :=
  computes_of h hc he fun _ => by rw [intRes_eq hg]; rfl

end

/-- Settles O1: sums, differences, products and multiply-adds of the sources' numbers. -/
theorem integerSums : Obligations.IntegerSums := by
  unfold Obligations.IntegerSums
  refine ⟨?iadd, ?iaddExt, ?isub, ?isubExt, ?imul, ?imulExt, ?imad, ?imadExt⟩
  case iadd => exact fun f s k h => (intLanes_computes (f := f.toExt .i32 0) h rfl opAdd_denotes rfl :)
  case iaddExt => exact fun f s k h => (intLanes_computes (f := f) h rfl opAdd_denotes rfl :)
  case isub => exact fun f s k h => (intLanes_computes (f := f.toExt .i32 0) h rfl opSub_denotes rfl :)
  case isubExt => exact fun f s k h => (intLanes_computes (f := f) h rfl opSub_denotes rfl :)
  case imul => exact fun f s k h => (intLanes_computes (f := f.toExt .i32 0) h rfl opMul_denotes rfl :)
  case imulExt => exact fun f s k h => (intLanes_computes (f := f) h rfl opMul_denotes rfl :)
  case imad => exact fun f s k h => (intLanes_computes (f := f.toExt3 .i32) h rfl opMad_denotes rfl :)
  case imadExt => exact fun f s k h => (intLanes_computes (f := f) h rfl opMad_denotes rfl :)

/-- Settles O2: the product's high part, order, magnitude and the clamped sum. -/
theorem integerOrderAndRange : Obligations.IntegerOrderAndRange := by
  unfold Obligations.IntegerOrderAndRange
  refine ⟨?imulh, ?imulhExt, ?imin, ?iminExt, ?imax, ?imaxExt, ?iabs, ?iabsExt, ?iadds, ?iaddsExt⟩
  case imulh => exact fun f s k h => (intLanes_computes (f := f.toExt .i32 0) h rfl opMulh_denotes rfl :)
  case imulhExt => exact fun f s k h => (intLanes_computes (f := f) h rfl opMulh_denotes rfl :)
  case imin => exact fun f s k h => (intLanes_computes (f := f.toExt .i32 0) h rfl opMin_denotes rfl :)
  case iminExt => exact fun f s k h => (intLanes_computes (f := f) h rfl opMin_denotes rfl :)
  case imax => exact fun f s k h => (intLanes_computes (f := f.toExt .i32 0) h rfl opMax_denotes rfl :)
  case imaxExt => exact fun f s k h => (intLanes_computes (f := f) h rfl opMax_denotes rfl :)
  case iabs => exact fun f s k h => (intLanes_computes (f := f.toExt .i32 0) h rfl opAbs_denotes rfl :)
  case iabsExt => exact fun f s k h => (intLanes_computes (f := f) h rfl opAbs_denotes rfl :)
  case iadds => exact fun f s k h => (intLanes_computes (f := f.toExt .i32 0) h rfl opAdds_denotes rfl :)
  case iaddsExt => exact fun f s k h => (intLanes_computes (f := f) h rfl opAdds_denotes rfl :)

end Sys2Proof.Machine
end

section
/-! SUPPORT. Bits: logic, moves, shifts, comparisons and addresses (18 R375, 21 R452, 22 R485, 20 R428, R438). Settles O4, O5, O7. -/

-- One theorem at a time: many at once ask for more threads than the checker has memory for.
set_option Elab.async false

namespace Sys2Proof.Machine

/-! ### Operations bit by bit -/

theorem getLsbD_opShl {w : Nat} (x : BitVec w) (n j : Nat) :
    (opShl w x n).getLsbD j = (decide (j < w) && decide (n ≤ j) && x.getLsbD (j - n)) := by
  unfold opShl
  split
  case isTrue => simp only [BitVec.getLsbD_shiftLeft, ← Nat.not_lt, decide_not]
  case isFalse h =>
    refine BitVec.getLsbD_zero.trans ?_
    by_cases hj : j < w
    · rw [decide_eq_false (show ¬ n ≤ j by omega), Bool.and_false, Bool.false_and]
    · rw [decide_eq_false hj, Bool.false_and, Bool.false_and]

theorem getLsbD_opRot {w : Nat} (x : BitVec w) (n : Nat) {i : Nat} (hi : i < w) :
    (opRot w x n).getLsbD ((i + n) % w) = x.getLsbD i := by
  have hn : n % w < w := Nat.mod_lt _ (by omega)
  have sum : (i + n) % w = if i + n % w < w then i + n % w else i + n % w - w := by
    rw [Nat.add_mod, Nat.mod_eq_of_lt hi]
    split
    · exact Nat.mod_eq_of_lt ‹_›
    · rw [Nat.mod_eq_sub_mod (by omega), Nat.mod_eq_of_lt (by omega)]
  rw [opRot, BitVec.getLsbD_rotateLeft, Nat.mod_mod, sum]
  split
  · simp [*]
  · rw [decide_eq_true (show i + n % w - w < n % w by omega), cond_true]
    congr 1
    omega

theorem getLsbD_setWidth_of_lt {w : Nat} (x : BitVec w) {j : Nat} (hj : j < 128) : (x.setWidth 128).getLsbD j = x.getLsbD j := by
  rw [BitVec.getLsbD_setWidth, decide_eq_true hj, Bool.true_and]

theorem getLsbD_opAnd (n : Nat) (x y : BitVec n) (j : Nat) (hj : j < 128) :
    (opAnd n x y).getLsbD j = (decide (j < n) && (x.getLsbD j && y.getLsbD j)) :=
  getLsbD_setWidth_quad _ hj fun _ => BitVec.getLsbD_and

theorem getLsbD_opOr (n : Nat) (x y : BitVec n) (j : Nat) (hj : j < 128) :
    (opOr n x y).getLsbD j = (decide (j < n) && (x.getLsbD j || y.getLsbD j)) :=
  getLsbD_setWidth_quad _ hj fun _ => BitVec.getLsbD_or

theorem getLsbD_opXor (n : Nat) (x y : BitVec n) (j : Nat) (hj : j < 128) :
    (opXor n x y).getLsbD j = (decide (j < n) && (x.getLsbD j != y.getLsbD j)) :=
  getLsbD_setWidth_quad _ hj fun _ => BitVec.getLsbD_xor

theorem getLsbD_opNot (n : Nat) (x y : BitVec n) (j : Nat) (hj : j < 128) :
    (opNot n x y).getLsbD j = (decide (j < n) && !x.getLsbD j) :=
  getLsbD_setWidth_quad _ hj fun hw => by rw [BitVec.getLsbD_not, decide_eq_true hw, Bool.true_and]

theorem getLsbD_opMov (n : Nat) (x y : BitVec n) (j : Nat) (hj : j < 128) :
    (opMov n x y).getLsbD j = (decide (j < n) && x.getLsbD j) :=
  getLsbD_setWidth_quad _ hj fun _ => rfl

/-! ### Comparisons, predicates and addresses -/

theorem asNumber_inj {sg : Bool} {w : Nat} {x y : BitVec w} : asNumber sg x = asNumber sg y ↔ x = y :=
  ⟨fun h => by rw [← ofInt_asNumber sg x, h, ofInt_asNumber], fun h => h ▸ rfl⟩

theorem lt_asNumber (sg : Bool) {w : Nat} (x y : BitVec w) :
    (if sg then x.slt y else x.ult y) = decide (asNumber sg x < asNumber sg y) := by
  cases sg
  · simp [BitVec.ult, asNumber]
  · simp [BitVec.slt, asNumber]

/-- A comparison of bit vectors is that of their numbers (20 R428). -/
theorem icmpRes_eq (ty : Ty) (md : Nat) (a b : Quad) : icmpRes ty md a b = comparesAs md (ty.value a) (ty.value b) := by
  unfold icmpRes comparesAs
  simp only [lt_asNumber, ← asNumber_inj (sg := ty.signed), ← decide_not, not_lt, ne_eq]
  rfl

theorem plogRes_eq (fn : BitVec 2) (x y : Bool) :
    plogRes fn x y = if fn = 0 then x && y else if fn = 1 then x || y else if fn = 2 then x != y else x && !y := by
  revert fn x y
  decide

/-- The address of `LEA` is the sum of the numbers modulo 2^64 (20 R438). -/
theorem leaSum_eq (f : ExtArgs) (a b : Quad) :
    a.setWidth 64 + ((if f.ty = .i32 then (b.setWidth 32).signExtend 64 else b.setWidth 64) <<< (f.aux.toNat % 8)) + f.offset =
      BitVec.ofInt 64 (a.toNat + (if f.ty = .i32 then Ty.value .i32 b else b.toNat) * 2 ^ (f.aux.toNat % 8) + f.x18.toInt) := by
  have low (x : Quad) : BitVec.ofInt 64 x.toNat = x.setWidth 64 := BitVec.ofInt_natCast 64 x.toNat
  have scale (n : Nat) : BitVec.ofInt 64 (2 ^ n) = BitVec.twoPow 64 n := by
    apply BitVec.eq_of_toNat_eq
    rw [BitVec.toNat_twoPow, show (2 : Int) ^ n = ((2 ^ n : Nat) : Int) by push_cast; rfl, BitVec.ofInt_natCast, BitVec.toNat_ofNat]
  rw [BitVec.ofInt_add, BitVec.ofInt_add, BitVec.ofInt_mul, low, scale, ← BitVec.shiftLeft_eq_mul_twoPow]
  split
  · rfl
  · rw [low]; rfl

section

variable {i : Instr} {s : State} {k : Who} {f : ExtArgs} (h : Ready i s k) (hc : i.form.commits = false)
include h hc

theorem bitLanes_computes {w : Width} {op : (w : Nat) → BitVec w → BitVec w → Quad} {b : Bool → Bool → Bool}
    (hop : ∀ n x y j, j < 128 → (op n x y).getLsbD j = (decide (j < n) && b (x.getLsbD j) (y.getLsbD j)))
    (he : exec i s = .next (bitLanes i f w op s)) :
    ComputesBits i s k f.d w fun l j => decide (j < f.ty.bits) &&
      b ((k.src s l f.lit f.ty f.a).getLsbD j) ((k.src s l f.lit f.ty f.b).getLsbD j) := by
  refine ⟨_, computes_of h hc he fun _ => rfl, fun l j hj => ?_⟩
  rw [hop _ _ _ _ hj]
  by_cases hw : j < f.ty.bits
  · simp [hw, Who.srcA, Who.srcB, Who.src]
  · simp [hw]

theorem shiftLanes_computes {op : (w : Nat) → BitVec w → Nat → BitVec w} (he : exec i s = .next (shiftLanes i f op s)) :
    Computes i s k f.d f.ty.width fun l =>
      .write ((op f.ty.bits ((k.src s l f.lit f.ty f.a).setWidth f.ty.bits) (k.src s l f.lit .n32 f.b).toNat).setWidth 128) 0 :=
  computes_of h hc he fun _ => rfl

theorem shlLanes_computes (he : exec i s = .next (shiftLanes i f opShl s)) :
    ComputesBits i s k f.d f.ty.width fun l j => decide (j < f.ty.bits) && decide ((k.src s l f.lit .n32 f.b).toNat ≤ j) &&
      (k.src s l f.lit f.ty f.a).getLsbD (j - (k.src s l f.lit .n32 f.b).toNat) := by
  refine ⟨_, shiftLanes_computes h hc he, fun l j hj => ?_⟩
  rw [getLsbD_setWidth_quad _ hj fun _ => getLsbD_opShl _ _ _, BitVec.getLsbD_setWidth]
  by_cases hw : j < f.ty.bits
  · simp [hw, show j - (k.src s l f.lit .n32 f.b).toNat < f.ty.bits by omega]
  · simp [hw]

theorem shrLanes_computes (he : exec i s = .next (shiftLanes i f opShr s)) :
    ComputesBits i s k f.d f.ty.width fun l j => decide (j + (k.src s l f.lit .n32 f.b).toNat < f.ty.bits) &&
      (k.src s l f.lit f.ty f.a).getLsbD (j + (k.src s l f.lit .n32 f.b).toNat) := by
  refine ⟨_, shiftLanes_computes h hc he, fun l j hj => ?_⟩
  rw [getLsbD_setWidth_quad _ hj fun _ => getLsbD_opShr _ _ _, BitVec.getLsbD_setWidth, Nat.add_comm _ j]
  by_cases hw : j + (k.src s l f.lit .n32 f.b).toNat < f.ty.bits
  · simp [hw, show j < f.ty.bits by omega]
  · simp [hw]

theorem shaLanes_computes (he : exec i s = .next (shiftLanes i f opSha s)) :
    ComputesBits i s k f.d f.ty.width fun l j => decide (j < f.ty.bits) &&
      (k.src s l f.lit f.ty f.a).getLsbD (min (j + (k.src s l f.lit .n32 f.b).toNat) (f.ty.bits - 1)) := by
  refine ⟨_, shiftLanes_computes h hc he, fun l j hj => getLsbD_setWidth_quad _ hj fun hw => ?_⟩
  rw [getLsbD_opSha _ _ hw, Nat.add_comm _ j]
  split
  case isTrue lt =>
    rw [min_eq_left (by omega), BitVec.getLsbD_setWidth, decide_eq_true lt, Bool.true_and]
  case isFalse ge =>
    rw [min_eq_right (by omega), BitVec.msb_eq_getLsbD_last, BitVec.getLsbD_setWidth,
      decide_eq_true (show f.ty.bits - 1 < f.ty.bits by omega), Bool.true_and]

theorem rotLanes_computes (he : exec i s = .next (shiftLanes i f opRot s)) :
    ∃ r : Nat → Quad, Computes i s k f.d f.ty.width (fun l => .write (r l) 0) ∧ ∀ l j, j < f.ty.bits →
      (r l).getLsbD ((j + (k.src s l f.lit .n32 f.b).toNat) % f.ty.bits) = (k.src s l f.lit f.ty f.a).getLsbD j := by
  refine ⟨_, shiftLanes_computes h hc he, fun l j hw => ?_⟩
  have pos : 0 < f.ty.bits := by omega
  have lt := Nat.mod_lt (j + (k.src s l f.lit .n32 f.b).toNat) pos
  have le : f.ty.bits ≤ 128 := by cases f.ty <;> decide
  rw [BitVec.getLsbD_setWidth, decide_eq_true (by omega), Bool.true_and, getLsbD_opRot _ _ hw, BitVec.getLsbD_setWidth,
    decide_eq_true hw, Bool.true_and]

theorem pmovTruth_computes (hm : f.md.toNat = 0) (he : exec i s = .next (pmovLanes i f s)) :
    Computes i s k f.d .w32 fun l => truthOut (decide (k.num s l f.lit .n32 f.a ≠ 0)) := by
  unfold pmovLanes at he
  rw [hm] at he
  refine computes_of h hc he fun l => ?_
  have zero : k.num s l f.lit .n32 f.a = 0 ↔ (k.rd s l f .w32 f.a).setWidth 32 = 0#32 :=
    asNumber_inj (sg := false) (y := 0#32)
  simp only [boolOut, truthOut, ne_eq, zero]

theorem pmovPred_computes {p : BitVec 3} (hm : f.md.toNat = 1) (ha : f.a = .pred p false) (he : exec i s = .next (pmovLanes i f s)) :
    Computes i s k f.d .w32 fun l => truthOut ((k.x.thread l).p.getLsbD p.toNat) := by
  unfold pmovLanes at he
  rw [hm] at he
  refine computes_of h hc he fun l => ?_
  rw [ha]
  simp [boolOut, truthOut, Thread.readPred]

theorem pmovAll_computes (hm : f.md.toNat = 2) (he : exec i s = .next (pmovLanes i f s)) :
    Computes i s k f.d .w32 fun l => .write ((k.x.thread l).p.setWidth 128) 0 := by
  unfold pmovLanes at he
  rw [hm] at he
  exact computes_of h hc he fun _ => rfl

theorem icmpLanes_computes {md : Nat} (hm : f.md.toNat = md) (he : exec i s = .next (icmpLanes i f s)) :
    Computes i s k f.d .w32 fun l => truthOut (comparesAs md (k.num s l f.lit f.ty f.a) (k.num s l f.lit f.ty f.b)) := by
  subst hm
  exact computes_of h hc he fun l => congrArg truthOut (icmpRes_eq f.ty f.md.toNat (k.src s l f.lit f.ty f.a) (k.src s l f.lit f.ty f.b))

end

/-- Settles O4: each operation bit by bit. -/
theorem logicAndMoves : Obligations.LogicAndMoves := by
  unfold Obligations.LogicAndMoves
  refine ⟨?and, ?andExt, ?or, ?orExt, ?xor, ?xorExt, ?not, ?notExt, ?mov, ?movExt, ?sel, ?selExt, ?movi⟩
  case and => exact fun f s k h => bitLanes_computes (f := f.toExt .b32 0) h rfl getLsbD_opAnd rfl
  case andExt => exact fun f s k h => bitLanes_computes h rfl getLsbD_opAnd rfl
  case or => exact fun f s k h => bitLanes_computes (f := f.toExt .b32 0) h rfl getLsbD_opOr rfl
  case orExt => exact fun f s k h => bitLanes_computes h rfl getLsbD_opOr rfl
  case xor => exact fun f s k h => bitLanes_computes (f := f.toExt .b32 0) h rfl getLsbD_opXor rfl
  case xorExt => exact fun f s k h => bitLanes_computes h rfl getLsbD_opXor rfl
  case not => exact fun f s k h => bitLanes_computes (f := f.toExt .b32 0) (b := fun x _ => !x) h rfl getLsbD_opNot rfl
  case notExt => exact fun f s k h => bitLanes_computes (b := fun x _ => !x) h rfl getLsbD_opNot rfl
  case mov => exact fun f s k h => bitLanes_computes (f := f.toExt .b32 0) (b := fun x _ => x) h rfl getLsbD_opMov rfl
  case movExt => exact fun f s k h => bitLanes_computes (b := fun x _ => x) h rfl getLsbD_opMov rfl
  case sel =>
    intro f s k h
    refine computes_of h rfl rfl fun l => ?_
    have pred : (k.x.thread l).readPred (.pred (f.xb.setWidth 3) false) = (k.x.thread l).p.getLsbD f.xb.toNat := by
      have := f.xb.isLt
      simp [Thread.readPred, Nat.mod_eq_of_lt (show f.xb.toNat < 8 by omega)]
    rw [pred]
    rfl
  case selExt =>
    intro f s k p inv hp h
    refine computes_of h rfl rfl fun l => ?_
    rw [hp]
    rfl
  case movi =>
    intro f s k x hx h
    refine ⟨_, computes_of h rfl rfl fun _ => rfl, fun l j hj => ?_⟩
    simp [hx, hj]

/-- Settles O5: each shift bit by bit. -/
theorem shifts : Obligations.Shifts := by
  unfold Obligations.Shifts
  intro count
  refine ⟨?shl, ?shlExt, ?shr, ?shrExt, ?sha, ?shaExt, ?rot, ?rotExt⟩
  case shl => exact fun f s k h => shlLanes_computes (f := f.toExt .b32 0) h rfl rfl
  case shlExt => exact fun f s k h => shlLanes_computes h rfl rfl
  case shr => exact fun f s k h => shrLanes_computes (f := f.toExt .b32 0) h rfl rfl
  case shrExt => exact fun f s k h => shrLanes_computes h rfl rfl
  case sha => exact fun f s k h => shaLanes_computes (f := f.toExt .i32 0) h rfl rfl
  case shaExt => exact fun f s k h => shaLanes_computes h rfl rfl
  case rot => exact fun f s k h => rotLanes_computes (f := f.toExt .b32 0) h rfl rfl
  case rotExt => exact fun f s k h => rotLanes_computes h rfl rfl

/-- Settles O7: comparisons, predicate functions and moves, and the address sum modulo 2^64. -/
theorem predicatesAndAddresses : Obligations.PredicatesAndAddresses := by
  unfold Obligations.PredicatesAndAddresses
  refine ⟨?icmp, ?icmpExt, ?plog, ?pmovTruth, ?pmovPred, ?pmovAll, ?pmovExtTruth, ?pmovExtPred, ?pmovExtAll, ?lea⟩
  case icmp => exact fun f s k h => icmpLanes_computes h rfl (toExt_md f .i32) rfl
  case icmpExt => exact fun f s k _ h => icmpLanes_computes h rfl rfl rfl
  case plog =>
    intro f s k p q i j hp hq h
    refine computes_of h rfl rfl fun l => ?_
    rw [hp, hq]
    exact congrArg truthOut (plogRes_eq f.xb _ _)
  case pmovTruth => exact fun f s k hx h => pmovTruth_computes h rfl (by rw [toExt_md, hx]; rfl) rfl
  case pmovPred => exact fun f s k p hx ha h => pmovPred_computes h rfl (by rw [toExt_md, hx]; rfl) ha rfl
  case pmovAll => exact fun f s k hx h => pmovAll_computes h rfl (by rw [toExt_md, hx]; rfl) rfl
  case pmovExtTruth => exact fun f s k hx h => pmovTruth_computes h rfl (by rw [hx]; rfl) rfl
  case pmovExtPred => exact fun f s k p hx ha h => pmovPred_computes h rfl (by rw [hx]; rfl) ha rfl
  case pmovExtAll => exact fun f s k hx h => pmovAll_computes h rfl (by rw [hx]; rfl) rfl
  case lea =>
    intro f s k h
    refine computes_of h rfl rfl fun l => congrArg (fun x : DWord => LaneOut.write (x.setWidth 128) 0) ?_
    refine (leaSum_eq f (k.rd s l f .w64 f.a) (k.srcB s l f)).trans ?_
    by_cases ht : f.ty = .i32
    · simp only [ht, if_true, Who.srcB]
      rfl
    · simp only [ht, if_false]
      rfl

end Sys2Proof.Machine
end

section
/-! SUPPORT. States in which a statement about a ready instruction fails: `Ready` asks for no well-formed instruction, and one that no
opcode's rules cover uses, by `Form.uses`, no operand, so that its destination may be empty already. Refutes O3, O14, O15. -/

-- One theorem at a time: many at once ask for more threads than the checker has memory for.
set_option Elab.async false

namespace Sys2Proof.Machine

/-! ### Ready, by computation -/

/-- Nothing holds an instruction back, as `Ready` says but for the wave's being the issuing one. -/
def Who.readyFor (k : Who) (s : State) (i : Instr) : Bool :=
  !k.x.resuming && (decodeFault s k i k.x.group k.x.active).isNone && (!i.form.collective || !k.x.anyParked) &&
    !anySrcEmpty k.x i.form.uses k.x.active false && !anyDstEmpty k.x i.form.uses k.x.active &&
    (!i.form.memory || !k.x.loads.any fun e => e.2.acq.isSome) && !k.x.active.isEmpty

/-- Some wave issues and the instruction is ready for it. -/
def State.readyFor (s : State) (i : Instr) : Bool := s.who.any fun k => k.readyFor s i

theorem ready_of_readyFor {s : State} {i : Instr} (h : s.readyFor i = true) : ∃ k, Ready i s k := by
  obtain ⟨k, who, props⟩ := (Option.any_eq_true _ _).1 h
  simp only [Who.readyFor, Bool.and_eq_true, Bool.or_eq_true, Bool.not_eq_true', Option.isNone_iff_eq_none,
    List.isEmpty_eq_false_iff] at props
  obtain ⟨⟨⟨⟨⟨⟨fresh, decoded⟩, meets⟩, sources⟩, destination⟩, acquired⟩, active⟩ := props
  exact ⟨k, who, fresh, decoded, fun h => meets.resolve_left (by simp [h]), sources, destination,
    fun h => acquired.resolve_left (by simp [h]), active⟩

/-- The wave of thread 0 alone, at code in a translated page, its thread and its gang's mode changed. -/
def loneWave (f : Thread → Thread) (mode : BitVec 19) : State :=
  let s := State.reset.placeWords []
  let x := Wave.placed 1 0 0 65536 0 0 1
  { s with waves := [(2, { x with threads := x.threads.map f })], gangs := s.gangs.map fun e => (e.1, { e.2 with mode := mode })
           issuer := some 2, ilen := 4 }

/-! ### A full bit that was clear -/

/-- A result on its way fills no register. -/
theorem Late.full_of_clear {s t : State} {k : Who} {d : Opd} {w : Width} {out : Nat → LaneOut} (h : Late s t k d w out) {v l n : Nat}
    (hf : (s.lane v l).full.getLsbD n = false) : (t.lane v l).full.getLsbD n = false := by
  have mark (t : Thread) (ht : t.full.getLsbD n = false) : (t.markEmpty d w).full.getLsbD n = false := by
    cases d <;> simp [Thread.markEmpty, ht]
  rw [h.full]
  split
  · exact mark _ hf
  · exact hf

/-- The register's full bit is set after an instruction. -/
def fills (i : Instr) (s : State) (v l n : Nat) : Bool :=
  !(s.lane v l).full.getLsbD n && match exec i s with
    | .next t => (t.lane v l).full.getLsbD n
    | _ => false

theorem not_delivers_of_fills {i : Instr} {s : State} {k : Who} {d : Opd} {w : Width} {out : Nat → LaneOut} {v l n : Nat}
    (hd : d ≠ .zero) (h : fills i s v l n = true) : ¬ Delivers i s k d w out := by
  intro hl
  unfold Delivers at hl
  rw [if_neg hd] at hl
  obtain ⟨t, ht, late⟩ := hl
  simp only [fills, ht, Bool.and_eq_true, Bool.not_eq_true'] at h
  rw [late.full_of_clear h.1] at h
  cases h.2

/-- A destination and sources that no rule of the opcode covers: XB is 1 where the opcode does not assign it (05 R99). -/
def strayArgs : BaseArgs := { BaseArgs.empty with d := .v 4, a := .v 5, b := .v 6, xb := 1 }

/-- All registers are empty, and IDZT is 1. -/
def emptyLane : State := loneWave (fun t => { t with full := 0, fpctl := 8 }) 0

/-- All registers are empty, and every floating exception is enabled. -/
def emptyFloatLane : State := loneWave (fun t => { t with full := 0 }) (BitVec.allOnes 19)

/-- Refutes O3: a lane that parks with INT_DIVZERO fills the destination, which an `IDIV` that no rule covers did not find full. -/
theorem not_integerDivision : ¬ Obligations.IntegerDivision := by
  unfold Obligations.IntegerDivision
  rintro ⟨idiv, -⟩
  obtain ⟨k, ready⟩ := ready_of_readyFor (i := .idiv strayArgs) (s := emptyLane) (by decide +kernel)
  exact not_delivers_of_fills (v := 2) (l := 0) (n := 4) (by decide) (by decide +kernel) (idiv strayArgs _ k ready)

/-- Refutes O14: the same at 0 / 0 with NV enabled. -/
theorem not_floatDivisionAndRoots : ¬ Obligations.FloatDivisionAndRoots := by
  unfold Obligations.FloatDivisionAndRoots
  rintro ⟨fdiv, -⟩
  obtain ⟨k, ready⟩ := ready_of_readyFor (i := .fdiv strayArgs) (s := emptyFloatLane) (by decide +kernel)
  obtain ⟨r, delivers, -⟩ := fdiv strayArgs _ k ready
  exact not_delivers_of_fills (v := 2) (l := 0) (n := 4) (by decide) (by decide +kernel) delivers

/-- Refutes O15: the same at the logarithm of 0 with DZ enabled. -/
theorem not_floatFunctions : ¬ Obligations.FloatFunctions := by
  unfold Obligations.FloatFunctions
  rintro ⟨-, -, flog2, -⟩
  obtain ⟨k, ready⟩ := ready_of_readyFor (i := .flog2 strayArgs) (s := emptyFloatLane) (by decide +kernel)
  obtain ⟨r, delivers, -⟩ := flog2 strayArgs _ k ready
  exact not_delivers_of_fills (v := 2) (l := 0) (n := 4) (by decide) (by decide +kernel) delivers

end Sys2Proof.Machine
end

section
/-! SUPPORT. A wave of 33 threads: a state whose group, the lanes 0 to 31, is not all of its issuing threads. Refutes O8, O9. -/

-- One theorem at a time: many at once ask for more threads than the checker has memory for.
set_option Elab.async false

namespace Sys2Proof.Machine

/-- Thread 0 issues at 0x10000; a thread beyond lane 31 issues at 0. -/
def crowded : State :=
  let s := loneWave id 0
  { s with waves := s.waves.map fun e => (e.1, { e.2 with threads := e.2.threads ++ [{ Thread.reset with st := .issuing, pc := 0 }] }) }

/-- Its one lane is active, none is parked, and no `STEP` is armed. -/
theorem crowded_who : crowded.who.all (fun k => k.w = 2 && k.x.group = [0] && k.x.clear && !stepsNow crowded k (k.x.issuePc.getD 0) &&
    k.pc = 0x10000) = true := by decide +kernel

/-- After the instruction thread 0 is at an address that it does not meet at, and the issue PC is not that address. -/
def crowdsOut (i : Instr) (pc : DWord) : Bool :=
  match exec i crowded with
  | .next t => (t.wave? 2).bind Wave.issuePc = some 0 && decide ((t.lane 2 0).meet ≠ pc)
  | _ => false

/-- The group goes to its target, and the thread outside it issues. -/
theorem not_goes_of_crowdsOut {i : Instr} {t : State} {k : Who} {pc : DWord} {len : DWord} (hk : crowded.who = some k)
    (ht : exec i crowded = .next t) (h : crowdsOut i pc = true) (hpc : pc = 0x10000 + len) (hne : pc ≠ 0) :
    Quiet crowded k ∧ ¬ Goes t k fun _ => k.pc + len := by
  have props := crowded_who
  rw [hk] at props
  simp only [Option.all_some, Bool.and_eq_true, decide_eq_true_eq, Bool.not_eq_true'] at props
  obtain ⟨⟨⟨⟨w, group⟩, clear⟩, steps⟩, at'⟩ := props
  simp only [crowdsOut, ht, Bool.and_eq_true, decide_eq_true_eq] at h
  obtain ⟨issue, meet⟩ := h
  refine ⟨⟨clear, steps⟩, fun goes => ?_⟩
  have lane : 0 ∈ k.x.group := by rw [group]; exact List.mem_singleton.2 rfl
  have next := goes.next pc ⟨0, lane, by rw [at', hpc], w ▸ meet⟩ fun l _ _ => by rw [at', hpc]
  rw [w, issue] at next
  exact hne (Option.some.inj next).symm

/-- Refutes O8: after `NOP` the thread beyond lane 31, at the lower address, issues. -/
theorem not_branches : ¬ Obligations.Branches := by
  unfold Obligations.Branches
  rintro ⟨nop, -⟩
  obtain ⟨k, ready⟩ := ready_of_readyFor (i := .nop) (s := crowded) (by decide +kernel)
  obtain ⟨t, ht, -, goes⟩ := nop _ k ready
  obtain ⟨quiet, not⟩ := not_goes_of_crowdsOut (pc := 0x10004) (len := 4) ready.who ht (by decide +kernel) rfl (by decide)
  exact not (goes ⟨quiet, fun _ _ => ⟨0, 0, rfl⟩⟩)

/-- Refutes O9: the same after a `JOIN` that keeps the meeting address. -/
theorem not_threadGroups : ¬ Obligations.ThreadGroups := by
  unfold Obligations.ThreadGroups
  rintro ⟨⟨-, -, keep, -⟩, -⟩
  obtain ⟨k, ready⟩ := ready_of_readyFor (i := .joinExt .zero false .keep) (s := crowded) (by decide +kernel)
  obtain ⟨t, ht, -, goes⟩ := keep .zero false _ k ready
  obtain ⟨quiet, not⟩ := not_goes_of_crowdsOut (pc := 0x1000C) (len := 12) ready.who ht (by decide +kernel) rfl (by decide)
  exact not (goes quiet).1

end Sys2Proof.Machine
end

section
/-! SUPPORT. The trap taken by a wave of 33 threads. Refutes O10. -/

-- One theorem at a time: many at once ask for more threads than the checker has memory for.
set_option Elab.async false

namespace Sys2Proof.Machine

/-- The crowded wave, its gang with a trap handler. -/
def crowdedTrapping : State := { crowded with gangs := crowded.gangs.map fun e => (e.1, { e.2 with trapv := 0x8000 }) }

/-- The wave can take a trap and holds no skid; thread 32 is live, outside the group, at address 0. -/
theorem crowdedTrapping_who : crowdedTrapping.who.all (fun k => k.w = 2 && k.x.group = [0] && k.x.handler.isNone &&
    k.wg.handler.isNone && k.g.trapv != 0 && k.x.heldSkid.isNone &&
    (k.x.thread 32).pc == 0 && (crowdedTrapping.lane 2 32).live) = true := by decide +kernel

/-- A trap instruction leaves thread 32, whose state it sets aside, not at its own address. -/
def movesOn (i : Instr) : Bool :=
  match exec i crowdedTrapping with
  | .next t => (t.lane 2 32).aside.map (·.pc) != some 0
  | _ => false

/-- Refutes O10: `TRAP` moves every issuing thread on, the one beyond lane 31 too. -/
theorem not_trapsAndReturns : ¬ Obligations.TrapsAndReturns := by
  unfold Obligations.TrapsAndReturns
  rintro ⟨⟨trap, -⟩, -⟩
  obtain ⟨k, ready⟩ := ready_of_readyFor (i := .trap 0) (s := crowdedTrapping) (by decide +kernel)
  have props := crowdedTrapping_who
  rw [ready.who] at props
  simp only [Option.all_some, Bool.and_eq_true, decide_eq_true_eq, Option.isNone_iff_eq_none, bne_iff_ne, beq_iff_eq] at props
  obtain ⟨⟨⟨⟨⟨⟨⟨w, group⟩, handler⟩, owner⟩, trapv⟩, skid⟩, pc⟩, live⟩ := props
  obtain ⟨t, ht, entered⟩ := trap 0 _ k ready ⟨handler, owner, trapv⟩ skid
  obtain ⟨-, -, -, -, a, aside, resumes, -⟩ := entered.group 32 (w ▸ live)
  have moved : movesOn (.trap 0) = true := by decide +kernel
  rw [if_neg (by simp [group]), pc] at resumes
  rw [w] at aside
  unfold movesOn at moved
  rw [ht] at moved
  simp [aside, resumes] at moved

end Sys2Proof.Machine
end

section
/-! SUPPORT. Instructions that read and write special registers and predicates. Settles O11. -/

-- One theorem at a time: many at once ask for more threads than the checker has memory for.
set_option Elab.async false

namespace Sys2Proof.Machine

/-! ### Active lanes changed -/

theorem State.meet_of_calm {s t : State} {v : Nat} (h : t.calm v = s.calm v) (l : Nat) : (t.lane v l).meet = (s.lane v l).meet := by
  have threads (x y : Wave) (e : x.calm = y.calm) : (x.thread l).meet = (y.thread l).meet := by
    have meets : x.threads.map Thread.meet = y.threads.map Thread.meet := by
      have lists := congrArg (fun c => c.2.2.map Prod.fst) e
      simp only [Wave.calm, List.map_map] at lists
      exact lists
    have at' := congrArg (fun m => m.getD l Thread.reset.meet) meets
    simpa only [Wave.thread, List.getD_eq_getElem?_getD, List.getElem?_map, Option.getD_map] using at'
  unfold State.calm at h
  unfold State.lane
  cases ht : t.wave? v <;> cases hs : s.wave? v <;> simp only [ht, hs, Option.map_some, Option.map_none, reduceCtorEq,
    Option.some.injEq] at h ⊢
  exact threads _ _ h

theorem State.lane_setLanes {s : State} {k : Who} (hx : s.wave? k.w = some k.x) (f : Nat → Thread → Thread) {l : Nat}
    (hl : l ∈ k.x.active) : (s.setLanes k.w k.x.active f).lane k.w l = f l (s.lane k.w l) := by
  unfold State.lane State.setLanes
  simp [State.wave?_modWave, hx, Wave.thread_mapLanes, hl, Wave.active_lt hl]

/-- What an instruction that only sets the threads of its active lanes leaves: their data and, without a trap, their meeting addresses
are as set, and nothing else changes. -/
structure SetLanes (s t : State) (k : Who) (f : Nat → Thread → Thread) : Prop where
  data : ∀ v l, (t.lane v l).data = if v = k.w ∧ l ∈ k.x.active then (f l (s.lane v l)).data else (s.lane v l).data
  store : s.SameStore t
  special : s.SameSpecial t
  chips : s.SameChips t
  traps : Quiet s k → s.SameTraps t
  meet : Quiet s k → ∀ l ∈ k.x.active, (t.lane k.w l).meet = (f l (s.lane k.w l)).meet

theorem issue_setLanes {i : Instr} {s : State} {k : Who} (h : Ready i s k) (hc : i.form.commits = false)
    {f : State → Who → Nat → Thread → Thread} (hf : ∀ l t, (f s k l t).lane = t.lane ∧ (f s k l t).st = t.st) :
    SetLanes s (issue i s fun k act s => .done (s.setLanes k.w act (f s k))) k (f s k) := by
  obtain ⟨-, hx, -⟩ := State.who_iff.1 h.who
  rw [issue_ready_plain h hc]
  obtain ⟨data, store, special, chips, traps⟩ := setLanes_finish h.who (f s k) false (fun _ => k.after i) (fun _ x => x.regroup)
    (fun x => Wave.regroup_keeps x) fun x hx => Wave.regroup_calm hx
  refine ⟨data, store, special, chips, fun q => traps q fun l _ => hf l, fun q l hl => ?_⟩
  have calm := State.calm_finish (v := k.w) (s := s.setLanes k.w k.x.active (f s k)) (group := k.x.group) (act := k.x.active)
    (commit := false) (target := fun _ => k.after i) (next := fun _ x => x.regroup) (x := k.x.mapLanes k.x.active (f s k))
    (by unfold State.setLanes; simp [hx]) (Wave.clear_setLanes q.1 _ fun l _ => hf l) q.2
    (fun x hx => Wave.regroup_calm hx) fun x => Wave.regroup_keeps x
  exact (State.meet_of_calm calm l).trans (congrArg Thread.meet (State.lane_setLanes hx _ hl))

/-- A field of the data of each thread, after lanes were set. -/
theorem SetLanes.field {s t : State} {k : Who} {f : Nat → Thread → Thread} (h : SetLanes s t k f) {α : Type} (q : Thread → α)
    (p : ThreadData → α) (hq : ∀ t, p t.data = q t) (v l : Nat) :
    q (t.lane v l) = if v = k.w ∧ l ∈ k.x.active then q (f l (s.lane v l)) else q (s.lane v l) := by
  rw [← hq, h.data, apply_ite p, hq, hq]

/-! ### Special registers read and written -/

theorem sreg_meet_iff (n : BitVec 4) : n = 9 ↔ n.toNat = 9 := by revert n; decide

theorem sregWidth_eq (n : BitVec 4) : sregWidth n = if n.toNat = 9 ∨ n.toNat = 12 ∨ n.toNat = 15 then .w64 else .w32 := by
  revert n; decide

/-- The value of a special register in a lane of the wave that issues (04 Table 4.3). -/
def Who.special (k : Who) (s : State) (n l : Nat) : Quad :=
  match n with
  | 0 => BitVec.ofNat 128 l
  | 1 => BitVec.ofNat 128 k.x.idx
  | 2 => BitVec.ofNat 128 k.wg.idx
  | 3 => BitVec.ofNat 128 k.g.idx
  | 4 => BitVec.ofNat 128 (k.wg.core % 16)
  | 5 => BitVec.ofNat 128 (k.wg.core / 4 % 4)
  | 6 => BitVec.ofNat 128 (k.wg.core / 16 % 4)
  | 7 => BitVec.ofNat 128 (k.wg.core / 64)
  | 8 => (maskOf k.x.group).setWidth 128
  | 9 => (k.x.thread l).meet.setWidth 128
  | 10 => (k.x.thread l).fpctl.setWidth 128
  | 11 => (k.x.thread l).fpflags.setWidth 128
  | 12 => BitVec.ofNat 128 ((s.core k.wg.core).clk % 2 ^ 64)
  | 13 => k.x.seqno.setWidth 128
  | 14 => k.x.trapcause.setWidth 128
  | _ => k.x.trappc.setWidth 128

theorem State.sreg_who {s : State} {k : Who} (h : s.who = some k) (l : Nat) (n : BitVec 4) :
    s.sreg k.x l n = k.special s n.toNat l := by
  obtain ⟨-, -, hwg, hg, -⟩ := State.who_iff.1 h
  simp only [State.sreg, hwg, hg, Option.map_some, Option.getD_some, Option.bind_some]
  rfl

/-- A thread's special register 9 to 11, or, as 16, its predicates, set. -/
def Thread.setSpecial (t : Thread) (n : Nat) (v : Quad) : Thread :=
  match n with
  | 9 => { t with meet := v.setWidth 64 }
  | 10 => { t with fpctl := v.setWidth 32 &&& 0xF }
  | 11 => { t with fpflags := v.setWidth 32 &&& 0x3F }
  | 16 => { t with p := v.setWidth 8 }
  | _ => t

theorem Thread.writeSreg_eq (t : Thread) (n : BitVec 4) (v : Quad) : t.writeSreg n v = t.setSpecial n.toNat v := by
  have := n.isLt
  unfold Thread.writeSreg
  split
  case h_4 => unfold Thread.setSpecial; split <;> simp_all
  all_goals simp_all [Thread.setSpecial]

/-- What is said of an instruction that sets the special register of number `n`, or the predicates, of each active lane. -/
def SetsSpecial (i : Instr) (s : State) (k : Who) (n : Nat) (x : Nat → Quad) : Prop :=
  ∃ t, exec i s = .next t ∧ s.SameStore t ∧ s.SameSpecial t ∧ s.SameChips t ∧ (Quiet s k → s.SameTraps t) ∧
    (∀ v l, (∀ g m, (t.lane v l).reg g m = (s.lane v l).reg g m) ∧ (t.lane v l).full = (s.lane v l).full ∧
      (t.lane v l).p = (if v = k.w ∧ l ∈ k.x.active ∧ n = 16 then (x l).setWidth 8 else (s.lane v l).p) ∧
      (t.lane v l).fpctl =
        (if v = k.w ∧ l ∈ k.x.active ∧ n = 10 then (x l).setWidth 32 &&& 0xF else (s.lane v l).fpctl) ∧
      (t.lane v l).fpflags =
        (if v = k.w ∧ l ∈ k.x.active ∧ n = 11 then (x l).setWidth 32 &&& 0x3F else (s.lane v l).fpflags)) ∧
    (Quiet s k → ∀ l ∈ k.x.active, (t.lane k.w l).meet = if n = 9 then (x l).setWidth 64 else (s.lane k.w l).meet)

section
variable {t : Thread} {n : Nat} {v : Quad}

theorem Thread.p_setSpecial : (t.setSpecial n v).p = if n = 16 then v.setWidth 8 else t.p := by
  unfold Thread.setSpecial; split <;> simp_all

theorem Thread.fpctl_setSpecial : (t.setSpecial n v).fpctl = if n = 10 then v.setWidth 32 &&& 0xF else t.fpctl := by
  unfold Thread.setSpecial; split <;> simp_all

theorem Thread.fpflags_setSpecial : (t.setSpecial n v).fpflags = if n = 11 then v.setWidth 32 &&& 0x3F else t.fpflags := by
  unfold Thread.setSpecial; split <;> simp_all

theorem Thread.meet_setSpecial : (t.setSpecial n v).meet = if n = 9 then v.setWidth 64 else t.meet := by
  unfold Thread.setSpecial; split <;> simp_all

theorem Thread.full_setSpecial : (t.setSpecial n v).full = t.full := by
  unfold Thread.setSpecial; split <;> rfl

theorem Thread.reg_setSpecial (g : RegFile) (m : Nat) : (t.setSpecial n v).reg g m = t.reg g m := by
  unfold Thread.setSpecial; split <;> rfl

theorem Thread.calm_setSpecial : (t.setSpecial n v).lane = t.lane ∧ (t.setSpecial n v).st = t.st := by
  unfold Thread.setSpecial; split <;> exact ⟨rfl, rfl⟩

end

section
variable {i : Instr} {s : State} {k : Who} (h : Ready i s k) (hc : i.form.commits = false)
include h hc

theorem srdLanes_computes {d : Opd} {n : BitVec 4}
    (he : exec i s = .next (issueLanes i s d (sregWidth n) fun s k l => .write (s.sreg k.x l n) 0)) :
    Computes i s k d (if n.toNat = 9 ∨ n.toNat = 12 ∨ n.toNat = 15 then .w64 else .w32) fun l =>
      .write (k.special s n.toNat l) 0 := by
  rw [← sregWidth_eq]
  exact computes_of h hc he fun l => congrArg (LaneOut.write · 0) (State.sreg_who h.who l n)

/-- Active lanes' special registers set, and what that leaves. -/
theorem setSpecial_sets {n : Nat} {x : State → Who → Nat → Quad}
    (he : exec i s = .next (issue i s fun k act s => .done (s.setLanes k.w act fun l t => t.setSpecial n (x s k l)))) :
    SetsSpecial i s k n (x s k) := by
  have set := issue_setLanes (f := fun s k l t => t.setSpecial n (x s k l)) h hc fun _ _ => Thread.calm_setSpecial
  refine ⟨_, he, set.store, set.special, set.chips, set.traps, fun v l => ⟨fun g m => ?reg, ?full, ?p, ?fpctl, ?fpflags⟩, fun q l hl => ?meet⟩
  case meet => rw [set.meet q l hl, Thread.meet_setSpecial]
  case reg =>
    have data := set.data v l
    split at data
    · exact (Thread.reg_data data g m).trans (Thread.reg_setSpecial g m)
    · exact Thread.reg_data data g m
  case full => rw [set.field Thread.full ThreadData.full fun _ => rfl, Thread.full_setSpecial, ite_self]
  case p => rw [set.field Thread.p ThreadData.p fun _ => rfl, Thread.p_setSpecial, ← ite_and]; simp only [and_assoc]
  case fpctl => rw [set.field Thread.fpctl ThreadData.fpctl fun _ => rfl, Thread.fpctl_setSpecial, ← ite_and]; simp only [and_assoc]
  case fpflags => rw [set.field Thread.fpflags ThreadData.fpflags fun _ => rfl, Thread.fpflags_setSpecial, ← ite_and]; simp only [and_assoc]

/-- `SWR` of register 9 to 11. -/
theorem swrLanes_sets {n : BitVec 4} {lit : Option DWord} {a : Opd} (lo : 9 ≤ n.toNat) (hi : n.toNat ≤ 11)
    (he : exec i s = .next (swrLanes i n lit a s)) :
    SetsSpecial i s k n.toNat fun l => k.src s l lit (if n.toNat = 9 then .n64 else .n32) a := by
  have source (s : State) (k : Who) (l : Nat) :
      s.readOpd k.x l lit (sregWidth n) .int a = k.src s l lit (if n.toNat = 9 then .n64 else .n32) a := by
    rw [sregWidth_eq]
    by_cases meet : n.toNat = 9
    · simp only [meet, true_or, if_true]; rfl
    · rw [if_neg (by omega), if_neg meet]; rfl
  simp only [swrLanes, Thread.writeSreg_eq, source] at he
  exact setSpecial_sets h hc he

/-- `PMOV` in mode 3. -/
theorem pmovLanes_sets {f : ExtArgs} (hm : f.md.toNat = 3) (he : exec i s = .next (pmovLanes i f s)) :
    SetsSpecial i s k 16 fun l => k.src s l f.lit .n32 f.a := by
  unfold pmovLanes at he
  rw [hm] at he
  exact setSpecial_sets (x := fun s k l => k.rd s l f .w32 f.a) h hc he

end

/-- Settles O11: the value read and the field set, register by register. -/
theorem specialRegisters : Obligations.SpecialRegisters := by
  unfold Obligations.SpecialRegisters
  refine ⟨⟨?srd, ?srdExt⟩, ?swr, ?swrExt, ?pmov, ?pmovExt⟩
  case srd =>
    intro f n s k ha h
    exact srdLanes_computes h rfl (n := n) (by simp only [exec, execSrd, ha, sregNum])
  case srdExt =>
    intro f s k hn h
    have number : (f.x18.setWidth 4).toNat = f.x18.toNat := by simp [Nat.mod_eq_of_lt hn]
    rw [← number]
    exact srdLanes_computes h rfl rfl
  case swr =>
    intro f n s k hd lo hi h
    have e : exec (.swr f) s = .next (swrLanes (.swr f) n f.lit f.a s) := by simp only [exec, execSwr, hd, sregNum]
    simp only [sreg_meet_iff]
    exact swrLanes_sets h rfl lo hi e
  case swrExt =>
    intro f s k lo hi h
    have number : (f.x18.setWidth 4).toNat = f.x18.toNat := by simp [Nat.mod_eq_of_lt (show f.x18.toNat < 16 by omega)]
    rw [← number] at lo hi ⊢
    exact swrLanes_sets h rfl lo hi rfl
  case pmov => exact fun f s k hx h => pmovLanes_sets h rfl (f := f.toExt .i32 f.xb.toNat) (by rw [toExt_md, hx]; rfl) rfl
  case pmovExt => exact fun f s k hm h => pmovLanes_sets h rfl (by rw [hm]; rfl) rfl

end Sys2Proof.Machine
end

section
/-! SUPPORT. Lane exchange: results of lanes that a whole group of active lanes determines. Settles O20. -/

-- One theorem at a time: many at once ask for more threads than the checker has memory for.
set_option Elab.async false

namespace Sys2Proof.Machine

/-! ### Outcomes of the active lanes -/

/-- Only the outcomes of active lanes land. -/
theorem Landed.congr {s t : State} {k : Who} {d : Opd} {w : Width} {out out' : Nat → LaneOut} (h : Landed s t k d w out)
    (e : ∀ l ∈ k.x.active, out l = out' l) : Landed s t k d w out' := by
  refine ⟨fun v l f n => ?words, fun v l j hj => ?preds, fun v l => ?flags, h.fpctl, h.full, h.store, h.special, h.chips, ?traps⟩
  case words =>
    rw [h.words]
    by_cases c : v = k.w ∧ l ∈ k.x.active ∧ Opd.names d w f n = true
    · rw [if_pos c, if_pos c, e l c.2.1]
    · rw [if_neg c, if_neg c]
  case preds =>
    rw [h.preds v l j hj]
    by_cases c : l ∈ k.x.active
    · rw [e l c]
    · simp only [c, false_and, and_false, if_false]
      split <;> split <;> rfl
  case flags =>
    rw [h.flags]
    by_cases c : v = k.w ∧ l ∈ k.x.active
    · rw [if_pos c, if_pos c, e l c.2]
    · rw [if_neg c, if_neg c]
  case traps => exact fun q => h.traps ⟨q.1, fun l hl => e l hl ▸ q.2 l hl⟩

/-- The active lanes' outcomes landed, whatever determined them. -/
theorem landLanes_computes {i : Instr} {s : State} {k : Who} {d : Opd} {w : Width} {len : Nat} {out : Nat → LaneOut}
    {g : Who → List Nat → State → Nat → LaneOut} (h : Ready i s k) (hc : i.form.commits = false)
    (he : exec i s = .next (issue i s fun k act s => .done (s.setLanes k.w act fun l t => t.land (g k act s l) d w len)))
    (ho : ∀ l ∈ k.x.active, g k k.x.active s l = out l) : Computes i s k d w out := by
  refine ⟨_, he, Landed.congr ?_ ho⟩
  rw [issue_ready_plain h hc]
  obtain ⟨data, store, special, chips, traps⟩ := setLanes_finish h.who (fun l t => t.land (g k k.x.active s l) d w len) false
    (fun _ => k.after i) (fun _ x => x.regroup) (fun x => Wave.regroup_keeps x) fun x hx => Wave.regroup_calm hx
  exact Landed.of_data data store special chips traps

theorem Thread.land_write (t : Thread) (d : Opd) (w : Width) (x : Quad) (len : Nat) :
    t.land (.write x 0) d w len = t.writeReg d w x := by
  simp [Thread.land, Thread.setFlags]

theorem writeLanes_computes {i : Instr} {s : State} {k : Who} {d : Opd} {w : Width} {v : Nat → Quad}
    {g : Who → List Nat → State → Nat → Quad} (h : Ready i s k) (hc : i.form.commits = false)
    (he : exec i s = .next (issue i s fun k act s => writeLanes k act d w (g k act s) s))
    (ho : ∀ l ∈ k.x.active, g k k.x.active s l = v l) : Computes i s k d w fun l => .write (v l) 0 := by
  refine landLanes_computes (len := 0) (g := fun k act s l => .write (g k act s l) 0) h hc ?_ fun l hl =>
    congrArg (LaneOut.write · 0) (ho l hl)
  simp only [Thread.land_write]
  exact he

/-! ### Active lanes -/

theorem Wave.active_lt_32 {x : Wave} {l : Nat} (h : l ∈ x.active) : l < 32 := (Wave.mem_active.1 h).1

theorem Wave.active_sorted (x : Wave) : x.active.Pairwise (· < ·) :=
  List.Pairwise.filter _ (List.pairwise_lt_range)

/-- The lowest active lane. -/
theorem Wave.lane0_mem {x : Wave} (h : x.active ≠ []) : lane0 x.active ∈ x.active := by
  unfold lane0
  cases e : x.active with
  | nil => exact absurd e h
  | cons l r => exact List.mem_cons_self

theorem Wave.lane0_le {x : Wave} {l : Nat} (h : l ∈ x.active) : lane0 x.active ≤ l := by
  have sorted := x.active_sorted
  unfold lane0
  cases e : x.active with
  | nil => rw [e] at h; cases h
  | cons m r =>
    rw [e] at h sorted
    rcases List.mem_cons.1 h with rfl | h
    · exact Nat.le_refl _
    · exact Nat.le_of_lt (List.rel_of_pairwise_cons sorted h)

/-- A bit of a sum of rising powers of two, each beyond what stands below. -/
theorem testBit_foldl_two_pow {ls : List Nat} {m : Nat} (sorted : ls.Pairwise (· < ·)) (below : ∀ l ∈ ls, m < 2 ^ l) (j : Nat) :
    (ls.foldl (fun m l => m + 2 ^ l) m).testBit j = (m.testBit j || ls.contains j) := by
  induction ls generalizing m with
  | nil => simp
  | cons l r ih =>
    have lt := below l List.mem_cons_self
    have next : ∀ n ∈ r, m + 2 ^ l < 2 ^ n := fun n hn =>
      calc m + 2 ^ l < 2 ^ (l + 1) := by rw [Nat.pow_succ]; omega
        _ ≤ 2 ^ n := Nat.pow_le_pow_right (by decide) (List.rel_of_pairwise_cons sorted hn)
    have add : m + 2 ^ l = 2 ^ l ||| m := by simpa [Nat.add_comm] using Nat.two_pow_add_eq_or_of_lt lt 1
    rw [List.foldl_cons, ih (List.Pairwise.of_cons sorted) next, add, Nat.testBit_or, Nat.testBit_two_pow, List.contains_cons]
    by_cases e : l = j
    · simp [e]
    · simp [e, beq_false_of_ne (Ne.symm e)]

/-- A bit of the mask of some lanes. -/
theorem getLsbD_maskOf {ls : List Nat} (sorted : ls.Pairwise (· < ·)) (lt : ∀ l ∈ ls, l < 32) (j : Nat) :
    (maskOf ls).getLsbD j = ls.contains j := by
  rw [maskOf, BitVec.getLsbD_ofNat, testBit_foldl_two_pow sorted (fun _ _ => Nat.two_pow_pos _)]
  by_cases h : j ∈ ls
  · simp [h, lt j h]
  · simp [h]

theorem Wave.getLsbD_activeMask (x : Wave) (p : Nat → Bool) (j : Nat) :
    (maskOf (x.active.filter p)).getLsbD j = (x.active.contains j && p j) := by
  rw [getLsbD_maskOf (x.active_sorted.filter p) fun l h => Wave.active_lt_32 (List.mem_of_mem_filter h)]
  by_cases h : j ∈ x.active <;> by_cases g : p j = true <;> simp [h, g]

/-! ### SHFL, VOTE, MATCH, ELECT -/

theorem shflSource_lane (mode : Nat) {x : Wave} (l b : Nat) :
    (if 0 ≤ shflSource mode l b && x.active.contains (shflSource mode l b).toNat then (shflSource mode l b).toNat else l) =
      shuffledLane mode x.active l b := by
  have lt : ∀ u : Int, 0 ≤ u → u.toNat ∈ x.active → u ≤ 31 := fun u h m => by have := Wave.active_lt_32 m; omega
  have same : shuffledLane mode x.active l b = if 0 ≤ shflSource mode l b ∧ shflSource mode l b ≤ 31 ∧
      (shflSource mode l b).toNat ∈ x.active then (shflSource mode l b).toNat else l := rfl
  rw [same]
  congr 1
  simp only [Bool.and_eq_true, decide_eq_true_eq, List.contains_iff_mem, eq_iff_iff]
  exact ⟨fun h => ⟨h.1, lt _ h.1 h.2, h.2⟩, fun h => ⟨h.1, h.2.2⟩⟩

/-- The result of `VOTE` over some lanes' truths (22 R501). -/
def voteResult (mode : Nat) (act : List Nat) (x : Nat → Bool) : Nat :=
  match mode with
  | 0 => if act.any x then 1 else 0
  | 1 => if act.all x then 1 else 0
  | 2 => (maskOf (act.filter x)).toNat
  | _ => if act.all x || act.all (fun l => !x l) then 1 else 0

theorem getLsbD_voteResult (mode : Nat) (x : Wave) (p : Nat → Bool) {j : Nat} (hj : j < 128) :
    (BitVec.ofNat 128 (voteResult mode x.active p)).getLsbD j =
      match mode with
      | 0 => decide (j = 0) && x.active.any p
      | 1 => decide (j = 0) && x.active.all p
      | 2 => x.active.contains j && p j
      | _ => decide (j = 0) && (x.active.all p || x.active.all fun l => !p l) := by
  have truth (b : Bool) : (BitVec.ofNat 128 (if b = true then 1 else 0)).getLsbD j = (decide (j = 0) && b) := by
    cases b <;> simp
  match mode with
  | 0 => exact truth _
  | 1 => exact truth _
  | 2 =>
    show (BitVec.ofNat 128 (maskOf (x.active.filter p)).toNat).getLsbD j = _
    rw [BitVec.getLsbD_ofNat, decide_eq_true hj, Bool.true_and]
    exact x.getLsbD_activeMask p j
  | _ + 3 => exact truth _

section
variable {i : Instr} {s : State} {k : Who} (h : Ready i s k) (hc : i.form.commits = false)
include h hc

theorem shflEff_computes {f : ExtArgs} {mode : Nat} (he : exec i s = .next (shflEff i f mode s)) :
    Computes i s k f.d f.ty.width fun l =>
      .write (k.src s (shuffledLane mode k.x.active l (k.src s l f.lit .n32 f.b).toNat) f.lit f.ty f.a) 0 :=
  writeLanes_computes (g := fun k act s l =>
      let u := shflSource mode l (k.rd s l f .w32 f.b).toNat
      k.srcA s (if 0 ≤ u && act.contains u.toNat then u.toNat else l) f) h hc he
    fun l _ => congrArg (k.src s · f.lit f.ty f.a) (shflSource_lane mode l _)

theorem voteEff_computes {d a : Opd} {mode : Nat} (he : exec i s = .next (voteEff i d a mode s)) :
    Computes i s k d .w32 fun _ =>
      .write (BitVec.ofNat 128 (voteResult mode k.x.active fun l => (k.x.thread l).readPred a)) 0 :=
  writeLanes_computes (g := fun k act _ _ => BitVec.ofNat 128 (voteResult mode act fun l => (k.x.thread l).readPred a)) h hc he
    fun _ _ => rfl

theorem electEff_computes {d : Opd} (he : exec i s = .next (electEff i d s)) :
    Computes i s k d .w32 fun l => .write (if k.x.active.all (l ≤ ·) then 1 else 0) 0 := by
  refine writeLanes_computes (g := fun _ act _ l => if l = lane0 act then 1 else 0) h hc he fun l hl => ?_
  have lowest : l = lane0 k.x.active ↔ k.x.active.all (l ≤ ·) = true := by
    simp only [List.all_eq_true, decide_eq_true_eq]
    exact ⟨fun e m hm => e ▸ Wave.lane0_le hm, fun le => Nat.le_antisymm (le _ (Wave.lane0_mem h.active)) (Wave.lane0_le hl)⟩
  simp only [lowest]

end

/-- Every active lane has the value of the lowest where any two have the same. -/
theorem Wave.all_eq_lane0 {x : Wave} (h : x.active ≠ []) (v : Nat → Quad) :
    x.active.all (fun u => decide (v u = v (lane0 x.active))) = x.active.all fun m => x.active.all fun n => decide (v m = v n) := by
  rw [Bool.eq_iff_iff]
  simp only [List.all_eq_true, decide_eq_true_eq]
  exact ⟨fun e m hm n hn => (e m hm).trans (e n hn).symm, fun e u hu => e u hu _ (Wave.lane0_mem h)⟩

/-- Settles O20: every lane's result from the active lanes' sources. -/
theorem laneExchange : Obligations.LaneExchange := by
  unfold Obligations.LaneExchange
  refine ⟨?shfl, ?shflExt, ?vote, ?voteExt, ?matched, ?elect, ?electExt⟩
  case shfl => exact fun f s k h => shflEff_computes (f := f.toExt .b32 0) h rfl rfl
  case shflExt => exact fun f s k h => shflEff_computes h rfl rfl
  case vote =>
    rintro f s k h p inv ha
    exact ⟨_, voteEff_computes h rfl rfl, fun l j hj => by rw [ha]; exact getLsbD_voteResult _ _ _ hj⟩
  case voteExt =>
    rintro f s k h p inv ha
    exact ⟨_, voteEff_computes h rfl rfl, fun l j hj => by rw [ha]; exact getLsbD_voteResult _ _ _ hj⟩
  case matched =>
    intro f s k h
    refine ⟨_, writeLanes_computes (v := fun l => if f.md = 0 then
        (maskOf (k.x.active.filter fun u => k.src s u f.lit f.ty f.a = k.src s l f.lit f.ty f.a)).setWidth 128
      else if k.x.active.all (fun u => k.src s u f.lit f.ty f.a = k.src s (lane0 k.x.active) f.lit f.ty f.a) then
        (maskOf k.x.active).setWidth 128 else 0) h rfl rfl fun l _ => rfl, fun l j hj => ?_⟩
    show BitVec.getLsbD (if _ then _ else _) j = _
    have mask (m : Word) : (m.setWidth 128).getLsbD j = m.getLsbD j := by rw [BitVec.getLsbD_setWidth, decide_eq_true hj, Bool.true_and]
    by_cases hm : f.md = 0
    · simp only [if_pos hm, mask, Wave.getLsbD_activeMask]
    · simp only [if_neg hm, Wave.all_eq_lane0 h.active]
      split
      · rename_i same
        rw [mask, getLsbD_maskOf k.x.active_sorted fun _ => Wave.active_lt_32, same, Bool.and_true]
      · rename_i differ
        rw [Bool.eq_false_iff.2 differ, Bool.and_false]
        exact BitVec.getLsbD_zero
  case elect => exact fun f s k h => electEff_computes h rfl rfl
  case electExt => exact fun f s k h => electEff_computes h rfl rfl

end Sys2Proof.Machine
end

section
/-! SUPPORT. Lane reductions: what the fixed tree and the fixed network make of an operation that is the same in every grouping of the
lanes. Settles O21. -/

-- One theorem at a time: many at once ask for more threads than the checker has memory for.
set_option Elab.async false

namespace Sys2Proof.Machine

/-! ### The tree and the network, position by position -/

section
variable (f : ExtArgs) (mode : RoundMode)

theorem getD_pairUp (xs : List (Option (Quad × Word))) (i : Nat) :
    (pairUp f mode xs).getD i none = combineOpt f mode (xs.getD (2 * i) none) (xs.getD (2 * i + 1) none) := by
  match xs with
  | [] => rfl
  | [x] => cases i <;> cases x <;> rfl
  | x :: y :: r =>
    cases i with
    | zero => rfl
    | succ i => exact getD_pairUp r i

theorem redTree_eq (xs : List (Option (Quad × Word))) : redTree f mode xs = treeOf (combineOpt f mode) (xs.getD · none) 5 0 := by
  have level (n i : Nat) : ((List.range n).foldl (fun t _ => pairUp f mode t) xs).getD i none =
      treeOf (combineOpt f mode) (xs.getD · none) n i := by
    induction n generalizing i with
    | zero => rfl
    | succ n ih => rw [List.range_succ, List.foldl_append, List.foldl_cons, List.foldl_nil, getD_pairUp, ih, ih, treeOf]
  rw [← level, redTree]
  cases (List.range 5).foldl (fun t _ => pairUp f mode t) xs <;> rfl

theorem scanStep_length (xs : List (Option (Quad × Word))) (d : Nat) : (scanStep f mode xs d).length = xs.length := by
  simp [scanStep]

theorem getD_scanStep {xs : List (Option (Quad × Word))} {d i : Nat} (hi : i < xs.length) : (scanStep f mode xs d).getD i none =
    if i < d then xs.getD i none else combineOpt f mode (xs.getD (i - d) none) (xs.getD i none) := by
  simp [scanStep, List.getD_eq_getElem?_getD, hi]

/-- One step of the network is one step of `scanOf`. -/
theorem scanStep_scanOf {xs : List (Option (Quad × Word))} {v : Nat → Option (Quad × Word)} {n : Nat}
    (h : xs.length = 32 ∧ ∀ i, i < 32 → xs.getD i none = scanOf (combineOpt f mode) v n i) :
    (scanStep f mode xs (2 ^ n)).length = 32 ∧
      ∀ i, i < 32 → (scanStep f mode xs (2 ^ n)).getD i none = scanOf (combineOpt f mode) v (n + 1) i := by
  refine ⟨(scanStep_length f mode xs _).trans h.1, fun i hi => ?_⟩
  rw [getD_scanStep f mode (h.1 ▸ hi), h.2 i hi, h.2 (i - 2 ^ n) (Nat.lt_of_le_of_lt (Nat.sub_le _ _) hi), scanOf]

theorem scanNet_eq {xs : List (Option (Quad × Word))} (h : xs.length = 32) :
    (scanNet f mode xs).length = 32 ∧
      ∀ i, i < 32 → (scanNet f mode xs).getD i none = scanOf (combineOpt f mode) (xs.getD · none) 5 i :=
  scanStep_scanOf f mode <| scanStep_scanOf f mode <| scanStep_scanOf f mode <| scanStep_scanOf f mode <| scanStep_scanOf f mode (n := 0) ⟨h, fun _ _ => rfl⟩

/-- The flags of the network are those of its 32 positions. -/
theorem scanFlags_eq {xs : List (Option (Quad × Word))} (h : xs.length = 32) : scanFlags f mode xs =
    allLanes.foldl (fun m n => m ||| ((scanOf (combineOpt f mode) (xs.getD · none) 5 n).getD (0, 0)).2) 0 := by
  obtain ⟨len, net⟩ := scanNet_eq f mode h
  have entries : scanNet f mode xs = allLanes.map fun n => scanOf (combineOpt f mode) (xs.getD · none) 5 n :=
    List.ext_getElem (by simp [len, allLanes]) fun i hi _ => by
      have := net i (len ▸ hi)
      rw [List.getD_eq_getElem?_getD, List.getElem?_eq_getElem hi, Option.getD_some] at this
      simp [this, allLanes]
  rw [scanFlags, entries, List.foldl_map]
  refine congrArg (fun g => List.foldl g 0 allLanes) (funext₂ fun m n => ?_)
  cases scanOf (combineOpt f mode) (xs.getD · none) 5 n <;> simp

end

/-! ### Operations that are the same in every grouping -/

/-- The active lanes from `a` up to before `b`. -/
def lanesIn (act : List Nat) (a b : Nat) : List Nat := act.filter fun l => decide (a ≤ l) && decide (l < b)

theorem lanesIn_append {act : List Nat} (sorted : act.Pairwise (· < ·)) {a b c : Nat} (ab : a ≤ b) (bc : b ≤ c) :
    lanesIn act a b ++ lanesIn act b c = lanesIn act a c := by
  have low : (lanesIn act a b ++ lanesIn act b c).Pairwise (· < ·) :=
    List.pairwise_append.2 ⟨sorted.filter _, sorted.filter _, fun x hx y hy => by
      simp only [lanesIn, List.mem_filter, Bool.and_eq_true, decide_eq_true_eq] at hx hy
      omega⟩
  refine low.eq_of_mem_iff (sorted.filter _) fun x => ?_
  simp only [lanesIn, List.mem_append, List.mem_filter, Bool.and_eq_true, decide_eq_true_eq]
  constructor
  · rintro (⟨h, _⟩ | ⟨h, _⟩) <;> exact ⟨h, by omega⟩
  · rintro ⟨h, _⟩
    by_cases hx : x < b
    · exact .inl ⟨h, by omega⟩
    · exact .inr ⟨h, by omega⟩

theorem lanesIn_one {act : List Nat} (sorted : act.Pairwise (· < ·)) (l : Nat) :
    lanesIn act l (l + 1) = if l ∈ act then [l] else [] := by
  refine (sorted.filter _).eq_of_mem_iff (by split <;> simp) fun x => ?_
  simp only [List.mem_filter, Bool.and_eq_true, decide_eq_true_eq]
  split
  · rename_i h
    rw [List.mem_singleton]
    exact ⟨fun g => by omega, fun e => by subst e; exact ⟨h, by omega⟩⟩
  · rename_i h
    refine ⟨fun g => absurd g.1 ?_, fun g => by cases g⟩
    rw [show x = l by omega]
    exact h

/-- A value, absent just where no lane from `a` up to before `b` is active, has the property `P` of what those lanes make. -/
def Folded (act : List Nat) (P : List Nat → Quad × Word → Prop) (a b : Nat) (o : Option (Quad × Word)) : Prop :=
  match o with
  | none => lanesIn act a b = []
  | some v => lanesIn act a b ≠ [] ∧ P (lanesIn act a b) v

section
variable {f : ExtArgs} {mode : RoundMode} {act : List Nat} (sorted : act.Pairwise (· < ·)) {P : List Nat → Quad × Word → Prop}
  (combined : ∀ xs ys x y, P xs x → P ys y → P (xs ++ ys) ((combine f mode x.1 y.1).1, x.2 ||| y.2 ||| (combine f mode x.1 y.1).2))
include sorted combined

theorem Folded.combineOpt {a b c : Nat} {x y : Option (Quad × Word)} (hx : Folded act P a b x) (hy : Folded act P b c y)
    (ab : a ≤ b) (bc : b ≤ c) : Folded act P a c (combineOpt f mode x y) := by
  have lanes := lanesIn_append sorted ab bc
  cases x with
  | none =>
    rw [show lanesIn act a b = [] from hx, List.nil_append] at lanes
    unfold Folded at hy ⊢
    rw [← lanes]
    exact hy
  | some v =>
    cases y with
    | none =>
      rw [show lanesIn act b c = [] from hy, List.append_nil] at lanes
      unfold Folded at hx ⊢
      rw [← lanes]
      exact hx
    | some w =>
      refine ⟨fun h => hx.1 (List.append_eq_nil_iff.1 (lanes.trans h)).1, ?_⟩
      rw [← lanes]
      exact combined _ _ _ _ hx.2 hy.2

variable {v : Nat → Option (Quad × Word)} (single : ∀ l, Folded act P l (l + 1) (v l))
include single

theorem folded_treeOf (n i : Nat) : Folded act P (2 ^ n * i) (2 ^ n * (i + 1)) (treeOf (Machine.combineOpt f mode) v n i) := by
  induction n generalizing i with
  | zero => simpa [treeOf] using single i
  | succ n ih =>
    have left := ih (2 * i)
    have right := ih (2 * i + 1)
    have e0 : 2 ^ (n + 1) * i = 2 ^ n * (2 * i) := by ring
    have e1 : 2 ^ (n + 1) * (i + 1) = 2 ^ n * (2 * i + 1 + 1) := by ring
    rw [e0, e1]
    exact Folded.combineOpt sorted combined left right (Nat.mul_le_mul_left _ (by omega)) (Nat.mul_le_mul_left _ (by omega))

theorem folded_scanOf (n i : Nat) : Folded act P (i + 1 - 2 ^ n) (i + 1) (scanOf (Machine.combineOpt f mode) v n i) := by
  induction n generalizing i with
  | zero => simpa [scanOf] using single i
  | succ n ih =>
    have pow : 2 ^ (n + 1) = 2 * 2 ^ n := by ring
    unfold scanOf
    split
    · have : i + 1 - 2 ^ (n + 1) = i + 1 - 2 ^ n := by omega
      exact this ▸ ih i
    · have left := ih (i - 2 ^ n)
      have e0 : i - 2 ^ n + 1 - 2 ^ n = i + 1 - 2 ^ (n + 1) := by omega
      have e1 : i - 2 ^ n + 1 = i + 1 - 2 ^ n := by omega
      rw [e0, e1] at left
      exact Folded.combineOpt sorted combined left (ih i) (by omega) (by omega)

end

/-! ### The values of the lanes -/

/-- What a lane brings to a reduction: absent where it is not active. -/
def Who.brings (k : Who) (f : ExtArgs) (s : State) (l : Nat) : Option (Quad × Word) :=
  if l ∈ k.x.active then
    some (if f.md = 7 then k.src s l f.lit .n64 f.a
      else BitVec.ofNat 128 ((k.src s l f.lit f.ty f.a).toNat % 2 ^ f.ty.bits), 0)
  else none

theorem getD_redValues (f : ExtArgs) (k : Who) (s : State) (l : Nat) :
    (redValues f k k.x.active s).getD l none = k.brings f s l := by
  have value : (if f.md = 7 then s.readOpd k.x l f.lit (redWidth f) (if f.md = 7 then .int else f.ty.imm) f.a
      else BitVec.ofNat 128 ((s.readOpd k.x l f.lit (redWidth f) (if f.md = 7 then .int else f.ty.imm) f.a).toNat % 2 ^ f.ty.bits)) =
      if f.md = 7 then k.src s l f.lit .n64 f.a else BitVec.ofNat 128 ((k.src s l f.lit f.ty f.a).toNat % 2 ^ f.ty.bits) := by
    unfold redWidth
    split <;> rfl
  unfold redValues Who.brings allLanes
  by_cases lt : l < 32
  · rw [List.getD_eq_getElem?_getD, List.getElem?_map, List.getElem?_range lt, Option.map_some, Option.getD_some]
    simp only [List.contains_iff_mem, value]
  · have : l ∉ k.x.active := fun h => lt (Wave.active_lt_32 h)
    simp [List.getD_eq_getElem?_getD, lt, this]

/-- The rounding mode of a reduction is that of the lowest active lane. -/
def Who.reduceMode (k : Who) (f : ExtArgs) : RoundMode := k.mode (lane0 k.x.active) f.rm

section
variable {f : ExtArgs} {s : State} {k : Who}

theorem redl_computes (h : Ready (.redl f) s k) : Computes (.redl f) s k f.d (redWidth f) fun _ =>
    fpOut k.g.mode ((treeOf (combineOpt f (k.reduceMode f)) (k.brings f s) 5 0).getD (0, 0)) := by
  refine landLanes_computes (g := fun k act s _ => fpOut k.g.mode
    ((redTree f ((k.x.thread (lane0 act)).roundMode f.rm) (redValues f k act s)).getD (0, 0))) h rfl rfl fun l _ => ?_
  rw [redTree_eq]
  simp only [getD_redValues]
  rfl

theorem scanl_computes (h : Ready (.scanl f) s k) :
    let net (l : Nat) : Option (Quad × Word) := scanOf (combineOpt f (k.reduceMode f)) (k.brings f s) 5 l
    Computes (.scanl f) s k f.d (redWidth f) fun l =>
      fpOut k.g.mode (((net l).getD (0, 0)).1, allLanes.foldl (fun m n => m ||| ((net n).getD (0, 0)).2) 0) := by
  intro net
  refine landLanes_computes (g := fun k act s l => fpOut k.g.mode
    ((((scanNet f ((k.x.thread (lane0 act)).roundMode f.rm) (redValues f k act s)).getD l none).getD (0, 0)).1,
      scanFlags f ((k.x.thread (lane0 act)).roundMode f.rm) (redValues f k act s))) h rfl rfl fun l hl => ?_
  have len : (redValues f k k.x.active s).length = 32 := by simp [redValues, allLanes]
  rw [(scanNet_eq f _ len).2 l (Wave.active_lt_32 hl), scanFlags_eq f _ len]
  simp only [getD_redValues]
  rfl

variable {P : List Nat → Quad × Word → Prop}
  (combined : ∀ xs ys x y, P xs x → P ys y → P (xs ++ ys)
    ((combine f (k.reduceMode f) x.1 y.1).1, x.2 ||| y.2 ||| (combine f (k.reduceMode f) x.1 y.1).2))
  (single : ∀ l ∈ k.x.active, ∀ v, k.brings f s l = some v → P [l] v)

omit combined in
include single in
theorem folded_brings (l : Nat) : Folded k.x.active P l (l + 1) (k.brings f s l) := by
  have one := lanesIn_one k.x.active_sorted l
  by_cases h : l ∈ k.x.active
  · rw [if_pos h] at one
    have value := single l h
    unfold Who.brings at value ⊢
    rw [if_pos h] at value ⊢
    exact ⟨by rw [one]; exact List.cons_ne_nil _ _, one ▸ value _ rfl⟩
  · rw [if_neg h] at one
    unfold Who.brings
    rw [if_neg h]
    exact one

include combined single

/-- What the tree makes of all active lanes. -/
theorem treeOf_brings (h : k.x.active ≠ []) :
    ∃ r, treeOf (combineOpt f (k.reduceMode f)) (k.brings f s) 5 0 = some r ∧ P k.x.active r := by
  have fold := folded_treeOf k.x.active_sorted combined (folded_brings single) 5 0
  have all : lanesIn k.x.active 0 32 = k.x.active :=
    List.filter_eq_self.2 fun l hl => by simp [Wave.active_lt_32 hl]
  cases e : treeOf (combineOpt f (k.reduceMode f)) (k.brings f s) 5 0 with
  | none =>
    rw [e] at fold
    exact absurd (all.symm.trans fold) h
  | some r =>
    rw [e] at fold
    exact ⟨r, rfl, all ▸ fold.2⟩

/-- What the network makes of the active lanes up to one of the 32. -/
theorem folded_scan {l : Nat} (hl : l < 32) :
    Folded k.x.active P 0 (l + 1) (scanOf (combineOpt f (k.reduceMode f)) (k.brings f s) 5 l) := by
  have fold := folded_scanOf k.x.active_sorted combined (folded_brings single) 5 l
  rwa [show l + 1 - 2 ^ 5 = 0 by omega] at fold

theorem scanOf_brings {l : Nat} (hl : l ∈ k.x.active) :
    ∃ r, scanOf (combineOpt f (k.reduceMode f)) (k.brings f s) 5 l = some r ∧ P (k.x.active.filter (· ≤ l)) r := by
  have fold := folded_scan combined single (Wave.active_lt_32 hl)
  have lanes : lanesIn k.x.active 0 (l + 1) = k.x.active.filter (· ≤ l) := by
    refine List.filter_congr fun m _ => ?_
    rw [decide_eq_true (Nat.zero_le m), Bool.true_and, decide_eq_decide]
    omega
  cases e : scanOf (combineOpt f (k.reduceMode f)) (k.brings f s) 5 l with
  | none =>
    rw [e] at fold
    have empty : k.x.active.filter (· ≤ l) = [] := lanes.symm.trans fold
    exact absurd (List.mem_filter.2 ⟨hl, by simp⟩) (empty ▸ List.not_mem_nil)
  | some r =>
    rw [e] at fold
    exact ⟨r, rfl, lanes ▸ fold.2⟩

end

/-! ### The operations -/

section
variable {ty : Ty} (wide : 32 ≤ ty.bits)

theorem value_truncated (ty : Ty) (q : Quad) : ty.value (BitVec.ofNat 128 (q.toNat % 2 ^ ty.bits)) = ty.value q := by
  have le : ty.bits ≤ 128 := by cases ty <;> decide
  have same : (BitVec.ofNat 128 (q.toNat % 2 ^ ty.bits)).setWidth ty.bits = q.setWidth ty.bits := by
    apply BitVec.eq_of_toNat_eq
    have lt : q.toNat % 2 ^ ty.bits < 2 ^ 128 :=
      Nat.lt_of_lt_of_le (Nat.mod_lt _ (Nat.two_pow_pos _)) (Nat.pow_le_pow_right (by decide) le)
    rw [BitVec.toNat_setWidth, BitVec.toNat_setWidth, BitVec.toNat_ofNat, Nat.mod_eq_of_lt lt, Nat.mod_mod]
  unfold Ty.value
  rw [same]

include wide in
theorem narrow_wide (n : Int) : ty.narrow n = (BitVec.ofInt ty.bits n).setWidth 128 := by
  unfold Ty.narrow
  rw [if_neg (by omega)]

include wide in
theorem narrow_value (q : Quad) : ty.narrow (ty.value q) = BitVec.ofNat 128 (q.toNat % 2 ^ ty.bits) := by
  rw [narrow_wide wide, show ty.value q = asNumber ty.signed (q.setWidth ty.bits) from rfl, ofInt_asNumber]
  exact BitVec.eq_of_toNat_eq (by simp)

include wide in
theorem ofInt_value_narrow (n : Int) : BitVec.ofInt ty.bits (ty.value (ty.narrow n)) = BitVec.ofInt ty.bits n := by
  have le : ty.bits ≤ 128 := by cases ty <;> decide
  rw [show ty.value (ty.narrow n) = asNumber ty.signed ((ty.narrow n).setWidth ty.bits) from rfl, ofInt_asNumber, narrow_wide wide,
    BitVec.setWidth_setWidth (by omega), BitVec.setWidth_eq]

include wide in
theorem narrow_add (m n : Int) : ty.narrow (ty.value (ty.narrow m) + ty.value (ty.narrow n)) = ty.narrow (m + n) := by
  rw [narrow_wide wide, narrow_wide wide (m + n), BitVec.ofInt_add, BitVec.ofInt_add, ofInt_value_narrow wide, ofInt_value_narrow wide]

include wide in
theorem value_narrow_value (q : Quad) : ty.value (ty.narrow (ty.value q)) = ty.value q := by
  rw [narrow_value wide, value_truncated]

end

/-- The types of integer reductions are at least 32 bits wide. -/
theorem wide_of_word {ty : Ty} (h : ([Ty.i32, .n32, .i64, .n64].contains ty || [Ty.b32, .b64].contains ty) = true) : 32 ≤ ty.bits := by
  revert h; cases ty <;> decide

section
variable {f : ExtArgs} {s : State} {k : Who}

/-- The sum of some lanes' sources, no flag raised. -/
def SumsLanes (k : Who) (f : ExtArgs) (s : State) (ls : List Nat) (v : Quad × Word) : Prop :=
  v.1 = f.ty.narrow (ls.map fun l => k.num s l f.lit f.ty f.a).sum ∧ v.2 = 0

/-- The source of one of some lanes that comes before all others in an order, no flag raised. -/
def PicksLane (le : Int → Int → Prop) (k : Who) (f : ExtArgs) (s : State) (ls : List Nat) (v : Quad × Word) : Prop :=
  (∃ m ∈ ls, v.1 = f.ty.narrow (k.num s m f.lit f.ty f.a) ∧
    ∀ l ∈ ls, le (k.num s m f.lit f.ty f.a) (k.num s l f.lit f.ty f.a)) ∧ v.2 = 0

/-- A pattern each bit of which some lanes' bits make, no flag raised. -/
def BitsOfLanes (B : List Nat → (Nat → Bool) → Bool) (k : Who) (f : ExtArgs) (s : State) (ls : List Nat) (v : Quad × Word) : Prop :=
  (∀ j, v.1.getLsbD j = (decide (j < f.ty.bits) && B ls fun l => (k.src s l f.lit f.ty f.a).getLsbD j)) ∧ v.2 = 0

theorem SumsLanes.combined (hm : f.md = 0) (wide : 32 ≤ f.ty.bits) (mode : RoundMode) (xs ys : List Nat) (x y : Quad × Word)
    (hx : SumsLanes k f s xs x) (hy : SumsLanes k f s ys y) :
    SumsLanes k f s (xs ++ ys) ((combine f mode x.1 y.1).1, x.2 ||| y.2 ||| (combine f mode x.1 y.1).2) := by
  have sum : combine f mode x.1 y.1 = (intRes f.ty opAdd x.1 y.1 0, 0) := by unfold combine; rw [hm]; rfl
  rw [sum, intRes_eq opAdd_denotes, hx.1, hy.1, hx.2, hy.2]
  exact ⟨(narrow_add wide _ _).trans (by rw [List.map_append, List.sum_append]), by simp⟩

theorem brings_eq (hm : f.md ≠ 7) {l : Nat} {v : Quad × Word} (h : k.brings f s l = some v) :
    v = (BitVec.ofNat 128 ((k.src s l f.lit f.ty f.a).toNat % 2 ^ f.ty.bits), 0) := by
  unfold Who.brings at h
  rw [if_neg hm] at h
  split at h
  · exact (Option.some.inj h).symm
  · cases h

theorem SumsLanes.single (hm : f.md ≠ 7) (wide : 32 ≤ f.ty.bits) (l : Nat) (v : Quad × Word) (h : k.brings f s l = some v) :
    SumsLanes k f s [l] v := by
  rw [brings_eq hm h]
  exact ⟨by rw [List.map_singleton, List.sum_singleton, Who.num, narrow_value wide], rfl⟩

theorem PicksLane.single {le : Int → Int → Prop} (refl : ∀ n, le n n) (hm : f.md ≠ 7) (wide : 32 ≤ f.ty.bits) (l : Nat)
    (v : Quad × Word) (h : k.brings f s l = some v) : PicksLane le k f s [l] v := by
  rw [brings_eq hm h]
  exact ⟨⟨l, List.mem_singleton_self l, by rw [Who.num, narrow_value wide], fun m hm => by rw [List.mem_singleton.1 hm]; exact refl _⟩, rfl⟩

/-- An operation that gives one of two numbers, the first in an order, gives the first of all. -/
theorem PicksLane.combined {le : Int → Int → Prop} {op : (w : Nat) → Bool → BitVec w → BitVec w → BitVec w → BitVec w}
    {g : Int → Int → Int} (trans : ∀ a b c, le a b → le b c → le a c)
    (first : ∀ a b, g a b = a ∧ le a b ∨ g a b = b ∧ le b a)
    (hg : Denotes op fun _ _ x y _ => g x y) {mode : RoundMode} (hc : ∀ x y, combine f mode x y = (intRes f.ty op x y 0, 0))
    (wide : 32 ≤ f.ty.bits) (xs ys : List Nat) (x y : Quad × Word)
    (hx : PicksLane le k f s xs x) (hy : PicksLane le k f s ys y) :
    PicksLane le k f s (xs ++ ys) ((combine f mode x.1 y.1).1, x.2 ||| y.2 ||| (combine f mode x.1 y.1).2) := by
  obtain ⟨⟨m, hm, ex, lx⟩, fx⟩ := hx
  obtain ⟨⟨n, hn, ey, ly⟩, fy⟩ := hy
  have value (l : Nat) : f.ty.value (f.ty.narrow (k.num s l f.lit f.ty f.a)) = k.num s l f.lit f.ty f.a :=
    value_narrow_value wide _
  rw [hc, intRes_eq hg, ex, ey, fx, fy]
  simp only [value]
  refine ⟨?_, by simp⟩
  rcases first (k.num s m f.lit f.ty f.a) (k.num s n f.lit f.ty f.a) with ⟨e, le⟩ | ⟨e, le⟩
  · exact ⟨m, List.mem_append_left _ hm, by rw [e], fun l hl =>
      (List.mem_append.1 hl).elim (lx l) fun h => trans _ _ _ le (ly l h)⟩
  · exact ⟨n, List.mem_append_right _ hn, by rw [e], fun l hl =>
      (List.mem_append.1 hl).elim (fun h => trans _ _ _ le (lx l h)) (ly l)⟩

theorem BitsOfLanes.single {B : List Nat → (Nat → Bool) → Bool} (one : ∀ l b, B [l] b = b l) (hm : f.md ≠ 7) (l : Nat)
    (v : Quad × Word) (h : k.brings f s l = some v) : BitsOfLanes B k f s [l] v := by
  rw [brings_eq hm h]
  refine ⟨fun j => ?_, rfl⟩
  have le : f.ty.bits ≤ 128 := by cases f.ty <;> decide
  rw [one, BitVec.getLsbD_ofNat, Nat.testBit_mod_two_pow]
  by_cases hj : j < f.ty.bits
  · simp only [hj, decide_true, Bool.true_and, decide_eq_true (show j < 128 by omega)]
    rfl
  · simp [hj]

theorem BitsOfLanes.combined {B : List Nat → (Nat → Bool) → Bool} {o : Bool → Bool → Bool} {g : Quad → Quad → Quad}
    (append : ∀ xs ys b, B (xs ++ ys) b = o (B xs b) (B ys b)) (bits : ∀ x y j, (g x y).getLsbD j = o (x.getLsbD j) (y.getLsbD j))
    (zero : o false false = false) {mode : RoundMode} (hc : ∀ x y, combine f mode x y = (g x y, 0)) (xs ys : List Nat)
    (x y : Quad × Word) (hx : BitsOfLanes B k f s xs x) (hy : BitsOfLanes B k f s ys y) :
    BitsOfLanes B k f s (xs ++ ys) ((combine f mode x.1 y.1).1, x.2 ||| y.2 ||| (combine f mode x.1 y.1).2) := by
  rw [hc, hx.2, hy.2]
  refine ⟨fun j => ?_, by simp⟩
  rw [bits, hx.1, hy.1, append]
  cases decide (j < f.ty.bits)
  · exact zero
  · rfl

end

/-! ### The obligation -/

section
variable {f : ExtArgs} {s : State} {k : Who}

theorem fpOut_zero (mode : BitVec 19) (x : Quad) : fpOut mode (x, 0) = .write x 0 := by
  simp [fpOut, fpCause]

theorem foldl_or_zero {g : Nat → Word} {ls : List Nat} (h : ∀ n ∈ ls, g n = 0) : ls.foldl (fun m n => m ||| g n) 0 = 0 := by
  induction ls with
  | nil => rfl
  | cons n r ih => rw [List.foldl_cons, h n List.mem_cons_self]; exact ih fun m hm => h m (List.mem_cons_of_mem _ hm)

theorem redl_folds {P : List Nat → Quad × Word → Prop} (h : Ready (.redl f) s k) (hm : f.md ≠ 7)
    (combined : ∀ xs ys x y, P xs x → P ys y → P (xs ++ ys)
      ((combine f (k.reduceMode f) x.1 y.1).1, x.2 ||| y.2 ||| (combine f (k.reduceMode f) x.1 y.1).2))
    (single : ∀ l ∈ k.x.active, ∀ v, k.brings f s l = some v → P [l] v) :
    ∃ r, P k.x.active r ∧ Computes (.redl f) s k f.d f.ty.width fun _ => fpOut k.g.mode r := by
  obtain ⟨r, e, p⟩ := treeOf_brings combined single h.active
  have computes := redl_computes h
  rw [e, redWidth, if_neg hm] at computes
  exact ⟨r, p, computes⟩

theorem redl_sums (h : Ready (.redl f) s k) (hm : f.md = 0) (wide : 32 ≤ f.ty.bits) :
    Computes (.redl f) s k f.d f.ty.width fun _ =>
      .write (f.ty.narrow (k.x.active.map fun l => k.num s l f.lit f.ty f.a).sum) 0 := by
  have hm7 : f.md ≠ 7 := by rw [hm]; decide
  obtain ⟨⟨v, fl⟩, ⟨rfl, rfl⟩, computes⟩ := redl_folds (P := SumsLanes k f s) h hm7 (SumsLanes.combined hm wide _)
    fun l _ => SumsLanes.single hm7 wide l
  exact fpOut_zero k.g.mode _ ▸ computes

/-- The first in an order of the numbers of the active lanes. -/
theorem redl_picks {le : Int → Int → Prop} {op : (w : Nat) → Bool → BitVec w → BitVec w → BitVec w → BitVec w}
    {g : Int → Int → Int} (h : Ready (.redl f) s k) (refl : ∀ n, le n n) (trans : ∀ a b c, le a b → le b c → le a c)
    (first : ∀ a b, g a b = a ∧ le a b ∨ g a b = b ∧ le b a) (hg : Denotes op fun _ _ x y _ => g x y) (hm7 : f.md ≠ 7)
    (hc : ∀ x y, combine f (k.reduceMode f) x y = (intRes f.ty op x y 0, 0)) (wide : 32 ≤ f.ty.bits) :
    ∃ m ∈ k.x.active, Computes (.redl f) s k f.d f.ty.width (fun _ => .write (f.ty.narrow (k.num s m f.lit f.ty f.a)) 0) ∧
      ∀ l ∈ k.x.active, le (k.num s m f.lit f.ty f.a) (k.num s l f.lit f.ty f.a) := by
  obtain ⟨⟨v, fl⟩, ⟨⟨m, hm, rfl, first⟩, rfl⟩, computes⟩ := redl_folds (P := PicksLane le k f s) h hm7
    (PicksLane.combined trans first hg hc wide) fun l _ => PicksLane.single refl hm7 wide l
  exact ⟨m, hm, fpOut_zero k.g.mode _ ▸ computes, first⟩

theorem redl_bits {B : List Nat → (Nat → Bool) → Bool} {o : Bool → Bool → Bool} {g : Quad → Quad → Quad}
    (h : Ready (.redl f) s k) (one : ∀ l b, B [l] b = b l) (append : ∀ xs ys b, B (xs ++ ys) b = o (B xs b) (B ys b))
    (bits : ∀ x y j, (g x y).getLsbD j = o (x.getLsbD j) (y.getLsbD j)) (zero : o false false = false) (hm7 : f.md ≠ 7)
    (hc : ∀ x y, combine f (k.reduceMode f) x y = (g x y, 0)) :
    ComputesBits (.redl f) s k f.d f.ty.width fun _ j =>
      decide (j < f.ty.bits) && B k.x.active fun l => (k.src s l f.lit f.ty f.a).getLsbD j := by
  obtain ⟨⟨v, fl⟩, ⟨bit, rfl⟩, computes⟩ := redl_folds (P := BitsOfLanes B k f s) h hm7
    (BitsOfLanes.combined append bits zero hc) fun l _ => BitsOfLanes.single one hm7 l
  exact ⟨fun _ => v, by simpa only [fpOut_zero] using computes, fun _ j _ => bit j⟩

theorem scanl_sums (h : Ready (.scanl f) s k) (hm : f.md = 0) (wide : 32 ≤ f.ty.bits) :
    Computes (.scanl f) s k f.d f.ty.width fun l =>
      .write (f.ty.narrow ((k.x.active.filter (· ≤ l)).map fun m => k.num s m f.lit f.ty f.a).sum) 0 := by
  have hm7 : f.md ≠ 7 := by rw [hm]; decide
  obtain ⟨t, ht, landed⟩ := scanl_computes h
  rw [redWidth, if_neg hm7] at landed
  refine ⟨t, ht, landed.congr fun l hl => ?_⟩
  obtain ⟨⟨v, fl⟩, e, rfl, -⟩ := scanOf_brings (P := SumsLanes k f s) (SumsLanes.combined hm wide _)
    (fun l _ => SumsLanes.single hm7 wide l) hl
  simp only [e]
  rw [foldl_or_zero fun n hn => ?_]
  · exact fpOut_zero _ _
  · have fold := folded_scan (P := SumsLanes k f s) (SumsLanes.combined hm wide _) (fun l _ => SumsLanes.single hm7 wide l)
      (List.mem_range.1 hn)
    cases e : scanOf (combineOpt f (k.reduceMode f)) (k.brings f s) 5 n with
    | none => rfl
    | some r =>
      rw [e] at fold
      exact fold.2.2

end

theorem parity_append (xs ys : List Nat) (b : Nat → Bool) : decide (((xs ++ ys).filter b).length % 2 = 1) =
    xor (decide ((xs.filter b).length % 2 = 1)) (decide ((ys.filter b).length % 2 = 1)) := by
  rw [List.filter_append, List.length_append, Bool.eq_iff_iff]
  simp only [Bool.xor_iff_ne, decide_eq_true_eq, ne_eq, decide_eq_decide]
  omega

/-- Settles O21: the tree and the network, and what the operations make of the lanes' sources. -/
theorem laneReductions : Obligations.LaneReductions := by
  unfold Obligations.LaneReductions
  intro start mode int word
  refine ⟨?sum, ?least, ?bits, ?tree, ?prefixes, ?network⟩
  case sum => exact fun f s k hm ht h => redl_sums h hm (wide_of_word (Bool.or_eq_true_iff.2 (.inl ht)))
  case least =>
    intro f s k hm ht h
    have wide : 32 ≤ f.ty.bits := wide_of_word (Bool.or_eq_true_iff.2 (.inl ht))
    rcases hm with hm | hm
    · obtain ⟨m, mem, computes, first⟩ := redl_picks (le := (· ≤ ·)) (g := min) h (fun _ => Int.le_refl _) (fun _ _ _ => Int.le_trans)
        (fun a b => by omega) opMin_denotes (by rw [hm]; decide) (fun x y => by unfold combine; rw [hm]; rfl) wide
      exact ⟨m, mem, computes, fun l hl => by rw [if_pos hm]; exact first l hl⟩
    · obtain ⟨m, mem, computes, first⟩ := redl_picks (le := fun a b => b ≤ a) (g := max) h (fun _ => Int.le_refl _)
        (fun _ _ _ h g => Int.le_trans g h) (fun a b => by omega) opMax_denotes (by rw [hm]; decide)
        (fun x y => by unfold combine; rw [hm]; rfl) wide
      exact ⟨m, mem, computes, fun l hl => by rw [if_neg (by rw [hm]; decide)]; exact first l hl⟩
  case bits =>
    intro f s k hm _ h
    rcases hm with hm | hm | hm
    · simp only [hm, if_true]
      exact redl_bits (B := fun ls b => ls.all b) (o := (· && ·)) h (fun _ _ => by simp) (fun _ _ _ => List.all_append)
        (fun _ _ _ => BitVec.getLsbD_and) rfl (by rw [hm]; decide) fun x y => by unfold combine; rw [hm]; rfl
    · simp only [hm]
      exact redl_bits (B := fun ls b => ls.any b) (o := (· || ·)) h (fun _ _ => by simp) (fun _ _ _ => List.any_append)
        (fun _ _ _ => BitVec.getLsbD_or) rfl (by rw [hm]; decide) fun x y => by unfold combine; rw [hm]; rfl
    · simp only [hm]
      exact redl_bits (B := fun ls b => decide ((ls.filter b).length % 2 = 1)) (o := xor) h
        (fun l b => by cases e : b l <;> simp [e]) parity_append (fun _ _ _ => BitVec.getLsbD_xor) rfl (by rw [hm]; decide)
        fun x y => by unfold combine; rw [hm]; rfl
  case tree =>
    intro f s k _ h
    obtain ⟨r, e, -⟩ := treeOf_brings (f := f) (s := s) (P := fun _ _ => True) (fun _ _ _ _ _ _ => trivial)
      (fun _ _ _ _ => trivial) h.active
    have computes := redl_computes h
    rw [e] at computes
    exact ⟨r, e, computes⟩
  case prefixes => exact fun f s k hm ht h => scanl_sums h hm (wide_of_word (Bool.or_eq_true_iff.2 (.inl ht)))
  case network => exact fun f s k h => scanl_computes h

end Sys2Proof.Machine
end

section
/-! SUPPORT. A full watcher whose oldest registration is the wave's own. Refutes O22. -/

-- One theorem at a time: many at once ask for more threads than the checker has memory for.
set_option Elab.async false

namespace Sys2Proof.Machine

/-- `MONA` of the addresses in v4. -/
def monaV4 : ExtArgs :=
  { d := .none, a := .v 4, b := .none, c := .none, ea := false, eb := false, ec := false, ty := .i32, rm := .rne, sc := .th, md := 0
    aux := 0, x18 := 0, xb := 0, lit := none }

/-- Threads 0 and 1 name two lines of a page; the page's watcher holds 4,096 registrations, the oldest of them the wave's for the
first line. -/
def watchedState : State :=
  let s := State.reset.placeWords []
  let x := Wave.placed 1 0 0 65536 0 0 2
  let own : Reg := { line := 512, wave := 2 }
  { s with
    waves := [(2, { x with threads := x.threads.mapIdx fun l t => { t with v := Table.put t.v 4 (BitVec.ofNat 32 (65536 + 128 * l)) } })]
    clusters := s.clusters.map fun e => (e.1, { e.2 with regs := own :: List.replicate 4095 { line := 0, wave := 1 } })
    issuer := some 2, ilen := 12 }

/-- A line that the instruction adds to the wave's set is not watched after it. -/
def unwatched (i : Instr) (s : State) (k : Who) (set : List (Nat × DWord)) : Bool :=
  match exec i s with
  | .next t => set.any fun m => decide (m ∉ k.x.monitor) && !t.watched k.chip k.w m.1
  | _ => false

/-- The two lanes are translated, no lane is parked, no `STEP` is armed, and a line added is not watched. -/
theorem watchedState_unwatched : watchedState.who.all (fun k =>
    match spans k.xctx .read false false 1 (k.x.active.map fun l => (l, watchedState.laneEa k monaV4 l)) watchedState with
    | (.all ls, _) => watchedState.inFlight = 0 && parksOf ls = [] && (monitorAfter k.x.monitor ls).length ≤ 4 && k.x.clear &&
        !stepsNow watchedState k (k.x.issuePc.getD 0) && unwatched (.mona monaV4) watchedState k (monitorAfter k.x.monitor ls)
    | _ => false) = true := by decide +kernel

/-- Refutes O22: the second line of a `MONA` drops the oldest registration of a full watcher, which is that of its first line. -/
theorem not_monitors : ¬ Obligations.Monitors := by
  unfold Obligations.Monitors
  rintro ⟨mona, -⟩
  obtain ⟨k, ready⟩ := ready_of_readyFor (i := .mona monaV4) (s := watchedState) (by decide +kernel)
  have props := watchedState_unwatched
  rw [ready.who, Option.all_some] at props
  split at props
  case h_2 => cases props
  case h_1 ls s1 translated =>
    simp only [Bool.and_eq_true, decide_eq_true_eq, Bool.not_eq_true'] at props
    obtain ⟨⟨⟨⟨⟨flight, parks⟩, length⟩, clear⟩, steps⟩, unwatched'⟩ := props
    obtain ⟨t, ht, -, -, acts⟩ := mona _ _ k ls s1 ready ⟨flight, translated⟩ parks length
    obtain ⟨-, watched⟩ := acts ⟨clear, steps⟩
    simp only [unwatched, ht, List.any_eq_true, Bool.and_eq_true, decide_eq_true_eq, Bool.not_eq_true'] at unwatched'
    obtain ⟨m, hm, new, not⟩ := unwatched'
    rw [watched m hm new] at not
    cases not

end Sys2Proof.Machine
end

section
/-! SUPPORT. Groups that do not issue next: a thread beyond lane 31 does. Refutes O31, O32, O34, O36, O39, O40, O41,
O42, O43, O46, O47. -/

-- One theorem at a time: many at once ask for more threads than the checker has memory for.
set_option Elab.async false

namespace Sys2Proof.Machine

/-! ### Where the group goes, by computation -/

/-- The instruction is ready, `q` holds of its wave, no trap follows, and after it the group's next address, which some thread of the
group does not meet at, is not the issue PC. -/
def State.strands (s : State) (i : Instr) (q : Who → Bool) : Bool :=
  s.who.any fun k => k.readyFor s i && q k && k.x.clear && !stepsNow s k (k.x.issuePc.getD 0) &&
    match exec i s with
    | .next t => k.x.group.any (fun l => (t.lane k.w l).meet ≠ k.after i) && (t.wave? k.w).bind Wave.issuePc ≠ some (k.after i)
    | _ => false

/-- The group does not go to the following instruction. -/
theorem State.not_goes {s : State} {i : Instr} {q : Who → Bool} (h : s.strands i q = true) :
    ∃ k, Ready i s k ∧ q k = true ∧ Quiet s k ∧ ∀ t, exec i s = .next t → ¬ Goes t k fun _ => k.after i := by
  obtain ⟨k, who, props⟩ := (Option.any_eq_true _ _).1 h
  simp only [Bool.and_eq_true, Bool.not_eq_true'] at props
  obtain ⟨⟨⟨⟨ready, hq⟩, clear⟩, steps⟩, out⟩ := props
  obtain ⟨k', ready'⟩ := ready_of_readyFor (s := s) (i := i) (by unfold State.readyFor; rw [who]; exact ready)
  obtain rfl : k' = k := Option.some.inj (ready'.who.symm.trans who)
  refine ⟨k', ready', hq, ⟨clear, steps⟩, fun t ht goes => ?_⟩
  simp only [ht, Bool.and_eq_true, decide_eq_true_eq, List.any_eq_true] at out
  obtain ⟨⟨l, hl, meet⟩, issue⟩ := out
  exact issue (goes.next (k'.after i) ⟨l, hl, rfl, meet⟩ fun _ _ _ => Nat.le_refl _)

/-- An instruction that leaves the registers does not leave its group at the following instruction. -/
theorem State.not_leaves {s : State} {i : Instr} {k : Who} {p : State → Prop}
    (quiet : Quiet s k) (not : ∀ t, exec i s = .next t → ¬ Goes t k fun _ => k.after i) (goes : ∀ t, p t → Goes t k fun _ => k.after i) :
    ¬ Leaves i s k p := fun ⟨t, ht, _, hp⟩ => not t ht (goes t (hp quiet))

/-- An extended instruction without operands, at thread scope. -/
def bareArgs : ExtArgs :=
  { d := .none, a := .none, b := .none, c := .none, ea := false, eb := false, ec := false, ty := .i32, rm := .rne, sc := .th, md := 0
    aux := 0, x18 := 0, xb := 0, lit := none }

/-- The crowded wave, its accumulator slot claimed and its gang's mode changed. -/
def crowdedIn (aclaim : List Nat) (mode : BitVec 19) : State :=
  { crowded with
    wgs := crowded.wgs.map fun e => (e.1, { e.2 with aclaim := aclaim })
    gangs := crowded.gangs.map fun e => (e.1, { e.2 with mode := mode }) }

/-! ### The obligations -/

/-- Refutes O31: a fence at thread scope. -/
theorem not_fencesAndCacheHints : ¬ Obligations.FencesAndCacheHints := by
  unfold Obligations.FencesAndCacheHints
  rintro ⟨⟨fence, -⟩, -⟩
  obtain ⟨k, ready, -, quiet, not⟩ := State.not_goes (s := crowded) (i := .fenceAcq bareArgs) (q := fun _ => true) (by decide +kernel)
  exact State.not_leaves quiet not (fun _ goes => goes) (fence bareArgs _ k rfl ready)

/-- Refutes O32: a `SEGU` of a segment that is bound to nothing. -/
theorem not_windowInstructions : ¬ Obligations.WindowInstructions := by
  unfold Obligations.WindowInstructions
  rintro ⟨-, -, segu, -⟩
  obtain ⟨k, ready, free, quiet, not⟩ := State.not_goes (s := crowded) (i := .segu bareArgs)
    (q := fun k => match (k.begun (.segu bareArgs) crowded).segNamed k bareArgs k.x.active with
      | .ok i => ((k.begun (.segu bareArgs) crowded).seg k.wg.core i).st = .i
      | .error _ => false) (by decide +kernel)
  split at free
  case h_1 i named =>
    exact State.not_leaves quiet not (fun _ goes => goes) (segu bareArgs _ k i ready named (of_decide_eq_true free))
  case h_2 => cases free

/-- Refutes O34: an `XFENCE.ad` in privileged mode with nothing left to wait for. -/
theorem not_translationInstructions : ¬ Obligations.TranslationInstructions := by
  unfold Obligations.TranslationInstructions
  rintro ⟨-, -, -, -, -, -, -, -, -, -, xfence, -⟩
  obtain ⟨k, ready, free, quiet, not⟩ := State.not_goes (s := crowdedIn [] 16) (i := .xfenceAd bareArgs)
    (q := fun k => k.g.priv && k.x.strong.isNone && !(k.begun (.xfenceAd bareArgs) (crowdedIn [] 16)).enginesLeft k) (by decide +kernel)
  simp only [Bool.and_eq_true, Bool.not_eq_true', Option.isNone_iff_eq_none] at free
  obtain ⟨⟨priv, strong⟩, left⟩ := free
  obtain ⟨t, ht, -, goes⟩ := xfence bareArgs _ k ready priv strong left
  exact not t ht (goes quiet).2

/-- Refutes O36: a `CFENCE.done` of a wave without copies. -/
theorem not_copiesStart : ¬ Obligations.CopiesStart := by
  unfold Obligations.CopiesStart
  rintro ⟨-, -, -, -, -, -, cfence, -⟩
  obtain ⟨k, ready, free, quiet, not⟩ := State.not_goes (s := crowded) (i := .cfenceDone bareArgs)
    (q := fun k => (crowded.core k.wg.core).kick.isNone && (crowded.core k.wg.core).copies.isEmpty &&
      (crowded.core k.wg.core).graphs.isEmpty) (by decide +kernel)
  simp only [Bool.and_eq_true, Option.isNone_iff_eq_none, List.isEmpty_iff] at free
  obtain ⟨⟨kick, copies⟩, graphs⟩ := free
  exact State.not_leaves quiet not (fun _ goes => goes) (cfence bareArgs _ k ready (by simp [kick]) (by simp [copies]) (by simp [graphs]))

/-- Refutes O39: an `LEMP` of no line. -/
theorem not_barrierObjects : ¬ Obligations.BarrierObjects := by
  unfold Obligations.BarrierObjects
  rintro ⟨-, -, -, -, -, lemp, -⟩
  obtain ⟨k, ready, free, quiet, not⟩ := State.not_goes (s := crowded) (i := .lemp bareArgs)
    (q := fun k => ((crowded.rangeLanes k bareArgs k.x.active false).all fun e => e.bad.isNone) &&
      ((segsOf ((crowded.rangeLanes k bareArgs k.x.active false).flatMap ScLane.bytes)).all fun e =>
        (crowded.seg e.1 e.2).st = .i)) (by decide +kernel)
  obtain ⟨good, unbound⟩ := Bool.and_eq_true_iff.1 free
  obtain ⟨t, ht, -, -, goes⟩ := lemp bareArgs _ k _ ⟨ready, rfl, good⟩ unbound
  exact not t ht (goes quiet)

/-- Refutes O40: a `TOKW` outside ordered mode. -/
theorem not_groupBarriers : ¬ Obligations.GroupBarriers := by
  unfold Obligations.GroupBarriers
  rintro ⟨-, -, tokw, -⟩
  obtain ⟨k, ready, free, quiet, not⟩ := State.not_goes (s := crowded) (i := .tokw) (q := fun k => !k.g.ordered) (by decide +kernel)
  exact State.not_leaves quiet not (fun _ goes => goes) (tokw _ k ready (by simpa using free))

/-- Refutes O41: an `OPF` of a wave without fills. -/
theorem not_slotClaims : ¬ Obligations.SlotClaims := by
  unfold Obligations.SlotClaims
  rintro ⟨-, -, -, -, -, -, -, -, -, -, opf⟩
  obtain ⟨k, ready, free, quiet, not⟩ := State.not_goes (s := crowded) (i := .opf) (q := fun k => ((k.begun .opf crowded).opfWait k).1)
    (by decide +kernel)
  exact State.not_leaves quiet not (fun _ goes => goes.1) (opf _ k _ ready (Prod.ext free rfl))

/-- Refutes O42: an `OSUB.drop` of no subscription. -/
theorem not_streams : ¬ Obligations.Streams := by
  unfold Obligations.Streams
  rintro ⟨-, -, -, -, -, -, drop⟩
  obtain ⟨k, ready, free, quiet, not⟩ := State.not_goes (s := crowded) (i := .osubDrop bareArgs)
    (q := fun k => ((crowded.cluster (clusterOfCore k.wg.core)).subOf k.x.wg
      (k.src crowded (lane0 k.x.active) bareArgs.lit .n32 bareArgs.a).toNat).isNone) (by decide +kernel)
  exact State.not_leaves quiet not (fun _ goes => goes) (drop bareArgs _ k ready (Option.isNone_iff_eq_none.1 free))

/-- Refutes O43: an `AINI` of a claimed slot. -/
theorem not_accumulators : ¬ Obligations.Accumulators := by
  unfold Obligations.Accumulators
  rintro ⟨aini, -⟩
  obtain ⟨k, ready, free, quiet, not⟩ := State.not_goes (s := crowdedIn [0] 0) (i := .aini bareArgs)
    (q := fun k => k.wg.hot.isEmpty && k.x.active.all fun l =>
      (k.wg.aslot (k.src (crowdedIn [0] 0) l bareArgs.lit .n32 bareArgs.a).toNat).isSome) (by decide +kernel)
  obtain ⟨cold, claimed⟩ := Bool.and_eq_true_iff.1 free
  obtain ⟨t, ht, -, -, goes⟩ := aini bareArgs _ k ready (List.isEmpty_iff.1 cold) claimed
  exact not t ht (goes quiet)

/-- Refutes O46: an `RFLSH.wait` of a wave that has sent nothing. -/
theorem not_routingTokens : ¬ Obligations.RoutingTokens := by
  unfold Obligations.RoutingTokens
  rintro ⟨-, -, wait, -⟩
  obtain ⟨k, ready, free, quiet, not⟩ := State.not_goes (s := crowded) (i := .rflshWait bareArgs)
    (q := fun k => k.x.delivered + k.x.refused = k.x.appended) (by decide +kernel)
  obtain ⟨t, ht, -, -, goes⟩ := wait bareArgs _ k ready (of_decide_eq_true free)
  exact not t ht (goes quiet).2

/-- Refutes O47: a `PERF.clr`. -/
theorem not_recordsAndCounters : ¬ Obligations.RecordsAndCounters := by
  unfold Obligations.RecordsAndCounters
  rintro ⟨-, -, -, -, clear, -⟩
  obtain ⟨k, ready, -, quiet, not⟩ := State.not_goes (s := crowded) (i := .perfClr bareArgs) (q := fun _ => true) (by decide +kernel)
  exact State.not_leaves quiet not (fun _ goes => goes.1) (clear bareArgs _ k ready)

end Sys2Proof.Machine
end

section
/-! SUPPORT. The same of instructions that name memory. Refutes O23, O35, O44. -/

-- One theorem at a time: many at once ask for more threads than the checker has memory for.
set_option Elab.async false

namespace Sys2Proof.Machine

/-- The crowded wave, thread 0 with addresses in v4 and v6, its page with a leaf. -/
def crowdedAt (a b : Nat) (leaf : DWord) (mode : BitVec 19) : State :=
  let s := crowdedIn [] mode
  { s with
    waves := s.waves.map fun e => (e.1, { e.2 with threads := e.2.threads.map fun t => { t with v := putWords (putWords t.v 4 2 a) 6 2 b } })
    clusters := s.clusters.map fun e => (e.1, { e.2 with tlb := e.2.tlb.map fun t => { t with leaf := leaf } }) }

/-- An address in v4 and an operand in v6. -/
def pairArgs : ExtArgs := { bareArgs with a := .v 4, b := .v 6 }

/-! ### LAUNCH -/

/-- A record list at 0x10000 and an unused record at 0x10100, in a replicated page. -/
def crowdedLaunch : State := crowdedAt 0x10000 0x10100 0x403F 0

/-- The premises of O23 about a `LAUNCH` of a wave. -/
def linksNow (s : State) (k : Who) : Bool :=
  match (k.begun (.launch pairArgs) s).span k.xctx .write false ((k.src s (lane0 k.x.active) none .n64 (.v 4)).setWidth 64) 1 with
  | (.parts (rc :: _), s1) =>
    match s1.span k.xctx .write false ((k.src s (lane0 k.x.active) none .n64 (.v 6)).setWidth 64) 1 with
    | (.parts (rp :: _), s2) =>
      match s2.releaseWait k (if leafSeg rp.leaf = 3 then .sy else .pk) ((k.src s (lane0 k.x.active) none .n64 (.v 4)).setWidth 64) with
      | (true, s3) => s.inFlight = 0 && launchForm rc rp = none && s3.strongReady k 1 && !s3.recordUsed k.chip rp.pa &&
          (s3.link k.chip rc.pa rp.pa).isSome
      | _ => false
    | _ => false
  | _ => false

/-- Refutes O23: a `LAUNCH` of an unused record. -/
theorem not_launchLinks : ¬ Obligations.LaunchLinks := by
  unfold Obligations.LaunchLinks
  intro launch
  obtain ⟨k, ready, links, quiet, not⟩ := State.not_goes (s := crowdedLaunch) (i := .launch pairArgs) (q := linksNow crowdedLaunch)
    (by decide +kernel)
  unfold linksNow at links
  split at links
  case h_2 => cases links
  case h_1 rc rcs s1 hrc =>
    split at links
    case h_2 => cases links
    case h_1 rp rps s2 hrp =>
      split at links
      case h_2 => cases links
      case h_1 s3 waited =>
        simp only [Bool.and_eq_true, decide_eq_true_eq, Bool.not_eq_true', Option.isSome_iff_exists] at links
        obtain ⟨⟨⟨⟨flight, form⟩, strong⟩, unused⟩, ⟨x, s4⟩, linked⟩ := links
        obtain ⟨t, ht, -, -, goes⟩ := launch pairArgs _ k rc rcs rp rps s1 s2 s3 x s4 ready flight hrc hrp form waited strong unused linked
        exact not t ht (goes quiet).2

/-! ### MIGR -/

/-- A page at 0x10000 to be moved to 0x20000, with the tables that map it. -/
def crowdedMove : State :=
  let s := crowdedAt 0x10000 0x20000 wordsLeaf 16
  let root := reservedBase (s.repl 0).rsegsz + 0x80000
  let tables : List (Nat × Nat) := [(root, 0x10000), (0x10000, 0x20001), (0x20000, 0x30001), (0x30008, wordsLeaf.toNat)]
  let replica : Memory := tables.foldl (fun m e => Memory.writeLe m e.1 8 e.2) []
  { s with chips := (List.range 8).map fun c => (c, { s.chip c with repl := { s.repl c with replica := replica } }) }

/-- The premises of O35 about a `MIGR` of a wave. -/
def movesNow (s : State) (k : Who) : Bool :=
  let c0 := k.begun (.migr pairArgs) s
  let m := c0.migrLane k pairArgs 0
  k.x.active = [0] && k.x.pend.isNone && k.g.priv && s.inFlight = 0 && c0.strongReady k 1 &&
    match migrStart 8 c0 k false 0 m.1 m.2.1 m.2.2 with
    | .moved _ => true
    | _ => false

/-- Refutes O35: a `MIGR` of a page that can be moved now. -/
theorem not_pageMoves : ¬ Obligations.PageMoves := by
  unfold Obligations.PageMoves
  rintro ⟨-, migr, -⟩
  obtain ⟨k, ready, moves, quiet, not⟩ := State.not_goes (s := crowdedMove) (i := .migr pairArgs) (q := movesNow crowdedMove)
    (by decide +kernel)
  simp only [movesNow, Bool.and_eq_true, decide_eq_true_eq] at moves
  obtain ⟨⟨⟨⟨⟨active, fresh⟩, priv⟩, flight⟩, strong⟩, moves⟩ := moves
  split at moves
  case h_1 s1 moved =>
    obtain ⟨t, ht, -, -, goes⟩ := migr pairArgs _ k 0 s1 active fresh ready priv flight strong moved
    exact not t ht (goes quiet)
  case h_2 => cases moves

/-! ### HNDW -/

/-- The wave names the word at 0x10000, which is 0. -/
def crowdedHand : State := crowdedAt 0x10000 0 wordsLeaf 0

/-- The premises of O44 about an `HNDW` of a wave whose word is there. -/
def handedNow (s : State) (k : Who) : Bool :=
  match (k.begun (.hndw pairArgs) s).handWord k.xctx .read ((k.src s (lane0 k.x.active) none .n64 (.v 4)).setWidth 64) with
  | (.at p, s1) =>
    match s1.engineBytes k.chip [p] with
    | (.ok bs, s2) => s.inFlight = 0 && !((s1.core k.wg.core).wq.any fun e => e.2.wave = k.w && !e.2.repl && e.2.block = p.pa / 64) &&
        natOfBytes bs % 2 ^ 32 = ((k.src s (lane0 k.x.active) none .n32 (.v 6)).setWidth 32).toNat && !(s2.chip k.chip).dbg.schk
    | _ => false
  | _ => false

/-- Refutes O44: an `HNDW` whose word is there. -/
theorem not_tileTasks : ¬ Obligations.TileTasks := by
  unfold Obligations.TileTasks
  rintro ⟨-, -, -, hndw, -⟩
  obtain ⟨k, ready, handed, quiet, not⟩ := State.not_goes (s := crowdedHand) (i := .hndw pairArgs) (q := handedNow crowdedHand)
    (by decide +kernel)
  unfold handedNow at handed
  split at handed
  case h_2 => cases handed
  case h_1 p s1 word =>
    split at handed
    case h_2 => cases handed
    case h_1 bs s2 read =>
      simp only [Bool.and_eq_true, decide_eq_true_eq, Bool.not_eq_true'] at handed
      obtain ⟨⟨⟨flight, unqueued⟩, equal⟩, live⟩ := handed
      obtain ⟨t, ht, -, -, goes⟩ := (hndw pairArgs _ k p s1 bs s2 ready flight word unqueued read).1 equal live
      exact not t ht (goes quiet)

end Sys2Proof.Machine
end

section
/-! SUPPORT. Statements that fail where an operation has no meaning, a node lies across two blocks, or a gang has retired already.
Refutes O30, O38, O48. -/

-- One theorem at a time: many at once ask for more threads than the checker has memory for.
set_option Elab.async false

namespace Sys2Proof.Machine

/-! ### SATOM -/

/-- An `SATOM` at the address in v4, its operation 8, which 22 R479 does not assign. -/
def strayAtom : ExtArgs := { pairArgs with md := 8, sc := .sy }

/-- The wave of thread 0, its page replicated, with an aligned address in v4. -/
def loneAtom : State :=
  let s := loneWave (fun t => { t with v := putWords t.v 4 2 0x10000 }) 0
  { s with clusters := s.clusters.map fun e => (e.1, { e.2 with tlb := e.2.tlb.map fun t => { t with leaf := 0x403F } }) }

/-- The state after the translations of an `SATOM`, with what they gave. -/
def atomSpans (f : ExtArgs) (s : State) (k : Who) : Option (List (Nat × DWord × Span) × State) :=
  match spans k.xctx .atomic true false 1 (k.x.active.map fun l => (l, (k.begun (.satom f) s).laneEa k f l)) (k.begun (.satom f) s) with
  | (.all ls, s1) => some (ls, s1)
  | (.stop _, _) => none

/-- The premises of O30 about an `SATOM` that releases nothing. -/
def atomNow (f : ExtArgs) (s : State) (k : Who) : Bool :=
  (k.begun (.satom f) s).strongReady k k.x.active.length && (k.begun (.satom f) s).inFlight = 0 &&
    (atomSpans f s k).any fun e => parksOf e.1 = [] && e.1.all (fun e => decide (e.2.1.toNat % atomBytes f.md.toNat f.ty = 0)) &&
      (e.2.orderFault k (goodSpans e.1)).isNone

/-- No wave has an outstanding result after the instruction. -/
def defersNothing (i : Instr) (s : State) : Bool :=
  match exec i s with
  | .next t => t.waves.all fun e => e.2.loads.isEmpty
  | _ => false

/-- No outstanding result is due where no wave has one. -/
theorem State.not_due_of_empty {t : State} (h : t.waves.all (fun e => e.2.loads.isEmpty) = true) {w id : Nat} {p : Load → Prop} :
    ¬ t.due w id p := by
  rintro ⟨y, ld, wave, look, -⟩
  have empty := List.all_eq_true.1 h _ (Table.mem_of_look wave)
  rw [List.isEmpty_iff.1 empty] at look
  cases look

/-- Refutes O30: an `SATOM` of the operation 8 sends a store, which has no result. -/
theorem not_strongInstructions : ¬ Obligations.StrongInstructions := by
  unfold Obligations.StrongInstructions
  rintro ⟨satom, -⟩
  obtain ⟨k, who, props⟩ := (Option.any_eq_true _ _).1 (show loneAtom.who.any (fun k => k.readyFor loneAtom (.satom strayAtom) &&
    atomNow strayAtom loneAtom k && k.x.clear && !stepsNow loneAtom k (k.x.issuePc.getD 0)) = true by decide +kernel)
  simp only [Bool.and_eq_true, Bool.not_eq_true'] at props
  obtain ⟨⟨⟨ready, now⟩, clear⟩, steps⟩ := props
  obtain ⟨k', ready'⟩ := ready_of_readyFor (s := loneAtom) (i := .satom strayAtom) (by unfold State.readyFor; rw [who]; exact ready)
  obtain rfl : k' = k := Option.some.inj (ready'.who.symm.trans who)
  simp only [atomNow, Bool.and_eq_true, decide_eq_true_eq, Option.any_eq_true, Option.isNone_iff_eq_none] at now
  obtain ⟨⟨strong, flight⟩, ⟨ls, s1⟩, parts, ⟨parks, aligned⟩, ordered⟩ := now
  have translated : Translated strayAtom (k'.begun (.satom strayAtom) loneAtom) k' .atomic true false 1 ls s1 := by
    refine ⟨flight, ?_⟩
    unfold atomSpans at parts
    split at parts
    · next e => cases parts; exact e
    · cases parts
  obtain ⟨t, ht, -, -, due⟩ := satom strayAtom loneAtom k' _ ls s1 ready' rfl strong translated ⟨parks, aligned⟩ ordered
  obtain ⟨-, id, due⟩ := due ⟨clear, steps⟩
  have none : defersNothing (.satom strayAtom) loneAtom = true := by decide +kernel
  simp only [defersNothing, ht] at none
  exact State.not_due_of_empty none due

/-! ### GRAPH_NODE_RETIRE -/

/-- A node whose work has ended, at an address from which its FCODE lies in the next block. -/
def lowNode : GNode := { pa := some 40, buf := 0, kind := 0, work := 0, st := 1, code := 0, succ := [], bad := false, ended := true }

/-- A graph of that node and one that waits. -/
def twoNodes : Graph :=
  { wave := 2, wg := 0, gang := 0, nodes := [lowNode, { lowNode with pa := none, st := 0, ended := false }], queue := [], bar := none, seq := 0
    pc := 0, fault := none, order := 0, noToken := false, page := none, prog := 0, sig := 0 }

/-- The block after the node's holds a byte, and was written under no key. -/
def keylessBlock : State :=
  let s := loneWave id 0
  { (s.modCluster 0 fun c => { c with blockTag := [(1, (0, 0, 0))] }).modCore 0 fun x => { x with graphs := [(0, twoNodes)] } with
    mem := [(100, 1)] }

/-- Refutes O38: where a write of FCODE finds a block without a key, the block's other bytes become 0. -/
theorem not_dependenceGraphs : ¬ Obligations.DependenceGraphs := by
  unfold Obligations.DependenceGraphs
  rintro ⟨-, retire, -⟩
  have free : (keylessBlock.nodesReady 0 0 lowNode.pa.toList).1 = true := by decide +kernel
  have tags : (keylessBlock.nodesReady 0 0 lowNode.pa.toList).2.tagFails (40 / 64 * 64) lowNode.buf = false := by decide +kernel
  obtain ⟨t, ht, -, -, -, bytes⟩ := retire 0 0 0 keylessBlock twoNodes lowNode (keylessBlock.nodesReady 0 0 lowNode.pa.toList).2
    (by decide +kernel) rfl rfl rfl rfl rfl rfl ⟨1, _, by decide, rfl, by decide⟩ (Prod.ext free rfl)
    (fun pa hpa => .inr (by cases hpa; exact tags)) (by decide +kernel)
  have zeroed : (match exec (.graphNodeRetire 0 0 0) keylessBlock with | .next t => decide (t.byte 100 = 0) | _ => false) = true := by decide +kernel
  simp only [ht, decide_eq_true_eq] at zeroed
  have kept := (bytes 40 rfl).2 100 (by decide) (.inr (by decide))
  rw [zeroed] at kept
  exact absurd kept (by decide +kernel)

/-! ### HANDLER_WATCHDOG -/

/-- A wave of a retired gang is in its handler, beyond the limit. -/
def retiredHandler : State :=
  let s := loneWave id 0
  { s with
    waves := s.waves.map fun e => (e.1, { e.2 with handler := some .trap, handlerCount := 65536 })
    gangs := s.gangs.map fun e => (e.1, { e.2 with st := .retired }) }

/-- Refutes O48: a gang that has retired is not killed again. -/
theorem not_trapEvents : ¬ Obligations.TrapEvents := by
  unfold Obligations.TrapEvents
  rintro ⟨-, watchdog, -⟩
  obtain ⟨k, who, props⟩ := (Option.any_eq_true _ _).1 (show (retiredHandler.whoOf 2).any (fun k => k.x.handler.isSome &&
    65536 ≤ k.x.handlerCount && k.g.st ≠ .killed && k.g.fdom = 0 && k.g.wgs.contains k.x.wg && k.wg.waves.contains 2 &&
    match exec (.handlerWatchdog 2) retiredHandler with
    | .next t => (t.gang? k.wg.gang).map Gang.st ≠ some .killed
    | _ => false) = true by decide +kernel)
  simp only [Bool.and_eq_true, decide_eq_true_eq] at props
  obtain ⟨⟨⟨⟨⟨⟨handler, count⟩, st⟩, fdom⟩, wg⟩, wave⟩, out⟩ := props
  obtain ⟨t, ht, -, -, killed, -⟩ := watchdog 2 retiredHandler k who handler count st fdom wg wave
  simp only [ht, decide_eq_true_eq] at out
  exact out killed

end Sys2Proof.Machine
end

section
/-! SUPPORT. What an atomic lane writes for its old value (18 R377), by the order and the sum of the type's numbers. Settles O28. -/

-- One theorem at a time: many at once ask for more threads than the checker has memory for.
set_option Elab.async false

namespace Sys2Proof.Machine

/-- A value of `w` bytes as a number of a signed or an unsigned type. -/
def numOf (signed : Bool) (w x : Nat) : Int := if signed ∧ 2 ^ (8 * w - 1) ≤ x then (x : Int) - 2 ^ (8 * w) else x

/-- The numbers of a signed type differ from the values by a multiple of 2^w. -/
theorem numOf_dvd (signed : Bool) (w x : Nat) : (2 ^ (8 * w) : Int) ∣ x - numOf signed w x := by
  unfold numOf
  split
  · exact ⟨1, by omega⟩
  · exact ⟨0, by omega⟩

/-- `lessAt` is the order of the numbers. -/
theorem lessAt_iff (signed : Bool) (w x y : Nat) : lessAt signed w x y = true ↔ numOf signed w x < numOf signed w y := by
  cases signed
  case false => simp [lessAt, numOf]
  case true =>
    have num (z : Nat) : signedOf w z = numOf true w z := by
      simp only [signedOf, numOf, true_and, ← Nat.not_lt, ite_not]
    simp only [lessAt, if_true, decide_eq_true_eq, num]

/-- The sum modulo 2^w is the sum of the numbers modulo 2^w. -/
theorem numOf_add (signed : Bool) (w x y : Nat) :
    (2 ^ (8 * w) : Int) ∣ numOf signed w ((x + y) % 2 ^ (8 * w)) - (numOf signed w x + numOf signed w y) := by
  have sum : (2 ^ (8 * w) : Int) ∣ (((x + y) % 2 ^ (8 * w) : Nat) : Int) - (x + y) := by
    rw [Int.natCast_emod, ← dvd_neg, neg_sub]
    push_cast
    exact Int.dvd_self_sub_emod
  obtain ⟨i, hi⟩ := sum
  obtain ⟨j, hj⟩ := numOf_dvd signed w ((x + y) % 2 ^ (8 * w))
  obtain ⟨m, hm⟩ := numOf_dvd signed w x
  obtain ⟨n, hn⟩ := numOf_dvd signed w y
  exact ⟨i - j + m + n, by linear_combination hi - hj + hm + hn⟩

/-- The lesser by `lessAt` is the least number. -/
theorem numOf_lesser (signed : Bool) (w x y : Nat) :
    numOf signed w (if lessAt signed w y x then y else x) = min (numOf signed w x) (numOf signed w y) := by
  by_cases h : numOf signed w y < numOf signed w x
  · rw [if_pos ((lessAt_iff ..).2 h), min_eq_right h.le]
  · rw [if_neg (mt (lessAt_iff ..).1 h), min_eq_left (not_lt.1 h)]

/-- The greater by `lessAt` is the greatest number. -/
theorem numOf_greater (signed : Bool) (w x y : Nat) :
    numOf signed w (if lessAt signed w x y then y else x) = max (numOf signed w x) (numOf signed w y) := by
  by_cases h : numOf signed w x < numOf signed w y
  · rw [if_pos ((lessAt_iff ..).2 h), max_eq_right h.le]
  · rw [if_neg (mt (lessAt_iff ..).1 h), max_eq_left (not_lt.1 h)]

/-- Settles O28, by the operations of 18 Table 18.2. -/
theorem atomicResults : Obligations.AtomicResults := by
  unfold Obligations.AtomicResults
  intro a old hold _ hb hc hmd num
  have hnum (x : Nat) : num x = numOf a.ty.signed a.width x := rfl
  obtain ⟨lane, pa, width, md, ty, rm, nan, b, c⟩ := a
  simp only at hold hb hc hmd hnum ⊢
  have whole : md ≠ foldMd := by unfold foldMd; omega
  have between {p : Prop} [Decidable p] : (if p then b.toNat else old) < 2 ^ (8 * width) := by split <;> assumption
  simp only [AtomLane.modify, if_neg whole, Nat.mod_eq_of_lt hb, Nat.mod_eq_of_lt hc, hnum]
  interval_cases md
  · exact ⟨_, rfl, Nat.mod_lt _ (Nat.two_pow_pos _), numOf_add ..⟩
  · exact ⟨_, rfl, between, numOf_lesser ..⟩
  · exact ⟨_, rfl, between, numOf_greater ..⟩
  · exact ⟨_, rfl, fun j => Nat.testBit_and ..⟩
  · exact ⟨_, rfl, fun j => Nat.testBit_or ..⟩
  · exact ⟨_, rfl, fun j => by rw [Nat.testBit_xor]⟩
  · rfl
  · exact ⟨fun h => if_pos h, fun h => if_neg h⟩

end Sys2Proof.Machine
end

section
/-! SUPPORT. What holds a program's data (registers, memory, replicas, scratchpads, slots), seen through one observer: the operations of
events that leave it. -/

-- One theorem at a time: many at once ask for more threads than the checker has memory for.
set_option Elab.async false

namespace Sys2Proof.Machine

/-! ### The observer -/

/-- Registers of a wave, memory, a core's scratchpad with its line bits, a cluster's slots, a chip's replica. -/
structure Kept where
  threads : Option (List ThreadData)
  mem : Memory
  scratch : Memory
  lines : BitVec 4096
  oslots : Table OSlot
  aslots : Table ASlot
  replica : Memory

def State.kept (s : State) (v c k h : Nat) : Kept :=
  { threads := (s.wave? v).map Wave.datas, mem := s.mem, scratch := (s.core c).scratch, lines := (s.core c).lines
    oslots := (s.cluster k).oslots, aslots := (s.cluster k).aslots, replica := (s.repl h).replica }

/-- Every program's data is as it was. -/
def State.Keeps (s t : State) : Prop := ∀ v c k h, t.kept v c k h = s.kept v c k h

theorem State.Keeps.sameThreads {s t : State} (h : s.Keeps t) : s.SameThreads t := fun v l =>
  .of_data (State.lane_data (congrArg Kept.threads (h v 0 0 0)) l)

theorem State.Keeps.sameStore {s t : State} (h : s.Keeps t) : s.SameStore t where
  mem a := congrArg (fun o : Kept => Memory.read o.mem a) (h 0 0 0 0)
  repl c a := congrArg (fun o : Kept => Memory.read o.replica a) (h 0 0 0 c)
  scratch c a := congrArg (fun o : Kept => Memory.read o.scratch a) (h 0 c 0 0)
  lines c := congrArg (fun o : Kept => o.lines) (h 0 c 0 0)
  oslots c := congrArg (fun o : Kept => o.oslots) (h 0 0 c 0)
  aslots c := congrArg (fun o : Kept => o.aslots) (h 0 0 c 0)

theorem State.Keeps.trans {s t u : State} (a : s.Keeps t) (b : t.Keeps u) : s.Keeps u :=
  fun v c k h => (b v c k h).trans (a v c k h)

/-- The part of what is observed through `State.obs`. -/
def Obs.kept (o : Obs) : Kept :=
  { threads := o.threads, mem := o.mem, scratch := o.core.scratch, lines := o.core.lines, oslots := o.cluster.oslots
    aslots := o.cluster.aslots, replica := o.chip.repl.replica }

theorem State.Keeps.of_obs {s t : State} (h : ∀ v c k h, t.obs v c k h = s.obs v c k h) : s.Keeps t := fun v c k i =>
  congrArg Obs.kept (h v c k i)

/-- An event that leaves every program's data happens. -/
theorem happens_of_keeps {i : Instr} {s t : State} {p : State → Prop} (he : exec i s = .next t) (hk : s.Keeps t)
    (hp : s.SameStore t → p t) : Happens i s p := ⟨t, he, hk.sameThreads, hp hk.sameStore⟩

/-- An event that has no effect happens. -/
theorem happens_same {i : Instr} {s : State} (he : exec i s = .next s) : Happens i s fun t => t = s :=
  ⟨s, he, fun _ _ => .of_data rfl, rfl⟩

/-! ### Updates of a part -/

variable {v c k h : Nat}

@[simp] theorem State.kept_setChip {s : State} {i : Nat} {x : Chip} (hf : x.repl.replica = (s.chip i).repl.replica) :
    (s.setChip i x).kept v c k h = s.kept v c k h := by
  simp only [State.kept, State.repl, State.chip_setChip]
  split
  · next e => rw [hf, e]; rfl
  · rfl

@[simp] theorem State.kept_modChip {s : State} {i : Nat} {f : Chip → Chip} (hf : ∀ x, (f x).repl.replica = x.repl.replica) :
    (s.modChip i f).kept v c k h = s.kept v c k h := State.kept_setChip (hf _)

@[simp] theorem State.kept_modRepl {s : State} {i : Nat} {f : Repl → Repl} (hf : ∀ x, (f x).replica = x.replica) :
    (s.modRepl i f).kept v c k h = s.kept v c k h := State.kept_modChip fun _ => hf _

@[simp] theorem State.kept_setCluster {s : State} {i : Nat} {x : Cluster} (ho : x.oslots = (s.cluster i).oslots)
    (ha : x.aslots = (s.cluster i).aslots) : (s.setCluster i x).kept v c k h = s.kept v c k h := by
  simp only [State.kept, State.cluster_setCluster]
  split
  · next e => rw [ho, ha, e]; rfl
  · rfl

@[simp] theorem State.kept_modCluster {s : State} {i : Nat} {f : Cluster → Cluster} (ho : ∀ x, (f x).oslots = x.oslots)
    (ha : ∀ x, (f x).aslots = x.aslots) : (s.modCluster i f).kept v c k h = s.kept v c k h := State.kept_setCluster (ho _) (ha _)

@[simp] theorem State.kept_setCore {s : State} {i : Nat} {x : Core} (hs : x.scratch = (s.core i).scratch)
    (hl : x.lines = (s.core i).lines) : (s.setCore i x).kept v c k h = s.kept v c k h := by
  simp only [State.kept, State.core_setCore]
  split
  · next e => rw [hs, hl, e]; rfl
  · rfl

@[simp] theorem State.kept_modCore {s : State} {i : Nat} {f : Core → Core} (hs : ∀ x, (f x).scratch = x.scratch)
    (hl : ∀ x, (f x).lines = x.lines) : (s.modCore i f).kept v c k h = s.kept v c k h := State.kept_setCore (hs _) (hl _)

@[simp] theorem State.kept_modWave {s : State} {i : Nat} {f : Wave → Wave} (hf : ∀ x, (f x).datas = x.datas) :
    (s.modWave i f).kept v c k h = s.kept v c k h := by
  have map (o : Option Wave) : (o.map f).map Wave.datas = o.map Wave.datas := by
    rw [Option.map_map]; exact congrArg (Option.map · o) (funext hf)
  simp only [State.kept, State.wave?_modWave]
  split
  · next e => rw [e, map]; rfl
  · rfl

@[simp] theorem State.kept_modWg (s : State) (i : Nat) (f : Workgroup → Workgroup) : (s.modWg i f).kept v c k h = s.kept v c k h := rfl

@[simp] theorem State.kept_modGang (s : State) (i : Nat) (f : Gang → Gang) : (s.modGang i f).kept v c k h = s.kept v c k h := rfl

@[simp] theorem State.kept_post (s : State) (e : Event) : (s.post e).kept v c k h = s.kept v c k h := rfl

@[simp] theorem State.kept_postOnce (s : State) (e : Event) : (s.postOnce e).kept v c k h = s.kept v c k h := by
  unfold State.postOnce; split <;> rfl

@[simp] theorem State.kept_note (s : State) (i n : Nat) (as : List Nat) : (s.note i n as).kept v c k h = s.kept v c k h :=
  State.kept_modChip fun _ => rfl

@[simp] theorem State.kept_useFree (s : State) : s.useFree.kept v c k h = s.kept v c k h := rfl

/-- A fold of operations that leave an observation leaves it. -/
theorem foldl_eq {α β : Type} {o : State → β} {g : State → α → State} (l : List α) (s : State) (hg : ∀ s, ∀ a ∈ l, o (g s a) = o s) :
    o (l.foldl g s) = o s := by
  induction l generalizing s with
  | nil => rfl
  | cons a r ih => rw [List.foldl_cons, ih _ fun s b hb => hg s b (List.mem_cons_of_mem _ hb), hg s a (List.mem_cons_self ..)]

/-! ### Messages -/

@[simp] theorem State.kept_send (s : State) (a b : Nat) (m : Msg) : (s.send a b m).kept v c k h = s.kept v c k h := by
  unfold State.send; split <;> rfl

@[simp] theorem State.kept_sendAll (s : State) (a : Nat) (m : Msg) : (s.sendAll a m).kept v c k h = s.kept v c k h :=
  foldl_eq (o := fun s => s.kept v c k h) _ _ fun _ _ _ => State.kept_send ..

@[simp] theorem State.chip_send (s : State) (a b : Nat) (m : Msg) (d : Nat) : (s.send a b m).chip d = s.chip d := by
  unfold State.send; split <;> rfl

@[simp] theorem State.chip_sendAll (s : State) (a : Nat) (m : Msg) (d : Nat) : (s.sendAll a m).chip d = s.chip d :=
  foldl_eq (o := fun s => s.chip d) _ _ fun _ _ _ => State.chip_send ..

@[simp] theorem State.repl_sendAll (s : State) (a : Nat) (m : Msg) (d : Nat) : (s.sendAll a m).repl d = s.repl d :=
  congrArg Chip.repl (State.chip_sendAll ..)

@[simp] theorem State.kept_sendReq (s : State) (i : Nat) (q : Req) (f : ReqFor) : (s.sendReq i q f).kept v c k h = s.kept v c k h := by
  simp [State.sendReq]

/-! ### One change made on several chips -/

/-- The same change, made once and for all, of each chip of a list. -/
theorem chip_foldl {f : Chip → Chip} (idem : ∀ x, f (f x) = f x) {g : State → Nat → State}
    (hg : ∀ s m d, (g s m).chip d = if d = m then f (s.chip m) else s.chip d) (ms : List Nat) (s : State) (d : Nat) :
    (ms.foldl g s).chip d = if d ∈ ms then f (s.chip d) else s.chip d := by
  induction ms generalizing s with
  | nil => rfl
  | cons m r ih =>
    rw [List.foldl_cons, ih, hg]
    by_cases dm : d = m
    · subst dm
      simp [idem]
    · simp [dm]

/-- An event put on the agenda is there. -/
theorem State.mem_agenda_postOnce (s : State) (e : Event) : e ∈ (s.postOnce e).agenda := by
  unfold State.postOnce
  split
  · next h => exact List.contains_iff_mem.1 h
  · exact List.mem_append_right _ (List.mem_singleton.2 rfl)

end Sys2Proof.Machine
end

section
/-! SUPPORT. Registers with a behaviour of their own, and the register window (17 R361 to R367; 10 R234, R235). Settles O53. -/

-- One theorem at a time: many at once ask for more threads than the checker has memory for.
set_option Elab.async false

namespace Sys2Proof.Machine

/-! ### A write of one chip's registers -/

/-- A write that changes one chip, its replica not. -/
theorem happens_modChip {i : Instr} {s : State} {c : Nat} {f : Chip → Chip} {p : State → Prop} (he : exec i s = .next (s.modChip c f))
    (hf : ∀ x, (f x).repl.replica = x.repl.replica) (hp : p (s.modChip c f)) :
    Happens i s fun t => s.SameStore t ∧ (∀ d, d ≠ c → t.chip d = s.chip d) ∧ p t :=
  happens_of_keeps he (fun _ _ _ _ => State.kept_modChip hf) fun store => ⟨store, fun d hd => by simp [hd], hp⟩

/-- The chip that was changed. -/
@[simp] theorem State.chip_modChip_self (s : State) (c : Nat) (f : Chip → Chip) : (s.modChip c f).chip c = f (s.chip c) := by simp

@[simp] theorem State.repl_modChip_self (s : State) (c : Nat) (f : Chip → Chip) : (s.modChip c f).repl c = (f (s.chip c)).repl :=
  congrArg Chip.repl (State.chip_modChip_self ..)

@[simp] theorem State.chip_modSys (s : State) (c d : Nat) (f : SysRegs → SysRegs) :
    (s.modSys c f).chip d = if d = c then { s.chip c with sys := f (s.chip c).sys } else s.chip d := State.chip_modChip ..

@[simp] theorem State.kept_modSys (s : State) (i : Nat) (f : SysRegs → SysRegs) {v c k h : Nat} :
    (s.modSys i f).kept v c k h = s.kept v c k h := State.kept_modChip fun _ => rfl

@[simp] theorem State.repl_modSys (s : State) (c d : Nat) (f : SysRegs → SysRegs) : (s.modSys c f).repl d = s.repl d := by
  simp only [State.repl, State.chip_modSys]
  split
  · next e => rw [e]
  · rfl

/-- The replication units after the same change of each chip of a list. -/
theorem repl_foldl_modRepl {f : Repl → Repl} (idem : ∀ r, f (f r) = f r) (ms : List Nat) (s : State) (d : Nat) :
    (ms.foldl (fun s m => s.modRepl m f) s).repl d = if d ∈ ms then f (s.repl d) else s.repl d := by
  have chip := chip_foldl (f := fun x => { x with repl := f x.repl }) (fun x => by simp only [idem])
    (g := fun s m => s.modRepl m f) (fun s m d => State.chip_modChip s m d _) ms s d
  refine (congrArg Chip.repl chip).trans ?_
  split <;> rfl

/-- The registers of Table 17.3 after the same change of each chip of a list. -/
theorem sys_foldl {f : SysRegs → SysRegs} (idem : ∀ y, f (f y) = f y) {g : State → Nat → State}
    (hg : ∀ s m d, (g s m).chip d = (s.modSys m f).chip d) (ms : List Nat) (s : State) (d : Nat) :
    ((ms.foldl g s).chip d).sys = if d ∈ ms then f (s.chip d).sys else (s.chip d).sys := by
  have chip := chip_foldl (f := fun x => { x with sys := f x.sys }) (fun x => by simp only [idem])
    (fun s m d => (hg s m d).trans (State.chip_modSys ..)) ms s d
  refine (congrArg Chip.sys chip).trans ?_
  split <;> rfl

/-! ### A write on every member -/

/-- No region of a member is active. -/
theorem anyActive_eq_false (s : State) : s.anyActive = false ↔
    ∀ c ∈ (s.repl s.lowRank).members, ∀ r ∈ s.regions c, s.regionState c r ≠ 1 := by
  simp [State.anyActive]

theorem writeEvery_of_still {s : State} {c : Nat} (powered : (s.chip c).powered = true) (still : s.anyActive = false)
    (f : State → Nat → State) : s.writeEvery c f = (s.repl s.lowRank).members.foldl f s := by
  simp [State.writeEvery, powered, still]

theorem writeEvery_of_not {s : State} {c : Nat} (h : ¬ s.anyActive = false ∨ (s.chip c).powered = false) (f : State → Nat → State) :
    s.writeEvery c f = s := by
  unfold State.writeEvery
  rcases h with h | h <;> simp [h]

/-- RSEGSZ as it is stored. -/
theorem rsegsz_eq (n : Nat) : max 1 (min 32 n) = if n = 0 then 1 else if 32 < n then 32 else n := by
  split <;> [skip; split] <;> omega

theorem rsegszWrite_every (c : Nat) (v : DWord) (s : State) (powered : (s.chip c).powered = true) (still : s.anyActive = false) :
    Happens (.rsegszWrite c v) s fun t => s.SameStore t ∧ ∀ m, (t.repl m).rsegsz = if m ∈ (s.repl s.lowRank).members then
      (if v.toNat % 64 = 0 then 1 else if 32 < v.toNat % 64 then 32 else v.toNat % 64) else (s.repl m).rsegsz := by
  refine happens_of_keeps (t := (s.repl s.lowRank).members.foldl (fun s m => s.modRepl m fun r => { r with rsegsz := max 1 (min 32 (v.toNat % 64)) }) s)
    (congrArg Host.Outcome.next (writeEvery_of_still powered still _))
    (fun a b d e => foldl_eq (o := fun s => s.kept a b d e) _ _ fun _ _ _ => State.kept_modRepl fun _ => rfl) fun store => ⟨store, fun m => ?_⟩
  rw [← rsegsz_eq]
  refine (congrArg Repl.rsegsz (repl_foldl_modRepl (f := fun r => { r with rsegsz := max 1 (min 32 (v.toNat % 64)) })
    (fun _ => rfl) _ s m)).trans ?_
  split <;> rfl

/-- An event of the agenda stays there while more are put on it. -/
theorem mem_agenda_foldl {α : Type} {g : State → α → State} {e : Event} (hg : ∀ s a, e ∈ s.agenda → e ∈ (g s a).agenda) (l : List α)
    (s : State) (h : e ∈ s.agenda) : e ∈ (l.foldl g s).agenda := by
  induction l generalizing s with
  | nil => exact h
  | cons a r ih => exact ih _ (hg s a h)

/-- Each element of a list puts its event on the agenda. -/
theorem mem_agenda_foldl_of_mem {α : Type} {g : State → α → State} {e : α → Event} (hg : ∀ s a d, d ∈ s.agenda → d ∈ (g s a).agenda)
    (he : ∀ s a, e a ∈ (g s a).agenda) (l : List α) (s : State) : ∀ a ∈ l, e a ∈ (l.foldl g s).agenda := by
  induction l generalizing s with
  | nil => exact fun _ h => absurd h List.not_mem_nil
  | cons b r ih =>
    intro a ha
    rcases List.mem_cons.1 ha with rfl | hr
    · exact mem_agenda_foldl (fun s d => hg s d _) r _ (he s a)
    · exact ih _ a hr

theorem rootrcbWrite_every (c : Nat) (v : DWord) (s : State) (powered : (s.chip c).powered = true) (still : s.anyActive = false) :
    Happens (.rootrcbWrite c v) s fun t => s.SameStore t ∧
      (∀ m, (t.chip m).sys.rootrcb = if m ∈ (s.repl s.lowRank).members then v.toNat % 2 ^ 35 else (s.chip m).sys.rootrcb) ∧
      ∀ m ∈ (s.repl s.lowRank).members, .campionPlacement m ∈ t.agenda := by
  refine happens_of_keeps (t := (s.repl s.lowRank).members.foldl (fun s m =>
      (s.modSys m fun y => { y with rootrcb := v.toNat % 2 ^ 35 }).postOnce (.campionPlacement m)) s)
    (congrArg Host.Outcome.next (writeEvery_of_still powered still _))
    (fun a b d e => foldl_eq (o := fun s => s.kept a b d e) _ _ fun _ _ _ => by simp) fun store => ⟨store, fun m => ?_, ?_⟩
  · refine (congrArg SysRegs.rootrcb (sys_foldl (f := fun y => { y with rootrcb := v.toNat % 2 ^ 35 }) (fun _ => rfl)
      (fun s m d => State.chip_postOnce_frame ..) _ s m)).trans ?_
    split <;> rfl
  · exact mem_agenda_foldl_of_mem (g := fun s m => (s.modSys m fun y => { y with rootrcb := v.toNat % 2 ^ 35 }).postOnce (.campionPlacement m))
      (e := fun m => .campionPlacement m) (fun s a d h => State.mem_postOnce h)
      (fun s a => State.mem_agenda_postOnce ..) _ _

/-! ### The mailbox -/

/-- The request that the mailbox sends joins those pending. -/
theorem repl_sendReq (s : State) (c : Nat) (q : Req) (f : ReqFor) : (s.sendReq c q f).repl c =
    let r := s.repl c
    let q := { q with rank := c, rq := r.rqcnt, vec := r.applied }
    { r with rqcnt := (r.rqcnt + 1) % 2 ^ 32, pending := r.pending ++ [q], sent := r.sent ++ [q]
             outstanding := Table.put r.outstanding q.rq f } := by
  simp [State.sendReq]

theorem sys_sendReq (s : State) (c : Nat) (q : Req) (f : ReqFor) (d : Nat) : ((s.sendReq c q f).chip d).sys = (s.chip d).sys := by
  simp only [State.sendReq, State.chip_postOnce_frame, State.chip_sendAll, State.modRepl, State.chip_modChip]
  split
  · next e => rw [e]
  · rfl

theorem hsgoWrite_sends (c : Nat) (v : DWord) (s : State) (q : Req) (up : s.cxlUp c = true) (go : v.getLsbD 0 = true)
    (idle : (s.chip c).sys.hsstat ≠ 1) (req : s.mailboxReq c = some q) (writes : (s.chip c).hostWrites = []) (vst : (s.repl c).vst = .normal)
    (room : (s.repl c).outstanding.length < 512) : Happens (.hsgoWrite c v) s fun t => s.SameStore t ∧ (t.chip c).sys.hsstat = 1 ∧
      .colGrant c ∈ t.agenda ∧ Table.look (t.repl c).outstanding (s.repl c).rqcnt = some .host ∧
      (t.repl c).pending = (s.repl c).pending ++ [{ q with rank := c, rq := (s.repl c).rqcnt, vec := (s.repl c).applied }] := by
  refine happens_of_keeps (t := (s.modSys c fun y => { y with hsstat := 1 }).sendReq c q .host) ?_ ?_ ?_
  · show execHsgoWrite c v s = _
    have open' : ¬ 512 ≤ (s.repl c).outstanding.length := by omega
    simp [execHsgoWrite, up, go, idle, req, writes, vst, open', State.modSys]
  · exact fun a b d e => by simp
  · intro store
    refine ⟨store, by simp [sys_sendReq], State.mem_agenda_postOnce .., ?_, ?_⟩
    · simp [repl_sendReq]
    · simp [repl_sendReq]

theorem hsgoWrite_refused (c : Nat) (v : DWord) (s : State) (up : s.cxlUp c = true) (go : v.getLsbD 0 = true)
    (idle : (s.chip c).sys.hsstat ≠ 1) (req : s.mailboxReq c = none) :
    Happens (.hsgoWrite c v) s fun t => s.SameStore t ∧ (t.chip c).sys.hsstat = 3 := by
  refine happens_of_keeps (t := s.modChip c fun c => { c with sys := { c.sys with hsstat := 3 } }) ?_
    (fun a b d e => by simp) fun store => ⟨store, by simp⟩
  show execHsgoWrite c v s = _
  simp [execHsgoWrite, up, go, idle, req]

/-! ### Keys -/

/-- Of two entries put under a key the second stays. -/
theorem Table.put_put {α : Type} (t : Table α) (n : Nat) (x y : α) : Table.put (Table.put t n x) n y = Table.put t n y := by
  induction t with
  | nil => simp [Table.put]
  | cons e r ih =>
    obtain ⟨k, v⟩ := e
    by_cases below : n < k
    · simp [Table.put, below]
    · by_cases at' : n = k
      · simp [Table.put, at']
      · simp [Table.put, below, at', ih]

/-- Every present chip takes the key. -/
theorem chip_setKey (s : State) (i g d : Nat) (hd : d < 8) (here : s.chipExists d = true) :
    ((s.setKey i g).chip d).keys = Table.put (s.chip d).keys i g := by
  have chip := chip_foldl (f := fun x => { x with keys := Table.put x.keys i g }) (fun x => by simp [Table.put_put])
    (g := fun s c => s.modChip c fun x => { x with keys := Table.put x.keys i g })
    (fun s m d => State.chip_modChip s m d _) ((List.range 8).filter s.chipExists) s d
  refine (congrArg Chip.keys chip).trans ?_
  rw [if_pos (List.mem_filter.2 ⟨List.mem_range.2 hd, here⟩)]

/-- A key command of a KEYID above 0 gives that KEYID a key, or none, on every present chip. -/
theorem key_setKey (s : State) (i g d k : Nat) (hd : d < 8) (here : s.chipExists d = true) :
    Table.at ((s.setKey i g).chip d).keys k 0 = if k = i then g else Table.at (s.chip d).keys k 0 := by
  rw [chip_setKey s i g d hd here, Table.at_put]

@[simp] theorem State.kept_setKey (s : State) (i g : Nat) {v c k h : Nat} : (s.setKey i g).kept v c k h = s.kept v c k h :=
  foldl_eq (o := fun s => s.kept v c k h) _ _ fun _ _ _ => State.kept_modChip fun _ => rfl

/-- KEYID of a key command. -/
theorem keyId_eq (v : DWord) : keyId v = v.toNat / 2 ^ 8 % 2 ^ 8 := by
  simp [keyId, BitVec.extractLsb'_toNat, Nat.shiftRight_eq_div_pow]

/-- A key command that has no effect is logged. -/
theorem happens_logged {i : Instr} {s : State} {c : Nat} {v : DWord} (he : exec i s = .next (s.note c 0x362 [v.toNat])) :
    Happens i s fun t => s.SameStore t ∧ s.SameChips t ∧ (t.chip c).hk = (s.chip c).hk ++ [{ what := 0x362, args := [v.toNat] }] :=
  happens_of_keeps he (fun _ _ _ _ => State.kept_note ..) fun store =>
    ⟨store, State.sameChips_of_obs fun _ _ _ _ => State.obs_note .., by simp [State.note]⟩

/-! ### Clocks -/

/-- Every member's registers of Table 17.3 change alike. -/
theorem happens_members {i : Instr} {s : State} {c : Nat} {f : SysRegs → SysRegs} (idem : ∀ y, f (f y) = f y)
    (he : exec i s = .next ((s.repl c).members.foldl (fun s m => s.modSys m f) s)) : Happens i s fun t => s.SameStore t ∧
      ∀ m, (t.chip m).sys = if m ∈ (s.repl c).members then f (s.chip m).sys else (s.chip m).sys :=
  happens_of_keeps he (fun a b d e => foldl_eq (o := fun s => s.kept a b d e) _ _ fun _ _ _ => State.kept_modSys ..)
    fun store => ⟨store, fun m => sys_foldl idem (fun _ _ _ => rfl) _ s m⟩

theorem coreClockStep_moves (c n : Nat) (s : State) (free : (s.chip c).sys.fixclk = false) (pos : 0 < n) (le : n ≤ 24)
    (near : (s.chip c).sys.clkmhz = 25 * n + 25 ∨ (s.chip c).sys.clkmhz = 25 * n ∨ (s.chip c).sys.clkmhz + 25 = 25 * n) :
    exec (.coreClockStep c (25 * n)) s = .next (s.modSys c fun y => { y with clkmhz := 25 * n }) := by
  show execCoreClockStep c (25 * n) s = _
  have step : ¬ 25 < max (25 * n - (s.chip c).sys.clkmhz) ((s.chip c).sys.clkmhz - 25 * n) := by omega
  have below : ¬ 600 < 25 * n := by omega
  have whole : (600 - 25 * n) % 25 = 0 := by omega
  have some' : ¬ 25 * n = 0 := by omega
  simp only [execCoreClockStep, free, below, whole, some', step]
  rfl

/-! ### The register window -/

/-- The registers that a write leaves alone. -/
theorem registerWrite_ignored (c o : Nat) (v : DWord) (s : State)
    (h : o ∈ [0x0, 0x128, 0x200, 0x10008, 0x30038, 0x30040, 0x40000, 0x40008, 0x40040, 0x40080, 0x50018, 0x80000]) :
    exec (.registerWrite c o v) s = .next s := by
  simp only [List.mem_cons, List.not_mem_nil, or_false] at h
  rcases h with rfl | rfl | rfl | rfl | rfl | rfl | rfl | rfl | rfl | rfl | rfl | rfl <;> rfl

/-- The registers that read as 0. -/
theorem regRead_zero (c o : Nat) (s : State) (h : o ∈ [0x100, 0x120, 0x400, 0x20000, 0x30030, 0x40038, 0x50028]) : s.regRead c o = 0 := by
  simp only [List.mem_cons, List.not_mem_nil, or_false] at h
  rcases h with rfl | rfl | rfl | rfl | rfl | rfl | rfl <;> rfl

end Sys2Proof.Machine
end

section
/-! SUPPORT. O53 from the lemmas about each register. -/

-- One theorem at a time: many at once ask for more threads than the checker has memory for.
set_option Elab.async false

namespace Sys2Proof.Machine

/-- A value of at most 64 bits. -/
theorem toNat_ofNat_mod {n : Nat} (v : Nat) (h : n ≤ 64) : (BitVec.ofNat 64 (v % 2 ^ n)).toNat = v % 2 ^ n := by
  rw [BitVec.toNat_ofNat]
  exact Nat.mod_eq_of_lt ((Nat.mod_lt _ (Nat.two_pow_pos n)).trans_le (Nat.pow_le_pow_right (by decide) h))

/-- The value of a register of at most 64 bits, as it is read. -/
theorem toNat_regBits {n : Nat} (v : Nat) (h : n ≤ 64) : (BitVec.ofNat 64 (regBits v 0 n)).toNat = v % 2 ^ n := by
  rw [regBits, Nat.pow_zero, Nat.mul_one]
  exact toNat_ofNat_mod v h

/-- A register of one bit, as it is read. -/
theorem getLsbD_flag (b : Bool) (i : Nat) : (BitVec.ofNat 64 b.toNat).getLsbD i = (decide (i = 0) && b) := by
  rcases i with _ | i <;> cases b <;> simp

/-- Bits 1 to 4 of REVT, as they are read. -/
theorem getLsbD_revt (r : BitVec 5) (i : Nat) :
    (BitVec.ofNat 64 (regBits (r.toNat / 2) 1 4)).getLsbD i = (decide (1 ≤ i ∧ i < 5) && r.getLsbD i) := by
  rw [BitVec.getLsbD_ofNat, regBits, Nat.testBit_mul_two_pow, Nat.testBit_mod_two_pow, ← Nat.pow_one 2, ← Nat.shiftRight_eq_div_pow,
    Nat.testBit_shiftRight, BitVec.testBit_toNat]
  by_cases low : 1 ≤ i
  · rw [show 1 + (i - 1) = i by omega]
    by_cases high : i < 5
    · simp [low, high, show i < 64 by omega, show i - 1 < 4 by omega]
    · simp [high, BitVec.getLsbD_of_ge r i (by omega)]
  · simp [low]

/-- A write of the register window changes one chip's registers of Table 17.3. -/
theorem writes_modSys (f : SysRegs → SysRegs) {c o : Nat} {v : DWord} {s : State} {p : State → Prop}
    (he : exec (.registerWrite c o v) s = .next (s.modSys c f)) (hp : p (s.modSys c f)) :
    Happens (.registerWrite c o v) s fun t => s.SameStore t ∧ (∀ d, d ≠ c → t.chip d = s.chip d) ∧ p t :=
  happens_modChip he (fun _ => rfl) hp

/-- The registers of Table 17.3 that were changed. -/
theorem sys_modSys (s : State) (c : Nat) (f : SysRegs → SysRegs) : ((s.modSys c f).chip c).sys = f (s.chip c).sys := by simp

/-- A write of the register window changes one chip's debug registers. -/
theorem writes_modDbg (f : DebugRegs → DebugRegs) {c o : Nat} {v : DWord} {s : State} {p : State → Prop}
    (he : exec (.registerWrite c o v) s = .next (s.modDbg c f)) (hp : p (s.modDbg c f)) :
    Happens (.registerWrite c o v) s fun t => s.SameStore t ∧ (∀ d, d ≠ c → t.chip d = s.chip d) ∧ p t :=
  happens_modChip he (fun _ => rfl) hp

theorem dbg_modDbg (s : State) (c : Nat) (f : DebugRegs → DebugRegs) : ((s.modDbg c f).chip c).dbg = f (s.chip c).dbg := by
  simp [State.modDbg]

/-- A write of a register of the host port, on a chip that carries one. -/
theorem sysWrite_cxl {s : State} {c : Nat} (even : c % 2 = 0) (f : SysRegs → SysRegs) :
    (if c % 2 = 0 then s.modSys c f else s) = s.modSys c f := if_pos even

/-- The report that stands in AREP. -/
theorem attestReportReady_reports (c : Nat) (s : State) (busy : (s.chip c).sys.astat = 1) :
    exec (.attestReportReady c) s = .next (s.modSys c fun y => { y with astat := 2, arep := s.report c }) := by
  show execAttestReportReady c s = _
  simp [execAttestReportReady, busy]

/-- A request for a report. -/
theorem areqWrite_starts (c : Nat) (v : DWord) (s : State) (go : v.getLsbD 0 = true) (idle : (s.chip c).sys.astat ≠ 1) :
    exec (.areqWrite c v) s = .next ((s.modSys c fun y => { y with astat := 1 }).postOnce (.attestReportReady c)) := by
  show execAreqWrite c v s = _
  simp [execAreqWrite, go, idle]

/-- Settles O53, register by register. -/
theorem registerWindows : Obligations.RegisterWindows := by
  unfold Obligations.RegisterWindows
  intro sys same still key id
  have hstill (s : State) : still s ↔ s.anyActive = false := (anyActive_eq_false s).symm
  refine ⟨fun c v s => happens_modChip rfl (fun _ => rfl) (by simp), fun c v s => happens_modChip rfl (fun _ => rfl) ?_,
    fun c v s => happens_modChip rfl (fun _ => rfl) ?_, fun c v s powered st => rsegszWrite_every c v s powered ((hstill s).1 st),
    fun c v s powered st => rootrcbWrite_every c v s powered ((hstill s).1 st), fun c v s h => ?_,
    fun c v s => happens_modChip rfl (fun _ => rfl) ?_, fun c v s h => happens_same ?_, fun c v s => hsgoWrite_refused c v s,
    fun c v s q => hsgoWrite_sends c v s q, fun c v s h => happens_same ?_, fun c v s go idle => ?_, fun c s busy => ?_,
    fun c v s hid => ?_, fun c v s hid => ?_, fun c v s => ?_,
    fun c s => happens_members (f := fun y => { y with fixclk := true, clkmhz := 540 }) (fun _ => rfl) rfl,
    fun c s => happens_members (f := fun y => { y with fixclk := false }) (fun _ => rfl) rfl, fun c s fix => happens_same ?_,
    fun c n s free pos le near => happens_modChip (coreClockStep_moves c n s free pos le near) (fun _ => rfl) ?_,
    fun c v s => ⟨rfl, ?_, ?_, ?_, ?_, rfl, rfl, rfl, rfl, rfl, rfl, rfl, rfl, rfl, rfl, rfl⟩,
    fun c o v s h => happens_same (registerWrite_ignored c o v s h), fun c v s => ?_, regRead_zero, fun c s => ?_⟩
  case refine_1 => simp only [State.repl_modChip_self]; split <;> omega
  case refine_2 => simp only [State.repl_modChip_self]; split <;> omega
  case refine_3 =>
    have not := writeEvery_of_not (s := s) (c := c) (h.imp_left fun n => mt (hstill s).2 n)
    exact ⟨happens_same (congrArg Host.Outcome.next (not _)), happens_same (congrArg Host.Outcome.next (not _))⟩
  case refine_4 => intro i hi; simp [hi]
  case refine_5 => show execHsgoWrite c v s = _; rcases h with h | h | h <;> simp_all [execHsgoWrite, sys]
  case refine_6 => show execAreqWrite c v s = _; rcases h with h | h <;> simp_all [execAreqWrite, sys]
  case refine_7 =>
    exact happens_of_keeps (areqWrite_starts c v s go idle) (fun _ _ _ _ => by simp) fun store =>
      ⟨store, fun d hd => by simp [hd], by simp [sys], State.mem_agenda_postOnce ..⟩
  case refine_8 =>
    refine happens_modChip (attestReportReady_reports c s busy) (fun _ => rfl) ⟨?_, ?_⟩
    · simp [sys]
    · simp [sys, State.report, State.reportBody]
  case refine_9 =>
    refine happens_of_keeps (t := (s.setKey (keyId v) (s.free + 2)).useFree) ?_ (fun _ _ _ _ => by simp) fun store =>
      ⟨store, s.free + 2, by omega, fun d hd here k => (key_setKey s _ _ d k hd here).trans (by rw [keyId_eq])⟩
    exact congrArg Host.Outcome.next (if_neg (by rw [keyId_eq]; exact hid))
  case refine_10 =>
    refine happens_of_keeps (t := s.setKey (keyId v) 0) ?_ (fun _ _ _ _ => by simp) fun store =>
      ⟨store, fun d hd here k => (key_setKey s _ _ d k hd here).trans (by rw [keyId_eq])⟩
    exact congrArg Host.Outcome.next (if_neg (by rw [keyId_eq]; exact hid))
  case refine_11 =>
    have zero (hid : id v = 0) : keyId v = 0 := (keyId_eq v).trans hid
    exact ⟨happens_logged rfl, fun hid => ⟨happens_logged (congrArg Host.Outcome.next (if_pos (zero hid))),
      happens_logged (congrArg Host.Outcome.next (if_pos (zero hid)))⟩⟩
  case refine_12 => show execCoreClockStep c 600 s = _; simp_all [execCoreClockStep, sys]
  case refine_13 => simp [sys]
  case refine_14 =>
    show execRegisterWrite c 0x400 v s = _
    simp only [execRegisterWrite]
    split
    · next h => rw [if_pos h]; rfl
    · next h => rw [if_neg (by omega), if_pos h]; rfl
    · next h1 h2 => rw [if_neg h1, if_neg h2]; rfl
  case refine_15 => show (if _ then _ else _) = _; split <;> rfl
  case refine_16 => intro h; show execRegisterWrite c 0x20000 v s = _; simp only [execRegisterWrite, h]; rfl
  case refine_17 => intro h; show execRegisterWrite c 0x20000 v s = _; simp only [execRegisterWrite, h]; rfl
  case refine_18 =>
    intro writes
    have cxl (f : SysRegs → SysRegs) (even : c % 2 = 0) : (Host.Outcome.next _ : Host.Outcome State Fault Refusal) = .next _ :=
      congrArg Host.Outcome.next (sysWrite_cxl (s := s) even f)
    refine ⟨writes_modSys (fun y => { y with pcap := v.toNat % 2 ^ 11 }) rfl (sys_modSys ..),
      writes_modSys (fun y => { y with fixlost := y.fixlost && !v.getLsbD 0 }) rfl (sys_modSys ..), fun even =>
        ⟨writes_modSys (fun y => { y with hbuf := v.setWidth 16 }) (cxl _ even) (sys_modSys ..),
          writes_modSys (fun y => { y with hsaddr := v &&& 0x7FFFFFFFF }) (cxl _ even) ?_,
          writes_modSys (fun y => { y with hsopa := v }) (cxl _ even) (sys_modSys ..),
          writes_modSys (fun y => { y with hsopb := v }) (cxl _ even) (sys_modSys ..)⟩, fun odd => ?_,
      happens_modChip (f := fun x => { x with repl := { x.repl with lagwarn := v.toNat % 2 ^ 17 } }) rfl (fun _ => rfl) (by simp),
      happens_modChip (f := fun x => { x with repl := { x.repl with revt := x.repl.revt &&& ~~~(v.setWidth 5) } }) rfl (fun _ => rfl) ?_,
      happens_modChip (f := fun x => { x with ring := { x.ring with base := v.toNat % 2 ^ 48 } }) rfl (fun _ => rfl) (by simp),
      writes_modDbg (fun d => { d with steplr := v }) rfl (dbg_modDbg ..), writes_modDbg (fun d => { d with schk := v.getLsbD 0 }) rfl (by rw [dbg_modDbg])⟩
    · simp [sys, Nat.and_two_pow_sub_one_eq_mod v.toNat 35]
    · exact happens_of_keeps (congrArg Host.Outcome.next (if_neg (by omega))) (fun _ _ _ _ => rfl) fun store => ⟨store, fun _ _ => rfl, rfl⟩
    · intro i
      by_cases hi : i < 5
      · simp [hi, State.repl]
      · simp [hi, State.repl, BitVec.getLsbD_of_ge (s.chip c).repl.revt i (by omega)]
  case refine_19 =>
    exact ⟨rfl, rfl, (toNat_ofNat_mod (n := 11) _ (by decide)), toNat_regBits (n := 48) _ (by decide),
      fun i => ⟨getLsbD_flag .., getLsbD_revt ..⟩⟩

end Sys2Proof.Machine
end

section
/-! SUPPORT. Tables whose keys rise, and what a gang is after kills and stops. -/

-- One theorem at a time: many at once ask for more threads than the checker has memory for.
set_option Elab.async false

namespace Sys2Proof.Machine

/-! ### Tables whose keys rise -/

section

variable {α : Type}

theorem Table.numbered_cons {k n : Nat} {x : α} {r : Table α} : Table.numbered ((k, x) :: r) n = true ↔
    k < n ∧ (∀ e ∈ r, k < e.1) ∧ Table.numbered r n = true := by
  simp [Table.numbered, and_assoc]

/-- An entry of such a table is what its key finds. -/
theorem Table.look_of_mem {t : Table α} {n k : Nat} {x : α} (h : Table.numbered t n = true) (hx : (k, x) ∈ t) :
    Table.look t k = some x := by
  induction t with
  | nil => cases hx
  | cons e r ih =>
    obtain ⟨j, y⟩ := e
    obtain ⟨-, above, rest⟩ := Table.numbered_cons.1 h
    unfold Table.look
    rcases List.mem_cons.1 hx with same | later
    · obtain ⟨rfl, rfl⟩ := Prod.mk.inj same
      rw [if_pos rfl]
    · rw [if_neg (by have := above _ later; simp only at this; omega), ih rest later]

/-- What is put into such a table has the new key or was there. -/
theorem Table.mem_put {t : Table α} {n : Nat} {x : α} {e : Nat × α} (h : e ∈ Table.put t n x) : e = (n, x) ∨ e ∈ t := by
  induction t with
  | nil => exact .inl (List.mem_singleton.1 h)
  | cons d r ih =>
    obtain ⟨k, y⟩ := d
    unfold Table.put at h
    split at h
    · exact (List.mem_cons.1 h)
    · split at h
      · exact (List.mem_cons.1 h).imp_right (List.mem_cons_of_mem _)
      · rcases List.mem_cons.1 h with rfl | later
        · exact .inr List.mem_cons_self
        · exact (ih later).imp_right (List.mem_cons_of_mem _)

theorem Table.numbered_put {t : Table α} {n k : Nat} (x : α) (h : Table.numbered t n = true) (hk : k < n) :
    Table.numbered (Table.put t k x) n = true := by
  induction t with
  | nil => simp [Table.put, Table.numbered, hk]
  | cons d r ih =>
    obtain ⟨j, y⟩ := d
    obtain ⟨below, above, rest⟩ := Table.numbered_cons.1 h
    unfold Table.put
    split
    · next lt =>
      refine Table.numbered_cons.2 ⟨hk, fun e he => ?_, h⟩
      rcases List.mem_cons.1 he with rfl | later
      · exact lt
      · exact lt.trans (above e later)
    · next ge =>
      split
      · next at' => exact Table.numbered_cons.2 ⟨hk, fun e he => at' ▸ above e he, rest⟩
      · next ne =>
        refine Table.numbered_cons.2 ⟨below, fun e he => ?_, ih rest⟩
        rcases Table.mem_put he with rfl | old
        · omega
        · exact above e old

theorem Table.lt_of_look {t : Table α} {n k : Nat} {x : α} (h : Table.numbered t n = true) (hx : Table.look t k = some x) : k < n := by
  induction t with
  | nil => cases hx
  | cons e r ih =>
    obtain ⟨j, y⟩ := e
    obtain ⟨below, -, rest⟩ := Table.numbered_cons.1 h
    unfold Table.look at hx
    split at hx
    · next at' => exact at' ▸ below
    · exact ih rest hx

theorem Table.numbered_modify {t : Table α} {n : Nat} (k : Nat) (f : α → α) (h : Table.numbered t n = true) :
    Table.numbered (Table.modify t k f) n = true := by
  unfold Table.modify
  split
  · exact h
  · next x hx => exact Table.numbered_put _ h (Table.lt_of_look h hx)

end

/-! ### Kills -/

/-- A gang killed without an end to its launch. -/
def Gang.killed (k : Gang) : Gang := if k.st = .retired ∨ k.st = .killed then k else { k with st := .killed }

theorem Gang.st_killed {k : Gang} (h : k.st ≠ .retired) : k.killed.st = .killed := by
  unfold Gang.killed
  split
  · next e => exact e.resolve_left h
  · rfl

@[simp] theorem State.gangs_dropHeld (s : State) (w : Nat) : (s.dropHeld w).gangs = s.gangs := rfl

@[simp] theorem State.agenda_dropHeld (s : State) (w : Nat) : (s.dropHeld w).agenda = s.agenda := rfl

/-- What of a state no kill changes: which chips there are, the links, the tokens. -/
def State.wiring (s : State) : Bool × List Nat × Table (List Msg) × Table Token := (s.mf4, s.linkDown, s.links, s.tokens)

/-- The wave of a killed gang: every thread has exited, nothing is outstanding. -/
def Wave.ended (x : Wave) : Wave :=
  { x.mapThreads (fun _ t => { t with st := .exited, lane := none, wait := none, aside := none }) with
    loads := [], again := [], pendA := [], page := none, pageAside := none, handler := none, halted := false, heldTrap := none, pend := none
    strong := none, sleep := 0 }

/-- A workgroup of a killed gang ends. -/
def State.endWg (s : State) (wg : Nat) : State :=
  match s.wg? wg with
  | none => s
  | some x => ((x.waves.foldl (fun s w => (s.dropHeld w).modWave w Wave.ended) s).modWg wg fun x => { x with handler := none }).postOnce
      (.workgroupExit wg)

/-- A kill marks the gang and ends its workgroups. -/
theorem State.killOne_eq {s : State} {g : Nat} {k : Gang} (hk : s.gang? g = some k) (retired : k.st ≠ .retired) (killed : k.st ≠ .killed)
    (ends : Bool) (why : List Nat) : s.killOne g ends why =
      k.wgs.foldl State.endWg ((s.modGang g fun k => { k with st := .killed, endsLaunch := k.endsLaunch || ends }).note k.chip 0x328
        ([k.launch, k.idx, k.seq.toNat] ++ why)) := by
  simp only [State.killOne, hk, if_neg retired, if_neg killed]
  rfl

/-- An observation that the end of a workgroup leaves. -/
theorem endWg_eq {β : Type} {o : State → β} (hd : ∀ s w, o ((s.dropHeld w).modWave w Wave.ended) = o s)
    (hg : ∀ s i (f : Workgroup → Workgroup) e, o ((s.modWg i f).postOnce e) = o s) (s : State) (wg : Nat) : o (s.endWg wg) = o s := by
  unfold State.endWg
  split
  · rfl
  · rw [hg, foldl_eq (o := o) _ _ fun s w _ => hd s w]

@[simp] theorem State.gangs_postOnce (s : State) (e : Event) : (s.postOnce e).gangs = s.gangs := by
  unfold State.postOnce; split <;> rfl

theorem State.gangs_endWg (s : State) (wg : Nat) : (s.endWg wg).gangs = s.gangs :=
  endWg_eq (fun _ _ => rfl) (fun _ _ _ _ => State.gangs_postOnce ..) s wg

@[simp] theorem State.wiring_postOnce (s : State) (e : Event) : (s.postOnce e).wiring = s.wiring := by
  unfold State.postOnce; split <;> rfl

theorem State.wiring_endWg (s : State) (wg : Nat) : (s.endWg wg).wiring = s.wiring :=
  endWg_eq (fun _ _ => rfl) (fun _ _ _ _ => State.wiring_postOnce ..) s wg

theorem State.mem_endWg {s : State} {wg : Nat} {e : Event} (h : e ∈ s.agenda) : e ∈ (s.endWg wg).agenda := by
  unfold State.endWg
  split
  · exact h
  · next x _ =>
    refine State.mem_postOnce ?_
    show e ∈ (x.waves.foldl (fun s w => (s.dropHeld w).modWave w Wave.ended) s).agenda
    exact (agenda_foldl (g := fun s w => (s.dropHeld w).modWave w Wave.ended) (fun _ _ => rfl) _ _).symm ▸ h

/-- What the gangs are after a kill that does not end the launch. -/
theorem State.gang?_killOne (s : State) (g h : Nat) (why : List Nat) :
    (s.killOne g false why).gang? h = if h = g then (s.gang? g).map Gang.killed else s.gang? h := by
  by_cases at' : h = g
  case neg =>
    rw [if_neg at']
    unfold State.killOne
    split
    · rfl
    · split
      · rfl
      · split
        · simp [at']
        · refine (congrArg (Table.look · h) (foldl_eq (o := State.gangs) _ _ fun s a _ => State.gangs_endWg s a)).trans ?_
          exact (State.gang?_modGang ..).trans (if_neg at')
  case pos =>
    subst at'
    rw [if_pos rfl]
    cases hk : s.gang? h with
    | none => simp [State.killOne, hk]
    | some k =>
      by_cases retired : k.st = .retired
      · simp [State.killOne, hk, retired, Gang.killed]
      · by_cases killed : k.st = .killed
        · simp only [State.killOne, hk, if_neg retired, if_pos killed]
          rw [State.gang?_modGang, if_pos rfl, hk, Option.map_some, Option.map_some, Gang.killed, if_pos (.inr killed), Bool.or_false]
        · rw [State.killOne_eq hk retired killed]
          refine (congrArg (Table.look · h) (foldl_eq (o := State.gangs) _ _ fun s a _ => State.gangs_endWg s a)).trans ?_
          refine (State.gang?_modGang ..).trans ?_
          rw [if_pos rfl, hk]
          simp [Gang.killed, retired, killed]

theorem State.numbered_killOne {s : State} {n : Nat} (h : Table.numbered s.gangs n = true) (g : Nat) (e : Bool) (why : List Nat) :
    Table.numbered (s.killOne g e why).gangs n = true := by
  unfold State.killOne
  split
  · exact h
  · split
    · exact h
    · split
      · exact Table.numbered_modify _ _ h
      · have gangs (a : List Nat) (u : State) : (a.foldl State.endWg u).gangs = u.gangs :=
          foldl_eq (o := State.gangs) _ _ fun s a _ => State.gangs_endWg s a
        exact (gangs _ _).symm ▸ Table.numbered_modify _ _ h

@[simp] theorem State.wiring_killOne (s : State) (g : Nat) (e : Bool) (why : List Nat) : (s.killOne g e why).wiring = s.wiring := by
  unfold State.killOne
  split
  · rfl
  · split
    · rfl
    · split
      · rfl
      · exact foldl_eq (o := State.wiring) _ _ fun s a _ => State.wiring_endWg s a

theorem State.mem_killOne {s : State} {a : Event} (h : a ∈ s.agenda) (g : Nat) (e : Bool) (why : List Nat) :
    a ∈ (s.killOne g e why).agenda := by
  unfold State.killOne
  split
  · exact h
  · split
    · exact h
    · split
      · exact h
      · exact mem_agenda_foldl (g := State.endWg) (fun _ _ => State.mem_endWg) _ _ h

/-- A kill leaves a chip but for its housekeeping log. -/
theorem State.chip_killOne (s : State) (g : Nat) (e : Bool) (why : List Nat) (d : Nat) :
    ((s.killOne g e why).chip d).data = (s.chip d).data := congrArg Obs.chip (State.obs_killOne (v := 0) (c := 0) (k := 0) s g e why)

@[simp] theorem State.kept_killOne (s : State) (g : Nat) (e : Bool) (why : List Nat) {v c k h : Nat} :
    (s.killOne g e why).kept v c k h = s.kept v c k h := congrArg Obs.kept (State.obs_killOne s g e why)

end Sys2Proof.Machine
end

section
/-! SUPPORT. The start of a view change, region queues, warm resets (10 R222; 11 R241; 17 R363). -/

-- One theorem at a time: many at once ask for more threads than the checker has memory for.
set_option Elab.async false

namespace Sys2Proof.Machine

variable {v c k h : Nat}

/-! ### The start of a view change -/

/-- A change of a replication unit, messages, and an event for the end of the phase: what `State.propose` does. -/
theorem State.chip_sends {α : Type} (l : List α) (a : Nat) (b : α → Nat) (m : State → α → Msg) (s : State) (d : Nat) :
    (l.foldl (fun s x => s.send a (b x) (m s x)) s).chip d = s.chip d :=
  foldl_eq (o := fun s => s.chip d) _ _ fun _ _ _ => State.chip_send ..

theorem State.chip_propose_other (s : State) {c d : Nat} (h : d ≠ c) (n : Nat) (e : Bool) (x j : List Nat) :
    (s.propose c n e x j).chip d = s.chip d := by
  unfold State.propose
  simp only [State.chip_postOnce_frame]
  rw [State.chip_sends]
  simp [State.modRepl, h]

/-- The proposal of a chip, which it leaves itself out of where it is asked to. -/
theorem State.repl_propose (s : State) (c n : Nat) (e : Bool) (x j : List Nat) : ((s.propose c n e x j).repl c).vst = .propose ∧
    ∃ ms, ((s.propose c n e x j).repl c).proposals = [(c, ms)] ∧ (e = true → c ∉ ms) := by
  have repl (f : Repl → Repl) (ps : List Nat) (m : State → Nat → Msg) (e : Event) :
      ((ps.foldl (fun s d => s.send c d (m s d)) (s.modRepl c f)).postOnce e).repl c = f (s.repl c) := by
    rw [State.repl_postOnce_frame]
    exact (congrArg Chip.repl (State.chip_sends ..)).trans (by simp [State.modRepl, State.repl])
  unfold State.propose
  simp only [repl]
  refine ⟨trivial, _, rfl, fun excl mem => ?_⟩
  simpa [excl] using (List.mem_filter.1 mem).2

@[simp] theorem State.kept_propose (s : State) (i n : Nat) (e : Bool) (x j : List Nat) :
    (s.propose i n e x j).kept v c k h = s.kept v c k h := by
  unfold State.propose
  rw [State.kept_postOnce, foldl_eq (o := fun s => s.kept v c k h) _ _ fun _ _ _ => State.kept_send ..]
  exact State.kept_modRepl fun _ => rfl

@[simp] theorem State.kept_startChange (s : State) (i : Nat) (e : Bool) (x : List Nat) :
    (s.startChange i e x).kept v c k h = s.kept v c k h := by
  unfold State.startChange
  simp only
  split <;> simp

theorem State.chip_startChange_other (s : State) {c d : Nat} (h : d ≠ c) (e : Bool) (x : List Nat) :
    (s.startChange c e x).chip d = s.chip d := by
  unfold State.startChange
  simp only
  split <;> simp [State.chip_propose_other s h]

theorem State.startChange_of_out {s : State} {c : Nat} (h : (s.repl c).vst = .out) (e : Bool) (x : List Nat) : s.startChange c e x = s := by
  simp [State.startChange, h]

theorem State.startChange_of_normal {s : State} {c : Nat} (h : (s.repl c).vst = .normal) (e : Bool) (x : List Nat) :
    s.startChange c e x = s.propose c (((s.repl c).view + 1) % 256) e x [] := by
  simp [State.startChange, h]

@[simp] theorem State.kept_isolate (s : State) (i : Nat) : (s.isolate i).kept v c k h = s.kept v c k h := by
  simp [State.isolate]

/-- A chip that is isolated proposes a view without itself. -/
theorem State.repl_isolate {s : State} {c : Nat} (normal : (s.repl c).vst = .normal) : ((s.isolate c).repl c).vst = .propose ∧
    ∃ ms, ((s.isolate c).repl c).proposals = [(c, ms)] ∧ c ∉ ms := by
  obtain ⟨vst, ms, proposals, without⟩ := s.repl_propose c (((s.repl c).view + 1) % 256) true [] []
  unfold State.isolate
  rw [State.startChange_of_normal normal, State.repl_note_frame]
  exact ⟨vst, ms, proposals, without rfl⟩

/-! ### Region queues -/

@[simp] theorem State.kept_setDir (s : State) (r : Nat) (d : Dir) : (s.setDir r d).kept v c k h = s.kept v c k h :=
  State.kept_modCluster (fun _ => rfl) fun _ => rfl

/-- The parts of a state that serving a region queue leaves, beside every program's data. -/
def State.undirected (s : State) (c k h : Nat) : List Nat × Core × Chip := ((s.cluster k).retired, s.core c, s.chip h)

@[simp] theorem State.undirected_post (s : State) (e : Event) : (s.post e).undirected c k h = s.undirected c k h := rfl

@[simp] theorem State.undirected_postOnce (s : State) (e : Event) : (s.postOnce e).undirected c k h = s.undirected c k h := by
  unfold State.postOnce; split <;> rfl

@[simp] theorem State.undirected_setDir (s : State) (r : Nat) (d : Dir) : (s.setDir r d).undirected c k h = s.undirected c k h := by
  simp only [State.undirected, State.setDir, State.cluster_modCluster, State.core_modCluster_frame, State.chip_modCluster_frame]
  split
  · next e => rw [e]
  · rfl

/-- Serving a region queue leaves an observation that the directory and the agenda are no part of. -/
theorem serve_eq {β : Type} {o : State → β} (hp : ∀ s e, o (s.post e) = o s) (ho : ∀ s e, o (s.postOnce e) = o s)
    (hd : ∀ s r d, o (s.setDir r d) = o s) (r : Nat) (n : Nat) (s : State) : o (dirServe n s r) = o s := by
  have ask (s : State) (d : Dir) : o (s.askHolders r d) = o s := by
    unfold State.askHolders
    rw [foldl_eq (o := o) _ _ fun _ _ _ => hp .., hd]
  have fill (s : State) (d : Dir) (core seg : Nat) (owned : Bool) : o (s.fillSeg r d core seg owned) = o s := by
    unfold State.fillSeg
    rw [foldl_eq (o := o) _ _ fun _ _ _ => hp .., hd]
  induction n generalizing s with
  | zero => rfl
  | succ n ih =>
    unfold dirServe
    split
    · rfl
    · split
      · rfl
      · split
        · rfl
        · split
          · rw [ih, fill]
          · exact ask ..
        · split
          · exact ho ..
          · exact ask ..
        · split
          · exact ho ..
          · exact ask ..
        · split
          · exact ho ..
          · exact ask ..
        · split
          · rw [ih, hd]
          · exact ask ..

theorem dirAsk_eq {β : Type} {o : State → β} (hp : ∀ s e, o (s.post e) = o s) (ho : ∀ s e, o (s.postOnce e) = o s)
    (hd : ∀ s r d, o (s.setDir r d) = o s) (s : State) (r : Nat) (q : DirWait) : o (s.dirAsk r q) = o s := by
  have serve (s : State) : o (s.serve r) = o s := by
    unfold State.serve
    split
    · rfl
    · exact serve_eq hp ho hd ..
  unfold State.dirAsk
  simp only
  split
  · exact serve s
  · rw [serve, hd]

@[simp] theorem State.kept_dirAsk (s : State) (r : Nat) (q : DirWait) : (s.dirAsk r q).kept v c k h = s.kept v c k h :=
  dirAsk_eq (o := fun s => s.kept v c k h) (fun _ _ => rfl) (fun _ _ => State.kept_postOnce ..) (fun _ _ _ => State.kept_setDir ..) s r q

@[simp] theorem State.undirected_dirAsk (s : State) (r : Nat) (q : DirWait) : (s.dirAsk r q).undirected c k h = s.undirected c k h :=
  dirAsk_eq (o := fun s => s.undirected c k h) (fun _ _ => rfl) (fun _ _ => State.undirected_postOnce ..)
    (fun _ _ _ => State.undirected_setDir ..) s r q

/-- A block added to a list is in it. -/
theorem mem_addBlock (l : List Nat) (b : Nat) : b ∈ addBlock l b := by
  unfold addBlock
  split
  · next h => exact List.contains_iff_mem.1 h
  · exact List.mem_append_right _ (List.mem_singleton.2 rfl)

theorem channelRetirement_retires (i n : Nat) (s : State) : Happens (.channelRetirement i n) s fun t => n ∈ (t.cluster i).retired ∧
    (∃ l, (t.chip (chipOfStack i)).hk = (s.chip (chipOfStack i)).hk ++ { what := 0x269, args := [i, n] } :: l) ∧ s.SameStore t := by
  have rest {β : Type} {o : State → β} (ask : ∀ s r q, o (s.dirAsk r q) = o s) (u : State) (l : Table Dir) :
      o (l.foldl (fun s e => if e.1 / 16 % 16 = n && e.2.sharers ≠ [] then s.dirAsk e.1 .clear else s) u) = o u := by
    refine foldl_eq (o := o) _ _ fun s e _ => ?_
    split
    · exact ask ..
    · rfl
  refine happens_of_keeps rfl (fun a b d e => ?_) fun store => ⟨?_, ⟨[], ?_⟩, store⟩
  · rw [rest (o := fun s => s.kept a b d e) fun _ _ _ => State.kept_dirAsk ..]
    simp
  · refine (congrArg (n ∈ ·.1) (rest (o := fun s => s.undirected 0 i 0) (fun _ _ _ => State.undirected_dirAsk ..) _ _)).mpr ?_
    simp [State.undirected, mem_addBlock]
  · refine (congrArg (fun x => x.2.2.hk) (rest (o := fun s => s.undirected 0 0 (chipOfStack i)) (fun _ _ _ => State.undirected_dirAsk ..) _ _)).trans ?_
    simp [State.undirected, State.note]

end Sys2Proof.Machine
end

section
/-! SUPPORT. Warm resets: the gangs of every member stop, and the chips that have drained restart (17 R363). -/

-- One theorem at a time: many at once ask for more threads than the checker has memory for.
set_option Elab.async false

namespace Sys2Proof.Machine

/-- A property that every step of a fold keeps. -/
theorem foldl_keeps {α σ : Type} {P : σ → Prop} {g : σ → α → σ} (l : List α) (s : σ) (hg : ∀ s, ∀ a ∈ l, P s → P (g s a)) (h : P s) :
    P (l.foldl g s) := by
  induction l generalizing s with
  | nil => exact h
  | cons a r ih => exact ih _ (fun s b hb => hg s b (List.mem_cons_of_mem _ hb)) (hg s a List.mem_cons_self h)

/-- What one step of a fold brings about and the others keep holds after the fold. -/
theorem foldl_of_step {α σ : Type} {P Q : σ → Prop} {g : σ → α → σ} {a : α} {l : List α} (ha : a ∈ l) (s : σ) (h : P s)
    (before : ∀ s, ∀ b ∈ l, P s → P (g s b)) (step : ∀ s, P s → Q (g s a)) (after : ∀ s, ∀ b ∈ l, Q s → Q (g s b)) :
    Q (l.foldl g s) := by
  induction l generalizing s with
  | nil => cases ha
  | cons b r ih =>
    rcases List.mem_cons.1 ha with rfl | hr
    · exact foldl_keeps r _ (fun s c hc => after s c (List.mem_cons_of_mem _ hc)) (step s h)
    · exact ih hr _ (before s b List.mem_cons_self h) (fun s c hc => before s c (List.mem_cons_of_mem _ hc))
        fun s c hc => after s c (List.mem_cons_of_mem _ hc)

variable {v c k h : Nat}

/-! ### A gang that stops -/

theorem State.gang?_stopGang (s : State) (g h : Nat) (x : Gang) :
    (s.stopGang g x).gang? h = if h = g then (s.gang? g).map Gang.killed else s.gang? h := by
  refine Eq.trans ?_ (State.gang?_killOne s g h [])
  unfold State.stopGang
  simp only
  split <;> rfl

theorem State.numbered_stopGang {s : State} {n : Nat} (h : Table.numbered s.gangs n = true) (g : Nat) (x : Gang) :
    Table.numbered (s.stopGang g x).gangs n = true := by
  refine Eq.trans ?_ (State.numbered_killOne h g false [])
  unfold State.stopGang
  simp only
  split <;> rfl

@[simp] theorem State.kept_stopGang (s : State) (g : Nat) (x : Gang) : (s.stopGang g x).kept v c k h = s.kept v c k h := by
  have killed : ((s.killOne g false []).modChip x.chip fun c => { c with again := c.again ++ [x.entry] }).kept v c k h = s.kept v c k h := by
    simp
  unfold State.stopGang
  simp only
  split
  · exact killed
  · exact killed

theorem State.mem_stopGang {s : State} {e : Event} (h : e ∈ s.agenda) (g : Nat) (x : Gang) : e ∈ (s.stopGang g x).agenda := by
  have killed := State.mem_killOne h g false []
  unfold State.stopGang
  simp only
  split
  · exact killed
  · exact killed

/-- A gang that stops is to be placed again at its chip; nothing else of a chip changes but its log. -/
theorem State.chip_stopGang (s : State) (g : Nat) (x : Gang) (d : Nat) : ((s.stopGang g x).chip d).data =
    { (s.chip d).data with again := (s.chip d).again ++ if d = x.chip then [x.entry] else [] } := by
  have killed (d : Nat) : ((s.killOne g false []).chip d).data = (s.chip d).data := State.chip_killOne ..
  have added : (((s.killOne g false []).modChip x.chip fun c => { c with again := c.again ++ [x.entry] }).chip d).data =
      { (s.chip d).data with again := (s.chip d).again ++ if d = x.chip then [x.entry] else [] } := by
    rw [State.chip_modChip]
    split
    · next at' =>
      subst at'
      exact congrArg (fun y : Chip => { y with again := y.again ++ [x.entry] }) (killed x.chip)
    · rw [List.append_nil]; exact killed d
  unfold State.stopGang
  simp only
  split
  · exact added
  · exact added

/-- What the stop of every gang of a chip keeps, the stop of all keeps. -/
theorem State.stopGangs_keeps {P : State → Prop} {m : Nat} (s : State)
    (hg : ∀ u g x, (g, x) ∈ s.gangs → x.chip = m → P u → P (u.stopGang g x)) (h : P s) : P (s.stopGangs m) := by
  refine foldl_keeps _ _ (fun u e he hu => ?_) h
  split
  · exact hu
  · next stops =>
    simp only [Bool.or_eq_true, decide_eq_true_eq, not_or, ne_eq, not_not] at stops
    exact hg u e.1 e.2 he stops.1.1.1 hu

theorem State.numbered_stopGangs {s : State} {n : Nat} (h : Table.numbered s.gangs n = true) (m : Nat) :
    Table.numbered (s.stopGangs m).gangs n = true :=
  s.stopGangs_keeps (P := fun u => Table.numbered u.gangs n = true) (fun _ g x _ _ hu => State.numbered_stopGang hu g x) h

@[simp] theorem State.kept_stopGangs (s : State) (m : Nat) : (s.stopGangs m).kept v c k h = s.kept v c k h :=
  s.stopGangs_keeps (P := fun u => u.kept v c k h = s.kept v c k h) (fun u g x _ _ hu => (State.kept_stopGang u g x).trans hu) rfl

theorem State.mem_stopGangs {s : State} {e : Event} (h : e ∈ s.agenda) (m : Nat) : e ∈ (s.stopGangs m).agenda :=
  s.stopGangs_keeps (P := fun u => e ∈ u.agenda) (fun _ g x _ _ hu => State.mem_stopGang hu g x) h

theorem State.draining_stopGangs (s : State) (m d : Nat) : ((s.stopGangs m).chip d).draining = (s.chip d).draining :=
  s.stopGangs_keeps (P := fun u => (u.chip d).draining = (s.chip d).draining)
    (fun u g x _ _ hu => (congrArg Chip.draining (u.chip_stopGang g x d)).trans hu) rfl

theorem State.mem_again_stopGang {s : State} {d n : Nat} (h : n ∈ (s.chip d).again) (g : Nat) (x : Gang) :
    n ∈ ((s.stopGang g x).chip d).again := by
  have again := congrArg Chip.again (s.chip_stopGang g x d)
  exact again ▸ List.mem_append_left _ h

theorem State.mem_again_stopGangs {s : State} {d n : Nat} (h : n ∈ (s.chip d).again) (m : Nat) : n ∈ ((s.stopGangs m).chip d).again :=
  s.stopGangs_keeps (P := fun u => n ∈ (u.chip d).again) (fun _ g x _ _ hu => State.mem_again_stopGang hu g x) h

/-- A killed gang stays killed. -/
theorem State.killed_stopGang {s : State} {g : Nat} (h : (s.gang? g).map Gang.st = some .killed) (i : Nat) (x : Gang) :
    ((s.stopGang i x).gang? g).map Gang.st = some .killed := by
  rw [State.gang?_stopGang]
  split
  · next e =>
    subst e
    obtain ⟨y, hy, st⟩ := Option.map_eq_some_iff.1 h
    simp [hy, Gang.killed, st]
  · exact h

theorem State.killed_stopGangs {s : State} {g : Nat} (h : (s.gang? g).map Gang.st = some .killed) (m : Nat) :
    ((s.stopGangs m).gang? g).map Gang.st = some .killed :=
  s.stopGangs_keeps (P := fun u => (u.gang? g).map Gang.st = some .killed) (fun _ i x _ _ hu => State.killed_stopGang hu i x) h

/-- The gangs of another chip go on. -/
theorem State.gang?_stopGangs {s : State} {n g m : Nat} {x : Gang} (num : Table.numbered s.gangs n = true) (hx : s.gang? g = some x)
    (hm : x.chip ≠ m) : (s.stopGangs m).gang? g = some x :=
  s.stopGangs_keeps (P := fun u => u.gang? g = some x) (fun u i y hy chip hu => by
    rw [State.gang?_stopGang, if_neg, hu]
    rintro rfl
    obtain rfl : x = y := Option.some.inj (hx.symm.trans (Table.look_of_mem num hy))
    exact hm chip) hx

/-- The gangs of the chip are killed, to be placed again. -/
theorem State.stops_stopGangs {s : State} {g m : Nat} {x : Gang} (hx : s.gang? g = some x) (hm : x.chip = m) (on : x.onChip = true)
    (live : x.st ≠ .retired) : ((s.stopGangs m).gang? g).map Gang.st = some .killed ∧ (x.st ≠ .killed → x.entry ∈ ((s.stopGangs m).chip m).again) := by
  by_cases killed : x.st = .killed
  · exact ⟨State.killed_stopGangs (by rw [hx, Option.map_some, killed]) m, fun h => absurd killed h⟩
  have stops : (x.chip ≠ m || !x.onChip || x.st = .killed || x.st = .retired) = false := by simp [hm, on, killed, live]
  suffices h : ((s.stopGangs m).gang? g).map Gang.st = some .killed ∧ x.entry ∈ ((s.stopGangs m).chip m).again from ⟨h.1, fun _ => h.2⟩
  refine foldl_of_step (P := fun u => ∃ y, u.gang? g = some y ∧ y.st ≠ .retired)
    (Q := fun u => (u.gang? g).map Gang.st = some .killed ∧ x.entry ∈ (u.chip m).again) (Table.mem_of_look hx) s ⟨x, hx, live⟩ ?_ ?_ ?_
  · rintro u e - ⟨y, hy, st⟩
    split
    · exact ⟨y, hy, st⟩
    · rw [State.gang?_stopGang]
      split
      · next at' => subst at'; exact ⟨y.killed, by rw [hy]; rfl, by rw [Gang.st_killed st]; decide⟩
      · exact ⟨y, hy, st⟩
  · rintro u ⟨y, hy, st⟩
    simp only [stops, if_false, Bool.false_eq_true]
    refine ⟨?_, (congrArg Chip.again (u.chip_stopGang g x m)) ▸ List.mem_append_right _ (by rw [if_pos hm.symm]; exact List.mem_cons_self)⟩
    rw [State.gang?_stopGang, if_pos rfl, hy]
    exact congrArg some (Gang.st_killed st)
  · rintro u e - ⟨st, again⟩
    split
    · exact ⟨st, again⟩
    · exact ⟨State.killed_stopGang st .., State.mem_again_stopGang again ..⟩

/-! ### Every member drains -/

/-- A member drains. -/
def State.drain (s : State) (m : Nat) : State :=
  if (s.chip m).draining then s
  else ((s.modChip m fun c => { c with draining := true, drainClock := 0 }).stopGangs m).postOnce (.warmDrainComplete m)

/-- A chip is draining, its gangs have been killed. -/
structure Drains (s t : State) (m : Nat) : Prop where
  draining : (t.chip m).draining = true
  due : .warmDrainComplete m ∈ t.agenda
  gangs : ∀ g k, s.gang? g = some k → k.chip = m → k.onChip = true → k.st ≠ .retired → (t.gang? g).map Gang.st = some .killed ∧
    (k.st ≠ .killed → k.entry ∈ (t.chip m).again)

/-- A chip has not begun to drain. -/
structure Undrained (s t : State) (m : Nat) : Prop where
  draining : (t.chip m).draining = false
  numbered : ∃ n, Table.numbered t.gangs n = true
  gangs : ∀ g k, s.gang? g = some k → k.chip = m → t.gang? g = some k

@[simp] theorem State.gang?_modChip (s : State) (c : Nat) (f : Chip → Chip) (g : Nat) : (s.modChip c f).gang? g = s.gang? g := rfl

theorem State.drain_starts {s t : State} {m : Nat} (h : Undrained s t m) : Drains s (t.drain m) m := by
  unfold State.drain
  rw [if_neg (by simp [h.draining])]
  refine ⟨?_, State.mem_agenda_postOnce .., fun g k hk chip on live => ?_⟩
  · rw [State.chip_postOnce_frame, State.draining_stopGangs]; simp
  · rw [State.gang?_postOnce_frame, State.chip_postOnce_frame]
    exact State.stops_stopGangs (h.gangs g k hk chip) chip on live

theorem Undrained.drain {s t : State} {m b : Nat} (h : Undrained s t m) (hb : b ≠ m) : Undrained s (t.drain b) m := by
  obtain ⟨draining, ⟨n, num⟩, gangs⟩ := h
  unfold State.drain
  split
  · exact ⟨draining, ⟨n, num⟩, gangs⟩
  · refine ⟨?_, ⟨n, ?_⟩, fun g k hk chip => ?_⟩
    · rw [State.chip_postOnce_frame, State.draining_stopGangs]; simp [Ne.symm hb, draining]
    · rw [State.gangs_postOnce]; exact State.numbered_stopGangs (s := t.modChip b _) num b
    · rw [State.gang?_postOnce_frame]
      exact State.gang?_stopGangs num (gangs g k hk chip) (by rw [chip]; exact Ne.symm hb)

theorem Drains.drain {s t : State} {m : Nat} (h : Drains s t m) (b : Nat) : Drains s (t.drain b) m := by
  obtain ⟨draining, due, gangs⟩ := h
  unfold State.drain
  split
  · exact ⟨draining, due, gangs⟩
  · refine ⟨?_, State.mem_postOnce (State.mem_stopGangs (s := t.modChip b _) due b), fun g k hk chip on live => ?_⟩
    · rw [State.chip_postOnce_frame, State.draining_stopGangs, State.chip_modChip]
      split
      · rfl
      · exact draining
    · obtain ⟨killed, again⟩ := gangs g k hk chip on live
      rw [State.gang?_postOnce_frame, State.chip_postOnce_frame]
      refine ⟨State.killed_stopGangs (s := t.modChip b _) killed b, fun st => State.mem_again_stopGangs ?_ b⟩
      rw [State.chip_modChip]
      split
      · next e => exact e ▸ again st
      · exact again st

theorem State.draining_drain (s : State) (m b : Nat) (h : m = b ∨ (s.chip m).draining = true) : ((s.drain b).chip m).draining = true := by
  unfold State.drain
  split
  · next d => rcases h with rfl | h <;> assumption
  · rw [State.chip_postOnce_frame, State.draining_stopGangs, State.chip_modChip]
    split
    · rfl
    · next e => exact h.resolve_left e

@[simp] theorem State.kept_drain (s : State) (m : Nat) : (s.drain m).kept v c k h = s.kept v c k h := by
  unfold State.drain; split <;> simp

theorem rstctlWarm_drains (c : Nat) (s : State) (member : c ∈ (s.repl c).members) (num : ∃ n, Table.numbered s.gangs n = true) :
    Happens (.rstctlWarm c) s fun t => s.SameStore t ∧ ∀ m ∈ (s.repl c).members, (t.chip m).draining = true ∧
      ((s.chip m).draining = false → .warmDrainComplete m ∈ t.agenda ∧ ∀ g k, s.gang? g = some k → k.chip = m → k.onChip = true →
        k.st ≠ .retired → (t.gang? g).map Gang.st = some .killed ∧ (k.st ≠ .killed → k.entry ∈ (t.chip m).again)) := by
  have run : exec (.rstctlWarm c) s = .next ((s.repl c).members.foldl State.drain s) := by
    show execRstctlWarm c s = _
    simp only [execRstctlWarm, State.inView, List.contains_iff_mem.2 member]
    rfl
  refine happens_of_keeps run (fun a b d e => foldl_eq (o := fun s => s.kept a b d e) _ _ fun _ _ _ => State.kept_drain ..) fun store =>
    ⟨store, fun m hm => ?_⟩
  have draining : (((s.repl c).members.foldl State.drain s).chip m).draining = true :=
    foldl_of_step (P := fun _ => True) (Q := fun t => (t.chip m).draining = true) hm s trivial (fun _ _ _ _ => trivial)
      (fun t _ => State.draining_drain t m m (.inl rfl)) fun t b _ ht => State.draining_drain t m b (.inr ht)
  refine ⟨draining, fun idle => ?_⟩
  have either : Undrained s ((s.repl c).members.foldl State.drain s) m ∨ Drains s ((s.repl c).members.foldl State.drain s) m := by
    refine foldl_keeps (P := fun t => Undrained s t m ∨ Drains s t m) _ _ (fun t b _ ht => ?_) (.inl ⟨idle, num, fun _ _ hk _ => hk⟩)
    rcases ht with before | after
    · by_cases at' : b = m
      · exact .inr (at' ▸ State.drain_starts (at' ▸ before))
      · exact .inl (before.drain at')
    · exact .inr (after.drain b)
  obtain ⟨-, due, gangs⟩ := either.resolve_left fun before => by rw [before.draining] at draining; cases draining
  exact ⟨due, gangs⟩

end Sys2Proof.Machine
end

section
/-! SUPPORT. The end of a warm reset, cold resets, heat (17 R360, R363, R365). -/

-- One theorem at a time: many at once ask for more threads than the checker has memory for.
set_option Elab.async false

namespace Sys2Proof.Machine

/-! ### The end of a warm reset -/

/-- A table into which a value of each key of a list has been put. -/
theorem Table.at_foldl_put {α : Type} (f : Nat → α) (ms : List Nat) (t : Table α) (d : Nat) (x : α) :
    Table.at (ms.foldl (fun t m => Table.put t m (f m)) t) d x = if d ∈ ms then f d else Table.at t d x := by
  induction ms generalizing t with
  | nil => rfl
  | cons m r ih =>
    rw [List.foldl_cons, ih, Table.at_put]
    by_cases at' : d = m
    · subst at'; simp
    · simp [at']

theorem State.chip_warmReset {s : State} {ms : List Nat} {m : Nat} (h : m ∈ ms) : (s.warmReset ms).chip m =
    { s.chip m with repl := (s.repl m).warm s.mf4 ms, draining := false, drainClock := 0, tokens := [], hostLines := [], hostRegs := [] } := by
  have chip := Table.at_foldl_put (fun m => ({ s.chip m with
    repl := (s.repl m).warm s.mf4 ms, draining := false, drainClock := 0, tokens := [], hostLines := [], hostRegs := [] } : Chip)) ms s.chips m
    (Chip.reset s.mf4)
  exact chip.trans (if_pos h)

/-- The members that a warm reset restarts. -/
def State.going (s : State) (c : Nat) : List Nat := (s.repl c).members.filter fun m => (s.chip m).draining && !(s.repl m).out

theorem vecAt_replicate (n j : Nat) : vecAt (List.replicate n 0) j = 0 := by
  simp [vecAt, List.getD]

/-- An observation that events put on the agenda leave. -/
theorem foldl_postOnce_eq {α β : Type} {o : State → β} (e : α → Event) (ho : ∀ s d, o (s.postOnce d) = o s) (l : List α) (s : State) :
    o (l.foldl (fun s a => s.postOnce (e a)) s) = o s := foldl_eq (o := o) _ _ fun _ _ _ => ho ..

theorem State.waves_postOnce (s : State) (e : Event) : (s.postOnce e).waves = s.waves := by
  unfold State.postOnce; split <;> rfl

theorem State.mem_eq_postOnce (s : State) (e : Event) : (s.postOnce e).mem = s.mem := by
  unfold State.postOnce; split <;> rfl

theorem warmDrainComplete_restarts (c : Nat) (s : State) (draining : (s.chip c).draining = true) (member : c ∈ s.going c)
    (done : ∀ m ∈ s.going c, s.warmDrained m = true) : Happens (.warmDrainComplete c) s fun t => (∀ a, t.byte a = s.byte a) ∧
      ∀ m ∈ s.going c, (t.chip m).draining = false ∧ (t.repl m).view = 0 ∧ (t.repl m).own = 0 ∧ (∀ j, vecAt (t.repl m).applied j = 0) ∧
        (t.repl m).nextSlot = 0 ∧ (t.repl m).replica = (s.repl m).replica ∧ (t.repl m).tags = (s.repl m).tags := by
  let t := (s.going c).foldl (fun s m => s.postOnce (.campionPlacement m)) (s.warmReset (s.going c))
  have chip (m : Nat) (hm : m ∈ s.going c) : t.chip m = _ :=
    (foldl_postOnce_eq (o := fun s => s.chip m) (fun m => .campionPlacement m) (fun _ _ => State.chip_postOnce_frame ..) _ _).trans
      (State.chip_warmReset hm)
  have run : exec (.warmDrainComplete c) s = .next t := by
    have some' : s.going c ≠ [] := List.ne_nil_of_mem member
    have warm : s.warmDone c = t := if_neg (by
      rw [Bool.or_eq_true, decide_eq_true_eq, Bool.not_eq_true', not_or, Bool.not_eq_false, List.all_eq_true]
      exact ⟨some', done⟩)
    show execWarmDrainComplete c s = _
    simp only [execWarmDrainComplete, draining, warm, chip c member]
    rfl
  refine ⟨t, run, fun v l => ?_, fun a => ?_, fun m hm => ?_⟩
  · have waves : t.waves = s.waves := foldl_postOnce_eq (o := State.waves) (fun m => .campionPlacement m) State.waves_postOnce _ _
    have lane : t.lane v l = s.lane v l := by simp only [State.lane, State.wave?, waves]
    exact .of_data (congrArg Thread.data lane)
  · have mem : t.mem = s.mem := foldl_postOnce_eq (o := State.mem) (fun m => .campionPlacement m) State.mem_eq_postOnce _ _
    simp only [State.byte, mem]
  · have repl : t.repl m = (s.repl m).warm s.mf4 (s.going c) := congrArg Chip.repl (chip m hm)
    rw [repl, chip m hm]
    exact ⟨rfl, rfl, rfl, vecAt_replicate 8, rfl, rfl, rfl⟩

theorem warmDrainComplete_waits (c : Nat) (s : State) (draining : (s.chip c).draining = true)
    (some' : ∃ m ∈ s.going c, s.warmDrained m = false) : Happens (.warmDrainComplete c) s fun t => s.SameStore t ∧
      .warmDrainComplete c ∈ t.agenda ∧ (t.chip c).draining = true := by
  have warm : s.warmDone c = s := if_pos (by
    obtain ⟨m, hm, left⟩ := some'
    rw [Bool.or_eq_true, Bool.not_eq_true', List.all_eq_false]
    exact .inr ⟨m, hm, by simp [left]⟩)
  have run : exec (.warmDrainComplete c) s = .next (s.postOnce (.warmDrainComplete c)) := by
    show execWarmDrainComplete c s = _
    simp only [execWarmDrainComplete, draining, warm]
    rfl
  exact happens_of_keeps run (fun _ _ _ _ => State.kept_postOnce ..) fun store =>
    ⟨store, State.mem_agenda_postOnce .., by rw [State.chip_postOnce_frame, draining]⟩

/-- A proposal changes a chip's replication unit only. -/
theorem State.chip_propose (s : State) (c n : Nat) (e : Bool) (x j : List Nat) :
    (s.propose c n e x j).chip c = { s.chip c with repl := (s.propose c n e x j).repl c } := by
  have chip (f : Repl → Repl) (ps : List Nat) (m : State → Nat → Msg) (e : Event) :
      ((ps.foldl (fun s d => s.send c d (m s d)) (s.modRepl c f)).postOnce e).chip c = { s.chip c with repl := f (s.repl c) } := by
    rw [State.chip_postOnce_frame]
    exact (State.chip_sends ..).trans (State.chip_modChip_self ..)
  unfold State.propose
  simp only [State.repl, chip]

theorem warmDrainTimeout_isolates (c : Nat) (s : State) (draining : (s.chip c).draining = true)
    (late : (s.repl c).acklim < (s.chip c).drainClock) (left : s.warmDrained c = false) (normal : (s.repl c).vst = .normal) :
    Happens (.warmDrainTimeout c) s fun t => s.SameStore t ∧ (t.chip c).draining = false ∧ (t.repl c).vst = .propose ∧
      ∃ ms, (t.repl c).proposals = [(c, ms)] ∧ c ∉ ms := by
  let u := s.modChip c fun x => { x with draining := false, drainClock := 0 }
  have chip : u.chip c = { s.chip c with draining := false, drainClock := 0 } := State.chip_modChip_self ..
  have run : exec (.warmDrainTimeout c) s = .next (u.isolate c) := by
    show execWarmDrainTimeout c s = _
    have run : ¬ (!(s.chip c).draining || decide ((s.chip c).drainClock ≤ (s.repl c).acklim) || s.warmDrained c) = true := by
      simp [draining, late, left]
    exact congrArg Host.Outcome.next (if_neg run)
  have here : (u.repl c).vst = .normal := (congrArg (fun x : Chip => x.repl.vst) chip).trans normal
  refine happens_of_keeps run (fun _ _ _ _ => by rw [State.kept_isolate]; simp [u]) fun store =>
    ⟨store, ?_, State.repl_isolate here⟩
  rw [State.isolate, State.startChange_of_normal here]
  exact (congrArg Chip.draining (State.chip_modChip_self ..)).trans
    ((congrArg Chip.draining (State.chip_propose ..)).trans (congrArg Chip.draining chip))

/-! ### Cold resets -/

/-- The chips after a cold reset. -/
theorem chip_coldReset (c : Nat) (s : State) : ∃ t, exec (.coldReset c) s = .next t ∧ t.mf4 = s.mf4 ∧ t.gangs = [] ∧ t.waves = [] ∧
    t.agenda = [] ∧ t.links = [] ∧ ∀ m ∈ presentChips s.mf4, t.chip m = bootChip s.mf4 m := by
  refine ⟨_, rfl, rfl, rfl, rfl, rfl, rfl, fun m hm => ?_⟩
  have look (ms : List Nat) (hm : m ∈ ms) : Table.look (ms.map fun c => (c, bootChip s.mf4 c)) m = some (bootChip s.mf4 m) := by
    induction ms with
    | nil => cases hm
    | cons n r ih =>
      rw [List.map_cons, Table.look]
      split
      · next e => rw [e]
      · next ne => exact ih ((List.mem_cons.1 hm).resolve_left ne)
  exact congrArg (Option.getD · _) (look _ hm)

/-- What a chip is after it has booted. -/
theorem bootChip_spec (mf4 : Bool) (m : Nat) : (bootChip mf4 m).repl.view = 0 ∧ (bootChip mf4 m).repl.own = 0 ∧
    (bootChip mf4 m).repl.nextSlot = 0 ∧ (bootChip mf4 m).repl.tags = [] ∧ (∀ j, vecAt (bootChip mf4 m).repl.applied j = 0) ∧
    (bootChip mf4 m).sys.fixclk = false ∧ (bootChip mf4 m).sys.clkmhz = 600 ∧ (bootChip mf4 m).sys.meas = bootMeas m ∧
    if firmwareGood m = true then (bootChip mf4 m).repl.members = (presentChips mf4).filter firmwareGood
      else (bootChip mf4 m).repl.out = true := by
  have applied : ∀ j, vecAt (List.replicate 8 0) j = 0 := vecAt_replicate 8
  unfold bootChip
  by_cases good : firmwareGood m = true
  · simp only [if_pos good]
    exact ⟨rfl, rfl, rfl, rfl, applied, rfl, rfl, trivial, trivial⟩
  · simp only [if_neg good]
    exact ⟨rfl, rfl, rfl, rfl, applied, rfl, rfl, trivial, trivial⟩

end Sys2Proof.Machine
end

section
/-! SUPPORT. A chip that powers down leaves the view (10 R230; 17 R365). Settles O54. -/

-- One theorem at a time: many at once ask for more threads than the checker has memory for.
set_option Elab.async false

namespace Sys2Proof.Machine

/-! ### Links that go down -/

/-- An observation that messages, changes of replication units and events leave, the start of a view change leaves. -/
theorem startChange_eq {β : Type} {o : State → β} (hr : ∀ s c f, o (s.modRepl c f) = o s) (hs : ∀ s a b m, o (s.send a b m) = o s)
    (hp : ∀ s e, o (s.postOnce e) = o s) (s : State) (c : Nat) (e : Bool) (x : List Nat) : o (s.startChange c e x) = o s := by
  have propose (n : Nat) (e : Bool) (x j : List Nat) : o (s.propose c n e x j) = o s := by
    unfold State.propose
    simp only
    rw [hp, foldl_eq (o := o) _ _ fun _ _ _ => hs .., hr]
  unfold State.startChange
  simp only
  split
  · rfl
  · rfl
  · exact propose ..
  · exact propose ..

/-- What of a state no message changes: which chips there are, the links that are down, waves, gangs. -/
def State.roster (s : State) : Bool × List Nat × Table Wave × Table Gang := (s.mf4, s.linkDown, s.waves, s.gangs)

theorem State.roster_startChange (s : State) (c : Nat) (e : Bool) (x : List Nat) : (s.startChange c e x).roster = s.roster :=
  startChange_eq (o := State.roster) (fun _ _ _ => rfl) (fun s a b m => by unfold State.send; split <;> rfl)
    (fun s e => by unfold State.postOnce; split <;> rfl) s c e x

/-- A link is marked as down, what was in flight on it is gone. -/
def State.cutLink (s : State) (a b : Nat) : State :=
  { s with
    linkDown := if s.linkDown.contains (linkKey a b) then s.linkDown else s.linkDown ++ [linkKey a b]
    linkRetry := s.linkRetry.filter (fun x => x ≠ linkKey a b && x ≠ linkKey b a)
    linkResent := s.linkResent.filter (fun x => x ≠ linkKey a b && x ≠ linkKey b a)
    links := Table.del (Table.del s.links (linkKey a b)) (linkKey b a) }.note b 0x208 [a, 1]

/-- An observation that the starts of view changes leave. -/
theorem dropLink_eq {β : Type} {o : State → β} (a b : Nat) (s : State) (ha : ∀ u, o u = o (s.cutLink a b) → o (u.startChange a false []) = o u)
    (hb : ∀ u, o u = o (s.cutLink a b) → o (u.startChange b false []) = o u) : o (s.dropLink a b) = o (s.cutLink a b) := by
  have maybe {p : Prop} [Decidable p] {u : State} {c : Nat} (h : o (u.startChange c false []) = o u) :
      o (if p then u.startChange c false [] else u) = o u := by
    split
    · exact h
    · rfl
  have first : o (if ((s.cutLink a b).repl a).members.contains b then (s.cutLink a b).startChange a false [] else s.cutLink a b) = _ :=
    maybe (ha _ rfl)
  exact (maybe (hb _ first)).trans first

/-- A link that goes down is marked so; nothing else of the roster changes. -/
theorem State.roster_dropLink (s : State) (a b : Nat) : (s.dropLink a b).roster =
    (s.mf4, if s.linkDown.contains (linkKey a b) then s.linkDown else s.linkDown ++ [linkKey a b], s.waves, s.gangs) :=
  dropLink_eq (o := State.roster) a b s (fun _ _ => State.roster_startChange ..) fun _ _ => State.roster_startChange ..

theorem State.linkDown_dropLink (s : State) (a b : Nat) : linkKey a b ∈ (s.dropLink a b).linkDown := by
  have down : (s.dropLink a b).linkDown = _ := congrArg (fun r => r.2.1) (s.roster_dropLink a b)
  rw [down]
  simp only
  split
  · next h => exact List.contains_iff_mem.1 h
  · exact List.mem_append_right _ (List.mem_singleton.2 rfl)

theorem State.mem_linkDown_dropLink {s : State} {k : Nat} (h : k ∈ s.linkDown) (a b : Nat) : k ∈ (s.dropLink a b).linkDown := by
  have down : (s.dropLink a b).linkDown = _ := congrArg (fun r => r.2.1) (s.roster_dropLink a b)
  rw [down]
  simp only
  split
  · exact h
  · exact List.mem_append_left _ h

/-- A chip in OUT stays as it is while its links go down. -/
theorem State.chip_dropLink {s : State} {c d : Nat} (out : (s.repl c).vst = .out) (hd : d ≠ c) : (s.dropLink c d).chip c = s.chip c := by
  have cut : (s.cutLink c d).chip c = s.chip c := (State.chip_modChip ..).trans (if_neg (Ne.symm hd))
  refine (dropLink_eq (o := fun s => s.chip c) c d s (fun u hu => ?_) fun u _ => State.chip_startChange_other _ (Ne.symm hd) ..).trans cut
  rw [State.startChange_of_out ((congrArg (fun x : Chip => x.repl.vst) (hu.trans cut)).trans out)]

/-! ### A chip that enters OUT -/

/-- The threads of a wave. -/
def State.crew (s : State) (v : Nat) : Option (List ThreadData) := (s.wave? v).map Wave.datas

theorem State.gangs_hostGone (s : State) (line : Nat) : (s.hostGone line).roster = s.roster := by
  unfold State.hostGone
  split
  · rfl
  · split <;> rfl

theorem State.roster_loseLines (s : State) (now gone : List Nat) : (s.loseLines now gone).roster = s.roster := by
  refine foldl_eq (o := State.roster) _ _ fun s d _ => foldl_eq (o := State.roster) _ _ fun s e _ => ?_
  split
  · refine (State.gangs_hostGone ..).trans (foldl_eq (o := State.roster) _ _ fun _ _ _ => rfl)
  · rfl

/-- The kills of a chip's gangs. -/
def State.killChip (s : State) (c : Nat) : State := s.gangs.foldl (fun s g => if g.2.chip = c then s.killOne g.1 false [] else s) s

theorem State.crew_killChip (s : State) (c v : Nat) : (s.killChip c).crew v = s.crew v := by
  refine foldl_eq (o := fun s => s.crew v) _ _ fun s g _ => ?_
  split
  · exact congrArg Kept.threads (State.kept_killOne (v := v) (c := 0) (k := 0) (h := 0) s g.1 false [])
  · rfl

theorem State.wiring_killChip (s : State) (c : Nat) : (s.killChip c).wiring = s.wiring := by
  refine foldl_eq (o := State.wiring) _ _ fun s g _ => ?_
  split
  · exact State.wiring_killOne ..
  · rfl

theorem State.killed_killChip {s : State} {c g : Nat} {k : Gang} (hk : s.gang? g = some k) (chip : k.chip = c) (live : k.st ≠ .retired) :
    ((s.killChip c).gang? g).map Gang.st = some .killed := by
  refine foldl_of_step (P := fun u => ∃ y, u.gang? g = some y ∧ y.st ≠ .retired) (Q := fun u => (u.gang? g).map Gang.st = some .killed)
    (Table.mem_of_look hk) s ⟨k, hk, live⟩ ?_ ?_ ?_
  · rintro u e - ⟨y, hy, st⟩
    split
    · rw [State.gang?_killOne]
      split
      · next at' => subst at'; exact ⟨y.killed, by rw [hy]; rfl, by rw [Gang.st_killed st]; decide⟩
      · exact ⟨y, hy, st⟩
    · exact ⟨y, hy, st⟩
  · rintro u ⟨y, hy, st⟩
    simp only [if_pos chip]
    rw [State.gang?_killOne, if_pos rfl, hy]
    exact congrArg some (Gang.st_killed st)
  · intro u e _ killed
    split
    · rw [State.gang?_killOne]
      split
      · next at' =>
        subst at'
        obtain ⟨y, hy, st⟩ := Option.map_eq_some_iff.1 killed
        rw [hy, Option.map_some, Option.map_some, Gang.killed, if_pos (.inr st), st]
      · exact killed
    · exact killed

/-- What `State.enterOut` does after the kills leaves waves, gangs and links, and puts the chip in OUT. -/
theorem State.enterOut_spec (s : State) (c : Nat) : ∃ u : State, u.roster = s.roster ∧
    (s.enterOut c).roster = (u.killChip c).roster ∧ ((s.enterOut c).repl c).vst = .out := by
  refine ⟨s.loseLines ((List.range 8).filter fun m => m ≠ c && s.chipExists m && !(s.repl m).out) [c], State.roster_loseLines .., ?_, ?_⟩
  · have posts (l : List Tok) (u : State) :
        (l.foldl (fun s t => if t.src = c then s else s.post (.tokenRefusal t.wave)) u).roster = u.roster :=
      foldl_eq (o := State.roster) _ _ fun s t _ => by split <;> rfl
    exact posts ..
  · simp [State.enterOut]

theorem State.linkUp_false {s : State} {a b : Nat} (h : linkKey a b ∈ s.linkDown) : s.linkUp a b = false := by
  rw [State.linkUp, List.contains_iff_mem.2 h, Bool.not_true, Bool.false_and]

theorem thermal105c_leaves (c : Nat) (s : State) (powered : (s.chip c).powered = true) : Happens (.thermal105c c) s fun t =>
    (t.chip c).powered = false ∧ (t.repl c).vst = .out ∧ (∀ d, d < 8 → d ≠ c → s.chipExists d = true → t.linkUp c d = false) ∧
    ∀ g k, s.gang? g = some k → k.chip = c → k.st ≠ .retired → (t.gang? g).map Gang.st = some .killed := by
  obtain ⟨u, hu, out, vst⟩ := s.enterOut_spec c
  let s1 := (s.enterOut c).modChip c fun x => { x with powered := false }
  let ds := (List.range 8).filter fun d => d ≠ c && s1.chipExists d
  let t := ds.foldl (fun s d => s.dropLink c d) (s1.note c 0x365 [105])
  have run : exec (.thermal105c c) s = .next t := by
    show execThermal105c c s = _
    simp only [execThermal105c, powered]
    rfl
  have away (d : Nat) (hd : d ∈ ds) : d ≠ c := by
    have := (List.mem_filter.1 hd).2
    simp only [Bool.and_eq_true, decide_eq_true_eq] at this
    exact this.1
  have chip : (t.repl c).vst = .out ∧ (t.chip c).powered = false := by
    refine foldl_keeps (P := fun t : State => (t.repl c).vst = .out ∧ (t.chip c).powered = false) _ _ (fun v d hd hv => ?_) ?_
    · rw [State.repl, State.chip_dropLink hv.1 (away d hd)]; exact hv
    · have self : s1.chip c = { (s.enterOut c).chip c with powered := false } := State.chip_modChip_self ..
      have noted : (s1.note c 0x365 [105]).chip c = { s1.chip c with hk := (s1.chip c).hk ++ [{ what := 0x365, args := [105] }] } :=
        State.chip_modChip_self ..
      rw [State.repl, noted, self]
      exact ⟨vst, rfl⟩
  have roster : (t.waves, t.gangs) = ((u.killChip c).waves, (u.killChip c).gangs) := by
    refine (foldl_eq (o := fun s : State => (s.waves, s.gangs)) ds _ fun v d _ => ?_).trans (congrArg (fun r => r.2.2) out)
    exact congrArg (fun r => r.2.2) (v.roster_dropLink c d)
  obtain ⟨waves, gangs⟩ := Prod.mk.inj roster
  obtain ⟨humf4, -, huwaves, hugangs⟩ : u.mf4 = s.mf4 ∧ u.linkDown = s.linkDown ∧ u.waves = s.waves ∧ u.gangs = s.gangs := by
    simpa only [State.roster, Prod.mk.injEq] using hu
  have mf4 : s1.mf4 = s.mf4 :=
    (congrArg (fun r => r.1) out).trans ((congrArg (fun w => w.1) (u.wiring_killChip c)).trans humf4)
  refine ⟨t, run, fun v l => .of_data (State.lane_data ?_ l), chip.2, chip.1, fun d hd ne here => ?_, fun g k hk at' live => ?_⟩
  · have after : t.crew v = (u.killChip c).crew v := congrArg (fun ws => (Table.look ws v).map Wave.datas) waves
    have before : u.crew v = s.crew v := congrArg (fun ws => (Table.look ws v).map Wave.datas) huwaves
    exact after.trans ((State.crew_killChip u c v).trans before)
  · refine State.linkUp_false (foldl_of_step (P := fun _ => True) (Q := fun t : State => linkKey c d ∈ t.linkDown)
      (List.mem_filter.2 ⟨List.mem_range.2 hd, ?_⟩) _ trivial (fun _ _ _ _ => trivial) (fun v _ => v.linkDown_dropLink c d)
      fun v b _ hv => State.mem_linkDown_dropLink hv c b)
    simp only [State.chipExists, mf4]
    simpa [ne, State.chipExists] using here
  · have hk' : u.gang? g = some k := (congrArg (Table.look · g) hugangs).trans hk
    have after : t.gang? g = (u.killChip c).gang? g := congrArg (Table.look · g) gangs
    rw [after]
    exact State.killed_killChip hk' at' live

/-- Settles O54, event by event. -/
theorem resets : Obligations.Resets := by
  unfold Obligations.Resets
  intro isolates going
  refine ⟨fun c s away => happens_same ?_, rstctlWarm_drains, fun c s idle => happens_same ?_, warmDrainComplete_restarts,
    warmDrainComplete_waits, fun c s _ draining late left normal => warmDrainTimeout_isolates c s draining late left normal,
    fun c s idle => happens_same ?_, fun c => ⟨fun s _ normal => ?_, fun s _ normal => ?_⟩, fun c s => ?_, fun c s => happens_same rfl,
    fun c s fix => ?_, fun c s fix => happens_same ?_, fun c s _ powered => thermal105c_leaves c s powered, fun c s off => happens_same ?_,
    fun i n s => ?_⟩
  case refine_1 => exact congrArg Host.Outcome.next (if_pos (by simp [State.inView, away]))
  case refine_2 => exact congrArg Host.Outcome.next (if_pos (by simp [idle]))
  case refine_3 =>
    refine congrArg Host.Outcome.next (if_pos ?_)
    rcases idle with h | h | h <;> simp [h]
  case refine_4 =>
    exact happens_of_keeps rfl (fun _ _ _ _ => State.kept_isolate ..) fun store => ⟨store, State.repl_isolate normal⟩
  case refine_5 =>
    refine happens_of_keeps (t := (s.isolate c).note c 0x321 [c]) rfl (fun _ _ _ _ => by rw [State.kept_note, State.kept_isolate])
      fun store => ⟨store, ?_⟩
    rw [State.repl_note_frame]
    exact State.repl_isolate normal
  case refine_6 =>
    obtain ⟨t, run, mf4, gangs, waves, agenda, links, chips⟩ := chip_coldReset c s
    refine ⟨t, run, mf4, gangs, waves, agenda, links, fun m hm => ?_⟩
    obtain ⟨view, own, slot, tags, applied, fixclk, mhz, meas, members⟩ := bootChip_spec s.mf4 m
    rw [State.repl, chips m hm]
    exact ⟨view, own, slot, tags, applied, fixclk, mhz, meas, by rw [meas]; rfl, members⟩
  case refine_7 =>
    refine happens_of_keeps (t := (s.modSys c fun y => { y with clkmhz := y.clkmhz - 25, fixlost := true }).note c 0x365 [95]) ?_
      (fun _ _ _ _ => by simp) fun store => ⟨store, by simp [State.note], by simp [State.note]⟩
    exact congrArg Host.Outcome.next (if_neg (by simp [fix]))
  case refine_8 => exact congrArg Host.Outcome.next (if_pos (by simp [fix]))
  case refine_9 => exact congrArg Host.Outcome.next (if_pos (by simp [off]))
  case refine_10 =>
    obtain ⟨t, run, threads, retired, hk, store⟩ := channelRetirement_retires i n s
    exact ⟨t, run, threads, retired, hk, fun _ => store⟩

end Sys2Proof.Machine
end

section
/-! SUPPORT. Exact products and the elements of a tile step (07 R151, R152; 14 R301). -/

-- One theorem at a time: many at once ask for more threads than the checker has memory for.
set_option Elab.async false

namespace Sys2Proof.Machine

/-! ### Exact products -/

/-- The product of two finite values, negated or not. -/
theorem dyadic_mul (neg na nb : Bool) (m n : Nat) (e g : Int) :
    (if neg then -1 else 1) * dyadic na m e * dyadic nb n g = dyadic (xor neg (xor na nb)) (m * n) (e + g) := by
  simp only [dyadic, zpow_add₀ (two_ne_zero (α := ℚ)), Nat.cast_mul]
  cases neg <;> cases na <;> cases nb <;> simp <;> ring

/-- The magnitude of a finite value. -/
theorem abs_dyadic (neg : Bool) (m : Nat) (e : Int) : |dyadic neg m e| = m * 2 ^ e := by
  have pos : (0 : ℚ) ≤ m * 2 ^ e := by positivity
  cases neg
  · simp only [dyadic, Bool.false_eq_true, if_false, one_mul, abs_of_nonneg pos]
  · simp only [dyadic, if_true, neg_mul, abs_neg, one_mul, abs_of_nonneg pos]

/-- A magnitude truncated to a whole number: digits added or dropped. -/
theorem floor_scaled (p : Nat) (q : Int) : ⌊(p : ℚ) * 2 ^ q⌋₊ = if 0 ≤ q then p * 2 ^ q.toNat else p / 2 ^ (-q).toNat := by
  split
  · next h =>
    obtain ⟨n, rfl⟩ := Int.eq_ofNat_of_zero_le h
    rw [Int.toNat_natCast, zpow_natCast]
    exact_mod_cast Nat.floor_natCast (R := ℚ) (p * 2 ^ n)
  · next h =>
    obtain ⟨n, hn⟩ := Int.eq_ofNat_of_zero_le (show 0 ≤ -q by omega)
    rw [hn, Int.toNat_natCast, show q = -(n : Int) by omega, zpow_neg, zpow_natCast, ← div_eq_mul_inv]
    exact_mod_cast Nat.floor_div_natCast (K := ℚ) (p : ℚ) (2 ^ n) |>.trans (by rw [Nat.floor_natCast])

/-- An exact product is the product truncated to a multiple of 2^−80. -/
theorem exactProduct_spec (neg : Bool) {a b : Num} (ha : a.isNan = false ∧ a.isInf = false) (hb : b.isNan = false ∧ b.isInf = false) :
    ∃ v nx, exactProduct neg a b = some (v, nx) ∧
      let p : ℚ := (if neg then -1 else 1) * a.rat * b.rat
      v.natAbs = ⌊|p| * 2 ^ 80⌋₊ ∧ 0 ≤ (v : ℚ) * p := by
  obtain ⟨na, m, e, rfl⟩ : ∃ na m e, a = .fin na m e := by
    cases a <;> simp_all [Num.isNan, Num.isInf]
  obtain ⟨nb, n, g, rfl⟩ : ∃ nb n g, b = .fin nb n g := by
    cases b <;> simp_all [Num.isNan, Num.isInf]
  refine ⟨_, _, rfl, ?_⟩
  simp only [Num.rat]
  rw [dyadic_mul, abs_dyadic]
  have scaled : ((m * n : Nat) : ℚ) * 2 ^ (e + g) * 2 ^ 80 = (m * n : Nat) * 2 ^ (e + g + 80) := by
    rw [zpow_add₀ two_ne_zero (e + g) 80, mul_assoc]
    rfl
  rw [scaled, floor_scaled]
  generalize (if 0 ≤ e + g + 80 then m * n * 2 ^ (e + g + 80).toNat else m * n / 2 ^ (-(e + g + 80)).toNat) = t
  have pos : (0 : ℚ) ≤ t * ((m * n : Nat) * 2 ^ (e + g)) := by positivity
  cases xor neg (xor na nb)
  · refine ⟨by simp, ?_⟩
    simpa [dyadic, mul_assoc] using pos
  · refine ⟨by simp, ?_⟩
    simpa [dyadic, mul_assoc] using pos

/-! ### An element -/

/-- The products that are added to an element, as integers in units of 2^−80. -/
theorem exactElem_x (neg : Bool) (x : Quad) (ps : List (Num × Num)) (v : Nat → Int)
    (hv : ∀ n (h : n < ps.length), ∃ nx, exactProduct neg ps[n].1 ps[n].2 = some (v n, nx)) :
    (exactElem neg x ps).x = x + BitVec.ofInt 128 ((List.range ps.length).map v).sum := by
  have step (ps : List (Num × Num)) (v : Nat → Int) (o : ElemOut)
      (hv : ∀ n (h : n < ps.length), ∃ nx, exactProduct neg ps[n].1 ps[n].2 = some (v n, nx)) :
      (ps.foldl (fun o p => match exactProduct neg p.1 p.2 with
        | none => { o with mask := true, nv := true }
        | some (v, nx) => { o with x := o.x + BitVec.ofInt 128 v, nx := o.nx || nx }) o).x =
        o.x + BitVec.ofInt 128 ((List.range ps.length).map v).sum := by
    induction ps generalizing v o with
    | nil => simp
    | cons p r ih =>
      obtain ⟨nx, first⟩ := hv 0 (by simp)
      rw [List.foldl_cons, ih (fun n => v (n + 1)) _ fun n h => hv (n + 1) (Nat.succ_lt_succ h)]
      simp only [List.getElem_cons_zero] at first
      simp only [first, List.length_cons, List.range_succ_eq_map, List.map_cons, List.sum_cons, List.map_map, BitVec.ofInt_add]
      rw [BitVec.add_assoc]
      rfl
  exact step ps v _ hv

/-- An element that a step wrote. -/
theorem ASlot.elem_update (a : ASlot) (os : List ElemOut) (i : Nat) (h : i < os.length) : (a.update os).elem i = os[i].x := by
  have look (os : List ElemOut) (k i : Nat) (h : i < os.length) :
      Table.look ((os.zipIdx k).map fun e => (e.2, e.1.x)) (k + i) = some os[i].x := by
    induction os generalizing k i with
    | nil => simp at h
    | cons o r ih =>
      rw [List.zipIdx_cons, List.map_cons, Table.look]
      cases i with
      | zero => simp
      | succ i =>
        rw [if_neg (by omega), show k + (i + 1) = k + 1 + i by omega, ih _ _ (by simpa using h)]
        rfl
  have here := look os 0 i h
  rw [Nat.zero_add] at here
  exact congrArg (Option.getD · _) here

/-- The elements of rows of equal length. -/
theorem getElem?_flatMap_rows {α : Type} {f : Nat → List α} {m : Nat} (hf : ∀ i, (f i).length = m) {n i j : Nat} (hi : i < n) (hj : j < m) :
    ((List.range n).flatMap f)[m * i + j]? = (f i)[j]? := by
  have length (n : Nat) : ((List.range n).flatMap f).length = m * n := by
    simp [List.length_flatMap, hf, Nat.mul_comm]
  induction n with
  | zero => omega
  | succ n ih =>
    rw [List.range_succ, List.flatMap_append, List.flatMap_singleton]
    by_cases last : i = n
    · subst last
      rw [List.getElem?_append_right (by rw [length]; omega), length, Nat.add_sub_cancel_left]
    · have below : m * i + j < m * n := by
        calc m * i + j < m * i + m := by omega
          _ = m * (i + 1) := by ring
          _ ≤ m * n := Nat.mul_le_mul_left m (by omega)
      rw [List.getElem?_append_left (by rw [length]; exact below), ih (by omega)]

/-- The row of A, or the column of B, that an element takes. -/
theorem Tile.getElem_line (t : Tile) (w : Nat) (trans : Bool) (i n : Nat) (h : n < (t.line w trans i).length) :
    (t.line w trans i)[n] = t.elem w (if trans then 32 * w * n + w * i else 1024 * i + w * n) := by
  simp [Tile.line]

@[simp] theorem Tile.length_line (t : Tile) (w : Nat) (trans : Bool) (i : Nat) : (t.line w trans i).length = 1024 / w := by
  simp [Tile.line]

/-- An element of an exact slot after a step. -/
theorem ASlot.elem_step (a : ASlot) (exact' : a.mode = some .exact) (neg transA transB : Bool) (ta tb : Tile) {i j : Nat} (hi : i < 32)
    (hj : j < 32) : (a.step neg transA transB ta tb).elem (32 * i + j) = (exactElem neg (a.elem (32 * i + j))
      ((ta.line (headWidth (ta.head 0).1) transA i).zip (tb.line (headWidth (ta.head 0).1) transB j))).x := by
  let w := headWidth (ta.head 0).1
  let row (i : Nat) : List ElemOut := ((List.range 32).map fun j => tb.line w transB j).zipIdx.map fun c =>
    if a.mode = some .wide then wideElem neg (a.elem (32 * i + c.2)) ((ta.line w transA i).zip c.1)
    else exactElem neg (a.elem (32 * i + c.2)) ((ta.line w transA i).zip c.1)
  have length (i : Nat) : (row i).length = 32 := by simp [row]
  have all : ((List.range 32).flatMap row)[32 * i + j]? = (row i)[j]? := getElem?_flatMap_rows length hi hj
  have here : (row i)[j]? = some (exactElem neg (a.elem (32 * i + j)) ((ta.line w transA i).zip (tb.line w transB j))) := by
    simp [row, exact', hj]
  obtain ⟨h, at'⟩ := List.getElem?_eq_some_iff.1 (all.trans here)
  exact (ASlot.elem_update a ((List.range 32).flatMap row) (32 * i + j) h).trans (congrArg ElemOut.x at')

/-- The steps of 07 R151 and R152 on an exact slot, as sums of truncated products. -/
theorem ASlot.elem_step_sum (a : ASlot) (exact' : a.mode = some .exact) (neg transA transB : Bool) (ta tb : Tile) {i j : Nat} (hi : i < 32)
    (hj : j < 32) (w : Nat) (hw : w = headWidth (ta.head 0).1) (x y : Nat → Num)
    (hx : ∀ n, x n = ta.elem w (if transA then 32 * w * n + w * i else 1024 * i + w * n))
    (hy : ∀ n, y n = tb.elem w (if transB then 32 * w * n + w * j else 1024 * j + w * n))
    (finite : ∀ n, n < 1024 / w → ((x n).isNan = false ∧ (x n).isInf = false) ∧ (y n).isNan = false ∧ (y n).isInf = false) :
    ∃ v : Nat → Int, (∀ n, n < 1024 / w →
      let p : ℚ := (if neg then -1 else 1) * (x n).rat * (y n).rat
      (v n).natAbs = ⌊|p| * 2 ^ 80⌋₊ ∧ 0 ≤ (v n : ℚ) * p) ∧
      (a.step neg transA transB ta tb).elem (32 * i + j) = a.elem (32 * i + j) + BitVec.ofInt 128 ((List.range (1024 / w)).map v).sum := by
  let v (n : Nat) : Int := ((exactProduct neg (x n) (y n)).map Prod.fst).getD 0
  have product (n : Nat) (hn : n < 1024 / w) := exactProduct_spec neg (finite n hn).1 (finite n hn).2
  refine ⟨v, fun n hn => ?_, ?_⟩
  · obtain ⟨u, nx, eq, spec⟩ := product n hn
    simpa only [v, eq, Option.map_some, Option.getD_some] using spec
  · subst hw
    rw [ASlot.elem_step a exact' neg transA transB ta tb hi hj, exactElem_x _ _ _ v fun n h => ?_]
    · simp
    · have hn : n < 1024 / headWidth (ta.head 0).1 := by simpa using h
      obtain ⟨u, nx, eq, -⟩ := product n hn
      refine ⟨nx, ?_⟩
      simp only [List.getElem_zip, Tile.getElem_line, ← hx, ← hy, v, eq, Option.map_some, Option.getD_some]

end Sys2Proof.Machine
end

section
/-! SUPPORT. The dispatch of a task and a step of one (14 R300, R301). Settles O45. -/

-- One theorem at a time: many at once ask for more threads than the checker has memory for.
set_option Elab.async false

namespace Sys2Proof.Machine

/-! ### Dispatch -/

/-- A task that nothing holds may start. -/
theorem State.gate_go {s : State} {cl id : Nat} {t : Task} (page : t.page = none) (hand : t.field 0x18 64 = 0)
    (preds : ∀ p, p = t.field 0x10 32 ∨ p = t.field 0x14 32 → p ≠ 0 → ∀ u, Table.look (s.cluster cl).tasks p = some u → u.st = .done ∨ u.st = .dropped)
    (first : ∀ e ∈ (s.cluster cl).tasks, e.2.live = true → e.2.wg = t.wg → e.2.cslot = t.cslot → t.order ≤ e.2.order) :
    s.gate cl id t = (.go, s) := by
  have named {p : Nat} (hp : p ∈ [t.field 0x10 32, t.field 0x14 32].filter fun p => p ≠ 0) (u : Task)
      (hu : Table.look (s.cluster cl).tasks p = some u) : u.st = .done ∨ u.st = .dropped := by
    simp only [List.mem_filter, List.mem_cons, List.not_mem_nil, or_false, ne_eq, decide_not, Bool.not_eq_true', decide_eq_false_iff_not] at hp
    exact preds p hp.1 hp.2 u hu
  have unfaulted : ([t.field 0x10 32, t.field 0x14 32].filter fun p => p ≠ 0).any (s.cluster cl).predFaulted = false := by
    rw [List.any_eq_false]
    intro p hp
    unfold Cluster.predFaulted
    split
    · decide
    · next u hu => rcases named hp u hu with h | h <;> simp [h]
  have ended : (([t.field 0x10 32, t.field 0x14 32].filter fun p => p ≠ 0).any fun p => !(s.cluster cl).predDone p) = false := by
    rw [List.any_eq_false]
    intro p hp
    unfold Cluster.predDone
    split
    · decide
    · next u hu => rcases named hp u hu with h | h <;> simp [h]
  have earliest : (s.cluster cl).tasks.any (fun e => e.2.live && e.2.wg = t.wg && e.2.cslot = t.cslot && decide (e.2.order < t.order)) = false := by
    rw [List.any_eq_false]
    intro e he
    simp only [Bool.and_eq_true, decide_eq_true_eq, not_and, not_lt]
    exact fun h => first e he h.1.1 h.1.2 h.2
  simp only [State.gate, unfaulted, ended, earliest, page, hand, Bool.false_eq_true, if_false, if_true]

@[simp] theorem State.kept_sample (s : State) (i a n : Nat) {v c k h : Nat} : (s.sample i a n).kept v c k h = s.kept v c k h :=
  congrArg Obs.kept (State.obs_sample ..)

@[simp] theorem State.cluster_sample (s : State) (i a n d : Nat) : (s.sample i a n).cluster d = s.cluster d := by
  unfold State.sample
  simp only
  split <;> rfl

@[simp] theorem State.kept_modTask (s : State) (cl id : Nat) (f : Task → Task) {v c k h : Nat} :
    (s.modTask cl id f).kept v c k h = s.kept v c k h := State.kept_modCluster (fun _ => rfl) fun _ => rfl

/-- A task that was changed. -/
@[simp] theorem State.look_modTask (s : State) (cl id : Nat) (f : Task → Task) :
    Table.look ((s.modTask cl id f).cluster cl).tasks id = (Table.look (s.cluster cl).tasks id).map f := by
  simp [State.modTask, Table.look_modify]

theorem taskDispatch_starts (cl : Nat) (s : State) (id : Nat) (r : List Nat) (t : Task) (waiting : (s.cluster cl).waitingTasks = id :: r)
    (room : ((s.cluster cl).tasks.filter fun e => e.2.st = .running).length < 16) (ht : Table.look (s.cluster cl).tasks id = some t)
    (go : s.gate cl id t = (.go, s)) : Happens (.taskDispatch cl) s fun u => s.SameStore u ∧
      (Table.look (u.cluster cl).tasks id).map Task.st = some .running ∧ .tileStep cl id ∈ u.agenda := by
  have run : exec (.taskDispatch cl) s = .next (s.startTask cl id t) := by
    show execTaskDispatch cl s = _
    have free : ¬ 16 ≤ ((s.cluster cl).tasks.filter fun e => e.2.st = .running).length := by omega
    simp only [execTaskDispatch, free, waiting, if_false, dispatchFrom, ht, go]
  refine happens_of_keeps run (fun _ _ _ _ => by simp [State.startTask]) fun store => ⟨store, ?_, ?_⟩
  · simp [State.startTask, ht]
  · exact State.mem_postOnce (State.mem_post_self ..)

/-! ### A step -/

/-- A bit of a number. -/
theorem bit_eq_testBit (x i : Nat) : bit x i = x.testBit i := Nat.testBit_eq_decide_div_mod_eq.symm

/-- A task that releases no slot: bits 0 to 2 of its flags. -/
theorem Task.releases_none {t : Task} (h : t.field 1 3 = 0) :
    bit (t.field 1 8) 0 = false ∧ bit (t.field 1 8) 1 = false ∧ bit (t.field 1 8) 2 = false := by
  have low : t.record.toNat / 2 ^ 8 % 2 ^ 3 = 0 := h
  have flags : t.field 1 8 = t.record.toNat / 2 ^ 8 % 2 ^ 8 := rfl
  simp only [bit, flags, decide_eq_false_iff_not]
  omega

/-- What an ended task of a graph does besides. -/
theorem endNode_eq {β : Type} {o : State → β} (hw : ∀ s i f, o (s.modWg i f) = o s)
    (hn : ∀ s core g n code, o (s.endNode core g n code) = o s) (s : State) (t : Task) (id : Nat) :
    o (match t.node with
      | some (g, n) => (s.closeTask t.wg id).endNode t.core g n 0
      | none => s) = o s := by
  split
  · exact (hn ..).trans (hw ..)
  · rfl

@[simp] theorem State.kept_endNode (s : State) (core g n code : Nat) {v c k h : Nat} :
    (s.endNode core g n code).kept v c k h = s.kept v c k h := by
  unfold State.endNode
  rw [State.kept_post]
  exact State.kept_modCore (fun _ => rfl) fun _ => rfl

/-- A task that releases no slot ends. -/
theorem State.taskDone_spec {s : State} {cl id : Nat} {t : Task} (ht : Table.look (s.cluster cl).tasks id = some t) (h : t.field 1 3 = 0) :
    s.Keeps (s.taskDone cl id t) ∧ Table.look ((s.taskDone cl id t).cluster cl).tasks id = some { t with st := .done } := by
  obtain ⟨a, b, c⟩ := Task.releases_none h
  unfold State.taskDone
  simp only [a, b, c, Bool.false_eq_true, if_false]
  refine ⟨fun v c k h => ?_, ?_⟩
  · exact (endNode_eq (o := fun s => s.kept v c k h) (fun _ _ _ => rfl) (fun _ _ _ _ _ => State.kept_endNode ..) _ t id).trans (by simp)
  · exact (endNode_eq (o := fun s => Table.look (s.cluster cl).tasks id) (fun _ _ _ => rfl) (fun _ _ _ _ _ => rfl) _ t id).trans
      (by simp [ht])

/-- The state after a step of a task that has its sources: its slot, and the task itself. -/
theorem tileStep_steps {cl id : Nat} {s : State} {t : Task} {x : Workgroup} {g : Gang} {pa pb c : Nat}
    (ht : Table.look (s.cluster cl).tasks id = some t) (running : t.st = .running) (page : t.page = none) (party : s.party t.wg = some (x, g))
    (live : g.st ≠ .killed) (part : t.partDone = true ∨ t.field 0x28 64 = 0) (aRing : (t.field 8 32).testBit 31 = false)
    (bRing : (t.field 0xC 32).testBit 31 = false) (aSub : t.aSub = none) (bSub : t.bSub = none)
    (ha : x.oslot (t.field 8 32 % 2 ^ 12 + t.step) = some pa) (hb : x.oslot (t.field 0xC 32 % 2 ^ 12 + t.step) = some pb)
    (ua : t.field 8 32 % 2 ^ 12 + t.step ∉ t.undef) (ub : t.field 0xC 32 % 2 ^ 12 + t.step ∉ t.undef) (hc : x.aslot t.cslot = some c)
    (keep : t.field 1 3 = 0)
    (heads : headFault (s.aslot cl c).mode t.cslot [s.fetchTile cl (t.field 8 32 % 2 ^ 12 + t.step) pa,
      s.fetchTile cl (t.field 0xC 32 % 2 ^ 12 + t.step) pb] = none) :
    ∃ u, exec (.tileStep cl id) s = .next u ∧
      (s.setAslot cl c ((s.aslot cl c).step (decide (t.field 0 8 = 1)) (bit (t.field 1 8) 3) (bit (t.field 1 8) 4)
        (s.fetchTile cl (t.field 8 32 % 2 ^ 12 + t.step) pa) (s.fetchTile cl (t.field 0xC 32 % 2 ^ 12 + t.step) pb))).Keeps u ∧
      (Table.look (u.cluster cl).tasks id).map (fun v => (v.st, v.step)) =
        some (if t.step + 1 = t.field 4 32 then (.done, t.step) else (.running, t.step + 1)) := by
  let s' := s.setAslot cl c ((s.aslot cl c).step (decide (t.field 0 8 = 1)) (bit (t.field 1 8) 3) (bit (t.field 1 8) 4)
    (s.fetchTile cl (t.field 8 32 % 2 ^ 12 + t.step) pa) (s.fetchTile cl (t.field 0xC 32 % 2 ^ 12 + t.step) pb))
  have ht' : Table.look (s'.cluster cl).tasks id = some t := by
    simpa [s', State.setAslot] using ht
  have srcA : s.stepSrc cl t x (t.field 8 32) none t.aBase = .slot (t.field 8 32 % 2 ^ 12 + t.step) pa false := by
    simp only [State.stepSrc, bit_eq_testBit, aRing, Bool.false_eq_true, if_false, ha, List.contains_eq_mem, ua, decide_false]
  have srcB : s.stepSrc cl t x (t.field 0xC 32) none t.bBase = .slot (t.field 0xC 32 % 2 ^ 12 + t.step) pb false := by
    simp only [State.stepSrc, bit_eq_testBit, bRing, Bool.false_eq_true, if_false, hb, List.contains_eq_mem, ub, decide_false]
  have run : exec (.tileStep cl id) s = .next (if t.step + 1 = t.field 4 32 then s'.taskDone cl id t
      else (s'.modTask cl id fun t => { t with step := t.step + 1 }).post (.tileStep cl id)) := by
    show execTileStep cl id s = _
    have ready : (t.partDone || decide (t.field 0x28 64 = 0)) = true := by simpa using part
    simp only [execTileStep, ht, running, party, live, page, ready, ne_eq, not_true_eq_false, if_false, if_true]
    simp only [State.taskStep, srcA, srcB, hc, Bool.false_eq_true, if_false, List.cons_append, List.nil_append, heads, Bool.or_false, aSub, bSub,
      State.consumed]
    rfl
  refine ⟨_, run, ?_⟩
  split
  · obtain ⟨keeps, look⟩ := State.taskDone_spec ht' keep
    exact ⟨keeps, by rw [look]; rfl⟩
  · exact ⟨fun v c k h => by rw [State.kept_post, State.kept_modTask], by simp [ht', running]⟩

/-- Settles O45, by the dispatch and the sums of a step. -/
theorem tileSteps : Obligations.TileSteps := by
  unfold Obligations.TileSteps
  refine ⟨fun cl s id r t waiting room ht page hand preds first =>
    taskDispatch_starts cl s id r t waiting room ht (State.gate_go page hand preds first), ?_⟩
  intro cl id s t x g pa pb c ht running page party live part aRing bRing aSub bSub na nb ha hb ua ub hc keep tile old heads
  obtain ⟨u, run, keeps, task⟩ := tileStep_steps ht running page party live part aRing bRing aSub bSub ha hb ua ub hc keep heads
  let s' := s.setAslot cl c (old.step (decide (t.field 0 8 = 1)) (bit (t.field 1 8) 3) (bit (t.field 1 8) 4) (tile na pa) (tile nb pb))
  have store := keeps.sameStore
  have aslot (k p : Nat) : u.aslot k p = s'.aslot k p := congrArg (Table.at · p ASlot.empty) (store.aslots k)
  refine ⟨u, run, keeps.sameThreads, ⟨store.mem, store.repl, store.scratch⟩, fun k => (store.oslots k).trans ?_, fun k p other => (aslot k p).trans ?_,
    task, fun exact' => ?_⟩
  · simp only [State.setAslot, State.cluster_modCluster]
    split
    · next e => rw [e]
    · rfl
  · simp only [s', State.aslot, State.setAslot, State.cluster_modCluster]
    split
    · next e => rw [Table.at_put_other _ _ _ fun h => other ⟨e, h⟩, e]
    · rfl
  · intro w a b finite i j hi hj
    obtain ⟨v, spec, sum⟩ := ASlot.elem_step_sum old exact' (decide (t.field 0 8 = 1)) (bit (t.field 1 8) 3) (bit (t.field 1 8) 4) (tile na pa)
      (tile nb pb) hi hj w rfl (a i) (b j) (fun n => by simp only [a, bit_eq_testBit]) (fun n => by simp only [b, bit_eq_testBit])
      fun n hn => ⟨⟨(finite i j n hi hj hn).1, (finite i j n hi hj hn).2.1⟩, (finite i j n hi hj hn).2.2⟩
    refine ⟨v, by simpa only [decide_eq_true_eq] using spec, ?_⟩
    rw [aslot]
    refine Eq.trans ?_ sum
    simp [s', State.aslot, State.setAslot]

end Sys2Proof.Machine
end

section
/-! SUPPORT. Write-lane grants, host-line fills and snoops (08 R180, R181; 11 R248, R249; for O52). -/

-- One theorem at a time: many at once ask for more threads than the checker has memory for.
set_option Elab.async false

namespace Sys2Proof.Machine

/-! ### The block that a write lane grants next -/

/-- One step of the search for the oldest waiter. -/
def olderWaiter (m : Option Waiter) (e : Waiter) : Option Waiter :=
  match m with
  | none => some e
  | some q => if e.id < q.id then some e else some q

theorem oldestWaiter_eq (ws : List Waiter) : oldestWaiter ws = ws.foldl olderWaiter none := rfl

theorem foldl_olderWaiter (ws : List Waiter) (q : Waiter) : ∃ w, ws.foldl olderWaiter (some q) = some w ∧ (w = q ∨ w ∈ ws) ∧ w.id ≤ q.id ∧
    ∀ o ∈ ws, w.id ≤ o.id := by
  induction ws generalizing q with
  | nil => exact ⟨q, rfl, .inl rfl, le_refl _, by simp⟩
  | cons a r ih =>
    have step : olderWaiter (some q) a = some (if a.id < q.id then a else q) := by simp only [olderWaiter]; split <;> rfl
    obtain ⟨w, hw, hm, hle, hall⟩ := ih (if a.id < q.id then a else q)
    refine ⟨w, by rw [List.foldl_cons, step, hw], ?_, ?_, ?_⟩
    · split at hm <;> rcases hm with rfl | h <;> simp_all
    · split at hle <;> omega
    · intro o ho
      rcases List.mem_cons.1 ho with rfl | ho
      · split at hle <;> omega
      · exact hall o ho

theorem oldestWaiter_spec {ws : List Waiter} (h : ws ≠ []) : ∃ w, oldestWaiter ws = some w ∧ w ∈ ws ∧ ∀ o ∈ ws, w.id ≤ o.id := by
  obtain ⟨a, r, rfl⟩ := List.exists_cons_of_ne_nil h
  obtain ⟨w, hw, hm, hle, hall⟩ := foldl_olderWaiter r a
  refine ⟨w, (oldestWaiter_eq _).trans hw, List.mem_cons.2 hm, fun o ho => ?_⟩
  rcases List.mem_cons.1 ho with rfl | ho
  · exact hle
  · exact hall o ho

/-- The chosen block: of a region of weight where there is one, and of its region the oldest (08 R180). -/
theorem State.pickWaiter_spec (s : State) (k : Nat) {ws : List Waiter} (h : ws ≠ []) : ∃ w wrr, s.pickWaiter k ws = some (w, wrr) ∧ w ∈ ws ∧
    (∀ o ∈ ws, (s.laneBudget o.gang).1 = 0 ∨ (s.laneBudget w.gang).1 ≠ 0) ∧
    ∀ o ∈ ws, o.rcb = w.rcb → (s.laneBudget o.gang).1 = (s.laneBudget w.gang).1 → w.id ≤ o.id := by
  simp only [State.pickWaiter]
  by_cases light : ws.filter (fun e => decide ((s.laneBudget e.gang).1 ≠ 0)) = []
  · obtain ⟨w, hw, hm, hall⟩ := oldestWaiter_spec h
    refine ⟨w, _, by rw [if_pos light, hw]; rfl, hm, fun o ho => .inl ?_, fun o ho _ _ => hall o ho⟩
    simpa using List.filter_eq_nil_iff.1 light o ho
  · rw [if_neg light]
    by_cases left : (ws.filter (fun e => decide ((s.laneBudget e.gang).1 ≠ 0))).filter
        (fun e => decide (Table.at (s.cluster k).wrr e.rcb 0 ≠ 0)) = []
    · obtain ⟨w, hw, hm, hall⟩ := oldestWaiter_spec light
      have heavy := (List.mem_filter.1 hm).2
      refine ⟨w, _, by simp only [left, ne_eq, not_true_eq_false, if_false]; rw [hw]; rfl, (List.mem_filter.1 hm).1,
        fun o _ => .inr (by simpa using heavy), fun o ho _ same => hall o (List.mem_filter.2 ⟨ho, by rw [same]; exact heavy⟩)⟩
    · obtain ⟨w, hw, hm, hall⟩ := oldestWaiter_spec left
      have mid := (List.mem_filter.1 hm).1
      have heavy := (List.mem_filter.1 mid).2
      refine ⟨w, _, by rw [if_pos left]; simp only []; rw [hw]; rfl, (List.mem_filter.1 mid).1, fun o _ => .inr (by simpa using heavy),
        fun o ho region same => hall o (List.mem_filter.2 ⟨List.mem_filter.2 ⟨ho, by rw [same]; exact heavy⟩, ?_⟩)⟩
      rw [region]
      exact (List.mem_filter.1 hm).2

theorem State.pickWaiter_nil (s : State) (k : Nat) : s.pickWaiter k [] = none := rfl

/-! ### The write lane -/

@[simp] theorem State.kept_capCount (s : State) (i g n : Nat) {v c k h : Nat} : (s.capCount i g n).kept v c k h = s.kept v c k h := by
  simp only [State.capCount]
  split
  · rfl
  · simp

@[simp] theorem State.core_capCount (s : State) (i g n d : Nat) : (s.capCount i g n).core d = s.core d := by
  simp only [State.capCount]; split <;> rfl

@[simp] theorem State.kept_grantLane (s : State) (w : Waiter) {v c k h : Nat} : (s.grantLane w).kept v c k h = s.kept v c k h :=
  State.kept_modCore (fun x => by split <;> rfl) (fun x => by split <;> rfl)

theorem writeLaneGrant_idle (k : Nat) (s : State) (live : s.stackLive k = true)
    (none : (s.laneWaiters k).filter (fun e => s.capRoom k e.gang) = []) : Happens (.writeLaneGrant k) s fun t => t = s := by
  refine happens_same ?_
  show execWriteLaneGrant k s = _
  simp only [execWriteLaneGrant, live, none, State.pickWaiter_nil]
  rfl

theorem writeLaneGrant_grants (k : Nat) (s : State) (live : s.stackLive k = true) (waits : ∃ e ∈ s.laneWaiters k, s.capRoom k e.gang = true) :
    Happens (.writeLaneGrant k) s fun t => s.SameStore t ∧
    ∃ w ∈ s.laneWaiters k, s.capRoom k w.gang = true ∧ w.event ∈ t.agenda ∧
      (∀ e, w.copy = false → Table.look (s.core w.core).wq w.id = some e → Table.look (t.core w.core).wq w.id = some { e with granted := true }) ∧
      (∀ e, w.copy = true → Table.look (s.core w.core).copies w.id = some e →
        Table.look (t.core w.core).copies w.id = some { e with lane := none, granted := true }) ∧
      (∀ o ∈ s.laneWaiters k, s.capRoom k o.gang = true → (s.laneBudget o.gang).1 = 0 ∨ (s.laneBudget w.gang).1 ≠ 0) ∧
      (∀ o ∈ s.laneWaiters k, s.capRoom k o.gang = true → o.rcb = w.rcb → (s.laneBudget o.gang).1 = (s.laneBudget w.gang).1 → w.id ≤ o.id) ∧
      (1 < (s.laneWaiters k).length → .writeLaneGrant k ∈ t.agenda) := by
  obtain ⟨e, he, room⟩ := waits
  obtain ⟨w, wrr, pick, hw, heavy, oldest⟩ := s.pickWaiter_spec k (List.ne_nil_of_mem (List.mem_filter (p := fun e => s.capRoom k e.gang).2 ⟨he, room⟩))
  obtain ⟨hw, roomy⟩ := List.mem_filter.1 hw
  set u := (((s.modCluster k fun c => { c with wrr }).capCount k w.gang 1).grantLane w).post w.event
  have run : exec (.writeLaneGrant k) s = .next (if (s.laneWaiters k).length ≤ 1 then u else u.postOnce (.writeLaneGrant k)) := by
    show execWriteLaneGrant k s = _
    simp only [execWriteLaneGrant, live, pick]
    rfl
  have keeps : s.Keeps (if (s.laneWaiters k).length ≤ 1 then u else u.postOnce (.writeLaneGrant k)) := fun v c i h => by
    split <;> simp [u]
  have core (d : Nat) : (if (s.laneWaiters k).length ≤ 1 then u else u.postOnce (.writeLaneGrant k)).core d = u.core d := by
    split <;> simp
  have granted : u.core w.core = if w.copy then { s.core w.core with copies := Table.modify (s.core w.core).copies w.id fun e => { e with lane := none, granted := true } }
    else { s.core w.core with wq := Table.modify (s.core w.core).wq w.id fun e => { e with granted := true } } := by
    simp [u, State.grantLane]
  refine happens_of_keeps run keeps fun same => ⟨same, w, hw, roomy, ?_, fun e copy look => ?_, fun e copy look => ?_,
    fun o ho r => heavy o (List.mem_filter.2 ⟨ho, r⟩), fun o ho r => oldest o (List.mem_filter.2 ⟨ho, r⟩), fun many => ?_⟩
  · have here : w.event ∈ u.agenda := State.mem_post_self ..
    split
    · exact here
    · exact State.mem_postOnce here
  · rw [core, granted, copy]; simp [Table.look_modify, look]
  · rw [core, granted, copy]; simp [Table.look_modify, look]
  · rw [if_neg (by omega)]; exact State.mem_agenda_postOnce ..

theorem laneWaiters_modCluster (s : State) (i k : Nat) (f : Cluster → Cluster) : (s.modCluster i f).laneWaiters k = s.laneWaiters k := rfl

theorem wcapWindow_clears (k : Nat) (s : State) : Happens (.wcapWindow k) s fun t => s.SameStore t ∧ (t.cluster k).wcap = [] ∧
    (s.laneWaiters k ≠ [] → .writeLaneGrant k ∈ t.agenda) := by
  have run : exec (.wcapWindow k) s = .next (if s.laneWaiters k = [] then s.modCluster k fun c => { c with wcap := [] }
    else (s.modCluster k fun c => { c with wcap := [] }).postOnce (.writeLaneGrant k)) := rfl
  refine happens_of_keeps run (fun v c i h => ?_) fun same => ⟨same, ?_, fun wait => ?_⟩
  · split <;> simp
  · split <;> simp
  · rw [if_neg wait]; exact State.mem_agenda_postOnce ..

end Sys2Proof.Machine
end

section
/-! SUPPORT. Host-line fills and snoops (11 R248, R249, Table 11.7; for O52). -/

-- One theorem at a time: many at once ask for more threads than the checker has memory for.
set_option Elab.async false

namespace Sys2Proof.Machine

/-! ### A fill of a host line -/

/-- A chip's copy of a line when another chip reads the line: M goes to O, E to S. -/
def HostSt.shared (v : HostSt) : HostSt := if v = .m then .o else if v = .e then .s else v

/-- One peer's answer to a read of a line. -/
def State.shareLine (s : State) (line c : Nat) : State :=
  match Table.look (s.chip c).hostLines line with
  | some .m => s.modChip c fun x => { x with hostLines := Table.put x.hostLines line .o }
  | some .e => s.modChip c fun x => { x with hostLines := Table.put x.hostLines line .s }
  | _ => s

variable {v c k h : Nat}

@[simp] theorem State.kept_shareLine (s : State) (n i : Nat) : (s.shareLine n i).kept v c k h = s.kept v c k h := by
  unfold State.shareLine; split <;> simp

theorem State.hostSt_shareLine (s : State) (n i d l : Nat) :
    (s.shareLine n i).hostSt d l = if l = n ∧ d = i then (s.hostSt d l).map HostSt.shared else s.hostSt d l := by
  have put (w : HostSt) : (s.modChip i fun x => { x with hostLines := Table.put x.hostLines n w }).hostSt d l =
      if l = n ∧ d = i then some w else s.hostSt d l := by
    by_cases hd : d = i
    · subst hd
      simp [State.hostSt, Table.look_put]
    · simp [State.hostSt, hd]
  unfold State.shareLine
  split
  · next e => rw [put]; split <;> simp_all [State.hostSt, HostSt.shared]
  · next e => rw [put]; split <;> simp_all [State.hostSt, HostSt.shared]
  · next e e' =>
    split
    · next here =>
      obtain ⟨rfl, rfl⟩ := here
      show Table.look (s.chip d).hostLines l = (Table.look (s.chip d).hostLines l).map _
      cases look : Table.look (s.chip d).hostLines l with
      | none => rfl
      | some w => cases w <;> simp_all [HostSt.shared]
    · rfl

theorem HostSt.shared_shared (w : HostSt) : w.shared.shared = w.shared := by cases w <;> rfl

/-- Every peer has answered. -/
theorem State.hostSt_shareLines (ms : List Nat) (s : State) (n d l : Nat) :
    (ms.foldl (fun s c => s.shareLine n c) s).hostSt d l = if l = n ∧ d ∈ ms then (s.hostSt d l).map HostSt.shared else s.hostSt d l := by
  induction ms generalizing s with
  | nil => simp
  | cons m r ih =>
    rw [List.foldl_cons, ih, State.hostSt_shareLine]
    by_cases hl : l = n
    · subst hl
      by_cases hm : d = m
      · subst hm
        cases s.hostSt d l <;> simp [HostSt.shared_shared]
      · simp [hm]
    · simp [hl]

/-- The chips of the module that hold a copy of a line, but for one. -/
def State.peers (s : State) (d n : Nat) : Bool :=
  (List.range 8).any fun c => c ≠ d && (Table.look (s.chip c).hostLines n).isSome

/-- The state in which the caching chip takes the line: E where there is no peer and the host grants it. -/
def State.takenSt (s : State) (others : Bool) : HostSt := if !others && s.freshValue.getLsbD 0 then .e else .s

/-- The caching chip takes the line. -/
def State.takeLine (s : State) (d n : Nat) (others : Bool) : State :=
  (s.modChip d fun x => { x with hostLines := Table.put x.hostLines n (s.takenSt others) }).useFree

/-- The copy that a fill makes at the caching chip, once there is room and the peers have answered. -/
def State.fillLine (s : State) (d n : Nat) : State :=
  ((List.range 8).foldl (fun s c => s.shareLine n c) s).takeLine d n (s.peers d n)

theorem State.hostRead_eq {s : State} {c n : Nat} (out : s.hostSt (s.hostCache c) n = none) :
    s.hostRead c n = (s.hostRooms (s.hostCache c) n).fillLine (s.hostCache c) n := by
  have out : Table.look (s.chip (s.hostCache c)).hostLines n = none := out
  unfold State.hostRead
  simp only [out]
  rfl

@[simp] theorem State.kept_fillLine (s : State) (d n : Nat) : (s.fillLine d n).kept v c k h = s.kept v c k h := by
  have fold := foldl_eq (o := fun s => s.kept v c k h) (List.range 8) s fun s a _ => State.kept_shareLine s n a
  simpa [State.fillLine, State.takeLine] using fold

theorem State.hostSt_modChip_lines (s : State) (i d l : Nat) (f : Table HostSt → Table HostSt) :
    (s.modChip i fun x => { x with hostLines := f x.hostLines }).hostSt d l =
      if d = i then Table.look (f (s.chip i).hostLines) l else s.hostSt d l := by
  by_cases hd : d = i
  · subst hd; simp [State.hostSt]
  · simp [State.hostSt, hd]

theorem State.hostSt_fillLine (s : State) {d n : Nat} (out : s.hostSt d n = none) :
    (∃ v, (s.fillLine d n).hostSt d n = some v ∧ (v = .s ∨ v = .e ∧ s.peers d n = false)) ∧
    (∀ l, l ≠ n → ∀ e, (s.fillLine d n).hostSt e l = s.hostSt e l) ∧
    ∀ e, e < 8 → e ≠ d → (s.fillLine d n).hostSt e n = (s.hostSt e n).map HostSt.shared := by
  have peer (e l : Nat) := State.hostSt_shareLines (List.range 8) s n e l
  unfold State.fillLine
  generalize (List.range 8).foldl (fun s c => s.shareLine n c) s = u at peer ⊢
  have look (e l : Nat) : (u.takeLine d n (s.peers d n)).hostSt e l =
      if e = d then Table.look (Table.put (u.chip d).hostLines n (u.takenSt (s.peers d n))) l else u.hostSt e l :=
    State.hostSt_modChip_lines u d e l fun t => Table.put t n (u.takenSt (s.peers d n))
  refine ⟨⟨u.takenSt (s.peers d n), by simp [look], ?_⟩, fun l hl e => ?_, fun e he hd => ?_⟩
  · unfold State.takenSt
    cases s.peers d n <;> cases u.freshValue.getLsbD 0 <;> simp
  · rw [look]
    have same : u.hostSt e l = s.hostSt e l := by rw [peer, if_neg fun h => hl h.1]
    split
    · next hd =>
      subst hd
      rw [Table.look_put, if_neg hl]
      exact same
    · exact same
  · rw [look, if_neg hd, peer, if_pos ⟨rfl, List.mem_range.2 he⟩]

theorem State.hostRoom_room {s : State} {d n : Nat} (room : (s.hostSet d (n % hostSets)).contains n = true ∨ (s.hostSet d (n % hostSets)).length < hostWays) :
    s.hostRoom d n = s := by
  unfold State.hostRoom
  cases set : s.hostSet d (n % hostSets) with
  | nil => rfl
  | cons a r =>
    rw [set] at room
    exact if_pos (by simpa using room)

theorem State.hostRooms_takes {s : State} {c n : Nat} (takes : s.takesLine c n = true) : s.hostRooms (s.hostCache c) n = s := by
  simp only [State.takesLine, List.all_cons, List.all_nil, Bool.and_true, Bool.and_eq_true, Bool.or_eq_true, decide_eq_true_eq] at takes
  rw [State.hostRooms, State.hostRoom_room takes.2, State.hostRoom_room takes.1]

theorem State.peers_false {s : State} {d n : Nat} (h : s.peers d n = false) {e : Nat} (he : e < 8) (hd : e ≠ d) : s.hostSt e n = none := by
  have := List.any_eq_false.1 h e (List.mem_range.2 he)
  simpa [hd, State.hostSt] using this

theorem hostLineFill_fills (c n : Nat) (s : State) (host : hostLine n = true) (here : s.chipExists c = true)
    (out : s.hostSt (s.hostCache c) n = none) (takes : s.takesLine c n = true) : Happens (.hostLineFill c n) s fun t => s.SameStore t ∧
      (∃ v, t.hostSt (s.hostCache c) n = some v ∧ (v = .s ∨ v = .e ∧ ∀ d, d < 8 → d ≠ s.hostCache c → s.hostSt d n = none)) ∧
      ∀ d, d < 8 → d ≠ s.hostCache c → t.hostSt d n = (s.hostSt d n).map fun v => if v = .m then .o else if v = .e then .s else v := by
  have run : exec (.hostLineFill c n) s = .next (s.fillLine (s.hostCache c) n) := by
    show execHostLineFill c n s = _
    rw [execHostLineFill, host, here, State.hostRead_eq out, State.hostRooms_takes takes]
    rfl
  obtain ⟨⟨v, hv, grade⟩, -, peers⟩ := s.hostSt_fillLine out
  refine happens_of_keeps run (fun _ _ _ _ => State.kept_fillLine ..) fun same => ⟨same, ⟨v, hv, grade.imp_right fun g => ⟨g.1, ?_⟩⟩, peers⟩
  exact fun d hd ne => State.peers_false g.2 hd ne

theorem hostLineFill_cached (c n : Nat) (s : State) (cached : (s.hostSt (s.hostCache c) n).isSome = true) :
    Happens (.hostLineFill c n) s fun t => t = s := by
  refine happens_same ?_
  show execHostLineFill c n s = _
  have read : s.hostRead c n = s := by
    obtain ⟨v, hv⟩ := Option.isSome_iff_exists.1 cached
    have hv : Table.look (s.chip (s.hostCache c)).hostLines n = some v := hv
    unfold State.hostRead
    simp only [hv]
  rw [execHostLineFill, read]
  split <;> rfl

/-! ### An eviction -/

theorem cxlRank_lt {s : State} {c : Nat} (here : s.chipExists c = true) : s.cxlRank c < 8 := by
  have c8 : c < 8 := by
    simp only [State.chipExists, decide_eq_true_eq] at here
    split at here <;> omega
  simp only [State.cxlRank, ite_self]
  split
  · omega
  · next r l e =>
    have mem : r ∈ r :: l := List.mem_cons_self
    rw [← e] at mem
    obtain ⟨i, -, rfl⟩ := List.mem_map.1 (List.mem_filter.1 mem).1
    split <;> omega

/-- A copy that is deleted stays deleted while others are. -/
theorem State.hostSt_evictLine (s : State) (d m : Nat) {e l : Nat} (h : s.hostSt e l = none ∨ l = m ∧ e = d ∧ d < 8) :
    (s.evictLine d m).hostSt e l = none := by
  set cs := (List.range 8).filter fun c => c = d || s.hostDirChip (m * 64) = d with hcs
  have gone (s : State) : (s.hostGone m).hostSt e l = s.hostSt e l := by
    unfold State.hostGone
    split
    · rfl
    · split <;> rfl
  have fold (ms : List Nat) (s : State) : (ms.foldl (fun s c => s.modChip c fun x => { x with hostLines := Table.del x.hostLines m }) s).hostSt e l =
      if l = m ∧ e ∈ ms then none else s.hostSt e l := by
    induction ms generalizing s with
    | nil => simp
    | cons a r ih =>
      rw [List.foldl_cons, ih, State.hostSt_modChip_lines s a e l fun t => Table.del t m]
      by_cases hl : l = m
      · subst hl
        by_cases ha : e = a <;> simp [ha]
      · by_cases ha : e = a
        · subst ha; simp [hl, Table.look_del_other _ hl, State.hostSt]
        · simp [hl, ha]
  have base : (if cs.any fun c => s.hostDirty c m then { s with hostBase := Table.del s.hostBase m } else s).hostSt e l = s.hostSt e l := by
    split <;> rfl
  show (State.hostGone _ m).hostSt e l = none
  rw [gone, fold, base]
  split
  · rfl
  · next no =>
    rcases h with h | ⟨hl, rfl, d8⟩
    · exact h
    · exact absurd ⟨hl, List.mem_filter.2 ⟨List.mem_range.2 d8, by simp⟩⟩ no

theorem State.hostSt_hostRoom (s : State) (d n : Nat) {e l : Nat} (h : s.hostSt e l = none) : (s.hostRoom d n).hostSt e l = none := by
  unfold State.hostRoom
  split
  · exact h
  · split
    · exact h
    · exact State.hostSt_evictLine s _ _ (.inl h)

theorem State.waves_evictLine (s : State) (d m : Nat) : (s.evictLine d m).waves = s.waves := by
  have gone (s : State) (l : Nat) : (s.hostGone l).waves = s.waves := by
    unfold State.hostGone
    split
    · rfl
    · split <;> rfl
  have fold (ms : List Nat) (s : State) : (ms.foldl (fun s c => s.modChip c fun x => { x with hostLines := Table.del x.hostLines m }) s).waves =
      s.waves := foldl_eq (o := State.waves) _ _ fun _ _ _ => rfl
  refine (gone _ _).trans ((fold _ _).trans ?_)
  split <;> rfl

theorem State.waves_hostRoom (s : State) (d n : Nat) : (s.hostRoom d n).waves = s.waves := by
  unfold State.hostRoom
  split
  · rfl
  · split
    · rfl
    · exact State.waves_evictLine ..

theorem State.waves_hostRooms (s : State) (d n : Nat) : (s.hostRooms d n).waves = s.waves :=
  (State.waves_hostRoom ..).trans (State.waves_hostRoom ..)

/-- The same waves, with what each keeps of its threads. -/
theorem sameThreads_of_waves {s t u : State} (hw : u.waves = s.waves) (h : u.Keeps t) : s.SameThreads t := fun v l =>
  .of_data (State.lane_data ((congrArg Kept.threads (h v 0 0 0)).trans (congrArg (fun w => (Table.look w v).map Wave.datas) hw)) l)

theorem foldl_min_mem (r : List Nat) (a : Nat) : r.foldl min a ∈ a :: r := by
  induction r generalizing a with
  | nil => simp
  | cons b r ih =>
    have := ih (min a b)
    rw [List.foldl_cons]
    rcases List.mem_cons.1 this with h | h
    · rw [h]
      rcases Nat.le_total a b with l | l <;> simp [l]
    · simp [h]

theorem State.mem_hostSet {s : State} {d n : Nat} (d8 : d < 8) (h : s.hostSt d n ≠ none) : n ∈ s.hostSet d (n % hostSets) := by
  obtain ⟨v, hv⟩ := Option.ne_none_iff_exists'.1 h
  refine List.mem_eraseDups.2 (List.mem_flatMap.2 ⟨d, List.mem_range.2 d8, List.mem_filterMap.2 ⟨(n, v), Table.mem_of_look hv, ?_⟩⟩)
  simp

theorem hostLineFill_evicts (c n : Nat) (s : State) (a : Nat) (r : List Nat) (host : hostLine n = true) (here : s.chipExists c = true)
    (directs : s.hostDirChip (n * 64) = s.hostCache c) (set : s.hostSet (s.hostCache c) (n % hostSets) = a :: r)
    (full : 16 ≤ (a :: r).length) (out : n ∉ a :: r) : Happens (.hostLineFill c n) s fun t =>
      t.hostSt (s.hostCache c) n ≠ none ∧ t.hostSt (s.hostCache c) (r.foldl min a) = none := by
  have d8 : s.hostCache c < 8 := cxlRank_lt here
  have outside : s.hostSt (s.hostCache c) n = none := by
    by_contra h
    exact out (set ▸ State.mem_hostSet d8 h)
  have first : s.hostRoom (s.hostCache c) n = s.evictLine (s.hostCache c) (r.foldl min a) := by
    unfold State.hostRoom
    rw [set]
    have no : (a :: r).contains n = false := by simpa using out
    exact if_neg (by rw [no, decide_eq_false (p := (a :: r).length < hostWays) (not_lt.2 full)]; simp)
  have other : r.foldl min a ≠ n := fun e => out (e ▸ foldl_min_mem r a)
  set u := s.hostRooms (s.hostCache c) n with hu
  have room : u = (s.evictLine (s.hostCache c) (r.foldl min a)).hostRoom (s.hostCache c) n := by
    rw [hu, State.hostRooms, directs, first]
  have gone : u.hostSt (s.hostCache c) (r.foldl min a) = none :=
    room ▸ State.hostSt_hostRoom _ _ _ (State.hostSt_evictLine s _ _ (.inr ⟨rfl, rfl, d8⟩))
  have still : u.hostSt (s.hostCache c) n = none := room ▸ State.hostSt_hostRoom _ _ _ (State.hostSt_evictLine s _ _ (.inl outside))
  obtain ⟨⟨v, hv, -⟩, others, -⟩ := u.hostSt_fillLine still
  have run : exec (.hostLineFill c n) s = .next (u.fillLine (s.hostCache c) n) := by
    show execHostLineFill c n s = _
    rw [execHostLineFill, host, here, State.hostRead_eq outside]
    rfl
  exact ⟨_, run, sameThreads_of_waves (State.waves_hostRooms ..) fun _ _ _ _ => State.kept_fillLine .., by rw [hv]; simp,
    by rw [others _ other]; exact gone⟩

/-! ### Snoops -/

/-- One change made on every chip. -/
theorem State.chip_of_mapVals {s t : State} {f : Chip → Chip} (hm : t.mf4 = s.mf4) (hc : t.chips = s.chips.mapVals fun _ x => f x)
    (hf : f (Chip.reset s.mf4) = Chip.reset s.mf4) (d : Nat) : t.chip d = f (s.chip d) := by
  unfold State.chip Table.at
  rw [hm, hc, Table.look_mapVals]
  cases Table.look s.chips d with
  | none => exact hf.symm
  | some x => rfl

theorem snpData_shares (c n : Nat) (s : State) (host : hostLine n = true) (here : s.chipExists c = true) :
    Happens (.snpData c n) s fun t => s.SameStore t ∧
    ∀ d l, t.hostSt d l = if l = n then (s.hostSt d l).map (fun _ => .s) else s.hostSt d l := by
  set f : Chip → Chip := fun x => { x with hostLines := Table.modify x.hostLines n fun _ => .s } with hf
  set t : State := { { s with chips := s.chips.mapVals fun _ x => f x } with hostBase := Table.del s.hostBase n } with ht
  have chip (d : Nat) : t.chip d = f (s.chip d) := State.chip_of_mapVals (s := s) (t := t) (f := f) rfl rfl rfl d
  have run : exec (.snpData c n) s = .next t := by
    show execSnpData c n s = _
    rw [execSnpData, host, here]
    rfl
  refine happens_of_keeps run (fun v i k h => ?_) fun same => ⟨same, fun d l => ?_⟩
  · show Kept.mk _ _ _ _ _ _ (t.chip h).repl.replica = _
    rw [chip]
    rfl
  · show Table.look (t.chip d).hostLines l = _
    rw [chip]
    exact (Table.look_modify ..).trans (by split <;> simp_all [State.hostSt])

/-! ### Monitors on a line -/

@[simp] theorem State.kept_fireWave (s : State) (w l : Nat) : (s.fireWave w l).kept v c k h = s.kept v c k h := by
  unfold State.fireWave
  rw [State.kept_postOnce, State.kept_modWave fun x => by split <;> rfl]

@[simp] theorem State.kept_fireRegs (s : State) (rs : List Reg) (l : Nat) : (s.fireRegs rs l).kept v c k h = s.kept v c k h :=
  foldl_eq (o := fun s => s.kept v c k h) _ _ fun s r _ => by split <;> simp

@[simp] theorem State.chip_fireRegs (s : State) (rs : List Reg) (l d : Nat) : (s.fireRegs rs l).chip d = s.chip d :=
  foldl_eq (o := fun s => s.chip d) _ _ fun s r _ => by split <;> simp [State.fireWave]

@[simp] theorem State.kept_firePhys (s : State) (l : Nat) : (s.firePhys l).kept v c k h = s.kept v c k h := by
  unfold State.firePhys
  split
  · exact foldl_eq (o := fun s => s.kept v c k h) _ _ fun s _ _ => State.kept_fireRegs ..
  · exact State.kept_fireRegs ..

@[simp] theorem State.chip_firePhys (s : State) (l d : Nat) : (s.firePhys l).chip d = s.chip d := by
  unfold State.firePhys
  split
  · exact foldl_eq (o := fun s => s.chip d) _ _ fun s _ _ => State.chip_fireRegs ..
  · exact State.chip_fireRegs ..

theorem State.fired_fireWave (s : State) (w l v : Nat) : ((s.fireWave w l).wave? v).map Wave.fired =
    if v = w then (s.wave? v).map fun _ => true else (s.wave? v).map Wave.fired := by
  simp only [State.fireWave, State.wave?_postOnce_frame, State.wave?_modWave]
  split
  · next e =>
    subst e
    cases s.wave? v with
    | none => rfl
    | some x =>
      simp only [Option.map_some]
      split
      · next fired => simp [fired]
      · rfl
  · rfl

theorem State.there_fireWave (s : State) (w l v : Nat) : ((s.fireWave w l).wave? v).map (fun _ => true) = (s.wave? v).map fun _ => true := by
  simp only [State.fireWave, State.wave?_postOnce_frame, State.wave?_modWave]
  split
  · next e => subst e; cases s.wave? v <;> rfl
  · rfl

/-- A wave that is there has fired. -/
def State.hasFired (o : Option Bool) (v : Nat) (s : State) : Prop := (s.wave? v).map Wave.fired = o ∧ (s.wave? v).map (fun _ => true) = o

theorem State.hasFired_fireRegs {o : Option Bool} {v : Nat} {s : State} (h : State.hasFired o v s) (rs : List Reg) (l : Nat) :
    State.hasFired o v (s.fireRegs rs l) := by
  refine foldl_keeps rs s (fun s r _ h => ?_) h
  split
  · refine ⟨?_, (State.there_fireWave ..).trans h.2⟩
    rw [State.fired_fireWave]
    split
    · exact h.2
    · exact h.1
  · exact h

theorem State.there_fireRegs (s : State) (rs : List Reg) (l v : Nat) :
    ((s.fireRegs rs l).wave? v).map (fun _ => true) = (s.wave? v).map fun _ => true :=
  foldl_eq (o := fun s => (s.wave? v).map fun _ => true) rs s fun s r _ => by
    split
    · exact State.there_fireWave ..
    · rfl

/-- Every wave registered at a watcher on the line fires. -/
theorem State.fires_fireRegs {s : State} {rs : List Reg} {g : Reg} (hg : g ∈ rs) :
    State.hasFired ((s.wave? g.wave).map fun _ => true) g.wave (s.fireRegs rs g.line) := by
  refine foldl_of_step (P := fun t => (t.wave? g.wave).map (fun _ => true) = (s.wave? g.wave).map fun _ => true) hg s rfl ?_ ?_ ?_
  · intro u r _ h
    split
    · exact (State.there_fireWave ..).trans h
    · exact h
  · intro u h
    rw [if_pos rfl]
    exact ⟨by rw [State.fired_fireWave, if_pos rfl]; exact h, (State.there_fireWave ..).trans h⟩
  · intro u r hr h
    exact State.hasFired_fireRegs (rs := [r]) h g.line

theorem State.fires_firePhys {s : State} {d : Nat} {g : Reg} (hg : g ∈ (s.chip d).hostRegs) (d8 : d < 8) (host : isHostAddr (g.line * 128) = true) :
    ((s.firePhys g.line).wave? g.wave).map Wave.fired = (s.wave? g.wave).map fun _ => true := by
  have all : State.hasFired ((s.wave? g.wave).map fun _ => true) g.wave (s.firePhys g.line) := by
    unfold State.firePhys
    rw [if_pos host]
    refine foldl_of_step (P := fun t => t.chip d = s.chip d ∧ (t.wave? g.wave).map (fun _ => true) = (s.wave? g.wave).map fun _ => true)
      (List.mem_range.2 d8) s ⟨rfl, rfl⟩ (fun u c _ h => ?_) (fun u h => ?_) fun u c _ h => State.hasFired_fireRegs h _ _
    · exact ⟨(State.chip_fireRegs ..).trans h.1, (State.there_fireRegs ..).trans h.2⟩
    · have := State.fires_fireRegs (s := u) (h.1.symm ▸ hg)
      rwa [h.2] at this
  exact all.1

/-! ### A write to the ring of page requests -/

theorem State.ringWrites_eq {β : Type} {o : State → β} (ho : ∀ s e, o (s.post e) = o s) (s : State) (cs : Bytes) : o (s.ringWrites cs) = o s := by
  refine foldl_eq (o := o) _ _ fun s a _ => ?_
  split
  · rfl
  · refine foldl_eq (o := o) _ _ fun s e _ => ?_
    extract_lets
    split
    · exact ho ..
    · rfl

@[simp] theorem State.kept_ringWrites (s : State) (cs : Bytes) : (s.ringWrites cs).kept v c k h = s.kept v c k h :=
  State.ringWrites_eq (o := fun s => s.kept v c k h) (fun _ _ => rfl) s cs

/-- Every copy of a line is gone, and the host has written it. -/
def State.hostTakes (s : State) (n : Nat) : State :=
  { s with
    chips := s.chips.mapVals (fun _ x => { x with hostLines := Table.del x.hostLines n })
    hostBase := Table.del s.hostBase n, written := Table.put s.written n s.serial
    mem := Memory.writeBytes s.mem (n * 64) ((List.range 64).map fun i => (Config.freeValue (s.free + i)).setWidth 8)
    free := s.free + 64 }

theorem State.chip_hostTakes (s : State) (n d : Nat) :
    (s.hostTakes n).chip d = { s.chip d with hostLines := Table.del (s.chip d).hostLines n } :=
  State.chip_of_mapVals (s := s) (t := s.hostTakes n) (f := fun x => { x with hostLines := Table.del x.hostLines n }) rfl rfl rfl d

theorem State.byte_hostTakes {s : State} {n a : Nat} (wf : s.mem.wf = true) (ha : a < n * 64 ∨ n * 64 + 64 ≤ a) :
    (s.hostTakes n).byte a = s.byte a := by
  unfold State.byte State.hostTakes
  rw [Memory.read_writeBytes wf, if_neg]
  rw [List.length_map, List.length_range]
  omega

theorem snpInv_invalidates (c n : Nat) (s : State) (host : hostLine n = true) (here : s.chipExists c = true) (canonical : s.canonical = true) :
    Happens (.snpInv c n) s fun t =>
    (∀ d l, t.hostSt d l = if l = n then none else s.hostSt d l) ∧ (∀ a, a < n * 64 ∨ n * 64 + 64 ≤ a → t.byte a = s.byte a) ∧
      ∀ d g, g ∈ (s.chip d).hostRegs → d < 8 → g.line = n / 2 → (t.wave? g.wave).map Wave.fired = (s.wave? g.wave).map fun _ => true := by
  have wf : s.mem.wf = true := by
    simp only [State.canonical, Bool.and_eq_true] at canonical
    exact canonical.1.1
  have run : exec (.snpInv c n) s = .next (((s.hostTakes n).firePhys (n / 2)).ringWrites
      ((List.range 64).map fun i => (n * 64 + i, Memory.read (s.hostTakes n).mem (n * 64 + i)))) :=
    congrArg Host.Outcome.next (if_pos (by rw [host, here]; rfl))
  generalize (List.range 64).map (fun i => (n * 64 + i, Memory.read (s.hostTakes n).mem (n * 64 + i))) = cs at run
  have keeps : (s.hostTakes n).Keeps (((s.hostTakes n).firePhys (n / 2)).ringWrites cs) := fun v i k h => by
    rw [State.kept_ringWrites, State.kept_firePhys]
  have rest {β : Type} {o : State → β} (ho : ∀ s e, o (s.post e) = o s) :
      o (((s.hostTakes n).firePhys (n / 2)).ringWrites cs) = o ((s.hostTakes n).firePhys (n / 2)) := State.ringWrites_eq ho _ _
  refine ⟨_, run, sameThreads_of_waves (s := s) (u := s.hostTakes n) rfl keeps, fun d l => ?_, fun a ha => ?_, fun d g hg d8 line => ?_⟩
  · have chip := (rest (o := fun s => s.chip d) fun _ _ => rfl).trans ((State.chip_firePhys ..).trans (State.chip_hostTakes s n d))
    show Table.look (State.chip _ d).hostLines l = _
    rw [chip]
    show Table.look (Table.del (s.chip d).hostLines n) l = _
    split
    · next e => rw [e, Table.look_del]
    · next e => exact Table.look_del_other _ e
  · rw [keeps.sameStore.mem a, State.byte_hostTakes wf ha]
  · have there : g ∈ ((s.hostTakes n).chip d).hostRegs := by rw [State.chip_hostTakes]; exact hg
    have far : isHostAddr (g.line * 128) = true := by
      have base : hostBit ≤ n * 64 := of_decide_eq_true host
      refine decide_eq_true (?_ : hostBit ≤ g.line * 128)
      unfold hostBit at base ⊢
      omega
    rw [rest (o := fun s => s.wave? g.wave) fun _ _ => rfl, ← line]
    exact State.fires_firePhys there d8 far

end Sys2Proof.Machine
end

section
/-! SUPPORT. A write performed at its home, and the region queues after it (08 R173, R176; 11 R241; for O52, O29 and O37). -/

-- One theorem at a time: many at once ask for more threads than the checker has memory for.
set_option Elab.async false

namespace Sys2Proof.Machine

/-! ### Byte stores in canonical form -/

theorem State.canonical_mem {s : State} (h : s.canonical = true) : s.mem.wf = true := by
  simp only [State.canonical, Bool.and_eq_true] at h
  exact h.1.1

theorem State.canonical_scratch {s : State} (h : s.canonical = true) (c : Nat) : (s.core c).scratch.wf = true := by
  simp only [State.canonical, Bool.and_eq_true] at h
  unfold State.core Table.at
  cases look : Table.look s.cores c with
  | none => rfl
  | some x => exact List.all_eq_true.1 h.1.2 _ (Table.mem_of_look look)

theorem State.canonical_replica {s : State} (h : s.canonical = true) (c : Nat) : (s.repl c).replica.wf = true := by
  simp only [State.canonical, Bool.and_eq_true] at h
  unfold State.repl State.chip Table.at
  cases look : Table.look s.chips c with
  | none => rfl
  | some x => exact List.all_eq_true.1 h.2 _ (Table.mem_of_look look)

/-! ### Region queues -/

section
variable {β : Type} {o : State → β} (hp : ∀ s e, o (s.post e) = o s) (ho : ∀ s e, o (s.postOnce e) = o s) (hd : ∀ s r d, o (s.setDir r d) = o s)
include hp ho hd

theorem State.dirTake_eq (s : State) (r : Nat) (p : DirWait → Bool) : o (s.dirTake r p) = o s := by
  unfold State.dirTake
  split
  · rfl
  · unfold State.serve
    split
    · exact hd ..
    · rw [serve_eq hp ho hd, hd]

theorem State.dirDone_eq (s : State) (r : Nat) (q : DirWait) : o (s.dirDone r q) = o s := State.dirTake_eq hp ho hd ..

theorem State.dirDrop_eq (s : State) (p : DirWait → Bool) : o (s.dirDrop p) = o s :=
  foldl_eq (o := o) _ _ fun _ _ _ => foldl_eq (o := o) _ _ fun _ _ _ => by
    split
    · exact State.dirTake_eq hp ho hd ..
    · rfl

end

variable {v c k h : Nat}

@[simp] theorem State.kept_dirDone (s : State) (r : Nat) (q : DirWait) : (s.dirDone r q).kept v c k h = s.kept v c k h :=
  State.dirDone_eq (o := fun s => s.kept v c k h) (fun _ _ => rfl) (fun _ _ => State.kept_postOnce ..) (fun _ _ _ => State.kept_setDir ..) s r q

@[simp] theorem State.kept_dirDrop (s : State) (p : DirWait → Bool) : (s.dirDrop p).kept v c k h = s.kept v c k h :=
  State.dirDrop_eq (o := fun s => s.kept v c k h) (fun _ _ => rfl) (fun _ _ => State.kept_postOnce ..) (fun _ _ _ => State.kept_setDir ..) s p

@[simp] theorem State.chip_setDir (s : State) (r : Nat) (d : Dir) (i : Nat) : (s.setDir r d).chip i = s.chip i := rfl

@[simp] theorem State.chip_dirDone (s : State) (r : Nat) (q : DirWait) (i : Nat) : (s.dirDone r q).chip i = s.chip i :=
  State.dirDone_eq (o := fun s => s.chip i) (fun _ _ => rfl) (fun _ _ => State.chip_postOnce_frame ..) (fun _ _ _ => rfl) s r q

@[simp] theorem State.chip_dirDrop (s : State) (p : DirWait → Bool) (i : Nat) : (s.dirDrop p).chip i = s.chip i :=
  State.dirDrop_eq (o := fun s => s.chip i) (fun _ _ => rfl) (fun _ _ => State.chip_postOnce_frame ..) (fun _ _ _ => rfl) s p

@[simp] theorem State.chip_dirAsk (s : State) (r : Nat) (q : DirWait) (i : Nat) : (s.dirAsk r q).chip i = s.chip i :=
  dirAsk_eq (o := fun s => s.chip i) (fun _ _ => rfl) (fun _ _ => State.chip_postOnce_frame ..) (fun _ _ _ => rfl) s r q

/-! ### Block tags -/

theorem nodup_eraseDups {α : Type} [BEq α] [LawfulBEq α] (l : List α) : l.eraseDups.Nodup := by
  induction n : l.length using Nat.strong_induction_on generalizing l with
  | _ n ih =>
    cases l with
    | nil => simp
    | cons a r =>
      rw [List.eraseDups_cons, List.nodup_cons]
      refine ⟨fun h => ?_, ih _ ?_ _ rfl⟩
      · have := (List.mem_filter.1 (List.mem_eraseDups.1 h)).2
        simp at this
      · have := List.length_filter_le (fun b => !b == a) r
        rw [List.length_cons] at n
        omega

/-- A block written under an index whose tag check it passes takes the present tag and nothing else. -/
theorem State.tagBlock_passes {s : State} {buf b : Nat} (h : s.tagFails (b * 64) buf = false) (cs : Bytes) : s.tagBlock buf cs b =
    s.modCluster (stackOf (b * 64)) fun c => { c with blockTag := Table.put c.blockTag b (s.bufTag (chipOfStack (stackOf (b * 64))) buf) } := by
  unfold State.tagBlock
  simp only [h, Bool.false_and]
  rfl

/-- The blocks of a write take the present tag. -/
def State.tagged (s : State) (buf : Option Nat) (cs : Bytes) : State :=
  match buf with
  | none => s
  | some b => (blocksOf (cs.filter fun c => !isHostAddr c.1)).foldl (fun s k => s.tagBlock b cs k) s

/-- None of the stack blocks of a write fails its tag check. -/
def State.tagsPass (s : State) (buf : Option Nat) (cs : Bytes) : Prop :=
  ∀ b, buf = some b → ∀ c ∈ cs, isHostAddr c.1 = false → s.tagFails (c.1 / 64 * 64) b = false

theorem mem_blocksOf {cs : Bytes} {b : Nat} : b ∈ blocksOf cs ↔ ∃ c ∈ cs, c.1 / 64 = b := by
  simp [blocksOf, List.mem_eraseDups]

theorem State.tagFails_tag {s : State} {i b buf n : Nat} {t : Nat × Nat × Word} (h : n / 64 ≠ b) :
    State.tagFails (s.modCluster i fun c => { c with blockTag := Table.put c.blockTag b t }) n buf = s.tagFails n buf := by
  unfold State.tagFails
  have same : Table.look ((s.modCluster i fun c => { c with blockTag := Table.put c.blockTag b t }).cluster (stackOf n)).blockTag (n / 64) =
      Table.look (s.cluster (stackOf n)).blockTag (n / 64) := by
    rw [State.cluster_modCluster]
    split
    · next e => rw [← e]; exact Table.look_put_other _ _ h
    · rfl
  rw [same]
  rfl

/-- Blocks that pass their tag checks take their tags one after the other, and what no cluster's tags are part of stays. -/
theorem State.tagBlocks_eq {β : Type} {o : State → β}
    (ho : ∀ s i b t, o (s.modCluster i fun c => { c with blockTag := Table.put c.blockTag b t }) = o s) (buf : Nat) (cs : Bytes) (bs : List Nat)
    (nodup : bs.Nodup) (s : State) (pass : ∀ b ∈ bs, s.tagFails (b * 64) buf = false) : o (bs.foldl (fun s k => s.tagBlock buf cs k) s) = o s := by
  induction bs generalizing s with
  | nil => rfl
  | cons b r ih =>
    rw [List.foldl_cons, State.tagBlock_passes (pass b List.mem_cons_self)]
    rw [List.nodup_cons] at nodup
    refine (ih nodup.2 _ fun d hd => ?_).trans (ho ..)
    rw [State.tagFails_tag, pass d (List.mem_cons_of_mem _ hd)]
    rw [Nat.mul_div_cancel _ (by decide)]
    rintro rfl
    exact nodup.1 hd

theorem State.tagged_eq {β : Type} {o : State → β}
    (ho : ∀ s i b t, o (s.modCluster i fun c => { c with blockTag := Table.put c.blockTag b t }) = o s) {s : State} {buf : Option Nat} {cs : Bytes}
    (pass : s.tagsPass buf cs) : o (s.tagged buf cs) = o s := by
  unfold State.tagged
  split
  · rfl
  · next b =>
    refine State.tagBlocks_eq ho b cs _ (nodup_eraseDups _) s fun d hd => ?_
    obtain ⟨x, hx, rfl⟩ := mem_blocksOf.1 hd
    obtain ⟨hx, far⟩ := List.mem_filter.1 hx
    exact pass b rfl x hx (by simpa using far)

/-! ### The write -/

/-- Memory after the cells of a write are in it. -/
def State.stored (s : State) (cs : Bytes) : State :=
  { s with mem := Memory.writeCells s.mem cs, written := markBlocks s.serial s.written (blocksOf cs) }

/-- A write leaves, but for memory and tags, what filters, the writing core's signatures, monitors and the agenda are no part of. -/
theorem State.homeStore_of {β : Type} {o : State → β} {core : Option Nat} (ho : ∀ s e, o (s.postOnce e) = o s)
    (hf : ∀ s l, o (s.filterLine l) = o s) (ha : ∀ i, core = some i → ∀ s m, o (s.modCore i fun x => x.addSig m) = o s)
    (hw : ∀ s w l, o (s.fireWave w l) = o s) (s : State) (buf : Option Nat) (cs : Bytes) : o (s.homeStore core buf cs) = o ((s.tagged buf cs).stored cs) := by
  have regs (s : State) (rs : List Reg) (l : Nat) : o (s.fireRegs rs l) = o s := foldl_eq (o := o) _ _ fun s r _ => by
    split
    · exact hw ..
    · rfl
  have fire (s : State) (l : Nat) : o (s.firePhys l) = o s := by
    unfold State.firePhys
    split
    · exact foldl_eq (o := o) _ _ fun _ _ _ => regs ..
    · exact regs ..
  unfold State.homeStore
  simp only []
  rw [foldl_eq (o := o) (g := fun s l => if isHostAddr (l * 128) || (s.cluster (stackOf (l * 128))).tasks.isEmpty then s
    else s.postOnce (.taskDispatch (stackOf (l * 128)))) _ _ fun _ _ _ => by
      split
      · rfl
      · exact ho ..]
  rw [foldl_eq (o := o) (g := fun s l => s.firePhys l) _ _ fun _ _ _ => fire ..]
  have sig (s : State) : o (match (generalizing := false) core with | none => s | some c => s.modCore c fun x => x.addSig (sigOfCells cs)) = o s := by
    cases core with
    | none => rfl
    | some i => exact ha i rfl ..
  refine (sig _).trans ((foldl_eq (o := o) _ _ fun _ _ _ => ?_).trans rfl)
  split
  · rfl
  · exact hf ..

theorem State.homeStore_eq {β : Type} {o : State → β} (ho : ∀ s e, o (s.postOnce e) = o s) (hf : ∀ s l, o (s.filterLine l) = o s)
    (ha : ∀ s i m, o (s.modCore i fun x => x.addSig m) = o s) (hw : ∀ s w l, o (s.fireWave w l) = o s) (s : State) (core buf : Option Nat)
    (cs : Bytes) : o (s.homeStore core buf cs) = o ((s.tagged buf cs).stored cs) :=
  State.homeStore_of ho hf (fun i _ s m => ha s i m) hw s buf cs

@[simp] theorem State.kept_filterLine (s : State) (l : Nat) : (s.filterLine l).kept v c k h = s.kept v c k h :=
  State.kept_modCluster (fun _ => rfl) fun _ => rfl

@[simp] theorem State.kept_addSig (s : State) (i : Nat) (m : BitVec 512) : (s.modCore i fun x => x.addSig m).kept v c k h = s.kept v c k h :=
  State.kept_modCore (fun _ => rfl) fun _ => rfl

theorem State.kept_tagged {s : State} {buf : Option Nat} {cs : Bytes} (pass : s.tagsPass buf cs) :
    (s.tagged buf cs).kept v c k h = s.kept v c k h :=
  State.tagged_eq (o := fun s => s.kept v c k h) (fun _ _ _ _ => State.kept_modCluster (fun _ => rfl) fun _ => rfl) pass

/-- A write whose blocks pass their tag checks changes its bytes of memory and no other data. -/
theorem State.kept_homeStore {s : State} {buf : Option Nat} {cs : Bytes} (pass : s.tagsPass buf cs) (core : Option Nat) :
    (s.homeStore core buf cs).kept v c k h = { s.kept v c k h with mem := Memory.writeCells s.mem cs } := by
  have kept := State.kept_tagged (v := v) (c := c) (k := k) (h := h) pass
  have home := State.homeStore_eq (o := fun s => s.kept v c k h) (fun _ _ => State.kept_postOnce ..) State.kept_filterLine
    State.kept_addSig State.kept_fireWave s core buf cs
  have mem : (s.tagged buf cs).mem = s.mem := congrArg Kept.mem kept
  refine home.trans ?_
  show { (s.tagged buf cs).kept v c k h with mem := Memory.writeCells (s.tagged buf cs).mem cs } = _
  rw [kept, mem]

theorem State.chip_homeStore {s : State} {buf : Option Nat} {cs : Bytes} (pass : s.tagsPass buf cs) (core : Option Nat) (d : Nat) :
    (s.homeStore core buf cs).chip d = s.chip d :=
  (State.homeStore_eq (o := fun s => s.chip d) (fun _ _ => State.chip_postOnce_frame ..) (fun _ _ => rfl) (fun _ _ _ => rfl)
    (fun s w l => by simp [State.fireWave]) s core buf cs).trans
    (State.tagged_eq (o := fun s => s.chip d) (fun _ _ _ _ => rfl) pass)

/-! ### Masked bytes -/

/-- The cells that the bits of a mask name. -/
def maskCells (mask : DWord) (data : List Byte) (base : Nat) : Bytes :=
  (List.range 64).filterMap fun i => if mask.getLsbD i then some (base + i, data.getD i 0) else none

theorem Memory.writeCells_append (m : Memory) (a b : Bytes) : Memory.writeCells m (a ++ b) = Memory.writeCells (Memory.writeCells m a) b := by
  induction a generalizing m with
  | nil => rfl
  | cons e r ih => exact ih _

theorem Memory.read_maskCells {m : Memory} (wf : m.wf = true) (mask : DWord) (data : List Byte) (base a : Nat) :
    Memory.read (Memory.writeCells m (maskCells mask data base)) a =
      if base ≤ a ∧ a < base + 64 ∧ mask.getLsbD (a - base) = true then data.getD (a - base) 0 else Memory.read m a := by
  have cells (n : Nat) : Memory.read (Memory.writeCells m ((List.range n).filterMap fun i =>
      if mask.getLsbD i then some (base + i, data.getD i 0) else none)) a =
      if base ≤ a ∧ a < base + n ∧ mask.getLsbD (a - base) = true then data.getD (a - base) 0 else Memory.read m a := by
    induction n with
    | zero => rw [if_neg (by omega)]; rfl
    | succ n ih =>
      rw [List.range_succ, List.filterMap_append, Memory.writeCells_append]
      set m1 := Memory.writeCells m ((List.range n).filterMap fun i => if mask.getLsbD i then some (base + i, data.getD i 0) else none)
      have wf1 : m1.wf = true := Memory.writeCells_wf _ wf
      cases bit : mask.getLsbD n with
      | false =>
        have none : [n].filterMap (fun i => if mask.getLsbD i then some (base + i, data.getD i 0) else none) = [] := by simp [bit]
        rw [none]
        refine ih.trans (if_congr ?_ rfl rfl)
        constructor
        · rintro ⟨l, u, b⟩; exact ⟨l, by omega, b⟩
        · rintro ⟨l, u, b⟩
          refine ⟨l, ?_, b⟩
          by_contra no
          rw [show a - base = n by omega, bit] at b
          cases b
      | true =>
        have one : [n].filterMap (fun i => if mask.getLsbD i then some (base + i, data.getD i 0) else none) = [(base + n, data.getD n 0)] := by
          simp [bit]
        rw [one]
        show Memory.read (Memory.write m1 (base + n) (data.getD n 0)) a = _
        by_cases same : a = base + n
        · subst same
          rw [Memory.read_write_same wf1, if_pos ⟨by omega, by omega, by rwa [Nat.add_sub_cancel_left]⟩, Nat.add_sub_cancel_left]
        · rw [Memory.read_write_other wf1 _ same, ih]
          refine if_congr ?_ rfl rfl
          constructor
          · rintro ⟨l, u, b⟩; exact ⟨l, by omega, b⟩
          · rintro ⟨l, u, b⟩; exact ⟨l, by omega, b⟩
  exact cells 64

theorem mem_maskCells {mask : DWord} {data : List Byte} {base : Nat} {x : Nat × Byte} (h : x ∈ maskCells mask data base) :
    ∃ i < 64, x.1 = base + i := by
  obtain ⟨i, hi, hx⟩ := List.mem_filterMap.1 h
  split at hx
  · exact ⟨i, List.mem_range.1 hi, by cases hx; rfl⟩
  · cases hx

end Sys2Proof.Machine
end

section
/-! SUPPORT. Host accesses through HDM and back-invalidation (17 R355, R356; for O52). -/

-- One theorem at a time: many at once ask for more threads than the checker has memory for.
set_option Elab.async false

namespace Sys2Proof.Machine

/-! ### Places -/

theorem State.hdmPlace_stack {s : State} {c b : Nat} (low : b * 64 < 2 ^ 41) (live : s.stackLive (stackOf (b * 64)) = true)
    (inside : b * 64 % 2 ^ 36 < (62 - (s.repl c).rsegsz) * 2 ^ 30) : s.hdmPlace c b = .stack (b * 64) := by
  unfold State.hdmPlace
  simp only []
  rw [if_pos low, live, decide_eq_true inside]
  rfl

theorem State.hdmPlace_repl {s : State} {c b : Nat} (high : 2 ^ 41 ≤ b * 64) (inside : b * 64 - 2 ^ 41 < reservedBase (s.repl c).rsegsz) :
    s.hdmPlace c b = .repl ((b * 64 - 2 ^ 41) / 64) := by
  unfold State.hdmPlace
  simp only []
  rw [if_neg (by omega), if_pos inside]

/-! ### Reads -/

theorem hdmRead_down (c b : Nat) (own : Bool) (s : State) (down : s.cxlUp c = false) : Happens (.hdmRead c b own) s fun t => t = s :=
  happens_same (congrArg Host.Outcome.next (if_pos (by rw [down]; rfl)))

theorem hdmRead_holds (c b : Nat) (own : Bool) (s : State) (up : s.cxlUp c = true) : Happens (.hdmRead c b own) s fun t => s.SameStore t ∧
    (b * 64 < 2 ^ 41 → s.stackLive (stackOf (b * 64)) = true → b * 64 % 2 ^ 36 < (62 - (s.repl c).rsegsz) * 2 ^ 30 →
      b ∈ (t.cluster (stackOf (b * 64))).hostHeld ∧ (own = true → b ∈ (t.cluster (stackOf (b * 64))).hostOwned)) ∧
    (2 ^ 41 ≤ b * 64 → b * 64 - 2 ^ 41 < reservedBase (s.repl c).rsegsz → (b * 64 - 2 ^ 41) / 64 ∈ (t.repl c).hostHeld) := by
  have run : exec (.hdmRead c b own) s = .next (match s.hdmPlace c b with
      | .stack pa => s.modCluster (stackOf pa) fun c =>
          { c with hostHeld := addBlock c.hostHeld b, hostOwned := if own then addBlock c.hostOwned b else c.hostOwned }
      | .repl d => s.modRepl c fun r => { r with hostHeld := addBlock r.hostHeld d }
      | .closed => s) :=
    congrArg Host.Outcome.next (if_neg (by rw [up]; simp))
  refine happens_of_keeps run (fun v i k h => ?_) fun same => ⟨same, fun low live inside => ?_, fun high inside => ?_⟩
  · split
    · exact State.kept_modCluster (fun _ => rfl) fun _ => rfl
    · exact State.kept_modRepl fun _ => rfl
    · rfl
  · rw [State.hdmPlace_stack low live inside]
    simp only [State.cluster_modCluster, if_true]
    exact ⟨mem_addBlock .., fun o => by rw [if_pos o]; exact mem_addBlock ..⟩
  · rw [State.hdmPlace_repl high inside]
    simp only [State.repl_modRepl, if_true]
    exact mem_addBlock ..

/-! ### Writes -/

/-- A host write has joined those of its port. -/
def State.hostWrite (s : State) (c b : Nat) (mask : DWord) (data : List Byte) : State :=
  s.modChip c fun x => { x with hostWrites := x.hostWrites ++ [(b, mask, data)] }

/-- The first host write of a port has been made. -/
def State.hostWrote (s : State) (c : Nat) : State := s.modChip c fun x => { x with hostWrites := [] }

variable {v c k h : Nat}

@[simp] theorem State.kept_hostWrite (s : State) (i b : Nat) (m : DWord) (d : List Byte) :
    (s.hostWrite i b m d).kept v c k h = s.kept v c k h := State.kept_modChip fun _ => rfl

@[simp] theorem State.kept_hostWrote (s : State) (i : Nat) : (s.hostWrote i).kept v c k h = s.kept v c k h := State.kept_modChip fun _ => rfl

theorem State.chip_hostWrite (s : State) (i b : Nat) (m : DWord) (d : List Byte) (e : Nat) : (s.hostWrite i b m d).chip e =
    if e = i then { s.chip e with hostWrites := (s.chip e).hostWrites ++ [(b, m, d)] } else s.chip e := by
  by_cases he : e = i
  · subst he; simp [State.hostWrite]
  · simp [State.hostWrite, he]

theorem State.repl_hostWrite (s : State) (i b : Nat) (m : DWord) (d : List Byte) (e : Nat) : (s.hostWrite i b m d).repl e = s.repl e := by
  unfold State.repl
  rw [State.chip_hostWrite]
  split <;> rfl

/-- A host write that is made. -/
theorem hdmWrite_made {i b : Nat} {mask : DWord} {data : List Byte} {s t : State} (up : s.cxlUp i = true) (some : mask ≠ 0)
    (first : (s.chip i).hostWrites = []) (made : (s.hostWrite i b mask data).hdmPerform i b mask data = (true, t)) :
    exec (.hdmWrite i b mask data) s = .next ((t.hostWrote i).dirDrop fun q => q = .run (hdmTurn i)) := by
  have queue : ((s.hostWrite i b mask data).chip i).hostWrites = [(b, mask, data)] := by simp [State.chip_hostWrite, first]
  have enter : exec (.hdmWrite i b mask data) s = .next (hdmDrain (((s.hostWrite i b mask data).chip i).hostWrites.length + 1)
      (s.hostWrite i b mask data) i) := by
    show execHdmWrite i b mask data s = _
    simp only [execHdmWrite, up, some, if_false]
    rfl
  have empty : ((t.hostWrote i).chip i).hostWrites = [] := by simp [State.hostWrote]
  rw [enter, queue]
  show Host.Outcome.next (hdmDrain 2 _ i) = _
  rw [hdmDrain, queue]
  simp only [made]
  show Host.Outcome.next (hdmDrain 1 (t.hostWrote i) i) = _
  rw [hdmDrain, empty]

/-- A host write that waits. -/
theorem hdmWrite_waits {i b : Nat} {mask : DWord} {data : List Byte} {s t : State} (up : s.cxlUp i = true) (some : mask ≠ 0)
    (first : (s.chip i).hostWrites = []) (waits : (s.hostWrite i b mask data).hdmPerform i b mask data = (false, t)) :
    exec (.hdmWrite i b mask data) s = .next (t.postOnce (hdmTurn i)) := by
  have queue : ((s.hostWrite i b mask data).chip i).hostWrites = [(b, mask, data)] := by simp [State.chip_hostWrite, first]
  have enter : exec (.hdmWrite i b mask data) s = .next (hdmDrain (((s.hostWrite i b mask data).chip i).hostWrites.length + 1)
      (s.hostWrite i b mask data) i) := by
    show execHdmWrite i b mask data s = _
    simp only [execHdmWrite, up, some, if_false]
    rfl
  rw [enter, queue]
  show Host.Outcome.next (hdmDrain 2 _ i) = _
  rw [hdmDrain, queue]
  simp only [waits]

/-! ### What a host write that has joined the others leaves -/

theorem stackLive_congr {s t : State} (hm : t.mf4 = s.mf4) (hr : t.repl = s.repl) (x : Nat) : t.stackLive x = s.stackLive x := by
  simp only [State.stackLive, State.inView, State.lowRank, State.chipExists, hm, hr]

theorem reaches_congr {s t : State} (hm : t.mf4 = s.mf4) (hr : t.repl = s.repl) (hl : t.linkDown = s.linkDown) {c a : Nat}
    (near : isHostAddr a = false) : t.reaches c a = s.reaches c a := by
  simp only [State.reaches, near, stackLive_congr hm hr, State.linkUp, hl]
  rfl

theorem isHostAddr_low {a : Nat} (low : a < 2 ^ 41) : isHostAddr a = false := by
  refine decide_eq_false ?_
  unfold hostBit
  omega

theorem State.repl_hostWrite_all (s : State) (i b : Nat) (m : DWord) (d : List Byte) : (s.hostWrite i b m d).repl = s.repl :=
  funext fun e => s.repl_hostWrite i b m d e

theorem State.stackLive_hostWrite (s : State) (i b : Nat) (m : DWord) (d : List Byte) (x : Nat) :
    (s.hostWrite i b m d).stackLive x = s.stackLive x :=
  stackLive_congr (s := s) (t := s.hostWrite i b m d) rfl (s.repl_hostWrite_all i b m d) x

theorem State.reaches_hostWrite (s : State) (i b : Nat) (m : DWord) (d : List Byte) {c a : Nat} (low : a < 2 ^ 41) :
    (s.hostWrite i b m d).reaches c a = s.reaches c a :=
  reaches_congr (s := s) (t := s.hostWrite i b m d) rfl (s.repl_hostWrite_all i b m d) rfl (isHostAddr_low low)

theorem State.keys_hostWrite (s : State) (i b : Nat) (m : DWord) (d : List Byte) (e : Nat) :
    ((s.hostWrite i b m d).chip e).keys = (s.chip e).keys := by
  rw [State.chip_hostWrite]; split <;> rfl

theorem State.bufTag_hostWrite (s : State) (i b : Nat) (m : DWord) (d : List Byte) (e n : Nat) :
    (s.hostWrite i b m d).bufTag e n = s.bufTag e n := by
  simp only [State.bufTag, State.repl_hostWrite, State.keys_hostWrite]

theorem State.tagFails_hostWrite (s : State) (i b : Nat) (m : DWord) (d : List Byte) (a n : Nat) :
    (s.hostWrite i b m d).tagFails a n = s.tagFails a n := by
  simp only [State.tagFails, State.bufTag_hostWrite]
  rfl

/-! ### A host write to a stack -/

section
variable {i b : Nat} {mask : DWord} {data : List Byte} {s : State} (up : s.cxlUp i = true) (some : mask ≠ 0)
  (first : (s.chip i).hostWrites = []) (low : b * 64 < 2 ^ 41) (live : s.stackLive (stackOf (b * 64)) = true)
  (inside : b * 64 % 2 ^ 36 < (62 - (s.repl i).rsegsz) * 2 ^ 30)

include low live inside in
theorem hdmPlace_hostWrite : (s.hostWrite i b mask data).hdmPlace i b = .stack (b * 64) :=
  State.hdmPlace_stack low (by rw [State.stackLive_hostWrite]; exact live) (by rw [State.repl_hostWrite]; exact inside)

include up some first low live inside

theorem hdmWrite_stack (canonical : s.canonical = true) (reaches : s.reaches i (b * 64) = true)
    (turn : s.dirMayWrite (regionOf (b * 64)) (.run (hdmTurn i)) = true) (pass : s.tagFails (b * 64) (s.chip i).sys.hbuf.toNat = false) :
    Happens (.hdmWrite i b mask data) s fun t => (∀ a, t.byte a = if b * 64 ≤ a ∧ a < b * 64 + 64 ∧ mask.getLsbD (a - b * 64) = true
      then data.getD (a - b * 64) 0 else s.byte a) ∧ (t.chip i).hostWrites = [] := by
  set u := s.hostWrite i b mask data with hu
  set cs := maskCells mask data (b * 64) with hcs
  set n := (u.chip i).sys.hbuf.toNat with hn
  have buf : n = (s.chip i).sys.hbuf.toNat := by rw [hn, hu, State.chip_hostWrite, if_pos rfl]
  have made : u.hdmPerform i b mask data = (true, ((u.homeStore none (.some n) cs).ringWrites cs).dirDone (regionOf (b * 64)) (.run (hdmTurn i))) := by
    have place : u.hdmPlace i b = .stack (b * 64) := hdmPlace_hostWrite low live inside
    have way : u.reaches i (b * 64) = true := (State.reaches_hostWrite s i b mask data low).trans reaches
    have may : u.dirMayWrite (regionOf (b * 64)) (.run (hdmTurn i)) = true := turn
    unfold State.hdmPerform
    simp only [place, way, may]
    rfl
  have pass : u.tagsPass (.some n) cs := by
    rintro m hm x hx -
    cases hm
    obtain ⟨j, hj, e⟩ := mem_maskCells hx
    rw [hu, State.tagFails_hostWrite, buf, show x.1 / 64 * 64 = b * 64 by omega]
    exact pass
  have kept (v c k h : Nat) : (((((u.homeStore none (.some n) cs).ringWrites cs).dirDone (regionOf (b * 64)) (.run (hdmTurn i))).hostWrote i).dirDrop
      fun q => q = .run (hdmTurn i)).kept v c k h = { s.kept v c k h with mem := Memory.writeCells s.mem cs } := by
    rw [State.kept_dirDrop, State.kept_hostWrote, State.kept_dirDone, State.kept_ringWrites, State.kept_homeStore pass, State.kept_hostWrite]
    rfl
  have wf : s.mem.wf = true := State.canonical_mem canonical
  have run := hdmWrite_made up some first made
  have last (t : State) : (((t.hostWrote i).dirDrop fun q => q = .run (hdmTurn i)).chip i).hostWrites = [] := by
    rw [State.chip_dirDrop]
    simp [State.hostWrote]
  have last := last (((u.homeStore none (.some n) cs).ringWrites cs).dirDone (regionOf (b * 64)) (.run (hdmTurn i)))
  generalize (((((u.homeStore none (.some n) cs).ringWrites cs).dirDone (regionOf (b * 64)) (.run (hdmTurn i))).hostWrote i).dirDrop
      fun q => q = .run (hdmTurn i)) = t at run kept last
  refine ⟨t, run, fun v l => .of_data (State.lane_data (congrArg Kept.threads (kept v 0 0 0)) l), fun a => ?_, last⟩
  have mem : t.mem = Memory.writeCells s.mem cs := congrArg Kept.mem (kept 0 0 0 0)
  unfold State.byte
  rw [mem, hcs, Memory.read_maskCells wf]

theorem hdmWrite_stack_waits (held : s.reaches i (b * 64) = false ∨ ∃ e, s.dir? (regionOf (b * 64)) = .some e ∧ e.asked ≠ []) :
    Happens (.hdmWrite i b mask data) s fun t => s.SameStore t ∧ (t.chip i).hostWrites = [(b, mask, data)] ∧ .hdmWrite i 0 0 [] ∈ t.agenda := by
  set u := s.hostWrite i b mask data with hu
  have waits : ∃ t, u.hdmPerform i b mask data = (false, t) ∧ (∀ v c k h, t.kept v c k h = s.kept v c k h) ∧ t.chip i = u.chip i := by
    have place : u.hdmPlace i b = .stack (b * 64) := hdmPlace_hostWrite low live inside
    have way : u.reaches i (b * 64) = s.reaches i (b * 64) := State.reaches_hostWrite s i b mask data low
    unfold State.hdmPerform
    simp only [place, way]
    cases reach : s.reaches i (b * 64) with
    | false => exact ⟨u, rfl, fun _ _ _ _ => State.kept_hostWrite .., rfl⟩
    | true =>
      obtain ⟨e, he, asked⟩ := held.resolve_left (by simp [reach])
      have closed : u.dirMayWrite (regionOf (b * 64)) (.run (hdmTurn i)) = false := by
        have dir : u.dir? (regionOf (b * 64)) = .some e := he
        unfold State.dirMayWrite
        simp [dir, asked]
      refine ⟨u.dirAsk (regionOf (b * 64)) (.run (hdmTurn i)), ?_, fun _ _ _ _ => by rw [State.kept_dirAsk, State.kept_hostWrite],
        State.chip_dirAsk ..⟩
      simp [closed]
  obtain ⟨t, waits, kept, chip⟩ := waits
  refine happens_of_keeps (hdmWrite_waits up some first waits) (fun v c k h => by rw [State.kept_postOnce]; exact kept v c k h) fun same =>
    ⟨same, ?_, State.mem_agenda_postOnce ..⟩
  rw [State.chip_postOnce_frame, chip, State.chip_hostWrite, if_pos rfl, first]
  rfl

end

end Sys2Proof.Machine
end

section
/-! SUPPORT. A weak update accepted by its chip's replication unit (10 R210, R214), and back-invalidation (17 R356; for O52). -/

-- One theorem at a time: many at once ask for more threads than the checker has memory for.
set_option Elab.async false

namespace Sys2Proof.Machine

variable {v c k h : Nat}

/-! ### An update -/

@[simp] theorem State.repl_fireRegs (s : State) (rs : List Reg) (l d : Nat) : (s.fireRegs rs l).repl d = s.repl d :=
  congrArg Chip.repl (State.chip_fireRegs ..)

@[simp] theorem State.kept_setLogPos (s : State) (i n : Nat) (p : LogPos) : (s.setLogPos i n p).kept v c k h = s.kept v c k h :=
  State.kept_modChip fun _ => rfl

@[simp] theorem State.repl_setLogPos (s : State) (i n d : Nat) (p : LogPos) : (s.setLogPos i n p).repl d = s.repl d := by
  unfold State.repl State.setLogPos
  by_cases hd : d = i <;> simp [hd]

theorem State.fireRepl_eq {β : Type} {o : State → β} (hl : ∀ s i n p, o (s.setLogPos i n p) = o s) (hf : ∀ s rs l, o (s.fireRegs rs l) = o s)
    (s : State) (i b : Nat) : o (s.fireRepl i b) = o s := by
  unfold State.fireRepl
  rw [hf]
  split
  · rfl
  · refine foldl_eq (o := o) _ _ fun s e _ => ?_
    split
    · rfl
    · exact hl ..

@[simp] theorem State.kept_fireRepl (s : State) (i b : Nat) : (s.fireRepl i b).kept v c k h = s.kept v c k h :=
  State.fireRepl_eq (o := fun s => s.kept v c k h) (fun _ _ _ _ => State.kept_setLogPos ..) (fun _ _ _ => State.kept_fireRegs ..) s i b

@[simp] theorem State.repl_fireRepl (s : State) (i b d : Nat) : (s.fireRepl i b).repl d = s.repl d :=
  State.fireRepl_eq (o := fun s => s.repl d) (fun _ _ _ _ => State.repl_setLogPos ..) (fun _ _ _ => State.repl_fireRegs ..) s i b

/-- What a unit has of its replica and of the updates it has made. -/
def State.made (s : State) (d : Nat) : Memory × Nat := ((s.repl d).replica, (s.repl d).own)

/-- Everything that is kept but for a chip's replica. -/
def State.withReplica (o : Kept) (h i : Nat) (m : Memory) : Kept := if h = i then { o with replica := m } else o

theorem State.tagRepl_passes {s : State} {i b : Nat} (pass : s.replFails i b = false) (full : Bool) :
    s.tagRepl i b full = s.modRepl i fun r => { r with blockTag := Table.put r.blockTag b (s.bufTag i 0) } := by
  unfold State.tagRepl
  simp only [pass]
  rfl

/-- A chip's unit takes its new state, and an update is sent. -/
def State.issueUpdate (s : State) (i : Nat) (r : Repl) (p : Packet) (b n : Nat) : State :=
  let s := s.modRepl i fun _ => r
  let s := { s.fireRepl i b with written := Table.put s.written (2 ^ 50 + b) s.serial }
  let s := s.sendAll i (.packet p)
  if n = seqLimit then s.postOnce (.counterWrap i) else s

theorem State.kept_issueUpdate (s : State) (i : Nat) (r : Repl) (p : Packet) (b n : Nat) :
    (s.issueUpdate i r p b n).kept v c k h = State.withReplica (s.kept v c k h) h i r.replica := by
  have put : (s.modRepl i fun _ => r).kept v c k h = State.withReplica (s.kept v c k h) h i r.replica := by
    unfold State.withReplica State.kept
    rw [State.repl_modRepl]
    split <;> rfl
  have fire (t : State) (w : Table Nat) : State.kept { t.fireRepl i b with written := w } v c k h = t.kept v c k h := State.kept_fireRepl ..
  unfold State.issueUpdate
  simp only []
  split
  · rw [State.kept_postOnce, State.kept_sendAll, fire, put]
  · rw [State.kept_sendAll, fire, put]

theorem State.repl_issueUpdate (s : State) (i : Nat) (r : Repl) (p : Packet) (b n : Nat) : (s.issueUpdate i r p b n).repl i = r := by
  have fire (t : State) (w : Table Nat) : State.repl { t.fireRepl i b with written := w } i = t.repl i := State.repl_fireRepl ..
  have put : (s.modRepl i fun _ => r).repl i = r := by rw [State.repl_modRepl, if_pos rfl]
  unfold State.issueUpdate
  simp only []
  split
  · exact (congrArg Chip.repl (State.chip_postOnce_frame ..)).trans ((State.repl_sendAll ..).trans ((fire ..).trans put))
  · exact (State.repl_sendAll ..).trans ((fire ..).trans put)

/-- An update of bytes that a store may change, in a block that passes its tag check, writes them in its chip's replica and is counted. -/
theorem State.acceptUpdate_spec {s : State} {i : Nat} {cs : Bytes} {c0 : Nat × Byte} {rest : Bytes} (cells : cs = c0 :: rest)
    (free : ∀ x ∈ cs, s.fixedByte i x.1 = false) (pass : s.replFails i (c0.1 / 64) = false) :
    (∀ v c k h, (s.acceptUpdate i cs none none).kept v c k h =
      State.withReplica (s.kept v c k h) h i (Memory.writeCells (s.repl i).replica cs)) ∧
    ((s.acceptUpdate i cs none none).repl i).own = (s.repl i).own + 1 := by
  have all : cs.filter (fun x => !s.fixedByte i x.1) = c0 :: rest := by
    rw [← cells]
    exact List.filter_eq_self.2 fun x hx => by rw [free x hx]; rfl
  set u := s.modRepl i fun r => { r with blockTag := Table.put r.blockTag (c0.1 / 64) (s.bufTag i 0) } with hu
  have unit : (u.repl i).replica = (s.repl i).replica ∧ (u.repl i).own = (s.repl i).own := by
    rw [hu, State.repl_modRepl, if_pos rfl]
    exact ⟨rfl, rfl⟩
  have issue : ∃ r p, s.acceptUpdate i cs none none = u.issueUpdate i r p (c0.1 / 64) ((u.repl i).own + 1) ∧
      r.replica = Memory.writeCells (u.repl i).replica cs ∧ r.own = (u.repl i).own + 1 := by
    unfold State.acceptUpdate
    rw [all]
    simp only [State.tagRepl_passes pass, State.replSig]
    rw [← hu, cells]
    exact ⟨_, _, rfl, rfl, rfl⟩
  obtain ⟨r, p, run, replica, own⟩ := issue
  rw [run]
  refine ⟨fun v c k h => ?_, by rw [State.repl_issueUpdate, own, unit.2]⟩
  rw [State.kept_issueUpdate, replica, unit.1]
  exact congrArg (fun o => State.withReplica o h i _) (State.kept_modRepl fun _ => rfl)

/-! ### A host write to the replicated segment -/

theorem maskCells_ne_nil {mask : DWord} (some : mask ≠ 0) (data : List Byte) (base : Nat) : ∃ c0 rest, maskCells mask data base = c0 :: rest := by
  have bit : ∃ i, i < 64 ∧ mask.getLsbD i = true := by
    by_contra no
    refine some (BitVec.eq_of_getLsbD_eq fun i hi => ?_)
    by_contra on
    exact no ⟨i, hi, by simpa using on⟩
  obtain ⟨i, hi, on⟩ := bit
  have mem : (base + i, data.getD i 0) ∈ maskCells mask data base := List.mem_filterMap.2 ⟨i, List.mem_range.2 hi, by rw [if_pos on]⟩
  exact List.exists_cons_of_ne_nil (List.ne_nil_of_mem mem)

theorem State.replFails_hostWrite (s : State) (i b : Nat) (m : DWord) (d : List Byte) (e n : Nat) :
    (s.hostWrite i b m d).replFails e n = s.replFails e n := by
  simp only [State.replFails, State.bufTag_hostWrite, State.repl_hostWrite]

theorem siblings_congr {s t : State} {c : Nat} (h : ∀ a n, t.recBytes c a n = s.recBytes c a n) (n : Nat) (seen : List Nat) (r : Nat) :
    siblings n seen t c r = siblings n seen s c r := by
  induction n generalizing seen r with
  | zero => rfl
  | succ n ih =>
    unfold siblings
    rw [h, ih]

theorem reachable_congr {s t : State} {c : Nat} (h : ∀ a n, t.recBytes c a n = s.recBytes c a n) (n : Nat) (todo met : List Nat) :
    reachable n t c todo met = reachable n s c todo met := by
  have children (r : Nat) : t.children c r = s.children c r := by
    unfold State.children
    rw [h, siblings_congr h]
  induction n generalizing todo met with
  | zero => rfl
  | succ n ih =>
    unfold reachable
    cases todo with
    | nil => rfl
    | cons r rest => simp only [children, ih]

theorem regions_congr {s t : State} {c : Nat} (h : ∀ a n, t.recBytes c a n = s.recBytes c a n)
    (hr : (t.chip c).sys.rootrcb = (s.chip c).sys.rootrcb) : t.regions c = s.regions c := by
  unfold State.regions
  simp only [hr, reachable_congr h]

theorem State.fixedByte_hostWrite (s : State) (i b : Nat) (m : DWord) (d : List Byte) (e n : Nat) :
    (s.hostWrite i b m d).fixedByte e n = s.fixedByte e n := by
  have bytes (a n : Nat) : (s.hostWrite i b m d).recBytes e a n = s.recBytes e a n := by
    unfold State.recBytes
    rw [State.repl_hostWrite]
    rfl
  have chip : ((s.hostWrite i b m d).chip e).sys = (s.chip e).sys ∧ ((s.hostWrite i b m d).chip e).regions = (s.chip e).regions := by
    rw [State.chip_hostWrite]; split <;> exact ⟨rfl, rfl⟩
  unfold State.fixedByte
  rw [State.repl_hostWrite, regions_congr bytes (congrArg SysRegs.rootrcb chip.1), chip.2]

theorem hdmWrite_repl {i b : Nat} {mask : DWord} {data : List Byte} {s : State} (up : s.cxlUp i = true) (some : mask ≠ 0)
    (first : (s.chip i).hostWrites = []) (canonical : s.canonical = true) (high : 2 ^ 41 ≤ b * 64)
    (inside : b * 64 - 2 ^ 41 < reservedBase (s.repl i).rsegsz) (create : (s.repl i).canCreate = true)
    (pass : s.replFails i ((b * 64 - 2 ^ 41) / 64) = false) (free : ∀ j, j < 64 → s.fixedByte i (b * 64 - 2 ^ 41 + j) = false) :
    Happens (.hdmWrite i b mask data) s fun t => (∀ a, t.byte a = s.byte a) ∧ (t.repl i).own = (s.repl i).own + 1 ∧
      ∀ a, t.replByte i a = if b * 64 - 2 ^ 41 ≤ a ∧ a < b * 64 - 2 ^ 41 + 64 ∧ mask.getLsbD (a - (b * 64 - 2 ^ 41)) = true
        then data.getD (a - (b * 64 - 2 ^ 41)) 0 else s.replByte i a := by
  set base := b * 64 - 2 ^ 41 with hbase
  have aligned : base / 64 * 64 = base := by omega
  set u := s.hostWrite i b mask data with hu
  set cs := maskCells mask data base with hcs
  obtain ⟨c0, rest, cells⟩ := maskCells_ne_nil some data base
  have made : u.hdmPerform i b mask data = (true, u.acceptUpdate i cs none none) := by
    have place : u.hdmPlace i b = .repl (base / 64) := State.hdmPlace_repl high (by rw [hu, State.repl_hostWrite]; exact inside)
    have may : (u.repl i).canCreate = true := by rw [hu, State.repl_hostWrite]; exact create
    unfold State.hdmPerform
    simp only [place, may, aligned]
    rfl
  have free : ∀ x ∈ cs, u.fixedByte i x.1 = false := by
    intro x hx
    obtain ⟨j, hj, e⟩ := mem_maskCells hx
    rw [e, hu, State.fixedByte_hostWrite]
    exact free j hj
  have pass : u.replFails i (c0.1 / 64) = false := by
    obtain ⟨j, hj, e⟩ := mem_maskCells (show c0 ∈ cs by rw [hcs, cells]; exact List.mem_cons_self)
    rw [hu, State.replFails_hostWrite, show c0.1 / 64 = base / 64 by omega]
    exact pass
  obtain ⟨kept, own⟩ := State.acceptUpdate_spec cells free pass
  have run := hdmWrite_made up some first made
  generalize u.acceptUpdate i cs none none = w at kept own run
  have final (v c k h : Nat) : ((w.hostWrote i).dirDrop fun q => q = .run (hdmTurn i)).kept v c k h =
      State.withReplica (s.kept v c k h) h i (Memory.writeCells (s.repl i).replica cs) := by
    rw [State.kept_dirDrop, State.kept_hostWrote, kept, hu, State.kept_hostWrite, State.repl_hostWrite]
  have count : (((w.hostWrote i).dirDrop fun q => q = .run (hdmTurn i)).repl i).own = (s.repl i).own + 1 := by
    have chip : (((w.hostWrote i).dirDrop fun q => q = .run (hdmTurn i)).chip i).repl = w.repl i := by
      rw [State.chip_dirDrop]
      simp [State.hostWrote, State.repl]
    refine (congrArg Repl.own chip).trans (own.trans ?_)
    rw [hu, State.repl_hostWrite]
  generalize ((w.hostWrote i).dirDrop fun q => q = .run (hdmTurn i)) = t at run final count
  have wf : (s.repl i).replica.wf = true := State.canonical_replica canonical i
  have threads (o : Kept) (h : Nat) (m : Memory) : (State.withReplica o h i m).threads = o.threads := by unfold State.withReplica; split <;> rfl
  have mem (o : Kept) (h : Nat) (m : Memory) : (State.withReplica o h i m).mem = o.mem := by unfold State.withReplica; split <;> rfl
  refine ⟨t, run, fun v l => .of_data (State.lane_data ((congrArg Kept.threads (final v 0 0 0)).trans (threads ..)) l), fun a => ?_, count,
    fun a => ?_⟩
  · exact congrArg (Memory.read · a) ((congrArg Kept.mem (final 0 0 0 0)).trans (mem ..))
  · have replica : (t.repl i).replica = Memory.writeCells (s.repl i).replica cs := by
      refine (congrArg Kept.replica (final 0 0 0 i)).trans ?_
      rw [State.withReplica, if_pos rfl]
    unfold State.replByte
    rw [replica, hcs, Memory.read_maskCells wf]

/-! ### Back-invalidation -/

@[simp] theorem State.kept_retryBlock (s : State) (b : Nat) : (s.retryBlock b).kept v c k h = s.kept v c k h := by
  unfold State.retryBlock
  refine (foldl_eq (o := fun s => s.kept v c k h) _ _ fun _ _ _ => foldl_eq (o := fun s => s.kept v c k h) _ _ fun _ _ _ => ?_).trans
    (foldl_eq (o := fun s => s.kept v c k h) _ _ fun _ _ _ => foldl_eq (o := fun s => s.kept v c k h) _ _ fun _ _ _ => ?_)
  · split <;> simp
  · split <;> simp

theorem State.cluster_retryBlock (s : State) (b i : Nat) : (s.retryBlock b).cluster i = s.cluster i := by
  unfold State.retryBlock
  refine (foldl_eq (o := fun s => s.cluster i) _ _ fun _ _ _ => foldl_eq (o := fun s => s.cluster i) _ _ fun _ _ _ => ?_).trans
    (foldl_eq (o := fun s => s.cluster i) _ _ fun _ _ _ => foldl_eq (o := fun s => s.cluster i) _ _ fun _ _ _ => ?_)
  · split <;> simp
  · split <;> simp

/-- Every released entry of a block is tried again. -/
theorem State.mem_retryBlock {s : State} {b : Nat} {q : Nat × Core} (hq : q ∈ s.cores) {e : Nat × WqEntry} (he : e ∈ q.2.wq)
    (held : e.2.held = false) (repl : e.2.repl = false) (block : e.2.block = b) : .wqEntryPerform q.1 e.1 ∈ (s.retryBlock b).agenda := by
  unfold State.retryBlock
  refine mem_agenda_foldl (fun s w h => mem_agenda_foldl (fun s l h => ?_) _ _ h) _ _ ?_
  · split
    · exact State.mem_postOnce h
    · exact h
  have entry (s : State) (q : Nat × Core) (d : Event) (h : d ∈ s.agenda) : d ∈ (q.2.wq.foldl (fun s e =>
      if !e.2.held && !e.2.repl && e.2.block = b then s.postOnce (.wqEntryPerform q.1 e.1) else s) s).agenda :=
    mem_agenda_foldl (fun s e h => by
      split
      · exact State.mem_postOnce h
      · exact h) _ _ h
  refine foldl_of_step (P := fun _ => True) hq s trivial (fun _ _ _ _ => trivial) (fun u _ => ?_) fun u r _ h => entry u r _ h
  refine foldl_of_step (P := fun _ => True) (Q := fun w => .wqEntryPerform q.1 e.1 ∈ w.agenda) he u trivial (fun _ _ _ _ => trivial) (fun w _ => ?_) fun w r _ h => ?_
  · rw [if_pos (by simp [held, repl, block])]
    exact State.mem_agenda_postOnce ..
  · split
    · exact State.mem_postOnce h
    · exact h

theorem birsp_stack (i b : Nat) (s : State) (low : b * 64 < 2 ^ 41) (waits : b ∈ (s.cluster (stackOf (b * 64))).biWait) :
    Happens (.birsp i b) s fun t => s.SameStore t ∧
    b ∉ (t.cluster (stackOf (b * 64))).hostHeld ∧ b ∉ (t.cluster (stackOf (b * 64))).hostOwned ∧ b ∉ (t.cluster (stackOf (b * 64))).biWait ∧
    ∀ k ∈ s.cores, ∀ e ∈ k.2.wq, e.2.held = false → e.2.repl = false → e.2.block = b → .wqEntryPerform k.1 e.1 ∈ t.agenda := by
  have run : exec (.birsp i b) s = .next ((s.setCluster (stackOf (b * 64)) { s.cluster (stackOf (b * 64)) with
      hostHeld := (s.cluster (stackOf (b * 64))).hostHeld.filter fun x => x ≠ b
      hostOwned := (s.cluster (stackOf (b * 64))).hostOwned.filter fun x => x ≠ b
      biWait := (s.cluster (stackOf (b * 64))).biWait.filter fun x => x ≠ b
      biData := (s.cluster (stackOf (b * 64))).biData.filter fun x => x ≠ b }).retryBlock b) :=
    congrArg Host.Outcome.next ((if_pos low).trans (if_pos (by simpa using waits)))
  refine happens_of_keeps run (fun v c k h => ?_) fun same => ⟨same, ?_, ?_, ?_, fun q hq e he held repl block => ?_⟩
  · rw [State.kept_retryBlock]
    exact State.kept_setCluster rfl rfl
  · rw [State.cluster_retryBlock, State.cluster_setCluster, if_pos rfl]; simp
  · rw [State.cluster_retryBlock, State.cluster_setCluster, if_pos rfl]; simp
  · rw [State.cluster_retryBlock, State.cluster_setCluster, if_pos rfl]; simp
  · exact State.mem_retryBlock (s := s.setCluster _ _) hq he held repl block

@[simp] theorem State.kept_retryRepl (s : State) (i : Nat) : (s.retryRepl i).kept v c k h = s.kept v c k h :=
  foldl_eq (o := fun s => s.kept v c k h) _ _ fun _ _ _ => by
    split
    · rfl
    · exact foldl_eq (o := fun s => s.kept v c k h) _ _ fun _ _ _ => by split <;> simp

@[simp] theorem State.chip_retryRepl (s : State) (i d : Nat) : (s.retryRepl i).chip d = s.chip d :=
  foldl_eq (o := fun s => s.chip d) _ _ fun _ _ _ => by
    split
    · rfl
    · exact foldl_eq (o := fun s => s.chip d) _ _ fun _ _ _ => by split <;> simp

theorem birsp_repl (i b : Nat) (s : State) (high : 2 ^ 41 ≤ b * 64) (waits : b - 2 ^ 35 ∈ (s.repl i).biWait) :
    Happens (.birsp i b) s fun t => s.SameStore t ∧ b - 2 ^ 35 ∉ (t.repl i).hostHeld ∧ b - 2 ^ 35 ∉ (t.repl i).biWait ∧
      .packetApply i ∈ t.agenda ∧ .colGrant i ∈ t.agenda := by
  set u := s.modRepl i fun r => { r with hostHeld := r.hostHeld.filter fun x => x ≠ b - 2 ^ 35
                                         biWait := r.biWait.filter fun x => x ≠ b - 2 ^ 35 } with hu
  have run : exec (.birsp i b) s = .next (((u.retryRepl i).postOnce (.packetApply i)).postOnce (.colGrant i)) :=
    congrArg Host.Outcome.next ((if_neg (not_lt.2 high)).trans (if_neg (by simpa using waits)))
  have repl : (((u.retryRepl i).postOnce (.packetApply i)).postOnce (.colGrant i)).repl i = u.repl i :=
    congrArg Chip.repl ((State.chip_postOnce_frame ..).trans ((State.chip_postOnce_frame ..).trans (State.chip_retryRepl ..)))
  refine happens_of_keeps run (fun v c k h => ?_) fun same => ⟨same, ?_, ?_, State.mem_postOnce (State.mem_agenda_postOnce ..),
    State.mem_agenda_postOnce ..⟩
  · rw [State.kept_postOnce, State.kept_postOnce, State.kept_retryRepl]
    exact State.kept_modRepl fun _ => rfl
  · rw [repl, hu, State.repl_modRepl, if_pos rfl]; simp
  · rw [repl, hu, State.repl_modRepl, if_pos rfl]; simp

theorem birsp_unasked (i b : Nat) (s : State)
    (low : b * 64 < 2 ^ 41 → b ∉ (s.cluster (stackOf (b * 64))).biWait ∧ b ∉ (s.cluster (stackOf (b * 64))).biData)
    (high : 2 ^ 41 ≤ b * 64 → b - 2 ^ 35 ∉ (s.repl i).biWait) : Happens (.birsp i b) s fun t => t = s := by
  refine happens_same (congrArg Host.Outcome.next ?_)
  by_cases l : b * 64 < 2 ^ 41
  · exact (if_pos l).trans ((if_neg (by simpa using (low l).1)).trans (if_neg (by simpa using (low l).2)))
  · exact (if_neg l).trans (if_pos (by simpa using high (not_lt.1 l)))

/-! ### The obligation -/

/-- Settles O52: clause by clause, the write lane, the host lines, the snoops, HDM and back-invalidation. -/
theorem lanesAndHostPort : Obligations.LanesAndHostPort := by
  unfold Obligations.LanesAndHostPort
  exact ⟨writeLaneGrant_idle, writeLaneGrant_grants, wcapWindow_clears, hostLineFill_fills, hostLineFill_evicts, hostLineFill_cached,
    snpData_shares, fun c n s host here _ => snpInv_invalidates c n s host here, fun _ _ _ => happens_same rfl, hdmRead_down, hdmRead_holds,
    fun _ _ _ _ _ up some first canonical low live inside => hdmWrite_stack up some first low live inside canonical,
    fun _ _ _ _ _ up some first low live inside => hdmWrite_stack_waits up some first low live inside,
    fun _ _ _ _ _ => hdmWrite_repl, birsp_stack, birsp_repl, birsp_unasked⟩

end Sys2Proof.Machine
end

section
/-! SUPPORT. Rounding between two neighbours (07 R139, Table 7.3; for O12, O13, O16, O18 and O19). -/

-- One theorem at a time: many at once ask for more threads than the checker has memory for.
set_option Elab.async false

namespace Sys2Proof.Machine

/-! ### The neighbour that a mode takes -/

/-- A magnitude with a sign. -/
def signed (neg : Bool) (v : ℚ) : ℚ := if neg then -v else v

theorem signed_eq_zero {neg : Bool} {v : ℚ} : signed neg v = 0 ↔ v = 0 := by cases neg <;> simp [signed]

theorem abs_signed (neg : Bool) (v : ℚ) : |signed neg v| = |v| := by cases neg <;> simp [signed]

theorem dyadic_eq_signed (neg : Bool) (m : Nat) (e : Int) : dyadic neg m e = signed neg (m * 2 ^ e) := by
  cases neg <;> simp [dyadic, signed]

/-- Whether the upper of two neighbours is taken, by the distances from both; `odd` tells whether the lower has an odd code. -/
def takesUpper (mode : RoundMode) (neg odd : Bool) (lo hi x : ℚ) : Prop :=
  match mode with
  | .rne => lo + hi < 2 * x ∨ lo + hi = 2 * x ∧ odd = true
  | .rna => lo + hi ≤ 2 * x
  | .rz => False
  | .ru => lo ≠ x ∧ neg = false
  | .rd => lo ≠ x ∧ neg = true

theorem takesUpper_ne {mode : RoundMode} {neg odd : Bool} {lo hi x : ℚ} (h : takesUpper mode neg odd lo hi x) (above : x < hi) : lo ≠ x := by
  rintro rfl
  cases mode with
  | rne => rcases h with h | ⟨h, -⟩ <;> linarith
  | rna => have : lo + hi ≤ 2 * lo := h
           linarith
  | rz => exact h
  | ru => exact h.1 rfl
  | rd => exact h.1 rfl

theorem abs_signed_sub (neg : Bool) (a b : ℚ) : |signed neg a - signed neg b| = |a - b| := by
  cases neg
  · rfl
  · simp only [signed, if_true]
    rw [← abs_neg]
    congr 1
    ring

/-- The distance of a magnitude from its chosen neighbour, and from a number on the other side of the two. -/
theorem near_between {lo hi x y : ℚ} {up : Bool} (below : lo ≤ x) (above : x < hi) (side : y ≤ lo ∨ hi ≤ y)
    (closer : up = true → lo + hi ≤ 2 * x) (farther : up = false → 2 * x ≤ lo + hi) :
    |x - (if up then hi else lo)| ≤ |x - y| ∧
      (|x - (if up then hi else lo)| = |x - y| → y = (if up then hi else lo) ∨ lo + hi = 2 * x ∧ y = (if up then lo else hi)) := by
  have fromLo : |x - lo| = x - lo := abs_of_nonneg (by linarith)
  have fromHi : |x - hi| = hi - x := by rw [abs_of_neg (by linarith)]; ring
  have fromY : y ≤ lo ∧ |x - y| = x - y ∨ hi ≤ y ∧ |x - y| = y - x := side.imp (fun h => ⟨h, abs_of_nonneg (by linarith)⟩)
    fun h => ⟨h, by rw [abs_of_neg (by linarith)]; ring⟩
  cases up with
  | true =>
    have := closer rfl
    simp only [if_true, fromHi]
    rcases fromY with ⟨h, e⟩ | ⟨h, e⟩
    · rw [e]
      exact ⟨by linarith, fun eq => .inr ⟨by linarith, by linarith⟩⟩
    · rw [e]
      exact ⟨by linarith, fun eq => .inl (by linarith)⟩
  | false =>
    have := farther rfl
    simp only [Bool.false_eq_true, if_false, fromLo]
    rcases fromY with ⟨h, e⟩ | ⟨h, e⟩
    · rw [e]
      exact ⟨by linarith, fun eq => .inl (by linarith)⟩
    · rw [e]
      exact ⟨by linarith, fun eq => .inr ⟨by linarith, by linarith⟩⟩

/-- A code chosen between two neighbours, of which one is at or below the magnitude and no other number lies between, is the nearest in the
mode's sense. -/
theorem nearest_of_between {value : Nat → Option ℚ} {mode : RoundMode} {neg up odd : Bool} {lo hi x : ℚ} {c : Nat} (pos : 0 < x) (lo0 : 0 ≤ lo)
    (below : lo ≤ x) (above : x < hi) (code : value c = some (signed neg (if up then hi else lo)))
    (gap : ∀ d u, value d = some u → |u| ≤ lo ∨ hi ≤ |u|) (choice : up = true ↔ takesUpper mode neg odd lo hi x)
    (even : c % 2 = 1 ↔ odd = !up) : NearestAmong value mode (signed neg x) c := by
  refine ⟨_, code, fun d u hd => ?_⟩
  obtain ⟨y, rfl⟩ : ∃ y, u = signed neg y := ⟨signed neg u, by cases neg <;> simp [signed]⟩
  have g := gap d _ hd
  rw [abs_signed] at g
  have side : y ≤ lo ∨ hi ≤ y := by
    rcases g with g | g
    · exact .inl ((le_abs_self y).trans g)
    · rcases le_abs.1 g with g | g
      · exact .inr g
      · exact .inl (by linarith)
  have absX : |x| = x := abs_of_pos pos
  have absV : |if up then hi else lo| = if up then hi else lo := abs_of_nonneg (by split <;> linarith)
  cases mode with
  | rz =>
    obtain rfl : up = false := by simpa [takesUpper] using choice
    simp only [abs_signed, absX, Bool.false_eq_true, if_false, abs_of_nonneg lo0]
    refine ⟨below, ?_, fun h _ => g.resolve_right (by linarith)⟩
    cases neg <;> simp only [signed, Bool.false_eq_true, if_false, if_true] <;> nlinarith
  | rd =>
    have whole : up = false → neg = true → lo = x := fun u n => by
      by_contra ne
      exact absurd (choice.2 ⟨ne, n⟩) (by simp [u])
    cases neg with
    | false =>
      obtain rfl : up = false := by simpa [takesUpper] using choice
      simp only [signed, Bool.false_eq_true, if_false]
      exact ⟨below, fun h => side.resolve_right (by linarith)⟩
    | true =>
      simp only [signed, if_true]
      cases up with
      | true => exact ⟨by simp; linarith, fun h => by
          have ne := (choice.1 rfl).1
          rcases side with s | s
          · exact absurd (le_antisymm below (by linarith)) ne
          · simp; linarith⟩
      | false =>
        have := whole rfl rfl
        exact ⟨by simp; linarith, fun h => by simp; linarith⟩
  | ru =>
    have whole : up = false → neg = false → lo = x := fun u n => by
      by_contra ne
      exact absurd (choice.2 ⟨ne, n⟩) (by simp [u])
    cases neg with
    | true =>
      obtain rfl : up = false := by simpa [takesUpper] using choice
      simp only [signed, if_true]
      exact ⟨by simpa using below, fun h => neg_le_neg (side.resolve_right (by linarith))⟩
    | false =>
      simp only [signed, Bool.false_eq_true, if_false]
      cases up with
      | true => exact ⟨by simpa using above.le, fun h => by
          have ne := (choice.1 rfl).1
          rcases side with s | s
          · exact absurd (le_antisymm below (by linarith)) ne
          · simpa using s⟩
      | false =>
        have := whole rfl rfl
        exact ⟨by simpa using this.ge, fun h => by simp; linarith⟩
  | rne =>
    have up1 : up = true → lo + hi ≤ 2 * x := fun u => (choice.1 u).elim le_of_lt fun h => h.1.le
    have up0 : up = false → 2 * x ≤ lo + hi := fun u => not_lt.1 fun h => absurd (choice.2 (.inl h)) (by simp [u])
    obtain ⟨near, tie⟩ := near_between below above side up1 up0
    simp only [abs_signed_sub]
    refine ⟨near, fun eq ne => ?_⟩
    obtain ⟨mid, -⟩ := (tie eq).resolve_left fun h => ne (by rw [h])
    have : ¬ c % 2 = 1 := fun h => by
      have odd := even.1 h
      cases up with
      | true => rcases choice.1 rfl with l | ⟨-, o⟩
                · linarith
                · rw [o] at odd; simp at odd
      | false => exact absurd (choice.2 (.inr ⟨mid, by simpa using odd⟩)) (by simp)
    omega
  | rna =>
    have up1 : up = true → lo + hi ≤ 2 * x := choice.1
    have up0 : up = false → 2 * x ≤ lo + hi := fun u => le_of_not_ge fun h => absurd (choice.2 h) (by simp [u])
    obtain ⟨near, tie⟩ := near_between below above side up1 up0
    simp only [abs_signed_sub, abs_signed]
    refine ⟨near, fun eq => ?_⟩
    rcases tie eq with h | ⟨mid, h⟩
    · rw [h]
    · cases up with
      | true => simpa [h, abs_of_nonneg lo0] using (abs_of_nonneg (show (0 : ℚ) ≤ hi by linarith)).symm ▸ below.trans above.le
      | false => exact absurd (choice.2 mid.le) (by simp)

end Sys2Proof.Machine
end

section
/-! SUPPORT. The codes of a format in order, and its one rounding (07 R134, R139, R142; for O12, O16 and O18). -/

-- One theorem at a time: many at once ask for more threads than the checker has memory for.
set_option Elab.async false

namespace Sys2Proof.Machine

/-! ### The magnitudes of codes -/

/-- The magnitude of a code with `p` fraction bits, in units of the least one. -/
def levelOf (p c : Nat) : Nat := if c < 2 ^ p then c else (2 ^ p + c % 2 ^ p) * 2 ^ (c / 2 ^ p - 1)

/-- A code is some units at some exponent, of full precision unless the exponent is the least. -/
theorem levelOf_code {p k u : Nat} (le : u ≤ 2 ^ (p + 1)) (full : k = 0 ∨ 2 ^ p ≤ u) : levelOf p (k * 2 ^ p + u) = u * 2 ^ k := by
  have pos := Nat.two_pow_pos p
  rw [pow_succ] at le
  unfold levelOf
  by_cases low : u < 2 ^ p
  · obtain rfl := full.resolve_right (not_le.2 low)
    simp [low]
  have high := not_lt.1 low
  rw [if_neg (by omega)]
  by_cases last : u = 2 ^ p * 2
  · subst last
    have e : k * 2 ^ p + 2 ^ p * 2 = (k + 2) * 2 ^ p := by ring
    rw [e, Nat.mul_mod_left, Nat.mul_div_cancel _ pos, Nat.add_sub_assoc (by decide), pow_succ]
    ring
  · obtain ⟨r, rfl⟩ := Nat.exists_eq_add_of_le high
    have small : r < 2 ^ p := by omega
    have e : k * 2 ^ p + (2 ^ p + r) = r + (k + 1) * 2 ^ p := by ring
    rw [e, Nat.add_mul_mod_self_right, Nat.add_mul_div_right _ _ pos, Nat.mod_eq_of_lt small, Nat.div_eq_of_lt small]
    simp

theorem exists_code (p c : Nat) : ∃ k u, c = k * 2 ^ p + u ∧ u < 2 ^ (p + 1) ∧ (k = 0 ∨ 2 ^ p ≤ u) := by
  have pos := Nat.two_pow_pos p
  by_cases low : c < 2 ^ p
  · exact ⟨0, c, by simp, by rw [pow_succ]; omega, .inl rfl⟩
  · have one : 1 ≤ c / 2 ^ p := (Nat.one_le_div_iff pos).2 (not_lt.1 low)
    have rest := Nat.mod_lt c pos
    refine ⟨c / 2 ^ p - 1, 2 ^ p + c % 2 ^ p, ?_, by rw [pow_succ]; omega, .inr (Nat.le_add_right ..)⟩
    have whole := Nat.div_add_mod' c (2 ^ p)
    have split := Nat.sub_mul (c / 2 ^ p) 1 (2 ^ p)
    have least : 2 ^ p ≤ c / 2 ^ p * 2 ^ p := Nat.le_mul_of_pos_left _ one
    omega

theorem strictMono_levelOf (p : Nat) : StrictMono (levelOf p) := by
  refine strictMono_nat_of_lt_succ fun c => ?_
  obtain ⟨k, u, rfl, lt, full⟩ := exists_code p c
  rw [levelOf_code lt.le full, Nat.add_assoc, levelOf_code (Nat.succ_le_of_lt lt) (full.imp_right fun h => h.trans (Nat.le_succ u))]
  exact Nat.mul_lt_mul_of_pos_right (Nat.lt_succ_self u) (Nat.two_pow_pos k)

/-! ### A format -/

/-- A format whose codes of infinity and NaN lie beyond the largest number's. -/
structure Fmt.Sound (f : Fmt) : Prop where
  largest_lt : f.largest < 2 ^ (f.e + f.m)
  largest_pos : 0 < f.largest
  inf_gt : ∀ i, f.inf = some i → f.largest < i ∧ i < 2 ^ (f.e + f.m)
  frac_pos : 0 < f.m
  frac_lt : f.m < 60

theorem Fmt.sound_of_mem {f : Fmt} (h : f ∈ [fmtF32, fmtF16, fmtBf16, fmtE4m3, fmtE5m2, fmtE3m2, fmtE2m3]) : f.Sound := by
  have dec : ∀ f ∈ [fmtF32, fmtF16, fmtBf16, fmtE4m3, fmtE5m2, fmtE3m2, fmtE2m3],
      f.largest < 2 ^ (f.e + f.m) ∧ 0 < f.largest ∧ (f.inf.all fun i => f.largest < i ∧ i < 2 ^ (f.e + f.m)) ∧ 0 < f.m ∧ f.m < 60 := by
    decide
  obtain ⟨a, b, c, d, e⟩ := dec f h
  exact ⟨a, b, fun i hi => by simpa [hi] using c, d, e⟩

/-- The exponent of the least magnitude. -/
def Fmt.least (f : Fmt) : Int := 1 - (f.bias : Int) - f.m

/-- The magnitude of a code. -/
def Fmt.level (f : Fmt) (c : Nat) : ℚ := levelOf f.m c * 2 ^ f.least

theorem Fmt.strictMono_level (f : Fmt) : StrictMono f.level := fun _ _ h =>
  mul_lt_mul_of_pos_right (Nat.cast_lt.2 (strictMono_levelOf f.m h)) (by positivity)

theorem Fmt.level_zero (f : Fmt) : f.level 0 = 0 := by simp [Fmt.level, levelOf]

theorem Fmt.level_nonneg (f : Fmt) (c : Nat) : 0 ≤ f.level c := f.level_zero ▸ f.strictMono_level.monotone (Nat.zero_le c)

/-- The value of a code of a sign and a magnitude code. -/
theorem Fmt.read_eq {f : Fmt} (sound : f.Sound) (x : Nat) (le : x % 2 ^ (f.e + f.m) ≤ f.largest) :
    ∃ m e, f.read x = .fin (bit x (f.e + f.m)) m e ∧ (m : ℚ) * 2 ^ e = f.level (x % 2 ^ (f.e + f.m)) := by
  unfold Fmt.read
  simp only []
  generalize x % 2 ^ (f.e + f.m) = mag at le ⊢
  have pos := Nat.two_pow_pos f.m
  rw [if_neg fun h => absurd (sound.inf_gt _ h).1 (not_lt.2 le), if_neg (not_lt.2 le)]
  unfold Fmt.level levelOf Fmt.least
  split
  · next zero =>
    have low : mag < 2 ^ f.m := (Nat.div_eq_zero_iff.1 zero).resolve_left pos.ne'
    exact ⟨_, _, rfl, by rw [if_pos low, Nat.mod_eq_of_lt low]⟩
  · next high =>
    have low : ¬ mag < 2 ^ f.m := fun h => high (Nat.div_eq_of_lt h)
    refine ⟨_, _, rfl, ?_⟩
    rw [if_neg low, Nat.cast_mul, Nat.cast_pow, mul_assoc, Nat.cast_ofNat, ← zpow_natCast (2 : ℚ) (mag / 2 ^ f.m - 1), ← zpow_add₀ two_ne_zero]
    congr 2
    have : 1 ≤ mag / 2 ^ f.m := Nat.one_le_iff_ne_zero.2 high
    omega

theorem Fmt.numberOf_eq {f : Fmt} (sound : f.Sound) {c : Nat} {u : ℚ} : f.numberOf c = some u ↔
    c < 2 ^ (f.e + f.m + 1) ∧ c % 2 ^ (f.e + f.m) ≤ f.largest ∧ u = signed (bit c (f.e + f.m)) (f.level (c % 2 ^ (f.e + f.m))) := by
  unfold Fmt.numberOf
  by_cases high : 2 ^ (f.e + f.m + 1) ≤ c
  · simp [high]
  rw [if_neg high]
  by_cases le : c % 2 ^ (f.e + f.m) ≤ f.largest
  · obtain ⟨m, e, read, level⟩ := Fmt.read_eq sound c le
    rw [read]
    simp only [Option.some.injEq, dyadic_eq_signed, level]
    exact ⟨fun h => ⟨not_le.1 high, le, h.symm⟩, fun h => h.2.2.symm⟩
  · refine iff_of_false (fun h => ?_) fun h => le h.2.1
    split at h
    · next n m e read =>
      unfold Fmt.read at read
      simp only at read
      split at read
      · cases read
      · rw [if_pos (not_le.1 le)] at read
        cases read
    · cases h

/-- The code of a sign and a magnitude code stands for the signed magnitude. -/
theorem Fmt.numberOf_signBit {f : Fmt} (sound : f.Sound) (neg : Bool) {c : Nat} (le : c ≤ f.largest) :
    f.numberOf (f.signBit neg + c) = some (signed neg (f.level c)) := by
  have lt := le.trans_lt sound.largest_lt
  have pos := Nat.two_pow_pos (f.e + f.m)
  have mod : (f.signBit neg + c) % 2 ^ (f.e + f.m) = c := by
    cases neg <;> simp [Fmt.signBit, Nat.mod_eq_of_lt lt]
  have sign : bit (f.signBit neg + c) (f.e + f.m) = neg := by
    cases neg
    · simp [Fmt.signBit, bit, Nat.div_eq_of_lt lt]
    · simp [Fmt.signBit, bit, Nat.add_div_left _ pos, Nat.div_eq_of_lt lt]
  refine (Fmt.numberOf_eq sound).2 ⟨?_, by rw [mod]; exact le, by rw [mod, sign]⟩
  rw [pow_succ]
  cases neg <;> simp only [Fmt.signBit, Bool.false_eq_true, if_false, if_true] <;> omega

end Sys2Proof.Machine
end

section
/-! SUPPORT. A magnitude rounded to a multiple of a power of two, and to a format (07 R139, R142; for O12, O16 and O18). -/

-- One theorem at a time: many at once ask for more threads than the checker has memory for.
set_option Elab.async false

namespace Sys2Proof.Machine

/-! ### Units -/

/-- A magnitude given by a mantissa and an exponent, and, when sticky, by the two it lies between. -/
def Magnitude (m : Nat) (e : Int) (st : Bool) (x : ℚ) : Prop :=
  if st then (m : ℚ) * 2 ^ e < x ∧ x < (m + 1 : Nat) * 2 ^ e else x = m * 2 ^ e

theorem two_zpow_sub {e q : Int} (h : e ≤ q) : (2 : ℚ) ^ q = 2 ^ (q - e).toNat * 2 ^ e := by
  rw [← zpow_natCast, ← zpow_add₀ two_ne_zero]
  congr 1
  omega

/-- The units of a power of two below a magnitude. -/
def unitsBelow (m : Nat) (e q : Int) : Nat := if q ≤ e then m * 2 ^ (e - q).toNat else m / 2 ^ (q - e).toNat

theorem unitsBelow_between {m : Nat} {e q : Int} {st : Bool} {x : ℚ} (mag : Magnitude m e st x) (coarse : st = true → e < q) :
    (unitsBelow m e q : ℚ) * 2 ^ q ≤ x ∧ x < (unitsBelow m e q + 1 : Nat) * 2 ^ q := by
  have pos : (0 : ℚ) < 2 ^ q := by positivity
  have pose : (0 : ℚ) < 2 ^ e := by positivity
  unfold unitsBelow
  by_cases fine : q ≤ e
  · have notSt : st = false := by
      cases st
      · rfl
      · exact absurd (coarse rfl) (not_lt.2 fine)
    have eq : x = m * 2 ^ e := by simpa [Magnitude, notSt] using mag
    rw [if_pos fine, eq, two_zpow_sub fine]
    push_cast
    constructor <;> nlinarith
  · rw [if_neg fine, two_zpow_sub (not_le.1 fine).le]
    set d := 2 ^ (q - e).toNat with hd
    have dpos : 0 < d := Nat.two_pow_pos _
    have lower : (m / d * d : ℕ) ≤ m := Nat.div_mul_le_self ..
    have upper : m + 1 ≤ (m / d + 1) * d := by
      have := Nat.lt_div_mul_add dpos (a := m)
      rw [Nat.add_mul]; omega
    have low : ((m / d : ℕ) : ℚ) * d ≤ m := by exact_mod_cast lower
    have upp : (m : ℚ) + 1 ≤ ((m / d + 1 : ℕ) : ℚ) * d := by exact_mod_cast upper
    have cast : (2 : ℚ) ^ (q - e).toNat = (d : ℚ) := by rw [hd]; push_cast; rfl
    rw [cast]
    have l : (m : ℚ) * 2 ^ e ≤ x ∧ x < (m + 1 : ℚ) * 2 ^ e := by
      unfold Magnitude at mag
      split at mag
      · push_cast at mag; exact ⟨mag.1.le, mag.2⟩
      · rw [mag]; exact ⟨le_refl _, by nlinarith⟩
    constructor
    · calc _ = ((m / d : ℕ) : ℚ) * d * 2 ^ e := by ring
        _ ≤ m * 2 ^ e := mul_le_mul_of_nonneg_right low pose.le
        _ ≤ x := l.1
    · calc x < (m + 1 : ℚ) * 2 ^ e := l.2
        _ ≤ ((m / d + 1 : ℕ) : ℚ) * d * 2 ^ e := mul_le_mul_of_nonneg_right upp pose.le
        _ = _ := by ring

/-- Twice a magnitude against the middle of its neighbours, in the digits that rounding drops. -/
theorem middle_iff {m d : Nat} {p x : ℚ} {st : Bool} (pos : 0 < p) (even : 2 * (d / 2) = d)
    (mag : if st then (m : ℚ) * p < x ∧ x < (m + 1 : Nat) * p else x = m * p) :
    ((m / d : Nat) * (d * p) + (m / d + 1 : Nat) * (d * p) < 2 * x ↔ d / 2 < m % d ∨ m % d = d / 2 ∧ st = true) ∧
    ((m / d : Nat) * (d * p) + (m / d + 1 : Nat) * (d * p) = 2 * x ↔ m % d = d / 2 ∧ st = false) ∧
    ((m / d : Nat) * (d * p) = x ↔ m % d = 0 ∧ st = false) := by
  set h := d / 2
  set k := m / d
  set r := m % d with hr
  have whole : m = k * d + r := (Nat.div_add_mod' m d).symm
  have dq : (d : ℚ) = 2 * h := by exact_mod_cast even.symm
  have mq : (m : ℚ) = k * d + r := by exact_mod_cast whole
  have sum : (k : ℚ) * (d * p) + (k + 1 : Nat) * (d * p) = 2 * (k * d + h) * p := by push_cast; rw [dq]; ring
  rw [sum]
  cases st with
  | false =>
    have eq : x = m * p := by simpa using mag
    rw [eq, mq]
    refine ⟨?_, ?_, ?_⟩
    · rw [← mul_assoc, mul_lt_mul_iff_left₀ pos]
      constructor
      · intro l
        have : (h : ℚ) < r := by linarith
        exact .inl (by exact_mod_cast this)
      · rintro (l | ⟨-, l⟩)
        · have : (h : ℚ) < r := by exact_mod_cast l
          linarith
        · cases l
    · rw [← mul_assoc, mul_right_cancel_iff_of_pos pos]
      constructor
      · intro l
        have : (r : ℚ) = h := by linarith
        exact ⟨by exact_mod_cast this, rfl⟩
      · rintro ⟨l, -⟩
        rw [l]
    · rw [← mul_assoc, mul_right_cancel_iff_of_pos pos]
      constructor
      · intro l
        have : (r : ℚ) = 0 := by linarith
        exact ⟨by exact_mod_cast this, rfl⟩
      · rintro ⟨l, -⟩
        rw [l]; simp
  | true =>
    obtain ⟨lower, upper⟩ : (m : ℚ) * p < x ∧ x < (m + 1 : Nat) * p := by simpa using mag
    push_cast at upper
    rw [mq] at lower upper
    refine ⟨?_, ?_, ?_⟩
    · constructor
      · intro l
        have : (h : ℚ) < r + 1 := by
          by_contra no
          have : (k * d + r + 1 : ℚ) * p ≤ (k * d + h) * p := mul_le_mul_of_nonneg_right (by linarith) pos.le
          linarith
        have : h < r + 1 := by exact_mod_cast this
        rcases Nat.lt_succ_iff_lt_or_eq.1 this with l | l
        · exact .inl l
        · exact .inr ⟨l.symm, rfl⟩
      · intro l
        have : h ≤ r := by rcases l with l | ⟨l, -⟩ <;> omega
        have : (h : ℚ) ≤ r := by exact_mod_cast this
        have : (k * d + h : ℚ) * p ≤ (k * d + r) * p := mul_le_mul_of_nonneg_right (by linarith) pos.le
        linarith
    · refine iff_of_false (fun l => ?_) (by simp)
      rcases le_or_gt h r with g | g
      · have : (h : ℚ) ≤ r := by exact_mod_cast g
        have : (k * d + h : ℚ) * p ≤ (k * d + r) * p := mul_le_mul_of_nonneg_right (by linarith) pos.le
        linarith
      · have : (r + 1 : ℚ) ≤ h := by exact_mod_cast g
        have : (k * d + r + 1 : ℚ) * p ≤ (k * d + h) * p := mul_le_mul_of_nonneg_right (by linarith) pos.le
        linarith
    · refine iff_of_false (fun l => ?_) (by simp)
      have : (k * d : ℚ) * p ≤ (k * d + r) * p := mul_le_mul_of_nonneg_right (by linarith [Nat.cast_nonneg (α := ℚ) r]) pos.le
      linarith

/-- Rounding takes the units below a magnitude or the next, in the mode's sense, and tells whether the magnitude lies between. -/
theorem roundAt_spec {mode : RoundMode} {neg st : Bool} {m : Nat} {e q : Int} {x : ℚ} (mag : Magnitude m e st x) (coarse : st = true → e < q) :
    ∃ up ix, roundAt mode neg m e st q = (if up then unitsBelow m e q + 1 else unitsBelow m e q, ix) ∧
      (ix = true ↔ (unitsBelow m e q : ℚ) * 2 ^ q ≠ x) ∧
      (up = true ↔ takesUpper mode neg (decide (unitsBelow m e q % 2 = 1)) (unitsBelow m e q * 2 ^ q) ((unitsBelow m e q + 1 : Nat) * 2 ^ q) x) := by
  obtain ⟨below, above⟩ := unitsBelow_between mag coarse
  unfold roundAt
  by_cases fine : q ≤ e
  · have notSt : st = false := by
      cases st
      · rfl
      · exact absurd (coarse rfl) (not_lt.2 fine)
    have eq : (unitsBelow m e q : ℚ) * 2 ^ q = x := by
      have : x = m * 2 ^ e := by simpa [Magnitude, notSt] using mag
      rw [this, unitsBelow, if_pos fine, two_zpow_sub fine]
      push_cast
      ring
    have units : unitsBelow m e q = m * 2 ^ (e - q).toNat := if_pos fine
    refine ⟨false, false, by rw [if_pos fine, notSt, units]; rfl, by simp [eq], iff_of_false (by simp) ?_⟩
    rw [eq] at below ⊢
    cases mode <;> simp only [takesUpper, ne_eq, not_true_eq_false, false_and, not_false_eq_true]
    · rintro (l | ⟨l, -⟩) <;> linarith
    · intro l; linarith
  · rw [if_neg fine]
    obtain ⟨n, hn⟩ : ∃ n, (q - e).toNat = n + 1 := ⟨(q - e).toNat - 1, by omega⟩
    set d := 2 ^ (q - e).toNat with hd
    have half : 2 ^ ((q - e).toNat - 1) = d / 2 := by rw [hd, hn, pow_succ]; simp
    have even : 2 * (d / 2) = d := by rw [hd, hn, pow_succ]; simp [Nat.mul_comm]
    have units : unitsBelow m e q = m / d := if_neg fine
    have scale : (2 : ℚ) ^ q = d * 2 ^ e := by rw [two_zpow_sub (not_le.1 fine).le, hd]; push_cast; rfl
    obtain ⟨more, tie, same⟩ := middle_iff (show (0 : ℚ) < 2 ^ e by positivity) even mag
    refine ⟨roundUp mode neg (m / d) (m % d) (2 ^ ((q - e).toNat - 1)) st, decide (m % d ≠ 0) || st, by rw [units], ?_, ?_⟩
    · rw [units, scale]
      refine Iff.trans ?_ (not_congr same).symm
      cases st <;> simp
    · rw [units, scale, half]
      cases mode <;> simp only [takesUpper, roundUp]
      · rw [more, tie]
        cases st <;> simp
      · simp
      · refine Iff.trans ?_ (and_congr_left' (not_congr same)).symm
        cases st <;> simp
      · refine Iff.trans ?_ (and_congr_left' (not_congr same)).symm
        cases st <;> simp
      · rw [le_iff_lt_or_eq, more, tie]
        cases st <;> simp

end Sys2Proof.Machine
end

section
/-! SUPPORT. A finite value rounded to a format (07 R139, R142; for O12, O16 and O18). -/

-- One theorem at a time: many at once ask for more threads than the checker has memory for.
set_option Elab.async false

namespace Sys2Proof.Machine

/-! ### The code below a magnitude -/

/-- The exponent of the units to which a format rounds a magnitude. -/
def Fmt.unit (f : Fmt) (m : Nat) (e : Int) : Int := max f.least ((Nat.log2 m : Int) + e - f.m)

/-- The magnitude code at or below a magnitude. -/
def Fmt.codeBelow (f : Fmt) (m : Nat) (e : Int) : Nat := (f.unit m e - f.least).toNat * 2 ^ f.m + unitsBelow m e (f.unit m e)

theorem unitsBelow_lt {p m : Nat} {e q : Int} (far : (Nat.log2 m : Int) + e - p ≤ q) : unitsBelow m e q < 2 ^ (p + 1) := by
  have bound : m < 2 ^ (Nat.log2 m + 1) := Nat.lt_log2_self
  unfold unitsBelow
  split
  · next fine =>
    have : Nat.log2 m + (e - q).toNat ≤ p := by omega
    calc m * 2 ^ (e - q).toNat < 2 ^ (Nat.log2 m + 1) * 2 ^ (e - q).toNat :=
          Nat.mul_lt_mul_of_pos_right bound (Nat.two_pow_pos _)
      _ = 2 ^ (Nat.log2 m + 1 + (e - q).toNat) := (pow_add ..).symm
      _ ≤ 2 ^ (p + 1) := Nat.pow_le_pow_right (by decide) (by omega)
  · next coarse =>
    refine (Nat.div_lt_iff_lt_mul (Nat.two_pow_pos _)).2 (bound.trans_le ?_)
    rw [← pow_add]
    exact Nat.pow_le_pow_right (by decide) (by omega)

theorem Fmt.unitsBelow_lt (f : Fmt) (m : Nat) (e : Int) : unitsBelow m e (f.unit m e) < 2 ^ (f.m + 1) :=
  Machine.unitsBelow_lt (le_max_right ..)

theorem Fmt.unitsBelow_full (f : Fmt) {m : Nat} (pos : m ≠ 0) (e : Int) :
    (f.unit m e - f.least).toNat = 0 ∨ 2 ^ f.m ≤ unitsBelow m e (f.unit m e) := by
  by_cases low : (Nat.log2 m : Int) + e - f.m ≤ f.least
  · left
    have : f.unit m e = f.least := max_eq_left low
    omega
  · right
    have unit : f.unit m e = (Nat.log2 m : Int) + e - f.m := max_eq_right (not_le.1 low).le
    have bound : 2 ^ Nat.log2 m ≤ m := Nat.log2_self_le pos
    unfold unitsBelow
    split
    · next fine =>
      calc 2 ^ f.m ≤ 2 ^ (Nat.log2 m + (e - f.unit m e).toNat) := Nat.pow_le_pow_right (by decide) (by omega)
        _ = 2 ^ Nat.log2 m * 2 ^ (e - f.unit m e).toNat := pow_add ..
        _ ≤ m * 2 ^ (e - f.unit m e).toNat := Nat.mul_le_mul_right _ bound
    · next coarse =>
      refine (Nat.le_div_iff_mul_le (Nat.two_pow_pos _)).2 (le_trans ?_ bound)
      rw [← pow_add]
      exact Nat.pow_le_pow_right (by decide) (by omega)

theorem Fmt.level_code (f : Fmt) {k u : Nat} (le : u ≤ 2 ^ (f.m + 1)) (full : k = 0 ∨ 2 ^ f.m ≤ u) :
    f.level (k * 2 ^ f.m + u) = u * 2 ^ (f.least + k) := by
  unfold Fmt.level
  rw [levelOf_code le full, zpow_add₀ two_ne_zero, zpow_natCast]
  push_cast
  ring

theorem Fmt.level_codeBelow (f : Fmt) {m : Nat} (pos : m ≠ 0) (e : Int) :
    f.level (f.codeBelow m e) = unitsBelow m e (f.unit m e) * 2 ^ f.unit m e ∧
    f.level (f.codeBelow m e + 1) = (unitsBelow m e (f.unit m e) + 1 : Nat) * 2 ^ f.unit m e := by
  have lt := f.unitsBelow_lt m e
  have full := f.unitsBelow_full pos e
  have unit : f.least + ((f.unit m e - f.least).toNat : Int) = f.unit m e := by
    have : f.least ≤ f.unit m e := le_max_left ..
    omega
  unfold Fmt.codeBelow
  refine ⟨by rw [f.level_code lt.le full, unit], ?_⟩
  rw [Nat.add_assoc, f.level_code (Nat.succ_le_of_lt lt) (full.imp_right fun h => h.trans (Nat.le_succ _)), unit]

theorem Fmt.codeBelow_odd {f : Fmt} (sound : f.Sound) (m : Nat) (e : Int) :
    f.codeBelow m e % 2 = unitsBelow m e (f.unit m e) % 2 := by
  obtain ⟨n, hn⟩ := Nat.exists_eq_succ_of_ne_zero sound.frac_pos.ne'
  unfold Fmt.codeBelow
  rw [hn, Nat.succ_eq_add_one, pow_succ, ← mul_assoc]
  omega

/-! ### The rounding -/

theorem flags_of_rounding (a b : Bool) : (flagIf a flagNX ||| flagIf b flagUF) &&& flagOF = 0 ∧
    ((flagIf a flagNX ||| flagIf b flagUF) &&& flagNX = 0 ↔ a = false) := by
  cases a <;> cases b <;> decide

/-- What a format's rounding of a magnitude is: the neighbouring codes, the one taken, and what follows when it is beyond the largest. -/
theorem Fmt.roundFin_spec {f : Fmt} (sound : f.Sound) {mode : RoundMode} {neg st : Bool} {m : Nat} {e : Int} {x : ℚ} (mag : Magnitude m e st x)
    (pos : m ≠ 0) (wide : st = true → 2 ^ 60 ≤ m) : ∃ c up, f.level c ≤ x ∧ x < f.level (c + 1) ∧
      (up = true ↔ takesUpper mode neg (decide (c % 2 = 1)) (f.level c) (f.level (c + 1)) x) ∧
      (f.largest < (if up then c + 1 else c) → (f.roundFin mode neg m e st).2 = flagOF ||| flagNX ∧
        ((f.roundFin mode neg m e st).1 = f.signBit neg + f.largest ∨ f.inf.map (f.signBit neg + ·) = some (f.roundFin mode neg m e st).1)) ∧
      ((if up then c + 1 else c) ≤ f.largest → (f.roundFin mode neg m e st).1 = f.signBit neg + (if up then c + 1 else c) ∧
        (f.roundFin mode neg m e st).2 &&& flagOF = 0 ∧ ((f.roundFin mode neg m e st).2 &&& flagNX = 0 ↔ f.level c = x) ∧
        (f.level c = x → (f.roundFin mode neg m e st).2 = 0)) := by
  have coarse : st = true → e < f.unit m e := fun h => by
    have : 60 ≤ Nat.log2 m := (Nat.le_log2 pos).2 (wide h)
    have := sound.frac_lt
    have : (Nat.log2 m : Int) + e - f.m ≤ f.unit m e := le_max_right ..
    omega
  obtain ⟨below, above⟩ := unitsBelow_between mag coarse
  obtain ⟨up, ix, round, inexact, choice⟩ := roundAt_spec (mode := mode) (neg := neg) mag coarse
  obtain ⟨lo, hi⟩ := f.level_codeBelow pos e
  rw [← lo] at below inexact choice
  rw [← hi] at above choice
  rw [← Fmt.codeBelow_odd sound] at choice
  refine ⟨f.codeBelow m e, up, below, above, choice, ?_⟩
  have code : (f.unit m e - f.least).toNat * 2 ^ f.m + (if up then unitsBelow m e (f.unit m e) + 1 else unitsBelow m e (f.unit m e)) =
      if up then f.codeBelow m e + 1 else f.codeBelow m e := by
    unfold Fmt.codeBelow
    split <;> ring
  have fin : ∃ tiny, f.roundFin mode neg m e st =
      if f.largest < (if up then f.codeBelow m e + 1 else f.codeBelow m e) then (f.signBit neg + (match f.inf with
        | some i => if overflowInf mode neg then i else f.largest
        | none => f.largest), flagOF ||| flagNX)
      else (f.signBit neg + (if up then f.codeBelow m e + 1 else f.codeBelow m e), flagIf ix flagNX ||| flagIf (ix && tiny) flagUF) := by
    have zero : (decide (m = 0) && !st) = false := by simp [pos]
    unfold Fmt.unit Fmt.least at round code
    unfold Fmt.roundFin
    simp only [zero, Bool.false_eq_true, if_false]
    rw [round]
    simp only [code]
    exact ⟨_, rfl⟩
  obtain ⟨tiny, fin⟩ := fin
  rw [fin]
  refine ⟨fun big => ?_, fun le => ?_⟩
  · rw [if_pos big]
    refine ⟨rfl, ?_⟩
    cases inf : f.inf with
    | none => exact .inl rfl
    | some i =>
      by_cases o : overflowInf mode neg = true
      · exact .inr (by simp [o])
      · exact .inl (by simp [o])
  · rw [if_neg (not_lt.2 le)]
    obtain ⟨noOf, nx⟩ := flags_of_rounding ix (ix && tiny)
    have whole : ix = false ↔ f.level (f.codeBelow m e) = x := by rw [← Bool.not_eq_true, inexact, not_not]
    exact ⟨rfl, noOf, nx.trans whole, fun eq => by rw [whole.2 eq]; simp [flagIf]⟩

theorem Fmt.numberOf_gap {f : Fmt} (sound : f.Sound) (c : Nat) {d : Nat} {u : ℚ} (h : f.numberOf d = some u) :
    |u| ≤ f.level c ∨ f.level (c + 1) ≤ |u| := by
  obtain ⟨-, -, rfl⟩ := (Fmt.numberOf_eq sound).1 h
  rw [abs_signed, abs_of_nonneg (f.level_nonneg _)]
  rcases Nat.lt_or_ge c (d % 2 ^ (f.e + f.m)) with l | l
  · exact .inr (f.strictMono_level.monotone l)
  · exact .inl (f.strictMono_level.monotone l)

theorem Fmt.signBit_even {f : Fmt} (sound : f.Sound) (neg : Bool) : f.signBit neg % 2 = 0 := by
  obtain ⟨n, hn⟩ := Nat.exists_eq_succ_of_ne_zero sound.frac_pos.ne'
  cases neg
  · rfl
  · simp only [Fmt.signBit, if_true, hn, Nat.add_succ, pow_succ]
    omega

/-- The rounding of a nonzero value that is given by its sign and magnitude. -/
theorem Fmt.rounds {f : Fmt} (sound : f.Sound) {mode : RoundMode} {neg st : Bool} {m : Nat} {e : Int} {x : ℚ} (mag : Magnitude m e st x)
    (pos : m ≠ 0) (wide : st = true → 2 ^ 60 ≤ m) (x0 : 0 < x) :
    let r := f.roundFin mode neg m e st
    (r.2 &&& flagOF = 0 → NearestAmong f.numberOf mode (signed neg x) r.1 ∧ (r.2 &&& flagNX = 0 ↔ f.numberOf r.1 = some (signed neg x))) ∧
    (r.2 &&& flagOF ≠ 0 → (∀ c v, f.numberOf c = some v → |v| ≤ x) ∧
      (r.1 = f.signBit neg + f.largest ∨ f.inf.map (f.signBit neg + ·) = some r.1)) ∧
    (f.numberOf r.1 = some 0 → r.1 = f.signBit neg) := by
  obtain ⟨c, up, below, above, choice, big, fits⟩ := Fmt.roundFin_spec (mode := mode) (neg := neg) sound mag pos wide
  simp only
  generalize f.roundFin mode neg m e st = r at big fits
  rcases Nat.lt_or_ge f.largest (if up then c + 1 else c) with l | l
  · obtain ⟨flags, result⟩ := big l
    have raised : r.2 &&& flagOF ≠ 0 := by rw [flags]; decide
    refine ⟨fun no => absurd no raised, fun _ => ⟨fun d v hv => ?_, result⟩, fun zero => ?_⟩
    · obtain ⟨-, le, rfl⟩ := (Fmt.numberOf_eq sound).1 hv
      rw [abs_signed, abs_of_nonneg (f.level_nonneg _)]
      refine (f.strictMono_level.monotone ?_).trans below
      split at l <;> omega
    · rcases result with h | h
      · rw [h, Fmt.numberOf_signBit sound neg (le_refl _), Option.some.injEq, signed_eq_zero] at zero
        exact absurd zero (f.level_zero ▸ f.strictMono_level sound.largest_pos).ne'
      · obtain ⟨i, hi, hr⟩ := Option.map_eq_some_iff.1 h
        obtain ⟨gt, lt⟩ := sound.inf_gt i hi
        have mod : r.1 % 2 ^ (f.e + f.m) = i := by
          rw [← hr]
          cases neg <;> simp [Fmt.signBit, Nat.mod_eq_of_lt lt]
        have := ((Fmt.numberOf_eq sound).1 zero).2.1
        omega
  · obtain ⟨code, noOf, nx, -⟩ := fits l
    have value := Fmt.numberOf_signBit sound neg l
    rw [← code] at value
    have level : (if up then f.level (c + 1) else f.level c) = f.level (if up then c + 1 else c) := by split <;> rfl
    have nearest : NearestAmong f.numberOf mode (signed neg x) r.1 := by
      refine nearest_of_between x0 (f.level_nonneg c) below above (by rw [level]; exact value) (fun d u h => Fmt.numberOf_gap sound c h) choice ?_
      have even := Fmt.signBit_even sound neg
      rw [code]
      cases up <;> simp <;> omega
    refine ⟨fun _ => ⟨nearest, nx.trans ?_⟩, fun h => absurd noOf h, fun zero => ?_⟩
    · rw [value, Option.some.injEq]
      have inj : signed neg (f.level (if up then c + 1 else c)) = signed neg x ↔ f.level (if up then c + 1 else c) = x := by
        cases neg <;> simp [signed]
      rw [inj]
      cases up with
      | false => rfl
      | true =>
        refine iff_of_false (fun h => ?_) above.ne'
        exact takesUpper_ne (choice.1 rfl) above h
    · rw [value, Option.some.injEq, signed_eq_zero, ← f.level_zero] at zero
      rw [code, f.strictMono_level.injective zero, Nat.add_zero]

end Sys2Proof.Machine
end

section
/-! SUPPORT. Rounding to the `.q4` codes (07 R137, R144; 19 R403), and O12. -/

-- One theorem at a time: many at once ask for more threads than the checker has memory for.
set_option Elab.async false

namespace Sys2Proof.Machine

/-! ### The codes in eighths -/

/-- Sign and magnitude of a `.q4` code, in eighths of the scale. -/
def q4Eighths (ty c : Nat) : Bool × Nat :=
  if ty = 0 then (decide (8 ≤ c), 8 * (if 8 ≤ c then 16 - c else c)) else (bit c 3, (q4Levels ty false).1.getD (c % 8) 0)

/-- The index of the largest magnitude of a sign. -/
def q4Top (ty : Nat) (neg : Bool) : Nat := (q4Levels ty neg).1.length - 1

/-- The magnitudes of a sign, and the one that would follow. -/
def q4Grid (ty : Nat) (neg : Bool) (i : Nat) : Nat := ((q4Levels ty neg).1 ++ [(q4Levels ty neg).2]).getD i 0

/-- The unit of the eighths. -/
def q4Unit (scale : Nat) : ℚ := 2 ^ (((scale % 64 : Nat) : Int) - 32 - 3)

theorem q4NumberOf_eq {scale c : Nat} {u : ℚ} : q4NumberOf scale c = some u ↔
    c < 16 ∧ u = signed (q4Eighths (scale / 64 % 4) c).1 ((q4Eighths (scale / 64 % 4) c).2 * q4Unit scale) := by
  unfold q4NumberOf
  by_cases high : 16 ≤ c
  · simp [high]
  have low := not_le.1 high
  have value : (q4Num scale c).rat = signed (q4Eighths (scale / 64 % 4) c).1 ((q4Eighths (scale / 64 % 4) c).2 * q4Unit scale) := by
    unfold q4Num q4Eighths q4Unit
    simp only
    split
    · have unit : (2 : ℚ) ^ (((scale % 64 : Nat) : Int) - 32) = 8 * 2 ^ (((scale % 64 : Nat) : Int) - 32 - 3) := by
        rw [sub_eq_add_neg _ (3 : Int), zpow_add₀ two_ne_zero]
        norm_num
        ring
      simp only [Num.rat, dyadic_eq_signed, Nat.mod_eq_of_lt low, unit]
      split
      · next neg =>
        have sign : (c : Int) % 16 - 16 < 0 := by omega
        have mag : ((c : Int) % 16 - 16).natAbs = 16 - c := by omega
        rw [mag, decide_eq_true sign, decide_eq_true neg]
        congr 1
        push_cast
        ring
      · next pos =>
        have sign : ¬ (c : Int) % 16 < 0 := by omega
        have mag : ((c : Int) % 16).natAbs = c := by omega
        rw [mag, decide_eq_false sign, decide_eq_false pos]
        congr 1
        push_cast
        ring
    · simp only [Num.rat, dyadic_eq_signed]
  rw [if_neg high, value, Option.some.injEq]
  exact ⟨fun h => ⟨low, h.symm⟩, fun h => h.2.symm⟩

/-- What the tables of `.q4` codes say, of every type, sign and index. -/
theorem q4_tables : ∀ ty < 4, ∀ neg : Bool,
    (∀ j, j ≤ q4Top ty neg → q4Code ty neg j < 16 ∧ q4Code ty neg j % 2 = j % 2 ∧ (q4Eighths ty (q4Code ty neg j)).2 = q4Grid ty neg j ∧
      ((q4Eighths ty (q4Code ty neg j)).1 = neg ∨ q4Grid ty neg j = 0)) ∧
    (∀ i, i ≤ q4Top ty neg → q4Grid ty neg i < q4Grid ty neg (i + 1)) ∧
    (∀ c < 16, (∀ i, i ≤ q4Top ty neg → (q4Eighths ty c).2 ≤ q4Grid ty neg i ∨ q4Grid ty neg (i + 1) ≤ (q4Eighths ty c).2) ∧
      ((q4Eighths ty c).1 = neg → (q4Eighths ty c).2 ≤ q4Grid ty neg (q4Top ty neg))) ∧
    q4Grid ty neg 0 = 0 ∧ (∀ i, i ≤ q4Top ty neg → q4Grid ty neg i = (q4Levels ty neg).1.getD i 0) ∧
    q4Grid ty neg (q4Top ty neg + 1) = (q4Levels ty neg).2 := by
  decide +kernel

/-! ### Levels and a magnitude -/

/-- A magnitude in eighths. -/
def q4Size (m : Nat) (e : Int) : ℚ := m * 2 ^ e

theorem q4_scaled (m : Nat) (e : Int) : ((m * 2 ^ e.toNat : Nat) : ℚ) = q4Size m e * (2 ^ (-e).toNat : Nat) := by
  unfold q4Size
  rcases le_total 0 e with h | h
  · have zero : (-e).toNat = 0 := by omega
    rw [zero]
    push_cast
    rw [← zpow_natCast, Int.toNat_of_nonneg h]
    ring
  · have zero : e.toNat = 0 := by omega
    rw [zero]
    push_cast
    rw [mul_assoc, ← zpow_natCast, ← zpow_add₀ two_ne_zero]
    have : e + ((-e).toNat : Int) = 0 := by omega
    rw [this]
    simp

theorem q4_lt (a m : Nat) (e : Int) : m * 2 ^ e.toNat < a * 2 ^ (-e).toNat ↔ q4Size m e < a := by
  rw [← Nat.cast_lt (α := ℚ), q4_scaled, Nat.cast_mul]
  exact mul_lt_mul_iff_left₀ (by positivity)

theorem q4_eq (a m : Nat) (e : Int) : a * 2 ^ (-e).toNat = m * 2 ^ e.toNat ↔ (a : ℚ) = q4Size m e := by
  rw [← Nat.cast_inj (R := ℚ), q4_scaled m e, Nat.cast_mul]
  exact mul_left_inj' (show ((2 ^ (-e).toNat : Nat) : ℚ) ≠ 0 by positivity)

/-- The search for a level counts the first levels that are at or below a magnitude. -/
theorem q4Below_eq (m : Nat) (e : Int) (ls : List Nat) (n : Nat) : ∃ t ≤ ls.length, q4Below m e ls n = n + t ∧
    (∀ j < t, ((ls.getD j 0 : Nat) : ℚ) ≤ q4Size m e) ∧ (t < ls.length → q4Size m e < (ls.getD t 0 : Nat)) := by
  induction ls generalizing n with
  | nil => exact ⟨0, le_refl _, rfl, by simp, by simp⟩
  | cons a r ih =>
    unfold q4Below
    by_cases h : q4Size m e < a
    · exact ⟨0, Nat.zero_le _, if_pos ((q4_lt a m e).2 h), by simp, fun _ => h⟩
    · obtain ⟨t, le, eq, low, next⟩ := ih (n + 1)
      refine ⟨t + 1, Nat.succ_le_succ le, ?_, fun j hj => ?_, fun lt => next (Nat.lt_of_succ_lt_succ lt)⟩
      · rw [if_neg fun l => h ((q4_lt a m e).1 l), eq]
        omega
      · cases j with
        | zero => exact not_lt.1 h
        | succ j => exact low j (Nat.lt_of_succ_lt_succ hj)

/-- The level found, and the next where there is one. -/
theorem q4Below_spec {m : Nat} {e : Int} {ls : List Nat} (first : ls.getD 0 0 = 0) (some : ls ≠ []) : ∃ i < ls.length, q4Below m e ls 0 - 1 = i ∧
    ((ls.getD i 0 : Nat) : ℚ) ≤ q4Size m e ∧ (i + 1 < ls.length → q4Size m e < (ls.getD (i + 1) 0 : Nat)) := by
  obtain ⟨t, le, eq, low, next⟩ := q4Below_eq m e ls 0
  have pos := List.length_pos_of_ne_nil some
  have t0 : t ≠ 0 := by
    rintro rfl
    have := next pos
    rw [first, Nat.cast_zero] at this
    exact absurd (show (0 : ℚ) ≤ q4Size m e by unfold q4Size; positivity) (not_le.2 this)
  refine ⟨t - 1, by omega, by omega, low _ (by omega), fun lt => ?_⟩
  have := next (by omega)
  rwa [show t - 1 + 1 = t by omega]

/-- The choice between two levels is the mode's. -/
theorem q4Up_iff {mode : RoundMode} {neg : Bool} {i a b m : Nat} {e : Int} (between : (a : ℚ) ≠ q4Size m e) :
    q4Up mode neg i a b m e = true ↔ takesUpper mode neg (decide (i % 2 = 1)) a b (q4Size m e) := by
  have twice : ((2 * m * 2 ^ e.toNat : Nat) : ℚ) = 2 * q4Size m e * (2 ^ (-e).toNat : Nat) := by
    rw [mul_assoc 2 m, Nat.cast_mul 2, q4_scaled]
    push_cast
    ring
  have mid : (((a + b) * 2 ^ (-e).toNat : Nat) : ℚ) = (a + b) * (2 ^ (-e).toNat : Nat) := by push_cast; ring
  have pos : (0 : ℚ) < (2 ^ (-e).toNat : Nat) := by positivity
  have lt : (a + b) * 2 ^ (-e).toNat < 2 * m * 2 ^ e.toNat ↔ (a + b : ℚ) < 2 * q4Size m e := by
    rw [← Nat.cast_lt (α := ℚ), twice, mid]
    exact mul_lt_mul_iff_left₀ pos
  have eq : 2 * m * 2 ^ e.toNat = (a + b) * 2 ^ (-e).toNat ↔ (a + b : ℚ) = 2 * q4Size m e := by
    rw [← Nat.cast_inj (R := ℚ), twice, mid, mul_left_inj' pos.ne']
    exact eq_comm
  have le : (a + b) * 2 ^ (-e).toNat ≤ 2 * m * 2 ^ e.toNat ↔ (a + b : ℚ) ≤ 2 * q4Size m e := by
    rw [← Nat.cast_le (α := ℚ), twice, mid]
    exact mul_le_mul_iff_left₀ pos
  unfold q4Up takesUpper
  cases mode
  · simp [lt, eq]
  · simp
  · simp [between]
  · simp [between]
  · simp [le]

/-! ### The rounding -/

theorem q4Unit_pos (scale : Nat) : 0 < q4Unit scale := by unfold q4Unit; positivity

theorem q4_type (scale : Nat) : scale / 64 % 4 < 4 := Nat.mod_lt _ (by decide)

theorem q4Code_value (scale : Nat) (neg : Bool) {j : Nat} (h : j ≤ q4Top (scale / 64 % 4) neg) :
    q4NumberOf scale (q4Code (scale / 64 % 4) neg j) = some (signed neg (q4Grid (scale / 64 % 4) neg j * q4Unit scale)) := by
  obtain ⟨lt, -, mag, sign⟩ := (q4_tables _ (q4_type scale) neg).1 j h
  refine q4NumberOf_eq.2 ⟨lt, ?_⟩
  rw [mag]
  rcases sign with sign | zero
  · rw [sign]
  · rw [zero]
    simp [signed]

theorem q4_gap (scale : Nat) (neg : Bool) {i : Nat} (h : i ≤ q4Top (scale / 64 % 4) neg) {c : Nat} {u : ℚ} (hu : q4NumberOf scale c = some u) :
    |u| ≤ q4Grid (scale / 64 % 4) neg i * q4Unit scale ∨ q4Grid (scale / 64 % 4) neg (i + 1) * q4Unit scale ≤ |u| := by
  have unit := q4Unit_pos scale
  obtain ⟨lt, rfl⟩ := q4NumberOf_eq.1 hu
  rw [abs_signed, abs_of_nonneg (by positivity)]
  exact (((q4_tables _ (q4_type scale) neg).2.2.1 c lt).1 i h).imp (fun l => mul_le_mul_of_nonneg_right (Nat.cast_le.2 l) unit.le)
    fun l => mul_le_mul_of_nonneg_right (Nat.cast_le.2 l) unit.le

/-- The largest magnitude of a sign is beyond every number in that direction. -/
theorem q4_extreme (scale : Nat) (neg : Bool) : ∃ v, q4NumberOf scale (q4Code (scale / 64 % 4) neg (q4Top (scale / 64 % 4) neg)) = some v ∧
    ∀ c u, q4NumberOf scale c = some u → if neg then v ≤ u else u ≤ v := by
  have unit := q4Unit_pos scale
  refine ⟨_, q4Code_value scale neg (le_refl _), fun c u hu => ?_⟩
  obtain ⟨lt, rfl⟩ := q4NumberOf_eq.1 hu
  have bound := ((q4_tables _ (q4_type scale) neg).2.2.1 c lt).2
  have most : (q4Eighths (scale / 64 % 4) c).1 = neg → (q4Eighths (scale / 64 % 4) c).2 * q4Unit scale ≤
      q4Grid (scale / 64 % 4) neg (q4Top (scale / 64 % 4) neg) * q4Unit scale :=
    fun h => mul_le_mul_of_nonneg_right (Nat.cast_le.2 (bound h)) unit.le
  have mag : (0 : ℚ) ≤ (q4Eighths (scale / 64 % 4) c).2 * q4Unit scale := by positivity
  have far : (0 : ℚ) ≤ q4Grid (scale / 64 % 4) neg (q4Top (scale / 64 % 4) neg) * q4Unit scale := by positivity
  cases neg with
  | false =>
    cases sign : (q4Eighths (scale / 64 % 4) c).1 with
    | false => simpa [signed] using most sign
    | true =>
      simp only [signed, Bool.false_eq_true, if_false, if_true]
      linarith
  | true =>
    cases sign : (q4Eighths (scale / 64 % 4) c).1 with
    | false =>
      simp only [signed, Bool.false_eq_true, if_false, if_true]
      linarith
    | true => simpa [signed] using most sign

theorem takesUpper_scale {mode : RoundMode} {neg odd : Bool} {lo hi x w : ℚ} (pos : 0 < w) :
    takesUpper mode neg odd (lo * w) (hi * w) (x * w) ↔ takesUpper mode neg odd lo hi x := by
  have sum : lo * w + hi * w = (lo + hi) * w := by ring
  have twice : 2 * (x * w) = 2 * x * w := by ring
  cases mode <;> simp only [takesUpper, sum, twice, mul_lt_mul_iff_left₀ pos, mul_le_mul_iff_left₀ pos, mul_left_inj' pos.ne', ne_eq]

/-- A `.q4` code at a level next to a nonzero magnitude is the nearest in the mode's sense. -/
theorem q4_nearest {mode : RoundMode} {scale : Nat} {neg up : Bool} {i c : Nat} {y : ℚ} (le : i ≤ q4Top (scale / 64 % 4) neg) (y0 : 0 < y)
    (below : (q4Grid (scale / 64 % 4) neg i : ℚ) ≤ y) (above : y < q4Grid (scale / 64 % 4) neg (i + 1))
    (code : c = q4Code (scale / 64 % 4) neg (if up then i + 1 else i)) (fits : (if up then i + 1 else i) ≤ q4Top (scale / 64 % 4) neg)
    (choice : up = true ↔ takesUpper mode neg (decide (i % 2 = 1)) (q4Grid (scale / 64 % 4) neg i) (q4Grid (scale / 64 % 4) neg (i + 1)) y) :
    NearestAmong (q4NumberOf scale) mode (signed neg (y * q4Unit scale)) c ∧
      (q4NumberOf scale c = some (signed neg (y * q4Unit scale)) ↔ (q4Grid (scale / 64 % 4) neg i : ℚ) = y) := by
  have unit := q4Unit_pos scale
  have value := q4Code_value scale neg fits
  have odd := ((q4_tables _ (q4_type scale) neg).1 _ fits).2.1
  rw [← code] at value odd
  have pick : (if up then (q4Grid (scale / 64 % 4) neg (i + 1) : ℚ) * q4Unit scale else q4Grid (scale / 64 % 4) neg i * q4Unit scale) =
      q4Grid (scale / 64 % 4) neg (if up then i + 1 else i) * q4Unit scale := by split <;> rfl
  refine ⟨nearest_of_between (up := up) (odd := decide (i % 2 = 1)) (mul_pos y0 unit) (by positivity)
    (mul_le_mul_of_nonneg_right below unit.le) (mul_lt_mul_of_pos_right above unit) (by rw [pick]; exact value)
    (fun d u h => q4_gap scale neg le h) (choice.trans (takesUpper_scale unit).symm) ?_, ?_⟩
  · rw [odd]
    cases up
    · simp
    · simp; omega
  · rw [value, Option.some.injEq]
    have inj : signed neg (q4Grid (scale / 64 % 4) neg (if up then i + 1 else i) * q4Unit scale) = signed neg (y * q4Unit scale) ↔
        (q4Grid (scale / 64 % 4) neg (if up then i + 1 else i) : ℚ) = y := by
      cases neg <;> simp [signed, unit.ne']
    rw [inj]
    cases up with
    | false => rfl
    | true => exact iff_of_false above.ne' fun h => takesUpper_ne (choice.1 rfl) above h

theorem q4_unit_size (scale m : Nat) (e : Int) : (m : ℚ) * 2 ^ e = q4Size m (e + 3 - ((scale % 64 : Nat) - 32 : Int)) * q4Unit scale := by
  unfold q4Size q4Unit
  rw [mul_assoc, ← zpow_add₀ two_ne_zero]
  congr 2
  omega

theorem q4_flags : flagNX &&& flagOF = 0 ∧ (flagOF ||| flagNX) &&& flagOF ≠ 0 ∧ flagNX ≠ 0 := by decide

theorem q4Levels_ne_nil (ty : Nat) (neg : Bool) : (q4Levels ty neg).1 ≠ [] := by
  unfold q4Levels
  split
  · split <;> simp
  all_goals simp

theorem q4Code_sign (ty : Nat) (neg up : Bool) (i : Nat) :
    q4Code ty (neg && (ty ≠ 0 || up || i ≠ 0)) (if up then i + 1 else i) = q4Code ty neg (if up then i + 1 else i) := by
  by_cases t : ty = 0
  · subst t
    cases up
    · by_cases z : i = 0
      · subst z; cases neg <;> rfl
      · simp [z]
    · simp
  · simp [t]

/-- A nonzero magnitude rounded to the levels of its sign: the level next to it that the mode takes, or saturation. -/
theorem q4Round_fin (mode : RoundMode) (scale : Nat) (neg : Bool) {m : Nat} (m0 : m ≠ 0) (e : Int) :
    let r := q4Round mode scale (.fin neg m e)
    (r.2 &&& flagOF = 0 ∧ NearestAmong (q4NumberOf scale) mode (signed neg (m * 2 ^ e)) r.1 ∧
      (r.2 = 0 ↔ q4NumberOf scale r.1 = some (signed neg (m * 2 ^ e)))) ∨
    (r.2 &&& flagOF ≠ 0 ∧ r.1 = q4Code (scale / 64 % 4) neg (q4Top (scale / 64 % 4) neg)) := by
  obtain ⟨nxOf, ofOf, nx⟩ := q4_flags
  obtain ⟨-, rises, -, zero, grid, beyond⟩ := q4_tables _ (q4_type scale) neg
  rw [q4_unit_size scale]
  set ty := scale / 64 % 4
  set g := e + 3 - ((scale % 64 : Nat) - 32 : Int) with hg
  set y := q4Size m g with hy
  have y0 : 0 < y := by
    have : (0 : ℚ) < m := Nat.cast_pos.2 (Nat.pos_of_ne_zero m0)
    rw [hy]; unfold q4Size; positivity
  obtain ⟨i, lt, found, below, next⟩ := q4Below_spec (m := m) (e := g) ((grid 0 (Nat.zero_le _)).symm.trans zero) (q4Levels_ne_nil ty neg)
  have le : i ≤ q4Top ty neg := Nat.le_sub_one_of_lt lt
  have run : q4Round mode scale (.fin neg m e) =
      if (q4Levels ty neg).1.getD i 0 * 2 ^ (-g).toNat = m * 2 ^ g.toNat then (q4Code ty neg i, 0)
      else if i < q4Top ty neg then
        (q4Code ty (neg && (ty ≠ 0 || q4Up mode neg i ((q4Levels ty neg).1.getD i 0) ((q4Levels ty neg).1.getD (i + 1) 0) m g || i ≠ 0))
          (if q4Up mode neg i ((q4Levels ty neg).1.getD i 0) ((q4Levels ty neg).1.getD (i + 1) 0) m g then i + 1 else i), flagNX)
      else if decide ((q4Levels ty neg).2 * 2 ^ (-g).toNat ≤ m * 2 ^ g.toNat) ||
          q4Up mode neg i ((q4Levels ty neg).1.getD i 0) (q4Levels ty neg).2 m g then (q4Code ty neg (q4Top ty neg), flagOF ||| flagNX)
      else (q4Code ty neg (q4Top ty neg), flagNX) := by
    rw [← found]
    exact if_neg m0
  rw [← grid i le] at run below
  have level : q4Grid ty neg i * 2 ^ (-g).toNat = m * 2 ^ g.toNat ↔ (q4Grid ty neg i : ℚ) = y := q4_eq ..
  simp only
  by_cases whole : (q4Grid ty neg i : ℚ) = y
  · rw [run, if_pos (level.2 whole)]
    obtain ⟨near, same⟩ := q4_nearest (mode := mode) (up := false) (c := q4Code ty neg i) le y0 below (whole ▸ Nat.cast_lt.2 (rises i le)) rfl le
      (iff_of_false (by simp) fun h => takesUpper_ne h (whole ▸ Nat.cast_lt.2 (rises i le)) whole)
    exact .inl ⟨BitVec.zero_and, near, iff_of_true rfl (same.2 whole)⟩
  rw [if_neg fun h => whole (level.1 h)] at run
  by_cases inner : i < q4Top ty neg
  · rw [if_pos inner, q4Code_sign, ← grid (i + 1) inner] at run
    have above : y < q4Grid ty neg (i + 1) := by
      have := next (show i + 1 < _ by unfold q4Top at inner; omega)
      rwa [← grid (i + 1) inner] at this
    obtain ⟨near, same⟩ := q4_nearest (mode := mode) (c := (q4Round mode scale (.fin neg m e)).1)
      (up := q4Up mode neg i (q4Grid ty neg i) (q4Grid ty neg (i + 1)) m g) le y0 below above (by rw [run]) (show _ ≤ q4Top ty neg by split <;> omega) (q4Up_iff whole)
    refine .inl ⟨by rw [run]; exact nxOf, near, iff_of_false (by rw [run]; exact nx) fun h => whole (same.1 h)⟩
  · obtain rfl : i = q4Top ty neg := by omega
    rw [if_neg inner, ← beyond] at run
    by_cases far : (decide (q4Grid ty neg (q4Top ty neg + 1) * 2 ^ (-g).toNat ≤ m * 2 ^ g.toNat) ||
        q4Up mode neg (q4Top ty neg) (q4Grid ty neg (q4Top ty neg)) (q4Grid ty neg (q4Top ty neg + 1)) m g) = true
    · rw [run, if_pos far]
      exact .inr ⟨ofOf, rfl⟩
    · rw [if_neg far] at run
      rw [Bool.or_eq_true, not_or, decide_eq_true_eq, not_le, q4_lt, Bool.not_eq_true] at far
      obtain ⟨above, stays⟩ := far
      obtain ⟨near, same⟩ := q4_nearest (mode := mode) (up := false) (c := q4Code ty neg (q4Top ty neg)) le y0 below above rfl le
        (stays ▸ q4Up_iff whole)
      rw [run]
      exact .inl ⟨nxOf, near, iff_of_false nx fun h => whole (same.1 h)⟩

theorem nearest_zero {value : Nat → Option ℚ} {c : Nat} (h : value c = some 0) (mode : RoundMode) : NearestAmong value mode 0 c := by
  refine ⟨0, h, fun d u _ => ?_⟩
  cases mode with
  | rne => exact ⟨by simp, fun eq ne => absurd (by simpa using eq.symm) ne⟩
  | rna => exact ⟨by simp, fun eq => by simpa using eq.ge⟩
  | rz => exact ⟨le_refl _, by simp, fun le _ => le⟩
  | ru => exact ⟨le_refl _, id⟩
  | rd => exact ⟨le_refl _, id⟩

/-- The `.q4` rounding of any value. -/
theorem q4Round_spec (mode : RoundMode) (scale : Nat) (x : Num) : Q4Of mode scale x (q4Round mode scale x) := by
  cases x with
  | nan sig => simp [Q4Of, Num.isNan, q4Round]
  | inf neg =>
    obtain ⟨v, hv, far⟩ := q4_extreme scale neg
    exact ⟨by simp [Num.isZero], fun _ => rfl, by simp [Num.isInf], fun _ => ⟨v, hv, far⟩⟩
  | fin neg m e =>
    by_cases m0 : m = 0
    · subst m0
      have run : q4Round mode scale (.fin neg 0 e) = (q4Code (scale / 64 % 4) (neg && scale / 64 % 4 ≠ 0) 0, 0) := by simp [q4Round]
      have code : q4Code (scale / 64 % 4) (neg && scale / 64 % 4 ≠ 0) 0 = if scale / 64 % 4 = 0 then 0 else if neg then 8 else 0 := by
        by_cases t : scale / 64 % 4 = 0
        · simp [q4Code, t]
        · simp [q4Code, t]
      have value := q4Code_value scale (neg && scale / 64 % 4 ≠ 0) (Nat.zero_le _)
      have zero := (q4_tables _ (q4_type scale) (neg && scale / 64 % 4 ≠ 0)).2.2.2.1
      rw [zero, show signed (neg && scale / 64 % 4 ≠ 0) ((0 : Nat) * q4Unit scale) = 0 by simp [signed]] at value
      rw [run]
      have rat : (Num.fin neg 0 e).rat = 0 := by simp [Num.rat, dyadic]
      refine ⟨fun _ => by rw [code]; rfl, by simp [Num.isInf], fun _ _ => ?_, fun h => absurd (h.resolve_left (by simp [Num.isInf])) (by simp)⟩
      rw [rat]
      exact ⟨nearest_zero value mode, iff_of_true rfl value⟩
    · rcases q4Round_fin mode scale neg m0 e with ⟨noOf, near, same⟩ | ⟨big, code⟩
      · refine ⟨fun h => absurd h (by simp [Num.isZero, m0]), by simp [Num.isInf], fun _ _ => ?_, fun h => absurd noOf (h.resolve_left (by simp [Num.isInf]))⟩
        rw [Num.rat, dyadic_eq_signed]
        exact ⟨near, same⟩
      · obtain ⟨v, hv, far⟩ := q4_extreme scale neg
        refine ⟨fun h => absurd h (by simp [Num.isZero, m0]), by simp [Num.isInf], fun _ h => absurd h big, fun _ => ⟨v, by rw [code]; exact hv, far⟩⟩


/-! ### The obligation -/

/-- Settles O12: between two neighbouring codes the rounding takes the one that the mode says, of every format and of `.q4`. -/
theorem rounding : Obligations.Rounding := by
  unfold Obligations.Rounding
  refine ⟨fun f hf mode neg m e st x mag x0 sign => ?_, q4Round_spec⟩
  have pos : 0 < |x| := abs_pos.2 x0
  have value : signed neg |x| = x := by
    subst sign
    by_cases neg : x < 0
    · simp [signed, neg, abs_of_neg neg]
    · simp [signed, neg, abs_of_nonneg (not_lt.1 neg)]
  have within : Magnitude m e st |x| := by
    unfold Magnitude
    cases st with
    | false => simpa [dyadic] using mag
    | true => simpa [dyadic] using mag.2
  have some : m ≠ 0 := by
    rintro rfl
    cases st with
    | false => exact x0 (by simpa [Magnitude] using within)
    | true => exact absurd mag.1 (by decide)
  have spec := Fmt.rounds (mode := mode) (neg := neg) (Fmt.sound_of_mem hf) within some (fun h => by subst h; exact mag.1) pos
  rw [value] at spec
  exact spec

end Sys2Proof.Machine
end

section
/-! SUPPORT. Exact sums and products, rounded once (07 R140, R141; 19 R409; for O13 and O16). -/

-- One theorem at a time: many at once ask for more threads than the checker has memory for.
set_option Elab.async false

namespace Sys2Proof.Machine

/-! ### Codes of what is no number -/

/-- A format has codes for what a value of it can be. -/
def Num.Fits (f : Fmt) (x : Num) : Prop :=
  (x.isNan = true → f.nan.isSome = true) ∧ (x.isInf = true → f.inf.isSome = true ∧ f.nan.isSome = true)

theorem Num.fits_of_codes {f : Fmt} (nan : f.nan.isSome = true) (inf : f.inf.isSome = true) (x : Num) : x.Fits f :=
  ⟨fun _ => nan, fun _ => ⟨inf, nan⟩⟩

theorem Fmt.read_inf_code {f : Fmt} {c : Nat} (h : (f.read c).isInf = true) : f.inf.isSome = true := by
  unfold Fmt.read at h
  simp only at h
  split at h
  · next i => rw [i]; rfl
  · split at h
    · cases h
    · split at h <;> cases h

theorem Fmt.read_nan_code {f : Fmt} {c : Nat} (h : (f.read c).isNan = true) : f.largest < 2 ^ (f.e + f.m) - 1 := by
  unfold Fmt.read at h
  simp only at h
  have := Nat.mod_lt c (Nat.two_pow_pos (f.e + f.m))
  split at h
  · cases h
  · split at h
    · omega
    · split at h <;> cases h

theorem Num.fits_read (ty : Ty) (c : Nat) : ((fmtOf ty).read c).Fits (fmtOf ty) := by
  have codes : ((fmtOf ty).largest < 2 ^ ((fmtOf ty).e + (fmtOf ty).m) - 1 → (fmtOf ty).nan.isSome = true) ∧
      ((fmtOf ty).inf.isSome = true → (fmtOf ty).nan.isSome = true) := by cases ty <;> decide
  exact ⟨fun h => codes.1 (Fmt.read_nan_code h), fun h => ⟨Fmt.read_inf_code h, codes.2 (Fmt.read_inf_code h)⟩⟩

theorem Fmt.put_nan {f : Fmt} (h : f.nan.isSome = true) (mode : RoundMode) : f.put mode .nan = (f.nanCode, 0) := by
  obtain ⟨n, hn⟩ := Option.isSome_iff_exists.1 h
  simp [Fmt.put, Fmt.nanCode, hn]

theorem Fmt.put_inf {f : Fmt} (h : f.inf.isSome = true) (mode : RoundMode) (neg : Bool) : f.put mode (.inf neg) = (f.infCode neg, 0) := by
  obtain ⟨n, hn⟩ := Option.isSome_iff_exists.1 h
  simp [Fmt.put, Fmt.infCode, hn]

theorem Fmt.put_zero (f : Fmt) (mode : RoundMode) (neg : Bool) (e : Int) : f.put mode (.val neg 0 e false) = (f.signBit neg, 0) := rfl

/-! ### Exact finite results -/

theorem dyadic_eq_zero {neg : Bool} {m : Nat} {e : Int} : dyadic neg m e = 0 ↔ m = 0 := by
  rw [dyadic_eq_signed, signed_eq_zero, mul_eq_zero, Nat.cast_eq_zero]
  exact or_iff_left (by positivity)

theorem dyadic_lt_zero {neg : Bool} {m : Nat} {e : Int} (h : m ≠ 0) : dyadic neg m e < 0 ↔ neg = true := by
  have pos : (0 : ℚ) < m * 2 ^ e := mul_pos (Nat.cast_pos.2 (Nat.pos_of_ne_zero h)) (by positivity)
  rw [dyadic_eq_signed]
  cases neg
  · simpa [signed] using pos.le
  · simpa [signed] using pos

/-- Putting a finite value rounds it exactly. -/
theorem roundsExact_put (f : Fmt) (mode : RoundMode) (neg : Bool) (m : Nat) (e : Int) {zero : Bool} (hz : m = 0 → zero = neg) :
    RoundsExact f mode (dyadic neg m e) zero (f.put mode (.val neg m e false)) := by
  unfold RoundsExact
  by_cases m0 : m = 0
  · subst m0
    rw [if_pos (dyadic_eq_zero.2 rfl), Fmt.put_zero, hz rfl]
  · rw [if_neg fun h => m0 (dyadic_eq_zero.1 h)]
    have sign : decide (dyadic neg m e < 0) = neg := by
      rw [Bool.eq_iff_iff, decide_eq_true_eq]
      exact dyadic_lt_zero m0
    rw [sign]
    exact ⟨m, e, rfl, rfl⟩

/-! ### Sums -/

/-- The sign of a sum that is zero. -/
def zeroSign (mode : RoundMode) (xs : List Num) : Bool :=
  if xs.all (fun x => x.isZero && x.sign) then true else if xs.all (fun x => x.isZero && !x.sign) then false else mode = .rd

/-- A number that is neither NaN nor infinity. -/
def Num.isFin (x : Num) : Bool := !x.isNan && !x.isInf

theorem Num.isFin_iff {x : Num} : x.isFin = true ↔ ∃ n m e, x = .fin n m e := by
  cases x <;> simp [Num.isFin, Num.isNan, Num.isInf]

/-- The least exponent of some values. -/
def leastExp (e : Int) (x : Num) : Int :=
  match x with
  | .fin _ _ ex => min e ex
  | _ => e

/-- A sum of mantissas at an exponent. -/
def addAt (e0 : Int) (s : Int) (x : Num) : Int :=
  match x with
  | .fin n m ex => s + signedAt n m ex e0
  | _ => s

theorem leastExp_le (xs : List Num) (e : Int) : xs.foldl leastExp e ≤ e ∧ ∀ n m g, Num.fin n m g ∈ xs → xs.foldl leastExp e ≤ g := by
  induction xs generalizing e with
  | nil => simp
  | cons x r ih =>
    obtain ⟨le, all⟩ := ih (leastExp e x)
    have step : leastExp e x ≤ e := by
      cases x with
      | fin n m g => exact min_le_left ..
      | _ => exact le_refl _
    refine ⟨le.trans step, fun n m g h => ?_⟩
    rcases List.mem_cons.1 h with h | h
    · subst h
      exact le.trans (min_le_right ..)
    · exact all n m g h

theorem addAt_sum {e0 : Int} (xs : List Num) (fin : ∀ x ∈ xs, x.isFin = true) (low : ∀ n m g, Num.fin n m g ∈ xs → e0 ≤ g) (s : Int) :
    ((xs.foldl (addAt e0) s : Int) : ℚ) * 2 ^ e0 = s * 2 ^ e0 + (xs.map Num.rat).sum := by
  induction xs generalizing s with
  | nil => simp
  | cons x r ih =>
    obtain ⟨n, m, g, rfl⟩ := Num.isFin_iff.1 (fin x List.mem_cons_self)
    rw [List.foldl_cons, ih (fun x h => fin x (List.mem_cons_of_mem _ h)) fun n m g h => low n m g (List.mem_cons_of_mem _ h)]
    simp only [addAt, List.map_cons, List.sum_cons, Num.rat, dyadic_eq_signedAt n m (low n m g List.mem_cons_self)]
    push_cast
    ring

/-- The sum of finite values, rounded, is their exact sum rounded once. -/
theorem sumNums_finite (mode : RoundMode) {xs : List Num} (fin : ∀ x ∈ xs, x.isFin = true) : ∃ r, sumNums mode xs = (r, false) ∧
    ∀ f : Fmt, RoundsExact f mode (xs.map Num.rat).sum (zeroSign mode xs) (f.put mode r) := by
  have noNan : xs.any Num.isNan = false := List.any_eq_false.2 fun x h => by
    obtain ⟨n, m, e, rfl⟩ := Num.isFin_iff.1 (fin x h)
    simp [Num.isNan]
  have noInf (b : Bool) : xs.contains (.inf b) = false := by
    rw [← Bool.not_eq_true, List.contains_iff_mem]
    intro h
    have := fin _ h
    simp [Num.isFin, Num.isInf] at this
  set e0 := xs.foldl leastExp 0 with he
  set t := xs.foldl (addAt e0) 0 with ht
  have sum : (t : ℚ) * 2 ^ e0 = (xs.map Num.rat).sum := by
    have := addAt_sum xs fin (leastExp_le xs 0).2 0
    simpa using this
  have run : sumNums mode xs = if t = 0 then (.val (zeroSign mode xs) 0 0 false, false) else (.val (decide (t < 0)) t.natAbs e0 false, false) := by
    unfold sumNums
    rw [noNan, noInf, noInf]
    rfl
  rw [run]
  by_cases t0 : t = 0
  · refine ⟨_, if_pos t0, fun f => ?_⟩
    rw [← sum, t0, Fmt.put_zero]
    exact (if_pos (by simp)).mpr rfl
  · refine ⟨_, if_neg t0, fun f => ?_⟩
    have value : dyadic (decide (t < 0)) t.natAbs e0 = (xs.map Num.rat).sum := by
      rw [← sum, dyadic_eq_signed, Nat.cast_natAbs]
      by_cases neg : t < 0
      · simp [signed, neg, abs_of_neg neg]
      · simp [signed, neg, abs_of_nonneg (not_lt.1 neg)]
    rw [← value]
    exact roundsExact_put f mode _ _ _ fun h => absurd (Int.natAbs_eq_zero.1 h) t0

/-! ### The operations of 19 Table 19.3 -/

/-- What is put of an operation's result, with its flags. -/
def putRes (f : Fmt) (mode : RoundMode) (srcs : List Num) (r : Res × Word) : Nat × Word :=
  ((f.put mode r.1).1, (f.put mode r.1).2 ||| r.2 ||| sigNV srcs)

theorem putAt_eq (ty : Ty) (mode : RoundMode) (srcs : List Num) (r : Res × Word) :
    putAt ty mode srcs r = (BitVec.ofNat 128 (putRes (fmtOf ty) mode srcs r).1, (putRes (fmtOf ty) mode srcs r).2) := rfl

theorem sigNV_of_not_nan {xs : List Num} (h : ∀ x ∈ xs, x.isNan = false) : sigNV xs = 0 := by
  have : xs.any Num.isSig = false := List.any_eq_false.2 fun x hx => by
    have := h x hx
    cases x <;> simp_all [Num.isSig, Num.isNan]
  simp [sigNV, this, flagIf]

theorem sigNV_cons (x : Num) (xs : List Num) : sigNV (x :: xs) = if x.isSig || xs.any Num.isSig then flagNV else 0 := rfl

/-- A NaN among the sources gives the canonical NaN, with NV where one is signalling. -/
theorem putRes_nan {f : Fmt} (nan : f.nan.isSome = true) (mode : RoundMode) (srcs : List Num) (w : Word) :
    putRes f mode srcs (.nan, w) = (f.nanCode, w ||| sigNV srcs) := by simp [putRes, Fmt.put_nan nan]

theorem putRes_inf {f : Fmt} (inf : f.inf.isSome = true) (mode : RoundMode) {srcs : List Num} (h : ∀ x ∈ srcs, x.isNan = false) (neg : Bool) :
    putRes f mode srcs (.inf neg, 0) = (f.infCode neg, 0) := by simp [putRes, Fmt.put_inf inf, sigNV_of_not_nan h]

theorem putRes_fin {f : Fmt} (mode : RoundMode) {srcs : List Num} (h : ∀ x ∈ srcs, x.isNan = false) (r : Res) :
    putRes f mode srcs (r, 0) = f.put mode r := by simp [putRes, sigNV_of_not_nan h]

theorem zeroSign_pair (mode : RoundMode) (x y : Num) :
    zeroSign mode [x, y] = if x.isZero && y.isZero && x.sign == y.sign then x.sign else decide (mode = .rd) := by
  simp only [zeroSign, List.all_cons, List.all_nil, Bool.and_true]
  generalize x.isZero = a, y.isZero = b, x.sign = c, y.sign = d, decide (mode = .rd) = e
  revert a b c d e
  decide

theorem sumNums_both (mode : RoundMode) {xs : List Num} (quiet : xs.any Num.isNan = false) (pos : Num.inf false ∈ xs) (neg : Num.inf true ∈ xs) :
    sumNums mode xs = (.nan, true) := by
  simp [sumNums, quiet, pos, neg]

theorem sumNums_inf (mode : RoundMode) {xs : List Num} {neg : Bool} (quiet : xs.any Num.isNan = false) (here : Num.inf neg ∈ xs)
    (other : Num.inf (!neg) ∉ xs) : sumNums mode xs = (.inf neg, false) := by
  cases neg
  · simp only [Bool.not_false] at other
    simp [sumNums, quiet, here, other]
  · simp only [Bool.not_true] at other
    simp [sumNums, quiet, here, other]

theorem sumNums_nan (mode : RoundMode) {xs : List Num} (nan : xs.any Num.isNan = true) :
    sumNums mode xs = (.nan, xs.contains (.inf true) && xs.contains (.inf false)) := if_pos nan

/-- Two values added (07 R140, R141). -/
theorem sumOf_putRes {f : Fmt} {x y : Num} (hx : x.Fits f) (hy : y.Fits f) (mode : RoundMode) :
    SumOf f mode x y (putRes f mode [x, y] (sumRes mode [x, y])) := by
  unfold SumOf
  by_cases nan : (x.isNan || y.isNan) = true
  · rw [if_pos nan]
    have code : f.nan.isSome = true := (Bool.or_eq_true_iff.1 nan).elim hx.1 hy.1
    have any : [x, y].any Num.isNan = true := by simpa using nan
    simp only [sumRes, sumNums_nan mode any, any]
    rw [putRes_nan code]
    simp [sigNV, flagIf]
  rw [if_neg nan]
  obtain ⟨nx, ny⟩ : x.isNan = false ∧ y.isNan = false := by simpa using nan
  have quiet : ∀ z ∈ [x, y], z.isNan = false := by simp [nx, ny]
  have any : [x, y].any Num.isNan = false := by simp [nx, ny]
  have infinite (neg : Bool) (code : f.inf.isSome = true) (here : Num.inf neg ∈ [x, y]) (other : Num.inf (!neg) ∉ [x, y]) :
      putRes f mode [x, y] (sumRes mode [x, y]) = (f.infCode neg, 0) := by
    simp only [sumRes, sumNums_inf mode any here other]
    exact putRes_inf code mode quiet neg
  cases x with
  | nan => cases nx
  | inf a =>
    obtain ⟨inf, code⟩ := hx.2 rfl
    cases y with
    | nan => cases ny
    | inf b =>
      by_cases same : a = b
      · subst same
        simp only [Num.isInf, Num.sign, bne_self_eq_false, Bool.and_false, Bool.false_eq_true, if_false, if_true]
        exact infinite a inf (by simp) (by cases a <;> simp)
      · obtain rfl : b = !a := (show ∀ a b : Bool, a ≠ b → b = !a by decide) a b same
        have both : sumNums mode [.inf a, .inf (!a)] = (.nan, true) := sumNums_both mode any (by cases a <;> simp) (by cases a <;> simp)
        have clash : (a != !a) = true := by cases a <;> rfl
        simp only [Num.isInf, Num.sign, clash, Bool.and_self, if_true, sumRes, both, any]
        rw [putRes_nan code, sigNV_of_not_nan quiet]
        rfl
    | fin n m e =>
      simp only [Num.isInf, Num.sign, Bool.and_false, Bool.false_and, Bool.false_eq_true, if_false, if_true]
      exact infinite a inf (by simp) (by simp)
  | fin n m e =>
    cases y with
    | nan => cases ny
    | inf b =>
      simp only [Num.isInf, Num.sign, Bool.false_and, Bool.false_eq_true, if_false, if_true]
      exact infinite b (hy.2 rfl).1 (by simp) (by simp)
    | fin n' m' e' =>
      obtain ⟨r, run, rounds⟩ := sumNums_finite mode (xs := [.fin n m e, .fin n' m' e']) (by simp [Num.isFin, Num.isNan, Num.isInf])
      simp only [sumRes, run, any, Num.isInf, Bool.false_and, Bool.false_eq_true, if_false]
      rw [← zeroSign_pair]
      refine (putRes_fin (f := f) mode quiet r).symm ▸ ?_
      simpa using rounds f

theorem mulNum_nan {x y : Num} (nan : (x.isNan || y.isNan) = true) : mulNum x y = (.nan false, false) := by
  cases x with
  | nan a => cases y <;> rfl
  | inf a => cases y with
    | nan b => rfl
    | _ => simp [Num.isNan] at nan
  | fin n m e => cases y with
    | nan b => rfl
    | _ => simp [Num.isNan] at nan

/-- Zero times infinity. -/
def zeroTimesInf (x y : Num) : Bool := (x.isInf && y.isZero) || (x.isZero && y.isInf)

/-- What a product is, without a NaN. -/
theorem mulNum_eq {x y : Num} (quiet : (x.isNan || y.isNan) = false) :
    (zeroTimesInf x y = true → mulNum x y = (.nan false, true)) ∧
    (zeroTimesInf x y = false → (x.isInf || y.isInf) = true → mulNum x y = (.inf (x.sign != y.sign), false)) ∧
    ((x.isInf || y.isInf) = false → ∃ m e, mulNum x y = (.fin (x.sign != y.sign) m e, false) ∧ dyadic (x.sign != y.sign) m e = x.rat * y.rat ∧
      (m = 0 ↔ x.isZero = true ∨ y.isZero = true)) := by
  cases x with
  | nan => simp [Num.isNan] at quiet
  | inf a =>
    cases y with
    | nan => simp [Num.isNan] at quiet
    | inf b => exact ⟨by simp [zeroTimesInf, Num.isZero], fun _ _ => rfl, by simp [Num.isInf]⟩
    | fin n m e =>
      refine ⟨fun h => if_pos (by simpa [zeroTimesInf, Num.isInf, Num.isZero] using h), fun h _ => if_neg ?_, by simp [Num.isInf]⟩
      simpa [zeroTimesInf, Num.isInf, Num.isZero] using h
  | fin n m e =>
    cases y with
    | nan => simp [Num.isNan] at quiet
    | inf b =>
      refine ⟨fun h => if_pos (by simpa [zeroTimesInf, Num.isInf, Num.isZero] using h), fun h _ => if_neg ?_, by simp [Num.isInf]⟩
      simpa [zeroTimesInf, Num.isInf, Num.isZero] using h
    | fin n' m' e' =>
      refine ⟨by simp [zeroTimesInf, Num.isInf], by simp [Num.isInf], fun _ => ⟨m * m', e + e', rfl, ?_, by simp [Num.isZero]⟩⟩
      have := dyadic_mul false n n' m m' e e'
      simp only [Bool.false_eq_true, if_false, one_mul, Bool.false_xor] at this
      exact this.symm

/-- Two values multiplied. -/
theorem productOf_putRes {f : Fmt} {x y : Num} (hx : x.Fits f) (hy : y.Fits f) (mode : RoundMode) :
    ProductOf f mode x y (putRes f mode [x, y] ((mulNum x y).1.res, flagIf (mulNum x y).2 flagNV)) := by
  unfold ProductOf
  by_cases nan : (x.isNan || y.isNan) = true
  · have code : f.nan.isSome = true := (Bool.or_eq_true_iff.1 nan).elim hx.1 hy.1
    rw [if_pos nan, mulNum_nan nan]
    refine (putRes_nan code ..).trans ?_
    simp [sigNV, flagIf]
  rw [if_neg nan]
  change if zeroTimesInf x y = true then _ else _
  rw [Bool.not_eq_true] at nan
  obtain ⟨bad, inf, fin⟩ := mulNum_eq nan
  obtain ⟨nx, ny⟩ : x.isNan = false ∧ y.isNan = false := by simpa using nan
  have quiet : ∀ z ∈ [x, y], z.isNan = false := by simp [nx, ny]
  have codes (h : (x.isInf || y.isInf) = true) : f.inf.isSome = true ∧ f.nan.isSome = true := (Bool.or_eq_true_iff.1 h).elim hx.2 hy.2
  cases z : zeroTimesInf x y with
  | true =>
    rw [if_pos rfl, bad z]
    have some : (x.isInf || y.isInf) = true := by
      unfold zeroTimesInf at z
      cases hx : x.isInf <;> cases hy : y.isInf <;> simp_all
    refine (putRes_nan (codes some).2 ..).trans ?_
    rw [sigNV_of_not_nan quiet]
    rfl
  | false =>
    rw [if_neg (by simp)]
    cases i : (x.isInf || y.isInf) with
    | true =>
      rw [if_pos rfl, inf z i]
      exact putRes_inf (codes i).1 mode quiet _
    | false =>
      obtain ⟨m, e, run, value, zero⟩ := fin i
      rw [if_neg (by simp), run, ← value]
      refine (putRes_fin (f := f) mode quiet _).symm ▸ ?_
      exact roundsExact_put f mode _ m e fun _ => rfl

/-- A product added to a value, rounded once. -/
theorem fusedOf_putRes {f : Fmt} {x y z : Num} (hx : x.Fits f) (hy : y.Fits f) (hz : z.Fits f) (mode : RoundMode) :
    FusedOf f mode x y z (putRes f mode [x, y, z] (fFma mode [x, y, z])) := by
  unfold FusedOf
  simp only
  change if (x.isNan || y.isNan || z.isNan || zeroTimesInf x y) = true then
    _ = (f.nanCode, if (zeroTimesInf x y || x.isSig || y.isSig || z.isSig) = true then flagNV else 0) else _
  have run : fFma mode [x, y, z] = ((sumRes mode [(mulNum x y).1, z]).1, (sumRes mode [(mulNum x y).1, z]).2 ||| flagIf (mulNum x y).2 flagNV) := rfl
  have infCodes (h : (x.isInf || y.isInf) = true) : f.inf.isSome = true ∧ f.nan.isSome = true := (Bool.or_eq_true_iff.1 h).elim hx.2 hy.2
  have badInf (h : zeroTimesInf x y = true) : (x.isInf || y.isInf) = true := by
    unfold zeroTimesInf at h
    cases hx : x.isInf <;> cases hy : y.isInf <;> simp_all
  by_cases nan : (x.isNan || y.isNan || z.isNan || zeroTimesInf x y) = true
  · rw [if_pos nan]
    have code : f.nan.isSome = true := by
      simp only [Bool.or_eq_true] at nan
      rcases nan with ((h | h) | h) | h
      · exact hx.1 h
      · exact hy.1 h
      · exact hz.1 h
      · exact (infCodes (badInf h)).2
    have product : (mulNum x y).2 = zeroTimesInf x y ∧ ((mulNum x y).1.isNan || z.isNan) = true := by
      by_cases q : (x.isNan || y.isNan) = true
      · rw [mulNum_nan q]
        refine ⟨?_, rfl⟩
        cases x <;> cases y <;> simp_all [zeroTimesInf, Num.isNan, Num.isInf, Num.isZero]
      · rw [Bool.not_eq_true] at q
        rw [q, Bool.false_or] at nan
        cases bad : zeroTimesInf x y with
        | true => rw [(mulNum_eq q).1 bad]; exact ⟨rfl, rfl⟩
        | false =>
          rw [bad, Bool.or_false] at nan
          refine ⟨?_, by rw [nan, Bool.or_true]⟩
          cases i : (x.isInf || y.isInf) with
          | true => rw [(mulNum_eq q).2.1 bad i]
          | false =>
            obtain ⟨m, e, eq, -⟩ := (mulNum_eq q).2.2 i
            rw [eq]
    have any : [(mulNum x y).1, z].any Num.isNan = true := by simpa using product.2
    have sum : sumRes mode [(mulNum x y).1, z] = (.nan, 0) := by
      simp only [sumRes, sumNums_nan mode any, any]
      simp [flagIf]
    rw [run, sum, product.1, putRes_nan code]
    congr 1
    simp only [sigNV, List.any_cons, List.any_nil, Bool.or_false]
    cases zeroTimesInf x y <;> cases x.isSig <;> cases y.isSig <;> cases z.isSig <;> rfl
  rw [if_neg nan]
  simp only [Bool.or_eq_true, not_or, Bool.not_eq_true] at nan
  obtain ⟨⟨⟨nx, ny⟩, nz⟩, bad⟩ := nan
  have q : (x.isNan || y.isNan) = false := by rw [nx, ny]; rfl
  obtain ⟨-, inf, fin⟩ := mulNum_eq q
  have quiet : ∀ w ∈ [x, y, z], w.isNan = false := by simp [nx, ny, nz]
  have product : (mulNum x y).2 = false ∧ (mulNum x y).1.isNan = false ∧ (mulNum x y).1.isInf = (x.isInf || y.isInf) ∧
      (mulNum x y).1.sign = (x.sign != y.sign) ∧ ((x.isInf || y.isInf) = false → (mulNum x y).1.rat = x.rat * y.rat ∧
        (mulNum x y).1.isZero = (x.isZero || y.isZero)) := by
    cases i : (x.isInf || y.isInf) with
    | true =>
      rw [inf bad i]
      exact ⟨rfl, rfl, rfl, rfl, fun h => absurd h (by simp)⟩
    | false =>
      obtain ⟨m, e, eq, value, zero⟩ := fin i
      rw [eq]
      refine ⟨rfl, rfl, rfl, rfl, fun _ => ⟨value, ?_⟩⟩
      rw [Bool.eq_iff_iff, Bool.or_eq_true]
      simpa [Num.isZero] using zero
  obtain ⟨p2, pn, pi, ps, pf⟩ := product
  have fits : (mulNum x y).1.Fits f := ⟨fun h => absurd h (by simp [pn]), fun h => infCodes (pi ▸ h)⟩
  have sum := sumOf_putRes fits hz mode
  have pair : ∀ w ∈ [(mulNum x y).1, z], w.isNan = false := by simp [pn, nz]
  have same : putRes f mode [x, y, z] (fFma mode [x, y, z]) = putRes f mode [(mulNum x y).1, z] (sumRes mode [(mulNum x y).1, z]) := by
    rw [run, p2]
    simp [putRes, flagIf, sigNV_of_not_nan quiet, sigNV_of_not_nan pair]
  rw [same]
  generalize putRes f mode [(mulNum x y).1, z] (sumRes mode [(mulNum x y).1, z]) = r at sum ⊢
  unfold SumOf at sum
  rw [pn, nz, pi, ps] at sum
  simp only [Bool.or_self, Bool.false_eq_true, if_false] at sum
  cases i : (x.isInf || y.isInf) with
  | true => simpa [i] using sum
  | false =>
    rw [(pf i).1, (pf i).2] at sum
    simpa [i] using sum

end Sys2Proof.Machine
end

section
/-! SUPPORT. The floating instructions that write at issue (19 R409, Table 19.3), and O13. -/

-- One theorem at a time: many at once ask for more threads than the checker has memory for.
set_option Elab.async false

namespace Sys2Proof.Machine

/-! ### Enabled exceptions -/

/-- An exception that is raised and enabled, by its number. -/
def trapsOn (mode : BitVec 19) (fl : Word) (n : Nat) : Bool := mode.getLsbD (8 + n) && fl.getLsbD n

theorem fpCause_eq (mode : BitVec 19) (fl : Word) : fpCause mode fl =
    if trapsOn mode fl 0 then some 6 else if trapsOn mode fl 1 then some 7 else if trapsOn mode fl 2 then some 8
    else if trapsOn mode fl 3 then some 9 else if trapsOn mode fl 4 then some 10 else none := by
  have on (n : Nat) (h : n < 5) : (fpte mode &&& fl.extractLsb' 0 5).getLsbD n = trapsOn mode fl n := by
    simp [fpte, trapsOn, h]
  unfold fpCause
  simp only [on 0 (by decide), on 1 (by decide), on 2 (by decide), on 3 (by decide), on 4 (by decide)]

theorem fpOut_none {mode : BitVec 19} {fl : Word} (x : Quad) (h : ∀ n, n < 5 → trapsOn mode fl n = false) :
    fpOut mode (x, fl) = .write x fl := by
  have none : fpCause mode fl = none := by
    rw [fpCause_eq, h 0 (by decide), h 1 (by decide), h 2 (by decide), h 3 (by decide), h 4 (by decide)]
    rfl
  unfold fpOut
  simp only [none]

theorem fpOut_parks {mode : BitVec 19} {fl : Word} (x : Quad) {n : Nat} (h5 : n < 5) (on : trapsOn mode fl n = true)
    (first : ∀ m, m < n → trapsOn mode fl m = false) : fpOut mode (x, fl) = .park (BitVec.ofNat 8 (6 + n)) 0 fl := by
  have cause : fpCause mode fl = some (BitVec.ofNat 8 (6 + n)) := by
    rw [fpCause_eq]
    match n, h5 with
    | 0, _ => simp [on]
    | 1, _ => simp [on, first 0]
    | 2, _ => simp [on, first 0, first 1]
    | 3, _ => simp [on, first 0, first 1, first 2]
    | 4, _ => simp [on, first 0, first 1, first 2, first 3]
  unfold fpOut
  simp only [cause]

/-! ### The instructions -/

section
variable {i : Instr} {s : State} {k : Who} {f : ExtArgs} (h : Ready i s k) (hc : i.form.commits = false)
include h hc

/-- A floating instruction computes what its operation puts. -/
theorem floatNow_computes {op : RoundMode → List Num → Res × Word} {srcs : ExtArgs → State → Who → Nat → List Num}
    (he : exec i s = .next (floatNow i f op srcs s)) {P : Nat → Nat × Word → Prop}
    (hp : ∀ l, P l (putRes (fmtOf f.ty) (k.mode l f.rm) (srcs f s k l) (op (k.mode l f.rm) (srcs f s k l)))) :
    ComputesFloat i s k f.d P :=
  ⟨fun l => putRes (fmtOf f.ty) (k.mode l f.rm) (srcs f s k l) (op (k.mode l f.rm) (srcs f s k l)),
    computes_of h hc he fun _ => rfl, fun l _ => hp l⟩

theorem fadd_computes (he : exec i s = .next (floatNow i f fAdd src2 s)) : ComputesFloat i s k f.d fun l =>
    SumOf (fmtOf f.ty) (k.mode l f.rm) (k.float s l f.lit f.ty f.a) (k.float s l f.lit f.ty f.b) :=
  floatNow_computes h hc he fun _ => sumOf_putRes (Num.fits_read ..) (Num.fits_read ..) _

theorem fsub_computes (he : exec i s = .next (floatNow i f fSub src2 s)) : ComputesFloat i s k f.d fun l =>
    SumOf (fmtOf f.ty) (k.mode l f.rm) (k.float s l f.lit f.ty f.a) (k.float s l f.lit f.ty f.b).neg := by
  refine floatNow_computes h hc he fun l => ?_
  have nan (x : Num) : x.neg.isNan = x.isNan ∧ x.neg.isInf = x.isInf ∧ x.neg.isSig = x.isSig := by cases x <;> exact ⟨rfl, rfl, rfl⟩
  have fits := Num.fits_read f.ty ((k.src s l f.lit f.ty f.b).toNat % 2 ^ f.ty.bits)
  have sum := sumOf_putRes (x := k.float s l f.lit f.ty f.a) (y := (k.float s l f.lit f.ty f.b).neg) (Num.fits_read ..)
    ⟨fun h => fits.1 ((nan _).1 ▸ h), fun h => fits.2 ((nan _).2.1 ▸ h)⟩ (k.mode l f.rm)
  have sig : sigNV [k.float s l f.lit f.ty f.a, (k.float s l f.lit f.ty f.b).neg] = sigNV (src2 f s k l) := by
    simp only [sigNV, List.any_cons, (nan _).2.2]
    rfl
  unfold putRes at sum ⊢
  rw [sig] at sum
  exact sum

theorem fmul_computes (he : exec i s = .next (floatNow i f fMul src2 s)) : ComputesFloat i s k f.d fun l =>
    ProductOf (fmtOf f.ty) (k.mode l f.rm) (k.float s l f.lit f.ty f.a) (k.float s l f.lit f.ty f.b) :=
  floatNow_computes h hc he fun _ => productOf_putRes (Num.fits_read ..) (Num.fits_read ..) _

theorem ffma_computes (he : exec i s = .next (floatNow i f fFma src3 s)) : ComputesFloat i s k f.d fun l =>
    FusedOf (fmtOf f.ty) (k.mode l f.rm) (k.float s l f.lit f.ty f.a) (k.float s l f.lit f.ty f.b) (k.float s l f.lit f.ty f.c) :=
  floatNow_computes h hc he fun _ => fusedOf_putRes (Num.fits_read ..) (Num.fits_read ..) (Num.fits_read ..) _

end

/-- Settles O13: what each operation puts is the exact result rounded once, and the highest enabled exception parks the lane. -/
theorem floatArithmetic : Obligations.FloatArithmetic := by
  unfold Obligations.FloatArithmetic
  refine ⟨fun mode x fl => ⟨fpOut_none x, fun n h5 => fpOut_parks x h5⟩, ?fadd, ?faddExt, ?fsub, ?fsubExt, ?fmul, ?fmulExt, ?ffma, ?ffmaExt⟩
  case fadd => exact fun f s k h => fadd_computes (f := f.toExt .f32 0) h rfl rfl
  case faddExt => exact fun f s k h => fadd_computes h rfl rfl
  case fsub => exact fun f s k h => fsub_computes (f := f.toExt .f32 0) h rfl rfl
  case fsubExt => exact fun f s k h => fsub_computes h rfl rfl
  case fmul => exact fun f s k h => fmul_computes (f := f.toExt .f32 0) h rfl rfl
  case fmulExt => exact fun f s k h => fmul_computes h rfl rfl
  case ffma => exact fun f s k h => ffma_computes (f := f.toExt3 .f32) h rfl rfl
  case ffmaExt => exact fun f s k h => ffma_computes h rfl rfl

end Sys2Proof.Machine
end

section
/-! SUPPORT. Values that a format holds, and rounding to integers (07 R139; 19 R409; for O16 and O18). -/

-- One theorem at a time: many at once ask for more threads than the checker has memory for.
set_option Elab.async false

namespace Sys2Proof.Machine

/-! ### Values that a format holds -/

/-- A magnitude that a format holds rounds to its own code and raises nothing. -/
theorem Fmt.roundFin_exact {f : Fmt} (sound : f.Sound) {m c : Nat} {e : Int} (eq : f.level c = m * 2 ^ e) (le : c ≤ f.largest)
    (mode : RoundMode) (neg : Bool) : f.roundFin mode neg m e false = (f.signBit neg + c, 0) := by
  by_cases m0 : m = 0
  · subst m0
    have : c = 0 := f.strictMono_level.injective (by rw [eq, f.level_zero]; simp)
    rw [this]
    rfl
  have mag : Magnitude m e false (f.level c) := eq
  obtain ⟨d, up, below, above, choice, -, fits⟩ := Fmt.roundFin_spec (mode := mode) (neg := neg) sound mag m0 (by simp)
  have le1 : d ≤ c := f.strictMono_level.le_iff_le.1 below
  have lt1 : c < d + 1 := f.strictMono_level.lt_iff_lt.1 above
  obtain rfl : d = c := by omega
  have stays : up = false := by
    cases up
    · rfl
    · exact absurd rfl (takesUpper_ne (choice.1 rfl) above)
  subst stays
  obtain ⟨code, -, -, quiet⟩ := fits le
  exact Prod.ext code (quiet rfl)

theorem Fmt.read_signBit {f : Fmt} (sound : f.Sound) (neg : Bool) {c : Nat} (le : c ≤ f.largest) :
    ∃ m e, f.read (f.signBit neg + c) = .fin neg m e ∧ (m : ℚ) * 2 ^ e = f.level c := by
  have lt := le.trans_lt sound.largest_lt
  have pos := Nat.two_pow_pos (f.e + f.m)
  have mod : (f.signBit neg + c) % 2 ^ (f.e + f.m) = c := by
    cases neg <;> simp [Fmt.signBit, Nat.mod_eq_of_lt lt]
  have sign : bit (f.signBit neg + c) (f.e + f.m) = neg := by
    cases neg
    · simp [Fmt.signBit, bit, Nat.div_eq_of_lt lt]
    · simp [Fmt.signBit, bit, Nat.add_div_left _ pos, Nat.div_eq_of_lt lt]
  obtain ⟨m, e, read, level⟩ := Fmt.read_eq sound (f.signBit neg + c) (by rw [mod]; exact le)
  rw [sign] at read
  rw [mod] at level
  exact ⟨m, e, read, level⟩

/-- A finite code's magnitude code, and that its mantissa has the format's precision. -/
theorem Fmt.read_value {f : Fmt} (sound : f.Sound) {c m : Nat} {neg : Bool} {e : Int} (h : f.read c = .fin neg m e) :
    c % 2 ^ (f.e + f.m) ≤ f.largest ∧ f.level (c % 2 ^ (f.e + f.m)) = m * 2 ^ e := by
  have le : c % 2 ^ (f.e + f.m) ≤ f.largest := by
    by_contra more
    unfold Fmt.read at h
    simp only [not_le.1 more, if_true] at h
    split at h <;> cases h
  obtain ⟨m', e', read, level⟩ := Fmt.read_eq sound c le
  rw [read] at h
  cases h
  exact ⟨le, level.symm⟩

theorem Fmt.read_precision {f : Fmt} {c m : Nat} {neg : Bool} {e : Int} (h : f.read c = .fin neg m e) :
    m < 2 ^ (f.m + 1) ∧ f.least ≤ e ∧ e ≤ 2 ^ f.e := by
  unfold Fmt.read at h
  simp only at h
  have rest := Nat.mod_lt c (Nat.two_pow_pos (f.e + f.m))
  have frac := Nat.mod_lt (c % 2 ^ (f.e + f.m)) (Nat.two_pow_pos f.m)
  have exp : c % 2 ^ (f.e + f.m) / 2 ^ f.m < 2 ^ f.e := by
    rw [Nat.div_lt_iff_lt_mul (Nat.two_pow_pos _), ← pow_add]
    exact rest
  have pos := Nat.two_pow_pos f.e
  unfold Fmt.least
  split at h
  · cases h
  split at h
  · cases h
  split at h
  · cases h
    refine ⟨by rw [pow_succ]; omega, le_refl _, ?_⟩
    have : (1 : Int) ≤ 2 ^ f.e := by exact_mod_cast pos
    omega
  · next high =>
    cases h
    have : 1 ≤ c % 2 ^ (f.e + f.m) / 2 ^ f.m := Nat.one_le_iff_ne_zero.2 high
    have cast : ((c % 2 ^ (f.e + f.m) / 2 ^ f.m : Nat) : Int) < 2 ^ f.e := by exact_mod_cast exp
    exact ⟨by rw [pow_succ]; omega, by omega, by omega⟩

/-- The three formats of register values that are not packed. -/
def Fmt.Plain (f : Fmt) : Prop := f ∈ [fmtF32, fmtF16, fmtBf16]

theorem Fmt.Plain.sound {f : Fmt} (h : f.Plain) : f.Sound := Fmt.sound_of_mem (by
  simp only [Fmt.Plain, List.mem_cons, List.not_mem_nil, or_false] at h
  rcases h with rfl | rfl | rfl <;> simp)

/-- What is the same of the three formats. -/
theorem Fmt.Plain.facts {f : Fmt} (h : f.Plain) : 1 ≤ f.bias ∧ (f.bias + f.m) * 2 ^ f.m ≤ f.largest ∧ f.bias + f.m ≤ 150 ∧ 2 ^ f.e ≤ 256 ∧
    f.m ≤ 23 ∧ f.inf.isSome = true ∧ f.nan.isSome = true := by
  simp only [Fmt.Plain, List.mem_cons, List.not_mem_nil, or_false] at h
  rcases h with rfl | rfl | rfl <;> decide

theorem Fmt.plain_of_ty {ty : Ty} (h : [Ty.f32, .f16, .bf16].contains ty = true) : (fmtOf ty).Plain := by
  rw [List.contains_iff_mem] at h
  simp only [List.mem_cons, List.not_mem_nil, or_false] at h
  rcases h with rfl | rfl | rfl <;> simp [Fmt.Plain, fmtOf]

/-- A format holds every integer up to its precision. -/
theorem Fmt.holds_integer {f : Fmt} (plain : f.Plain) {u : Nat} (le : u ≤ 2 ^ f.m) : ∃ c ≤ f.largest, f.level c = u := by
  obtain ⟨bias, large, -⟩ := plain.facts
  by_cases u0 : u = 0
  · exact ⟨0, Nat.zero_le _, by rw [u0, f.level_zero]; rfl⟩
  have log : Nat.log2 u ≤ f.m := by
    by_contra more
    have : 2 ^ (f.m + 1) ≤ 2 ^ Nat.log2 u := Nat.pow_le_pow_right (by decide) (not_le.1 more)
    have := Nat.log2_self_le u0
    have := Nat.two_pow_pos f.m
    rw [pow_succ] at *
    omega
  set j := f.m - Nat.log2 u with hj
  set w := u * 2 ^ j with hw
  have full : 2 ^ f.m ≤ w := by
    calc 2 ^ f.m = 2 ^ Nat.log2 u * 2 ^ j := by rw [← pow_add]; congr 1; omega
      _ ≤ w := Nat.mul_le_mul_right _ (Nat.log2_self_le u0)
  have lt : w < 2 ^ (f.m + 1) := by
    calc w < 2 ^ (Nat.log2 u + 1) * 2 ^ j := Nat.mul_lt_mul_of_pos_right Nat.lt_log2_self (Nat.two_pow_pos _)
      _ = 2 ^ (f.m + 1) := by rw [← pow_add]; congr 1; omega
  refine ⟨(f.bias - 1 + Nat.log2 u) * 2 ^ f.m + w, le_trans ?_ large, ?_⟩
  · rcases Nat.lt_or_ge (Nat.log2 u) f.m with l | l
    · have : (f.bias - 1 + Nat.log2 u) * 2 ^ f.m + 2 ^ (f.m + 1) ≤ (f.bias + f.m) * 2 ^ f.m := by
        calc _ = (f.bias - 1 + Nat.log2 u + 2) * 2 ^ f.m := by ring
          _ ≤ _ := Nat.mul_le_mul_right _ (by omega)
      omega
    · have same : u = 2 ^ f.m := by
        have := Nat.log2_self_le u0
        have : 2 ^ f.m ≤ 2 ^ Nat.log2 u := Nat.pow_le_pow_right (by decide) l
        omega
      have zero : j = 0 := by omega
      have eq : w = 2 ^ f.m := by rw [hw, zero, same]; simp
      rw [eq]
      calc _ = (f.bias - 1 + Nat.log2 u + 1) * 2 ^ f.m := by ring
        _ ≤ _ := Nat.mul_le_mul_right _ (by omega)
  · rw [f.level_code lt.le (.inr full), hw]
    push_cast
    rw [mul_assoc, ← zpow_natCast, ← zpow_add₀ two_ne_zero]
    unfold Fmt.least
    have zero : (j : Int) + (1 - (f.bias : Int) - f.m + (((f.bias - 1 : Nat) : Int) + Nat.log2 u)) = 0 := by omega
    rw [zero]
    simp

/-! ### Rounding to an integer -/

/-- A magnitude as an integer of a sign. -/
def signedInt (neg : Bool) (n : Nat) : Int := if neg then -n else n

theorem signedInt_cast (neg : Bool) (n : Nat) : (signedInt neg n : ℚ) = signed neg n := by cases neg <;> simp [signedInt, signed]

theorem signedInt_even {neg : Bool} {n : Nat} (h : n % 2 = 0) : Even (signedInt neg n) := by
  rw [Int.even_iff]
  cases neg <;> simp only [signedInt, Bool.false_eq_true, if_false, if_true] <;> omega

/-- A mode's choice between the integers next to a magnitude rounds it. -/
theorem roundsToInt_of_between {mode : RoundMode} {neg up : Bool} {u : Nat} {x : ℚ} (below : (u : ℚ) ≤ x) (above : x < (u + 1 : Nat))
    (choice : up = true ↔ takesUpper mode neg (decide (u % 2 = 1)) u (u + 1 : Nat) x) :
    RoundsToInt mode (signed neg x) (signedInt neg (if up then u + 1 else u)) := by
  have u0 : (0 : ℚ) ≤ u := Nat.cast_nonneg u
  have x0 : 0 ≤ x := u0.trans below
  have absX : |x| = x := abs_of_nonneg x0
  push_cast at above choice
  have whole : mode = .ru ∧ neg = false ∨ mode = .rd ∧ neg = true → up = false → (u : ℚ) = x := fun h stays => by
    by_contra ne
    refine absurd (choice.2 ?_) (by simp [stays])
    rcases h with ⟨rfl, rfl⟩ | ⟨rfl, rfl⟩ <;> exact ⟨ne, rfl⟩
  unfold RoundsToInt
  cases mode with
  | rz =>
    obtain rfl : up = false := by simpa [takesUpper] using choice
    simp only [signedInt_cast, abs_signed, absX, Bool.false_eq_true, if_false, abs_of_nonneg u0]
    refine ⟨below, above, ?_⟩
    cases neg <;> simp only [signed, Bool.false_eq_true, if_false, if_true] <;> nlinarith
  | rd =>
    simp only [signedInt_cast]
    cases neg with
    | false =>
      obtain rfl : up = false := by simpa [takesUpper] using choice
      simpa [signed] using ⟨below, above⟩
    | true =>
      cases up with
      | true =>
        have ne := (choice.1 rfl).1
        have : (u : ℚ) < x := lt_of_le_of_ne below ne
        simp only [signed, if_true]
        push_cast
        constructor <;> linarith
      | false =>
        have := whole (.inr ⟨rfl, rfl⟩) rfl
        simp only [signed, if_true, Bool.false_eq_true, if_false]
        constructor <;> linarith
  | ru =>
    simp only [signedInt_cast]
    cases neg with
    | true =>
      obtain rfl : up = false := by simpa [takesUpper] using choice
      simp only [signed, if_true, Bool.false_eq_true, if_false]
      constructor <;> linarith
    | false =>
      cases up with
      | true =>
        have ne := (choice.1 rfl).1
        have : (u : ℚ) < x := lt_of_le_of_ne below ne
        simp only [signed, if_true, Bool.false_eq_true, if_false]
        push_cast
        constructor <;> linarith
      | false =>
        have := whole (.inl ⟨rfl, rfl⟩) rfl
        simp only [signed, Bool.false_eq_true, if_false]
        constructor <;> linarith
  | rne =>
    simp only [signedInt_cast, abs_signed_sub]
    cases up with
    | true =>
      have far : |x - (u + 1)| = u + 1 - x := by rw [abs_of_neg (by linarith)]; ring
      simp only [if_true]
      push_cast
      rw [far]
      refine ⟨?_, fun mid => signedInt_even ?_⟩
      · rcases choice.1 rfl with h | ⟨h, -⟩ <;> linarith
      · rcases choice.1 rfl with h | ⟨-, odd⟩
        · linarith
        · have := of_decide_eq_true odd
          omega
    | false =>
      have near : |x - u| = x - u := abs_of_nonneg (by linarith)
      simp only [Bool.false_eq_true, if_false, near]
      have low : ¬ takesUpper .rne neg (decide (u % 2 = 1)) u (u + 1 : ℚ) x := fun h => absurd (choice.2 h) (by simp)
      simp only [takesUpper, not_or, not_and, not_lt] at low
      refine ⟨by linarith [low.1], fun mid => signedInt_even ?_⟩
      have := low.2 (by linarith)
      have : ¬ u % 2 = 1 := fun h => this (decide_eq_true h)
      omega
  | rna =>
    simp only [signedInt_cast, abs_signed_sub, abs_signed, absX]
    cases up with
    | true =>
      have far : |x - (u + 1)| = u + 1 - x := by rw [abs_of_neg (by linarith)]; ring
      have up := choice.1 rfl
      simp only [takesUpper] at up
      simp only [if_true]
      push_cast
      rw [far, abs_of_nonneg (by linarith)]
      exact ⟨by linarith, fun _ => above.le⟩
    | false =>
      have near : |x - u| = x - u := abs_of_nonneg (by linarith)
      have low : ¬ takesUpper .rna neg (decide (u % 2 = 1)) u (u + 1 : ℚ) x := fun h => absurd (choice.2 h) (by simp)
      simp only [takesUpper, not_le] at low
      simp only [Bool.false_eq_true, if_false, near]
      exact ⟨by linarith, fun mid => by linarith⟩

theorem magnitude_exact (m : Nat) (e : Int) : Magnitude m e false (m * 2 ^ e) := rfl

/-- Rounding a finite value to an integer. -/
theorem roundInt_spec (mode : RoundMode) (neg : Bool) (m : Nat) (e : Int) :
    RoundsToInt mode (dyadic neg m e) (signedInt neg (roundInt mode neg m e).1) ∧
    ((roundInt mode neg m e).2 = true ↔ ((roundInt mode neg m e).1 : ℚ) ≠ m * 2 ^ e) ∧
    (0 ≤ e → ((roundInt mode neg m e).1 : ℚ) = m * 2 ^ e) ∧ (∀ n : Nat, e < 0 → m < 2 ^ (n + 1) → (roundInt mode neg m e).1 ≤ 2 ^ n) := by
  have mag := magnitude_exact m e
  obtain ⟨below, above⟩ := unitsBelow_between (q := 0) mag (by simp)
  obtain ⟨up, ix, round, inexact, choice⟩ := roundAt_spec (mode := mode) (neg := neg) (q := 0) mag (by simp)
  have run : roundInt mode neg m e = _ := round
  simp only [zpow_zero, mul_one] at below above inexact choice
  rw [run, dyadic_eq_signed]
  refine ⟨roundsToInt_of_between below above choice, ?_, ?_, ?_⟩
  · refine inexact.trans ?_
    cases up with
    | false => exact Iff.rfl
    | true => exact iff_of_true (takesUpper_ne (choice.1 rfl) above) above.ne'
  · intro whole
    have eq : (unitsBelow m e 0 : ℚ) = m * 2 ^ e := by
      obtain ⟨n, rfl⟩ := Int.eq_ofNat_of_zero_le whole
      simp [unitsBelow]
    cases up with
    | false => exact eq
    | true => exact absurd eq (takesUpper_ne (choice.1 rfl) above)
  · intro n part small
    have half : unitsBelow m e 0 ≤ m / 2 := by
      unfold unitsBelow
      rw [if_neg (not_le.2 part)]
      refine Nat.div_le_div_left ?_ (by decide)
      exact Nat.le_self_pow (by omega) 2
    rw [pow_succ] at small
    have bound : unitsBelow m e 0 + 1 ≤ 2 ^ n := by omega
    cases up with
    | false => exact (Nat.le_succ _).trans bound
    | true => exact bound

/-- `FRND`: the integer nearest in the mode's sense, which the format holds. -/
theorem integralOf_put {f : Fmt} (plain : f.Plain) (mode : RoundMode) (c : Nat) :
    IntegralOf f mode (f.read c) (putRes f mode [f.read c] (fRnd mode [f.read c])) := by
  obtain ⟨-, -, -, -, -, inf, nan⟩ := plain.facts
  have sound := plain.sound
  unfold IntegralOf
  cases read : f.read c with
  | nan sig =>
    simp only [Num.isNan, if_true]
    refine (putRes_nan nan ..).trans ?_
    simp [sigNV, flagIf]
  | inf neg =>
    simp only [Num.isNan, Num.isInf, Bool.false_eq_true, if_false, if_true, Num.sign]
    exact putRes_inf inf mode (by simp [Num.isNan]) neg
  | fin neg m e =>
    simp only [Num.isNan, Num.isInf, Bool.false_eq_true, if_false, Num.sign, Num.rat]
    obtain ⟨near, -, whole, part⟩ := roundInt_spec mode neg m e
    have value := Fmt.read_value sound read
    have held : ∃ d ≤ f.largest, f.level d = (roundInt mode neg m e).1 := by
      rcases le_or_gt 0 e with h | h
      · obtain ⟨le, level⟩ := value
        exact ⟨_, le, by rw [whole h, ← level]⟩
      · exact Fmt.holds_integer plain (part f.m h (Fmt.read_precision read).1)
    obtain ⟨d, le, level⟩ := held
    have put : putRes f mode [.fin neg m e] (fRnd mode [.fin neg m e]) = (f.signBit neg + d, 0) := by
      refine (putRes_fin mode (by simp [Num.isNan]) _).trans ?_
      exact Fmt.roundFin_exact sound (by rw [level]; simp) le mode neg
    obtain ⟨m', e', read', level'⟩ := Fmt.read_signBit sound neg le
    rw [put, read']
    refine ⟨rfl, rfl, rfl, rfl, _, near, ?_⟩
    show dyadic neg m' e' = _
    rw [dyadic_eq_signed, level', level, signedInt_cast]

end Sys2Proof.Machine
end

section
/-! SUPPORT. Scaling by a power of two and dot products (19 R409, R413), and O16. -/

-- One theorem at a time: many at once ask for more threads than the checker has memory for.
set_option Elab.async false

namespace Sys2Proof.Machine

/-! ### Values far out of range -/

/-- A value far above a format's range overflows in the same way whatever it is. -/
theorem Fmt.roundFin_far {f : Fmt} (sound : f.Sound) {m : Nat} (m0 : m ≠ 0) {e : Int} (far : f.least + 2 ^ f.e ≤ (Nat.log2 m : Int) + e - f.m)
    (mode : RoundMode) (neg : Bool) : f.roundFin mode neg m e false = (f.signBit neg + (match f.inf with
        | some i => if overflowInf mode neg then i else f.largest
        | none => f.largest), flagOF ||| flagNX) := by
  have zero : (decide (m = 0) && !false) = false := by simp [m0]
  unfold Fmt.roundFin
  simp only [zero, Bool.false_eq_true, if_false]
  refine if_pos ?_
  have unit : (2 : Int) ^ f.e ≤ f.unit m e - f.least := by
    have : (Nat.log2 m : Int) + e - f.m ≤ f.unit m e := le_max_right ..
    omega
  have nat : 2 ^ f.e ≤ (f.unit m e - f.least).toNat := by
    zify
    exact unit.trans (Int.self_le_toNat _)
  calc f.largest < 2 ^ (f.e + f.m) := sound.largest_lt
    _ = 2 ^ f.e * 2 ^ f.m := pow_add ..
    _ ≤ (f.unit m e - f.least).toNat * 2 ^ f.m := Nat.mul_le_mul_right _ nat
    _ ≤ _ := Nat.le_add_right ..

/-- Whether a mode rounds a magnitude far below a format's range to its least number. -/
def roundsAway (mode : RoundMode) (neg : Bool) : Bool :=
  match mode with
  | .ru => !neg
  | .rd => neg
  | _ => false

theorem roundAt_tiny {m : Nat} (m0 : m ≠ 0) {e q : Int} (tiny : (Nat.log2 m : Int) + e < q - 1) (mode : RoundMode) (neg : Bool) :
    roundAt mode neg m e false q = (if roundsAway mode neg then 1 else 0, true) := by
  obtain ⟨n, hn⟩ : ∃ n, (q - e).toNat = n + 1 := ⟨(q - e).toNat - 1, by omega⟩
  have small : m < 2 ^ n := Nat.lt_log2_self.trans_le (Nat.pow_le_pow_right (by decide) (by omega))
  have less : m < 2 ^ (n + 1) := small.trans_le (Nat.pow_le_pow_right (by decide) (Nat.le_succ n))
  unfold roundAt
  rw [if_neg (by omega)]
  simp only [hn, Nat.div_eq_of_lt less, Nat.mod_eq_of_lt less, Nat.add_sub_cancel]
  have notTie : m ≠ 2 ^ n := small.ne
  have notAbove : ¬ 2 ^ n < m := by omega
  have up : roundUp mode neg 0 m (2 ^ n) false = roundsAway mode neg := by
    cases mode <;> simp [roundUp, roundsAway, notTie, notAbove, m0]
  rw [up]
  simp [m0]

/-- A value far below a format's range underflows in the same way whatever it is. -/
theorem Fmt.roundFin_tiny {f : Fmt} (sound : f.Sound) {m : Nat} (m0 : m ≠ 0) {e : Int} (tiny : (Nat.log2 m : Int) + e < f.least - 1)
    (mode : RoundMode) (neg : Bool) :
    f.roundFin mode neg m e false = (f.signBit neg + (if roundsAway mode neg then 1 else 0), flagNX ||| flagUF) := by
  have zero : (decide (m = 0) && !false) = false := by simp [m0]
  have unit : f.unit m e = f.least := max_eq_left (by omega)
  have first : roundAt mode neg m e false (f.unit m e) = (if roundsAway mode neg then 1 else 0, true) := by
    rw [unit]
    exact roundAt_tiny m0 tiny mode neg
  obtain ⟨up, ix, second, -⟩ := roundAt_spec (mode := mode) (neg := neg) (magnitude_exact m e) (q := (Nat.log2 m : Int) + e - f.m) (by simp)
  have bound : (if up then unitsBelow m e ((Nat.log2 m : Int) + e - f.m) + 1 else unitsBelow m e ((Nat.log2 m : Int) + e - f.m)) < 2 ^ (f.m + 2) := by
    have := Machine.unitsBelow_lt (p := f.m) (m := m) (e := e) (le_refl _)
    have := Nat.two_pow_pos f.m
    rw [pow_succ] at *
    split <;> omega
  have low : ((Nat.log2 (if up then unitsBelow m e ((Nat.log2 m : Int) + e - f.m) + 1 else unitsBelow m e ((Nat.log2 m : Int) + e - f.m)) : Nat) : Int) ≤
      f.m + 1 := by
    generalize (if up then unitsBelow m e ((Nat.log2 m : Int) + e - f.m) + 1 else unitsBelow m e ((Nat.log2 m : Int) + e - f.m)) = u at bound
    rcases Nat.eq_zero_or_pos u with rfl | pos
    · rw [Nat.log2_zero]; omega
    · have := (Nat.log2_lt pos.ne').2 bound
      omega
  have code : (f.unit m e - f.least).toNat * 2 ^ f.m + (if roundsAway mode neg then 1 else 0) = if roundsAway mode neg then 1 else 0 := by simp [unit]
  have fits : ¬ f.largest < if roundsAway mode neg then 1 else 0 := by
    have := sound.largest_pos
    split <;> omega
  have below : (Nat.log2 (if up then unitsBelow m e ((Nat.log2 m : Int) + e - f.m) + 1 else unitsBelow m e ((Nat.log2 m : Int) + e - f.m)) : Int) +
      ((Nat.log2 m : Int) + e - f.m) < 1 - (f.bias : Int) := by
    unfold Fmt.least at tiny
    omega
  unfold Fmt.unit Fmt.least at first code
  unfold Fmt.roundFin
  simp only [zero, Bool.false_eq_true, if_false]
  rw [first, second]
  simp only [code, if_neg fits, below, decide_true]
  rfl

/-! ### Scaling by a power of two -/

/-- Beyond ±4,096 the power of two no longer changes the result. -/
theorem Fmt.roundFin_clip {f : Fmt} (plain : f.Plain) {c m : Nat} {neg : Bool} {e : Int} (read : f.read c = .fin neg m e) (mode : RoundMode)
    (n : Int) : f.roundFin mode neg m (e + max (-4096) (min 4096 n)) false = f.roundFin mode neg m (e + n) false := by
  rcases Nat.eq_zero_or_pos m with rfl | pos
  · rfl
  have m0 := pos.ne'
  obtain ⟨precision, low, high⟩ := Fmt.read_precision read
  obtain ⟨bias, -, exps, range, frac, -, -⟩ := plain.facts
  have range' : (2 : Int) ^ f.e ≤ 256 := by exact_mod_cast range
  have log : Nat.log2 m < f.m + 1 := (Nat.log2_lt m0).2 precision
  have least : f.least = 1 - (f.bias : Int) - f.m := rfl
  rcases lt_trichotomy n (-4096) with l | rfl | l
  · have clip : max (-4096) (min 4096 n) = -4096 := by omega
    rw [clip, Fmt.roundFin_tiny plain.sound m0 (by omega), Fmt.roundFin_tiny plain.sound m0 (by omega)]
  · rfl
  · rcases le_or_gt n 4096 with h | h
    · have clip : max (-4096) (min 4096 n) = n := by omega
      rw [clip]
    · have clip : max (-4096) (min 4096 n) = 4096 := by omega
      rw [clip, Fmt.roundFin_far plain.sound m0 (by omega), Fmt.roundFin_far plain.sound m0 (by omega)]

theorem dyadic_scale (neg : Bool) (m : Nat) (e n : Int) : dyadic neg m e * 2 ^ n = dyadic neg m (e + n) := by
  simp only [dyadic, zpow_add₀ (two_ne_zero : (2 : ℚ) ≠ 0), mul_assoc]

/-- `FSCL`: a·2^n rounded once. -/
theorem scaledOf_put {f : Fmt} (plain : f.Plain) (mode : RoundMode) (c : Nat) (n : Int) :
    ScaledOf f mode (f.read c) n (putRes f mode [f.read c] (fScl n mode [f.read c])) := by
  obtain ⟨-, -, -, -, -, inf, nan⟩ := plain.facts
  unfold ScaledOf
  cases read : f.read c with
  | nan sig =>
    simp only [Num.isNan, if_true]
    refine (putRes_nan nan ..).trans ?_
    simp [sigNV, flagIf]
  | inf neg =>
    simp only [Num.isNan, Num.isInf, Bool.false_eq_true, if_false, if_true, Num.sign]
    exact putRes_inf inf mode (by simp [Num.isNan]) neg
  | fin neg m e =>
    simp only [Num.isNan, Num.isInf, Bool.false_eq_true, if_false, Num.sign, Num.rat, dyadic_scale]
    have put : putRes f mode [.fin neg m e] (fScl n mode [.fin neg m e]) = f.put mode (.val neg m (e + n) false) :=
      (putRes_fin mode (by simp [Num.isNan]) _).trans (Fmt.roundFin_clip plain read mode n)
    rw [put]
    exact roundsExact_put f mode neg m (e + n) fun _ => rfl

/-! ### Dot products -/

/-- A product that raises the flag is NaN, and so is one of a signalling factor. -/
theorem isNan_mulNum {x y : Num} (h : (mulNum x y).2 = true ∨ (x.isSig || y.isSig) = true) : (mulNum x y).1.isNan = true := by
  by_cases nan : (x.isNan || y.isNan) = true
  · rw [mulNum_nan nan]
    rfl
  rw [Bool.not_eq_true] at nan
  have quiet : (x.isSig || y.isSig) = false := by cases x <;> cases y <;> simp_all [Num.isSig, Num.isNan]
  obtain ⟨bad, inf, fin⟩ := mulNum_eq nan
  have flag : (mulNum x y).2 = true := h.resolve_right (by simp [quiet])
  cases z : zeroTimesInf x y with
  | true => rw [bad z]; rfl
  | false =>
    exfalso
    cases i : (x.isInf || y.isInf) with
    | true => rw [inf z i] at flag; cases flag
    | false =>
      obtain ⟨m, e, run, -⟩ := fin i
      rw [run] at flag
      cases flag

/-- The terms of a dot product. -/
def dotTerms (xs ys : List Num) (z : Num) : List Num := (List.zipWith mulNum xs ys).map Prod.fst ++ [z]

/-- Where a product raises the flag, or a source is signalling, a term is NaN. -/
theorem any_nan_dotTerms {xs ys : List Num} {z : Num} (same : xs.length = ys.length)
    (h : (List.zipWith mulNum xs ys).any Prod.snd = true ∨ (z :: (xs ++ ys)).any Num.isSig = true) : (dotTerms xs ys z).any Num.isNan = true := by
  have term {i : Nat} (hx : i < xs.length) (hy : i < ys.length)
      (h : (mulNum xs[i] ys[i]).2 = true ∨ (xs[i].isSig || ys[i].isSig) = true) : (dotTerms xs ys z).any Num.isNan = true := by
    refine List.any_eq_true.2 ⟨_, ?_, isNan_mulNum h⟩
    refine List.mem_append_left _ (List.mem_map_of_mem ?_)
    exact List.mem_iff_getElem.2 ⟨i, by simp [hx, hy], by simp⟩
  rcases h with h | h
  · obtain ⟨p, mem, flag⟩ := List.any_eq_true.1 h
    obtain ⟨i, hi, rfl⟩ := List.mem_iff_getElem.1 mem
    rw [List.length_zipWith] at hi
    rw [List.getElem_zipWith] at flag
    exact term (by omega) (by omega) (.inl flag)
  · obtain ⟨p, mem, sig⟩ := List.any_eq_true.1 h
    simp only [List.mem_cons, List.mem_append] at mem
    rcases mem with rfl | mem | mem
    · refine List.any_eq_true.2 ⟨p, by simp [dotTerms], ?_⟩
      cases p <;> simp_all [Num.isSig, Num.isNan]
    · obtain ⟨i, hi, rfl⟩ := List.mem_iff_getElem.1 mem
      exact term hi (same ▸ hi) (.inr (by simp [sig]))
    · obtain ⟨i, hi, rfl⟩ := List.mem_iff_getElem.1 mem
      exact term (same.symm ▸ hi) hi (.inr (by simp [sig]))

/-- What the model puts of a dot product whose products raise the flag as given. -/
def dotPut (mode : RoundMode) (bad : Bool) (terms srcs : List Num) : Nat × Word :=
  putRes fmtF32 mode srcs ((sumNums mode terms).1, flagIf (bad || (terms.contains (.inf true) && terms.contains (.inf false)) ||
    (sumNums mode terms).2) flagNV)

/-- What the spec gives of it. -/
def DotSpec (mode : RoundMode) (bad : Bool) (terms srcs : List Num) (r : Nat × Word) : Prop :=
  if (bad || (terms.contains (.inf true) && terms.contains (.inf false)) || terms.any Num.isNan) = true then
    r = (fmtF32.nanCode, if (bad || (terms.contains (.inf true) && terms.contains (.inf false)) || srcs.any Num.isSig) = true then flagNV else 0)
  else if terms.any Num.isInf = true then r = (fmtF32.infCode (terms.contains (.inf true)), 0)
  else RoundsExact fmtF32 mode (terms.map Num.rat).sum (zeroSign mode terms) r

theorem flagIf_or_flagIf (a b : Bool) : flagIf a flagNV ||| flagIf b flagNV = flagIf (a || b) flagNV := by cases a <;> cases b <;> rfl

theorem dotSpec_put {bad : Bool} {terms srcs : List Num} (toNan : bad = true ∨ srcs.any Num.isSig = true → terms.any Num.isNan = true)
    (mode : RoundMode) : DotSpec mode bad terms srcs (dotPut mode bad terms srcs) := by
  have nanCode : fmtF32.nan.isSome = true := rfl
  unfold DotSpec dotPut
  cases nan : terms.any Num.isNan with
  | true =>
    rw [sumNums_nan mode nan, Bool.or_true, if_pos rfl, putRes_nan nanCode, sigNV, flagIf_or_flagIf, Bool.or_assoc bad, Bool.or_self]
    rfl
  | false =>
    have quiet : srcs.any Num.isSig = false := by
      rw [← Bool.not_eq_true]
      exact fun h => absurd (toNan (.inr h)) (by simp [nan])
    obtain rfl : bad = false := by
      rw [← Bool.not_eq_true]
      exact fun h => absurd (toNan (.inl h)) (by simp [nan])
    have put (r : Res) : putRes fmtF32 mode srcs (r, 0) = fmtF32.put mode r := by simp [putRes, sigNV, quiet, flagIf]
    rw [Bool.false_or, Bool.or_false, quiet, Bool.or_false]
    cases pos : terms.contains (.inf false) with
    | true =>
      have posMem := List.contains_iff_mem.1 pos
      have inf : terms.any Num.isInf = true := List.any_eq_true.2 ⟨_, posMem, rfl⟩
      cases neg : terms.contains (.inf true) with
      | true =>
        rw [sumNums_both mode nan posMem (List.contains_iff_mem.1 neg), Bool.and_self, if_pos rfl, putRes_nan nanCode, sigNV, quiet]
        rfl
      | false =>
        rw [sumNums_inf mode nan posMem (by simpa using neg), Bool.false_and, if_neg (by simp), if_pos inf]
        exact put _
    | false =>
      rw [Bool.and_false, if_neg (by simp)]
      cases neg : terms.contains (.inf true) with
      | true =>
        have negMem := List.contains_iff_mem.1 neg
        have inf : terms.any Num.isInf = true := List.any_eq_true.2 ⟨_, negMem, rfl⟩
        rw [sumNums_inf mode nan negMem (by simpa using pos), if_pos inf]
        exact put _
      | false =>
        have fin : ∀ x ∈ terms, x.isFin = true := fun x mem => by
          cases x with
          | nan sig => exact absurd rfl (List.any_eq_false.1 nan _ mem)
          | inf a =>
            cases a
            · exact Bool.noConfusion (pos.symm.trans (List.contains_iff_mem.2 mem))
            · exact Bool.noConfusion (neg.symm.trans (List.contains_iff_mem.2 mem))
          | fin n m e => rfl
        have inf : terms.any Num.isInf = false := List.any_eq_false.2 fun x mem h => by
          have := fin x mem
          simp [Num.isFin, h] at this
        obtain ⟨r, run, rounds⟩ := sumNums_finite mode fin
        rw [run, inf, if_neg (by simp), Bool.or_false]
        exact (put r).symm ▸ rounds fmtF32

theorem dotOf_iff {xs ys : List Num} {z : Num} {mode : RoundMode} {r : Nat × Word} :
    DotOf mode xs ys z r ↔ DotSpec mode ((List.zipWith mulNum xs ys).any Prod.snd) (dotTerms xs ys z) (z :: (xs ++ ys)) r := by
  have sigs : (z :: (xs ++ ys)).any Num.isSig = (z.isSig || xs.any Num.isSig || ys.any Num.isSig) := by simp [Bool.or_assoc]
  unfold DotSpec
  rw [sigs]
  exact Iff.rfl

/-! ### The instructions -/

section
variable {i : Instr} {s : State} {k : Who} {f : ExtArgs} (h : Ready i s k) (hc : i.form.commits = false)
include h hc

theorem frnd_computes (plain : (fmtOf f.ty).Plain) (he : exec i s = .next (floatNow i f fRnd src1 s)) : ComputesFloat i s k f.d fun l =>
    IntegralOf (fmtOf f.ty) (k.mode l f.rm) (k.float s l f.lit f.ty f.a) :=
  floatNow_computes h hc he fun _ => integralOf_put plain _ _

theorem fscl_computes (plain : (fmtOf f.ty).Plain) (he : exec i s = .next (issueLanes i s f.d .w32 (fsclLane f))) :
    ComputesFloat i s k f.d fun l =>
      ScaledOf (fmtOf f.ty) (k.mode l f.rm) (k.float s l f.lit f.ty f.a) (k.num s l f.lit .i32 f.b) :=
  ⟨fun l => putRes (fmtOf f.ty) (k.mode l f.rm) (src1 f s k l) (fScl ((k.rd s l f .w32 f.b).setWidth 32).toInt (k.mode l f.rm) (src1 f s k l)),
    computes_of h hc he fun _ => rfl, fun _ _ => scaledOf_put plain _ _ _⟩

/-- The packed elements of a source. -/
def Who.elements (k : Who) (n : Nat) (s : State) (l : Nat) (f : ExtArgs) (o : Opd) : List Num := packedNums f.ty n (k.src s l f.lit f.ty o)

theorem fdot_computes {n : Nat} (he : exec i s = .next (issueLanes i s f.d .w32 (dotLane n f))) : ComputesFloat i s k f.d fun l =>
    DotOf (k.mode l f.rm) (k.elements n s l f f.a) (k.elements n s l f f.b) (k.float s l f.lit .f32 f.c) := by
  refine ⟨fun l => dotPut (k.mode l f.rm) ((List.zipWith mulNum (k.elements n s l f f.a) (k.elements n s l f f.b)).any Prod.snd)
    (dotTerms (k.elements n s l f f.a) (k.elements n s l f f.b) (k.float s l f.lit .f32 f.c))
    (k.float s l f.lit .f32 f.c :: (k.elements n s l f f.a ++ k.elements n s l f f.b)), computes_of h hc he fun l => ?_, fun l _ => ?_⟩
  · have zip (xs ys : List Num) : (xs.zip ys).map (fun e => mulNum e.1 e.2) = List.zipWith mulNum xs ys := by
      rw [List.zip, List.map_zipWith]
    unfold dotLane
    simp only [zip]
    rfl
  · exact dotOf_iff.2 (dotSpec_put (any_nan_dotTerms (by simp [Who.elements, packedNums])) _)

end

/-- Settles O16: an integer within a format's precision is one of its codes, and a power of two beyond ±4,096 only overflows or underflows. -/
theorem floatRoundScaleDot : Obligations.FloatRoundScaleDot := by
  unfold Obligations.FloatRoundScaleDot
  have f32 : (fmtOf .f32).Plain := by simp [Fmt.Plain, fmtOf]
  refine ⟨?frnd, ?frndExt, ?fscl, ?fsclExt, ?fdot2, ?fdot4⟩
  case frnd => exact fun f s k h => frnd_computes (f := f.toExt .f32 0) h rfl f32 rfl
  case frndExt => exact fun f s k ty h => frnd_computes h rfl (Fmt.plain_of_ty ty) rfl
  case fscl => exact fun f s k h => fscl_computes (f := f.toExt .f32 0) h rfl f32 rfl
  case fsclExt => exact fun f s k ty h => fscl_computes h rfl (Fmt.plain_of_ty ty) rfl
  case fdot2 => exact fun f s k h => fdot_computes h rfl rfl
  case fdot4 => exact fun f s k h => fdot_computes h rfl rfl

end Sys2Proof.Machine
end

section
/-! SUPPORT. Conversions and packed elements (19 R401 to R403; 22 R500; 07 R144), and O18. -/

-- One theorem at a time: many at once ask for more threads than the checker has memory for.
set_option Elab.async false

namespace Sys2Proof.Machine

/-! ### A value put into a format -/

/-- What a format lacks follows 07 R144. -/
theorem convertedTo_put (f : Fmt) (mode : RoundMode) (x : Num) : ConvertedTo f mode x (putRes f mode [x] (x.res, 0)) := by
  unfold ConvertedTo
  cases x with
  | nan sig =>
    simp only [Num.isNan, if_true]
    cases h : f.nan with
    | some n => simp [putRes, Num.res, Fmt.put, h, sigNV, flagIf]
    | none => cases sig <;> simp [putRes, Num.res, Fmt.put, h, sigNV, flagIf, Num.isSig]
  | inf neg =>
    simp only [Num.isNan, Num.isInf, Bool.false_eq_true, if_false, if_true, Num.sign]
    cases h : f.inf <;> cases g : f.nan <;> simp [putRes, Num.res, Fmt.put, h, g, sigNV, flagIf, Num.isSig]
  | fin neg m e =>
    simp only [Num.isNan, Num.isInf, Bool.false_eq_true, if_false, Num.sign, Num.rat]
    rw [putRes_fin mode (by simp [Num.isNan])]
    exact roundsExact_put f mode neg m e fun _ => rfl

theorem or_sigNV_self (fl : Word) (x : Num) : fl ||| (if x.isSig then flagNV else 0) ||| (if x.isSig then flagNV else 0) =
    fl ||| if x.isSig then flagNV else 0 := by rw [BitVec.or_assoc, BitVec.or_self]

theorem sigNV_single (x : Num) : sigNV [x] = if x.isSig then flagNV else 0 := by simp [sigNV, flagIf]

/-- The formats of elements. -/
def elementFmts : List Fmt := [fmtF32, fmtF16, fmtBf16, fmtE4m3, fmtE5m2, fmtE3m2, fmtE2m3]

theorem Fmt.nan_lt {f : Fmt} (h : f ∈ elementFmts) : ∀ n, f.nan = some n → n < 2 ^ (f.e + f.m) := by
  have dec : ∀ f ∈ elementFmts, f.nan.all (fun n => n < 2 ^ (f.e + f.m)) := by decide
  exact fun n hn => by simpa [hn] using dec f h

/-- A code that is put fits its format's width. -/
theorem Fmt.put_lt {f : Fmt} (h : f ∈ elementFmts) (mode : RoundMode) (r : Res) : (f.put mode r).1 < 2 ^ (f.e + f.m + 1) := by
  have sound := Fmt.sound_of_mem h
  have pos := Nat.two_pow_pos (f.e + f.m)
  have signed (neg : Bool) {c : Nat} (lt : c < 2 ^ (f.e + f.m)) : f.signBit neg + c < 2 ^ (f.e + f.m + 1) := by
    rw [pow_succ]
    cases neg <;> simp only [Fmt.signBit, Bool.false_eq_true, if_false, if_true] <;> omega
  have plain {c : Nat} (lt : c < 2 ^ (f.e + f.m)) : c < 2 ^ (f.e + f.m + 1) := by rw [pow_succ]; omega
  unfold Fmt.put
  cases r with
  | nan =>
    cases hn : f.nan with
    | none => exact Nat.two_pow_pos _
    | some n => exact plain (Fmt.nan_lt h n hn)
  | inf neg =>
    cases hi : f.inf with
    | some i => exact signed neg (sound.inf_gt i hi).2
    | none => cases hn : f.nan with
      | none => exact signed neg sound.largest_lt
      | some n => exact plain (Fmt.nan_lt h n hn)
  | val neg m e st =>
    simp only
    unfold Fmt.roundFin
    split
    · exact signed neg pos
    simp only
    split
    · refine signed neg ?_
      split
      · next i hi =>
        split
        · exact (sound.inf_gt i hi).2
        · exact sound.largest_lt
      · exact sound.largest_lt
    · next le => exact signed neg ((not_lt.1 le).trans_lt sound.largest_lt)

/-! ### Integers -/

theorem intMin_eq (ty : Ty) : intMin ty = ty.least := by unfold intMin Ty.least; push_cast; rfl
theorem intMax_eq (ty : Ty) : intMax ty = ty.greatest := by unfold intMax Ty.greatest; push_cast; rfl

theorem intAt_eq (ty : Ty) (x : Quad) : intAt ty x.toNat = ty.value x := by
  have wide : 0 < ty.bits := by cases ty <;> decide
  have pow : 2 ^ ty.bits = 2 * 2 ^ (ty.bits - 1) := by rw [← pow_succ', Nat.sub_add_cancel wide]
  unfold intAt Ty.value
  cases ty.signed with
  | false => simp
  | true =>
    simp only [Bool.true_and, if_true, BitVec.toInt_eq_toNat_cond, BitVec.toNat_setWidth, decide_eq_true_eq]
    split
    · rw [if_neg (by omega)]
      push_cast
      rfl
    · rw [if_pos (by omega)]

theorem signedInt_eq_iff {neg : Bool} {u : Nat} {m : Nat} {e : Int} : (signedInt neg u : ℚ) = dyadic neg m e ↔ (u : ℚ) = m * 2 ^ e := by
  rw [signedInt_cast, dyadic_eq_signed]
  cases neg <;> simp [signed]

/-- A floating value converted to an integer type. -/
theorem integerOf_toIntTy (ty : Ty) (mode : RoundMode) (x : Num) : IntegerOf ty mode x (toIntTy ty mode x).1 (toIntTy ty mode x).2 := by
  unfold IntegerOf
  cases x with
  | nan sig => exact ⟨rfl, rfl⟩
  | inf neg =>
    simp only [Num.isNan, Num.isInf, Bool.false_eq_true, if_false, if_true, Num.sign, toIntTy, intMin_eq, intMax_eq]
    exact ⟨by cases neg <;> rfl, trivial⟩
  | fin neg m e =>
    simp only [Num.isNan, Num.isInf, Bool.false_eq_true, if_false, Num.rat]
    obtain ⟨near, inexact, -⟩ := roundInt_spec mode neg m e
    refine ⟨_, near, ?_⟩
    have run : toIntTy ty mode (.fin neg m e) = if signedInt neg (roundInt mode neg m e).1 < ty.least then (ty.least, flagNV)
        else if ty.greatest < signedInt neg (roundInt mode neg m e).1 then (ty.greatest, flagNV)
        else (signedInt neg (roundInt mode neg m e).1, flagIf (roundInt mode neg m e).2 flagNX) := by
      rw [← intMin_eq, ← intMax_eq]
      rfl
    rw [run]
    split
    · exact ⟨rfl, rfl⟩
    split
    · exact ⟨rfl, rfl⟩
    · refine ⟨rfl, ?_⟩
      by_cases whole : ((roundInt mode neg m e).1 : ℚ) = m * 2 ^ e
      · have quiet : (roundInt mode neg m e).2 = false := by rw [← Bool.not_eq_true, inexact, not_not]; exact whole
        refine Eq.trans ?_ (if_pos (signedInt_eq_iff.2 whole)).symm
        simp [quiet, flagIf]
      · refine Eq.trans ?_ (if_neg fun h => whole (signedInt_eq_iff.1 h)).symm
        simp [inexact.2 whole, flagIf]

/-! ### Packed codes -/

theorem packCodes_lt {w : Nat} {cs : List Nat} (h : ∀ c ∈ cs, c < 2 ^ w) : packCodes w cs < 2 ^ (cs.length * w) := by
  induction cs with
  | nil => simp [packCodes]
  | cons c r ih =>
    have rest := ih fun c hc => h c (List.mem_cons_of_mem _ hc)
    have first := h c List.mem_cons_self
    rw [List.length_cons, Nat.add_mul, Nat.one_mul, Nat.add_comm, pow_add]
    unfold packCodes
    nlinarith

theorem packCodes_digit {w : Nat} {cs : List Nat} (h : ∀ c ∈ cs, c < 2 ^ w) {i : Nat} (hi : i < cs.length) :
    packCodes w cs / 2 ^ (w * i) % 2 ^ w = cs[i] := by
  induction cs generalizing i with
  | nil => simp at hi
  | cons c r ih =>
    have first := h c List.mem_cons_self
    unfold packCodes
    cases i with
    | zero => simp [Nat.mod_eq_of_lt first]
    | succ i =>
      rw [Nat.mul_succ, Nat.add_comm (w * i), pow_add, ← Nat.div_div_eq_div_mul, Nat.add_mul_div_left _ _ (Nat.two_pow_pos w),
        Nat.div_eq_of_lt first, Nat.zero_add]
      exact ih (fun c hc => h c (List.mem_cons_of_mem _ hc)) (Nat.lt_of_succ_lt_succ hi)

/-- Elements packed from codes that fit. -/
theorem packed_range {n w : Nat} {P : Nat → Nat × Word → Prop} {g : Nat → Nat × Word} (lt : ∀ i, (g i).1 < 2 ^ w) (hp : ∀ i, P i (g i)) :
    Packed n w P (packCodes w (((List.range n).map g).map fun r => r.1), ((List.range n).map g).foldl (fun a r => a ||| r.2) 0) := by
  have fits : ∀ c ∈ ((List.range n).map g).map (fun r => r.1), c < 2 ^ w := by simpa using fun i _ => lt i
  refine ⟨g, fun i _ => hp i, ?_, fun i hi => ?_, List.foldl_map⟩
  · simpa using packCodes_lt fits
  · refine (packCodes_digit fits (by simpa using hi)).trans ?_
    simp

/-! ### The instructions -/

section
variable {s : State} {k : Who} {f : ExtArgs}

theorem cvt_integers {sty : Ty} (code : Ty.ofCode (f.aux.extractLsb' 0 5) = some sty) (source : sty.isInt = true) (target : f.ty.isInt = true)
    (h : Ready (.cvt f) s k) : Computes (.cvt f) s k f.d f.ty.width fun l =>
      .write (f.ty.narrow (if f.md = 1 then max f.ty.least (min f.ty.greatest (k.num s l f.lit sty f.a)) else k.num s l f.lit sty f.a)) 0 := by
  refine computes_of h rfl rfl fun l => ?_
  unfold cvtLane
  simp only [code, Option.getD_some, source, target, if_true, intAt_eq, intOut, intMin_eq, intMax_eq, extendTo_ofInt]
  rfl

theorem cvt_rounds {sty : Ty} (code : Ty.ofCode (f.aux.extractLsb' 0 5) = some sty) (source : sty.isInt = true) (target : f.ty.isInt = false)
    (h : Ready (.cvt f) s k) (width : f.ty.width = .w32) : ComputesFloat (.cvt f) s k f.d fun l r =>
      RoundsExact (fmtOf f.ty) (k.mode l f.rm) (k.num s l f.lit sty f.a) false r := by
  refine ⟨fun l => putRes (fmtOf f.ty) (k.mode l f.rm) [] ((Num.ofInt (k.num s l f.lit sty f.a)).res, 0), ?_, fun l _ => ?_⟩
  · rw [← width]
    refine computes_of h rfl rfl fun l => ?_
    unfold cvtLane
    simp only [code, Option.getD_some, source, target, if_true, Bool.false_eq_true, if_false, intAt_eq]
    rfl
  · have value (n : Int) : dyadic (decide (n < 0)) n.natAbs 0 = n := by
      rw [dyadic_eq_signed, zpow_zero, mul_one, Nat.cast_natAbs]
      by_cases neg : n < 0
      · simp [signed, neg, abs_of_neg neg]
      · simp [signed, neg, abs_of_nonneg (not_lt.1 neg)]
    beta_reduce
    rw [putRes_fin (k.mode l f.rm) (by simp), ← value]
    exact roundsExact_put (fmtOf f.ty) (k.mode l f.rm) _ _ 0 fun zero => by simp [Int.natAbs_eq_zero.1 zero]

theorem cvt_toInteger {sty : Ty} (code : Ty.ofCode (f.aux.extractLsb' 0 5) = some sty) (source : sty.isInt = false) (target : f.ty.isInt = true)
    (h : Ready (.cvt f) s k) : ∃ (v : Nat → Int) (fl : Nat → Word),
      Computes (.cvt f) s k f.d f.ty.width (fun l => fpOut k.g.mode (f.ty.narrow (v l), fl l)) ∧
      ∀ l ∈ k.x.active, IntegerOf f.ty (k.mode l f.rm) (k.float s l f.lit sty f.a) (v l) (fl l) := by
  refine ⟨fun l => (toIntTy f.ty (k.mode l f.rm) (k.float s l f.lit sty f.a)).1, fun l => (toIntTy f.ty (k.mode l f.rm) (k.float s l f.lit sty f.a)).2,
    computes_of h rfl rfl fun l => ?_, fun l _ => integerOf_toIntTy ..⟩
  unfold cvtLane
  simp only [code, Option.getD_some, source, target, if_true, Bool.false_eq_true, if_false, intOut, extendTo_ofInt]
  rfl

theorem cvt_converts {sty : Ty} (code : Ty.ofCode (f.aux.extractLsb' 0 5) = some sty) (source : sty.isInt = false) (target : f.ty.isInt = false)
    (h : Ready (.cvt f) s k) (width : f.ty.width = .w32) : ComputesFloat (.cvt f) s k f.d fun l r =>
      ∃ fl, ConvertedTo (fmtOf f.ty) (k.mode l f.rm) (k.float s l f.lit sty f.a) (r.1, fl) ∧
        r.2 = fl ||| if (k.float s l f.lit sty f.a).isSig then flagNV else 0 := by
  refine ⟨fun l => putRes (fmtOf f.ty) (k.mode l f.rm) [k.float s l f.lit sty f.a] ((k.float s l f.lit sty f.a).res, 0), ?_, fun l _ =>
    ⟨_, convertedTo_put .., ?_⟩⟩
  · rw [← width]
    refine computes_of h rfl rfl fun l => ?_
    unfold cvtLane
    simp only [code, Option.getD_some, source, target, Bool.false_eq_true, if_false]
    rfl
  · simp only [putRes, sigNV_single, or_sigNV_self]

/-- An element of `CVTPK`'s sources. -/
def Who.element (k : Who) (s : State) (l : Nat) (f : ExtArgs) (i : Nat) : Num :=
  if f.ty = .f16 ∨ f.ty = .bf16 then k.float s l f.lit .f32 (if i = 0 then f.a else f.b)
  else fmtF32.read ((s.readOpd k.x l f.lit .w64 .f32 (if i < 2 then f.a else f.b)).toNat / 2 ^ (32 * (i % 2)) % 2 ^ 32)

/-- The scale byte of a `.q4` conversion. -/
def Who.scale (k : Who) (s : State) (l : Nat) (f : ExtArgs) : Nat := (k.src s l f.lit .n32 f.c).toNat % 256

/-- How many elements a packing instruction has. -/
def packCount (f : ExtArgs) : Nat := if f.ty = .f16 ∨ f.ty = .bf16 then 2 else 4

/-- An element's conversion in `CVTPK`. -/
def packElement (mode : RoundMode) (ty : Ty) (scale : Nat) (x : Num) : Nat × Word :=
  if ty = .q4 then ((q4Round mode scale x).1, (q4Round mode scale x).2 ||| sigNV [x])
  else (((fmtOf ty).put mode x.res).1, ((fmtOf ty).put mode x.res).2 ||| sigNV [x])

theorem numAt_f32_high (p : Quad) : numAt .f32 (p >>> 32) = fmtF32.read (p.toNat / 2 ^ 32 % 2 ^ 32) := by
  unfold numAt
  rw [BitVec.toNat_ushiftRight, Nat.shiftRight_eq_div_pow]
  rfl

theorem cvtpk_packs (h : Ready (.cvtpk f) s k) {P : Nat → Nat → Nat × Word → Prop}
    (lt : ∀ l i, (packElement (k.mode l f.rm) f.ty (k.scale s l f) (k.element s l f i)).1 < 2 ^ f.ty.bits)
    (hp : ∀ l i, P l i (packElement (k.mode l f.rm) f.ty (k.scale s l f) (k.element s l f i))) :
    ComputesFloat (.cvtpk f) s k f.d fun l => Packed (packCount f) f.ty.bits (P l) := by
  refine ⟨fun l => (packCodes f.ty.bits (((List.range (packCount f)).map fun i =>
      packElement (k.mode l f.rm) f.ty (k.scale s l f) (k.element s l f i)).map fun r => r.1),
    ((List.range (packCount f)).map fun i => packElement (k.mode l f.rm) f.ty (k.scale s l f) (k.element s l f i)).foldl (fun a r => a ||| r.2) 0),
    computes_of h rfl rfl fun l => ?_, fun l _ => packed_range (lt l) (hp l)⟩
  have elements : (if (decide (f.ty = .f16) || decide (f.ty = .bf16)) = true then [numAt .f32 (s.readOpd k.x l f.lit .w32 .f32 f.a)]
      else [numAt .f32 (s.readOpd k.x l f.lit .w64 .f32 f.a), numAt .f32 (s.readOpd k.x l f.lit .w64 .f32 f.a >>> 32)]) ++
      (if (decide (f.ty = .f16) || decide (f.ty = .bf16)) = true then [numAt .f32 (s.readOpd k.x l f.lit .w32 .f32 f.b)]
      else [numAt .f32 (s.readOpd k.x l f.lit .w64 .f32 f.b), numAt .f32 (s.readOpd k.x l f.lit .w64 .f32 f.b >>> 32)]) =
      (List.range (packCount f)).map (k.element s l f) := by
    simp only [Bool.or_eq_true, decide_eq_true_eq]
    unfold packCount Who.element
    split
    · rfl
    · simp only [numAt_f32_high]
      simp [List.range_succ, numAt, fmtOf, Ty.bits]
  have run : cvtpkLane f s k l = fpOut k.g.mode (BitVec.ofNat 128 (packCodes f.ty.bits ((((List.range (packCount f)).map (k.element s l f)).map
      (packElement (k.mode l f.rm) f.ty (k.scale s l f))).map fun r => r.1)),
      (((List.range (packCount f)).map (k.element s l f)).map (packElement (k.mode l f.rm) f.ty (k.scale s l f))).foldl (fun a r => a ||| r.2) 0) := by
    rw [← elements]
    rfl
  have map : ((List.range (packCount f)).map (k.element s l f)).map (packElement (k.mode l f.rm) f.ty (k.scale s l f)) =
      (List.range (packCount f)).map fun i => packElement (k.mode l f.rm) f.ty (k.scale s l f) (k.element s l f i) := List.map_map
  rw [run, map]

theorem q4Of_lt {mode : RoundMode} {scale : Nat} {x : Num} {r : Nat × Word} (h : Q4Of mode scale x r) : r.1 < 16 := by
  have code {c : Nat} {u : ℚ} (hu : q4NumberOf scale c = some u) : c < 16 := (q4NumberOf_eq.1 hu).1
  unfold Q4Of at h
  by_cases nan : x.isNan = true
  · rw [if_pos nan] at h
    rw [h]
    decide
  rw [if_neg nan] at h
  obtain ⟨-, -, near, extreme⟩ := h
  by_cases far : x.isInf = true ∨ r.2 &&& flagOF ≠ 0
  · obtain ⟨v, hv, -⟩ := extreme far
    exact code hv
  · rw [not_or, Bool.not_eq_true, not_not] at far
    obtain ⟨⟨v, hv, -⟩, -⟩ := near far.1 far.2
    exact code hv

theorem elementFmt_of_ty {ty : Ty} (h : [Ty.f16, .bf16, .e4m3, .e5m2, .e3m2, .e2m3].contains ty = true) :
    fmtOf ty ∈ elementFmts ∧ ty.bits = (fmtOf ty).e + (fmtOf ty).m + 1 ∧ ty ≠ .q4 := by
  rw [List.contains_iff_mem] at h
  simp only [List.mem_cons, List.not_mem_nil, or_false] at h
  rcases h with rfl | rfl | rfl | rfl | rfl | rfl <;> decide

theorem cvtpk_converts (ty : [Ty.f16, .bf16, .e4m3, .e5m2, .e3m2, .e2m3].contains f.ty = true) (h : Ready (.cvtpk f) s k) :
    ComputesFloat (.cvtpk f) s k f.d fun l => Packed (packCount f) f.ty.bits fun i r =>
      ConvertedTo (fmtOf f.ty) (k.mode l f.rm) (k.element s l f i) r := by
  obtain ⟨fmt, bits, other⟩ := elementFmt_of_ty ty
  refine cvtpk_packs h (fun l i => ?_) fun l i => ?_
  · rw [packElement, if_neg other, bits]
    exact Fmt.put_lt fmt ..
  · rw [packElement, if_neg other]
    simpa [putRes] using convertedTo_put (fmtOf f.ty) (k.mode l f.rm) (k.element s l f i)

theorem cvtpk_q4 (ty : f.ty = .q4) (h : Ready (.cvtpk f) s k) : ComputesFloat (.cvtpk f) s k f.d fun l =>
    Packed 4 4 fun i r => ∃ fl, Q4Of (k.mode l f.rm) (k.scale s l f) (k.element s l f i) (r.1, fl) ∧
      r.2 = fl ||| if (k.element s l f i).isSig then flagNV else 0 := by
  have count : packCount f = 4 := by simp [packCount, ty]
  have bits : f.ty.bits = 4 := by rw [ty]; rfl
  have packs := cvtpk_packs (f := f) h (P := fun l i r => ∃ fl, Q4Of (k.mode l f.rm) (k.scale s l f) (k.element s l f i) (r.1, fl) ∧
      r.2 = fl ||| if (k.element s l f i).isSig then flagNV else 0) (fun l i => ?_) fun l i => ?_
  · rwa [count, bits] at packs
  · rw [packElement, if_pos ty, bits]
    have lt := q4Of_lt (q4Round_spec (k.mode l f.rm) (k.scale s l f) (k.element s l f i))
    exact lt
  · rw [packElement, if_pos ty]
    exact ⟨(q4Round (k.mode l f.rm) (k.scale s l f) (k.element s l f i)).2, q4Round_spec .., congrArg (_ ||| ·) (sigNV_single _)⟩

/-- An element that `UNPK` gives. -/
def Who.unpacked (k : Who) (s : State) (l : Nat) (f : ExtArgs) (i : Nat) : Num :=
  let c := (k.src s l f.lit f.ty f.a).toNat / 2 ^ (f.ty.bits * i) % 2 ^ f.ty.bits
  if f.ty = .q4 then q4Num (k.scale s l f) c else (fmtOf f.ty).read c

theorem wordOf_packCodes {cs : List Nat} (lt : ∀ c ∈ cs, c < 2 ^ 32) {i : Nat} (hi : i < cs.length) (h4 : i < 4) :
    (wordOf (BitVec.ofNat 128 (packCodes 32 cs)) i).toNat = cs[i] := by
  unfold wordOf
  rw [BitVec.extractLsb'_toNat, BitVec.toNat_ofNat, Nat.shiftRight_eq_div_pow, ← packCodes_digit lt hi]
  have split : (2 : Nat) ^ 128 = 2 ^ (32 * i) * 2 ^ (128 - 32 * i) := by rw [← pow_add]; congr 1; omega
  rw [split, Nat.mod_mul_right_div_self, Nat.mod_mod_of_dvd]
  exact pow_dvd_pow _ (by omega)

theorem unpk_gives (h : Ready (.unpk f) s k) : ∃ (x : Nat → Quad) (fl : Nat → Word),
    Computes (.unpk f) s k f.d (if f.ty = .f16 ∨ f.ty = .bf16 then .w64 else .w128) (fun l => fpOut k.g.mode (x l, fl l)) ∧
    ∀ l ∈ k.x.active, ∀ i, i < packCount f →
      ∃ g, ConvertedTo fmtF32 .rne (k.unpacked s l f i) ((wordOf (x l) i).toNat, g) ∧ ((k.unpacked s l f i).isSig = true → fl l = flagNV) := by
  have width : (if (decide (f.ty = .f16) || decide (f.ty = .bf16)) = true then Width.w64 else .w128) =
      if f.ty = .f16 ∨ f.ty = .bf16 then .w64 else .w128 := by simp
  have count : (if (decide (f.ty = .f16) || decide (f.ty = .bf16)) = true then 2 else 4) = packCount f := by simp [packCount]
  refine ⟨fun l => BitVec.ofNat 128 (packCodes 32 (((List.range (packCount f)).map (k.unpacked s l f)).map fun x => (fmtF32.put .rne x.res).1)),
    fun l => sigNV ((List.range (packCount f)).map (k.unpacked s l f)), ?_, fun l _ i hi => ?_⟩
  · rw [← width]
    refine computes_of h rfl rfl fun l => ?_
    simp only [← count]
    rfl
  · have le : packCount f ≤ 4 := by unfold packCount; split <;> decide
    have word : (wordOf (BitVec.ofNat 128 (packCodes 32 (((List.range (packCount f)).map (k.unpacked s l f)).map
        fun x => (fmtF32.put .rne x.res).1))) i).toNat = (fmtF32.put .rne (k.unpacked s l f i).res).1 := by
      refine (wordOf_packCodes ?_ (by simpa using hi) (by omega)).trans (by simp)
      simp only [List.mem_map, forall_exists_index, and_imp]
      rintro c x j - - rfl
      exact Fmt.put_lt (f := fmtF32) (by decide) .rne x.res
    refine ⟨((fmtF32.put .rne (k.unpacked s l f i).res).2 ||| sigNV [k.unpacked s l f i]), ?_, fun sig => ?_⟩
    · rw [word]
      simpa [putRes] using convertedTo_put fmtF32 .rne (k.unpacked s l f i)
    · have any : ((List.range (packCount f)).map (k.unpacked s l f)).any Num.isSig = true :=
        List.any_eq_true.2 ⟨_, List.mem_map_of_mem (List.mem_range.2 hi), sig⟩
      exact congrArg (flagIf · flagNV) any

end

/-- Settles O18: what each conversion puts is the value rounded once to the format, or what 07 R144 gives for what the format lacks. -/
theorem conversions : Obligations.Conversions := by
  unfold Obligations.Conversions
  refine ⟨?integers, ?rounds, ?toInteger, ?converts, ?cvtpk, ?cvtpkQ4, ?unpk⟩
  case integers => exact fun f sty s k code source target h => cvt_integers code source target h
  case rounds => exact fun f sty s k code source target h width => cvt_rounds code source target h width
  case toInteger => exact fun f sty s k code source target h => cvt_toInteger code source target h
  case converts => exact fun f sty s k code source target h width => cvt_converts code source target h width
  case cvtpk => exact fun f s k _ ty h => cvtpk_converts ty h
  case cvtpkQ4 => exact fun f s k ty h => cvtpk_q4 ty h
  case unpk =>
    intro f s k _ h
    obtain ⟨x, fl, runs, gives⟩ := unpk_gives h
    refine ⟨x, fl, runs, fun l hl i hi => gives l hl i ?_⟩
    unfold packCount
    split
    · next half => exact (if_pos (α := Prop) half).mp hi
    · next half => exact (if_neg (α := Prop) half).mp hi

end Sys2Proof.Machine
end

section
/-! SUPPORT. Described blocks: scaling, heads and compression (21 R463; 19 R397, R424; 07 R148, R159), and O19. -/

-- One theorem at a time: many at once ask for more threads than the checker has memory for.
set_option Elab.async false

namespace Sys2Proof.Machine

/-! ### Scaling by a head (21 R463) -/

theorem Num.isSig_scale (x : Num) (n : Int) : (x.scale n).isSig = x.isSig := by cases x <;> rfl

/-- The code of a value in a head's format. -/
def HeadFmt.code (h : HeadFmt) (mode : RoundMode) (scale : Nat) (x : Num) : Nat × Word :=
  match h with
  | .q4 => q4Round mode scale x
  | .int8 => ((BitVec.ofInt 8 (toIntTy .i8 mode (x.scale (127 - (scale : Int)))).1).toNat, (toIntTy .i8 mode (x.scale (127 - (scale : Int)))).2)
  | .float g _ => g.put mode (x.scale (127 - (scale : Int))).res

/-- What `QSCL` puts when it encodes. -/
def HeadFmt.encode (h : HeadFmt) (mode : RoundMode) (scale : Nat) (x : Num) : Nat × Word :=
  if h.width = 8 ∧ scale = 255 then (0, flagNV) else ((h.code mode scale x).1, (h.code mode scale x).2 ||| sigNV [x])

/-- What `QSCL` puts when it decodes. -/
def HeadFmt.decode (h : HeadFmt) (mode : RoundMode) (scale a : Nat) : Nat × Word :=
  putRes fmtF32 mode [h.value scale a] ((h.value scale a).res, 0)

/-- What `QSCL` puts. -/
def qsclPut (md : BitVec 6) (mode : RoundMode) (h : Option HeadFmt) (scale : Nat) (x : Num) (a : Nat) : Nat × Word :=
  match h with
  | none => (0, flagNV)
  | some h => if md = 0 then h.encode mode scale x else h.decode mode scale a

theorem toIntTy_sig {ty : Ty} {mode : RoundMode} {x : Num} (h : x.isSig = true) : toIntTy ty mode x = (0, flagNV) := by
  cases x with
  | nan => rfl
  | _ => cases h

theorem encode_q4 (mode : RoundMode) (scale : Nat) (x : Num) : ∃ fl, Q4Of mode scale x ((HeadFmt.q4.encode mode scale x).1, fl) ∧
    (HeadFmt.q4.encode mode scale x).2 = fl ||| if x.isSig then flagNV else 0 := by
  have run : HeadFmt.q4.encode mode scale x = ((q4Round mode scale x).1, (q4Round mode scale x).2 ||| sigNV [x]) := if_neg (by simp [HeadFmt.width])
  rw [run, sigNV_single]
  exact ⟨_, q4Round_spec mode scale x, rfl⟩

theorem encode_int8 {scale : Nat} (s : scale ≠ 255) (mode : RoundMode) (x : Num) :
    ∃ v, IntegerOf .i8 mode (x.scale (127 - (scale : Int))) v (HeadFmt.int8.encode mode scale x).2 ∧
      (HeadFmt.int8.encode mode scale x).1 = (BitVec.ofInt 8 v).toNat := by
  have run : HeadFmt.int8.encode mode scale x = _ := if_neg fun h => s h.2
  rw [run]
  refine ⟨_, ?_, rfl⟩
  have flags : (HeadFmt.int8.code mode scale x).2 ||| sigNV [x] = (toIntTy .i8 mode (x.scale (127 - (scale : Int)))).2 := by
    rw [sigNV_single]
    cases sig : x.isSig with
    | false => exact BitVec.or_zero
    | true =>
      have nan : toIntTy .i8 mode (x.scale (127 - (scale : Int))) = (0, flagNV) := toIntTy_sig (by rw [Num.isSig_scale, sig])
      simp only [HeadFmt.code, nan]
      rfl
  rw [flags]
  exact integerOf_toIntTy ..

theorem encode_float {g : Fmt} {w scale : Nat} (s : ¬ (w = 8 ∧ scale = 255)) (mode : RoundMode) (x : Num) :
    ∃ fl, ConvertedTo g mode (x.scale (127 - (scale : Int))) (((HeadFmt.float g w).encode mode scale x).1, fl) ∧
      ((HeadFmt.float g w).encode mode scale x).2 = fl ||| if x.isSig then flagNV else 0 := by
  have run : (HeadFmt.float g w).encode mode scale x = _ := if_neg s
  rw [run]
  refine ⟨_, convertedTo_put g mode (x.scale (127 - (scale : Int))), ?_⟩
  show (g.put mode (x.scale (127 - (scale : Int))).res).2 ||| sigNV [x] =
    (g.put mode (x.scale (127 - (scale : Int))).res).2 ||| 0 ||| sigNV [x.scale (127 - (scale : Int))] ||| _
  have zero (v : Word) : v ||| 0 = v := BitVec.or_zero
  rw [sigNV_single, sigNV_single, Num.isSig_scale, zero, or_sigNV_self]

theorem decode_converts (h : HeadFmt) (mode : RoundMode) (scale a : Nat) :
    ConvertedTo fmtF32 mode (h.value scale a) (h.decode mode scale a) := convertedTo_put ..

theorem decode_nan {h : HeadFmt} {scale a : Nat} (nan : h.value scale a = .nan false) (mode : RoundMode) :
    h.decode mode scale a = (fmtF32.nanCode, 0) := by
  unfold HeadFmt.decode
  rw [nan]
  exact (putRes_nan rfl ..).trans (by simp [sigNV, flagIf, Num.isSig])

/-! ### The least scale (19 R424) -/

/-- The least of the exponents at which a magnitude is held, or the last. -/
theorem leastScale_spec (n e L : Nat) (m : Num) (bias : Int) : e ≤ leastScale n e m L bias ∧ leastScale n e m L bias ≤ e + n ∧
    (∀ i, e ≤ i → i < leastScale n e m L bias → (Num.fin false L ((i : Int) - bias)).lt m = true) ∧
    (leastScale n e m L bias = e + n ∨ (Num.fin false L ((leastScale n e m L bias : Int) - bias)).lt m = false) := by
  induction n generalizing e with
  | zero => exact ⟨le_refl _, le_refl _, fun i lo hi => absurd hi (not_lt.2 lo), .inl rfl⟩
  | succ n ih =>
    unfold leastScale
    split
    · next small =>
      obtain ⟨lo, hi, all, last⟩ := ih (e + 1)
      refine ⟨by omega, by omega, fun i le lt => ?_, last.imp_left fun h => by omega⟩
      rcases Nat.eq_or_lt_of_le le with rfl | more
      · exact small
      · exact all i more lt
    · next held => exact ⟨le_refl _, by omega, fun i lo hi => absurd hi (not_lt.2 lo), .inr (by simpa using held)⟩

/-- A scale that is the least one for a magnitude. -/
def LeastScale (m : Num) (levels bias none largest n : Nat) : Prop :=
  n ≤ levels ∧ (if m.isNan then n = none else if m.isZero then n = bias
    else (∀ i, i < n → (Num.fin false largest ((i : Int) - bias)).Below m) ∧
      (n = levels ∨ ¬ (Num.fin false largest ((n : Int) - bias)).Below m))

theorem leastScale_least {m : Num} {levels bias none largest n : Nat} (nan : m.isNan = true → n = none ∧ none ≤ levels)
    (zero : m.isZero = true → n = bias ∧ bias ≤ levels) (other : m.isNan = false → m.isZero = false → n = leastScale levels 0 m largest bias) :
    LeastScale m levels bias none largest n := by
  unfold LeastScale
  cases hn : m.isNan with
  | true => exact ⟨(nan hn).1 ▸ (nan hn).2, (nan hn).1⟩
  | false =>
    cases hz : m.isZero with
    | true => exact ⟨(zero hz).1 ▸ (zero hz).2, (zero hz).1⟩
    | false =>
      obtain ⟨-, hi, all, last⟩ := leastScale_spec levels 0 largest m bias
      rw [Nat.zero_add] at hi last
      rw [← other hn hz] at hi all last
      have below (i : Nat) : (Num.fin false largest ((i : Int) - bias)).lt m = true ↔ (Num.fin false largest ((i : Int) - bias)).Below m :=
        Num.lt_iff_below rfl hn
      refine ⟨hi, fun i lt => (below i).1 (all i (Nat.zero_le _) lt), last.imp_right fun h b => ?_⟩
      rw [(below n).2 b] at h
      cases h

/-! ### The order of magnitudes (07 R159) -/

/-- A value's place in the order of magnitudes. -/
def Num.rank : Num → WithTop (WithTop ℚ)
  | .nan _ => ⊤
  | .inf _ => ((⊤ : WithTop ℚ) : WithTop (WithTop ℚ))
  | .fin n m e => ((|dyadic n m e| : ℚ) : WithTop ℚ)

theorem Num.outranks_iff {x y : Num} : x.Outranks y ↔ y.rank < x.rank := by
  cases x <;> cases y <;> simp [Num.Outranks, Num.rank, Num.rat]

theorem magLess_iff {x y : Num} : magLess x y = true ↔ x.rank < y.rank := by
  cases x with
  | nan => cases y <;> simp [magLess, Num.rank]
  | inf => cases y <;> simp [magLess, Num.rank]
  | fin n m e => cases y with
    | nan => simp [magLess, Num.rank]
    | inf => simp [magLess, Num.rank]
    | fin n' m' e' =>
      have below : (Num.fin false m e).lt (.fin false m' e') = true ↔ dyadic false m e < dyadic false m' e' := Num.lt_iff_below rfl rfl
      have mag (n : Bool) (m : Nat) (e : Int) : |dyadic n m e| = dyadic false m e := by
        rw [dyadic_eq_signed, dyadic_eq_signed, abs_signed]
        exact abs_of_nonneg (by positivity)
      simp only [magLess, Num.rank, mag]
      rw [below]
      simp

/-- One step of the search for the largest. -/
def largerOf (b : Option (Nat × Num)) (x : Nat × Num) : Option (Nat × Num) :=
  match b with
  | none => some x
  | some y => if magLess y.2 x.2 then some x else some y

/-- An element that no other outranks, and that all before it are below. -/
def Leads (r : Nat × Num) (xs : List (Nat × Num)) : Prop :=
  r ∈ xs ∧ ∀ z ∈ xs, z.2.rank ≤ r.2.rank ∧ (z.1 < r.1 → z.2.rank < r.2.rank)

theorem foldl_largerOf {b : Nat × Num} {xs : List (Nat × Num)} (sorted : (b :: xs).Pairwise fun x y => x.1 < y.1) :
    ∃ r, xs.foldl largerOf (some b) = some r ∧ Leads r (b :: xs) := by
  induction xs generalizing b with
  | nil => exact ⟨b, rfl, by simp, fun z hz => by simp at hz; subst hz; exact ⟨le_refl _, fun h => absurd h (lt_irrefl _)⟩⟩
  | cons x xs ih =>
    obtain ⟨first, tail⟩ := List.pairwise_cons.1 sorted
    rw [List.foldl_cons]
    by_cases larger : b.2.rank < x.2.rank
    · have step : largerOf (some b) x = some x := if_pos (magLess_iff.2 larger)
      obtain ⟨r, run, mem, all⟩ := ih tail
      refine ⟨r, by rw [step]; exact run, List.mem_cons_of_mem _ mem, fun z hz => ?_⟩
      rcases List.mem_cons.1 hz with rfl | hz
      · have up := larger.trans_le (all x List.mem_cons_self).1
        exact ⟨up.le, fun _ => up⟩
      · exact all z hz
    · have step : largerOf (some b) x = some b := if_neg fun h => larger (magLess_iff.1 h)
      have low := not_lt.1 larger
      have sorted' : (b :: xs).Pairwise fun x y => x.1 < y.1 :=
        List.pairwise_cons.2 ⟨fun z hz => first z (List.mem_cons_of_mem _ hz), (List.pairwise_cons.1 tail).2⟩
      obtain ⟨r, run, mem, all⟩ := ih sorted'
      refine ⟨r, by rw [step]; exact run, ?_, fun z hz => ?_⟩
      · rcases List.mem_cons.1 mem with rfl | mem
        · exact List.mem_cons_self
        · exact List.mem_cons_of_mem _ (List.mem_cons_of_mem _ mem)
      rcases List.mem_cons.1 hz with rfl | hz
      · exact all z List.mem_cons_self
      rcases List.mem_cons.1 hz with rfl | hz
      · have hb := all b List.mem_cons_self
        refine ⟨low.trans hb.1, fun lt => low.trans_lt (hb.2 ?_)⟩
        exact (first z List.mem_cons_self).trans lt
      · exact all z (List.mem_cons_of_mem _ hz)

/-- The index of the largest. -/
theorem largestIdx_spec {xs : List (Nat × Num)} (some : xs ≠ []) (sorted : xs.Pairwise fun x y => x.1 < y.1) :
    ∃ r, (largestIdx xs).getD 0 = r.1 ∧ Leads r xs := by
  cases xs with
  | nil => exact absurd rfl some
  | cons b xs =>
    obtain ⟨r, run, leads⟩ := foldl_largerOf sorted
    have search : largestIdx (b :: xs) = (xs.foldl largerOf (Option.some b)).map Prod.fst := rfl
    exact ⟨r, by rw [search, run]; rfl, leads⟩

/-- The element kept at an index comes before the one at another. -/
def KeptOver (v : Nat → Num) (c i : Nat) : Prop := (v c).Outranks (v i) ∨ (¬ (v i).Outranks (v c) ∧ c < i)

theorem keptOver_of_leads {v : Nat → Num} {xs : List (Nat × Num)} {c i : Nat} (leads : Leads (c, v c) xs) (mem : (i, v i) ∈ xs) (ne : i ≠ c) :
    KeptOver v c i := by
  obtain ⟨le, lt⟩ := leads.2 _ mem
  rcases Nat.lt_or_gt_of_ne ne with h | h
  · exact .inl (Num.outranks_iff.2 (lt h))
  · exact .inr ⟨fun up => absurd (Num.outranks_iff.1 up) (not_lt.2 le), h⟩

/-- Of four elements the two kept come before the others. -/
theorem keepTwo_spec (v : Nat → Num) : ∃ p q, keepTwo ((List.range 4).map v) = (p, q) ∧ p < q ∧ q < 4 ∧
    ∀ i, i < 4 → i ≠ p → i ≠ q → ∀ c, (c = p ∨ c = q) → KeptOver v c i := by
  have listed : (((List.range 4).map v).zipIdx.map fun e => (e.2, e.1)) = (List.range 4).map fun i => (i, v i) := rfl
  set es := (List.range 4).map fun i => (i, v i) with hes
  have sorted : es.Pairwise fun x y => x.1 < y.1 := by
    rw [hes, List.pairwise_map]
    exact List.pairwise_lt_range
  have value {r : Nat × Num} (h : r ∈ es) : r.1 < 4 ∧ r = (r.1, v r.1) := by
    obtain ⟨i, hi, rfl⟩ := List.mem_map.1 h
    exact ⟨List.mem_range.1 hi, rfl⟩
  have mem {i : Nat} (h : i < 4) : (i, v i) ∈ es := List.mem_map.2 ⟨i, List.mem_range.2 h, rfl⟩
  obtain ⟨r, hr, leads⟩ := largestIdx_spec (List.ne_nil_of_mem (mem (i := 0) (by decide))) sorted
  obtain ⟨r4, req⟩ := value leads.1
  have other : ∃ j, j < 4 ∧ j ≠ r.1 := by
    by_cases z : r.1 = 0
    · exact ⟨1, by decide, by omega⟩
    · exact ⟨0, by decide, fun h => z h.symm⟩
  obtain ⟨j, j4, jr⟩ := other
  have filtered {i : Nat} (h : i < 4) (ne : i ≠ r.1) : (i, v i) ∈ es.filter fun e => e.1 ≠ r.1 :=
    List.mem_filter.2 ⟨mem h, by simpa using ne⟩
  obtain ⟨t, ht, second⟩ := largestIdx_spec (List.ne_nil_of_mem (filtered j4 jr)) (sorted.filter _)
  obtain ⟨tmem, tne⟩ := List.mem_filter.1 second.1
  obtain ⟨t4, teq⟩ := value tmem
  have ne : t.1 ≠ r.1 := by simpa using tne
  have run : keepTwo ((List.range 4).map v) = (min r.1 t.1, max r.1 t.1) := by
    unfold keepTwo
    simp only [listed, hr, ht]
  have kept (i : Nat) (h : i < 4) (ir : i ≠ r.1) (it : i ≠ t.1) (c : Nat) (hc : c = r.1 ∨ c = t.1) : KeptOver v c i := by
    rcases hc with rfl | rfl
    · exact keptOver_of_leads (req ▸ leads) (mem h) ir
    · exact keptOver_of_leads (teq ▸ second) (filtered h ir) it
  refine ⟨_, _, run, ?_, ?_, fun i h ip iq c hc => kept i h ?_ ?_ c ?_⟩ <;> omega

/-! ### The instructions -/

section
variable {s : State} {k : Who} {f : ExtArgs}

/-- A head in B. -/
def Who.head (k : Who) (s : State) (l : Nat) (f : ExtArgs) : Nat := (k.src s l f.lit .n32 f.b).toNat

theorem qscl_computes (h : Ready (.qscl f) s k) : Computes (.qscl f) s k f.d .w32 fun l => fpOut k.g.mode
    (BitVec.ofNat 128 (qsclPut f.md (k.mode l f.rm) (headFmt (k.head s l f % 256)) (k.head s l f / 256 % 256) (k.float s l f.lit .f32 f.a)
      (k.src s l f.lit .n32 f.a).toNat).1,
    (qsclPut f.md (k.mode l f.rm) (headFmt (k.head s l f % 256)) (k.head s l f / 256 % 256) (k.float s l f.lit .f32 f.a)
      (k.src s l f.lit .n32 f.a).toNat).2) := by
  refine computes_of h rfl rfl fun l => ?_
  unfold qsclLane
  simp only
  change (match headFmt (k.head s l f % 256) with
    | none => _
    | some h => _) = _
  cases headFmt (k.head s l f % 256) with
  | none => rfl
  | some hf =>
    unfold qsclPut
    by_cases md : f.md = 0
    · simp only [md, if_true]
      unfold HeadFmt.encode
      by_cases raw : hf.width = 8 ∧ k.head s l f / 256 % 256 = 255
      · rw [if_pos raw]
        exact if_pos (by rw [Bool.and_eq_true, decide_eq_true_eq, decide_eq_true_eq]; exact raw)
      · rw [if_neg raw]
        refine (if_neg (by rw [Bool.and_eq_true, decide_eq_true_eq, decide_eq_true_eq]; exact raw)).trans ?_
        cases hf <;> rfl
    · simp only [md, if_false]
      rfl


theorem hdmk_joins (md : f.md = 1) (h : Ready (.hdmk f) s k) : ComputesBits (.hdmk f) s k f.d .w32 fun l j =>
    decide (j < 32) && if j < 16 then (k.src s l f.lit .n32 f.a).getLsbD j else (k.src s l f.lit .n32 f.b).getLsbD (j - 16) := by
  refine ⟨fun l => BitVec.ofNat 128 ((k.src s l f.lit .n32 f.a).toNat % 2 ^ 16 + 2 ^ 16 * ((k.src s l f.lit .n32 f.b).toNat % 2 ^ 16)),
    computes_of h rfl rfl fun l => if_pos md, fun l j hj => ?_⟩
  rw [BitVec.getLsbD_ofNat, Nat.add_comm, Nat.testBit_two_pow_mul_add _ (Nat.mod_lt _ (by decide))]
  simp only [Nat.testBit_mod_two_pow, hj, decide_true, Bool.true_and, BitVec.getLsbD]
  split
  · next low => simp [show j < 32 by omega, low]
  · next high =>
    by_cases h32 : j < 32
    · simp [h32, show j - 16 < 16 by omega]
    · simp [h32, show ¬ j - 16 < 16 by omega]

/-- The magnitude of a value. -/
def Num.magnitude (x : Num) : Num :=
  match x with
  | .inf _ => .inf false
  | .fin _ m e => .fin false m e
  | x => x

/-- The scale byte of a made head. -/
def Who.madeScale (k : Who) (s : State) (l : Nat) (f : ExtArgs) : Nat :=
  makeScale f.ty (if f.ty = .q4 then k.head s l f % 4 else 0) (k.float s l f.lit .f32 f.a).magnitude

theorem hdmk_makes (md : f.md = 0) (h : Ready (.hdmk f) s k) :
    Computes (.hdmk f) s k f.d .w32 fun l => .write (BitVec.ofNat 128 (headByte f.ty + 256 * k.madeScale s l f)) 0 :=
  computes_of h rfl rfl fun l => if_neg (by rw [md]; decide)

/-- The places that a scale byte of eight bits has for a magnitude. -/
theorem makeScale_wide (m : Num) (L : Nat) :
    LeastScale m 254 127 255 L (if m.isNan then 255 else if m.isZero then 127 else leastScale 254 0 m L 127) ∨
      (m.isNan = true ∧ (if m.isNan then 255 else if m.isZero then 127 else leastScale 254 0 m L 127) = 255) := by
  cases nan : m.isNan with
  | true => exact .inr ⟨rfl, rfl⟩
  | false =>
    exact .inl (leastScale_least (fun h => absurd h (by simp [nan])) (fun z => ⟨by simp [z], by decide⟩) fun _ z => by simp [z])

theorem makeScale_q4 {q : Nat} (q4 : q < 4) (m : Num) : makeScale .q4 q m / 64 = q ∧
    LeastScale m 63 32 32 (if q = 0 then 7 else if q = 1 then 6 else if q = 2 then 8 else 12) (makeScale .q4 q m % 64) := by
  have run : makeScale .q4 q m = (if m.isNan || m.isZero then 32 else
      leastScale 63 0 m (if q = 0 then 7 else if q = 1 then 6 else if q = 2 then 8 else 12) 32) + 64 * q := by
    match q, q4 with
    | 0, _ => rfl
    | 1, _ => rfl
    | 2, _ => rfl
    | 3, _ => rfl
  rw [run]
  generalize (if q = 0 then 7 else if q = 1 then 6 else if q = 2 then 8 else 12) = L
  have bound := (leastScale_spec 63 0 L m 32).2.1
  have small : (if m.isNan || m.isZero then 32 else leastScale 63 0 m L 32) < 64 := by split <;> omega
  refine ⟨by omega, ?_⟩
  rw [Nat.add_mul_mod_self_left, Nat.mod_eq_of_lt small]
  exact leastScale_least (fun n => ⟨by simp [n], by decide⟩) (fun z => ⟨by simp [z], by decide⟩) fun n z => by simp [n, z]

/-- The four codes that `CMPRS` chooses from. -/
def Who.blockCode (k : Who) (s : State) (l : Nat) (f : ExtArgs) (i : Nat) : Nat :=
  (s.readOpd k.x l f.lit (if f.ty.bits = 32 then .w128 else if f.ty.bits = 16 then .w64 else .w32) f.ty.imm f.a).toNat / 2 ^ (f.ty.bits * i) %
    2 ^ f.ty.bits

/-- Their values. -/
def Who.blockValue (k : Who) (s : State) (l : Nat) (f : ExtArgs) (i : Nat) : Num :=
  if f.ty = .q4 then q4Num (k.head s l f % 256) (k.blockCode s l f i) else (fmtOf f.ty).read (k.blockCode s l f i)

/-- The two kept. -/
def Who.keeps (k : Who) (s : State) (l : Nat) (f : ExtArgs) : Nat × Nat := keepTwo ((List.range 4).map (k.blockValue s l f))

theorem cmprs_computes (h : Ready (.cmprs f) s k) : Computes (.cmprs f) s k f.d (if f.ty = .f32 ∧ f.md = 0 then .w64 else .w32) fun l =>
    .write (BitVec.ofNat 128 (if f.md = 1 then (k.keeps s l f).1 + 4 * (k.keeps s l f).2
      else k.blockCode s l f (k.keeps s l f).1 + 2 ^ f.ty.bits * k.blockCode s l f (k.keeps s l f).2)) 0 := by
  have width : (if (decide (f.ty = .f32) && decide (f.md = 0)) = true then Width.w64 else .w32) = if f.ty = .f32 ∧ f.md = 0 then .w64 else .w32 := by simp
  rw [← width]
  refine computes_of h rfl rfl fun l => ?_
  obtain ⟨p, q, run, lt, q4, -⟩ := keepTwo_spec (k.blockValue s l f)
  have keeps : k.keeps s l f = (p, q) := run
  have values : ((List.range 4).map (k.blockCode s l f)).map (fun c => if f.ty = .q4 then
      q4Num (if f.ty = .q4 then k.head s l f % 256 else 0) c else (fmtOf f.ty).read c) = (List.range 4).map (k.blockValue s l f) := by
    rw [List.map_map]
    refine List.map_congr_left fun i _ => ?_
    simp only [Function.comp, Who.blockValue]
    split <;> rfl
  have code {i : Nat} (h : i < 4) : ((List.range 4).map (k.blockCode s l f)).getD i 0 = k.blockCode s l f i := by
    rw [List.getD_eq_getElem _ _ (by simpa using h)]
    simp
  unfold cmprsLane
  simp only
  change (match keepTwo (((List.range 4).map (k.blockCode s l f)).map (fun c => if f.ty = .q4 then
      q4Num (if f.ty = .q4 then k.head s l f % 256 else 0) c else (fmtOf f.ty).read c)) with
    | (i, j) => if f.md = 1 then LaneOut.write (BitVec.ofNat 128 (i + 4 * j)) 0 else LaneOut.write (BitVec.ofNat 128 (((List.range 4).map (k.blockCode s l f)).getD i 0 +
        2 ^ f.ty.bits * ((List.range 4).map (k.blockCode s l f)).getD j 0)) 0) = _
  rw [values, run, keeps]
  simp only [code q4, code (lt.trans q4)]
  split <;> rfl

end

/-- What `QSCL` gives by the head's format. -/
def QsclOf (md : BitVec 6) (mode : RoundMode) (h : Option HeadFmt) (scale : Nat) (x : Num) (a : Nat) (r : Nat × Word) : Prop :=
  match h with
  | none => r = (0, flagNV)
  | some .q4 =>
    if md = 0 then ∃ fl, Q4Of mode scale x (r.1, fl) ∧ r.2 = fl ||| if x.isSig then flagNV else 0
    else ConvertedTo fmtF32 mode (q4Num scale a) r
  | some .int8 =>
    if md = 0 then
      if scale = 255 then r = (0, flagNV)
      else ∃ v, IntegerOf .i8 mode (x.scale (127 - (scale : Int))) v r.2 ∧ r.1 = (BitVec.ofInt 8 v).toNat
    else if scale = 255 then r = (fmtF32.nanCode, 0)
    else ConvertedTo fmtF32 mode ((Num.ofInt (Ty.value .i8 (BitVec.ofNat 128 a))).scale ((scale : Int) - 127)) r
  | some (.float g w) =>
    if md = 0 then
      if w = 8 ∧ scale = 255 then r = (0, flagNV)
      else ∃ fl, ConvertedTo g mode (x.scale (127 - (scale : Int))) (r.1, fl) ∧ r.2 = fl ||| if x.isSig then flagNV else 0
    else if w = 8 ∧ scale = 255 then r = (fmtF32.nanCode, 0)
    else ConvertedTo fmtF32 mode ((g.read (a % 2 ^ w)).scale ((scale : Int) - 127)) r

theorem qsclOf_put (md : BitVec 6) (mode : RoundMode) (h : Option HeadFmt) (scale : Nat) (x : Num) {a : Nat} (small : a < 2 ^ 128) :
    QsclOf md mode h scale x a (qsclPut md mode h scale x a) := by
  unfold QsclOf qsclPut
  cases h with
  | none => rfl
  | some h =>
    simp only
    by_cases encodes : md = 0
    · rw [if_pos encodes]
      cases h with
      | q4 => exact (if_pos (α := Prop) encodes).mpr (encode_q4 mode scale x)
      | int8 =>
        refine (if_pos (α := Prop) encodes).mpr ?_
        split
        · next raw => exact if_pos ⟨rfl, raw⟩
        · next s => exact encode_int8 s mode x
      | float g w =>
        refine (if_pos (α := Prop) encodes).mpr ?_
        split
        · next raw => exact if_pos raw
        · next s => exact encode_float s mode x
    · rw [if_neg encodes]
      cases h with
      | q4 => exact (if_neg (α := Prop) encodes).mpr (decode_converts .q4 mode scale a)
      | int8 =>
        refine (if_neg (α := Prop) encodes).mpr ?_
        split
        · next raw => exact decode_nan (h := .int8) (if_pos raw) mode
        · next s =>
          have value : HeadFmt.int8.value scale a = (Num.ofInt (Ty.value .i8 (BitVec.ofNat 128 a))).scale ((scale : Int) - 127) := by
            rw [← intAt_eq, BitVec.toNat_ofNat, Nat.mod_eq_of_lt small]
            exact if_neg s
          exact value ▸ decode_converts ..
      | float g w =>
        refine (if_neg (α := Prop) encodes).mpr ?_
        split
        · next raw => exact decode_nan (h := .float g w) (if_pos (by simpa using raw)) mode
        · next s =>
          have value : (HeadFmt.float g w).value scale a = (g.read (a % 2 ^ w)).scale ((scale : Int) - 127) := if_neg (by simpa using s)
          exact value ▸ decode_converts ..

/-- Settles O19: a head's scale is searched upward from 0, and of four elements the two kept lead the others in the order of magnitudes. -/
theorem blockFormats : Obligations.BlockFormats := by
  unfold Obligations.BlockFormats
  refine ⟨?qscl, ?joins, ?makes, ?cmprs⟩
  case qscl =>
    refine fun f s k h => ⟨_, qscl_computes h, fun l _ => ?_⟩
    exact qsclOf_put f.md (k.mode l f.rm) _ _ _ (BitVec.isLt _)
  case joins => exact fun f s k md h => hdmk_joins md h
  case makes =>
    refine fun f s k md ty h => ⟨_, hdmk_makes md h, fun l _ => ?_⟩
    rw [List.contains_iff_mem] at ty
    simp only [List.mem_cons, List.not_mem_nil, or_false] at ty
    unfold Who.madeScale
    generalize f.ty = t at ty ⊢
    rcases ty with rfl | rfl | rfl | rfl | rfl | rfl | rfl
    · exact makeScale_wide (k.float s l f.lit .f32 f.a).magnitude 127
    · exact makeScale_wide (k.float s l f.lit .f32 f.a).magnitude 448
    · exact makeScale_wide (k.float s l f.lit .f32 f.a).magnitude 57344
    · exact makeScale_q4 (Nat.mod_lt _ (by decide)) (k.float s l f.lit .f32 f.a).magnitude
    all_goals rfl
  case cmprs =>
    refine fun f s k _ h => ⟨fun l => (k.keeps s l f).1, fun l => (k.keeps s l f).2, cmprs_computes h, fun l _ => ?_⟩
    obtain ⟨p, q, run, lt, q4, kept⟩ := keepTwo_spec (k.blockValue s l f)
    have keeps : k.keeps s l f = (p, q) := run
    beta_reduce
    rw [keeps]
    exact ⟨lt, q4, kept⟩

end Sys2Proof.Machine
end

section
/-! SUPPORT. What the return of a load leaves, and O25 (04 R78; 20 R435; 15 R322; 09 R192, R194). -/

-- One theorem at a time: many at once ask for more threads than the checker has memory for.
set_option Elab.async false

namespace Sys2Proof.Machine

variable {v c k h : Nat}

/-! ### The host-line caches, seen through one observer -/

/-- The copies of host lines, and what chooses the cache that a chip uses. -/
def State.hostView (s : State) : Bool × (Nat → Table HostSt) × (Nat → List Nat × Bool) :=
  (s.mf4, fun c => (s.chip c).hostLines, fun c => ((s.repl c).members, (s.repl c).out))

theorem State.cxlRank_of_hostView {s t : State} (hv : t.hostView = s.hostView) (c : Nat) : t.cxlRank c = s.cxlRank c := by
  have mf : t.mf4 = s.mf4 := congrArg Prod.fst hv
  have members (c : Nat) : (t.repl c).members = (s.repl c).members := congrArg (fun o => (o.2.2 c).1) hv
  have out (c : Nat) : (t.repl c).out = (s.repl c).out := congrArg (fun o => (o.2.2 c).2) hv
  simp only [State.cxlRank, State.inView, State.lowRank, State.chipExists, mf, members, out]

theorem State.hostSt_of_hostView {s t : State} (hv : t.hostView = s.hostView) (c n : Nat) : t.hostSt c n = s.hostSt c n :=
  congrArg (fun o : Bool × (Nat → Table HostSt) × (Nat → List Nat × Bool) => Table.look (o.2.1 c) n) hv

theorem State.cached_of_hostView {s t : State} (hv : t.hostView = s.hostView) (c : Nat) (bs : List Nat) : t.cached c bs = s.cached c bs := by
  simp only [State.cached, State.hostCache, State.cxlRank_of_hostView hv, State.hostSt_of_hostView hv]

@[simp] theorem State.hostView_modChip {s : State} {i : Nat} {f : Chip → Chip}
    (hf : ∀ x, (f x).hostLines = x.hostLines ∧ (f x).repl.members = x.repl.members ∧ (f x).repl.out = x.repl.out) :
    (s.modChip i f).hostView = s.hostView := by
  refine Prod.ext rfl (Prod.ext (funext fun d => ?_) (funext fun d => ?_))
  · simp only [State.hostView, State.chip_modChip]
    split
    · next e => rw [(hf _).1, e]
    · rfl
  · simp only [State.hostView, State.repl, State.chip_modChip]
    split
    · next e => rw [(hf _).2.1, (hf _).2.2, e]
    · rfl

@[simp] theorem State.hostView_modRepl {s : State} {i : Nat} {f : Repl → Repl}
    (hf : ∀ x, (f x).members = x.members ∧ (f x).out = x.out) : (s.modRepl i f).hostView = s.hostView :=
  State.hostView_modChip fun _ => ⟨rfl, hf _⟩

@[simp] theorem State.hostView_modWave (s : State) (i : Nat) (f : Wave → Wave) : (s.modWave i f).hostView = s.hostView := rfl
@[simp] theorem State.hostView_modCore (s : State) (i : Nat) (f : Core → Core) : (s.modCore i f).hostView = s.hostView := rfl
@[simp] theorem State.hostView_modCluster (s : State) (i : Nat) (f : Cluster → Cluster) : (s.modCluster i f).hostView = s.hostView := rfl
@[simp] theorem State.hostView_post (s : State) (e : Event) : (s.post e).hostView = s.hostView := rfl
@[simp] theorem State.hostView_note (s : State) (i n : Nat) (as : List Nat) : (s.note i n as).hostView = s.hostView :=
  State.hostView_modChip fun _ => ⟨rfl, rfl, rfl⟩

theorem State.hostRead_cached {s : State} {c n : Nat} (here : (s.hostSt (s.hostCache c) n).isSome = true) : s.hostRead c n = s := by
  obtain ⟨v, hv⟩ := Option.isSome_iff_exists.1 here
  have hv : Table.look (s.chip (s.hostCache c)).hostLines n = some v := hv
  unfold State.hostRead
  simp only [hv]

/-- Host lines that are cached are read where they are. -/
theorem State.hostReads_cached {s : State} {c : Nat} (bs : List Nat) (host : ∀ b ∈ bs, isHostAddr (b * 64) = true) (cached : s.cached c bs = true) :
    bs.foldl (fun s b => s.hostRead c b) s = s := by
  induction bs with
  | nil => rfl
  | cons b r ih =>
    unfold State.cached at cached
    rw [List.all_cons, Bool.and_eq_true] at cached
    obtain ⟨first, rest⟩ := cached
    rw [host b List.mem_cons_self, Bool.not_true, Bool.false_or] at first
    rw [List.foldl_cons, State.hostRead_cached first]
    exact ih (fun b hb => host b (List.mem_cons_of_mem _ hb)) rest

theorem isHostAddr_block {a : Nat} (host : isHostAddr a = true) : isHostAddr (a / 64 * 64) = true := by
  unfold isHostAddr at *
  rw [decide_eq_true_eq] at *
  have : hostBit = 2 ^ 41 * 64 := by unfold hostBit; norm_num
  omega

theorem hostBlocks_host {bs : List ByteSrc} {b : Nat} (mem : b ∈ hostBlocks bs) : isHostAddr (b * 64) = true := by
  unfold hostBlocks at mem
  rw [List.mem_eraseDups, List.mem_filterMap] at mem
  obtain ⟨x, -, hx⟩ := mem
  cases x with
  | phys a buf =>
    simp only at hx
    split at hx
    · next host =>
      cases hx
      exact isHostAddr_block host
    · cases hx
  | _ => cases hx

/-! ### What the return leaves -/

theorem Wave.kept_of_threads {s : State} {i : Nat} {f : Wave → Wave} (hf : ∀ x, (f x).threads = x.threads) :
    (s.modWave i f).kept v c k h = s.kept v c k h := State.kept_modWave fun x => by simp [Wave.datas, hf]

/-- Where a wave is. -/
def State.place (s : State) (w : Nat) : Option Nat × Table Workgroup := ((s.wave? w).map Wave.wg, s.wgs)

theorem State.coreOf_of_place {s t : State} {w : Nat} (hp : t.place w = s.place w) : t.coreOf w = s.coreOf w := by
  have wave : (t.wave? w).map Wave.wg = (s.wave? w).map Wave.wg := congrArg Prod.fst hp
  have wgs (g : Nat) : t.wg? g = s.wg? g := congrArg (fun o : Option Nat × Table Workgroup => Table.look o.2 g) hp
  unfold State.coreOf
  cases ht : t.wave? w <;> cases hs : s.wave? w <;> simp_all

theorem State.place_modWave {s : State} {i w : Nat} {f : Wave → Wave} (hf : ∀ x, (f x).wg = x.wg) : (s.modWave i f).place w = s.place w := by
  refine Prod.ext ?_ rfl
  simp only [State.place, State.wave?_modWave]
  split
  · next e =>
    rw [Option.map_map, ← e]
    exact congrArg (Option.map · _) (funext hf)
  · rfl

/-- A change of a unit's records. -/
def Repl.mapRecs (f : Table SigRec → Table SigRec) (r : Repl) : Repl := { r with sigRecs := f r.sigRecs }

/-- Records that reads use are neither data nor copies of host lines. -/
theorem State.useReplRecs_leaves (s : State) (i : Nat) (f : Nat → Table SigRec → Table SigRec) :
    (s.useReplRecs i f).kept v c k h = s.kept v c k h ∧ (s.useReplRecs i f).hostView = s.hostView :=
  ⟨State.kept_modRepl (s := s) (i := i) (f := Repl.mapRecs (f s.serial)) (v := v) (c := c) (k := k) (h := h) fun _ => rfl,
    State.hostView_modRepl (s := s) (i := i) (f := Repl.mapRecs (f s.serial)) fun _ => ⟨rfl, rfl⟩⟩

theorem State.useRecs_leaves (s : State) (pa : Nat) (f : Nat → Nat → Table SigRec → Table SigRec) :
    (s.useRecs pa f).kept v c k h = s.kept v c k h ∧ (s.useRecs pa f).hostView = s.hostView := by
  unfold State.useRecs
  split
  · exact s.useReplRecs_leaves ..
  · exact ⟨State.kept_modCluster (s := s) (i := stackOf pa) (f := fun c => { c with sigRecs := f (pa / 64) s.serial c.sigRecs }) (fun _ => rfl)
      fun _ => rfl, rfl⟩

theorem State.receiveRec_leaves (s : State) (w ld : Nat) (rec : BitVec 512 × Option (List Nat)) (va : DWord) :
    (s.receiveRec w ld rec va).kept v c k h = s.kept v c k h ∧ (s.receiveRec w ld rec va).hostView = s.hostView :=
  ⟨Wave.kept_of_threads fun _ => rfl, rfl⟩

theorem State.receiveAll_leaves (s : State) (w ld : Nat) (va : DWord) (bs : List ByteSrc) :
    (s.receiveAll w ld va bs).kept v c k h = s.kept v c k h ∧ (s.receiveAll w ld va bs).hostView = s.hostView := by
  have home (s : State) (a : Nat) : (s.receiveHome w ld a va).kept v c k h = s.kept v c k h ∧ (s.receiveHome w ld a va).hostView = s.hostView := by
    obtain ⟨u1, u2⟩ := (s.receiveRec w ld (s.homeRec a) va).useRecs_leaves (v := v) (c := c) (k := k) (h := h) a touchRec
    obtain ⟨r1, r2⟩ := s.receiveRec_leaves (v := v) (c := c) (k := k) (h := h) w ld (s.homeRec a) va
    exact ⟨u1.trans r1, u2.trans r2⟩
  have repl (s : State) (d a : Nat) : (s.receiveRepl w ld d a va).kept v c k h = s.kept v c k h ∧ (s.receiveRepl w ld d a va).hostView = s.hostView := by
    obtain ⟨u1, u2⟩ := (s.receiveRec w ld (s.replRec d a) va).useReplRecs_leaves (v := v) (c := c) (k := k) (h := h) d (touchRec (a / 32))
    obtain ⟨r1, r2⟩ := s.receiveRec_leaves (v := v) (c := c) (k := k) (h := h) w ld (s.replRec d a) va
    exact ⟨u1.trans r1, u2.trans r2⟩
  refine Prod.ext_iff.1 (foldl_eq (o := fun s => (s.kept v c k h, s.hostView)) (homesOf bs) s fun s b _ => ?_)
  cases b with
  | phys a buf => exact Prod.ext (home s a).1 (home s a).2
  | repl a => exact Prod.ext (repl s _ a).1 (repl s _ a).2
  | _ => rfl

theorem State.raiseA_leaves (s : State) (w i : Nat) (p : PendA) :
    (s.raiseA w i p).kept v c k h = s.kept v c k h ∧ (s.raiseA w i p).hostView = s.hostView := by
  unfold State.raiseA
  split
  · exact ⟨State.kept_note .., State.hostView_note ..⟩
  · split
    · exact ⟨Wave.kept_of_threads fun _ => rfl, rfl⟩
    · exact ⟨State.kept_note .., State.hostView_note ..⟩

theorem State.acquireL1_leaves (s : State) (i : Nat) (m : BitVec 512) :
    (s.acquireL1 i m).kept v c k h = s.kept v c k h ∧ (s.acquireL1 i m).hostView = s.hostView :=
  ⟨congrArg Obs.kept (State.obs_acquireL1 ..), rfl⟩

theorem State.acquireDone_leaves (s : State) (w ld : Nat) :
    (s.acquireDone w ld).kept v c k h = s.kept v c k h ∧ (s.acquireDone w ld).hostView = s.hostView := by
  unfold State.acquireDone
  split
  · exact ⟨rfl, rfl⟩
  next l _ =>
  split
  · exact ⟨rfl, rfl⟩
  next sc _ =>
  have drop : (if 3 ≤ sc then s.acquireL1 (s.coreOf w) l.got else s).kept v c k h = s.kept v c k h ∧
      (if 3 ≤ sc then s.acquireL1 (s.coreOf w) l.got else s).hostView = s.hostView := by
    split
    · exact s.acquireL1_leaves ..
    · exact ⟨rfl, rfl⟩
  simp only
  generalize (if 3 ≤ sc then s.acquireL1 (s.coreOf w) l.got else s) = u at drop ⊢
  split
  · exact drop
  · split
    · obtain ⟨r1, r2⟩ := u.raiseA_leaves (v := v) (c := c) (k := k) (h := h) w (chipOfCore (s.coreOf w))
        { cause := 0x1B, pc := some l.pc, addr := _, lseq := none, dest := 0x180 }
      exact ⟨r1.trans drop.1, r2.trans drop.2⟩
    · exact drop

@[simp] theorem State.hostView_sample (s : State) (i a n : Nat) : (s.sample i a n).hostView = s.hostView := by
  unfold State.sample
  simp only
  split <;> rfl

/-- The cores with a change of what is not data. -/
def State.mapCores (s : State) (f : Nat → Core → Core) : State := { s with cores := s.cores.mapVals f }

theorem State.kept_mapCores {s : State} {f : Nat → Core → Core} (hs : ∀ i x, (f i x).scratch = x.scratch) (hl : ∀ i x, (f i x).lines = x.lines) :
    (s.mapCores f).kept v c k h = s.kept v c k h := by
  have core : ((s.mapCores f).core c).scratch = (s.core c).scratch ∧ ((s.mapCores f).core c).lines = (s.core c).lines := by
    simp only [State.core, State.mapCores, Table.at, Table.look_mapVals]
    cases Table.look s.cores c with
    | none => exact ⟨rfl, rfl⟩
    | some x => exact ⟨hs c x, hl c x⟩
  unfold State.kept
  rw [core.1, core.2]
  rfl

/-- The copies of a physical line leave the L1 of a core of the cluster. -/
def Core.loseLine (cluster pline i : Nat) (c : Core) : Core :=
  if clusterOfCore i = cluster then { c with l1 := c.l1.filter fun l => l.pline ≠ pline } else c

/-- A core's L1 takes a line. -/
def State.takeL1 (s : State) (i asid vline pline : Nat) : State :=
  s.modCore i fun c => { c.addPerf 131 1 with
    l1 := addCapped (c.l1.filter fun l => !(l.asid = asid && l.vline = vline))
      { vline, asid, pline, data := Memory.writeBytes [] 0 (Memory.readBytes s.mem (128 * pline) 128) } 1024 }

theorem State.kept_takeL1 (s : State) (i asid vline pline : Nat) : (s.takeL1 i asid vline pline).kept v c k h = s.kept v c k h := by
  unfold State.takeL1
  exact State.kept_modCore (fun _ => rfl) fun _ => rfl

/-- A line that comes into L1 when its host lines are cached. -/
theorem State.fillL1_leaves {s : State} {i asid vline pline : Nat} (cached : s.cached (chipOfCore i) [2 * pline, 2 * pline + 1] = true) :
    (s.fillL1 i asid vline pline).kept v c k h = s.kept v c k h ∧ (s.fillL1 i asid vline pline).hostView = s.hostView ∧
    (s.fillL1 i asid vline pline).waves = s.waves := by
  set u := s.mapCores (Core.loseLine (clusterOfCore i) pline) with hu
  have kept : u.kept v c k h = s.kept v c k h := State.kept_mapCores (fun j x => by unfold Core.loseLine; split <;> rfl)
    fun j x => by unfold Core.loseLine; split <;> rfl
  have reads : (if isHostAddr (128 * pline) then (u.hostRead (chipOfCore i) (2 * pline)).hostRead (chipOfCore i) (2 * pline + 1) else u) = u := by
    split
    · next host =>
      have high : isHostAddr (2 * pline * 64) = true ∧ isHostAddr ((2 * pline + 1) * 64) = true := by
        unfold isHostAddr at *
        rw [decide_eq_true_eq] at *
        rw [decide_eq_true_eq]
        omega
      have all := State.hostReads_cached (s := u) (c := chipOfCore i) [2 * pline, 2 * pline + 1]
        (by simpa using high) ((State.cached_of_hostView (s := s) (t := u) rfl _ _).trans cached)
      exact all
    · rfl
  have run : s.fillL1 i asid vline pline =
      (if isHostAddr (128 * pline) then (u.hostRead (chipOfCore i) (2 * pline)).hostRead (chipOfCore i) (2 * pline + 1) else u).takeL1 i asid vline pline := rfl
  rw [run, reads]
  exact ⟨(u.kept_takeL1 ..).trans kept, rfl, rfl⟩

theorem State.fillLines_leaves {s : State} {w : Nat} {l : Load}
    (cached : s.cached (chipOfCore (s.coreOf w)) (l.lines.flatMap fun e => [2 * e.2, 2 * e.2 + 1]) = true) :
    (s.fillLines w l).kept v c k h = s.kept v c k h ∧ (s.fillLines w l).waves = s.waves := by
  unfold State.fillLines
  simp only
  generalize s.coreOf w = i at cached ⊢
  generalize ((s.gangOf w).map fun g => g.2.asid).getD 0 = asid
  have all : ∀ e ∈ l.lines, ∀ t : State, t.hostView = s.hostView → t.cached (chipOfCore i) [2 * e.2, 2 * e.2 + 1] = true := fun e he t ht => by
    rw [State.cached_of_hostView ht]
    refine List.all_eq_true.2 fun b hb => List.all_eq_true.1 cached b (List.mem_flatMap.2 ⟨e, he, hb⟩)
  generalize l.lines = ls at all
  have fold (t : State) (ht : t.hostView = s.hostView) : ((ls.foldl (fun s e => if s.mayFill i e.2 l.order l.epoch then s.fillL1 i asid e.1 e.2 else s) t).kept v c k h = t.kept v c k h ∧
      (ls.foldl (fun s e => if s.mayFill i e.2 l.order l.epoch then s.fillL1 i asid e.1 e.2 else s) t).waves = t.waves) := by
    induction ls generalizing t with
    | nil => exact ⟨rfl, rfl⟩
    | cons e r ih =>
      rw [List.foldl_cons]
      have rest := ih (fun e he => all e (List.mem_cons_of_mem _ he))
      split
      · obtain ⟨f1, f2, f3⟩ := State.fillL1_leaves (v := v) (c := c) (k := k) (h := h) (asid := asid) (vline := e.1) (all e List.mem_cons_self t ht)
        obtain ⟨r1, r2⟩ := rest _ (f2.trans ht)
        exact ⟨r1.trans f1, r2.trans f3⟩
      · exact rest t ht
  exact fold s rfl

/-! ### What is delivered -/

/-- Lanes' values delivered one after the other. -/
def Wave.deliverAll (d : Opd) (w : Width) (vals : List (Nat × Quad)) (x : Wave) : Wave :=
  vals.foldl (fun x e => x.mapLanes [e.1] fun _ t => t.deliver d w e.2) x

theorem Wave.thread_deliverAll (d : Opd) (w : Width) {vals : List (Nat × Quad)} (distinct : (vals.map Prod.fst).Nodup) (x : Wave)
    (there : ∀ e ∈ vals, e.1 < x.threads.length) (i : Nat) : (x.deliverAll d w vals).thread i =
      match vals.find? fun e => e.1 = i with
      | some e => (x.thread i).deliver d w e.2
      | none => x.thread i := by
  induction vals generalizing x with
  | nil => rfl
  | cons e r ih =>
    obtain ⟨fresh, rest⟩ := List.nodup_cons.1 distinct
    have here := there e List.mem_cons_self
    have step : (x.deliverAll d w (e :: r)).thread i = ((x.mapLanes [e.1] fun _ t => t.deliver d w e.2).deliverAll d w r).thread i := rfl
    rw [step, ih rest _ fun e he => by simpa [Wave.mapLanes, Wave.mapThreads] using there e (List.mem_cons_of_mem _ he), Wave.thread_mapLanes]
    by_cases hit : e.1 = i
    · subst hit
      have none : (r.find? fun a => decide (a.1 = e.1)) = none :=
        List.find?_eq_none.2 fun a ha => by rw [decide_eq_true_eq]; exact fun h => fresh (h ▸ List.mem_map_of_mem ha)
      simp [none, here]
    · have miss : ¬ i = e.1 := fun h => hit h.symm
      simp [hit, miss]

theorem Thread.reg_markFull (t : Thread) (d : Opd) (w : Width) (g : RegFile) (n : Nat) : (t.markFull d w).reg g n = t.reg g n := by
  cases d <;> rfl

theorem Thread.reg_deliver (t : Thread) (d : Opd) (w : Width) (x : Quad) (g : RegFile) (n : Nat) :
    (t.deliver d w x).reg g n = if Opd.names d w g n = true then wordOf x (n - Opd.first d) else t.reg g n := by
  rw [Thread.deliver, Thread.reg_markFull, Thread.reg_writeReg]

theorem Thread.isFull_deliver (t : Thread) (d : Opd) (w : Width) (x : Quad) : (t.deliver d w x).isFull d w = true := by
  cases d with
  | v i =>
    have whole (a m : BitVec 256) : (a ||| m) &&& m = m := by
      ext j hj
      simp
      exact fun h => .inr h
    exact decide_eq_true (whole _ _)
  | _ => rfl

theorem Thread.isFull_of_data {t u : Thread} (h : t.data = u.data) (d : Opd) (w : Width) : t.isFull d w = u.isFull d w := by
  have full : t.full = u.full := congrArg ThreadData.full h
  cases d <;> simp only [Thread.isFull, full]

/-! ### Lanes that wait for the scratchpad -/

theorem State.lane_padLane {s : State} {w : Nat} {l m : LoadLane} (h : s.padLane w l = some m) : m.lane = l.lane := by
  unfold State.padLane at h
  obtain ⟨src, -, rfl⟩ := Option.map_eq_some_iff.1 h
  rfl

theorem State.lanes_padLanes {s : State} {w : Nat} {ls ms : List LoadLane} (h : s.padLanes w ls = some ms) :
    ms.map LoadLane.lane = ls.map LoadLane.lane := by
  induction ls generalizing ms with
  | nil => cases h; rfl
  | cons l r ih =>
    unfold State.padLanes at h
    split at h
    · next m ms' first rest =>
      cases h
      rw [List.map_cons, List.map_cons, State.lane_padLane first, ih rest]
    · cases h

/-! ### The return -/

/-- The values that a load's lanes read. -/
def State.laneValues (s : State) (chip : Nat) (l : Load) : List (Nat × Quad) :=
  l.lanes.map fun e => (e.lane, l.fmt.value ((s.readSrcs chip e.src).getD []))

/-- What a lane of a load is given. -/
def Load.given (l : Load) (n : Nat) (e : Nat × Option (List Byte)) : Quad :=
  match e.2 with
  | some bs => l.fmt.value bs
  | none => Config.freeValue (n + e.1)

theorem State.deliverLoad_eq (u : State) (w : Nat) (l : Load) (vals : List (Nat × Option (List Byte))) : u.deliverLoad w l vals =
    { u.modWave w (fun x => vals.foldl (fun x e => x.mapLanes [e.1] fun _ t => t.deliver l.d l.fmt.regs (l.given u.free e)) x) with
      free := if vals.any (fun e => e.2.isNone) then u.free + 32 else u.free } := rfl

theorem State.deliverLoad_all {s u : State} {w chip : Nat} {l : Load} (all : (l.lanes.all fun e => (s.readSrcs chip e.src).isSome) = true) :
    (u.deliverLoad w l (l.lanes.map fun e => (e.lane, s.readSrcs chip e.src))) =
      u.modWave w (Wave.deliverAll l.d l.fmt.regs (s.laneValues chip l)) := by
  have found : (l.lanes.map fun e => (e.lane, s.readSrcs chip e.src)).any (fun e => e.2.isNone) = false := by
    rw [List.any_map]
    refine List.any_eq_false.2 fun e he => ?_
    have := List.all_eq_true.1 all e he
    cases h : s.readSrcs chip e.src <;> simp_all
  have same : (fun x => (l.lanes.map fun e => (e.lane, s.readSrcs chip e.src)).foldl (fun x e =>
      x.mapLanes [e.1] fun _ t => t.deliver l.d l.fmt.regs (l.given u.free e)) x) = Wave.deliverAll l.d l.fmt.regs (s.laneValues chip l) := by
    funext x
    unfold Wave.deliverAll State.laneValues
    rw [List.foldl_map, List.foldl_map]
    refine List.foldl_ext _ _ _ fun y e he => ?_
    obtain ⟨bs, hbs⟩ := Option.isSome_iff_exists.1 (List.all_eq_true.1 all e he)
    simp only [hbs]
    rfl
  rw [State.deliverLoad_eq, same, found]
  rfl

/-- A load that is no longer outstanding. -/
def Wave.dropLoad (id : Nat) (x : Wave) : Wave := { x with loads := Table.del x.loads id }

/-- The state of a return before its lines come into L1. -/
def State.returned (s : State) (w id : Nat) (l : Load) : State :=
  let u := (s.receiveAll w id (firstOf l.lanes) l.unread).acquireDone w id
  let u := u.modWave w (Wave.deliverAll l.d l.fmt.regs (s.laneValues (chipOfCore (s.coreOf w)) l))
  let u := if l.kind = .bytes then u.sample (s.coreOf w) 1 ((u.core (s.coreOf w)).clk - l.issued) else u
  u.modWave w (Wave.dropLoad id)

theorem State.returnLoad_eq {s : State} {w id : Nat} {l : Load} (hosts : s.cached (chipOfCore (s.coreOf w)) (hostBlocks l.unread) = true)
    (all : (l.lanes.all fun e => (s.readSrcs (chipOfCore (s.coreOf w)) e.src).isSome) = true) :
    s.returnLoad w id l = if l.kind = .bytes && l.acq.isNone then (s.returned w id l).fillLines w l else s.returned w id l := by
  have whole : ((l.lanes.zip (l.lanes.map fun e => (e.lane, s.readSrcs (chipOfCore (s.coreOf w)) e.src))).find? fun e => e.2.2.isNone) = none := by
    refine List.find?_eq_none.2 fun e he => ?_
    obtain ⟨a, ha, hz⟩ := List.mem_map.1 (List.of_mem_zip he).2
    have := List.all_eq_true.1 all a ha
    rw [← hz]
    cases h : s.readSrcs (chipOfCore (s.coreOf w)) a.src <;> simp_all
  unfold State.returnLoad
  simp only
  rw [State.hostReads_cached _ (fun b hb => hostBlocks_host hb) hosts, State.deliverLoad_all all, whole]
  rfl

theorem State.received_place (s : State) (w id : Nat) (va : DWord) (bs : List ByteSrc) (z : Nat) : (s.receiveAll w id va bs).place z = s.place z := by
  have record (s : State) (rec : BitVec 512 × Option (List Nat)) : (s.receiveRec w id rec va).place z = s.place z := State.place_modWave fun _ => rfl
  refine foldl_eq (o := fun s => s.place z) (homesOf bs) s fun s b _ => ?_
  cases b with
  | phys a buf =>
    refine Eq.trans ?_ (record s (s.homeRec a))
    simp only [State.receiveHome, State.useRecs]
    split <;> rfl
  | repl a => exact record s _
  | _ => rfl

theorem State.raised_place (s : State) (w i : Nat) (p : PendA) (z : Nat) : (s.raiseA w i p).place z = s.place z := by
  unfold State.raiseA
  split
  · rfl
  · split
    · exact State.place_modWave fun _ => rfl
    · rfl

theorem State.acquired_place (s : State) (w id z : Nat) : (s.acquireDone w id).place z = s.place z := by
  unfold State.acquireDone
  split
  · rfl
  next l _ =>
  split
  · rfl
  next sc _ =>
  have drop : (if 3 ≤ sc then s.acquireL1 (s.coreOf w) l.got else s).place z = s.place z := by split <;> rfl
  simp only
  generalize (if 3 ≤ sc then s.acquireL1 (s.coreOf w) l.got else s) = u at drop ⊢
  split
  · exact drop
  · split
    · exact (u.raised_place ..).trans drop
    · exact drop

/-- The data but the registers. -/
def Kept.stored (o : Kept) : Kept := { o with threads := none }

theorem State.sampleIf_leaves (s : State) (b : Bool) (i a n z : Nat) : (if b then s.sample i a n else s).kept v c k h = s.kept v c k h ∧
    (if b then s.sample i a n else s).hostView = s.hostView ∧ (∀ w, (if b then s.sample i a n else s).wave? w = s.wave? w) ∧
    (if b then s.sample i a n else s).place z = s.place z := by
  cases b with
  | false => exact ⟨rfl, rfl, fun _ => rfl, rfl⟩
  | true =>
    refine ⟨s.kept_sample .., s.hostView_sample .., fun w => s.wave?_sample .., Prod.ext (congrArg (Option.map Wave.wg) (s.wave?_sample ..)) ?_⟩
    simp only [if_true, State.sample]
    split <;> rfl

theorem Wave.wg_deliverAll (d : Opd) (w : Width) (vals : List (Nat × Quad)) (x : Wave) : (x.deliverAll d w vals).wg = x.wg := by
  induction vals generalizing x with
  | nil => rfl
  | cons e r ih => exact (ih _).trans rfl

theorem State.returned_leaves (s : State) (w id : Nat) (l : Load) :
    (s.returned w id l).hostView = s.hostView ∧ ((s.returned w id l).kept v c k h).stored = (s.kept v c k h).stored ∧
    (s.returned w id l).place w = s.place w := by
  obtain ⟨r1, r2⟩ := s.receiveAll_leaves (v := v) (c := c) (k := k) (h := h) w id (firstOf l.lanes) l.unread
  have r3 := s.received_place w id (firstOf l.lanes) l.unread w
  unfold State.returned
  simp only
  generalize s.receiveAll w id (firstOf l.lanes) l.unread = u1 at r1 r2 r3 ⊢
  obtain ⟨a1, a2⟩ := u1.acquireDone_leaves (v := v) (c := c) (k := k) (h := h) w id
  have a3 := u1.acquired_place w id w
  generalize u1.acquireDone w id = u2 at a1 a2 a3 ⊢
  have d1 : ((u2.modWave w (Wave.deliverAll l.d l.fmt.regs (s.laneValues (chipOfCore (s.coreOf w)) l))).kept v c k h).stored = (u2.kept v c k h).stored := rfl
  have d2 : (u2.modWave w (Wave.deliverAll l.d l.fmt.regs (s.laneValues (chipOfCore (s.coreOf w)) l))).place w = u2.place w :=
    State.place_modWave fun x => Wave.wg_deliverAll ..
  have d3 : (u2.modWave w (Wave.deliverAll l.d l.fmt.regs (s.laneValues (chipOfCore (s.coreOf w)) l))).hostView = u2.hostView := rfl
  generalize u2.modWave w (Wave.deliverAll l.d l.fmt.regs (s.laneValues (chipOfCore (s.coreOf w)) l)) = u3 at d1 d2 d3 ⊢
  obtain ⟨m1, m2, -, m4⟩ := u3.sampleIf_leaves (v := v) (c := c) (k := k) (h := h) (decide (l.kind = .bytes)) (s.coreOf w) 1 ((u3.core (s.coreOf w)).clk - l.issued) w
  simp only [decide_eq_true_eq] at m1 m2 m4
  generalize (if l.kind = .bytes then u3.sample (s.coreOf w) 1 ((u3.core (s.coreOf w)).clk - l.issued) else u3) = u4 at m1 m2 m4 ⊢
  exact ⟨m2.trans (d3.trans (a2.trans r2)), (congrArg Kept.stored m1).trans (d1.trans (congrArg Kept.stored (a1.trans r1))),
    (State.place_modWave (f := Wave.dropLoad id) fun _ => rfl).trans (m4.trans (d2.trans (a3.trans r3)))⟩

/-- A wave's threads as another state has them. -/
theorem Wave.data_of_datas {x y : Wave} (hd : y.datas = x.datas) (i : Nat) : (y.thread i).data = (x.thread i).data ∧ y.threads.length = x.threads.length := by
  refine ⟨?_, by simpa [Wave.datas] using congrArg List.length hd⟩
  rw [Wave.thread_datas, Wave.thread_datas, hd]

/-- The threads of a return. -/
theorem State.returned_threads {s : State} {w id : Nat} {x : Wave} {l : Load} (hx : s.wave? w = some x)
    (distinct : (l.lanes.map LoadLane.lane).Nodup) (there : ∀ e ∈ l.lanes, e.lane < x.threads.length) :
    ((s.returned w id l).wave? w).bind (fun y => Table.look y.loads id) = none ∧
    ∀ v i, ∃ t : Thread, t.data = (s.lane v i).data ∧ ((s.returned w id l).lane v i).data =
      (match (if v = w then (s.laneValues (chipOfCore (s.coreOf w)) l).find? fun e : Nat × Quad => e.1 = i else none) with
        | some e => t.deliver l.d l.fmt.regs e.2
        | none => t).data := by
  have kept (v : Nat) : (((s.receiveAll w id (firstOf l.lanes) l.unread).acquireDone w id).wave? v).map Wave.datas = (s.wave? v).map Wave.datas := by
    obtain ⟨r1, -⟩ := s.receiveAll_leaves (v := v) (c := 0) (k := 0) (h := 0) w id (firstOf l.lanes) l.unread
    obtain ⟨a1, -⟩ := (s.receiveAll w id (firstOf l.lanes) l.unread).acquireDone_leaves (v := v) (c := 0) (k := 0) (h := 0) w id
    exact congrArg Kept.threads (a1.trans r1)
  unfold State.returned
  simp only
  generalize (s.receiveAll w id (firstOf l.lanes) l.unread).acquireDone w id = u at kept ⊢
  obtain ⟨-, -, m3, -⟩ := (u.modWave w (Wave.deliverAll l.d l.fmt.regs (s.laneValues (chipOfCore (s.coreOf w)) l))).sampleIf_leaves (v := 0) (c := 0) (k := 0) (h := 0)
    (decide (l.kind = .bytes)) (s.coreOf w) 1
    (((u.modWave w (Wave.deliverAll l.d l.fmt.regs (s.laneValues (chipOfCore (s.coreOf w)) l))).core (s.coreOf w)).clk - l.issued) 0
  simp only [decide_eq_true_eq] at m3
  generalize (if l.kind = .bytes then _ else _) = u4 at m3 ⊢
  obtain ⟨y, hy, yx⟩ : ∃ y, u.wave? w = some y ∧ y.datas = x.datas := by
    have := kept w
    rw [hx] at this
    exact Option.map_eq_some_iff.1 this
  have wave (v : Nat) : (u4.modWave w (Wave.dropLoad id)).wave? v =
      if v = w then some ((y.deliverAll l.d l.fmt.regs (s.laneValues (chipOfCore (s.coreOf w)) l)).dropLoad id) else u.wave? v := by
    rw [State.wave?_modWave, m3, m3, State.wave?_modWave, State.wave?_modWave, if_pos rfl, hy]
    split <;> rfl
  refine ⟨by rw [wave, if_pos rfl]; exact Table.look_del .., fun v i => ?_⟩
  by_cases e : v = w
  · subst e
    refine ⟨y.thread i, ?_, ?_⟩
    · rw [(Wave.data_of_datas yx i).1]
      simp only [State.lane, hx]
    · have lane : ((u4.modWave v (Wave.dropLoad id)).lane v i) =
          (y.deliverAll l.d l.fmt.regs (s.laneValues (chipOfCore (s.coreOf v)) l)).thread i := by
        unfold State.lane
        rw [wave, if_pos rfl]
        rfl
      rw [lane, Wave.thread_deliverAll l.d l.fmt.regs (by rw [State.laneValues, List.map_map]; exact distinct) y, if_pos rfl]
      · intro e he
        obtain ⟨a, ha, rfl⟩ := List.mem_map.1 he
        rw [(Wave.data_of_datas yx 0).2]
        exact there a ha
  · refine ⟨u.lane v i, State.lane_data (kept v) i, ?_⟩
    rw [if_neg e]
    have lane : ((u4.modWave w (Wave.dropLoad id)).lane v i) = u.lane v i := by
      unfold State.lane
      rw [wave, if_neg e]
    rw [lane]

/-- Settles O25: what the return waits for is there, so it reads each lane where its bytes are and delivers it once. -/
theorem loadReturns : Obligations.LoadReturns := by
  unfold Obligations.LoadReturns
  intro w id s x l hx hl _ distinct there chip first reach lanes padded unread owned cached found
  set m : Load := { l with lanes } with hm
  have same := State.lanes_padLanes padded
  have distinct' : (m.lanes.map LoadLane.lane).Nodup := by rw [hm, same]; exact distinct
  have there' : ∀ e ∈ m.lanes, e.lane < x.threads.length := fun e he => by
    have : e.lane ∈ l.lanes.map LoadLane.lane := same ▸ List.mem_map_of_mem he
    obtain ⟨a, ha, eq⟩ := List.mem_map.1 this
    rw [← eq]
    exact of_decide_eq_true (List.all_eq_true.1 there a ha)
  obtain ⟨hosts, lines⟩ : s.cached chip (hostBlocks m.unread) = true ∧ s.cached chip (m.lines.flatMap fun e => [2 * e.2, 2 * e.2 + 1]) = true := by
    unfold State.cached at cached ⊢
    rw [List.all_append, Bool.and_eq_true] at cached
    exact cached
  have run : exec (.loadReturn w id) s = .next (s.returnLoad w id m) := by
    have go : (x.readsFirst (fun m => decide (m.order < l.order)) l.unread || !s.srcsReached (chipOfCore (s.coreOf w)) l.unread) = false := by
      rw [first, reach]
      rfl
    show execLoadReturn w id s = _
    unfold execLoadReturn
    simp only [hx, hl, go, padded, Bool.false_eq_true, if_false]
    change Host.Outcome.next (match s.ownedByHost m.unread with
      | b :: r => (b :: r).foldl (fun (s : State) b => s.askHostData b) s
      | [] => s.returnLoad w id m) = _
    rw [owned]
  have leaves (v c k h : Nat) := s.returned_leaves (v := v) (c := c) (k := k) (h := h) w id m
  obtain ⟨gone, threads⟩ := State.returned_threads hx distinct' there'
  have after (v c k h : Nat) : (s.returnLoad w id m).kept v c k h = (s.returned w id m).kept v c k h ∧
      (s.returnLoad w id m).waves = (s.returned w id m).waves := by
    rw [State.returnLoad_eq hosts found]
    split
    · refine State.fillLines_leaves ?_
      rw [State.coreOf_of_place (leaves 0 0 0 0).2.2, State.cached_of_hostView (leaves 0 0 0 0).1]
      exact lines
    · exact ⟨rfl, rfl⟩
  have stored (v c k h : Nat) : ((s.returnLoad w id m).kept v c k h).stored = (s.kept v c k h).stored := by
    rw [(after v c k h).1]
    exact (leaves v c k h).2.1
  have lane (v i : Nat) : (s.returnLoad w id m).lane v i = (s.returned w id m).lane v i := by
    unfold State.lane State.wave?
    rw [(after 0 0 0 0).2]
  refine ⟨_, run, ?store, ?gone, ?regs, ?full, ?phys, ?repl, ?pad⟩
  case store =>
    exact {
      mem := fun a => congrArg (fun o : Kept => Memory.read o.mem a) (stored 0 0 0 0)
      repl := fun c a => congrArg (fun o : Kept => Memory.read o.replica a) (stored 0 0 0 c)
      scratch := fun c a => congrArg (fun o : Kept => Memory.read o.scratch a) (stored 0 c 0 0)
      lines := fun c => congrArg (fun o : Kept => o.lines) (stored 0 c 0 0)
      oslots := fun c => congrArg (fun o : Kept => o.oslots) (stored 0 0 c 0)
      aslots := fun c => congrArg (fun o : Kept => o.aslots) (stored 0 0 c 0) }
  case gone =>
    unfold State.wave? at gone ⊢
    rw [(after 0 0 0 0).2]
    exact gone
  case regs =>
    intro v i g n
    obtain ⟨t, ht, data⟩ := threads v i
    rw [lane, Thread.reg_data data]
    by_cases e : v = w
    · rw [if_pos e, if_pos e]
      have find : ((s.laneValues chip m).find? fun e => e.1 = i) =
          (lanes.find? fun e => e.lane = i).map fun e => (e.lane, l.fmt.value ((s.readSrcs chip e.src).getD [])) := List.find?_map
      rw [find]
      cases lanes.find? fun e => e.lane = i with
      | none => exact Thread.reg_data ht g n
      | some e =>
        simp only [Option.map_some, Thread.reg_deliver, Thread.reg_data ht]
        rfl
    · rw [if_neg e, if_neg e]
      exact Thread.reg_data ht g n
  case full =>
    intro e he
    obtain ⟨t, ht, data⟩ := threads w e.lane
    rw [lane, Thread.isFull_of_data data, if_pos rfl]
    have mem : e.lane ∈ (s.laneValues chip m).map Prod.fst := by
      rw [State.laneValues, List.map_map]
      have : e.lane ∈ lanes.map LoadLane.lane := same.symm ▸ List.mem_map_of_mem he
      exact this
    obtain ⟨a, ha, eq⟩ := List.mem_map.1 mem
    cases find : (s.laneValues chip m).find? fun a : Nat × Quad => a.1 = e.lane with
    | none => exact absurd eq (by simpa using List.find?_eq_none.1 find a ha)
    | some b => exact Thread.isFull_deliver ..
  case phys =>
    intro a buf b h
    unfold State.readSrc at h
    simp only at h
    split at h
    · exact (Option.some.inj h).symm
    · split at h
      · cases h
      · exact (Option.some.inj h).symm
  case repl =>
    intro a b h
    unfold State.readSrc at h
    simp only at h
    split at h
    · cases h
    · exact (Option.some.inj h).symm
  case pad =>
    intro k off b c hk hc h
    unfold State.padNow at h
    simp only [hk, hc] at h
    split at h
    · exact (Option.some.inj h).symm
    · cases h

end Sys2Proof.Machine
end

section
/-! SUPPORT. A write-queue entry performs at its home, and O29 (08 R176, R178; 18 R378). -/

-- One theorem at a time: many at once ask for more threads than the checker has memory for.
set_option Elab.async false

namespace Sys2Proof.Machine

variable {v c k h : Nat}

/-! ### Cells written -/

theorem Memory.read_writeCells {m : Memory} (wf : m.wf = true) (cs : Bytes) (a : Nat) : Memory.read (Memory.writeCells m cs) a =
    ((cs.reverse.find? fun e => e.1 = a).map Prod.snd).getD (Memory.read m a) := by
  induction cs generalizing m with
  | nil => rfl
  | cons e r ih =>
    obtain ⟨b, x⟩ := e
    show Memory.read (Memory.writeCells (Memory.write m b x) r) a = _
    rw [ih (Memory.write_wf b x wf), List.reverse_cons, List.find?_append, Memory.read_write wf]
    cases r.reverse.find? fun e => e.1 = a with
    | some y => rfl
    | none =>
      by_cases hb : b = a
      · subst hb; simp
      · simp [hb, Ne.symm hb]

theorem Table.look_eq_find {α : Type} (t : Table α) (n : Nat) : Table.look t n = (t.find? fun e => e.1 = n).map Prod.snd := by
  induction t with
  | nil => rfl
  | cons e r ih =>
    obtain ⟨b, x⟩ := e
    by_cases hb : b = n
    · subst hb; simp [Table.look]
    · simp [Table.look, hb, Ne.symm hb, ih]

/-- Cells of distinct addresses are written each once. -/
theorem Memory.read_writeCells_nodup {m : Memory} (wf : m.wf = true) {cs : Bytes} (distinct : (cs.map Prod.fst).Nodup) (a : Nat) :
    Memory.read (Memory.writeCells m cs) a = (Table.look cs a).getD (Memory.read m a) := by
  induction cs generalizing m with
  | nil => rfl
  | cons e r ih =>
    obtain ⟨b, x⟩ := e
    obtain ⟨fresh, rest⟩ := List.nodup_cons.1 distinct
    show Memory.read (Memory.writeCells (Memory.write m b x) r) a = _
    rw [ih (Memory.write_wf b x wf) rest, Memory.read_write wf]
    by_cases hb : a = b
    · subst hb
      have none : Table.look r a = none := by
        rw [Table.look_eq_find, List.find?_eq_none.2]
        · rfl
        · intro e he
          rw [decide_eq_true_eq]
          rintro rfl
          exact fresh (List.mem_map.2 ⟨e, he, rfl⟩)
      simp [none, Table.look]
    · simp [Table.look, hb]

/-- Bytes at consecutive addresses, as cells. -/
def cellsAt (a : Nat) (bs : List Byte) : Bytes := bs.zipIdx.map fun b => (a + b.2, b.1)

theorem cellsAt_cons (a : Nat) (b : Byte) (r : List Byte) : cellsAt a (b :: r) = (a, b) :: cellsAt (a + 1) r := by
  unfold cellsAt
  rw [List.zipIdx_cons, List.map_cons, List.zipIdx_eq_map_add, List.map_map]
  refine congrArg _ (List.map_congr_left fun e _ => Prod.ext ?_ rfl)
  show a + (0 + 1 + e.2) = a + 1 + e.2
  omega

theorem Memory.writeCells_cellsAt (m : Memory) (a : Nat) (bs : List Byte) : Memory.writeCells m (cellsAt a bs) = Memory.writeBytes m a bs := by
  induction bs generalizing m a with
  | nil => rfl
  | cons b r ih =>
    rw [cellsAt_cons]
    exact ih _ _

theorem bytesOfNat_getD {n : Nat} (x : Nat) {i : Nat} (h : i < n) : (bytesOfNat n x).getD i 0 = BitVec.ofNat 8 (x / 2 ^ (8 * i)) := by
  induction n generalizing x i with
  | zero => omega
  | succ n ih =>
    cases i with
    | zero => simp [bytesOfNat]
    | succ i =>
      show (bytesOfNat n (x / 256)).getD i 0 = _
      rw [ih _ (Nat.lt_of_succ_lt_succ h), Nat.div_div_eq_div_mul, Nat.mul_succ, Nat.add_comm, pow_add]
      rfl

/-! ### An entry that leaves the queue -/

/-- The outstanding loads of a wave. -/
def State.loadsOf (s : State) (w : Nat) : Option (Table Load) := (s.wave? w).map Wave.loads

@[simp] theorem State.loadsOf_post (s : State) (e : Event) (w : Nat) : (s.post e).loadsOf w = s.loadsOf w := rfl
@[simp] theorem State.loadsOf_postOnce (s : State) (e : Event) (w : Nat) : (s.postOnce e).loadsOf w = s.loadsOf w := by
  unfold State.postOnce; split <;> rfl

theorem State.loadsOf_dirDone (s : State) (r : Nat) (q : DirWait) (w : Nat) : (s.dirDone r q).loadsOf w = s.loadsOf w :=
  State.dirDone_eq (o := fun s => s.loadsOf w) (fun _ _ => rfl) (fun _ _ => State.loadsOf_postOnce ..) (fun _ _ _ => rfl) s r q

/-- The queue without an entry. -/
def Core.dropEntry (now id : Nat) (e : WqEntry) (c : Core) : Core := { c with wq := Table.del c.wq id }.noteLeft now [e]

def State.dropEntry (s : State) (core id : Nat) (e : WqEntry) : State := { s.modCore core (Core.dropEntry s.serial id e) with serial := s.serial + 1 }

theorem State.dropEntry_leaves (s : State) (core id : Nat) (e : WqEntry) : (s.dropEntry core id e).kept v c k h = s.kept v c k h ∧
    (∀ w, (s.dropEntry core id e).loadsOf w = s.loadsOf w) ∧ Table.look ((s.dropEntry core id e).core core).wq id = none := by
  refine ⟨State.kept_modCore (s := s) (i := core) (f := Core.dropEntry s.serial id e) (v := v) (c := c) (k := k) (h := h) (fun _ => rfl) fun _ => rfl,
    fun _ => rfl, ?_⟩
  show Table.look ((s.modCore core (Core.dropEntry s.serial id e)).core core).wq id = none
  rw [State.core_modCore, if_pos rfl]
  exact Table.look_del ..

/-- The entry's region queue without it. -/
def State.leftQueue (s : State) (core id : Nat) (e : WqEntry) : State :=
  if e.repl || isHostAddr (e.block * 64) then s else s.dirDone (regionOf (e.block * 64)) (.write core id)

theorem State.freeEntry_cases (s : State) (core id : Nat) (e : WqEntry) :
    s.freeEntry core id e = (s.leftQueue core id e).dropEntry core id e ∨
    ∃ n, s.freeEntry core id e = ((s.leftQueue core id e).dropEntry core id e).postOnce (.wqEntryPerform core n) := by
  unfold State.freeEntry
  simp only
  split
  · next x _ =>
    split
    · exact .inr ⟨x.1, rfl⟩
    · exact .inl rfl
  · exact .inl rfl

theorem State.freeEntry_leaves (s : State) (core id : Nat) (e : WqEntry) : (s.freeEntry core id e).kept v c k h = s.kept v c k h ∧
    (∀ w, (s.freeEntry core id e).loadsOf w = s.loadsOf w) ∧ Table.look ((s.freeEntry core id e).core core).wq id = none := by
  have first : (s.leftQueue core id e).kept v c k h = s.kept v c k h ∧ ∀ w, (s.leftQueue core id e).loadsOf w = s.loadsOf w := by
    unfold State.leftQueue
    split
    · exact ⟨rfl, fun _ => rfl⟩
    · exact ⟨State.kept_dirDone .., fun w => State.loadsOf_dirDone ..⟩
  obtain ⟨d1, d2, d3⟩ := (s.leftQueue core id e).dropEntry_leaves (v := v) (c := c) (k := k) (h := h) core id e
  rcases s.freeEntry_cases core id e with run | ⟨n, run⟩
  · rw [run]
    exact ⟨d1.trans first.1, fun w => (d2 w).trans (first.2 w), d3⟩
  · rw [run]
    exact ⟨(State.kept_postOnce ..).trans (d1.trans first.1), fun w => (State.loadsOf_postOnce ..).trans ((d2 w).trans (first.2 w)), by simpa using d3⟩

/-! ### What an entry's performance leaves -/

theorem State.entrySig_leaves (s : State) (e : WqEntry) : (s.entrySig e).kept v c k h = s.kept v c k h ∧ ∀ w, (s.entrySig e).loadsOf w = s.loadsOf w := by
  have recs (f : Nat → Nat → Table SigRec → Table SigRec) : (s.useRecs (e.block * 64) f).kept v c k h = s.kept v c k h ∧
      ∀ w, (s.useRecs (e.block * 64) f).loadsOf w = s.loadsOf w := by
    refine ⟨(s.useRecs_leaves ..).1, fun w => ?_⟩
    unfold State.useRecs
    split <;> rfl
  unfold State.entrySig
  split
  · exact recs _
  · exact recs _
  · exact ⟨rfl, fun _ => rfl⟩

theorem State.loadsOf_fireWave (s : State) (w l v : Nat) : (s.fireWave w l).loadsOf v = s.loadsOf v := by
  unfold State.fireWave State.loadsOf
  rw [State.wave?_postOnce_frame, State.wave?_modWave]
  split
  · next e =>
    rw [Option.map_map, e]
    congr 1
    funext x
    simp only [Function.comp]
    split <;> rfl
  · rfl

theorem State.loadsOf_ringWrites (s : State) (cs : Bytes) (w : Nat) : (s.ringWrites cs).loadsOf w = s.loadsOf w :=
  State.ringWrites_eq (o := fun s => s.loadsOf w) (fun _ _ => rfl) s cs

/-- Cells written at home: the bytes, and no register. -/
theorem State.performs_store {s : State} {buf : Nat} {cs : Bytes} (pass : s.tagsPass (some buf) cs) (core : Nat) :
    ((s.homeStore (some core) (some buf) cs).ringWrites cs).kept v c k h = { s.kept v c k h with mem := Memory.writeCells s.mem cs } ∧
    ∀ w, ((s.homeStore (some core) (some buf) cs).ringWrites cs).loadsOf w = s.loadsOf w := by
  refine ⟨(State.kept_ringWrites ..).trans (State.kept_homeStore pass _), fun w => (State.loadsOf_ringWrites ..).trans ?_⟩
  refine (State.homeStore_eq (o := fun s => s.loadsOf w) (fun _ _ => State.loadsOf_postOnce ..) (fun _ _ => rfl) (fun _ _ _ => rfl)
    (fun s w' l => s.loadsOf_fireWave ..) s _ _ cs).trans ?_
  exact (State.tagged_eq (o := fun s => s.loadsOf w) (fun _ _ _ _ => rfl) pass)

/-- Nothing holds up an entry at a stack or in host memory. -/
def State.entryFree (s : State) (core id : Nat) (e : WqEntry) : Prop :=
  Table.look (s.core core).wq id = some e ∧ e.held = false ∧ (s.core core).blockedBy id e = false ∧ e.repl = false ∧
  ((s.wave? e.wave).all fun x => !x.entryWaits e) = true ∧ s.reaches (chipOfCore core) (e.block * 64) = true ∧
  s.canonical = true ∧ s.numbered = true ∧ (e.bytes.all fun b => decide (b.1 / 64 = e.block)) = true ∧
  ((isHostAddr (e.block * 64) = true ∧ s.takesLine (chipOfCore core) e.block = true) ∨
    (isHostAddr (e.block * 64) = false ∧ s.stackLive (stackOf (e.block * 64)) = true ∧ s.evacuating e = false ∧ e.granted = true ∧
      (s.cluster (stackOf (e.block * 64))).hostHeld.contains e.block = false ∧
      s.dirMayWrite (regionOf (e.block * 64)) (.write core id) = true ∧ s.tagFails (e.block * 64) e.buf = false))

/-- The other copies of a host line go. -/
def State.ownLine (d n : Nat) (s : State) (c : Nat) : State :=
  if c ≠ d && (Table.look (s.chip c).hostLines n).isSome then s.modChip c fun x => { x with hostLines := Table.del x.hostLines n } else s

/-- What the host's memory holds is noted, and the caching chip's copy is dirty. -/
def State.dirtyLine (s : State) (d n : Nat) : State :=
  (if (Table.look s.hostBase n).isSome then s else { s with hostBase := Table.put s.hostBase n (Memory.readBytes s.mem (n * 64) 64) }).modChip d
    fun x => { x with hostLines := Table.put x.hostLines n .m }

theorem State.ownLine_leaves (d n : Nat) (s : State) (i : Nat) : (s.ownLine d n i).kept v c k h = s.kept v c k h ∧ (s.ownLine d n i).waves = s.waves := by
  unfold State.ownLine
  split
  · exact ⟨State.kept_modChip fun _ => rfl, rfl⟩
  · exact ⟨rfl, rfl⟩

theorem State.ownLines_leaves (d n : Nat) (ls : List Nat) (s : State) :
    (ls.foldl (State.ownLine d n) s).kept v c k h = s.kept v c k h ∧ (ls.foldl (State.ownLine d n) s).waves = s.waves :=
  ⟨foldl_eq (o := fun s => s.kept v c k h) ls s fun s i _ => (s.ownLine_leaves d n i).1,
    foldl_eq (o := State.waves) ls s fun s i _ => (s.ownLine_leaves (v := 0) (c := 0) (k := 0) (h := 0) d n i).2⟩

theorem State.dirtyLine_leaves (s : State) (d n : Nat) : (s.dirtyLine d n).kept v c k h = s.kept v c k h ∧ (s.dirtyLine d n).waves = s.waves := by
  have base : (if (Table.look s.hostBase n).isSome then s else { s with hostBase := Table.put s.hostBase n (Memory.readBytes s.mem (n * 64) 64) }).kept v c k h =
      s.kept v c k h ∧ (if (Table.look s.hostBase n).isSome then s else
        { s with hostBase := Table.put s.hostBase n (Memory.readBytes s.mem (n * 64) 64) }).waves = s.waves := by
    split
    · exact ⟨rfl, rfl⟩
    · exact ⟨rfl, rfl⟩
  unfold State.dirtyLine
  generalize (if (Table.look s.hostBase n).isSome then s else { s with hostBase := Table.put s.hostBase n (Memory.readBytes s.mem (n * 64) 64) }) = u at base ⊢
  refine ⟨Eq.trans ?_ base.1, base.2⟩
  exact State.kept_modChip fun _ => rfl

theorem State.hostOwn_eq {s : State} {i n : Nat} (takes : s.takesLine i n = true) :
    s.hostOwn i n = ((List.range 8).foldl (State.ownLine (s.hostCache i) n) s).dirtyLine (s.hostCache i) n := by
  have run : s.hostOwn i n =
      ((List.range 8).foldl (State.ownLine (s.hostCache i) n) (s.hostRooms (s.hostCache i) n)).dirtyLine (s.hostCache i) n := rfl
  rw [run, State.hostRooms_takes takes]

theorem State.hostOwn_leaves {s : State} {i n : Nat} (takes : s.takesLine i n = true) : (s.hostOwn i n).kept v c k h = s.kept v c k h ∧
    ∀ w, (s.hostOwn i n).loadsOf w = s.loadsOf w := by
  obtain ⟨o1, o2⟩ := State.ownLines_leaves (v := v) (c := c) (k := k) (h := h) (s.hostCache i) n (List.range 8) s
  rw [State.hostOwn_eq takes]
  generalize (List.range 8).foldl (State.ownLine (s.hostCache i) n) s = u at o1 o2 ⊢
  obtain ⟨d1, d2⟩ := u.dirtyLine_leaves (v := v) (c := c) (k := k) (h := h) (s.hostCache i) n
  exact ⟨d1.trans o1, fun w => by unfold State.loadsOf State.wave?; rw [d2, o2]⟩

theorem entry_runs {core id : Nat} {s : State} {e : WqEntry} (free : s.entryFree core id e) : ∃ b : State,
    exec (.wqEntryPerform core id) s = .next ((b.entryPerform core e).freeEntry core id e) ∧ (∀ v c k h, b.kept v c k h = s.kept v c k h) ∧
    (∀ w, b.loadsOf w = s.loadsOf w) ∧ b.tagFails (e.block * 64) e.buf = false := by
  obtain ⟨look, held, blocked, repl, waits, reach, -, -, -, home⟩ := free
  have first : ((s.wave? e.wave).map fun x => x.entryWaits e).getD false = false := by
    cases hw : s.wave? e.wave with
    | none => rfl
    | some x => simpa [hw] using waits
  have run : exec (.wqEntryPerform core id) s = .next (if isHostAddr (e.block * 64) then
      ((s.hostOwn (chipOfCore core) e.block).entryPerform core e).freeEntry core id e else s.stackEntry core id e) := by
    show execWqEntryPerform core id s = _
    unfold execWqEntryPerform
    simp only [look, held, blocked, repl, first, reach, Bool.or_self, Bool.false_eq_true, if_false, Bool.not_true]
  rcases home with ⟨host, takes⟩ | ⟨near, live, evac, granted, owned, may, tag⟩
  · refine ⟨s.hostOwn (chipOfCore core) e.block, by rw [run, if_pos host], fun v c k h => (State.hostOwn_leaves takes).1,
      (State.hostOwn_leaves (v := 0) (c := 0) (k := 0) (h := 0) takes).2, if_pos host⟩
  · refine ⟨s, ?_, fun _ _ _ _ => rfl, fun _ => rfl, tag⟩
    rw [run, if_neg (by simp [near])]
    unfold State.stackEntry
    simp only [live, reach, evac, granted, owned, may, Bool.not_true, Bool.false_eq_true, if_false]

theorem entry_tagsPass {b : State} {e : WqEntry} (tag : b.tagFails (e.block * 64) e.buf = false) {cs : Bytes}
    (block : ∀ c ∈ cs, c.1 / 64 = e.block) : b.tagsPass (some e.buf) cs := fun n hn c hc _ => by
  cases hn
  rw [block c hc]
  exact tag

theorem sameThreads_of_kept {s t : State} {m : Memory} (hk : ∀ v c k h, t.kept v c k h = { s.kept v c k h with mem := m }) :
    s.SameThreads t := fun v l => .of_data (State.lane_data (congrArg Kept.threads (hk v 0 0 0)) l)

theorem entry_stores {core id : Nat} {s : State} {e : WqEntry} (free : s.entryFree core id e) (plain : e.atoms = [])
    (distinct : (e.bytes.map Prod.fst).Nodup) : ∃ t, exec (.wqEntryPerform core id) s = .next t ∧ s.SameThreads t ∧ Table.look (t.core core).wq id = none ∧
      (∀ a, t.byte a = (Table.look e.bytes a).getD (s.byte a)) ∧ (∀ c a, t.padByte c a = s.padByte c a) ∧ ∀ c a, t.replByte c a = s.replByte c a := by
  obtain ⟨b, run, kept, -, tag⟩ := entry_runs free
  obtain ⟨-, -, -, -, -, -, canonical, -, block, -⟩ := free
  have pass := entry_tagsPass tag fun c hc => of_decide_eq_true (List.all_eq_true.1 block c hc)
  have perform : b.entryPerform core e = ((b.homeStore (some core) (some e.buf) e.bytes).ringWrites e.bytes).entrySig e := if_pos plain
  have final (v c k h : Nat) : ((b.entryPerform core e).freeEntry core id e).kept v c k h = { s.kept v c k h with mem := Memory.writeCells s.mem e.bytes } := by
    have mem : b.mem = s.mem := congrArg Kept.mem (kept 0 0 0 0)
    rw [(State.freeEntry_leaves ..).1, perform, (State.entrySig_leaves ..).1, (State.performs_store pass core).1, kept, mem]
  refine ⟨_, run, sameThreads_of_kept final, (State.freeEntry_leaves (v := 0) (c := 0) (k := 0) (h := 0) ..).2.2, fun a => ?_,
    fun c a => congrArg (fun o : Kept => Memory.read o.scratch a) (final 0 c 0 0), fun c a => congrArg (fun o : Kept => Memory.read o.replica a) (final 0 0 0 c)⟩
  exact (congrArg (fun o : Kept => Memory.read o.mem a) (final 0 0 0 0)).trans
    (Memory.read_writeCells_nodup (State.canonical_mem canonical) distinct a)

/-! ### Atomics -/

/-- A change of the loads of a wave. -/
def Wave.mapLoad (ld : Nat) (f : Load → Load) (x : Wave) : Wave := { x with loads := Table.modify x.loads ld f }

theorem State.loadsOf_mapLoad (s : State) (w ld : Nat) (f : Load → Load) :
    (s.modWave w (Wave.mapLoad ld f)).loadsOf w = (s.loadsOf w).map fun t => Table.modify t ld f := by
  unfold State.loadsOf
  rw [State.wave?_modWave, if_pos rfl, Option.map_map, Option.map_map]
  rfl

/-- What `receiveRec` makes of a load: its lanes stay. -/
theorem State.loadsOf_receiveHome (s : State) (w ld pa : Nat) (va : DWord) : ∃ f : Load → Load, (∀ l, (f l).lanes = l.lanes) ∧
    (s.receiveHome w ld pa va).loadsOf w = (s.loadsOf w).map fun t => Table.modify t ld f := by
  refine ⟨fun l => { l with
      got := l.got ||| (s.homeRec pa).1
      bad := match l.acq, (s.homeRec pa).2 with
        | some sc, some t => if tagHolds sc t (s.tagOf w) then l.bad else some va
        | _, _ => l.bad }, fun _ => rfl, ?_⟩
  have recs : (s.receiveHome w ld pa va).loadsOf w = (s.receiveRec w ld (s.homeRec pa) va).loadsOf w := by
    unfold State.receiveHome State.useRecs
    split <;> rfl
  rw [recs]
  unfold State.receiveRec State.loadsOf
  rw [State.wave?_modWave, if_pos rfl, Option.map_map, Option.map_map]
  rfl

theorem State.kept_receiveHome (s : State) (w ld pa : Nat) (va : DWord) : (s.receiveHome w ld pa va).kept v c k h = s.kept v c k h :=
  ((s.receiveRec w ld (s.homeRec pa) va).useRecs_leaves ..).1.trans (s.receiveRec_leaves ..).1

theorem State.tagFails_receiveHome (s : State) (w ld pa : Nat) (va : DWord) (buf : Nat) (pass : s.tagFails pa buf = false) :
    (s.receiveHome w ld pa va).tagFails pa buf = false := by
  by_cases host : isHostAddr pa = true
  · exact if_pos host
  · have recs : s.receiveHome w ld pa va = { (s.receiveRec w ld (s.homeRec pa) va).modCluster (stackOf pa)
        (fun c => { c with sigRecs := touchRec (pa / 64) s.serial c.sigRecs }) with serial := s.serial + 1 } := if_neg host
    refine Eq.trans ?_ pass
    unfold State.tagFails
    rw [if_neg host, if_neg host, recs]
    have tags : (State.cluster { (s.receiveRec w ld (s.homeRec pa) va).modCluster (stackOf pa)
        (fun c => { c with sigRecs := touchRec (pa / 64) s.serial c.sigRecs }) with serial := s.serial + 1 } (stackOf pa)).blockTag =
        (s.cluster (stackOf pa)).blockTag := by
      show (((s.receiveRec w ld (s.homeRec pa) va).modCluster (stackOf pa)
        (fun c => { c with sigRecs := touchRec (pa / 64) s.serial c.sigRecs })).cluster (stackOf pa)).blockTag = _
      rw [State.cluster_modCluster, if_pos rfl]
      rfl
    rw [tags]
    rfl

/-- The entry's load receives what its block's record holds. -/
def State.entryReceives (s : State) (e : WqEntry) : State :=
  match e.load with
  | none => s
  | some ld => s.receiveHome e.wave ld (e.block * 64) e.va

/-- The memory after an atomic's lane. -/
def AtomLane.stored (a : AtomLane) (m : Memory) : Memory :=
  match a.modify (Memory.readLe m a.pa a.width) with
  | none => m
  | some v => Memory.writeBytes m a.pa (bytesOfNat a.width v)

/-- The lane's write at home. -/
def State.atomStores (s : State) (core : Nat) (e : WqEntry) (a : AtomLane) : State :=
  match a.modify (Memory.readLe s.mem a.pa a.width) with
  | none => s
  | some v => (s.homeStore (some core) (some e.buf) (cellsAt a.pa (bytesOfNat a.width v))).ringWrites (cellsAt a.pa (bytesOfNat a.width v))

/-- A lane's old value, given to it. -/
def giveLane (lane : Nat) (bs : List Byte) (l : Load) : Load :=
  { l with lanes := l.lanes.map fun e => if e.lane = lane then { e with src := bs.map ByteSrc.val } else e }

/-- The old value reaches the lane. -/
def State.atomGives (s : State) (e : WqEntry) (a : AtomLane) (old : Nat) : State :=
  match e.load with
  | none => s
  | some ld => s.modWave e.wave (Wave.mapLoad ld (giveLane a.lane (bytesOfNat a.width old)))

theorem State.atomPerform_eq (s : State) (core : Nat) (e : WqEntry) (a : AtomLane) :
    s.atomPerform core e a = (s.atomStores core e a).atomGives e a (Memory.readLe s.mem a.pa a.width) := rfl

theorem State.atomStores_leaves {s : State} {core : Nat} {e : WqEntry} {a : AtomLane} (tag : s.tagFails (e.block * 64) e.buf = false)
    (first : a.pa / 64 = e.block) (last : (a.pa + a.width - 1) / 64 = e.block) :
    (s.atomStores core e a).kept v c k h = { s.kept v c k h with mem := a.stored s.mem } ∧
    ∀ w, (s.atomStores core e a).loadsOf w = s.loadsOf w := by
  unfold State.atomStores AtomLane.stored
  cases a.modify (Memory.readLe s.mem a.pa a.width) with
  | none => exact ⟨rfl, fun _ => rfl⟩
  | some x =>
    have pass : s.tagsPass (some e.buf) (cellsAt a.pa (bytesOfNat a.width x)) := entry_tagsPass tag fun c hc => by
      obtain ⟨b, hb, rfl⟩ := List.mem_map.1 hc
      have lt : b.2 < a.width := by
        have := List.snd_lt_of_mem_zipIdx hb
        rwa [bytesOfNat_length, Nat.add_zero] at this
      show (a.pa + b.2) / 64 = e.block
      omega
    obtain ⟨p1, p2⟩ := State.performs_store (v := v) (c := c) (k := k) (h := h) pass core
    rw [Memory.writeCells_cellsAt] at p1
    exact ⟨p1, p2⟩

theorem State.returnIfAll_leaves (s : State) (w ld : Nat) : (s.returnIfAll w ld).kept v c k h = s.kept v c k h ∧
    ∀ w', (s.returnIfAll w ld).loadsOf w' = s.loadsOf w' := by
  unfold State.returnIfAll
  split
  · exact ⟨rfl, fun _ => rfl⟩
  · split
    · exact ⟨State.kept_postOnce .., fun _ => State.loadsOf_postOnce ..⟩
    · exact ⟨rfl, fun _ => rfl⟩

/-- An entry with one atomic's lane performs: the bytes, the loads. -/
theorem State.entryPerform_atom {s : State} {core : Nat} {e : WqEntry} {a : AtomLane} (atoms : e.atoms = [a])
    (tag : s.tagFails (e.block * 64) e.buf = false) (first : a.pa / 64 = e.block) (last : (a.pa + a.width - 1) / 64 = e.block) :
    (s.entryPerform core e).kept v c k h = { s.kept v c k h with mem := a.stored s.mem } ∧
    ∀ ld, e.load = some ld → ∃ f : Load → Load, (∀ l, (f l).lanes = l.lanes) ∧ (s.entryPerform core e).loadsOf e.wave =
      (s.loadsOf e.wave).map fun t => Table.modify (Table.modify t ld f) ld (giveLane a.lane (bytesOfNat a.width (Memory.readLe s.mem a.pa a.width))) := by
  have run : s.entryPerform core e = match e.load with
      | none => ((s.entryReceives e).atomPerform core e a).entrySig e
      | some ld => (((s.entryReceives e).atomPerform core e a).entrySig e).returnIfAll e.wave ld := by
    unfold State.entryPerform
    rw [if_neg (by simp [atoms]), if_neg (by simp [tag]), atoms]
    rfl
  have received (v c k h : Nat) : (s.entryReceives e).kept v c k h = s.kept v c k h := by
    unfold State.entryReceives
    split
    · rfl
    · exact State.kept_receiveHome ..
  have mem : (s.entryReceives e).mem = s.mem := congrArg Kept.mem (received 0 0 0 0)
  have tag' : (s.entryReceives e).tagFails (e.block * 64) e.buf = false := by
    unfold State.entryReceives
    split
    · exact tag
    · exact State.tagFails_receiveHome _ _ _ _ _ _ tag
  obtain ⟨s1, s2⟩ := State.atomStores_leaves (v := v) (c := c) (k := k) (h := h) (core := core) tag' first last
  have gives (old : Nat) : (((s.entryReceives e).atomStores core e a).atomGives e a old).kept v c k h = ((s.entryReceives e).atomStores core e a).kept v c k h := by
    unfold State.atomGives
    split
    · rfl
    · exact Wave.kept_of_threads fun _ => rfl
  have lane : ((s.entryReceives e).atomPerform core e a).kept v c k h = { s.kept v c k h with mem := a.stored s.mem } := by
    rw [State.atomPerform_eq, gives, s1, received, mem]
  rw [run]
  refine ⟨?_, fun ld hld => ?_⟩
  · split
    · rw [(State.entrySig_leaves ..).1, lane]
    · rw [(State.returnIfAll_leaves ..).1, (State.entrySig_leaves ..).1, lane]
  · obtain ⟨f, lanes, loads⟩ := s.loadsOf_receiveHome e.wave ld (e.block * 64) e.va
    refine ⟨f, lanes, ?_⟩
    have start : s.entryReceives e = s.receiveHome e.wave ld (e.block * 64) e.va := by
      unfold State.entryReceives
      rw [hld]
    rw [← start] at loads
    rw [hld]
    simp only
    rw [(State.returnIfAll_leaves (v := 0) (c := 0) (k := 0) (h := 0) ..).2, (State.entrySig_leaves (v := 0) (c := 0) (k := 0) (h := 0) ..).2,
      State.atomPerform_eq, mem]
    unfold State.atomGives
    rw [hld]
    simp only
    rw [State.loadsOf_mapLoad, s2, loads, Option.map_map]
    rfl

theorem entry_atoms {core id : Nat} {s : State} {e : WqEntry} {a : AtomLane} (free : s.entryFree core id e) (atoms : e.atoms = [a])
    (first : a.pa / 64 = e.block) (last : (a.pa + a.width - 1) / 64 = e.block) :
    ∃ t, exec (.wqEntryPerform core id) s = .next t ∧ s.SameThreads t ∧ Table.look (t.core core).wq id = none ∧
      (∀ b, t.byte b = match a.modify (Memory.readLe s.mem a.pa a.width) with
         | some v => if a.pa ≤ b ∧ b < a.pa + a.width then BitVec.ofNat 8 (v / 2 ^ (8 * (b - a.pa))) else s.byte b
         | none => s.byte b) ∧
      ∀ ld x l, e.load = some ld → s.wave? e.wave = some x → Table.look x.loads ld = some l →
        t.due e.wave ld fun l' => ∀ lane ∈ l'.lanes, lane.lane = a.lane →
          lane.src = (bytesOfNat a.width (Memory.readLe s.mem a.pa a.width)).map ByteSrc.val := by
  obtain ⟨b, run, kept, loads, tag⟩ := entry_runs free
  obtain ⟨-, -, -, -, -, -, canonical, -⟩ := free
  have mem : b.mem = s.mem := congrArg Kept.mem (kept 0 0 0 0)
  have performs (v c k h : Nat) := State.entryPerform_atom (v := v) (c := c) (k := k) (h := h) (core := core) atoms tag first last
  have final (v c k h : Nat) : ((b.entryPerform core e).freeEntry core id e).kept v c k h = { s.kept v c k h with mem := a.stored s.mem } := by
    rw [(State.freeEntry_leaves ..).1, (performs v c k h).1, kept, mem]
  obtain ⟨-, left, gone⟩ := (b.entryPerform core e).freeEntry_leaves (v := 0) (c := 0) (k := 0) (h := 0) core id e
  refine ⟨_, run, sameThreads_of_kept final, gone, fun n => ?_, fun ld x l hld hx hl => ?_⟩
  · refine (congrArg (fun o : Kept => Memory.read o.mem n) (final 0 0 0 0)).trans ?_
    show Memory.read (a.stored s.mem) n = _
    unfold AtomLane.stored
    cases a.modify (Memory.readLe s.mem a.pa a.width) with
    | none => rfl
    | some x =>
      simp only
      rw [Memory.read_writeBytes (State.canonical_mem canonical), bytesOfNat_length]
      split
      · exact bytesOfNat_getD x (by omega)
      · rfl
  · obtain ⟨f, lanes, after⟩ := (performs 0 0 0 0).2 ld hld
    have there : s.loadsOf e.wave = some x.loads := by unfold State.loadsOf; rw [hx]; rfl
    rw [← left, loads, there, mem, Option.map_some] at after
    obtain ⟨y, hy, yl⟩ := Option.map_eq_some_iff.1 after
    refine ⟨y, giveLane a.lane (bytesOfNat a.width (Memory.readLe s.mem a.pa a.width)) (f l), hy, ?_, fun lane mem eq => ?_⟩
    · rw [yl, Table.look_modify, if_pos rfl, Table.look_modify, if_pos rfl, hl]
      rfl
    · obtain ⟨m, -, rfl⟩ := List.mem_map.1 mem
      by_cases same : m.lane = a.lane
      · rw [if_pos same]
      · rw [if_neg same] at eq
        exact absurd eq same

/-- Settles O29: an entry that nothing holds up writes its cells where they live and leaves the queue. -/
theorem entriesPerform : Obligations.EntriesPerform := by
  unfold Obligations.EntriesPerform
  intro free
  refine ⟨fun core id s e hf plain distinct => entry_stores hf plain distinct, fun core id s e a hf atoms _ first last _ => ?_⟩
  exact entry_atoms hf atoms first last

end Sys2Proof.Machine
end

section
/-! SUPPORT. A store of two lanes of which one is refused: the other reaches its meeting address, where the parked lane's trap finds no
handler. Refutes O26. -/

-- One theorem at a time: many at once ask for more threads than the checker has memory for.
set_option Elab.async false

namespace Sys2Proof.Machine

/-- A store of 1 at the address in v4. -/
def storeOne : ExtArgs := { pairArgs with b := .imm 1 }

/-- Thread 0 names a byte of a page, thread 1 one of a page that cannot be written; both meet after the store, and the gang has no
handler. -/
def refusedStore : State :=
  let s := watchedState
  { s with
    gangs := s.gangs.map fun e => (e.1, { e.2 with trapv := 0 })
    waves := s.waves.map fun e => (e.1, { e.2 with
      threads := e.2.threads.mapIdx fun l t => { t with meet := 65536 + 12, v := putWords t.v 4 2 (65536 * (l + 1)) } })
    clusters := s.clusters.map fun e => (e.1, { e.2 with
      regs := [], tlb := e.2.tlb ++ e.2.tlb.map fun t => { t with mask := 4, idx := 2, leaf := 0x2003B } }) }

/-- A byte that the store puts is none that the wave has queued after it. -/
def unqueued (i : Instr) (s : State) (k : Who) (cs : List ((Bool × Nat) × Byte)) : Bool :=
  match exec i s with
  | .next t => cs.any fun c => lastValue cs c.1 = some c.2 && (t.core k.wg.core).ownByte k.w c.1.1 c.1.2 != some (some c.2)
  | _ => false

/-- What O26 asks of the store holds of the state, no lane is parked yet, no `STEP` is armed, and a byte is not queued. -/
theorem refusedStore_unqueued : refusedStore.who.all (fun k =>
    match spans k.xctx .write false false 4 (k.x.active.map fun l => (l, refusedStore.laneEa k storeOne l)) refusedStore with
    | (.all ls, s1) => refusedStore.inFlight = 0 && refusedStore.numbered && (s1.orderFault k (goodSpans ls)).isNone &&
        (s1.core k.wg.core).heldOf k.w + 2 * k.x.active.length ≤ 16 && (s1.core k.wg.core).entriesOf k.w + 2 * k.x.active.length ≤ 16 &&
        (s1.core k.wg.core).wq.length + 2 * k.x.active.length ≤ 96 && k.x.clear &&
        !stepsNow refusedStore k (k.x.issuePc.getD 0) && unqueued (.st storeOne) refusedStore k (storedCells
          (fun l => bytesOfNat 4 (k.src refusedStore l storeOne.lit storeOne.ty storeOne.b).toNat) (goodSpans ls))
    | _ => false) = true := by decide +kernel

/-- Refutes O26: one lane of a store parks, the other's bytes are queued and it reaches its meeting address; the parked lane's trap is taken
there, it finds no handler, and the kill of the gang discards the held bytes. -/
theorem not_stores : ¬ Obligations.Stores := by
  unfold Obligations.Stores
  rintro ⟨⟨relaxed, -⟩, -⟩
  obtain ⟨k, ready⟩ := ready_of_readyFor (i := .st storeOne) (s := refusedStore) (by decide +kernel)
  have props := refusedStore_unqueued
  rw [ready.who, Option.all_some] at props
  split at props
  case h_2 => cases props
  case h_1 ls s1 translated =>
    simp only [Bool.and_eq_true, decide_eq_true_eq, Bool.not_eq_true', Option.isNone_iff_eq_none] at props
    obtain ⟨⟨⟨⟨⟨⟨⟨⟨flight, numbered⟩, order⟩, held⟩, entries⟩, room⟩, clear⟩, steps⟩, unqueued'⟩ := props
    obtain ⟨t, ht, -, -, queued⟩ := relaxed _ _ k ls s1 (by decide) ready numbered ⟨flight, translated⟩ order held entries room
    simp only [unqueued, ht, List.any_eq_true, Bool.and_eq_true, decide_eq_true_eq, bne_iff_ne] at unqueued'
    obtain ⟨c, -, last, not⟩ := unqueued'
    exact not (queued ⟨clear, steps⟩ c.1 c.2 last)

end Sys2Proof.Machine
end

section
/-! SUPPORT. The messages between a window segment and its home (11 R238 to R242). Settles O33. -/

-- One theorem at a time: many at once ask for more threads than the checker has memory for.
set_option Elab.async false

namespace Sys2Proof.Machine

variable {v c k h : Nat}

/-! ### Segments -/

theorem State.seg_setSeg_same (s : State) (core i : Nat) (x : Seg) : (s.setSeg core i x).seg core i = x := by
  unfold State.seg State.setSeg Core.seg
  rw [State.core_modCore, if_pos rfl]
  by_cases free : x = Seg.free
  · subst free
    simp [Table.at]
  · simp only [if_neg free, Table.at_put_same]

@[simp] theorem State.kept_setSeg (s : State) (core i : Nat) (x : Seg) : (s.setSeg core i x).kept v c k h = s.kept v c k h :=
  State.kept_modCore (fun _ => rfl) fun _ => rfl

theorem State.dirLeave_eq {β : Type} {o : State → β} (hp : ∀ s e, o (s.post e) = o s) (ho : ∀ s e, o (s.postOnce e) = o s)
    (hd : ∀ s r d, o (s.setDir r d) = o s) (s : State) (r : Nat) (n : Nat × Nat) : o (s.dirLeave r n) = o s := by
  unfold State.dirLeave
  split
  · rfl
  · unfold State.serve
    split
    · exact hd ..
    · rw [serve_eq hp ho hd, hd]

@[simp] theorem State.kept_dirLeave (s : State) (r : Nat) (n : Nat × Nat) : (s.dirLeave r n).kept v c k h = s.kept v c k h :=
  State.dirLeave_eq (o := fun s => s.kept v c k h) (fun _ _ => rfl) (fun _ _ => State.kept_postOnce ..) (fun _ _ _ => State.kept_setDir ..) s r n

@[simp] theorem State.seg_dirLeave (s : State) (r : Nat) (n : Nat × Nat) (core i : Nat) : (s.dirLeave r n).seg core i = s.seg core i :=
  congrArg (Core.seg · i) (State.dirLeave_eq (o := fun s => s.core core) (fun _ _ => rfl) (fun _ _ => State.core_postOnce_frame ..) (fun _ _ _ => rfl)
    s r n)

@[simp] theorem State.core_setDir (s : State) (r : Nat) (d : Dir) (i : Nat) : (s.setDir r d).core i = s.core i := rfl

theorem State.overLink_near {s : State} {core i : Nat} (near : s.near core i) (e : Event) (go : State) : s.overLink core i e go = go := if_pos near

theorem State.mem_of_kept {t : State} {o : Kept} {m : Memory} (e : t.kept v c k h = { o with mem := m }) : t.mem = m := congrArg Kept.mem e

/-! ### Directory entries -/

/-- An entry that nothing holds, awaits or waits for is removed. -/
theorem State.dir_setDir (s : State) (r : Nat) (d : Dir) :
    (s.setDir r d).dir? r = if d.sharers = [] && d.asked = [] && d.queue = [] then none else some d := by
  unfold State.dir? State.setDir
  rw [State.cluster_modCluster, if_pos rfl]
  by_cases empty : (d.sharers = [] && d.asked = [] && d.queue = []) = true
  · simp only [if_pos empty, Table.look_del]
  · simp only [if_neg empty, Table.look_put_same]

/-! ### Dirty bytes -/

theorem State.dirtyCells_nodup (s : State) (core i : Nat) : ((s.dirtyCells core i).map Prod.fst).Nodup := by
  unfold State.dirtyCells
  simp only [List.map_filterMap]
  refine List.Nodup.filterMap (fun a b n ha hb => ?_) List.nodup_range
  simp only [Option.map_eq_some_iff, Option.mem_def] at ha hb
  obtain ⟨x, hx, rfl⟩ := ha
  obtain ⟨y, hy, e⟩ := hb
  split at hx <;> simp at hx
  split at hy <;> simp at hy
  subst hx hy
  simpa using e.symm

theorem State.read_withDirty {s : State} (wf : s.canonical = true) (core i a : Nat) :
    Memory.read (Memory.writeCells s.mem (s.dirtyCells core i)) a = s.withDirty core i a :=
  Memory.read_writeCells_nodup (State.canonical_mem wf) (s.dirtyCells_nodup core i) a

/-- The home takes the dirty bytes, and no other data changes. -/
theorem State.writeBack_takes {s : State} {core i : Nat} (takes : s.takesBack core i) : ∃ t, s.writeBack core i = (true, t) ∧
    ∀ v c k h, t.kept v c k h = { s.kept v c k h with mem := Memory.writeCells s.mem (s.dirtyCells core i) } := by
  obtain ⟨held, mark, tags⟩ := takes
  unfold State.writeBack
  by_cases clean : s.dirtyCells core i = []
  · exact ⟨s, if_pos clean, fun v c k h => by rw [clean]; rfl⟩
  · simp only [if_neg clean, held, mark clean]
    refine ⟨_, rfl, fun v c k h => ?_⟩
    rw [State.kept_setSeg, State.kept_ringWrites]
    refine State.kept_homeStore ?_ _
    rintro _ ⟨⟩ x hx -
    rw [Nat.mul_comm]
    exact tags _ (mem_blocksOf.2 ⟨x, hx, rfl⟩)

/-! ### Fills -/

/-- The lines of a fill are sent. -/
def State.sendLines (s : State) (core i : Nat) (ls : List Nat) : State := ls.foldl (fun s l => s.post (.windowFillData core i l)) s

theorem State.sendLines_eq {β : Type} {o : State → β} (hp : ∀ s e, o (s.post e) = o s) (s : State) (core i : Nat) (ls : List Nat) :
    o (s.sendLines core i ls) = o s := foldl_eq (o := o) ls s fun s _ _ => hp s _

theorem State.mem_sendLines (s : State) (core i : Nat) (ls : List Nat) : ∀ l ∈ ls, .windowFillData core i l ∈ (s.sendLines core i ls).agenda :=
  mem_agenda_foldl_of_mem (g := fun s l => s.post (.windowFillData core i l)) (e := fun l => .windowFillData core i l)
    (fun _ _ _ h => State.mem_post h) (fun _ _ => State.mem_post_self ..) ls s

/-- An entry of one holder, to which the region has been sent. -/
def Dir.heldBy (owned : Bool) (core i : Nat) : Dir := { st := if owned then .own else .shr, sharers := [(core, i)], asked := [], queue := [] }

theorem dirServe_idle {s : State} {r : Nat} {d : Dir} (entry : s.dir? r = some d) (queue : d.queue = []) (n : Nat) : dirServe n s r = s := by
  cases n with
  | zero => rfl
  | succ n =>
    unfold dirServe
    simp only [entry, queue, ite_self]

theorem dirServe_fill {s : State} {r core i : Nat} {owned : Bool} {d : Dir} (entry : s.dir? r = some d) (asked : d.asked = [])
    (sharers : d.sharers = []) (queue : d.queue = [.fill core i owned]) (n : Nat) :
    dirServe (n + 1) s r = (s.setDir r (Dir.heldBy owned core i)).sendLines core i (List.range 32) := by
  have step : dirServe (n + 1) s r = dirServe n ((s.setDir r (Dir.heldBy owned core i)).sendLines core i (List.range 32)) r := by
    obtain ⟨st, _, _, _⟩ := d
    cases asked
    cases sharers
    cases queue
    rw [dirServe]
    simp only [entry, ne_eq, not_true_eq_false, if_false, decide_true, Bool.true_or, if_true]
    rfl
  rw [step, dirServe_idle (d := Dir.heldBy owned core i) _ rfl]
  rw [State.sendLines_eq (o := fun s => s.dir? r) fun _ _ => rfl, State.dir_setDir, if_neg (by simp [Dir.heldBy])]

/-- A region queue that only a fill has joined. -/
def Dir.asking (owned : Bool) (core i : Nat) : Dir := { st := .pend, sharers := [], asked := [], queue := [.fill core i owned] }

/-- A fill of a region that nothing binds is served at once. -/
theorem State.dirAsk_unbound {s : State} {r : Nat} (unbound : s.dir? r = none) (core i : Nat) (owned : Bool) : s.dirAsk r (.fill core i owned) =
    ((s.setDir r (Dir.asking owned core i)).setDir r (Dir.heldBy owned core i)).sendLines core i (List.range 32) := by
  have ask : s.dirAsk r (.fill core i owned) = (s.setDir r (Dir.asking owned core i)).serve r := by
    unfold State.dirAsk
    rw [unbound]
    rfl
  have entry : (s.setDir r (Dir.asking owned core i)).dir? r = some (Dir.asking owned core i) := by
    rw [State.dir_setDir, if_neg (by simp [Dir.asking])]
  rw [ask, State.serve, entry]
  exact dirServe_fill entry rfl rfl rfl _

/-! ### The messages -/

theorem windowFillRequest_grants {core i : Nat} {s : State} (near : s.near core i) (st : (s.seg core i).st = .t)
    (filling : (s.seg core i).filling = true) (live : s.stackLive (stackOf (s.seg core i).pa) = true)
    (unbound : s.dir? (regionOf (s.seg core i).pa) = none) :
    Happens (.windowFillRequest core i) s fun t => s.SameStore t ∧ (t.seg core i) = s.seg core i ∧
      (∀ l, l < 32 → .windowFillData core i l ∈ t.agenda) ∧
      (t.dir? (regionOf (s.seg core i).pa)).map (fun d => (d.st, d.sharers)) =
        some (if (s.seg core i).owned then .own else .shr, [(core, i)]) := by
  have he : exec (.windowFillRequest core i) s = .next (s.dirAsk (regionOf (s.seg core i).pa) (.fill core i (s.seg core i).owned)) := by
    refine congrArg Host.Outcome.next ((State.overLink_near near _ _).trans ?_)
    simp only [st, filling, live]
    rfl
  refine happens_of_keeps he (fun _ _ _ _ => State.kept_dirAsk ..) fun store => ⟨store, ?_, fun l hl => ?_, ?_⟩
  · exact congrArg (Core.seg · i) (dirAsk_eq (o := fun s => s.core core) (fun _ _ => rfl) (fun _ _ => State.core_postOnce_frame ..)
      (fun _ _ _ => rfl) s _ _)
  · rw [State.dirAsk_unbound unbound]
    exact State.mem_sendLines _ core i _ l (List.mem_range.2 hl)
  · rw [State.dirAsk_unbound unbound, State.sendLines_eq (o := fun s => s.dir? _) fun _ _ => rfl, State.dir_setDir,
      if_neg (by simp [Dir.heldBy])]
    rfl

/-! ### A line arrives -/

theorem Memory.length_readBytes (m : Memory) (a n : Nat) : (Memory.readBytes m a n).length = n := by
  induction n generalizing a with
  | zero => rfl
  | succ n ih => exact congrArg (· + 1) (ih _)

theorem Memory.readBytes_getD (m : Memory) (a : Nat) {n j : Nat} (h : j < n) : (Memory.readBytes m a n).getD j 0 = Memory.read m (a + j) := by
  induction n generalizing a j with
  | zero => cases h
  | succ n ih =>
    cases j with
    | zero => rfl
    | succ j =>
      refine (ih (a + 1) (Nat.lt_of_succ_lt_succ h)).trans ?_
      rw [Nat.add_right_comm, Nat.add_assoc]

theorem Memory.readBytes_append (m : Memory) (a x y : Nat) :
    Memory.readBytes m a x ++ Memory.readBytes m (a + x) y = Memory.readBytes m a (x + y) := by
  induction x generalizing a with
  | zero => rw [Nat.zero_add]; rfl
  | succ n ih =>
    rw [Nat.succ_add, show a + (n + 1) = a + 1 + n by omega]
    exact congrArg (Memory.read m a :: ·) (ih (a + 1))

/-- The scratchpad and the line's bit once its bytes have arrived. -/
def Core.takeLine (x : Core) (i l : Nat) (bs : List Byte) : Core :=
  { x with scratch := Memory.writeBytes x.scratch (4096 * i + 128 * l) bs, lines := x.lines ||| ((1#4096) <<< (32 * i + l)) }

/-- The segment once a line has arrived. -/
def Seg.afterLine (x : Seg) : Seg :=
  if x.linesLeft ≤ 1 then { x with st := if x.owned then .o else .s, filling := false, linesLeft := 0, dirty := 0, refetch := false }
  else { x with linesLeft := x.linesLeft - 1 }

theorem windowFillData_fills {core i l : Nat} {s : State} (near : s.near core i) (hi : i < 128) (hl : l < 32) (st : (s.seg core i).st = .t)
    (filling : (s.seg core i).filling = true) (wf : s.canonical = true)
    (low : s.tagFails ((s.seg core i).pa + 128 * l) (s.seg core i).buf = false)
    (high : s.tagFails ((s.seg core i).pa + 128 * l + 64) (s.seg core i).buf = false) :
    Happens (.windowFillData core i l) s fun t =>
      (∀ a, t.byte a = s.byte a) ∧
      (∀ c a, t.padByte c a = if c = core ∧ 4096 * i + 128 * l ≤ a ∧ a < 4096 * i + 128 * l + 128 then
        s.byte ((s.seg core i).pa + 128 * l + (a - (4096 * i + 128 * l))) else s.padByte c a) ∧
      (t.core core).lines.getLsbD (32 * i + l) = true ∧
      (t.seg core i).st = if (s.seg core i).linesLeft ≤ 1 then (if (s.seg core i).owned then .o else .s) else .t := by
  have he : exec (.windowFillData core i l) s = .next ((State.modCore { s with free := s.free + 8 } core fun x =>
      x.takeLine i l (Memory.readBytes s.mem ((s.seg core i).pa + 128 * l) 128)).setSeg core i (s.seg core i).afterLine) := by
    refine congrArg Host.Outcome.next ((State.overLink_near near _ _).trans ?_)
    refine (if_neg (by simp [st, filling])).trans ?_
    simp only [State.blockBytes, low, high, Bool.false_eq_true, if_false, Memory.readBytes_append]
    rfl
  refine ⟨_, he, fun _ _ => .of_data rfl, fun _ => rfl, fun c a => ?_, ?_, ?_⟩
  · unfold State.padByte State.setSeg
    by_cases same : c = core
    · subst same
      simp only [State.core_modCore, if_true, Core.takeLine, true_and]
      rw [show State.core { s with free := s.free + 8 } c = s.core c from rfl, Memory.read_writeBytes (State.canonical_scratch wf c),
        Memory.length_readBytes]
      split
      · next inside => exact Memory.readBytes_getD _ _ (by omega)
      · rfl
    · simp only [State.core_modCore, if_neg same, if_neg (fun h : _ ∧ _ => same h.1)]
      rfl
  · unfold State.setSeg
    simp only [State.core_modCore, if_true, Core.takeLine, BitVec.getLsbD_or, BitVec.getLsbD_shiftLeft]
    have : 32 * i + l < 4096 := by omega
    simp [this]
  · rw [State.seg_setSeg_same]
    unfold Seg.afterLine
    split
    · rfl
    · exact st

/-! ### A segment is emptied -/

theorem emptied_lines {i n : Nat} (h : n / 32 = i) (x : BitVec 4096) : (x &&& ~~~(segLines i)).getLsbD n = false := by
  by_cases far : n < 4096
  · have bit : (segLines i).getLsbD n = true := by
      unfold segLines
      rw [BitVec.getLsbD_ofNat, Nat.testBit_mul_two_pow, Nat.testBit_two_pow_sub_one]
      simp only [far, decide_true, Bool.true_and, Bool.and_eq_true, decide_eq_true_eq]
      omega
    simp [bit]
  · exact BitVec.getLsbD_of_ge _ _ (by omega)

/-- A held segment after an INV or RECALL. -/
def Seg.recalled (x : Seg) : Seg := { x with st := .t, refetch := true, dirty := 0 }

theorem kept_emptySeg (s : State) (core i : Nat) : (s.emptySeg core i).kept v c k h =
    { s.kept v c k h with lines := if c = core then (s.core c).lines &&& ~~~(segLines i) else (s.core c).lines } := by
  unfold State.emptySeg State.kept
  rw [State.core_modCore]
  split
  · next e => rw [e]; rfl
  · rfl

theorem recallSeg_empties {core i : Nat} {s : State} (held : (s.seg core i).st = .s ∨ (s.seg core i).st = .o) (wf : s.canonical = true)
    (takes : (s.seg core i).st = .o → s.takesBack core i) (again : Event) : ∃ t, s.recallSeg core i again = t ∧ s.SameThreads t ∧
      (∀ a, t.byte a = if (s.seg core i).st = .o then s.withDirty core i a else s.byte a) ∧
      (t.seg core i).st = .t ∧ (t.seg core i).refetch = true ∧ (t.seg core i).dirty = 0 ∧
      ∀ n, n / 32 = i → (t.core core).lines.getLsbD n = false := by
  obtain ⟨u, back, hu⟩ : ∃ u, (if (s.seg core i).st = .o then s.writeBack core i else (true, s)) = (true, u) ∧ ∀ v c k h,
      u.kept v c k h = { s.kept v c k h with mem := if (s.seg core i).st = .o then Memory.writeCells s.mem (s.dirtyCells core i) else s.mem } := by
    by_cases own : (s.seg core i).st = .o
    · obtain ⟨u, back, hu⟩ := State.writeBack_takes (takes own)
      exact ⟨u, (if_pos own).trans back, fun v c k h => by rw [hu, if_pos own]⟩
    · exact ⟨s, if_neg own, fun v c k h => by rw [if_neg own]; rfl⟩
  have held : ((s.seg core i).st = .s || (s.seg core i).st = .o) = true := by simpa using held
  have run : s.recallSeg core i again =
      ((u.emptySeg core i).setSeg core i (s.seg core i).recalled).dirLeave (regionOf (s.seg core i).pa) (core, i) := by
    unfold State.recallSeg
    simp only [held, if_true, back]
    rfl
  have data (v c k h : Nat) : (s.recallSeg core i again).kept v c k h = (u.emptySeg core i).kept v c k h := by
    rw [run, State.kept_dirLeave, State.kept_setSeg]
  have seg : (s.recallSeg core i again).seg core i = (s.seg core i).recalled := by rw [run, State.seg_dirLeave, State.seg_setSeg_same]
  refine ⟨_, rfl, fun v l => .of_data (State.lane_data ?_ l), fun a => ?_, ?_, ?_, ?_, fun n hn => ?_⟩
  · have := congrArg Kept.threads (data v 0 0 0)
    rw [kept_emptySeg, hu] at this
    exact this
  · have := congrArg Kept.mem (data 0 0 0 0)
    rw [kept_emptySeg, hu] at this
    refine (congrArg (Memory.read · a) this).trans ?_
    show Memory.read (if _ then _ else _) a = _
    split
    · exact State.read_withDirty wf ..
    · rfl
  · rw [seg]; rfl
  · rw [seg]; rfl
  · rw [seg]; rfl
  · have := congrArg Kept.lines (data 0 core 0 0)
    rw [kept_emptySeg, if_pos rfl] at this
    exact (congrArg (BitVec.getLsbD · n) this).trans (emptied_lines hn _)

/-- An INV or a RECALL, both of which reach the segment alike. -/
theorem exec_recall {core i : Nat} {s : State} (near : s.near core i) (asRecall : Bool) : ∃ again,
    exec (if asRecall then .windowRecall core i else .windowInv core i) s = .next (s.recallSeg core i again) := by
  cases asRecall with
  | false => exact ⟨_, congrArg Host.Outcome.next (State.overLink_near near _ _)⟩
  | true => exact ⟨_, congrArg Host.Outcome.next (State.overLink_near near _ _)⟩

theorem recall_gone {core i : Nat} {s : State} (near : s.near core i) (gone : (s.seg core i).st = .i ∨ (s.seg core i).st = .t) (asRecall : Bool) :
    Happens (if asRecall then .windowRecall core i else .windowInv core i) s fun t => s.SameStore t ∧ .windowGone core i ∈ t.agenda := by
  obtain ⟨again, he⟩ := exec_recall near asRecall
  have run : s.recallSeg core i again = s.post (.windowGone core i) := by
    unfold State.recallSeg
    rcases gone with e | e <;> simp [e]
  rw [run] at he
  exact happens_of_keeps he (fun _ _ _ _ => rfl) fun store => ⟨store, State.mem_post_self ..⟩

/-! ### A holder leaves -/

/-- An entry without one of its holders. -/
def Dir.without (d : Dir) (n : Nat × Nat) : Dir := { d with sharers := d.sharers.filter (fun x => x ≠ n), asked := d.asked.filter fun x => x ≠ n }

theorem windowGone_leaves {core i : Nat} {s : State} {d : Dir} (near : s.near core i) (entry : s.dir? (regionOf (s.seg core i).pa) = some d)
    (asked : d.asked = [(core, i)]) (queue : d.queue = []) (sharers : d.sharers = []) (st : (s.seg core i).st = .i)
    (filling : (s.seg core i).filling = false) (notice : (s.seg core i).notice = false) (back : (s.seg core i).back = false) :
    Happens (.windowGone core i) s fun t => s.SameStore t ∧
      ∀ e, t.dir? (regionOf (s.seg core i).pa) = some e → (core, i) ∉ e.asked ∧ (core, i) ∉ e.sharers := by
  have he : exec (.windowGone core i) s = .next (s.dirLeave (regionOf (s.seg core i).pa) (core, i)) := by
    refine congrArg Host.Outcome.next ((State.overLink_near near _ _).trans ?_)
    simp [entry, asked, st, filling, notice, back]
  have unbound : (s.dirLeave (regionOf (s.seg core i).pa) (core, i)).dir? (regionOf (s.seg core i).pa) = none := by
    have removed : (s.setDir (regionOf (s.seg core i).pa) (d.without (core, i))).dir? (regionOf (s.seg core i).pa) = none := by
      rw [State.dir_setDir, if_pos (by simp [Dir.without, asked, queue, sharers])]
    unfold State.dirLeave
    rw [entry]
    show ((s.setDir _ (d.without (core, i))).serve _).dir? _ = none
    rw [State.serve, removed]
    exact removed
  refine happens_of_keeps he (fun _ _ _ _ => State.kept_dirLeave ..) fun store => ⟨store, fun e here => ?_⟩
  rw [unbound] at here
  cases here

theorem windowNotice_free {core i : Nat} {s : State} (near : s.near core i) (notice : (s.seg core i).notice = true)
    (back : (s.seg core i).back = false) (st : (s.seg core i).st = .i) :
    Happens (.windowNotice core i) s fun t => s.SameStore t ∧ .windowNoticeAck core i ∈ t.agenda := by
  have he : exec (.windowNotice core i) s =
      .next ((s.dirLeave (regionOf (s.seg core i).pa) (core, i)).post (.windowNoticeAck core i)) := by
    refine congrArg Host.Outcome.next ((State.overLink_near near _ _).trans ?_)
    simp [notice, back, st]
  exact happens_of_keeps he (fun _ _ _ _ => State.kept_dirLeave ..) fun store => ⟨store, State.mem_post_self ..⟩

theorem windowNotice_dirty {core i : Nat} {s : State} (near : s.near core i) (notice : (s.seg core i).notice = true)
    (back : (s.seg core i).back = false) (st : (s.seg core i).st = .t) (known : s.knows (regionOf (s.seg core i).pa) (core, i) = true)
    (wf : s.canonical = true) (takes : s.takesBack core i) :
    Happens (.windowNotice core i) s fun t => (∀ a, t.byte a = s.withDirty core i a) ∧ .windowNoticeAck core i ∈ t.agenda := by
  obtain ⟨u, written, hu⟩ := State.writeBack_takes takes
  have he : exec (.windowNotice core i) s =
      .next ((u.dirLeave (regionOf (s.seg core i).pa) (core, i)).post (.windowNoticeAck core i)) := by
    refine congrArg Host.Outcome.next ((State.overLink_near near _ _).trans ?_)
    simp [notice, back, st, known, written]
  have ack : .windowNoticeAck core i ∈ ((u.dirLeave (regionOf (s.seg core i).pa) (core, i)).post (.windowNoticeAck core i)).agenda :=
    State.mem_post_self ..
  have data (v c k h : Nat) : ((u.dirLeave (regionOf (s.seg core i).pa) (core, i)).post (.windowNoticeAck core i)).kept v c k h =
      { s.kept v c k h with mem := Memory.writeCells s.mem (s.dirtyCells core i) } := by
    rw [State.kept_post, State.kept_dirLeave, hu]
  generalize (u.dirLeave (regionOf (s.seg core i).pa) (core, i)).post (.windowNoticeAck core i) = t at he ack data
  have mem := State.mem_of_kept (data 0 0 0 0)
  refine ⟨t, he, fun v l => .of_data (State.lane_data (congrArg Kept.threads (data v 0 0 0)) l), fun a => ?_, ack⟩
  unfold State.byte
  rw [mem]
  exact State.read_withDirty wf ..

theorem windowNoticeAck_frees {core i : Nat} {s : State} (near : s.near core i) (notice : (s.seg core i).notice = true) :
    Happens (.windowNoticeAck core i) s fun t => s.SameStore t ∧ t.seg core i = Seg.free := by
  have he : exec (.windowNoticeAck core i) s = .next (s.setSeg core i Seg.free) := by
    refine congrArg Host.Outcome.next ((State.overLink_near near _ _).trans ?_)
    rw [if_pos notice]
  exact happens_of_keeps he (fun _ _ _ _ => State.kept_setSeg ..) fun store => ⟨store, State.seg_setSeg_same ..⟩

/-- Settles O33. -/
theorem windowMessages : Obligations.WindowMessages := by
  unfold Obligations.WindowMessages
  refine ⟨?request, ?data, ?recalled, ?missing, ?gone, ?free, ?dirty, ?ack⟩
  case request => exact fun core i s near st filling live unbound => windowFillRequest_grants near st filling live unbound
  case data => exact fun core i l s near hi hl st filling wf low high => windowFillData_fills near hi hl st filling wf low high
  case recalled =>
    intro asRecall core i s near _ held wf takes
    obtain ⟨again, he⟩ := exec_recall near asRecall
    obtain ⟨t, rfl, threads, props⟩ := recallSeg_empties held wf takes again
    exact ⟨_, he, threads, props⟩
  case missing => exact fun asRecall core i s near gone => recall_gone near gone asRecall
  case gone =>
    exact fun core i s d near entry asked queue sharers st filling notice back =>
      windowGone_leaves near entry asked queue sharers st filling notice back
  case free => exact fun core i s near notice back st => windowNotice_free near notice back st
  case dirty => exact fun core i s near notice back st known wf takes => windowNotice_dirty near notice back st known wf takes
  case ack => exact fun core i s near notice _ _ => windowNoticeAck_frees near notice

end Sys2Proof.Machine
end

section
/-! SUPPORT. What a translation leaves (12 R252 to R265): cores, workgroups, gangs, and of every wave all but whether its monitor has fired. -/

-- One theorem at a time: many at once ask for more threads than the checker has memory for.
set_option Elab.async false

namespace Sys2Proof.Machine

/-! ### The observer -/

/-- A wave but for whether its monitor has fired. -/
def Wave.unfired (x : Wave) : Wave := { x with fired := false, firedVa := 0, woken := false }

/-- What a translation leaves, through a wave number, a core and a chip. -/
structure Beside where
  wave : Option Wave
  core : Core
  wgs : Table Workgroup
  gangs : Table Gang
  serial : Nat
  hold : List Packet
  dbg : DebugRegs
  links : Table (List Msg)

def State.beside (s : State) (v c d : Nat) : Beside :=
  { wave := (s.wave? v).map Wave.unfired, core := s.core c, wgs := s.wgs, gangs := s.gangs, serial := s.serial, hold := (s.repl d).hold
    dbg := (s.chip d).dbg, links := s.links }

variable {v c d : Nat}

/-! ### Updates of a part -/

theorem State.beside_modChip {s : State} {i : Nat} {f : Chip → Chip} (hr : ∀ x, (f x).repl.hold = x.repl.hold) (hd : ∀ x, (f x).dbg = x.dbg) :
    (s.modChip i f).beside v c d = s.beside v c d := by
  simp only [State.beside, State.repl, State.chip_modChip]
  split
  · next e => rw [hr, hd, e]; rfl
  · rfl

theorem State.beside_modRepl {s : State} {i : Nat} {f : Repl → Repl} (hf : ∀ x, (f x).hold = x.hold) :
    (s.modRepl i f).beside v c d = s.beside v c d := State.beside_modChip (fun _ => hf _) fun _ => rfl

theorem State.beside_modCluster (s : State) (i : Nat) (f : Cluster → Cluster) : (s.modCluster i f).beside v c d = s.beside v c d := rfl

theorem State.beside_note (s : State) (i n : Nat) (as : List Nat) : (s.note i n as).beside v c d = s.beside v c d :=
  State.beside_modChip (fun _ => rfl) fun _ => rfl

theorem State.beside_postOnce (s : State) (e : Event) : (s.postOnce e).beside v c d = s.beside v c d := by
  unfold State.postOnce; split <;> rfl

theorem State.beside_setLogPos (s : State) (i n : Nat) (p : LogPos) : (s.setLogPos i n p).beside v c d = s.beside v c d :=
  State.beside_modChip (fun _ => rfl) fun _ => rfl

theorem State.beside_fireWave (s : State) (w l : Nat) : (s.fireWave w l).beside v c d = s.beside v c d := by
  have map (o : Option Wave) : (o.map fun x : Wave => if x.fired then { x with woken := x.woken || x.save ≠ .none }
      else { x with fired := true, woken := x.woken || x.save ≠ .none
                    firedVa := ((x.monitor.find? fun m => m.1 = l).orElse fun _ => x.monitor.head?).elim 0 fun m => m.2 }).map Wave.unfired =
      o.map Wave.unfired := by
    rw [Option.map_map]
    refine congrArg (Option.map · o) (funext fun x => ?_)
    simp only [Function.comp_apply]
    split <;> rfl
  unfold State.fireWave
  rw [State.beside_postOnce]
  simp only [State.beside, State.wave?_modWave]
  split
  · next e => rw [e, map]; rfl
  · rfl

theorem State.beside_fireRegs (s : State) (rs : List Reg) (l : Nat) : (s.fireRegs rs l).beside v c d = s.beside v c d :=
  foldl_eq (o := fun s => s.beside v c d) _ _ fun s r _ => by
    split
    · exact State.beside_fireWave ..
    · rfl

/-! ### Logs and version tags -/

theorem State.beside_logWrite (s : State) (cs : Bytes) : (s.homeStore none none cs).beside v c d = s.beside v c d :=
  (State.homeStore_of (o := fun s => s.beside v c d) (core := none) (fun _ _ => State.beside_postOnce ..) (fun _ _ => rfl) nofun
    (fun _ _ _ => State.beside_fireWave ..) s none cs).trans rfl

theorem State.beside_logTake (s : State) (i n : Nat) (m : BitVec 19) (own : Bool) (e : LogEntry) :
    (s.logTake i n m own e).beside v c d = s.beside v c d := by
  unfold State.logTake
  simp only
  split
  · split
    · rfl
    · exact State.beside_setLogPos ..
  · split
    · rw [State.beside_setLogPos, State.beside_logWrite]
    · rfl

theorem State.beside_packetLog (s : State) (i a n : Nat) : (s.packetLog i a n).beside v c d = s.beside v c d :=
  foldl_eq (o := fun s => s.beside v c d) _ _ fun s e _ => by
    split
    · exact State.beside_logTake ..
    · simp only
      split
      · rw [State.beside_note, State.beside_setLogPos]
      · rfl

theorem State.beside_tagRepl (s : State) (i b : Nat) (full : Bool) : (s.tagRepl i b full).beside v c d = s.beside v c d := by
  have clear (s : State) : (if !s.replFails i b then s else
      let t := s.modRepl i fun r => { r with replica := Memory.writeBytes r.replica (64 * b) (List.replicate 64 0) }
      if full then t else t.note i 0x272 [64 * b]).beside v c d = s.beside v c d := by
    split
    · rfl
    · simp only
      split
      · exact State.beside_modRepl fun _ => rfl
      · rw [State.beside_note]
        exact State.beside_modRepl fun _ => rfl
  refine Eq.trans ?_ (clear s)
  exact State.beside_modRepl fun _ => rfl

theorem State.beside_fireRepl (s : State) (i b : Nat) : (s.fireRepl i b).beside v c d = s.beside v c d :=
  State.fireRepl_eq (o := fun s => s.beside v c d) (fun _ _ _ _ => State.beside_setLogPos ..) (fun _ _ _ => State.beside_fireRegs ..) s i b

/-! ### An A or D update -/

theorem Repl.hold_install (r : Repl) (n a : Nat) (strong : Bool) (i : Nat) (x : BitVec 256) : (r.install n a strong i x).hold = r.hold := by
  unfold Repl.install
  split <;> rfl

theorem Repl.hold_installAll (r : Repl) (n a : Nat) (strong : Bool) (imgs : Table (BitVec 256)) : (r.installAll n a strong imgs).hold = r.hold := by
  unfold Repl.installAll
  induction imgs generalizing r with
  | nil => rfl
  | cons e t ih => rw [List.foldl_cons, ih, Repl.hold_install]

theorem State.beside_ite {s a b : State} (p : Prop) [Decidable p] (ha : a.beside v c d = s.beside v c d) (hb : b.beside v c d = s.beside v c d) :
    (if p then a else b).beside v c d = s.beside v c d := by
  split
  · exact ha
  · exact hb

theorem State.beside_strongApply (s : State) (i off : Nat) (ty : Ty) (a b : Quad) : (s.strongApply i 7 ty off a b).2.beside v c d = s.beside v c d := by
  unfold State.strongApply
  simp only
  generalize Repl.perform _ _ _ = w
  obtain ⟨old, sclk, imgs⟩ := w
  simp only
  generalize all : List.foldl _ _ _ = u
  have here : u.beside v c d = s.beside v c d := by
    rw [← all]
    refine (foldl_eq (o := fun s => s.beside v c d) _ _ fun s m _ => ?_).trans ?_
    · simp only [Nat.reduceEqDiff, if_false]
      refine State.beside_ite _ ?_ ((State.beside_fireRepl ..).trans ?_)
      all_goals
        refine (State.beside_modRepl ?_).trans ?_
        · exact fun _ => Repl.hold_installAll ..
        exact State.beside_ite _ (State.beside_ite _ rfl (State.beside_packetLog ..))
          ((State.beside_tagRepl ..).trans (State.beside_ite _ rfl (State.beside_packetLog ..)))
    · refine (State.beside_modRepl ?_).trans (State.beside_modRepl ?_) <;> exact fun _ => rfl
  have written : (if imgs = [] then u else { u with written := Table.put u.written (2 ^ 50 + off / 64) u.serial }).beside v c d = s.beside v c d :=
    State.beside_ite _ here here
  exact State.beside_ite _ ((State.beside_postOnce ..).trans written) written

/-- Nothing is in flight: no message on a link, no packet held. -/
theorem State.inFlight_of_beside {s t : State} (h : ∀ d, t.beside 0 0 d = s.beside 0 0 d) : t.inFlight = s.inFlight := by
  have hold (d : Nat) : (t.repl d).hold = (s.repl d).hold := congrArg Beside.hold (h d)
  have links : t.links = s.links := congrArg Beside.links (h 0)
  unfold State.inFlight
  rw [links]
  simp only [hold]

theorem State.beside_strongCas {s t : State} {i off a b n : Nat} (still : s.inFlight = 0) (h : s.strongCas i off a b = some (n, t)) :
    t.beside v c d = s.beside v c d := by
  unfold State.strongCas State.strongNow at h
  simp only [State.flush, still, if_true] at h
  split at h
  · have e := Option.some.inj h
    rw [← show (s.strongApply i 7 .n64 off (BitVec.ofNat 128 a) (BitVec.ofNat 128 b)).2 = t from congrArg Prod.snd e]
    exact State.beside_strongApply ..
  · cases h

/-! ### Translation -/

theorem State.beside_translateFrom (n : Nat) (x : XCtx) (a : Access) (strong useTlb : Bool) (va : DWord) (s : State) (still : s.inFlight = 0) :
    ∀ v c d, (translateFrom n s x a strong useTlb va).2.beside v c d = s.beside v c d := by
  induction n generalizing s useTlb with
  | zero => intros; rfl
  | succ n ih =>
    intro v c d
    unfold translateFrom
    simp only
    split
    · rfl
    · split
      · rfl
      · split
        · rfl
        · split
          · rfl
          · split
            · exact State.beside_ite _ rfl rfl
            · split
              · rfl
              · next old t cas =>
                have here (v c d : Nat) : t.beside v c d = s.beside v c d := State.beside_strongCas still cas
                split
                · exact here v c d
                · exact (ih _ t ((State.inFlight_of_beside fun d => here 0 0 d).trans still) v c d).trans (here v c d)

theorem State.beside_translate {s : State} (still : s.inFlight = 0) (x : XCtx) (a : Access) (strong : Bool) (va : DWord) (v c d : Nat) :
    (s.translate x a strong va).2.beside v c d = s.beside v c d := State.beside_translateFrom 8 x a strong true va s still v c d

/-- An access translated in one part or two. -/
theorem State.beside_span {s : State} (still : s.inFlight = 0) (x : XCtx) (a : Access) (strong : Bool) (va : DWord) (n v c d : Nat) :
    (s.span x a strong va n).2.beside v c d = s.beside v c d := by
  have first := State.beside_translate still x a strong va
  unfold State.span
  simp only
  generalize s.translate x a strong va = q at first
  obtain ⟨y, t⟩ := q
  have flight : t.inFlight = 0 := (State.inFlight_of_beside fun d => first 0 0 d).trans still
  cases y with
  | ok e pa =>
    simp only
    split
    · exact first v c d
    · generalize va + _ = vb
      have second := State.beside_translate flight x a strong vb
      generalize t.translate x a strong vb = q at second
      obtain ⟨y, u⟩ := q
      cases y <;> exact (second v c d).trans (first v c d)
  | translation => exact first v c d
  | protection => exact first v c d
  | moving => exact first v c d
  | wait => exact first v c d

theorem spans_cons (x : XCtx) (a : Access) (strong aligned : Bool) (n l : Nat) (ea : DWord) (r : List (Nat × DWord)) (s : State) :
    spans x a strong aligned n ((l, ea) :: r) s =
      if aligned && ea.toNat % n ≠ 0 then
        match spans x a strong aligned n r s with
        | (.all ls, s) => (.all ((l, ea, .park 0x04) :: ls), s)
        | q => q
      else match s.span x a strong ea n with
        | (.page va, s) => (.stop (.page va), s)
        | (.wait, s) => (.stop .wait, s)
        | (p, s) => match spans x a strong aligned n r s with
          | (.all ls, s) => (.all ((l, ea, p) :: ls), s)
          | q => q := rfl

/-- The lanes of an access translated. -/
theorem State.beside_spans (x : XCtx) (a : Access) (strong aligned : Bool) (n : Nat) (ls : List (Nat × DWord)) (s : State) (still : s.inFlight = 0) :
    ∀ v c d, (spans x a strong aligned n ls s).2.beside v c d = s.beside v c d := by
  induction ls generalizing s with
  | nil => intros; rfl
  | cons e r ih =>
    obtain ⟨l, ea⟩ := e
    intro v c d
    rw [spans_cons]
    split
    · have rest := ih s still
      generalize spans x a strong aligned n r s = q at rest
      obtain ⟨y, u⟩ := q
      cases y <;> exact rest v c d
    · have first := State.beside_span still x a strong ea n
      generalize s.span x a strong ea n = q at first
      obtain ⟨y, t⟩ := q
      have rest := ih t ((State.inFlight_of_beside fun d => first 0 0 d).trans still)
      cases y with
      | page va => exact first v c d
      | wait => exact first v c d
      | parts ps =>
        dsimp only
        generalize spans x a strong aligned n r t = q at rest
        obtain ⟨y, u⟩ := q
        cases y <;> exact (rest v c d).trans (first v c d)
      | park cause =>
        dsimp only
        generalize spans x a strong aligned n r t = q at rest
        obtain ⟨y, u⟩ := q
        cases y <;> exact (rest v c d).trans (first v c d)

/-- The state after the translations of an access. -/
theorem Translated.beside {f : ExtArgs} {s : State} {k : Who} {a : Access} {strong aligned : Bool} {n : Nat}
    {ls : List (Nat × DWord × Span)} {s1 : State} (h : Translated f s k a strong aligned n ls s1) (v c d : Nat) :
    s1.beside v c d = s.beside v c d := by
  have all := State.beside_spans k.xctx a strong aligned n (k.x.active.map fun l => (l, s.laneEa k f l)) s h.1 v c d
  rwa [h.2] at all

end Sys2Proof.Machine
end

section
/-! SUPPORT. An ended launch whose DONE is counted in a view that lists its one member twice. Refutes O51. -/

-- One theorem at a time: many at once ask for more threads than the checker has memory for.
set_option Elab.async false

namespace Sys2Proof.Machine

/-- Chip 0 is the view, listed twice, and its key 0 has no key loaded; the record at 0x1000 has ended, its DONE at 0x2000. -/
def doneTwice : State :=
  State.reset.modChip 0 fun c => { c with
    keys := [], ended := [0x1000]
    repl := { c.repl with
      members := [0, 0], replica := Memory.writeLe (Memory.writeLe [] 0x1018 8 0x2000) 0x103C 1 3 } }

/-- What O51 asks of the record holds of the state, and the count at DONE stays 0. -/
theorem doneTwice_lost : 0x1000 ∈ (doneTwice.chip 0).ended ∧ doneTwice.unretired 0 0x1000 = false ∧ doneTwice.gangs = [] ∧
    (doneTwice.launchRec 0 0x1000).done = 0x2000 ∧ doneTwice.strongOpen 0 = true ∧ (doneTwice.repl 0).col = 0 ∧
    0 ∈ (doneTwice.repl 0).members ∧ doneTwice.canonical = true ∧ Memory.readLe (doneTwice.repl 0).replica 0x2000 8 = 0 ∧
    (match exec (.launchDone 0 0x1000) doneTwice with
      | .next t => Memory.readLe (t.repl 0).replica 0x2000 8 == 0
      | _ => false) = true := by
  decide +kernel

/-- Refutes O51: where the view lists a member twice and its key is not loaded, the strong add at DONE is made and tagged, and the second
pass finds the tag of no key, empties the block and writes nothing. -/
theorem not_campion : ¬ Obligations.Campion := by
  unfold Obligations.Campion
  rintro ⟨-, -, -, -, -, -, -, -, -, -, -, -, -, -, counts⟩
  obtain ⟨ended, retired, gangs, done, opened, col, member, canonical, before, after⟩ := doneTwice_lost
  have counted := counts 0 0x1000 doneTwice ended retired (by rw [gangs]; simp)
  simp only [done, col] at counted
  obtain ⟨t, ht, -, -, count⟩ := counted (by decide) (by decide) opened member (by decide) canonical
  rw [ht] at after
  rw [before, beq_iff_eq.mp after] at count
  exact absurd count (by decide)

end Sys2Proof.Machine
end

section
/-! SUPPORT. Messages on links, and proposals of a view change (10 R208, R222, R225, R226). Serves O50. -/

-- One theorem at a time: many at once ask for more threads than the checker has memory for.
set_option Elab.async false

namespace Sys2Proof.Machine

variable {v c k h : Nat}

/-! ### Links -/

/-- What is in flight from one chip to another. -/
def State.wire (s : State) (a b : Nat) : List Msg := Table.at s.links (linkKey a b) []

theorem linkKey_inj {a b c d : Nat} (hb : b < 8) (hd : d < 8) : linkKey c d = linkKey a b ↔ c = a ∧ d = b := by
  unfold linkKey; omega

@[simp] theorem State.linkUp_send (s : State) (a b : Nat) (m : Msg) (c d : Nat) : (s.send a b m).linkUp c d = s.linkUp c d := by
  unfold State.send; split <;> rfl

/-- A message joins its link, where that is up. -/
theorem State.wire_send (s : State) {a b c d : Nat} (m : Msg) (hb : b < 8) (hd : d < 8) :
    (s.send a b m).wire c d = if s.linkUp a b = true ∧ c = a ∧ d = b then s.wire c d ++ [m] else s.wire c d := by
  unfold State.send
  split
  case isTrue up =>
    refine (Table.at_put ..).trans ?_
    by_cases at' : c = a ∧ d = b
    · rw [if_pos ((linkKey_inj hb hd).2 at'), if_pos ⟨up, at'⟩, at'.1, at'.2]
      rfl
    · rw [if_neg (fun e => at' ((linkKey_inj hb hd).1 e)), if_neg fun e => at' e.2]
      rfl
  case isFalse down => rw [if_neg fun e => down e.1]

/-- Messages of one chip, each to a chip of a list, read from a state that messages do not change. -/
theorem State.wire_sends {m : State → Nat → Msg} (hm : ∀ s a b n d, m (s.send a b n) d = m s d) {a b d : Nat} (hd : d < 8) (l : List Nat)
    (nodup : l.Nodup) (below : ∀ x ∈ l, x < 8) (s : State) : (l.foldl (fun s x => s.send a x (m s x)) s).wire b d =
      if b = a ∧ d ∈ l ∧ s.linkUp a d = true then s.wire b d ++ [m s d] else s.wire b d := by
  induction l generalizing s with
  | nil => simp
  | cons x l ih =>
    rw [List.nodup_cons] at nodup
    rw [List.foldl_cons, ih nodup.2 (fun y hy => below y (List.mem_cons_of_mem _ hy)), hm, State.linkUp_send,
      State.wire_send _ _ (below x List.mem_cons_self) hd]
    by_cases at' : d = x
    · subst at'
      by_cases from' : b = a <;> by_cases up : s.linkUp a d = true <;> simp [nodup.1, from', up]
    · simp [at']

theorem State.mf4_send (s : State) (a b : Nat) (m : Msg) : (s.send a b m).mf4 = s.mf4 := by
  unfold State.send; split <;> rfl

theorem State.ctlVec_send (s : State) (a b : Nat) (m : Msg) (d : Nat) : (s.send a b m).ctlVec d = s.ctlVec d := by
  simp only [State.ctlVec, State.repl, State.chip_send]

theorem State.links_postOnce (s : State) (e : Event) : (s.postOnce e).links = s.links := by
  unfold State.postOnce; split <;> rfl

theorem State.linkDown_postOnce (s : State) (e : Event) : (s.postOnce e).linkDown = s.linkDown := by
  unfold State.postOnce; split <;> rfl

/-! ### The first message of a link -/

/-- A message at the head of a link that is up. -/
theorem State.headMsg_some {s : State} {a b : Nat} {m : Msg} (hm : s.headMsg a b = some m) :
    s.linkUp a b = true ∧ linkKey a b ∉ s.linkRetry ∧ (s.wire a b).head? = some m := by
  unfold State.headMsg at hm
  split at hm
  case isTrue up =>
    simp only [Bool.and_eq_true, Bool.not_eq_true', List.contains_eq_mem, decide_eq_false_iff_not] at up
    exact ⟨up.1, up.2, hm⟩
  case isFalse => cases hm

/-- A state with the first message of a link taken. -/
def State.unsent (s : State) (a b : Nat) : State :=
  { s with links := match Table.at s.links (linkKey a b) [] with
      | _ :: t => if t = [] then Table.del s.links (linkKey a b) else Table.put s.links (linkKey a b) t
      | [] => s.links }

/-- Taking a message leaves what is no part of the links and of the housekeeping log. -/
theorem State.takeMsg_eq {β : Type} {o : State → β} (hn : ∀ s d n as, o (s.note d n as) = o s)
    (hr : ∀ s rs, o { s with linkResent := rs } = o s) (s : State) (a b : Nat) : o (s.takeMsg a b) = o (s.unsent a b) := by
  unfold State.takeMsg
  simp only
  split
  · exact (hn ..).trans (hr (s.unsent a b) _)
  · rfl

theorem State.wire_unsent (s : State) {a b c d : Nat} (hb : b < 8) (hd : d < 8) :
    (s.unsent a b).wire c d = if c = a ∧ d = b then (s.wire c d).drop 1 else s.wire c d := by
  have other (h : ¬ (c = a ∧ d = b)) : linkKey c d ≠ linkKey a b := fun e => h ((linkKey_inj hb hd).1 e)
  unfold State.unsent State.wire
  simp only
  split
  · next x t e =>
    split
    · next nil =>
      subst nil
      by_cases at' : c = a ∧ d = b
      · rw [if_pos at', at'.1, at'.2, e, Table.at, Table.look_del]; rfl
      · rw [if_neg at', Table.at, Table.look_del_other _ (other at')]; rfl
    · rw [Table.at_put]
      by_cases at' : c = a ∧ d = b
      · rw [if_pos at', if_pos ((linkKey_inj hb hd).2 at'), at'.1, at'.2, e]; rfl
      · rw [if_neg at', if_neg (other at')]
  · next e =>
    split
    · next at' => rw [at'.1, at'.2, e]; rfl
    · rfl

theorem State.wire_takeMsg (s : State) {a b c d : Nat} (hb : b < 8) (hd : d < 8) :
    (s.takeMsg a b).wire c d = if c = a ∧ d = b then (s.wire c d).drop 1 else s.wire c d :=
  (State.takeMsg_eq (o := fun s => s.wire c d) (fun _ _ _ _ => rfl) (fun _ _ => rfl) s a b).trans (State.wire_unsent s hb hd)

@[simp] theorem State.repl_takeMsg (s : State) (a b d : Nat) : (s.takeMsg a b).repl d = s.repl d :=
  State.takeMsg_eq (o := fun s => s.repl d) (fun _ _ _ _ => State.repl_note_frame ..) (fun _ _ => rfl) s a b

@[simp] theorem State.kept_takeMsg (s : State) (a b : Nat) : (s.takeMsg a b).kept v c k h = s.kept v c k h :=
  State.takeMsg_eq (o := fun s => s.kept v c k h) (fun _ _ _ _ => State.kept_note ..) (fun _ _ => rfl) s a b

@[simp] theorem State.linkUp_takeMsg (s : State) (a b c d : Nat) : (s.takeMsg a b).linkUp c d = s.linkUp c d :=
  State.takeMsg_eq (o := fun s => s.linkUp c d) (fun _ _ _ _ => rfl) (fun _ _ => rfl) s a b

@[simp] theorem State.roster_takeMsg (s : State) (a b : Nat) : (s.takeMsg a b).roster = s.roster :=
  State.takeMsg_eq (o := State.roster) (fun _ _ _ _ => rfl) (fun _ _ => rfl) s a b

@[simp] theorem State.ctlVec_takeMsg (s : State) (a b d : Nat) : (s.takeMsg a b).ctlVec d = s.ctlVec d := by
  simp only [State.ctlVec, State.repl_takeMsg]

@[simp] theorem State.chipExists_takeMsg (s : State) (a b d : Nat) : (s.takeMsg a b).chipExists d = s.chipExists d :=
  State.takeMsg_eq (o := fun s => s.chipExists d) (fun _ _ _ _ => rfl) (fun _ _ => rfl) s a b

end Sys2Proof.Machine
end

section
/-! SUPPORT. Proposals of a view change, and the phases that wait (10 R222, R225, R226). Serves O50. -/

-- One theorem at a time: many at once ask for more threads than the checker has memory for.
set_option Elab.async false

namespace Sys2Proof.Machine

variable {v c k h : Nat}

/-! ### PROPOSE -/

/-- The chips that a proposal goes to, and those that it names. -/
def State.invited (s : State) (c : Nat) (join : List Nat) : List Nat :=
  (List.range 8).filter fun d => d ≠ c && s.chipExists d && ((s.repl c).members.contains d || join.contains d)
def State.named (s : State) (c : Nat) (excl : Bool) (shun join : List Nat) : List Nat :=
  (List.range 8).filter fun d => if d = c then !excl else (s.invited c join).contains d && s.linkUp c d && !shun.contains d

/-- The replication unit of a chip that proposes. -/
def Repl.proposes (r : Repl) (c view : Nat) (ms shun join : List Nat) : Repl :=
  { r with vst := .propose, proposedView := view, proposals := [(c, ms)], agreed := [], states := []
           installing := none, shunned := shun, joining := join, phaseClock := 0 }

theorem State.propose_eq (s : State) (c n : Nat) (e : Bool) (x j : List Nat) : s.propose c n e x j =
    ((s.invited c j).foldl (fun u d => u.send c d (.propose (u.ctlVec c) n (s.named c e x j)))
      (s.modRepl c fun r => r.proposes c n (s.named c e x j) x j)).postOnce (.viewPhaseTimeout c) := rfl

theorem State.chip_propose_self (s : State) (c n : Nat) (e : Bool) (x j : List Nat) : (s.propose c n e x j).chip c =
    { s.chip c with repl := (s.repl c).proposes c n (s.named c e x j) x j } := by
  rw [State.propose_eq, State.chip_postOnce_frame, State.chip_sends]
  exact State.chip_modChip_self ..

theorem State.repl_propose_self (s : State) (c n : Nat) (e : Bool) (x j : List Nat) :
    (s.propose c n e x j).repl c = (s.repl c).proposes c n (s.named c e x j) x j :=
  congrArg Chip.repl (s.chip_propose_self c n e x j)

/-- A proposal goes to the chips that the proposer reaches. -/
theorem State.wire_propose (s : State) {b d : Nat} (c n : Nat) (e : Bool) (x j : List Nat) (hd : d < 8) :
    (s.propose c n e x j).wire b d = if b = c ∧ d ∈ s.invited c j ∧ s.linkUp c d = true
      then s.wire b d ++ [.propose (s.ctlVec c) n (s.named c e x j)] else s.wire b d := by
  have vec : (s.modRepl c fun r => r.proposes c n (s.named c e x j) x j).ctlVec c = s.ctlVec c := by
    unfold State.ctlVec State.modRepl
    rw [State.repl_modChip_self]
    rfl
  rw [State.propose_eq, State.wire, State.links_postOnce]
  refine (State.wire_sends (m := fun u _ => .propose (u.ctlVec c) n (s.named c e x j)) (fun _ _ _ _ _ => by
    simp only [State.ctlVec_send]) hd _ (List.nodup_range.filter _) (fun y hy => ?_) _).trans ?_
  · exact List.mem_range.1 (List.mem_filter.1 hy).1
  · rw [vec]
    rfl

theorem State.roster_propose (s : State) (c n : Nat) (e : Bool) (x j : List Nat) : (s.propose c n e x j).roster = s.roster := by
  have post (u : State) (e : Event) : (u.postOnce e).roster = u.roster := by unfold State.postOnce; split <;> rfl
  rw [State.propose_eq, post, foldl_eq (o := State.roster) _ _ fun u d _ => by unfold State.send; split <;> rfl]
  rfl

/-! ### Phases that wait -/

/-- A member agrees on nothing while it lacks a proposal that it waits for. -/
theorem State.tryAgree_waits {s : State} {c m : Nat} (hm : m ∈ Table.at (s.repl c).proposals c [])
    (none : Table.look (s.repl c).proposals m = none) : s.tryAgree c = s := by
  unfold State.tryAgree
  refine if_pos ?_
  simp only [Bool.or_eq_true, Bool.not_eq_true', List.all_eq_false]
  exact .inr ⟨m, hm, by rw [none]; decide⟩

/-- Which chips a proposal of a whole view names. -/
theorem State.mem_named {s : State} {c d : Nat} (hc : c < 8) (excl : Bool) : d ∈ s.named c excl [] [] ↔
    (d < 8 ∧ d ≠ c ∧ s.chipExists d = true ∧ d ∈ (s.repl c).members ∧ s.linkUp c d = true) ∨ (d = c ∧ excl = false) := by
  unfold State.named State.invited
  by_cases at' : d = c
  · subst at'
    simp [hc]
  · simp [at']
    tauto

theorem State.mem_invited {s : State} {c d : Nat} : d ∈ s.invited c [] ↔
    d < 8 ∧ d ≠ c ∧ s.chipExists d = true ∧ d ∈ (s.repl c).members := by
  simp [State.invited]
  tauto

/-- A chip that a member in PROPOSE waits for. -/
theorem Repl.mem_silent {r : Repl} {c m : Nat} (hr : r.vst = .propose) :
    m ∈ r.silent c ↔ m ∈ Table.at r.proposals c [] ∧ Table.look r.proposals m = none := by
  simp [Repl.silent, hr]

end Sys2Proof.Machine
end

section
/-! SUPPORT. A view change begins, and goes on to the exchange (10 R222, R225, R226, R520). Serves O50. -/

-- One theorem at a time: many at once ask for more threads than the checker has memory for.
set_option Elab.async false

namespace Sys2Proof.Machine

variable {v c k h : Nat}

/-- Another member that a chip's links reach. -/
structure State.Reaches (s : State) (c d : Nat) : Prop where
  below : d < 8
  other : d ≠ c
  here : s.chipExists d = true
  member : d ∈ (s.repl c).members
  up : s.linkUp c d = true

theorem State.Reaches.mem_invited {s : State} {c d : Nat} (hd : s.Reaches c d) (j : List Nat) : d ∈ s.invited c j := by
  simp [State.invited, hd.below, hd.other, hd.here, hd.member]

theorem State.Reaches.mem_named {s : State} {c d : Nat} (hd : s.Reaches c d) {x : List Nat} (shun : d ∉ x) (e : Bool) (j : List Nat) :
    d ∈ s.named c e x j := by
  simp [State.named, hd.below, hd.other, hd.mem_invited, hd.up, shun]

/-! ### A change begins -/

/-- What the start of a view change leaves: the proposal, at the chip and on the links. -/
structure Begun (s t : State) (c : Nat) (excl : Bool) : Prop where
  vst : (t.repl c).vst = .propose
  view : (t.repl c).proposedView = ((s.repl c).view + 1) % 256
  set : ∃ ms, (t.repl c).proposals = [(c, ms)] ∧ (∀ d, d ∈ ms ↔ s.Reaches c d ∨ (d = c ∧ excl = false)) ∧
    ∀ d, s.Reaches c d → t.wire c d = s.wire c d ++ [.propose (s.ctlVec c) (((s.repl c).view + 1) % 256) ms]

theorem State.begun_startChange {s : State} {c : Nat} (hc : c < 8) (normal : (s.repl c).vst = .normal) (excl : Bool) :
    Begun s (s.startChange c excl []) c excl := by
  rw [State.startChange_of_normal normal]
  refine ⟨by rw [State.repl_propose_self]; rfl, by rw [State.repl_propose_self]; rfl, s.named c excl [] [], ?_, fun d => ?_, fun d hd => ?_⟩
  · rw [State.repl_propose_self]; rfl
  · rw [State.mem_named hc]
    exact or_congr_left ⟨fun ⟨a, b, c, d, e⟩ => ⟨a, b, c, d, e⟩, fun ⟨a, b, c, d, e⟩ => ⟨a, b, c, d, e⟩⟩
  · rw [State.wire_propose _ _ _ _ _ _ hd.below, if_pos ⟨rfl, hd.mem_invited _, hd.up⟩]

theorem ackTimeout_begins (c : Nat) (s : State) (hc : c < 8) (normal : (s.repl c).vst = .normal)
    (late : ∃ p ∈ (s.repl c).retained, p.arrived + (s.repl c).acklim ≤ (s.chip c).clk) :
    Happens (.ackTimeout c) s fun t => s.SameStore t ∧ Begun s t c false := by
  refine happens_of_keeps (t := s.startChange c false []) ?_ (fun _ _ _ _ => State.kept_startChange ..) fun store =>
    ⟨store, State.begun_startChange hc normal false⟩
  refine congrArg Host.Outcome.next (if_pos ?_)
  simpa [normal] using late

theorem holdTimeout_begins (c : Nat) (s : State) (hc : c < 8) (normal : (s.repl c).vst = .normal)
    (late : (s.repl c).lagmax < (s.repl c).backlog ∨
      ∃ p ∈ (s.repl c).hold ++ (s.repl c).newer, p.arrived + (s.repl c).holdmax ≤ (s.chip c).clk) :
    Happens (.holdTimeout c) s fun t => s.SameStore t ∧ Begun s t c true := by
  refine happens_of_keeps (t := s.startChange c true []) ?_ (fun _ _ _ _ => State.kept_startChange ..) fun store =>
    ⟨store, State.begun_startChange hc normal true⟩
  refine congrArg Host.Outcome.next (if_pos ?_)
  simp only [normal, decide_true, Bool.true_and, Bool.or_eq_true, decide_eq_true_eq, List.any_eq_true]
  exact late

/-! ### PROPOSE arrives -/

theorem State.viewMsg_some {s : State} {a b : Nat} {m : Msg} (hm : s.viewMsg a b = some m) : s.headMsg a b = some m :=
  (Option.filter_eq_some_iff.1 hm).1

theorem exec_proposeMessage {s : State} {a b w : Nat} {vec ms : List Nat} (hm : s.viewMsg a b = some (.propose vec w ms)) :
    exec (.proposeMessage a b) s = .next ((s.takeMsg a b).arrivePropose a b w ms) := by
  show execProposeMessage a b s = _
  simp only [execProposeMessage, hm]

/-- The replication unit that has a chip's proposal. -/
def Repl.hears (r : Repl) (src : Nat) (ms : List Nat) : Repl :=
  { r with proposals := Table.put r.proposals src ms, states := Table.del r.states src }

theorem State.arrivePropose_newer {s : State} {a b w : Nat} {ms : List Nat} (normal : (s.repl b).vst = .normal)
    (newer : viewNewer w (s.repl b).view = true) : s.arrivePropose a b w ms =
      ((s.propose b w false [] ((s.repl b).listeners.filter fun m => ms.contains m)).modRepl b fun r => r.hears a ms).tryAgree b := by
  unfold State.arrivePropose
  simp only [normal, newer, if_true, State.repl_propose_self, Repl.proposes]
  rfl

theorem State.arrivePropose_same {s : State} {a b w : Nat} {ms : List Nat} (vst : (s.repl b).vst = .propose)
    (same : w = (s.repl b).proposedView) : s.arrivePropose a b w ms = (s.modRepl b fun r => r.hears a ms).tryAgree b := by
  subst same
  have old : viewNewer (s.repl b).proposedView (s.repl b).proposedView = false := by simp [viewNewer]
  unfold State.arrivePropose
  simp only [vst, old]
  simp only [Bool.false_eq_true, if_false, vst]
  rfl

theorem viewNewer_iff (a b : Nat) : viewNewer a b = true ↔ (a + 256 - b) % 256 ∈ List.range' 1 127 := by
  simp only [viewNewer, Bool.and_eq_true, decide_eq_true_eq, List.mem_range'_1]
  omega

theorem proposeMessage_joins {a b : Nat} {s : State} {vec : List Nat} {w : Nat} {ms : List Nat} (hb : b < 8) (ne : a ≠ b)
    (hm : s.viewMsg a b = some (.propose vec w ms)) (normal : (s.repl b).vst = .normal)
    (newer : (w + 256 - (s.repl b).view) % 256 ∈ List.range' 1 127) (other : ∃ d, d ≠ a ∧ s.Reaches b d) :
    Happens (.proposeMessage a b) s fun t => s.SameStore t ∧ t.wire a b = (s.wire a b).drop 1 ∧ (t.repl b).vst = .propose ∧
      (t.repl b).proposedView = w ∧ Table.look (t.repl b).proposals a = some ms := by
  obtain ⟨d, hda, hd⟩ := other
  let u := s.takeMsg a b
  let j := (u.repl b).listeners.filter fun m => ms.contains m
  let p := (u.propose b w false [] j).modRepl b fun r => r.hears a ms
  have reach : u.Reaches b d := ⟨hd.below, hd.other, by rw [State.chipExists_takeMsg]; exact hd.here,
    by rw [State.repl_takeMsg]; exact hd.member, by rw [State.linkUp_takeMsg]; exact hd.up⟩
  have repl : p.repl b = ((u.repl b).proposes b w (u.named b false [] j) [] j).hears a ms := by
    rw [← State.repl_propose_self]
    exact State.repl_modChip_self ..
  have proposals : (p.repl b).proposals = Table.put [(b, u.named b false [] j)] a ms := by rw [repl]; rfl
  have waits : p.tryAgree b = p := by
    refine State.tryAgree_waits (m := d) ?_ ?_
    · rw [proposals, Table.at_put_other _ _ _ (Ne.symm ne)]
      simpa [Table.at, Table.look] using reach.mem_named (List.not_mem_nil) false j
    · rw [proposals, Table.look_put_other _ _ hda, Table.look, if_neg hd.other, Table.look]
  have run : exec (.proposeMessage a b) s = .next p := by
    rw [exec_proposeMessage hm, State.arrivePropose_newer (by rw [State.repl_takeMsg]; exact normal)
      (by rw [State.repl_takeMsg]; exact (viewNewer_iff ..).2 newer)]
    exact congrArg Host.Outcome.next waits
  refine happens_of_keeps run (fun _ _ _ _ => ?_) fun store => ⟨store, ?_, by rw [repl]; rfl, by rw [repl]; rfl, ?_⟩
  · exact (State.kept_modRepl (f := fun r => r.hears a ms) fun _ => rfl).trans ((State.kept_propose ..).trans (State.kept_takeMsg ..))
  · refine (State.wire_propose u b w false [] j hb).trans ?_
    rw [if_neg fun e => ne e.1, State.wire_takeMsg _ hb hb, if_pos ⟨rfl, rfl⟩]
  · rw [proposals, Table.look_put_same]

/-- The exchange begins: the agreed set, and the member's report to its lowest rank. -/
theorem State.tryAgree_exchanges {s : State} {c : Nat} (vst : (s.repl c).vst = .propose)
    (full : ∀ m ∈ Table.at (s.repl c).proposals c [], (Table.look (s.repl c).proposals m).isSome = true)
    (member : c ∈ (s.repl c).agree c) (away : ((s.repl c).agree c).headD c ≠ c) :
    let r := { s.repl c with vst := .exchange, agreed := (s.repl c).agree c, phaseClock := 0 }
    s.tryAgree c = (s.modRepl c fun _ => r).send c (((s.repl c).agree c).headD c) (.state r.report) := by
  intro r
  have here : (s.modRepl c fun r => { r with vst := .exchange, agreed := (s.repl c).agree c, phaseClock := 0 }).repl c = r :=
    State.repl_modChip_self ..
  unfold State.tryAgree
  simp only
  rw [if_neg, if_neg, if_neg away, here]
  · rfl
  · simpa using member
  · simpa [vst, ← Option.isSome_iff_ne_none] using full

theorem proposeMessage_agrees {a b : Nat} {s : State} {vec : List Nat} {w : Nat} {ms : List Nat} (hb : b < 8) (ne : a ≠ b)
    (hm : s.viewMsg a b = some (.propose vec w ms)) :
    let r := s.repl b
    let props := Table.put r.proposals a ms
    let ag := ({ r with proposals := props }).agree b
    let i := ag.headD b
    r.vst = .propose → w = r.proposedView → (∀ m ∈ Table.at props b [], (Table.look props m).isSome = true) →
    b ∈ ag → i < 8 → i ≠ b → s.linkUp b i = true →
    Happens (.proposeMessage a b) s fun t => s.SameStore t ∧ (t.repl b).vst = .exchange ∧
      (t.repl b).agreed = ag ∧ ∃ st, t.wire b i = s.wire b i ++ [.state st] ∧
        st.vec = r.applied ∧ (∀ p ∈ st.held, p ∈ r.recent ++ r.hold ++ r.newer ∧ p.rank ∉ (t.repl b).agreed) ∧
        ∀ p ∈ r.recent ++ r.hold ++ r.newer, p.rank ∉ (t.repl b).agreed → p ∈ st.held := by
  intro r props ag i vst same full member below away up
  let u := s.takeMsg a b
  let p := u.modRepl b fun r => r.hears a ms
  have repl : p.repl b = r.hears a ms := by
    refine (State.repl_modChip_self ..).trans ?_
    exact congrArg (Repl.hears · a ms) (State.repl_takeMsg ..)
  have agree : (p.repl b).agree b = ag := by rw [repl]; rfl
  let x : Repl := { p.repl b with vst := .exchange, agreed := (p.repl b).agree b, phaseClock := 0 }
  let q := p.modRepl b fun _ => x
  have run : exec (.proposeMessage a b) s = .next (q.send b i (.state x.report)) := by
    rw [exec_proposeMessage hm, State.arrivePropose_same (by rw [State.repl_takeMsg]; exact vst) (by rw [State.repl_takeMsg]; exact same),
      State.tryAgree_exchanges]
    · exact congrArg Host.Outcome.next (congrArg (fun n => (p.modRepl b fun _ => x).send b n (.state x.report)) (congrArg (List.headD · b) agree))
    · exact (congrArg Repl.vst repl).trans vst
    · exact fun m hm => (by rw [repl] at hm ⊢; exact full m hm)
    · exact agree ▸ member
    · exact agree ▸ away
  have after : (q.send b i (.state x.report)).repl b = x :=
    (congrArg Chip.repl (State.chip_send ..)).trans (State.repl_modChip_self ..)
  refine happens_of_keeps run (fun _ _ _ _ => ?_) fun store => ⟨store, ?_, ?_, x.report, ?_, ?_, ?_, ?_⟩
  · rw [State.kept_send]
    refine (State.kept_setChip ?_).trans ((State.kept_modRepl (f := fun r => r.hears a ms) fun _ => rfl).trans (State.kept_takeMsg ..))
    rfl
  · rw [after]
  · rw [after]; exact agree
  · have up' : q.linkUp b i = true := (State.linkUp_takeMsg s a b b i).trans up
    rw [State.wire_send _ _ below below, if_pos ⟨up', rfl, rfl⟩]
    exact congrArg (· ++ _) ((State.wire_takeMsg s hb below).trans (if_neg fun e => ne e.1.symm))
  · show (p.repl b).applied = _
    rw [repl]
    rfl
  · rw [after]
    intro y hy
    obtain ⟨mem, out⟩ := List.mem_filter.1 hy
    change y ∈ (p.repl b).recent ++ (p.repl b).hold ++ (p.repl b).newer at mem
    exact ⟨by rw [repl] at mem; exact mem, by simpa using out⟩
  · rw [after]
    intro y hy out
    refine List.mem_filter.2 ⟨?_, by simpa using out⟩
    show y ∈ (p.repl b).recent ++ (p.repl b).hold ++ (p.repl b).newer
    rw [repl]
    exact hy

/-! ### A phase lasts too long -/

theorem viewPhaseTimeout_again (c : Nat) (s : State) (vst : (s.repl c).vst = .propose)
    (late : (s.repl c).acklim < (s.repl c).phaseClock)
    (other : ∃ d, s.Reaches c d ∧ d ∉ (s.repl c).shunned ∧ d ∉ (s.repl c).silent c) :
    Happens (.viewPhaseTimeout c) s fun t => s.SameStore t ∧ (t.repl c).vst = .propose ∧
      (t.repl c).proposedView = ((s.repl c).proposedView + 1) % 256 ∧
      ∀ d ∈ (s.repl c).silent c, d ≠ c → d ∉ Table.at (t.repl c).proposals c [] := by
  obtain ⟨d, hd, shun, silent⟩ := other
  let excl := !(Table.at (s.repl c).proposals c [c]).contains c
  let x := (s.repl c).shunned ++ (s.repl c).silent c
  let t := s.propose c (((s.repl c).proposedView + 1) % 256) excl x (s.repl c).joining
  have repl : t.repl c = (s.repl c).proposes c _ (s.named c excl x (s.repl c).joining) x (s.repl c).joining := State.repl_propose_self ..
  have set : Table.at (t.repl c).proposals c [] = s.named c excl x (s.repl c).joining := by
    rw [repl]; simp [Repl.proposes, Table.at, Table.look]
  have start : s.startChange c false ((s.repl c).silent c) = t := by
    unfold State.startChange
    simp only [vst]
    rfl
  have waits : t.tryAgree c = t := by
    refine State.tryAgree_waits (m := d) ?_ ?_
    · rw [set]
      exact hd.mem_named (by simp [x, shun, silent]) _ _
    · rw [repl]; simp [Repl.proposes, Table.look, hd.other]
  refine happens_of_keeps (t := t) ?_ (fun _ _ _ _ => State.kept_propose ..) fun store => ⟨store, by rw [repl]; rfl, by rw [repl]; rfl, ?_⟩
  · show execViewPhaseTimeout c s = _
    simp only [execViewPhaseTimeout, vst, late, start, waits]
    rfl
  · intro e he hne mem
    rw [set] at mem
    have := (List.mem_filter.1 mem).2
    simp [hne, x, he] at this

theorem viewPhaseTimeout_waits (c : Nat) (s : State) (m : Nat) (vst : (s.repl c).vst = .propose)
    (early : (s.repl c).phaseClock ≤ (s.repl c).acklim) (hm : m ∈ Table.at (s.repl c).proposals c [])
    (none : Table.look (s.repl c).proposals m = none) : Happens (.viewPhaseTimeout c) s fun t => t = s := by
  refine happens_same ?_
  show execViewPhaseTimeout c s = _
  simp only [execViewPhaseTimeout, vst, Nat.not_lt.2 early, State.tryAgree_waits hm none]
  rfl

end Sys2Proof.Machine
end

section
/-! SUPPORT. A chip in OUT rejoins (10 R231). Serves O50. -/

-- One theorem at a time: many at once ask for more threads than the checker has memory for.
set_option Elab.async false

namespace Sys2Proof.Machine

variable {v c k h : Nat}

/-- A replication unit after a message of its own: what changes is of the unit alone. -/
theorem State.repl_took (s : State) (a b : Nat) (f : Repl → Repl) : ((s.takeMsg a b).modRepl b f).repl b = f (s.repl b) :=
  (State.repl_modChip_self ..).trans (congrArg f (State.repl_takeMsg ..))

theorem State.kept_took (s : State) (a b : Nat) {f : Repl → Repl} (hf : ∀ r, (f r).replica = r.replica) :
    ((s.takeMsg a b).modRepl b f).kept v c k h = s.kept v c k h :=
  (State.kept_modRepl hf).trans (State.kept_takeMsg ..)

/-- A chip in OUT that asks to come back; a member that admits a listener; a listener that notes a member's count. -/
def Repl.rejoins (r : Repl) : Repl := { r with vst := .listener, hold := [], newer := [], listenS0 := [], donorDone := false, wrapacks := [] }
def Repl.admits (a : Nat) (r : Repl) : Repl := { r with listeners := if r.listeners.contains a then r.listeners else r.listeners ++ [a] }
def Repl.hasCount (a s0 : Nat) (wraps : List Nat) (r : Repl) : Repl :=
  { r with listenS0 := Table.put r.listenS0 a (s0, wraps)
           wrapsApplied := vecSet r.wrapsApplied a (vecAt wraps a)
           wrapacks := (List.range 8).foldl (fun t k => Table.put t (8 * a + k) (vecAt wraps k)) r.wrapacks }
def Repl.hasReport (a : Nat) (st : StateRep) (r : Repl) : Repl := { r with states := Table.put r.states a st }

theorem rjoinWrite_joins (c : Nat) (w : DWord) (s : State) (out : (s.repl c).vst = .out) (go : w.getLsbD 0 = true)
    (powered : (s.chip c).powered = true) : Happens (.rjoinWrite c w) s fun t => s.SameStore t ∧ (t.repl c).vst = .listener ∧
      ∀ d, d < 8 → d ≠ c → s.chipExists d = true → s.linkUp c d = true → t.wire c d = s.wire c d ++ [.join (s.ctlVec c)] := by
  let u := s.modRepl c Repl.rejoins
  let ds := (List.range 8).filter fun d => d ≠ c && u.chipExists d
  let t := ds.foldl (fun s d => s.send c d (.join (s.ctlVec c))) u
  have run : exec (.rjoinWrite c w) s = .next t := congrArg Host.Outcome.next (if_neg (by simp [out, go, powered]))
  have vec : u.ctlVec c = s.ctlVec c := by
    have repl : u.repl c = (s.repl c).rejoins := State.repl_modChip_self ..
    rw [State.ctlVec, repl]
    rfl
  refine happens_of_keeps run (fun _ _ _ _ => ?_) fun store => ⟨store, ?_, fun d below ne here up => ?_⟩
  · exact (foldl_eq (o := fun s => s.kept _ _ _ _) _ _ fun _ _ _ => State.kept_send ..).trans
      (State.kept_modRepl (f := Repl.rejoins) fun _ => rfl)
  · rw [State.repl, State.chip_sends]
    exact congrArg Repl.vst (State.repl_modChip_self s c fun x => { x with repl := x.repl.rejoins })
  · refine (State.wire_sends (m := fun s _ => .join (s.ctlVec c)) (fun _ _ _ _ _ => by simp only [State.ctlVec_send]) below _
      (List.nodup_range.filter _) (fun y hy => List.mem_range.1 (List.mem_filter.1 hy).1) u).trans ?_
    rw [if_pos ⟨rfl, List.mem_filter.2 ⟨List.mem_range.2 below, by simp [ne]; exact here⟩, up⟩, vec]
    rfl

theorem rjoinWrite_ignored (c : Nat) (w : DWord) (s : State) (member : (s.repl c).vst ≠ .out) :
    Happens (.rjoinWrite c w) s fun t => t = s :=
  happens_same (congrArg Host.Outcome.next (if_pos (by simp [member])))

theorem joinMessage_listens {a b : Nat} {s : State} {vec : List Nat} (ha : a < 8) (hb : b < 8) (ne : a ≠ b)
    (hm : s.viewMsg a b = some (.join vec)) (out : (s.repl b).vst ≠ .out) (listener : (s.repl b).vst ≠ .listener)
    (away : a ∉ (s.repl b).members) : Happens (.joinMessage a b) s fun t => s.SameStore t ∧ a ∈ (t.repl b).listeners ∧
      (s.linkUp b a = true → t.wire b a = s.wire b a ++ [.listen (s.repl b).own (s.repl b).wrapsApplied]) := by
  let u := (s.takeMsg a b).modRepl b (Repl.admits a)
  let t := u.send b a (.listen (s.repl b).own (s.repl b).wrapsApplied)
  have run : exec (.joinMessage a b) s = .next t := by
    show execJoinMessage a b s = _
    simp only [execJoinMessage, hm]
    rw [if_neg (by simp [out, listener]), if_neg (by simpa using away)]
    rfl
  refine happens_of_keeps run (fun _ _ _ _ => ?_) fun store => ⟨store, ?_, fun up => ?_⟩
  · exact (State.kept_send ..).trans (State.kept_took s a b (f := Repl.admits a) fun _ => rfl)
  · rw [State.repl, State.chip_send]
    exact (congrArg (fun r : Repl => a ∈ r.listeners) (State.repl_took s a b (Repl.admits a))).mpr (mem_addBlock _ a)
  · have up' : u.linkUp b a = true := (State.linkUp_takeMsg s a b b a).trans up
    rw [State.wire_send _ _ ha ha, if_pos ⟨up', rfl, rfl⟩]
    exact congrArg (· ++ _) ((State.wire_takeMsg s hb ha).trans (if_neg fun e => ne e.2))

theorem listenMessage_notes {a b : Nat} {s : State} {s0 : Nat} {wraps : List Nat} (hm : s.viewMsg a b = some (.listen s0 wraps))
    (listener : (s.repl b).vst = .listener) : Happens (.listenMessage a b) s fun t => s.SameStore t ∧
      Table.look (t.repl b).listenS0 a = some (s0, wraps) ∧ .donorCopy b ∈ t.agenda := by
  let u := (s.takeMsg a b).modRepl b (Repl.hasCount a s0 wraps)
  have run : exec (.listenMessage a b) s = .next (u.postOnce (.donorCopy b)) := by
    show execListenMessage a b s = _
    simp only [execListenMessage, hm]
    rw [if_neg (by simp [listener])]
    rfl
  refine happens_of_keeps run (fun _ _ _ _ => ?_) fun store => ⟨store, ?_, State.mem_agenda_postOnce ..⟩
  · exact (State.kept_postOnce ..).trans (State.kept_took s a b (f := Repl.hasCount a s0 wraps) fun _ => rfl)
  · rw [State.repl_postOnce_frame]
    exact (congrArg (fun r : Repl => Table.look r.listenS0 a) (State.repl_took s a b (Repl.hasCount a s0 wraps))).trans
      (Table.look_put_same ..)

/-- A listener's chip with its donor's copy. -/
def State.copied (s : State) (c d : Nat) : State :=
  s.modChip c fun x =>
    let m := s.repl d
    { x with
      sys := { x.sys with rootrcb := (s.chip d).sys.rootrcb }
      repl := { x.repl with
        replica := m.replica, blockTag := s.copyTags d c, tags := m.tags, rsegsz := m.rsegsz, view := m.view, members := m.members
        nextSlot := m.nextSlot, firstSlot := m.firstSlot, lastSlot := m.lastSlot, col := m.col, granted := m.granted
        own := 0, applied := (List.range 8).map fun j => ((Table.look (s.repl c).listenS0 j).map fun e => e.1).getD 0
        wrapsApplied := (List.range 8).map fun j => ((Table.look (s.repl c).listenS0 j).map fun e => vecAt e.2 j).getD 0
        acked := List.replicate 8 (List.replicate 8 0), sigRecs := [], rqcnt := (s.repl c).rqcnt, ackCount := 0
        wrapackSeen := [], grants24 := [], lagRaised := false, donorDone := true } }

theorem donorCopy_copies (c : Nat) (s : State) (d : Nat) (e : Nat × List Nat) (l : Table (Nat × List Nat))
    (listener : (s.repl c).vst = .listener) (fresh : (s.repl c).donorDone = false) (first : (s.repl c).listenS0 = (d, e) :: l)
    (all : ∀ j ∈ (s.repl d).members, (Table.look (s.repl c).listenS0 j).isSome = true)
    (covers : (s.repl d).covers (s.repl c).listenS0 = true) : Happens (.donorCopy c) s fun t => (∀ a, t.byte a = s.byte a) ∧
      (t.repl c).replica = (s.repl d).replica ∧ (t.repl c).tags = (s.repl d).tags ∧ (t.repl c).rsegsz = (s.repl d).rsegsz ∧
      (t.chip c).sys.rootrcb = (s.chip d).sys.rootrcb ∧
      (∀ j, j < 8 → vecAt (t.repl c).applied j = ((Table.look (s.repl c).listenS0 j).map Prod.fst).getD 0) ∧
      (t.repl c).hold = (s.repl c).hold ∧ .replJoin c ∈ t.agenda := by
  let t := ((s.copied c d).postOnce (.packetApply c)).postOnce (.replJoin c)
  have run : exec (.donorCopy c) s = .next t := by
    show execDonorCopy c s = _
    have every : (s.repl d).members.all (fun j => (Table.look (s.repl c).listenS0 j).isSome) = true := List.all_eq_true.2 all
    rw [first] at every covers
    simp only [execDonorCopy, listener, fresh, first]
    rw [if_neg (by decide), if_neg (by rw [every, covers]; decide)]
    simp only [t, State.copied, first]
  have waves : t.waves = s.waves := (State.waves_postOnce ..).trans (State.waves_postOnce ..)
  have chip : t.chip c = (s.copied c d).chip c := (State.chip_postOnce_frame ..).trans (State.chip_postOnce_frame ..)
  refine ⟨t, run, sameThreads_of_waves (u := t) waves fun _ _ _ _ => rfl, fun a => ?_, ?_⟩
  · exact congrArg (Memory.read · a) ((State.mem_eq_postOnce ..).trans (State.mem_eq_postOnce ..))
  · rw [State.repl, chip, State.copied, State.chip_modChip_self]
    refine ⟨rfl, rfl, rfl, rfl, fun j hj => ?_, rfl, State.mem_agenda_postOnce ..⟩
    simp [vecAt, hj]

theorem replJoin_proposes (c : Nat) (s : State) (listener : (s.repl c).vst = .listener) (done : (s.repl c).donorDone = true) :
    let i := (s.repl c).members.headD c
    (s.repl i).vst = .normal → c ∈ (s.repl i).listeners → Happens (.replJoin c) s fun t => s.SameStore t ∧
      (t.repl i).vst = .propose ∧ (t.repl i).proposedView = ((s.repl i).view + 1) % 256 ∧ (t.repl i).joining = [c] := by
  intro i normal listens
  have run : exec (.replJoin c) s = .next (s.propose i (((s.repl i).view + 1) % 256) false [] [c]) := by
    refine congrArg Host.Outcome.next ?_
    simp only
    rw [if_neg (by simp [listener, done]), if_neg (fun e => e normal), if_neg (fun e => by rw [List.contains_iff_mem.2 listens] at e; cases e)]
  refine happens_of_keeps run (fun _ _ _ _ => State.kept_propose ..) fun store => ⟨store, ?_⟩
  rw [State.repl_propose_self]
  exact ⟨rfl, rfl, rfl⟩

/-! ### STATE while a report is missing -/

theorem State.cut_waits {s : State} {c m : Nat} (hm : m ∈ (s.repl c).agreed) (none : Table.look (s.repl c).states m = none) :
    s.cut c = s := by
  unfold State.cut
  refine if_pos ?_
  simp only [Bool.or_eq_true, Bool.not_eq_true', List.all_eq_false]
  exact .inr ⟨m, hm, by rw [none]; decide⟩

theorem exec_stateMessage {s : State} {a b : Nat} {st : StateRep} (hm : s.viewMsg a b = some (.state st))
    (exchange : (s.repl b).vst = .exchange) : exec (.stateMessage a b) s =
      .next (((s.takeMsg a b).modRepl b (Repl.hasReport a st)).cut b) := by
  show execStateMessage a b s = _
  simp only [execStateMessage, hm]
  rw [if_pos (by simp [exchange])]
  rfl

theorem stateMessage_waits {a b : Nat} {s : State} {st : StateRep} {m : Nat} (hm : s.viewMsg a b = some (.state st))
    (exchange : (s.repl b).vst = .exchange) (agreed : m ∈ (s.repl b).agreed) (ne : m ≠ a) (none : Table.look (s.repl b).states m = none) :
    Happens (.stateMessage a b) s fun t => s.SameStore t ∧ (t.repl b).states = Table.put (s.repl b).states a st ∧
      (t.repl b).vst = .exchange := by
  let u := (s.takeMsg a b).modRepl b (Repl.hasReport a st)
  have repl : u.repl b = (s.repl b).hasReport a st := State.repl_took ..
  have run : exec (.stateMessage a b) s = .next u := by
    rw [exec_stateMessage hm exchange]
    refine congrArg Host.Outcome.next (State.cut_waits (m := m) ?_ ?_)
    · exact (congrArg (fun r : Repl => m ∈ r.agreed) repl).mpr agreed
    · exact (congrArg (fun r : Repl => Table.look r.states m) repl).trans ((Table.look_put_other _ _ ne).trans none)
  refine happens_of_keeps run (fun _ _ _ _ => State.kept_took s a b (f := Repl.hasReport a st) fun _ => rfl) fun store => ⟨store, ?_⟩
  rw [repl]
  exact ⟨rfl, exchange⟩

end Sys2Proof.Machine
end

section
/-! SUPPORT. What the adoption of a view leaves (10 R227 to R229; 11 R247, R250). Serves O50. -/

-- One theorem at a time: many at once ask for more threads than the checker has memory for.
set_option Elab.async false

namespace Sys2Proof.Machine

variable {v c : Nat}

/-- A replication unit but for the events that it reports to the host. -/
def Repl.seat (r : Repl) : Repl := { r with revt := 0 }

/-- What a departure elsewhere leaves of a state: the links, the threads of a wave, a chip's replication unit. -/
structure Stance where
  mf4 : Bool
  down : List Nat
  links : Table (List Msg)
  crew : Option (List ThreadData)
  seat : Repl

def State.stance (s : State) (v c : Nat) : Stance := ⟨s.mf4, s.linkDown, s.links, s.crew v, (s.repl c).seat⟩

theorem State.stance_postOnce (s : State) (e : Event) : (s.postOnce e).stance v c = s.stance v c := by
  unfold State.postOnce; split <;> rfl

theorem State.stance_modChip (s : State) (d : Nat) (f : Chip → Chip) (hf : ∀ x, (f x).repl.seat = x.repl.seat) :
    (s.modChip d f).stance v c = s.stance v c := by
  have seat : ((s.modChip d f).repl c).seat = (s.repl c).seat := by
    simp only [State.repl, State.chip_modChip]
    split
    · next e => rw [hf, e]
    · rfl
  show Stance.mk _ _ _ _ _ = Stance.mk _ _ _ _ _
  rw [seat]
  rfl

theorem State.stance_note (s : State) (d n : Nat) (as : List Nat) : (s.note d n as).stance v c = s.stance v c :=
  State.stance_modChip s d _ fun _ => rfl

theorem State.stance_modCore (s : State) (d : Nat) (f : Core → Core) : (s.modCore d f).stance v c = s.stance v c := rfl

theorem State.stance_modCluster (s : State) (d : Nat) (f : Cluster → Cluster) : (s.modCluster d f).stance v c = s.stance v c := rfl

theorem State.stance_modWave (s : State) (d : Nat) (f : Wave → Wave) (hf : ∀ x, (f x).datas = x.datas) :
    (s.modWave d f).stance v c = s.stance v c := by
  have crew : (s.modWave d f).crew v = s.crew v := congrArg Kept.threads (State.kept_modWave (c := 0) (k := 0) (h := 0) hf)
  show Stance.mk _ _ _ _ _ = Stance.mk _ _ _ _ _
  rw [crew]
  rfl

theorem State.stance_ite {p : Prop} [Decidable p] {s t u : State} (ht : t.stance v c = s.stance v c) (hu : u.stance v c = s.stance v c) :
    (if p then t else u).stance v c = s.stance v c := by
  split
  · exact ht
  · exact hu

theorem State.stance_setDir (s : State) (r : Nat) (d : Dir) : (s.setDir r d).stance v c = s.stance v c := rfl

theorem State.stance_hostGone (s : State) (n : Nat) : (s.hostGone n).stance v c = s.stance v c := by
  unfold State.hostGone
  split
  · rfl
  · split <;> rfl

theorem State.stance_raiseA (s : State) (w d : Nat) (p : PendA) : (s.raiseA w d p).stance v c = s.stance v c := by
  unfold State.raiseA
  split
  · exact State.stance_note ..
  · split
    · exact State.stance_modWave _ _ _ fun _ => rfl
    · exact State.stance_note ..

theorem State.stance_replEvent (s : State) (d n a : Nat) : (s.replEvent d n a).stance v c = s.stance v c := by
  unfold State.replEvent
  simp only
  have told : ((s.modRepl d fun r => { r with revt := r.revt ||| (1#5 <<< n) }).note d (0x1800 + n) [a, (s.repl d).view]).stance v c =
      s.stance v c := (State.stance_note ..).trans (State.stance_modChip s d _ fun _ => rfl)
  split
  · refine (foldl_eq (o := fun s => s.stance v c) _ _ fun u g _ => ?_).trans told
    split
    · split
      · rfl
      · split
        · rfl
        · split
          · rfl
          · exact State.stance_raiseA ..
    · rfl
  · exact told

theorem State.stance_fireWave (s : State) (w n : Nat) : (s.fireWave w n).stance v c = s.stance v c := by
  unfold State.fireWave
  rw [State.stance_postOnce]
  refine State.stance_modWave _ _ _ fun x => ?_
  split <;> rfl

/-! ### A departure -/

theorem State.stance_loseLines (s : State) (now gone : List Nat) : (s.loseLines now gone).stance v c = s.stance v c := by
  refine foldl_eq (o := fun s => s.stance v c) _ _ fun u d _ => foldl_eq (o := fun s => s.stance v c) _ _ fun u e _ => ?_
  refine State.stance_ite ?_ rfl
  rw [State.stance_note, State.stance_hostGone]
  exact foldl_eq (o := fun s => s.stance v c) _ _ fun u m _ => State.stance_modChip u m _ fun _ => rfl

theorem State.stance_loseSegs (s : State) (d : Nat) (gone : List Nat) : (s.loseSegs d gone).stance v c = s.stance v c := by
  unfold State.loseSegs
  generalize ((List.range 64).map fun i => 64 * d + i) = cores
  refine foldl_eq (o := fun s => s.stance v c) _ _ fun u core _ => foldl_eq (o := fun s => s.stance v c) _ _ fun u e _ => ?_
  refine State.stance_ite ?_ rfl
  unfold State.setSeg State.emptySeg
  rw [State.stance_modCore, State.stance_modCore]

theorem State.stance_dropHolders (s : State) (d : Nat) (gone : List Nat) : (s.dropHolders d gone).stance v c = s.stance v c := by
  have posts (s : State) (e : Event) : (s.post e).stance v c = s.stance v c := rfl
  refine foldl_eq (o := fun s => s.stance v c) _ _ fun u k _ => foldl_eq (o := fun s => s.stance v c) _ _ fun u e _ => ?_
  refine (foldl_eq (o := fun s => s.stance v c) _ _ fun u h _ => State.dirLeave_eq (o := fun s => s.stance v c) posts
    (fun _ _ => State.stance_postOnce ..) (fun _ _ _ => State.stance_setDir ..) ..).trans ?_
  have taken (u : State) : (u.dirTake e.1 fun q => q.from gone).stance v c = u.stance v c :=
    State.dirTake_eq (o := fun s => s.stance v c) posts (fun _ _ => State.stance_postOnce ..) (fun _ _ _ => State.stance_setDir ..) ..
  rw [taken]
  exact State.stance_ite (State.stance_note ..) rfl

theorem State.stance_rehomeLines (s : State) (d : Nat) (was now : List Nat) : (s.rehomeLines d was now).stance v c = s.stance v c := by
  unfold State.rehomeLines
  simp only
  rw [foldl_eq (o := fun s => s.stance v c) _ _ fun u e _ => State.stance_hostGone ..]
  refine (State.stance_modChip _ _ _ ?_).trans ?_
  · exact fun _ => rfl
  · exact foldl_eq (o := fun s => s.stance v c) _ _ fun u e _ => State.stance_ite rfl rfl

theorem State.stance_departOnce (s : State) (d : Nat) (now gone : List Nat) : (s.departOnce d now gone).stance v c = s.stance v c := by
  have tokens (u : State) : (u.returnTokens d gone).stance v c = u.stance v c := by
    refine foldl_eq (o := fun s => s.stance v c) _ _ fun u e _ => ?_
    split <;> rfl
  unfold State.departOnce
  simp only
  rw [foldl_eq (o := fun s => s.stance v c) _ _ fun u e _ => ?_, tokens]
  · exact State.stance_loseLines ..
  · rw [foldl_eq (o := fun s => s.stance v c) _ _ fun u e _ => State.stance_postOnce ..]
    refine (State.stance_modChip _ _ _ ?_).trans (State.stance_modChip _ _ _ ?_) <;> exact fun _ => rfl

theorem State.stance_retryStacks (s : State) (d : Nat) (gone : List Nat) : (s.retryStacks d gone).stance v c = s.stance v c := by
  refine foldl_eq (o := fun s => s.stance v c) _ _ fun u e _ => State.stance_ite rfl ?_
  refine foldl_eq (o := fun s => s.stance v c) _ _ fun u e _ => State.stance_ite (State.stance_postOnce ..) rfl

theorem State.stance_depart (s : State) (d : Nat) (was now gone : List Nat) : (s.depart d was now gone).stance v c = s.stance v c := by
  unfold State.depart
  simp only
  rw [State.stance_retryStacks]
  have gone' : ((((s.loseSegs d gone).dropHolders d gone).rehomeLines d was now).modChip d fun x =>
      { x with tokens := x.tokens.filter fun t => !gone.contains t.src }).stance v c = s.stance v c := by
    refine (State.stance_modChip _ _ _ ?_).trans ?_
    · exact fun _ => rfl
    · rw [State.stance_rehomeLines, State.stance_dropHolders, State.stance_loseSegs]
  exact State.stance_ite ((State.stance_departOnce ..).trans gone') gone'

end Sys2Proof.Machine
end

section
/-! SUPPORT. A view is adopted (10 R227 to R229). Serves O50. -/

-- One theorem at a time: many at once ask for more threads than the checker has memory for.
set_option Elab.async false

namespace Sys2Proof.Machine

variable {v c : Nat}

/-! ### Links that only grow -/

/-- Messages have joined links, none has left. -/
structure State.Grows (s t : State) : Prop where
  more : ∀ a b, ∃ l, t.wire a b = s.wire a b ++ l

theorem State.Grows.of_links {s t : State} (h : t.links = s.links) : s.Grows t where
  more a b := ⟨[], by rw [List.append_nil]; exact congrArg (Table.at · (linkKey a b) []) h⟩

theorem State.Grows.trans {s t u : State} (h : s.Grows t) (g : t.Grows u) : s.Grows u where
  more a b := by
    obtain ⟨l, hl⟩ := h.more a b
    obtain ⟨m, hm⟩ := g.more a b
    exact ⟨l ++ m, by rw [hm, hl, List.append_assoc]⟩

theorem State.grows_send (s : State) (a b : Nat) (m : Msg) : s.Grows (s.send a b m) := by
  unfold State.send
  split
  · refine ⟨fun c d => ?_⟩
    refine ⟨if linkKey c d = linkKey a b then [m] else [], (Table.at_put ..).trans ?_⟩
    split
    · next e => rw [State.wire, e]
    · rw [List.append_nil]; rfl
  · exact .of_links rfl

theorem State.grows_foldl {α : Type} {g : State → α → State} (l : List α) (s : State) (hg : ∀ (s : State) (a : α), s.Grows (g s a)) :
    s.Grows (l.foldl g s) :=
  foldl_keeps (P := fun t => s.Grows t) l s (fun t a _ h => h.trans (hg t a)) (.of_links rfl)

theorem State.grows_sendAll (s : State) (a : Nat) (m : Msg) : s.Grows (s.sendAll a m) :=
  State.grows_foldl _ _ fun s b => s.grows_send a b m

/-! ### The wave of messages after an adoption -/

/-- A replication unit that sends its requests again. -/
def Repl.resent (c : Nat) (r : Repl) : Repl :=
  { r with sent := r.sent.map fun q => { q with vec := r.applied }
           pending := (r.pending.filter fun q => q.rank ≠ c) ++ r.sent.map fun q => { q with vec := r.applied } }

theorem State.chip_resendReqs (s : State) (c d : Nat) : (s.resendReqs c).chip d = (s.modRepl c (Repl.resent c)).chip d := by
  refine (foldl_eq (o := fun s => s.chip d) _ _ fun _ _ _ => State.chip_sendAll ..).trans ?_
  simp only [State.modRepl, State.chip_modChip]
  rfl

theorem State.crew_send (s : State) (a b : Nat) (m : Msg) : (s.send a b m).crew v = s.crew v := by
  unfold State.send; split <;> rfl

theorem State.crew_sendAll (s : State) (a : Nat) (m : Msg) : (s.sendAll a m).crew v = s.crew v :=
  foldl_eq (o := fun s => s.crew v) _ _ fun _ _ _ => State.crew_send ..

theorem State.crew_resendReqs (s : State) (d : Nat) : (s.resendReqs d).crew v = s.crew v :=
  foldl_eq (o := fun s => s.crew v) _ _ fun _ _ _ => State.crew_sendAll ..

theorem State.grows_resendReqs (s : State) (d : Nat) : s.Grows (s.resendReqs d) :=
  State.Grows.trans (t := s.modRepl d (Repl.resent d)) (.of_links rfl)
    (State.grows_foldl (g := fun u q => u.sendAll d (.req { q with vec := (s.repl d).applied })) (s.repl d).sent _
      fun _ _ => State.grows_sendAll ..)

/-- What telling a chip of WRAPACKs does: at most a message. -/
theorem State.tellWraps_eq (s : State) (a b : Nat) : s.tellWraps a b = s ∨ ∃ m, s.tellWraps a b = s.send a b m := by
  unfold State.tellWraps
  simp only
  split
  · exact .inr ⟨_, rfl⟩
  · exact .inl rfl

theorem State.chip_tellWraps (s : State) (a b d : Nat) : (s.tellWraps a b).chip d = s.chip d := by
  rcases s.tellWraps_eq a b with e | ⟨m, e⟩ <;> rw [e]
  exact State.chip_send ..

theorem State.crew_tellWraps (s : State) (a b : Nat) : (s.tellWraps a b).crew v = s.crew v := by
  rcases s.tellWraps_eq a b with e | ⟨m, e⟩ <;> rw [e]
  exact State.crew_send ..

theorem State.grows_tellWraps (s : State) (a b : Nat) : s.Grows (s.tellWraps a b) := by
  rcases s.tellWraps_eq a b with e | ⟨m, e⟩ <;> rw [e]
  · exact .of_links rfl
  · exact State.grows_send ..

/-- What a member sends, and what is due, once it has adopted a view. -/
def State.resumes (s : State) (c : Nat) (i : Install) : State :=
  let s := (List.range 8).foldl (fun s k => if i.members.contains k then s.tellWraps c k else s) (s.resendReqs c)
  let s := if seqLimit ≤ (s.repl c).own then s.postOnce (.counterWrap c) else s
  ((s.retryRepl c).postOnce (.colGrant c)).postOnce (.packetApply c)

/-- An observation that messages, the requests sent again and events leave. -/
theorem resumes_eq {β : Type} {o : State → β} (hp : ∀ s e, o (s.postOnce e) = o s) (ht : ∀ s a b, o (s.tellWraps a b) = o s)
    (s : State) (c : Nat) (i : Install) : o (s.resumes c i) = o (s.resendReqs c) := by
  have told : o ((List.range 8).foldl (fun s k => if i.members.contains k then s.tellWraps c k else s) (s.resendReqs c)) =
      o (s.resendReqs c) := by
    refine foldl_eq (o := o) _ _ fun u d _ => ?_
    split
    · exact ht ..
    · rfl
  unfold State.resumes
  simp only
  rw [hp, hp, State.retryRepl]
  refine (foldl_eq (o := o) _ _ fun u x _ => ?_).trans ?_
  · split
    · rfl
    · refine foldl_eq (o := o) _ _ fun u e _ => ?_
      split
      · exact hp ..
      · rfl
  · split
    · exact (hp ..).trans told
    · exact told

theorem State.repl_resumes (s : State) (c : Nat) (i : Install) : (s.resumes c i).repl c = (s.repl c).resent c := by
  rw [State.repl, resumes_eq (o := fun s => s.chip c) (fun _ _ => State.chip_postOnce_frame ..) (fun _ _ _ => State.chip_tellWraps ..),
    State.chip_resendReqs]
  exact State.repl_modChip_self ..

theorem State.crew_resumes (s : State) (c : Nat) (i : Install) : (s.resumes c i).crew v = s.crew v :=
  (resumes_eq (o := fun s => s.crew v) (fun s e => by unfold State.postOnce; split <;> rfl) (fun _ _ _ => State.crew_tellWraps ..) s c i).trans
    (State.crew_resendReqs ..)

theorem State.grows_resumes (s : State) (c : Nat) (i : Install) : s.Grows (s.resumes c i) := by
  unfold State.resumes
  simp only
  refine (State.grows_resendReqs s c).trans ((State.grows_foldl (g := fun s k => if i.members.contains k then s.tellWraps c k else s)
    (List.range 8) _ fun u d => ?_).trans (.of_links ?_))
  · split
    · exact State.grows_tellWraps ..
    · exact .of_links rfl
  · rw [State.links_postOnce, State.links_postOnce]
    refine (foldl_eq (o := State.links) _ _ fun u x _ => ?_).trans ?_
    · split
      · rfl
      · refine foldl_eq (o := State.links) _ _ fun u e _ => ?_
        split
        · exact State.links_postOnce ..
        · rfl
    · split
      · exact State.links_postOnce ..
      · rfl

/-! ### The adoption -/

theorem State.adopt_spec {s : State} {c : Nat} {i : Install} (installing : (s.repl c).installing = some i) (hold : (s.repl c).hold = []) :
    ∃ u : State, (∀ v, u.stance v c = (s.modRepl c fun r => (r.adopt c i).freeAcked c).stance v c) ∧ s.adopt c = u.resumes c i := by
  let gone := (s.repl c).members.filter fun m => !i.members.contains m
  let came := i.members.filter fun m => !(s.repl c).members.contains m
  let s1 := s.modRepl c fun r => (r.adopt c i).freeAcked c
  let s2 := if came ≠ [] then s1.replEvent c 4 (came.headD 0) else s1
  let s3 := if gone ≠ [] || came = [] then s2.replEvent c 3 (gone.headD c) else s2
  let s4 := if gone = [] then s3.rehomeLines c (s.repl c).members i.members else s3.depart c (s.repl c).members i.members gone
  refine ⟨(s4.repl c).regs.foldl (fun s g => s.fireWave g.wave g.line) s4, fun v => ?_, ?_⟩
  · rw [foldl_eq (o := fun s => s.stance v c) _ _ fun u g _ => State.stance_fireWave ..]
    have h2 : s2.stance v c = s1.stance v c := State.stance_ite (State.stance_replEvent ..) rfl
    have h3 : s3.stance v c = s2.stance v c := State.stance_ite (State.stance_replEvent ..) rfl
    exact (State.stance_ite (State.stance_rehomeLines ..) (State.stance_depart ..)).trans (h3.trans h2)
  · unfold State.adopt
    simp only [installing, hold, ne_eq, not_true_eq_false, if_false]
    rfl

/-- An adoption leaves every thread, and takes no message from a link. -/
theorem State.adopt_quiet (s : State) (c : Nat) : (∀ v, (s.adopt c).crew v = s.crew v) ∧ s.Grows (s.adopt c) := by
  cases installing : (s.repl c).installing with
  | none =>
    have same : s.adopt c = s := by simp only [State.adopt, installing]
    rw [same]
    exact ⟨fun _ => rfl, .of_links rfl⟩
  | some i =>
    by_cases hold : (s.repl c).hold = []
    · obtain ⟨u, hu, run⟩ := State.adopt_spec installing hold
      rw [run]
      refine ⟨fun v => (State.crew_resumes ..).trans (congrArg Stance.crew (hu v)), ?_⟩
      exact State.Grows.trans (t := u) (.of_links (congrArg Stance.links (hu 0))) (State.grows_resumes ..)
    · have later : s.adopt c = s.postOnce (.packetApply c) := by
        simp only [State.adopt, installing, ne_eq, hold, not_false_eq_true, if_true]
      rw [later]
      exact ⟨fun v => by unfold State.postOnce; split <;> rfl, .of_links (State.links_postOnce ..)⟩

/-- A replication unit that an INSTALL which names its chip reaches. -/
def Repl.installs (i : Install) (r : Repl) : Repl :=
  { r with hold := r.hold ++ i.held.filter r.lacks, newer := r.newer.filter (fun p => i.members.contains p.rank), installing := some i }

theorem State.install_member {s : State} {c : Nat} {i : Install} (member : c ∈ i.members) (vst : (s.repl c).vst = .exchange)
    (view : i.view = (s.repl c).proposedView) : s.install c i = (s.modRepl c (Repl.installs i)).adopt c := by
  unfold State.install
  simp only [vst, view]
  rw [if_neg (by decide), if_neg (by simp [member]), if_neg (by simp)]
  rfl

/-- The counts of chips that leave or come start again. -/
theorem Repl.vecAt_adopt (r : Repl) (c : Nat) (i : Install) (d : Nat) : vecAt (r.adopt c i).applied d =
    if (d ∈ r.members ↔ d ∈ i.members) then vecAt r.applied d else 0 := by
  simp only [Repl.adopt, vecAt, List.getD_eq_getElem?_getD, List.getElem?_mapIdx, Bool.or_eq_true,
    List.mem_filter, Bool.not_eq_true', List.contains_eq_mem, decide_eq_false_iff_not]
  cases r.applied[d]? with
  | none => simp
  | some x => by_cases hr : d ∈ r.members <;> by_cases hi : d ∈ i.members <;> simp [hr, hi]

theorem installMessage_adopts {a b : Nat} {s : State} {vec : List Nat} {i : Install} (hm : s.viewMsg a b = some (.install vec i))
    (member : b ∈ i.members) (vst : (s.repl b).vst = .exchange) (view : i.view = (s.repl b).proposedView) (hold : (s.repl b).hold = [])
    (held : ∀ p ∈ i.held, (s.repl b).lacks p = false) :
    Happens (.installMessage a b) s fun t => (t.repl b).vst = .normal ∧ (t.repl b).view = i.view ∧
      (t.repl b).members = i.members ∧ (t.repl b).col = i.col ∧ (t.repl b).nextSlot = i.first ∧
      (∀ d, d < 8 → vecAt (t.repl b).applied d = if (d ∈ (s.repl b).members ↔ d ∈ i.members) then vecAt (s.repl b).applied d else 0) ∧
      ∀ q ∈ (t.repl b).pending, q ∈ (t.repl b).sent ∨ (q.rank ∈ (s.repl b).members → q.rank ∈ i.members) := by
  let p := (s.takeMsg a b).modRepl b (Repl.installs i)
  have repl : p.repl b = (s.repl b).installs i := State.repl_took ..
  have run : exec (.installMessage a b) s = .next (p.adopt b) := by
    show execInstallMessage a b s = _
    simp only [execInstallMessage, hm]
    exact congrArg Host.Outcome.next (State.install_member member (by rw [State.repl_takeMsg]; exact vst)
      (by rw [State.repl_takeMsg]; exact view))
  have empty : (p.repl b).hold = [] := by
    rw [repl]
    simp only [Repl.installs, hold, List.nil_append, List.filter_eq_nil_iff]
    intro q hq
    rw [held q hq]
    decide
  obtain ⟨u, hu, adopt⟩ := State.adopt_spec (s := p) (c := b) (i := i) (by rw [repl]; rfl) empty
  have seat : (((p.adopt b).repl b)).seat = ((((s.repl b).installs i).adopt b i).freeAcked b |>.resent b).seat := by
    rw [adopt, State.repl_resumes, ← repl]
    have same : (u.repl b).seat = (((p.repl b).adopt b i).freeAcked b).seat := by
      refine (congrArg Stance.seat (hu 0)).trans (congrArg Repl.seat ?_)
      exact State.repl_modChip_self ..
    exact congrArg (fun r : Repl => r.resent b) same
  refine ⟨p.adopt b, run, fun v l => .of_data (State.lane_data ?_ l), ?_⟩
  · exact (State.adopt_quiet p b).1 v |>.trans (congrArg Kept.threads
      (State.kept_took (v := v) (c := 0) (k := 0) (h := 0) s a b (f := Repl.installs i) fun _ => rfl))
  · generalize p.adopt b = t at seat ⊢
    refine ⟨congrArg Repl.vst seat, congrArg Repl.view seat, congrArg Repl.members seat, congrArg Repl.col seat,
      congrArg Repl.nextSlot seat, fun d hd => ?_, fun q hq => ?_⟩
    · have applied : (t.repl b).seat.applied = _ := congrArg Repl.applied seat
      change vecAt (t.repl b).seat.applied d = _
      rw [applied]
      exact Repl.vecAt_adopt ((s.repl b).installs i) b i d
    · have pending : (t.repl b).seat.pending = _ := congrArg Repl.pending seat
      have sent : (t.repl b).seat.sent = _ := congrArg Repl.sent seat
      change q ∈ (t.repl b).seat.pending at hq
      change q ∈ (t.repl b).seat.sent ∨ _
      rw [pending] at hq
      rw [sent]
      rcases List.mem_append.1 hq with old | again
      · refine .inr fun was => ?_
        obtain ⟨x, hx, rfl⟩ := List.mem_map.1 (List.mem_filter.1 old).1
        have stays := (List.mem_filter.1 hx).2
        simpa [Repl.installs, was] using stays
      · exact .inl again

/-! ### The cut -/

/-- A running maximum is at least every value, and is one of them or what it began with. -/
theorem foldl_max_spec {α : Type} (f : α → Nat) (l : List α) (n : Nat) : let m := l.foldl (fun n a => max n (f a)) n
    n ≤ m ∧ (∀ a ∈ l, f a ≤ m) ∧ (m = n ∨ ∃ a ∈ l, m = f a) := by
  induction l generalizing n with
  | nil => simp
  | cons x l ih =>
    obtain ⟨low, each, last⟩ := ih (max n (f x))
    refine ⟨by simp only [List.foldl_cons]; omega, fun a ha => ?_, ?_⟩
    · rcases List.mem_cons.1 ha with rfl | hl
      · simp only [List.foldl_cons]; omega
      · exact each a hl
    · rcases last with e | ⟨a, ha, e⟩
      · by_cases le : n ≤ f x
        · exact .inr ⟨x, List.mem_cons_self, by rw [List.foldl_cons, e]; omega⟩
        · exact .inl (by rw [List.foldl_cons, e]; omega)
      · exact .inr ⟨a, List.mem_cons_of_mem _ ha, by rw [List.foldl_cons, e]⟩

/-- Two packets of a rank with one sequence number. -/
def Packet.Same (p q : Packet) : Prop := q.rank = p.rank ∧ q.gen = p.gen ∧ vecAt q.vec p.rank = vecAt p.vec p.rank

/-- Every packet that a survivor keeps is among the packets joined. -/
theorem mem_joinHeld {ls : List (List Packet)} {l : List Packet} {p : Packet} (hl : l ∈ ls) (hp : p ∈ l) : ∃ q ∈ joinHeld ls, p.Same q := by
  have grow {acc : List Packet} (m : List Packet) (h : ∃ q ∈ acc, p.Same q) : ∃ q ∈ acc ++ m, p.Same q := by
    obtain ⟨q, hq, same⟩ := h
    exact ⟨q, List.mem_append_left _ hq, same⟩
  refine foldl_of_step (P := fun _ => True) (Q := fun acc => ∃ q ∈ acc, p.Same q) hl [] trivial (fun _ _ _ _ => trivial) (fun acc _ => ?_)
    fun acc b _ h => grow _ h
  by_cases old : acc.any (fun q => q.rank = p.rank && q.gen = p.gen && vecAt q.vec p.rank = vecAt p.vec p.rank) = true
  · obtain ⟨q, hq, same⟩ := List.any_eq_true.1 old
    simp only [Bool.and_eq_true, decide_eq_true_eq] at same
    exact grow _ ⟨q, hq, same.1.1, same.1.2, same.2⟩
  · exact ⟨p, List.mem_append_right _ (List.mem_filter.2 ⟨hp, by simpa using old⟩), rfl, rfl, rfl⟩

/-- The packets and slots of the survivors' reports. -/
def Repl.survivors (r : Repl) : List Packet := joinHeld (r.states.map fun e => e.2.held)
def Repl.slotsSeen (r : Repl) : Nat :=
  r.survivors.foldl (fun n p => if p.kind = 1 then max n (p.slot + 1) else n) (r.states.foldl (fun n e => max n e.2.slots) 0)

/-- The INSTALL of a coordinator that has every report. -/
def Repl.cutAt (r : Repl) (c : Nat) : Install :=
  { view := r.proposedView, members := r.agreed, col := c, first := ceilDiv r.slotsSeen 256 * 256
    kept := keptCounts (r.states.map fun e => e.2), held := r.survivors
    joined := (r.states.filter fun e => !r.members.contains e.1).map fun e => (e.1, e.2.wraps) }

/-- The slots seen are past every grant kept, and no further. -/
theorem Repl.slotsSeen_spec (r : Repl) : (∀ e ∈ r.states, e.2.slots ≤ r.slotsSeen) ∧ (∀ p ∈ r.survivors, p.kind = 1 → p.slot < r.slotsSeen) ∧
    (r.slotsSeen = 0 ∨ (∃ e ∈ r.states, r.slotsSeen = e.2.slots) ∨ ∃ p ∈ r.survivors, p.kind = 1 ∧ r.slotsSeen = p.slot + 1) := by
  let f (p : Packet) : Nat := if p.kind = 1 then p.slot + 1 else 0
  have eq : r.slotsSeen = r.survivors.foldl (fun n p => max n (f p)) (r.states.foldl (fun n e => max n e.2.slots) 0) := by
    refine congrFun (congrFun (congrArg List.foldl ?_) _) _
    funext n p
    by_cases kind : p.kind = 1 <;> simp [f, kind]
  obtain ⟨-, each, last⟩ := foldl_max_spec (fun e : Nat × StateRep => e.2.slots) r.states 0
  obtain ⟨low, each', last'⟩ := foldl_max_spec f r.survivors (r.states.foldl (fun n e => max n e.2.slots) 0)
  rw [eq]
  refine ⟨fun e he => (each e he).trans low, fun p hp kind => ?_, ?_⟩
  · have := each' p hp
    rw [show f p = p.slot + 1 from if_pos kind] at this
    exact this
  · rcases last' with e | ⟨p, hp, e⟩
    · rw [e]
      rcases last with e' | ⟨x, hx, e'⟩
      · exact .inl e'
      · exact .inr (.inl ⟨x, hx, e'⟩)
    · rw [e]
      by_cases kind : p.kind = 1
      · exact .inr (.inr ⟨p, hp, kind, if_pos kind⟩)
      · exact .inl (if_neg kind)

theorem ceilDiv_bounds (n : Nat) : n ≤ ceilDiv n 256 * 256 ∧ ceilDiv n 256 * 256 < n + 256 ∧ (n = 0 → ceilDiv n 256 * 256 = 0) := by
  unfold ceilDiv; omega

/-- The chips that an INSTALL goes to. -/
def State.told (s : State) (c : Nat) : List Nat :=
  (List.range 8).filter fun d =>
    d ≠ c && s.chipExists d && ((s.repl c).members.contains d || (s.repl c).agreed.contains d || (s.repl c).listeners.contains d)

theorem State.cut_eq {s : State} {c : Nat} (vst : (s.repl c).vst = .exchange) (installing : (s.repl c).installing = none)
    (first : (s.repl c).agreed.headD 8 = c) (full : ∀ m ∈ (s.repl c).agreed, (Table.look (s.repl c).states m).isSome = true) :
    s.cut c = ((s.told c).foldl (fun u d => u.send c d (.install (u.ctlVec c) ((s.repl c).cutAt c))) s).install c ((s.repl c).cutAt c) := by
  unfold State.cut
  simp only
  have open' : ((decide ((s.repl c).vst ≠ .exchange) || decide ((s.repl c).agreed.headD 8 ≠ c)) || (s.repl c).installing.isSome ||
      !((s.repl c).agreed.all fun m => (Table.look (s.repl c).states m).isSome)) = false := by
    rw [List.all_eq_true.2 full, vst, first, installing]
    simp
  rw [open', if_neg Bool.false_ne_true]
  have held : joinHeld (((s.repl c).states.map fun e => e.2).map fun st => st.held) = (s.repl c).survivors := by
    rw [List.map_map]; rfl
  have slots : (s.repl c).survivors.foldl (fun n p => if p.kind = 1 then max n (p.slot + 1) else n)
      (((s.repl c).states.map fun e => e.2).foldl (fun n st => max n st.slots) 0) = (s.repl c).slotsSeen := by
    rw [List.foldl_map]; rfl
  rw [held, slots]
  rfl

end Sys2Proof.Machine
end

section
/-! SUPPORT. The cut reaches the survivors, a chip left out enters OUT (10 R227 to R230). Settles O50. -/

-- One theorem at a time: many at once ask for more threads than the checker has memory for.
set_option Elab.async false

namespace Sys2Proof.Machine

variable {v c : Nat}

/-- An INSTALL that names its chip leaves every thread, and takes no message from a link. -/
theorem State.install_quiet {s : State} {c : Nat} {i : Install} (member : c ∈ i.members) (vst : (s.repl c).vst = .exchange)
    (view : i.view = (s.repl c).proposedView) : (∀ v, (s.install c i).crew v = s.crew v) ∧ s.Grows (s.install c i) := by
  rw [State.install_member member vst view]
  obtain ⟨crew, grows⟩ := (s.modRepl c (Repl.installs i)).adopt_quiet c
  exact ⟨crew, State.Grows.trans (t := s.modRepl c (Repl.installs i)) (.of_links rfl) grows⟩

theorem stateMessage_cuts {a b : Nat} {s : State} {st : StateRep} (hb : b < 8) (ne : a ≠ b)
    (hm : s.viewMsg a b = some (.state st)) :
    let r := s.repl b
    let sts := Table.put r.states a st
    r.vst = .exchange → r.installing = none → r.agreed.headD 8 = b → (∀ m ∈ r.agreed, (Table.look sts m).isSome = true) →
    Happens (.stateMessage a b) s fun t => ∃ i, i.view = r.proposedView ∧ i.members = r.agreed ∧ i.col = b ∧
      i.first % 256 = 0 ∧ (∀ e ∈ sts, e.2.slots ≤ i.first) ∧ (∀ p ∈ i.held, p.kind = 1 → p.slot < i.first) ∧
      (i.first = 0 ∨ (∃ e ∈ sts, i.first < e.2.slots + 256) ∨ ∃ p ∈ i.held, p.kind = 1 ∧ i.first < p.slot + 257) ∧
      (∀ e ∈ sts, ∀ p ∈ e.2.held, ∃ q ∈ i.held, q.rank = p.rank ∧ q.gen = p.gen ∧ vecAt q.vec p.rank = vecAt p.vec p.rank) ∧
      ∀ d, d < 8 → d ≠ b → s.chipExists d = true → s.linkUp b d = true → d ∈ r.members ∨ d ∈ r.agreed ∨ d ∈ r.listeners →
        ∃ l, t.wire b d = s.wire b d ++ .install (s.ctlVec b) i :: l := by
  intro r sts vst installing first full
  let u := (s.takeMsg a b).modRepl b (Repl.hasReport a st)
  have repl : u.repl b = r.hasReport a st := State.repl_took ..
  let i := (u.repl b).cutAt b
  have states : (u.repl b).states = sts := by rw [repl]; rfl
  have agreed : (u.repl b).agreed = r.agreed := by rw [repl]; rfl
  have vst' : (u.repl b).vst = .exchange := by rw [repl]; exact vst
  have proposed : (u.repl b).proposedView = r.proposedView := by rw [repl]; rfl
  have member : b ∈ r.agreed := by
    cases list : r.agreed with
    | nil => rw [list] at first; exact absurd first (by simp; omega)
    | cons x l => rw [list] at first; exact first ▸ List.mem_cons_self
  let w := (u.told b).foldl (fun u d => u.send b d (.install (u.ctlVec b) i)) u
  have wrepl : w.repl b = u.repl b := congrArg Chip.repl (State.chip_sends ..)
  have run : exec (.stateMessage a b) s = .next (w.install b i) := by
    rw [exec_stateMessage hm vst]
    refine congrArg Host.Outcome.next (State.cut_eq vst' ?_ ?_ ?_)
    · rw [repl]; exact installing
    · rw [agreed]; exact first
    · rw [agreed, states]; exact full
  obtain ⟨crew, grows⟩ := State.install_quiet (s := w) (c := b) (i := i) (by rw [← agreed] at member; exact member)
    (by rw [wrepl]; exact vst') (by rw [wrepl]; rfl)
  obtain ⟨low, held, last⟩ := (u.repl b).slotsSeen_spec
  obtain ⟨above, near, zero⟩ := ceilDiv_bounds (u.repl b).slotsSeen
  have start : i.first = ceilDiv (u.repl b).slotsSeen 256 * 256 := rfl
  refine ⟨w.install b i, run, fun v l => .of_data (State.lane_data ?_ l), i, proposed, agreed, rfl, Nat.mul_mod_left _ _,
    fun e he => ?_, fun p hp kind => ?_, ?_, fun e he p hp => ?_, fun d hd away here up some => ?_⟩
  · refine (crew v).trans ((foldl_eq (o := fun s => s.crew v) _ _ fun _ _ _ => State.crew_send ..).trans ?_)
    exact congrArg Kept.threads (State.kept_took (v := v) (c := 0) (k := 0) (h := 0) s a b (f := Repl.hasReport a st) fun _ => rfl)
  · exact (low e (states ▸ he)).trans above
  · exact Nat.lt_of_lt_of_le (held p hp kind) above
  · rw [start]
    rcases last with e | ⟨e, he, eq⟩ | ⟨p, hp, kind, eq⟩
    · exact .inl (zero e)
    · exact .inr (.inl ⟨e, states ▸ he, by omega⟩)
    · exact .inr (.inr ⟨p, hp, kind, by omega⟩)
  · have mem : e.2.held ∈ (u.repl b).states.map fun e => e.2.held := List.mem_map.2 ⟨e, states ▸ he, rfl⟩
    obtain ⟨q, hq, same⟩ := mem_joinHeld mem hp
    exact ⟨q, hq, same⟩
  · have vec : u.ctlVec b = s.ctlVec b := by
      rw [State.ctlVec, repl]; rfl
    have told : d ∈ u.told b := by
      refine List.mem_filter.2 ⟨List.mem_range.2 hd, ?_⟩
      have here' : u.chipExists d = true := (State.chipExists_takeMsg s a b d).trans here
      rw [repl, here']
      simpa [away, Repl.hasReport, or_assoc] using some
    have up' : u.linkUp b d = true := (State.linkUp_takeMsg s a b b d).trans up
    have sent : w.wire b d = s.wire b d ++ [.install (s.ctlVec b) i] := by
      refine (State.wire_sends (m := fun u _ => .install (u.ctlVec b) i) (fun _ _ _ _ _ => by simp only [State.ctlVec_send]) hd _
        (List.nodup_range.filter _) (fun y hy => List.mem_range.1 (List.mem_filter.1 hy).1) u).trans ?_
      rw [if_pos ⟨rfl, told, up'⟩, vec]
      exact congrArg (· ++ _) ((State.wire_takeMsg s hb hd).trans (if_neg fun e => ne e.1.symm))
    obtain ⟨l, hl⟩ := grows.more b d
    exact ⟨l, by rw [hl, sent, List.append_assoc]; rfl⟩

/-! ### A chip left out -/

theorem State.repl_enterOut (s : State) (c : Nat) : ((s.enterOut c).repl c).out = true ∧ ((s.enterOut c).repl c).hold = [] := by
  simp [State.enterOut]

theorem installMessage_leaves {a b : Nat} {s : State} {vec : List Nat} {i : Install} (hm : s.viewMsg a b = some (.install vec i))
    (left : b ∉ i.members) (out : (s.repl b).vst ≠ .out) (normal : (s.repl b).vst ≠ .normal) :
    Happens (.installMessage a b) s fun t => (t.repl b).vst = .out ∧ (t.repl b).out = true ∧ (t.repl b).hold = [] ∧
      ∀ g k, Table.look s.gangs g = some k → k.chip = b → k.st ≠ .retired → (t.gang? g).map Gang.st = some .killed := by
  let p := s.takeMsg a b
  have run : exec (.installMessage a b) s = .next (p.enterOut b) := by
    show execInstallMessage a b s = _
    simp only [execInstallMessage, hm]
    refine congrArg Host.Outcome.next ?_
    unfold State.install
    simp only [State.repl_takeMsg]
    rw [if_neg out, if_pos (by simpa using left), if_neg (by simp [normal])]
  obtain ⟨u, hu, killed, vst⟩ := p.enterOut_spec b
  obtain ⟨-, -, waves, gangs⟩ : u.mf4 = s.mf4 ∧ u.linkDown = s.linkDown ∧ u.waves = s.waves ∧ u.gangs = s.gangs := by
    simpa only [State.roster, Prod.mk.injEq] using hu.trans (State.roster_takeMsg s a b)
  obtain ⟨-, -, waves', gangs'⟩ : (p.enterOut b).mf4 = (u.killChip b).mf4 ∧ (p.enterOut b).linkDown = (u.killChip b).linkDown ∧
      (p.enterOut b).waves = (u.killChip b).waves ∧ (p.enterOut b).gangs = (u.killChip b).gangs := by
    simpa only [State.roster, Prod.mk.injEq] using killed
  obtain ⟨outs, hold⟩ := p.repl_enterOut b
  refine ⟨p.enterOut b, run, fun v l => .of_data (State.lane_data ?_ l), vst, outs, hold, fun g k hk at' live => ?_⟩
  · have after : (p.enterOut b).crew v = (u.killChip b).crew v := congrArg (fun ws => (Table.look ws v).map Wave.datas) waves'
    have before : u.crew v = s.crew v := congrArg (fun ws => (Table.look ws v).map Wave.datas) waves
    exact after.trans ((State.crew_killChip u b v).trans before)
  · have after : (p.enterOut b).gang? g = (u.killChip b).gang? g := congrArg (Table.look · g) gangs'
    rw [after]
    exact State.killed_killChip ((congrArg (Table.look · g) gangs).trans hk) at' live

/-! ### The agreed set -/

/-- Each member of the view of eight names every chip but the other end of the one link that fails. -/
def oneLinkDown (a b m : Nat) : List Nat := (List.range 8).filter fun d => !((m = a && d = b) || (m = b && d = a))

theorem agreedSet_oneLinkDown : ∀ b < 8, ∀ a < b,
    agreedSet ((List.range 8).map fun m => (m, oneLinkDown a b m)) = (List.range 8).filter fun m => m ≠ b := by
  decide +kernel

theorem agreedSet_alone : ∀ a < 8, agreedSet ((List.range 8).map fun m => (m, if m = a then [a] else (List.range 8).filter fun d => d ≠ a)) =
    (List.range 8).filter fun m => m ≠ a := by
  decide +kernel

theorem reaches_iff {s : State} {c d : Nat} :
    s.Reaches c d ↔ d < 8 ∧ d ≠ c ∧ s.chipExists d = true ∧ d ∈ (s.repl c).members ∧ s.linkUp c d = true :=
  ⟨fun ⟨a, b, c, d, e⟩ => ⟨a, b, c, d, e⟩, fun ⟨a, b, c, d, e⟩ => ⟨a, b, c, d, e⟩⟩

/-- Settles O50, event by event. -/
theorem viewChange : Obligations.ViewChange := by
  unfold Obligations.ViewChange
  intro link pair reached begins full
  have reach {s : State} {c d : Nat} : s.Reaches c d ↔ reached s c d := reaches_iff
  have begun {i : Instr} {s : State} {c : Nat} {excl : Bool} (h : Happens i s fun t => s.SameStore t ∧ Begun s t c excl) :
      begins i s c excl := by
    obtain ⟨t, run, threads, store, vst, view, ms, proposals, mem, sent⟩ := h
    exact ⟨t, run, threads, store, vst, view, ms, proposals, fun d => (mem d).trans (or_congr_left reach), fun d hd => sent d (reach.2 hd)⟩
  refine ⟨fun a b ab hb => agreedSet_oneLinkDown b hb a ab, agreedSet_alone, fun c s hc normal late => begun (ackTimeout_begins c s hc normal late),
    fun c s hc normal late => begun (holdTimeout_begins c s hc normal late), ?_, ?_, ?_, ?_, ?_, ?_, ?_, ?_, rjoinWrite_joins,
    rjoinWrite_ignored, ?_, ?_, ?_, replJoin_proposes⟩
  case refine_1 =>
    rintro a b s w n ms ⟨-, hb, ne, -⟩ hm normal newer ⟨d, hda, hd⟩
    exact proposeMessage_joins hb ne hm normal newer ⟨d, hda, reach.2 hd⟩
  case refine_2 =>
    rintro a b s w n ms ⟨-, hb, ne, -⟩ hm
    exact proposeMessage_agrees hb ne hm
  case refine_3 => exact fun a b s st m _ hm exchange agreed ne none => stateMessage_waits hm exchange agreed ne none
  case refine_4 =>
    rintro a b s st ⟨-, hb, ne, -⟩ hm
    exact stateMessage_cuts hb ne hm
  case refine_5 => exact fun a b s w i _ hm member vst view hold held => installMessage_adopts hm member vst view hold held
  case refine_6 => exact fun a b s w i _ hm left out normal => installMessage_leaves hm left out normal
  case refine_7 =>
    rintro c s - vst late ⟨d, hd, shun, silent⟩
    exact viewPhaseTimeout_again c s vst late ⟨d, reach.2 hd, shun, silent⟩
  case refine_8 => exact fun c s m vst early hm none => viewPhaseTimeout_waits c s m vst early hm none
  case refine_9 =>
    rintro a b s w ⟨ha, hb, ne, -⟩ hm out listener away
    exact joinMessage_listens ha hb ne hm out listener away
  case refine_10 => exact fun a b s s0 wraps _ hm listener => listenMessage_notes hm listener
  case refine_11 => exact fun c s d e l listener fresh first all covers => donorCopy_copies c s d e l listener fresh first all covers

end Sys2Proof.Machine
end

section
/-! SUPPORT. Messages that reach a replication unit, and links that fail (10 R208, R211, R216, R221, R223, R224). Serves O49. -/

-- One theorem at a time: many at once ask for more threads than the checker has memory for.
set_option Elab.async false

namespace Sys2Proof.Machine

variable {v c k h : Nat}

theorem State.repl_modRepl_self (s : State) (c : Nat) (f : Repl → Repl) : (s.modRepl c f).repl c = f (s.repl c) :=
  State.repl_modChip_self ..

/-! ### View changes beside the packets -/

/-- What a proposal does not touch of a replication unit, the start of a view change leaves. -/
theorem State.repl_startChange {β : Type} {o : Repl → β} (ho : ∀ r c n ms x j, o (Repl.proposes r c n ms x j) = o r) (s : State) (c d : Nat)
    (e : Bool) (x : List Nat) : o ((s.startChange c e x).repl d) = o (s.repl d) := by
  have propose (n : Nat) (e : Bool) (x j : List Nat) : o ((s.propose c n e x j).repl d) = o (s.repl d) := by
    by_cases at' : d = c
    · subst at'
      rw [State.repl_propose_self, ho]
    · exact congrArg (fun y : Chip => o y.repl) (State.chip_propose_other s at' n e x j)
  unfold State.startChange
  simp only
  split
  · rfl
  · rfl
  · exact propose ..
  · exact propose ..

/-- A chip that starts a view change sends on its own links only, and on those that are up. -/
theorem State.wire_startChange (s : State) {b c d : Nat} (hd : d < 8) (h : b = c → s.linkUp c d = false) (e : Bool) (x : List Nat) :
    (s.startChange c e x).wire b d = s.wire b d := by
  have propose (n : Nat) (e : Bool) (x j : List Nat) : (s.propose c n e x j).wire b d = s.wire b d := by
    rw [State.wire_propose _ _ _ _ _ _ hd]
    refine if_neg fun e => ?_
    rw [h e.1] at e
    cases e.2.2
  unfold State.startChange
  simp only
  split
  · rfl
  · rfl
  · exact propose ..
  · exact propose ..

/-! ### A packet arrives -/

theorem State.plainMsg_some {s : State} {a b : Nat} {m : Msg} (hm : s.plainMsg a b = some m) : s.headMsg a b = some m :=
  (Option.filter_eq_some_iff.1 hm).1

theorem State.wire_raiseA (s : State) (w d : Nat) (p : PendA) (a b : Nat) : (s.raiseA w d p).wire a b = s.wire a b :=
  congrArg (fun t : Stance => Table.at t.links (linkKey a b) []) (State.stance_raiseA (v := 0) (c := 0) s w d p)

theorem State.wire_replEvent (s : State) (d n r : Nat) (a b : Nat) : (s.replEvent d n r).wire a b = s.wire a b :=
  congrArg (fun t : Stance => Table.at t.links (linkKey a b) []) (State.stance_replEvent (v := 0) (c := 0) s d n r)

theorem State.seat_replEvent (s : State) (d n r e : Nat) : ((s.replEvent d n r).repl e).seat = (s.repl e).seat :=
  congrArg Stance.seat (State.stance_replEvent (v := 0) s d n r)

theorem State.kept_raiseA (s : State) (w d : Nat) (p : PendA) : (s.raiseA w d p).kept v c k h = s.kept v c k h := by
  unfold State.raiseA
  split
  · exact State.kept_note ..
  · split
    · exact State.kept_modWave fun _ => rfl
    · exact State.kept_note ..

theorem State.kept_replEvent (s : State) (d n a : Nat) : (s.replEvent d n a).kept v c k h = s.kept v c k h := by
  have told : ((s.modRepl d fun r => { r with revt := r.revt ||| (1#5 <<< n) }).note d (0x1800 + n) [a, (s.repl d).view]).kept v c k h =
      s.kept v c k h := (State.kept_note ..).trans (State.kept_modRepl fun _ => rfl)
  unfold State.replEvent
  simp only
  split
  · refine (foldl_eq (o := fun s => s.kept v c k h) _ _ fun u g _ => ?_).trans told
    split
    · split
      · rfl
      · split
        · rfl
        · split
          · rfl
          · exact State.kept_raiseA ..
    · rfl
  · exact told

/-- A packet as its receiver keeps it. -/
def State.stamped (s : State) (b : Nat) (p : Packet) : Packet :=
  { p with wraps := (s.repl b).wrapsFrom p.rank, arrived := (s.chip b).clk
           gen := vecAt (s.repl b).wrapsApplied p.rank + ((s.repl b).hold.filter fun q => q.rank = p.rank && q.kind = 2).length }

/-- The parts of a replication unit in which packets are kept. -/
def Repl.stores (r : Repl) : List Packet × List Packet × List Nat := (r.hold, r.newer, r.applied)

/-- What follows once a packet is kept: the lag event, a view change, and the packet is due. -/
def State.lags (s : State) (b : Nat) : State :=
  let r := s.repl b
  let s := if r.lagwarn < r.backlog && !r.lagRaised then (s.modRepl b fun r => { r with lagRaised := true }).replEvent b 1 b else s
  let s := if r.lagmax < r.backlog && r.vst = .normal then s.startChange b true [] else s
  s.postOnce (.packetApply b)

theorem State.arrive_eq {s : State} {b : Nat} (p : Packet) (out : (s.repl b).vst ≠ .out) (listener : (s.repl b).vst ≠ .listener)
    (room : (s.repl b).backlog < 65536) : s.arrive b p =
      if p.view = (s.repl b).view then (s.modRepl b fun r => { r with hold := r.hold ++ [s.stamped b p] }).lags b
      else if viewNewer p.view (s.repl b).view then (s.modRepl b fun r => { r with newer := r.newer ++ [s.stamped b p] }).lags b
      else s := by
  unfold State.arrive
  simp only
  rw [if_neg out, if_neg listener]
  by_cases same : p.view = (s.repl b).view
  · have old : viewNewer p.view (s.repl b).view = false := by rw [same]; simp [viewNewer]
    rw [if_pos same, if_neg (by simp [same]), if_neg (Nat.not_le.2 room), old, if_neg Bool.false_ne_true]
    rfl
  · by_cases newer : viewNewer p.view (s.repl b).view = true
    · simp only [newer, same, Bool.not_true, Bool.false_and, Bool.false_eq_true, if_false, if_true]
      rw [if_neg (Nat.not_le.2 room)]
      rfl
    · have old : (!viewNewer p.view (s.repl b).view && decide (p.view ≠ (s.repl b).view)) = true := by simp [newer, same]
      rw [if_neg same, if_pos old, if_neg newer]

/-- What a backlog leaves: an observation that messages of the chip, its events and changes outside the stores leave. -/
theorem lags_eq {β : Type} {o : State → β} (hp : ∀ s e, o (s.postOnce e) = o s) (s : State) (b : Nat)
    (hl : ∀ s : State, o (s.modRepl b fun r => { r with lagRaised := true }) = o s) (hr : ∀ s n, o (s.replEvent b n b) = o s)
    (hs : ∀ s : State, o (s.startChange b true []) = o s) : o (s.lags b) = o s := by
  have event : o (if (s.repl b).lagwarn < (s.repl b).backlog && !(s.repl b).lagRaised then
      (s.modRepl b fun r => { r with lagRaised := true }).replEvent b 1 b else s) = o s := by
    split
    · rw [hr, hl]
    · rfl
  unfold State.lags
  simp only
  rw [hp]
  split
  · rw [hs, event]
  · exact event

theorem State.stores_lags (s : State) (b : Nat) : ((s.lags b).repl b).stores = (s.repl b).stores := by
  refine lags_eq (o := fun s => (s.repl b).stores) (fun _ _ => by rw [State.repl_postOnce_frame]) s b (fun s => ?_) (fun s n => ?_) fun s => ?_
  · rw [State.repl_modRepl_self]
    rfl
  · have stores (r : Repl) : r.stores = r.seat.stores := rfl
    rw [stores, s.seat_replEvent, ← stores]
  · exact State.repl_startChange (o := Repl.stores) (fun _ _ _ _ _ _ => rfl) s b b true []

theorem State.kept_lags (s : State) (b : Nat) : (s.lags b).kept v c k h = s.kept v c k h :=
  lags_eq (o := fun s => s.kept v c k h) (fun _ _ => State.kept_postOnce ..) s b (fun _ => State.kept_modRepl fun _ => rfl)
    (fun _ _ => State.kept_replEvent ..) fun _ => State.kept_startChange ..

theorem State.wire_lags (s : State) {a b d : Nat} (hd : d < 8) (ne : a ≠ b) : (s.lags b).wire a d = s.wire a d :=
  lags_eq (o := fun s => s.wire a d) (fun _ _ => congrArg (Table.at · _ []) (State.links_postOnce ..)) s b (fun _ => rfl)
    (fun _ _ => State.wire_replEvent ..) fun s => State.wire_startChange s hd (fun e => absurd e ne) ..

theorem State.mem_lags (s : State) (b : Nat) : .packetApply b ∈ (s.lags b).agenda := State.mem_agenda_postOnce ..

/-- A replication unit that keeps a packet of its view; of a newer view. -/
def Repl.holds (p : Packet) (r : Repl) : Repl := { r with hold := r.hold ++ [p] }
def Repl.holdsNewer (p : Packet) (r : Repl) : Repl := { r with newer := r.newer ++ [p] }

theorem packet_arrives {i : Instr} {a b : Nat} {s : State} {p : Packet} (hb : b < 8) (ne : a ≠ b)
    (run : exec i s = .next ((s.takeMsg a b).arrive b p)) (out : (s.repl b).vst ≠ .out) (listener : (s.repl b).vst ≠ .listener)
    (room : (s.repl b).backlog < 65536) :
    Happens i s fun t => s.SameStore t ∧ t.wire a b = (s.wire a b).drop 1 ∧ (t.repl b).applied = (s.repl b).applied ∧
      if p.view = (s.repl b).view then .packetApply b ∈ t.agenda ∧
          ∃ w n g, (t.repl b).hold = (s.repl b).hold ++ [{ p with wraps := w, arrived := n, gen := g }]
        else (t.repl b).hold = (s.repl b).hold ∧
          if (p.view + 256 - (s.repl b).view) % 256 ∈ List.range' 1 127 then (t.repl b).newer.length = (s.repl b).newer.length + 1
          else (t.repl b).newer = (s.repl b).newer := by
  let u := s.takeMsg a b
  have repl : u.repl b = s.repl b := State.repl_takeMsg ..
  have wire : u.wire a b = (s.wire a b).drop 1 := (State.wire_takeMsg s hb hb).trans (if_pos ⟨rfl, rfl⟩)
  rw [State.arrive_eq p (by rw [repl]; exact out) (by rw [repl]; exact listener) (by rw [repl]; exact room), repl] at run
  simp only [← viewNewer_iff]
  have kept (f : Repl → Repl) (hf : ∀ r, (f r).replica = r.replica) (v c k h : Nat) : ((u.modRepl b f).lags b).kept v c k h = s.kept v c k h :=
    (State.kept_lags ..).trans (State.kept_took s a b hf)
  have stores (f : Repl → Repl) : (((u.modRepl b f).lags b).repl b).stores = (f (s.repl b)).stores :=
    (State.stores_lags ..).trans (congrArg Repl.stores (State.repl_took s a b f))
  have sent (f : Repl → Repl) : ((u.modRepl b f).lags b).wire a b = (s.wire a b).drop 1 := (State.wire_lags _ hb ne).trans wire
  by_cases same : p.view = (s.repl b).view
  · simp only [if_pos same] at run ⊢
    have st := stores (Repl.holds (u.stamped b p))
    refine happens_of_keeps (t := (u.modRepl b (Repl.holds (u.stamped b p))).lags b) run (kept _ fun _ => rfl) fun store =>
      ⟨store, sent _, ?_, State.mem_lags .., (u.stamped b p).wraps, (u.stamped b p).arrived,
        (u.stamped b p).gen, ?_⟩
    · exact congrArg (fun x => x.2.2) st
    · exact congrArg (fun x => x.1) st
  · simp only [if_neg same] at run ⊢
    by_cases newer : viewNewer p.view (s.repl b).view = true
    · simp only [if_pos newer] at run ⊢
      have st := stores (Repl.holdsNewer (u.stamped b p))
      refine happens_of_keeps (t := (u.modRepl b (Repl.holdsNewer (u.stamped b p))).lags b) run (kept _ fun _ => rfl) fun store =>
        ⟨store, sent _, congrArg (fun x => x.2.2) st, congrArg (fun x => x.1) st, ?_⟩
      have list := congrArg (fun x => x.2.1.length) st
      exact list.trans (by simp [Repl.holdsNewer, Repl.stores])
    · simp only [if_neg newer] at run ⊢
      refine happens_of_keeps run (fun _ _ _ _ => State.kept_takeMsg ..) fun store => ⟨store, wire, ?_⟩
      rw [repl]
      exact ⟨rfl, rfl, rfl⟩

/-! ### Requests and acknowledgements arrive -/

theorem reqMessage_pends {a b : Nat} {s : State} {q : Req} (hb : b < 8) (hm : s.plainMsg a b = some (.req q))
    (fresh : (s.repl b).duplicate q = false) (first : ∀ p ∈ (s.repl b).pending, p.rank ≠ q.rank ∨ p.rq ≠ q.rq)
    (out : (s.repl b).vst ≠ .out) (listener : (s.repl b).vst ≠ .listener) :
    Happens (.reqMessage a b) s fun t => s.SameStore t ∧ t.wire a b = (s.wire a b).drop 1 ∧
      (∃ v, (t.repl b).pending = (s.repl b).pending ++ [{ q with vec := v }]) ∧ ((s.repl b).col = b → .colGrant b ∈ t.agenda) := by
  let u := s.takeMsg a b
  have repl : u.repl b = s.repl b := State.repl_takeMsg ..
  let f (r : Repl) : Repl := { r with pending := r.pending ++ [{ q with vec := r.readVec q.rank q.vec }] }
  have run : exec (.reqMessage a b) s = .next (if (s.repl b).col = b then (u.modRepl b f).postOnce (.colGrant b) else u.modRepl b f) := by
    show execReqMessage a b s = _
    simp only [execReqMessage, hm]
    refine congrArg Host.Outcome.next ?_
    show u.arriveReq b q = _
    unfold State.arriveReq
    simp only [repl]
    refine if_neg ?_
    simpa [fresh, out, listener, ← not_and_or] using first
  have rest {β : Type} {o : State → β} (hp : ∀ s e, o (s.postOnce e) = o s) :
      o (if (s.repl b).col = b then (u.modRepl b f).postOnce (.colGrant b) else u.modRepl b f) = o (u.modRepl b f) := by
    split
    · exact hp ..
    · rfl
  refine happens_of_keeps run (fun v c k h => ?_) fun store => ⟨store, ?_, ⟨(s.repl b).readVec q.rank q.vec, ?_⟩, fun col => ?_⟩
  · exact (rest (o := fun s => s.kept v c k h) fun _ _ => State.kept_postOnce ..).trans (State.kept_took s a b (f := f) fun _ => rfl)
  · exact (rest (o := fun s => s.wire a b) fun _ _ => congrArg (Table.at · _ []) (State.links_postOnce ..)).trans
      ((State.wire_takeMsg s hb hb).trans (if_pos ⟨rfl, rfl⟩))
  · exact (rest (o := fun s => (s.repl b).pending) fun _ _ => by rw [State.repl_postOnce_frame]).trans
      (congrArg Repl.pending (State.repl_took s a b f))
  · rw [if_pos col]
    exact State.mem_agenda_postOnce ..

theorem ackMessage_frees {a b : Nat} {s : State} {w : List Nat} (hm : s.plainMsg a b = some (.ack w)) :
    Happens (.ackMessage a b) s fun t => s.SameStore t ∧ (t.repl b).acked = (s.repl b).acked.set a w ∧
      ∀ p, p ∈ (t.repl b).retained ↔ p ∈ (s.repl b).retained ∧
        ∃ m ∈ (s.repl b).members, m ≠ b ∧ (t.repl b).knownApplied m p = false := by
  let f (r : Repl) : Repl := { r with acked := r.acked.set a w }
  let u := (s.takeMsg a b).modRepl b f
  let u' := u.modRepl b fun r => r.freeAcked b
  have repl : u'.repl b = (f (s.repl b)).freeAcked b :=
    (State.repl_modChip_self ..).trans (congrArg (Repl.freeAcked · b) (State.repl_took s a b f))
  let full := !((s.takeMsg a b).repl b).canCreate
  let u1 := if full && (u'.repl b).canCreate then u'.retryRepl b else u'
  let u2 := if (u1.repl b).col = b then u1.postOnce (.colGrant b) else u1
  let u3 := if seqLimit ≤ (u2.repl b).own then u2.postOnce (.counterWrap b) else u2
  let t := if (u3.chip b).draining then u3.postOnce (.warmDrainComplete b) else u3
  have run : exec (.ackMessage a b) s = .next t := by
    show execAckMessage a b s = _
    simp only [execAckMessage, hm]
    rfl
  have rest {β : Type} {o : State → β} (hp : ∀ s e, o (s.postOnce e) = o s) (ht : ∀ s, o (s.retryRepl b) = o s) : o t = o u' := by
    have h1 : o u1 = o u' := by
      simp only [u1]
      split
      · exact ht _
      · rfl
    have h2 : o u2 = o u1 := by
      simp only [u2]
      split
      · exact hp ..
      · rfl
    have h3 : o u3 = o u2 := by
      simp only [u3]
      split
      · exact hp ..
      · rfl
    have h4 : o t = o u3 := by
      simp only [t]
      split
      · exact hp ..
      · rfl
    rw [h4, h3, h2, h1]
  have after : t.repl b = (f (s.repl b)).freeAcked b := by
    rw [← repl]
    exact rest (o := fun s => s.repl b) (fun _ _ => State.repl_postOnce_frame ..) fun _ => congrArg Chip.repl (State.chip_retryRepl ..)
  refine happens_of_keeps run (fun v c k h => ?_) fun store => ⟨store, by rw [after]; rfl, fun p => ?_⟩
  · refine (rest (o := fun s => s.kept v c k h) (fun _ _ => State.kept_postOnce ..) fun _ => State.kept_retryRepl ..).trans ?_
    exact (State.kept_modRepl (f := fun r => r.freeAcked b) fun _ => rfl).trans (State.kept_took s a b (f := f) fun _ => rfl)
  · rw [after]
    simp only [Repl.freeAcked, List.mem_filter, Bool.not_eq_true', List.all_eq_false]
    refine and_congr_right fun _ => ⟨?_, ?_⟩
    · rintro ⟨m, hm, known⟩
      obtain ⟨member, ne⟩ := hm
      exact ⟨m, member, by simpa using ne, by simpa [Repl.knownApplied] using known⟩
    · rintro ⟨m, member, ne, known⟩
      exact ⟨m, ⟨member, by simpa using ne⟩, by simpa [Repl.knownApplied] using known⟩

theorem wrapackMessage_counts {a b : Nat} {s : State} {w : List Nat} {n : Nat} (hm : s.plainMsg a b = some (.wrapack w n)) :
    Happens (.wrapackMessage a b) s fun t => s.SameStore t ∧ ∀ i, Table.at (t.repl b).wrapacks i 0 =
      Table.at (s.repl b).wrapacks i 0 + if i = 8 * a + n then 1 else 0 := by
  let f (r : Repl) : Repl := { r with wrapacks := Table.put r.wrapacks (8 * a + n) (Table.at r.wrapacks (8 * a + n) 0 + 1) }
  let u := ((s.takeMsg a b).modRepl b f).modRepl b fun r => r.freeAcked b
  have run : exec (.wrapackMessage a b) s = .next (u.tellWraps b n) := by
    show execWrapackMessage a b s = _
    simp only [execWrapackMessage, hm]
    rfl
  have kept (u : State) (v c k h : Nat) : (u.tellWraps b n).kept v c k h = u.kept v c k h := by
    rcases u.tellWraps_eq b n with e | ⟨m, e⟩ <;> rw [e]
    exact State.kept_send ..
  refine happens_of_keeps run (fun v c k h => ?_) fun store => ⟨store, fun i => ?_⟩
  · rw [kept]
    exact (State.kept_modRepl (f := fun r => r.freeAcked b) fun _ => rfl).trans (State.kept_took s a b (f := f) fun _ => rfl)
  · have repl : u.repl b = (f (s.repl b)).freeAcked b :=
      (State.repl_modChip_self ..).trans (congrArg (Repl.freeAcked · b) (State.repl_took s a b f))
    rw [State.repl, State.chip_tellWraps]
    refine (congrArg (fun r : Repl => Table.at r.wrapacks i 0) repl).trans ((Table.at_put ..).trans ?_)
    split
    · next e => rw [e]
    · rfl

end Sys2Proof.Machine
end

section
/-! SUPPORT. What a replication unit sends of its own accord, and links that fail (10 R208, R221, R223). Serves O49. -/

-- One theorem at a time: many at once ask for more threads than the checker has memory for.
set_option Elab.async false

namespace Sys2Proof.Machine

variable {v c k h : Nat}

/-! ### What goes to every other member -/

/-- A message has gone to every chip of a unit's audience that its links reach. -/
def Sent (s t : State) (c : Nat) (m : Msg) : Prop := ∀ d, d < 8 → d ≠ c → s.chipExists d = true →
  d ∈ (s.repl c).members ∨ d ∈ (s.repl c).listeners → s.linkUp c d = true → t.wire c d = s.wire c d ++ [m]

theorem State.wire_sendAll (s : State) {a b d : Nat} (m : Msg) (hd : d < 8) : (s.sendAll a m).wire b d =
    if b = a ∧ d ∈ s.audience a ∧ s.linkUp a d = true then s.wire b d ++ [m] else s.wire b d :=
  State.wire_sends (m := fun _ _ => m) (fun _ _ _ _ _ => rfl) hd _ (List.nodup_range.filter _)
    (fun _ hy => List.mem_range.1 (List.mem_filter.1 hy).1) s

/-- A message sent in a state that differs from one in nothing that its links or its audience depend on. -/
theorem sent_sendAll {s u : State} {c : Nat} (m : Msg) (links : u.links = s.links) (down : u.linkDown = s.linkDown) (mf4 : u.mf4 = s.mf4)
    (members : (u.repl c).members = (s.repl c).members) (listeners : (u.repl c).listeners = (s.repl c).listeners) :
    Sent s (u.sendAll c m) c m := by
  intro d hd ne here some up
  have up' : u.linkUp c d = true := by rw [State.linkUp, down]; exact up
  have heard : d ∈ u.audience c := by
    refine List.mem_filter.2 ⟨List.mem_range.2 hd, ?_⟩
    rw [members, listeners, State.chipExists, mf4]
    simpa [ne, State.chipExists] using ⟨by simpa [State.chipExists] using here, some⟩
  rw [State.wire_sendAll _ _ hd, if_pos ⟨rfl, heard, up'⟩, State.wire, links]
  rfl

theorem ackTimer_acknowledges (c : Nat) (s : State) (some : (s.repl c).ackCount ≠ 0) (late : 256 ≤ (s.repl c).ackClock)
    (member : c ∈ (s.repl c).members) (out : (s.repl c).vst ≠ .out) : Happens (.ackTimer c) s fun t => s.SameStore t ∧
      ((t.repl c).ackCount, (t.repl c).ackClock) = (0, 0) ∧ Sent s t c (.ack (s.repl c).applied) := by
  have run : exec (.ackTimer c) s = .next (s.sendAck c) := by
    refine congrArg Host.Outcome.next (if_neg ?_)
    simp [some, member, out]
    omega
  refine happens_of_keeps run (fun v c k h => ?_) fun store => ⟨store, ?_, ?_⟩
  · refine (State.kept_modRepl ?_).trans (State.kept_sendAll ..)
    exact fun _ => rfl
  · rw [State.sendAck, State.repl_modRepl_self]
  · exact sent_sendAll (u := s) _ rfl rfl rfl rfl rfl

/-! ### The wrap of a count -/

/-- A unit whose counter has wrapped, its WRAP packet retained. -/
def Repl.wrapped (c : Nat) (p : Packet) (r : Repl) : Repl :=
  { r with own := 0, applied := vecSet r.applied c 0, wrapsApplied := vecSet r.wrapsApplied c (p.gen + 1)
           pending := r.pending.map (fun q => q.afterWrap c), wrapackSeen := []
           retained := r.retain c p }

/-- The WRAP of a chip. -/
def State.wrapOf (s : State) (c : Nat) : Packet :=
  let r := s.repl c
  { kind := 2, rank := c, view := r.view, sclk := 0, blk := 0, mask := 0, vec := vecSet r.applied c (r.own + 1)
    sig := none, tag := none, images := [], slot := 0, rq := 0, irank := 0, opc := 0, ty := .i32, old := 0, wraps := []
    arrived := (s.chip c).clk, gen := vecAt r.wrapsApplied c }

theorem vecAt_vecSet (l : List Nat) (i x j : Nat) (h : i < l.length) : vecAt (vecSet l i x) j = if j = i then x else vecAt l j := by
  simp only [vecAt, vecSet, List.getD_eq_getElem?_getD, List.getElem?_set]
  by_cases e : i = j
  · subst e; simp [h]
  · rw [if_neg e, if_neg fun a => e a.symm]

theorem State.links_replEvent (s : State) (d n r : Nat) : (s.replEvent d n r).links = s.links :=
  congrArg Stance.links (State.stance_replEvent (v := 0) (c := 0) s d n r)

theorem State.revt_replEvent (s : State) (d n r : Nat) : ((s.replEvent d n r).repl d).revt = (s.repl d).revt ||| (1#5 <<< n) := by
  have raise (s : State) (w : Nat) (p : PendA) : ((s.raiseA w d p).repl d).revt = (s.repl d).revt := by
    unfold State.raiseA
    split
    · rw [State.repl_note_frame]
    · split
      · rfl
      · rw [State.repl_note_frame]
  have told : (((s.modRepl d fun r => { r with revt := r.revt ||| (1#5 <<< n) }).note d (0x1800 + n) [r, (s.repl d).view]).repl d).revt =
      (s.repl d).revt ||| (1#5 <<< n) := by rw [State.repl_note_frame, State.repl_modRepl_self]
  unfold State.replEvent
  simp only
  split
  · refine (foldl_eq (o := fun s => (s.repl d).revt) _ _ fun u g _ => ?_).trans told
    split
    · split
      · rfl
      · split
        · rfl
        · split
          · rfl
          · exact raise ..
    · rfl
  · exact told

theorem State.links_retryRepl (s : State) (d : Nat) : (s.retryRepl d).links = s.links := by
  refine foldl_eq (o := State.links) _ _ fun u x _ => ?_
  split
  · rfl
  · refine foldl_eq (o := State.links) _ _ fun u e _ => ?_
    split
    · exact State.links_postOnce ..
    · rfl

theorem counterWrap_wraps (c : Nat) (s : State) (due : 0xFFF00 ≤ (s.repl c).own) (normal : (s.repl c).vst = .normal)
    (acked : (s.repl c).own ≤ (s.repl c).ackedUpTo c) (len : (s.repl c).applied.length = 8) (wlen : (s.repl c).wrapsApplied.length = 8)
    (hc : c < 8) (seen : vecAt (s.repl c).wrapsApplied c = 0 ∨ (∀ m ∈ (s.repl c).members, m ≠ c → m ∈ (s.repl c).wrapackSeen)) :
    Happens (.counterWrap c) s fun t => s.SameStore t ∧ (t.repl c).own = 0 ∧ vecAt (t.repl c).applied c = 0 ∧
      vecAt (t.repl c).wrapsApplied c = vecAt (s.repl c).wrapsApplied c + 1 ∧ (t.repl c).revt.getLsbD 2 = true ∧
      ∃ p, Sent s t c (.packet p) ∧ p.kind = 2 ∧ p.rank = c ∧ vecAt p.vec c = (s.repl c).own + 1 ∧ p.images = [] := by
  let p := s.wrapOf c
  let u := s.modRepl c (Repl.wrapped c p)
  let w := (u.sendAll c (.packet p)).replEvent c 2 c
  have run : exec (.counterWrap c) s = .next ((w.retryRepl c).postOnce (.colGrant c)) := by
    refine congrArg Host.Outcome.next ?_
    have go : (decide ((s.repl c).own < seqLimit) || decide ((s.repl c).vst ≠ .normal) || decide ((s.repl c).ackedUpTo c < (s.repl c).own) ||
        !(decide (vecAt (s.repl c).wrapsApplied c = 0) ||
          ((s.repl c).members.filter fun m => m ≠ c).all fun m => (s.repl c).wrapackSeen.contains m)) = false := by
      have late : ¬ (s.repl c).own < seqLimit := by unfold seqLimit; omega
      have every : (decide (vecAt (s.repl c).wrapsApplied c = 0) ||
          ((s.repl c).members.filter fun m => m ≠ c).all fun m => (s.repl c).wrapackSeen.contains m) = true := by
        simpa [or_iff_not_imp_left] using seen
      rw [every]
      simp [late, normal, acked]
    simp only
    rw [go, if_neg Bool.false_ne_true]
    rfl
  have repl : u.repl c = (s.repl c).wrapped c p := State.repl_modRepl_self ..
  have sentRepl : (u.sendAll c (.packet p)).repl c = u.repl c := State.repl_sendAll ..
  have seat : (w.repl c).seat = ((s.repl c).wrapped c p).seat := by rw [State.seat_replEvent, sentRepl, repl]
  have after : ((w.retryRepl c).postOnce (.colGrant c)).repl c = w.repl c :=
    (State.repl_postOnce_frame ..).trans (congrArg Chip.repl (State.chip_retryRepl ..))
  refine happens_of_keeps run (fun v c' k h => ?_) fun store => ⟨store, ?_⟩
  · rw [State.kept_postOnce, State.kept_retryRepl, State.kept_replEvent, State.kept_sendAll]
    exact State.kept_modRepl fun _ => rfl
  · rw [after]
    have own : (w.repl c).seat.own = _ := congrArg Repl.own seat
    have applied : (w.repl c).seat.applied = _ := congrArg Repl.applied seat
    have wraps : (w.repl c).seat.wrapsApplied = _ := congrArg Repl.wrapsApplied seat
    refine ⟨own, (congrArg (vecAt · c) applied).trans ?_, (congrArg (vecAt · c) wraps).trans ?_, ?_, p, ?_, rfl, rfl, ?_, rfl⟩
    · exact (vecAt_vecSet _ _ _ _ (by omega)).trans (if_pos rfl)
    · exact (vecAt_vecSet _ _ _ _ (by omega)).trans (if_pos rfl)
    · rw [State.revt_replEvent]
      simp
    · intro d hd ne here some up
      have links : ((w.retryRepl c).postOnce (.colGrant c)).links = (u.sendAll c (.packet p)).links := by
        rw [State.links_postOnce, State.links_retryRepl, State.links_replEvent]
      rw [State.wire, links]
      exact sent_sendAll (s := s) (u := u) (.packet p) rfl rfl rfl (by rw [repl]; rfl) (by rw [repl]; rfl) d hd ne here some up
    · exact (vecAt_vecSet _ _ _ _ (by omega)).trans (if_pos rfl)

/-! ### Links that fail -/

theorem State.kept_dropLink (s : State) (a b : Nat) : (s.dropLink a b).kept v c k h = s.kept v c k h :=
  (dropLink_eq (o := fun s => s.kept v c k h) a b s (fun _ _ => State.kept_startChange ..) fun _ _ => State.kept_startChange ..).trans
    (State.kept_note ..)

theorem State.repl_cutLink (s : State) (a b d : Nat) : (s.cutLink a b).repl d = s.repl d := State.repl_note_frame ..

theorem State.linkUp_cutLink (s : State) (a b : Nat) : (s.cutLink a b).linkUp a b = false ∧ (s.cutLink a b).linkUp b a = false := by
  have down : linkKey a b ∈ (s.cutLink a b).linkDown := by
    show linkKey a b ∈ if s.linkDown.contains (linkKey a b) then s.linkDown else s.linkDown ++ [linkKey a b]
    exact mem_addBlock ..
  constructor
  · exact State.linkUp_false down
  · rw [State.linkUp, List.contains_iff_mem.2 down, Bool.not_true, Bool.and_false]

/-- A link that goes down carries nothing any more, in either direction. -/
theorem State.wire_dropLink (s : State) {a b : Nat} (ha : a < 8) (hb : b < 8) (ne : a ≠ b) :
    (s.dropLink a b).wire a b = [] ∧ (s.dropLink a b).wire b a = [] := by
  have empty : (s.cutLink a b).wire a b = [] ∧ (s.cutLink a b).wire b a = [] := by
    show Table.at (Table.del (Table.del s.links _) _) _ [] = [] ∧ Table.at (Table.del (Table.del s.links _) _) _ [] = []
    have key : linkKey a b ≠ linkKey b a := fun e => ne ((linkKey_inj ha hb).1 e).1
    constructor
    · rw [Table.at, Table.look_del_other _ key, Table.look_del]; rfl
    · rw [Table.at, Table.look_del]; rfl
  obtain ⟨upab, upba⟩ := s.linkUp_cutLink a b
  have change {x y z : Nat} (hy : y < 8) (h : x = z → y = if z = a then b else a) (hz : z = a ∨ z = b) (u : State)
      (hu : (u.wire x y, u.linkUp a b, u.linkUp b a) = ((s.cutLink a b).wire x y, (s.cutLink a b).linkUp a b, (s.cutLink a b).linkUp b a)) :
      ((u.startChange z false []).wire x y, (u.startChange z false []).linkUp a b, (u.startChange z false []).linkUp b a) =
        (u.wire x y, u.linkUp a b, u.linkUp b a) := by
    obtain ⟨-, uab, uba⟩ : u.wire x y = _ ∧ u.linkUp a b = _ ∧ u.linkUp b a = _ := by simpa only [Prod.mk.injEq] using hu
    have down : (u.startChange z false []).linkDown = u.linkDown := congrArg (fun r => r.2.1) (u.roster_startChange z false [])
    have up (i j : Nat) : (u.startChange z false []).linkUp i j = u.linkUp i j := by rw [State.linkUp, down]; rfl
    have wire : (u.startChange z false []).wire x y = u.wire x y := by
      refine State.wire_startChange u hy (fun e => ?_) ..
      rw [h e]
      rcases hz with rfl | rfl
      · rw [if_pos rfl, uab, upab]
      · rw [if_neg (Ne.symm ne), uba, upba]
    rw [up, up, wire]
  have dropped {x y : Nat} (hy : y < 8) (h : (x = a ∧ y = b) ∨ (x = b ∧ y = a)) : (s.dropLink a b).wire x y = (s.cutLink a b).wire x y := by
    refine congrArg (fun w => w.1) (dropLink_eq (o := fun s => (s.wire x y, s.linkUp a b, s.linkUp b a)) a b s
      (change hy (fun e => ?_) (.inl rfl)) (change hy (fun e => ?_) (.inr rfl)))
    · rw [if_pos rfl]
      rcases h with ⟨-, e'⟩ | ⟨e', -⟩
      · exact e'
      · exact absurd (e.symm.trans e') ne
    · rw [if_neg (Ne.symm ne)]
      rcases h with ⟨e', -⟩ | ⟨-, e'⟩
      · exact absurd (e'.symm.trans e) ne
      · exact e'
  exact ⟨(dropped hb (.inl ⟨rfl, rfl⟩)).trans empty.1, (dropped ha (.inr ⟨rfl, rfl⟩)).trans empty.2⟩

/-- The ends of a link that goes down start a view change. -/
theorem State.vst_dropLink (s : State) {a b : Nat} (ne : a ≠ b) :
    (b ∈ (s.repl a).members → (s.repl a).vst = .normal → ((s.dropLink a b).repl a).vst = .propose) ∧
    (a ∈ (s.repl b).members → (s.repl b).vst = .normal → ((s.dropLink a b).repl b).vst = .propose) := by
  let u := s.cutLink a b
  let u' := if (u.repl a).members.contains b then u.startChange a false [] else u
  have eq : s.dropLink a b = if (u'.repl b).members.contains a then u'.startChange b false [] else u' := rfl
  have other : u'.repl b = s.repl b := by
    refine Eq.trans ?_ (State.repl_cutLink s a b b)
    simp only [u']
    split
    · exact congrArg Chip.repl (State.chip_startChange_other _ (Ne.symm ne) ..)
    · rfl
  constructor
  · intro member normal
    have first : (u'.repl a).vst = .propose := by
      have yes : (u.repl a).members.contains b = true := by rw [State.repl_cutLink]; exact List.contains_iff_mem.2 member
      simp only [u', yes, if_true]
      rw [State.startChange_of_normal (by rw [State.repl_cutLink]; exact normal), State.repl_propose_self]
      rfl
    rw [eq]
    split
    · exact (congrArg (fun x : Chip => x.repl.vst) (State.chip_startChange_other _ ne ..)).trans first
    · exact first
  · intro member normal
    rw [eq, other, if_pos (List.contains_iff_mem.2 member), State.startChange_of_normal (by rw [other]; exact normal), State.repl_propose_self]
    rfl

theorem linkCrcError_fails (a b : Nat) (s : State) (ha : a < 8) (hb : b < 8) (ne : a ≠ b) (up : s.linkUp a b = true) (some : s.wire a b ≠ [])
    (retry : linkKey a b ∉ s.linkRetry) : Happens (.linkCrcError a b) s fun t => s.SameStore t ∧
      if linkKey a b ∈ s.linkResent then t.linkUp a b = false ∧ t.wire a b = [] ∧ t.wire b a = [] ∧
          (b ∈ (s.repl a).members → (s.repl a).vst = .normal → (t.repl a).vst = .propose) ∧
          (a ∈ (s.repl b).members → (s.repl b).vst = .normal → (t.repl b).vst = .propose)
        else t.links = s.links ∧ linkKey a b ∈ t.linkRetry ∧ .resendRequest a b ∈ t.agenda := by
  have go : (!s.linkUp a b || decide (Table.at s.links (linkKey a b) [] = []) || s.linkRetry.contains (linkKey a b)) = false := by
    have some' : ¬ Table.at s.links (linkKey a b) [] = [] := some
    simp [up, some', retry]
  by_cases resent : linkKey a b ∈ s.linkResent
  · simp only [if_pos resent]
    have run : exec (.linkCrcError a b) s = .next (s.dropLink a b) := by
      refine congrArg Host.Outcome.next ?_
      simp only
      rw [go, if_neg Bool.false_ne_true, if_pos (List.contains_iff_mem.2 resent)]
    obtain ⟨there, back⟩ := s.wire_dropLink ha hb ne
    obtain ⟨va, vb⟩ := s.vst_dropLink ne
    exact happens_of_keeps run (fun _ _ _ _ => State.kept_dropLink ..) fun store =>
      ⟨store, State.linkUp_false (s.linkDown_dropLink a b), there, back, va, vb⟩
  · simp only [if_neg resent]
    have run : exec (.linkCrcError a b) s = .next (({ s with linkRetry := s.linkRetry ++ [linkKey a b] }).post (.resendRequest a b)) := by
      refine congrArg Host.Outcome.next ?_
      simp only
      rw [go, if_neg Bool.false_ne_true, if_neg (fun e => resent (List.contains_iff_mem.1 e))]
    exact happens_of_keeps run (fun _ _ _ _ => rfl) fun store =>
      ⟨store, rfl, List.mem_append_right _ (List.mem_singleton.2 rfl), State.mem_post_self ..⟩

theorem resendRequest_resends (a b : Nat) (s : State) (retry : linkKey a b ∈ s.linkRetry) : Happens (.resendRequest a b) s fun t =>
    s.SameStore t ∧ t.links = s.links ∧ linkKey a b ∉ t.linkRetry ∧ linkKey a b ∈ t.linkResent ∧ ∀ m ∈ s.wire a b, m.event a b ∈ t.agenda := by
  let u : State := { s with linkRetry := s.linkRetry.filter (fun x => x ≠ linkKey a b), linkResent := s.linkResent ++ [linkKey a b] }
  let t := (s.wire a b).foldl (fun s m => s.post (m.event a b)) u
  have run : exec (.resendRequest a b) s = .next t := by
    refine congrArg Host.Outcome.next (if_neg ?_)
    rw [List.contains_iff_mem.2 retry]
    decide
  have rest {β : Type} {o : State → β} (hp : ∀ s e, o (s.post e) = o s) : o t = o u := foldl_eq (o := o) _ _ fun _ _ _ => hp ..
  refine happens_of_keeps run (fun v c k h => rest (o := fun s => s.kept v c k h) fun _ _ => rfl) fun store =>
    ⟨store, rest (o := State.links) fun _ _ => rfl, ?_, ?_, fun m hm => ?_⟩
  · rw [rest (o := State.linkRetry) fun _ _ => rfl]
    simp [u]
  · rw [rest (o := State.linkResent) fun _ _ => rfl]
    exact List.mem_append_right _ (List.mem_singleton.2 rfl)
  · exact mem_agenda_foldl_of_mem (e := fun m : Msg => m.event a b) (fun s m d hd => State.mem_post hd) (fun s m => State.mem_post_self ..) _ u m hm

end Sys2Proof.Machine
end

section
/-! SUPPORT. What the application of a packet leaves beside its effects: memory, links, a chip's replication unit, a wave's threads and
results (10 R211, R213, R219; 12 R262). Serves O49. -/

-- One theorem at a time: many at once ask for more threads than the checker has memory for.
set_option Elab.async false

namespace Sys2Proof.Machine

variable {v c : Nat}

/-! ### The observers -/

/-- A replication unit but for its signature records, its block tags, its acknowledgements and the events it reports. -/
def Repl.ledger (r : Repl) : Repl := { r with sigRecs := [], blockTag := [], ackCount := 0, ackClock := 0, acked := [], revt := 0 }

/-- What no wave holds: memory, links, a chip's replication unit and its registers. -/
structure Aloof where
  mem : Memory
  mf4 : Bool
  down : List Nat
  links : Table (List Msg)
  ledger : Repl
  sys : SysRegs

/-- What a wave holds: its threads, its outstanding results, its strong instruction. -/
structure Roll where
  threads : List Thread
  loads : Table Load
  strong : Option Strong

def Wave.roll (x : Wave) : Roll := ⟨x.threads, x.loads, x.strong⟩
def State.aloof (s : State) (c : Nat) : Aloof := ⟨s.mem, s.mf4, s.linkDown, s.links, (s.repl c).ledger, (s.chip c).sys⟩
def State.roll (s : State) (v : Nat) : Option Roll := (s.wave? v).map Wave.roll
def State.books (s : State) (v c : Nat) : Aloof × Option Roll := (s.aloof c, s.roll v)

/-! ### Parts of a state -/

theorem State.books_post (s : State) (e : Event) : (s.post e).books v c = s.books v c := rfl

theorem State.books_postOnce (s : State) (e : Event) : (s.postOnce e).books v c = s.books v c := by
  unfold State.postOnce; split <;> rfl

theorem State.books_modChip {s : State} {d : Nat} {f : Chip → Chip} (hr : ∀ x, (f x).repl.ledger = x.repl.ledger) (hs : ∀ x, (f x).sys = x.sys) :
    (s.modChip d f).books v c = s.books v c := by
  have chip : ((s.modChip d f).repl c).ledger = (s.repl c).ledger ∧ ((s.modChip d f).chip c).sys = (s.chip c).sys := by
    simp only [State.repl, State.chip_modChip]
    split
    · next e => rw [hr, hs, e]; exact ⟨rfl, rfl⟩
    · exact ⟨rfl, rfl⟩
  show (Aloof.mk _ _ _ _ _ _, _) = (Aloof.mk _ _ _ _ _ _, _)
  rw [chip.1, chip.2]
  rfl

theorem State.books_modRepl {s : State} {d : Nat} {f : Repl → Repl} (hr : ∀ x, (f x).ledger = x.ledger) :
    (s.modRepl d f).books v c = s.books v c := State.books_modChip (fun _ => hr _) fun _ => rfl

theorem State.books_modWave {s : State} {w : Nat} {f : Wave → Wave} (hf : ∀ x, (f x).roll = x.roll) :
    (s.modWave w f).books v c = s.books v c := by
  have roll : (s.modWave w f).roll v = s.roll v := by
    simp only [State.roll, State.wave?_modWave]
    split
    · next e =>
      subst e
      rw [Option.map_map]
      exact congrArg (Option.map · _) (funext hf)
    · rfl
  exact Prod.ext rfl roll

theorem State.books_ite {p : Prop} [Decidable p] {s t u : State} (ht : t.books v c = s.books v c) (hu : u.books v c = s.books v c) :
    (if p then t else u).books v c = s.books v c := by
  split
  · exact ht
  · exact hu

theorem State.books_fireWave (s : State) (w n : Nat) : (s.fireWave w n).books v c = s.books v c := by
  unfold State.fireWave
  rw [State.books_postOnce]
  refine State.books_modWave fun x => ?_
  split <;> rfl

theorem State.books_fireRepl (s : State) (i b : Nat) : (s.fireRepl i b).books v c = s.books v c :=
  State.fireRepl_eq (o := fun s => s.books v c) (fun _ _ _ _ => State.books_modChip (fun _ => rfl) fun _ => rfl)
    (fun _ _ _ => foldl_eq (o := fun s => s.books v c) _ _ fun _ _ _ => State.books_ite (State.books_fireWave ..) rfl) s i b

theorem State.books_useReplRecs (s : State) (i : Nat) (f : Nat → Table SigRec → Table SigRec) : (s.useReplRecs i f).books v c = s.books v c := by
  have sigs : (s.modRepl i fun r => { r with sigRecs := f s.serial r.sigRecs }).books v c = s.books v c := by
    refine State.books_modRepl ?_
    exact fun _ => rfl
  exact sigs

theorem State.books_replSig (s : State) (i : Nat) (ks : List Nat) (m : Option (BitVec 512)) (tag : Option (List Nat)) :
    (s.replSig i ks m tag).books v c = s.books v c := by
  unfold State.replSig
  split
  · rfl
  · exact State.books_useReplRecs ..

theorem State.books_retryRepl (s : State) (i : Nat) : (s.retryRepl i).books v c = s.books v c :=
  foldl_eq (o := fun s => s.books v c) _ _ fun _ _ _ => State.books_ite rfl
    (foldl_eq (o := fun s => s.books v c) _ _ fun _ _ _ => State.books_ite (State.books_postOnce ..) rfl)

theorem State.books_sample (s : State) (i a n : Nat) : (s.sample i a n).books v c = s.books v c := by
  unfold State.sample
  exact State.books_ite rfl rfl

/-! ### Removals of translations -/

section
variable (s : State)

theorem State.books_setSeg (i j : Nat) (x : Seg) : (s.setSeg i j x).books v c = s.books v c := rfl
theorem State.books_emptySeg (i j : Nat) : (s.emptySeg i j).books v c = s.books v c := rfl

theorem State.books_dirLeave (r : Nat) (n : Nat × Nat) : (s.dirLeave r n).books v c = s.books v c :=
  State.dirLeave_eq (o := fun s => s.books v c) (fun _ _ => rfl) (fun _ _ => State.books_postOnce ..) (fun _ _ _ => rfl) ..

theorem State.books_dirTake (r : Nat) (p : DirWait → Bool) : (s.dirTake r p).books v c = s.books v c :=
  State.dirTake_eq (o := fun s => s.books v c) (fun _ _ => rfl) (fun _ _ => State.books_postOnce ..) (fun _ _ _ => rfl) ..

theorem State.books_cancelFill (i j : Nat) : (s.cancelFill i j).books v c = s.books v c := by
  unfold State.cancelFill
  simp only
  rw [State.books_dirLeave, State.books_dirTake, State.books_setSeg, State.books_emptySeg]
  rfl

theorem State.books_unmapSeg (i j : Nat) : (s.unmapSeg i j).books v c = s.books v c := by
  have away (u : State) (hu : u.books v c = s.books v c) (x : Seg) (r : Nat) :
      ((u.setSeg i j x).dirLeave r (i, j)).books v c = s.books v c :=
    (State.books_dirLeave ..).trans hu
  unfold State.unmapSeg
  simp only
  refine State.books_ite rfl ?_
  split
  · rfl
  · exact State.books_ite (State.books_cancelFill ..) rfl
  · exact away _ (State.books_emptySeg ..) _ _
  · exact State.books_ite (away _ (State.books_emptySeg ..) _ _) rfl

theorem State.books_abortAll (es : Table WqEntry) (q : Nat × WqEntry → Bool) :
    (es.foldl (fun u e => if q e then u.modWave e.2.wave fun x => { x with invAbort := true } else u) s).books v c = s.books v c := by
  refine foldl_eq (o := fun s => s.books v c) es s fun u e _ => State.books_ite (State.books_modWave ?_) rfl
  exact fun _ => rfl

theorem State.books_unmapAll (i : Nat) (ks : Table Seg) (p : Nat × Seg → Bool) :
    (ks.foldl (fun u e => if p e then u.unmapSeg i e.1 else u) s).books v c = s.books v c :=
  foldl_eq (o := fun s => s.books v c) ks s fun _ _ _ => State.books_ite (State.books_unmapSeg ..) rfl

theorem State.books_modCluster (i : Nat) (f : Cluster → Cluster) : (s.modCluster i f).books v c = s.books v c := rfl
theorem State.books_modCore (i : Nat) (f : Core → Core) : (s.modCore i f).books v c = s.books v c := rfl

theorem State.books_tlbiCluster (i : Nat) (w : TlbiWhat) : (s.tlbiCluster i w).books v c = s.books v c := by
  unfold State.tlbiCluster
  simp only
  refine (foldl_eq (o := fun s => s.books v c) _ _ fun u core _ => ?_).trans (State.books_modCluster ..)
  exact (State.books_abortAll ..).trans ((State.books_unmapAll ..).trans (State.books_modCore ..))

theorem State.books_epoch (n : Nat) : ({ s with epoch := n } : State).books v c = s.books v c := rfl

theorem State.books_tlbiChip (i : Nat) (w : TlbiWhat) : (s.tlbiChip i w).books v c = s.books v c := by
  unfold State.tlbiChip
  exact (State.books_epoch ..).trans (foldl_eq (o := fun s => s.books v c) (List.range 4) s fun _ _ _ => State.books_tlbiCluster ..)

theorem State.books_markRemoval (i r n : Nat) : (s.markRemoval i r n).books v c = s.books v c :=
  State.books_modChip (fun _ => rfl) fun _ => rfl

end

/-! ### A result that arrives -/

theorem State.aloof_of_books {s t : State} (h : t.books v c = s.books v c) : t.aloof c = s.aloof c := congrArg Prod.fst h
theorem State.roll_of_books {s t : State} (h : t.books v c = s.books v c) : t.roll v = s.roll v := congrArg Prod.snd h

theorem State.roll_setWave (s : State) (w v : Nat) (x : Wave) : (s.setWave w x).roll v = if v = w then some x.roll else s.roll v := by
  simp only [State.roll, State.wave?_setWave]
  split <;> rfl

/-- The destinations of a wave's outstanding results. -/
def Wave.goal (x : Wave) (ld : Nat) : Option (Opd × LoadFmt) := (Table.look x.loads ld).map fun l => (l.d, l.fmt)

/-- The threads of a wave whose outstanding result has arrived in a lane. -/
def Wave.filled (x : Wave) (ld lane : Nat) (val : LoadFmt → Quad) : List Thread :=
  match x.goal ld with
  | none => x.threads
  | some (d, f) => (x.mapLanes [lane] fun _ t => t.deliver d f.regs (val f)).threads

theorem Wave.threads_fillLane (x : Wave) (ld lane : Nat) (val : LoadFmt → Quad) : (x.fillLane ld lane val).threads = x.filled ld lane val := by
  unfold Wave.fillLane Wave.filled Wave.goal
  cases Table.look x.loads ld <;> rfl

theorem Wave.strong_fillLane (x : Wave) (ld lane : Nat) (val : LoadFmt → Quad) : (x.fillLane ld lane val).strong = x.strong := by
  unfold Wave.fillLane
  cases Table.look x.loads ld <;> rfl

theorem Wave.filled_congr {x y : Wave} (ht : x.threads = y.threads) {ld : Nat} (hg : x.goal ld = y.goal ld) (lane : Nat) (val : LoadFmt → Quad) :
    x.filled ld lane val = y.filled ld lane val := by
  unfold Wave.filled
  rw [hg]
  cases y.goal ld with
  | none => exact ht
  | some g => simp only [Wave.mapLanes, Wave.mapThreads, ht]

end Sys2Proof.Machine
end

section
/-! SUPPORT. The issuer applies a grant of its own request: the result arrives in its lane, or at the host (10 R219). Serves O49. -/

-- One theorem at a time: many at once ask for more threads than the checker has memory for.
set_option Elab.async false

namespace Sys2Proof.Machine

variable {v c : Nat}

/-- A request has been answered. -/
def Repl.completes (rq : Nat) (r : Repl) : Repl :=
  { r with outstanding := Table.del r.outstanding rq, sent := r.sent.filter fun q => q.rq ≠ rq }

/-- What the wave of a request notes of its grant, or receives with it. -/
def State.receives (s : State) (c w ld rank num wraps : Nat) (q : Option Req) : State :=
  match q with
  | none => s
  | some q =>
    if q.opc = 10 then s.modWave w fun x => { x with ptsts := x.ptsts ++ [(rank, num, wraps)] }
    else if q.opc = 11 then s.modWave w fun x => { x with tlbis := x.tlbis ++
        [({ kind := (tlbiOf q.opa q.opb).kind, vpn := (tlbiOf q.opa q.opb).vpn, asid := (tlbiOf q.opa q.opb).asid
            grant := some (rank, num, wraps), epoch := none } : TlbiRec)] }
    else s.receiveRepl w ld c q.off 0

/-- A wave's strong instruction without a request. -/
def Strong.without (g : Strong) (rq : Nat) : Option Strong :=
  if (g.reqs.filter fun q => q ≠ rq) = [] then none else some { g with reqs := g.reqs.filter fun q => q ≠ rq }

/-- The last result of a strong instruction has arrived. -/
def State.concludes (s : State) (c w : Nat) (g : Strong) : State :=
  match g.load with
  | none => s.retryRepl c
  | some l => (s.retryRepl c).post (.loadReturn w l)

/-- A result arrives in a lane of a wave. -/
def State.lands (s : State) (c w ld lane rq : Nat) (val : LoadFmt → Quad) : State :=
  match s.wave? w with
  | none => s
  | some x =>
    match (x.fillLane ld lane val).strong with
    | none => s.setWave w (x.fillLane ld lane val)
    | some g =>
      let s := s.setWave w { x.fillLane ld lane val with strong := g.without rq }
      let s := s.sample (s.coreOf w) 6 ((s.core (s.coreOf w)).clk - g.started)
      if (g.reqs.filter fun q => q ≠ rq) ≠ [] then s else s.concludes c w g

/-- The value of an access that a result brings. -/
def strongValue (old : Nat) (f : LoadFmt) : Quad := f.value (bytesOfNat f.bytes old)

theorem State.strongComplete_host {s : State} {c rq : Nat} (h : Table.look (s.repl c).outstanding rq = some .host) (old : Quad) (rank num : Nat) (bad : Bool) :
    s.strongComplete c rq old rank num bad = (s.modRepl c (Repl.completes rq)).modChip c fun x =>
      { x with sys := { x.sys with hsold := old.extractLsb' 0 64, hsstat := 2 } } := by
  unfold State.strongComplete
  simp only [h]
  rfl

theorem State.strongComplete_lane {s : State} {c rq w ld lane n : Nat} (h : Table.look (s.repl c).outstanding rq = some (.lane w ld lane n))
    (old : Quad) (rank num : Nat) :
    s.strongComplete c rq old rank num false =
      ((s.modRepl c (Repl.completes rq)).receives c w ld rank num (vecAt (s.repl c).wrapsApplied rank)
        ((s.repl c).sent.find? fun q => q.rq = rq)).lands c w ld lane rq (strongValue old.toNat) := by
  unfold State.strongComplete
  simp only [h]
  generalize hu : State.receives _ c w ld rank num _ _ = u
  unfold State.lands
  split
  · next hx =>
    rw [(congrArg (fun t : State => t.wave? w) hu).symm.trans hx]
    exact hu
  · next x hx =>
    rw [(congrArg (fun t : State => t.wave? w) hu).symm.trans hx]
    simp only [hx]
    rw [← hu]
    rfl

/-! ### What the wave of a request holds -/

/-- The threads of a wave, its strong instruction, the destination of an outstanding result. -/
def Wave.guise (ld : Nat) (x : Wave) : List Thread × Option Strong × Option (Opd × LoadFmt) := (x.threads, x.strong, x.goal ld)
def State.guise (s : State) (v ld : Nat) : Option (List Thread × Option Strong × Option (Opd × LoadFmt)) := (s.wave? v).map (Wave.guise ld)

theorem State.guise_of_roll {s t : State} (h : t.roll v = s.roll v) (ld : Nat) : t.guise v ld = s.guise v ld := by
  have eq (u : State) : u.guise v ld = (u.roll v).map fun r => (r.threads, r.strong, (Table.look r.loads ld).map fun l => (l.d, l.fmt)) := by
    simp only [State.guise, State.roll, Option.map_map]
    rfl
  rw [eq, eq, h]

theorem State.guise_modWave {s : State} {w : Nat} {f : Wave → Wave} {ld : Nat} (hf : ∀ x, (f x).guise ld = x.guise ld) :
    (s.modWave w f).guise v ld = s.guise v ld := by
  simp only [State.guise, State.wave?_modWave]
  split
  · next e =>
    subst e
    rw [Option.map_map]
    exact congrArg (Option.map · _) (funext hf)
  · rfl

theorem Wave.goal_modify {x y : Wave} {ld ld' : Nat} {f : Load → Load} (hf : ∀ l, ((f l).d, (f l).fmt) = (l.d, l.fmt))
    (hy : y.loads = Table.modify x.loads ld f) : y.goal ld' = x.goal ld' := by
  simp only [Wave.goal, hy, Table.look_modify]
  split
  · next e =>
    subst e
    rw [Option.map_map]
    exact congrArg (Option.map · _) (funext hf)
  · rfl

theorem State.guise_receiveRec (s : State) (w ld : Nat) (rec : BitVec 512 × Option (List Nat)) (va : DWord) (ld' : Nat) :
    (s.receiveRec w ld rec va).guise v ld' = s.guise v ld' := by
  unfold State.receiveRec
  refine State.guise_modWave fun x => ?_
  refine congrArg (fun g => (x.threads, x.strong, g)) (Wave.goal_modify (ld := ld) ?_ rfl)
  exact fun _ => rfl

theorem State.guise_receives (s : State) (w ld rank num wraps : Nat) (q : Option Req) (ld' : Nat) :
    (s.receives c w ld rank num wraps q).guise v ld' = s.guise v ld' := by
  unfold State.receives
  split
  · rfl
  · split
    · exact State.guise_modWave fun _ => rfl
    · split
      · exact State.guise_modWave fun _ => rfl
      · exact (State.guise_of_roll (State.roll_of_books (c := c) (State.books_useReplRecs ..)) ld').trans (State.guise_receiveRec ..)

theorem State.aloof_receives (s : State) (w ld rank num wraps : Nat) (q : Option Req) :
    (s.receives c w ld rank num wraps q).aloof c = s.aloof c := by
  unfold State.receives
  split
  · rfl
  · split
    · rfl
    · split
      · rfl
      · exact (State.aloof_of_books (v := w) (State.books_useReplRecs ..)).trans rfl

/-! ### The lane that a result reaches -/

theorem State.books_concludes (s : State) (d w : Nat) (g : Strong) : (s.concludes d w g).books v c = s.books v c := by
  unfold State.concludes
  split
  · exact State.books_retryRepl ..
  · exact (State.books_post ..).trans (State.books_retryRepl ..)

/-- A result that arrives changes its wave only: the lane's destination is filled, the strong instruction goes on. -/
theorem State.lands_books (s : State) (d w ld lane rq : Nat) (val : LoadFmt → Quad) :
    ∃ st, (s.lands d w ld lane rq val).books v c =
      ((match s.wave? w with | none => s | some x => s.setWave w { x.fillLane ld lane val with strong := st }) : State).books v c ∧
      ∀ x g, s.wave? w = some x → x.strong = some g → st = g.without rq := by
  unfold State.lands
  cases hx : s.wave? w with
  | none => exact ⟨none, rfl, fun x g h => nomatch h⟩
  | some x =>
    simp only
    have old := Wave.strong_fillLane x ld lane val
    generalize x.fillLane ld lane val = y at old ⊢
    cases hs : y.strong with
    | none =>
      refine ⟨y.strong, rfl, fun z g e f => ?_⟩
      cases e
      rw [← old, hs] at f
      cases f
    | some g =>
      refine ⟨g.without rq, ?_, fun z g' e f => ?_⟩
      · exact (State.books_ite (s := State.sample ..) rfl (State.books_concludes ..)).trans (State.books_sample ..)
      · cases e
        rw [← old, hs] at f
        cases f
        rfl

theorem State.aloof_lands (s : State) (d w ld lane rq : Nat) (val : LoadFmt → Quad) : (s.lands d w ld lane rq val).aloof c = s.aloof c := by
  obtain ⟨st, books, -⟩ := State.lands_books (v := 0) (c := c) s d w ld lane rq val
  refine (State.aloof_of_books books).trans ?_
  split <;> rfl

theorem State.roll_lands (s : State) (d w ld lane rq : Nat) (val : LoadFmt → Quad) :
    ∃ st, ((s.lands d w ld lane rq val).roll v) = (match s.wave? w with
      | none => s.roll v
      | some x => if v = w then some (Wave.roll { x.fillLane ld lane val with strong := st }) else s.roll v) ∧
      ∀ x g, s.wave? w = some x → x.strong = some g → st = g.without rq := by
  obtain ⟨st, books, strong⟩ := State.lands_books (v := v) (c := 0) s d w ld lane rq val
  refine ⟨st, (State.roll_of_books books).trans ?_, strong⟩
  split
  · rfl
  · exact State.roll_setWave ..

/-! ### A request that its grant answers -/

/-- A replication unit but for its signature records, block tags, acknowledgements and the requests of its own chip. -/
def Repl.record (r : Repl) : Repl := { r.ledger with outstanding := [], sent := [] }

/-- Memory, links and a chip's replication unit. -/
structure Shelf where
  mem : Memory
  mf4 : Bool
  down : List Nat
  links : Table (List Msg)
  record : Repl

def State.shelf (s : State) (c : Nat) : Shelf := ⟨s.mem, s.mf4, s.linkDown, s.links, (s.repl c).record⟩

theorem State.shelf_of_aloof {s t : State} (h : t.aloof c = s.aloof c) : t.shelf c = s.shelf c :=
  congrArg (fun a : Aloof => Shelf.mk a.mem a.mf4 a.down a.links { a.ledger with outstanding := [], sent := [] }) h

theorem State.shelf_modChip {s : State} {d : Nat} {f : Chip → Chip} (hr : ∀ x, (f x).repl.record = x.repl.record) :
    (s.modChip d f).shelf c = s.shelf c := by
  have same : ((s.modChip d f).repl c).record = (s.repl c).record := by
    simp only [State.repl, State.chip_modChip]
    split
    · next e => rw [hr, e]
    · rfl
  show Shelf.mk _ _ _ _ _ = Shelf.mk _ _ _ _ _
  rw [same]
  rfl

theorem State.shelf_completes (s : State) (d rq : Nat) : (s.modRepl d (Repl.completes rq)).shelf c = s.shelf c :=
  State.shelf_modChip fun _ => rfl

/-- The threads of a wave. -/
def State.team (s : State) (v : Nat) : Option (List Thread) := (s.wave? v).map Wave.threads

theorem State.team_eq (s : State) : s.team v = (s.roll v).map Roll.threads := by
  simp only [State.team, State.roll, Option.map_map]
  rfl

theorem State.strong_eq (s : State) : (s.wave? v).map Wave.strong = (s.roll v).map Roll.strong := by
  simp only [State.roll, Option.map_map]
  rfl

theorem State.team_of_roll {s t : State} (h : t.roll v = s.roll v) : t.team v = s.team v := by
  rw [State.team_eq, State.team_eq, h]

/-- The threads of a wave whose request, where it has made this one, has been answered. -/
def Wave.reached (x : Wave) (f : Option ReqFor) (v old : Nat) : List Thread :=
  match f with
  | some (.lane w ld lane _) => if v = w then x.filled ld lane (strongValue old) else x.threads
  | _ => x.threads

theorem State.strongComplete_none {s : State} {rq : Nat} (h : Table.look (s.repl c).outstanding rq = none) (old : Quad) (rank num : Nat) (bad : Bool) :
    s.strongComplete c rq old rank num bad = s := by
  unfold State.strongComplete
  simp only [h]

theorem State.shelf_strongComplete (s : State) (rq : Nat) (old : Quad) (rank num : Nat) :
    (s.strongComplete c rq old rank num false).shelf c = s.shelf c := by
  cases h : Table.look (s.repl c).outstanding rq with
  | none => rw [State.strongComplete_none h]
  | some f =>
    cases f with
    | host =>
      rw [State.strongComplete_host h]
      refine (State.shelf_modChip ?_).trans (State.shelf_completes ..)
      exact fun _ => rfl
    | lane w ld lane n =>
      rw [State.strongComplete_lane h]
      exact ((State.shelf_of_aloof (State.aloof_lands ..)).trans (State.shelf_of_aloof (State.aloof_receives ..))).trans (State.shelf_completes ..)

/-- The wave of a request as its result finds it. -/
theorem State.guise_answered (s : State) (w ld rank num wraps rq : Nat) (q : Option Req) (ld' : Nat) :
    ((s.modRepl c (Repl.completes rq)).receives c w ld rank num wraps q).guise v ld' = s.guise v ld' :=
  (State.guise_receives ..).trans rfl

theorem State.team_lands (s : State) (d w ld lane rq : Nat) (val : LoadFmt → Quad) :
    (s.lands d w ld lane rq val).team v = (s.wave? v).map fun x => if v = w then x.filled ld lane val else x.threads := by
  obtain ⟨st, roll, -⟩ := State.roll_lands (v := v) s d w ld lane rq val
  rw [State.team_eq, roll]
  cases hx : s.wave? w with
  | none =>
    by_cases e : v = w
    · simp only [State.roll, e, hx, Option.map_none]
    · simp only [State.roll, if_neg e, Option.map_map]
      rfl
  | some x =>
    by_cases e : v = w
    · simp only [e, hx, Option.map_some]
      exact congrArg some (Wave.threads_fillLane ..)
    · simp only [if_neg e, State.roll, Option.map_map]
      rfl

theorem State.team_strongComplete (s : State) (rq : Nat) (old : Quad) (rank num : Nat) :
    (s.strongComplete c rq old rank num false).team v =
      (s.wave? v).map fun x => x.reached (Table.look (s.repl c).outstanding rq) v old.toNat := by
  cases h : Table.look (s.repl c).outstanding rq with
  | none =>
    rw [State.strongComplete_none h]
    rfl
  | some f =>
    cases f with
    | host =>
      rw [State.strongComplete_host h]
      rfl
    | lane w ld lane n =>
      rw [State.strongComplete_lane h, State.team_lands]
      have guise := State.guise_answered (c := c) (v := v) s w ld rank num (vecAt (s.repl c).wrapsApplied rank) rq
        ((s.repl c).sent.find? fun q => q.rq = rq) ld
      generalize State.receives _ c w ld rank num _ _ = u at guise ⊢
      unfold State.guise at guise
      cases hu : u.wave? v with
      | none =>
        rw [hu] at guise
        rw [Option.map_eq_none_iff.1 guise.symm]
        rfl
      | some y =>
        rw [hu] at guise
        obtain ⟨x, hx, same⟩ := Option.map_eq_some_iff.1 guise.symm
        rw [hx]
        have threads : x.threads = y.threads := congrArg Prod.fst same
        have goal : x.goal ld = y.goal ld := congrArg (fun g => g.2.2) same
        simp only [Option.map_some, Wave.reached, Wave.filled_congr threads goal, threads]

/-- The last answer of a strong instruction ends it, and its loads return. -/
theorem State.strongComplete_ends {s : State} {rq w ld lane n l : Nat} {x : Wave} {g : Strong}
    (h : Table.look (s.repl c).outstanding rq = some (.lane w ld lane n)) (hx : s.wave? w = some x) (hs : x.strong = some g)
    (reqs : g.reqs = [rq]) (load : g.load = some l) (old : Quad) (rank num : Nat) :
    ((s.strongComplete c rq old rank num false).wave? w).map Wave.strong = some none ∧
      .loadReturn w l ∈ (s.strongComplete c rq old rank num false).agenda := by
  rw [State.strongComplete_lane h]
  have guise := State.guise_answered (c := c) (v := w) s w ld rank num (vecAt (s.repl c).wrapsApplied rank) rq
    ((s.repl c).sent.find? fun q => q.rq = rq) ld
  generalize State.receives _ c w ld rank num _ _ = u at guise ⊢
  unfold State.guise at guise
  rw [hx] at guise
  obtain ⟨y, hy, same⟩ := Option.map_eq_some_iff.1 guise
  have strong : y.strong = some g := (congrArg (fun g => g.2.1) same).trans hs
  have none_left : g.reqs.filter (fun q => q ≠ rq) = [] := by rw [reqs]; simp
  constructor
  · obtain ⟨st, roll, gone⟩ := State.roll_lands (v := w) u c w ld lane rq (strongValue old.toNat)
    rw [State.strong_eq, roll, hy]
    simp only [if_pos, Option.map_some, Wave.roll, gone y g hy strong, Strong.without, none_left]
  · unfold State.lands
    simp only [hy, Wave.strong_fillLane, strong, none_left, ne_eq, not_true_eq_false, if_false, State.concludes, load]
    exact List.mem_append_right _ (List.mem_singleton.2 rfl)

end Sys2Proof.Machine
end

section
/-! SUPPORT. The images of a packet installed sector by sector, and the stages of its application (10 R211, R213, R219, R223).
Serves O49. -/

-- One theorem at a time: many at once ask for more threads than the checker has memory for.
set_option Elab.async false

namespace Sys2Proof.Machine

variable {v c : Nat}

/-! ### Sector images -/

theorem Memory.readLe_congr {m m' : Memory} {a n : Nat} (h : ∀ i, i < n → Memory.read m (a + i) = Memory.read m' (a + i)) :
    Memory.readLe m a n = Memory.readLe m' a n := congrArg natOfBytes (Memory.readBytes_congr h)

theorem tagClk_mkTag (strong : Bool) (rank clk : Nat) : tagClk (mkTag strong rank clk) = clk % 2 ^ 28 := by
  have : (mkTag strong rank clk).extractLsb' 0 28 = BitVec.ofNat 28 clk := by
    show (BitVec.ofBool strong ++ BitVec.ofNat 3 rank ++ BitVec.ofNat 28 clk : BitVec (1 + 3 + 28)).extractLsb' 0 28 = _
    ext i hi
    simp only [BitVec.getElem_extractLsb', BitVec.getLsbD_append]
    simp [hi]
  rw [tagClk, this, BitVec.toNat_ofNat]

theorem tagRank_mkTag (strong : Bool) (rank clk : Nat) : tagRank (mkTag strong rank clk) = rank % 8 := by
  have : (mkTag strong rank clk).extractLsb' 28 3 = BitVec.ofNat 3 rank := by
    show (BitVec.ofBool strong ++ BitVec.ofNat 3 rank ++ BitVec.ofNat 28 clk : BitVec (1 + 3 + 28)).extractLsb' 28 3 = _
    ext i hi
    simp only [BitVec.getElem_extractLsb', BitVec.getLsbD_append]
    simp [hi]
  rw [tagRank, this, BitVec.toNat_ofNat]

/-- A write does not beat its own tag. -/
theorem beats_mkTag (strong : Bool) {rank : Nat} (clk : Nat) (h : rank < 8) : beats clk rank (mkTag strong rank clk) = false := by
  have same : (clk + 2 ^ 28 - clk % 2 ^ 28) % 2 ^ 28 = 0 := by omega
  unfold beats
  simp only [tagClk_mkTag, tagRank_mkTag, same, ne_eq, not_true_eq_false, if_false, Nat.mod_eq_of_lt h, Nat.lt_irrefl, decide_false]

theorem Repl.wf_install {r : Repl} (wf : r.replica.wf = true) (clk rank : Nat) (strong : Bool) (k : Nat) (img : BitVec 256) :
    (r.install clk rank strong k img).replica.wf = true := by
  unfold Repl.install
  by_cases b : beats clk rank (Table.at r.tags k 0) = true
  · rw [if_pos b]
    dsimp only
    exact Memory.writeLe_wf (32 * k) 32 img.toNat wf
  · rw [if_neg b]
    exact wf

theorem Repl.image_install {r : Repl} (wf : r.replica.wf = true) (clk rank : Nat) (strong : Bool) (k : Nat) (img : BitVec 256) (j : Nat) :
    (r.install clk rank strong k img).image j = if j = k ∧ beats clk rank (Table.at r.tags k 0) = true then img else r.image j := by
  unfold Repl.install
  by_cases b : beats clk rank (Table.at r.tags k 0) = true
  · rw [if_pos b]
    by_cases e : j = k
    · subst e
      rw [if_pos ⟨rfl, b⟩]
      unfold Repl.image
      dsimp only
      rw [Memory.readLe_writeLe wf]
      have size : (256 : Nat) ^ 32 = 2 ^ 256 := by norm_num
      rw [size, Nat.mod_eq_of_lt img.isLt, BitVec.ofNat_toNat, BitVec.setWidth_eq]
    · rw [if_neg fun h => e h.1]
      unfold Repl.image
      dsimp only
      rw [Memory.readLe_congr (m' := r.replica) fun i hi => ?_]
      rw [Memory.writeLe, Memory.read_writeBytes wf, if_neg]
      rw [bytesOfNat_length]
      omega
  · rw [if_neg b, if_neg fun h => b h.2]

theorem Repl.tag_install (r : Repl) (clk rank : Nat) (strong : Bool) (k : Nat) (img : BitVec 256) (j : Nat) :
    Table.at (r.install clk rank strong k img).tags j 0 =
      if j = k ∧ beats clk rank (Table.at r.tags k 0) = true then mkTag strong rank clk else Table.at r.tags j 0 := by
  unfold Repl.install
  by_cases b : beats clk rank (Table.at r.tags k 0) = true
  · rw [if_pos b]
    by_cases e : j = k
    · subst e
      rw [if_pos ⟨rfl, b⟩]
      simp only [Table.at, Table.look_put_same, Option.getD_some]
    · rw [if_neg fun h => e h.1]
      simp only [Table.at, Table.look_put_other _ _ e]
  · rw [if_neg b, if_neg fun h => b h.2]

/-- The first image of a sector is installed where the write beats the sector's tag; nothing else changes (10 R213). -/
theorem Repl.installAll_spec {clk rank : Nat} (hr : rank < 8) (strong : Bool) (k : Nat) (imgs : Table (BitVec 256)) (r : Repl) (wf : r.replica.wf = true) :
    if (Table.look imgs k).isSome = true ∧ beats clk rank (Table.at r.tags k 0) = true then
      some ((r.installAll clk rank strong imgs).image k) = Table.look imgs k ∧
        Table.at (r.installAll clk rank strong imgs).tags k 0 = mkTag strong rank clk
    else (r.installAll clk rank strong imgs).image k = r.image k ∧
      Table.at (r.installAll clk rank strong imgs).tags k 0 = Table.at r.tags k 0 := by
  induction imgs generalizing r with
  | nil =>
    rw [if_neg fun h => nomatch (h.1 : (none : Option (BitVec 256)).isSome = true)]
    exact ⟨rfl, rfl⟩
  | cons e rest ih =>
    obtain ⟨j, img⟩ := e
    have next := ih (r.install clk rank strong j img) (Repl.wf_install wf ..)
    have image := Repl.image_install wf clk rank strong j img k
    have tag := Repl.tag_install r clk rank strong j img k
    have step : r.installAll clk rank strong ((j, img) :: rest) = (r.install clk rank strong j img).installAll clk rank strong rest := rfl
    rw [step]
    generalize Repl.installAll (r.install clk rank strong j img) clk rank strong rest = u at next ⊢
    rw [Table.look]
    by_cases e : k = j ∧ beats clk rank (Table.at r.tags j 0) = true
    · obtain ⟨rfl, b⟩ := e
      rw [image.trans (if_pos ⟨rfl, b⟩), tag.trans (if_pos ⟨rfl, b⟩), beats_mkTag strong clk hr, if_neg fun h => nomatch h.2] at next
      rw [if_pos rfl, if_pos ⟨rfl, b⟩]
      exact ⟨congrArg some next.1, next.2⟩
    · rw [image.trans (if_neg e), tag.trans (if_neg e)] at next
      by_cases same : k = j
      · subst same
        have loses : ¬ beats clk rank (Table.at r.tags k 0) = true := fun b => e ⟨rfl, b⟩
        rw [if_neg fun h => loses h.2] at next ⊢
        exact next
      · rw [if_neg same]
        exact next

/-- Installing images changes the replica and the tags only. -/
theorem Repl.installAll_rest (clk rank : Nat) (strong : Bool) (imgs : Table (BitVec 256)) (r : Repl) :
    r.installAll clk rank strong imgs =
      { r with replica := (r.installAll clk rank strong imgs).replica, tags := (r.installAll clk rank strong imgs).tags } := by
  induction imgs generalizing r with
  | nil => rfl
  | cons e rest ih =>
    have step : r.installAll clk rank strong (e :: rest) = (r.install clk rank strong e.1 e.2).installAll clk rank strong rest := rfl
    rw [step]
    have next := ih (r.install clk rank strong e.1 e.2)
    generalize (r.install clk rank strong e.1 e.2).installAll clk rank strong rest = u at next ⊢
    rw [next]
    unfold Repl.install
    split <;> rfl

end Sys2Proof.Machine
end

section
/-! SUPPORT. The stages of a packet's application (10 R211, R213, R217, R219, R221, R223). Serves O49. -/

-- One theorem at a time: many at once ask for more threads than the checker has memory for.
set_option Elab.async false

namespace Sys2Proof.Machine

variable {v c : Nat}

/-! ### The stages -/

/-- The block of a packet with images is taken under the present version. -/
def State.clears (s : State) (c : Nat) (p : Packet) : State :=
  if p.images = [] then s else s.tagRepl c p.blk (decide (2 ≤ p.images.length))

/-- A replication unit that has taken a packet's images and its number. -/
def Repl.takes (c : Nat) (p : Packet) (r : Repl) : Repl :=
  let r := r.installAll p.sclk p.rank (p.kind = 1) p.images
  { r with applied := vecSet r.applied p.rank (if p.kind = 2 then 0 else vecAt p.vec p.rank)
           wrapsApplied := if p.kind = 2 then vecSet r.wrapsApplied p.rank (vecAt r.wrapsApplied p.rank + 1) else r.wrapsApplied
           grants24 := if p.kind = 1 && p.images ≠ [] then r.noteGrant p else r.grants24
           pending := if p.kind = 2 then r.pending.map fun q => q.afterWrap p.rank else r.pending
           recent := if p.rank = c then r.recent else r.recent ++ [p] }

/-- A member answers a WRAP. -/
def State.answersWrap (s : State) (c : Nat) (p : Packet) : State :=
  if p.kind = 2 && (s.repl c).members.contains c then (s.sendAll c (.wrapack (s.ctlVec c) p.rank)).tellWraps c p.rank else s

/-- Registrations on a packet's block fire, its sectors receive its signature, and its block has been written. -/
def State.tells (s : State) (c : Nat) (p : Packet) : State :=
  let s := if p.images = [] then s else (s.fireRepl c p.blk).replSig c (p.images.map fun e => e.1) p.sig p.tag
  if p.images = [] then s else { s with written := Table.put s.written (2 ^ 50 + p.blk) s.serial }

/-- A replication unit that has applied a grant. -/
def Repl.counts (p : Packet) (r : Repl) : Repl :=
  { r with nextSlot := p.slot + 1, lastSlot := some p.slot
           col := if (p.slot + 1) % 256 = 0 then nextCol r.members r.col else r.col
           pending := r.pending.filter fun q => !(q.rank = p.irank && q.rq = p.rq)
           granted := Table.put r.granted p.irank p.rq }

/-- A removal that a grant orders is performed. -/
def State.removes (s : State) (c : Nat) (p : Packet) (q : Option Req) : State :=
  match p.opc, q with
  | 11, some q => (s.tlbiChip c (tlbiOf q.opa q.opb)).markRemoval c p.rank (vecAt p.vec p.rank)
  | _, _ => s

/-- A grant is applied: the slots go on, its removal is performed, its issuer is answered. -/
def State.orders (s : State) (c : Nat) (p : Packet) (bad : Bool) : State :=
  if p.kind ≠ 1 then s
  else
    let q := (s.repl c).pending.find? fun q => q.rank = p.irank && q.rq = p.rq
    let s := (s.modRepl c (Repl.counts p)).removes c p q
    let s := if p.irank = c then s.strongComplete c p.rq p.old p.rank (vecAt p.vec p.rank) bad else s
    if (s.repl c).col = c then s.postOnce (.colGrant c) else s

/-- A member counts the packet of another, and acknowledges in time. -/
def State.acks (s : State) (c : Nat) (p : Packet) (member : Bool) : State :=
  if p.rank = c || !member then s
  else
    let s := s.modRepl c fun r => { r with ackCount := r.ackCount + 1 }
    if 64 ≤ (s.repl c).ackCount then s.sendAck c else s

/-- A packet's images and number are taken. -/
def State.taken (s : State) (c : Nat) (p : Packet) : State := (s.clears c p).modRepl c (Repl.takes c p)

theorem State.applyPacket_eq (s : State) (c : Nat) {p : Packet} (known : p.unknown = false) : s.applyPacket c p =
    ((((s.taken c p).answersWrap c p).tells c p).orders c p (s.replFails c p.blk)).acks c p
      (((s.taken c p).repl c).members.contains c) := by
  unfold State.applyPacket
  rw [known]
  rfl

/-- A grant of an unknown operation is an update without images (10 R219). -/
theorem State.applyPacket_unknown (s : State) (c : Nat) {p : Packet} (unknown : p.unknown = true) :
    s.applyPacket c p = (s.note c 0x219 [p.slot]).applyPacket c { p with kind := 0, images := [] } := by
  rw [State.applyPacket_eq _ c (p := { p with kind := 0, images := [] }) rfl]
  unfold State.applyPacket
  rw [unknown]
  rfl

/-! ### What the messages of a stage leave -/

/-- What sending leaves: memory, a chip's replication unit, what a wave holds. -/
def State.pages (s : State) (v c : Nat) : Shelf × Option Roll := ({ s.shelf c with links := [] }, s.roll v)

theorem State.pages_of_books {s t : State} (h : t.books v c = s.books v c) : t.pages v c = s.pages v c :=
  Prod.ext (congrArg (fun x : Shelf => { x with links := [] }) (State.shelf_of_aloof (State.aloof_of_books h))) (State.roll_of_books h)

theorem State.pages_send (s : State) (a b : Nat) (m : Msg) : (s.send a b m).pages v c = s.pages v c := by
  unfold State.send; split <;> rfl

theorem State.pages_sendAll (s : State) (a : Nat) (m : Msg) : (s.sendAll a m).pages v c = s.pages v c :=
  foldl_eq (o := fun s => s.pages v c) _ _ fun _ _ _ => State.pages_send ..

theorem State.pages_tellWraps (s : State) (a b : Nat) : (s.tellWraps a b).pages v c = s.pages v c := by
  rcases s.tellWraps_eq a b with e | ⟨m, e⟩ <;> rw [e]
  exact State.pages_send ..

theorem State.pages_answersWrap (s : State) (d : Nat) (p : Packet) : (s.answersWrap d p).pages v c = s.pages v c := by
  unfold State.answersWrap
  split
  · exact (State.pages_tellWraps ..).trans (State.pages_sendAll ..)
  · rfl

theorem State.books_tells (s : State) (d : Nat) (p : Packet) : (s.tells d p).books v c = s.books v c := by
  have wrote (s : State) (l : Table Nat) : ({ s with written := l } : State).books v c = s.books v c := rfl
  unfold State.tells
  by_cases e : p.images = []
  · rw [if_pos e, if_pos e]
  · rw [if_neg e, if_neg e]
    exact (wrote ..).trans ((State.books_replSig ..).trans (State.books_fireRepl ..))

theorem State.pages_modRepl {s : State} {d : Nat} {f : Repl → Repl} (hr : ∀ x, (f x).ledger = x.ledger) :
    (s.modRepl d f).pages v c = s.pages v c := State.pages_of_books (State.books_modRepl hr)

/-- A replication unit that counts a packet to acknowledge; that has acknowledged. -/
def Repl.acking (r : Repl) : Repl := { r with ackCount := r.ackCount + 1 }

theorem State.pages_sendAck (s : State) (d : Nat) : (s.sendAck d).pages v c = s.pages v c := by
  unfold State.sendAck
  refine (State.pages_modRepl ?_).trans (State.pages_sendAll ..)
  exact fun _ => rfl

theorem State.pages_acks (s : State) (d : Nat) (p : Packet) (m : Bool) : (s.acks d p m).pages v c = s.pages v c := by
  have count : (s.modRepl d Repl.acking).pages v c = s.pages v c := State.pages_modRepl fun _ => rfl
  unfold State.acks
  split
  · rfl
  · show State.pages (if _ then (s.modRepl d Repl.acking).sendAck d else s.modRepl d Repl.acking) v c = _
    split
    · exact (State.pages_sendAck ..).trans count
    · exact count

theorem State.books_removes (s : State) (d : Nat) (p : Packet) (q : Option Req) : (s.removes d p q).books v c = s.books v c := by
  unfold State.removes
  split
  · exact (State.books_markRemoval ..).trans (State.books_tlbiChip ..)
  · rfl

/-! ### Links of a stage -/

theorem State.grows_acks (s : State) (d : Nat) (p : Packet) (m : Bool) : s.Grows (s.acks d p m) := by
  unfold State.acks
  split
  · exact .of_links rfl
  · show s.Grows (if _ then (s.modRepl d Repl.acking).sendAck d else s.modRepl d Repl.acking)
    split
    · exact .trans (t := s.modRepl d Repl.acking) (.of_links rfl) (.trans (State.grows_sendAll ..) (.of_links rfl))
    · exact .of_links rfl

theorem State.acks_own (s : State) {d : Nat} {p : Packet} (own : p.rank = d) (m : Bool) : s.acks d p m = s := by
  unfold State.acks
  rw [if_pos (by rw [decide_eq_true own, Bool.true_or])]

/-! ### Events stay due -/

theorem State.mem_agenda_send {s : State} {e : Event} (h : e ∈ s.agenda) (a b : Nat) (m : Msg) : e ∈ (s.send a b m).agenda := by
  unfold State.send
  split
  · exact List.mem_append_left _ h
  · exact h

theorem State.mem_agenda_sendAll {s : State} {e : Event} (h : e ∈ s.agenda) (a : Nat) (m : Msg) : e ∈ (s.sendAll a m).agenda :=
  mem_agenda_foldl (fun _ _ h => State.mem_agenda_send h ..) _ _ h

theorem State.mem_agenda_stays {s : State} {e : Event} (h : e ∈ s.agenda) (f : Event) : e ∈ (s.postOnce f).agenda := by
  unfold State.postOnce
  split
  · exact h
  · exact List.mem_append_left _ h

theorem State.mem_agenda_acks {s : State} {e : Event} (h : e ∈ s.agenda) (d : Nat) (p : Packet) (m : Bool) : e ∈ (s.acks d p m).agenda := by
  unfold State.acks
  split
  · exact h
  · show e ∈ State.agenda (if _ then (s.modRepl d Repl.acking).sendAck d else s.modRepl d Repl.acking)
    split
    · exact State.mem_agenda_sendAll (s := s.modRepl d Repl.acking) h ..
    · exact h

/-! ### A grant -/

/-- The grant's slot has been counted, and what it removes is gone. -/
def State.granting (s : State) (c : Nat) (p : Packet) : State :=
  (s.modRepl c (Repl.counts p)).removes c p ((s.repl c).pending.find? fun q => q.rank = p.irank && q.rq = p.rq)

/-- Its issuer has its result. -/
def State.resolves (s : State) (c : Nat) (p : Packet) (bad : Bool) : State :=
  if p.irank = c then (s.granting c p).strongComplete c p.rq p.old p.rank (vecAt p.vec p.rank) bad else s.granting c p

theorem State.orders_other {s : State} {p : Packet} (other : p.kind ≠ 1) (bad : Bool) : s.orders c p bad = s := if_pos other

theorem State.orders_grant {β : Type} {o : State → β} (hp : ∀ s e, o (s.postOnce e) = o s) (s : State) {p : Packet} (grant : p.kind = 1) (bad : Bool) :
    o (s.orders c p bad) = o (s.resolves c p bad) := by
  have eq : s.orders c p bad = if ((s.resolves c p bad).repl c).col = c then (s.resolves c p bad).postOnce (.colGrant c) else s.resolves c p bad :=
    if_neg fun h => h grant
  rw [eq]
  split
  · exact hp ..
  · rfl

theorem State.books_granting (s : State) (p : Packet) (d : Nat) : (s.granting d p).books v c = (s.modRepl d (Repl.counts p)).books v c :=
  State.books_removes ..

end Sys2Proof.Machine
end

section
/-! SUPPORT. What applying a packet leaves: memory, links, the replication unit, threads and results (10 R211, R213, R219). Serves O49. -/

-- One theorem at a time: many at once ask for more threads than the checker has memory for.
set_option Elab.async false

namespace Sys2Proof.Machine

variable {v c : Nat}

/-! ### Memory and the replication unit -/

/-- Memory and a chip's replication unit. -/
def State.ground (s : State) (c : Nat) : Shelf := { s.shelf c with links := [] }

theorem State.ground_of_pages {s t : State} (h : t.pages v c = s.pages v c) : t.ground c = s.ground c := congrArg Prod.fst h
theorem State.roll_of_pages {s t : State} (h : t.pages v c = s.pages v c) : t.roll v = s.roll v := congrArg Prod.snd h
theorem State.ground_of_shelf {s t : State} (h : t.shelf c = s.shelf c) : t.ground c = s.ground c :=
  congrArg (fun x : Shelf => { x with links := [] }) h

/-- A replication unit that has applied a packet, its grant where it is one. -/
def Repl.settles (p : Packet) (r : Repl) : Repl := if p.kind = 1 then r.counts p else r

theorem State.books_of_shelf_granting (s : State) (p : Packet) : (s.granting c p).shelf c = (s.modRepl c (Repl.counts p)).shelf c :=
  State.shelf_of_aloof (State.aloof_of_books (v := 0) (State.books_granting ..))

theorem State.shelf_resolves {s : State} {p : Packet} {bad : Bool} (ok : p.irank = c → bad = false) :
    (s.resolves c p bad).shelf c = (s.modRepl c (Repl.counts p)).shelf c := by
  unfold State.resolves
  split
  · next e =>
    rw [ok e]
    exact (State.shelf_strongComplete ..).trans (State.books_of_shelf_granting ..)
  · exact State.books_of_shelf_granting ..

theorem State.shelf_orders {s : State} {p : Packet} {bad : Bool} (ok : p.kind = 1 → p.irank = c → bad = false) :
    (s.orders c p bad).shelf c = (s.modRepl c (Repl.settles p)).shelf c := by
  by_cases grant : p.kind = 1
  · have settles : Repl.settles p = Repl.counts p := funext fun r => if_pos grant
    rw [State.orders_grant (o := fun s => s.shelf c) (fun s e => State.shelf_of_aloof (State.aloof_of_books (v := 0) (State.books_postOnce s e))) s grant,
      settles]
    exact State.shelf_resolves (ok grant)
  · have settles : Repl.settles p = id := funext fun r => if_neg grant
    rw [State.orders_other grant, settles]
    exact (State.shelf_modChip fun _ => rfl).symm

/-- What a state with the same ground keeps when its unit is changed. -/
theorem State.ground_modRepl {s t : State} {f : Repl → Repl} {g : Repl → Repl} (hg : ∀ r, (f r).record = (g r.record).record)
    (h : t.ground c = s.ground c) : (t.modRepl c f).ground c = (s.modRepl c f).ground c := by
  have eq (u : State) : (u.modRepl c f).ground c = { u.ground c with record := (g (u.ground c).record).record } := by
    have unit : ((u.modRepl c f).repl c).record = (g (u.repl c).record).record := by rw [State.repl_modRepl, if_pos rfl, hg]
    exact congrArg (Shelf.mk u.mem u.mf4 u.linkDown []) unit
  rw [eq, eq, h]

theorem Repl.record_settles (p : Packet) (r : Repl) : (r.settles p).record = (r.record.settles p).record := by
  unfold Repl.settles
  split <;> rfl

theorem State.ground_applyPacket {s : State} {p : Packet} (known : p.unknown = false)
    (ok : p.kind = 1 → p.irank = c → s.replFails c p.blk = false) :
    (s.applyPacket c p).ground c = ((s.taken c p).modRepl c (Repl.settles p)).ground c := by
  rw [State.applyPacket_eq s c known]
  refine (State.ground_of_pages (v := 0) (State.pages_acks ..)).trans ?_
  refine (State.ground_of_shelf (State.shelf_orders ok)).trans ?_
  refine State.ground_modRepl (Repl.record_settles p) ?_
  refine (State.ground_of_pages (v := 0) (State.pages_of_books (State.books_tells ..))).trans ?_
  exact State.ground_of_pages (v := 0) (State.pages_answersWrap ..)

/-- The replication unit once a packet has been applied. -/
theorem State.record_applyPacket {s : State} {p : Packet} (known : p.unknown = false)
    (ok : p.kind = 1 → p.irank = c → s.replFails c p.blk = false) :
    ((s.applyPacket c p).repl c).record = ((((s.clears c p).repl c).takes c p).settles p).record := by
  have unit : (((s.taken c p).modRepl c (Repl.settles p)).repl c) = (((s.clears c p).repl c).takes c p).settles p := by
    rw [State.repl_modRepl, if_pos rfl, State.taken, State.repl_modRepl, if_pos rfl]
  exact (congrArg Shelf.record (State.ground_applyPacket known ok)).trans (congrArg Repl.record unit)

theorem State.mem_clears (s : State) (p : Packet) : (s.clears c p).mem = s.mem := by
  unfold State.clears State.tagRepl
  split
  · rfl
  · simp only
    split
    · rfl
    · split <;> rfl

theorem State.mem_applyPacket {s : State} {p : Packet} (known : p.unknown = false)
    (ok : p.kind = 1 → p.irank = c → s.replFails c p.blk = false) : (s.applyPacket c p).mem = s.mem :=
  (congrArg Shelf.mem (State.ground_applyPacket known ok)).trans (State.mem_clears ..)

/-! ### Threads and results -/

theorem State.waves_clears (s : State) (p : Packet) : (s.clears c p).waves = s.waves := by
  unfold State.clears State.tagRepl
  split
  · rfl
  · simp only
    split
    · rfl
    · split <;> rfl

theorem State.roll_taken (s : State) (p : Packet) : (s.taken c p).roll v = s.roll v :=
  congrArg (fun w => (Table.look w v).map Wave.roll) (State.waves_clears s p)

theorem Repl.outstanding_takes (r : Repl) (p : Packet) : (r.takes c p).outstanding = r.outstanding := by
  unfold Repl.takes
  rw [Repl.installAll_rest]

/-- A unit one of whose blocks is tagged anew; one whose block is written. -/
def Repl.retagged (b : Nat) (t : Nat × Nat × BitVec 32) (r : Repl) : Repl := { r with blockTag := Table.put r.blockTag b t }
def Repl.filledWith (b : Nat) (z : List Byte) (r : Repl) : Repl := { r with replica := Memory.writeBytes r.replica (64 * b) z }

theorem State.repl_filledWith (s : State) (b : Nat) (z : List Byte) : ∃ m, (s.modRepl c (Repl.filledWith b z)).repl c = { s.repl c with replica := m } ∧
    ((s.repl c).replica.wf = true → m.wf = true) := by
  rw [State.repl_modRepl, if_pos rfl]
  exact ⟨Memory.writeBytes (s.repl c).replica (64 * b) z, rfl, fun wf => Memory.writeBytes_wf _ _ wf⟩

/-- Tagging a block changes its tag, and its bytes only where it fails. -/
theorem State.repl_clears (s : State) (p : Packet) : ∃ m t, (s.clears c p).repl c = { s.repl c with replica := m, blockTag := t } ∧
    (s.replFails c p.blk = false ∨ p.images = [] → m = (s.repl c).replica) ∧ ((s.repl c).replica.wf = true → m.wf = true) := by
  unfold State.clears
  by_cases none : p.images = []
  · rw [if_pos none]
    exact ⟨_, _, rfl, fun _ => rfl, id⟩
  · rw [if_neg none]
    cases pass : s.replFails c p.blk with
    | false =>
      rw [State.tagRepl_passes pass, State.repl_modRepl, if_pos rfl]
      exact ⟨_, _, rfl, fun _ => rfl, id⟩
    | true =>
      obtain ⟨m, zero, wf⟩ := State.repl_filledWith (c := c) s p.blk (List.replicate 64 0)
      have unit (u : State) (h : u.repl c = { s.repl c with replica := m }) (t : Nat × Nat × BitVec 32) :
          (u.modRepl c (Repl.retagged p.blk t)).repl c = Repl.retagged p.blk t { s.repl c with replica := m } := by
        rw [State.repl_modRepl, if_pos rfl, h]
      have tag : ∃ t, (s.tagRepl c p.blk (decide (2 ≤ p.images.length))).repl c = Repl.retagged p.blk t { s.repl c with replica := m } := by
        unfold State.tagRepl
        simp only [pass, Bool.not_true, Bool.false_eq_true, if_false]
        split
        · exact ⟨_, unit _ zero _⟩
        · exact ⟨_, unit _ ((State.repl_note_frame ..).trans zero) _⟩
      obtain ⟨t, eq⟩ := tag
      exact ⟨m, _, eq, fun h => h.elim (fun e => nomatch e) fun e => absurd e none, wf⟩

theorem State.outstanding_clears (s : State) (p : Packet) : ((s.clears c p).repl c).outstanding = (s.repl c).outstanding := by
  obtain ⟨m, t, eq, -, -⟩ := State.repl_clears (c := c) s p
  rw [eq]

/-- The unit and the waves that a grant finds. -/
theorem State.roll_grant (s : State) (p : Packet) : (((s.taken c p).answersWrap c p).tells c p).roll v = s.roll v :=
  ((State.roll_of_books (c := c) (State.books_tells ..)).trans (State.roll_of_pages (c := c) (State.pages_answersWrap ..))).trans (State.roll_taken ..)

theorem State.answersWrap_other {s : State} {p : Packet} (other : p.kind ≠ 2) : s.answersWrap c p = s := by
  unfold State.answersWrap
  rw [decide_eq_false other, Bool.false_and, if_neg Bool.false_ne_true]

theorem State.outstanding_grant (s : State) {p : Packet} (grant : p.kind = 1) :
    ((((s.taken c p).answersWrap c p).tells c p).granting c p |>.repl c).outstanding = (s.repl c).outstanding := by
  have same (s t : State) (h : t.books 0 c = s.books 0 c) : (t.repl c).outstanding = (s.repl c).outstanding :=
    congrArg (fun b : Aloof × Option Roll => b.1.ledger.outstanding) h
  rw [State.answersWrap_other (by rw [grant]; decide)]
  rw [same _ _ (State.books_granting ..), State.repl_modRepl, if_pos rfl]
  refine (same _ _ (State.books_tells ..)).trans ?_
  rw [State.taken, State.repl_modRepl, if_pos rfl, Repl.outstanding_takes, State.outstanding_clears]

end Sys2Proof.Machine
end

section
/-! SUPPORT. What a packet brings its chip's waves, its host and its links (10 R219, R221, R223). Serves O49. -/

-- One theorem at a time: many at once ask for more threads than the checker has memory for.
set_option Elab.async false

namespace Sys2Proof.Machine

variable {v c : Nat}

/-- The state that a packet's grant finds. -/
def State.primed (s : State) (c : Nat) (p : Packet) : State := ((s.taken c p).answersWrap c p).tells c p

theorem State.wave?_postOnce (s : State) (e : Event) : (s.postOnce e).wave? v = s.wave? v := by
  unfold State.postOnce; split <;> rfl

theorem State.team_acks (s : State) (p : Packet) (m : Bool) : (s.acks c p m).team v = s.team v :=
  State.team_of_roll (State.roll_of_pages (c := c) (State.pages_acks ..))

theorem State.roll_granting (s : State) (p : Packet) : ((s.primed c p).granting c p).roll v = s.roll v :=
  (State.roll_of_books (c := c) (State.books_granting ..)).trans (State.roll_grant ..)

/-- A packet that answers no request of its chip leaves the threads. -/
theorem State.team_applyPacket_other {s : State} {p : Packet} (known : p.unknown = false) (other : ¬ (p.kind = 1 ∧ p.irank = c)) :
    (s.applyPacket c p).team v = s.team v := by
  rw [State.applyPacket_eq s c known, State.team_acks]
  show ((s.primed c p).orders c p _).team v = _
  by_cases grant : p.kind = 1
  · rw [State.orders_grant (o := fun s => s.team v) (fun s e => congrArg (Option.map Wave.threads) (s.wave?_postOnce e)) _ grant]
    rw [State.resolves, if_neg fun e => other ⟨grant, e⟩]
    exact State.team_of_roll (State.roll_granting ..)
  · rw [State.orders_other grant]
    exact State.team_of_roll (State.roll_grant ..)

/-- What a wave that a result reaches has of its threads depends on what it holds. -/
theorem State.reached_of_roll {s t : State} (h : t.roll v = s.roll v) (f : Option ReqFor) (old : Nat) :
    (t.wave? v).map (fun x => x.reached f v old) = (s.wave? v).map fun x => x.reached f v old := by
  have guise := fun ld => State.guise_of_roll h ld
  cases hs : s.wave? v with
  | none =>
    have := guise 0
    unfold State.guise at this
    rw [hs] at this
    rw [Option.map_eq_none_iff.1 this]
  | some x =>
    have at0 := guise 0
    unfold State.guise at at0
    rw [hs] at at0
    obtain ⟨y, hy, -⟩ := Option.map_eq_some_iff.1 at0
    have same (ld : Nat) : y.guise ld = x.guise ld := by
      have := guise ld
      unfold State.guise at this
      rw [hs, hy] at this
      exact Option.some.inj this
    have threads : y.threads = x.threads := congrArg Prod.fst (same 0)
    have goal (ld : Nat) : y.goal ld = x.goal ld := congrArg (fun g => g.2.2) (same ld)
    rw [hy]
    refine congrArg some ?_
    dsimp only [Wave.reached]
    split
    · rw [Wave.filled_congr threads (goal _), threads]
    · exact threads

/-- A grant that answers a request of its chip fills the lane that made it. -/
theorem State.team_applyPacket {s : State} {p : Packet} (known : p.unknown = false) (grant : p.kind = 1) (mine : p.irank = c)
    (pass : s.replFails c p.blk = false) : (s.applyPacket c p).team v =
      (s.wave? v).map fun x => x.reached (Table.look (s.repl c).outstanding p.rq) v p.old.toNat := by
  rw [State.applyPacket_eq s c known, State.team_acks]
  show ((s.primed c p).orders c p _).team v = _
  rw [State.orders_grant (o := fun s => s.team v) (fun s e => congrArg (Option.map Wave.threads) (s.wave?_postOnce e)) _ grant,
    State.resolves, if_pos mine, pass, State.team_strongComplete]
  rw [show ((s.primed c p).granting c p |>.repl c).outstanding = _ from State.outstanding_grant s grant]
  exact State.reached_of_roll (State.roll_granting ..) _ _

theorem State.mem_agenda_orders {s : State} {p : Packet} {bad : Bool} (grant : p.kind = 1) {e : Event} (h : e ∈ (s.resolves c p bad).agenda) :
    e ∈ (s.orders c p bad).agenda := by
  have eq : s.orders c p bad = if ((s.resolves c p bad).repl c).col = c then (s.resolves c p bad).postOnce (.colGrant c) else s.resolves c p bad :=
    if_neg fun h => h grant
  rw [eq]
  split
  · exact State.mem_agenda_stays h _
  · exact h

/-- The last answer of a strong instruction ends it. -/
theorem State.applyPacket_ends {s : State} {p : Packet} (known : p.unknown = false) (grant : p.kind = 1) (mine : p.irank = c)
    (pass : s.replFails c p.blk = false) {w ld lane n l : Nat} {x : Wave} {g : Strong}
    (h : Table.look (s.repl c).outstanding p.rq = some (.lane w ld lane n)) (hx : s.wave? w = some x) (hs : x.strong = some g)
    (reqs : g.reqs = [p.rq]) (load : g.load = some l) :
    ((s.applyPacket c p).wave? w).map Wave.strong = some none ∧ .loadReturn w l ∈ (s.applyPacket c p).agenda := by
  have rolls : ((s.primed c p).granting c p).roll w = s.roll w := State.roll_granting ..
  have due : Table.look (((s.primed c p).granting c p).repl c).outstanding p.rq = some (.lane w ld lane n) := by
    rw [← h]
    exact congrArg (Table.look · p.rq) (State.outstanding_grant s grant)
  have strong := State.strong_eq (v := w) ((s.primed c p).granting c p)
  rw [rolls, ← State.strong_eq, hx] at strong
  obtain ⟨y, hy, ys⟩ := Option.map_eq_some_iff.1 strong
  obtain ⟨ended, event⟩ := State.strongComplete_ends due hy (ys.trans hs) reqs load p.old p.rank (vecAt p.vec p.rank)
  have resolves : (s.primed c p).resolves c p (s.replFails c p.blk) =
      ((s.primed c p).granting c p).strongComplete c p.rq p.old p.rank (vecAt p.vec p.rank) false := by
    rw [State.resolves, if_pos mine, pass]
  rw [State.applyPacket_eq s c known]
  show Option.map Wave.strong (State.wave? (((s.primed c p).orders c p _).acks c p _) w) = _ ∧ _ ∈ State.agenda (((s.primed c p).orders c p _).acks c p _)
  constructor
  · rw [State.strong_eq, State.roll_of_pages (c := c) (State.pages_acks ..), ← State.strong_eq,
      State.orders_grant (o := fun s => (s.wave? w).map Wave.strong) (fun s e => congrArg (Option.map Wave.strong) (s.wave?_postOnce e)) _ grant,
      resolves]
    exact ended
  · exact State.mem_agenda_acks (State.mem_agenda_orders grant (resolves ▸ event)) ..

/-- The host's result stands in its mailbox. -/
theorem State.applyPacket_host {s : State} {p : Packet} (known : p.unknown = false) (grant : p.kind = 1) (mine : p.irank = c)
    (h : Table.look (s.repl c).outstanding p.rq = some .host) :
    (((s.applyPacket c p).chip c).sys.hsold, ((s.applyPacket c p).chip c).sys.hsstat) = (p.old.extractLsb' 0 64, 2) := by
  have acks (s : State) (m : Bool) : ((s.acks c p m).chip c).sys = (s.chip c).sys := by
    have mod (s : State) (f : Repl → Repl) : ((s.modRepl c f).chip c).sys = (s.chip c).sys := by
      unfold State.modRepl
      rw [State.chip_modChip, if_pos rfl]
    unfold State.acks
    split
    · rfl
    · show (State.chip (if _ then (s.modRepl c Repl.acking).sendAck c else s.modRepl c Repl.acking) c).sys = _
      split
      · rw [State.sendAck, mod, State.chip_sendAll, mod]
      · exact mod ..
  have due : Table.look (((s.primed c p).granting c p).repl c).outstanding p.rq = some .host := by
    rw [← h]
    exact congrArg (Table.look · p.rq) (State.outstanding_grant s grant)
  have sys : ((s.applyPacket c p).chip c).sys = ((((s.primed c p).granting c p).strongComplete c p.rq p.old p.rank (vecAt p.vec p.rank)
      (s.replFails c p.blk)).chip c).sys := by
    rw [State.applyPacket_eq s c known, acks]
    show (((s.primed c p).orders c p _).chip c).sys = _
    rw [State.orders_grant (o := fun s => (s.chip c).sys) (fun s e => by unfold State.postOnce; split <;> rfl) _ grant, State.resolves, if_pos mine]
  rw [sys, State.strongComplete_host due, State.chip_modChip, if_pos rfl]

theorem State.links_clears (s : State) (p : Packet) : (s.clears c p).links = s.links ∧ (s.clears c p).linkDown = s.linkDown ∧
    (s.clears c p).mf4 = s.mf4 := by
  unfold State.clears State.tagRepl
  split
  · exact ⟨rfl, rfl, rfl⟩
  · simp only
    split
    · exact ⟨rfl, rfl, rfl⟩
    · split <;> exact ⟨rfl, rfl, rfl⟩

/-- A chip's own grant sends nothing while it is applied. -/
theorem State.shelf_applyPacket_own {s : State} {p : Packet} (known : p.unknown = false) (grant : p.kind = 1) (own : p.rank = c)
    (pass : p.irank = c → s.replFails c p.blk = false) : (s.applyPacket c p).links = s.links ∧ (s.applyPacket c p).linkDown = s.linkDown ∧
      (s.applyPacket c p).mf4 = s.mf4 := by
  have shelf : (s.applyPacket c p).shelf c = (((s.taken c p).tells c p).modRepl c (Repl.settles p)).shelf c := by
    rw [State.applyPacket_eq s c known, State.acks_own _ own, State.answersWrap_other (by rw [grant]; decide)]
    exact State.shelf_orders fun _ => pass
  have told := State.aloof_of_books (v := 0) (State.books_tells (c := c) (v := 0) (s.taken c p) c p)
  obtain ⟨links, down, mf4⟩ := State.links_clears (c := c) s p
  exact ⟨((congrArg Shelf.links shelf).trans (congrArg Aloof.links told)).trans links,
    ((congrArg Shelf.down shelf).trans (congrArg Aloof.down told)).trans down,
    ((congrArg Shelf.mf4 shelf).trans (congrArg Aloof.mf4 told)).trans mf4⟩

/-- A member answers a WRAP to every member. -/
theorem State.applyPacket_answers {s : State} {p : Packet} (known : p.unknown = false) (wrap : p.kind = 2) (member : c ∈ (s.repl c).members)
    {d : Nat} (hd : d < 8) (ne : d ≠ c) (here : s.chipExists d = true) (hm : d ∈ (s.repl c).members) (up : s.linkUp c d = true) :
    .wrapack ((s.applyPacket c p).ctlVec c) p.rank ∈ (s.applyPacket c p).wire c d := by
  obtain ⟨links, down, mf4⟩ := State.links_clears (c := c) s p
  obtain ⟨m, t, unit, -, -⟩ := State.repl_clears (c := c) s p
  have taken : (s.taken c p).repl c = ((s.clears c p).repl c).takes c p := by rw [State.taken, State.repl_modRepl, if_pos rfl]
  have members : ((s.taken c p).repl c).members = (s.repl c).members := by
    rw [taken, unit, Repl.takes, Repl.installAll_rest]
  have listeners : ((s.taken c p).repl c).listeners = (s.repl c).listeners := by
    rw [taken, unit, Repl.takes, Repl.installAll_rest]
  have ctl : (s.applyPacket c p).ctlVec c = (s.taken c p).ctlVec c := by
    have settled : ∀ r, Repl.settles p r = r := fun r => if_neg (by rw [wrap]; decide)
    have record := State.record_applyPacket (c := c) known (s := s) fun g => absurd (wrap.symm.trans g) (by decide)
    rw [settled, ← taken] at record
    have applied : ((s.applyPacket c p).repl c).applied = ((s.taken c p).repl c).applied := (congrArg Repl.applied record :)
    have own : ((s.applyPacket c p).repl c).own = ((s.taken c p).repl c).own := (congrArg Repl.own record :)
    rw [State.ctlVec, State.ctlVec, applied, own]
  let m := Msg.wrapack ((s.taken c p).ctlVec c) p.rank
  have sent : ((s.taken c p).sendAll c m).wire c d = s.wire c d ++ [m] :=
    sent_sendAll (s := s) (u := s.taken c p) m links down mf4 members listeners d hd ne here (.inl hm) up
  have answers : (s.taken c p).answersWrap c p = ((s.taken c p).sendAll c m).tellWraps c p.rank := by
    refine if_pos ?_
    rw [decide_eq_true wrap, members, Bool.true_and]
    exact List.contains_iff_mem.2 member
  have grows : ((s.taken c p).sendAll c m).Grows (s.applyPacket c p) := by
    rw [State.applyPacket_eq s c known, State.orders_other (by rw [wrap]; decide), answers]
    refine (State.grows_tellWraps _ c p.rank).trans (.trans (.of_links ?_) (State.grows_acks ..))
    exact congrArg Aloof.links (State.aloof_of_books (v := 0) (c := c) (State.books_tells ..))
  obtain ⟨l, hl⟩ := grows.more c d
  rw [hl, sent, ctl]
  exact List.mem_append_left _ (List.mem_append_right _ (List.mem_singleton.2 rfl))

end Sys2Proof.Machine
end

section
/-! A ready packet is applied sector by sector and counted (10 R211, R213, R219, R223). Serves O49. -/

-- One theorem at a time: many at once ask for more threads than the checker has memory for.
set_option Elab.async false

namespace Sys2Proof.Machine

variable {v c : Nat}

/-! ### The lane that a result fills -/

/-- The lanes that a result of a chip's request fills, or that keep what they hold. -/
def Filled (s t : State) (c : Nat) (mine : Prop) (rq old : Nat) : Prop :=
  (∀ v l, (mine ∧ ∃ ld n, Table.look (s.repl c).outstanding rq = some (.lane v ld l n)) ∨ (s.lane v l).SameRegs (t.lane v l)) ∧
  (mine → ∀ v l ld x u, (∃ n, Table.look (s.repl c).outstanding rq = some (.lane v ld l n)) → s.wave? v = some x → l < x.threads.length →
    Table.look x.loads ld = some u →
    (t.lane v l).isFull u.d u.fmt.regs = true ∧
    ∀ g n, (t.lane v l).reg g n = if Opd.names u.d u.fmt.regs g n = true
      then wordOf (u.fmt.value (bytesOfNat u.fmt.bytes old)) (n - Opd.first u.d) else (s.lane v l).reg g n)

theorem State.lane_of_team (s : State) (v l : Nat) : s.lane v l = ((s.team v).getD []).getD l Thread.reset := by
  unfold State.lane State.team
  cases s.wave? v <;> rfl

theorem Thread.sameRegs_of_eq {t u : Thread} (h : u = t) : t.SameRegs u := .of_data (congrArg Thread.data h)

theorem Wave.filled_getD (x : Wave) (ld lane : Nat) (val : LoadFmt → Quad) (l : Nat) : (x.filled ld lane val).getD l Thread.reset =
    match x.goal ld with
    | none => x.thread l
    | some (d, f) => if l = lane ∧ l < x.threads.length then (x.thread l).deliver d f.regs (val f) else x.thread l := by
  unfold Wave.filled
  cases x.goal ld with
  | none => rfl
  | some g =>
    refine (Wave.thread_mapLanes x [lane] (fun _ t => t.deliver g.1 g.2.regs (val g.2)) l).trans ?_
    simp only [List.mem_singleton]

theorem filled_of_team {s t : State} {mine : Prop} {rq old : Nat}
    (yes : mine → ∀ v, t.team v = (s.wave? v).map fun x => x.reached (Table.look (s.repl c).outstanding rq) v old)
    (no : ¬ mine → ∀ v, t.team v = s.team v) : Filled s t c mine rq old := by
  constructor
  · intro v l
    by_cases m : mine
    · by_cases due : ∃ ld n, Table.look (s.repl c).outstanding rq = some (.lane v ld l n)
      · exact .inl ⟨m, due⟩
      · refine .inr (Thread.sameRegs_of_eq ?_)
        rw [State.lane_of_team, State.lane_of_team, yes m]
        cases hx : s.wave? v with
        | none => rw [State.team, hx]; rfl
        | some x =>
          rw [State.team, hx]
          show (x.reached (Table.look (s.repl c).outstanding rq) v old).getD l Thread.reset = x.thread l
          unfold Wave.reached
          split
          · next w ld lane n h =>
            split
            · next e =>
              have other : ¬ (l = lane ∧ l < x.threads.length) := fun a => due ⟨ld, n, by rw [h, e, a.1]⟩
              rw [Wave.filled_getD]
              split
              · rfl
              · exact if_neg other
            · rfl
          · rfl
    · refine .inr (Thread.sameRegs_of_eq ?_)
      rw [State.lane_of_team, State.lane_of_team, no m]
  · rintro m v l ld x u ⟨n, due⟩ hx hl hu
    have lane : t.lane v l = (x.thread l).deliver u.d u.fmt.regs (u.fmt.value (bytesOfNat u.fmt.bytes old)) := by
      rw [State.lane_of_team, yes m, hx]
      show (x.reached (Table.look (s.repl c).outstanding rq) v old).getD l Thread.reset = _
      have goal : x.goal ld = some (u.d, u.fmt) := by rw [Wave.goal, hu]; rfl
      simp only [due, Wave.reached, if_pos, Wave.filled_getD, goal, hl, and_self, strongValue]
    have old : s.lane v l = x.thread l := by rw [State.lane, hx]
    rw [lane, old]
    exact ⟨Thread.isFull_deliver .., fun g n => Thread.reg_deliver ..⟩

/-! ### The replication unit that has applied a packet -/

/-- What changes in a unit that applies a packet. -/
theorem Repl.settles_takes (r : Repl) (p : Packet) : ∃ g l co gr re, (r.takes c p).settles p =
    { r with
      replica := (r.installAll p.sclk p.rank (p.kind = 1) p.images).replica
      tags := (r.installAll p.sclk p.rank (p.kind = 1) p.images).tags
      applied := vecSet r.applied p.rank (if p.kind = 2 then 0 else vecAt p.vec p.rank)
      wrapsApplied := if p.kind = 2 then vecSet r.wrapsApplied p.rank (vecAt r.wrapsApplied p.rank + 1) else r.wrapsApplied
      pending := if p.kind = 1 then r.pending.filter fun q => !(q.rank = p.irank && q.rq = p.rq)
        else if p.kind = 2 then r.pending.map fun q => q.afterWrap p.rank else r.pending
      nextSlot := if p.kind = 1 then p.slot + 1 else r.nextSlot
      grants24 := g, lastSlot := l, col := co, granted := gr, recent := re } := by
  unfold Repl.settles Repl.takes
  rw [Repl.installAll_rest]
  by_cases grant : p.kind = 1
  · have wrap : ¬ p.kind = 2 := by rw [grant]; decide
    rw [if_pos grant, if_pos grant, if_pos grant]
    simp only [if_neg wrap, Repl.counts]
    exact ⟨_, _, _, _, _, rfl⟩
  · rw [if_neg grant, if_neg grant, if_neg grant]
    exact ⟨_, _, _, _, _, rfl⟩

end Sys2Proof.Machine
end

section
/-! A ready packet is applied sector by sector and counted (10 R211, R213, R219, R223). Serves O49. -/

-- One theorem at a time: many at once ask for more threads than the checker has memory for.
set_option Elab.async false

namespace Sys2Proof.Machine

variable {v c : Nat}

/-- What the application of a packet to a chip's replica does. -/
structure Applied (s t : State) (c : Nat) (p : Packet) : Prop where
  mem : t.mem = s.mem
  filled : Filled s t c (p.kind = 1 ∧ p.irank = c) p.rq p.old.toNat
  hold : (t.repl c).hold = (s.repl c).hold
  installing : (t.repl c).installing = (s.repl c).installing
  applied : ∀ j, vecAt (t.repl c).applied j = if j = p.rank then (if p.kind = 2 then 0 else vecAt p.vec p.rank) else vecAt (s.repl c).applied j
  wraps : p.kind = 2 → vecAt (t.repl c).wrapsApplied p.rank = vecAt (s.repl c).wrapsApplied p.rank + 1
  replica : p.images = [] → (t.repl c).replica = (s.repl c).replica
  answers : p.kind = 2 → c ∈ (s.repl c).members → ∀ d, d < 8 → d ≠ c → s.chipExists d = true → d ∈ (s.repl c).members → s.linkUp c d = true →
    .wrapack (t.ctlVec c) p.rank ∈ t.wire c d
  images : ∀ k, if (Table.look p.images k).isSome = true ∧ beats p.sclk p.rank (Table.at (s.repl c).tags k 0) = true then
      some ((t.repl c).image k) = Table.look p.images k ∧ Table.at (t.repl c).tags k 0 = mkTag (p.kind = 1) p.rank p.sclk
    else (t.repl c).image k = (s.repl c).image k ∧ Table.at (t.repl c).tags k 0 = Table.at (s.repl c).tags k 0
  next : p.kind = 1 → (t.repl c).nextSlot = p.slot + 1 ∧ ∀ q ∈ (t.repl c).pending, q.rank ≠ p.irank ∨ q.rq ≠ p.rq
  host : p.kind = 1 → p.irank = c → Table.look (s.repl c).outstanding p.rq = some .host →
    ((t.chip c).sys.hsold, (t.chip c).sys.hsstat) = (p.old.extractLsb' 0 64, 2)
  ends : p.kind = 1 → p.irank = c → ∀ w ld lane n x g l, Table.look (s.repl c).outstanding p.rq = some (.lane w ld lane n) → s.wave? w = some x →
    x.strong = some g → g.reqs = [p.rq] → g.load = some l → (t.wave? w).map Wave.strong = some none ∧ .loadReturn w l ∈ t.agenda

theorem not_mem_filter_request {l : List Req} {i n : Nat} {q : Req} (h : q ∈ l.filter fun q => !(q.rank = i && q.rq = n)) :
    q.rank ≠ i ∨ q.rq ≠ n := by
  have keep := (List.mem_filter.1 h).2
  by_cases e : q.rank = i
  · refine .inr fun f => ?_
    rw [decide_eq_true e, decide_eq_true f] at keep
    cases keep
  · exact .inl e

/-- The unit of a chip whose packet has been applied to a block that passes its check, or to none. -/
theorem State.unit_applyPacket {s : State} {p : Packet} (known : p.unknown = false) (ok : p.kind = 1 → p.irank = c → s.replFails c p.blk = false) :
    ∃ m t, (s.replFails c p.blk = false ∨ p.images = [] → m = (s.repl c).replica) ∧ ((s.repl c).replica.wf = true → m.wf = true) ∧
      ((s.applyPacket c p).repl c).record = ((Repl.takes c p { s.repl c with replica := m, blockTag := t }).settles p).record := by
  obtain ⟨m, t, unit, same, wf⟩ := State.repl_clears (c := c) s p
  have record := State.record_applyPacket known ok
  rw [unit] at record
  exact ⟨m, t, same, wf, record⟩

theorem applied_of_known {s : State} {p : Packet} (known : p.unknown = false) (pass : s.replFails c p.blk = false) (rank : p.rank < 8)
    (len : (s.repl c).applied.length = 8) (wlen : (s.repl c).wrapsApplied.length = 8) (wf : (s.repl c).replica.wf = true) :
    Applied s (s.applyPacket c p) c p := by
  have ok : p.kind = 1 → p.irank = c → s.replFails c p.blk = false := fun _ _ => pass
  obtain ⟨m, b, same, -, record⟩ := State.unit_applyPacket known ok
  rw [same (.inl pass)] at record
  let r : Repl := { s.repl c with blockTag := b }
  obtain ⟨g, l, co, gr, re, unit⟩ := Repl.settles_takes (c := c) r p
  rw [show Repl.settles p (Repl.takes c p { s.repl c with replica := (s.repl c).replica, blockTag := b }) = _ from unit] at record
  generalize ht : s.applyPacket c p = t at record
  have image : (t.repl c).replica = (r.installAll p.sclk p.rank (p.kind = 1) p.images).replica := (congrArg Repl.replica record :)
  have tags : (t.repl c).tags = (r.installAll p.sclk p.rank (p.kind = 1) p.images).tags := (congrArg Repl.tags record :)
  have applied : (t.repl c).applied = vecSet (s.repl c).applied p.rank (if p.kind = 2 then 0 else vecAt p.vec p.rank) :=
    (congrArg Repl.applied record :)
  have wraps : (t.repl c).wrapsApplied = if p.kind = 2 then vecSet (s.repl c).wrapsApplied p.rank (vecAt (s.repl c).wrapsApplied p.rank + 1)
      else (s.repl c).wrapsApplied := (congrArg Repl.wrapsApplied record :)
  have pending : (t.repl c).pending = if p.kind = 1 then (s.repl c).pending.filter fun q => !(q.rank = p.irank && q.rq = p.rq)
      else if p.kind = 2 then (s.repl c).pending.map fun q => q.afterWrap p.rank else (s.repl c).pending := (congrArg Repl.pending record :)
  have nextSlot : (t.repl c).nextSlot = if p.kind = 1 then p.slot + 1 else (s.repl c).nextSlot := (congrArg Repl.nextSlot record :)
  refine ⟨?mem, ?filled, (congrArg Repl.hold record :), (congrArg Repl.installing record :), ?applied, ?wraps, ?replica, ?answers, ?images, ?next, ?host, ?ends⟩
  case mem => rw [← ht]; exact State.mem_applyPacket known ok
  case filled =>
    rw [← ht]
    exact filled_of_team (fun mine v => State.team_applyPacket known mine.1 mine.2 pass) fun other v => State.team_applyPacket_other known other
  case applied =>
    intro j
    rw [applied, vecAt_vecSet _ _ _ _ (by omega)]
  case wraps =>
    intro wrap
    rw [wraps, if_pos wrap, vecAt_vecSet _ _ _ _ (by omega), if_pos rfl]
  case replica =>
    intro none
    rw [image, none]
    rfl
  case answers =>
    intro wrap member d hd ne here hm up
    rw [← ht]
    exact State.applyPacket_answers known wrap member hd ne here hm up
  case images =>
    intro k
    have spec := Repl.installAll_spec (clk := p.sclk) rank (decide (p.kind = 1)) k p.images r wf
    rw [Repl.image, ← image, ← tags] at spec
    exact spec
  case next =>
    intro grant
    rw [nextSlot, if_pos grant, pending, if_pos grant]
    exact ⟨rfl, fun q hq => not_mem_filter_request hq⟩
  case host =>
    intro grant mine due
    rw [← ht]
    exact State.applyPacket_host known grant mine due
  case ends =>
    intro grant mine w ld lane n x g l due hx hs reqs load
    rw [← ht]
    exact State.applyPacket_ends known grant mine pass due hx hs reqs load

end Sys2Proof.Machine
end

section
/-! A ready packet leaves the hold store and is applied (10 R211, R213, R219, R223). Serves O49. -/

-- One theorem at a time: many at once ask for more threads than the checker has memory for.
set_option Elab.async false

namespace Sys2Proof.Machine

variable {v c : Nat}

/-- A unit from whose hold store a packet has gone; its lag event may arm again. -/
def Repl.drops (p : Packet) (r : Repl) : Repl := { r with hold := r.hold.erase p }
def Repl.rearms (r : Repl) : Repl := { r with lagRaised := r.lagRaised && decide (r.lagwarn ≤ 2 * r.backlog) }

/-- The state in which a packet of the hold store is applied. -/
def State.picked (s : State) (c : Nat) (p : Packet) : State := (s.modRepl c (Repl.drops p)).modRepl c Repl.rearms

theorem State.repl_picked (s : State) (p : Packet) : (s.picked c p).repl c = ((s.repl c).drops p).rearms := by
  rw [State.picked, State.repl_modRepl, if_pos rfl, State.repl_modRepl, if_pos rfl]

theorem State.replFails_modRepl (s : State) {f : Repl → Repl} (tag : (f (s.repl c)).blockTag = (s.repl c).blockTag)
    (size : (f (s.repl c)).rsegsz = (s.repl c).rsegsz) (replica : (f (s.repl c)).replica = (s.repl c).replica) (b : Nat) :
    (s.modRepl c f).replFails c b = s.replFails c b := by
  have unit : (s.modRepl c f).repl c = f (s.repl c) := by rw [State.repl_modRepl, if_pos rfl]
  have keys : ((s.modRepl c f).chip c).keys = (s.chip c).keys := by
    unfold State.modRepl
    rw [State.chip_modChip, if_pos rfl]
  unfold State.replFails State.bufTag
  simp only [unit, keys, tag, size, replica]

theorem State.replFails_note (s : State) (d n : Nat) (as : List Nat) (b : Nat) : (s.note d n as).replFails c b = s.replFails c b := by
  have keys : ((s.note d n as).chip c).keys = (s.chip c).keys := by
    unfold State.note
    rw [State.chip_modChip]
    split
    · next e => rw [e]
    · rfl
  unfold State.replFails State.bufTag
  rw [State.repl_note_frame, keys]

theorem packetStops_quiet {s : State} (quiet : s.loggedRegions c = []) (rank n : Nat) : s.packetStops c rank n = [] := by
  unfold State.packetStops
  rw [quiet]
  rfl

theorem packetLog_quiet {s : State} (quiet : s.loggedRegions c = []) (rank n : Nat) : s.packetLog c rank n = s := by
  unfold State.packetLog
  rw [quiet]
  rfl

theorem askBlocked_none {s : State} (free : ∀ q ∈ (s.repl c).hold, (s.repl c).ready q = true → (s.repl c).hostBlocks q = false) :
    s.askBlocked c = s := by
  unfold State.askBlocked
  rw [List.filter_eq_nil_iff.2 fun q hq h => ?_]
  · rfl
  · obtain ⟨ready, blocked⟩ := (Bool.and_eq_true ..).mp h
    exact Bool.false_ne_true ((free q hq ready).symm.trans blocked)

theorem firstReady_of_find {s : State} {p : Packet} (quiet : s.loggedRegions c = [])
    (free : ∀ q ∈ (s.repl c).hold, (s.repl c).ready q = true → (s.repl c).hostBlocks q = false)
    (first : (s.repl c).hold.find? (fun q => (s.repl c).ready q) = some p) : s.firstReady c = some p := by
  have ready : (s.repl c).readyPackets = (s.repl c).hold.filter fun q => (s.repl c).ready q := by
    refine List.filter_congr fun q hq => ?_
    cases h : (s.repl c).ready q with
    | false => rfl
    | true => rw [free q hq h]; rfl
  unfold State.firstReady
  rw [ready, List.find?_filter]
  refine Eq.trans (congrArg (List.find? · _) (funext fun q => ?_)) first
  simp [packetStops_quiet quiet]

/-- What an event that was due already may add. -/
theorem applied_postOnce {s t : State} {p : Packet} (h : Applied s t c p) (e : Event) : Applied s (t.postOnce e) c p := by
  have chips : (t.postOnce e).chips = t.chips := by unfold State.postOnce; split <;> rfl
  have same : t.postOnce e = { t with agenda := (t.postOnce e).agenda } := by unfold State.postOnce; split <;> rfl
  obtain ⟨h1, h2, h3, h4, h5, h6, h7, h8, h9, h10, h11, h12⟩ := h
  have stays : ∀ f, f ∈ t.agenda → f ∈ (t.postOnce e).agenda := fun f hf => State.mem_agenda_stays hf e
  generalize (t.postOnce e).agenda = a at same stays
  rw [same]
  exact ⟨h1, h2, h3, h4, h5, h6, h7, h8, h9, h10, h11, fun g m w ld la n x st l a b d f k => ⟨(h12 g m w ld la n x st l a b d f k).1, stays _ (h12 g m w ld la n x st l a b d f k).2⟩⟩

/-- The ready packet that arrived first is applied, and nothing else happens. -/
theorem packetApply_runs {s : State} {p : Packet} (quiet : s.loggedRegions c = []) (out : (s.repl c).vst ≠ .out) (listener : (s.repl c).vst ≠ .listener)
    (free : ∀ q ∈ (s.repl c).hold, (s.repl c).ready q = true → (s.repl c).hostBlocks q = false)
    (first : (s.repl c).hold.find? (fun q => (s.repl c).ready q) = some p)
    (still : (((s.picked c p).applyPacket c p).repl c).installing = none) :
    ∃ t, exec (.packetApply c) s = .next t ∧ (t = (s.picked c p).applyPacket c p ∨ t = ((s.picked c p).applyPacket c p).postOnce (.packetApply c)) := by
  have applies : (s.repl c).applies = true := by
    unfold Repl.applies
    simp [out, listener]
  have held : s.applyHeld c p = (s.picked c p).applyPacket c p := by
    unfold State.applyHeld
    rw [packetLog_quiet quiet]
    rfl
  have idle (u : State) : State.logPosts c [] u = u := rfl
  refine ⟨if (((s.picked c p).applyPacket c p).repl c).readyPackets ≠ [] then ((s.picked c p).applyPacket c p).postOnce (.packetApply c)
    else (s.picked c p).applyPacket c p, ?_, ?_⟩
  · show execPacketApply c s = _
    unfold execPacketApply
    simp only [applies, askBlocked_none free, firstReady_of_find quiet free first, quiet, held, idle, still, Bool.not_true, Bool.false_eq_true,
      if_false, Option.isSome_none]
  · split
    · exact .inr rfl
    · exact .inl rfl

/-- A packet as it is applied: a grant of an unknown operation is an update without images. -/
def Packet.plain (p : Packet) : Packet := if p.unknown then { p with kind := 0, images := [] } else p

theorem Packet.unknown_iff (p : Packet) : p.unknown = true ↔ p.kind = 1 ∧ 12 ≤ p.opc := by
  unfold Packet.unknown
  rw [Bool.and_eq_true, decide_eq_true_iff, decide_eq_true_iff]

/-- Applying a packet of the hold store, with the note of an unknown operation where it is one. -/
theorem applied_picked {s : State} {p : Packet} (rank : p.rank < 8) (len : (s.repl c).applied.length = 8) (wlen : (s.repl c).wrapsApplied.length = 8)
    (pass : s.replFails c p.blk = false) (wf : (s.repl c).replica.wf = true) :
    ∃ u, Applied u ((s.picked c p).applyPacket c p) c p.plain ∧ u.repl c = ((s.repl c).drops p).rearms ∧ u.mem = s.mem ∧ u.links = s.links ∧
      u.linkDown = s.linkDown ∧ u.mf4 = s.mf4 ∧ u.waves = s.waves := by
  have fails : (s.picked c p).replFails c p.blk = false :=
    ((State.replFails_modRepl _ (f := Repl.rearms) rfl rfl rfl _).trans (State.replFails_modRepl _ (f := Repl.drops p) rfl rfl rfl _)).trans pass
  have unit := State.repl_picked (c := c) s p
  unfold Packet.plain
  by_cases unknown : p.unknown = true
  · rw [State.applyPacket_unknown _ c unknown, if_pos unknown]
    have unit' := (State.repl_note_frame (s.picked c p) c 0x219 [p.slot] c).trans unit
    refine ⟨(s.picked c p).note c 0x219 [p.slot], ?_, unit', rfl, rfl, rfl, rfl, rfl⟩
    refine applied_of_known (p := { p with kind := 0, images := [] }) rfl ?_ rank ?_ ?_ ?_
    · exact (State.replFails_note ..).trans fails
    · rw [unit']; exact len
    · rw [unit']; exact wlen
    · rw [unit']; exact wf
  · have known : p.unknown = false := Bool.eq_false_iff.2 unknown
    rw [if_neg unknown]
    refine ⟨s.picked c p, applied_of_known known fails rank ?_ ?_ ?_, unit, rfl, rfl, rfl, rfl, rfl⟩
    · rw [unit]; exact len
    · rw [unit]; exact wlen
    · rw [unit]; exact wf

/-- The ready packet that arrived first is applied and counted (10 R211, R213, R219, R223). -/
theorem packetApply_applies (c : Nat) (s : State) (p : Packet) (canonical : s.canonical = true) (quiet : s.loggedRegions c = [])
    (installing : (s.repl c).installing = none) (out : (s.repl c).vst ≠ .out) (listener : (s.repl c).vst ≠ .listener)
    (free : ∀ q ∈ (s.repl c).hold, (s.repl c).ready q = true → (s.repl c).hostBlocks q = false)
    (first : (s.repl c).hold.find? (fun q => (s.repl c).ready q) = some p) (rank : p.rank < 8)
    (len : (s.repl c).applied.length = 8) (wlen : (s.repl c).wrapsApplied.length = 8) (pass : s.replFails c p.blk = false) :
    ∃ u t, exec (.packetApply c) s = .next t ∧ Applied u t c p.plain ∧ u.repl c = ((s.repl c).drops p).rearms ∧ u.mem = s.mem ∧ u.links = s.links ∧
      u.linkDown = s.linkDown ∧ u.mf4 = s.mf4 ∧ u.waves = s.waves := by
  obtain ⟨u, applied, unit, rest⟩ := applied_picked rank len wlen pass (State.canonical_replica canonical c)
  have still : (((s.picked c p).applyPacket c p).repl c).installing = none := by
    rw [applied.installing, unit]
    exact installing
  obtain ⟨t, run, same⟩ := packetApply_runs quiet out listener free first still
  refine ⟨u, t, run, ?_, unit, rest⟩
  rcases same with e | e
  · rw [e]; exact applied
  · rw [e]; exact applied_postOnce applied _

end Sys2Proof.Machine
end

section
/-! A ready packet is applied and counted: the clauses of O49 (10 R211, R213, R219, R223). -/

-- One theorem at a time: many at once ask for more threads than the checker has memory for.
set_option Elab.async false

namespace Sys2Proof.Machine

variable {c : Nat}

theorem Packet.plain_kind (p : Packet) (k : Nat) (hk : k ≠ 0) : p.plain.kind = k ↔ p.kind = k ∧ (k = 1 → p.opc < 12) := by
  have unknown := p.unknown_iff
  unfold Packet.plain
  by_cases h : p.unknown = true
  · obtain ⟨grant, big⟩ := unknown.1 h
    rw [if_pos h]
    constructor
    · intro e; exact absurd e.symm hk
    · rintro ⟨e, small⟩
      have := small (e.symm.trans grant)
      omega
  · rw [if_neg h]
    constructor
    · intro e
      refine ⟨e, fun one => ?_⟩
      by_contra big
      exact h (unknown.2 ⟨e.trans one, by omega⟩)
    · exact And.left

theorem Packet.plain_of_small {p : Packet} (h : p.kind ≠ 1 ∨ p.opc < 12) : p.plain = p := by
  refine if_neg fun e => ?_
  obtain ⟨grant, big⟩ := p.unknown_iff.1 e
  rcases h with h | h
  · exact h grant
  · omega

theorem Packet.plain_rest (p : Packet) : p.plain.rank = p.rank ∧ p.plain.vec = p.vec ∧ p.plain.rq = p.rq ∧ p.plain.old = p.old ∧ p.plain.irank = p.irank := by
  unfold Packet.plain
  split <;> exact ⟨rfl, rfl, rfl, rfl, rfl⟩

theorem Filled.of_waves {s u t : State} {mine mine' : Prop} {rq old : Nat} (h : Filled u t c mine' rq old) (same : mine' ↔ mine)
    (waves : u.waves = s.waves) (outstanding : (u.repl c).outstanding = (s.repl c).outstanding) : Filled s t c mine rq old := by
  have wave (v : Nat) : u.wave? v = s.wave? v := congrArg (Table.look · v) waves
  have lane (v l : Nat) : u.lane v l = s.lane v l := by unfold State.lane; rw [wave]
  unfold Filled at h
  simp only [outstanding, lane, wave] at h
  unfold Filled
  exact ⟨fun v l => (h.1 v l).imp (And.imp_left same.1) id, fun m => h.2 (same.2 m)⟩

theorem packetApply_clauses (c : Nat) (s : State) (p : Packet) (canonical : s.canonical = true) (quiet : s.loggedRegions c = [])
    (installing : (s.repl c).installing = none) (out : (s.repl c).vst ≠ .out) (listener : (s.repl c).vst ≠ .listener)
    (free : ∀ q ∈ (s.repl c).hold, (s.repl c).ready q = true → (s.repl c).hostBlocks q = false)
    (first : (s.repl c).hold.find? (fun q => (s.repl c).ready q) = some p) (rank : p.rank < 8)
    (len : (s.repl c).applied.length = 8) (wlen : (s.repl c).wrapsApplied.length = 8) (pass : s.replFails c p.blk = false) :
    ∃ t, exec (.packetApply c) s = .next t ∧ Filled s t c (p.kind = 1 ∧ p.opc < 12 ∧ p.irank = c) p.rq p.old.toNat ∧
      (p.opc ≠ 11 → ∀ a, t.byte a = s.byte a) ∧ (t.repl c).hold = (s.repl c).hold.erase p ∧
      (∀ j, vecAt (t.repl c).applied j = if j = p.rank then (if p.kind = 2 then 0 else vecAt p.vec p.rank) else vecAt (s.repl c).applied j) ∧
      (p.kind = 2 → vecAt (t.repl c).wrapsApplied p.rank = vecAt (s.repl c).wrapsApplied p.rank + 1 ∧
        (p.images = [] → (t.repl c).replica = (s.repl c).replica) ∧
        (c ∈ (s.repl c).members → ∀ d, d < 8 → d ≠ c → s.chipExists d = true → d ∈ (s.repl c).members → s.linkUp c d = true →
          .wrapack (t.ctlVec c) p.rank ∈ t.wire c d)) ∧
      (p.kind = 0 ∨ p.kind = 1 ∧ p.opc < 12 → ∀ k,
        if (Table.look p.images k).isSome = true ∧ beats p.sclk p.rank (Table.at (s.repl c).tags k 0) = true then
          some ((t.repl c).image k) = Table.look p.images k ∧ Table.at (t.repl c).tags k 0 = mkTag (p.kind = 1) p.rank p.sclk
        else (t.repl c).image k = (s.repl c).image k ∧ Table.at (t.repl c).tags k 0 = Table.at (s.repl c).tags k 0) ∧
      (p.kind = 1 → p.opc < 12 → (t.repl c).nextSlot = p.slot + 1 ∧ (∀ q ∈ (t.repl c).pending, q.rank ≠ p.irank ∨ q.rq ≠ p.rq) ∧
        (p.irank = c → Table.look (s.repl c).outstanding p.rq = some .host →
          ((t.chip c).sys.hsold, (t.chip c).sys.hsstat) = (p.old.extractLsb' 0 64, 2)) ∧
        (p.irank = c → ∀ w ld lane n x g l, Table.look (s.repl c).outstanding p.rq = some (.lane w ld lane n) → s.wave? w = some x →
          x.strong = some g → g.reqs = [p.rq] → g.load = some l →
          (t.wave? w).map Wave.strong = some none ∧ .loadReturn w l ∈ t.agenda)) := by
  obtain ⟨u, t, run, applied, unit, mem, links, down, mf4, waves⟩ :=
    packetApply_applies c s p canonical quiet installing out listener free first rank len wlen pass
  obtain ⟨hrank, hvec, hrq, hold, hirank⟩ := p.plain_rest
  have grants : p.plain.kind = 1 ↔ p.kind = 1 ∧ p.opc < 12 := (p.plain_kind 1 (by decide)).trans (and_congr_right fun _ => ⟨fun h => h rfl, fun h _ => h⟩)
  have wraps : p.plain.kind = 2 ↔ p.kind = 2 := (p.plain_kind 2 (by decide)).trans ⟨And.left, fun h => ⟨h, fun e => nomatch e⟩⟩
  have outstanding : (u.repl c).outstanding = (s.repl c).outstanding := by rw [unit]; rfl
  have members : (u.repl c).members = (s.repl c).members := by rw [unit]; rfl
  have tags : (u.repl c).tags = (s.repl c).tags := by rw [unit]; rfl
  have replica : (u.repl c).replica = (s.repl c).replica := by rw [unit]; rfl
  refine ⟨t, run, ?filled, ?mem, ?hold, ?applied, ?wrap, ?images, ?grant⟩
  case filled =>
    have filled := applied.filled
    rw [hrq, hold] at filled
    exact filled.of_waves ((and_congr grants (by rw [hirank])).trans and_assoc) waves outstanding
  case mem => exact fun _ a => congrArg (Memory.read · a) (applied.mem.trans mem)
  case hold => rw [applied.hold, unit]; rfl
  case applied =>
    intro j
    have := applied.applied j
    rw [hrank, hvec, unit] at this
    simp only [wraps] at this
    exact this
  case wrap =>
    intro wrap
    have plain : p.plain = p := Packet.plain_of_small (.inl (by rw [wrap]; decide))
    rw [plain] at applied
    refine ⟨?_, ?_, ?_⟩
    · rw [applied.wraps wrap, unit]; rfl
    · intro none
      rw [applied.replica none, replica]
    · intro member d hd ne here hm up
      refine applied.answers wrap (members ▸ member) d hd ne ?_ (members ▸ hm) ?_
      · rw [State.chipExists, mf4]; exact here
      · rw [State.linkUp, down]; exact up
  case images =>
    intro kind k
    have plain : p.plain = p := Packet.plain_of_small (kind.imp (fun e => by rw [e]; decide) And.right)
    rw [plain] at applied
    have images := applied.images k
    rw [tags, show (u.repl c).image k = (s.repl c).image k from congrArg (fun m => BitVec.ofNat 256 (Memory.readLe m (32 * k) 32)) replica] at images
    exact images
  case grant =>
    intro kind small
    have plain : p.plain = p := Packet.plain_of_small (.inr small)
    rw [plain] at applied
    refine ⟨(applied.next kind).1, (applied.next kind).2, ?_, ?_⟩
    · intro mine due
      exact applied.host kind mine (outstanding ▸ due)
    · intro mine w ld lane n x g l due hx hs reqs load
      refine applied.ends kind mine w ld lane n x g l (outstanding ▸ due) ?_ hs reqs load
      rw [← hx]
      exact congrArg (Table.look · w) waves

end Sys2Proof.Machine
end

section
/-! SUPPORT. What the Col grants: the request performed, and the packet that tells of it (10 R217 to R219). Serves O49. -/

-- One theorem at a time: many at once ask for more threads than the checker has memory for.
set_option Elab.async false

namespace Sys2Proof.Machine

variable {c : Nat}

/-! ### Requests performed -/

theorem natOfBytes_lt (bs : List Byte) : natOfBytes bs < 256 ^ bs.length := by
  induction bs with
  | nil => exact Nat.one_pos
  | cons b r ih =>
    have := b.isLt
    show b.toNat + 256 * natOfBytes r < 256 ^ (r.length + 1)
    rw [Nat.pow_succ]
    omega

theorem natOfBytes_inj {a b : List Byte} (len : a.length = b.length) (h : natOfBytes a = natOfBytes b) : a = b := by
  induction a generalizing b with
  | nil => exact (List.length_eq_zero_iff.1 len.symm).symm
  | cons x r ih =>
    cases b with
    | nil => cases len
    | cons y u =>
      have eq : x.toNat + 256 * natOfBytes r = y.toNat + 256 * natOfBytes u := h
      have hx := x.isLt
      have hy := y.isLt
      rw [BitVec.eq_of_toNat_eq (show x.toNat = y.toNat by omega), ih (Nat.succ.inj len) (by omega)]

theorem Memory.readLe_lt (m : Memory) (a n : Nat) : Memory.readLe m a n < 256 ^ n := by
  have := natOfBytes_lt (Memory.readBytes m a n)
  rwa [Memory.length_readBytes] at this

/-- Equal images have equal bytes. -/
theorem Repl.read_of_image {r u : Repl} {k : Nat} (h : r.image k = u.image k) {j : Nat} (hj : j < 32) :
    Memory.read r.replica (32 * k + j) = Memory.read u.replica (32 * k + j) := by
  have size : (256 : Nat) ^ 32 = 2 ^ 256 := by norm_num
  have small (m : Memory) : Memory.readLe m (32 * k) 32 % 2 ^ 256 = Memory.readLe m (32 * k) 32 :=
    Nat.mod_eq_of_lt (size ▸ Memory.readLe_lt m (32 * k) 32)
  have nat := congrArg BitVec.toNat h
  rw [Repl.image, Repl.image, BitVec.toNat_ofNat, BitVec.toNat_ofNat, small, small] at nat
  have bytes := natOfBytes_inj ((Memory.length_readBytes ..).trans (Memory.length_readBytes ..).symm) nat
  rw [← Memory.readBytes_getD r.replica (32 * k) hj, bytes, Memory.readBytes_getD _ _ hj]

/-- What a strong operation writes has its width. -/
theorem strongNew_lt {opc : Nat} {signed : Bool} {w old a b v : Nat} (ho : old < 2 ^ (8 * w)) (ha : a < 2 ^ (8 * w)) (hb : b < 2 ^ (8 * w))
    (h : strongNew opc signed w old a b = some v) : v < 2 ^ (8 * w) := by
  unfold strongNew at h
  split at h
  · cases h; exact Nat.mod_lt _ (by positivity)
  · cases h; split <;> assumption
  · cases h; split <;> assumption
  · cases h; exact Nat.and_lt_two_pow _ ha
  · cases h; exact Nat.or_lt_two_pow ho ha
  · cases h; exact Nat.xor_lt_two_pow ho ha
  · cases h; exact ha
  · cases h; exact ha
  · cases h; exact ha
  · split at h
    · cases h; exact hb
    · cases h
  · cases h

/-- The value before a request and the value that it writes. -/
def Repl.reads (r : Repl) (q : Req) : Nat := Memory.readLe r.replica q.off (reqBytes q.opc q.ty)
def Repl.writes (r : Repl) (q : Req) : Option Nat :=
  let w := reqBytes q.opc q.ty
  strongNew q.opc q.ty.signed w (r.reads q) (q.opa.toNat % 2 ^ (8 * w)) (q.opb.toNat % 2 ^ (8 * w))

/-- A replica to which a request has been performed. -/
def Repl.performed (r : Repl) (q : Req) (v : Nat) : Repl := { r with replica := Memory.writeLe r.replica q.off (reqBytes q.opc q.ty) v }

theorem Repl.perform_reads {r : Repl} {fixed : Nat → Bool} {q : Req} (h : r.writes q = none) (small : q.opc < 11) :
    r.perform fixed q = (r.reads q, 0, []) := by
  unfold Repl.writes Repl.reads at h
  unfold Repl.perform
  simp only [if_neg (show ¬ q.opc = 11 by omega), Repl.reads]
  simp only at h
  rw [h]

theorem Repl.perform_writes {r : Repl} {fixed : Nat → Bool} {q : Req} {v : Nat} (h : r.writes q = some v) (small : q.opc < 11)
    (wide : 0 < reqBytes q.opc q.ty) (free : ∀ i, i < reqBytes q.opc q.ty → fixed (q.off + i) = false) :
    r.perform fixed q = (r.reads q, (tagClk (Table.at r.tags (q.off / 32) 0) + 2 ^ 22) % 2 ^ 28, [(q.off / 32, (r.performed q v).image (q.off / 32))]) := by
  have all : (cellsAt q.off (bytesOfNat (reqBytes q.opc q.ty) v)).filter (fun c => !fixed c.1) = cellsAt q.off (bytesOfNat (reqBytes q.opc q.ty) v) := by
    refine List.filter_eq_self.2 fun e he => ?_
    obtain ⟨b, hb, rfl⟩ := List.mem_map.1 he
    have lt := List.snd_lt_of_mem_zipIdx hb
    rw [bytesOfNat_length] at lt
    rw [free b.2 (by omega)]
    rfl
  have written : (r.performed q v).replica = Memory.writeCells r.replica (cellsAt q.off (bytesOfNat (reqBytes q.opc q.ty) v)) :=
    (Memory.writeCells_cellsAt ..).symm
  unfold Repl.writes Repl.reads at h
  unfold Repl.perform
  simp only [if_neg (show ¬ q.opc = 11 by omega), Repl.reads]
  simp only at h
  rw [h]
  simp only
  rw [show ((bytesOfNat (reqBytes q.opc q.ty) v).zipIdx.map fun b => (q.off + b.2, b.1)) = cellsAt q.off (bytesOfNat (reqBytes q.opc q.ty) v) from rfl, all]
  have some : cellsAt q.off (bytesOfNat (reqBytes q.opc q.ty) v) ≠ [] := by
    intro e
    have := congrArg List.length e
    unfold cellsAt at this
    rw [List.length_map, List.length_zipIdx, bytesOfNat_length] at this
    exact absurd this (by rw [List.length_nil]; omega)
  generalize cellsAt q.off (bytesOfNat (reqBytes q.opc q.ty) v) = cs at some written ⊢
  cases cs with
  | nil => exact absurd rfl some
  | cons e l =>
    simp only
    rw [Repl.image, Repl.image, written]
    rfl

end Sys2Proof.Machine
end

section
/-! The Col grants a request the next slot, with the value read (10 R217 to R219). Serves O49. -/

-- One theorem at a time: many at once ask for more threads than the checker has memory for.
set_option Elab.async false

namespace Sys2Proof.Machine

variable {c : Nat}

/-! ### The stages of a grant -/

/-- The packet of a grant. -/
def State.grantOf (s : State) (c : Nat) (q : Req) : Packet :=
  { kind := 1, rank := c, view := (s.repl c).view, sclk := (s.perform c q).2.1, blk := q.off / 64
    mask := BitVec.ofNat 64 ((2 ^ reqBytes q.opc q.ty - 1) * 2 ^ (q.off % 64)), vec := vecSet (s.repl c).applied c ((s.repl c).own + 1)
    sig := q.sig, tag := q.tag, images := (s.perform c q).2.2, slot := (s.repl c).nextSlot, rq := q.rq, irank := q.rank, opc := q.opc, ty := q.ty
    old := BitVec.ofNat 128 (s.perform c q).1, wraps := [], arrived := (s.chip c).clk, gen := vecAt (s.repl c).wrapsApplied c }

/-- A unit that has numbered a grant of its own. -/
def Repl.numbers (c : Nat) (p : Packet) (r : Repl) : Repl :=
  { r with own := r.own + 1, applied := vecSet r.applied c (r.own + 1), retained := r.retain c p }

/-- The block of another chip's request is taken under the present version. -/
def State.tagsFor (s : State) (c : Nat) (q : Req) : State :=
  if (s.perform c q).2.2 = [] || q.rank = c then s else s.tagRepl c (q.off / 64) false

/-- The grant is numbered and applied at the Col. -/
def State.awards (s : State) (c : Nat) (q : Req) : State :=
  (s.modRepl c fun _ => (s.repl c).numbers c (s.grantOf c q)).applyPacket c (s.grantOf c q)

theorem State.grant_eq (s : State) (c : Nat) (q : Req) : s.grant c q =
    if ((s.tagsFor c q).repl c).own + 1 = seqLimit
    then (((s.tagsFor c q).awards c q).sendAll c (.packet ((s.tagsFor c q).grantOf c q))).postOnce (.counterWrap c)
    else ((s.tagsFor c q).awards c q).sendAll c (.packet ((s.tagsFor c q).grantOf c q)) := rfl

/-! ### The state that a grant finds -/

/-- A state that differs from another in nothing but a chip's block tags, as far as a grant of the chip depends on it. -/
structure Beforehand (s u : State) (c : Nat) : Prop where
  unit : ∃ t, u.repl c = { s.repl c with blockTag := t }
  fixed : u.fixedByte c = s.fixedByte c
  mem : u.mem = s.mem
  links : u.links = s.links
  down : u.linkDown = s.linkDown
  mf4 : u.mf4 = s.mf4
  waves : u.waves = s.waves

theorem Beforehand.trans {s t u : State} (h : Beforehand s t c) (g : Beforehand t u c) : Beforehand s u c := by
  obtain ⟨a, ha⟩ := h.unit
  obtain ⟨b, hb⟩ := g.unit
  exact ⟨⟨b, by rw [hb, ha]⟩, g.fixed.trans h.fixed, g.mem.trans h.mem, g.links.trans h.links, g.down.trans h.down, g.mf4.trans h.mf4,
    g.waves.trans h.waves⟩

theorem Beforehand.of_modRepl {s : State} {f : Repl → Repl} {t : Table (Nat × Nat × Word)} (h : f (s.repl c) = { s.repl c with blockTag := t }) :
    Beforehand s (s.modRepl c f) c := by
  have unit : (s.modRepl c f).repl c = { s.repl c with blockTag := t } := by rw [State.repl_modRepl, if_pos rfl, h]
  have chip : ((s.modRepl c f).chip c).regions = (s.chip c).regions ∧ ((s.modRepl c f).chip c).sys = (s.chip c).sys := by
    unfold State.modRepl
    rw [State.chip_modChip, if_pos rfl]
    exact ⟨rfl, rfl⟩
  have bytes (a n : Nat) : (s.modRepl c f).recBytes c a n = s.recBytes c a n := by
    unfold State.recBytes
    rw [unit]
    rfl
  refine ⟨⟨t, unit⟩, ?_, rfl, rfl, rfl, rfl, rfl⟩
  funext off
  unfold State.fixedByte
  rw [unit, chip.1, regions_congr bytes (congrArg SysRegs.rootrcb chip.2)]

theorem Beforehand.perform {s u : State} (h : Beforehand s u c) (q : Req) : u.perform c q = s.perform c q := by
  obtain ⟨t, ht⟩ := h.unit
  unfold State.perform
  rw [ht, h.fixed]
  rfl

theorem tagsFor_beforehand {s : State} {q : Req} (pass : s.replFails c (q.off / 64) = false) :
    Beforehand s (s.tagsFor c q) c ∧ (q.rank = c → (s.tagsFor c q).replFails c (q.off / 64) = false) := by
  unfold State.tagsFor
  split
  · exact ⟨⟨⟨_, rfl⟩, rfl, rfl, rfl, rfl, rfl, rfl⟩, fun _ => pass⟩
  · next h =>
    rw [State.tagRepl_passes pass]
    refine ⟨Beforehand.of_modRepl rfl, fun mine => absurd ?_ h⟩
    rw [decide_eq_true mine, Bool.or_true]

end Sys2Proof.Machine
end

section
/-! The Col grants a request the next slot, with the value read (10 R217 to R219). Serves O49. -/

-- One theorem at a time: many at once ask for more threads than the checker has memory for.
set_option Elab.async false

namespace Sys2Proof.Machine

variable {c : Nat}

/-! ### A grant applied at the Col -/

theorem beats_later (t : Word) (rank : Nat) : beats ((tagClk t + 2 ^ 22) % 2 ^ 28) rank t = true := by
  have clk : tagClk t < 2 ^ 28 := (t.extractLsb' 0 28).isLt
  have gap : ((tagClk t + 2 ^ 22) % 2 ^ 28 + 2 ^ 28 - tagClk t) % 2 ^ 28 = 2 ^ 22 := by omega
  unfold beats
  simp only [gap]
  exact if_pos (show 2 ^ 22 ≠ 0 by decide) |>.trans (decide_eq_true (by norm_num))

/-- A sector that holds the image of a performed request holds its value. -/
theorem Repl.readLe_performed {r t : Repl} {q : Req} {v : Nat} (wf : r.replica.wf = true)
    (wide : reqBytes q.opc q.ty = 4 ∨ reqBytes q.opc q.ty = 8 ∨ reqBytes q.opc q.ty = 16) (aligned : q.off % reqBytes q.opc q.ty = 0)
    (small : v < 2 ^ (8 * reqBytes q.opc q.ty)) (image : t.image (q.off / 32) = (r.performed q v).image (q.off / 32)) :
    Memory.readLe t.replica q.off (reqBytes q.opc q.ty) = v := by
  have bytes : Memory.readLe t.replica q.off (reqBytes q.opc q.ty) = Memory.readLe (r.performed q v).replica q.off (reqBytes q.opc q.ty) := by
    refine Memory.readLe_congr fun i hi => ?_
    have inside : q.off % 32 + i < 32 := by rcases wide with e | e | e <;> rw [e] at aligned hi <;> omega
    have addr : q.off + i = 32 * (q.off / 32) + (q.off % 32 + i) := by omega
    rw [addr]
    exact Repl.read_of_image image inside
  rw [bytes]
  have written := Memory.readLe_writeLe wf q.off (reqBytes q.opc q.ty) v
  have size : (256 : Nat) ^ reqBytes q.opc q.ty = 2 ^ (8 * reqBytes q.opc q.ty) := by
    rw [show (256 : Nat) = 2 ^ 8 from rfl, ← Nat.pow_mul]
  rw [size, Nat.mod_eq_of_lt small] at written
  exact written

/-- What a grant does at the Col. -/
structure Awarded (s t : State) (c : Nat) (q : Req) (p : Packet) : Prop where
  mem : t.mem = s.mem
  filled : Filled s t c (q.rank = c) q.rq ((s.repl c).reads q)
  own : (t.repl c).own = (s.repl c).own + 1
  nextSlot : (t.repl c).nextSlot = (s.repl c).nextSlot + 1
  pending : ∀ p ∈ (t.repl c).pending, p.rank ≠ q.rank ∨ p.rq ≠ q.rq
  value : Memory.readLe (t.repl c).replica q.off (reqBytes q.opc q.ty) = ((s.repl c).writes q).getD ((s.repl c).reads q)
  replica : (s.repl c).writes q = none → (t.repl c).replica = (s.repl c).replica
  tag : ((s.repl c).writes q).isSome = true → Table.at (t.repl c).tags (q.off / 32) 0 =
    mkTag true c ((tagClk (Table.at (s.repl c).tags (q.off / 32) 0) + 2 ^ 22) % 2 ^ 28)
  links : t.links = s.links
  down : t.linkDown = s.linkDown
  mf4 : t.mf4 = s.mf4
  members : (t.repl c).members = (s.repl c).members
  listeners : (t.repl c).listeners = (s.repl c).listeners
  retained : (∃ m ∈ (s.repl c).members, m ≠ c) → (t.repl c).retained = (s.repl c).retained ++ [p]

theorem Repl.retain_others {r : Repl} (h : ∃ m ∈ r.members, m ≠ c) (p : Packet) : r.retain c p = r.retained ++ [p] := by
  obtain ⟨m, hm, ne⟩ := h
  refine if_neg fun all => ne ?_
  exact of_decide_eq_true (List.all_eq_true.1 all m hm)

theorem awards_awarded {s u : State} {q : Req} (before : Beforehand s u c) (pass : q.rank = c → u.replFails c (q.off / 64) = false)
    (small : q.opc < 11) (wide : reqBytes q.opc q.ty = 4 ∨ reqBytes q.opc q.ty = 8 ∨ reqBytes q.opc q.ty = 16)
    (aligned : q.off % reqBytes q.opc q.ty = 0) (free : ∀ i, i < reqBytes q.opc q.ty → s.fixedByte c (q.off + i) = false) (hc : c < 8)
    (wf : (s.repl c).replica.wf = true) : Awarded s (u.awards c q) c q (u.grantOf c q) := by
  let p := u.grantOf c q
  let v := u.modRepl c fun _ => (u.repl c).numbers c p
  obtain ⟨b, hu⟩ := before.unit
  have perform : u.perform c q = (s.repl c).perform (s.fixedByte c) q := before.perform q
  have vunit : v.repl c = Repl.numbers c p { s.repl c with blockTag := b } := by
    show (u.modRepl c fun _ => (u.repl c).numbers c p).repl c = _
    rw [State.repl_modRepl, if_pos rfl, hu]
  have known : p.unknown = false := Bool.eq_false_iff.2 fun h => by
    have := (p.unknown_iff.1 h).2
    have : 12 ≤ q.opc := this
    omega
  have passes : p.irank = c → v.replFails c p.blk = false := fun mine =>
    (State.replFails_modRepl u (f := fun _ => (u.repl c).numbers c p) rfl rfl rfl _).trans (pass mine)
  have read : (s.repl c).reads q < 2 ^ 128 := by
    refine (Memory.readLe_lt ..).trans_le ?_
    rcases wide with e | e | e <;> rw [e] <;> norm_num
  have old : p.old.toNat = (s.repl c).reads q := by
    have first : (u.perform c q).1 = (s.repl c).reads q := by
      rw [perform]
      cases h : (s.repl c).writes q with
      | none => rw [Repl.perform_reads h small]
      | some x => rw [Repl.perform_writes h small (by omega) free]
    show (BitVec.ofNat 128 (u.perform c q).1).toNat = _
    rw [first, BitVec.toNat_ofNat, Nat.mod_eq_of_lt read]
  obtain ⟨m, t, same, wf', record⟩ := State.unit_applyPacket (c := c) (s := v) known fun _ => passes
  rw [vunit] at same wf' record
  let r : Repl := { Repl.numbers c p { s.repl c with blockTag := b } with replica := m, blockTag := t }
  obtain ⟨g, l, co, gr, re, unit⟩ := Repl.settles_takes (c := c) r p
  rw [show Repl.settles p (Repl.takes c p { Repl.numbers c p { s.repl c with blockTag := b } with replica := m, blockTag := t }) = _ from unit] at record
  have links : (v.applyPacket c p).links = v.links ∧ (v.applyPacket c p).linkDown = v.linkDown ∧ (v.applyPacket c p).mf4 = v.mf4 :=
    State.shelf_applyPacket_own (s := v) known rfl rfl passes
  have mem : (v.applyPacket c p).mem = s.mem := (State.mem_applyPacket known fun _ => passes).trans before.mem
  have filled : Filled v (v.applyPacket c p) c (q.rank = c) q.rq p.old.toNat :=
    filled_of_team (fun mine w => State.team_applyPacket (s := v) known rfl mine (passes mine)) fun other w =>
      State.team_applyPacket_other known fun h => other h.2
  show Awarded s (v.applyPacket c p) c q p
  generalize v.applyPacket c p = w at record links mem filled ⊢
  have image : (w.repl c).replica = (r.installAll p.sclk c true p.images).replica := (congrArg Repl.replica record :)
  have tags : (w.repl c).tags = (r.installAll p.sclk c true p.images).tags := (congrArg Repl.tags record :)
  have pending : (w.repl c).pending = (s.repl c).pending.filter fun x => !(x.rank = q.rank && x.rq = q.rq) := (congrArg Repl.pending record :)
  have slot : p.slot = (s.repl c).nextSlot := by
    show (u.repl c).nextSlot = _
    rw [hu]
  have written (x : Nat) (h : (s.repl c).writes q = some x) : (w.repl c).image (q.off / 32) = ((s.repl c).performed q x).image (q.off / 32) ∧
      Table.at (w.repl c).tags (q.off / 32) 0 = mkTag true c ((tagClk (Table.at (s.repl c).tags (q.off / 32) 0) + 2 ^ 22) % 2 ^ 28) := by
    have perf := perform.trans (Repl.perform_writes h small (by omega) free)
    have clk : p.sclk = (tagClk (Table.at (s.repl c).tags (q.off / 32) 0) + 2 ^ 22) % 2 ^ 28 := congrArg (fun x => x.2.1) perf
    have imgs : p.images = [(q.off / 32, ((s.repl c).performed q x).image (q.off / 32))] := congrArg (fun x => x.2.2) perf
    have look : Table.look p.images (q.off / 32) = some (((s.repl c).performed q x).image (q.off / 32)) := by
      rw [imgs, Table.look, if_pos rfl]
    have spec := Repl.installAll_spec (clk := p.sclk) hc true (q.off / 32) p.images r (wf' wf)
    rw [Repl.image, ← image, ← tags] at spec
    rw [if_pos ⟨by rw [look]; rfl, by rw [clk]; exact beats_later ..⟩, look, clk] at spec
    exact ⟨Option.some.inj spec.1, spec.2⟩
  have unwritten (h : (s.repl c).writes q = none) : (w.repl c).replica = (s.repl c).replica := by
    have imgs : p.images = [] := congrArg (fun x => x.2.2) (perform.trans (Repl.perform_reads h small))
    rw [image, imgs]
    exact same (.inr imgs)
  refine ⟨mem, ?filled, (congrArg Repl.own record :), ?slot, ?pending, ?value, unwritten, ?tag, links.1.trans before.links,
    links.2.1.trans before.down, links.2.2.trans before.mf4, (congrArg Repl.members record :), (congrArg Repl.listeners record :), ?retained⟩
  case filled =>
    rw [old] at filled
    exact filled.of_waves Iff.rfl before.waves (by rw [vunit]; rfl)
  case slot =>
    have next : (w.repl c).nextSlot = p.slot + 1 := (congrArg Repl.nextSlot record :)
    rw [next, slot]
  case pending => exact fun x hx => not_mem_filter_request (pending ▸ hx)
  case value =>
    cases h : (s.repl c).writes q with
    | none => rw [unwritten h]; rfl
    | some x =>
      refine Repl.readLe_performed wf wide aligned ?_ (written x h).1
      have pos : 0 < 2 ^ (8 * reqBytes q.opc q.ty) := by positivity
      refine strongNew_lt ?_ (Nat.mod_lt _ pos) (Nat.mod_lt _ pos) h
      have := Memory.readLe_lt (s.repl c).replica q.off (reqBytes q.opc q.ty)
      rwa [show (256 : Nat) = 2 ^ 8 from rfl, ← Nat.pow_mul] at this
  case tag =>
    intro some
    obtain ⟨x, h⟩ := Option.isSome_iff_exists.1 some
    exact (written x h).2
  case retained =>
    intro others
    have kept : (w.repl c).retained = (s.repl c).retain c p := (congrArg Repl.retained record :)
    rw [kept, Repl.retain_others others]

end Sys2Proof.Machine
end

section
/-! The Col grants; the replication unit as a whole (10 R208 to R223). Settles O49. -/

-- One theorem at a time: many at once ask for more threads than the checker has memory for.
set_option Elab.async false

namespace Sys2Proof.Machine

variable {c : Nat}

/-- A unit whose granted requests have been discarded. -/
def Repl.fresh (r : Repl) : Repl := { r with pending := r.pending.filter fun q => !r.duplicate q }

theorem Repl.fresh_eq {r : Repl} (h : ∀ p ∈ r.pending, r.duplicate p = false) : r.fresh = r := by
  have all : r.pending.filter (fun q => !r.duplicate q) = r.pending := List.filter_eq_self.2 fun p hp => by rw [h p hp]; rfl
  unfold Repl.fresh
  rw [all]

/-- The Col grants the first request that it may grant. -/
theorem colGrant_runs {s : State} {q : Req} (col : (s.repl c).col = c) (member : c ∈ (s.repl c).members) (create : (s.repl c).canCreate = true)
    (new : ∀ p ∈ (s.repl c).pending, (s.repl c).duplicate p = false)
    (free : ∀ p ∈ (s.repl c).pending, (s.perform c p).2.2 ≠ [] → (s.repl c).hostHeld.contains (p.off / 64) = false)
    (first : (s.repl c).pending.find? (fun p => (s.repl c).grantable (s.fixedByte c) p) = some q) :
    exec (.colGrant c) s = .next (((s.modRepl c Repl.fresh).grant c q).postOnce (.colGrant c)) ∧ Beforehand s (s.modRepl c Repl.fresh) c := by
  have same : (s.repl c).fresh = s.repl c := Repl.fresh_eq new
  have before : Beforehand s (s.modRepl c Repl.fresh) c := Beforehand.of_modRepl (t := (s.repl c).blockTag) same
  refine ⟨?_, before⟩
  let u := s.modRepl c Repl.fresh
  have unit : u.repl c = s.repl c := by
    show (s.modRepl c Repl.fresh).repl c = _
    rw [State.repl_modRepl, if_pos rfl, same]
  have grants : (s.repl c).grants c = true := by
    unfold Repl.grants
    rw [decide_eq_true col, create, List.contains_iff_mem.2 member]
    rfl
  have unheld : (u.repl c).pending.filter (fun q => decide ((u.perform c q).2.2 ≠ []) && (u.repl c).hostHeld.contains (q.off / 64)) = [] := by
    rw [unit]
    refine List.filter_eq_nil_iff.2 fun p hp h => ?_
    obtain ⟨some, held⟩ := (Bool.and_eq_true ..).mp h
    rw [before.perform] at some
    exact Bool.false_ne_true ((free p hp (of_decide_eq_true some)).symm.trans held)
  have found : (u.repl c).pending.find? (fun q => (u.repl c).grantable (u.fixedByte c) q) = some q := by
    rw [unit, before.fixed]
    exact first
  have body : execColGrant c s = .next (if !(s.repl c).grants c then s else
      let v := ((u.repl c).pending.filter (fun q => decide ((u.perform c q).2.2 ≠ []) && (u.repl c).hostHeld.contains (q.off / 64))).foldl (fun s q =>
        s.modRepl c fun r => { r with biWait := if r.biWait.contains (q.off / 64) then r.biWait else r.biWait ++ [q.off / 64] }) u
      match (u.repl c).pending.find? fun q => (u.repl c).grantable (v.fixedByte c) q with
      | none => v
      | some q => (v.grant c q).postOnce (.colGrant c)) := rfl
  show execColGrant c s = _
  rw [body, grants, unheld]
  simp only [List.foldl_nil, found]
  rfl

/-- The grant as the members see it: the value read, the slot, the result at its issuer (10 R217 to R219). -/
theorem colGrant_clauses (c : Nat) (s : State) (q : Req) (canonical : s.canonical = true) (col : (s.repl c).col = c) (member : c ∈ (s.repl c).members)
    (hc : c < 8) (create : (s.repl c).canCreate = true) (new : ∀ p ∈ (s.repl c).pending, (s.repl c).duplicate p = false)
    (free : ∀ p ∈ (s.repl c).pending, (s.perform c p).2.2 ≠ [] → (s.repl c).hostHeld.contains (p.off / 64) = false)
    (first : (s.repl c).pending.find? (fun p => (s.repl c).grantable (s.fixedByte c) p) = some q) (small : q.opc < 11)
    (len : (s.repl c).applied.length = 8) (pass : s.replFails c (q.off / 64) = false)
    (open_ : ∀ i, i < reqBytes q.opc q.ty → s.fixedByte c (q.off + i) = false)
    (wide : reqBytes q.opc q.ty = 4 ∨ reqBytes q.opc q.ty = 8 ∨ reqBytes q.opc q.ty = 16) (aligned : q.off % reqBytes q.opc q.ty = 0) :
    ∃ t, exec (.colGrant c) s = .next t ∧ Filled s t c (q.rank = c) q.rq ((s.repl c).reads q) ∧
      (∀ a, t.byte a = s.byte a) ∧ .colGrant c ∈ t.agenda ∧
      (t.repl c).own = (s.repl c).own + 1 ∧ (t.repl c).nextSlot = (s.repl c).nextSlot + 1 ∧
      (∀ p ∈ (t.repl c).pending, p.rank ≠ q.rank ∨ p.rq ≠ q.rq) ∧
      Memory.readLe (t.repl c).replica q.off (reqBytes q.opc q.ty) = ((s.repl c).writes q).getD ((s.repl c).reads q) ∧
      ((s.repl c).writes q = none → (t.repl c).replica = (s.repl c).replica) ∧
      (((s.repl c).writes q).isSome = true → Table.at (t.repl c).tags (q.off / 32) 0 =
        mkTag true c ((tagClk (Table.at (s.repl c).tags (q.off / 32) 0) + 2 ^ 22) % 2 ^ 28)) ∧
      ∃ p, Sent s t c (.packet p) ∧ ((∃ m ∈ (s.repl c).members, m ≠ c) → (t.repl c).retained = (s.repl c).retained ++ [p]) ∧ p.kind = 1 ∧
        p.rank = c ∧ p.slot = (s.repl c).nextSlot ∧ p.irank = q.rank ∧ p.rq = q.rq ∧ p.opc = q.opc ∧
        p.old = BitVec.ofNat 128 ((s.repl c).reads q) ∧ vecAt p.vec c = (s.repl c).own + 1 := by
  obtain ⟨run, fresh⟩ := colGrant_runs col member create new free first
  have same : (s.repl c).fresh = s.repl c := Repl.fresh_eq new
  have pass' : (s.modRepl c Repl.fresh).replFails c (q.off / 64) = false := by
    rw [State.replFails_modRepl _ (by rw [same]) (by rw [same]) (by rw [same])]
    exact pass
  obtain ⟨tagged, fails⟩ := tagsFor_beforehand pass'
  have before := fresh.trans tagged
  let u := (s.modRepl c Repl.fresh).tagsFor c q
  have before' : Beforehand s u c := before
  obtain ⟨b, hu⟩ := before'.unit
  have h := awards_awarded before' fails small wide aligned open_ hc (State.canonical_replica canonical c)
  let p := u.grantOf c q
  let w := u.awards c q
  have grant := State.grant_eq (s.modRepl c Repl.fresh) c q
  let t := (if (u.repl c).own + 1 = seqLimit then (w.sendAll c (.packet p)).postOnce (.counterWrap c) else w.sendAll c (.packet p)).postOnce (.colGrant c)
  have posts {β : Type} {o : State → β} (hp : ∀ s e, o (s.postOnce e) = o s) : o t = o (w.sendAll c (.packet p)) := by
    refine (hp ..).trans ?_
    split
    · exact hp ..
    · rfl
  have mem : t.mem = w.mem :=
    (posts (o := State.mem) fun s e => by unfold State.postOnce; split <;> rfl).trans
      (congrArg (fun x : Shelf × Option Roll => x.1.mem) (State.pages_sendAll (v := 0) (c := c) w c (.packet p)))
  have unit : t.repl c = w.repl c :=
    (posts (o := fun s => s.repl c) fun s e => by unfold State.postOnce; split <;> rfl).trans (congrArg Chip.repl (State.chip_sendAll w c (.packet p) c))
  have links : t.links = (w.sendAll c (.packet p)).links := posts (o := State.links) State.links_postOnce
  have waves : t.waves = w.waves :=
    (posts (o := State.waves) fun s e => by unfold State.postOnce; split <;> rfl).trans
      (foldl_eq (o := State.waves) _ _ fun u d _ => by unfold State.send; split <;> rfl)
  have sent : Sent s t c (.packet p) := by
    intro d hd ne here some up
    have := sent_sendAll (s := s) (u := w) (.packet p) h.links h.down h.mf4 h.members h.listeners d hd ne here some up
    rw [← this, State.wire, State.wire, links]
  have first : (u.perform c q).1 = (s.repl c).reads q := by
    rw [before'.perform, State.perform]
    cases h : (s.repl c).writes q with
    | none => rw [Repl.perform_reads h small]
    | some x => rw [Repl.perform_writes h small (by omega) open_]
  refine ⟨t, run.trans (congrArg (fun x => Host.Outcome.next (State.postOnce x (.colGrant c))) grant), ?filled, ?bytes, State.mem_agenda_postOnce .., ?own, ?slot, ?pending, ?value, ?replica, ?tag, p, sent, ?retained,
    rfl, rfl, ?pslot, rfl, rfl, rfl, ?old, ?number⟩
  case filled =>
    have lane (v l : Nat) : t.lane v l = w.lane v l := by
      unfold State.lane State.wave?
      rw [waves]
    have filled := h.filled
    unfold Filled at filled ⊢
    simp only [lane]
    exact filled
  case bytes => exact fun a => congrArg (Memory.read · a) (mem.trans h.mem)
  case own => rw [unit]; exact h.own
  case slot => rw [unit]; exact h.nextSlot
  case pending => rw [unit]; exact h.pending
  case value => rw [unit]; exact h.value
  case replica => rw [unit]; exact h.replica
  case tag => rw [unit]; exact h.tag
  case retained => rw [unit]; exact h.retained
  case pslot =>
    show (u.repl c).nextSlot = _
    rw [hu]
  case old => exact congrArg (BitVec.ofNat 128) first
  case number =>
    show vecAt (vecSet (u.repl c).applied c ((u.repl c).own + 1)) c = _
    rw [hu]
    exact (vecAt_vecSet (s.repl c).applied c ((s.repl c).own + 1) c (by omega)).trans (if_pos rfl)

/-! ### The obligation -/

theorem updatePacket_runs {a b : Nat} {s : State} {p : Packet} (hm : s.plainMsg a b = some (.packet p)) (kind : p.kind = 0) :
    exec (.updatePacket a b) s = .next ((s.takeMsg a b).arrive b p) := by
  show execUpdatePacket a b s = _
  simp only [execUpdatePacket, hm, if_pos kind]
  rfl

theorem grantPacket_runs {a b : Nat} {s : State} {p : Packet} (hm : s.plainMsg a b = some (.packet p)) (kind : p.kind = 1) :
    exec (.grantPacket a b) s = .next ((s.takeMsg a b).arrive b p) := by
  show execGrantPacket a b s = _
  simp only [execGrantPacket, hm, if_pos kind]
  rfl

theorem wrapPacket_runs {a b : Nat} {s : State} {p : Packet} (hm : s.plainMsg a b = some (.packet p)) (kind : p.kind = 2) :
    exec (.wrapPacket a b) s = .next ((s.takeMsg a b).arrive b p) := by
  show execWrapPacket a b s = _
  simp only [execWrapPacket, hm, if_pos kind]
  rfl

/-- Settles O49, event by event. -/
theorem replication : Obligations.Replication := by
  unfold Obligations.Replication
  intro link sent pair due filled arrives
  refine ⟨fun a b => ⟨?update, ?grant, ?wrap⟩, ?req, fun a b s v _ hm => ackMessage_frees hm, fun a b s v r _ hm => wrapackMessage_counts hm, ?apply,
    ?col, fun c s => ackTimer_acknowledges c s, fun c s => counterWrap_wraps c s, ?crc, fun a b s retry => resendRequest_resends a b s retry⟩
  case update =>
    intro a b s p (same : Instr.updatePacket _ _ = Instr.updatePacket a b)
    cases same
    rintro ⟨-, hb, ne, -⟩ hm kind out listener room
    exact packet_arrives hb ne (updatePacket_runs hm kind) out listener room
  case grant =>
    intro a b s p (same : Instr.grantPacket _ _ = Instr.grantPacket a b)
    cases same
    rintro ⟨-, hb, ne, -⟩ hm kind out listener room
    exact packet_arrives hb ne (grantPacket_runs hm kind) out listener room
  case wrap =>
    intro a b s p (same : Instr.wrapPacket _ _ = Instr.wrapPacket a b)
    cases same
    rintro ⟨-, hb, ne, -⟩ hm kind out listener room
    exact packet_arrives hb ne (wrapPacket_runs hm kind) out listener room
  case req =>
    rintro a b s q ⟨-, hb, -, -⟩ hm new first out listener
    exact reqMessage_pends hb hm new first out listener
  case apply =>
    intro c s p r canonical quiet installing out listener free first rank _ len wlen pass
    exact packetApply_clauses c s p canonical quiet installing out listener free first rank len wlen pass
  case col =>
    intro c s q r canonical col member hc create new free first small len pass clear w old new' wide aligned
    exact colGrant_clauses c s q canonical col member hc create new free first small len pass clear wide aligned
  case crc =>
    rintro a b s ⟨ha, hb, ne, -⟩ up some retry
    exact linkCrcError_fails a b s ha hb ne up some retry

end Sys2Proof.Machine
end

section
/-! SUPPORT. A ready access that completes: what its effect shows of the program's data, and what the moving on of its group leaves. Serves
O24 and O27. -/

-- One theorem at a time: many at once ask for more threads than the checker has memory for.
set_option Elab.async false

namespace Sys2Proof.Machine

/-! ### What is shown -/

/-- The program's data, a wave's special registers and a chip's. -/
structure Shown where
  kept : Kept
  special : Option (Word × List (Nat × DWord) × Word × Word × Word)
  sys : SysRegs
  dbg : DebugRegs
  ring : PageRing
  keys : Table Nat

def State.shown (s : State) (v c k h : Nat) : Shown :=
  { kept := s.kept v c k h, special := (s.wave? v).map Wave.special, sys := (s.chip h).sys, dbg := (s.chip h).dbg, ring := (s.chip h).ring
    keys := (s.chip h).keys }

def State.Shows (s t : State) : Prop := ∀ v c k h, t.shown v c k h = s.shown v c k h

theorem State.Shows.keeps {s t : State} (h : s.Shows t) : s.Keeps t := fun v c k i => congrArg Shown.kept (h v c k i)

theorem State.Shows.sameSpecial {s t : State} (h : s.Shows t) : s.SameSpecial t := fun v => congrArg Shown.special (h v 0 0 0)

theorem State.Shows.sameChips {s t : State} (h : s.Shows t) : s.SameChips t where
  sys c := congrArg Shown.sys (h 0 0 0 c)
  dbg c := congrArg Shown.dbg (h 0 0 0 c)
  ring c := congrArg Shown.ring (h 0 0 0 c)
  keys c := congrArg Shown.keys (h 0 0 0 c)

theorem State.Shows.trans {s t u : State} (a : s.Shows t) (b : t.Shows u) : s.Shows u := fun v c k h => (b v c k h).trans (a v c k h)

theorem State.Shows.of_obs {s t : State} (h : ∀ v c k h, t.obs v c k h = s.obs v c k h) : s.Shows t := fun v c k i => by
  have kept := State.Keeps.of_obs h v c k i
  have special : (t.wave? v).map Wave.special = (s.wave? v).map Wave.special := congrArg Obs.special (h v c k i)
  obtain ⟨sys, dbg, ring, keys⟩ := State.sameChips_of_obs h
  unfold State.shown
  rw [kept, special, sys, dbg, ring, keys]

variable {v c k h : Nat}

theorem State.shown_modChip {s : State} {i : Nat} {f : Chip → Chip} (hr : ∀ x, (f x).repl.replica = x.repl.replica)
    (hf : ∀ x, (f x).sys = x.sys ∧ (f x).dbg = x.dbg ∧ (f x).ring = x.ring ∧ (f x).keys = x.keys) :
    (s.modChip i f).shown v c k h = s.shown v c k h := by
  unfold State.shown
  rw [State.kept_modChip hr, State.chip_modChip]
  split
  · next e =>
    obtain ⟨sys, dbg, ring, keys⟩ := hf (s.chip i)
    rw [sys, dbg, ring, keys, e]
    rfl
  · rfl

theorem State.shown_modRepl {s : State} {i : Nat} {f : Repl → Repl} (hr : ∀ x, (f x).replica = x.replica) :
    (s.modRepl i f).shown v c k h = s.shown v c k h := State.shown_modChip (fun _ => hr _) fun _ => ⟨rfl, rfl, rfl, rfl⟩

theorem State.shown_modCluster {s : State} {i : Nat} {f : Cluster → Cluster} (ho : ∀ x, (f x).oslots = x.oslots)
    (ha : ∀ x, (f x).aslots = x.aslots) : (s.modCluster i f).shown v c k h = s.shown v c k h := by
  unfold State.shown
  rw [State.kept_modCluster ho ha]
  rfl

theorem State.shown_modCore {s : State} {i : Nat} {f : Core → Core} (hs : ∀ x, (f x).scratch = x.scratch)
    (hl : ∀ x, (f x).lines = x.lines) : (s.modCore i f).shown v c k h = s.shown v c k h := by
  unfold State.shown
  rw [State.kept_modCore hs hl]
  rfl

theorem State.shown_setCore {s : State} {i : Nat} {x : Core} (hs : x.scratch = (s.core i).scratch)
    (hl : x.lines = (s.core i).lines) : (s.setCore i x).shown v c k h = s.shown v c k h := by
  unfold State.shown
  rw [State.kept_setCore hs hl]
  rfl

theorem State.shown_modWave {s : State} {i : Nat} {f : Wave → Wave} (hf : Wave.Keeps f) : (s.modWave i f).shown v c k h = s.shown v c k h := by
  have map (o : Option Wave) : (o.map f).map Wave.special = o.map Wave.special := by
    rw [Option.map_map]
    exact congrArg (Option.map · o) (funext fun x => (hf x).2)
  unfold State.shown
  rw [State.kept_modWave fun x => (hf x).1, State.wave?_modWave]
  split
  · next e => rw [e, map]; rfl
  · rfl

theorem State.shown_postOnce (s : State) (e : Event) : (s.postOnce e).shown v c k h = s.shown v c k h := by
  unfold State.postOnce; split <;> rfl

/-! ### Records that a read receives -/

theorem State.useReplRecs_eq {β : Type} {o : State → β} (hr : ∀ s i f, o (s.modRepl i (Repl.mapRecs f)) = o s)
    (hn : ∀ (s : State) n, o { s with serial := n } = o s) (s : State) (i : Nat) (f : Nat → Table SigRec → Table SigRec) :
    o (s.useReplRecs i f) = o s := (hn (s.modRepl i (Repl.mapRecs (f s.serial))) _).trans (hr ..)

/-- A change of a cluster's records. -/
def Cluster.mapRecs (f : Table SigRec → Table SigRec) (c : Cluster) : Cluster := { c with sigRecs := f c.sigRecs }

/-- What reads receive changes a wave's signatures and records, and the records at the homes. -/
theorem State.receiveAll_eq {β : Type} {o : State → β} (hr : ∀ s i f, o (s.modRepl i (Repl.mapRecs f)) = o s)
    (hn : ∀ (s : State) n, o { s with serial := n } = o s) (hc : ∀ s i f, o (s.modCluster i (Cluster.mapRecs f)) = o s)
    (hw : ∀ s w ld rec va, o (s.receiveRec w ld rec va) = o s) (s : State) (w ld : Nat) (va : DWord) (bs : List ByteSrc) :
    o (s.receiveAll w ld va bs) = o s := by
  refine foldl_eq (o := o) _ _ fun s b _ => ?_
  cases b with
  | phys a buf =>
    refine Eq.trans ?_ (hw s w ld (s.homeRec a) va)
    show o (State.useRecs _ a touchRec) = _
    unfold State.useRecs
    split
    · exact State.useReplRecs_eq hr hn ..
    · exact (hn (State.modCluster _ _ (Cluster.mapRecs _)) _).trans (hc ..)
  | repl a => exact (State.useReplRecs_eq hr hn _ _ _).trans (hw ..)
  | _ => rfl

theorem State.shown_receiveAll (s : State) (w ld : Nat) (va : DWord) (bs : List ByteSrc) : (s.receiveAll w ld va bs).shown v c k h = s.shown v c k h :=
  State.receiveAll_eq (o := fun s => s.shown v c k h) (fun _ _ _ => State.shown_modRepl fun _ => rfl) (fun _ _ => rfl)
    (fun _ _ _ => State.shown_modCluster (fun _ => rfl) fun _ => rfl) (fun _ _ _ _ _ => State.shown_modWave fun _ => ⟨rfl, rfl⟩) s w ld va bs

/-! ### Lanes that park -/

theorem Wave.keeps_park (ls : List Nat) (cause : BitVec 8) (a : DWord) (dest : BitVec 11) (len : Nat) :
    Wave.Keeps fun x => x.mapLanes ls fun _ t => t.park cause a dest len := fun _ => ⟨Wave.datas_mapLanes fun _ _ => rfl, rfl⟩

theorem State.shown_parkLanes (s : State) (q : Who) (d : Opd) (w : Width) (len : Nat) (ps : List (Nat × BitVec 8 × DWord)) :
    (s.parkLanes q d w len ps).shown v c k h = s.shown v c k h :=
  foldl_eq (o := fun s => s.shown v c k h) _ _ fun _ _ _ => State.shown_modWave fun x => Wave.keeps_park _ _ _ _ _ x

/-! ### A group that moves on -/

/-- The statuses and records of a wave's lanes. -/
def Wave.statuses (x : Wave) : List (ThreadSt × Option LaneRec) := x.threads.map fun t => (t.st, t.lane)

def State.statuses (s : State) (w : Nat) : Option (List (ThreadSt × Option LaneRec)) := (s.wave? w).map Wave.statuses

theorem Wave.clear_of_statuses {x y : Wave} (h : x.statuses = y.statuses) : x.clear = y.clear := by
  have eq (z : Wave) : z.clear = z.statuses.all fun e => e.1 = .exited || (e.2.isNone && e.1 ≠ .parked) := by
    unfold Wave.clear Wave.statuses
    rw [List.all_map]
    exact congrArg (z.threads.all ·) (funext fun t => by simp [Thread.live])
  rw [eq, eq, h]

theorem State.statuses_modWave {s : State} {i w : Nat} {f : Wave → Wave} (hf : ∀ x, (f x).statuses = x.statuses) :
    (s.modWave i f).statuses w = s.statuses w := by
  unfold State.statuses
  rw [State.wave?_modWave]
  split
  · next e =>
    rw [Option.map_map, ← e]
    exact congrArg (Option.map · _) (funext hf)
  · rfl

/-! ### An instruction that is done -/

theorem Ready.wave {i : Instr} {s : State} {k : Who} (h : Ready i s k) : s.wave? k.w = some k.x := (State.who_iff.1 h.who).2.1

/-- A ready instruction whose effect is done: its group moves on, which shows nothing else of the program's data; where no lane is parked and
no `STEP` is armed, outstanding results and due events stay. -/
theorem finish_shows (u : State) (k : Who) (i : Instr) (commit : Bool) :
    u.Shows ((Eff.done u).run k i commit) :=
  .of_obs fun _ _ _ _ => State.obs_finish fun x => x.regroup_keeps

theorem finish_quiet {s u : State} {k : Who} (i : Instr) (commit : Bool) (quiet : Quiet s k)
    (statuses : u.statuses k.w = some k.x.statuses) (dbg : (u.chip k.chip).dbg = (s.chip k.chip).dbg) :
    ((Eff.done u).run k i commit).loadsOf k.w = u.loadsOf k.w ∧ ∀ e ∈ u.agenda, e ∈ ((Eff.done u).run k i commit).agenda := by
  obtain ⟨clear, steps⟩ := quiet
  obtain ⟨y, hy, same⟩ := Option.map_eq_some_iff.1 statuses
  have clear' : y.clear = true := (Wave.clear_of_statuses same).trans clear
  have steps' : stepsNow u k (k.x.issuePc.getD 0) = false := by
    rw [← steps]
    unfold stepsNow
    simp only [dbg]
  exact ⟨State.loads_of_calm (State.calm_finish hy clear' steps' (fun _ => Wave.regroup_calm) Wave.regroup_keeps),
    fun e he => State.mem_finish he hy clear' steps' (fun _ => Wave.regroup_calm) Wave.regroup_keeps⟩

end Sys2Proof.Machine
end

section
/-! SUPPORT. A result that is put off: its destinations empty, its record outstanding (04 R78). Serves O24 and O27. -/

-- One theorem at a time: many at once ask for more threads than the checker has memory for.
set_option Elab.async false

namespace Sys2Proof.Machine

/-! ### Lanes checked -/

/-- A lane before the others. -/
theorem spans_before {q : Spans × State} {e : Nat × DWord × Span} {ls : List (Nat × DWord × Span)} {s1 : State}
    (h : (match q with | (.all ms, s) => (Spans.all (e :: ms), s) | p => p) = (.all ls, s1)) : ∃ ms, q = (.all ms, s1) ∧ ls = e :: ms := by
  obtain ⟨q, t⟩ := q
  cases q with
  | all ms => cases h; exact ⟨ms, rfl, rfl⟩
  | stop c => cases h

/-- The lanes of an access are the lanes asked for. -/
theorem spans_lanes {x : XCtx} {a : Access} {strong aligned : Bool} {n : Nat} {as : List (Nat × DWord)} {s s1 : State} {ls : List (Nat × DWord × Span)}
    (h : spans x a strong aligned n as s = (.all ls, s1)) : ls.map Prod.fst = as.map Prod.fst := by
  induction as generalizing s ls with
  | nil => cases h; rfl
  | cons e r ih =>
    obtain ⟨l, ea⟩ := e
    rw [spans_cons] at h
    have step {t : State} {p : Span} (h : (match spans x a strong aligned n r t with
        | (.all ms, s) => (Spans.all ((l, ea, p) :: ms), s)
        | q => q) = (.all ls, s1)) : ls.map Prod.fst = ((l, ea) :: r).map Prod.fst := by
      obtain ⟨ms, hm, rfl⟩ := spans_before h
      exact congrArg (l :: ·) (ih hm)
    by_cases misaligned : (aligned && decide (ea.toNat % n ≠ 0)) = true
    · rw [if_pos misaligned] at h
      exact step h
    · rw [if_neg misaligned] at h
      cases hs : s.span x a strong ea n with
      | mk p t =>
        rw [hs] at h
        cases p with
        | page va => cases h
        | wait => cases h
        | park c => exact step h
        | parts ps => exact step h

theorem mem_goodSpans {ls : List (Nat × DWord × Span)} {e : Nat × DWord × List Part} (h : e ∈ goodSpans ls) : e.1 ∈ ls.map Prod.fst := by
  obtain ⟨x, hx, eq⟩ := List.mem_filterMap.1 h
  split at eq
  · cases eq; exact List.mem_map_of_mem hx
  · cases eq

/-- The lanes that pass are among those that the instruction acts in. -/
theorem Translated.good_active {f : ExtArgs} {s : State} {k : Who} {a : Access} {strong aligned : Bool} {n : Nat} {ls : List (Nat × DWord × Span)}
    {s1 : State} (h : Translated f s k a strong aligned n ls s1) {e : Nat × DWord × List Part} (he : e ∈ goodSpans ls) : e.1 ∈ k.x.active := by
  have := mem_goodSpans he
  rw [spans_lanes h.2, List.map_map] at this
  simpa using this

/-! ### Waves and counters -/

/-- Nothing but waves and cores differ. -/
def State.Homes (s t : State) : Prop := ∃ ws cs, t = { s with waves := ws, cores := cs }

theorem State.homes_parkLanes (s : State) (k : Who) (d : Opd) (w : Width) (len : Nat) (ps : List (Nat × BitVec 8 × DWord)) :
    s.Homes (s.parkLanes k d w len ps) :=
  foldl_keeps (P := fun t => s.Homes t) ps s (fun t e _ h => by
    obtain ⟨ws, cs, rfl⟩ := h
    exact ⟨_, _, rfl⟩) ⟨_, _, rfl⟩

/-! ### A result put off -/

/-- A wave one of whose results is outstanding, its destinations empty. -/
def Wave.deferred (id : Nat) (ld : Load) (d : Opd) (w : Width) (ls : List Nat) (x : Wave) : Wave :=
  { x.mapLanes ls (fun _ t => t.markEmpty d w) with loads := Table.put x.loads id ld }

/-- The state after a result has been put off. -/
def State.deferred (s : State) (w : Nat) (ld : Load) (d : Opd) (wd : Width) (ls : List Nat) : State :=
  { s.modWave w (Wave.deferred s.serial ld d wd ls) with serial := s.serial + 1 }

/-- What a result put off does to the registers: the lanes' destination is empty, and nothing else. -/
def Empties (s t : State) (k : Who) (d : Opd) (w : Width) (ls : List Nat) : Prop :=
  (∀ v l g n, (t.lane v l).reg g n = (s.lane v l).reg g n) ∧ (∀ v l, (t.lane v l).p = (s.lane v l).p) ∧
  (∀ v l, (t.lane v l).full = if v = k.w ∧ l ∈ ls then ((s.lane v l).markEmpty d w).full else (s.lane v l).full)

/-- The data of a thread whose destination is marked empty. -/
def ThreadData.emptied (d : Opd) (w : Width) (x : ThreadData) : ThreadData := ((Thread.ofData x).markEmpty d w).data

theorem Thread.data_markEmpty (t : Thread) (d : Opd) (w : Width) : (t.markEmpty d w).data = t.data.emptied d w := by
  cases d <;> rfl

theorem State.lane_deferred {s : State} {w : Nat} {x : Wave} (hx : s.wave? w = some x) {ls : List Nat} (inside : ∀ l ∈ ls, l < x.threads.length)
    (ld : Load) (d : Opd) (wd : Width) (v l : Nat) :
    (s.deferred w ld d wd ls).lane v l = if v = w ∧ l ∈ ls then (s.lane v l).markEmpty d wd else s.lane v l := by
  have wave : (s.deferred w ld d wd ls).wave? v = if v = w then some (x.deferred s.serial ld d wd ls) else s.wave? v := by
    refine (State.wave?_modWave s w v _).trans ?_
    rw [hx]
    rfl
  unfold State.lane
  rw [wave]
  by_cases e : v = w
  · subst e
    rw [if_pos rfl, hx]
    show (x.mapLanes ls fun _ t => t.markEmpty d wd).thread l = _
    rw [Wave.thread_mapLanes]
    by_cases m : l ∈ ls
    · rw [if_pos ⟨m, inside l m⟩, if_pos ⟨rfl, m⟩]
    · rw [if_neg fun h => m h.1, if_neg fun h => m h.2]
  · rw [if_neg e, if_neg fun h => e h.1]

/-- A result put off in a state that holds the registers of another, followed by what shows nothing. -/
theorem empties_of_deferred {s a t : State} {k : Who} {x : Wave} (hx : a.wave? k.w = some x) {ls : List Nat} (inside : ∀ l ∈ ls, l < x.threads.length)
    {ld : Load} {d : Opd} {w : Width} (before : ∀ v, (a.wave? v).map Wave.datas = (s.wave? v).map Wave.datas)
    (after : (a.deferred k.w ld d w ls).Shows t) : Empties s t k d w ls := by
  have old (v l : Nat) : (a.lane v l).data = (s.lane v l).data := State.lane_data (before v) l
  have new (v l : Nat) : (t.lane v l).data = ((a.deferred k.w ld d w ls).lane v l).data :=
    State.lane_data (congrArg Kept.threads (after.keeps v 0 0 0)) l
  have data (v l : Nat) : (t.lane v l).data = if v = k.w ∧ l ∈ ls then ((s.lane v l).markEmpty d w).data else (s.lane v l).data := by
    rw [new, State.lane_deferred hx inside]
    split
    · rw [Thread.data_markEmpty, Thread.data_markEmpty, old]
    · exact old v l
  have reg (v l : Nat) (g : RegFile) (n : Nat) : (t.lane v l).reg g n = (s.lane v l).reg g n := by
    have h := data v l
    split at h
    · rw [Thread.reg_data h]
      cases d <;> rfl
    · exact Thread.reg_data h g n
  have pred (v l : Nat) : (t.lane v l).p = (s.lane v l).p := by
    have h := congrArg ThreadData.p (data v l)
    split at h
    · refine h.trans ?_
      cases d <;> rfl
    · exact h
  refine ⟨reg, pred, fun v l => ?_⟩
  have h := congrArg ThreadData.full (data v l)
  split at h
  · next e => rw [if_pos e]; exact h
  · next e => rw [if_neg e]; exact h

theorem State.deferred_leaves (s : State) (w : Nat) (ld : Load) (d : Opd) (wd : Width) (ls : List Nat) :
    s.SameStore (s.deferred w ld d wd ls) ∧ s.SameChips (s.deferred w ld d wd ls) ∧ s.SameSpecial (s.deferred w ld d wd ls) := by
  refine ⟨⟨fun _ => rfl, fun _ _ => rfl, fun _ _ => rfl, fun _ => rfl, fun _ => rfl, fun _ => rfl⟩, ⟨fun _ => rfl, fun _ => rfl, fun _ => rfl, fun _ => rfl⟩, fun v => ?_⟩
  show ((s.modWave w _).wave? v).map Wave.special = _
  rw [State.wave?_modWave]
  split
  · next e =>
    rw [Option.map_map, e]
    rfl
  · rfl

theorem State.statuses_deferred (s : State) (w : Nat) (ld : Load) (d : Opd) (wd : Width) (ls : List Nat) (v : Nat) :
    (s.deferred w ld d wd ls).statuses v = s.statuses v := by
  refine State.statuses_modWave (s := s) fun x => ?_
  unfold Wave.statuses Wave.deferred Wave.mapLanes Wave.mapThreads
  apply List.ext_getElem?
  intro i
  simp only [List.getElem?_map, List.getElem?_mapIdx, Option.map_map]
  congr 1
  funext t
  simp only [Function.comp]
  split
  · cases d <;> rfl
  · rfl

theorem State.loadsOf_deferred {s : State} {w : Nat} {x : Wave} (hx : s.wave? w = some x) (ld : Load) (d : Opd) (wd : Width) (ls : List Nat) :
    (s.deferred w ld d wd ls).loadsOf w = some (Table.put x.loads s.serial ld) := by
  unfold State.loadsOf
  refine (congrArg (Option.map Wave.loads) (State.wave?_modWave s w w _)).trans ?_
  rw [if_pos rfl, hx]
  rfl

end Sys2Proof.Machine
end

section
/-! SUPPORT. A result that is put off, as the instruction leaves it. Serves O24 and O27. -/

-- One theorem at a time: many at once ask for more threads than the checker has memory for.
set_option Elab.async false

namespace Sys2Proof.Machine

/-! ### What is due of a result -/

/-- The kind of an outstanding result, its destination, its lanes and its acquire. -/
structure Terms where
  kind : LoadKind
  d : Opd
  fmt : LoadFmt
  lanes : List LoadLane
  acq : Option Nat

def Load.terms (l : Load) : Terms := ⟨l.kind, l.d, l.fmt, l.lanes, l.acq⟩

def State.terms (s : State) (w id : Nat) : Option Terms := ((s.loadsOf w).bind fun t => Table.look t id).map Load.terms

theorem State.due_of_terms {t : State} {w id : Nat} {m : Terms} (h : t.terms w id = some m) {p : Load → Prop} (hp : ∀ l, l.terms = m → p l) :
    t.due w id p := by
  obtain ⟨l, hl, lm⟩ := Option.map_eq_some_iff.1 h
  obtain ⟨ls, hls, look⟩ := Option.bind_eq_some_iff.1 hl
  obtain ⟨x, hx, rfl⟩ := Option.map_eq_some_iff.1 hls
  exact ⟨x, l, hx, look, hp l lm⟩

theorem State.terms_congr {s t : State} {w : Nat} (h : t.loadsOf w = s.loadsOf w) (id : Nat) : t.terms w id = s.terms w id := by
  unfold State.terms
  rw [h]

theorem State.terms_mapLoad (s : State) (w ld : Nat) (f : Load → Load) (id : Nat) (g : Terms → Terms) (hg : ∀ l, (f l).terms = g l.terms) :
    (s.modWave w (Wave.mapLoad ld f)).terms w id = if id = ld then (s.terms w id).map g else s.terms w id := by
  unfold State.terms
  rw [State.loadsOf_mapLoad]
  cases s.loadsOf w with
  | none => split <;> rfl
  | some t =>
    show (Table.look (Table.modify t ld f) id).map Load.terms = _
    rw [Table.look_modify]
    by_cases e : id = ld
    · rw [if_pos e, if_pos e, e]
      show ((Table.look t ld).map f).map Load.terms = ((Table.look t ld).map Load.terms).map g
      rw [Option.map_map, Option.map_map]
      exact congrArg (Option.map · _) (funext hg)
    · rw [if_neg e, if_neg e]
      rfl

theorem State.terms_modWave {s : State} {i w : Nat} {f : Wave → Wave} (id : Nat)
    (hf : ∀ x, (Table.look (f x).loads id).map Load.terms = (Table.look x.loads id).map Load.terms) : (s.modWave i f).terms w id = s.terms w id := by
  unfold State.terms State.loadsOf
  rw [State.wave?_modWave]
  split
  · next e =>
    rw [← e]
    cases s.wave? w with
    | none => rfl
    | some x => exact hf x
  · rfl

theorem State.terms_receiveRec (s : State) (w ld : Nat) (rec : BitVec 512 × Option (List Nat)) (va : DWord) (v id : Nat) :
    (s.receiveRec w ld rec va).terms v id = s.terms v id := by
  unfold State.receiveRec
  refine State.terms_modWave id fun x => ?_
  simp only [Table.look_modify]
  split
  · next e =>
    rw [Option.map_map, e]
    rfl
  · rfl

theorem State.terms_receiveAll (s : State) (w ld : Nat) (va : DWord) (bs : List ByteSrc) (v id : Nat) :
    (s.receiveAll w ld va bs).terms v id = s.terms v id :=
  State.receiveAll_eq (o := fun s => s.terms v id) (fun _ _ _ => rfl) (fun _ _ => rfl) (fun _ _ _ => rfl)
    (fun _ _ _ _ _ => State.terms_receiveRec ..) s w ld va bs

theorem State.statuses_receiveAll (s : State) (w ld : Nat) (va : DWord) (bs : List ByteSrc) (v : Nat) :
    (s.receiveAll w ld va bs).statuses v = s.statuses v :=
  State.receiveAll_eq (o := fun s => s.statuses v) (fun _ _ _ => rfl) (fun _ _ => rfl) (fun _ _ _ => rfl)
    (fun _ _ _ _ _ => State.statuses_modWave fun _ => rfl) s w ld va bs

/-! ### The instruction that puts a result off -/

/-- The states that an instruction passes through which puts a result off: `s` before it, `a` where the result is put off, `u` where its
effect is done, with nothing else shown in between. -/
structure PutsOff (s a u : State) (k : Who) (ld : Load) (d : Opd) (w : Width) (ls : List Nat) : Prop where
  datas : ∀ v, (a.wave? v).map Wave.datas = (s.wave? v).map Wave.datas
  special : ∀ v, (a.wave? v).map Wave.special = (s.wave? v).map Wave.special
  active : ∀ l ∈ ls, l ∈ k.x.active
  shows : (a.deferred k.w ld d w ls).Shows u

theorem PutsOff.empties {i : Instr} {s a u : State} {k : Who} {ld : Load} {d : Opd} {w : Width} {ls : List Nat} (ready : Ready i s k)
    (h : PutsOff s a u k ld d w ls) (commit : Bool) : Empties s ((Eff.done u).run k i commit) k d w ls := by
  have same := h.datas k.w
  rw [ready.wave] at same
  obtain ⟨y, hy, datas⟩ := Option.map_eq_some_iff.1 same
  have len : y.threads.length = k.x.threads.length := by
    have := congrArg List.length datas
    simpa [Wave.datas] using this
  exact empties_of_deferred hy (fun l hl => len ▸ Wave.active_lt (h.active l hl)) h.datas (h.shows.trans (finish_shows u k i commit))

theorem PutsOff.sameSpecial {s a u : State} {k : Who} {ld : Load} {d : Opd} {w : Width} {ls : List Nat} (h : PutsOff s a u k ld d w ls) (i : Instr)
    (commit : Bool) : s.SameSpecial ((Eff.done u).run k i commit) := fun v =>
  ((h.shows.trans (finish_shows u k i commit)).sameSpecial v).trans (((a.deferred_leaves k.w ld d w ls).2.2 v).trans (h.special v))

theorem PutsOff.sameChips {s a u : State} {k : Who} {ld : Load} {d : Opd} {w : Width} {ls : List Nat} (h : PutsOff s a u k ld d w ls) (i : Instr)
    (commit : Bool) : a.SameChips ((Eff.done u).run k i commit) :=
  (a.deferred_leaves k.w ld d w ls).2.1.trans (h.shows.trans (finish_shows u k i commit)).sameChips

theorem PutsOff.sameStore {s a u : State} {k : Who} {ld : Load} {d : Opd} {w : Width} {ls : List Nat} (h : PutsOff s a u k ld d w ls) (i : Instr)
    (commit : Bool) : a.SameStore ((Eff.done u).run k i commit) :=
  (a.deferred_leaves k.w ld d w ls).1.trans (h.shows.trans (finish_shows u k i commit)).keeps.sameStore

end Sys2Proof.Machine
end

section
/-! A load issues: its destination empty, its result outstanding (20 R435, 04 R78). Serves O24. -/

-- One theorem at a time: many at once ask for more threads than the checker has memory for.
set_option Elab.async false

namespace Sys2Proof.Machine

/-! ### The lanes of a load -/

/-- A lane of a load as its sources stand. -/
def State.loadLane (s : State) (k : Who) (l1 : Bool) (e : Nat × DWord × List Part) : LoadLane :=
  { lane := e.1, src := ((s.core k.wg.core).laneSrc k l1 e.2.2).getD [], va := e.2.1 }

theorem State.laneBytes_loadLane {s : State} {k : Who} {l1 : Bool} {e : Nat × DWord × List Part} (h : (s.laneBytes k l1 e).isSome = true) :
    s.laneBytes k l1 e = some (s.readMixed k.chip (s.loadLane k l1 e)).src ∧ ((s.core k.wg.core).laneSrc k l1 e.2.2).isSome = true := by
  unfold State.laneBytes State.loadLane at *
  cases hs : (s.core k.wg.core).laneSrc k l1 e.2.2 with
  | none => rw [hs] at h; cases h
  | some src => exact ⟨rfl, rfl⟩

/-- The wave with a result of the load outstanding. -/
def Who.loadOf (k : Who) (s : State) (f : ExtArgs) (lanes : List LoadLane) : Load :=
  { kind := .bytes, d := f.d, fmt := { width := regsOf f.ty.width, bytes := widthBytes f.ty.width, signed := false }, lanes, acq := f.acquire
    pc := k.x.issuePc.getD 0, seq := k.x.seqno, issued := (s.core k.wg.core).clk, order := s.serial, epoch := s.epoch, got := 0, bad := none }

/-- A load takes the format of its type. -/
def Load.typed (ty : Ty) (l : Load) : Load := { l with fmt := { width := regsOf ty.width, bytes := ty.bits / 8, signed := ty.signed } }

theorem State.deferLoad_eq (s : State) (k : Who) (f : ExtArgs) (lanes : List LoadLane) :
    s.deferLoad k .bytes f.d f.ty lanes f.acquire =
      ((s.deferred k.w (k.loadOf s f lanes) f.d f.ty.width (lanes.map LoadLane.lane)).modWave k.w (Wave.mapLoad s.serial (Load.typed f.ty)), s.serial) := rfl

/-! ### The state in which a load is put off -/

/-- The refused lanes parked, the L1 hits counted, the host lines read, the fills of those not cached due. -/
def State.loadStands (s : State) (f : ExtArgs) (k : Who) (ls : List (Nat × DWord × Span)) (hits : Nat) : State :=
  let s := s.parkLanes k f.d f.ty.width (Instr.length (.ld f)) (parksOf ls)
  if hits = 0 then s else s.count k.wg.core 130 hits

/-- The fills of host lines that a load waits for. -/
def State.asksLines (s : State) (k : Who) (bs : List ByteSrc) : State :=
  (hostBlocks bs).foldl (fun s b =>
    if (Table.look (s.chip (s.hostCache k.chip)).hostLines b).isNone then s.post (.hostLineFill (s.hostCache k.chip) b) else s) s

/-- The state after the load has been put off. -/
def State.loadIssued (s : State) (f : ExtArgs) (k : Who) (lanes : List LoadLane) (va : DWord) (now : List ByteSrc) : State :=
  let t := (s.deferred k.w (k.loadOf s f lanes) f.d f.ty.width (lanes.map LoadLane.lane)).modWave k.w (Wave.mapLoad s.serial (Load.typed f.ty))
  (if f.acquire.isSome then t.receiveAll k.w s.serial va now else t).post (.loadReturn k.w s.serial)

theorem ldEff_done {f : ExtArgs} {s s1 : State} {k : Who} {ls : List (Nat × DWord × Span)} {l1 : Bool} {now : List ByteSrc}
    (h : Translated f s k .read false false (f.ty.bits / 8) ls s1) (some : goodSpans ls ≠ []) (hl1 : (f.acquire.isNone && decide (k.x.pend ≠ .some .home)) = l1)
    (hnow : s1.nowBytes k l1 (goodSpans ls) = now) (readable : ((goodSpans ls).all fun e => (s1.laneBytes k l1 e).isSome) = true)
    (order : k.x.readsFirst (fun _ => true) now = false) (reached : s1.srcsReached k.chip now = true) (owned : s1.ownedByHost now = [])
    (cached : s1.cached k.chip (hostBlocks now) = true) : ∃ hits va,
      ldEff f k k.x.active s = .done (((s1.loadStands f k ls hits).asksLines k
        (((goodSpans ls).map fun e => s1.readMixed k.chip (s1.loadLane k l1 e)).flatMap fun l => l.src)).loadIssued f k
        ((goodSpans ls).map fun e => s1.readMixed k.chip (s1.loadLane k l1 e)) va now) := by
  have mapped : ((goodSpans ls).map fun e => (e.1, e.2.1, (s1.core k.wg.core).laneSrc k l1 e.2.2)).map
      (fun e => ({ lane := e.1, src := e.2.2.getD [], va := e.2.1 } : LoadLane)) = (goodSpans ls).map (s1.loadLane k l1) := by
    rw [List.map_map]
    rfl
  have none : ((goodSpans ls).map fun e => (e.1, e.2.1, (s1.core k.wg.core).laneSrc k l1 e.2.2)).any (fun e => e.2.2.isNone) = false := by
    rw [List.any_map, List.any_eq_false]
    intro e he
    have src := (State.laneBytes_loadLane (List.all_eq_true.1 readable e he)).2
    rw [Function.comp_apply, ← Option.not_isSome, src]
    decide
  have mixed : mixedBytes ((goodSpans ls).map (s1.loadLane k l1)) = now := hnow
  let hits := if l1 then (s1.core k.wg.core).l1Hits k (goodSpans ls) else 0
  refine ⟨hits, firstOf ((goodSpans ls).map fun e => s1.readMixed k.chip (s1.loadLane k l1 e)), ?_⟩
  have homes : s1.Homes (s1.loadStands f k ls hits) := by
    obtain ⟨ws, cs, e⟩ := s1.homes_parkLanes k f.d f.ty.width (Instr.length (.ld f)) (parksOf ls)
    unfold State.loadStands
    simp only [e]
    split
    · exact ⟨_, _, rfl⟩
    · exact ⟨_, _, rfl⟩
  have reads : (hostBlocks now).foldl (fun s b => s.hostRead k.chip b) (s1.loadStands f k ls hits) = s1.loadStands f k ls hits := by
    refine State.hostReads_cached _ (fun b hb => hostBlocks_host hb) ?_
    obtain ⟨ws, cs, e⟩ := homes
    rw [e]
    exact cached
  have lanes : ((goodSpans ls).map (s1.loadLane k l1)).map (fun l => (s1.loadStands f k ls hits).readMixed k.chip l) =
      (goodSpans ls).map fun e => s1.readMixed k.chip (s1.loadLane k l1 e) := by
    obtain ⟨ws, cs, e⟩ := homes
    rw [e, List.map_map]
    rfl
  unfold ldEff
  simp only [h.2, hl1, none, mapped, mixed, order, reached, owned, if_neg some, Bool.false_eq_true, if_false, Bool.not_true, Bool.or_false]
  have last (u : State) (ms : List LoadLane) (hu : u = s1.loadStands f k ls hits)
      (hm : ms = (goodSpans ls).map fun e => s1.readMixed k.chip (s1.loadLane k l1 e)) :
      (match (u.asksLines k (ms.flatMap fun l => l.src)).deferLoad k .bytes f.d f.ty ms f.acquire with
        | (s, id) => Eff.done ((if f.acquire.isSome then s.receiveAll k.w id (firstOf ms) now else s).post (.loadReturn k.w id))) =
      .done (((s1.loadStands f k ls hits).asksLines k
        (((goodSpans ls).map fun e => s1.readMixed k.chip (s1.loadLane k l1 e)).flatMap fun l => l.src)).loadIssued f k
        ((goodSpans ls).map fun e => s1.readMixed k.chip (s1.loadLane k l1 e))
        (firstOf ((goodSpans ls).map fun e => s1.readMixed k.chip (s1.loadLane k l1 e))) now) := by
    subst hu hm
    rfl
  exact last _ _ reads (Eq.trans (congrArg (fun u : State => ((goodSpans ls).map (s1.loadLane k l1)).map fun l => u.readMixed k.chip l) reads) lanes)

/-! ### What the load leaves -/

variable {v c k h : Nat}

theorem Core.addPerf_data (x : Core) (sel n : Nat) : (x.addPerf sel n).scratch = x.scratch ∧ (x.addPerf sel n).lines = x.lines := by
  unfold Core.addPerf
  exact ⟨rfl, rfl⟩

theorem State.shows_loadStands (s : State) (f : ExtArgs) (k : Who) (ls : List (Nat × DWord × Span)) (hits : Nat) : s.Shows (s.loadStands f k ls hits) := by
  intro v c i h
  unfold State.loadStands
  simp only
  split
  · exact State.shown_parkLanes ..
  · exact (State.shown_modCore (fun x => (x.addPerf_data 130 hits).1) fun x => (x.addPerf_data 130 hits).2).trans (State.shown_parkLanes ..)

/-- Asking for lines changes the agenda only. -/
theorem State.asksLines_eq {β : Type} {o : State → β} (hp : ∀ s e, o (State.post s e) = o s) (s : State) (k : Who) (bs : List ByteSrc) :
    o (s.asksLines k bs) = o s := by
  refine foldl_eq (o := o) _ _ fun u b _ => ?_
  split
  · exact hp ..
  · rfl

theorem State.shows_asksLines (s : State) (k : Who) (bs : List ByteSrc) : s.Shows (s.asksLines k bs) := fun v c i h =>
  State.asksLines_eq (o := fun s => s.shown v c i h) (fun _ _ => rfl) s k bs

/-- What follows on the putting off shows nothing more. -/
theorem State.shows_loadIssued (s : State) (f : ExtArgs) (k : Who) (lanes : List LoadLane) (va : DWord) (now : List ByteSrc) :
    (s.deferred k.w (k.loadOf s f lanes) f.d f.ty.width (lanes.map LoadLane.lane)).Shows (s.loadIssued f k lanes va now) := by
  intro v c i h
  unfold State.loadIssued
  simp only
  have typed (u : State) : (u.modWave k.w (Wave.mapLoad s.serial (Load.typed f.ty))).shown v c i h = u.shown v c i h :=
    State.shown_modWave fun _ => ⟨rfl, rfl⟩
  show State.shown (if _ then _ else _) v c i h = _
  split
  · exact (State.shown_receiveAll ..).trans (typed _)
  · exact typed _

theorem State.statuses_loadIssued (s : State) (f : ExtArgs) (k : Who) (lanes : List LoadLane) (va : DWord) (now : List ByteSrc) :
    (s.loadIssued f k lanes va now).statuses k.w = s.statuses k.w := by
  unfold State.loadIssued
  simp only
  have typed (u : State) : (u.modWave k.w (Wave.mapLoad s.serial (Load.typed f.ty))).statuses k.w = u.statuses k.w :=
    State.statuses_modWave fun _ => rfl
  show State.statuses (if _ then _ else _) k.w = _
  split
  · exact (State.statuses_receiveAll ..).trans ((typed _).trans (State.statuses_deferred ..))
  · exact (typed _).trans (State.statuses_deferred ..)

theorem State.terms_deferred {s : State} {w : Nat} {x : Wave} (hx : s.wave? w = some x) (ld : Load) (d : Opd) (wd : Width) (ls : List Nat) :
    (s.deferred w ld d wd ls).terms w s.serial = some ld.terms := by
  unfold State.terms
  rw [State.loadsOf_deferred hx]
  show (Table.look (Table.put x.loads s.serial ld) s.serial).map Load.terms = _
  rw [Table.look_put_same]
  rfl

theorem State.terms_loadIssued {s : State} {k : Who} {x : Wave} (hx : s.wave? k.w = some x) (f : ExtArgs) (lanes : List LoadLane) (va : DWord)
    (now : List ByteSrc) : (s.loadIssued f k lanes va now).terms k.w s.serial =
      some ⟨.bytes, f.d, { width := regsOf f.ty.width, bytes := f.ty.bits / 8, signed := f.ty.signed }, lanes, f.acquire⟩ := by
  have typed : ((s.deferred k.w (k.loadOf s f lanes) f.d f.ty.width (lanes.map LoadLane.lane)).modWave k.w
      (Wave.mapLoad s.serial (Load.typed f.ty))).terms k.w s.serial =
      some ⟨.bytes, f.d, { width := regsOf f.ty.width, bytes := f.ty.bits / 8, signed := f.ty.signed }, lanes, f.acquire⟩ := by
    rw [State.terms_mapLoad _ _ _ _ _ (fun m => { m with fmt := { width := regsOf f.ty.width, bytes := f.ty.bits / 8, signed := f.ty.signed } })
      fun _ => rfl, if_pos rfl, State.terms_deferred hx]
    rfl
  unfold State.loadIssued
  simp only
  show State.terms (if _ then _ else _) k.w s.serial = _
  split
  · exact (State.terms_receiveAll ..).trans typed
  · exact typed

/-! ### The clauses -/

theorem Translated.datas {f : ExtArgs} {s : State} {k : Who} {a : Access} {strong aligned : Bool} {n : Nat} {ls : List (Nat × DWord × Span)} {s1 : State}
    (h : Translated f s k a strong aligned n ls s1) (v : Nat) : (s1.wave? v).map Wave.datas = (s.wave? v).map Wave.datas ∧
      (s1.wave? v).map Wave.special = (s.wave? v).map Wave.special ∧ s1.statuses v = s.statuses v := by
  have wave : (s1.wave? v).map Wave.unfired = (s.wave? v).map Wave.unfired := congrArg Beside.wave (h.beside v 0 0)
  have through {β : Type} (g : Wave → β) (hg : ∀ x : Wave, g x.unfired = g x) : (s1.wave? v).map g = (s.wave? v).map g := by
    have := congrArg (Option.map g) wave
    rw [Option.map_map, Option.map_map] at this
    exact (congrArg (Option.map · (s1.wave? v)) (funext fun x => (hg x).symm)).trans
      (this.trans (congrArg (Option.map · (s.wave? v)) (funext hg)))
  exact ⟨through _ fun _ => rfl, through _ fun _ => rfl, through _ fun _ => rfl⟩

theorem ld_issues {f : ExtArgs} {s s1 : State} {k : Who} {ls : List (Nat × DWord × Span)} {l1 : Bool} {now : List ByteSrc} (ready : Ready (.ld f) s k)
    (h : Translated f s k .read false false (f.ty.bits / 8) ls s1) (hl1 : (f.acquire.isNone && decide (k.x.pend ≠ .some .home)) = l1)
    (hnow : s1.nowBytes k l1 (goodSpans ls) = now) (some : goodSpans ls ≠ []) (readable : ((goodSpans ls).all fun e => (s1.laneBytes k l1 e).isSome) = true)
    (order : k.x.readsFirst (fun _ => true) now = false) (reached : s1.srcsReached k.chip now = true) (owned : s1.ownedByHost now = [])
    (cached : s1.cached k.chip (hostBlocks now) = true) :
    ∃ t, exec (.ld f) s = .next t ∧ s1.SameStore t ∧ s1.SameChips t ∧ s.SameSpecial t ∧ Empties s t k f.d f.ty.width ((goodSpans ls).map Prod.fst) ∧
      (Quiet s k → parksOf ls = [] → .loadReturn k.w s1.serial ∈ t.agenda ∧ t.due k.w s1.serial fun ld =>
        ld.kind = .bytes ∧ ld.d = f.d ∧ ld.acq = f.acquire ∧
        ld.fmt = { width := regsOf f.ty.width, bytes := f.ty.bits / 8, signed := f.ty.signed } ∧
        ∀ e ∈ goodSpans ls, ∃ lane ∈ ld.lanes, lane.lane = e.1 ∧ Option.some lane.src = s1.laneBytes k l1 e) := by
  obtain ⟨hits, va, done⟩ := ldEff_done h some hl1 hnow readable order reached owned cached
  let lanes := (goodSpans ls).map fun e => s1.readMixed k.chip (s1.loadLane k l1 e)
  let a := (s1.loadStands f k ls hits).asksLines k (lanes.flatMap fun l => l.src)
  let u := a.loadIssued f k lanes va now
  have run : exec (.ld f) s = .next ((Eff.done u).run k (.ld f) false) := by
    show Host.Outcome.next (issue (.ld f) s (ldEff f)) = _
    rw [issue_ready_plain ready rfl, done]
  have before : s1.Shows a := (s1.shows_loadStands f k ls hits).trans (State.shows_asksLines _ k _)
  have named : lanes.map LoadLane.lane = (goodSpans ls).map Prod.fst := by
    rw [List.map_map]
    refine List.map_congr_left fun e _ => ?_
    show (s1.readMixed k.chip (s1.loadLane k l1 e)).lane = e.1
    unfold State.readMixed
    split <;> rfl
  have off : PutsOff s a u k (k.loadOf a f lanes) f.d f.ty.width ((goodSpans ls).map Prod.fst) := by
    refine ⟨fun v => ?_, fun v => ?_, fun l hl => ?_, named ▸ a.shows_loadIssued f k lanes va now⟩
    · exact (congrArg (fun x : Shown => x.kept.threads) (before v 0 0 0)).trans (h.datas v).1
    · exact (before.sameSpecial v).trans (h.datas v).2.1
    · obtain ⟨e, he, rfl⟩ := List.mem_map.1 hl
      exact h.good_active he
  refine ⟨_, run, before.keeps.sameStore.trans (off.sameStore ..), before.sameChips.trans (off.sameChips ..), off.sameSpecial _ _, off.empties ready _, fun quiet none => ?_⟩
  have serial : a.serial = s1.serial := by
    refine (State.asksLines_eq (o := State.serial) (fun _ _ => rfl) _ k _).trans ?_
    unfold State.loadStands
    obtain ⟨ws, cs, e⟩ := s1.homes_parkLanes k f.d f.ty.width (Instr.length (.ld f)) (parksOf ls)
    simp only [e]
    split <;> rfl
  have statuses : u.statuses k.w = .some k.x.statuses := by
    refine (State.statuses_loadIssued ..).trans ?_
    refine (State.asksLines_eq (o := fun s => s.statuses k.w) (fun _ _ => rfl) _ k _).trans ?_
    have stands : (s1.loadStands f k ls hits).statuses k.w = s1.statuses k.w := by
      unfold State.loadStands
      rw [none]
      simp only
      split <;> rfl
    rw [stands, (h.datas k.w).2.2, State.statuses, ready.wave]
    rfl
  have dbg : (u.chip k.chip).dbg = (s.chip k.chip).dbg := by
    have beside : (s1.chip k.chip).dbg = (s.chip k.chip).dbg := congrArg Beside.dbg (h.beside 0 0 k.chip)
    exact (((a.deferred_leaves k.w (k.loadOf a f lanes) f.d f.ty.width ((goodSpans ls).map Prod.fst)).2.1.trans off.shows.sameChips).dbg k.chip).trans
      ((before.sameChips.dbg k.chip).trans beside)
  obtain ⟨loads, events⟩ := finish_quiet (.ld f) false quiet statuses dbg
  have here : (s.wave? k.w).map Wave.datas = Option.some k.x.datas := by rw [ready.wave]; rfl
  obtain ⟨y, hy, -⟩ := Option.map_eq_some_iff.1 ((congrArg (fun x : Shown => x.kept.threads) (before k.w 0 0 0)).trans
    ((h.datas k.w).1.trans here))
  have terms := (State.terms_congr loads s1.serial).trans (serial ▸ State.terms_loadIssued hy f lanes va now)
  refine ⟨events _ (serial ▸ List.mem_append_right _ (List.mem_singleton.2 rfl)), State.due_of_terms terms fun l hl => ?_⟩
  refine ⟨congrArg Terms.kind hl, congrArg Terms.d hl, congrArg Terms.acq hl, congrArg Terms.fmt hl, fun e he => ?_⟩
  have all : l.lanes = lanes := congrArg Terms.lanes hl
  refine ⟨s1.readMixed k.chip (s1.loadLane k l1 e), all ▸ List.mem_map_of_mem he, ?_, ((State.laneBytes_loadLane (List.all_eq_true.1 readable e he)).1).symm⟩
  unfold State.readMixed
  split <;> rfl

end Sys2Proof.Machine
end

section
/-! A scratchpad load issues (20 R436, 08 R168). Serves O24; what a scratchpad result put off leaves serves O27 too. -/

-- One theorem at a time: many at once ask for more threads than the checker has memory for.
set_option Elab.async false

namespace Sys2Proof.Machine

/-! ### A result read from scratchpad -/

/-- A load read from scratchpad: its format, what its acquire received and the line whose tag differs. -/
def Load.settled (fmt : LoadFmt) (got : BitVec 512) (bad : Option DWord) (l : Load) : Load := { l with fmt, got, bad }

/-- A wave whose outstanding result was read from scratchpad. -/
def Wave.settled (id : Nat) (fmt : LoadFmt) (got : BitVec 512) (bad : Option DWord) (x : Wave) : Wave :=
  { x with acqSig := BitVec.allOnes 512, loads := Table.modify x.loads id (Load.settled fmt got bad) }

/-- The result as it is put off. -/
def Who.scratchLoad (k : Who) (s : State) (d : Opd) (w : Width) (lanes : List LoadLane) (acq : Option Nat) : Load :=
  { kind := .bytes, d, fmt := { width := regsOf w, bytes := widthBytes w, signed := false }, lanes, acq, pc := k.x.issuePc.getD 0, seq := k.x.seqno
    issued := (s.core k.wg.core).clk, order := s.serial, epoch := s.epoch, got := 0, bad := none }

theorem State.deferScratch_eq (s : State) (k : Who) (d : Opd) (w : Width) (fmt : LoadFmt) (lanes : List LoadLane) (acq : Option Nat) (got : BitVec 512)
    (bad : Option DWord) : s.deferScratch k d w fmt lanes acq got bad =
      ((s.deferred k.w (k.scratchLoad s d w lanes acq) d w (lanes.map LoadLane.lane)).modWave k.w (Wave.settled s.serial fmt got bad)).post
        (.loadReturn k.w s.serial) := rfl

theorem State.shows_deferScratch (s : State) (k : Who) (d : Opd) (w : Width) (fmt : LoadFmt) (lanes : List LoadLane) (acq : Option Nat) (got : BitVec 512)
    (bad : Option DWord) : (s.deferred k.w (k.scratchLoad s d w lanes acq) d w (lanes.map LoadLane.lane)).Shows (s.deferScratch k d w fmt lanes acq got bad) :=
  fun _ _ _ _ => State.shown_modWave (f := Wave.settled s.serial fmt got bad) fun _ => ⟨rfl, rfl⟩

theorem State.statuses_deferScratch (s : State) (k : Who) (d : Opd) (w : Width) (fmt : LoadFmt) (lanes : List LoadLane) (acq : Option Nat) (got : BitVec 512)
    (bad : Option DWord) : (s.deferScratch k d w fmt lanes acq got bad).statuses k.w = s.statuses k.w :=
  (State.statuses_modWave (f := Wave.settled s.serial fmt got bad) fun _ => rfl).trans (State.statuses_deferred ..)

theorem State.terms_deferScratch {s : State} {k : Who} {x : Wave} (hx : s.wave? k.w = some x) (d : Opd) (w : Width) (fmt : LoadFmt) (lanes : List LoadLane)
    (acq : Option Nat) (got : BitVec 512) (bad : Option DWord) :
    (s.deferScratch k d w fmt lanes acq got bad).terms k.w s.serial = some ⟨.bytes, d, fmt, lanes, acq⟩ := by
  have put : ((s.deferred k.w (k.scratchLoad s d w lanes acq) d w (lanes.map LoadLane.lane)).modWave k.w (Wave.settled s.serial fmt got bad)).loadsOf k.w =
      some (Table.modify (Table.put x.loads s.serial (k.scratchLoad s d w lanes acq)) s.serial (Load.settled fmt got bad)) := by
    unfold State.loadsOf
    rw [State.wave?_modWave, if_pos rfl]
    have before := State.loadsOf_deferred hx (k.scratchLoad s d w lanes acq) d w (lanes.map LoadLane.lane)
    unfold State.loadsOf at before
    obtain ⟨y, hy, loads⟩ := Option.map_eq_some_iff.1 before
    rw [hy, ← loads]
    rfl
  have same : (s.deferScratch k d w fmt lanes acq got bad).loadsOf k.w = _ := put
  unfold State.terms
  rw [same]
  show (Table.look (Table.modify _ _ _) _).map Load.terms = _
  rw [Table.look_modify, if_pos rfl, Table.look_put_same]
  rfl

/-! ### The clauses -/

theorem State.shows_parkSc (s : State) (k : Who) (d : Opd) (w : Width) (len : Nat) (ls : List ScLane) : s.Shows (s.parkSc k d w len ls) :=
  fun _ _ _ _ => State.shown_parkLanes ..

theorem State.parkSc_none (s : State) (k : Who) (d : Opd) (w : Width) (len : Nat) {ls : List ScLane} (h : (ls.all fun e => e.bad.isNone) = true) :
    s.parkSc k d w len ls = s := by
  unfold State.parkSc
  have empty : (ls.filterMap fun e => e.bad.map fun c => (e.lane, c, BitVec.ofNat 64 e.off)) = [] := by
    refine List.filterMap_eq_nil_iff.2 fun e he => ?_
    rw [Option.isNone_iff_eq_none.1 (List.all_eq_true.1 h e he)]
    rfl
  rw [empty]
  rfl

theorem State.scLanes_active (s : State) (k : Who) (n : Nat) (aligned write : Bool) (f : ExtArgs) {e : ScLane}
    (h : e ∈ s.scLanes k n aligned write (k.x.active.map fun l => (l, s.laneOff k f l))) : e.lane ∈ k.x.active := by
  unfold State.scLanes at h
  obtain ⟨p, hp, rfl⟩ := List.mem_map.1 h
  obtain ⟨l, hl, rfl⟩ := List.mem_map.1 hp
  split
  · exact hl
  · split
    · exact hl
    · split <;> exact hl

theorem scHold_go {k : Who} {ls : List ScLane} {s : State} {go : State → Eff} (kept : (ls.all fun e => !s.lostSeg e.bytes) = true)
    (bound : s.inT (ls.flatMap ScLane.bytes) = false) (first : s.padFirst k (ls.flatMap ScLane.bytes) = false) : scHold k ls s go = go s := by
  have found : (ls.find? fun e => s.lostSeg e.bytes) = none := by
    rw [List.find?_eq_none]
    intro e he lost
    have := List.all_eq_true.1 kept e he
    rw [lost] at this
    cases this
  unfold scHold
  rw [found]
  simp only [bound, first, Bool.false_eq_true, if_false]

/-- The result that an `LDL` puts off. -/
def State.ldlIssued (s : State) (f : ExtArgs) (k : Who) (good : List ScLane) : State :=
  s.deferScratch k f.d f.ty.width { width := regsOf f.ty.width, bytes := f.ty.bits / 8, signed := f.ty.signed } (good.map s.padRead)
    (f.acquire.map fun sc => min sc 2) 0 (s.scratchTag k f.acquire good)

theorem ldl_issues {f : ExtArgs} {s : State} {k : Who} {ls good : List ScLane} (ready : Ready (.ldl f) s k)
    (hls : s.scLanes k (f.ty.bits / 8) false false (k.x.active.map fun l => (l, s.laneOff k f l)) = ls) (hgood : (ls.filter fun e => e.bad.isNone) = good)
    (some : good ≠ []) (kept : (good.all fun e => !s.lostSeg e.bytes) = true) (bound : s.inT (good.flatMap ScLane.bytes) = false)
    (first : s.padFirst k (good.flatMap ScLane.bytes) = false) (full : f.ea = true → (scratchLines (good.flatMap ScLane.bytes)).all s.lineFull = true) :
    ∃ t, exec (.ldl f) s = .next t ∧ s.SameStore t ∧ s.SameChips t ∧ s.SameSpecial t ∧ Empties s t k f.d f.ty.width (good.map ScLane.lane) ∧
      (Quiet s k → (ls.all fun e => e.bad.isNone) = true → .loadReturn k.w s.serial ∈ t.agenda ∧ t.due k.w s.serial fun ld =>
        ld.d = f.d ∧ ld.fmt = { width := regsOf f.ty.width, bytes := f.ty.bits / 8, signed := f.ty.signed } ∧
        ∀ e ∈ good, ∃ lane ∈ ld.lanes, lane.lane = e.lane ∧
          lane.src = if (scratchLines e.bytes).all s.lineFull then e.bytes.map fun b => ByteSrc.val (s.padByte b.1 b.2)
            else (List.range e.bytes.length).map fun i => ByteSrc.pad ((e.off + i) % 2 ^ 32)) := by
  let a := s.parkSc k f.d f.ty.width (Instr.length (.ldl f)) ls
  have before : s.Shows a := s.shows_parkSc k _ _ _ ls
  have filled : (f.ea && !(scratchLines (good.flatMap ScLane.bytes)).all s.lineFull) = false := by
    cases ea : f.ea with
    | false => rfl
    | true => rw [full ea]; rfl
  have done : ldlEff f k k.x.active s = .done (a.ldlIssued f k good) := by
    unfold ldlEff
    simp only [hls, hgood]
    rw [scHold_go kept bound first]
    simp only [filled, some, if_false, Bool.false_eq_true]
    rfl
  have run : exec (.ldl f) s = .next ((Eff.done (a.ldlIssued f k good)).run k (.ldl f) false) := by
    show Host.Outcome.next (issue (.ldl f) s (ldlEff f)) = _
    rw [issue_ready_plain ready rfl, done]
  have named : (good.map a.padRead).map LoadLane.lane = good.map ScLane.lane := by
    rw [List.map_map]
    rfl
  have off : PutsOff s a (a.ldlIssued f k good) k (k.scratchLoad a f.d f.ty.width (good.map a.padRead) (f.acquire.map fun sc => min sc 2)) f.d f.ty.width
      (good.map ScLane.lane) := by
    refine ⟨fun v => congrArg (fun x : Shown => x.kept.threads) (before v 0 0 0), before.sameSpecial, fun l hl => ?_, ?_⟩
    · obtain ⟨e, he, rfl⟩ := List.mem_map.1 hl
      exact s.scLanes_active k _ _ _ f (hls ▸ (List.mem_filter.1 (hgood ▸ he)).1)
    · exact named ▸ a.shows_deferScratch k _ _ _ _ _ _ _
  refine ⟨_, run, before.keeps.sameStore.trans (off.sameStore ..), before.sameChips.trans (off.sameChips ..), off.sameSpecial _ _, off.empties ready _,
    fun quiet none => ?_⟩
  have same : a = s := s.parkSc_none k _ _ _ none
  have statuses : (a.ldlIssued f k good).statuses k.w = .some k.x.statuses := by
    refine (a.statuses_deferScratch k _ _ _ _ _ _ _).trans ?_
    rw [same, State.statuses, ready.wave]
    rfl
  have dbg : ((a.ldlIssued f k good).chip k.chip).dbg = (s.chip k.chip).dbg :=
    (((a.deferred_leaves k.w (k.scratchLoad a f.d f.ty.width (good.map a.padRead) (f.acquire.map fun sc => min sc 2)) f.d f.ty.width
      (good.map ScLane.lane)).2.1.trans off.shows.sameChips).dbg k.chip).trans (before.sameChips.dbg k.chip)
  obtain ⟨loads, events⟩ := finish_quiet (.ldl f) false quiet statuses dbg
  have issued : (a.ldlIssued f k good).terms k.w s.serial = Option.some
      ⟨.bytes, f.d, { width := regsOf f.ty.width, bytes := f.ty.bits / 8, signed := f.ty.signed }, good.map s.padRead, f.acquire.map fun sc => min sc 2⟩ := by
    rw [State.ldlIssued, same]
    exact State.terms_deferScratch ready.wave _ _ _ _ _ _ _
  have terms := (State.terms_congr loads s.serial).trans issued
  refine ⟨events _ (List.mem_append_right _ (List.mem_singleton.2 (by rw [same]))), State.due_of_terms terms fun l hl => ?_⟩
  have all : l.lanes = good.map s.padRead := congrArg Terms.lanes hl
  refine ⟨congrArg Terms.d hl, congrArg Terms.fmt hl, fun e he => ⟨s.padRead e, all ▸ List.mem_map_of_mem he, rfl, ?_⟩⟩
  show (if _ then _ else _) = _
  split
  · unfold State.readScratch
    rw [List.map_map]
    rfl
  · rfl

/-- Settles O24: a load's effect is taken apart up to the putting off of its result, which empties the destination and shows nothing else. -/
theorem loadsIssue : Obligations.LoadsIssue := by
  unfold Obligations.LoadsIssue
  exact ⟨fun f s k ls s1 ready h some readable order reached owned cached => ld_issues ready h rfl rfl some readable order reached owned cached,
    fun f s k ready some kept bound first full => ldl_issues ready rfl rfl some kept bound first full⟩

end Sys2Proof.Machine
end

section
/-! SUPPORT. A core's write queue as an instruction that is done leaves it, and entries taken in order (08 R175). Serves O27. -/

-- One theorem at a time: many at once ask for more threads than the checker has memory for.
set_option Elab.async false

namespace Sys2Proof.Machine

variable {v c k h : Nat}

/-! ### A group that moves on -/

/-- Where no lane is parked and no `STEP` is armed, an observation that counting, regrouping and the end of a wave leave is left. -/
theorem State.finish_leaves {β : Type} {o : State → β} {u : State} {q : Who} {x : Wave} {commit : Bool} {target : Nat → DWord}
    (hx : u.wave? q.w = some x) (clear : x.clear = true) (steps : stepsNow u q (q.x.issuePc.getD 0) = false)
    (hs : ∀ s i a n, o (State.sample s i a n) = o s) (hc : ∀ s i x g a pc, o (State.countIssue s i x g a pc) = o s)
    (hw : ∀ s w x, o (State.setWave s w x) = o s) (he : ∀ s w, o (State.waveEnded s w) = o s) (hp : ∀ s e, o (State.postOnce s e) = o s) :
    o (u.finish q q.x.group q.x.active commit target fun _ x => x.regroup) = o u := by
  unfold State.finish
  rw [hx]
  simp only
  generalize hs1 : (if q.x.stall = 0 then u else u.sample q.wg.core 7 q.x.stall) = s1
  have o1 : o s1 = o u := by
    rw [← hs1]
    split
    · rfl
    · exact hs ..
  have w1 : s1.wave? q.w = some x := by rw [← hs1]; split <;> simp [hx]
  have b1 (h : Nat) : s1.obs 0 0 0 h = u.obs 0 0 0 h := by rw [← hs1]; split <;> simp
  generalize hx2 : (x.mapLanes q.x.group fun l t => (q.x.thread l).moveOn t (target l) commit).counted = x2
  have k2 : x2.clear = true := by rw [← hx2]; exact Wave.clear_moveOn clear
  have d2 : x2.datas = x.datas := by rw [← hx2]; exact Wave.datas_mapLanes (x := x) fun i t => Thread.data_moveOn _ _ _ _
  have p2 : x2.special = x.special := by rw [← hx2]; rfl
  have calm := Wave.regroup_calm k2
  have keeps := Wave.regroup_keeps x2
  generalize hs2 : (s1.countIssue q.wg.core q.x q.x.group q.x.active (q.x.issuePc.getD 0)).settleAs q.w x2.regroup x2 = s2
  have o2 : o s2 = o u := by
    rw [← hs2]
    unfold State.settleAs
    revert calm
    cases x2.regroup with
    | issue z => exact fun _ => (hw ..).trans ((hc ..).trans o1)
    | converge z => exact False.elim
    | idle => exact fun _ => (hw ..).trans ((hc ..).trans o1)
    | ended => exact fun _ => (he ..).trans ((hw ..).trans ((hc ..).trans o1))
  have b2 (h : Nat) : s2.obs 0 0 0 h = u.obs 0 0 0 h := by
    rw [← hs2, State.obs_settleAs (y := x) (by simp [w1]) d2 p2]
    · simp [b1]
    · revert keeps
      cases x2.regroup <;> exact id
  generalize hs3 : (if 65536 ≤ x2.handlerCount && x2.handler.isSome then s2.postOnce (.handlerWatchdog q.w) else s2) = s3
  have o3 : o s3 = o u := by
    rw [← hs3]
    split
    · exact (hp ..).trans o2
    · exact o2
  have b3 (h : Nat) : s3.obs 0 0 0 h = u.obs 0 0 0 h := by rw [← hs3]; split <;> simp [b2]
  have n3 : stepsNow s3 q (q.x.issuePc.getD 0) = false := by
    rw [← steps]
    have : (s3.chip q.chip).dbg = (u.chip q.chip).dbg := congrArg (fun o : Obs => o.chip.dbg) (b3 q.chip)
    unfold stepsNow
    simp only [this]
  split
  · exact o3
  · rw [n3, Bool.false_and, Bool.false_and, if_neg Bool.false_ne_true]
    exact o3

/-! ### The write queue -/

/-- A core's write queue. -/
def State.queue (s : State) (c : Nat) : Table WqEntry := (s.core c).wq

theorem State.queue_modCore {s : State} {i : Nat} {f : Core → Core} (hf : ∀ x, (f x).wq = x.wq) : (s.modCore i f).queue c = s.queue c := by
  unfold State.queue
  rw [State.core_modCore]
  split
  · next e => rw [hf, e]
  · rfl

theorem State.queue_postOnce (s : State) (e : Event) : (s.postOnce e).queue c = s.queue c := by
  unfold State.postOnce; split <;> rfl

theorem State.queue_ite {s a b : State} (p : Prop) [Decidable p] (ha : a.queue c = s.queue c) (hb : b.queue c = s.queue c) :
    (if p then a else b).queue c = s.queue c := by
  split
  · exact ha
  · exact hb

/-- A change of some waves. -/
theorem State.queue_modWaves (s : State) (ws : List Nat) (f : Wave → Wave) : (ws.foldl (fun s w => s.modWave w f) s).queue c = s.queue c :=
  foldl_eq (o := fun s : State => s.queue c) _ _ fun _ _ _ => rfl

theorem State.queue_acquireL1 (s : State) (i : Nat) (m : BitVec 512) : (s.acquireL1 i m).queue c = s.queue c := by
  unfold State.acquireL1
  exact State.queue_modCore fun _ => rfl

theorem State.queue_liftHalt (s : State) (g : Nat) : (s.liftHalt g).queue c = s.queue c := by
  unfold State.liftHalt
  split
  · rfl
  · exact State.queue_modWaves ..

theorem State.queue_barCheck (s : State) (g : Nat) : (s.barCheck g).queue c = s.queue c := by
  unfold State.barCheck
  split
  · rfl
  · simp only
    split
    · rfl
    · exact State.queue_modWaves ..

theorem State.queue_gbarCheck (s : State) (g : Nat) : (s.gbarCheck g).queue c = s.queue c := by
  unfold State.gbarCheck
  split
  · rfl
  · simp only
    split
    · rfl
    · refine (State.queue_modWaves ..).trans ?_
      exact foldl_eq (o := fun s : State => s.queue c) _ _ fun u i _ => State.queue_acquireL1 u i _

theorem queue_tokenSettle (n : Nat) (s : State) (l : Nat) : (tokenSettle n s l).queue c = s.queue c := by
  induction n generalizing s with
  | zero => rfl
  | succ n ih =>
    unfold tokenSettle
    split
    · rfl
    · simp only
      split
      · split
        · rw [ih]; rfl
        · split
          · rfl
          · rw [ih]; rfl
      · split
        · rw [ih]; rfl
        · split
          · rfl
          · split
            · rw [ih]; rfl
            · rfl

theorem State.queue_waveEnded (s : State) (w : Nat) : (s.waveEnded w).queue c = s.queue c := by
  have token (s : State) (w : Nat) : (s.tokenAgain w).queue c = s.queue c := by
    unfold State.tokenAgain
    split
    · rfl
    · split
      · exact queue_tokenSettle ..
      · rfl
  unfold State.waveEnded
  split
  · rfl
  · split
    · rfl
    · refine State.queue_ite _ ((State.queue_postOnce ..).trans ?_) ?_ <;>
        exact (token ..).trans ((State.queue_gbarCheck ..).trans ((State.queue_barCheck ..).trans
          (State.queue_ite _ ((State.queue_liftHalt ..).trans (State.queue_ite _ (State.queue_ite _ rfl rfl) (State.queue_ite _ rfl rfl)))
            (State.queue_ite _ (State.queue_ite _ rfl rfl) (State.queue_ite _ rfl rfl)))))

theorem State.queue_sample (s : State) (i a n : Nat) : (s.sample i a n).queue c = s.queue c := by
  unfold State.sample
  simp only
  split
  · unfold State.queue
    rw [State.core_setCore]
    split
    · next e => rw [e]
    · rfl
  · rfl

theorem Core.wq_addCycles (x : Core) (a n : Nat) : (x.addCycles a n).wq = x.wq := by
  unfold Core.addCycles; split <;> rfl

theorem State.queue_countIssue (s : State) (i : Nat) (x : Wave) (g a : List Nat) (pc : DWord) : (s.countIssue i x g a pc).queue c = s.queue c := by
  unfold State.countIssue
  refine State.queue_modCore fun y => ?_
  show ((((y.addCycles _ _).addCycles _ _).addCycles _ _).addCycles _ _).wq = _
  simp only [Core.wq_addCycles]

end Sys2Proof.Machine
end

section
/-! SUPPORT. The entries of an atomic: gathered by block, signed and taken in order (08 R175, 18 R378). Serves O27. -/

-- One theorem at a time: many at once ask for more threads than the checker has memory for.
set_option Elab.async false

namespace Sys2Proof.Machine

variable {v c k h : Nat}

/-! ### Entries taken -/

/-- A core with an entry taken under a number. -/
def Core.taken (id : Nat) (e : WqEntry) (c : Core) : Core := { c.dropLine e with wq := Table.put c.wq id e }

/-- An entry of a core's queue is on its way to drain. -/
theorem State.postEntry_eq {β : Type} {o : State → β} (hp : ∀ s e, o (State.post s e) = o s) (s : State) (core id : Nat) (e : WqEntry) :
    o (s.postEntry core id e) = o s := by
  unfold State.postEntry
  split
  · exact hp ..
  · unfold State.postOnce
    split
    · rfl
    · exact hp ..

/-- What taking an entry leaves of an observation. -/
theorem State.takeEntry_eq {β : Type} {o : State → β} (hp : ∀ s e, o (State.post s e) = o s) (hn : ∀ (s : State) n, o { s with serial := n } = o s)
    (s : State) (core : Nat) (e : WqEntry) : o (s.takeEntry core e) = o (s.modCore core (Core.taken s.serial e)) := by
  unfold State.takeEntry
  split
  · exact hn (s.modCore core (Core.taken s.serial e)) _
  · exact (State.postEntry_eq hp ..).trans (hn (s.modCore core (Core.taken s.serial e)) _)

theorem State.serial_takeEntry (s : State) (core : Nat) (e : WqEntry) : (s.takeEntry core e).serial = s.serial + 1 := by
  unfold State.takeEntry
  split
  · rfl
  · exact State.postEntry_eq (o := State.serial) (fun _ _ => rfl) ..

theorem Core.wq_dropLine (c : Core) (e : WqEntry) : (c.dropLine e).wq = c.wq := by
  unfold Core.dropLine; split <;> rfl

theorem Core.data_taken (id : Nat) (e : WqEntry) (c : Core) : (c.taken id e).scratch = c.scratch ∧ (c.taken id e).lines = c.lines := by
  unfold Core.taken Core.dropLine
  split <;> exact ⟨rfl, rfl⟩

theorem State.queue_takeEntry (s : State) (core : Nat) (e : WqEntry) :
    (s.takeEntry core e).queue core = Table.put (s.queue core) s.serial e := by
  rw [State.takeEntry_eq (o := fun s => s.queue core) (fun _ _ => rfl) fun _ _ => rfl]
  unfold State.queue
  rw [State.core_modCore, if_pos rfl]
  rfl

/-- Entries taken one after the other. -/
def State.takes (s : State) (core : Nat) (es : List WqEntry) : State := es.foldl (fun s e => s.takeEntry core e) s

theorem State.shown_takes (s : State) (core : Nat) (es : List WqEntry) : s.Shows (s.takes core es) := fun v c k h =>
  foldl_eq (o := fun s : State => s.shown v c k h) _ _ fun u e _ => (State.takeEntry_eq (o := fun s : State => s.shown v c k h)
    (fun _ _ => rfl) (fun _ _ => rfl) u core e).trans
    (State.shown_modCore (fun x => (x.data_taken _ e).1) fun x => (x.data_taken _ e).2)

theorem State.takes_eq {β : Type} {o : State → β} (hp : ∀ s e, o (State.post s e) = o s) (hn : ∀ (s : State) n, o { s with serial := n } = o s)
    (hc : ∀ s i id e, o (s.modCore i (Core.taken id e)) = o s) (s : State) (core : Nat) (es : List WqEntry) : o (s.takes core es) = o s :=
  foldl_eq (o := o) _ _ fun u e _ => (State.takeEntry_eq hp hn u core e).trans (hc ..)

/-- Each entry stands in the queue under its own number. -/
theorem State.look_takes (s : State) (core : Nat) (es : List WqEntry) :
    (∀ i < s.serial, Table.look ((s.takes core es).queue core) i = Table.look (s.queue core) i) ∧
      ∀ e ∈ es, ∃ i, Table.look ((s.takes core es).queue core) i = some e := by
  induction es generalizing s with
  | nil => exact ⟨fun _ _ => rfl, fun e he => absurd he List.not_mem_nil⟩
  | cons a r ih =>
    obtain ⟨old, new⟩ := ih (s.takeEntry core a)
    rw [State.serial_takeEntry] at old
    have here : (s.takes core (a :: r)) = (s.takeEntry core a).takes core r := rfl
    rw [here]
    refine ⟨fun i hi => ?_, fun e he => ?_⟩
    · rw [old i (by omega), State.queue_takeEntry, Table.look_put_other _ _ (by omega)]
    · rcases List.mem_cons.1 he with rfl | he
      · exact ⟨s.serial, by rw [old _ (by omega), State.queue_takeEntry, Table.look_put_same]⟩
      · exact new e he

theorem Table.length_put {α : Type} (t : Table α) (n : Nat) (x : α) : (Table.put t n x).length ≤ t.length + 1 := by
  induction t with
  | nil => exact Nat.le_refl _
  | cons a r ih =>
    unfold Table.put
    split
    · exact Nat.le_refl _
    · split
      · exact Nat.le_succ _
      · exact Nat.succ_le_succ ih

theorem Table.count_put {α : Type} (p : Nat × α → Bool) (t : Table α) (n : Nat) (x : α) :
    ((Table.put t n x).filter p).length ≤ (t.filter p).length + 1 := by
  simp only [← List.countP_eq_length_filter]
  induction t with
  | nil => exact Nat.le_trans List.countP_le_length (Nat.le_refl _)
  | cons a r ih =>
    obtain ⟨m, y⟩ := a
    unfold Table.put
    split
    · simp only [List.countP_cons]
      split <;> split <;> omega
    · split
      · simp only [List.countP_cons]
        split <;> split <;> omega
      · simp only [List.countP_cons]
        omega

/-- Entries that there is room for are all taken. -/
theorem takeEntries_takes (core w : Nat) (es : List WqEntry) (s : State) (mine : (s.core core).entriesOf w + es.length ≤ 16)
    (all : (s.core core).wq.length + es.length ≤ 96) : takeEntries core w es s = ([], s.takes core es) := by
  induction es generalizing s with
  | nil => rfl
  | cons e r ih =>
    rw [List.length_cons] at mine all
    have room : (s.core core).roomFor w 1 = true := by
      unfold Core.roomFor
      simp only [Bool.and_eq_true, decide_eq_true_eq]
      omega
    have queue : ((s.takeEntry core e).core core).wq = Table.put (s.core core).wq s.serial e := s.queue_takeEntry core e
    unfold takeEntries
    rw [room, if_pos rfl]
    refine ih _ ?_ ?_
    · have := Table.count_put (fun e => decide (e.2.wave = w)) (s.core core).wq s.serial e
      unfold Core.entriesOf at mine ⊢
      rw [queue]
      omega
    · have := Table.length_put (s.core core).wq s.serial e
      rw [queue]
      omega

/-! ### Entries signed -/

/-- A core with another signature table. -/
def Core.withSigs (t : List SigEnt) (c : Core) : Core := { c with sigTab := t }

theorem State.sigRelease_eq {β : Type} {o : State → β} (hn : ∀ (s : State) n, o { s with serial := n } = o s)
    (hs : ∀ s i t, o (State.setCore s i ((s.core i).withSigs t)) = o s) (s : State) (core key : Nat) : o (s.sigRelease core key).2 = o s := by
  unfold State.sigRelease
  simp only
  split
  · exact (hn (s.setCore core ((s.core core).withSigs _)) _).trans (hs ..)
  · exact (hn (s.setCore core ((s.core core).withSigs _)) _).trans (hs ..)

/-- The signatures of entries change the core's signature table only. -/
theorem signEntries_eq {β : Type} {o : State → β} (hn : ∀ (s : State) n, o { s with serial := n } = o s)
    (hs : ∀ s i t, o (State.setCore s i ((s.core i).withSigs t)) = o s) (q : Who) (sc : Option Scope) (es : List WqEntry) (s : State) :
    o (signEntries q sc es s).2 = o s := by
  induction es generalizing s with
  | nil => rfl
  | cons e r ih =>
    unfold signEntries
    cases sc with
    | none => exact ih s
    | some sc =>
      simp only
      split
      · exact (ih _).trans (State.sigRelease_eq hn hs ..)
      · exact ih s

/-- An entry of a wave for a block, released, of a result, that holds an atomic's lane. -/
def WqEntry.holds (e : WqEntry) (w id b : Nat) (a : AtomLane) : Prop :=
  e.wave = w ∧ e.block = b ∧ e.held = false ∧ e.load = some id ∧ a ∈ e.atoms

theorem length_signEntries (q : Who) (sc : Option Scope) (es : List WqEntry) (s : State) : (signEntries q sc es s).1.length = es.length := by
  induction es generalizing s with
  | nil => rfl
  | cons e r ih =>
    unfold signEntries
    exact congrArg (· + 1) (ih _)

theorem holds_signEntries {q : Who} {sc : Option Scope} {es : List WqEntry} {w id b : Nat} {a : AtomLane} (s : State)
    (h : ∃ e ∈ es, e.holds w id b a) : ∃ e ∈ (signEntries q sc es s).1, e.holds w id b a := by
  induction es generalizing s with
  | nil => exact h
  | cons e r ih =>
    obtain ⟨x, hx, holds⟩ := h
    unfold signEntries
    rcases List.mem_cons.1 hx with rfl | hx
    · exact ⟨_, List.mem_cons_self, holds⟩
    · obtain ⟨y, hy, holds⟩ := ih _ ⟨x, hx, holds⟩
      exact ⟨y, List.mem_cons_of_mem _ hy, holds⟩

/-! ### Lanes gathered by block -/

/-- The entries of one instruction of a wave: released, and of its result. -/
def Gathers (w id : Nat) (es : List WqEntry) : Prop := ∀ e ∈ es, e.wave = w ∧ e.held = false ∧ e.load = some id

theorem length_putEntry (new : WqEntry) (f : WqEntry → WqEntry) (es : List WqEntry) : (putEntry new f es).length ≤ es.length + 1 := by
  induction es with
  | nil => exact Nat.le_refl _
  | cons e r ih =>
    unfold putEntry
    split
    · exact Nat.le_succ _
    · exact Nat.succ_le_succ ih

/-- An entry with one more lane. -/
def WqEntry.withLane (a : AtomLane) (e : WqEntry) : WqEntry := { e with atoms := e.atoms ++ [a] }

theorem addAtom_eq (q : Who) (s : State) (p : Part) (load : Option Nat) (a : AtomLane) (es : List WqEntry) :
    addAtom q s p load a es = putEntry { q.entry s p none none false with load } (WqEntry.withLane a) es := rfl

theorem holds_withLane {e : WqEntry} {w id b : Nat} {a : AtomLane} (x : AtomLane) (h : e.holds w id b a) : (e.withLane x).holds w id b a := by
  obtain ⟨wave, block, held, load, mem⟩ := h
  exact ⟨wave, block, held, load, List.mem_append_left _ mem⟩

theorem holds_putEntry {new : WqEntry} {x a : AtomLane} {es : List WqEntry} {w id b : Nat} (h : ∃ e ∈ es, e.holds w id b a) :
    ∃ e ∈ putEntry new (WqEntry.withLane x) es, e.holds w id b a := by
  induction es with
  | nil =>
    obtain ⟨e, he, -⟩ := h
    exact absurd he List.not_mem_nil
  | cons e r ih =>
    obtain ⟨y, hy, holds⟩ := h
    unfold putEntry
    split
    · rcases List.mem_cons.1 hy with rfl | hy
      · exact ⟨_, List.mem_cons_self, holds_withLane x holds⟩
      · exact ⟨y, List.mem_cons_of_mem _ hy, holds⟩
    · rcases List.mem_cons.1 hy with rfl | hy
      · exact ⟨y, List.mem_cons_self, holds⟩
      · obtain ⟨z, hz, holds⟩ := ih ⟨y, hy, holds⟩
        exact ⟨z, List.mem_cons_of_mem _ hz, holds⟩

theorem gathers_putEntry {new : WqEntry} {x : AtomLane} {es : List WqEntry} {w id : Nat} (h : Gathers w id es)
    (hn : new.wave = w ∧ new.held = false ∧ new.load = some id) :
    Gathers w id (putEntry new (WqEntry.withLane x) es) ∧ ∃ e ∈ putEntry new (WqEntry.withLane x) es, e.holds w id new.block x := by
  induction es with
  | nil =>
    refine ⟨fun e he => ?_, _, List.mem_singleton.2 rfl, hn.1, rfl, hn.2.1, hn.2.2, List.mem_append_right _ (List.mem_singleton.2 rfl)⟩
    rw [List.mem_singleton.1 he]
    exact hn
  | cons e r ih =>
    have here := h e List.mem_cons_self
    have rest : Gathers w id r := fun y hy => h y (List.mem_cons_of_mem _ hy)
    unfold putEntry
    split
    · next same =>
      rw [Bool.and_eq_true, decide_eq_true_eq, decide_eq_true_eq] at same
      refine ⟨fun y hy => ?_, _, List.mem_cons_self, here.1, same.2, here.2.1, here.2.2, List.mem_append_right _ (List.mem_singleton.2 rfl)⟩
      rcases List.mem_cons.1 hy with rfl | hy
      · exact here
      · exact rest y hy
    · obtain ⟨all, y, hy, holds⟩ := ih rest
      refine ⟨fun z hz => ?_, y, List.mem_cons_of_mem _ hy, holds⟩
      rcases List.mem_cons.1 hz with rfl | hz
      · exact here
      · exact all z hz

/-- The entries of an atomic's lanes. -/
def gatherAtoms (q : Who) (s : State) (f : ExtArgs) (id : Nat) (good : List (Nat × DWord × List Part)) (es : List WqEntry) : List WqEntry :=
  good.foldl (fun es e => match e.2.2 with
    | p :: _ => addAtom q s p (some id) (s.atomLane q f e.1 p.pa) es
    | [] => es) es

theorem gatherAtoms_spec (q : Who) (s : State) (f : ExtArgs) (id : Nat) (good : List (Nat × DWord × List Part)) (es : List WqEntry)
    (h : Gathers q.w id es) : (gatherAtoms q s f id good es).length ≤ es.length + good.length ∧
      (∀ b a, (∃ e ∈ es, e.holds q.w id b a) → ∃ e ∈ gatherAtoms q s f id good es, e.holds q.w id b a) ∧
      ∀ e ∈ good, ∀ p ps, e.2.2 = p :: ps → ∃ x ∈ gatherAtoms q s f id good es, x.holds q.w id (p.pa / 64) (s.atomLane q f e.1 p.pa) := by
  induction good generalizing es with
  | nil => exact ⟨Nat.le_refl _, fun _ _ h => h, fun e he => absurd he List.not_mem_nil⟩
  | cons g r ih =>
    obtain ⟨l, va, parts⟩ := g
    cases parts with
    | nil =>
      obtain ⟨len, old, new⟩ := ih es h
      refine ⟨Nat.le_trans len (Nat.le_succ _), old, fun e he p ps hp => ?_⟩
      rcases List.mem_cons.1 he with rfl | he
      · cases hp
      · exact new e he p ps hp
    | cons p ps =>
      obtain ⟨all, here⟩ := gathers_putEntry (new := { q.entry s p none none false with load := some id }) (x := s.atomLane q f l p.pa) h
        ⟨rfl, rfl, rfl⟩
      obtain ⟨len, old, new⟩ := ih _ all
      have put := length_putEntry { q.entry s p none none false with load := some id } (WqEntry.withLane (s.atomLane q f l p.pa)) es
      refine ⟨?_, fun b a h => old b a (holds_putEntry h), fun e he p' ps' hp => ?_⟩
      · refine Nat.le_trans len ?_
        rw [List.length_cons]
        omega
      · rcases List.mem_cons.1 he with rfl | he
        · cases hp
          exact old _ _ here
        · exact new e he p' ps' hp

end Sys2Proof.Machine
end

section
/-! An atomic is queued (18 R378, R379). Serves O27. -/

-- One theorem at a time: many at once ask for more threads than the checker has memory for.
set_option Elab.async false

namespace Sys2Proof.Machine

/-! ### The state in which an atomic begins -/

theorem Who.begun_obs (k : Who) (i : Instr) (s : State) (v c j h : Nat) : (k.begun i s).obs v c j h = s.obs v c j h := by
  unfold Who.begun
  split
  · unfold State.commitLanes
    refine (State.obs_modWave fun x => ?_).trans (State.obs_releaseHeld ..)
    exact ⟨Wave.datas_mapLanes fun _ _ => rfl, rfl⟩
  · rfl

theorem Who.statuses_begun (k : Who) (i : Instr) (s : State) (v : Nat) : (k.begun i s).statuses v = s.statuses v := by
  unfold Who.begun
  split
  · unfold State.commitLanes
    have lanes (x : Wave) : (x.mapLanes k.x.group fun _ t => t.commitAt t.pc).statuses = x.statuses := by
      unfold Wave.statuses Wave.mapLanes Wave.mapThreads
      apply List.ext_getElem?
      intro j
      simp only [List.getElem?_map, List.getElem?_mapIdx, Option.map_map]
      congr 1
      funext t
      simp only [Function.comp]
      split <;> rfl
    refine Eq.trans ?_ (congrArg (Option.map Wave.statuses) (s.wave?_releaseHeld k.w v))
    unfold State.statuses
    rw [State.wave?_modWave]
    split
    · next e =>
      rw [Option.map_map, e]
      exact congrArg (Option.map · _) (funext lanes)
    · rfl
  · rfl

/-- A wait that is over where its condition does not hold. -/
theorem eq_of_over {p : Prop} [Decidable p] {a b c : State} (h : (if p then (false, a) else (true, b)) = (true, c)) : c = b := by
  split at h
  · exact absurd (congrArg Prod.fst h) Bool.false_ne_true
  · exact (congrArg Prod.snd h).symm

/-- A wait that is over where its condition holds. -/
theorem eq_of_ended {p : Prop} [Decidable p] {a b c : State} (h : (if p then (true, a) else (false, b)) = (true, c)) : c = a := by
  split at h
  · exact (congrArg Prod.snd h).symm
  · exact absurd (congrArg Prod.fst h) Bool.false_ne_true

theorem State.memberWait_over {s s0 : State} {k : Who} (h : s.memberWait k = (true, s0)) : s0 = s := by
  unfold State.memberWait at h
  simp only at h
  split at h
  · exact eq_of_ended h
  · exact eq_of_ended h

theorem State.regionWait_over {s s0 : State} {k : Who} {va : DWord} (h : s.regionWait k va = (true, s0)) : s0 = s := by
  unfold State.regionWait at h
  exact eq_of_over h

/-- A release whose waits are over leaves the state as it is. -/
theorem State.releaseWait_over {s s0 : State} {k : Who} {sc : Scope} {va : DWord} (h : s.releaseWait k sc va = (true, s0)) : s0 = s := by
  unfold State.releaseWait at h
  split at h
  · exact State.regionWait_over h
  · split at h
    · exact absurd (congrArg Prod.fst h) Bool.false_ne_true
    · split at h
      · exact (congrArg Prod.snd h).symm
      · split at h
        · next e => exact (congrArg Prod.snd h).symm.trans (State.memberWait_over e)
        · exact absurd (congrArg Prod.fst h) Bool.false_ne_true

/-! ### The result of an atomic put off -/

/-- The outstanding result of an atomic. -/
def Who.atomLoad (k : Who) (s : State) (f : ExtArgs) (lanes : List LoadLane) : Load :=
  let w := atomRegs f.md.toNat f.ty
  { kind := .atomic, d := f.d, fmt := { width := regsOf w, bytes := widthBytes w, signed := false }, lanes, acq := f.acquire
    pc := k.x.issuePc.getD 0, seq := k.x.seqno, issued := (s.core k.wg.core).clk, order := s.serial, epoch := s.epoch, got := 0, bad := none }

/-- An atomic's result has its format. -/
def Load.ofAtom (f : ExtArgs) (l : Load) : Load :=
  { l with fmt := { width := regsOf (atomRegs f.md.toNat f.ty), bytes := atomBytes f.md.toNat f.ty, signed := false } }

/-- The state after an atomic's result has been put off. -/
def State.atomDeferred (s : State) (k : Who) (f : ExtArgs) (lanes : List LoadLane) : State :=
  (s.deferred k.w (k.atomLoad s f lanes) f.d (atomRegs f.md.toNat f.ty) (lanes.map LoadLane.lane)).modWave k.w (Wave.mapLoad s.serial (Load.ofAtom f))

/-- The state after its entries have been signed and taken. -/
def State.atomTaken (s : State) (k : Who) (f : ExtArgs) (lanes : List LoadLane) (good : List (Nat × DWord × List Part)) : State :=
  let s' := s.atomDeferred k f lanes
  let es := signEntries k (if f.xb.getLsbD 1 then some f.sc else none) (gatherAtoms k s' f s.serial good []) s'
  es.2.takes k.wg.core es.1

/-- An observation of the wave that signing and taking leave. -/
theorem State.atomTaken_eq {β : Type} {o : State → β} (hp : ∀ s e, o (State.post s e) = o s) (hn : ∀ (s : State) n, o { s with serial := n } = o s)
    (hs : ∀ s i t, o (State.setCore s i ((s.core i).withSigs t)) = o s) (hc : ∀ s i id e, o (s.modCore i (Core.taken id e)) = o s) (s : State) (k : Who)
    (f : ExtArgs) (lanes : List LoadLane) (good : List (Nat × DWord × List Part)) : o (s.atomTaken k f lanes good) = o (s.atomDeferred k f lanes) :=
  (State.takes_eq hp hn hc ..).trans (signEntries_eq hn hs ..)

theorem State.queue_withSigs (s : State) (i : Nat) (t : List SigEnt) {c : Nat} : (s.setCore i ((s.core i).withSigs t)).queue c = s.queue c := by
  unfold State.queue
  rw [State.core_setCore]
  split
  · next e => rw [e]; rfl
  · rfl

theorem Translated.length_good {f : ExtArgs} {s : State} {k : Who} {a : Access} {strong aligned : Bool} {n : Nat} {ls : List (Nat × DWord × Span)}
    {s1 : State} (h : Translated f s k a strong aligned n ls s1) : (goodSpans ls).length ≤ k.x.active.length := by
  have lanes := congrArg List.length (spans_lanes h.2)
  rw [List.length_map, List.length_map, List.length_map] at lanes
  exact lanes ▸ List.length_filterMap_le _ _

/-- The blocks of the lanes are no more than the lanes. -/
theorem blocks_le (good : List (Nat × DWord × List Part)) :
    ((good.flatMap fun e => (e.2.2.take 1).map fun p => p.pa / 64).eraseDups.length) ≤ good.length := by
  refine Nat.le_trans (List.subperm_of_subset (nodup_eraseDups _) fun a h => List.mem_eraseDups.1 h).length_le ?_
  induction good with
  | nil => exact Nat.le_refl _
  | cons e r ih =>
    rw [List.flatMap_cons, List.length_append, List.length_map, List.length_take, List.length_cons]
    omega

theorem atomEff_done {f : ExtArgs} {s s0 s1 : State} {k : Who} {ls : List (Nat × DWord × Span)} (free : k.x.pend.isNone = true)
    (waited : (if f.xb.getLsbD 1 then s.releaseWait k f.sc (s.firstVa k f k.x.active) else (true, s)) = (true, s0))
    (h : Translated f s0 k .atomic false true (atomBytes f.md.toNat f.ty) ls s1) (some : goodSpans ls ≠ []) (order : s1.orderFault k (goodSpans ls) = none)
    (mine : (s1.core k.wg.core).entriesOf k.w + k.x.active.length ≤ 16) (all : (s1.core k.wg.core).wq.length + k.x.active.length ≤ 96) :
    atomEff f k k.x.active s = .done ((s1.atomTaken k f ((goodSpans ls).map fun e => ({ lane := e.1, src := [], va := e.2.1 } : LoadLane)) (goodSpans ls)).parkLanes k
      f.d (atomRegs f.md.toNat f.ty) (Instr.length (.atom f)) (parksOf ls)) := by
  have good := h.length_good
  have blocks := blocks_le (goodSpans ls)
  have fits : ¬ 16 < ((goodSpans ls).flatMap fun e => (e.2.2.take 1).map fun p => p.pa / 64).eraseDups.length := by omega
  have room : (s1.core k.wg.core).roomFor k.w (((goodSpans ls).flatMap fun e => (e.2.2.take 1).map fun p => p.pa / 64).eraseDups.length) = true := by
    unfold Core.roomFor
    simp only [Bool.and_eq_true, decide_eq_true_eq]
    omega
  unfold atomEff
  simp only [Option.isNone_iff_eq_none.1 free, waited, h.2, order, if_neg some, room, if_neg fits, Bool.not_true, Bool.false_eq_true, if_false]
  let s' := s1.atomDeferred k f ((goodSpans ls).map fun e => ({ lane := e.1, src := [], va := e.2.1 } : LoadLane))
  let sc := if f.xb.getLsbD 1 then Option.some f.sc else none
  let es := signEntries k sc (gatherAtoms k s' f s1.serial (goodSpans ls) []) s'
  show es.2.takeAll k f.d (atomRegs f.md.toNat f.ty) (Instr.length (.atom f)) es.1 (parksOf ls) (s.firstVa k f k.x.active) = _
  have count : es.1.length ≤ (goodSpans ls).length :=
    (length_signEntries k sc _ s').symm ▸ (List.length_nil ▸ Nat.zero_add (goodSpans ls).length) ▸
      (gatherAtoms_spec k s' f s1.serial (goodSpans ls) [] fun e he => absurd he List.not_mem_nil).1
  have queue : (es.2.core k.wg.core).wq = (s1.core k.wg.core).wq :=
    signEntries_eq (o := fun s => s.queue k.wg.core) (fun _ _ => rfl) (fun u i t => u.queue_withSigs i t) k sc _ s'
  have taken : takeEntries k.wg.core k.w es.1 es.2 = ([], es.2.takes k.wg.core es.1) := by
    refine takeEntries_takes _ _ _ _ ?_ ?_
    · unfold Core.entriesOf at mine ⊢
      rw [queue]
      omega
    · rw [queue]
      omega
  unfold State.takeAll
  rw [taken]
  rfl


/-! ### What is due, and the clause -/

/-- A group that moves on leaves the queues. -/
theorem State.queue_run {s u : State} {k : Who} {i : Instr} {commit : Bool} (quiet : Quiet s k) (statuses : u.statuses k.w = some k.x.statuses)
    (dbg : (u.chip k.chip).dbg = (s.chip k.chip).dbg) (c : Nat) : ((Eff.done u).run k i commit).queue c = u.queue c := by
  obtain ⟨clear, steps⟩ := quiet
  obtain ⟨y, hy, same⟩ := Option.map_eq_some_iff.1 statuses
  have steps' : stepsNow u k (k.x.issuePc.getD 0) = false := by
    rw [← steps]
    unfold stepsNow
    simp only [dbg]
  exact State.finish_leaves (o := fun s => s.queue c) hy ((Wave.clear_of_statuses same).trans clear) steps' (fun s i a n => s.queue_sample i a n)
    (fun s i x g a pc => s.queue_countIssue i x g a pc) (fun _ _ _ => rfl) (fun s w => s.queue_waveEnded w) fun s e => s.queue_postOnce e

theorem State.shows_atomTaken (s : State) (k : Who) (f : ExtArgs) (lanes : List LoadLane) (good : List (Nat × DWord × List Part)) :
    (s.deferred k.w (k.atomLoad s f lanes) f.d (atomRegs f.md.toNat f.ty) (lanes.map LoadLane.lane)).Shows (s.atomTaken k f lanes good) := by
  intro v c j h
  refine (State.atomTaken_eq (o := fun s => s.shown v c j h) (fun _ _ => rfl) (fun _ _ => rfl) (fun _ _ _ => State.shown_setCore rfl rfl)
    (fun _ _ id e => State.shown_modCore (fun x => (x.data_taken id e).1) fun x => (x.data_taken id e).2) s k f lanes good).trans ?_
  exact State.shown_modWave fun _ => ⟨rfl, rfl⟩

theorem State.statuses_atomTaken (s : State) (k : Who) (f : ExtArgs) (lanes : List LoadLane) (good : List (Nat × DWord × List Part)) :
    (s.atomTaken k f lanes good).statuses k.w = s.statuses k.w :=
  (State.atomTaken_eq (o := fun s => s.statuses k.w) (fun _ _ => rfl) (fun _ _ => rfl) (fun _ _ _ => rfl) (fun _ _ _ _ => rfl) s k f lanes good).trans
    ((State.statuses_modWave (f := Wave.mapLoad s.serial (Load.ofAtom f)) fun _ => rfl).trans (State.statuses_deferred ..))

theorem State.terms_atomTaken {s : State} {k : Who} {x : Wave} (hx : s.wave? k.w = some x) (f : ExtArgs) (lanes : List LoadLane)
    (good : List (Nat × DWord × List Part)) : (s.atomTaken k f lanes good).terms k.w s.serial =
      some ⟨.atomic, f.d, { width := regsOf (atomRegs f.md.toNat f.ty), bytes := atomBytes f.md.toNat f.ty, signed := false }, lanes, f.acquire⟩ := by
  refine (State.atomTaken_eq (o := fun u => u.terms k.w s.serial) (fun _ _ => rfl) (fun _ _ => rfl) (fun _ _ _ => rfl) (fun _ _ _ _ => rfl)
    s k f lanes good).trans ?_
  refine (State.terms_mapLoad _ _ _ _ _ (fun m =>
    { m with fmt := { width := regsOf (atomRegs f.md.toNat f.ty), bytes := atomBytes f.md.toNat f.ty, signed := false } }) fun _ => rfl).trans ?_
  have put : (s.deferred k.w (k.atomLoad s f lanes) f.d (atomRegs f.md.toNat f.ty) (lanes.map LoadLane.lane)).terms k.w s.serial =
      some (k.atomLoad s f lanes).terms := by
    unfold State.terms
    rw [State.loadsOf_deferred hx]
    show (Table.look (Table.put x.loads s.serial (k.atomLoad s f lanes)) s.serial).map Load.terms = _
    rw [Table.look_put_same]
    rfl
  rw [if_pos rfl, put]
  rfl

/-- Each lane of an atomic stands in the queue. -/
theorem State.queued_atomTaken (s : State) (k : Who) (f : ExtArgs) (lanes : List LoadLane) (good : List (Nat × DWord × List Part))
    {e : Nat × DWord × List Part} (he : e ∈ good) {p : Part} {ps : List Part} (hp : e.2.2 = p :: ps) :
    ∃ q ∈ (s.atomTaken k f lanes good).queue k.wg.core, q.2.holds k.w s.serial (p.pa / 64) (s.atomLane k f e.1 p.pa) := by
  obtain ⟨-, -, each⟩ := gatherAtoms_spec k (s.atomDeferred k f lanes) f s.serial good [] fun e he => absurd he List.not_mem_nil
  obtain ⟨x, hx, holds⟩ := holds_signEntries (q := k) (sc := if f.xb.getLsbD 1 then some f.sc else none) (s.atomDeferred k f lanes) (each e he p ps hp)
  obtain ⟨i, hi⟩ := (State.look_takes _ k.wg.core _).2 x hx
  exact ⟨(i, x), Table.mem_of_look hi, holds⟩

theorem atom_issues {f : ExtArgs} {s s0 s1 : State} {k : Who} {ls : List (Nat × DWord × Span)} (ready : Ready (.atom f) s k)
    (waited : (if f.xb.getLsbD 1 then (k.begun (.atom f) s).releaseWait k f.sc ((k.begun (.atom f) s).firstVa k f k.x.active)
      else (true, k.begun (.atom f) s)) = (true, s0)) (free : k.x.pend.isNone = true)
    (h : Translated f s0 k .atomic false true (atomBytes f.md.toNat f.ty) ls s1) (some : goodSpans ls ≠ []) (order : s1.orderFault k (goodSpans ls) = none)
    (mine : (s1.core k.wg.core).entriesOf k.w + k.x.active.length ≤ 16) (all : (s1.core k.wg.core).wq.length + k.x.active.length ≤ 96) :
    ∃ t, exec (.atom f) s = .next t ∧ s1.SameStore t ∧ s1.SameChips t ∧ s.SameSpecial t ∧
      (∀ v l g n, (t.lane v l).reg g n = (s.lane v l).reg g n) ∧
      (Quiet s k → parksOf ls = [] → (t.due k.w s1.serial fun ld => ld.kind = .atomic ∧ ld.d = f.d) ∧
        ∀ e ∈ goodSpans ls, ∀ p ps, e.2.2 = p :: ps → ∃ q ∈ (t.core k.wg.core).wq, q.2.wave = k.w ∧ q.2.block = p.pa / 64 ∧
          q.2.held = false ∧ q.2.load = Option.some s1.serial ∧ s1.atomLane k f e.1 p.pa ∈ q.2.atoms) := by
  let lanes := (goodSpans ls).map fun e => ({ lane := e.1, src := [], va := e.2.1 } : LoadLane)
  let u := s1.atomTaken k f lanes (goodSpans ls)
  let w := u.parkLanes k f.d (atomRegs f.md.toNat f.ty) (Instr.length (.atom f)) (parksOf ls)
  have same : s0 = k.begun (.atom f) s := by
    split at waited
    · exact State.releaseWait_over waited
    · exact (congrArg Prod.snd waited).symm
  have begun (v : Nat) : (s0.wave? v).map Wave.datas = (s.wave? v).map Wave.datas ∧ (s0.wave? v).map Wave.special = (s.wave? v).map Wave.special ∧
      s0.statuses v = s.statuses v := by
    rw [same]
    exact ⟨congrArg Kept.threads (State.Keeps.of_obs (k.begun_obs (.atom f) s) v 0 0 0), congrArg Obs.special (k.begun_obs (.atom f) s v 0 0 0),
      k.statuses_begun (.atom f) s v⟩
  have run : exec (.atom f) s = .next ((Eff.done w).run k (.atom f) (k.commits (.atom f) && !(Instr.atom f).form.stays)) := by
    show Host.Outcome.next (issue (.atom f) s (atomEff f)) = _
    rw [issue_ready ready]
    exact congrArg (fun e : Eff => Host.Outcome.next (e.run k (.atom f) _)) (atomEff_done free waited h some order mine all)
  have off : PutsOff s s1 w k (k.atomLoad s1 f lanes) f.d (atomRegs f.md.toNat f.ty) (lanes.map LoadLane.lane) := by
    refine ⟨fun v => (h.datas v).1.trans (begun v).1, fun v => (h.datas v).2.1.trans (begun v).2.1, fun l hl => ?_, ?_⟩
    · rw [List.map_map] at hl
      obtain ⟨e, he, rfl⟩ := List.mem_map.1 hl
      exact h.good_active he
    · exact (s1.shows_atomTaken k f lanes (goodSpans ls)).trans fun _ _ _ _ => State.shown_parkLanes ..
  refine ⟨_, run, off.sameStore .., off.sameChips .., off.sameSpecial _ _, (off.empties ready _).1, fun quiet none => ?_⟩
  have calm : w = u := by
    show State.parkLanes _ _ _ _ _ (parksOf ls) = u
    rw [none]
    rfl
  have statuses : u.statuses k.w = Option.some k.x.statuses := by
    refine (s1.statuses_atomTaken ..).trans ((h.datas k.w).2.2.trans ((begun k.w).2.2.trans ?_))
    rw [State.statuses, ready.wave]
    rfl
  have dbg : (u.chip k.chip).dbg = (s.chip k.chip).dbg := by
    have shows := (((s1.deferred_leaves k.w (k.atomLoad s1 f lanes) f.d (atomRegs f.md.toNat f.ty) (lanes.map LoadLane.lane)).2.1.trans
      (s1.shows_atomTaken k f lanes (goodSpans ls)).sameChips).dbg k.chip)
    have before : (s0.chip k.chip).dbg = (s.chip k.chip).dbg := by
      rw [same]
      exact congrArg (fun o : Obs => o.chip.dbg) (k.begun_obs (.atom f) s 0 0 0 k.chip)
    exact shows.trans ((congrArg Beside.dbg (h.beside 0 0 k.chip)).trans before)
  have here : (s.wave? k.w).map Wave.datas = Option.some k.x.datas := by rw [ready.wave]; rfl
  obtain ⟨y, hy, -⟩ := Option.map_eq_some_iff.1 ((off.datas k.w).trans here)
  rw [calm]
  obtain ⟨loads, -⟩ := finish_quiet (.atom f) (k.commits (.atom f) && !(Instr.atom f).form.stays) quiet statuses dbg
  have terms := (State.terms_congr loads s1.serial).trans (State.terms_atomTaken hy f lanes (goodSpans ls))
  refine ⟨State.due_of_terms terms fun l hl => ⟨congrArg Terms.kind hl, congrArg Terms.d hl⟩, fun e he p ps hp => ?_⟩
  rw [← State.queue, State.queue_run quiet statuses dbg]
  exact s1.queued_atomTaken k f lanes (goodSpans ls) he hp

end Sys2Proof.Machine
end

section
/-! An atomic of the scratchpad acts at once (18 R380), and `AtomicsIssue`. Serves O27. -/

-- One theorem at a time: many at once ask for more threads than the checker has memory for.
set_option Elab.async false

namespace Sys2Proof.Machine

/-! ### Scratchpad bytes written -/

/-- One byte of a core's scratchpad written; in an owned segment it becomes dirty. -/
def Core.writeByte (a : Nat) (b : Byte) (c : Core) : Core :=
  { c with scratch := Memory.write c.scratch a b
           segs := match Table.look c.segs (a / 4096) with
             | some x => if x.st = .o then Table.put c.segs (a / 4096) { x with dirty := x.dirty ||| ((1#4096) <<< (a % 4096)) } else c.segs
             | none => c.segs }

theorem State.writeScratch_eq (s : State) (bs : List (Nat × Nat)) (xs : List Byte) :
    s.writeScratch bs xs = (bs.zip xs).foldl (fun s e => s.modCore e.1.1 (Core.writeByte e.1.2 e.2)) s := rfl

/-- Scratchpads in their canonical form. -/
def State.padsWf (s : State) : Prop := ∀ c, (s.core c).scratch.wf = true

theorem State.padByte_writeByte {s : State} (wf : s.padsWf) (e : (Nat × Nat) × Byte) :
    (s.modCore e.1.1 (Core.writeByte e.1.2 e.2)).padsWf ∧
      ∀ c a, (s.modCore e.1.1 (Core.writeByte e.1.2 e.2)).padByte c a = if e.1 = (c, a) then e.2 else s.padByte c a := by
  obtain ⟨⟨i, j⟩, b⟩ := e
  refine ⟨fun c => ?_, fun c a => ?_⟩
  · rw [State.core_modCore]
    split
    · exact Memory.write_wf _ _ (wf i)
    · exact wf c
  · unfold State.padByte
    rw [State.core_modCore]
    by_cases core : c = i
    · subst core
      rw [if_pos rfl]
      show Memory.read (Memory.write (s.core c).scratch j b) a = _
      by_cases byte : a = j
      · subst byte
        rw [Memory.read_write_same (wf c), if_pos rfl]
      · rw [Memory.read_write_other (wf c) b byte, if_neg fun h => byte (congrArg Prod.snd h).symm]
    · rw [if_neg core, if_neg fun h => core (congrArg Prod.fst h).symm]

/-- The last byte written to a place stands there. -/
theorem State.padByte_writes {s : State} (wf : s.padsWf) (cs : List ((Nat × Nat) × Byte)) (c a : Nat) :
    (cs.foldl (fun s e => s.modCore e.1.1 (Core.writeByte e.1.2 e.2)) s).padByte c a =
      ((cs.reverse.find? fun e => e.1 = (c, a)).map Prod.snd).getD (s.padByte c a) := by
  induction cs generalizing s with
  | nil => rfl
  | cons e r ih =>
    obtain ⟨wf', byte⟩ := State.padByte_writeByte wf e
    rw [List.foldl_cons, ih wf', byte, List.reverse_cons, List.find?_append]
    cases r.reverse.find? fun e => decide (e.1 = (c, a)) with
    | some x => rfl
    | none =>
      by_cases here : e.1 = (c, a)
      · simp [here]
      · simp [here]

theorem snd_of_mem_zip_map {α β : Type} {g : α → β} {l : List α} {x : α × β} (h : x ∈ l.zip (l.map g)) : x.2 = g x.1 := by
  induction l with
  | nil => exact absurd h List.not_mem_nil
  | cons a r ih =>
    rcases List.mem_cons.1 h with rfl | h
    · rfl
    · exact ih h

/-- Bytes written as they stand leave every byte. -/
theorem padByte_same {s : State} (bs : List (Nat × Nat)) (c a : Nat) :
    (((bs.zip (s.readScratch bs)).reverse.find? fun e => e.1 = (c, a)).map Prod.snd).getD (s.padByte c a) = s.padByte c a := by
  cases found : (bs.zip (s.readScratch bs)).reverse.find? fun e => decide (e.1 = (c, a)) with
  | none => rfl
  | some x =>
    have place : x.1 = (c, a) := of_decide_eq_true (List.find?_some (p := fun e : (Nat × Nat) × Byte => decide (e.1 = (c, a))) found)
    have value := snd_of_mem_zip_map (List.mem_reverse.1 (List.mem_of_find?_eq_some found))
    show x.2 = s.padByte c a
    rw [value, place]
    rfl

/-- Nothing but cores differ. -/
def State.Recored (s t : State) : Prop := ∃ cs, t = { s with cores := cs }

theorem State.Recored.trans {s t u : State} (a : s.Recored t) (b : t.Recored u) : s.Recored u := by
  obtain ⟨cs, rfl⟩ := a
  obtain ⟨ds, rfl⟩ := b
  exact ⟨ds, rfl⟩

theorem State.recored_writeScratch (s : State) (bs : List (Nat × Nat)) (xs : List Byte) : s.Recored (s.writeScratch bs xs) :=
  foldl_keeps (P := fun t => s.Recored t) _ s (fun _ _ _ h => h.trans ⟨_, rfl⟩) ⟨_, rfl⟩

theorem State.recored_fillLinesOf (s : State) (ls : List (Nat × Nat)) : s.Recored (s.fillLinesOf ls) :=
  foldl_keeps (P := fun t => s.Recored t) _ s (fun _ _ _ h => h.trans ⟨_, rfl⟩) ⟨_, rfl⟩

theorem State.recored_tagLines (s : State) (k : Who) (sc : Scope) (ls : List (Nat × Nat)) : s.Recored (s.tagLines k sc ls) := by
  unfold State.tagLines
  split
  · exact ⟨_, rfl⟩
  · exact foldl_keeps (P := fun t => s.Recored t) _ s (fun _ _ _ h => h.trans ⟨_, rfl⟩) ⟨_, rfl⟩

theorem State.padByte_modCore {s : State} {i c a : Nat} {f : Core → Core} (hf : ∀ x, (f x).scratch = x.scratch) :
    (s.modCore i f).padByte c a = s.padByte c a := by
  unfold State.padByte
  rw [State.core_modCore]
  split
  · next e => rw [hf, e]
  · rfl

theorem State.padByte_fillLinesOf (s : State) (ls : List (Nat × Nat)) (c a : Nat) : (s.fillLinesOf ls).padByte c a = s.padByte c a :=
  foldl_eq (o := fun s : State => s.padByte c a) _ _ fun _ l _ => State.padByte_modCore (f := fun c => { c with lines := c.lines ||| ((1#4096) <<< l.2) }) fun _ => rfl

theorem State.padByte_tagLines (s : State) (k : Who) (sc : Scope) (ls : List (Nat × Nat)) (c a : Nat) : (s.tagLines k sc ls).padByte c a = s.padByte c a := by
  unfold State.tagLines
  split
  · rfl
  · next t _ =>
    exact foldl_eq (o := fun s : State => s.padByte c a) _ _ fun _ l _ =>
      State.padByte_modCore (f := fun c => { c with lineTag := Table.put c.lineTag l.2 t }) fun _ => rfl

/-! ### A lane performed -/

/-- The scratchpad after a lane of an atomic. -/
def State.atomlDone (s : State) (k : Who) (f : ExtArgs) (e : ScLane) : State :=
  if f.xb.getLsbD 1 then (s.atomlLane k f e).2.tagLines k f.sc (scratchLines e.bytes) else (s.atomlLane k f e).2

/-- What a lane of an atomic leaves in its bytes. -/
def State.atomlNew (s : State) (k : Who) (f : ExtArgs) (e : ScLane) : List Byte :=
  match (s.atomLane k f e.lane e.off).modify (natOfBytes (s.readScratch e.bytes)) with
  | some v => bytesOfNat (atomBytes f.md.toNat f.ty) v
  | none => s.readScratch e.bytes

theorem State.recored_atomlDone (s : State) (k : Who) (f : ExtArgs) (e : ScLane) : s.Recored (s.atomlDone k f e) := by
  have lane : s.Recored (s.atomlLane k f e).2 := by
    unfold State.atomlLane
    simp only
    split
    · exact s.recored_fillLinesOf _
    · exact (s.recored_writeScratch _ _).trans (State.recored_fillLinesOf ..)
  unfold State.atomlDone
  split
  · exact lane.trans (State.recored_tagLines ..)
  · exact lane

theorem State.padByte_atomlDone {s : State} (wf : s.padsWf) (k : Who) (f : ExtArgs) (e : ScLane) (c a : Nat) : (s.atomlDone k f e).padByte c a =
    (((e.bytes.zip (s.atomlNew k f e)).reverse.find? fun x => x.1 = (c, a)).map Prod.snd).getD (s.padByte c a) := by
  have lane : (s.atomlLane k f e).2.padByte c a =
      (((e.bytes.zip (s.atomlNew k f e)).reverse.find? fun x => x.1 = (c, a)).map Prod.snd).getD (s.padByte c a) := by
    unfold State.atomlLane State.atomlNew
    simp only
    split
    · next none => rw [none, State.padByte_fillLinesOf, padByte_same]
    · next v some =>
      rw [some, State.padByte_fillLinesOf, State.writeScratch_eq, State.padByte_writes wf]
      rfl
  unfold State.atomlDone
  split
  · exact (State.padByte_tagLines ..).trans lane
  · exact lane

/-! ### The clause -/

theorem length_scratchBytes {s : State} {g : Gang} {x : Workgroup} {n : Nat} : ∀ {off : Nat} {bs : List (Nat × Nat)},
    s.scratchBytes g x off n = some bs → bs.length = n := by
  induction n with
  | zero => intro off bs h; cases h; rfl
  | succ n ih =>
    intro off bs h
    unfold State.scratchBytes at h
    cases hb : s.scratchByte g x (off % 2 ^ 32) with
    | none => rw [hb] at h; cases h
    | some b =>
      cases hr : s.scratchBytes g x (off + 1) n with
      | none => rw [hb, hr] at h; cases h
      | some r =>
        rw [hb, hr] at h
        cases h
        exact congrArg (· + 1) (ih hr)

theorem bytesOfNat_natOfBytes {n : Nat} {bs : List Byte} (h : bs.length = n) : bytesOfNat n (natOfBytes bs) = bs := by
  refine natOfBytes_inj ((bytesOfNat_length ..).trans h.symm) ?_
  rw [natOfBytes_bytesOfNat]
  exact Nat.mod_eq_of_lt (h ▸ natOfBytes_lt bs)

/-- A segment whose page refuses its refetch is in T. -/
theorem State.refused_inT {s : State} {bs : List (Nat × Nat)} (h : s.inT bs = false) : ((segsOf bs).any fun i => s.refused i.1 i.2) = false := by
  unfold State.inT at h
  rw [List.any_eq_false] at h ⊢
  intro e he refused
  refine h e he ?_
  unfold State.refused Seg.due at refused
  simp only [Bool.and_eq_true] at refused
  exact refused.1.1.1.1

/-- The one lane of an atomic of the scratchpad, and its result. -/
theorem atomlEff_done {f : ExtArgs} {s s1 : State} {k : Who} {l : Nat} {bs : List (Nat × Nat)}
    (waited : (if f.xb.getLsbD 1 then s.releaseWait k f.sc 0 else (true, s)) = (true, s1))
    (inside : s1.scratchBytes k.g k.wg (s1.laneOff k f l) (atomBytes f.md.toNat f.ty) = some bs)
    (aligned : s1.laneOff k f l % atomBytes f.md.toNat f.ty = 0) (shared : s1.inS bs = false) (kept : s1.lostSeg bs = false) (bound : s1.inT bs = false)
    (first : s1.padFirst k bs = false) (full : (scratchLines bs).all s1.lineFull = true) : ∃ bad,
      atomlEff f k [l] s = .done ((s1.atomlDone k f { lane := l, off := s1.laneOff k f l, bytes := bs, bad := none }).deferScratch k f.d
        (atomRegs f.md.toNat f.ty) { width := regsOf (atomRegs f.md.toNat f.ty), bytes := atomBytes f.md.toNat f.ty, signed := false }
        [{ lane := l, va := BitVec.ofNat 64 (s1.laneOff k f l), src := (s1.readScratch bs).map ByteSrc.val }] f.acquire (BitVec.allOnes 512) bad) := by
  have lanes : s1.scLanes k (atomBytes f.md.toNat f.ty) true true [(l, s1.laneOff k f l)] =
      [{ lane := l, off := s1.laneOff k f l, bytes := bs, bad := none }] := by
    unfold State.scLanes
    simp only [List.map_cons, List.map_nil, inside, aligned, shared, State.refused_inT bound, ne_eq, not_true_eq_false, decide_false, Bool.and_false,
      Bool.or_false, Bool.false_eq_true, if_false]
  have bytes : bytesOfNat (atomBytes f.md.toNat f.ty) (natOfBytes (s1.readScratch bs)) = s1.readScratch bs :=
    bytesOfNat_natOfBytes ((List.length_map ..).trans (length_scratchBytes inside))
  refine ⟨s1.scratchTag k f.acquire [{ lane := l, off := s1.laneOff k f l, bytes := bs, bad := none }], ?_⟩
  have go (go : State → Eff) : scFullHold k f.ea (Instr.length (.atoml f)) [{ lane := l, off := s1.laneOff k f l, bytes := bs, bad := none }] s1 go = go s1 := by
    unfold scFullHold
    refine (scHold_go ?_ ?_ ?_).trans ?_
    · simp [kept]
    · simpa using bound
    · simpa using first
    · simp [full]
  unfold atomlEff
  simp only [waited, List.map_cons, List.map_nil, lanes]
  have all : [({ lane := l, off := s1.laneOff k f l, bytes := bs, bad := none } : ScLane)].filter (fun e => e.bad.isNone) =
      [{ lane := l, off := s1.laneOff k f l, bytes := bs, bad := none }] := rfl
  rw [all, go]
  simp only [List.cons_ne_nil, if_false, List.flatMap_cons, List.flatMap_nil, List.append_nil, atomlLanes]
  rw [State.parkSc_none _ _ _ _ _ rfl]
  rw [← bytes]
  rfl

theorem atoml_issues {f : ExtArgs} {s s1 : State} {k : Who} {l : Nat} {bs : List (Nat × Nat)} {new : List Byte} (one : k.x.active = [l])
    (ready : Ready (.atoml f) s k)
    (waited : (if f.xb.getLsbD 1 then (k.begun (.atoml f) s).releaseWait k f.sc 0 else (true, k.begun (.atoml f) s)) = (true, s1))
    (inside : s1.scratchBytes k.g k.wg (s1.laneOff k f l) (atomBytes f.md.toNat f.ty) = some bs)
    (aligned : s1.laneOff k f l % atomBytes f.md.toNat f.ty = 0) (shared : s1.inS bs = false) (kept : s1.lostSeg bs = false) (bound : s1.inT bs = false)
    (first : s1.padFirst k bs = false) (full : (scratchLines bs).all s1.lineFull = true) (wf : s.canonical = true)
    (hnew : s1.atomlNew k f { lane := l, off := s1.laneOff k f l, bytes := bs, bad := none } = new) :
    ∃ t, exec (.atoml f) s = .next t ∧ (∀ a, t.byte a = s.byte a) ∧ s.SameSpecial t ∧ s.SameChips t ∧
      (∀ v i g n, (t.lane v i).reg g n = (s.lane v i).reg g n) ∧
      (∀ c a, t.padByte c a = (((bs.zip new).reverse.find? fun e => e.1 = (c, a)).map Prod.snd).getD (s.padByte c a)) ∧
      (Quiet s k → .loadReturn k.w s1.serial ∈ t.agenda ∧ t.due k.w s1.serial fun ld => ld.d = f.d ∧
        ∃ lane, ld.lanes = [lane] ∧ lane.lane = l ∧ lane.src = (s1.readScratch bs).map ByteSrc.val) := by
  obtain ⟨bad, done⟩ := atomlEff_done waited inside aligned shared kept bound first full
  let e : ScLane := { lane := l, off := s1.laneOff k f l, bytes := bs, bad := none }
  let lane : LoadLane := { lane := l, va := BitVec.ofNat 64 (s1.laneOff k f l), src := (s1.readScratch bs).map ByteSrc.val }
  let wd := atomRegs f.md.toNat f.ty
  let fmt : LoadFmt := { width := regsOf wd, bytes := atomBytes f.md.toNat f.ty, signed := false }
  let a := s1.atomlDone k f e
  let u := a.deferScratch k f.d wd fmt [lane] f.acquire (BitVec.allOnes 512) bad
  have same : s1 = k.begun (.atoml f) s := by
    split at waited
    · exact State.releaseWait_over waited
    · exact (congrArg Prod.snd waited).symm
  have obs (v c j h : Nat) : s1.obs v c j h = s.obs v c j h := same ▸ k.begun_obs (.atoml f) s v c j h
  have scratch (c : Nat) : (s1.core c).scratch = (s.core c).scratch := congrArg (fun o : Obs => o.core.scratch) (obs 0 c 0 0)
  have recored : s1.Recored a := s1.recored_atomlDone k f e
  have waves (v : Nat) : a.wave? v = s1.wave? v := by obtain ⟨cs, h⟩ := recored; rw [h]; rfl
  have chips (c : Nat) : a.chip c = s1.chip c := by obtain ⟨cs, h⟩ := recored; rw [h]; rfl
  have mem : a.mem = s1.mem := by obtain ⟨cs, h⟩ := recored; rw [h]
  have serial : a.serial = s1.serial := by obtain ⟨cs, h⟩ := recored; rw [h]
  have run : exec (.atoml f) s = .next ((Eff.done u).run k (.atoml f) (k.commits (.atoml f) && !(Instr.atoml f).form.stays)) := by
    show Host.Outcome.next (issue (.atoml f) s (atomlEff f)) = _
    rw [issue_ready ready, one]
    exact congrArg (fun e : Eff => Host.Outcome.next (e.run k (.atoml f) _)) done
  have chipsSame : s.SameChips a := (State.sameChips_of_obs obs).trans
    ⟨fun c => by rw [chips], fun c => by rw [chips], fun c => by rw [chips], fun c => by rw [chips]⟩
  have off : PutsOff s a u k (k.scratchLoad a f.d wd [lane] f.acquire) f.d wd ([lane].map LoadLane.lane) := by
    refine ⟨fun v => ?_, fun v => ?_, fun i hi => ?_, a.shows_deferScratch k f.d wd fmt [lane] f.acquire _ bad⟩
    · rw [waves]
      exact congrArg Obs.threads (obs v 0 0 0)
    · rw [waves]
      exact congrArg Obs.special (obs v 0 0 0)
    · rw [one]
      exact hi
  have store := off.sameStore (.atoml f) (k.commits (.atoml f) && !(Instr.atoml f).form.stays)
  have padsWf : s1.padsWf := fun c => (scratch c).symm ▸ State.canonical_scratch wf c
  refine ⟨_, run, fun b => (store.mem b).trans ?_, off.sameSpecial _ _, chipsSame.trans (off.sameChips ..), (off.empties ready _).1, fun c b => ?_,
    fun quiet => ?_⟩
  · have before : s1.mem = s.mem := congrArg Obs.mem (obs 0 0 0 0)
    unfold State.byte
    rw [mem, before]
  · have before : s1.padByte c b = s.padByte c b := by unfold State.padByte; rw [scratch]
    rw [store.scratch, ← before, ← hnew]
    exact State.padByte_atomlDone padsWf k f e c b
  · have statuses : u.statuses k.w = some k.x.statuses := by
      refine (a.statuses_deferScratch k f.d wd fmt [lane] f.acquire _ bad).trans ?_
      unfold State.statuses
      rw [waves, ← State.statuses, same, k.statuses_begun, State.statuses, ready.wave]
      rfl
    have dbg : (u.chip k.chip).dbg = (s.chip k.chip).dbg :=
      ((a.deferred_leaves k.w (k.scratchLoad a f.d wd [lane] f.acquire) f.d wd ([lane].map LoadLane.lane)).2.1.trans
        off.shows.sameChips).dbg k.chip |>.trans (chipsSame.dbg k.chip)
    have here : (s.wave? k.w).map Wave.datas = some k.x.datas := by rw [ready.wave]; rfl
    obtain ⟨y, hy, -⟩ := Option.map_eq_some_iff.1 ((off.datas k.w).trans here)
    obtain ⟨loads, events⟩ := finish_quiet (.atoml f) (k.commits (.atoml f) && !(Instr.atoml f).form.stays) quiet statuses dbg
    have terms := (State.terms_congr loads a.serial).trans (State.terms_deferScratch hy f.d wd fmt [lane] f.acquire _ bad)
    rw [← serial]
    exact ⟨events _ (List.mem_append_right _ (List.mem_singleton.2 rfl)), State.due_of_terms terms fun ld hl =>
      ⟨congrArg Terms.d hl, lane, congrArg Terms.lanes hl, rfl, rfl⟩⟩

/-- Settles O27: an atomic's lanes are gathered by block and taken while there is room, which shows no more than the empty destination; the one lane of
a scratchpad atomic writes its bytes before its result is put off. -/
theorem atomicsIssue : Obligations.AtomicsIssue := by
  unfold Obligations.AtomicsIssue
  exact ⟨fun f s k s0 ls s1 ready waited free h some order mine all => atom_issues ready waited free h some order mine all,
    fun f s k s1 l one ready waited bs inside aligned shared kept bound first full wf =>
      atoml_issues one ready waited inside aligned shared kept bound first full wf rfl⟩

end Sys2Proof.Machine
end

section
/-! SUPPORT. What a transfer's reading and its destination's translation leave: registers, and the copy but for the bytes it has seen
(13 R275). Serves O37. -/

-- One theorem at a time: many at once ask for more threads than the checker has memory for.
set_option Elab.async false

namespace Sys2Proof.Machine

variable {v c d : Nat}

/-! ### Host lines read -/

theorem State.beside_delLine (s : State) (i n : Nat) : (s.modChip i fun x => { x with hostLines := Table.del x.hostLines n }).beside v c d = s.beside v c d :=
  State.beside_modChip (fun _ => rfl) fun _ => rfl

theorem State.beside_evictLine (s : State) (i n : Nat) : (s.evictLine i n).beside v c d = s.beside v c d := by
  have gone (s : State) : (s.hostGone n).beside v c d = s.beside v c d := by
    unfold State.hostGone
    split
    · rfl
    · split <;> rfl
  unfold State.evictLine
  refine (gone _).trans ((foldl_eq (o := fun s => s.beside v c d) _ _ fun s i _ => s.beside_delLine i n).trans ?_)
  exact State.beside_ite _ rfl rfl

theorem State.beside_hostRooms (s : State) (i n : Nat) : (s.hostRooms i n).beside v c d = s.beside v c d := by
  have room (s : State) (i : Nat) : (s.hostRoom i n).beside v c d = s.beside v c d := by
    unfold State.hostRoom
    split
    · rfl
    · exact State.beside_ite _ rfl (State.beside_evictLine ..)
  exact (room _ _).trans (room _ _)

theorem State.beside_shareLine (s : State) (n i : Nat) : (s.shareLine n i).beside v c d = s.beside v c d := by
  unfold State.shareLine
  split
  · exact State.beside_modChip (fun _ => rfl) fun _ => rfl
  · exact State.beside_modChip (fun _ => rfl) fun _ => rfl
  · rfl

theorem State.beside_takeLine (s : State) (i n : Nat) (others : Bool) : (s.takeLine i n others).beside v c d = s.beside v c d :=
  (show _ = (s.modChip i fun x => { x with hostLines := Table.put x.hostLines n (s.takenSt others) }).beside v c d from rfl).trans
    (State.beside_modChip (fun _ => rfl) fun _ => rfl)

theorem State.beside_hostRead (s : State) (i n : Nat) : (s.hostRead i n).beside v c d = s.beside v c d := by
  cases out : s.hostSt (s.hostCache i) n with
  | some st => rw [State.hostRead_cached (by rw [out]; rfl)]
  | none =>
    rw [State.hostRead_eq out]
    refine Eq.trans ?_ (s.beside_hostRooms (s.hostCache i) n)
    unfold State.fillLine
    exact (State.beside_takeLine ..).trans (foldl_eq (o := fun s => s.beside v c d) (g := fun s c => s.shareLine n c) (List.range 8)
      (s.hostRooms (s.hostCache i) n) fun u a _ => u.beside_shareLine n a)

/-! ### A transfer's bytes -/

theorem State.beside_enginePart {s s1 : State} {ctx : XCtx} {a : Access} {va n : Nat} {ps : List Part} (still : s.inFlight = 0)
    (h : s.enginePart ctx a va n = (.ok ps, s1)) (v c d : Nat) : s1.beside v c d = s.beside v c d := by
  have span := State.beside_span still ctx a false (BitVec.ofNat 64 va) n v c d
  unfold State.enginePart at h
  generalize s.span ctx a false (BitVec.ofNat 64 va) n = q at h span
  obtain ⟨y, t⟩ := q
  cases y with
  | parts ps => cases h; exact span
  | park c => cases h
  | page va => cases h
  | wait => cases h

theorem State.beside_engineBytes {s s1 : State} {chip : Nat} {ps : List Part} {bs : List Byte} (h : s.engineBytes chip ps = (.ok bs, s1)) (v c d : Nat) :
    s1.beside v c d = s.beside v c d := by
  unfold State.engineBytes at h
  simp only at h
  split at h
  · cases h
  · split at h
    · cases h
    · split at h
      · cases h
      · cases h
        exact foldl_eq (o := fun s => s.beside v c d) _ _ fun s p _ => State.beside_hostRead ..

theorem State.beside_engineRead {s s1 : State} {core : Nat} {ctx : XCtx} {q : Copy} {va n : Nat} {bs : List Byte} (still : s.inFlight = 0)
    (h : s.engineRead core ctx q va n = (.ok bs, s1)) (v c d : Nat) : s1.beside v c d = s.beside v c d := by
  unfold State.engineRead at h
  cases hp : s.enginePart ctx .read va n with
  | mk e t =>
    rw [hp] at h
    cases e with
    | error e => cases h
    | ok ps =>
      simp only at h
      split at h
      · exact (State.beside_engineBytes h v c d).trans (State.beside_enginePart still hp v c d)
      · cases h

theorem State.beside_pieceFetch {s s1 : State} {core : Nat} {q : Copy} {p : Piece} {bs : List Byte} (still : s.inFlight = 0)
    (h : s.pieceFetch core q p = (.ok bs, s1)) (v c d : Nat) : s1.beside v c d = s.beside v c d := by
  unfold State.pieceFetch at h
  split at h
  · exact State.beside_engineRead still h v c d
  · split at h
    · cases h; rfl
    · split at h
      · cases h
      · split at h
        · split at h <;> cases h
        · split at h
          · cases h
          · split at h
            · cases h; rfl
            · cases h
  · cases h; rfl
  · cases h; rfl

/-! ### The copy -/

/-- What is left of a copy to be moved, and whether an update of its is on its way. -/
def Copy.course (q : Copy) : List Piece × Option (Nat × Nat) := (q.pieces, q.sent)

def State.course (s : State) (core id : Nat) : Option (List Piece × Option (Nat × Nat)) := (Table.look (s.core core).copies id).map Copy.course

/-- The copies of a core changed under a number. -/
def Core.mapCopy (id : Nat) (f : Copy → Copy) (x : Core) : Core := { x with copies := Table.modify x.copies id f }

theorem State.course_mapCopy {s : State} {core id : Nat} {f : Copy → Copy} (g : List Piece × Option (Nat × Nat) → List Piece × Option (Nat × Nat))
    (hf : ∀ q, (f q).course = g q.course) : (s.modCore core (Core.mapCopy id f)).course core id = (s.course core id).map g := by
  unfold State.course
  rw [State.core_modCore, if_pos rfl]
  show (Table.look (Table.modify (s.core core).copies id f) id).map Copy.course = _
  rw [Table.look_modify, if_pos rfl, Option.map_map, Option.map_map]
  exact congrArg (Option.map · _) (funext hf)

theorem State.course_mapCopy_same {s : State} {core id : Nat} {f : Copy → Copy} (hf : ∀ q, (f q).course = q.course) :
    (s.modCore core (Core.mapCopy id f)).course core id = s.course core id := by
  rw [State.course_mapCopy (fun x => x) hf]
  exact Option.map_id' ..

theorem State.course_modCore {s : State} {core id i : Nat} {f : Core → Core} (hf : ∀ x, (f x).copies = x.copies) :
    (s.modCore i f).course core id = s.course core id := by
  unfold State.course
  rw [State.core_modCore]
  split
  · next e => rw [hf, e]
  · rfl

theorem State.course_of_beside {s t : State} {core : Nat} (h : t.beside 0 core 0 = s.beside 0 core 0) (id : Nat) : t.course core id = s.course core id :=
  congrArg (fun x : Core => (Table.look x.copies id).map Copy.course) (congrArg Beside.core h)

theorem State.datas_of_beside {s t : State} {v : Nat} (h : t.beside v 0 0 = s.beside v 0 0) :
    (t.wave? v).map Wave.datas = (s.wave? v).map Wave.datas := by
  have wave : (t.wave? v).map Wave.unfired = (s.wave? v).map Wave.unfired := congrArg Beside.wave h
  have through (o : Option Wave) : (o.map Wave.unfired).map Wave.datas = o.map Wave.datas := by
    rw [Option.map_map]
    rfl
  rw [← through, wave, through]

/-- A state that a copy's engine reaches from another before it moves bytes: the registers, the copy's course, nothing in flight. -/
structure State.Reads (s t : State) (core id : Nat) : Prop where
  datas : ∀ v, (t.wave? v).map Wave.datas = (s.wave? v).map Wave.datas
  course : t.course core id = s.course core id
  still : t.inFlight = 0

theorem State.Reads.of_beside {s t : State} {core id : Nat} (still : s.inFlight = 0) (h : ∀ v c d, t.beside v c d = s.beside v c d) :
    s.Reads t core id :=
  ⟨fun v => State.datas_of_beside (h v 0 0), State.course_of_beside (h 0 core 0) id, (State.inFlight_of_beside fun d => h 0 0 d).trans still⟩

theorem State.Reads.trans {s t u : State} {core id : Nat} (a : s.Reads t core id) (b : t.Reads u core id) : s.Reads u core id :=
  ⟨fun v => (b.datas v).trans (a.datas v), b.course.trans a.course, b.still⟩

/-- A copy that has seen bytes. -/
def Copy.sees (keep : List (Nat × Byte)) (q : Copy) : Copy := { q with seen := keep.foldl (fun t e => Table.put t e.1 e.2) q.seen }

/-- The bytes that a copy has read, those that it read before as it read them then. -/
def Copy.reading (q : Copy) (p : Piece) (bs : List Byte) : List (Nat × Byte) :=
  let as := (List.range p.len).map fun i => p.src + i
  let bs := (as.zip bs).map fun e => Table.at q.seen e.1 e.2
  if p.sspace ≤ 1 then (as.zip bs).filter fun e => q.readsAgain p e.1 else []

theorem pieceRead_reads {s s1 : State} {core id : Nat} {q : Copy} {p : Piece} {bs : List Byte} (still : s.inFlight = 0)
    (h : s.pieceRead core id q p = (.ok bs, s1)) : s.Reads s1 core id := by
  unfold State.pieceRead at h
  simp only at h
  split at h
  · cases h
    exact ⟨fun _ => rfl, rfl, still⟩
  · cases hf : s.pieceFetch core q p with
    | mk e t =>
      rw [hf] at h
      cases e with
      | error e => cases h
      | ok xs =>
        have fetched : s.Reads t core id := .of_beside still fun v c d => State.beside_pieceFetch still hf v c d
        have sees (keep : List (Nat × Byte)) : t.Reads (if keep = [] then t else t.modCore core (Core.mapCopy id (Copy.sees keep))) core id := by
          split
          · exact ⟨fun _ => rfl, rfl, fetched.still⟩
          · exact ⟨fun _ => rfl, State.course_mapCopy_same fun _ => rfl, fetched.still⟩
        simp only [Prod.mk.injEq] at h
        obtain ⟨-, rfl⟩ := h
        exact fetched.trans (sees (q.reading p xs))

theorem copyMayWrite_true {s t : State} {core id : Nat} {q : Copy} {pa : Nat} (h : s.copyMayWrite core id q pa = (true, t)) : t = s := by
  unfold State.copyMayWrite at h
  simp only at h
  split at h
  · cases h
  · split at h
    · cases h
    · split at h
      · cases h
      · cases h
        rfl

theorem copyDest_reads {s s2 : State} {core id : Nat} {c : Copy} {p : Piece} {q : Part} (still : s.inFlight = 0)
    (h : s.copyDest core id c p = (.ok q, s2)) : s.Reads s2 core id := by
  unfold State.copyDest at h
  cases hp : s.enginePart (s.copyCtx core c) .write p.dst p.len with
  | mk e t =>
    rw [hp] at h
    cases e with
    | error e => cases h
    | ok ps =>
      have part : s.Reads t core id := .of_beside still fun v c d => State.beside_enginePart still hp v c d
      cases ps with
      | nil => cases h
      | cons y r =>
        simp only at h
        split at h
        · cases h
        · split at h
          · cases h
          · split at h
            · split at h
              · cases h
              · split at h
                · cases h; exact part
                · cases h
            · split at h
              · cases h
              · split at h
                · cases h; exact part
                · split at h
                  · cases h
                  · cases hm : t.copyMayWrite core id c y.pa with
                    | mk b u =>
                      rw [hm] at h
                      cases b with
                      | false => cases h
                      | true =>
                        cases h
                        exact copyMayWrite_true hm ▸ part

end Sys2Proof.Machine
end

section
/-! A transfer moves its bytes into scratchpad, and a copy with nothing left retires (13 R274, R275, R286). Serves O37. -/

-- One theorem at a time: many at once ask for more threads than the checker has memory for.
set_option Elab.async false

namespace Sys2Proof.Machine

/-! ### A transfer done with -/

theorem State.barsOf_none (s : State) {q : Copy} (h : q.bar = none) : s.barsOf q = [] := by
  unfold State.barsOf State.copyBars
  rw [h]

theorem State.course_dirDrop (s : State) (f : DirWait → Bool) (core id : Nat) : (s.dirDrop f).course core id = s.course core id :=
  State.dirDrop_eq (o := fun s => s.course core id) (fun _ _ => rfl) (fun s e => by unfold State.postOnce; split <;> rfl) (fun _ _ _ => rfl) s f

/-- The first transfer is done with: what is left, and the next one due. -/
theorem State.dropPiece_leaves {s : State} {core id : Nat} {ps : List Piece} {x : Option (Nat × Nat)} (h : s.course core id = some (ps, x)) :
    s.Keeps (s.dropPiece core id true) ∧ (s.dropPiece core id true).course core id = some (ps.drop 1, none) ∧
      .copyTransfer core id ∈ (s.dropPiece core id true).agenda := by
  refine ⟨fun v c k i => ?_, ?_, List.mem_append_right _ (List.mem_singleton.2 rfl)⟩
  · refine (State.kept_dirDrop (s.modCore core (Core.mapCopy id fun q => s.nextAfter q true)) _).trans ?_
    exact State.kept_modCore (fun _ => rfl) fun _ => rfl
  · refine ((s.modCore core (Core.mapCopy id fun q => s.nextAfter q true)).course_dirDrop _ core id).trans ?_
    rw [State.course_mapCopy (fun y => (y.1.drop 1, none)) fun _ => rfl, h]
    rfl

/-- A transfer without a barrier that moves its bytes. -/
theorem copyTransfer_moves {core id : Nat} {s u : State} {q : Copy} {p : Piece} {r : List Piece} (look : Table.look (s.core core).copies id = some q)
    (page : q.page = none) (pieces : q.pieces = p :: r) (port : q.port = none) (sent : q.sent = none) (bar : q.bar = none) (space : p.dspace ≠ 4)
    (moved : s.movePiece core id q p = (.ok (), u)) (course : u.course core id = some (p :: r, none)) :
    exec (.copyTransfer core id) s = .next (u.dropPiece core id true) := by
  show execCopyTransfer core id s = _
  have unsent : ((Table.look (u.core core).copies id).bind fun c => c.sent).isSome = false := by
    unfold State.course at course
    obtain ⟨y, hy, hc⟩ := Option.map_eq_some_iff.1 course
    rw [hy]
    show y.sent.isSome = false
    rw [show y.sent = none from congrArg Prod.snd hc]
    rfl
  have ready : s.barsReady q = true := by
    unfold State.barsReady
    rw [s.barsOf_none bar]
    rfl
  have next : s.nextPiece core id q p = u.dropPiece core id true := by
    unfold State.nextPiece
    simp only [sent, ready, Bool.not_true, Bool.false_eq_true, if_false, moved, unsent, space, State.countBytes, u.barsOf_none bar, List.foldl_nil]
  unfold execCopyTransfer
  simp only [look, page, pieces, port, next]

/-- What is left, and that the next transfer is due. -/
theorem rest_of_course {t : State} {core id : Nat} {r : List Piece} (h : t.course core id = some (r, none)) :
    (Table.look (t.core core).copies id).map Copy.pieces = some r := by
  unfold State.course at h
  have := congrArg (Option.map Prod.fst) h
  rwa [Option.map_map] at this

/-! ### Bytes into scratchpad -/

theorem State.course_writeScratch (s : State) (bs : List (Nat × Nat)) (xs : List Byte) (core id : Nat) :
    (s.writeScratch bs xs).course core id = s.course core id := by
  rw [State.writeScratch_eq]
  exact foldl_eq (o := fun s : State => s.course core id) _ _ fun _ e _ => State.course_modCore (f := Core.writeByte e.1.2 e.2) fun _ => rfl

/-- A core with a line set full. -/
def Core.fillLine (l : Nat) (x : Core) : Core := { x with lines := x.lines ||| ((1#4096) <<< l) }

theorem State.fillLinesOf_eq (s : State) (ls : List (Nat × Nat)) : s.fillLinesOf ls = ls.foldl (fun s l => s.modCore l.1 (Core.fillLine l.2)) s := rfl

theorem State.course_fillLinesOf (s : State) (ls : List (Nat × Nat)) (core id : Nat) : (s.fillLinesOf ls).course core id = s.course core id := by
  rw [State.fillLinesOf_eq]
  exact foldl_eq (o := fun s : State => s.course core id) _ _ fun _ l _ => State.course_modCore (f := Core.fillLine l.2) fun _ => rfl

/-- The lines named are full, and no line is emptied. -/
theorem State.lineFull_fillLinesOf (s : State) (ls : List (Nat × Nat)) {l : Nat × Nat} (inside : l.2 < 4096) (h : l ∈ ls ∨ s.lineFull l = true) :
    (s.fillLinesOf ls).lineFull l = true := by
  rw [State.fillLinesOf_eq]
  induction ls generalizing s with
  | nil => exact h.resolve_left List.not_mem_nil
  | cons a r ih =>
    refine ih _ ?_
    rw [List.mem_cons] at h
    by_cases here : l = a
    · right
      subst here
      unfold State.lineFull
      rw [State.core_modCore, if_pos rfl]
      unfold Core.fillLine
      simp [inside]
    · rcases h with (h | h) | h
      · exact absurd h here
      · exact .inl h
      · right
        unfold State.lineFull at h ⊢
        rw [State.core_modCore]
        split
        · next e =>
          unfold Core.fillLine
          rw [BitVec.getLsbD_or, ← e, h]
          rfl
        · exact h

theorem State.recored_scratchStore (s : State) (q : Copy) (p : Piece) (d : List (Nat × Nat)) (bs : List Byte) : s.Recored (s.scratchStore q p [d] bs) := by
  unfold State.scratchStore
  simp only [List.foldl_cons, List.foldl_nil]
  split
  · exact s.recored_writeScratch d bs
  · exact (s.recored_writeScratch d bs).trans (State.recored_fillLinesOf ..)

theorem State.pieceLines_recored {s t : State} (h : s.Recored t) (p : Piece) : t.pieceLines p = s.pieceLines p := by
  obtain ⟨cs, rfl⟩ := h
  rfl

theorem State.scratchStore_writes {s : State} (wf : s.padsWf) (q : Copy) (p : Piece) (d : List (Nat × Nat)) (bs : List Byte) (core id : Nat) :
    s.PadWrites (s.scratchStore q p [d] bs) (d.zip bs) ∧ (s.scratchStore q p [d] bs).course core id = s.course core id := by
  unfold State.scratchStore
  simp only [List.foldl_cons, List.foldl_nil]
  have pads (c a : Nat) : (s.writeScratch d bs).padByte c a = (((d.zip bs).reverse.find? fun e => e.1 = (c, a)).map Prod.snd).getD (s.padByte c a) := by
    rw [State.writeScratch_eq]
    exact State.padByte_writes wf ..
  split
  · exact ⟨pads, State.course_writeScratch ..⟩
  · exact ⟨fun c a => (State.padByte_fillLinesOf ..).trans (pads c a), (State.course_fillLinesOf ..).trans (State.course_writeScratch ..)⟩

/-- A line that no later transfer of the copy writes, and none missed, is full. -/
theorem State.scratchStore_fills (s : State) {q : Copy} {p : Piece} {r : List Piece} (pieces : q.pieces = p :: r) (d : List (Nat × Nat)) (bs : List Byte)
    (empties : q.noEmpty = false) {l : Nat × Nat} (hl : l ∈ s.pieceLines p) (inside : l.2 < 4096) (later : l ∉ r.flatMap s.pieceLines)
    (missed : l ∉ q.missed) : (s.scratchStore q p [d] bs).lineFull l = true := by
  have lines : (s.writeScratch d bs).pieceLines = s.pieceLines := funext fun x => State.pieceLines_recored (s.recored_writeScratch d bs) x
  unfold State.scratchStore
  simp only [List.foldl_cons, List.foldl_nil, empties, Bool.false_eq_true, if_false, pieces, List.drop_succ_cons, List.drop_zero, lines]
  refine State.lineFull_fillLinesOf _ _ inside (.inl (List.mem_filter.2 ⟨hl, ?_⟩))
  simp only [Bool.and_eq_true, Bool.not_eq_true', List.contains_eq_mem, decide_eq_false_iff_not]
  exact ⟨later, missed⟩

theorem transfer_scratch {core id : Nat} {s s1 : State} {q : Copy} {p : Piece} {r : List Piece} {bs : List Byte} {d : List (Nat × Nat)}
    (look : Table.look (s.core core).copies id = some q) (page : q.page = none) (pieces : q.pieces = p :: r) (port : q.port = none)
    (sent : q.sent = none) (bar : q.bar = none) (slot : q.slot = none) (still : s.inFlight = 0) (space : p.dspace = 1)
    (read : s.pieceRead core id q p = (.ok bs, s1)) (dest : s1.scratchDest q.mcast p = (.ok [d], s1)) (canonical : s1.canonical = true) :
    Happens (.copyTransfer core id) s fun t => (∀ a, t.byte a = s1.byte a) ∧ s1.PadWrites t (d.zip bs) ∧
      ((Table.look (t.core core).copies id).map Copy.pieces = some r ∧ .copyTransfer core id ∈ t.agenda) ∧
      (q.noEmpty = false → ∀ l ∈ s1.pieceLines p, l.2 < 4096 → l ∉ r.flatMap s1.pieceLines → l ∉ q.missed →
        (t.core l.1).lines.getLsbD l.2 = true) := by
  let u := s1.scratchStore q p [d] bs
  have reads := pieceRead_reads still read
  obtain ⟨pads, course⟩ := s1.scratchStore_writes (fun c => State.canonical_scratch canonical c) q p d bs core id
  have before : s.course core id = some (p :: r, none) := by
    unfold State.course
    rw [look]
    show some (q.pieces, q.sent) = _
    rw [pieces, sent]
  have here : u.course core id = some (p :: r, none) := course.trans (reads.course.trans before)
  have moved : s.movePiece core id q p = (.ok (), u) := by
    have fills : s.fillsBefore core id q = false := by
      unfold State.fillsBefore
      rw [slot]
      simp
    unfold State.movePiece
    simp only [fills, Bool.false_eq_true, if_false, read, space, dest]
    rfl
  obtain ⟨keeps, after, due⟩ := u.dropPiece_leaves here
  have store := keeps.sameStore
  obtain ⟨cs, recored⟩ := s1.recored_scratchStore q p d bs
  have waves (v : Nat) : u.wave? v = s1.wave? v := (congrArg (fun t : State => t.wave? v) recored).trans rfl
  refine ⟨_, copyTransfer_moves look page pieces port sent bar (by rw [space]; decide) moved here, fun v l => .of_data (State.lane_data ?_ l),
    fun a => (store.mem a).trans ((congrArg (fun t : State => t.byte a) recored).trans rfl), fun c a => (store.scratch c a).trans (pads c a), ⟨rest_of_course after, due⟩,
    fun empties l hl inside later missed => ?_⟩
  · refine (congrArg Kept.threads (keeps v 0 0 0)).trans ?_
    show (u.wave? v).map Wave.datas = _
    rw [waves]
    exact reads.datas v
  · rw [store.lines]
    exact s1.scratchStore_fills pieces d bs empties hl inside later missed

/-! ### A copy that retires -/

/-- A core without a copy. -/
def Core.dropCopy (id : Nat) (x : Core) : Core := { x with copies := Table.del x.copies id }

theorem transfer_retires {core id : Nat} {s : State} {q : Copy} (look : Table.look (s.core core).copies id = some q) (page : q.page = none)
    (pieces : q.pieces = []) (port : q.port = none) (node : q.node = none) :
    Happens (.copyTransfer core id) s fun t => s.SameStore t ∧ Table.look (t.core core).copies id = none := by
  let a := s.sample core 2 ((s.core core).clk - q.issued)
  let b := a.modCore core (Core.dropCopy id)
  have run : exec (.copyTransfer core id) s = .next (b.dirDrop fun x => x = .copy core id) := by
    show execCopyTransfer core id s = _
    unfold execCopyTransfer
    simp only [look, page, pieces]
    unfold State.endCopy
    simp only [port]
    unfold State.retireCopy
    simp only [node]
    rfl
  have keeps : s.Keeps (b.dirDrop fun x => x = .copy core id) := fun v c k h => by
    refine (State.kept_dirDrop b _).trans ?_
    exact (State.kept_modCore (f := Core.dropCopy id) (fun _ => rfl) fun _ => rfl).trans (State.kept_sample ..)
  refine happens_of_keeps run keeps fun store => ⟨store, ?_⟩
  refine (State.dirDrop_eq (o := fun s => Table.look (s.core core).copies id) (fun _ _ => rfl) (fun s e => by unfold State.postOnce; split <;> rfl)
    (fun _ _ _ => rfl) b _).trans ?_
  show Table.look ((a.modCore core (Core.dropCopy id)).core core).copies id = none
  rw [State.core_modCore, if_pos rfl]
  exact Table.look_del ..

/-! ### Frames (17 R359) -/

/-- A queue of frames with one more at its end. -/
def Chip.joinFrame (port : Nat) (frames : List (List Byte)) (x : Chip) : Chip := { x with ethRx := Table.put x.ethRx port frames }

/-- A frame dropped and counted. -/
def Chip.dropFrame (x : Chip) : Chip := { x with ethDropped := x.ethDropped + 1 }

theorem sum_lengths (q : List (List Byte)) : q.foldl (fun m f => m + f.length) 0 = (q.map List.length).sum := by
  rw [List.sum_eq_foldl, List.foldl_map]

theorem frame_joins {port : Nat} {body : List Byte} {s : State} (up : s.portUp port = true)
    (room : ((Table.at (s.chip (chipOfPort port)).ethRx port []).map List.length).sum + body.length ≤ 2 ^ 22) :
    Happens (.ethFrameRx port (body ++ bytesOfNat 4 (crc32 body).toNat)) s fun t => s.SameStore t ∧
      Table.at (t.chip (chipOfPort port)).ethRx port [] = Table.at (s.chip (chipOfPort port)).ethRx port [] ++ [body] := by
  have len : (body ++ bytesOfNat 4 (crc32 body).toNat).length = body.length + 4 := by rw [List.length_append, bytesOfNat_length]
  have four : ¬ body.length + 4 < 4 := by omega
  have small : ¬ 2 ^ 22 < (Table.at (s.chip (chipOfPort port)).ethRx port []).foldl (fun m f => m + f.length) 0 + body.length := by
    rw [sum_lengths]
    omega
  have run : exec (.ethFrameRx port (body ++ bytesOfNat 4 (crc32 body).toNat)) s =
      .next (s.modChip (chipOfPort port) (Chip.joinFrame port (Table.at (s.chip (chipOfPort port)).ethRx port [] ++ [body]))) := by
    show execEthFrameRx port _ s = _
    unfold execEthFrameRx
    simp only [up, len, Nat.add_sub_cancel, List.take_left, List.drop_left, four, small, ne_eq, not_true_eq_false, decide_false, Bool.or_self, Bool.not_true,
      Bool.false_eq_true, if_false]
    rfl
  refine happens_of_keeps run (fun v c k h => State.kept_modChip fun _ => rfl) fun store => ⟨store, ?_⟩
  rw [State.chip_modChip, if_pos rfl]
  exact Table.at_put_same ..

theorem frame_dropped {port : Nat} {body fcs : List Byte} {s : State} (up : s.portUp port = true) (len : fcs.length = 4)
    (bad : fcs ≠ bytesOfNat 4 (crc32 body).toNat) :
    Happens (.ethFrameRx port (body ++ fcs)) s fun t => (t.chip (chipOfPort port)).ethRx = (s.chip (chipOfPort port)).ethRx ∧
      (t.chip (chipOfPort port)).ethDropped = (s.chip (chipOfPort port)).ethDropped + 1 := by
  have run : exec (.ethFrameRx port (body ++ fcs)) s =
      .next ((s.modChip (chipOfPort port) Chip.dropFrame).note (chipOfPort port) 0x359 [port]) := by
    show execEthFrameRx port _ s = _
    unfold execEthFrameRx
    simp only [up, List.length_append, len, Nat.add_sub_cancel, List.take_left, List.drop_left, bad, ne_eq, not_false_eq_true, decide_true, Bool.or_true,
      Bool.true_or, if_true, Bool.not_true, Bool.false_eq_true, if_false]
    rfl
  refine happens_of_keeps run (fun v c k h => (State.kept_note ..).trans (State.kept_modChip fun _ => rfl)) fun _ => ?_
  unfold State.note
  rw [State.chip_modChip, if_pos rfl, State.chip_modChip, if_pos rfl]
  exact ⟨rfl, rfl⟩

end Sys2Proof.Machine
end

section
/-! A transfer moves its bytes into memory (13 R275). Serves O37. -/

-- One theorem at a time: many at once ask for more threads than the checker has memory for.
set_option Elab.async false

namespace Sys2Proof.Machine

variable {v c k h : Nat}

/-! ### What the write leaves -/

theorem State.tagFails_modChip {s : State} {i : Nat} {f : Chip → Chip} (hr : ∀ x, (f x).repl = x.repl) (hk : ∀ x, (f x).keys = x.keys) (a b : Nat) :
    (s.modChip i f).tagFails a b = s.tagFails a b := by
  have tag (d : Nat) : (s.modChip i f).bufTag d b = s.bufTag d b := by
    unfold State.bufTag State.repl
    rw [State.chip_modChip]
    split
    · next e => rw [hr, hk, e]
    · rfl
  unfold State.tagFails
  rw [tag]
  rfl

/-- Another chip's copy of a host line gone. -/
theorem State.ownLine_beside (d n : Nat) (s : State) (j core id a b : Nat) :
    (s.ownLine d n j).course core id = s.course core id ∧ (s.ownLine d n j).tagFails a b = s.tagFails a b := by
  unfold State.ownLine
  split
  · exact ⟨rfl, State.tagFails_modChip (f := fun x => { x with hostLines := Table.del x.hostLines n }) (fun _ => rfl) (fun _ => rfl) a b⟩
  · exact ⟨rfl, rfl⟩

theorem State.dirtyLine_beside (s : State) (d n core id a b : Nat) :
    (s.dirtyLine d n).course core id = s.course core id ∧ (s.dirtyLine d n).tagFails a b = s.tagFails a b := by
  unfold State.dirtyLine
  refine ⟨?_, (State.tagFails_modChip (f := fun x => { x with hostLines := Table.put x.hostLines n .m }) (fun _ => rfl) (fun _ => rfl) a b).trans ?_⟩
  · split <;> rfl
  · split <;> rfl

/-- Taking a host line for itself leaves the cores and the tags. -/
theorem State.hostOwn_beside {s : State} {i n : Nat} (takes : s.takesLine i n = true) (core id a b : Nat) :
    (s.hostOwn i n).course core id = s.course core id ∧ (s.hostOwn i n).tagFails a b = s.tagFails a b := by
  have first := foldl_eq (o := fun s => s.course core id) (g := State.ownLine (s.hostCache i) n) (List.range 8) s
    fun u j _ => (u.ownLine_beside _ n j core id a b).1
  have second := foldl_eq (o := fun s => s.tagFails a b) (g := State.ownLine (s.hostCache i) n) (List.range 8) s
    fun u j _ => (u.ownLine_beside _ n j core id a b).2
  rw [State.hostOwn_eq takes]
  exact ⟨(State.dirtyLine_beside _ _ _ core id a b).1.trans first, (State.dirtyLine_beside _ _ _ core id a b).2.trans second⟩

theorem State.course_stored {s : State} {buf : Nat} {cs : Bytes} (pass : s.tagsPass (some buf) cs) (i core id : Nat) :
    ((s.homeStore (some i) (some buf) cs).ringWrites cs).course core id = s.course core id := by
  refine (State.ringWrites_eq (o := fun s => s.course core id) (fun _ _ => rfl) _ cs).trans ?_
  refine (State.homeStore_eq (o := fun s => s.course core id) (fun s e => by unfold State.postOnce; split <;> rfl) (fun _ _ => rfl)
    (fun s i m => State.course_modCore fun _ => rfl) (fun s w l => by unfold State.fireWave State.postOnce; split <;> rfl) s _ _ cs).trans ?_
  exact State.tagged_eq (o := fun s => s.course core id) (fun _ _ _ _ => rfl) pass

/-! ### The copy's own records -/

/-- A copy that has written where other chips read. -/
def Copy.share (q : Copy) : Copy := { q with shared := true }

/-- A graph's signature with the cells of a write. -/
def Core.signGraph (g : Nat) (m : BitVec 512) (x : Core) : Core := { x with graphs := Table.modify x.graphs g fun q => { q with sig := q.sig ||| m } }

/-- The copy marked, and the host line taken. -/
def State.copyClaims (s : State) (core id : Nat) (q : Part) : State :=
  let s := if q.leaf.getLsbD 63 then s.modCore core (Core.mapCopy id Copy.share) else s
  if isHostAddr q.pa then s.hostOwn (chipOfCore core) (q.pa / 64) else s

/-- The graph of the copy signed, and the region left. -/
def State.copyEnds (s : State) (core id : Nat) (x : Copy) (q : Part) (cs : Bytes) : State :=
  let s := match x.node with
    | none => s
    | some (g, _) => s.modCore core (Core.signGraph g (sigOfCells cs))
  if isHostAddr q.pa then s else s.dirDone (regionOf q.pa) (.copy core id)

theorem State.copyStore_eq (s : State) (core id : Nat) {x : Copy} {q : Part} (bs : List Byte) (bar : x.bar = none) (near : q.repl = false) :
    s.copyStore core id x q bs = (((s.copyClaims core id q).homeStore (some core) (some (leafBuf q.leaf)) (cellsAt q.pa bs)).ringWrites
      (cellsAt q.pa bs)).copyEnds core id x q (cellsAt q.pa bs) := by
  unfold State.copyStore
  simp only [near, Bool.false_eq_true, if_false]
  rw [State.barsOf_none _ bar, List.foldl_nil]
  rfl

theorem State.copyClaims_leaves {s : State} {core id : Nat} {q : Part}
    (takes : isHostAddr q.pa = true → s.takesLine (chipOfCore core) (q.pa / 64) = true) :
    (s.copyClaims core id q).kept v c k h = s.kept v c k h ∧ (s.copyClaims core id q).course core id = s.course core id ∧
      ∀ a b, (s.copyClaims core id q).tagFails a b = s.tagFails a b := by
  have marked : (if q.leaf.getLsbD 63 then s.modCore core (Core.mapCopy id Copy.share) else s).kept v c k h = s.kept v c k h ∧
      (if q.leaf.getLsbD 63 then s.modCore core (Core.mapCopy id Copy.share) else s).course core id = s.course core id ∧
      (∀ a b, (if q.leaf.getLsbD 63 then s.modCore core (Core.mapCopy id Copy.share) else s).tagFails a b = s.tagFails a b) ∧
      (∀ i n, (if q.leaf.getLsbD 63 then s.modCore core (Core.mapCopy id Copy.share) else s).takesLine i n = s.takesLine i n) := by
    split
    · exact ⟨State.kept_modCore (fun _ => rfl) fun _ => rfl, State.course_mapCopy_same fun _ => rfl, fun _ _ => rfl, fun _ _ => rfl⟩
    · exact ⟨rfl, rfl, fun _ _ => rfl, fun _ _ => rfl⟩
  obtain ⟨kept, course, tags, lines⟩ := marked
  unfold State.copyClaims
  simp only
  split
  · next host =>
    have takes' := (lines (chipOfCore core) (q.pa / 64)).trans (takes host)
    exact ⟨(State.hostOwn_leaves takes').1.trans kept, (State.hostOwn_beside takes' core id 0 0).1.trans course,
      fun a b => (State.hostOwn_beside takes' core id a b).2.trans (tags a b)⟩
  · exact ⟨kept, course, tags⟩

theorem State.copyEnds_leaves (s : State) (core id : Nat) (x : Copy) (q : Part) (cs : Bytes) :
    (s.copyEnds core id x q cs).kept v c k h = s.kept v c k h ∧ (s.copyEnds core id x q cs).course core id = s.course core id := by
  have signed : (match x.node with
      | none => s
      | some (g, _) => s.modCore core (Core.signGraph g (sigOfCells cs))).kept v c k h = s.kept v c k h ∧
      (match x.node with
      | none => s
      | some (g, _) => s.modCore core (Core.signGraph g (sigOfCells cs))).course core id = s.course core id := by
    split
    · exact ⟨rfl, rfl⟩
    · exact ⟨State.kept_modCore (fun _ => rfl) fun _ => rfl, State.course_modCore fun _ => rfl⟩
  unfold State.copyEnds
  simp only
  generalize (match x.node with
    | none => s
    | some (g, _) => s.modCore core (Core.signGraph g (sigOfCells cs))) = u at signed ⊢
  split
  · exact signed
  · exact ⟨(State.kept_dirDone ..).trans signed.1, (State.dirDone_eq (o := fun s => s.course core id) (fun _ _ => rfl)
      (fun s e => by unfold State.postOnce; split <;> rfl) (fun _ _ _ => rfl) u _ _).trans signed.2⟩

/-- Bytes stored by a transfer: memory, and the copy's course. -/
theorem State.copyStore_leaves {s : State} {core id : Nat} {x : Copy} {q : Part} {bs : List Byte} (bar : x.bar = none) (near : q.repl = false)
    (takes : isHostAddr q.pa = true → s.takesLine (chipOfCore core) (q.pa / 64) = true)
    (pass : s.tagsPass (some (leafBuf q.leaf)) (cellsAt q.pa bs)) :
    (s.copyStore core id x q bs).kept v c k h = { s.kept v c k h with mem := Memory.writeBytes s.mem q.pa bs } ∧
      (s.copyStore core id x q bs).course core id = s.course core id := by
  obtain ⟨k1, c1, tags⟩ := State.copyClaims_leaves (v := v) (c := c) (k := k) (h := h) (id := id) takes
  have pass' : (s.copyClaims core id q).tagsPass (some (leafBuf q.leaf)) (cellsAt q.pa bs) := fun b hb e he far => (tags _ _).trans (pass b hb e he far)
  have mem : (s.copyClaims core id q).mem = s.mem := congrArg Kept.mem k1
  obtain ⟨k2, -⟩ := State.performs_store (v := v) (c := c) (k := k) (h := h) pass' core
  rw [State.copyStore_eq s core id bs bar near]
  obtain ⟨k3, c3⟩ := State.copyEnds_leaves (v := v) (c := c) (k := k) (h := h)
    (((s.copyClaims core id q).homeStore (some core) (some (leafBuf q.leaf)) (cellsAt q.pa bs)).ringWrites (cellsAt q.pa bs)) core id x q (cellsAt q.pa bs)
  refine ⟨k3.trans (k2.trans ?_), c3.trans ((State.course_stored pass' core core id).trans c1)⟩
  rw [k1, mem, Memory.writeCells_cellsAt]

/-! ### The clause -/

theorem mem_cellsAt {a : Nat} {bs : List Byte} {e : Nat × Byte} (h : e ∈ cellsAt a bs) : ∃ i < bs.length, e.1 = a + i := by
  obtain ⟨b, hb, rfl⟩ := List.mem_map.1 h
  refine ⟨b.2, ?_, rfl⟩
  have := List.snd_lt_of_mem_zipIdx hb
  rwa [Nat.add_zero] at this

theorem transfer_memory {core id : Nat} {s s1 s2 : State} {x : Copy} {p : Piece} {r : List Piece} {bs : List Byte} {q : Part}
    (look : Table.look (s.core core).copies id = some x) (page : x.page = none) (pieces : x.pieces = p :: r) (port : x.port = none)
    (sent : x.sent = none) (bar : x.bar = none) (slot : x.slot = none) (still : s.inFlight = 0) (space : p.dspace = 0)
    (read : s.pieceRead core id x p = (.ok bs, s1)) (dest : s1.copyDest core id x p = (.ok q, s2)) (near : q.repl = false)
    (takes : isHostAddr q.pa = true → s2.takesLine (chipOfCore core) (q.pa / 64) = true) (canonical : s2.canonical = true) (len : bs.length = q.len)
    (tags : ((blocksOf ((List.range q.len).map fun i => (q.pa + i, 0))).all fun b => s2.tagFails (64 * b) (leafBuf q.leaf) = false) = true) :
    Happens (.copyTransfer core id) s fun t => (∀ c a, t.padByte c a = s2.padByte c a) ∧
      ((Table.look (t.core core).copies id).map Copy.pieces = some r ∧ .copyTransfer core id ∈ t.agenda) ∧
      ∀ a, t.byte a = if q.pa ≤ a ∧ a < q.pa + q.len then bs.getD (a - q.pa) 0 else s2.byte a := by
  have first := pieceRead_reads still read
  have reads := first.trans (copyDest_reads first.still dest)
  have pass : s2.tagsPass (some (leafBuf q.leaf)) (cellsAt q.pa bs) := by
    intro b hb e he _
    cases hb
    obtain ⟨i, hi, place⟩ := mem_cellsAt he
    have block := List.all_eq_true.1 tags (e.1 / 64) (mem_blocksOf.2 ⟨(q.pa + i, 0), List.mem_map.2 ⟨i, List.mem_range.2 (len ▸ hi), rfl⟩, by rw [place]⟩)
    rw [Nat.mul_comm]
    exact of_decide_eq_true block
  have stores (v c k h : Nat) := State.copyStore_leaves (v := v) (c := c) (k := k) (h := h) (core := core) (id := id) bar near takes pass
  let u := s2.copyStore core id x q bs
  have before : s.course core id = some (p :: r, none) := by
    unfold State.course
    rw [look]
    show some (x.pieces, x.sent) = _
    rw [pieces, sent]
  have here : u.course core id = some (p :: r, none) := (stores 0 0 0 0).2.trans (reads.course.trans before)
  have moved : s.movePiece core id x p = (.ok (), u) := by
    have fills : s.fillsBefore core id x = false := by
      unfold State.fillsBefore
      rw [slot]
      simp
    unfold State.movePiece
    simp only [fills, Bool.false_eq_true, if_false, read, space, dest]
    rfl
  obtain ⟨keeps, after, due⟩ := u.dropPiece_leaves here
  have final (v c k h : Nat) : (u.dropPiece core id true).kept v c k h = { s2.kept v c k h with mem := Memory.writeBytes s2.mem q.pa bs } :=
    (keeps v c k h).trans (stores v c k h).1
  refine ⟨_, copyTransfer_moves look page pieces port sent bar (by rw [space]; decide) moved here, fun v l => .of_data (State.lane_data ?_ l),
    fun c a => congrArg (fun o : Kept => Memory.read o.scratch a) (final 0 c 0 0), ⟨rest_of_course after, due⟩, fun a => ?_⟩
  · exact (congrArg Kept.threads (final v 0 0 0)).trans (reads.datas v)
  · refine (congrArg (fun o : Kept => Memory.read o.mem a) (final 0 0 0 0)).trans ?_
    rw [← len]
    exact Memory.read_writeBytes (State.canonical_mem canonical) ..

end Sys2Proof.Machine
end

section
/-! The kick register starts the next record's copy (13 R282), and `CopiesProceed`. Serves O37. -/

-- One theorem at a time: many at once ask for more threads than the checker has memory for.
set_option Elab.async false

namespace Sys2Proof.Machine

/-! ### A range cut into transfers -/

/-- The runs of a range cover it, byte by byte. -/
theorem cutRun_covers (fuel : Nat) (a b : Int) (n : Nat) (enough : n < fuel) :
    ((cutRun fuel 64 a b n).map fun r => r.2.2).sum = n ∧
      ∀ i < n, ∃ r ∈ cutRun fuel 64 a b n, ∃ j < r.2.2, r.1 + j = a + i ∧ r.2.1 + j = b + i := by
  induction fuel generalizing a b n with
  | zero => omega
  | succ fuel ih =>
    unfold cutRun
    by_cases none : n = 0
    · rw [if_pos none]
      exact ⟨none.symm, fun i hi => absurd hi (by omega)⟩
    · rw [if_neg none]
      have below : (b % (64 : Nat)).toNat < 64 := by omega
      generalize hm : min n (64 - (b % (64 : Nat)).toNat) = m
      obtain ⟨sum, each⟩ := ih (a + m) (b + m) (n - m) (by omega)
      refine ⟨?_, fun i hi => ?_⟩
      · rw [List.map_cons, List.sum_cons, sum]
        show m + (n - m) = n
        omega
      · by_cases here : i < m
        · exact ⟨(a, b, m), List.mem_cons_self, i, here, rfl, rfl⟩
        · obtain ⟨r, hr, j, hj, src, dst⟩ := each (i - m) (by omega)
          exact ⟨r, List.mem_cons_of_mem _ hr, j, hj, by omega, by omega⟩

theorem spaceSize_dvd (space : Nat) (x y : Int) (h : x = y) : spaceSize space ∣ (wrapAddr space x : Int) - y := by
  subst h
  have wrap : (wrapAddr space x : Int) = x % spaceSize space := by
    unfold wrapAddr spaceSize
    split
    · exact Int.toNat_of_nonneg (Int.emod_nonneg _ (by decide))
    · exact Int.toNat_of_nonneg (Int.emod_nonneg _ (by decide))
  rw [wrap]
  exact Int.dvd_sub_self_of_emod_eq rfl

/-- The transfers of a range move it. -/
theorem rangePieces_moves {x : Copy} {ss src ds dst n idx : Nat} {rcv : List Nat} (h : x.pieces = rangePieces ss src ds dst n rcv idx) :
    (x.pieces.map Piece.len).sum = n ∧ x.Moves ss ds src dst n := by
  obtain ⟨sum, each⟩ := cutRun_covers (n + 1) src dst n (Nat.lt_succ_self n)
  refine ⟨?_, fun i hi => ?_⟩
  · unfold rangePieces at h
    rw [h, List.map_map]
    exact sum
  · obtain ⟨r, hr, j, hj, srcAt, dstAt⟩ := each i hi
    have mem : ({ sspace := ss, src := wrapAddr ss r.1, dspace := ds, dst := wrapAddr ds r.2.1, rcv, len := r.2.2, idx } : Piece) ∈ x.pieces := by
      rw [h]
      exact List.mem_map.2 ⟨r, hr, rfl⟩
    refine ⟨_, mem, rfl, rfl, j, hj, ?_, ?_⟩
    · have := spaceSize_dvd ss r.1 (src + i - j) (by omega)
      show spaceSize ss ∣ ((wrapAddr ss r.1 : Nat) + j : Int) - (src + i)
      rwa [show ((wrapAddr ss r.1 : Nat) + j : Int) - (src + i) = (wrapAddr ss r.1 : Int) - (src + i - j) by omega]
    · have := spaceSize_dvd ds r.2.1 (dst + i - j) (by omega)
      show spaceSize ds ∣ ((wrapAddr ds r.2.1 : Nat) + j : Int) - (dst + i)
      rwa [show ((wrapAddr ds r.2.1 : Nat) + j : Int) - (dst + i) = (wrapAddr ds r.2.1 : Int) - (dst + i - j) by omega]

theorem kindSpaces_eq {k : Nat} (h : k < 4) : kindSpaces k = (if k = 0 ∨ k = 2 then 0 else 1, if k = 1 ∨ k = 2 then 0 else 1) :=
  match k, h with
  | 0, _ => rfl
  | 1, _ => rfl
  | 2, _ => rfl
  | 3, _ => rfl

/-! ### A copy started -/

/-- A core with a line set empty; with a copy more; with another kick register. -/
def Core.emptyLine (l : Nat) (x : Core) : Core := { x with lines := x.lines &&& ~~~((1#4096) <<< l) }
def Core.putCopy (id : Nat) (q : Copy) (x : Core) : Core := { x with copies := Table.put x.copies id q }
def Core.setKick (q : Option Kick) (x : Core) : Core := { x with kick := q }

/-- What the engines' own steps leave: waves, memory, chips, and the scratchpads' bytes. -/
structure State.Stays (s t : State) : Prop where
  waves : t.waves = s.waves
  mem : t.mem = s.mem
  chips : ∀ d, t.chip d = s.chip d
  pads : ∀ c a, t.padByte c a = s.padByte c a

theorem State.Stays.trans {s t u : State} (a : s.Stays t) (b : t.Stays u) : s.Stays u :=
  ⟨b.waves.trans a.waves, b.mem.trans a.mem, fun d => (b.chips d).trans (a.chips d), fun c x => (b.pads c x).trans (a.pads c x)⟩

theorem State.stays_modCore (s : State) (i : Nat) {f : Core → Core} (hf : ∀ x, (f x).scratch = x.scratch) : s.Stays (s.modCore i f) :=
  ⟨rfl, rfl, fun _ => rfl, fun _ _ => State.padByte_modCore hf⟩

theorem State.Stays.bytes {s t : State} (h : s.Stays t) : s.SameBytes t ∧ s.SameThreads t := by
  obtain ⟨waves, mem, chips, pads⟩ := h
  refine ⟨⟨fun a => congrArg (fun m => Memory.read m a) mem, fun c a => ?_, pads⟩, fun v l => .of_data (State.lane_data ?_ l)⟩
  · unfold State.replByte State.repl
    rw [chips]
  · unfold State.wave?
    rw [waves]

/-- The lines that a copy writes set empty. -/
def State.emptyLines (s : State) (q : Copy) : State :=
  if q.noEmpty then s else ((q.pieces.flatMap s.pieceLines).eraseDups).foldl (fun s l => s.modCore l.1 (Core.emptyLine l.2)) s

theorem State.startCopy_eq (s : State) (core : Nat) (q : Copy) : s.startCopy core q =
    (({ (s.emptyLines q).modCore core (Core.putCopy s.serial q) with serial := s.serial + 1 } : State).count core 133 1).post (.copyTransfer core s.serial) :=
  rfl

theorem State.startCopy_starts (s : State) (core : Nat) (q : Copy) : s.Stays (s.startCopy core q) ∧
    Table.look ((s.startCopy core q).core core).copies s.serial = some q ∧ .copyTransfer core s.serial ∈ (s.startCopy core q).agenda := by
  have empties : s.Stays (s.emptyLines q) := by
    unfold State.emptyLines
    split
    · exact ⟨rfl, rfl, fun _ => rfl, fun _ _ => rfl⟩
    · exact foldl_keeps (P := fun t => s.Stays t) _ s (fun t l _ h => h.trans (t.stays_modCore l.1 (f := Core.emptyLine l.2) fun _ => rfl))
        ⟨rfl, rfl, fun _ => rfl, fun _ _ => rfl⟩
  rw [State.startCopy_eq]
  refine ⟨?_, ?_, List.mem_append_right _ (List.mem_singleton.2 rfl)⟩
  · have put := empties.trans ((s.emptyLines q).stays_modCore core (f := Core.putCopy s.serial q) fun _ => rfl)
    have serial : s.Stays { (s.emptyLines q).modCore core (Core.putCopy s.serial q) with serial := s.serial + 1 } :=
      ⟨put.waves, put.mem, put.chips, put.pads⟩
    have counted := serial.trans (State.stays_modCore _ core (f := fun x => x.addPerf 133 1) fun x => (x.addPerf_data 133 1).1)
    exact ⟨counted.waves, counted.mem, counted.chips, counted.pads⟩
  · show Table.look ((((s.emptyLines q).modCore core (Core.putCopy s.serial q)).modCore core fun x => x.addPerf 133 1).core core).copies s.serial = some q
    rw [State.core_modCore, if_pos rfl, State.core_modCore, if_pos rfl]
    exact Table.look_put_same ..

/-! ### A record -/

/-- The copy of a record without fault. -/
def Copy.ofRecord (x : Copy) (d idx : Nat) : Copy :=
  { x with bar := none, noEmpty := bit (dfield d 1 8) 0, num := idx
           pieces := rangePieces (kindSpaces (dfield d 0 8)).1 (dfield d 8 64) (kindSpaces (dfield d 0 8)).2 (dfield d 0x10 64) (dfield d 4 32) [x.wg] idx }

theorem startRecord_starts {s : State} {core : Nat} {x : Copy} {d idx : Nat} (kind : dfield d 0 8 < 4) (len : dfield d 4 32 ≤ 65536)
    (flags : dfield d 1 8 < 2) (zero : dfield d 0x1C 32 = 0) (bar : dfield d 0x18 32 = 2 ^ 32 - 1) :
    s.startRecord core x d idx = s.startCopy core (x.ofRecord d idx) := by
  have fault : recordFault d = none := by
    unfold recordFault
    rw [if_neg (by omega), if_neg (by omega), if_neg]
    simp only [zero, ne_eq, not_true_eq_false, decide_false, Bool.or_false, decide_eq_true_eq, not_not]
    omega
  have none : barField (dfield d 0x18 32) = none := by
    rw [bar]
    rfl
  unfold State.startRecord
  simp only [fault, none]
  rfl

theorem kick_starts {core : Nat} {s : State} {q : Kick} {x : Workgroup} {g : Gang} {cs : List (Nat × Nat)} {d : Nat}
    (kick : (s.core core).kick = some q) (party : s.party q.wg = some (x, g)) (inside : s.scratchBytes g x (q.off + 32 * q.next) 32 = some cs)
    (room : s.copyRoom core = true) (bound : s.inT cs = false) (full : (scratchLines cs).all s.lineFull = true)
    (hd : natOfBytes (cs.map fun b => s.padByte b.1 b.2) = d) (kind : dfield d 0 8 < 4) (len : dfield d 4 32 ≤ 65536)
    (flags : dfield d 1 8 < 2) (zero : dfield d 0x1C 32 = 0) (bar : dfield d 0x18 32 = 2 ^ 32 - 1) :
    Happens (.kickRecordStart core) s fun t => s.SameBytes t ∧ .copyTransfer core s.serial ∈ t.agenda ∧
      ((t.core core).kick.map fun y => y.next) = (if q.next + 1 = q.n then none else some (q.next + 1)) ∧
      ∃ c, Table.look (t.core core).copies s.serial = some c ∧ c.bar = none ∧ c.seq = q.seq ∧ c.wave = q.wave ∧
        (c.pieces.map Piece.len).sum = dfield d 4 32 ∧
        c.Moves (if dfield d 0 8 = 0 ∨ dfield d 0 8 = 2 then 0 else 1) (if dfield d 0 8 = 1 ∨ dfield d 0 8 = 2 then 0 else 1)
          (dfield d 8 64) (dfield d 0x10 64) (dfield d 4 32) := by
  let c := (q.copy g (s.core core).clk).ofRecord d q.next
  let u := s.startCopy core c
  let next : Option Kick := if q.next + 1 = q.n then none else some { q with next := q.next + 1 }
  let t := u.modCore core (Core.setKick next)
  obtain ⟨stays, copy, due⟩ := s.startCopy_starts core c
  have stays' : s.Stays t := stays.trans (u.stays_modCore core (f := Core.setKick next) fun _ => rfl)
  have core' : t.core core = Core.setKick next (u.core core) := by
    show (u.modCore core (Core.setKick next)).core core = _
    rw [State.core_modCore, if_pos rfl]
  have run : exec (.kickRecordStart core) s = .next (if q.next + 1 = q.n then t else t.post (.kickRecordStart core)) := by
    have record : natOfBytes (s.readScratch cs) = d := hd
    show execKickRecordStart core s = _
    unfold execKickRecordStart
    simp only [kick, party, inside, room, bound, full, Bool.not_true, Bool.false_eq_true, if_false, record, startRecord_starts kind len flags zero bar]
    by_cases last : q.next + 1 = q.n
    · rw [if_pos last, if_pos last]
      show Host.Outcome.next (u.modCore core (Core.setKick none)) = .next (u.modCore core (Core.setKick next))
      rw [show next = none from if_pos last]
    · rw [if_neg last, if_neg last]
      show Host.Outcome.next ((u.modCore core (Core.setKick (some { q with next := q.next + 1 }))).post _) = .next ((u.modCore core (Core.setKick next)).post _)
      rw [show next = some { q with next := q.next + 1 } from if_neg last]
  obtain ⟨sum, moves⟩ := rangePieces_moves (x := c) rfl
  have answers (v : State) (hv : v = t ∨ v = t.post (.kickRecordStart core)) : s.SameThreads v ∧ s.SameBytes v ∧ .copyTransfer core s.serial ∈ v.agenda ∧
      v.core core = t.core core := by
    rcases hv with rfl | rfl
    · exact ⟨stays'.bytes.2, stays'.bytes.1, due, rfl⟩
    · have posted : s.Stays (t.post (.kickRecordStart core)) := ⟨stays'.waves, stays'.mem, stays'.chips, stays'.pads⟩
      exact ⟨posted.bytes.2, posted.bytes.1, List.mem_append_left _ due, rfl⟩
  obtain ⟨threads, bytes, events, same⟩ := answers (if q.next + 1 = q.n then t else t.post (.kickRecordStart core)) (ite_eq_or_eq ..)
  refine ⟨_, run, threads, bytes, events, ?_, c, ?_, rfl, rfl, rfl, sum, ?_⟩
  · rw [same, core']
    show next.map (fun y => y.next) = _
    by_cases last : q.next + 1 = q.n
    · rw [if_pos last, show next = none from if_pos last]
      rfl
    · rw [if_neg last, show next = some { q with next := q.next + 1 } from if_neg last]
      rfl
  · rw [same, core']
    exact copy
  · rw [kindSpaces_eq kind] at moves
    exact moves

/-- Settles O37: a transfer's reading and its destination's translation leave the registers and the copy's course, its bytes go to the scratchpad or to
memory, and what is left of it is due; a range is cut into transfers that cover it. -/
theorem copiesProceed : Obligations.CopiesProceed := by
  unfold Obligations.CopiesProceed
  refine ⟨?_, ?_, ?_, ?_, ?_, ?_⟩
  · rintro core id s q p r w bs s1 d ⟨look, page, pieces, port, sent, bar, slot, -, still⟩ space - read dest canonical
    exact transfer_scratch look page pieces port sent bar slot still space read dest canonical
  · rintro core id s x p r bs s1 q s2 ⟨look, page, pieces, port, sent, bar, slot, -, still⟩ space read dest near takes canonical len tags
    exact transfer_memory look page pieces port sent bar slot still space read dest near takes canonical len tags
  · intro core id s q look page pieces port node
    exact transfer_retires look page pieces port node
  · intro core s q x g cs kick party inside room bound full d field kind len flags zero bar
    exact kick_starts kick party inside room bound full rfl kind len flags zero bar
  · intro port body s up q room
    exact frame_joins up room
  · intro port body fcs s up len bad
    exact frame_dropped up len bad

end Sys2Proof.Machine
end
